-- ==== Sys2Proof/Word.lean ====
section
/-! DEFINITION. The word types of the device and the shape of a sparse table.
Every structure the device reads or writes is little-endian (R4); addresses, counts and indices are plain numbers. -/

namespace Sys2Proof

/-- One byte. -/
abbrev Byte := BitVec 8
/-- A run of bytes, lowest address first. -/
abbrev Bytes := List Byte
/-- A 32-bit register word (R495); also the bits of an FP32 value (R136). -/
abbrev Word := BitVec 32
/-- An 8-bit epoch or generation: it counts modulo 256 (R19, R51). -/
abbrev Epoch := BitVec 8
/-- A sparse table: pairs of a key and its entry, keys rising. -/
abbrev Table (α : Type) := List (Nat × α)

end Sys2Proof
end

