-- ==== Sys2Proof/Syntax.lean ====
section
/-! DEFINITION. The commands the block takes, one constructor per row of the opcode table. No row gives bits. -/

namespace Sys2Proof

/-- What goes before each command: the DEVICE_TIME at which it comes, and what the outside has done to the memory the
device reads and writes over its links since the last command (log entry 2). Memory of space 0 is the PCIe memory of the
host port; space 1 + q is the memory of the requester of queue pair q. -/
structure Env where
  /-- DEVICE_TIME in ns at which the command comes; an earlier time than the device's leaves the device's. -/
  t : Nat := 0
  /-- Bytes written by the outside: address key and bytes. -/
  mem : List (Nat × Bytes) := []
  /-- 64-byte lines that now read as poisoned. -/
  poisonSet : List Nat := []
  /-- 64-byte lines that no longer read as poisoned. -/
  poisonClr : List Nat := []
  /-- Ranges, first and past-the-end key, whose reads now end in Unsupported Request, Completer Abort or timeout. -/
  failSet : List (Nat × Nat) := []
  /-- Ranges of that kind that answer again. -/
  failClr : List (Nat × Nat) := []
  deriving DecidableEq, Repr

/-- What an uncorrectable word holds (R405, R409, R411): lines of a leaf's slot in HBM with line 0 its header, payload lines
of a leaf in a Spire's SRAM, its shadow, staged values of tokens, its placement record, its summary block, a root-index bucket,
a unit of the Canopy shadow, a record of R411 by kind and key, records of the directory by leaf and by sequence, or the
descriptor of a request; `poisonRead` is a read of a codeword that was written poisoned (R406). -/
inductive ScrubHit
  | none
  | leaf (i : Nat) (lines : List Nat)
  | spire (n i : Nat) (lines : List Nat)
  | shadow (i : Nat)
  | staged (i : Nat) (toks : List Nat)
  | placement (i : Nat)
  | summary (i : Nat)
  | rootBucket (b : Nat)
  | canopyShadow (bank slot : Nat)
  | record (kind key : Nat)
  | directory (leaves seqs : List Nat)
  | descriptor (rid : Nat)
  | poisonRead
  deriving DecidableEq, Repr

/-- What the LUNs of each flash channel answer at power-on: their ID bytes as a number, or nothing (R290). -/
abbrev Luns := List (List (Option Nat))

/-- The header of a ring frame that a device receives (R388): its source position, its sequence and acknowledgement, the
origin's request identifier, the partition, whether it is a broadcast, and whether its tag failed. -/
structure RingHdr where
  src : Nat := 0
  seq : Nat := 0
  ack : Nat := 0
  num : Nat := 0
  part : Nat := 0
  cast : Bool := false
  bad : Bool := false
  deriving DecidableEq, Repr


/-- The commands of the opcode table, one constructor per row. The first operand of each is the environment `Env`. -/
inductive Instr
  /-- Descriptor opcode 0x00 that does nothing and completes. (R79) -/
  | nop (e : Env) (rid : Nat)
  /-- Descriptor opcode 0x01 that acts as a NOP with the FENCE flag and starts only after every earlier descriptor of its ring has completed. (R79) -/
  | fence (e : Env) (rid : Nat)
  /-- Allocates a new sequence, or reopens a PUBLISHED one, and gives the append lease to the requester. (R37) -/
  | seqOpen (e : Env) (rid : Nat)
  /-- Appends tokens and their keys and values to the open chunks of a sequence; scans them and opens or fills leaves. (R80) -/
  | seqAppend (e : Env) (rid : Nat)
  /-- Publishes the leading sealed chunks up to a count; with release set, ends the lease and drops the tail. (R41) -/
  | seqPublish (e : Env) (rid : Nat)
  /-- Creates a new sequence whose first n chunk records refer to the source's leaves. (R25) -/
  | seqFork (e : Env) (rid : Nat)
  /-- Moves a sequence to RETIRED, removes its index entries and decrements its leaves' ref_counts. (R37) -/
  | seqRetire (e : Env) (rid : Nat)
  /-- Renews the append lease of the holder and returns lease_expiry. (R39) -/
  | seqHeartbeat (e : Env) (rid : Nat)
  /-- Writes one leaf's decoded slot image, or its converted keys and values, to a destination. (R241) -/
  | leafRead (e : Env) (rid : Nat)
  /-- Writes one layer of keys and values for tokens already counted by a SEQ_APPEND with kv_addr 0. (R81) -/
  | leafWrite (e : Env) (rid : Nat)
  /-- Increments a leaf's pin_count, first making a VOLATILE leaf DURABLE. (R31) -/
  | leafPin (e : Env) (rid : Nat)
  /-- Decrements a leaf's pin_count. (R32) -/
  | leafUnpin (e : Env) (rid : Nat)
  /-- Moves a leaf to EVICTING unless it is FILLING or pinned. (R35) -/
  | leafEvict (e : Env) (rid : Nat)
  /-- Moves a leaf's primary copy to a named tier. (R282) -/
  | leafMigrate (e : Env) (rid : Nat)
  /-- Hashes a token buffer chunk by chunk and finds the longest confirmed indexed prefix. (R109) -/
  | prefixLookup (e : Env) (rid : Nat)
  /-- Returns the next match of a search context or rule-match context. (R114) -/
  | prefixStep (e : Env) (rid : Nat)
  /-- Enters the chain hashes of published chunks of a sequence into the root index. (R115) -/
  | prefixInsert (e : Env) (rid : Nat)
  /-- Removes a sequence's root-index entries for a chunk range in descending order. (R116) -/
  | prefixRemove (e : Env) (rid : Nat)
  /-- Computes partial attention of queries over a leaf set on the Spires and writes outputs, maxima and sums. (R185) -/
  | attend (e : Env) (rid : Nat)
  /-- Scores a query against summary rows of a chunk range and writes a leaf list. (R205) -/
  | select (e : Env) (rid : Nat)
  /-- Writes decoded blocks of a leaf set and a map record to a target memory. (R241) -/
  | deliver (e : Env) (rid : Nat)
  /-- Marks a layer start of a beat domain whose source is BEAT_MARK. (R219) -/
  | beatMark (e : Env) (rid : Nat)
  /-- Reads new slot-table entries and makes an arm of a schedule slot pending until its reference. (R234) -/
  | scheduleArm (e : Env) (rid : Nat)
  /-- Makes a disarm of the armed schedule slot pending until its reference. (R235) -/
  | scheduleDisarm (e : Env) (rid : Nat)
  /-- TABLE_LOAD with table_kind 0: loads a shape record into the uncurrent epoch slot of a shape slot. (R29) -/
  | tableLoadShape (e : Env) (rid : Nat)
  /-- TABLE_LOAD with table_kind 1: loads a rule set into the partition's uncurrent rule-set slot. (R121) -/
  | tableLoadRuleSet (e : Env) (rid : Nat)
  /-- TABLE_LOAD with table_kind 2: loads or empties a Schedule Image in a schedule slot. (R228) -/
  | tableLoadScheduleImage (e : Env) (rid : Nat)
  /-- TABLE_LOAD with table_kind 3: loads a flash media profile, formatting blank media. (R315) -/
  | tableLoadMediaProfile (e : Env) (rid : Nat)
  /-- Makes the rule-set slot of the given epoch current. (R122) -/
  | rulesSwitch (e : Env) (rid : Nat)
  /-- Samples leaves, builds a code table and makes it current for one scope. (R168) -/
  | codecTrain (e : Env) (rid : Nat)
  /-- Waits for earlier pool writes to a range to complete and discards buffered lines of it. (R330) -/
  | poolFlush (e : Env) (rid : Nat)
  /-- POOL_LEASE with lease_op 0: acquires an exclusive lease on a pool range at its home. (R332) -/
  | poolLeaseAcquire (e : Env) (rid : Nat)
  /-- POOL_LEASE with lease_op 1: renews a held lease. (R332) -/
  | poolLeaseRenew (e : Env) (rid : Nat)
  /-- POOL_LEASE with lease_op 2: flushes and releases a held lease. (R332) -/
  | poolLeaseRelease (e : Env) (rid : Nat)
  /-- POOL_STAGE with direction 0: writes a snapshot of a sequence's published chunks to a leased shared window. (R339) -/
  | poolStageOut (e : Env) (rid : Nat)
  /-- POOL_STAGE with direction 1: fills an empty open sequence from a snapshot. (R340) -/
  | poolStageIn (e : Env) (rid : Nat)
  /-- Registers a memory region and returns its rkey. (R352) -/
  | mrRegister (e : Env) (rid : Nat)
  /-- Revokes a memory region through the drain fence. (R353) -/
  | mrRevoke (e : Env) (rid : Nat)
  /-- Reads a configuration block and configures a FREE partition. (R477) -/
  | partitionCreate (e : Env) (rid : Nat)
  /-- Moves an ACTIVE partition to DRAINING and starts its drain. (R480) -/
  | partitionTeardown (e : Env) (rid : Nat)
  /-- Makes a configured FREE partition ACTIVE, or holds with WAIT_FREE. (R479) -/
  | partitionEnable (e : Env) (rid : Nat)
  /-- Doorbell write that submits submission ring entries up to a new tail. (R67) -/
  | sqTail (e : Env) (fn page off size val : Nat)
  /-- Doorbell write that returns completion entries to software. (R69) -/
  | cqHead (e : Env) (fn page off size val : Nat)
  /-- The device reserves a completion entry and fetches submitted descriptors from a ring by weighted round robin. (R71) -/
  | descriptorFetch (e : Env) (q n : Nat)
  /-- A read of submission entries ends in error or poison, and its entries complete without effect. (R530) -/
  | submissionReadFail (e : Env) (q n : Nat) (poisoned : Bool)
  /-- A fetched descriptor passes its checks and enters its ordering domain once earlier descriptors allow. (R86) -/
  | descriptorStart (e : Env) (rid : Nat)
  /-- The interrupt-moderation delay after the oldest unsignalled completion expires and the vector is signalled. (R85) -/
  | cqModDelayExpiry (e : Env) (c : Nat)
  /-- Writing ENABLE 1 in HP_SQ_CFG enables a submission ring if its conditions hold. (R63) -/
  | sqEnable (e : Env) (fn q val : Nat)
  /-- Writing ENABLE 0 in HP_SQ_CFG stops fetching; ACTIVE clears when the in-flight count reaches zero. (R64) -/
  | sqDisable (e : Env) (fn q val : Nat)
  /-- A disabled submission ring's in-flight count reaches zero and ACTIVE clears. (R64) -/
  | sqInactive (e : Env) (q : Nat)
  /-- Writing ENABLE 1 in HP_CQ_CFG enables a completion ring and resets its indices. (R65) -/
  | cqEnable (e : Env) (fn c val : Nat)
  /-- Writing ENABLE 0 in HP_CQ_CFG disables a completion ring unless it is in use or owes a completion. (R65) -/
  | cqDisable (e : Env) (fn c val : Nat)
  /-- A PCIe FLR stops a partition's rings and resets their register sets without changing its store. (R61) -/
  | functionLevelReset (e : Env) (fn : Nat)
  /-- Setting or clearing SR-IOV VF Enable makes PF pages of the virtual functions' rings inert or active. (R59) -/
  | vfEnableChange (e : Env) (enable : Bool) (num : Nat)
  /-- A write to a register field with no behaviour of its own, applied by its access code. (R6) -/
  | registerWrite (e : Env) (fn bar off size : Nat) (val stream : Option Nat)
  /-- An append lease expires; the unpublished tail is dropped and the sequence returns to PUBLISHED. (R40) -/
  | leaseExpiry (e : Env) (seq : Nat)
  /-- A RETIRED sequence becomes FREE once all descriptors naming it have completed. (R37) -/
  | sequenceFree (e : Env) (seq : Nat)
  /-- An operation releases its hold on a leaf copy, possibly releasing an old copy or freeing the leaf. (R23) -/
  | holdRelease (e : Env) (owner leaf cid : Nat)
  /-- The seal pipeline of a full chunk finishes and its leaves enter SEALED. (R33) -/
  | chunkSeal (e : Env) (seq chunk : Nat)
  /-- A search or rule-match context unused for 1 s is freed. (R113) -/
  | searchContextExpiry (e : Env) (ctx : Nat)
  /-- At the end of a promotion period, keys whose hits reached HITS move to 1-unit banks. (R100) -/
  | canopyPromote (e : Env)
  /-- The maintenance port restores the holes of a bank marked RESPREAD. (R101) -/
  | canopyRespread (e : Env) (bank : Nat)
  /-- The maintenance port checks unit parity and rewrites failing units from the shadow. (R102) -/
  | canopyParityScan (e : Env) (failing lost : List (Nat × Nat)) (lapUs : Option Nat)
  /-- Writing FLUSH in CANOPY_BANK_CFG clears every entry of a bank. (R119) -/
  | canopyBankFlush (e : Env) (bank : Nat)
  /-- A Spire finishes a unit, starts its assigned unit and is assigned or steals the next. (R256) -/
  | workUnitFinish (e : Env) (spire : Nat)
  /-- At the end of a 2 µs window a Spire that consumed too few lines of keys and values enters the slow state. (R258) -/
  | spireSlowCheck (e : Env) (spire keyLines valueLines : Nat)
  /-- A Spire that has run at stage 0 and at rate for 100 µs stops being slow. (R258) -/
  | spireSlowExit (e : Env) (spire : Nat)
  /-- An array becomes due for calibration by period or temperature change and calibrates when free. (R208) -/
  | lanternCalibrationDue (e : Env) (array temp : Nat)
  /-- A 2 µs calibration fits trims and a band, or fails and leaves the array out of calibration. (R207) -/
  | lanternCalibrationDone (e : Env) (array : Nat)
  /-- An array with no successful calibration within STALE_MS goes out of calibration. (R209) -/
  | lanternStale (e : Env) (array temp : Nat)
  /-- A positive crossing of a BEATn pair is timestamped and accepted as a layer start unless a glitch. (R218) -/
  | beatPinEdge (e : Env) (domain : Nat) (sync : Bool)
  /-- A BEAT ring frame is taken as a layer start of a ring-sourced domain at the master's timestamp. (R398) -/
  | beatFrame (e : Env) (domain time layers : Nat) (sync : Bool)
  /-- No layer start by last plus 2.25 periods puts a LOCKED domain into LOST. (R223) -/
  | beatLostTimeout (e : Env) (domain : Nat)
  /-- A LOST domain synthesises a missing layer start on its frozen period. (R223) -/
  | beatSynthLayer (e : Env) (domain : Nat)
  /-- At its reference a pending arm or disarm replaces entries, arms or stops a slot and completes. (R234) -/
  | scheduleSwitch (e : Env) (part : Nat)
  /-- At an event's issue position an instance reserves a completion entry, reads its slots, holds leaves and fetches. (R237) -/
  | eventIssue (e : Env) (p ev : Nat)
  /-- The device polls a query area's stamp and uses the query once it matches. (R239) -/
  | queryStampPoll (e : Env) (inst k : Nat)
  /-- At the commit point, unfetched or unconsumed leaves are missed and take the miss action. (R245) -/
  | commitPoint (e : Env) (inst : Bool) (id : Nat)
  /-- An instance ends and posts or returns its reserved completion entry. (R240) -/
  | eventCompletion (e : Env) (inst : Nat)
  /-- The tier manager halves heat and saturates age in each placement record once per lap. (R274) -/
  | placementSweepVisit (e : Env) (leaf : Nat)
  /-- Free space below LOW starts relief of tier 0 or 1 until HIGH is reached. (R278) -/
  | backgroundRelief (e : Env) (tier : Nat)
  /-- A queued hot leaf's primary moves to HBM or the pool. (R281) -/
  | promotion (e : Env) (leaf : Nat)
  /-- Dirty quarters of a durable leaf are programmed to flash and their bits cleared at commit. (R267) -/
  | writeBack (e : Env) (leaf : Nat)
  /-- A migration's copy is done and the leaf record switches atomically to the destination. (R283) -/
  | migrationSwitch (e : Env) (leaf : Nat) (fail : Bool)
  /-- The sweep rewrites a stored leaf under the current codec and key epochs. (R169) -/
  | reencodeSweep (e : Env) (leaf : Nat)
  /-- A journal group commits when the MU holding its end record has been programmed and its row closed. (R301) -/
  | journalCommit (e : Env) (group : Nat)
  /-- A flash program completes on its LUN and releases its NAND credit. (R301) -/
  | flashProgramDone (e : Env) (pa : Nat)
  /-- A failed program makes its block bad and re-programs the MU elsewhere. (R309) -/
  | flashProgramFail (e : Env) (pa : Nat)
  /-- A block erase completes and is recorded by a BLOCK record. (R307) -/
  | flashEraseDone (e : Env) (block : Nat) (fail : Bool)
  /-- A flash MU read returns and is decoded by LDPC, the retry ladder or row rebuild. (R311) -/
  | flashReadDone (e : Env) (pa outcome lat words : Nat)
  /-- A read outstanding past SLOW_MULT times the die median is rebuilt from its row. (R312) -/
  | slowReadTimeout (e : Env) (read : Nat × Nat)
  /-- A SLOW die returns to OK after 60 s with no slow read. (R312) -/
  | dieSlowExit (e : Env) (die : Nat)
  /-- A die that stops answering within the profile's maximum time enters FAILED. (R312) -/
  | dieFailed (e : Env) (die : Nat)
  /-- Folding copies the committed MUs of the oldest SLC band into native bands. (R305) -/
  | fold (e : Env)
  /-- Collection relocates the valid MUs of a chosen native band. (R306) -/
  | garbageCollection (e : Env)
  /-- After MUS × 16 journal MUs, a checkpoint is written and the anchor rewritten. (R303) -/
  | checkpoint (e : Env)
  /-- Every 100 ms the die temperature is read for read-threshold selection. (R314) -/
  | dieTemperatureRead (e : Env) (die temp : Nat)
  /-- The device reads the checkpoint and replays the journal to rebuild the durable store. (R302) -/
  | mount (e : Env) (readable : Bool)
  /-- PWR_FAIL_N falling stops new programs, resets native programs, writes a shutdown record and enters flash-safe state. (R319) -/
  | pwrFailFall (e : Env)
  /-- PWR_FAIL_N rising before power loss releases WP_N and resumes flash work. (R319) -/
  | pwrFailRise (e : Env)
  /-- Writing HEALTH_SNAP writes the flash health log to host memory. (R318) -/
  | healthSnap (e : Env)
  /-- Every INTERVAL_US the partition and target credit buckets are refilled by DevLoad. (R327) -/
  | poolBwRefill (e : Env) (loads : List (Nat × Nat × Nat × Nat))
  /-- A Dynamic Capacity Device offers an extent, which is placed and accepted or refused. (R325) -/
  | dcOffer (e : Env) (target len : Nat)
  /-- A Dynamic Capacity Device requests release of an extent, which enters DRAIN. (R335) -/
  | dcReleaseRequest (e : Env) (ext : Nat)
  /-- Writing ADD in POOL_EXT_CTL adds a static extent. (R324) -/
  | poolExtAdd (e : Env) (ext : Nat)
  /-- Writing RELEASE in POOL_EXT_CTL releases an extent through the drain fence. (R335) -/
  | poolExtRelease (e : Env) (ext : Nat)
  /-- A draining extent holds no hold or request and is acknowledged and freed. (R335) -/
  | extentReleased (e : Env) (ext : Nat)
  /-- A lease expires unreleased and the home poisons the range before granting overlap. (R334) -/
  | poolLeaseExpiry (e : Env) (base len : Nat)
  /-- An operation under a lease renews it every lease_ms / 2. (R333) -/
  | poolLeaseAutoRenew (e : Env) (rid : Nat) (ok : Bool)
  /-- A pool target fails; its extents enter FAILED. (R341) -/
  | poolTargetFail (e : Env) (target : Nat) (ext : Option Nat)
  /-- The pool link fails and the pool tier is marked down. (R341) -/
  | poolPortDown (e : Env)
  /-- Writing RESTART in POOL_CTL retrains a down pool port. (R342) -/
  | poolRestart (e : Env)
  /-- NET_QP_CTL LOAD takes a queue pair from RESET to RTS from its context. (R349) -/
  | qpLoad (e : Env) (qp addr : Nat)
  /-- NET_QP_CTL ERROR moves a queue pair to ERROR. (R350) -/
  | qpError (e : Env) (qp : Nat)
  /-- NET_QP_CTL RESET drains a queue pair and returns it to RESET. (R350) -/
  | qpReset (e : Env) (qp : Nat)
  /-- A DRAINING queue pair finishes its started work and enters RESET. (R350) -/
  | qpDrainDone (e : Env) (qp : Nat)
  /-- An inbound SEND is admitted as a QWP request and executed as a descriptor. (R361) -/
  | qwpRequest (e : Env) (qp psn : Nat) (msg : Bytes) (lens : List Nat) (ecn : Nat)
  /-- An inbound RDMA WRITE message is admitted against its region and written in PSN order. (R353) -/
  | rdmaWriteInbound (e : Env) (qp psn rkey addr total : Nat) (data : Bytes) (first last : Bool) (len ecn : Nat)
  /-- An inbound RDMA READ request is admitted and answered from the region. (R353) -/
  | rdmaReadInbound (e : Env) (qp psn rkey addr n len ecn : Nat)
  /-- A packet in the duplicate PSN region is acknowledged without being written or admitted. (R357) -/
  | duplicatePacket (e : Env) (qp psn kind rkey addr n : Nat)
  /-- An inbound packet with the wrong P_Key is dropped and counted. (R348) -/
  | pkeyDrop (e : Env) (qp pkey len ecn : Nat)
  /-- Every 256 ns the partition meter buckets are refilled. (R374) -/
  | meterRefill (e : Env) (p : Nat)
  /-- An acknowledgement for outbound operations is received. (R347) -/
  | ackReceived (e : Env) (qp psn ecn : Nat)
  /-- A NAK for an outbound operation moves the queue pair to ERROR. (R354) -/
  | nakReceived (e : Env) (qp psn : Nat)
  /-- The local ACK timer expires and the queue pair retransmits or enters ERROR when retries are exhausted. (R354) -/
  | ackTimeout (e : Env) (qp : Nat)
  /-- A received CNP lowers the queue pair's rate. (R347) -/
  | cnpReceived (e : Env) (qp : Nat)
  /-- Each 55 µs without a CNP adds AI_MBS to a queue pair's rate. (R347) -/
  | rateIncrease (e : Env) (qp : Nat)
  /-- An Ethernet sub-port gains or loses link. (R346) -/
  | subportLinkChange (e : Env) (port sub : Nat) (up : Bool)
  /-- An egress port can start a frame and the scheduler picks a queue. (R369) -/
  | egressFrameStart (e : Env) (port : Nat)
  /-- At each port refill, shaper credits rise and held configuration writes apply. (R370) -/
  | shaperRefill (e : Env) (port : Nat)
  /-- Every 4,096 ns the bytes held in each egress queue are sampled. (R376) -/
  | queueDepthSample (e : Env) (port : Nat)
  /-- Writing CLEAR in TRAFFIC_STAT_CTL zeroes the maxima of one or all queues. (R376) -/
  | trafficStatClear (e : Env) (port queue : Nat) (all : Bool)
  /-- A write of PART_TRAFFIC_Q moves a partition's traffic to new queues once the old ones hold none. (R372) -/
  | partTrafficQWrite (e : Env) (p val : Nat)
  /-- Writing ENABLE 1 in RING_CFG starts receiver lock and joining. (R384) -/
  | ringEnable (e : Env)
  /-- Receivers lock on the pass-through signal and RING_JOIN is driven high. (R384) -/
  | ringReceiveLock (e : Env) (east west : Bool)
  /-- No port trained within 20 ms after RING_JOIN rose; RING_JOIN goes low and joining retries each second. (R384) -/
  | ringTrainTimeout (e : Env)
  /-- With no master answer within 100 ms, a join frame is sent again or a candidate takes over. (R384) -/
  | joinRetry (e : Env)
  /-- A JOIN frame at the master assigns a position and distributes the member table. (R385) -/
  | join (e : Env) (h : RingHdr) (serial rank : Nat) (fresh leave : Bool) (east : Nat)
  /-- A MEMBERS frame updates a member's copy of the member table. (R386) -/
  | members (e : Env) (h : RingHdr) (body : List Nat)
  /-- The master sends a heartbeat on both ports every 1 ms. (R386) -/
  | heartbeat (e : Env)
  /-- A member receives a master heartbeat, restarting its takeover timer. (R387) -/
  | heartbeatReceived (e : Env) (h : RingHdr)
  /-- A candidate with no heartbeat for 50 ms and a majority becomes master. (R387) -/
  | masterTakeover (e : Env)
  /-- A REQUEST frame delivers a forwarded request to its executor. (R391) -/
  | request (e : Env) (h : RingHdr) (body : List Nat)
  /-- A RESPONSE frame delivers a forwarded request's completion to its origin, which writes its destinations. (R391) -/
  | response (e : Env) (h : RingHdr) (body : List Nat)
  /-- A DATA frame carries destination data of a forwarded request back to the origin. (R391) -/
  | data (e : Env) (h : RingHdr) (body : List Nat)
  /-- An ACK frame acknowledges frames of a source-destination pair. (R390) -/
  | ack (e : Env) (h : RingHdr)
  /-- Unacknowledged frames are sent again after RETX_US, and the destination is marked unreachable after 16 attempts. (R390) -/
  | ringRetransmit (e : Env) (dst : Nat)
  /-- A destination sends an ACK frame within 2 µs when no other frame carries the ack. (R390) -/
  | ringAckTimer (e : Env) (src : Nat)
  /-- A frame for another member is forwarded cut-through toward its destination. (R389) -/
  | ringFrameForward (e : Env) (fromEast : Bool) (dst kind seq ack num part hops len : Nat) (body : List Nat)
  /-- A SHARD frame carries the prepare or commit of a shard-map change. (R394) -/
  | shard (e : Env) (h : RingHdr) (body : List Nat)
  /-- An INDEX frame transfers root-index entries or a partition purge to another member. (R394) -/
  | index (e : Env) (h : RingHdr) (body : List Nat)
  /-- Every new owner has acknowledged its last entry and the master broadcasts the commit. (R394) -/
  | shardTransferDone (e : Env)
  /-- After REASSIGN_MS the master reassigns the buckets of an absent owner. (R395) -/
  | shardReassign (e : Env) (pos : Nat)
  /-- A TIME frame carries the master's DEVICE_TIME or a link-delay exchange; the member slews or steps. (R397) -/
  | time (e : Env) (h : RingHdr) (offset : Option Int) (delays : Option (Nat × Nat))
  /-- The master sends a TIME frame every 1 ms, and each member measures link delay every 10 ms. (R397) -/
  | timeSend (e : Env)
  /-- RING_CTL LEAVE takes the device out of the ring by the drain fence. (R399) -/
  | ringLeave (e : Env)
  /-- RING_CTL COMMIT changes the shard map from staged entries on the master. (R393) -/
  | ringCommit (e : Env)
  /-- RING_CTL FORGET frees an absent member's position on the master. (R385) -/
  | ringForget (e : Env) (pos : Nat)
  /-- RING_CTL REBALANCE recomputes the automatic shard map on the master. (R393) -/
  | ringRebalance (e : Env)
  /-- The scrubber reads codewords and SRAM words, writing back corrections and poisoning uncorrectables. (R417) -/
  | hbmScrub (e : Env) (source unit : Nat) (errs : List (Nat × Nat)) (addr : Nat) (hit : ScrubHit) (lap : Option (Bool × Nat)) (pct : Option Nat)
  /-- An HBM scrub lap running past WARN_H sets STALLED. (R417) -/
  | scrubStalled (e : Env)
  /-- RAS_RETIRE_CTL GO retires an HBM slot, die, Spire, Sapling, Canopy bank or Lantern array. (R413) -/
  | rasRetireGo (e : Env) (kind unit die : Nat)
  /-- RAS_CBT_CTL WRITE_RAW writes a raw codeword from the host buffer. (R414) -/
  | writeRaw (e : Env)
  /-- RAS_CBT_CTL READ_RAW copies a codeword undecoded to the host buffer. (R414) -/
  | readRaw (e : Env)
  /-- Arming RAS_INJECT flips bits in the next word written to the selected memory. (R414) -/
  | rasInjectArm (e : Env) (target unit bits : Nat)
  /-- RAS_BIST_CTL GO runs self-test of one unit or all HBM. (R415) -/
  | rasBistGo (e : Env) (target unit : Nat)
  /-- A self-test completes, marking or retiring failing parts. (R415) -/
  | bistDone (e : Env) (target unit fails : Nat) (failed : List Nat)
  /-- An uncorrectable device record stops fetching and rebuilds tier 0 from flash. (R421) -/
  | storeRecovery (e : Env) (badLeaves badSeqs : List Nat)
  /-- A fatal fault sets FATAL and stops admitting work: whether the host port works, and the Buttress die that it stops. (R422) -/
  | fatalFault (e : Env) (fault : Bool × Option Nat)
  /-- An uncorrectable error in Keep memory restarts Keep from its boot ROM. (R405) -/
  | keepRestart (e : Env)
  /-- A Sapling's uncorrectable SRAM error or watchdog resets it and restarts its work elsewhere. (R254) -/
  | saplingFault (e : Env) (cluster core : Nat)
  /-- A codec slice whose decoder stops is reset and its leaves fetched again. (R418) -/
  | codecSliceReset (e : Env) (slice : Nat)
  /-- SAPL_EXT_CTL LOAD reads, verifies and installs an extension image. (R265) -/
  | extLoad (e : Env) (part : Nat)
  /-- SAPL_EXT_CTL ENABLE enables the installed extension unless CHM_ALLOW is set. (R264) -/
  | extEnable (e : Env) (part : Nat)
  /-- SAPL_EXT_CTL DISABLE drains the extension's invocations and disables it. (R264) -/
  | extDisable (e : Env) (part : Nat)
  /-- The extension is invoked with the chunk record of a sealed chunk. (R263) -/
  | sealNote (e : Env) (part : Nat)
  /-- The extension's TIMER hook is invoked every timer_ms. (R263) -/
  | timer (e : Env) (part : Nat)
  /-- SEC_KEY_CTL ROTATE draws a new key set and starts the re-wrap sweep. (R431) -/
  | keyRotate (e : Env) (part : Nat)
  /-- The old key slot's users reach zero and Keep zeroises its key set. (R431) -/
  | keyRetired (e : Env) (part : Nat)
  /-- TDISP LOCK_INTERFACE_REQUEST moves the TDI to CONFIG_LOCKED. (R433) -/
  | lockInterfaceRequest (e : Env) (part stream : Nat)
  /-- The vendor-defined SPDM request derives kd and ki for confidential host mode. (R435) -/
  | chmBind (e : Env) (part start : Nat)
  /-- TDISP START_INTERFACE_REQUEST moves the TDI to RUN and activates confidential host mode. (R433) -/
  | startInterfaceRequest (e : Env) (part : Nat)
  /-- Stopping the interface, or losing its session or stream, ends confidential host mode. (R434) -/
  | stopInterfaceRequest (e : Env) (part cause : Nat)
  /-- A TLP to a BAR4 secure window is admitted or refused. (R438) -/
  | secureWindowAccess (e : Env) (fn off size : Nat) (val : Option Nat) (stream : Option Nat)
  /-- Keep answers GET_MEASUREMENTS with the measurement blocks. (R442) -/
  | spdmGetMeasurements (e : Env) (fn index : Nat)
  /-- An unprovisioned device installs the operator root and extension key. (R444) -/
  | claim (e : Env) (fn root extKey : Nat) (authentic : Bool)
  /-- Installs the fleet secret. (R444) -/
  | setFleet (e : Env) (secret : Nat) (chained : Bool)
  /-- Replaces the operator extension key. (R444) -/
  | setExtKey (e : Env) (key : Nat) (chained : Bool)
  /-- Installs a sub-port's MACsec CAK. (R444) -/
  | setCak (e : Env) (subPort key : Nat) (chained : Bool)
  /-- A signed challenge unlocks debug facilities. (R444) -/
  | debugUnlock (e : Env) (facility : Nat) (signed : Bool)
  /-- Zeroises the fleet secret, operator root, CAKs and anchor copies. (R444) -/
  | decommission (e : Env) (chained : Bool)
  /-- A Holua-signed Keep and Sapling image arrives by PLDM and is verified, held and programmed. (R464) -/
  | pldmFirmwareUpdate (e : Env) (image : Nat) (verified : Bool)
  /-- A DRAINING partition finishes every drain step and enters SCRUBBING. (R480) -/
  | partitionDrainDone (e : Env) (part : Nat)
  /-- A SCRUBBING partition finishes its erase and becomes FREE. (R439) -/
  | scrubComplete (e : Env) (part : Nat)
  /-- CUPOLA_PD_CTL on request switches a domain on or holds it. (R449) -/
  | pdOn (e : Env) (domain : Nat) (waitFree : Bool)
  /-- CUPOLA_PD_CTL off request drains a domain or is refused. (R450) -/
  | pdOff (e : Env) (domain : Nat)
  /-- A domain finishes ramping, fill and reset release and reaches ON. (R449) -/
  | pdPoweredOn (e : Env) (domain : Nat)
  /-- A draining domain finishes its drain and powers off, carrying out any held on request. (R450) -/
  | pdDrainDone (e : Env) (domain : Nat)
  /-- Writing SR 1 puts every stack into self-refresh. (R452) -/
  | hbmSrEnter (e : Env)
  /-- Writing SR 0 returns the stacks to service. (R452) -/
  | hbmSrExit (e : Env)
  /-- A write of CUPOLA_BUDGET takes effect at the next epoch or is ignored. (R457) -/
  | cupolaBudgetWrite (e : Env) (watts : Nat)
  /-- Every 1 µs Cupola grants power to refresh and busy blocks within budget and slew. (R453) -/
  | cupolaEpoch (e : Env) (refresh : List Nat) (codec lantern : List (Nat × Nat)) (canopy : List Nat)
  /-- Every 10 µs sensors are read and stages entered or left. (R459) -/
  | thermalSample (e : Env) (sensor temp : Nat)
  /-- A sensor at 110 °C drives THERMTRIP_N low and stops the clocks. (R461) -/
  | thermalTrip (e : Env) (sensor : Nat)
  /-- Writing REARM sends MSI-X vector 0 again while pending. (R485) -/
  | belfryRearm (e : Env)
  /-- A W1C write clears Belfry cause bits and the tree above updates. (R484) -/
  | causeClear (e : Env) (fn off val : Nat)
  /-- Host software sends a message in an H2K mailbox register. (R490) -/
  | h2kSend (e : Env) (box : Nat) (secure : Bool) (half val : Nat)
  /-- Host software reads and empties a K2H mailbox register. (R490) -/
  | k2hRead (e : Env) (box : Nat) (secure : Bool) (half : Nat)
  /-- Keep takes a waiting H2K message and sets EMPTY. (R490) -/
  | keepTakeMessage (e : Env) (box : Nat) (secure : Bool)
  /-- Mailbox service 0x00 returns its argument. (R491) -/
  | echo (e : Env) (box : Nat) (secure : Bool)
  /-- Mailbox service 0x01 returns the Keep firmware version. (R491) -/
  | version (e : Env) (box : Nat) (secure : Bool)
  /-- Mailbox service 0x02 returns five bytes of a measurement digest. (R491) -/
  | measure (e : Env) (box : Nat) (secure : Bool)
  /-- VDD_AON rises; Keep runs its boot ROM, verifies images and starts firmware; `targets` and `luns` are the flash targets and LUNs of each channel. (R464) -/
  | powerOn (e : Env) (hb6 : Bool) (targets : List Nat) (luns : Luns) (images : Bool)
  /-- Keep firmware runs and bring-up proceeds once PERST_N has risen. (R466) -/
  | keepFirmwareRunning (e : Env)
  /-- PERST_N rises; straps are sampled and training, BIST and memory fill begin. (R466) -/
  | perstNRise (e : Env) (masterEn standbyEn : Bool) (ringId : Nat)
  /-- HBM and SRAM fill completes, firmware is loaded and PHASE enters SETUP. (R416) -/
  | memoryFillDone (e : Env) (trainFail : Option Nat) (fatal : Bool) (dies units : List (Nat × Nat))
  /-- Writing SET in GLB_SEAL checks the LK fields and sets the configuration seal. (R505) -/
  | glbSealSet (e : Env)
  /-- The mount ends and the device enters READY. (R466) -/
  | mountDone (e : Env)
  /-- PERST_N low, Hot Reset or Link Disable stops the device and brings it through flash-safe steps. (R474) -/
  | conventionalReset (e : Env) (kind : Nat)
  /-- GLB_RESET_CTL DEVICE with key 0xC3, or the operator's PLDM reset, resets the device. (R472) -/
  | deviceReset (e : Env) (operator : Bool)
  /-- VDD_AON and the device rails fall, ending all activity, releasing THERMTRIP_N and losing every volatile state. (R319) -/
  | powerLoss (e : Env)
  /-- A ring port finishes training after RING_JOIN rises, or loses its link, updating EAST_UP/WEST_UP, sending join frames or dropping RING_JOIN when no trained port remains. (R380) -/
  | ringLinkChange (e : Env) (east up idErr : Bool)
  /-- The pool port link finishes training after PD_POOL is switched on or after RESTART, and its extents are added as new extents: `mode` says whether it runs CXL 3.1 and in common-clock mode. (R342) -/
  | poolLinkTrained (e : Env) (mode : Bool × Bool) (width : Nat) (targets : List (Nat × Nat × Nat))
  /-- A pool memory device signals a General Media or DRAM event record, which the device reads through the device mailbox and logs. (R322) -/
  | poolEventRecord (e : Env) (device addr : Nat) (uncorrectable : Bool)
  /-- A PFC frame received on an Ethernet sub-port pauses or releases a priority, making its queues ineligible or eligible. (R369) -/
  | pfcPause (e : Env) (port prio : Nat) (paused : Bool)
  /-- A write that changes BEAT_CFG_n.SOURCE restarts the domain's tracker in OFF, unless a bound partition has an armed slot or pending arm. (R224) -/
  | beatSourceChange (e : Env) (domain source : Nat)
  /-- An SPDM KEY_EXCHANGE, on a function's DOE or the management port, establishes the secured session that CHM_BIND, IDE_KM and operator messages need. (R433) -/
  | keyExchange (e : Env) (fn : Nat)
  /-- IDE_KM messages in an SPDM session program, start or refresh the keys of a host-port link or selective stream. (R432) -/
  | ideKm (e : Env) (fn : Nat) (stream : Option Nat) (op : Nat)
  /-- With LOOKUP_PAD set, the padded time of a PREFIX_LOOKUP or PREFIX_STEP is reached and its completion entry is written. (R441) -/
  | lookupPadExpiry (e : Env) (rid : Nat)
  /-- RELEASE_MS passes in the release of a SHARED extent and the leases still held in it end without poison. (R335) -/
  | poolReleaseMsExpiry (e : Env) (ext : Nat)
  /-- After 2 µs without an acknowledgement of received packets, a queue pair sends a coalesced ACK. (R347) -/
  | ackCoalesceTimer (e : Env) (qp : Nat)
  /-- An RNR NAK for an outbound SEND is received and the SEND is retried after the RNR timer, within rnr_retry. (R347) -/
  | rnrNakReceived (e : Env) (qp psn : Nat)
  /-- A member that has received no master heartbeat for 50 ms and cannot take over sets NO_MASTER and stops time and beat distribution. (R387) -/
  | heartbeatTimeout (e : Env)
  deriving DecidableEq, Repr

end Sys2Proof
end

