-- ==== Sys2Proof/Decode.lean ====
section
/-! DEFINITION. Commands from bits: no row of the opcode table gives bits, so no word spells a command. -/

namespace Sys2Proof

/-- The command that a word of the opcode table spells: none, since the commands come from outside as commands. -/
def decodeTableWord (_nbits _w : Nat) : Option Instr := none

end Sys2Proof
end

