-- ==== Sys2Proof/Config.lean ====
section
/-! DEFINITION. What one device fixes and the spec leaves open: constants without a body, so that nothing can
evaluate one and no proof can rest on its value. Each is named in a log entry of notes/assumptions. -/

namespace Sys2Proof.Config

/-- A block cipher of 128 bits under one key: a permutation of the blocks, with its inverse. -/
structure Cipher where
  enc : BitVec 128 → BitVec 128 := fun x => x
  dec : BitVec 128 → BitVec 128 := fun x => x
  dec_enc : ∀ x, dec (enc x) = x := by intro x; rfl
  enc_dec : ∀ x, enc (dec x) = x := by intro x; rfl
  deriving Inhabited

/-- A value the spec leaves undefined: number `n` of them, as a number of any size (log entry 4). -/
opaque freeNat : Nat → Nat
/-- A byte the spec leaves undefined (log entry 4). -/
opaque freeByte : Nat → BitVec 8
/-- The fused 64-bit serial number of the device (R507). -/
opaque serial : Nat
/-- The secret that Keep uses while no fleet secret is installed, derived from the unique device secret (R428). -/
opaque ownFleet : Nat
/-- The leaf key set of 768 bits that a numbered DRBG draw gives: XTS key 1, XTS key 2 and tag key, lowest first (R426, R430). -/
opaque keySet : Nat → Nat
/-- The response-direction application secret of the session behind a numbered confidential epoch of a partition (R435). -/
opaque appSecret : Nat → List (BitVec 8)
/-- Which of the values within 1 ulp expf returns for an argument (R185). -/
opaque expPick : BitVec 32 → Nat
/-- Which of the values within 2 ulp tanhf returns for an argument (R185). -/
opaque tanhPick : BitVec 32 → Nat
/-- The magnitude code written where a conversion meets no number, by width of the format (R139). -/
opaque nanCode : Nat → Nat
/-- The granules of 64 bytes that a context of a number of matches takes in the record area (R504, log entry 6). -/
opaque ctxGranules : Nat → Nat
/-- Whether a block of the flash is marked bad by its maker (R310). -/
opaque factoryBad : Nat → Bool
/-- The digest (48 bytes, SHA-384) of bytes (R442, R506). -/
opaque sha384 : List (BitVec 8) → List (BitVec 8)
/-- The measured content of index 1 (boot ROM), 2 (Keep firmware) or 3 (Sapling firmware) of R442, by index and image number. -/
opaque imageContent : Nat → Nat → List (BitVec 8)
/-- The AES-256 block cipher under a key of 256 bits, on blocks of 16 bytes as numbers, lowest byte first (R158, R427, R437). -/
opaque aes : Nat → Cipher
/-- Whether a signature over bytes verifies under a key named by a number (R261, R444, R464). -/
opaque sigOk : Nat → List (BitVec 8) → Bool
/-- The version of a numbered Keep firmware image: patch, minor and major in bits 7:0, 15:8, 23:16 (R491). -/
opaque keepVersion : Nat → Nat
/-- The canonical code lengths that a training run gives for 256 symbol counts (R161, R168). -/
opaque codeLengths : List Nat → List Nat
/-- What an array converts a column group to (R200, R205, R212), from array, evaluation, group, query codes and cells. -/
opaque convert : Nat → Nat → Nat → List Int → List Int → Int
/-- The gain and offset that a calibration fits for an array and a column group (R207). -/
opaque calFit : Nat → Nat → Nat → Nat
/-- The measured error of a calibration, in the units of LANTERN_CAL_LIMIT (R207). -/
opaque calError : Nat → Nat → Nat
/-- Bytes of an HBM slot that lie in a stack (R13, R402): stack, slot. -/
opaque stackBytes : Nat → Nat → Nat
/-- What the extension does in an invocation (R262, R263), from its number and inputs: how it ends, its scratch writes as offsets
and bytes, and what it computes. -/
opaque extResult : Nat → List Nat → Nat × List (Nat × List Nat) × List Nat

/-- The bytes that MACsec adds to an Ethernet frame (R368, R432; log entry 101). -/
opaque macsecOverhead : Nat
end Sys2Proof.Config
end

