-- ==== Sys2Proof/Machine/Bits.lean ====
section
/-! DEFINITION. Bit fields, little-endian bytes (R4) and sparse tables. -/

namespace Sys2Proof.Machine

open Sys2Proof

/-- Bits hi to lo of a number. -/
def bits (v hi lo : Nat) : Nat := v / 2 ^ lo % 2 ^ (hi + 1 - lo)

/-- One bit of a number. -/
def bit (v i : Nat) : Bool := v / 2 ^ i % 2 == 1

/-- A number with bits hi to lo replaced. -/
def setBits (v hi lo x : Nat) : Nat :=
  v - bits v hi lo * 2 ^ lo + x % 2 ^ (hi + 1 - lo) * 2 ^ lo

/-- A Bool as 0 or 1. -/
def b2n (b : Bool) : Nat := if b then 1 else 0

/-- `n` bytes of a number, lowest first (R4). -/
def leBytes : Nat → Nat → Bytes
  | 0, _ => []
  | n + 1, v => BitVec.ofNat 8 v :: leBytes n (v / 256)

/-- The number that bytes spell, lowest first (R4). -/
def leNat : Bytes → Nat
  | [] => 0
  | b :: t => b.toNat + 256 * leNat t

/-- `n` bytes from offset `off` as a number; bytes past the end count as zero. -/
def fieldAt (bs : Bytes) (off n : Nat) : Nat := leNat ((bs.drop off).take n)

/-- Bits hi to lo of the little-endian field that starts at byte `off` (the form of the structure tables). -/
def sfield (bs : Bytes) (off hi lo : Nat) : Nat := bits (fieldAt bs off (hi / 8 + 1)) hi lo

/-- A list cut or filled with zero bytes to length `n`. -/
def padTo (n : Nat) (bs : Bytes) : Bytes := (bs ++ List.replicate (n - bs.length) 0).take n

/-- A number rounded up to a multiple of `m`. -/
def roundUp (v m : Nat) : Nat := (v + m - 1) / m * m

/-- Division rounded up. -/
def ceilDiv (a b : Nat) : Nat := (a + b - 1) / b

/-- A counter of `w` bits that stops at its top. -/
def satInc (w v : Nat) : Nat := if v + 1 < 2 ^ w then v + 1 else 2 ^ w - 1

/-- A signed field of `w` bits. -/
def toSigned (w v : Nat) : Int := if v < 2 ^ (w - 1) then (v : Int) else (v : Int) - 2 ^ w

/-- The first index at which a list holds. -/
def findIdx {α : Type} (p : α → Bool) : List α → Nat → Option Nat
  | [], _ => none
  | a :: t, i => if p a then some i else findIdx p t (i + 1)

/-- Element `i` of a list replaced by its image. -/
def modifyAt {α : Type} (f : α → α) : Nat → List α → List α
  | _, [] => []
  | 0, a :: t => f a :: t
  | n + 1, a :: t => a :: modifyAt f n t

/-- The least number below `n`, from `i` on, that fails a test. -/
def firstFree (used : Nat → Bool) : Nat → Nat → Option Nat
  | 0, _ => none
  | n + 1, i => if used i then firstFree used n (i + 1) else some i

end Sys2Proof.Machine

namespace Sys2Proof.Table

variable {α : Type}

/-- The entry of a key. -/
def get? : Table α → Nat → Option α
  | [], _ => none
  | (a, b) :: t, k => if a = k then some b else get? t k

/-- The entry of a key, or a default. -/
def getD (t : Table α) (k : Nat) (d : α) : α := (t.get? k).getD d

/-- The table with an entry put at its key, the keys still rising. -/
def set (k : Nat) (v : α) : Table α → Table α
  | [] => [(k, v)]
  | (a, b) :: t => if k < a then (k, v) :: (a, b) :: t else if k = a then (k, v) :: t else (a, b) :: set k v t

/-- The table without a key. -/
def erase (k : Nat) (t : Table α) : Table α := t.filter (fun e => !(e.1 == k))

/-- The table with one entry changed, where it has one. -/
def modify (k : Nat) (f : α → α) (t : Table α) : Table α :=
  match t.get? k with
  | some v => t.set k (f v)
  | none => t

/-- The keys of a table. -/
def keys (t : Table α) : List Nat := t.map (·.1)

/-- A table whose keys strictly rise. -/
def sorted : Table α → Bool
  | [] => true
  | [_] => true
  | (a, _) :: (b, c) :: t => a < b && sorted ((b, c) :: t)

end Sys2Proof.Table
end

