-- ==== Sys2Proof/Machine/Memory.lean ====
section
/-! DEFINITION. Addressed byte memory in one canonical form: addresses strictly rising, no entry zero, since an unlisted
address reads as zero (log entry 3). -/

namespace Sys2Proof.Machine

open Sys2Proof

/-- Byte memory: listed cells, addresses strictly rising, none of them zero. -/
abbrev Memory := List Host.Cell

namespace Memory

/-- What an address that is not listed reads as (log entry 3). -/
def unlisted : Byte := 0

/-- The canonical form: addresses rise, and no cell holds what an unlisted address reads as. -/
def wf : Memory → Bool
  | [] => true
  | [(_, v)] => v != unlisted
  | (a, v) :: (b, w) :: t => v != unlisted && (a < b && wf ((b, w) :: t))

/-- The byte at an address. -/
def readByte : Memory → Nat → Byte
  | [], _ => unlisted
  | (a, v) :: t, k => if a = k then v else readByte t k

/-- The cells below an address. -/
def below (m : Memory) (a : Nat) : Memory := m.filter (fun c => c.1 < a)

/-- The cells at or above an address. -/
def atOrAbove (m : Memory) (a : Nat) : Memory := m.filter (fun c => a ≤ c.1)

/-- The cells that a run of bytes at an address makes: those that are not zero. -/
def cells : Nat → Bytes → Memory
  | _, [] => []
  | a, b :: t => if b = unlisted then cells (a + 1) t else (a, b) :: cells (a + 1) t

/-- A run of bytes written at an address. -/
def writeBytes (m : Memory) (a : Nat) (bs : Bytes) : Memory :=
  m.below a ++ cells a bs ++ m.atOrAbove (a + bs.length)

/-- `n` bytes from address `a` on, out of cells none of which lies below `a`. -/
def readFrom : Memory → Nat → Nat → Bytes
  | _, _, 0 => []
  | [], a, n + 1 => unlisted :: readFrom [] (a + 1) n
  | (k, v) :: t, a, n + 1 => if k = a then v :: readFrom t (a + 1) n else unlisted :: readFrom ((k, v) :: t) (a + 1) n

/-- `n` bytes from an address. -/
def readBytes (m : Memory) (a n : Nat) : Bytes := readFrom (m.atOrAbove a) a n

end Memory

end Sys2Proof.Machine
end

