-- ==== Sys2Proof/Machine/RegMap.lean ====
section
/-! DEFINITION. The setup register map (R494 to R508): every register of the index with its offset, its instances and its
fields, each with its bits, access code and reset value, as the register tables of the chapters give them. Registers of
BAR4 are held at 0x1000_0000 plus their offset. Base registers are 2 MiB aligned; the access rules are in `RegFile`. -/

namespace Sys2Proof.Machine

/-- Access codes (R6). -/
inductive Access | ro | rw | wo | w1c | w1s | lk
  deriving DecidableEq, Repr

/-- One field of a register array: offset of instance 0, the two strides, bits hi to lo, the reset value of the whole
register. Instance (i, j) lies at base + i * s1 + j * s2. -/
structure Fld where
  base : Nat
  s1 : Nat
  s2 : Nat
  hi : Nat
  lo : Nat
  word0 : Nat

/-- One register array: its offset, the two strides with their counts, and its fields with access codes. -/
structure RegDesc where
  base : Nat
  s1 : Nat
  n1 : Nat
  s2 : Nat
  n2 : Nat
  word0 : Nat
  fields : List (Nat × Nat × Access)

namespace F

/-! GLB_ID (R507) -/
def GLB_ID_DEVICE : Fld := ⟨0x0, 0x0, 0x0, 15, 0, 0x57400⟩
def GLB_ID_FAMILY : Fld := ⟨0x0, 0x0, 0x0, 31, 16, 0x57400⟩
/-! GLB_REV (R507) -/
def GLB_REV_STEPPING : Fld := ⟨0x4, 0x0, 0x0, 7, 0, 0xFF08B1⟩
def GLB_REV_STACKS : Fld := ⟨0x4, 0x0, 0x0, 11, 8, 0xFF08B1⟩
def GLB_REV_ORDER_CODE : Fld := ⟨0x4, 0x0, 0x0, 15, 12, 0xFF08B1⟩
def GLB_REV_STACK_MASK : Fld := ⟨0x4, 0x0, 0x0, 23, 16, 0xFF08B1⟩
/-! GLB_SERIAL_LO (R507) -/
def GLB_SERIAL_LO_SERIAL : Fld := ⟨0x8, 0x0, 0x0, 31, 0, 0x0⟩
/-! GLB_SERIAL_HI (R507) -/
def GLB_SERIAL_HI_SERIAL : Fld := ⟨0xC, 0x0, 0x0, 31, 0, 0x0⟩
/-! GLB_FW_VERSION (R507) -/
def GLB_FW_VERSION_PATCH : Fld := ⟨0x10, 0x0, 0x0, 7, 0, 0x0⟩
def GLB_FW_VERSION_MINOR : Fld := ⟨0x10, 0x0, 0x0, 15, 8, 0x0⟩
def GLB_FW_VERSION_MAJOR : Fld := ⟨0x10, 0x0, 0x0, 23, 16, 0x0⟩
/-! GLB_TIME_LO (R507) -/
def GLB_TIME_LO_NS : Fld := ⟨0x18, 0x0, 0x0, 31, 0, 0x0⟩
/-! GLB_TIME_HI (R507) -/
def GLB_TIME_HI_NS : Fld := ⟨0x1C, 0x0, 0x0, 31, 0, 0x0⟩
/-! GLB_SEAL (R507) -/
def GLB_SEAL_SET : Fld := ⟨0x40, 0x0, 0x0, 0, 0, 0x0⟩
def GLB_SEAL_SEALED : Fld := ⟨0x40, 0x0, 0x0, 1, 1, 0x0⟩
def GLB_SEAL_ERR : Fld := ⟨0x40, 0x0, 0x0, 11, 8, 0x0⟩
/-! GLB_SEAL_ERR (R507) -/
def GLB_SEAL_ERR_OFFSET : Fld := ⟨0x44, 0x0, 0x0, 25, 0, 0x0⟩
/-! GLB_REC_BASE_LO (R507) -/
def GLB_REC_BASE_LO_ADDR : Fld := ⟨0x48, 0x0, 0x0, 31, 0, 0x0⟩
/-! GLB_REC_BASE_HI (R507) -/
def GLB_REC_BASE_HI_ADDR : Fld := ⟨0x4C, 0x0, 0x0, 31, 0, 0x0⟩
/-! GLB_REC_CFG (R507) -/
def GLB_REC_CFG_GIB : Fld := ⟨0x50, 0x0, 0x0, 6, 0, 0x4⟩
/-! GLB_REC_USED (R507) -/
def GLB_REC_USED_MIB : Fld := ⟨0x54, 0x0, 0x0, 31, 0, 0x0⟩
/-! GLB_BAD_ACCESS (R507) -/
def GLB_BAD_ACCESS_OFFSET : Fld := ⟨0x60, 0x0, 0x0, 25, 0, 0x0⟩
def GLB_BAD_ACCESS_BAR : Fld := ⟨0x60, 0x0, 0x0, 27, 26, 0x0⟩
def GLB_BAD_ACCESS_WRITE : Fld := ⟨0x60, 0x0, 0x0, 28, 28, 0x0⟩
def GLB_BAD_ACCESS_VF : Fld := ⟨0x60, 0x0, 0x0, 29, 29, 0x0⟩
def GLB_BAD_ACCESS_OVERFLOW : Fld := ⟨0x60, 0x0, 0x0, 30, 30, 0x0⟩
def GLB_BAD_ACCESS_VALID : Fld := ⟨0x60, 0x0, 0x0, 31, 31, 0x0⟩
/-! GLB_BOOT_STATUS (R482) -/
def GLB_BOOT_STATUS_PHASE : Fld := ⟨0x100, 0x0, 0x0, 3, 0, 0x0⟩
def GLB_BOOT_STATUS_FAIL_CODE : Fld := ⟨0x100, 0x0, 0x0, 15, 8, 0x0⟩
def GLB_BOOT_STATUS_FAIL_UNIT : Fld := ⟨0x100, 0x0, 0x0, 19, 16, 0x0⟩
/-! GLB_RESET_CTL (R482) -/
def GLB_RESET_CTL_KEY : Fld := ⟨0x104, 0x0, 0x0, 7, 0, 0x0⟩
def GLB_RESET_CTL_DEVICE : Fld := ⟨0x104, 0x0, 0x0, 8, 8, 0x0⟩
/-! GLB_RESET_CAUSE (R482) -/
def GLB_RESET_CAUSE_LAST : Fld := ⟨0x108, 0x0, 0x0, 2, 0, 0x0⟩
def GLB_RESET_CAUSE_WAS_FATAL : Fld := ⟨0x108, 0x0, 0x0, 3, 3, 0x0⟩
def GLB_RESET_CAUSE_COUNT : Fld := ⟨0x108, 0x0, 0x0, 15, 8, 0x0⟩
/-! GLB_MOUNT_TIME (R482) -/
def GLB_MOUNT_TIME_MS : Fld := ⟨0x10C, 0x0, 0x0, 23, 0, 0x0⟩
def GLB_MOUNT_TIME_UNCLEAN : Fld := ⟨0x10C, 0x0, 0x0, 24, 24, 0x0⟩
/-! BELFRY_SUMMARY (R493) -/
def BELFRY_SUMMARY_GROUPS : Fld := ⟨0x100000, 0x0, 0x0, 21, 0, 0x0⟩
def BELFRY_SUMMARY_FATAL : Fld := ⟨0x100000, 0x0, 0x0, 31, 31, 0x0⟩
/-! BELFRY_MASK (R493) -/
def BELFRY_MASK_MASK : Fld := ⟨0x100004, 0x0, 0x0, 21, 0, 0x3FFFFF⟩
/-! BELFRY_CTL (R493) -/
def BELFRY_CTL_PIN_EN : Fld := ⟨0x100008, 0x0, 0x0, 0, 0, 0x1⟩
def BELFRY_CTL_REARM : Fld := ⟨0x100008, 0x0, 0x0, 1, 1, 0x1⟩
def BELFRY_CTL_PENDING : Fld := ⟨0x100008, 0x0, 0x0, 2, 2, 0x1⟩
/-! BELFRY_GRP_CAUSE (R493) -/
def BELFRY_GRP_CAUSE_CAUSE : Fld := ⟨0x100100, 0x10, 0x0, 31, 0, 0x0⟩
/-! BELFRY_GRP_MASK (R493) -/
def BELFRY_GRP_MASK_MASK : Fld := ⟨0x100104, 0x10, 0x0, 31, 0, 0x0⟩
/-! BELFRY_CQ (R493) -/
def BELFRY_CQ_CAUSE : Fld := ⟨0x101000, 0x8, 0x0, 31, 0, 0x0⟩
/-! BELFRY_CQ_MASK (R493) -/
def BELFRY_CQ_MASK_MASK : Fld := ⟨0x101004, 0x8, 0x0, 31, 0, 0x0⟩
/-! BELFRY_POISON (R493) -/
def BELFRY_POISON_CAUSE : Fld := ⟨0x101100, 0x8, 0x0, 31, 0, 0x0⟩
/-! BELFRY_POISON_MASK (R493) -/
def BELFRY_POISON_MASK_MASK : Fld := ⟨0x101104, 0x8, 0x0, 31, 0, 0x0⟩
/-! BELFRY_PSTATE (R493) -/
def BELFRY_PSTATE_CAUSE : Fld := ⟨0x101200, 0x8, 0x0, 31, 0, 0x0⟩
/-! BELFRY_PSTATE_MASK (R493) -/
def BELFRY_PSTATE_MASK_MASK : Fld := ⟨0x101204, 0x8, 0x0, 31, 0, 0x0⟩
/-! HP_DB_ERR (R70) -/
def HP_DB_ERR_RING : Fld := ⟨0x200040, 0x0, 0x0, 9, 0, 0x0⟩
def HP_DB_ERR_HEAD_REG : Fld := ⟨0x200040, 0x0, 0x0, 10, 10, 0x0⟩
def HP_DB_ERR_CAUSE : Fld := ⟨0x200040, 0x0, 0x0, 13, 11, 0x0⟩
def HP_DB_ERR_OVERFLOW : Fld := ⟨0x200040, 0x0, 0x0, 14, 14, 0x0⟩
def HP_DB_ERR_VALID : Fld := ⟨0x200040, 0x0, 0x0, 15, 15, 0x0⟩
def HP_DB_ERR_VALUE : Fld := ⟨0x200040, 0x0, 0x0, 31, 16, 0x0⟩
/-! HP_SQ_BASE_LO (R62) -/
def HP_SQ_BASE_LO_ADDR_LO : Fld := ⟨0x210000, 0x40, 0x0, 31, 12, 0x0⟩
/-! HP_SQ_BASE_HI (R62) -/
def HP_SQ_BASE_HI_ADDR_HI : Fld := ⟨0x210004, 0x40, 0x0, 31, 0, 0x0⟩
/-! HP_SQ_CFG (R62) -/
def HP_SQ_CFG_LOG2_SIZE : Fld := ⟨0x210008, 0x40, 0x0, 4, 0, 0x10006⟩
def HP_SQ_CFG_GEN : Fld := ⟨0x210008, 0x40, 0x0, 5, 5, 0x10006⟩
def HP_SQ_CFG_CQ : Fld := ⟨0x210008, 0x40, 0x0, 10, 8, 0x10006⟩
def HP_SQ_CFG_WEIGHT : Fld := ⟨0x210008, 0x40, 0x0, 23, 16, 0x10006⟩
def HP_SQ_CFG_ENABLE : Fld := ⟨0x210008, 0x40, 0x0, 31, 31, 0x10006⟩
/-! HP_SQ_STATUS (R62) -/
def HP_SQ_STATUS_HEAD : Fld := ⟨0x21000C, 0x40, 0x0, 15, 0, 0x0⟩
def HP_SQ_STATUS_ACTIVE : Fld := ⟨0x21000C, 0x40, 0x0, 16, 16, 0x0⟩
def HP_SQ_STATUS_ENABLE_ERR : Fld := ⟨0x21000C, 0x40, 0x0, 17, 17, 0x0⟩
def HP_SQ_STATUS_DB_ERR : Fld := ⟨0x21000C, 0x40, 0x0, 18, 18, 0x0⟩
/-! HP_SQ_TAIL (R62) -/
def HP_SQ_TAIL_TAIL : Fld := ⟨0x210010, 0x40, 0x0, 15, 0, 0x0⟩
/-! HP_SQ_INFLIGHT (R62) -/
def HP_SQ_INFLIGHT_COUNT : Fld := ⟨0x210014, 0x40, 0x0, 15, 0, 0x0⟩
/-! HP_CQ_BASE_LO (R62) -/
def HP_CQ_BASE_LO_ADDR_LO : Fld := ⟨0x220000, 0x40, 0x0, 31, 12, 0x0⟩
/-! HP_CQ_BASE_HI (R62) -/
def HP_CQ_BASE_HI_ADDR_HI : Fld := ⟨0x220004, 0x40, 0x0, 31, 0, 0x0⟩
/-! HP_CQ_CFG (R62) -/
def HP_CQ_CFG_LOG2_SIZE : Fld := ⟨0x220008, 0x40, 0x0, 4, 0, 0x6⟩
def HP_CQ_CFG_VECTOR : Fld := ⟨0x220008, 0x40, 0x0, 18, 8, 0x6⟩
def HP_CQ_CFG_IRQ_EN : Fld := ⟨0x220008, 0x40, 0x0, 30, 30, 0x6⟩
def HP_CQ_CFG_ENABLE : Fld := ⟨0x220008, 0x40, 0x0, 31, 31, 0x6⟩
/-! HP_CQ_STATUS (R62) -/
def HP_CQ_STATUS_TAIL : Fld := ⟨0x22000C, 0x40, 0x0, 15, 0, 0x10000⟩
def HP_CQ_STATUS_PHASE : Fld := ⟨0x22000C, 0x40, 0x0, 16, 16, 0x10000⟩
def HP_CQ_STATUS_ACTIVE : Fld := ⟨0x22000C, 0x40, 0x0, 17, 17, 0x10000⟩
def HP_CQ_STATUS_ENABLE_ERR : Fld := ⟨0x22000C, 0x40, 0x0, 18, 18, 0x10000⟩
def HP_CQ_STATUS_DB_ERR : Fld := ⟨0x22000C, 0x40, 0x0, 19, 19, 0x10000⟩
/-! HP_CQ_HEAD (R62) -/
def HP_CQ_HEAD_HEAD : Fld := ⟨0x220010, 0x40, 0x0, 15, 0, 0x0⟩
/-! HP_CQ_MOD (R62) -/
def HP_CQ_MOD_COUNT : Fld := ⟨0x220014, 0x40, 0x0, 7, 0, 0x1⟩
def HP_CQ_MOD_DELAY_US : Fld := ⟨0x220014, 0x40, 0x0, 31, 16, 0x1⟩
/-! PART_STATE (R482) -/
def PART_STATE_STATE : Fld := ⟨0x400000, 0x8000, 0x0, 1, 0, 0x0⟩
def PART_STATE_CONFIGURED : Fld := ⟨0x400000, 0x8000, 0x0, 2, 2, 0x0⟩
def PART_STATE_RESTORED : Fld := ⟨0x400000, 0x8000, 0x0, 3, 3, 0x0⟩
def PART_STATE_ENABLE_HELD : Fld := ⟨0x400000, 0x8000, 0x0, 4, 4, 0x0⟩
/-! PART_LEASE_CFG (R43) -/
def PART_LEASE_CFG_LEASE_MS : Fld := ⟨0x400010, 0x8000, 0x0, 15, 0, 0x7D0⟩
/-! PART_INDEX_QUOTA (R119) -/
def PART_INDEX_QUOTA_MAX_ENTRIES : Fld := ⟨0x400014, 0x8000, 0x0, 28, 0, 0x1FFFFFFF⟩
/-! PART_RULES_STATUS (R135) -/
def PART_RULES_STATUS_CURRENT_EPOCH : Fld := ⟨0x400018, 0x8000, 0x0, 7, 0, 0x0⟩
def PART_RULES_STATUS_OTHER_EPOCH : Fld := ⟨0x400018, 0x8000, 0x0, 15, 8, 0x0⟩
def PART_RULES_STATUS_OTHER_LOADED : Fld := ⟨0x400018, 0x8000, 0x0, 16, 16, 0x0⟩
def PART_RULES_STATUS_OTHER_USERS : Fld := ⟨0x400018, 0x8000, 0x0, 31, 17, 0x0⟩
/-! PART_SPIRE_SHARE (R199) -/
def PART_SPIRE_SHARE_MAX_SPIRES : Fld := ⟨0x40001C, 0x8000, 0x0, 5, 0, 0x0⟩
/-! PART_LANTERN_CFG (R216) -/
def PART_LANTERN_CFG_EXACT : Fld := ⟨0x400020, 0x8000, 0x0, 0, 0, 0x0⟩
/-! PART_BEAT_CFG (R250) -/
def PART_BEAT_CFG_DOMAIN : Fld := ⟨0x400024, 0x8000, 0x0, 1, 0, 0x0⟩
def PART_BEAT_CFG_BOUND : Fld := ⟨0x400024, 0x8000, 0x0, 2, 2, 0x0⟩
def PART_BEAT_CFG_MARK_EN : Fld := ⟨0x400024, 0x8000, 0x0, 3, 3, 0x0⟩
/-! PART_SCHED_STATUS (R250) -/
def PART_SCHED_STATUS_ARMED : Fld := ⟨0x400028, 0x8000, 0x0, 0, 0, 0x0⟩
def PART_SCHED_STATUS_ARMED_SLOT : Fld := ⟨0x400028, 0x8000, 0x0, 1, 1, 0x0⟩
def PART_SCHED_STATUS_PENDING : Fld := ⟨0x400028, 0x8000, 0x0, 2, 2, 0x0⟩
def PART_SCHED_STATUS_SLOT0_LOADED : Fld := ⟨0x400028, 0x8000, 0x0, 3, 3, 0x0⟩
def PART_SCHED_STATUS_SLOT1_LOADED : Fld := ⟨0x400028, 0x8000, 0x0, 4, 4, 0x0⟩
def PART_SCHED_STATUS_SLOT0_EPOCH : Fld := ⟨0x400028, 0x8000, 0x0, 15, 8, 0x0⟩
def PART_SCHED_STATUS_SLOT1_EPOCH : Fld := ⟨0x400028, 0x8000, 0x0, 23, 16, 0x0⟩
/-! PART_SPIRE_WEIGHT (R265) -/
def PART_SPIRE_WEIGHT_WEIGHT : Fld := ⟨0x40002C, 0x8000, 0x0, 7, 0, 0x1⟩
/-! PART_TIER_CFG (R288) -/
def PART_TIER_CFG_SHADOW : Fld := ⟨0x400030, 0x8000, 0x0, 1, 0, 0x0⟩
/-! PART_TIER_AGE (R288) -/
def PART_TIER_AGE_AGE_S : Fld := ⟨0x400034, 0x8000, 0x0, 15, 0, 0x1E0258⟩
def PART_TIER_AGE_SHORT_S : Fld := ⟨0x400034, 0x8000, 0x0, 31, 16, 0x1E0258⟩
/-! PART_TIER_RESV (R288) -/
def PART_TIER_RESV_SLOTS : Fld := ⟨0x400040, 0x8000, 0x10, 29, 0, 0x0⟩
/-! PART_TIER_LIMIT (R288) -/
def PART_TIER_LIMIT_SLOTS : Fld := ⟨0x400044, 0x8000, 0x10, 29, 0, 0x3FFFFFFF⟩
/-! PART_TIER_USED (R288) -/
def PART_TIER_USED_HALVES : Fld := ⟨0x400048, 0x8000, 0x10, 30, 0, 0x0⟩
/-! PART_POOL_BW (R344) -/
def PART_POOL_BW_GBPS : Fld := ⟨0x400070, 0x8000, 0x0, 7, 0, 0x0⟩
/-! PART_POOL_STATUS (R344) -/
def PART_POOL_STATUS_DOWN : Fld := ⟨0x400074, 0x8000, 0x0, 0, 0, 0x0⟩
def PART_POOL_STATUS_LEASES : Fld := ⟨0x400074, 0x8000, 0x0, 7, 1, 0x0⟩
/-! PART_NET_CFG (R365) -/
def PART_NET_CFG_MAX_QP : Fld := ⟨0x400078, 0x8000, 0x0, 15, 0, 0x100⟩
/-! PART_NET_MR (R365) -/
def PART_NET_MR_MAX_MR : Fld := ⟨0x40007C, 0x8000, 0x0, 20, 0, 0x2000⟩
/-! PART_TRAFFIC_Q (R377) -/
def PART_TRAFFIC_Q_HOST_Q : Fld := ⟨0x400080, 0x8000, 0x0, 5, 0, 0x404⟩
def PART_TRAFFIC_Q_RING_Q : Fld := ⟨0x400080, 0x8000, 0x0, 13, 8, 0x404⟩
/-! PART_METER_CFG (R377) -/
def PART_METER_CFG_MODE : Fld := ⟨0x400084, 0x8000, 0x0, 1, 0, 0x20⟩
def PART_METER_CFG_YELLOW_ACT : Fld := ⟨0x400084, 0x8000, 0x0, 3, 2, 0x20⟩
def PART_METER_CFG_RED_ACT : Fld := ⟨0x400084, 0x8000, 0x0, 5, 4, 0x20⟩
/-! PART_METER_CIR (R377) -/
def PART_METER_CIR_MBPS : Fld := ⟨0x400088, 0x8000, 0x0, 19, 0, 0x0⟩
/-! PART_METER_PIR (R377) -/
def PART_METER_PIR_MBPS : Fld := ⟨0x40008C, 0x8000, 0x0, 19, 0, 0x0⟩
/-! PART_METER_BURST (R377) -/
def PART_METER_BURST_CBS : Fld := ⟨0x400090, 0x8000, 0x0, 15, 0, 0x8000400⟩
def PART_METER_BURST_EBS_PBS : Fld := ⟨0x400090, 0x8000, 0x0, 31, 16, 0x8000400⟩
/-! PART_RAS_STATUS (R423) -/
def PART_RAS_STATUS_RECOVERED : Fld := ⟨0x400094, 0x8000, 0x0, 0, 0, 0x0⟩
def PART_RAS_STATUS_POISONED : Fld := ⟨0x400094, 0x8000, 0x0, 1, 1, 0x0⟩
/-! PART_SEC_CFG (R446) -/
def PART_SEC_CFG_CHM_ALLOW : Fld := ⟨0x400098, 0x8000, 0x0, 0, 0, 0x2⟩
def PART_SEC_CFG_COARSEN : Fld := ⟨0x400098, 0x8000, 0x0, 1, 1, 0x2⟩
def PART_SEC_CFG_LOOKUP_PAD : Fld := ⟨0x400098, 0x8000, 0x0, 2, 2, 0x2⟩
def PART_SEC_CFG_PAD_LOG2 : Fld := ⟨0x400098, 0x8000, 0x0, 7, 4, 0x2⟩
/-! PART_SEC_TENANT_LO (R446) -/
def PART_SEC_TENANT_LO_ID : Fld := ⟨0x40009C, 0x8000, 0x0, 31, 0, 0x0⟩
/-! PART_SEC_TENANT_HI (R446) -/
def PART_SEC_TENANT_HI_ID : Fld := ⟨0x4000A0, 0x8000, 0x0, 31, 0, 0x0⟩
/-! PART_KEY_STATUS (R446) -/
def PART_KEY_STATUS_CURRENT_EPOCH : Fld := ⟨0x4000A4, 0x8000, 0x0, 7, 0, 0x0⟩
def PART_KEY_STATUS_OTHER_EPOCH : Fld := ⟨0x4000A4, 0x8000, 0x0, 15, 8, 0x0⟩
def PART_KEY_STATUS_OTHER_LOADED : Fld := ⟨0x4000A4, 0x8000, 0x0, 16, 16, 0x0⟩
def PART_KEY_STATUS_OTHER_USERS : Fld := ⟨0x4000A4, 0x8000, 0x0, 31, 17, 0x0⟩
/-! PART_CHM_STATUS (R446) -/
def PART_CHM_STATUS_ACTIVE : Fld := ⟨0x4000A8, 0x8000, 0x0, 0, 0, 0x0⟩
def PART_CHM_STATUS_TDI_STATE : Fld := ⟨0x4000A8, 0x8000, 0x0, 2, 1, 0x0⟩
def PART_CHM_STATUS_CHM_EPOCH : Fld := ⟨0x4000A8, 0x8000, 0x0, 15, 8, 0x0⟩
/-! PART_POWER (R463) -/
def PART_POWER_WATTS : Fld := ⟨0x4000AC, 0x8000, 0x0, 11, 0, 0x0⟩
/-! PART_BELFRY_SUMMARY (R493) -/
def PART_BELFRY_SUMMARY_SUMMARY : Fld := ⟨0x4000B0, 0x8000, 0x0, 31, 0, 0x0⟩
/-! PART_BELFRY_MASK (R493) -/
def PART_BELFRY_MASK_MASK : Fld := ⟨0x4000B4, 0x8000, 0x0, 31, 0, 0x8019⟩
/-! PART_BELFRY_CQ (R493) -/
def PART_BELFRY_CQ_CAUSE : Fld := ⟨0x4000B8, 0x8000, 0x0, 7, 0, 0x0⟩
/-! PART_BELFRY_CQ_MASK (R493) -/
def PART_BELFRY_CQ_MASK_MASK : Fld := ⟨0x4000BC, 0x8000, 0x0, 7, 0, 0x0⟩
/-! CANOPY_BANK_CFG (R119) -/
def CANOPY_BANK_CFG_WIDTH : Fld := ⟨0x800000, 0x4, 0x0, 1, 0, 0x10041⟩
def CANOPY_BANK_CFG_HOLE_LOG2 : Fld := ⟨0x800000, 0x4, 0x0, 6, 4, 0x10041⟩
def CANOPY_BANK_CFG_FLUSH : Fld := ⟨0x800000, 0x4, 0x0, 8, 8, 0x10041⟩
def CANOPY_BANK_CFG_EMPTY : Fld := ⟨0x800000, 0x4, 0x0, 16, 16, 0x10041⟩
def CANOPY_BANK_CFG_RESPREAD : Fld := ⟨0x800000, 0x4, 0x0, 17, 17, 0x10041⟩
/-! CANOPY_RATE (R119) -/
def CANOPY_RATE_CAP : Fld := ⟨0x800200, 0x0, 0x0, 11, 0, 0x3E803E8⟩
def CANOPY_RATE_EFFECTIVE : Fld := ⟨0x800200, 0x0, 0x0, 27, 16, 0x3E803E8⟩
def CANOPY_RATE_STAGE : Fld := ⟨0x800200, 0x0, 0x0, 29, 28, 0x3E803E8⟩
/-! CANOPY_SCAN_CFG (R119) -/
def CANOPY_SCAN_CFG_LAP_MS : Fld := ⟨0x800204, 0x0, 0x0, 9, 0, 0x14⟩
/-! CANOPY_SCAN_LAP (R119) -/
def CANOPY_SCAN_LAP_LAST_US : Fld := ⟨0x800208, 0x0, 0x0, 23, 0, 0x0⟩
def CANOPY_SCAN_LAP_LAPS : Fld := ⟨0x800208, 0x0, 0x0, 31, 24, 0x0⟩
/-! CANOPY_PAR_COUNT (R119) -/
def CANOPY_PAR_COUNT_COUNT : Fld := ⟨0x80020C, 0x0, 0x0, 31, 0, 0x0⟩
/-! CANOPY_PROMOTE (R119) -/
def CANOPY_PROMOTE_HITS : Fld := ⟨0x800210, 0x0, 0x0, 7, 0, 0x3E80008⟩
def CANOPY_PROMOTE_PERIOD_US : Fld := ⟨0x800210, 0x0, 0x0, 31, 16, 0x3E80008⟩
/-! CANOPY_FALSE_HIT (R119) -/
def CANOPY_FALSE_HIT_COUNT : Fld := ⟨0x800214, 0x0, 0x0, 31, 0, 0x0⟩
/-! CANOPY_SHADOW_BASE_LO (R119) -/
def CANOPY_SHADOW_BASE_LO_ADDR : Fld := ⟨0x800218, 0x0, 0x0, 31, 0, 0x0⟩
/-! CANOPY_SHADOW_BASE_HI (R119) -/
def CANOPY_SHADOW_BASE_HI_ADDR : Fld := ⟨0x80021C, 0x0, 0x0, 31, 0, 0x0⟩
/-! CANOPY_SGRP_MEMBER (R119) -/
def CANOPY_SGRP_MEMBER_MEMBERS : Fld := ⟨0x800400, 0x10, 0x4, 31, 0, 0x0⟩
/-! ROOT_BASE_LO (R119) -/
def ROOT_BASE_LO_ADDR : Fld := ⟨0x801000, 0x0, 0x0, 31, 0, 0x0⟩
/-! ROOT_BASE_HI (R119) -/
def ROOT_BASE_HI_ADDR : Fld := ⟨0x801004, 0x0, 0x0, 31, 0, 0x0⟩
/-! ROOT_CFG (R119) -/
def ROOT_CFG_LOG2_BUCKETS : Fld := ⟨0x801008, 0x0, 0x0, 4, 0, 0x18⟩
/-! ROOT_ENTRIES (R119) -/
def ROOT_ENTRIES_COUNT : Fld := ⟨0x80100C, 0x0, 0x0, 28, 0, 0x0⟩
/-! ROOT_INSERT_FAIL (R119) -/
def ROOT_INSERT_FAIL_COUNT : Fld := ⟨0x801010, 0x0, 0x0, 31, 0, 0x0⟩
/-! PATTERN_BASE_LO (R135) -/
def PATTERN_BASE_LO_ADDR : Fld := ⟨0xA00000, 0x0, 0x0, 31, 0, 0x0⟩
/-! PATTERN_BASE_HI (R135) -/
def PATTERN_BASE_HI_ADDR : Fld := ⟨0xA00004, 0x0, 0x0, 31, 0, 0x0⟩
/-! PATTERN_USAGE (R135) -/
def PATTERN_USAGE_STORES : Fld := ⟨0xA00008, 0x0, 0x0, 6, 0, 0x0⟩
def PATTERN_USAGE_STATES : Fld := ⟨0xA00008, 0x0, 0x0, 24, 8, 0x0⟩
/-! CODEC_TABLE_BASE_LO (R171) -/
def CODEC_TABLE_BASE_LO_ADDR : Fld := ⟨0xC00000, 0x0, 0x0, 31, 0, 0x0⟩
/-! CODEC_TABLE_BASE_HI (R171) -/
def CODEC_TABLE_BASE_HI_ADDR : Fld := ⟨0xC00004, 0x0, 0x0, 31, 0, 0x0⟩
/-! CODEC_CFG (R171) -/
def CODEC_CFG_COMPRESS_EN : Fld := ⟨0xC00008, 0x0, 0x0, 0, 0, 0x10043⟩
def CODEC_CFG_SWEEP_EN : Fld := ⟨0xC00008, 0x0, 0x0, 1, 1, 0x10043⟩
def CODEC_CFG_SWEEP_SHARE : Fld := ⟨0xC00008, 0x0, 0x0, 7, 4, 0x10043⟩
def CODEC_CFG_FLASH_SWEEP_MBS : Fld := ⟨0xC00008, 0x0, 0x0, 23, 8, 0x10043⟩
/-! CODEC_ENCODED (R171) -/
def CODEC_ENCODED_COUNT : Fld := ⟨0xC00010, 0x0, 0x0, 31, 0, 0x0⟩
/-! CODEC_RAW_BUDGET (R171) -/
def CODEC_RAW_BUDGET_COUNT : Fld := ⟨0xC00014, 0x0, 0x0, 31, 0, 0x0⟩
/-! CODEC_RAW_GAIN (R171) -/
def CODEC_RAW_GAIN_COUNT : Fld := ⟨0xC00018, 0x0, 0x0, 31, 0, 0x0⟩
/-! CODEC_SCOPE_SEL (R171) -/
def CODEC_SCOPE_SEL_PARTITION : Fld := ⟨0xC00020, 0x0, 0x0, 6, 0, 0x0⟩
def CODEC_SCOPE_SEL_SHAPE : Fld := ⟨0xC00020, 0x0, 0x0, 11, 8, 0x0⟩
def CODEC_SCOPE_SEL_FORMAT : Fld := ⟨0xC00020, 0x0, 0x0, 15, 12, 0x0⟩
/-! CODEC_SCOPE_STATUS (R171) -/
def CODEC_SCOPE_STATUS_CURRENT_EPOCH : Fld := ⟨0xC00024, 0x0, 0x0, 7, 0, 0x0⟩
def CODEC_SCOPE_STATUS_OTHER_EPOCH : Fld := ⟨0xC00024, 0x0, 0x0, 15, 8, 0x0⟩
def CODEC_SCOPE_STATUS_OTHER_LOADED : Fld := ⟨0xC00024, 0x0, 0x0, 16, 16, 0x0⟩
def CODEC_SCOPE_STATUS_OTHER_USERS : Fld := ⟨0xC00024, 0x0, 0x0, 31, 17, 0x0⟩
/-! CODEC_TABLE_MISS (R171) -/
def CODEC_TABLE_MISS_COUNT : Fld := ⟨0xC00100, 0x4, 0x0, 31, 0, 0x0⟩
/-! SPIRE_CTL (R199) -/
def SPIRE_CTL_OFFLINE : Fld := ⟨0x1000000, 0x20, 0x0, 0, 0, 0x0⟩
/-! SPIRE_STATUS (R199) -/
def SPIRE_STATUS_STATE : Fld := ⟨0x1000004, 0x20, 0x0, 1, 0, 0x0⟩
def SPIRE_STATUS_THERMAL_STAGE : Fld := ⟨0x1000004, 0x20, 0x0, 3, 2, 0x0⟩
def SPIRE_STATUS_QUEUE : Fld := ⟨0x1000004, 0x20, 0x0, 7, 4, 0x0⟩
/-! SPIRE_UNITS (R199) -/
def SPIRE_UNITS_COUNT : Fld := ⟨0x1000008, 0x20, 0x0, 31, 0, 0x0⟩
/-! SPIRE_BUSY (R199) -/
def SPIRE_BUSY_COUNT : Fld := ⟨0x100000C, 0x20, 0x0, 31, 0, 0x0⟩
/-! ATTEND_COUNT (R199) -/
def ATTEND_COUNT_COUNT : Fld := ⟨0x1001000, 0x0, 0x0, 31, 0, 0x0⟩
/-! SELECT_COUNT (R199) -/
def SELECT_COUNT_COUNT : Fld := ⟨0x1001004, 0x0, 0x0, 31, 0, 0x0⟩
/-! ATTEND_POISONED (R199) -/
def ATTEND_POISONED_COUNT : Fld := ⟨0x1001008, 0x0, 0x0, 31, 0, 0x0⟩
/-! SAPL_CLUSTER_STATUS (R265) -/
def SAPL_CLUSTER_STATUS_ONLINE : Fld := ⟨0x1002000, 0x4, 0x0, 5, 0, 0x0⟩
def SAPL_CLUSTER_STATUS_FAULTED : Fld := ⟨0x1002000, 0x4, 0x0, 13, 8, 0x0⟩
def SAPL_CLUSTER_STATUS_POWERED : Fld := ⟨0x1002000, 0x4, 0x0, 16, 16, 0x0⟩
def SAPL_CLUSTER_STATUS_DRAINING : Fld := ⟨0x1002000, 0x4, 0x0, 17, 17, 0x0⟩
/-! SAPL_DISPATCH_CFG (R265) -/
def SAPL_DISPATCH_CFG_SLOW_PCT : Fld := ⟨0x1002100, 0x0, 0x0, 6, 0, 0x132⟩
def SAPL_DISPATCH_CFG_STEAL_EN : Fld := ⟨0x1002100, 0x0, 0x0, 8, 8, 0x132⟩
/-! SAPL_STEALS (R265) -/
def SAPL_STEALS_COUNT : Fld := ⟨0x1002104, 0x0, 0x0, 31, 0, 0x0⟩
/-! SAPL_SLOW_EVENTS (R265) -/
def SAPL_SLOW_EVENTS_COUNT : Fld := ⟨0x1002108, 0x0, 0x0, 31, 0, 0x0⟩
/-! SAPL_FAULTS (R265) -/
def SAPL_FAULTS_COUNT : Fld := ⟨0x100210C, 0x0, 0x0, 31, 0, 0x0⟩
/-! SAPL_EXT_CFG (R265) -/
def SAPL_EXT_CFG_CORES : Fld := ⟨0x1002110, 0x0, 0x0, 2, 0, 0x1⟩
/-! SAPL_EXT_DROPPED (R265) -/
def SAPL_EXT_DROPPED_COUNT : Fld := ⟨0x1002114, 0x0, 0x0, 31, 0, 0x0⟩
/-! SAPL_EXT_SEL (R265) -/
def SAPL_EXT_SEL_PARTITION : Fld := ⟨0x1002200, 0x0, 0x0, 6, 0, 0x0⟩
/-! SAPL_EXT_ADDR_LO (R265) -/
def SAPL_EXT_ADDR_LO_ADDR : Fld := ⟨0x1002204, 0x0, 0x0, 31, 0, 0x0⟩
/-! SAPL_EXT_ADDR_HI (R265) -/
def SAPL_EXT_ADDR_HI_ADDR : Fld := ⟨0x1002208, 0x0, 0x0, 31, 0, 0x0⟩
/-! SAPL_EXT_LEN (R265) -/
def SAPL_EXT_LEN_BYTES : Fld := ⟨0x100220C, 0x0, 0x0, 23, 0, 0x0⟩
/-! SAPL_EXT_CTL (R265) -/
def SAPL_EXT_CTL_LOAD : Fld := ⟨0x1002210, 0x0, 0x0, 0, 0, 0x0⟩
def SAPL_EXT_CTL_ENABLE : Fld := ⟨0x1002210, 0x0, 0x0, 1, 1, 0x0⟩
def SAPL_EXT_CTL_DISABLE : Fld := ⟨0x1002210, 0x0, 0x0, 2, 2, 0x0⟩
/-! SAPL_EXT_STATUS (R265) -/
def SAPL_EXT_STATUS_STATE : Fld := ⟨0x1002214, 0x0, 0x0, 1, 0, 0x0⟩
def SAPL_EXT_STATUS_ERR : Fld := ⟨0x1002214, 0x0, 0x0, 4, 2, 0x0⟩
def SAPL_EXT_STATUS_FAULTS : Fld := ⟨0x1002214, 0x0, 0x0, 15, 8, 0x0⟩
/-! SAPL_EXT_SCRATCH_LO (R265) -/
def SAPL_EXT_SCRATCH_LO_ADDR : Fld := ⟨0x1002218, 0x0, 0x0, 31, 0, 0x0⟩
/-! SAPL_EXT_SCRATCH_HI (R265) -/
def SAPL_EXT_SCRATCH_HI_ADDR : Fld := ⟨0x100221C, 0x0, 0x0, 31, 0, 0x0⟩
/-! SAPL_EXT_SCRATCH_LEN (R265) -/
def SAPL_EXT_SCRATCH_LEN_BYTES : Fld := ⟨0x1002220, 0x0, 0x0, 23, 0, 0x0⟩
/-! QUANT_CFG (R156) -/
def QUANT_CFG_OUTLIER_RATIO : Fld := ⟨0x13E0000, 0x0, 0x0, 3, 0, 0x18⟩
def QUANT_CFG_OUTLIER_EN : Fld := ⟨0x13E0000, 0x0, 0x0, 4, 4, 0x18⟩
/-! QUANT_PROMOTED (R156) -/
def QUANT_PROMOTED_COUNT : Fld := ⟨0x13E0004, 0x0, 0x0, 31, 0, 0x0⟩
/-! QUANT_CEILING (R156) -/
def QUANT_CEILING_COUNT : Fld := ⟨0x13E0008, 0x0, 0x0, 31, 0, 0x0⟩
/-! QUANT_OUTLIERS (R156) -/
def QUANT_OUTLIERS_COUNT : Fld := ⟨0x13E000C, 0x0, 0x0, 31, 0, 0x0⟩
/-! QUANT_SATURATED (R156) -/
def QUANT_SATURATED_COUNT : Fld := ⟨0x13E0010, 0x0, 0x0, 31, 0, 0x0⟩
/-! LANTERN_CFG (R216) -/
def LANTERN_CFG_CAL_PERIOD_MS : Fld := ⟨0x1400000, 0x0, 0x0, 7, 0, 0x14020A⟩
def LANTERN_CFG_CAL_DELTA : Fld := ⟨0x1400000, 0x0, 0x0, 11, 8, 0x14020A⟩
def LANTERN_CFG_STALE_MS : Fld := ⟨0x1400000, 0x0, 0x0, 23, 16, 0x14020A⟩
def LANTERN_CFG_FORCE_EXACT : Fld := ⟨0x1400000, 0x0, 0x0, 24, 24, 0x14020A⟩
/-! LANTERN_SUM_BASE_LO (R216) -/
def LANTERN_SUM_BASE_LO_ADDR : Fld := ⟨0x1400004, 0x0, 0x0, 31, 0, 0x0⟩
/-! LANTERN_SUM_BASE_HI (R216) -/
def LANTERN_SUM_BASE_HI_ADDR : Fld := ⟨0x1400008, 0x0, 0x0, 31, 0, 0x0⟩
/-! LANTERN_SUM_CFG (R216) -/
def LANTERN_SUM_CFG_STRIDE : Fld := ⟨0x140000C, 0x0, 0x0, 7, 0, 0x0⟩
/-! LANTERN_CAL_LIMIT (R216) -/
def LANTERN_CAL_LIMIT_LIMIT : Fld := ⟨0x1400010, 0x0, 0x0, 15, 0, 0x100040⟩
def LANTERN_CAL_LIMIT_GUARD : Fld := ⟨0x1400010, 0x0, 0x0, 31, 16, 0x100040⟩
/-! LANTERN_SELECTS (R216) -/
def LANTERN_SELECTS_COUNT : Fld := ⟨0x1400020, 0x0, 0x0, 31, 0, 0x0⟩
/-! LANTERN_FALLBACKS (R216) -/
def LANTERN_FALLBACKS_COUNT : Fld := ⟨0x1400024, 0x0, 0x0, 31, 0, 0x0⟩
/-! LANTERN_CAL_FAIL (R216) -/
def LANTERN_CAL_FAIL_COUNT : Fld := ⟨0x1400028, 0x0, 0x0, 31, 0, 0x0⟩
/-! LANTERN_UNSCORED (R216) -/
def LANTERN_UNSCORED_COUNT : Fld := ⟨0x140002C, 0x0, 0x0, 31, 0, 0x0⟩
/-! LANTERN_GROUP_STATUS (R216) -/
def LANTERN_GROUP_STATUS_USABLE : Fld := ⟨0x1400100, 0x4, 0x0, 4, 0, 0x0⟩
def LANTERN_GROUP_STATUS_TEMP_C : Fld := ⟨0x1400100, 0x4, 0x0, 15, 8, 0x0⟩
def LANTERN_GROUP_STATUS_POWERED : Fld := ⟨0x1400100, 0x4, 0x0, 16, 16, 0x0⟩
/-! LANTERN_ARRAY_STATUS (R216) -/
def LANTERN_ARRAY_STATUS_STATE : Fld := ⟨0x1400200, 0x8, 0x0, 1, 0, 0x0⟩
def LANTERN_ARRAY_STATUS_HELD : Fld := ⟨0x1400200, 0x8, 0x0, 2, 2, 0x0⟩
def LANTERN_ARRAY_STATUS_BAND : Fld := ⟨0x1400200, 0x8, 0x0, 19, 8, 0x0⟩
/-! LANTERN_ARRAY_CAL (R216) -/
def LANTERN_ARRAY_CAL_AGE_US : Fld := ⟨0x1400204, 0x8, 0x0, 23, 0, 0xFFFFFF⟩
def LANTERN_ARRAY_CAL_CAL_TEMP_C : Fld := ⟨0x1400204, 0x8, 0x0, 31, 24, 0xFFFFFF⟩
/-! LANTERN_TRIM (R216) -/
def LANTERN_TRIM_GAIN : Fld := ⟨0x1401000, 0x20, 0x4, 15, 0, 0x4000⟩
def LANTERN_TRIM_OFFSET : Fld := ⟨0x1401000, 0x20, 0x4, 31, 16, 0x4000⟩
/-! BEAT_CFG (R250) -/
def BEAT_CFG_SOURCE : Fld := ⟨0x1600000, 0x40, 0x0, 1, 0, 0x20001C⟩
def BEAT_CFG_SYNC_EN : Fld := ⟨0x1600000, 0x40, 0x0, 2, 2, 0x20001C⟩
def BEAT_CFG_AVG_LOG2 : Fld := ⟨0x1600000, 0x40, 0x0, 5, 3, 0x20001C⟩
def BEAT_CFG_LAYERS : Fld := ⟨0x1600000, 0x40, 0x0, 19, 8, 0x20001C⟩
def BEAT_CFG_MIN_US : Fld := ⟨0x1600000, 0x40, 0x0, 27, 20, 0x20001C⟩
/-! BEAT_STATUS (R250) -/
def BEAT_STATUS_STATE : Fld := ⟨0x1600004, 0x40, 0x0, 1, 0, 0x0⟩
def BEAT_STATUS_STEP_END : Fld := ⟨0x1600004, 0x40, 0x0, 2, 2, 0x0⟩
/-! BEAT_POS_LO (R250) -/
def BEAT_POS_LO_POS : Fld := ⟨0x1600008, 0x40, 0x0, 31, 0, 0x0⟩
/-! BEAT_POS_HI (R250) -/
def BEAT_POS_HI_POS : Fld := ⟨0x160000C, 0x40, 0x0, 31, 0, 0x0⟩
/-! BEAT_PERIOD (R250) -/
def BEAT_PERIOD_NS : Fld := ⟨0x1600010, 0x40, 0x0, 31, 0, 0x0⟩
/-! BEAT_GAP (R250) -/
def BEAT_GAP_NS : Fld := ⟨0x1600014, 0x40, 0x0, 31, 0, 0x0⟩
/-! BEAT_LAST_LO (R250) -/
def BEAT_LAST_LO_TIME : Fld := ⟨0x1600018, 0x40, 0x0, 31, 0, 0x0⟩
/-! BEAT_LAST_HI (R250) -/
def BEAT_LAST_HI_TIME : Fld := ⟨0x160001C, 0x40, 0x0, 31, 0, 0x0⟩
/-! BEAT_COUNTS (R250) -/
def BEAT_COUNTS_LOST : Fld := ⟨0x1600020, 0x40, 0x0, 7, 0, 0x0⟩
def BEAT_COUNTS_SLIPS : Fld := ⟨0x1600020, 0x40, 0x0, 15, 8, 0x0⟩
def BEAT_COUNTS_GLITCHES : Fld := ⟨0x1600020, 0x40, 0x0, 23, 16, 0x0⟩
def BEAT_COUNTS_MISSED : Fld := ⟨0x1600020, 0x40, 0x0, 31, 24, 0x0⟩
/-! SCHED_BASE_LO (R250) -/
def SCHED_BASE_LO_ADDR : Fld := ⟨0x1600400, 0x0, 0x0, 31, 0, 0x0⟩
/-! SCHED_BASE_HI (R250) -/
def SCHED_BASE_HI_ADDR : Fld := ⟨0x1600404, 0x0, 0x0, 31, 0, 0x0⟩
/-! SCHED_CFG (R250) -/
def SCHED_CFG_MARGIN_NS : Fld := ⟨0x1600408, 0x0, 0x0, 15, 0, 0x3E8⟩
def SCHED_CFG_MISS_IRQ : Fld := ⟨0x1600408, 0x0, 0x0, 16, 16, 0x3E8⟩
/-! SCHED_IMAGES (R250) -/
def SCHED_IMAGES_LOADED : Fld := ⟨0x160040C, 0x0, 0x0, 2, 0, 0x0⟩
/-! SCHED_ISSUED (R250) -/
def SCHED_ISSUED_COUNT : Fld := ⟨0x1600410, 0x0, 0x0, 31, 0, 0x0⟩
/-! SCHED_DEGRADED (R250) -/
def SCHED_DEGRADED_COUNT : Fld := ⟨0x1600414, 0x0, 0x0, 31, 0, 0x0⟩
/-! SCHED_PARTIAL (R250) -/
def SCHED_PARTIAL_COUNT : Fld := ⟨0x1600418, 0x0, 0x0, 31, 0, 0x0⟩
/-! SCHED_DROPPED (R250) -/
def SCHED_DROPPED_COUNT : Fld := ⟨0x160041C, 0x0, 0x0, 31, 0, 0x0⟩
/-! SCHED_LATE (R250) -/
def SCHED_LATE_COUNT : Fld := ⟨0x1600420, 0x0, 0x0, 31, 0, 0x0⟩
/-! TIER_HBM_BASE_LO (R288) -/
def TIER_HBM_BASE_LO_ADDR : Fld := ⟨0x1800000, 0x0, 0x0, 31, 0, 0x0⟩
/-! TIER_HBM_BASE_HI (R288) -/
def TIER_HBM_BASE_HI_ADDR : Fld := ⟨0x1800004, 0x0, 0x0, 31, 0, 0x0⟩
/-! TIER_PLACE_BASE_LO (R288) -/
def TIER_PLACE_BASE_LO_ADDR : Fld := ⟨0x1800008, 0x0, 0x0, 31, 0, 0x0⟩
/-! TIER_PLACE_BASE_HI (R288) -/
def TIER_PLACE_BASE_HI_ADDR : Fld := ⟨0x180000C, 0x0, 0x0, 31, 0, 0x0⟩
/-! TIER_DIR_BASE_LO (R288) -/
def TIER_DIR_BASE_LO_ADDR : Fld := ⟨0x1800010, 0x0, 0x0, 31, 0, 0x0⟩
/-! TIER_DIR_BASE_HI (R288) -/
def TIER_DIR_BASE_HI_ADDR : Fld := ⟨0x1800014, 0x0, 0x0, 31, 0, 0x0⟩
/-! TIER_DIR_CFG (R288) -/
def TIER_DIR_CFG_LOG2_LEAVES : Fld := ⟨0x1800018, 0x0, 0x0, 4, 0, 0x18⟩
/-! TIER_HBM_SLOTS (R288) -/
def TIER_HBM_SLOTS_SLOTS : Fld := ⟨0x180001C, 0x0, 0x0, 20, 0, 0x0⟩
/-! TIER_SAMPLE_CFG (R288) -/
def TIER_SAMPLE_CFG_N_LOG2 : Fld := ⟨0x1800020, 0x0, 0x0, 3, 0, 0x3C0406⟩
def TIER_SAMPLE_CFG_PROMOTE_HEAT : Fld := ⟨0x1800020, 0x0, 0x0, 15, 8, 0x3C0406⟩
def TIER_SAMPLE_CFG_LAP_S : Fld := ⟨0x1800020, 0x0, 0x0, 31, 16, 0x3C0406⟩
/-! TIER_MIG_CFG (R288) -/
def TIER_MIG_CFG_PROMOTE_MBS : Fld := ⟨0x1800024, 0x0, 0x0, 15, 0, 0x4000800⟩
def TIER_MIG_CFG_WB_MBS : Fld := ⟨0x1800024, 0x0, 0x0, 31, 16, 0x4000800⟩
/-! TIER_WATER (R288) -/
def TIER_WATER_LOW : Fld := ⟨0x1800030, 0x4, 0x0, 9, 0, 0x100008⟩
def TIER_WATER_HIGH : Fld := ⟨0x1800030, 0x4, 0x0, 25, 16, 0x100008⟩
/-! TIER_CLASS_SEL (R288) -/
def TIER_CLASS_SEL_PARTITION : Fld := ⟨0x1800040, 0x0, 0x0, 6, 0, 0x0⟩
def TIER_CLASS_SEL_CLASS : Fld := ⟨0x1800040, 0x0, 0x0, 15, 8, 0x0⟩
/-! TIER_CLASS_HINTS (R288) -/
def TIER_CLASS_HINTS_HINTS : Fld := ⟨0x1800044, 0x0, 0x0, 7, 0, 0x0⟩
def TIER_CLASS_HINTS_VALID : Fld := ⟨0x1800044, 0x0, 0x0, 8, 8, 0x0⟩
/-! TIER_PROMOTIONS (R288) -/
def TIER_PROMOTIONS_COUNT : Fld := ⟨0x1800100, 0x0, 0x0, 31, 0, 0x0⟩
/-! TIER_DEMOTIONS (R288) -/
def TIER_DEMOTIONS_COUNT : Fld := ⟨0x1800104, 0x0, 0x0, 31, 0, 0x0⟩
/-! TIER_EVICTIONS (R288) -/
def TIER_EVICTIONS_COUNT : Fld := ⟨0x1800108, 0x0, 0x0, 31, 0, 0x0⟩
/-! TIER_WRITEBACKS (R288) -/
def TIER_WRITEBACKS_COUNT : Fld := ⟨0x180010C, 0x0, 0x0, 31, 0, 0x0⟩
/-! TIER_FALLBACKS (R288) -/
def TIER_FALLBACKS_COUNT : Fld := ⟨0x1800110, 0x0, 0x0, 31, 0, 0x0⟩
/-! TIER_SHADOWS (R288) -/
def TIER_SHADOWS_COUNT : Fld := ⟨0x1800114, 0x0, 0x0, 31, 0, 0x0⟩
/-! TIER_SHADOW_SKIP (R288) -/
def TIER_SHADOW_SKIP_COUNT : Fld := ⟨0x1800118, 0x0, 0x0, 31, 0, 0x0⟩
/-! TIER_RELIEF_FAIL (R288) -/
def TIER_RELIEF_FAIL_COUNT : Fld := ⟨0x180011C, 0x0, 0x0, 31, 0, 0x0⟩
/-! FLASH_CFG (R321) -/
def FLASH_CFG_MODE : Fld := ⟨0x1C00000, 0x0, 0x0, 1, 0, 0x2842400⟩
def FLASH_CFG_RATE : Fld := ⟨0x1C00000, 0x0, 0x0, 15, 8, 0x2842400⟩
def FLASH_CFG_SLC_PCT : Fld := ⟨0x1C00000, 0x0, 0x0, 19, 16, 0x2842400⟩
def FLASH_CFG_RESERVE_PCT : Fld := ⟨0x1C00000, 0x0, 0x0, 23, 20, 0x2842400⟩
def FLASH_CFG_SPARE_PCT : Fld := ⟨0x1C00000, 0x0, 0x0, 27, 24, 0x2842400⟩
/-! FLASH_MAP_BASE_LO (R321) -/
def FLASH_MAP_BASE_LO_ADDR : Fld := ⟨0x1C00004, 0x0, 0x0, 31, 0, 0x0⟩
/-! FLASH_MAP_BASE_HI (R321) -/
def FLASH_MAP_BASE_HI_ADDR : Fld := ⟨0x1C00008, 0x0, 0x0, 31, 0, 0x0⟩
/-! FLASH_META_BASE_LO (R321) -/
def FLASH_META_BASE_LO_ADDR : Fld := ⟨0x1C0000C, 0x0, 0x0, 31, 0, 0x0⟩
/-! FLASH_META_BASE_HI (R321) -/
def FLASH_META_BASE_HI_ADDR : Fld := ⟨0x1C00010, 0x0, 0x0, 31, 0, 0x0⟩
/-! FLASH_STATUS (R321) -/
def FLASH_STATUS_STATE : Fld := ⟨0x1C00014, 0x0, 0x0, 2, 0, 0x0⟩
def FLASH_STATUS_PF : Fld := ⟨0x1C00014, 0x0, 0x0, 3, 3, 0x0⟩
def FLASH_STATUS_SAFE : Fld := ⟨0x1C00014, 0x0, 0x0, 4, 4, 0x0⟩
def FLASH_STATUS_UNCLEAN : Fld := ⟨0x1C00014, 0x0, 0x0, 5, 5, 0x0⟩
def FLASH_STATUS_SNAP_BUSY : Fld := ⟨0x1C00014, 0x0, 0x0, 6, 6, 0x0⟩
def FLASH_STATUS_PROFILE_EPOCH : Fld := ⟨0x1C00014, 0x0, 0x0, 15, 8, 0x0⟩
def FLASH_STATUS_DIES_PER_CH : Fld := ⟨0x1C00014, 0x0, 0x0, 21, 16, 0x0⟩
/-! FLASH_USABLE (R321) -/
def FLASH_USABLE_LEAVES : Fld := ⟨0x1C00018, 0x0, 0x0, 31, 0, 0x0⟩
/-! FLASH_GC_CFG (R321) -/
def FLASH_GC_CFG_CRIT : Fld := ⟨0x1C0001C, 0x0, 0x0, 7, 0, 0x10180C04⟩
def FLASH_GC_CFG_LOW : Fld := ⟨0x1C0001C, 0x0, 0x0, 15, 8, 0x10180C04⟩
def FLASH_GC_CFG_HIGH : Fld := ⟨0x1C0001C, 0x0, 0x0, 23, 16, 0x10180C04⟩
def FLASH_GC_CFG_FOLD : Fld := ⟨0x1C0001C, 0x0, 0x0, 29, 24, 0x10180C04⟩
/-! FLASH_READ_CFG (R321) -/
def FLASH_READ_CFG_SLOW_MULT : Fld := ⟨0x1C00020, 0x0, 0x0, 3, 0, 0x1023⟩
def FLASH_READ_CFG_RETIRE_REBUILDS : Fld := ⟨0x1C00020, 0x0, 0x0, 7, 4, 0x1023⟩
def FLASH_READ_CFG_SLOW_ENTER : Fld := ⟨0x1C00020, 0x0, 0x0, 15, 8, 0x1023⟩
/-! FLASH_CKPT_CFG (R321) -/
def FLASH_CKPT_CFG_MUS : Fld := ⟨0x1C00024, 0x0, 0x0, 15, 0, 0x400⟩
/-! FLASH_MOUNT_CFG (R321) -/
def FLASH_MOUNT_CFG_OFF_HOURS : Fld := ⟨0x1C00028, 0x0, 0x0, 23, 0, 0x0⟩
/-! FLASH_CTL (R321) -/
def FLASH_CTL_HEALTH_SNAP : Fld := ⟨0x1C0002C, 0x0, 0x0, 0, 0, 0x0⟩
/-! FLASH_HEALTH_ADDR_LO (R321) -/
def FLASH_HEALTH_ADDR_LO_ADDR : Fld := ⟨0x1C00030, 0x0, 0x0, 31, 0, 0x0⟩
/-! FLASH_HEALTH_ADDR_HI (R321) -/
def FLASH_HEALTH_ADDR_HI_ADDR : Fld := ⟨0x1C00034, 0x0, 0x0, 31, 0, 0x0⟩
/-! FLASH_SPARE (R321) -/
def FLASH_SPARE_LEFT : Fld := ⟨0x1C00100, 0x4, 0x0, 16, 0, 0x0⟩
/-! FLASH_CORRECTED (R321) -/
def FLASH_CORRECTED_COUNT : Fld := ⟨0x1C00200, 0x0, 0x0, 31, 0, 0x0⟩
/-! FLASH_RETRIED (R321) -/
def FLASH_RETRIED_COUNT : Fld := ⟨0x1C00204, 0x0, 0x0, 31, 0, 0x0⟩
/-! FLASH_REBUILT (R321) -/
def FLASH_REBUILT_COUNT : Fld := ⟨0x1C00208, 0x0, 0x0, 31, 0, 0x0⟩
/-! FLASH_UNCORRECTABLE (R321) -/
def FLASH_UNCORRECTABLE_COUNT : Fld := ⟨0x1C0020C, 0x0, 0x0, 31, 0, 0x0⟩
/-! FLASH_SLOW_READS (R321) -/
def FLASH_SLOW_READS_COUNT : Fld := ⟨0x1C00210, 0x0, 0x0, 31, 0, 0x0⟩
/-! FLASH_PROG_FAIL (R321) -/
def FLASH_PROG_FAIL_COUNT : Fld := ⟨0x1C00214, 0x0, 0x0, 31, 0, 0x0⟩
/-! FLASH_ERASE_FAIL (R321) -/
def FLASH_ERASE_FAIL_COUNT : Fld := ⟨0x1C00218, 0x0, 0x0, 31, 0, 0x0⟩
/-! FLASH_PF_EVENTS (R321) -/
def FLASH_PF_EVENTS_COUNT : Fld := ⟨0x1C0021C, 0x0, 0x0, 31, 0, 0x0⟩
/-! FLASH_DIE_STATUS (R321) -/
def FLASH_DIE_STATUS_STATE : Fld := ⟨0x1C01000, 0x4, 0x0, 1, 0, 0x0⟩
def FLASH_DIE_STATUS_TEMP_C : Fld := ⟨0x1C01000, 0x4, 0x0, 15, 8, 0x0⟩
def FLASH_DIE_STATUS_WEAR_PCT : Fld := ⟨0x1C01000, 0x4, 0x0, 23, 16, 0x0⟩
/-! POOL_CFG (R344) -/
def POOL_CFG_DC_ACCEPT : Fld := ⟨0x2000000, 0x0, 0x0, 0, 0, 0x3E80002⟩
def POOL_CFG_DC_KIND : Fld := ⟨0x2000000, 0x0, 0x0, 2, 1, 0x3E80002⟩
def POOL_CFG_DC_OWNER : Fld := ⟨0x2000000, 0x0, 0x0, 10, 4, 0x3E80002⟩
def POOL_CFG_RELEASE_MS : Fld := ⟨0x2000000, 0x0, 0x0, 31, 16, 0x3E80002⟩
/-! POOL_STATUS (R344) -/
def POOL_STATUS_STATE : Fld := ⟨0x2000004, 0x0, 0x0, 1, 0, 0x0⟩
def POOL_STATUS_CXL31 : Fld := ⟨0x2000004, 0x0, 0x0, 2, 2, 0x0⟩
def POOL_STATUS_WIDTH : Fld := ⟨0x2000004, 0x0, 0x0, 7, 3, 0x0⟩
def POOL_STATUS_EXTENTS : Fld := ⟨0x2000004, 0x0, 0x0, 16, 8, 0x0⟩
def POOL_STATUS_TARGETS : Fld := ⟨0x2000004, 0x0, 0x0, 23, 17, 0x0⟩
/-! POOL_CTL (R344) -/
def POOL_CTL_RESTART : Fld := ⟨0x2000008, 0x0, 0x0, 0, 0, 0x0⟩
/-! POOL_BW_CFG (R344) -/
def POOL_BW_CFG_INTERVAL_US : Fld := ⟨0x200000C, 0x0, 0x0, 7, 0, 0x40001⟩
def POOL_BW_CFG_BURST_KIB : Fld := ⟨0x200000C, 0x0, 0x0, 23, 8, 0x40001⟩
/-! POOL_EXT_SEL (R344) -/
def POOL_EXT_SEL_INDEX : Fld := ⟨0x2000010, 0x0, 0x0, 7, 0, 0x0⟩
/-! POOL_EXT_BASE (R344) -/
def POOL_EXT_BASE_UNITS : Fld := ⟨0x2000014, 0x0, 0x0, 23, 0, 0x0⟩
/-! POOL_EXT_LEN (R344) -/
def POOL_EXT_LEN_UNITS : Fld := ⟨0x2000018, 0x0, 0x0, 23, 0, 0x0⟩
/-! POOL_EXT_CFG (R344) -/
def POOL_EXT_CFG_TARGET : Fld := ⟨0x200001C, 0x0, 0x0, 5, 0, 0x100000⟩
def POOL_EXT_CFG_KIND : Fld := ⟨0x200001C, 0x0, 0x0, 7, 6, 0x100000⟩
def POOL_EXT_CFG_OWNER : Fld := ⟨0x200001C, 0x0, 0x0, 14, 8, 0x100000⟩
def POOL_EXT_CFG_HOME : Fld := ⟨0x200001C, 0x0, 0x0, 19, 16, 0x100000⟩
def POOL_EXT_CFG_HOME_LOCAL : Fld := ⟨0x200001C, 0x0, 0x0, 20, 20, 0x100000⟩
def POOL_EXT_CFG_DYNAMIC : Fld := ⟨0x200001C, 0x0, 0x0, 21, 21, 0x100000⟩
/-! POOL_EXT_CTL (R344) -/
def POOL_EXT_CTL_ADD : Fld := ⟨0x2000020, 0x0, 0x0, 0, 0, 0x0⟩
def POOL_EXT_CTL_RELEASE : Fld := ⟨0x2000020, 0x0, 0x0, 1, 1, 0x0⟩
/-! POOL_EXT_STATUS (R344) -/
def POOL_EXT_STATUS_STATE : Fld := ⟨0x2000024, 0x0, 0x0, 1, 0, 0x0⟩
def POOL_EXT_STATUS_BLOCKED : Fld := ⟨0x2000024, 0x0, 0x0, 2, 2, 0x0⟩
def POOL_EXT_STATUS_PRIMARIES : Fld := ⟨0x2000024, 0x0, 0x0, 31, 8, 0x0⟩
/-! POOL_TARGET_LOAD (R344) -/
def POOL_TARGET_LOAD_FACTOR : Fld := ⟨0x2000100, 0x4, 0x0, 8, 0, 0x100⟩
def POOL_TARGET_LOAD_DEVLOAD : Fld := ⟨0x2000100, 0x4, 0x0, 10, 9, 0x100⟩
def POOL_TARGET_LOAD_LAT_NS : Fld := ⟨0x2000100, 0x4, 0x0, 31, 16, 0x100⟩
/-! POOL_LEASE_LOST (R344) -/
def POOL_LEASE_LOST_COUNT : Fld := ⟨0x2000200, 0x0, 0x0, 31, 0, 0x0⟩
/-! POOL_POISON_READS (R344) -/
def POOL_POISON_READS_COUNT : Fld := ⟨0x2000204, 0x0, 0x0, 31, 0, 0x0⟩
/-! POOL_THROTTLED (R344) -/
def POOL_THROTTLED_COUNT : Fld := ⟨0x2000208, 0x0, 0x0, 31, 0, 0x0⟩
/-! NET_PORT_CFG (R365) -/
def NET_PORT_CFG_MODE : Fld := ⟨0x2400000, 0x100, 0x0, 2, 0, 0x10⟩
def NET_PORT_CFG_ENABLE : Fld := ⟨0x2400000, 0x100, 0x0, 3, 3, 0x10⟩
def NET_PORT_CFG_AN_EN : Fld := ⟨0x2400000, 0x100, 0x0, 4, 4, 0x10⟩
def NET_PORT_CFG_PFC_EN : Fld := ⟨0x2400000, 0x100, 0x0, 15, 8, 0x10⟩
/-! NET_PORT_STATUS (R365) -/
def NET_PORT_STATUS_LINK_UP : Fld := ⟨0x2400004, 0x100, 0x0, 3, 0, 0x0⟩
def NET_PORT_STATUS_MODE : Fld := ⟨0x2400004, 0x100, 0x0, 6, 4, 0x0⟩
/-! NET_SUB_SEL (R365) -/
def NET_SUB_SEL_PORT : Fld := ⟨0x2400800, 0x0, 0x0, 1, 0, 0x0⟩
def NET_SUB_SEL_SUB : Fld := ⟨0x2400800, 0x0, 0x0, 3, 2, 0x0⟩
/-! NET_SUB_MAC_LO (R365) -/
def NET_SUB_MAC_LO_VALUE : Fld := ⟨0x2400804, 0x0, 0x0, 31, 0, 0x0⟩
/-! NET_SUB_MAC_HI (R365) -/
def NET_SUB_MAC_HI_VALUE : Fld := ⟨0x2400808, 0x0, 0x0, 31, 0, 0x0⟩
/-! NET_SUB_IPV4 (R365) -/
def NET_SUB_IPV4_VALUE : Fld := ⟨0x240080C, 0x0, 0x0, 31, 0, 0x0⟩
/-! NET_SUB_IPV6 (R365) -/
def NET_SUB_IPV6_VALUE : Fld := ⟨0x2400810, 0x4, 0x0, 31, 0, 0x0⟩
/-! NET_PKEY_CFG (R365) -/
def NET_PKEY_CFG_BASE : Fld := ⟨0x2401000, 0x0, 0x0, 7, 0, 0x1⟩
/-! NET_TABLE_BASE_LO (R365) -/
def NET_TABLE_BASE_LO_ADDR : Fld := ⟨0x2401004, 0x0, 0x0, 31, 0, 0x0⟩
/-! NET_TABLE_BASE_HI (R365) -/
def NET_TABLE_BASE_HI_ADDR : Fld := ⟨0x2401008, 0x0, 0x0, 31, 0, 0x0⟩
/-! NET_QP_SEL (R365) -/
def NET_QP_SEL_QP : Fld := ⟨0x2401010, 0x0, 0x0, 14, 0, 0x0⟩
/-! NET_QP_CTX_LO (R365) -/
def NET_QP_CTX_LO_ADDR : Fld := ⟨0x2401014, 0x0, 0x0, 31, 0, 0x0⟩
/-! NET_QP_CTX_HI (R365) -/
def NET_QP_CTX_HI_ADDR : Fld := ⟨0x2401018, 0x0, 0x0, 31, 0, 0x0⟩
/-! NET_QP_CTL (R365) -/
def NET_QP_CTL_CMD : Fld := ⟨0x240101C, 0x0, 0x0, 1, 0, 0x0⟩
/-! NET_QP_STATUS (R365) -/
def NET_QP_STATUS_STATE : Fld := ⟨0x2401020, 0x0, 0x0, 1, 0, 0x0⟩
def NET_QP_STATUS_CMD_ERR : Fld := ⟨0x2401020, 0x0, 0x0, 2, 2, 0x0⟩
def NET_QP_STATUS_ADMITTED : Fld := ⟨0x2401020, 0x0, 0x0, 18, 8, 0x0⟩
/-! NET_ASYNC (R365) -/
def NET_ASYNC_QP : Fld := ⟨0x2401030, 0x0, 0x0, 14, 0, 0x0⟩
def NET_ASYNC_CAUSE : Fld := ⟨0x2401030, 0x0, 0x0, 18, 16, 0x0⟩
def NET_ASYNC_OVERFLOW : Fld := ⟨0x2401030, 0x0, 0x0, 30, 30, 0x0⟩
def NET_ASYNC_VALID : Fld := ⟨0x2401030, 0x0, 0x0, 31, 31, 0x0⟩
/-! NET_CC_CFG (R365) -/
def NET_CC_CFG_DEC_LOG2 : Fld := ⟨0x2401040, 0x0, 0x0, 3, 0, 0x1900001⟩
def NET_CC_CFG_AI_MBS : Fld := ⟨0x2401040, 0x0, 0x0, 31, 16, 0x1900001⟩
/-! NET_DUP_WRITES (R365) -/
def NET_DUP_WRITES_COUNT : Fld := ⟨0x2401100, 0x0, 0x0, 31, 0, 0x0⟩
/-! NET_DUP_SENDS (R365) -/
def NET_DUP_SENDS_COUNT : Fld := ⟨0x2401104, 0x0, 0x0, 31, 0, 0x0⟩
/-! NET_ACCESS_NAKS (R365) -/
def NET_ACCESS_NAKS_COUNT : Fld := ⟨0x2401108, 0x0, 0x0, 31, 0, 0x0⟩
/-! NET_RNR_NAKS (R365) -/
def NET_RNR_NAKS_COUNT : Fld := ⟨0x240110C, 0x0, 0x0, 31, 0, 0x0⟩
/-! NET_PKEY_DROPS (R365) -/
def NET_PKEY_DROPS_COUNT : Fld := ⟨0x2401110, 0x0, 0x0, 31, 0, 0x0⟩
/-! NET_QWP_REQUESTS (R365) -/
def NET_QWP_REQUESTS_COUNT : Fld := ⟨0x2401114, 0x0, 0x0, 31, 0, 0x0⟩
/-! TRAFFIC_SEL (R377) -/
def TRAFFIC_SEL_PORT : Fld := ⟨0x2800000, 0x0, 0x0, 4, 0, 0x0⟩
def TRAFFIC_SEL_QUEUE : Fld := ⟨0x2800000, 0x0, 0x0, 13, 8, 0x0⟩
/-! TRAFFIC_Q_RATE (R377) -/
def TRAFFIC_Q_RATE_MBPS : Fld := ⟨0x2800004, 0x0, 0x0, 19, 0, 0x0⟩
/-! TRAFFIC_Q_BURST (R377) -/
def TRAFFIC_Q_BURST_UNITS : Fld := ⟨0x2800008, 0x0, 0x0, 15, 0, 0x100⟩
/-! TRAFFIC_Q_QUANTUM (R377) -/
def TRAFFIC_Q_QUANTUM_UNITS : Fld := ⟨0x280000C, 0x0, 0x0, 15, 0, 0x20⟩
/-! TRAFFIC_Q_CREDIT (R377) -/
def TRAFFIC_Q_CREDIT_BYTES : Fld := ⟨0x2800010, 0x0, 0x0, 31, 0, 0x0⟩
/-! TRAFFIC_Q_DEPTH (R377) -/
def TRAFFIC_Q_DEPTH_LAST : Fld := ⟨0x2800014, 0x0, 0x0, 15, 0, 0x0⟩
def TRAFFIC_Q_DEPTH_MAX : Fld := ⟨0x2800014, 0x0, 0x0, 31, 16, 0x0⟩
/-! TRAFFIC_Q_DELAY (R377) -/
def TRAFFIC_Q_DELAY_LAST : Fld := ⟨0x2800018, 0x0, 0x0, 15, 0, 0x0⟩
def TRAFFIC_Q_DELAY_MAX : Fld := ⟨0x2800018, 0x0, 0x0, 31, 16, 0x0⟩
/-! TRAFFIC_STAT_CTL (R377) -/
def TRAFFIC_STAT_CTL_CLEAR : Fld := ⟨0x280001C, 0x0, 0x0, 0, 0, 0x0⟩
def TRAFFIC_STAT_CTL_ALL : Fld := ⟨0x280001C, 0x0, 0x0, 1, 1, 0x0⟩
/-! TRAFFIC_PORT_CFG (R377) -/
def TRAFFIC_PORT_CFG_INTERVAL : Fld := ⟨0x2800100, 0x4, 0x0, 5, 0, 0x81404⟩
def TRAFFIC_PORT_CFG_OVERHEAD : Fld := ⟨0x2800100, 0x4, 0x0, 15, 8, 0x81404⟩
def TRAFFIC_PORT_CFG_DELAY_LOG2 : Fld := ⟨0x2800100, 0x4, 0x0, 19, 16, 0x81404⟩
/-! TRAFFIC_METER_GREEN (R377) -/
def TRAFFIC_METER_GREEN_COUNT : Fld := ⟨0x2801000, 0x10, 0x0, 31, 0, 0x0⟩
/-! TRAFFIC_METER_YELLOW (R377) -/
def TRAFFIC_METER_YELLOW_COUNT : Fld := ⟨0x2801004, 0x10, 0x0, 31, 0, 0x0⟩
/-! TRAFFIC_METER_RED (R377) -/
def TRAFFIC_METER_RED_COUNT : Fld := ⟨0x2801008, 0x10, 0x0, 31, 0, 0x0⟩
/-! TRAFFIC_METER_DROP (R377) -/
def TRAFFIC_METER_DROP_COUNT : Fld := ⟨0x280100C, 0x10, 0x0, 31, 0, 0x0⟩
/-! RING_CFG (R401) -/
def RING_CFG_ENABLE : Fld := ⟨0x2C00000, 0x0, 0x0, 0, 0, 0x3E86404⟩
def RING_CFG_LANE_RATE : Fld := ⟨0x2C00000, 0x0, 0x0, 1, 1, 0x3E86404⟩
def RING_CFG_AUTO_SHARD : Fld := ⟨0x2C00000, 0x0, 0x0, 2, 2, 0x3E86404⟩
def RING_CFG_RETX_US : Fld := ⟨0x2C00000, 0x0, 0x0, 15, 8, 0x3E86404⟩
def RING_CFG_REASSIGN_MS : Fld := ⟨0x2C00000, 0x0, 0x0, 31, 16, 0x3E86404⟩
/-! RING_STATUS (R401) -/
def RING_STATUS_STATE : Fld := ⟨0x2C00004, 0x0, 0x0, 1, 0, 0x0⟩
def RING_STATUS_POSITION : Fld := ⟨0x2C00004, 0x0, 0x0, 5, 2, 0x0⟩
def RING_STATUS_ROLE : Fld := ⟨0x2C00004, 0x0, 0x0, 7, 6, 0x0⟩
def RING_STATUS_EAST_UP : Fld := ⟨0x2C00004, 0x0, 0x0, 8, 8, 0x0⟩
def RING_STATUS_WEST_UP : Fld := ⟨0x2C00004, 0x0, 0x0, 9, 9, 0x0⟩
def RING_STATUS_SYNCED : Fld := ⟨0x2C00004, 0x0, 0x0, 10, 10, 0x0⟩
def RING_STATUS_NO_MASTER : Fld := ⟨0x2C00004, 0x0, 0x0, 11, 11, 0x0⟩
def RING_STATUS_ID_ERR : Fld := ⟨0x2C00004, 0x0, 0x0, 12, 12, 0x0⟩
def RING_STATUS_FULL : Fld := ⟨0x2C00004, 0x0, 0x0, 13, 13, 0x0⟩
def RING_STATUS_RING_ID : Fld := ⟨0x2C00004, 0x0, 0x0, 15, 14, 0x0⟩
def RING_STATUS_MEMBERS : Fld := ⟨0x2C00004, 0x0, 0x0, 20, 16, 0x0⟩
/-! RING_CTL (R401) -/
def RING_CTL_LEAVE : Fld := ⟨0x2C00008, 0x0, 0x0, 0, 0, 0x0⟩
def RING_CTL_COMMIT : Fld := ⟨0x2C00008, 0x0, 0x0, 1, 1, 0x0⟩
def RING_CTL_FORGET : Fld := ⟨0x2C00008, 0x0, 0x0, 2, 2, 0x0⟩
def RING_CTL_REBALANCE : Fld := ⟨0x2C00008, 0x0, 0x0, 3, 3, 0x0⟩
def RING_CTL_POSITION : Fld := ⟨0x2C00008, 0x0, 0x0, 7, 4, 0x0⟩
/-! RING_SHARD_EPOCH (R401) -/
def RING_SHARD_EPOCH_CURRENT : Fld := ⟨0x2C0000C, 0x0, 0x0, 7, 0, 0x0⟩
def RING_SHARD_EPOCH_CHANGING : Fld := ⟨0x2C0000C, 0x0, 0x0, 8, 8, 0x0⟩
/-! RING_TIME_OFFSET (R401) -/
def RING_TIME_OFFSET_NS : Fld := ⟨0x2C00010, 0x0, 0x0, 31, 0, 0x0⟩
/-! RING_MEMBER (R401) -/
def RING_MEMBER_ASSIGNED : Fld := ⟨0x2C00100, 0x8, 0x0, 0, 0, 0x0⟩
def RING_MEMBER_PRESENT : Fld := ⟨0x2C00100, 0x8, 0x0, 1, 1, 0x0⟩
def RING_MEMBER_RANK : Fld := ⟨0x2C00100, 0x8, 0x0, 3, 2, 0x0⟩
def RING_MEMBER_HOPS : Fld := ⟨0x2C00100, 0x8, 0x0, 7, 4, 0x0⟩
def RING_MEMBER_INCARNATION : Fld := ⟨0x2C00100, 0x8, 0x0, 31, 16, 0x0⟩
/-! RING_MEMBER_SERIAL (R401) -/
def RING_MEMBER_SERIAL_SERIAL : Fld := ⟨0x2C00104, 0x8, 0x0, 31, 0, 0x0⟩
/-! RING_SHARD_SEL (R401) -/
def RING_SHARD_SEL_BUCKET : Fld := ⟨0x2C00200, 0x0, 0x0, 11, 0, 0x0⟩
/-! RING_SHARD_DATA (R401) -/
def RING_SHARD_DATA_OWNER : Fld := ⟨0x2C00204, 0x0, 0x0, 3, 0, 0x0⟩
/-! RING_FWD_FRAMES (R401) -/
def RING_FWD_FRAMES_COUNT : Fld := ⟨0x2C00300, 0x0, 0x0, 31, 0, 0x0⟩
/-! RING_RETX (R401) -/
def RING_RETX_COUNT : Fld := ⟨0x2C00304, 0x0, 0x0, 31, 0, 0x0⟩
/-! RING_TAG_FAIL (R401) -/
def RING_TAG_FAIL_COUNT : Fld := ⟨0x2C00308, 0x0, 0x0, 31, 0, 0x0⟩
/-! RING_HOP_DROPS (R401) -/
def RING_HOP_DROPS_COUNT : Fld := ⟨0x2C0030C, 0x0, 0x0, 31, 0, 0x0⟩
/-! RING_TAKEOVERS (R401) -/
def RING_TAKEOVERS_COUNT : Fld := ⟨0x2C00310, 0x0, 0x0, 31, 0, 0x0⟩
/-! RAS_STATUS (R423) -/
def RAS_STATUS_RECOVERING : Fld := ⟨0x3000000, 0x0, 0x0, 0, 0, 0x0⟩
def RAS_STATUS_FATAL : Fld := ⟨0x3000000, 0x0, 0x0, 1, 1, 0x0⟩
def RAS_STATUS_RECOVERIES : Fld := ⟨0x3000000, 0x0, 0x0, 15, 8, 0x0⟩
/-! RAS_CFG (R423) -/
def RAS_CFG_MARK_CW : Fld := ⟨0x3000004, 0x0, 0x0, 7, 0, 0x40310⟩
def RAS_CFG_MARK_SYM : Fld := ⟨0x3000004, 0x0, 0x0, 11, 8, 0x40310⟩
def RAS_CFG_UE_OFFLINE : Fld := ⟨0x3000004, 0x0, 0x0, 23, 16, 0x40310⟩
/-! RAS_HBM_STACK (R423) -/
def RAS_HBM_STACK_STATE : Fld := ⟨0x3000020, 0x4, 0x0, 1, 0, 0x0⟩
def RAS_HBM_STACK_DIE_A : Fld := ⟨0x3000020, 0x4, 0x0, 7, 4, 0x0⟩
def RAS_HBM_STACK_DIE_B : Fld := ⟨0x3000020, 0x4, 0x0, 11, 8, 0x0⟩
/-! RAS_HBM_CE (R423) -/
def RAS_HBM_CE_COUNT : Fld := ⟨0x3000040, 0x4, 0x0, 31, 0, 0x0⟩
/-! RAS_HBM_UE (R423) -/
def RAS_HBM_UE_COUNT : Fld := ⟨0x3000060, 0x4, 0x0, 31, 0, 0x0⟩
/-! RAS_HBM_POISON_READS (R423) -/
def RAS_HBM_POISON_READS_COUNT : Fld := ⟨0x3000080, 0x0, 0x0, 31, 0, 0x0⟩
/-! RAS_HW_CE (R423) -/
def RAS_HW_CE_COUNT : Fld := ⟨0x3000084, 0x0, 0x0, 31, 0, 0x0⟩
/-! RAS_HW_UE (R423) -/
def RAS_HW_UE_COUNT : Fld := ⟨0x3000088, 0x0, 0x0, 31, 0, 0x0⟩
/-! RAS_SRAM_CE (R423) -/
def RAS_SRAM_CE_COUNT : Fld := ⟨0x300008C, 0x0, 0x0, 31, 0, 0x0⟩
/-! RAS_SRAM_UE (R423) -/
def RAS_SRAM_UE_COUNT : Fld := ⟨0x3000090, 0x0, 0x0, 31, 0, 0x0⟩
/-! RAS_POISON_CONSUMED (R423) -/
def RAS_POISON_CONSUMED_COUNT : Fld := ⟨0x3000094, 0x0, 0x0, 31, 0, 0x0⟩
/-! RAS_KEEP_RESTARTS (R423) -/
def RAS_KEEP_RESTARTS_COUNT : Fld := ⟨0x3000098, 0x0, 0x0, 31, 0, 0x0⟩
/-! RAS_HBM_DIE_SYM (R423) -/
def RAS_HBM_DIE_SYM_COUNT : Fld := ⟨0x3000100, 0x40, 0x4, 31, 0, 0x0⟩
/-! RAS_LOG_SEL (R423) -/
def RAS_LOG_SEL_INDEX : Fld := ⟨0x3000400, 0x0, 0x0, 4, 0, 0x0⟩
/-! RAS_LOG_W0 (R423) -/
def RAS_LOG_W0_REPEATS : Fld := ⟨0x3000404, 0x0, 0x0, 7, 0, 0x0⟩
def RAS_LOG_W0_SYMBOLS : Fld := ⟨0x3000404, 0x0, 0x0, 15, 8, 0x0⟩
def RAS_LOG_W0_SUB : Fld := ⟨0x3000404, 0x0, 0x0, 21, 16, 0x0⟩
def RAS_LOG_W0_UNIT : Fld := ⟨0x3000404, 0x0, 0x0, 25, 22, 0x0⟩
def RAS_LOG_W0_SOURCE : Fld := ⟨0x3000404, 0x0, 0x0, 29, 26, 0x0⟩
def RAS_LOG_W0_UNCORRECTABLE : Fld := ⟨0x3000404, 0x0, 0x0, 30, 30, 0x0⟩
def RAS_LOG_W0_VALID : Fld := ⟨0x3000404, 0x0, 0x0, 31, 31, 0x0⟩
/-! RAS_LOG_ADDR_LO (R423) -/
def RAS_LOG_ADDR_LO_VALUE : Fld := ⟨0x3000408, 0x0, 0x0, 31, 0, 0x0⟩
/-! RAS_LOG_ADDR_HI (R423) -/
def RAS_LOG_ADDR_HI_VALUE : Fld := ⟨0x300040C, 0x0, 0x0, 31, 0, 0x0⟩
/-! RAS_LOG_TIME (R423) -/
def RAS_LOG_TIME_VALUE : Fld := ⟨0x3000410, 0x0, 0x0, 31, 0, 0x0⟩
/-! RAS_LOG_STATUS (R423) -/
def RAS_LOG_STATUS_USED : Fld := ⟨0x3000414, 0x0, 0x0, 5, 0, 0x0⟩
def RAS_LOG_STATUS_OVERFLOW : Fld := ⟨0x3000414, 0x0, 0x0, 6, 6, 0x0⟩
/-! RAS_RETIRE_ADDR_LO (R423) -/
def RAS_RETIRE_ADDR_LO_ADDR : Fld := ⟨0x3000500, 0x0, 0x0, 31, 0, 0x0⟩
/-! RAS_RETIRE_ADDR_HI (R423) -/
def RAS_RETIRE_ADDR_HI_ADDR : Fld := ⟨0x3000504, 0x0, 0x0, 31, 0, 0x0⟩
/-! RAS_RETIRE_CTL (R423) -/
def RAS_RETIRE_CTL_KIND : Fld := ⟨0x3000508, 0x0, 0x0, 2, 0, 0x0⟩
def RAS_RETIRE_CTL_UNIT : Fld := ⟨0x3000508, 0x0, 0x0, 11, 4, 0x0⟩
def RAS_RETIRE_CTL_DIE : Fld := ⟨0x3000508, 0x0, 0x0, 15, 12, 0x0⟩
def RAS_RETIRE_CTL_GO : Fld := ⟨0x3000508, 0x0, 0x0, 16, 16, 0x0⟩
/-! RAS_RETIRE_STATUS (R423) -/
def RAS_RETIRE_STATUS_BUSY : Fld := ⟨0x300050C, 0x0, 0x0, 0, 0, 0x0⟩
def RAS_RETIRE_STATUS_ERR : Fld := ⟨0x300050C, 0x0, 0x0, 3, 1, 0x0⟩
def RAS_RETIRE_STATUS_SLOTS : Fld := ⟨0x300050C, 0x0, 0x0, 28, 16, 0x0⟩
/-! RAS_CBT_ADDR_LO (R423) -/
def RAS_CBT_ADDR_LO_ADDR : Fld := ⟨0x3000600, 0x0, 0x0, 31, 0, 0x0⟩
/-! RAS_CBT_ADDR_HI (R423) -/
def RAS_CBT_ADDR_HI_ADDR : Fld := ⟨0x3000604, 0x0, 0x0, 31, 0, 0x0⟩
/-! RAS_CBT_BUF_LO (R423) -/
def RAS_CBT_BUF_LO_ADDR : Fld := ⟨0x3000608, 0x0, 0x0, 31, 0, 0x0⟩
/-! RAS_CBT_BUF_HI (R423) -/
def RAS_CBT_BUF_HI_ADDR : Fld := ⟨0x300060C, 0x0, 0x0, 31, 0, 0x0⟩
/-! RAS_CBT_CTL (R423) -/
def RAS_CBT_CTL_CMD : Fld := ⟨0x3000610, 0x0, 0x0, 1, 0, 0x0⟩
def RAS_CBT_CTL_ENABLE : Fld := ⟨0x3000610, 0x0, 0x0, 2, 2, 0x0⟩
/-! RAS_CBT_STATUS (R423) -/
def RAS_CBT_STATUS_BUSY : Fld := ⟨0x3000614, 0x0, 0x0, 0, 0, 0x0⟩
def RAS_CBT_STATUS_ERR : Fld := ⟨0x3000614, 0x0, 0x0, 1, 1, 0x0⟩
/-! RAS_INJECT (R423) -/
def RAS_INJECT_TARGET : Fld := ⟨0x3000620, 0x0, 0x0, 3, 0, 0x1000⟩
def RAS_INJECT_UNIT : Fld := ⟨0x3000620, 0x0, 0x0, 11, 4, 0x1000⟩
def RAS_INJECT_BITS : Fld := ⟨0x3000620, 0x0, 0x0, 13, 12, 0x1000⟩
def RAS_INJECT_ARM : Fld := ⟨0x3000620, 0x0, 0x0, 15, 15, 0x1000⟩
/-! RAS_BIST_CTL (R423) -/
def RAS_BIST_CTL_TARGET : Fld := ⟨0x3000700, 0x0, 0x0, 2, 0, 0x0⟩
def RAS_BIST_CTL_UNIT : Fld := ⟨0x3000700, 0x0, 0x0, 10, 3, 0x0⟩
def RAS_BIST_CTL_GO : Fld := ⟨0x3000700, 0x0, 0x0, 11, 11, 0x0⟩
/-! RAS_BIST_STATUS (R423) -/
def RAS_BIST_STATUS_BUSY : Fld := ⟨0x3000704, 0x0, 0x0, 0, 0, 0x0⟩
def RAS_BIST_STATUS_PASS : Fld := ⟨0x3000704, 0x0, 0x0, 1, 1, 0x0⟩
def RAS_BIST_STATUS_REFUSED : Fld := ⟨0x3000704, 0x0, 0x0, 2, 2, 0x0⟩
def RAS_BIST_STATUS_FAILS : Fld := ⟨0x3000704, 0x0, 0x0, 31, 16, 0x0⟩
/-! RAS_SCRUB_CFG (R423) -/
def RAS_SCRUB_CFG_MAX_GBS : Fld := ⟨0x3000800, 0x0, 0x0, 7, 0, 0x1840⟩
def RAS_SCRUB_CFG_WARN_H : Fld := ⟨0x3000800, 0x0, 0x0, 23, 8, 0x1840⟩
/-! RAS_SCRUB_LAP (R423) -/
def RAS_SCRUB_LAP_LAST : Fld := ⟨0x3000804, 0x0, 0x0, 23, 0, 0x0⟩
def RAS_SCRUB_LAP_LAPS : Fld := ⟨0x3000804, 0x0, 0x0, 31, 24, 0x0⟩
/-! RAS_SCRUB_SRAM_LAP (R423) -/
def RAS_SCRUB_SRAM_LAP_LAST : Fld := ⟨0x3000808, 0x0, 0x0, 23, 0, 0x0⟩
def RAS_SCRUB_SRAM_LAP_LAPS : Fld := ⟨0x3000808, 0x0, 0x0, 31, 24, 0x0⟩
/-! RAS_SCRUB_POS (R423) -/
def RAS_SCRUB_POS_PCT : Fld := ⟨0x300080C, 0x0, 0x0, 6, 0, 0x0⟩
def RAS_SCRUB_POS_STALLED : Fld := ⟨0x300080C, 0x0, 0x0, 7, 7, 0x0⟩
/-! SEC_STATUS (R446) -/
def SEC_STATUS_PROVISIONED : Fld := ⟨0x3400000, 0x0, 0x0, 0, 0, 0x0⟩
def SEC_STATUS_FLEET_SET : Fld := ⟨0x3400000, 0x0, 0x0, 1, 1, 0x0⟩
def SEC_STATUS_SEALED : Fld := ⟨0x3400000, 0x0, 0x0, 2, 2, 0x0⟩
def SEC_STATUS_DEBUG : Fld := ⟨0x3400000, 0x0, 0x0, 7, 3, 0x0⟩
def SEC_STATUS_HOST_IDE : Fld := ⟨0x3400000, 0x0, 0x0, 8, 8, 0x0⟩
def SEC_STATUS_SEL_STREAMS : Fld := ⟨0x3400000, 0x0, 0x0, 15, 9, 0x0⟩
/-! SEC_KEY_SEL (R446) -/
def SEC_KEY_SEL_PARTITION : Fld := ⟨0x3400010, 0x0, 0x0, 6, 0, 0x0⟩
/-! SEC_KEY_CTL (R446) -/
def SEC_KEY_CTL_ROTATE : Fld := ⟨0x3400014, 0x0, 0x0, 0, 0, 0x0⟩
/-! SEC_KEY_STATUS (R446) -/
def SEC_KEY_STATUS_ERR : Fld := ⟨0x3400018, 0x0, 0x0, 1, 0, 0x0⟩
def SEC_KEY_STATUS_SWEEPING : Fld := ⟨0x3400018, 0x0, 0x0, 2, 2, 0x0⟩
/-! SEC_STAGE_EPOCH (R446) -/
def SEC_STAGE_EPOCH_CURRENT : Fld := ⟨0x3400020, 0x0, 0x0, 7, 0, 0x0⟩
def SEC_STAGE_EPOCH_PREVIOUS : Fld := ⟨0x3400020, 0x0, 0x0, 15, 8, 0x0⟩
/-! SEC_SCRUB_CFG (R446) -/
def SEC_SCRUB_CFG_HBM_GBS : Fld := ⟨0x3400024, 0x0, 0x0, 11, 0, 0x200⟩
/-! SEC_EVENT (R446) -/
def SEC_EVENT_CAUSE : Fld := ⟨0x3400030, 0x0, 0x0, 3, 0, 0x0⟩
def SEC_EVENT_PARTITION : Fld := ⟨0x3400030, 0x0, 0x0, 10, 4, 0x0⟩
def SEC_EVENT_OVERFLOW : Fld := ⟨0x3400030, 0x0, 0x0, 30, 30, 0x0⟩
def SEC_EVENT_VALID : Fld := ⟨0x3400030, 0x0, 0x0, 31, 31, 0x0⟩
/-! SEC_WINDOW_REFUSED (R446) -/
def SEC_WINDOW_REFUSED_COUNT : Fld := ⟨0x3400040, 0x0, 0x0, 31, 0, 0x0⟩
/-! SEC_TAG_FAIL (R446) -/
def SEC_TAG_FAIL_COUNT : Fld := ⟨0x3400044, 0x0, 0x0, 31, 0, 0x0⟩
/-! SEC_PAD_OVERRUN (R446) -/
def SEC_PAD_OVERRUN_COUNT : Fld := ⟨0x3400048, 0x0, 0x0, 31, 0, 0x0⟩
/-! SEC_SGRP_ID_LO (R446) -/
def SEC_SGRP_ID_LO_ID : Fld := ⟨0x3400100, 0x8, 0x0, 31, 0, 0x0⟩
/-! SEC_SGRP_ID_HI (R446) -/
def SEC_SGRP_ID_HI_ID : Fld := ⟨0x3400104, 0x8, 0x0, 31, 0, 0x0⟩
/-! CUPOLA_BUDGET (R463) -/
def CUPOLA_BUDGET_WATTS : Fld := ⟨0x3800000, 0x0, 0x0, 9, 0, 0x28A⟩
/-! CUPOLA_SLEW (R463) -/
def CUPOLA_SLEW_A_PER_US : Fld := ⟨0x3800004, 0x0, 0x0, 9, 0, 0xA0⟩
/-! CUPOLA_STATUS (R463) -/
def CUPOLA_STATUS_RESERVED_W : Fld := ⟨0x3800008, 0x0, 0x0, 9, 0, 0x0⟩
def CUPOLA_STATUS_GRANTED_W : Fld := ⟨0x3800008, 0x0, 0x0, 19, 10, 0x0⟩
def CUPOLA_STATUS_STAGE : Fld := ⟨0x3800008, 0x0, 0x0, 21, 20, 0x0⟩
def CUPOLA_STATUS_BUDGET_ERR : Fld := ⟨0x3800008, 0x0, 0x0, 22, 22, 0x0⟩
/-! CUPOLA_WAITS (R463) -/
def CUPOLA_WAITS_COUNT : Fld := ⟨0x380000C, 0x0, 0x0, 31, 0, 0x0⟩
/-! CUPOLA_POWER (R463) -/
def CUPOLA_POWER_NOW_W : Fld := ⟨0x3800010, 0x0, 0x0, 9, 0, 0x0⟩
def CUPOLA_POWER_PEAK_W : Fld := ⟨0x3800010, 0x0, 0x0, 19, 10, 0x0⟩
/-! CUPOLA_NAND_CFG (R463) -/
def CUPOLA_NAND_CFG_CH_MA : Fld := ⟨0x3800020, 0x0, 0x0, 11, 0, 0x3228190⟩
def CUPOLA_NAND_CFG_PROG_MA : Fld := ⟨0x3800020, 0x0, 0x0, 19, 12, 0x3228190⟩
def CUPOLA_NAND_CFG_ERASE_MA : Fld := ⟨0x3800020, 0x0, 0x0, 27, 20, 0x3228190⟩
/-! CUPOLA_NAND_TOTAL (R463) -/
def CUPOLA_NAND_TOTAL_MA : Fld := ⟨0x3800024, 0x0, 0x0, 15, 0, 0x3200⟩
/-! CUPOLA_HBM_CTL (R463) -/
def CUPOLA_HBM_CTL_SR : Fld := ⟨0x3800030, 0x0, 0x0, 0, 0, 0x0⟩
/-! CUPOLA_HBM_STATUS (R463) -/
def CUPOLA_HBM_STATUS_IN_SR : Fld := ⟨0x3800034, 0x0, 0x0, 0, 0, 0x0⟩
def CUPOLA_HBM_STATUS_ERR : Fld := ⟨0x3800034, 0x0, 0x0, 1, 1, 0x0⟩
/-! CUPOLA_PD_SEL (R463) -/
def CUPOLA_PD_SEL_DOMAIN : Fld := ⟨0x3800100, 0x0, 0x0, 6, 0, 0x0⟩
/-! CUPOLA_PD_CTL (R463) -/
def CUPOLA_PD_CTL_CMD : Fld := ⟨0x3800104, 0x0, 0x0, 1, 0, 0x0⟩
def CUPOLA_PD_CTL_WAIT_FREE : Fld := ⟨0x3800104, 0x0, 0x0, 2, 2, 0x0⟩
/-! CUPOLA_PD_STATUS (R463) -/
def CUPOLA_PD_STATUS_STATE : Fld := ⟨0x3800108, 0x0, 0x0, 2, 0, 0x0⟩
def CUPOLA_PD_STATUS_HELD : Fld := ⟨0x3800108, 0x0, 0x0, 3, 3, 0x0⟩
def CUPOLA_PD_STATUS_RESULT : Fld := ⟨0x3800108, 0x0, 0x0, 15, 8, 0x0⟩
/-! CUPOLA_PD_MAP (R463) -/
def CUPOLA_PD_MAP_ON : Fld := ⟨0x3800200, 0x4, 0x0, 31, 0, 0x0⟩
/-! THERM_STATUS (R463) -/
def THERM_STATUS_TJ_C : Fld := ⟨0x3800300, 0x0, 0x0, 7, 0, 0x0⟩
def THERM_STATUS_STAGE : Fld := ⟨0x3800300, 0x0, 0x0, 9, 8, 0x0⟩
def THERM_STATUS_WARN : Fld := ⟨0x3800300, 0x0, 0x0, 10, 10, 0x0⟩
/-! THERM_CFG (R463) -/
def THERM_CFG_WARN_C : Fld := ⟨0x3800304, 0x0, 0x0, 7, 0, 0x5F⟩
/-! THERM_SENSOR (R463) -/
def THERM_SENSOR_TEMP_C : Fld := ⟨0x3800310, 0x4, 0x0, 7, 0, 0x0⟩
def THERM_SENSOR_STAGE : Fld := ⟨0x3800310, 0x4, 0x0, 9, 8, 0x0⟩
def THERM_SENSOR_MAX_C : Fld := ⟨0x3800310, 0x4, 0x0, 23, 16, 0x0⟩
/-! MBX_NS_STATUS (R493) -/
def MBX_NS_STATUS_H2K_FULL : Fld := ⟨0x3C00010, 0x20, 0x0, 0, 0, 0x8⟩
def MBX_NS_STATUS_K2H_FULL : Fld := ⟨0x3C00010, 0x20, 0x0, 1, 1, 0x8⟩
def MBX_NS_STATUS_OVERRUN : Fld := ⟨0x3C00010, 0x20, 0x0, 2, 2, 0x8⟩
def MBX_NS_STATUS_KEEP_DOWN : Fld := ⟨0x3C00010, 0x20, 0x0, 3, 3, 0x8⟩
/-! MBX_SEC_STATUS (R493) -/
def MBX_SEC_STATUS_H2K_FULL : Fld := ⟨0x10000010, 0x20, 0x0, 0, 0, 0x8⟩
def MBX_SEC_STATUS_K2H_FULL : Fld := ⟨0x10000010, 0x20, 0x0, 1, 1, 0x8⟩
def MBX_SEC_STATUS_OVERRUN : Fld := ⟨0x10000010, 0x20, 0x0, 2, 2, 0x8⟩
def MBX_SEC_STATUS_KEEP_DOWN : Fld := ⟨0x10000010, 0x20, 0x0, 3, 3, 0x8⟩
/-! BELFRY_SEC_CAUSE (R493) -/
def BELFRY_SEC_CAUSE_SEC_FULL : Fld := ⟨0x10000100, 0x0, 0x0, 3, 0, 0x0⟩
def BELFRY_SEC_CAUSE_SEC_EMPTY : Fld := ⟨0x10000100, 0x0, 0x0, 7, 4, 0x0⟩
/-! BELFRY_SEC_MASK (R493) -/
def BELFRY_SEC_MASK_MASK : Fld := ⟨0x10000104, 0x0, 0x0, 7, 0, 0x0⟩

end F

/-- The registers of the window Glb (R494). -/
def regsGlb : List RegDesc :=
  [⟨0x0, 0x0, 1, 0x0, 1, 0x57400, [(15, 0, .ro), (31, 16, .ro)]⟩,
   ⟨0x4, 0x0, 1, 0x0, 1, 0xFF08B1, [(7, 0, .ro), (11, 8, .ro), (15, 12, .ro), (23, 16, .ro)]⟩,
   ⟨0x8, 0x0, 1, 0x0, 1, 0x0, [(31, 0, .ro)]⟩,
   ⟨0xC, 0x0, 1, 0x0, 1, 0x0, [(31, 0, .ro)]⟩,
   ⟨0x10, 0x0, 1, 0x0, 1, 0x0, [(7, 0, .ro), (15, 8, .ro), (23, 16, .ro)]⟩,
   ⟨0x18, 0x0, 1, 0x0, 1, 0x0, [(31, 0, .ro)]⟩,
   ⟨0x1C, 0x0, 1, 0x0, 1, 0x0, [(31, 0, .ro)]⟩,
   ⟨0x40, 0x0, 1, 0x0, 1, 0x0, [(0, 0, .wo), (1, 1, .ro), (11, 8, .ro)]⟩,
   ⟨0x44, 0x0, 1, 0x0, 1, 0x0, [(25, 0, .ro)]⟩,
   ⟨0x48, 0x0, 1, 0x0, 1, 0x0, [(31, 0, .lk)]⟩,
   ⟨0x4C, 0x0, 1, 0x0, 1, 0x0, [(31, 0, .lk)]⟩,
   ⟨0x50, 0x0, 1, 0x0, 1, 0x4, [(6, 0, .lk)]⟩,
   ⟨0x54, 0x0, 1, 0x0, 1, 0x0, [(31, 0, .ro)]⟩,
   ⟨0x60, 0x0, 1, 0x0, 1, 0x0, [(25, 0, .ro), (27, 26, .ro), (28, 28, .ro), (29, 29, .ro), (30, 30, .rw), (31, 31, .w1c)]⟩,
   ⟨0x100, 0x0, 1, 0x0, 1, 0x0, [(3, 0, .ro), (15, 8, .ro), (19, 16, .ro)]⟩,
   ⟨0x104, 0x0, 1, 0x0, 1, 0x0, [(7, 0, .wo), (8, 8, .wo)]⟩,
   ⟨0x108, 0x0, 1, 0x0, 1, 0x0, [(2, 0, .ro), (3, 3, .ro), (15, 8, .ro)]⟩,
   ⟨0x10C, 0x0, 1, 0x0, 1, 0x0, [(23, 0, .ro), (24, 24, .ro)]⟩]

/-- The registers of the window Belfry (R494). -/
def regsBelfry : List RegDesc :=
  [⟨0x100000, 0x0, 1, 0x0, 1, 0x0, [(21, 0, .ro), (31, 31, .ro)]⟩,
   ⟨0x100004, 0x0, 1, 0x0, 1, 0x3FFFFF, [(21, 0, .rw)]⟩,
   ⟨0x100008, 0x0, 1, 0x0, 1, 0x1, [(0, 0, .rw), (1, 1, .wo), (2, 2, .ro)]⟩,
   ⟨0x100100, 0x10, 32, 0x0, 1, 0x0, [(31, 0, .w1c)]⟩,
   ⟨0x100104, 0x10, 32, 0x0, 1, 0x0, [(31, 0, .rw)]⟩,
   ⟨0x101000, 0x8, 32, 0x0, 1, 0x0, [(31, 0, .w1c)]⟩,
   ⟨0x101004, 0x8, 32, 0x0, 1, 0x0, [(31, 0, .rw)]⟩,
   ⟨0x101100, 0x8, 4, 0x0, 1, 0x0, [(31, 0, .w1c)]⟩,
   ⟨0x101104, 0x8, 4, 0x0, 1, 0x0, [(31, 0, .rw)]⟩,
   ⟨0x101200, 0x8, 4, 0x0, 1, 0x0, [(31, 0, .w1c)]⟩,
   ⟨0x101204, 0x8, 4, 0x0, 1, 0x0, [(31, 0, .rw)]⟩]

/-- The registers of the window Host (R494). -/
def regsHost : List RegDesc :=
  [⟨0x200040, 0x0, 1, 0x0, 1, 0x0, [(9, 0, .ro), (10, 10, .ro), (13, 11, .ro), (14, 14, .rw), (15, 15, .w1c), (31, 16, .ro)]⟩,
   ⟨0x210000, 0x40, 1024, 0x0, 1, 0x0, [(31, 12, .rw)]⟩,
   ⟨0x210004, 0x40, 1024, 0x0, 1, 0x0, [(31, 0, .rw)]⟩,
   ⟨0x210008, 0x40, 1024, 0x0, 1, 0x10006, [(4, 0, .rw), (5, 5, .rw), (10, 8, .rw), (23, 16, .rw), (31, 31, .rw)]⟩,
   ⟨0x21000C, 0x40, 1024, 0x0, 1, 0x0, [(15, 0, .ro), (16, 16, .ro), (17, 17, .w1c), (18, 18, .w1c)]⟩,
   ⟨0x210010, 0x40, 1024, 0x0, 1, 0x0, [(15, 0, .ro)]⟩,
   ⟨0x210014, 0x40, 1024, 0x0, 1, 0x0, [(15, 0, .ro)]⟩,
   ⟨0x220000, 0x40, 1024, 0x0, 1, 0x0, [(31, 12, .rw)]⟩,
   ⟨0x220004, 0x40, 1024, 0x0, 1, 0x0, [(31, 0, .rw)]⟩,
   ⟨0x220008, 0x40, 1024, 0x0, 1, 0x6, [(4, 0, .rw), (18, 8, .rw), (30, 30, .rw), (31, 31, .rw)]⟩,
   ⟨0x22000C, 0x40, 1024, 0x0, 1, 0x10000, [(15, 0, .ro), (16, 16, .ro), (17, 17, .ro), (18, 18, .w1c), (19, 19, .w1c)]⟩,
   ⟨0x220010, 0x40, 1024, 0x0, 1, 0x0, [(15, 0, .ro)]⟩,
   ⟨0x220014, 0x40, 1024, 0x0, 1, 0x1, [(7, 0, .rw), (31, 16, .rw)]⟩]

/-- The registers of the window Part (R494). -/
def regsPart : List RegDesc :=
  [⟨0x400000, 0x8000, 128, 0x0, 1, 0x0, [(1, 0, .ro), (2, 2, .ro), (3, 3, .ro), (4, 4, .ro)]⟩,
   ⟨0x400010, 0x8000, 128, 0x0, 1, 0x7D0, [(15, 0, .rw)]⟩,
   ⟨0x400014, 0x8000, 128, 0x0, 1, 0x1FFFFFFF, [(28, 0, .rw)]⟩,
   ⟨0x400018, 0x8000, 128, 0x0, 1, 0x0, [(7, 0, .ro), (15, 8, .ro), (16, 16, .ro), (31, 17, .ro)]⟩,
   ⟨0x40001C, 0x8000, 128, 0x0, 1, 0x0, [(5, 0, .rw)]⟩,
   ⟨0x400020, 0x8000, 128, 0x0, 1, 0x0, [(0, 0, .rw)]⟩,
   ⟨0x400024, 0x8000, 128, 0x0, 1, 0x0, [(1, 0, .rw), (2, 2, .rw), (3, 3, .rw)]⟩,
   ⟨0x400028, 0x8000, 128, 0x0, 1, 0x0, [(0, 0, .ro), (1, 1, .ro), (2, 2, .ro), (3, 3, .ro), (4, 4, .ro), (15, 8, .ro), (23, 16, .ro)]⟩,
   ⟨0x40002C, 0x8000, 128, 0x0, 1, 0x1, [(7, 0, .rw)]⟩,
   ⟨0x400030, 0x8000, 128, 0x0, 1, 0x0, [(1, 0, .rw)]⟩,
   ⟨0x400034, 0x8000, 128, 0x0, 1, 0x1E0258, [(15, 0, .rw), (31, 16, .rw)]⟩,
   ⟨0x400040, 0x8000, 128, 0x10, 3, 0x0, [(29, 0, .rw)]⟩,
   ⟨0x400044, 0x8000, 128, 0x10, 3, 0x3FFFFFFF, [(29, 0, .rw)]⟩,
   ⟨0x400048, 0x8000, 128, 0x10, 3, 0x0, [(30, 0, .ro)]⟩,
   ⟨0x400070, 0x8000, 128, 0x0, 1, 0x0, [(7, 0, .rw)]⟩,
   ⟨0x400074, 0x8000, 128, 0x0, 1, 0x0, [(0, 0, .ro), (7, 1, .ro)]⟩,
   ⟨0x400078, 0x8000, 128, 0x0, 1, 0x100, [(15, 0, .rw)]⟩,
   ⟨0x40007C, 0x8000, 128, 0x0, 1, 0x2000, [(20, 0, .rw)]⟩,
   ⟨0x400080, 0x8000, 128, 0x0, 1, 0x404, [(5, 0, .rw), (13, 8, .rw)]⟩,
   ⟨0x400084, 0x8000, 128, 0x0, 1, 0x20, [(1, 0, .rw), (3, 2, .rw), (5, 4, .rw)]⟩,
   ⟨0x400088, 0x8000, 128, 0x0, 1, 0x0, [(19, 0, .rw)]⟩,
   ⟨0x40008C, 0x8000, 128, 0x0, 1, 0x0, [(19, 0, .rw)]⟩,
   ⟨0x400090, 0x8000, 128, 0x0, 1, 0x8000400, [(15, 0, .rw), (31, 16, .rw)]⟩,
   ⟨0x400094, 0x8000, 128, 0x0, 1, 0x0, [(0, 0, .w1c), (1, 1, .w1c)]⟩,
   ⟨0x400098, 0x8000, 128, 0x0, 1, 0x2, [(0, 0, .rw), (1, 1, .rw), (2, 2, .rw), (7, 4, .rw)]⟩,
   ⟨0x40009C, 0x8000, 128, 0x0, 1, 0x0, [(31, 0, .rw)]⟩,
   ⟨0x4000A0, 0x8000, 128, 0x0, 1, 0x0, [(31, 0, .rw)]⟩,
   ⟨0x4000A4, 0x8000, 128, 0x0, 1, 0x0, [(7, 0, .ro), (15, 8, .ro), (16, 16, .ro), (31, 17, .ro)]⟩,
   ⟨0x4000A8, 0x8000, 128, 0x0, 1, 0x0, [(0, 0, .ro), (2, 1, .ro), (15, 8, .ro)]⟩,
   ⟨0x4000AC, 0x8000, 128, 0x0, 1, 0x0, [(11, 0, .ro)]⟩,
   ⟨0x4000B0, 0x8000, 128, 0x0, 1, 0x0, [(14, 0, .ro), (15, 15, .w1c), (31, 16, .ro)]⟩,
   ⟨0x4000B4, 0x8000, 128, 0x0, 1, 0x8019, [(31, 0, .rw)]⟩,
   ⟨0x4000B8, 0x8000, 128, 0x0, 1, 0x0, [(7, 0, .w1c)]⟩,
   ⟨0x4000BC, 0x8000, 128, 0x0, 1, 0x0, [(7, 0, .rw)]⟩]

/-- The registers of the window Canopy (R494). -/
def regsCanopy : List RegDesc :=
  [⟨0x800000, 0x4, 64, 0x0, 1, 0x10041, [(1, 0, .rw), (6, 4, .rw), (8, 8, .wo), (16, 16, .ro), (17, 17, .ro)]⟩,
   ⟨0x800200, 0x0, 1, 0x0, 1, 0x3E803E8, [(11, 0, .rw), (27, 16, .ro), (29, 28, .ro)]⟩,
   ⟨0x800204, 0x0, 1, 0x0, 1, 0x14, [(9, 0, .rw)]⟩,
   ⟨0x800208, 0x0, 1, 0x0, 1, 0x0, [(23, 0, .ro), (31, 24, .ro)]⟩,
   ⟨0x80020C, 0x0, 1, 0x0, 1, 0x0, [(31, 0, .ro)]⟩,
   ⟨0x800210, 0x0, 1, 0x0, 1, 0x3E80008, [(7, 0, .rw), (31, 16, .rw)]⟩,
   ⟨0x800214, 0x0, 1, 0x0, 1, 0x0, [(31, 0, .ro)]⟩,
   ⟨0x800218, 0x0, 1, 0x0, 1, 0x0, [(31, 0, .lk)]⟩,
   ⟨0x80021C, 0x0, 1, 0x0, 1, 0x0, [(31, 0, .lk)]⟩,
   ⟨0x800400, 0x10, 32, 0x4, 4, 0x0, [(31, 0, .rw)]⟩,
   ⟨0x801000, 0x0, 1, 0x0, 1, 0x0, [(31, 0, .lk)]⟩,
   ⟨0x801004, 0x0, 1, 0x0, 1, 0x0, [(31, 0, .lk)]⟩,
   ⟨0x801008, 0x0, 1, 0x0, 1, 0x18, [(4, 0, .lk)]⟩,
   ⟨0x80100C, 0x0, 1, 0x0, 1, 0x0, [(28, 0, .ro)]⟩,
   ⟨0x801010, 0x0, 1, 0x0, 1, 0x0, [(31, 0, .ro)]⟩]

/-- The registers of the window Pattern (R494). -/
def regsPattern : List RegDesc :=
  [⟨0xA00000, 0x0, 1, 0x0, 1, 0x0, [(31, 0, .lk)]⟩,
   ⟨0xA00004, 0x0, 1, 0x0, 1, 0x0, [(31, 0, .lk)]⟩,
   ⟨0xA00008, 0x0, 1, 0x0, 1, 0x0, [(6, 0, .ro), (24, 8, .ro)]⟩]

/-- The registers of the window Codec (R494). -/
def regsCodec : List RegDesc :=
  [⟨0xC00000, 0x0, 1, 0x0, 1, 0x0, [(31, 0, .lk)]⟩,
   ⟨0xC00004, 0x0, 1, 0x0, 1, 0x0, [(31, 0, .lk)]⟩,
   ⟨0xC00008, 0x0, 1, 0x0, 1, 0x10043, [(0, 0, .rw), (1, 1, .rw), (7, 4, .rw), (23, 8, .rw)]⟩,
   ⟨0xC00010, 0x0, 1, 0x0, 1, 0x0, [(31, 0, .ro)]⟩,
   ⟨0xC00014, 0x0, 1, 0x0, 1, 0x0, [(31, 0, .ro)]⟩,
   ⟨0xC00018, 0x0, 1, 0x0, 1, 0x0, [(31, 0, .ro)]⟩,
   ⟨0xC00020, 0x0, 1, 0x0, 1, 0x0, [(6, 0, .rw), (11, 8, .rw), (15, 12, .rw)]⟩,
   ⟨0xC00024, 0x0, 1, 0x0, 1, 0x0, [(7, 0, .ro), (15, 8, .ro), (16, 16, .ro), (31, 17, .ro)]⟩,
   ⟨0xC00100, 0x4, 8, 0x0, 1, 0x0, [(31, 0, .ro)]⟩]

/-- The registers of the window Spire (R494). -/
def regsSpire : List RegDesc :=
  [⟨0x1000000, 0x20, 48, 0x0, 1, 0x0, [(0, 0, .rw)]⟩,
   ⟨0x1000004, 0x20, 48, 0x0, 1, 0x0, [(1, 0, .ro), (3, 2, .ro), (7, 4, .ro)]⟩,
   ⟨0x1000008, 0x20, 48, 0x0, 1, 0x0, [(31, 0, .ro)]⟩,
   ⟨0x100000C, 0x20, 48, 0x0, 1, 0x0, [(31, 0, .ro)]⟩,
   ⟨0x1001000, 0x0, 1, 0x0, 1, 0x0, [(31, 0, .ro)]⟩,
   ⟨0x1001004, 0x0, 1, 0x0, 1, 0x0, [(31, 0, .ro)]⟩,
   ⟨0x1001008, 0x0, 1, 0x0, 1, 0x0, [(31, 0, .ro)]⟩,
   ⟨0x1002000, 0x4, 8, 0x0, 1, 0x0, [(5, 0, .ro), (13, 8, .ro), (16, 16, .ro), (17, 17, .ro)]⟩,
   ⟨0x1002100, 0x0, 1, 0x0, 1, 0x132, [(6, 0, .rw), (8, 8, .rw)]⟩,
   ⟨0x1002104, 0x0, 1, 0x0, 1, 0x0, [(31, 0, .ro)]⟩,
   ⟨0x1002108, 0x0, 1, 0x0, 1, 0x0, [(31, 0, .ro)]⟩,
   ⟨0x100210C, 0x0, 1, 0x0, 1, 0x0, [(31, 0, .ro)]⟩,
   ⟨0x1002110, 0x0, 1, 0x0, 1, 0x1, [(2, 0, .lk)]⟩,
   ⟨0x1002114, 0x0, 1, 0x0, 1, 0x0, [(31, 0, .ro)]⟩,
   ⟨0x1002200, 0x0, 1, 0x0, 1, 0x0, [(6, 0, .rw)]⟩,
   ⟨0x1002204, 0x0, 1, 0x0, 1, 0x0, [(31, 0, .rw)]⟩,
   ⟨0x1002208, 0x0, 1, 0x0, 1, 0x0, [(31, 0, .rw)]⟩,
   ⟨0x100220C, 0x0, 1, 0x0, 1, 0x0, [(23, 0, .rw)]⟩,
   ⟨0x1002210, 0x0, 1, 0x0, 1, 0x0, [(0, 0, .wo), (1, 1, .wo), (2, 2, .wo)]⟩,
   ⟨0x1002214, 0x0, 1, 0x0, 1, 0x0, [(1, 0, .ro), (4, 2, .ro), (15, 8, .ro)]⟩,
   ⟨0x1002218, 0x0, 1, 0x0, 1, 0x0, [(31, 0, .rw)]⟩,
   ⟨0x100221C, 0x0, 1, 0x0, 1, 0x0, [(31, 0, .rw)]⟩,
   ⟨0x1002220, 0x0, 1, 0x0, 1, 0x0, [(23, 0, .rw)]⟩,
   ⟨0x13E0000, 0x0, 1, 0x0, 1, 0x18, [(3, 0, .rw), (4, 4, .rw)]⟩,
   ⟨0x13E0004, 0x0, 1, 0x0, 1, 0x0, [(31, 0, .ro)]⟩,
   ⟨0x13E0008, 0x0, 1, 0x0, 1, 0x0, [(31, 0, .ro)]⟩,
   ⟨0x13E000C, 0x0, 1, 0x0, 1, 0x0, [(31, 0, .ro)]⟩,
   ⟨0x13E0010, 0x0, 1, 0x0, 1, 0x0, [(31, 0, .ro)]⟩]

/-- The registers of the window Lantern (R494). -/
def regsLantern : List RegDesc :=
  [⟨0x1400000, 0x0, 1, 0x0, 1, 0x14020A, [(7, 0, .rw), (11, 8, .rw), (23, 16, .rw), (24, 24, .rw)]⟩,
   ⟨0x1400004, 0x0, 1, 0x0, 1, 0x0, [(31, 0, .lk)]⟩,
   ⟨0x1400008, 0x0, 1, 0x0, 1, 0x0, [(31, 0, .lk)]⟩,
   ⟨0x140000C, 0x0, 1, 0x0, 1, 0x0, [(7, 0, .lk)]⟩,
   ⟨0x1400010, 0x0, 1, 0x0, 1, 0x100040, [(15, 0, .rw), (31, 16, .rw)]⟩,
   ⟨0x1400020, 0x0, 1, 0x0, 1, 0x0, [(31, 0, .ro)]⟩,
   ⟨0x1400024, 0x0, 1, 0x0, 1, 0x0, [(31, 0, .ro)]⟩,
   ⟨0x1400028, 0x0, 1, 0x0, 1, 0x0, [(31, 0, .ro)]⟩,
   ⟨0x140002C, 0x0, 1, 0x0, 1, 0x0, [(31, 0, .ro)]⟩,
   ⟨0x1400100, 0x4, 4, 0x0, 1, 0x0, [(4, 0, .ro), (15, 8, .ro), (16, 16, .ro)]⟩,
   ⟨0x1400200, 0x8, 64, 0x0, 1, 0x0, [(1, 0, .ro), (2, 2, .ro), (19, 8, .ro)]⟩,
   ⟨0x1400204, 0x8, 64, 0x0, 1, 0xFFFFFF, [(23, 0, .ro), (31, 24, .ro)]⟩,
   ⟨0x1401000, 0x20, 64, 0x4, 8, 0x4000, [(15, 0, .ro), (31, 16, .ro)]⟩]

/-- The registers of the window Beat (R494). -/
def regsBeat : List RegDesc :=
  [⟨0x1600000, 0x40, 4, 0x0, 1, 0x20001C, [(1, 0, .rw), (2, 2, .rw), (5, 3, .rw), (19, 8, .rw), (27, 20, .rw)]⟩,
   ⟨0x1600004, 0x40, 4, 0x0, 1, 0x0, [(1, 0, .ro), (2, 2, .ro)]⟩,
   ⟨0x1600008, 0x40, 4, 0x0, 1, 0x0, [(31, 0, .ro)]⟩,
   ⟨0x160000C, 0x40, 4, 0x0, 1, 0x0, [(31, 0, .ro)]⟩,
   ⟨0x1600010, 0x40, 4, 0x0, 1, 0x0, [(31, 0, .ro)]⟩,
   ⟨0x1600014, 0x40, 4, 0x0, 1, 0x0, [(31, 0, .ro)]⟩,
   ⟨0x1600018, 0x40, 4, 0x0, 1, 0x0, [(31, 0, .ro)]⟩,
   ⟨0x160001C, 0x40, 4, 0x0, 1, 0x0, [(31, 0, .ro)]⟩,
   ⟨0x1600020, 0x40, 4, 0x0, 1, 0x0, [(7, 0, .ro), (15, 8, .ro), (23, 16, .ro), (31, 24, .ro)]⟩,
   ⟨0x1600400, 0x0, 1, 0x0, 1, 0x0, [(31, 0, .lk)]⟩,
   ⟨0x1600404, 0x0, 1, 0x0, 1, 0x0, [(31, 0, .lk)]⟩,
   ⟨0x1600408, 0x0, 1, 0x0, 1, 0x3E8, [(15, 0, .rw), (16, 16, .rw)]⟩,
   ⟨0x160040C, 0x0, 1, 0x0, 1, 0x0, [(2, 0, .ro)]⟩,
   ⟨0x1600410, 0x0, 1, 0x0, 1, 0x0, [(31, 0, .ro)]⟩,
   ⟨0x1600414, 0x0, 1, 0x0, 1, 0x0, [(31, 0, .ro)]⟩,
   ⟨0x1600418, 0x0, 1, 0x0, 1, 0x0, [(31, 0, .ro)]⟩,
   ⟨0x160041C, 0x0, 1, 0x0, 1, 0x0, [(31, 0, .ro)]⟩,
   ⟨0x1600420, 0x0, 1, 0x0, 1, 0x0, [(31, 0, .ro)]⟩]

/-- The registers of the window Tier (R494). -/
def regsTier : List RegDesc :=
  [⟨0x1800000, 0x0, 1, 0x0, 1, 0x0, [(31, 0, .lk)]⟩,
   ⟨0x1800004, 0x0, 1, 0x0, 1, 0x0, [(31, 0, .lk)]⟩,
   ⟨0x1800008, 0x0, 1, 0x0, 1, 0x0, [(31, 0, .lk)]⟩,
   ⟨0x180000C, 0x0, 1, 0x0, 1, 0x0, [(31, 0, .lk)]⟩,
   ⟨0x1800010, 0x0, 1, 0x0, 1, 0x0, [(31, 0, .lk)]⟩,
   ⟨0x1800014, 0x0, 1, 0x0, 1, 0x0, [(31, 0, .lk)]⟩,
   ⟨0x1800018, 0x0, 1, 0x0, 1, 0x18, [(4, 0, .lk)]⟩,
   ⟨0x180001C, 0x0, 1, 0x0, 1, 0x0, [(20, 0, .lk)]⟩,
   ⟨0x1800020, 0x0, 1, 0x0, 1, 0x3C0406, [(3, 0, .rw), (15, 8, .rw), (31, 16, .rw)]⟩,
   ⟨0x1800024, 0x0, 1, 0x0, 1, 0x4000800, [(15, 0, .rw), (31, 16, .rw)]⟩,
   ⟨0x1800030, 0x4, 2, 0x0, 1, 0x100008, [(9, 0, .rw), (25, 16, .rw)]⟩,
   ⟨0x1800040, 0x0, 1, 0x0, 1, 0x0, [(6, 0, .rw), (15, 8, .rw)]⟩,
   ⟨0x1800044, 0x0, 1, 0x0, 1, 0x0, [(7, 0, .rw), (8, 8, .rw)]⟩,
   ⟨0x1800100, 0x0, 1, 0x0, 1, 0x0, [(31, 0, .ro)]⟩,
   ⟨0x1800104, 0x0, 1, 0x0, 1, 0x0, [(31, 0, .ro)]⟩,
   ⟨0x1800108, 0x0, 1, 0x0, 1, 0x0, [(31, 0, .ro)]⟩,
   ⟨0x180010C, 0x0, 1, 0x0, 1, 0x0, [(31, 0, .ro)]⟩,
   ⟨0x1800110, 0x0, 1, 0x0, 1, 0x0, [(31, 0, .ro)]⟩,
   ⟨0x1800114, 0x0, 1, 0x0, 1, 0x0, [(31, 0, .ro)]⟩,
   ⟨0x1800118, 0x0, 1, 0x0, 1, 0x0, [(31, 0, .ro)]⟩,
   ⟨0x180011C, 0x0, 1, 0x0, 1, 0x0, [(31, 0, .ro)]⟩]

/-- The registers of the window Flash (R494). -/
def regsFlash : List RegDesc :=
  [⟨0x1C00000, 0x0, 1, 0x0, 1, 0x2842400, [(1, 0, .lk), (15, 8, .lk), (19, 16, .lk), (23, 20, .lk), (27, 24, .lk)]⟩,
   ⟨0x1C00004, 0x0, 1, 0x0, 1, 0x0, [(31, 0, .lk)]⟩,
   ⟨0x1C00008, 0x0, 1, 0x0, 1, 0x0, [(31, 0, .lk)]⟩,
   ⟨0x1C0000C, 0x0, 1, 0x0, 1, 0x0, [(31, 0, .lk)]⟩,
   ⟨0x1C00010, 0x0, 1, 0x0, 1, 0x0, [(31, 0, .lk)]⟩,
   ⟨0x1C00014, 0x0, 1, 0x0, 1, 0x0, [(2, 0, .ro), (3, 3, .ro), (4, 4, .ro), (5, 5, .ro), (6, 6, .ro), (15, 8, .ro), (21, 16, .ro)]⟩,
   ⟨0x1C00018, 0x0, 1, 0x0, 1, 0x0, [(31, 0, .ro)]⟩,
   ⟨0x1C0001C, 0x0, 1, 0x0, 1, 0x10180C04, [(7, 0, .rw), (15, 8, .rw), (23, 16, .rw), (29, 24, .rw)]⟩,
   ⟨0x1C00020, 0x0, 1, 0x0, 1, 0x1023, [(3, 0, .rw), (7, 4, .rw), (15, 8, .rw)]⟩,
   ⟨0x1C00024, 0x0, 1, 0x0, 1, 0x400, [(15, 0, .rw)]⟩,
   ⟨0x1C00028, 0x0, 1, 0x0, 1, 0x0, [(23, 0, .rw)]⟩,
   ⟨0x1C0002C, 0x0, 1, 0x0, 1, 0x0, [(0, 0, .wo)]⟩,
   ⟨0x1C00030, 0x0, 1, 0x0, 1, 0x0, [(31, 0, .rw)]⟩,
   ⟨0x1C00034, 0x0, 1, 0x0, 1, 0x0, [(31, 0, .rw)]⟩,
   ⟨0x1C00100, 0x4, 32, 0x0, 1, 0x0, [(16, 0, .ro)]⟩,
   ⟨0x1C00200, 0x0, 1, 0x0, 1, 0x0, [(31, 0, .ro)]⟩,
   ⟨0x1C00204, 0x0, 1, 0x0, 1, 0x0, [(31, 0, .ro)]⟩,
   ⟨0x1C00208, 0x0, 1, 0x0, 1, 0x0, [(31, 0, .ro)]⟩,
   ⟨0x1C0020C, 0x0, 1, 0x0, 1, 0x0, [(31, 0, .ro)]⟩,
   ⟨0x1C00210, 0x0, 1, 0x0, 1, 0x0, [(31, 0, .ro)]⟩,
   ⟨0x1C00214, 0x0, 1, 0x0, 1, 0x0, [(31, 0, .ro)]⟩,
   ⟨0x1C00218, 0x0, 1, 0x0, 1, 0x0, [(31, 0, .ro)]⟩,
   ⟨0x1C0021C, 0x0, 1, 0x0, 1, 0x0, [(31, 0, .ro)]⟩,
   ⟨0x1C01000, 0x4, 1024, 0x0, 1, 0x0, [(1, 0, .ro), (15, 8, .ro), (23, 16, .ro)]⟩]

/-- The registers of the window Pool (R494). -/
def regsPool : List RegDesc :=
  [⟨0x2000000, 0x0, 1, 0x0, 1, 0x3E80002, [(0, 0, .rw), (2, 1, .rw), (10, 4, .rw), (31, 16, .rw)]⟩,
   ⟨0x2000004, 0x0, 1, 0x0, 1, 0x0, [(1, 0, .ro), (2, 2, .ro), (7, 3, .ro), (16, 8, .ro), (23, 17, .ro)]⟩,
   ⟨0x2000008, 0x0, 1, 0x0, 1, 0x0, [(0, 0, .wo)]⟩,
   ⟨0x200000C, 0x0, 1, 0x0, 1, 0x40001, [(7, 0, .rw), (23, 8, .rw)]⟩,
   ⟨0x2000010, 0x0, 1, 0x0, 1, 0x0, [(7, 0, .rw)]⟩,
   ⟨0x2000014, 0x0, 1, 0x0, 1, 0x0, [(23, 0, .rw)]⟩,
   ⟨0x2000018, 0x0, 1, 0x0, 1, 0x0, [(23, 0, .rw)]⟩,
   ⟨0x200001C, 0x0, 1, 0x0, 1, 0x100000, [(5, 0, .rw), (7, 6, .rw), (14, 8, .rw), (19, 16, .rw), (20, 20, .rw), (21, 21, .ro)]⟩,
   ⟨0x2000020, 0x0, 1, 0x0, 1, 0x0, [(0, 0, .wo), (1, 1, .wo)]⟩,
   ⟨0x2000024, 0x0, 1, 0x0, 1, 0x0, [(1, 0, .ro), (2, 2, .ro), (31, 8, .ro)]⟩,
   ⟨0x2000100, 0x4, 64, 0x0, 1, 0x100, [(8, 0, .ro), (10, 9, .ro), (31, 16, .ro)]⟩,
   ⟨0x2000200, 0x0, 1, 0x0, 1, 0x0, [(31, 0, .ro)]⟩,
   ⟨0x2000204, 0x0, 1, 0x0, 1, 0x0, [(31, 0, .ro)]⟩,
   ⟨0x2000208, 0x0, 1, 0x0, 1, 0x0, [(31, 0, .ro)]⟩]

/-- The registers of the window Net (R494). -/
def regsNet : List RegDesc :=
  [⟨0x2400000, 0x100, 4, 0x0, 1, 0x10, [(2, 0, .rw), (3, 3, .rw), (4, 4, .rw), (15, 8, .rw)]⟩,
   ⟨0x2400004, 0x100, 4, 0x0, 1, 0x0, [(3, 0, .ro), (6, 4, .ro)]⟩,
   ⟨0x2400800, 0x0, 1, 0x0, 1, 0x0, [(1, 0, .rw), (3, 2, .rw)]⟩,
   ⟨0x2400804, 0x0, 1, 0x0, 1, 0x0, [(31, 0, .rw)]⟩,
   ⟨0x2400808, 0x0, 1, 0x0, 1, 0x0, [(31, 0, .rw)]⟩,
   ⟨0x240080C, 0x0, 1, 0x0, 1, 0x0, [(31, 0, .rw)]⟩,
   ⟨0x2400810, 0x4, 4, 0x0, 1, 0x0, [(31, 0, .rw)]⟩,
   ⟨0x2401000, 0x0, 1, 0x0, 1, 0x1, [(7, 0, .lk)]⟩,
   ⟨0x2401004, 0x0, 1, 0x0, 1, 0x0, [(31, 0, .lk)]⟩,
   ⟨0x2401008, 0x0, 1, 0x0, 1, 0x0, [(31, 0, .lk)]⟩,
   ⟨0x2401010, 0x0, 1, 0x0, 1, 0x0, [(14, 0, .rw)]⟩,
   ⟨0x2401014, 0x0, 1, 0x0, 1, 0x0, [(31, 0, .rw)]⟩,
   ⟨0x2401018, 0x0, 1, 0x0, 1, 0x0, [(31, 0, .rw)]⟩,
   ⟨0x240101C, 0x0, 1, 0x0, 1, 0x0, [(1, 0, .wo)]⟩,
   ⟨0x2401020, 0x0, 1, 0x0, 1, 0x0, [(1, 0, .ro), (2, 2, .w1c), (18, 8, .ro)]⟩,
   ⟨0x2401030, 0x0, 1, 0x0, 1, 0x0, [(14, 0, .ro), (18, 16, .ro), (30, 30, .rw), (31, 31, .w1c)]⟩,
   ⟨0x2401040, 0x0, 1, 0x0, 1, 0x1900001, [(3, 0, .rw), (31, 16, .rw)]⟩,
   ⟨0x2401100, 0x0, 1, 0x0, 1, 0x0, [(31, 0, .ro)]⟩,
   ⟨0x2401104, 0x0, 1, 0x0, 1, 0x0, [(31, 0, .ro)]⟩,
   ⟨0x2401108, 0x0, 1, 0x0, 1, 0x0, [(31, 0, .ro)]⟩,
   ⟨0x240110C, 0x0, 1, 0x0, 1, 0x0, [(31, 0, .ro)]⟩,
   ⟨0x2401110, 0x0, 1, 0x0, 1, 0x0, [(31, 0, .ro)]⟩,
   ⟨0x2401114, 0x0, 1, 0x0, 1, 0x0, [(31, 0, .ro)]⟩]

/-- The registers of the window Traffic (R494). -/
def regsTraffic : List RegDesc :=
  [⟨0x2800000, 0x0, 1, 0x0, 1, 0x0, [(4, 0, .rw), (13, 8, .rw)]⟩,
   ⟨0x2800004, 0x0, 1, 0x0, 1, 0x0, [(19, 0, .rw)]⟩,
   ⟨0x2800008, 0x0, 1, 0x0, 1, 0x100, [(15, 0, .rw)]⟩,
   ⟨0x280000C, 0x0, 1, 0x0, 1, 0x20, [(15, 0, .rw)]⟩,
   ⟨0x2800010, 0x0, 1, 0x0, 1, 0x0, [(31, 0, .ro)]⟩,
   ⟨0x2800014, 0x0, 1, 0x0, 1, 0x0, [(15, 0, .ro), (31, 16, .ro)]⟩,
   ⟨0x2800018, 0x0, 1, 0x0, 1, 0x0, [(15, 0, .ro), (31, 16, .ro)]⟩,
   ⟨0x280001C, 0x0, 1, 0x0, 1, 0x0, [(0, 0, .wo), (1, 1, .wo)]⟩,
   ⟨0x2800100, 0x4, 19, 0x0, 1, 0x81404, [(5, 0, .rw), (15, 8, .rw), (19, 16, .rw)]⟩,
   ⟨0x2801000, 0x10, 128, 0x0, 1, 0x0, [(31, 0, .ro)]⟩,
   ⟨0x2801004, 0x10, 128, 0x0, 1, 0x0, [(31, 0, .ro)]⟩,
   ⟨0x2801008, 0x10, 128, 0x0, 1, 0x0, [(31, 0, .ro)]⟩,
   ⟨0x280100C, 0x10, 128, 0x0, 1, 0x0, [(31, 0, .ro)]⟩]

/-- The registers of the window Ring (R494). -/
def regsRing : List RegDesc :=
  [⟨0x2C00000, 0x0, 1, 0x0, 1, 0x3E86404, [(0, 0, .rw), (1, 1, .rw), (2, 2, .rw), (15, 8, .rw), (31, 16, .rw)]⟩,
   ⟨0x2C00004, 0x0, 1, 0x0, 1, 0x0, [(1, 0, .ro), (5, 2, .ro), (7, 6, .ro), (8, 8, .ro), (9, 9, .ro), (10, 10, .ro), (11, 11, .ro), (12, 12, .w1c), (13, 13, .w1c), (15, 14, .ro), (20, 16, .ro)]⟩,
   ⟨0x2C00008, 0x0, 1, 0x0, 1, 0x0, [(0, 0, .wo), (1, 1, .wo), (2, 2, .wo), (3, 3, .wo), (7, 4, .wo)]⟩,
   ⟨0x2C0000C, 0x0, 1, 0x0, 1, 0x0, [(7, 0, .ro), (8, 8, .ro)]⟩,
   ⟨0x2C00010, 0x0, 1, 0x0, 1, 0x0, [(31, 0, .ro)]⟩,
   ⟨0x2C00100, 0x8, 16, 0x0, 1, 0x0, [(0, 0, .ro), (1, 1, .ro), (3, 2, .ro), (7, 4, .ro), (31, 16, .ro)]⟩,
   ⟨0x2C00104, 0x8, 16, 0x0, 1, 0x0, [(31, 0, .ro)]⟩,
   ⟨0x2C00200, 0x0, 1, 0x0, 1, 0x0, [(11, 0, .rw)]⟩,
   ⟨0x2C00204, 0x0, 1, 0x0, 1, 0x0, [(3, 0, .rw)]⟩,
   ⟨0x2C00300, 0x0, 1, 0x0, 1, 0x0, [(31, 0, .ro)]⟩,
   ⟨0x2C00304, 0x0, 1, 0x0, 1, 0x0, [(31, 0, .ro)]⟩,
   ⟨0x2C00308, 0x0, 1, 0x0, 1, 0x0, [(31, 0, .ro)]⟩,
   ⟨0x2C0030C, 0x0, 1, 0x0, 1, 0x0, [(31, 0, .ro)]⟩,
   ⟨0x2C00310, 0x0, 1, 0x0, 1, 0x0, [(31, 0, .ro)]⟩]

/-- The registers of the window Ras (R494). -/
def regsRas : List RegDesc :=
  [⟨0x3000000, 0x0, 1, 0x0, 1, 0x0, [(0, 0, .ro), (1, 1, .ro), (15, 8, .ro)]⟩,
   ⟨0x3000004, 0x0, 1, 0x0, 1, 0x40310, [(7, 0, .rw), (11, 8, .rw), (23, 16, .rw)]⟩,
   ⟨0x3000020, 0x4, 8, 0x0, 1, 0x0, [(1, 0, .ro), (7, 4, .ro), (11, 8, .ro)]⟩,
   ⟨0x3000040, 0x4, 8, 0x0, 1, 0x0, [(31, 0, .ro)]⟩,
   ⟨0x3000060, 0x4, 8, 0x0, 1, 0x0, [(31, 0, .ro)]⟩,
   ⟨0x3000080, 0x0, 1, 0x0, 1, 0x0, [(31, 0, .ro)]⟩,
   ⟨0x3000084, 0x0, 1, 0x0, 1, 0x0, [(31, 0, .ro)]⟩,
   ⟨0x3000088, 0x0, 1, 0x0, 1, 0x0, [(31, 0, .ro)]⟩,
   ⟨0x300008C, 0x0, 1, 0x0, 1, 0x0, [(31, 0, .ro)]⟩,
   ⟨0x3000090, 0x0, 1, 0x0, 1, 0x0, [(31, 0, .ro)]⟩,
   ⟨0x3000094, 0x0, 1, 0x0, 1, 0x0, [(31, 0, .ro)]⟩,
   ⟨0x3000098, 0x0, 1, 0x0, 1, 0x0, [(31, 0, .ro)]⟩,
   ⟨0x3000100, 0x40, 8, 0x4, 16, 0x0, [(31, 0, .ro)]⟩,
   ⟨0x3000400, 0x0, 1, 0x0, 1, 0x0, [(4, 0, .rw)]⟩,
   ⟨0x3000404, 0x0, 1, 0x0, 1, 0x0, [(7, 0, .ro), (15, 8, .ro), (21, 16, .ro), (25, 22, .ro), (29, 26, .ro), (30, 30, .ro), (31, 31, .w1c)]⟩,
   ⟨0x3000408, 0x0, 1, 0x0, 1, 0x0, [(31, 0, .ro)]⟩,
   ⟨0x300040C, 0x0, 1, 0x0, 1, 0x0, [(31, 0, .ro)]⟩,
   ⟨0x3000410, 0x0, 1, 0x0, 1, 0x0, [(31, 0, .ro)]⟩,
   ⟨0x3000414, 0x0, 1, 0x0, 1, 0x0, [(5, 0, .ro), (6, 6, .rw)]⟩,
   ⟨0x3000500, 0x0, 1, 0x0, 1, 0x0, [(31, 0, .rw)]⟩,
   ⟨0x3000504, 0x0, 1, 0x0, 1, 0x0, [(31, 0, .rw)]⟩,
   ⟨0x3000508, 0x0, 1, 0x0, 1, 0x0, [(2, 0, .rw), (11, 4, .rw), (15, 12, .rw), (16, 16, .wo)]⟩,
   ⟨0x300050C, 0x0, 1, 0x0, 1, 0x0, [(0, 0, .ro), (3, 1, .ro), (28, 16, .ro)]⟩,
   ⟨0x3000600, 0x0, 1, 0x0, 1, 0x0, [(31, 0, .rw)]⟩,
   ⟨0x3000604, 0x0, 1, 0x0, 1, 0x0, [(31, 0, .rw)]⟩,
   ⟨0x3000608, 0x0, 1, 0x0, 1, 0x0, [(31, 0, .rw)]⟩,
   ⟨0x300060C, 0x0, 1, 0x0, 1, 0x0, [(31, 0, .rw)]⟩,
   ⟨0x3000610, 0x0, 1, 0x0, 1, 0x0, [(1, 0, .wo), (2, 2, .rw)]⟩,
   ⟨0x3000614, 0x0, 1, 0x0, 1, 0x0, [(0, 0, .ro), (1, 1, .w1c)]⟩,
   ⟨0x3000620, 0x0, 1, 0x0, 1, 0x1000, [(3, 0, .rw), (11, 4, .rw), (13, 12, .rw), (15, 15, .w1s)]⟩,
   ⟨0x3000700, 0x0, 1, 0x0, 1, 0x0, [(2, 0, .rw), (10, 3, .rw), (11, 11, .wo)]⟩,
   ⟨0x3000704, 0x0, 1, 0x0, 1, 0x0, [(0, 0, .ro), (1, 1, .ro), (2, 2, .w1c), (31, 16, .ro)]⟩,
   ⟨0x3000800, 0x0, 1, 0x0, 1, 0x1840, [(7, 0, .rw), (23, 8, .rw)]⟩,
   ⟨0x3000804, 0x0, 1, 0x0, 1, 0x0, [(23, 0, .ro), (31, 24, .ro)]⟩,
   ⟨0x3000808, 0x0, 1, 0x0, 1, 0x0, [(23, 0, .ro), (31, 24, .ro)]⟩,
   ⟨0x300080C, 0x0, 1, 0x0, 1, 0x0, [(6, 0, .ro), (7, 7, .ro)]⟩]

/-- The registers of the window Sec (R494). -/
def regsSec : List RegDesc :=
  [⟨0x3400000, 0x0, 1, 0x0, 1, 0x0, [(0, 0, .ro), (1, 1, .ro), (2, 2, .ro), (7, 3, .ro), (8, 8, .ro), (15, 9, .ro)]⟩,
   ⟨0x3400010, 0x0, 1, 0x0, 1, 0x0, [(6, 0, .rw)]⟩,
   ⟨0x3400014, 0x0, 1, 0x0, 1, 0x0, [(0, 0, .wo)]⟩,
   ⟨0x3400018, 0x0, 1, 0x0, 1, 0x0, [(1, 0, .w1c), (2, 2, .ro)]⟩,
   ⟨0x3400020, 0x0, 1, 0x0, 1, 0x0, [(7, 0, .rw), (15, 8, .ro)]⟩,
   ⟨0x3400024, 0x0, 1, 0x0, 1, 0x200, [(11, 0, .rw)]⟩,
   ⟨0x3400030, 0x0, 1, 0x0, 1, 0x0, [(3, 0, .ro), (10, 4, .ro), (30, 30, .rw), (31, 31, .w1c)]⟩,
   ⟨0x3400040, 0x0, 1, 0x0, 1, 0x0, [(31, 0, .ro)]⟩,
   ⟨0x3400044, 0x0, 1, 0x0, 1, 0x0, [(31, 0, .ro)]⟩,
   ⟨0x3400048, 0x0, 1, 0x0, 1, 0x0, [(31, 0, .ro)]⟩,
   ⟨0x3400100, 0x8, 32, 0x0, 1, 0x0, [(31, 0, .rw)]⟩,
   ⟨0x3400104, 0x8, 32, 0x0, 1, 0x0, [(31, 0, .rw)]⟩]

/-- The registers of the window Cupola (R494). -/
def regsCupola : List RegDesc :=
  [⟨0x3800000, 0x0, 1, 0x0, 1, 0x28A, [(9, 0, .rw)]⟩,
   ⟨0x3800004, 0x0, 1, 0x0, 1, 0xA0, [(9, 0, .rw)]⟩,
   ⟨0x3800008, 0x0, 1, 0x0, 1, 0x0, [(9, 0, .ro), (19, 10, .ro), (21, 20, .ro), (22, 22, .w1c)]⟩,
   ⟨0x380000C, 0x0, 1, 0x0, 1, 0x0, [(31, 0, .ro)]⟩,
   ⟨0x3800010, 0x0, 1, 0x0, 1, 0x0, [(9, 0, .ro), (19, 10, .ro)]⟩,
   ⟨0x3800020, 0x0, 1, 0x0, 1, 0x3228190, [(11, 0, .lk), (19, 12, .lk), (27, 20, .lk)]⟩,
   ⟨0x3800024, 0x0, 1, 0x0, 1, 0x3200, [(15, 0, .lk)]⟩,
   ⟨0x3800030, 0x0, 1, 0x0, 1, 0x0, [(0, 0, .rw)]⟩,
   ⟨0x3800034, 0x0, 1, 0x0, 1, 0x0, [(0, 0, .ro), (1, 1, .w1c)]⟩,
   ⟨0x3800100, 0x0, 1, 0x0, 1, 0x0, [(6, 0, .rw)]⟩,
   ⟨0x3800104, 0x0, 1, 0x0, 1, 0x0, [(1, 0, .wo), (2, 2, .wo)]⟩,
   ⟨0x3800108, 0x0, 1, 0x0, 1, 0x0, [(2, 0, .ro), (3, 3, .ro), (15, 8, .ro)]⟩,
   ⟨0x3800200, 0x4, 3, 0x0, 1, 0x0, [(31, 0, .ro)]⟩,
   ⟨0x3800300, 0x0, 1, 0x0, 1, 0x0, [(7, 0, .ro), (9, 8, .ro), (10, 10, .ro)]⟩,
   ⟨0x3800304, 0x0, 1, 0x0, 1, 0x5F, [(7, 0, .rw)]⟩,
   ⟨0x3800310, 0x4, 18, 0x0, 1, 0x0, [(7, 0, .ro), (9, 8, .ro), (23, 16, .ro)]⟩]

/-- The registers of the window Mbx (R494). -/
def regsMbx : List RegDesc :=
  [⟨0x3C00010, 0x20, 8, 0x0, 1, 0x8, [(0, 0, .ro), (1, 1, .ro), (2, 2, .w1c), (3, 3, .ro)]⟩]

/-- The registers of the window Bar4 (R494). -/
def regsBar4 : List RegDesc :=
  [⟨0x10000010, 0x20, 4, 0x0, 1, 0x8, [(0, 0, .ro), (1, 1, .ro), (2, 2, .w1c), (3, 3, .ro)]⟩,
   ⟨0x10000100, 0x0, 1, 0x0, 1, 0x0, [(3, 0, .w1c), (7, 4, .w1c)]⟩,
   ⟨0x10000104, 0x0, 1, 0x0, 1, 0x0, [(7, 0, .rw)]⟩]

/-- The registers of the block window that an offset lies in (R494). -/
def regWindow (off : Nat) : List RegDesc :=
  if off < 0x100000 then regsGlb else
  if off < 0x200000 then regsBelfry else
  if off < 0x400000 then regsHost else
  if off < 0x800000 then regsPart else
  if off < 0xA00000 then regsCanopy else
  if off < 0xC00000 then regsPattern else
  if off < 0x1000000 then regsCodec else
  if off < 0x1400000 then regsSpire else
  if off < 0x1600000 then regsLantern else
  if off < 0x1800000 then regsBeat else
  if off < 0x1C00000 then regsTier else
  if off < 0x2000000 then regsFlash else
  if off < 0x2400000 then regsPool else
  if off < 0x2800000 then regsNet else
  if off < 0x2C00000 then regsTraffic else
  if off < 0x3000000 then regsRing else
  if off < 0x3400000 then regsRas else
  if off < 0x3800000 then regsSec else
  if off < 0x3C00000 then regsCupola else
  if off < 0x4000000 then regsMbx else
  regsBar4

end Sys2Proof.Machine
end

