-- ==== Sys2Proof/Machine/State.lean ====
section
/-! DEFINITION. The state of the device as plain data: every register, table, record, queue, counter, mode and pin the
spec gives it, the memory outside it that its commands read and write, and the queue of commands that wait. -/

namespace Sys2Proof.Machine

open Sys2Proof


/-! ### The tier: leaves, chunks, sequences (02_leaves_sequences.md) -/

/-- Leaf states (R22, R33). -/
inductive LeafState | free | filling | sealed | migrating | evicting | poisoned
  deriving DecidableEq, Repr
/-- Persistence classes (R22, R30). -/
inductive Persist | vol | durable | pinned
  deriving DecidableEq, Repr
/-- Tiers (R22, R266). -/
inductive Tier | hbm | pool | flash
  deriving DecidableEq, Repr
/-- Sequence states (R27, R37). -/
inductive SeqState | free | openS | published | retired
  deriving DecidableEq, Repr

/-- The header of a stored leaf (R20). -/
structure LeafHdr where
  tag : Nat := 0
  codecEpoch : Epoch := 0
  keyEpoch : Epoch := 0
  keyFormat : Nat := 0
  valueFormat : Nat := 0
  raw : Bool := false
  promoted : Bool := false
  sink : Bool := false
  compressedLength : Nat := 0
  tokenCount : Nat := 0
  generation : Epoch := 0
  shapeIndex : Nat := 0
  shapeEpoch : Epoch := 0
  layer : Nat := 0
  chunkNumber : Nat := 0
  sequenceIndex : Nat := 0
  deriving DecidableEq, Repr

/-- One copy of a leaf: its header, its payload as decoded by the codec slice, the codec record that encoded it, the
64-byte lines of it that are poisoned, and a number of its own by which holds name it (R23). -/
structure Copy where
  cid : Nat := 0
  tier : Tier := .hbm
  loc : Nat := 0
  hdr : LeafHdr := {}
  payload : Bytes := []
  poison : List Nat := []
  tagBad : Bool := false
  deriving DecidableEq, Repr

/-- The keys and values of one token in one layer, in FP32, [kv_head][element] (R81, R140). -/
structure TokKV where
  k : List Word := []
  v : List Word := []
  bad : Bool := false
  deriving DecidableEq, Repr

/-- The INT4G/INT2G shadow of a leaf (R249, R285, R286). -/
structure Shadow where
  cid : Nat := 0
  slot : Nat := 0
  upper : Bool := false
  whole : Bool := false
  payload : Bytes := []
  releasing : Bool := false
  keyEpoch : Epoch := 0
  deriving DecidableEq, Repr

/-- The placement record of a leaf index (R272). -/
structure Place where
  lastTick : Nat := 0
  heat : Nat := 0
  hints : Nat := 0
  shadowSlot : Nat := 0
  shadowUpper : Bool := false
  shadowWhole : Bool := false
  deriving DecidableEq, Repr

/-- The Lantern summary block of a leaf (R203, R204). -/
structure Summary where
  generation : Epoch := 0
  valid : Bool := false
  tokenCount : Nat := 0
  scales : List Nat := []
  cells : List Int := []
  deriving DecidableEq, Repr

/-- One leaf index: its record (R22) and what the tiers hold for it. -/
structure Leaf where
  state : LeafState := .free
  persist : Persist := .vol
  tier : Tier := .hbm
  shadowPresent : Bool := false
  keyFormat : Nat := 0
  valueFormat : Nat := 0
  codecEpoch : Epoch := 0
  keyEpoch : Epoch := 0
  generation : Epoch := 0
  pinCount : Nat := 0
  compressedLength : Nat := 0
  dirtyMask : Nat := 0
  raw : Bool := false
  promoted : Bool := false
  rulePin : Bool := false
  noStore : Bool := false
  noShare : Bool := false
  shortTtl : Bool := false
  destTier : Tier := .hbm
  shapeIndex : Nat := 0
  layer : Nat := 0
  ruleClass : Nat := 0
  partition : Nat := 0
  location : Nat := 0
  destLocation : Nat := 0
  ownerSequence : Nat := 0
  refCount : Nat := 0
  cur : Option Copy := none
  old : List Copy := []
  durable : Option Copy := none
  flashQuarters : List Nat := []
  shadow : Option Shadow := none
  place : Place := {}
  summary : Option Summary := none
  staged : List (Option TokKV) := []
  withheld : Bool := false
  failedPrimary : Bool := false
  sealNo : Nat := 0
  deriving DecidableEq, Repr

/-- What a read sees of a leaf from the moment of its hold on (R23, R48, R268): the copy it holds and how much of it is
poisoned, the staged values of a FILLING leaf, and the shadow held with it (R249). `fate` is how the leaf is served in the end:
0 from the leaf, 1 from its shadow, 2 left out, 3 attended for LOCAL_ATTEND. -/
structure View where
  leaf : Nat := 0
  chunk : Nat := 0
  count : Nat := 0
  filling : Bool := false
  dead : Bool := false
  sh : Bytes := []
  copy : Copy := {}
  tier : Tier := .hbm
  staged : List (Option TokKV) := []
  shadow : Option Shadow := none
  generation : Epoch := 0
  fate : Nat := 0
  deriving DecidableEq, Repr

/-- What rules and classification have fixed for a chunk (R128, R130). -/
structure Acts where
  noStore : Bool := false
  noShare : Bool := false
  pin : Bool := false
  shortTtl : Bool := false
  ruleClass : Nat := 0
  deriving DecidableEq, Repr

/-- The scan state that a sequence carries through the pattern engine (R129). -/
structure Scan where
  st : Nat := 0
  fNoStore : Bool := false
  fNoShare : Bool := false
  fPin : Bool := false
  fShortTtl : Bool := false
  cls : Nat := 0
  deriving DecidableEq, Repr

/-- One chunk record (R24), with the tokens of a chunk that is not full, the first CLASS match and the first sticky CLASS
match in it (rule and position, R130), and the scan state after its last token (R129). -/
structure Chunk where
  hash : Nat := 0
  number : Nat := 0
  tokenCount : Nat := 0
  published : Bool := false
  acts : Acts := {}
  layerCount : Nat := 0
  shapeIndex : Nat := 0
  shapeEpoch : Epoch := 0
  ruleSetEpoch : Epoch := 0
  sequenceIndex : Nat := 0
  leaves : List Nat := []
  tokens : List Nat := []
  isSealed : Bool := false
  cls : Option (Nat × Nat) := none
  stickyCls : Option (Nat × Nat) := none
  scanAfter : Scan := {}
  deriving DecidableEq, Repr

/-- One sequence index: its record (R27), its chunk table and its two scan states. -/
structure Sequ where
  state : SeqState := .free
  persist : Persist := .vol
  shapeIndex : Nat := 0
  shapeEpoch : Epoch := 0
  ruleSetEpoch : Epoch := 0
  generation : Epoch := 0
  holderIndex : Nat := 0
  holderPosition : Nat := 0
  holderKind : Nat := 0
  leaseExpiry : Nat := 0
  publishedChunks : Nat := 0
  totalChunks : Nat := 0
  openTokens : Nat := 0
  adapterId : Nat := 0
  tierHints : Nat := 0
  shareGroup : Nat := 0
  shared : Bool := false
  lastHash : Nat := 0
  partition : Nat := 0
  chunks : List Chunk := []
  scan : Scan := {}
  scanPub : Scan := {}
  seed : Nat := 0
  withheld : Bool := false
  deriving DecidableEq, Repr

/-- One slot of a replaceable table with its epoch (R51). -/
structure Slot (α : Type) where
  loaded : Bool := false
  epoch : Epoch := 0
  body : α
  deriving DecidableEq, Repr

/-- A pair of slots and which of them holds the current epoch (R51). -/
structure Slots (α : Type) where
  cur : Option Bool := none
  a : Slot α
  b : Slot α
  deriving DecidableEq, Repr

/-! ### Host port (03_host_port_rings.md) -/

/-- By which of the three routes a request came (R9 to R11). -/
inductive Origin
  | ring (q : Nat)
  | qwp (qp psn : Nat)
  | fwd (pos queue num : Nat)
  deriving DecidableEq, Repr

/-- An ordering domain (R45): a sequence of a ring position, the index of a partition, or, at the origin of a request for a leaf
of another position, that leaf (log entry 50). -/
inductive Dom
  | seq (pos part idx : Nat) (gen : Epoch)
  | index (part : Nat)
  | farLeaf (handle : Nat)
  | none
  deriving DecidableEq, Repr

/-- The status codes (R89). -/
inductive Status
  | ok | okDegraded | okPartial | notFound | evicted | poisoned | mediaError | deadlineMissed
  | abortedPredecessor | abortedTeardown | abortedReset | accessDenied | quotaExceeded | busyTeardown
  | readOnlyMedia | badDescriptor | badFormat | linkFailed | remoteError | internal
  deriving DecidableEq, Repr

/-- What a completion entry carries beside its status (R82). -/
structure Cpl where
  result0 : Nat := 0
  result1 : Nat := 0
  detail : Nat := 0
  path : Nat := 0
  beatLost : Bool := false
  approximate : Bool := false
  poisoned : Bool := false
  deriving DecidableEq, Repr

/-- How far an admitted request has come (R71, R86). -/
inductive Phase | fetched | started | waiting
  deriving DecidableEq, Repr

/-- A match of a reported rule (R132). -/
structure RuleMatch where
  rule : Nat := 0
  priority : Nat := 0
  action : Nat := 0
  token : Nat := 0
  chunk : Nat := 0
  deriving DecidableEq, Repr

/-- What a SEQ_APPEND or LEAF_WRITE in progress will make visible at its commit point (R48, R419): the chunk records from
number `first` on, the staged tokens of leaves, the leaves it allocated, the scan state and last chain hash, the chunks that
seal with their actions and classes, the leaves sealed so far, and the results. -/
structure Plan where
  seq : Nat := 0
  gen : Epoch := 0
  first : Nat := 0
  chunks : List Chunk := []
  staged : Table (List (Option TokKV)) := []
  made : List Nat := []
  scan : Scan := {}
  lastHash : Nat := 0
  ready : List Nat := []
  durables : List Nat := []
  done : List Nat := []
  sealedLeaves : Table Leaf := []
  reports : List RuleMatch := []
  reported : Nat := 0
  group : Option Nat := none
  deriving DecidableEq, Repr

/-- A root-index entry (R105), with the shard bucket of its tree (R117). -/
structure RootEntry where
  hash : Nat := 0
  seqIndex : Nat := 0
  ringPos : Nat := 0
  chunkNumber : Nat := 0
  partition : Nat := 0
  generation : Epoch := 0
  adapterId : Nat := 0
  priority : Nat := 0
  shapeIndex : Nat := 0
  ctxTag : Nat := 0
  bucket : Nat := 0
  deriving DecidableEq, Repr

/-- A lookup whose matches at one level other members confirm (R118): the hashes found, the level as the number of chunks
it matches, the partitions permitted, the entries of the level in resolution order with their verdicts so far, and the
positions that have not answered. -/
structure Lookup where
  hashes : List Nat := []
  m : Nat := 0
  permitted : List Nat := []
  conf : List (RootEntry × Option Bool) := []
  asked : List Nat := []
  deriving DecidableEq, Repr

/-- What a waiting request waits for. -/
inductive Wait
  | none
  | append (plan : Plan)
  | journal (group : Nat) (st : Status) (c : Cpl)
  | job (id : Nat)
  | migrate (leaf : Nat) (dest : Tier)
  | revoke (mr : Nat)
  | teardown (part : Nat)
  | waitFree (part : Nat)
  | createScrub (part : Nat)
  | pad (until_ : Nat) (st : Status) (c : Cpl)
  | arm (slot : Bool)
  | disarm (slot : Bool)
  | forward (pos : Nat)
  | lookup (l : Lookup)
  | step (ctx : Nat)
  | relief (tier : Tier)
  | poolFlush
  | acks (qp : Nat) (st : Status) (c : Cpl)
  deriving DecidableEq, Repr

/-- What a request takes at its start and keeps (R71, R86), whatever changes before it acts: the epoch of its partition's rule sets
(R122), the scan state and the counts of the sequence that it names (R129, R182, R205), the partitions whose chunks a lookup may
return (R112) and whether the partition is a member of the share group that it names (R92), the beat domain to which its
partition is bound, with MARK_EN (R221), and the shard map by which it routes (R394). -/
structure StartSnap where
  ruleEpoch : Epoch := 0
  scan : Scan := {}
  total : Nat := 0
  openTokens : Nat := 0
  permitted : List Nat := []
  member : Bool := false
  bound : Option Nat := none
  markEn : Bool := false
  shards : List Nat := []
  deriving DecidableEq, Repr

/-- One admitted request (R71), its descriptor held in the 64-byte v2 layout (R74, R78). -/
structure Req where
  origin : Origin := .ring 0
  part : Nat := 0
  entry : Bytes := []
  v2 : Bool := true
  sqHead : Nat := 0
  ringSeq : Nat := 0
  srcSpace : Nat := 0
  dstSpace : Nat := 0
  srcMr : Option Nat := none
  dstMr : Option Nat := none
  srcRkey : Nat := 0
  dstRkey : Nat := 0
  qwpVersion : Nat := 0
  requestId : Nat := 0
  inlineTokens : Option Bytes := none
  hashTag : Option Nat := none
  hashes : List Nat := []
  phase : Phase := .fetched
  wait : Wait := .none
  dom : Dom := .none
  startTime : Nat := 0
  deadline : Option Nat := none
  beatDom : Option Nat := none
  beatLost : Bool := false
  silent : Bool := false
  mute : Bool := false
  lastWrite : Option Nat := none
  event : Bool := false
  jobNo : Nat := 0
  snap : StartSnap := {}
  deriving DecidableEq, Repr

/-- The state of one completion ring beside its registers: reservations (R71), unsignalled entries (R85). -/
structure CqSt where
  reserved : Nat := 0
  unsignalled : Nat := 0
  oldest : Nat := 0
  instSeq : Nat := 0
  deriving DecidableEq, Repr

/-- The state of one submission ring beside its registers: sequence numbers of confidential host mode (R436), and the bursts that it
has fetched in the round of the arbiter (R72). -/
structure SqSt where
  seqNo : Nat := 0
  cplSeq : Nat := 0
  bursts : Nat := 0
  deriving DecidableEq, Repr

/-- A hold of an operation on one copy of a leaf (R23). -/
structure Hold where
  owner : Nat := 0
  leaf : Nat := 0
  cid : Nat := 0
  deriving DecidableEq, Repr

/-! ### Prefix search (04_prefix_search.md) -/

/-- What a Canopy entry is a copy of (R94, R97). -/
inductive CanopyKind | index | rule
  deriving DecidableEq, Repr

/-- One Canopy entry: its cells as a value and a care mask over 1, 2 or 4 units of 64 bits, and its associated record
(R93 to R97); `cleared` marks an entry
whose unit failed parity and has not been rewritten from the shadow (R102). -/
structure CanopyEntry where
  value : Nat := 0
  care : Nat := 0
  pointer : Nat := 0
  root : Option RootEntry := none
  priority : Nat := 0
  kind : CanopyKind := .index
  hits : Nat := 0
  cleared : Bool := false
  deriving DecidableEq, Repr

/-- One Canopy bank (R93, R101): entries by slot, the classification entries that the HBM shadow keeps while the group of the bank is
off (R134), whether it is retired (R413), and HOLE_LOG2 of its last rebuild. -/
structure CanopyBank where
  entries : Table CanopyEntry := []
  away : Table CanopyEntry := []
  retired : Bool := false
  hole : Nat := 4
  deriving DecidableEq, Repr

/-- A search context or a rule-match context (R113, R132): the matches not yet returned, in reporting order, or the
ring position and number of the context that another member holds in its place. -/
structure Ctx where
  part : Nat := 0
  isRule : Bool := false
  m : Nat := 0
  found : List RootEntry := []
  rules : List RuleMatch := []
  lastUse : Nat := 0
  far : Option (Nat × Nat) := none
  deriving DecidableEq, Repr

/-! ### Retention rules (05_retention_rules.md) -/

/-- One rule (R126). -/
structure Rule where
  action : Nat := 0
  sticky : Bool := false
  report : Bool := false
  priority : Nat := 0
  cls : Nat := 0
  deriving DecidableEq, Repr

/-- One classification entry (R126, R133): key, mask, action fields and Canopy priority. -/
structure ClassEntry where
  tkey : Nat := 0
  tmask : Nat := 0
  acts : Nat := 0
  priority : Nat := 0
  deriving DecidableEq, Repr

/-- A rule set (R120, R125, R126): the automaton with its class map, its transitions in state-major order and the accept
list of each state, the length of the list that they name parts of, then the rules and the classification entries; `waiting`
marks a load that no switch has reached yet (R121). The empty rule set has no rules. -/
structure RuleSet where
  stateCount : Nat := 1
  classCount : Nat := 1
  start : Nat := 0
  dfltClass : Nat := 0
  classMap : List Nat := []
  trans : List Nat := []
  accept : List (List Nat) := []
  acceptCount : Nat := 0
  waiting : Bool := false
  rules : List Rule := []
  classify : List ClassEntry := []
  deriving DecidableEq, Repr

/-! ### Codec (07_leaf_codec.md) -/

/-- A code-table record (R160): five tables of 256 code lengths. -/
structure CodeTable where
  isNull : Bool := true
  lengths : List (List Nat) := []
  sampled : Nat := 0
  trainedTime : Nat := 0
  deriving DecidableEq, Repr

/-- The scope of a codec table: partition, shape slot, format (R51, R167). -/
structure CodecScope where
  slots : Slots CodeTable
  sweeping : Bool := false
  deriving DecidableEq, Repr

/-! ### Belfry and mailboxes (22_belfry_mailboxes.md) -/

/-- One mailbox (R489 to R492): the two message registers, the staged low word, the latched high word, and the request
that Keep has taken and not answered. FULL, OVERRUN and KEEP_DOWN lie in its status register. -/
structure Mailbox where
  h2k : Nat := 0
  k2h : Nat := 0
  staged : Nat := 0
  latched : Nat := 0
  taken : List Nat := []
  deriving DecidableEq, Repr

/-- What the device sends out of itself, to be seen by the outside. -/
inductive Out
  /-- An MSI-X message of a vector of a function (R85, R485). -/
  | msix (fn vec : Nat)
  /-- The data of a register or message read. -/
  | readData (fn off val : Nat)
  /-- A read refused with Unsupported Request (R438). -/
  | unsupported (fn off : Nat)
  /-- A QWP response with its 32-byte completion entry (R362). -/
  | qwpResponse (qp psn : Nat) (entry : Bytes)
  /-- An RDMA packet of a queue pair: kind, PSN, and a syndrome or code. -/
  | packet (qp kind psn code : Nat)
  /-- RDMA WRITE data into requester memory (R360). -/
  | rdmaWrite (qp psn rkey addr : Nat) (data : Bytes)
  /-- The data that answers an inbound RDMA READ (R353). -/
  | rdmaRead (qp psn : Nat) (data : Bytes)
  /-- A host write TLP of a partition, by length (R366); what it writes is in memory already. -/
  | hostWrite (part len : Nat)
  /-- An Ethernet or other egress frame of a queue (R369). -/
  | frame (port queue len : Nat)
  /-- A ring frame: destination position (16 for all), frame kind, sequence, the highest sequence received in order from
  the destination, context, words of its body (R388). -/
  | ringFrame (dst kind seq ack num : Nat) (body : List Nat)
  /-- A message to the pool fabric (R325, R335). -/
  | pool (kind arg : Nat)
  /-- A reply of the management port or of a security protocol (R432 to R444). -/
  | mgmt (kind status : Nat) (body : List Nat)
  deriving DecidableEq, Repr

/-! ### Partitions (21_bringup.md) -/

/-- Partition states (R476). -/
inductive PState | free | active | draining | scrubbing
  deriving DecidableEq, Repr

/-- What the device keeps for a partition beside its registers (R476 to R480, R429 to R431): its configuration block, whether
a restored store waits for it, the PARTITION_ENABLE held, the request that waits for its scrub and the tenant of it, its key
sets as epoch and DRBG draw, whether a rotation sweeps, and what its registers read while it leaves (R439). -/
structure Part where
  block : Option Bytes := none
  restored : Bool := false
  enableHeld : Option Nat := none
  scrubFor : Option Nat := none
  tenantNew : Option Nat := none
  keys : Table Nat := []
  sweep : Bool := false
  frozen : Table Nat := []
  deriving DecidableEq, Repr

/-- The confidential host mode of a partition (R433 to R437): whether it is bound, the pair of keys in force with the
ring sequence from which it counts, and the one previous pair. -/
structure Chm where
  bound : Bool := false
  stream : Nat := 0
  epoch : Nat := 0
  start : Nat := 0
  prevEpoch : Option Nat := none
  locked : Bool := false
  nonce : Nat := 0
  deriving DecidableEq, Repr

/-! ### Traffic (16_traffic.md) -/

/-- A frame that waits in an egress queue: its bytes, its priority on an Ethernet port, its partition (128 for none), its
queue pair (none for other traffic), when it entered, and what is sent when it starts (R367, R368). `slot` marks the response of
a QWP request, whose request slot it frees when it is sent (R358). -/
structure Frame where
  len : Nat := 0
  prio : Nat := 0
  part : Nat := 128
  qp : Option Nat := none
  entered : Nat := 0
  slot : Bool := false
  what : Out := .pool 0 0
  deriving DecidableEq, Repr

/-- One egress queue (R366 to R371, R376). Credit has 8 fraction bits. The `new` fields hold writes until the next refill. -/
structure TxQ where
  frames : List Frame := []
  rate : Nat := 0
  burst : Nat := 0x100
  quantum : Nat := 0x20
  newRate : Option Nat := none
  newBurst : Option Nat := none
  newQuantum : Option Nat := none
  credit : Int := 0
  deficit : Nat := 0
  depthLast : Nat := 0
  depthMax : Nat := 0
  delayLast : Nat := 0
  delayMax : Nat := 0
  timed : Nat := 0
  deriving DecidableEq, Repr

/-- One egress port: the current weighted queue of R369, the paused priorities, INTERVAL and OVERHEAD in force (R371). -/
structure TxPort where
  cur : Nat := 4
  paused : List Nat := []
  interval : Nat := 4
  overhead : Nat := 0x14
  deriving DecidableEq, Repr

/-- The queues in which a partition's host writes and ring frames are sent, until a move is made (R372). -/
structure PartQ where
  host : Nat := 4
  ring : Nat := 4
  deriving DecidableEq, Repr

/-- A partition's ingress meter (R374, R375): tokens with 8 fraction bits, the configuration in force, and whether a
change waits for the next refill. -/
structure Meter where
  mode : Nat := 0
  yellow : Nat := 0
  red : Nat := 2
  cir : Nat := 0
  pir : Nat := 0
  cbs : Nat := 0x400
  ebs : Nat := 0x800
  tc : Nat := 0
  te : Nat := 0
  changed : Bool := false
  deriving DecidableEq, Repr

/-! ### Network (15_network.md) -/

/-- Queue pair states (R350). -/
inductive QpState | reset | rts | error | draining
  deriving DecidableEq, Repr

/-- An operation that this device sent on a queue pair and that is not acknowledged: its PSN, its kind (0 response SEND,
1 RDMA WRITE, 2 RDMA READ) and its request. -/
structure OutOp where
  psn : Nat := 0
  kind : Nat := 0
  rid : Nat := 0
  what : Out := .pool 0 0
  deriving DecidableEq, Repr

/-- An inbound RDMA WRITE message that is part done (R353). -/
structure InWrite where
  region : Nat := 0
  addr : Nat := 0
  left : Nat := 0
  deriving DecidableEq, Repr

/-- One queue pair: its context (R349) and its state. `reads` says that it has admitted a request whose sources it fetches by
RDMA READ, which take PSNs between those of what it sends. -/
structure Qp where
  state : QpState := .reset
  cmdErr : Bool := false
  admitted : Nat := 0
  partition : Nat := 0
  port : Nat := 0
  subPort : Nat := 0
  fatalMode : Bool := false
  qwpV1 : Bool := false
  qwpV2 : Bool := false
  pmtu : Nat := 0
  egressQueue : Nat := 0
  remoteQpn : Nat := 0
  rqDepth : Nat := 0
  retryCnt : Nat := 0
  rnrRetry : Nat := 0
  timeout : Nat := 0
  minRnrTimer : Nat := 0
  udpSrcPort : Nat := 0
  remoteIp : Nat := 0
  remoteMac : Nat := 0
  vlanId : Nat := 0
  pcp : Nat := 0
  vlanEn : Bool := false
  dscp : Nat := 0
  hopLimit : Nat := 0
  sendPsn : Nat := 0
  expectPsn : Nat := 0
  lastPsn : Nat := 0
  outstanding : List OutOp := []
  retriesLeft : Nat := 0
  rnrLeft : Nat := 0
  sentAt : Nat := 0
  rate : Nat := 0
  cnpSent : Option Nat := none
  cnpSeen : Option Nat := none
  cutAt : Option Nat := none
  raisedAt : Nat := 0
  unacked : Nat := 0
  oldestUnacked : Nat := 0
  inWrite : Option InWrite := none
  reads : Bool := false
  deriving DecidableEq, Repr

/-- The states of a memory region (R52, R353). -/
inductive MrState | free | admits | drain
  deriving DecidableEq, Repr

/-- One memory region (R352, R353). -/
structure Mr where
  state : MrState := .free
  key : Epoch := 0
  partition : Nat := 0
  base : Nat := 0
  length : Nat := 0
  access : Nat := 0
  work : Nat := 0
  deriving DecidableEq, Repr

/-- The addresses of one Ethernet sub-port (R346). -/
structure SubPort where
  mac : Nat := 0
  ipv4 : Nat := 0
  ipv6 : Nat := 0
  deriving DecidableEq, Repr

/-! ### Spires and Saplings (08_spire_attention.md, 11_saplings.md) -/

/-- A work unit (R185, R189, R255): its job, its number in it, its partition and the time its plan gives it in ns. -/
structure WUnit where
  job : Nat := 0
  idx : Nat := 0
  part : Nat := 0
  ns : Nat := 0
  deriving DecidableEq, Repr

/-- A Spire: its running and its assigned unit (R256), whether it is slow and since when it has not been (R258), and its
uncorrectable errors of the last second (R405). -/
structure SpireSt where
  running : Option WUnit := none
  assigned : Option WUnit := none
  started : Nat := 0
  slow : Bool := false
  slowAt : Nat := 0
  busyNs : Nat := 0
  ueTimes : List Nat := []
  deriving DecidableEq, Repr

/-- A Grove: its unit queue, oldest first (R255). -/
structure Grove where
  queue : List WUnit := []
  deriving DecidableEq, Repr

/-- The extension of a partition (R261 to R265). -/
structure Ext where
  state : Nat := 0
  err : Nat := 0
  faults : Nat := 0
  addr : Nat := 0
  len : Nat := 0
  scratch : Nat := 0
  scratchLen : Nat := 0
  hooks : Nat := 0
  timerMs : Nat := 0
  budget : Nat := 0
  image : Bytes := []
  notes : List (Nat × Nat) := []
  lastTimer : Nat := 0
  deriving DecidableEq, Repr

/-! ### Flash (13_flash.md) -/

/-- One multi-plane block (R298), keyed by channel + 32 × die position + 1024 × block. -/
structure Block where
  state : Nat := 0
  slc : Bool := false
  relocate : Bool := false
  profileEpoch : Epoch := 0
  eraseCount : Nat := 0
  band : Nat := 0
  programHour : Nat := 0
  programTemp : Nat := 0
  rebuilds : Nat := 0
  deriving DecidableEq, Repr

/-- A band of 32 blocks, one on each channel (R291): the row that is open and its channels in use. `kind` is 0 for leaf
data, 1 for the journal, 2 for checkpoints; `born` numbers bands in the order in which they were opened. -/
structure Band where
  blocks : List Nat := []
  slc : Bool := true
  kind : Nat := 0
  row : Nat := 0
  used : List Nat := []
  isOpen : Bool := true
  born : Nat := 0
  deriving DecidableEq, Repr

/-- A programmed mapping unit by its physical address: its tag (R293), whether its program has its credit (R458) and is complete, whether its row
has closed (R295), and whether it can no longer be read. -/
structure Mu where
  leaf : Nat := 0
  quarter : Nat := 0
  seqNo : Nat := 0
  kind : Nat := 0
  gen : Epoch := 0
  issued : Bool := false
  done : Bool := false
  closed : Bool := false
  bad : Bool := false
  reloc : Bool := false
  deriving DecidableEq, Repr

/-- A journal record (R300). -/
inductive JRec
  | map (leaf quarter new old : Nat) (gen : Epoch) (cond : Bool)
  | leaf (idx : Nat) (rec : Option Leaf)
  | chunk (seq num : Nat) (c : Chunk)
  | seq (idx : Nat) (rec : Sequ)
  | index (seq chunk : Nat) (insert : Bool)
  | block (key : Nat) (rec : Block) (valid : Nat)
  | profile (epoch : Epoch)
  deriving DecidableEq, Repr

/-- A record in a journal mapping unit (R299): its group, whether it ends it, and what it records; of a CHUNK, whether it is the
CHUNK_META that goes with it (R300). -/
structure JEntry where
  group : Nat := 0
  last : Bool := false
  isMeta : Bool := false
  what : JRec
  deriving DecidableEq, Repr

/-- What a journal mapping unit holds (R299): its sequence number, the sequence of the checkpoint in force, and its records. -/
structure JournalMu where
  seqNo : Nat := 0
  checkpoint : Nat := 0
  recs : List JEntry := []
  deriving DecidableEq, Repr

/-- A journal group that is not committed (R301): its records, the mapping units it waits for, the quarters that wait for
a free band (R304), and the request that completes with it. -/
structure Group where
  recs : List JRec := []
  mus : List Nat := []
  pend : List (Nat × Nat) := []
  rid : Option Nat := none
  deriving DecidableEq, Repr

/-- What the checkpoint and the committed groups after it describe (R302, R303): what a mount would restore. -/
structure Image where
  leaves : Table Leaf := []
  seqs : Table Sequ := []
  index : List (Nat × Nat) := []
  deriving DecidableEq, Repr

/-- A die (R312): times of its slow reads in the last second, its last slow read, its last latencies, and the epoch of
its threshold setting. -/
structure Die where
  slowTimes : List Nat := []
  slowAt : Nat := 0
  lats : List Nat := []
  slowCount : Nat := 0
  deriving DecidableEq, Repr

/-- The 64-bit counts of the health log (R318), kept across power cycles. -/
structure Health where
  corrected : Nat := 0
  retried : Nat := 0
  rebuilt : Nat := 0
  uncorrectable : Nat := 0
  slowReads : Nat := 0
  progFail : Nat := 0
  eraseFail : Nat := 0
  grownBad : Nat := 0
  factoryBad : Nat := 0
  writeMus : Nat := 0
  relocMus : Nat := 0
  powerFails : Nat := 0
  uncleanMounts : Nat := 0
  tempHist : List Nat := []
  deriving DecidableEq, Repr

/-- The flash tier: media, journal and what outlives power. `perCh` and `dieId` are what the initialisation of the channels
found (R290), `geom` the geometry fields of the profile that formatted the media (R315), `saved` the health counts of the last
checkpoint or shutdown record, `tempAt` when the temperature histogram last
counted a minute, and the spares, the usable capacity and the read-only state that outlast a reset. -/
structure Flash where
  formatted : Bool := false
  profiles : Slots Bytes := { a := { body := [] }, b := { body := [] } }
  blocks : Table Block := []
  bands : Table Band := []
  mus : Table Mu := []
  groups : Table Group := []
  nextGroup : Nat := 0
  journalSeq : Nat := 0
  ckptSeq : Nat := 0
  image : Image := {}
  dies : Table Die := []
  mediaHours : Nat := 0
  hourStart : Nat := 0
  health : Health := {}
  spareStart : List Nat := []
  slcTotal : Nat := 0
  natTotal : Nat := 0
  erasing : List (Nat × Bool) := []
  shutdownRec : Bool := true
  perCh : Nat := 0
  dieId : Nat := 0
  geom : Bytes := []
  folding : Bool := false
  collecting : Bool := false
  bandSeq : Nat := 0
  saved : Health := {}
  tempAt : Nat := 0
  mountAt : Nat := 0
  spares : List Nat := []
  usable : Nat := 0
  readOnly : Bool := false
  journal : Table JournalMu := []
  deriving DecidableEq, Repr

/-! ### The memory pool (14_pool_port.md) -/

/-- One extent (R324, R335). `state` is 0 free, 1 ADMIT, 2 DRAIN, 3 FAILED. -/
structure Extent where
  base : Nat := 0
  len : Nat := 0
  target : Nat := 0
  kind : Nat := 0
  owner : Option Nat := some 0
  home : Nat := 0
  homeLocal : Bool := true
  dynamic : Bool := false
  state : Nat := 0
  blocked : Bool := false
  releaseAt : Nat := 0
  deriving DecidableEq, Repr

/-- One lease granted by this home (R331, R332): its holder, a partition on a ring position or a queue pair of the home. -/
structure Lease where
  isQp : Bool := false
  holder : Nat := 0
  pos : Nat := 0
  base : Nat := 0
  len : Nat := 0
  ms : Nat := 0
  expiry : Nat := 0
  deriving DecidableEq, Repr

/-- The pool port: extents, the leases that this home granted, the leases of this device's partitions at other homes (their
`pos` is the home), the lines in the read buffers (R330), the buckets of R327 in bytes, and the target ranges that the host
decoders map, as target, base and length in units of 2 MiB. What the shared windows hold lies in `mem` (log entry 3). `refclk` is the
output POOL_REFCLK, true while it runs (R522), and `down` says that the tier is marked down and its link has not trained again (R342). -/
structure Pool where
  exts : Table Extent := []
  leases : List Lease := []
  remote : List Lease := []
  readBuf : List (Nat × Bytes) := []
  tgtCredit : Table Nat := []
  partCredit : Table Nat := []
  targets : List (Nat × Nat × Nat) := []
  refclk : Bool := false
  down : Bool := false
  deriving DecidableEq, Repr


/-! ### Power domains (20_power.md) -/

/-- A power domain (R447 to R451): its state as CUPOLA_PD_STATUS numbers it (0 OFF, 1 POWERING_ON, 2 ON, 3 DRAINING,
4 POWERING_OFF, 5 ABSENT), a held on request, and the result of the last request. -/
structure Pd where
  state : Nat := 0
  held : Bool := false
  result : Nat := 0
  deriving DecidableEq, Repr


/-! ### The Bruiskade ring (17_bruiskade.md) -/

/-- A frame kept until an acknowledgement covers it (R390). -/
structure Kept where
  seq : Nat := 0
  kind : Nat := 0
  num : Nat := 0
  part : Nat := 0
  queue : Nat := 0
  body : List Nat := []
  len : Nat := 0
  sentAt : Nat := 0
  tries : Nat := 1
  deriving DecidableEq, Repr

/-- What the device keeps for one other position (R390): the number of the next frame to it, the frames not acknowledged,
the highest number received from it in order, the frames held that came early, and whether it owes an acknowledgement. -/
structure Peer where
  nextSeq : Nat := 1
  kept : List Kept := []
  rxSeq : Nat := 0
  early : List Kept := []
  ackDue : Bool := false
  absentAt : Option Nat := none
  deriving DecidableEq, Repr

/-- The ring (R379 to R399): pins and straps, the join, the master, the shard map with a change in progress, and the
purges that wait for acknowledgement. The map lists the owner of each bucket; an empty map is owned by position 0.
`lastPresent` is who was present in the last member table, `timed` that no step of DEVICE_TIME is open, `heard` the ranks and
serial numbers of other devices that join, `want` the map of a change that waits to start, and `linkDelay` the measured delays
of the east and the west link. -/
structure Ring where
  joinPin : Bool := false
  strapMaster : Bool := false
  strapStandby : Bool := false
  lockE : Bool := false
  lockW : Bool := false
  joinAt : Option Nat := none
  leaving : Bool := false
  fresh : Bool := true
  lastHeartbeat : Nat := 0
  heartbeatSent : Nat := 0
  joinSent : Nat := 0
  serials : Table Nat := []
  peers : Table Peer := []
  map : List Nat := []
  next : Option (List Nat) := none
  staged : Table Nat := []
  transfers : List Nat := []
  purges : List (Nat × Nat) := []
  linkDelay : Nat × Nat := (0, 0)
  master : Option Nat := none
  lastPresent : List Nat := []
  gotMembers : Bool := false
  gotMap : Bool := false
  timed : Bool := false
  formedAt : Option Nat := none
  heard : List (Nat × Nat) := []
  want : Option (List Nat) := none
  deriving DecidableEq, Repr

/-! ### The beat, schedules and event instances (10_beat_delivery.md) -/

/-- The tracker of one beat domain (R222, R223): state 0 OFF, 1 ACQUIRING, 2 LOCKED, 3 LOST; the intervals and gaps that its
means take, newest first; and the last layer start that its source gave, for the glitch rule (R218). -/
structure Beat where
  state : Nat := 0
  layer : Nat := 0
  step : Nat := 0
  last : Nat := 0
  period : Nat := 0
  intervals : List Nat := []
  pushed : Nat := 0
  gap : Nat := 0
  gaps : List Nat := []
  gapCount : Nat := 0
  goodRun : Nat := 0
  accepted : Option Nat := none
  deriving DecidableEq, Repr

/-- One schedule slot with an image (R228): its bytes, its epoch, its slot table (R233), and the ring and head of the
SCHEDULE_ARM that last took effect on it (R240). -/
structure SchedImg where
  bytes : Bytes := []
  epoch : Epoch := 0
  table : Table Bytes := []
  sqId : Nat := 0
  sqHead : Nat := 0
  deriving DecidableEq, Repr

/-- An arm or disarm that is pending until its reference (R234, R235). -/
structure SchedPend where
  disarm : Bool := false
  slot : Bool := false
  step : Nat := 0
  dom : Nat := 0
  rid : Nat := 0
  first : Nat := 0
  entries : List Bytes := []
  sqId : Nat := 0
  sqHead : Nat := 0
  deriving DecidableEq, Repr

/-- The schedules of a partition: the two slots, the most recently assigned epoch, the armed slot with the step at which it
was armed, the beat domain of its arm (R221), the pending arm or disarm, the last step for which each event of the armed slot was issued, plus 1, and for each
SELECT event the last step whose instance completed OK or OK_DEGRADED, plus 1, with the sequence of that instance (R238). -/
structure Sched where
  a : Option SchedImg := none
  b : Option SchedImg := none
  lastEpoch : Epoch := 0
  armed : Option (Bool × Nat) := none
  dom : Nat := 0
  pend : Option SchedPend := none
  issued : Table Nat := []
  selDone : Table (Nat × Nat) := []
  deriving DecidableEq, Repr

/-- How a job is owned: a descriptor, or a slot of an event instance. -/
inductive JobOwner
  | req (rid : Nat)
  | inst (id slot : Nat)
  deriving DecidableEq, Repr

/-- A candidate of a SELECT (R205, R210): whether it was scored, whether it was left unscored for lateness, its score, and the
largest score that its band admits and the largest that its band guarantees. -/
structure SelCand where
  chunk : Nat := 0
  scored : Bool := false
  late : Bool := false
  score : Word := 0
  hi : Word := 0
  lo : Word := 0
  deriving DecidableEq, Repr

/-- Work on Spires in progress (R185, R189, R255): its kind (0 ATTEND, 1 SELECT scored exactly, 2 LOCAL_ATTEND, 3 SELECT scored on arrays), what it
reads, and the units that are not finished. `total` is the token count N of R182. For a SELECT: the layer, k, whether its query
is a proxy and the margin of that, its candidates, the forced chunks with their reasons, and whether a summary block that it
read was poisoned. -/
structure Job where
  owner : JobOwner := .req 0
  kind : Nat := 0
  part : Nat := 0
  handle : Nat := 0
  sh : Bytes := []
  qblock : Bytes := []
  qbf16 : Bool := false
  outBf16 : Bool := false
  nq : Nat := 1
  views : List View := []
  total : Nat := 0
  maxSpires : Nat := 0
  left : List Nat := []
  layer : Nat := 0
  k : Nat := 0
  proxy : Bool := false
  pband : Word := 0
  cands : List SelCand := []
  forced : List (Nat × Nat) := []
  bad : Bool := false
  deriving DecidableEq, Repr

/-- One slot of an event instance (R237 to R246): the table entry, its shape record and set, its status, whether its query
has come, the chunks of a SELECT that took no rows when it was issued with their reasons, and whether it holds its candidates for
exact scoring, whether its query was not ready at the commit point, whether its work is done, how many SELECT candidates were late,
and what it has brought: chunks attended locally, the bytes to write behind the map record or in place of blocks, results and
detail. -/
structure InstSlot where
  entry : Nat := 0
  handle : Nat := 0
  sh : Bytes := []
  status : Status := .ok
  views : List View := []
  asked : Bool := false
  forced : List (Nat × Nat) := []
  exact : Bool := false
  noQuery : Bool := false
  done : Bool := false
  late : Bool := false
  localCount : Nat := 0
  tail : Bytes := []
  res0 : Nat := 0
  res1 : Nat := 0
  detail : Nat := 0
  total : Nat := 0
  deriving DecidableEq, Repr

/-- An event instance issued and not completed (R237): its partition, image slot with its bytes, event and step, its completion
ring with the sequence of the instance on it, and its slots; whether its commit point has passed, whether its domain was LOST
meanwhile, whether its image or slot table could not be read (R411), and, once its writes have been sent, how it completes. -/
structure Inst where
  part : Nat := 0
  slot : Bool := false
  image : Bytes := []
  epoch : Epoch := 0
  event : Nat := 0
  step : Nat := 0
  dom : Nat := 0
  cq : Nat := 0
  seqNo : Nat := 0
  sqId : Nat := 0
  sqHead : Nat := 0
  slots : List InstSlot := []
  commit : Bool := false
  beatLost : Bool := false
  bad : Bool := false
  result : Option (Status × Cpl) := none
  deriving DecidableEq, Repr

/-! ### Lantern arrays (09_lantern.md) -/

/-- One Lantern array: state as LANTERN_ARRAY_STATUS numbers it (0 off, 1 usable, 2 calibrating, 3 out of calibration), the
time and temperature of its last successful calibration, its band ε, its trims by column group, and the SELECT that holds it: the
number of its request or instance, and the slot. -/
structure LArray where
  state : Nat := 0
  lastOk : Option Nat := none
  lastCal : Option Nat := none
  failed : Bool := false
  temp : Nat := 0
  band : Nat := 0
  trims : List (Nat × Nat) := []
  holder : Option (Nat × Nat) := none
  deriving DecidableEq, Repr

/-! ### Errors (18_faults.md) -/

/-- One entry of the address log (R412, R423); `born` numbers entries in the order in which they were made. -/
structure LogEntry where
  repeats : Nat := 0
  symbols : Nat := 0
  sub : Nat := 0
  unit : Nat := 0
  source : Nat := 0
  ue : Bool := false
  addr : Nat := 0
  time : Nat := 0
  born : Nat := 0
  deriving DecidableEq, Repr

/-- Errors beside their registers: the address log by index, die events of the HBM lap by stack × 16 + die (R404), when the
lap began, when RAS_CORRECTED was last raised for CE, codewords written raw with the leaf and the copy that lay there (R414),
the retirement in progress (R413), retired Spires, faulted and retired Saplings by cluster × 32 + core, retired arrays, the
self-test in progress as target and unit (R415), and the Buttress dies that a fault has stopped (R14). -/
structure Ras where
  log : Table LogEntry := []
  born : Nat := 0
  dieEvents : Table Nat := []
  lapStart : Nat := 0
  ceAt : Option Nat := none
  raw : Table (Nat × Bytes) := []
  retiring : Option (Nat × Nat) := none
  spires : List Nat := []
  faulted : List Nat := []
  saplings : List Nat := []
  arrays : List Nat := []
  bist : Option (Nat × Nat) := none
  dies : List Nat := []
  deriving DecidableEq, Repr

/-! ### Security (19_security.md) -/

/-- The record of a partition in the key anchor (R429): its tenant identifier and its key sets, each an epoch and the number of
the DRBG draw that made it. -/
structure KeyRec where
  tenant : Nat := 0
  current : Nat := 0
  keys : List (Nat × Nat) := []
  deriving DecidableEq, Repr

/-- Keep's security state (R426 to R444): the number of DRBG draws made, the key anchor in flash, the operator root, the
extension key, the CAKs by sub-port, SPDM sessions by function, the link stream of the host port, selective streams by number
with the function to which each is bound, and the code words of the last measurement of the seal (R506). -/
structure Sec where
  draws : Nat := 0
  anchor : Table KeyRec := []
  root : Option Nat := none
  extKey : Option Nat := none
  caks : Table Nat := []
  sessions : List Nat := []
  linkIde : Bool := false
  streams : Table Nat := []
  sealWords : Bytes := []
  deriving DecidableEq, Repr

/-! ### Power (20_power.md) -/

/-- A grant held (R453): its class (0 codec, 1 Canopy, 2 Lantern, 3 Spire), its unit, and its cost. -/
structure Grant where
  cls : Nat := 0
  unit : Nat := 0
  mw : Nat := 0
  ma : Nat := 0
  deriving DecidableEq, Repr

/-- The Cupola arbiter: grants held, oldest first, the last unit granted of each class, the VDD_CORE current and the charge for
refresh of the last epoch, a budget that takes effect at the next epoch, the energy of each partition in the running window of
100 ms in mW µs, and how many epochs of the window have passed; and THERMTRIP_N, true when asserted. -/
structure Cupola where
  grants : List Grant := []
  last : Table Nat := []
  coreMa : Nat := 0
  refreshMw : Nat := 0
  budget : Option Nat := none
  energy : Table Nat := []
  epochs : Nat := 0
  tripped : Bool := false
  deriving DecidableEq, Repr

/-! ### Bring-up (21_bringup.md) -/

/-- Bring-up (R464 to R475): VDD_AON present, PERST_N high, Keep firmware running, firmware images in the boot area and images held
by Keep; whether memory has been filled; the offsets of base registers written since the
reset (R505), and the numbers of the firmware image that runs and of the one that the next boot takes. -/
structure Boot where
  aon : Bool := false
  perst : Bool := false
  keep : Bool := false
  area : Bool := false
  held : Bool := false
  filled : Bool := false
  bases : List Nat := []
  version : Nat := 0
  nextVersion : Nat := 0
  deriving DecidableEq, Repr


/-! ### The device -/

/-- No command ends the run with a fault: an error of the spec is a status, a record or a cause, which is state. -/
inductive Fault
  deriving DecidableEq, Repr

/-- A refusal. -/
inductive Refusal
  /-- Raised by a dispatch arm of a command that has no meaning yet; safe, since nothing is claimed of it. -/
  | notModelled (mnemonic : String)
  deriving DecidableEq, Repr

/-- The whole device and the memory around it. -/
structure State where
  /-- DEVICE_TIME in ns (R39). -/
  time : Nat
  /-- TM7400-HB6 instead of TM7400-HB8 (R1, R2). -/
  hb6 : Bool
  /-- The register file: offset and word, offsets rising; an unlisted register holds its reset value (R495). -/
  regs : Table Word
  /-- Words latched by a read of a LO word: key is function times 2^32 plus offset of the HI word (R498). -/
  latches : Table Nat
  /-- The selectors of Keep's management path, beside those of the physical function (R499). -/
  mgmtSel : Table Nat
  /-- Bytes of host, accelerator and requester memory, and what is wrong with them (log entry 3). -/
  mem : List Host.Cell
  memPoison : List Nat
  memFail : List (Nat × Nat)
  /-- The number of the next free value (log entry 4). -/
  freeCtr : Nat
  /-- What the device has sent, newest first. -/
  out : List Out
  /-- Admitted requests by number, and the next number (R71). -/
  reqs : Table Req
  reqSeq : Nat
  /-- Ordering domains of a ring or queue pair in which a write-class request has failed (R47). -/
  failed : List ((Nat × Nat × Nat) × Dom)
  cqs : Table CqSt
  sqs : Table SqSt
  /-- VF Enable and NumVFs (R59). -/
  vfEnable : Bool
  numVfs : Nat
  /-- Belfry: the device and the partitions that are pending, and the pin INT_N, true when high (R485, R487). -/
  devPending : Bool
  partPending : List Nat
  intN : Bool
  mbxNs : Table Mailbox
  mbxSec : Table Mailbox
  parts : Table Part
  chms : Table Chm
  leaves : Table Leaf
  nextCid : Nat
  holds : List Hold
  seqs : Table Sequ
  shapes : Table (Slots Bytes)
  txqs : Table TxQ
  txports : Table TxPort
  partQs : Table PartQ
  meters : Table Meter
  qps : Table Qp
  mrs : Table Mr
  subPorts : Table SubPort
  qwpAdmitted : Nat
  spires : Table SpireSt
  groves : Table Grove
  drr : Table Nat
  exts : Table Ext
  /-- The root index by bucket × 4 + place, the Canopy banks, the contexts (R93, R105, R113). -/
  roots : Table RootEntry
  banks : Table CanopyBank
  promoAt : Nat
  ctxs : Table Ctx
  rules : Table (Slots RuleSet)
  scopes : Table CodecScope
  /-- Tiers: the access counter of R273, class hints by partition × 256 + class, the promotion queue, retired slots. -/
  accesses : Nat
  classHints : Table (Nat × Bool)
  promos : List Nat
  retiredSlots : List Nat
  flash : Flash
  pds : Table Pd
  /-- Device records in tier 0 that read as uncorrectable (R411): a kind (0 rule set, 1 scan state, 2 shape record,
  3 Schedule Image or slot table, 4 code table, 5 summary block) and a key. -/
  badRecs : List (Nat × Nat)
  /-- The fleet secret installed by the operator (R426, R444). -/
  fleet : Option Nat
  pool : Pool
  ring : Ring
  /-- Beat domains, schedules by partition, instances in flight, work on Spires, Lantern arrays. -/
  beats : Table Beat
  scheds : Table Sched
  insts : Table Inst
  instSeq : Nat
  jobs : Table Job
  jobSeq : Nat
  arrays : Table LArray
  /-- The code tables in the cache of each codec slice (R165), by scope × 256 + epoch. -/
  tabCache : Table (List Nat)
  ras : Ras
  sec : Sec
  cupola : Cupola
  boot : Boot
  /-- Commands that wait, first in, first out. -/
  pending : List Instr
  deriving DecidableEq, Repr

/-- The words of CANOPY_BANK_CFG whose reset value is not that of bank 0: banks 16 to 55 have width 2, banks 56 to 63
width 3 (R101). Every other register that is not listed holds its Reset value. -/
def resetWords : Table Word :=
  (List.range 40).map (fun k => (0x800040 + 4 * k, 0x10042)) ++ (List.range 8).map (fun k => (0x8000E0 + 4 * k, 0x10043))

/-- The device at power-on reset (R473, R475): Reset columns, nothing stored, no command waiting. -/
def State.reset : State where
  time := 0
  hb6 := false
  regs := resetWords
  latches := []
  mgmtSel := []
  mem := []
  memPoison := []
  memFail := []
  freeCtr := 0
  out := []
  reqs := []
  reqSeq := 0
  failed := []
  cqs := []
  sqs := []
  vfEnable := false
  numVfs := 0
  devPending := false
  partPending := []
  intN := true
  mbxNs := []
  mbxSec := []
  parts := []
  chms := []
  leaves := []
  nextCid := 0
  holds := []
  seqs := []
  shapes := []
  txqs := []
  txports := []
  partQs := []
  meters := []
  qps := []
  mrs := []
  subPorts := []
  qwpAdmitted := 0
  spires := []
  groves := []
  drr := []
  exts := []
  roots := []
  banks := []
  promoAt := 0
  ctxs := []
  rules := []
  scopes := []
  accesses := 0
  classHints := []
  promos := []
  retiredSlots := []
  flash := {}
  pds := []
  badRecs := []
  fleet := none
  pool := {}
  ring := {}
  beats := []
  scheds := []
  insts := []
  instSeq := 0
  jobs := []
  jobSeq := 0
  arrays := []
  tabCache := []
  ras := {}
  sec := {}
  cupola := {}
  boot := {}
  pending := []

end Sys2Proof.Machine
end

