-- ==== Sys2Proof/Machine/RegFile.lean ====
section
/-! DEFINITION. Reading and writing fields of the register file, free values, and the memory around the device. -/

namespace Sys2Proof.Machine

open Sys2Proof

/-- The offset of instance (i, j) of a field's register. -/
def Fld.off (f : Fld) (i j : Nat) : Nat := f.base + i * f.s1 + j * f.s2

/-- The instance of a register array at an offset. -/
def RegDesc.at_ (d : RegDesc) (off : Nat) : Option (Nat × Nat) :=
  if off < d.base then none
  else
    let r := off - d.base
    let i := if d.s1 = 0 then 0 else r / d.s1
    let rest := r - i * d.s1
    let j := if d.s2 = 0 then 0 else rest / d.s2
    if i < d.n1 && j < d.n2 && i * d.s1 + j * d.s2 == r then some (i, j) else none

/-- The register array that holds the register at an offset, with its instance; none where no register lies (R494, R508). -/
def regAt? (off : Nat) : Option (RegDesc × Nat × Nat) :=
  (regWindow off).findSome? (fun d => (d.at_ off).map (fun x => (d, x.1, x.2)))

/-- The word at an offset of the register file, given its reset value (R495). -/
def State.regWord (s : State) (off word0 : Nat) : Nat :=
  match s.regs.get? off with
  | some w => w.toNat
  | none => word0

/-- The word held for the register at an offset; zero where there is none. -/
def State.word (s : State) (off : Nat) : Nat :=
  match regAt? off with
  | some x => s.regWord off x.1.word0
  | none => 0

/-- The value of a field. -/
def State.get (s : State) (f : Fld) (i : Nat := 0) (j : Nat := 0) : Nat :=
  bits (s.regWord (f.off i j) f.word0) f.hi f.lo

/-- Whether a field is not zero. -/
def State.on (s : State) (f : Fld) (i : Nat := 0) (j : Nat := 0) : Bool := s.get f i j != 0

/-- The state with a field set, the other bits of its register unchanged. -/
def State.put (s : State) (f : Fld) (v : Nat) (i : Nat := 0) (j : Nat := 0) : State :=
  { s with regs := s.regs.set (f.off i j) (BitVec.ofNat 32 (setBits (s.regWord (f.off i j) f.word0) f.hi f.lo v)) }

/-- The state with a whole register word set. -/
def State.putWord (s : State) (off v : Nat) : State := { s with regs := s.regs.set off (BitVec.ofNat 32 v) }

/-- A counter field raised by `n`, stopping at its top. -/
def State.bump (s : State) (f : Fld) (n : Nat := 1) (i : Nat := 0) (j : Nat := 0) : State :=
  s.put f (min (s.get f i j + n) (2 ^ (f.hi + 1 - f.lo) - 1)) i j

/-- A 64-bit value held in a LO and a HI field (R498). -/
def State.pair (s : State) (lo hi : Fld) (i : Nat := 0) : Nat := s.get lo i + 2 ^ 32 * s.get hi i

/-- A base address: a LO and HI pair whose bits 20:0 are ignored (R503). -/
def State.base (s : State) (lo hi : Fld) : Nat := s.pair lo hi / 2 ^ 21 * 2 ^ 21

/-- The next free value, and the state in which its number is used up (log entry 4). -/
def State.free (s : State) : Nat × State := (Config.freeNat s.freeCtr, { s with freeCtr := s.freeCtr + 1 })

/-- `n` bytes that the spec leaves undefined (log entry 4). -/
def State.freeBytes (s : State) (n : Nat) : Bytes × State :=
  ((List.range n).map (fun i => Config.freeByte (s.freeCtr + i)), { s with freeCtr := s.freeCtr + n })

/-- Something sent by the device. -/
def State.send (s : State) (o : Out) : State := { s with out := o :: s.out }

/-- The address key of an address in a memory space (log entry 2). -/
def memKey (space addr : Nat) : Nat := space * 2 ^ 64 + addr % 2 ^ 64

/-- How a read over a link ends (R9, R56). -/
inductive BusRead
  | ok (bs : Bytes)
  | failed
  | poisoned
  deriving DecidableEq, Repr

/-- Whether a range meets a range whose reads fail. -/
def State.rangeFails (s : State) (a n : Nat) : Bool := s.memFail.any (fun r => r.1 < a + n && a < r.2)

/-- Whether a range meets a poisoned 64-byte line. -/
def State.rangePoisoned (s : State) (a n : Nat) : Bool :=
  s.memPoison.any (fun l => l * 64 < a + n && a < l * 64 + 64)

/-- A read of memory over a link (R9, R56). -/
def State.busRead (s : State) (a n : Nat) : BusRead :=
  if s.rangeFails a n then .failed
  else if s.rangePoisoned a n then .poisoned
  else .ok (Memory.readBytes s.mem a n)

/-- A posted write: a write into a failing range is lost without notice (R9); whole lines written are no longer poisoned. -/
def State.busWrite (s : State) (a : Nat) (bs : Bytes) : State :=
  if s.rangeFails a bs.length then s
  else { s with
    mem := Memory.writeBytes s.mem a bs
    memPoison := s.memPoison.filter (fun l => !(a ≤ l * 64 && l * 64 + 64 ≤ a + bs.length)) }

/-- Lines of memory marked poisoned by a write that carries poison. -/
def State.poisonRange (s : State) (a n : Nat) : State :=
  if n = 0 then s
  else { s with memPoison := s.memPoison ++ (List.range ((a + n - 1) / 64 - a / 64 + 1)).map (fun i => a / 64 + i) }

/-- The state in which a command begins: its time, and what the outside has done to memory (log entries 2, 30). -/
def State.enter (s : State) (e : Env) : State :=
  { s with
    time := max s.time e.t
    mem := e.mem.foldl (fun m w => Memory.writeBytes m w.1 w.2) s.mem
    memPoison := s.memPoison.filter (fun l => !e.poisonClr.contains l) ++ e.poisonSet
    memFail := s.memFail.filter (fun r => !e.failClr.contains r) ++ e.failSet }

end Sys2Proof.Machine
end

