-- ==== Sys2Proof/Machine/Belfry.lean ====
section
/-! DEFINITION. The Belfry tree (R483 to R488): raising a cause, evaluating the tree, INT_N and vector 0. -/

namespace Sys2Proof.Machine

open Sys2Proof

/-- Belfry groups (R486). -/
def gCqNotify : Nat := 0
def gMailbox : Nat := 1
def gRasCorrected : Nat := 2
def gRasUncorrected : Nat := 3
def gPoison : Nat := 4
def gFlash : Nat := 5
def gPool : Nat := 6
def gNetwork : Nat := 7
def gRdma : Nat := 8
def gRing : Nat := 9
def gBeat : Nat := 10
def gDeadline : Nat := 11
def gThermal : Nat := 12
def gPower : Nat := 13
def gSecurity : Nat := 14
def gPartition : Nat := 15
def gCanopy : Nat := 16
def gLantern : Nat := 17
def gCodec : Nat := 18
def gSapling : Nat := 19
def gHostPort : Nat := 20
def gFirmware : Nat := 21
def gFatal : Nat := 31

/-- Whether virtual function `p` is enabled (R59). -/
def State.vfEnabled (s : State) (p : Nat) : Bool := s.vfEnable && 1 ≤ p && p ≤ s.numVfs

/-- Whether a word has a bit set that its mask leaves clear. -/
def unmasked (w m : Nat) : Bool := w &&& (2 ^ 32 - 1 - m % 2 ^ 32) != 0

/-- The bits of a group that mirror leaf words: bit w is set when leaf word w has an unmasked bit (R483, item 1). -/
def State.leafBits (s : State) (cause mask : Fld) (n : Nat) : Nat :=
  (List.range n).foldl (fun acc w => acc + b2n (unmasked (s.get cause w) (s.get mask w)) * 2 ^ w) 0

/-- The value a group cause register reads (R483, R486). -/
def State.groupCause (s : State) (g : Nat) : Nat :=
  if g = gCqNotify then s.leafBits F.BELFRY_CQ_CAUSE F.BELFRY_CQ_MASK_MASK 32
  else if g = gPoison then s.leafBits F.BELFRY_POISON_CAUSE F.BELFRY_POISON_MASK_MASK 4
  else if g = gPartition then s.leafBits F.BELFRY_PSTATE_CAUSE F.BELFRY_PSTATE_MASK_MASK 4
  else if g = gMailbox then
    s.get F.BELFRY_GRP_CAUSE_CAUSE g % 2 ^ 16
      + b2n (unmasked (s.regWord 0x10000100 0) (s.regWord 0x10000104 0)) * 2 ^ 16
  else s.get F.BELFRY_GRP_CAUSE_CAUSE g

/-- The groups of the summary (R483, item 2). -/
def belfryGroups : List Nat := List.range 22 ++ [31]

/-- BELFRY_SUMMARY (R483); the mask of group 31 is ignored. -/
def State.summary (s : State) : Nat :=
  belfryGroups.foldl (fun acc g =>
    acc + b2n (unmasked (s.groupCause g) (if g = 31 then 0 else s.get F.BELFRY_GRP_MASK_MASK g)) * 2 ^ g) 0

/-- Whether the device is pending (R483, item 3); FATAL is never masked. -/
def State.isPending (s : State) : Bool := unmasked s.summary (s.get F.BELFRY_MASK_MASK % 2 ^ 22)

/-- PART_BELFRY_SUMMARY of partition `p` (R487). -/
def State.partSummary (s : State) (p : Nat) : Nat :=
  b2n (s.get F.PART_BELFRY_CQ_CAUSE p &&& (255 - s.get F.PART_BELFRY_CQ_MASK_MASK p) != 0)
    + 8 * s.get F.PART_RAS_STATUS_RECOVERED p + 16 * s.get F.PART_RAS_STATUS_POISONED p
    + 2 ^ 15 * bits (s.get F.PART_BELFRY_SUMMARY_SUMMARY p) 15 15

/-- Whether partition `p` is pending in its own tree (R487). -/
def State.partIsPending (s : State) (p : Nat) : Bool := unmasked (s.partSummary p) (s.get F.PART_BELFRY_MASK_MASK p)

/-- The device tree evaluated: PENDING, INT_N, and vector 0 at a rise of pending (R485). -/
def State.refreshDev (s : State) : State :=
  let now := s.isPending
  let s1 := { s with devPending := now, intN := !(now && s.on F.BELFRY_CTL_PIN_EN) }
  if now && !s.devPending then s1.send (.msix 0 0) else s1

/-- The tree of a partition evaluated: vector 0 of its virtual function at a rise of pending (R487). -/
def State.refreshPart (s : State) (p : Nat) : State :=
  let now := s.partIsPending p
  let s1 := { s with partPending := if now then p :: s.partPending.filter (· != p) else s.partPending.filter (· != p) }
  if now && !s.partPending.contains p && s.vfEnabled p then s1.send (.msix p 0) else s1

/-- A cause of a group without a leaf register is set (R483, R486). -/
def State.raise (s : State) (g b : Nat) : State :=
  (s.put F.BELFRY_GRP_CAUSE_CAUSE (s.get F.BELFRY_GRP_CAUSE_CAUSE g ||| 2 ^ b) g).refreshDev

/-- The transition of a partition is recorded in both trees (R476, R488). -/
def State.raisePState (s : State) (p : Nat) : State :=
  let s := s.put F.BELFRY_PSTATE_CAUSE (s.get F.BELFRY_PSTATE_CAUSE (p / 32) ||| 2 ^ (p % 32)) (p / 32)
  let s := s.put F.PART_BELFRY_SUMMARY_SUMMARY (s.get F.PART_BELFRY_SUMMARY_SUMMARY p ||| 2 ^ 15) p
  (s.refreshDev).refreshPart p

/-- A completion with POISONED is recorded in both trees (R407, R488). -/
def State.raisePoison (s : State) (p : Nat) : State :=
  let s := s.put F.BELFRY_POISON_CAUSE (s.get F.BELFRY_POISON_CAUSE (p / 32) ||| 2 ^ (p % 32)) (p / 32)
  let s := s.put F.PART_RAS_STATUS_POISONED 1 p
  (s.refreshDev).refreshPart p

/-- A signal of a completion ring with vector 0: one tree (R488). -/
def State.raiseCq (s : State) (c : Nat) : State :=
  let p := c / 8
  if s.vfEnabled p then
    (s.put F.PART_BELFRY_CQ_CAUSE (s.get F.PART_BELFRY_CQ_CAUSE p ||| 2 ^ (c % 8)) p).refreshPart p
  else (s.put F.BELFRY_CQ_CAUSE (s.get F.BELFRY_CQ_CAUSE (c / 32) ||| 2 ^ (c % 32)) (c / 32)).refreshDev

/-- A record of the most recent event of a kind: OVERFLOW when it replaces one that is VALID (R532). -/
def State.recordEvent (s : State) (valid overflow : Fld) (fields : List (Fld × Nat)) : State :=
  let was := s.on valid
  let s := fields.foldl (fun s fv => s.put fv.1 fv.2) s
  let s := s.put valid 1
  if was then s.put overflow 1 else s

/-- A refused access recorded (R495): the function, the BAR as 0 BAR0, 1 BAR2, 2 BAR4, and the offset in it (log entry 13). -/
def State.badAccess (s : State) (fn bar off : Nat) (write : Bool) : State :=
  s.recordEvent F.GLB_BAD_ACCESS_VALID F.GLB_BAD_ACCESS_OVERFLOW
    [(F.GLB_BAD_ACCESS_OFFSET, off), (F.GLB_BAD_ACCESS_BAR, bar), (F.GLB_BAD_ACCESS_WRITE, b2n write), (F.GLB_BAD_ACCESS_VF, b2n (fn != 0))]

/-- Causes of SEC_EVENT (R446) are numbered as the security chapter numbers them. -/
def State.security (s : State) (cause part : Nat) : State :=
  (s.recordEvent F.SEC_EVENT_VALID F.SEC_EVENT_OVERFLOW
    [(F.SEC_EVENT_CAUSE, cause), (F.SEC_EVENT_PARTITION, part)]).raise gSecurity 0

end Sys2Proof.Machine
end

