-- ==== Sys2Proof/Machine/Fp.lean ====
section
/-! DEFINITION. Floating-point numbers (R137 to R140): decoding of a code, exact arithmetic, and rounding to a format. -/

namespace Sys2Proof.Machine

open Sys2Proof

/-- A floating-point format: exponent and mantissa bits, bias, largest finite code, and whether the top exponent holds
infinity and NaN as in IEEE 754 (E4M3 has one NaN code above its largest finite code). -/
structure FpFmt where
  eb : Nat
  mb : Nat
  bias : Nat
  maxCode : Nat
  ieee : Bool
  deriving DecidableEq, Repr

def fp32 : FpFmt := ⟨8, 23, 127, 0x7F7FFFFF, true⟩
def bf16 : FpFmt := ⟨8, 7, 127, 0x7F7F, true⟩
def fp16 : FpFmt := ⟨5, 10, 15, 0x7BFF, true⟩
def e4m3 : FpFmt := ⟨4, 3, 7, 0x7E, false⟩
def e5m2 : FpFmt := ⟨5, 2, 15, 0x7B, true⟩
def e3m2 : FpFmt := ⟨3, 2, 3, 0x1F, false⟩
def e2m3 : FpFmt := ⟨2, 3, 1, 0x1F, false⟩
def e2m1 : FpFmt := ⟨2, 1, 1, 0x7, false⟩

/-- Bits of a code: sign, exponent and mantissa. -/
def FpFmt.width (f : FpFmt) : Nat := f.eb + f.mb + 1

/-- A number met in arithmetic: num / den × 2^e with a sign, an infinity, or no number. -/
inductive Num
  | rat (neg : Bool) (num den : Nat) (e : Int)
  | inf (neg : Bool)
  | nan
  deriving DecidableEq, Repr

/-- The number of a code (R137). -/
def FpFmt.decode (f : FpFmt) (code : Nat) : Num :=
  let neg := bit code (f.eb + f.mb)
  let m := code % 2 ^ f.mb
  let x := code / 2 ^ f.mb % 2 ^ f.eb
  let mag := code % 2 ^ (f.eb + f.mb)
  if mag > f.maxCode then (if f.ieee && m = 0 then .inf neg else .nan)
  else if x = 0 then .rat neg m 1 (1 - (f.bias : Int) - f.mb)
  else .rat neg (2 ^ f.mb + m) 1 ((x : Int) - f.bias - f.mb)

/-- n × 2^e over d × 2^0 as a pair of naturals. -/
def scalePair (n d : Nat) (e : Int) : Nat × Nat :=
  if e ≥ 0 then (n * 2 ^ e.toNat, d) else (n, d * 2 ^ (-e).toNat)

/-- A quotient rounded to the nearest integer, ties to even (R139). -/
def rneDiv (n d : Nat) : Nat :=
  let q := n / d
  let r := n % d
  if 2 * r > d || (2 * r == d && q % 2 == 1) then q + 1 else q

/-- A quotient rounded up. -/
def ceilQ (n d : Nat) : Nat := (n + d - 1) / d

/-- The integer part of the binary logarithm of n / d × 2^e, for n and d not zero. -/
def floorLog2 (n d : Nat) (e : Int) : Int :=
  let k : Int := (Nat.log2 n : Int) - Nat.log2 d
  let p := scalePair 1 1 k
  if n * p.2 ≥ d * p.1 then k + e else k - 1 + e

/-- The magnitude code of a number that is not zero before saturation: nearest, ties to even, or up (R139, R142). -/
def FpFmt.magCode (f : FpFmt) (up : Bool) (n d : Nat) (e : Int) : Nat :=
  let emin : Int := 1 - (f.bias : Int)
  let x := max (floorLog2 n d e) emin
  let p := scalePair n d (e - (x - f.mb))
  (x - emin).toNat * 2 ^ f.mb + (if up then ceilQ p.1 p.2 else rneDiv p.1 p.2)

/-- Whether n / d × 2^e is above the largest finite value of a format. -/
def FpFmt.above (f : FpFmt) (n d : Nat) (e : Int) : Bool :=
  match f.decode f.maxCode with
  | .rat _ m _ e' => let p := scalePair n d (e - e'); decide (p.1 > m * p.2)
  | _ => false

/-- A number converted into a format (R139): saturating, a zero result positive; and whether it saturated. What the
device writes for no number is left open (log entries 4, 65). -/
def FpFmt.convert (f : FpFmt) (x : Num) (up : Bool := false) : Nat × Bool :=
  match x with
  | .nan => (Config.nanCode f.width % (f.maxCode + 1), false)
  | .inf neg => (f.maxCode + b2n neg * 2 ^ (f.eb + f.mb), true)
  | .rat neg n d e =>
    if n = 0 then (0, false)
    else
      let c := min (f.magCode up n d e) f.maxCode
      (if c = 0 then 0 else c + b2n neg * 2 ^ (f.eb + f.mb), f.above n d e)

/-! ### FP32 arithmetic: each result rounded once to nearest even, as IEEE 754 defines it (R154) -/

/-- The FP32 bits of a number, overflow going to infinity. -/
def Num.to32 (x : Num) : Word :=
  match x with
  | .nan => 0x7FC00000
  | .inf neg => BitVec.ofNat 32 (0x7F800000 + b2n neg * 2 ^ 31)
  | .rat neg n d e =>
    if n = 0 then BitVec.ofNat 32 (b2n neg * 2 ^ 31)
    else
      let c := fp32.magCode false n d e
      BitVec.ofNat 32 ((if c > fp32.maxCode then 0x7F800000 else c) + b2n neg * 2 ^ 31)

/-- The number of FP32 bits. -/
def num32 (w : Word) : Num := fp32.decode w.toNat

/-- Exact sum of two numbers whose denominators are 1. -/
def Num.add (a b : Num) : Num :=
  match a, b with
  | .nan, _ => .nan
  | _, .nan => .nan
  | .inf x, .inf y => if x = y then .inf x else .nan
  | .inf x, _ => .inf x
  | _, .inf y => .inf y
  | .rat s m _ e, .rat t n _ f =>
    let g := min e f
    let u : Int := (if s then -1 else 1) * (m * 2 ^ (e - g).toNat : Nat)
    let v : Int := (if t then -1 else 1) * (n * 2 ^ (f - g).toNat : Nat)
    if u + v = 0 then .rat (s && t) 0 1 0 else .rat (decide (u + v < 0)) (u + v).natAbs 1 g

/-- Exact product. -/
def Num.mul (a b : Num) : Num :=
  match a, b with
  | .nan, _ => .nan
  | _, .nan => .nan
  | .inf x, .inf y => .inf (x != y)
  | .inf x, .rat t n _ _ => if n = 0 then .nan else .inf (x != t)
  | .rat s m _ _, .inf y => if m = 0 then .nan else .inf (s != y)
  | .rat s m d e, .rat t n c f => .rat (s != t) (m * n) (d * c) (e + f)

/-- Exact quotient. -/
def Num.div (a b : Num) : Num :=
  match a, b with
  | .nan, _ => .nan
  | _, .nan => .nan
  | .inf _, .inf _ => .nan
  | .inf x, .rat t _ _ _ => .inf (x != t)
  | .rat s _ _ _, .inf y => .rat (s != y) 0 1 0
  | .rat s m d e, .rat t n c f =>
    if n = 0 then (if m = 0 then .nan else .inf (s != t)) else .rat (s != t) (m * c) (d * n) (e - f)

def fadd (a b : Word) : Word := ((num32 a).add (num32 b)).to32
def fneg (a : Word) : Word := a ^^^ 0x80000000
def fsub (a b : Word) : Word := fadd a (fneg b)
def fmul (a b : Word) : Word := ((num32 a).mul (num32 b)).to32
def fdiv (a b : Word) : Word := ((num32 a).div (num32 b)).to32
/-- The FP32 bits of a natural number. -/
def fnat (n : Nat) : Word := (Num.rat false n 1 0).to32
/-- The FP32 bits of an integer. -/
def fint (i : Int) : Word := (Num.rat (decide (i < 0)) i.natAbs 1 0).to32

/-- The magnitude bits of an FP32 value, which order magnitudes. -/
def fmag (a : Word) : Nat := a.toNat % 2 ^ 31

/-- NaN or infinity (R140). -/
def fbad (a : Word) : Bool := fmag a ≥ 0x7F800000
def fnan (a : Word) : Bool := fmag a > 0x7F800000

/-- a < b in FP32; false with NaN. -/
def flt (a b : Word) : Bool :=
  if fnan a || fnan b then false
  else
    let key (w : Word) : Int := if bit w.toNat 31 then -(fmag w : Int) else fmag w
    decide (key a < key b)

def fmax (a b : Word) : Word := if flt a b then b else a
def fmin (a b : Word) : Word := if flt b a then b else a

/-- An FP32 value rounded to an integer, ties to even; 0 where it is no number, and a large one for infinity. -/
def fround (a : Word) : Int :=
  match num32 a with
  | .nan => 0
  | .inf neg => if neg then -(2 ^ 40) else 2 ^ 40
  | .rat neg n d e =>
    let p := scalePair n d e
    (if neg then -1 else 1) * (rneDiv p.1 p.2 : Nat)

/-- A clamp of an integer. -/
def clampInt (lo hi x : Int) : Int := max lo (min hi x)

/-- The least integer whose square is at least v, by counting down bits. -/
def isqrtGo : Nat → Nat → Nat → Nat
  | 0, _, r => r
  | k + 1, v, r => if (r + 2 ^ k) * (r + 2 ^ k) ≤ v then isqrtGo k v (r + 2 ^ k) else isqrtGo k v r

/-- The FP32 square root of a value that is not negative, rounded once. -/
def fsqrt (a : Word) : Word :=
  match num32 a with
  | .rat false n 1 e =>
    let e2 := if e % 2 = 0 then e else e - 1
    let n2 := if e % 2 = 0 then n else 2 * n
    let r := isqrtGo 60 (n2 * 2 ^ 64) 0
    -- one sticky bit below the root keeps the rounding exact
    (Num.rat false (2 * r + b2n (r * r != n2 * 2 ^ 64)) 1 (e2 / 2 - 33)).to32
  | _ => a

/-! ### Conversion of values between formats (R138 to R140) -/

/-- The number format of the codes that are plain floating point (R136). -/
def plainFmt? (code : Nat) : Option FpFmt :=
  match code with
  | 0 => some fp32
  | 1 => some bf16
  | 2 => some fp16
  | 3 => some e4m3
  | 4 => some e5m2
  | _ => none

/-- Bytes of an element of a plain format. -/
def FpFmt.bytes (f : FpFmt) : Nat := f.width / 8

/-- `n` little-endian elements of a plain format, as FP32 (exact, R140). -/
def readElems (f : FpFmt) : Nat → Bytes → List Word
  | 0, _ => []
  | n + 1, bs => (f.decode (leNat (bs.take f.bytes))).to32 :: readElems f n (bs.drop f.bytes)

/-- FP32 values written in a plain format (R155), and how many saturated. -/
def writeElems (f : FpFmt) (xs : List Word) : Bytes × Nat :=
  let cs := xs.map (fun x => f.convert (num32 x))
  (cs.flatMap (fun c => leBytes f.bytes c.1), cs.countP (·.2))

/-- An FP32 value from FP16 bits. -/
def half (h : Nat) : Word := (fp16.decode h).to32

end Sys2Proof.Machine
end

