-- ==== Sys2Proof/Machine/Formats.lean ====
section
/-! DEFINITION. Shape records (R28), block-scaled formats (R141 to R143), the regions of a leaf (R144, R145), the
quantiser with its outliers and its error test (R147 to R152), and dequantisation (R154). -/

namespace Sys2Proof.Machine

open Sys2Proof

/-! ### Shape records (R28) -/

def shLayers (b : Bytes) : Nat := sfield b 0 11 0
def shHeads (b : Bytes) : Nat := sfield b 2 7 0
def shQper (b : Bytes) : Nat := sfield b 3 7 0
def shDim (b : Bytes) : Nat := sfield b 4 15 0
def shTpl (b : Bytes) : Nat := sfield b 6 15 0
def shKeyRung (b : Bytes) (i : Nat) : Nat := sfield b 8 (4 * i + 3) (4 * i)
def shValueRung (b : Bytes) (i : Nat) : Nat := sfield b 10 (4 * i + 3) (4 * i)
def shThreshold (b : Bytes) : Nat := sfield b 12 15 0
def shSoftCap (b : Bytes) : Nat := sfield b 14 15 0
def shTensor (b : Bytes) : Word := BitVec.ofNat 32 (sfield b 16 31 0)
def shWindow (b : Bytes) : Nat := sfield b 20 15 0
def shPlanKind (b : Bytes) : Nat := sfield b 22 7 0
def shPolicy (b : Bytes) : Nat := sfield b 23 7 0
def shPlanOff (b : Bytes) : Nat := sfield b 24 31 0
def shPlanLen (b : Bytes) : Nat := sfield b 28 31 0
def shSumOff (b : Bytes) : Nat := sfield b 32 31 0
def shSumLen (b : Bytes) : Nat := sfield b 36 31 0
def shId (b : Bytes) : Nat := sfield b 40 31 0
def shKeyFmt (b : Bytes) (layer : Nat) : Nat := sfield b (64 + layer) 3 0
def shValueFmt (b : Bytes) (layer : Nat) : Nat := sfield b (64 + layer) 7 4

/-! ### Formats (R136, R141) -/

/-- The element width in bits (R148). -/
def fmtWidth (f : Nat) : Nat :=
  match f with
  | 0 => 32 | 1 => 16 | 2 => 16 | 3 => 8 | 4 => 8 | 5 => 8 | 6 => 6 | 7 => 6 | 8 => 4 | 9 => 4 | 10 => 8 | 11 => 4
  | 12 => 2 | _ => 0

def isMx (f : Nat) : Bool := f == 5 || f == 6 || f == 7 || f == 8
def isInt (f : Nat) : Bool := f == 10 || f == 11 || f == 12

/-- Channels of a group; 0 for the formats without group scales (R141). -/
def fmtGroup (f : Nat) : Nat := if f = 9 then 16 else if isMx f || isInt f then 32 else 0

/-- Channels of a test group (R151). -/
def testGroup (f : Nat) : Nat := if fmtGroup f = 0 then 16 else fmtGroup f

/-- The element format of a floating-point format. -/
def elemFmt (f : Nat) : FpFmt :=
  match f with
  | 0 => fp32 | 1 => bf16 | 2 => fp16 | 3 => e4m3 | 4 => e5m2 | 5 => e4m3 | 6 => e3m2 | 7 => e2m3 | _ => e2m1

/-- emax of the MX formats (R142). -/
def mxEmax (f : Nat) : Int := match f with | 5 => 8 | 6 => 4 | _ => 2

/-- A list cut into runs of `n`; the first argument bounds their number. -/
def chunksOf {α : Type} (n : Nat) : Nat → List α → List (List α)
  | 0, _ => []
  | k + 1, xs => if xs.isEmpty then [] else xs.take n :: chunksOf n k (xs.drop n)

/-- Codes of `w` bits packed from the least significant bit up (R138). -/
def packCodes (w : Nat) (cs : List Nat) : Bytes :=
  leBytes ((cs.length * w + 7) / 8) (cs.foldr (fun c acc => c % 2 ^ w + 2 ^ w * acc) 0)

/-- `n` codes of `w` bits. -/
def unpackCodes (w n : Nat) (bs : Bytes) : List Nat :=
  let v := leNat (bs.take ((n * w + 7) / 8))
  (List.range n).map (fun i => v / 2 ^ (i * w) % 2 ^ w)

/-- The element codes of a format, packed group of bytes by group (16 elements fill whole bytes at every width). -/
def packElems (w : Nat) (cs : List Nat) : Bytes := (chunksOf 16 (cs.length / 16 + 1) cs).flatMap (packCodes w)

/-- `n` element codes from packed bytes, 16 at a time. -/
def unpackElems (w : Nat) : Nat → Nat → Bytes → List Nat
  | 0, _, _ => []
  | k + 1, n, bs => if n = 0 then [] else unpackCodes w (min n 16) bs ++ unpackElems w k (n - 16) (bs.drop (2 * w))

/-- One encoded group: its scale code, its zero point, its element codes, and how many saturated. -/
structure GroupEnc where
  scale : Nat := 0
  zp : Nat := 0
  codes : List Nat := []
  sat : Nat := 0
  deriving DecidableEq, Repr

/-- The largest magnitude of FP32 values, as magnitude bits. -/
def amaxBits (xs : List Word) : Nat := xs.foldl (fun m x => max m (fmag x)) 0

def amax (xs : List Word) : Word := BitVec.ofNat 32 (amaxBits xs)

/-- 2^X as FP32 for X from -127 to 127. -/
def pow2 (x : Int) : Word := (Num.rat false 1 1 x).to32

/-- Elements converted to a floating-point format after division by an FP32 scale. -/
def convElems (f : FpFmt) (xs : List Word) (scale : Option Word) : List Nat × Nat :=
  let cs := xs.map (fun x => f.convert (num32 (match scale with | some s => fdiv x s | none => x)))
  (cs.map (·.1), cs.countP (·.2))

/-- The tensor scale of a QF4 region, amax / 2688 (R142). -/
def qf4Tensor (region : List Word) : Word := fdiv (amax region) (fnat 2688)

/-- A group encoded (R142). `t` is the shape's tensor scale for FP8 and the region's T for QF4. -/
def encGroup (f : Nat) (t : Word) (xs : List Word) : GroupEnc :=
  let zero := amaxBits xs = 0
  if f = 1 || f = 2 then let c := convElems (elemFmt f) xs none; { codes := c.1, sat := c.2 }
  else if f = 3 || f = 4 then let c := convElems (elemFmt f) xs (some t); { codes := c.1, sat := c.2 }
  else if zero then { codes := xs.map (fun _ => 0) }
  else if isMx f then
    let l := match num32 (amax xs) with | .rat _ n d e => floorLog2 n d e | _ => 127
    let x := clampInt (-127) 127 (l - mxEmax f)
    let c := convElems (elemFmt f) xs (some (pow2 x))
    { scale := (x + 127).toNat, codes := c.1, sat := c.2 }
  else if f = 9 then
    let s := e4m3.convert (num32 (fdiv (amax xs) (fmul (fnat 6) t))) true
    let c := convElems e2m1 xs (some (fmul (e4m3.decode s.1).to32 t))
    { scale := s.1, codes := c.1, sat := c.2 + b2n s.2 }
  else if f = 10 then
    let s := fp16.convert (num32 (fdiv (amax xs) (fnat 127))) true
    { scale := s.1, sat := b2n s.2
      codes := xs.map (fun x => ((clampInt (-127) 127 (fround (fdiv x (half s.1)))) % 256).toNat) }
  else if f = 11 then
    let lo := xs.foldl fmin 0
    let hi := xs.foldl fmax 0
    let s := fp16.convert (num32 (fdiv (fsub hi lo) (fnat 15))) true
    let z := clampInt 0 15 (fround (fdiv (fneg lo) (half s.1)))
    { scale := s.1, zp := z.toNat, sat := b2n s.2
      codes := xs.map (fun x => (clampInt 0 15 (fround (fdiv x (half s.1)) + z)).toNat) }
  else
    let s := fp16.convert (num32 (fdiv (amax xs) 0x3FC00000)) true
    { scale := s.1, sat := b2n s.2
      codes := xs.map (fun x => (clampInt 0 3 (fround (fadd (fdiv x (half s.1)) 0x3FC00000))).toNat) }

/-- The decoded values of a group (R142, R154). -/
def decGroup (f : Nat) (t : Word) (g : GroupEnc) : List Word :=
  g.codes.map (fun c =>
    if f ≤ 2 then ((elemFmt f).decode c).to32
    else if f ≤ 4 then fmul ((elemFmt f).decode c).to32 t
    else if isMx f then fmul ((elemFmt f).decode c).to32 (pow2 ((g.scale : Int) - 127))
    else if f = 9 then fmul (fmul (e2m1.decode c).to32 (e4m3.decode g.scale).to32) t
    else if f = 10 then fmul (fint (toSigned 8 c)) (half g.scale)
    else if f = 11 then fmul (fint ((c : Int) - g.zp)) (half g.scale)
    else fmul (fsub (fnat c) 0x3FC00000) (half g.scale))

/-- The T of a region for a format: QF4's own, or the shape's tensor scale. -/
def regionT (f : Nat) (tensor : Word) (xs : List Word) : Word := if f = 9 then qf4Tensor xs else tensor

/-- A region encoded, group by group. -/
def encRegion (f : Nat) (t : Word) (xs : List Word) : List GroupEnc :=
  (chunksOf (testGroup f) xs.length xs).map (encGroup f t)

/-! ### Regions (R144, R145) -/

/-- The bytes of the element region, padded. -/
def regionSize (f n : Nat) : Nat := roundUp (n * fmtWidth f / 8) 64

/-- Bytes of a group scale. -/
def scaleBytes (f : Nat) : Nat := if isInt f then 2 else 1

/-- The bytes of a section of the scale region, padded. -/
def sectionSize (f n : Nat) : Nat :=
  if fmtGroup f = 0 then 0
  else
    let g := n / fmtGroup f
    roundUp ((if f = 9 then 4 else 0) + g * scaleBytes f + (if f = 11 then (g + 1) / 2 else 0)) 64

/-- The capacity of the side-list, in outlier channels per head (R145). -/
def sideCap (kf vf h t d : Nat) : Nat :=
  if fmtWidth kf ≥ 8 then 0
  else
    let n := h * t * d
    let used := regionSize kf n + regionSize vf n + sectionSize kf n + sectionSize vf n + roundUp (8 * h) 64
    if used > 262080 then 0 else min 4 ((262080 - used) / (2 * h * t))

/-- The size of the side-list, padded. -/
def sideSize (kf vf h t d : Nat) : Nat :=
  let c := sideCap kf vf h t d
  if c = 0 then 0 else roundUp (roundUp (8 * h) 64 + c * h * t * 2) 64

/-- The length U of the uncompressed payload (R159). -/
def payloadSize (kf vf h t d : Nat) (side : Bool := true) : Nat :=
  let n := h * t * d
  regionSize kf n + regionSize vf n + sectionSize kf n + sectionSize vf n + (if side then sideSize kf vf h t d else 0)

/-- A section of the scale region. -/
def sectionBytes (f n : Nat) (t : Word) (gs : List GroupEnc) : Bytes :=
  if fmtGroup f = 0 then []
  else padTo (sectionSize f n)
    ((if f = 9 then leBytes 4 t.toNat else []) ++ gs.flatMap (fun g => leBytes (scaleBytes f) g.scale)
      ++ (if f = 11 then packCodes 4 (gs.map (·.zp)) else []))

/-- The element bytes of a region. -/
def regionBytes (f n : Nat) (gs : List GroupEnc) : Bytes :=
  padTo (regionSize f n) (packElems (fmtWidth f) (gs.flatMap (·.codes)))

/-- The groups of a region read back from its element bytes and its section. -/
def readRegion (f n : Nat) (elems sect : Bytes) : Word × List GroupEnc :=
  let codes := unpackElems (fmtWidth f) n n elems
  if fmtGroup f = 0 then (0, (chunksOf 16 n codes).map (fun c => { codes := c }))
  else
    let g := n / fmtGroup f
    let t := BitVec.ofNat 32 (fieldAt sect 0 4)
    let sc := sect.drop (if f = 9 then 4 else 0)
    let zs := if f = 11 then unpackCodes 4 g (sc.drop (2 * g)) else []
    let scales := (chunksOf (scaleBytes f) g sc).map leNat
    (t, (chunksOf (fmtGroup f) g codes).mapIdx (fun i c =>
      { codes := c, scale := scales.getD i 0, zp := zs.getD i 0 }))

/-! ### Outliers (R147) -/

/-- A list of numbers sorted, ascending. -/
def sortNat (xs : List Nat) : List Nat := xs.mergeSort (fun a b => a ≤ b)

/-- The values of head `h` and token `t` in a region of D channels and T tokens: a run of D. -/
def rowOf (xs : List Word) (tt d h t : Nat) : List Word := (xs.drop ((h * tt + t) * d)).take d

/-- Element-wise maximum of two rows of magnitudes. -/
def maxRows : List Nat → List Nat → List Nat
  | [], ys => ys
  | xs, [] => xs
  | x :: xs, y :: ys => max x y :: maxRows xs ys

/-- Elements (index, figure) inserted in descending order of figure, equal figures by lower index. -/
def insertFig (c : Nat × Nat) : List (Nat × Nat) → List (Nat × Nat)
  | [] => [c]
  | a :: t => if a.2 < c.2 then c :: a :: t else a :: insertFig c t

/-- The outlier channels of a head: at most `c` of those that stand out of the median, ascending. -/
def outliers (ratio c d : Nat) (rows : List (List Word)) : List Nat :=
  let figs := rows.foldl (fun m r => maxRows m (r.map fmag)) []
  let med := (sortNat figs).getD (d / 2 - 1) 0
  let lim := fmag (fmul (fnat ratio) (BitVec.ofNat 32 med))
  let cand := (figs.mapIdx (fun i x => (i, x))).filter (fun p => if med = 0 then p.2 != 0 else decide (p.2 > lim))
  sortNat (((cand.foldl (fun acc p => insertFig p acc) []).take c).map (·.1))

/-- A row with the channels of a list set to zero. -/
def zeroed (chs : List Nat) (row : List Word) : List Word := row.mapIdx (fun i x => if chs.contains i then 0 else x)

/-- A leaf as quantised: formats, payload, outlier channels and saturations. -/
structure Quantised where
  kf : Nat := 0
  vf : Nat := 0
  payload : Bytes := []
  outl : Nat := 0
  sat : Nat := 0
  fails : Bool := false
  deriving DecidableEq, Repr

/-- The error test of one group (R151). -/
def groupFails (thr : Word) (x xq : List Word) : Bool :=
  let acc := (x.zip xq).foldl (fun (a : Word × Word) p =>
    let d := fsub p.1 p.2
    (fadd a.1 (fmul d d), fadd a.2 (fmul p.1 p.1))) (0, 0)
  flt (fmul (fmul thr thr) acc.2) acc.1

/-- Whether any group of a region fails. -/
def regionFails (thr : Word) (f : Nat) (t : Word) (xs : List Word) (gs : List GroupEnc) : Bool :=
  ((chunksOf (testGroup f) xs.length xs).zip gs).any (fun p => groupFails thr p.1 (decGroup f t p.2))

/-- The side-list (R145): headers, then the arrays of T FP16 values; and the saturations of its conversion. -/
def sideBytes (kf vf h t d : Nat) (keys : List Word) (chs : List (List Nat)) : Bytes × Nat :=
  let c := sideCap kf vf h t d
  if c = 0 then ([], 0)
  else
    let hdr := chs.flatMap (fun l => leBytes 1 l.length ++ padTo 7 (l.map (BitVec.ofNat 8)))
    let arrs := (List.range h).map (fun i => (List.range c).map (fun j =>
      match (chs.getD i []).drop j with
      | [] => List.replicate t ((0 : Nat), false)
      | ch :: _ => (List.range t).map (fun k => fp16.convert (num32 ((rowOf keys t d i k).getD ch 0)))))
    let flat := arrs.flatten.flatten
    (padTo (sideSize kf vf h t d) (padTo (roundUp (8 * h) 64) hdr ++ flat.flatMap (fun v => leBytes 2 v.1)), flat.countP (·.2))

/-- One encoding of a leaf at a pair of formats (R144, R147), with its error test. -/
def encodeLeaf (kf vf h t d : Nat) (tensor thr : Word) (ratio : Nat) (outEn : Bool) (keys vals : List Word) : Quantised :=
  let n := h * t * d
  let c := if outEn then sideCap kf vf h t d else 0
  let chs := (List.range h).map (fun i =>
    if c = 0 then [] else outliers ratio c d ((List.range t).map (rowOf keys t d i)))
  let keys' := (List.range h).flatMap (fun i => (List.range t).flatMap (fun k => zeroed (chs.getD i []) (rowOf keys t d i k)))
  let kt := regionT kf tensor keys'
  let vt := regionT vf tensor vals
  let kg := encRegion kf kt keys'
  let vg := encRegion vf vt vals
  let side := sideBytes kf vf h t d keys chs
  { kf := kf, vf := vf
    payload := regionBytes kf n kg ++ regionBytes vf n vg ++ sectionBytes kf n kt kg ++ sectionBytes vf n vt vg ++ side.1
    outl := (chs.map List.length).sum
    sat := ((kg ++ vg).map (·.sat)).sum + side.2
    fails := regionFails thr kf kt keys' kg || regionFails thr vf vt vals vg }

/-- The first rung from `i` on that satisfies a test, or 3. -/
def rungFrom (p : Nat → Bool) : Nat → Nat → Nat
  | 0, i => min i 3
  | k + 1, i => if p i || i ≥ 3 then min i 3 else rungFrom p k (i + 1)

/-- The starting rung of a ladder for a format, and for the sink chunk (R149). -/
def startRung (rung : Nat → Nat) (fmt : Nat) (sink : Bool) : Nat :=
  let i := rungFrom (fun i => rung i == fmt) 4 0
  if sink then rungFrom (fun j => fmtWidth (rung j) ≥ 8) 4 i else i

/-- The promotion loop (R151, R152): the encoding kept, whether it was promoted, and whether the ceiling was met. -/
def quantLoop (enc : Nat → Nat → Quantised) : Nat → Nat → Nat → Quantised × Bool × Nat × Nat
  | 0, k, v => (enc k v, true, k, v)
  | n + 1, k, v =>
    let q := enc k v
    if !q.fails then (q, false, k, v)
    else if k = 3 && v = 3 then (q, true, k, v)
    else quantLoop enc n (if k < 3 then k + 1 else k) (if v < 3 then v + 1 else v)

/-- What a seal makes of a leaf: the encoding, promoted, and whether it stands at the ceiling. -/
structure SealQ where
  q : Quantised := {}
  promoted : Bool := false
  ceiling : Bool := false
  deriving DecidableEq, Repr

/-- The quantiser at seal (R151). -/
def sealQuantise (sh : Bytes) (layer : Nat) (sink : Bool) (ratio : Nat) (outEn : Bool) (keys vals : List Word) : SealQ :=
  let k0 := startRung (shKeyRung sh) (shKeyFmt sh layer) sink
  let v0 := startRung (shValueRung sh) (shValueFmt sh layer) sink
  let enc (k v : Nat) := encodeLeaf (shKeyRung sh k) (shValueRung sh v) (shHeads sh) (shTpl sh) (shDim sh)
    (shTensor sh) (half (shThreshold sh)) ratio outEn keys vals
  let r := quantLoop enc 4 k0 v0
  { q := r.1, ceiling := r.2.1, promoted := r.2.2.1 != k0 || r.2.2.2 != v0 }

/-! ### Dequantisation (R154) -/

/-- The keys of a payload with the side-list put back, in [kv_head][token][channel] order. -/
def decodeKeys (sh : Bytes) (kf vf : Nat) (p : Bytes) (side : Bool := true) : List Word :=
  let h := shHeads sh; let t := shTpl sh; let d := shDim sh
  let n := h * t * d
  let so := regionSize kf n + regionSize vf n
  let r := readRegion kf n p (p.drop so)
  let base := r.2.flatMap (decGroup kf (if kf = 9 then r.1 else shTensor sh))
  let c := if side then sideCap kf vf h t d else 0
  if c = 0 then base
  else
    let sl := p.drop (so + sectionSize kf n + sectionSize vf n)
    (List.range h).flatMap (fun i =>
      let cnt := fieldAt sl (8 * i) 1 % 8
      let chs := (List.range cnt).map (fun j => fieldAt sl (8 * i + 1 + j) 1)
      (List.range t).flatMap (fun k => (rowOf base t d i k).mapIdx (fun ch x =>
        match findIdx (· == ch) chs 0 with
        | some j => half (fieldAt sl (roundUp (8 * h) 64 + ((i * c + j) * t + k) * 2) 2)
        | none => x)))

/-- The values of a payload. -/
def decodeVals (sh : Bytes) (kf vf : Nat) (p : Bytes) : List Word :=
  let n := shHeads sh * shTpl sh * shDim sh
  let so := regionSize kf n + regionSize vf n
  let r := readRegion vf n (p.drop (regionSize kf n)) (p.drop (so + sectionSize kf n))
  r.2.flatMap (decGroup vf (if vf = 9 then r.1 else shTensor sh))

/-- The shadow payload of a leaf (R150, R286): keys in INT4G, values in INT2G, no side-list. -/
def shadowPayload (keys vals : List Word) : Bytes :=
  let n := keys.length
  let kg := encRegion 11 0 keys
  let vg := encRegion 12 0 vals
  regionBytes 11 n kg ++ regionBytes 12 n vg ++ sectionBytes 11 n 0 kg ++ sectionBytes 12 n 0 vg

end Sys2Proof.Machine
end

