-- ==== Sys2Proof/Machine/Cipher.lean ====
section
/-! DEFINITION. Encryption, tags and derived keys: AES-256-XTS of leaf payloads (R157, R158), AES-256-CMAC (R427), AES-256-GCM of what
crosses the host bus (R436, R437), HKDF with SHA-384 and the values that it gives (R428, R435); over a block cipher of which only the
inverse is known, and a digest of which nothing is (log entry 4). -/

namespace Sys2Proof.Machine

open Sys2Proof

/-- The cipher of one of the three keys of a key set: XTS key 1, XTS key 2, tag key (R426). -/
def keyPart (key i : Nat) : Config.Cipher := Config.aes (key / 2 ^ (256 * i) % 2 ^ 256)

/-- A block of 16 bytes as a number, lowest byte first. -/
def blockOf (b : Bytes) : BitVec 128 := BitVec.ofNat 128 (leNat b)

/-- Multiplication by α of the XTS mask: x^128 + x^7 + x^2 + x + 1. -/
def xtsDouble (t : BitVec 128) : BitVec 128 := (t <<< 1) ^^^ (if t.msb then 0x87 else 0)

/-- XTS over whole blocks from a mask on: each block between two additions of its mask. -/
def xtsRun (f : BitVec 128 → BitVec 128) : BitVec 128 → List (BitVec 128) → List (BitVec 128)
  | _, [] => []
  | t, b :: bs => (f (b ^^^ t) ^^^ t) :: xtsRun f (xtsDouble t) bs

/-- The first mask of a data unit: its tweak under the second key. -/
def xtsMask (key tweak : Nat) : BitVec 128 := (keyPart key 1).enc (BitVec.ofNat 128 tweak)

/-- The blocks of bytes, the last one filled with zeros, and back. -/
def blocksOf (bs : Bytes) : List (BitVec 128) := (chunksOf 16 (bs.length / 16 + 1) bs).map blockOf
def blockBytes (l : List (BitVec 128)) : Bytes := l.flatMap (fun b => leBytes 16 b.toNat)

/-- A data unit encrypted and decrypted (R158): its length is a multiple of 16. -/
def sealBytes (key tweak : Nat) (bs : Bytes) : Bytes :=
  padTo bs.length (blockBytes (xtsRun (keyPart key 0).enc (xtsMask key tweak) (blocksOf bs)))
def openBytes (key tweak : Nat) (bs : Bytes) : Bytes :=
  padTo bs.length (blockBytes (xtsRun (keyPart key 0).dec (xtsMask key tweak) (blocksOf bs)))

/-- The counter block of GCM: a nonce of 12 bytes, and the counter, highest byte first. -/
def gcmCounter (nonce : Bytes) (n : Nat) : BitVec 128 := blockOf (padTo 12 nonce ++ (leBytes 4 n).reverse)

/-- Bytes encrypted, or decrypted, in the counter mode of AES-256-GCM (R437): data blocks take the counters from 2 on. -/
def gcmBytes (key : Nat) (nonce : Bytes) (bs : Bytes) : Bytes :=
  padTo bs.length (blockBytes ((blocksOf bs).mapIdx (fun i b => b ^^^ (keyPart key 0).enc (gcmCounter nonce (i + 2)))))

/-! ### Tags (R427, R437) -/

/-- A block of 16 bytes as a number, highest byte first, and back. -/
def beBlock (b : Bytes) : BitVec 128 := blockOf b.reverse
def beBytes (x : BitVec 128) : Bytes := (leBytes 16 x.toNat).reverse

/-- The cipher on blocks as numbers, highest byte first. -/
def beEnc (c : Config.Cipher) (x : BitVec 128) : BitVec 128 := beBlock (leBytes 16 (c.enc (blockOf (beBytes x))).toNat)

/-- AES-256-CMAC of NIST SP 800-38B: the last block is added to the first subkey when whole, else filled and added to the second. -/
def cmac (c : Config.Cipher) (bs : Bytes) : BitVec 128 :=
  let k1 := xtsDouble (beEnc c 0)
  let n := (bs.length - 1) / 16 * 16
  let last := bs.drop n
  let z := if last.length = 16 then beBlock last ^^^ k1 else beBlock (padTo 16 (last ++ [0x80])) ^^^ xtsDouble k1
  beEnc c ((chunksOf 16 (n / 16) (bs.take n)).foldl (fun x b => beEnc c (x ^^^ beBlock b)) 0 ^^^ z)

/-- The integrity tag of bytes under the tag key of a key set: the leftmost 64 bits of their CMAC, as a number in the byte order of a
stored field (R427). -/
def tag64 (key : Nat) (bs : Bytes) : BitVec 64 := BitVec.ofNat 64 (leNat ((beBytes (cmac (keyPart key 2) bs)).take 8))

/-- Multiplication in the field of GHASH: the leftmost bit is the coefficient of 1, and x^128 is x^7 + x^2 + x + 1. -/
def ghashMul (x y : BitVec 128) : BitVec 128 :=
  ((List.range 128).foldl (fun (a : BitVec 128 × BitVec 128) i =>
    (if x.getMsbD i then a.1 ^^^ a.2 else a.1, (a.2 >>> 1) ^^^ (if a.2.getLsbD 0 then 0xE1#128 <<< 120 else 0))) (0, y)).1

/-- Bytes in blocks of 16, the last one filled with zeros. -/
def ghashBlocks (bs : Bytes) : List (BitVec 128) := (chunksOf 16 (ceilDiv bs.length 16) bs).map (fun b => beBlock (padTo 16 b))

/-- The tag of AES-256-GCM (NIST SP 800-38D) over additional data and ciphertext, under a nonce of 12 bytes (R436, R437). -/
def gcmTag (key : Nat) (nonce aad ct : Bytes) : Bytes :=
  let c := keyPart key 0
  let h := beEnc c 0
  let lens := BitVec.ofNat 128 (8 * aad.length * 2 ^ 64 + 8 * ct.length)
  let g := (ghashBlocks aad ++ ghashBlocks ct ++ [lens]).foldl (fun y b => ghashMul (y ^^^ b) h) 0
  beBytes (g ^^^ beEnc c (beBlock (padTo 12 nonce ++ [0, 0, 0, 1])))

/-! ### HKDF and the values that it gives (R428, R435) -/

def sha384 (bs : Bytes) : Bytes := padTo 48 (Config.sha384 bs)

/-- HMAC with SHA-384, whose blocks are of 128 bytes. -/
def hmac384 (key msg : Bytes) : Bytes :=
  let k := padTo 128 (if key.length > 128 then sha384 key else key)
  sha384 (k.map (· ^^^ 0x5C) ++ sha384 (k.map (· ^^^ 0x36) ++ msg))

/-- HKDF-Expand of RFC 5869 from round `i` on, after the block `t`. -/
def hkdfRounds (prk info : Bytes) (t : Bytes) (i : Nat) : Nat → Bytes
  | 0 => []
  | n + 1 => let t := hmac384 prk (t ++ info ++ leBytes 1 i); t ++ hkdfRounds prk info t (i + 1) n
def hkdfExpand (prk info : Bytes) (len : Nat) : Bytes := (hkdfRounds prk info [] 1 (ceilDiv len 48)).take len

/-- fleet_kdf (R428): extraction under a salt of 48 zeros, and expansion under label and context. -/
def fleetKdf (fs label ctx : Bytes) (len : Nat) : Bytes := hkdfExpand (hmac384 (List.replicate 48 0) fs) (label ++ ctx) len

/-- The labels of R428 and R442: "tm74 " and seed, scope, stage, fleet id; and of R435: "tm74 chm " and kd, ki. -/
def labelTm74 : Bytes := [0x74, 0x6D, 0x37, 0x34, 0x20]
def labelSeed : Bytes := labelTm74 ++ [0x73, 0x65, 0x65, 0x64]
def labelScope : Bytes := labelTm74 ++ [0x73, 0x63, 0x6F, 0x70, 0x65]
def labelStage : Bytes := labelTm74 ++ [0x73, 0x74, 0x61, 0x67, 0x65]
def labelFleetId : Bytes := labelTm74 ++ [0x66, 0x6C, 0x65, 0x65, 0x74, 0x20, 0x69, 0x64]
def labelChm (which : Nat) : Bytes := labelTm74 ++ [0x63, 0x68, 0x6D, 0x20, 0x6B, if which = 0 then 0x64 else 0x69]

/-- The context of a scope: its kind (0 partition, 1 share group) and its identifier. -/
def scopeCtx (kind id : Nat) : Bytes := leBytes 1 kind ++ leBytes 8 id

/-- The chain-hash seed, the public identifier and a staging key set of a scope under a fleet secret. -/
def scopeSeed (fs : Bytes) (kind id : Nat) : Nat := leNat (fleetKdf fs labelSeed (scopeCtx kind id) 16) % 2 ^ 128
def scopeIdent (fs : Bytes) (kind id : Nat) : Nat := leNat (fleetKdf fs labelScope (scopeCtx kind id) 8) % 2 ^ 64
def stageKeys (fs : Bytes) (kind id epoch : Nat) : Nat := leNat (fleetKdf fs labelStage (scopeCtx kind id ++ leBytes 1 epoch) 96)

/-- The confidential keys of a partition under a numbered epoch (R435): 0 kd, 1 ki. -/
def chmKey (p epoch which : Nat) : Nat := leNat (hkdfExpand (Config.appSecret (p * 2 ^ 16 + epoch)) (labelChm which) 32)

end Sys2Proof.Machine
end

