-- ==== Sys2Proof/Machine/Operands.lean ====
section
/-! DEFINITION. Descriptors (R74, R78, R79): the header, the opcode table and every operand form. A descriptor is held in
the 64-byte v2 layout. -/

namespace Sys2Proof.Machine

open Sys2Proof

/-! ### Header (R74) -/

def Req.fld (r : Req) (off hi lo : Nat) : Nat := sfield r.entry off hi lo
def Req.opcode (r : Req) : Nat := r.fld 0 7 0
def Req.flags (r : Req) : Nat := r.fld 1 7 0
def Req.tag (r : Req) : Nat := r.fld 2 15 0
def Req.deadlineField (r : Req) : Nat := r.fld 4 31 0
def Req.handle (r : Req) : Nat := r.fld 8 63 0

/-! ### Flags (R75) -/

def Req.fFence (r : Req) : Bool := bit r.flags 0 || r.opcode == 0x01
def Req.fIndependent (r : Req) : Bool := bit r.flags 1
def Req.fNotify (r : Req) : Bool := bit r.flags 2
def Req.fWaitFree (r : Req) : Bool := bit r.flags 3
def Req.fDurable (r : Req) : Bool := bit r.flags 4
def Req.fDegradeOk (r : Req) : Bool := bit r.flags 5

/-! ### The opcode table (R78) -/

/-- What an opcode takes as its handle. -/
inductive HandleKind | none | seqOrNone | seq | leaf
  deriving DecidableEq, Repr

/-- The v1 form of an opcode. -/
inductive V1Form | inline | block | v2only
  deriving DecidableEq, Repr

/-- A row of the opcode table: handle, v1 form, whether it is for partition 0 only, whether it is write-class (R44),
whether it is read-class, the operand fields (offset, high bit, low bit), the addresses whose alignment is checked (offset
and alignment) and whether it takes a deadline (R76). -/
structure OpRow where
  code : Nat
  handle : HandleKind := .none
  v1 : V1Form := .v2only
  part0 : Bool := false
  write : Bool := false
  read : Bool := false
  fields : List (Nat × Nat × Nat) := []
  addrs : List (Nat × Nat) := []
  deadline : Bool := false
  positionRef : Bool := false

/-- Rows 0x00 to 0x25 (R78, R79, R81). -/
def opRowsA : List OpRow :=
  [{ code := 0x00, v1 := .inline },
   { code := 0x01, v1 := .inline },
   { code := 0x10, handle := .seqOrNone, v1 := .inline, write := true,
     fields := [(16, 3, 0), (16, 5, 4), (17, 7, 0), (18, 15, 0), (20, 4, 0), (20, 5, 5)] },
   { code := 0x11, handle := .seq, v1 := .block, write := true,
     fields := [(16, 63, 0), (24, 63, 0), (32, 15, 0), (34, 3, 0), (36, 31, 0)], addrs := [(16, 64), (24, 4)] },
   { code := 0x12, handle := .seq, v1 := .inline, write := true, fields := [(16, 31, 0), (20, 0, 0)] },
   { code := 0x13, handle := .seq, v1 := .inline, write := true, read := true,
     fields := [(16, 31, 0), (20, 2, 1), (21, 7, 0)] },
   { code := 0x14, handle := .seq, v1 := .inline, write := true },
   { code := 0x15, handle := .seq, v1 := .inline },
   { code := 0x20, handle := .leaf, v1 := .inline, read := true, deadline := true,
     fields := [(16, 63, 0), (24, 0, 0), (24, 7, 4)], addrs := [(16, 64)] },
   { code := 0x21, handle := .seq, v1 := .inline, write := true,
     fields := [(16, 63, 0), (24, 11, 0), (24, 15, 12), (26, 15, 0), (28, 15, 0)], addrs := [(16, 64)] },
   { code := 0x22, handle := .leaf, v1 := .inline },
   { code := 0x23, handle := .leaf, v1 := .inline },
   { code := 0x24, handle := .leaf, v1 := .inline, write := true },
   { code := 0x25, handle := .leaf, v1 := .inline, fields := [(16, 1, 0)] }]

/-- Rows 0x30 to 0x52. -/
def opRowsB : List OpRow :=
  [{ code := 0x30, v1 := .inline, read := true,
     fields := [(16, 63, 0), (24, 31, 0), (28, 3, 0), (29, 4, 0), (29, 5, 5), (30, 15, 0)], addrs := [(16, 4)] },
   { code := 0x31, v1 := .inline, fields := [(16, 15, 0)] },
   { code := 0x32, handle := .seq, v1 := .inline, write := true, fields := [(16, 31, 0), (24, 31, 0)] },
   { code := 0x33, handle := .seq, v1 := .inline, write := true, fields := [(16, 31, 0), (24, 31, 0)] },
   { code := 0x40, handle := .seq, read := true, deadline := true,
     fields := [(16, 63, 0), (24, 63, 0), (32, 63, 0), (40, 27, 0), (40, 28, 28), (40, 29, 29), (44, 15, 0),
       (46, 11, 0), (46, 15, 12), (48, 63, 0)], addrs := [(16, 64), (24, 64), (32, 64), (48, 64)] },
   { code := 0x41, handle := .seq, read := true, deadline := true,
     fields := [(16, 63, 0), (24, 63, 0), (32, 11, 0), (32, 12, 12), (32, 13, 13), (34, 15, 0), (36, 27, 0), (40, 31, 0)],
     addrs := [(16, 64), (24, 64)] },
   { code := 0x42, handle := .seq, read := true, deadline := true,
     fields := [(16, 63, 0), (24, 63, 0), (32, 27, 0), (36, 15, 0), (38, 11, 0), (38, 15, 12), (40, 1, 0), (42, 14, 0),
       (44, 31, 0), (48, 63, 0)], addrs := [(16, 64), (24, 64), (48, 64)] },
   { code := 0x50, fields := [(16, 1, 0), (16, 2, 2)] },
   { code := 0x51, positionRef := true, fields := [(16, 0, 0), (24, 63, 0), (32, 15, 0), (34, 15, 0)],
     addrs := [(24, 64)] },
   { code := 0x52, positionRef := true, fields := [(16, 0, 0)] }]

/-- Rows 0x60 to 0x7E. -/
def opRowsC : List OpRow :=
  [{ code := 0x60, fields := [(16, 63, 0), (24, 31, 0), (28, 3, 0), (29, 3, 0)], addrs := [(16, 64)] },
   { code := 0x61, fields := [(16, 7, 0)] },
   { code := 0x62, fields := [(16, 3, 0), (16, 7, 4), (18, 15, 0)] },
   { code := 0x70, fields := [(16, 63, 0), (24, 63, 0)] },
   { code := 0x71, fields := [(16, 63, 0), (24, 63, 0), (32, 1, 0), (36, 31, 0)] },
   { code := 0x72, handle := .seq, fields := [(16, 63, 0), (24, 0, 0)] },
   { code := 0x78, fields := [(16, 63, 0), (24, 63, 0), (32, 2, 0)] },
   { code := 0x79, fields := [(16, 31, 0)] },
   { code := 0x7C, part0 := true, fields := [(16, 6, 0), (24, 63, 0)], addrs := [(24, 64)] },
   { code := 0x7D, part0 := true, fields := [(16, 6, 0)] },
   { code := 0x7E, part0 := true, fields := [(16, 6, 0)] }]

/-- The opcode table. -/
def opRows : List OpRow := opRowsA ++ opRowsB ++ opRowsC

/-- The row of an opcode. -/
def opRow? (code : Nat) : Option OpRow := opRows.find? (fun r => r.code == code)

/-- The row of a request: POOL_STAGE is read-class outwards and write-class inwards (R339, R340). -/
def Req.row? (r : Req) : Option OpRow :=
  (opRow? r.opcode).map (fun w =>
    if r.opcode = 0x72 then { w with write := r.fld 24 0 0 == 1, read := r.fld 24 0 0 == 0 } else w)

/-- Whether a request is write-class (R44, R340). -/
def Req.writeClass (r : Req) : Bool :=
  match r.row? with
  | some w => w.write
  | none => false

/-! ### Operands, by opcode (R79, R81) -/

def Req.shapeIndex (r : Req) : Nat := r.fld 16 3 0
def Req.openPersist (r : Req) : Nat := r.fld 16 5 4
def Req.openHints (r : Req) : Nat := r.fld 17 7 0
def Req.openAdapter (r : Req) : Nat := r.fld 18 15 0
def Req.openGroup (r : Req) : Nat := r.fld 20 4 0
def Req.openShared (r : Req) : Bool := r.fld 20 5 5 == 1
def Req.addr16 (r : Req) : Nat := r.fld 16 63 0
def Req.addr24 (r : Req) : Nat := r.fld 24 63 0
def Req.addr32 (r : Req) : Nat := r.fld 32 63 0
def Req.addr48 (r : Req) : Nat := r.fld 48 63 0
def Req.appendCount (r : Req) : Nat := r.fld 32 15 0
def Req.appendFormat (r : Req) : Nat := r.fld 34 3 0
def Req.appendStride (r : Req) : Nat := r.fld 36 31 0
def Req.writeLayer (r : Req) : Nat := r.fld 24 11 0
def Req.writeFormat (r : Req) : Nat := r.fld 24 15 12
def Req.writeFirst (r : Req) : Nat := r.fld 26 15 0
def Req.writeCount (r : Req) : Nat := r.fld 28 15 0
def Req.chunkCount16 (r : Req) : Nat := r.fld 16 31 0
def Req.release (r : Req) : Bool := r.fld 20 0 0 == 1
def Req.forkPersist (r : Req) : Nat := r.fld 20 2 1
def Req.forkHints (r : Req) : Nat := r.fld 21 7 0
def Req.chunkFirst24 (r : Req) : Nat := r.fld 24 31 0
def Req.readConvert (r : Req) : Bool := r.fld 24 0 0 == 1
def Req.readFormat (r : Req) : Nat := r.fld 24 7 4
def Req.destTier (r : Req) : Nat := r.fld 16 1 0
def Req.lookCount (r : Req) : Nat := r.fld 24 31 0
def Req.lookShape (r : Req) : Nat := r.fld 28 3 0
def Req.lookGroup (r : Req) : Nat := r.fld 29 4 0
def Req.lookShared (r : Req) : Bool := r.fld 29 5 5 == 1
def Req.lookAdapter (r : Req) : Nat := r.fld 30 15 0
def Req.context (r : Req) : Nat := r.fld 16 15 0
def Req.attFirst (r : Req) : Nat := r.fld 40 27 0
def Req.attOutBf16 (r : Req) : Bool := r.fld 40 28 28 == 1
def Req.attQueryBf16 (r : Req) : Bool := r.fld 40 29 29 == 1
def Req.attCount (r : Req) : Nat := r.fld 44 15 0
def Req.attLayer (r : Req) : Nat := r.fld 46 11 0
def Req.attQueries (r : Req) : Nat := r.fld 46 15 12 + 1
def Req.selLayer (r : Req) : Nat := r.fld 32 11 0
def Req.selProxy (r : Req) : Bool := r.fld 32 12 12 == 1
def Req.selQueryBf16 (r : Req) : Bool := r.fld 32 13 13 == 1
def Req.selK (r : Req) : Nat := r.fld 34 15 0
def Req.selFirst (r : Req) : Nat := r.fld 36 27 0
def Req.selCount (r : Req) : Nat := r.fld 40 31 0
def Req.delFirst (r : Req) : Nat := r.fld 32 27 0
def Req.delCount (r : Req) : Nat := r.fld 36 15 0
def Req.delLayer (r : Req) : Nat := r.fld 38 11 0
def Req.delFormat (r : Req) : Nat := r.fld 38 15 12
def Req.delTarget (r : Req) : Nat := r.fld 40 1 0
def Req.delQp (r : Req) : Nat := r.fld 42 14 0
def Req.delRkey (r : Req) : Nat := r.fld 44 31 0
def Req.markDomain (r : Req) : Nat := r.fld 16 1 0
def Req.markSync (r : Req) : Bool := r.fld 16 2 2 == 1
def Req.schedSlot (r : Req) : Bool := r.fld 16 0 0 == 1
def Req.armFirst (r : Req) : Nat := r.fld 32 15 0
def Req.armCount (r : Req) : Nat := r.fld 34 15 0
def Req.loadLength (r : Req) : Nat := r.fld 24 31 0
def Req.loadKind (r : Req) : Nat := r.fld 28 3 0
def Req.loadTarget (r : Req) : Nat := r.fld 29 3 0
def Req.switchEpoch (r : Req) : Nat := r.fld 16 7 0
def Req.trainFormat (r : Req) : Nat := r.fld 16 7 4
def Req.trainSamples (r : Req) : Nat := r.fld 18 15 0
def Req.leaseOp (r : Req) : Nat := r.fld 32 1 0
def Req.leaseMs (r : Req) : Nat := r.fld 36 31 0
def Req.stageIn (r : Req) : Bool := r.fld 24 0 0 == 1
def Req.mrAccess (r : Req) : Nat := r.fld 32 2 0
def Req.rkey (r : Req) : Nat := r.fld 16 31 0
def Req.partArg (r : Req) : Nat := r.fld 16 6 0

/-! ### Handles (R16) -/

def hPart (h : Nat) : Nat := bits h 63 57
def hPos (h : Nat) : Nat := bits h 56 53
def hGen (h : Nat) : Epoch := BitVec.ofNat 8 (bits h 52 45)
def hLeaf (h : Nat) : Nat := bits h 29 0
def hSeq (h : Nat) : Nat := bits h 27 0

/-- A handle of a partition, ring position, generation and index (R16). -/
def mkHandle (part pos : Nat) (gen : Epoch) (idx : Nat) : Nat :=
  part * 2 ^ 57 + pos * 2 ^ 53 + gen.toNat * 2 ^ 45 + idx

end Sys2Proof.Machine
end

