-- ==== Sys2Proof/Machine/Flags.lean ====
section
/-! DEFINITION. The checks of a descriptor's own encoding (R75 to R79, items 1 and 2 of R77): reserved fields, flags,
deadline, handle, alignment and ranges. Each gives the byte offset of the first field at fault. -/

namespace Sys2Proof.Machine

open Sys2Proof

/-- The bits of byte `b` of a descriptor that the fields of a row use. -/
def usedMask (fields : List (Nat × Nat × Nat)) (b : Nat) : Nat :=
  (List.range 8).foldl (fun acc i =>
    if fields.any (fun f => f.1 * 8 + f.2.2 ≤ b * 8 + i && b * 8 + i ≤ f.1 * 8 + f.2.1) then acc + 2 ^ i else acc) 0

/-- The first byte from 16 to `last` that has a bit outside the fields of the row (R5, R79). -/
def reservedFault (r : Req) (fields : List (Nat × Nat × Nat)) (last : Nat) : Option Nat :=
  ((List.range (last + 1 - 16)).map (· + 16)).find? (fun b =>
    (fieldAt r.entry b 1) &&& (255 - usedMask fields b) != 0)

/-- The fields of a row as a descriptor may use them: confidential host mode takes the extension (R437). -/
def rowFields (row : OpRow) (chm : Bool) : List (Nat × Nat × Nat) :=
  if chm then row.fields.filter (fun x => x.1 < 48) else row.fields

/-- The operands of SEQ_OPEN of a handle must be zero (R79): the offset of the first field that is not, or the byte of
a reserved bit before it. -/
def openFault (r : Req) (row : OpRow) (chm : Bool) : Option Nat :=
  let fields := row.fields.filter (fun f => r.fld f.1 f.2.1 f.2.2 != 0)
  match fields.head?, reservedFault r row.fields (if chm then 47 else 63) with
  | some f, some b => some (min f.1 b)
  | some f, none => some f.1
  | none, b => b

/-- The reserved bits of a handle (R16; log entry 57). -/
def handleReserved (k : HandleKind) (h : Nat) : Bool :=
  match k with
  | .leaf => bits h 44 30 != 0
  | .seq => bits h 44 28 != 0
  | .seqOrNone => bits h 44 28 != 0
  | .none => false

/-- The reserved-field check of item 2 (R5): the flags' reserved bits, byte 4 to 7 of a v1 descriptor (one field at offset
4), the handle's reserved bits, then the operands; in confidential host mode bytes 48 to 63 hold the tag. -/
def checkReserved (r : Req) (row : OpRow) (chm : Bool) : Option Nat :=
  if r.flags ≥ 64 then some 1
  else if !r.v2 && r.deadlineField != 0 then some 4
  else if handleReserved row.handle r.handle then some 8
  else if r.opcode = 0x10 && r.handle != 0 then openFault r row chm
  else reservedFault r (rowFields row chm) (if chm then 47 else 63)

/-- The flag check (R75): a flag outside its column. -/
def checkFlags (r : Req) (row : OpRow) : Option Nat :=
  if bit r.flags 1 && !row.write then some 1
  else if bit r.flags 3 && r.opcode != 0x7E then some 1
  else if bit r.flags 4 && !(r.opcode == 0x11 || r.opcode == 0x21) then some 1
  else if bit r.flags 5 && !row.deadline then some 1
  else none

/-- The deadline check (R76, R12): only four opcodes take one, and two read it as a position; a deadline needs a bound
beat domain (log entry 59). -/
def checkDeadline (r : Req) (row : OpRow) (bound : Bool) : Option Nat :=
  if r.deadlineField = 0 || row.positionRef then none
  else if row.deadline && bound then none
  else some 4

/-- The handle check: a handle where the opcode takes none. -/
def checkNoHandle (r : Req) (row : OpRow) : Option Nat :=
  if row.handle = .none && r.handle != 0 then some 8 else none

/-- Whether an address operand is a PCIe address (R77): requester memory and target kind 2 of DELIVER are not. -/
def isPcie (r : Req) (off : Nat) : Bool :=
  let dst := off == 48 || (off == 16 && (r.opcode == 0x20 || r.opcode == 0x42)) || (off == 24 && (r.opcode == 0x40 || r.opcode == 0x41))
  (if dst then r.dstSpace == 0 else r.srcSpace == 0) && !(r.opcode == 0x42 && off == 16 && r.delTarget == 2)

/-- The alignment check: buffer addresses 64-byte aligned, token_addr 4-byte aligned. -/
def checkAlign (r : Req) (row : OpRow) (chm : Bool) : Option Nat :=
  (row.addrs.find? (fun a => (a.1 < 48 || !chm) && isPcie r a.1 && r.fld a.1 63 0 % a.2 != 0)).map (·.1)

/-! ### Placement hints (R269) -/

def hintTier (h : Nat) : Nat := bits h 1 0
def hintNoPool (h : Nat) : Bool := bit h 2
def hintNoPromote (h : Nat) : Bool := bit h 3
def hintRetain (h : Nat) : Nat := bits h 5 4
/-- A hints byte that R269 admits. -/
def hintsOk (h : Nat) : Bool := hintTier h != 3 && hintRetain h != 3 && h < 64

/-- The ranges that the encoding fixes, by opcode (R79, R81): the first field out of its range. -/
def checkRange (r : Req) : Option Nat :=
  match r.opcode with
  | 0x10 => if r.handle = 0 && r.openPersist > 1 then some 16 else if r.handle = 0 && !hintsOk r.openHints then some 17 else none
  | 0x11 => if r.appendCount = 0 || r.appendCount > 16384 then some 32 else none
  | 0x13 => if r.forkPersist > 1 then some 20 else if !hintsOk r.forkHints then some 21 else none
  | 0x21 => if r.writeCount = 0 then some 28 else none
  | 0x25 => if r.destTier = 3 then some 16 else none
  | 0x30 => if r.lookCount = 0 || r.lookCount > 2 ^ 24 then some 24 else none
  | 0x41 => if r.selK = 0 then some 34 else if r.selCount = 0 || r.selCount > 65535 then some 40 else none
  | 0x42 => if r.delTarget = 3 then some 40 else none
  | 0x60 =>
    if r.loadLength > 2 ^ 26 then some 24 else if r.loadKind > 3 then some 28
    else if (r.loadKind = 2 && r.loadTarget > 1) || ((r.loadKind = 1 || r.loadKind = 3) && r.loadTarget != 0) then some 29
    else none
  | 0x71 => if r.leaseOp = 3 then some 32 else none
  | _ => none

/-- Items 1 and 2 of R77: the offset of the first fault, or none. -/
def checkEncoding (r : Req) (chm bound : Bool) : Option Nat :=
  match r.row? with
  | none => some 0
  | some row =>
    if !r.v2 && r.opcode ≥ 0x40 then some 0
    else
      (checkReserved r row chm).or ((checkFlags r row).or ((checkDeadline r row bound).or
        ((checkNoHandle r row).or ((checkAlign r row chm).or (checkRange r)))))

end Sys2Proof.Machine
end

