-- ==== Sys2Proof/Machine/Ops.lean ====
section
/-! DEFINITION. The shared operations over requests: partitions and functions, buffers, completions (R82 to R85), the
failure of an ordering domain (R47), and what a request may read or write. -/

namespace Sys2Proof.Machine

open Sys2Proof

/-! ### Status codes (R89) -/

def Status.code : Status → Nat
  | .ok => 0x00 | .okDegraded => 0x01 | .okPartial => 0x02 | .notFound => 0x10 | .evicted => 0x11
  | .poisoned => 0x20 | .mediaError => 0x21 | .deadlineMissed => 0x22 | .abortedPredecessor => 0x30
  | .abortedTeardown => 0x31 | .abortedReset => 0x32 | .accessDenied => 0x40 | .quotaExceeded => 0x41
  | .busyTeardown => 0x42 | .readOnlyMedia => 0x43 | .badDescriptor => 0x50 | .badFormat => 0x51
  | .linkFailed => 0x60 | .remoteError => 0x61 | .internal => 0x7F

/-- A failure leaves the store as it was (R88). -/
def Status.isFailure (st : Status) : Bool := st.code ≥ 0x10

/-! ### Partitions and the ring position -/

/-- The state of a partition, as PART_STATE numbers it (R476): 0 FREE, 1 ACTIVE, 2 DRAINING, 3 SCRUBBING. -/
def State.pstate (s : State) (p : Nat) : Nat := s.get F.PART_STATE_STATE p

def State.partActive (s : State) (p : Nat) : Bool := s.pstate p == 1

/-- Whether a partition is DRAINING or SCRUBBING: background work on its leaves has stopped (R480). -/
def State.leaving (s : State) (p : Nat) : Bool := s.pstate p == 2 || s.pstate p == 3

/-- A transition of a partition (R476): each raises PARTITION_STATE. -/
def State.setPState (s : State) (p v : Nat) : State := (s.put F.PART_STATE_STATE v p).raisePState p

/-- Boot phase (R466). -/
def State.phase (s : State) : Nat := s.get F.GLB_BOOT_STATUS_PHASE

def State.ready (s : State) : Bool := s.phase == 4

/-- Whether the device admits work: READY, and no fatal fault has stopped it (R422, R466). -/
def State.serves (s : State) : Bool := s.ready && !s.on F.RAS_STATUS_FATAL

/-- This device's ring position: 0 when it is no member (R17). -/
def State.pos (s : State) : Nat := if s.get F.RING_STATUS_STATE = 3 then s.get F.RING_STATUS_POSITION else 0

/-- Whether a position of the ring is another present, reachable member (R392). -/
def State.posPresent (s : State) (q : Nat) : Bool := s.on F.RING_MEMBER_ASSIGNED q && s.on F.RING_MEMBER_PRESENT q

/-- Whether partition `p` is a member of share group `g` (R92). -/
def State.inGroup (s : State) (g p : Nat) : Bool := bit (s.get F.CANOPY_SGRP_MEMBER_MEMBERS g (p / 32)) (p % 32)

/-- Whether two partitions share a group (R18, item 2; log entry 47). -/
def State.shareGroup (s : State) (p q : Nat) : Bool := (List.range 32).any (fun g => s.inGroup g p && s.inGroup g q)

/-- Whether a partition is in confidential host mode (R434, R437). -/
def State.confidential (s : State) (p : Nat) : Bool := s.on F.PART_CHM_STATUS_ACTIVE p

/-- A restored partition stays invisible until it has been created and enabled again (R469; log entry 119). -/
def State.hidden (s : State) (p : Nat) : Bool := (s.parts.getD p {}).restored && !s.partActive p

/-! ### Power domains (R447) -/

/-- Whether a power domain is ON. -/
def State.pdOn (s : State) (d : Nat) : Bool := (s.pds.getD d {}).state == 2

/-- Whether a Sapling cluster is on: domains 48 to 55 (R253). -/
def State.anyCluster (s : State) : Bool := (List.range 8).any (fun g => s.pdOn (48 + g))

/-- Whether a codec slice is on: domains 56 to 63 (R165). -/
def State.anySlice (s : State) : Bool := (List.range 8).any (fun g => s.pdOn (56 + g))

/-! ### What a device has -/

/-- HBM stacks of the device (R1, R2). -/
def State.stacks (s : State) : Nat := if s.hb6 then 6 else 8

/-- Whether a Buttress die works (R14): 0 carries the host port, Ethernet ports 0 and 1, BKW, channels 0 to 15 and the beat inputs,
1 the pool port, Ethernet ports 2 and 3, BKE and channels 16 to 31. -/
def State.dieWorks (s : State) (d : Nat) : Bool := !s.ras.dies.contains d

/-! ### Requests -/

def State.req? (s : State) (rid : Nat) : Option Req := s.reqs.get? rid

/-- The ring or queue pair whose order a request keeps (R11, R391). -/
def Origin.key : Origin → Nat × Nat × Nat
  | .ring q => (1, q, 0)
  | .qwp qp _ => (2, qp, 0)
  | .fwd pos queue _ => (3, pos, queue)

/-- Whether a request came by a submission ring of this device, or is an event instance of it. -/
def Req.local_ (r : Req) : Bool := match r.origin with | .ring _ => true | _ => false

/-- Whether the buffers of a request in a memory space are ciphertext (R437): QWP requests move theirs in clear. -/
def State.chmBuf (s : State) (r : Req) (space : Nat) : Bool := s.confidential r.part && space == 0 && r.local_

/-- What the lease of a sequence names as its holder (R27): kind, index, position. -/
def State.holderOf (s : State) (o : Origin) : Nat × Nat × Nat :=
  match o with
  | .ring q => (1, q, s.pos)
  | .qwp qp _ => (2, qp, s.pos)
  | .fwd pos queue _ => (if queue < 2 ^ 15 then 1 else 2, queue % 2 ^ 15, pos)

/-- The state with a request changed. -/
def State.setReq (s : State) (rid : Nat) (r : Req) : State := { s with reqs := s.reqs.set rid r }

/-- A request that waits for something. -/
def State.wait (s : State) (rid : Nat) (w : Wait) : State :=
  { s with reqs := s.reqs.modify rid (fun r => { r with phase := .waiting, wait := w }) }

/-- Whether the stacks are in self-refresh (R452): HBM is not scrubbed, and descriptors wait. -/
def State.inSr (s : State) : Bool := s.on F.CUPOLA_HBM_STATUS_IN_SR

/-- A started request of an opcode: what every meaning of an opcode begins with. While the stacks are in self-refresh it waits. -/
def State.startedReq? (s : State) (rid : Nat) (codes : List Nat) : Option Req :=
  match s.req? rid with
  | some r => if r.phase = .started && codes.contains r.opcode && !s.inSr then some r else none
  | none => none

/-! ### Egress (R366 to R368, R372) -/

/-- The bytes that MACsec adds to a frame of an egress port: those of its tag and its check value where a CAK protects the sub-port, a
number that the spec does not give (R368, R432; log entry 101). -/
def State.macsecBytes (s : State) (port : Nat) : Nat := if (s.sec.caks.get? port).isSome then Config.macsecOverhead else 0

/-- A frame put at the end of a queue of an egress port, as long as MACsec makes it (R368). -/
def State.enqueue (s : State) (port queue : Nat) (f : Frame) : State :=
  let q := s.txqs.getD (port * 64 + queue) {}
  { s with txqs := s.txqs.set (port * 64 + queue) { q with frames := q.frames ++ [{ f with len := f.len + s.macsecBytes port }] } }

/-- The queue in which a partition's host writes go: its old queue while that holds a frame of it (R372). -/
def State.hostQueue (s : State) (p : Nat) : Nat :=
  let cur := (s.partQs.getD p {}).host
  if (s.txqs.getD (18 * 64 + cur) {}).frames.any (fun f => f.part == p) then cur else s.get F.PART_TRAFFIC_Q_HOST_Q p

/-- A host write of a partition, counted in its queue of the host DMA port (R367); its effect on memory is the write's own. -/
def State.hostFrame (s : State) (p len : Nat) : State :=
  let q := s.hostQueue p
  let s := { s with partQs := s.partQs.set p { (s.partQs.getD p {}) with host := q } }
  s.enqueue 18 q { len := len, part := p, entered := s.time, what := .hostWrite p len }

/-- A host write of no partition, in queue 1 of the host DMA port (R367): the health log, and the buffer of READ_RAW (DEDUCED: no
descriptor and no instance writes it; log entry 101). -/
def State.deviceFrame (s : State) (len : Nat) : State :=
  s.enqueue 18 1 { len := len, entered := s.time, what := .hostWrite 128 len }

/-- The ring queue of a partition (R367, R372). -/
def State.ringQueue (s : State) (p port : Nat) : Nat :=
  let cur := (s.partQs.getD p {}).ring
  if (s.txqs.getD (port * 64 + cur) {}).frames.any (fun f => f.part == p) then cur else s.get F.PART_TRAFFIC_Q_RING_Q p

/-- The egress port of a queue pair's sub-port (R366). -/
def Qp.egressPort (q : Qp) : Nat := q.port * 4 + q.subPort

/-- The path MTU of a queue pair in bytes (R349). -/
def Qp.mtu (q : Qp) : Nat := 2 ^ (q.pmtu + 7)

/-- The bytes of a RoCEv2 frame from the destination MAC address to the FCS (R368), given its payload and the bytes of the
headers behind the BTH (log entry 101). -/
def Qp.frameLen (q : Qp) (payload ext : Nat) : Nat :=
  62 + ext + payload + (if q.vlanEn then 4 else 0) + (if q.remoteIp / 2 ^ 32 = 0xFFFF then 0 else 20)

/-- A packet of a queue pair that takes a PSN: it is outstanding until acknowledged, and enters the pair's queue (R356, R367). -/
def State.qpSend (s : State) (qp kind rid len : Nat) (what : Nat → Out) (slot : Bool := false) : State :=
  let q := s.qps.getD qp {}
  let (gap, s) := if q.reads then (s.free.1, s.free.2) else (0, s)
  let psn := (q.sendPsn + gap) % 2 ^ 24
  let idle := q.outstanding = []
  let q' : Qp := { q with
    sendPsn := (psn + 1) % 2 ^ 24
    sentAt := if idle then s.time else q.sentAt
    retriesLeft := if idle then q.retryCnt else q.retriesLeft
    rnrLeft := if idle then q.rnrRetry else q.rnrLeft
    outstanding := q.outstanding ++ [{ psn := psn, kind := kind, rid := rid, what := what psn }] }
  if q.state != .rts then s
  else
    ({ s with qps := s.qps.set qp q' }).enqueue q.egressPort q.egressQueue
      { len := len, prio := q.pcp, part := q.partition, qp := some qp, entered := s.time, slot := slot, what := what psn }

/-- An acknowledgement (kind 0), NAK (1), RNR NAK (2) or CNP (3) packet: queue 0 of the sub-port (R367). -/
def State.qpControl (s : State) (qp kind psn code : Nat) : State :=
  let q := s.qps.getD qp {}
  s.enqueue q.egressPort 0
    { len := q.frameLen 0 (if kind = 3 then 16 else 4), prio := q.pcp, part := q.partition, qp := some qp, entered := s.time, what := .packet qp kind psn code }

/-! ### Completion (R82 to R85) -/

/-- Byte 3 of a completion entry without its phase (R82). -/
def Cpl.byte3 (c : Cpl) : Nat :=
  c.path % 8 * 2 + b2n c.beatLost * 16 + b2n c.approximate * 32 + b2n c.poisoned * 64

/-- The 32 bytes of a completion entry (R82). -/
def cplBytes (tag : Nat) (st : Status) (c : Cpl) (phase sqId sqHead time : Nat) : Bytes :=
  leBytes 2 tag ++ leBytes 1 st.code ++ leBytes 1 (c.byte3 + phase % 2) ++ leBytes 2 sqId ++ leBytes 2 sqHead
    ++ leBytes 8 c.result0 ++ leBytes 8 c.result1 ++ leBytes 4 c.detail ++ leBytes 4 time

/-- The function that a ring of a partition signals through (R57, R59). -/
def State.ownerFn (s : State) (p : Nat) : Nat := if s.vfEnabled p then p else 0

/-- A signal of a completion ring (R85): its vector, a write of 4 bytes in the partition's host queue (R367), or the CQ_NOTIFY group for
vector 0 (log entries 54, 101). -/
def State.signalCq (s : State) (c : Nat) : State :=
  let s := { s with cqs := s.cqs.set c { (s.cqs.getD c {}) with unsignalled := 0 } }
  let v := s.get F.HP_CQ_CFG_VECTOR c
  if v = 0 then s.raiseCq c else (s.send (.msix (s.ownerFn (c / 8)) v)).hostFrame (c / 8) 4

/-- Interrupt moderation after an entry has been written (R85): NOTIFY and DELAY_US 0 signal at once, else at COUNT (log entry 54). -/
def State.moderate (s : State) (c : Nat) (notify : Bool) : State :=
  if !s.on F.HP_CQ_CFG_IRQ_EN c then s
  else
    let st := s.cqs.getD c {}
    let n := st.unsignalled + 1
    if notify || s.get F.HP_CQ_MOD_DELAY_US c = 0 || n ≥ max 1 (s.get F.HP_CQ_MOD_COUNT c) then s.signalCq c
    else { s with cqs := s.cqs.set c { st with unsignalled := n, oldest := if st.unsignalled = 0 then s.time else st.oldest } }

/-- The address of a completion ring (R62). -/
def State.cqBase (s : State) (c : Nat) : Nat :=
  2 ^ 12 * s.get F.HP_CQ_BASE_LO_ADDR_LO c + 2 ^ 32 * s.get F.HP_CQ_BASE_HI_ADDR_HI c

/-- The address of a submission ring (R62). -/
def State.sqBase (s : State) (q : Nat) : Nat :=
  2 ^ 12 * s.get F.HP_SQ_BASE_LO_ADDR_LO q + 2 ^ 32 * s.get F.HP_SQ_BASE_HI_ADDR_HI q

/-- The completion ring of a submission ring: ring 8p + CQ of the same partition (R62). -/
def State.cqOf (s : State) (q : Nat) : Nat := q / 8 * 8 + s.get F.HP_SQ_CFG_CQ q

/-- Entries written and not yet returned (R69). -/
def State.cqUnreturned (s : State) (c : Nat) : Nat :=
  (s.get F.HP_CQ_STATUS_TAIL c + 2 ^ s.get F.HP_CQ_CFG_LOG2_SIZE c - s.get F.HP_CQ_HEAD_HEAD c)
    % 2 ^ s.get F.HP_CQ_CFG_LOG2_SIZE c

/-- Whether a completion ring has a free entry to reserve (R71). -/
def State.cqHasRoom (s : State) (c : Nat) : Bool :=
  s.on F.HP_CQ_STATUS_ACTIVE c
    && s.cqUnreturned c + (s.cqs.getD c {}).reserved + 1 < 2 ^ s.get F.HP_CQ_CFG_LOG2_SIZE c

/-- A reservation taken or given back (R71). -/
def State.cqReserve (s : State) (c : Nat) : State :=
  { s with cqs := s.cqs.set c { (s.cqs.getD c {}) with reserved := (s.cqs.getD c {}).reserved + 1 } }
def State.cqUnreserve (s : State) (c : Nat) : State :=
  { s with cqs := s.cqs.set c { (s.cqs.getD c {}) with reserved := (s.cqs.getD c {}).reserved - 1 } }

/-- The fleet secret that the derivations of R428 use. -/
def State.fleetSecret (s : State) : Bytes := leBytes 32 (s.fleet.getD Config.ownFleet)

/-- One entry written at the next index of a completion ring, its reservation used, TAIL and PHASE moved on, then the
signal (R83, R85). An entry of a ring that has been reset meanwhile is not written (log entry 12). -/
def State.postCq (s : State) (c : Nat) (notify : Bool) (entry : Nat → Bytes) : State :=
  if !s.on F.HP_CQ_STATUS_ACTIVE c then s
  else
    let i := s.get F.HP_CQ_STATUS_TAIL c
    let ph := s.get F.HP_CQ_STATUS_PHASE c
    let size := 2 ^ s.get F.HP_CQ_CFG_LOG2_SIZE c
    let bs := entry ph
    let p := c / 8
    let s := if s.confidential p then
        let chm := s.chms.getD p {}
        s.busWrite (s.cqBase c + size * 32 + i * 16)
          (gcmTag (chmKey p chm.epoch 1) (leBytes 2 c ++ [1, 0] ++ leBytes 8 (s.sqs.getD c {}).cplSeq) bs [])
      else s
    let s := { s with sqs := s.sqs.set c { (s.sqs.getD c {}) with cplSeq := (s.sqs.getD c {}).cplSeq + 1 } }
    let s := s.busWrite (s.cqBase c + i * 32) bs
    let s := s.cqUnreserve c
    let s := if i + 1 = size then (s.put F.HP_CQ_STATUS_TAIL 0 c).put F.HP_CQ_STATUS_PHASE (1 - ph) c
      else s.put F.HP_CQ_STATUS_TAIL (i + 1) c
    (s.hostFrame p 32).moderate c notify

/-- The completion of a request of a submission ring: its entry, and one descriptor less in flight. -/
def State.postRing (s : State) (q : Nat) (r : Req) (st : Status) (c : Cpl) : State :=
  let s := s.put F.HP_SQ_INFLIGHT_COUNT (s.get F.HP_SQ_INFLIGHT_COUNT q - 1) q
  s.postCq (s.cqOf q) r.fNotify (fun ph => cplBytes r.tag st c ph q r.sqHead s.time)

/-- The time of the units that wait in the Grove queues (R363). -/
def State.unitBacklogNs (s : State) : Nat := s.groves.foldl (fun n g => g.2.queue.foldl (fun n u => n + u.ns) n) 0

/-- A count as a tenant partition sees it: while COARSEN is 1 its low 6 bits are cleared (R440). -/
def State.tenantCount (s : State) (p n : Nat) : Nat := if p != 0 && s.on F.PART_SEC_CFG_COARSEN p then n / 64 * 64 else n

/-- The load indicators of a QWP response (R363): credit hint, which a tenant partition sees as a count (R440), and load level. -/
def State.qwpLoad (s : State) (qp : Nat) : Nat × Nat :=
  let q := s.qps.getD qp {}
  let hp := s.reqs.foldl (fun n e => match e.2.origin with | .ring _ => n + 1 | _ => n) 0
  let egress := (s.txqs.getD (q.egressPort * 64 + q.egressQueue) {}).frames.foldl (fun n f => n + f.len) 0
  let frac (a b : Nat) : Nat := min 15 (15 * a / b)
  (s.tenantCount q.partition (min 4095 (min (q.rqDepth - q.admitted) (65536 - s.qwpAdmitted))),
    max (max (frac s.qwpAdmitted 65536) (frac hp 32768)) (max (frac s.unitBacklogNs 100000) (frac egress 1048576)))

/-- Request slots of a queue pair freed (R358). -/
def State.freeSlots (s : State) (qp n : Nat) : State :=
  { s with
    qps := s.qps.modify qp (fun q => { q with admitted := q.admitted - n })
    qwpAdmitted := s.qwpAdmitted - n }

/-- The response of a QWP request, formed while the request still has its slot, which is freed when the message is sent (R358, R362,
R363); of a pair that is no longer in RTS none is sent (R350). -/
def State.postQwp (s : State) (rid qp : Nat) (r : Req) (st : Status) (c : Cpl) : State :=
  if (s.qps.getD qp {}).state != .rts then s.freeSlots qp 1
  else
    let (credit, load) := s.qwpLoad qp
    let msg := leBytes 1 (16 + r.qwpVersion) ++ leBytes 1 (b2n c.poisoned) ++ leBytes 2 48 ++ leBytes 2 (load + credit * 16)
      ++ leBytes 2 0 ++ leBytes 4 r.requestId ++ leBytes 4 0 ++ cplBytes r.tag st c 0 0 0 s.time
    s.qpSend qp 0 rid ((s.qps.getD qp {}).frameLen 48 0) (fun psn => .qwpResponse qp psn msg) true

/-- The present members passed on the way east from one position to another (R389). -/
def State.eastHops (s : State) (src dst : Nat) : Nat :=
  (List.range ((16 + dst - src) % 16)).countP (fun k => s.posPresent ((src + k + 1) % 16))

/-- The position that the master has given this device, joined or still joining (R385). -/
def State.myPos (s : State) : Nat := s.get F.RING_STATUS_POSITION

/-- The counted bytes of a ring message (R368, R388): a header and a tag for every 4,096 bytes. -/
def ringLen (n : Nat) : Nat := n + 48 * max 1 (ceilDiv n 4096)

/-- The ring port towards a position (R389): fewer members on the way, BKE when equal, or the only port that is up. -/
def State.ringPort (s : State) (dst : Nat) : Nat :=
  if !s.on F.RING_STATUS_EAST_UP then 17
  else if !s.on F.RING_STATUS_WEST_UP then 16
  else if s.eastHops dst s.myPos < s.eastHops s.myPos dst then 17 else 16

/-- A frame of the ring towards a member (R388, R390): it takes the next sequence of the pair, carries the acknowledgement of
what came from there, and is kept until it is acknowledged; its queue is the partition's, or 0 for control (R367). `len` is its
payload in bytes. A device that is in no ring sends none (log entry 102). -/
def State.ringSend (s : State) (dst kind num part : Nat) (body : List Nat) (len : Nat := 8 * body.length) : State :=
  let port := s.ringPort dst
  let queue := if kind ≥ 3 then 0 else s.ringQueue part port
  let p := s.ring.peers.getD dst {}
  let f : Kept := { seq := p.nextSeq, kind := kind, num := num, part := part, queue := queue, body := body, len := len, sentAt := s.time }
  let p' : Peer := { p with nextSeq := (p.nextSeq + 1) % 2 ^ 32, kept := p.kept ++ [f], ackDue := false }
  if s.get F.RING_STATUS_STATE < 2 then s
  else
    let s := if kind ≥ 3 then s else { s with partQs := s.partQs.set part { (s.partQs.getD part {}) with ring := queue } }
    ({ s with ring := { s.ring with peers := s.ring.peers.set dst p' } }).enqueue port queue
      { len := ringLen len, part := part, entered := s.time, what := .ringFrame dst kind f.seq p.rxSeq num body }

/-- A broadcast frame: on both ports that are trained, with sequence 0 (R388, R389; log entry 102). -/
def State.ringCast (s : State) (kind num : Nat) (body : List Nat) (len : Nat := 8 * body.length) : State :=
  ((if s.on F.RING_STATUS_EAST_UP then [16] else []) ++ (if s.on F.RING_STATUS_WEST_UP then [17] else [])).foldl
    (fun (s : State) port => s.enqueue port 0
      { len := ringLen len, entered := s.time, what := .ringFrame 16 kind 0 0 num body }) s

/-- ATTEND and SELECT descriptors completed, and ATTENDs completed POISONED (R199; log entry 104). -/
def State.countDone (s : State) (opcode : Nat) (st : Status) : State :=
  if opcode = 0x40 then
    let s := s.bump F.ATTEND_COUNT_COUNT
    if st = .poisoned then s.bump F.ATTEND_POISONED_COUNT else s
  else if opcode = 0x41 then s.bump F.SELECT_COUNT_COUNT
  else s

/-- A request leaves the device: its completion goes back by the route on which it came (R82, R362, R391), a failed
write-class request fails its ordering domain (R47, but never by ABORTED_RESET, R420), and POISONED is counted and reported (R407). -/
def State.complete (s : State) (rid : Nat) (st : Status) (c : Cpl := {}) : State :=
  match s.req? rid with
  | none => s
  | some r =>
    let c := { c with beatLost := c.beatLost || r.beatLost }
    let s := { s with reqs := s.reqs.erase rid }
    let s := if st.isFailure && st != .abortedReset && r.writeClass && r.dom != .none && !s.failed.contains (r.origin.key, r.dom)
      then { s with failed := (r.origin.key, r.dom) :: s.failed } else s
    let s := if st = .poisoned then (s.bump F.RAS_POISON_CONSUMED_COUNT).raisePoison r.part else s
    let s := s.countDone r.opcode st
    if r.silent then s
    else match r.origin with
    | .ring q => s.postRing q r st c
    | .qwp qp _ => s.postQwp rid qp r st c
    | .fwd pos queue num => s.ringSend pos 1 num r.part [0, queue, st.code, c.byte3, c.result0, c.result1, c.detail] 32

/-- The offset of a fault: within the descriptor, or within the message of a QWP request (R77, R361). -/
def State.faultOff (s : State) (rid off : Nat) : Nat :=
  match s.req? rid with
  | some r => (match r.origin with | .qwp _ _ => off + 16 | _ => off)
  | none => off

/-- A request that completes BAD_DESCRIPTOR with the offset of the first field at fault (R77). -/
def State.bad (s : State) (rid off : Nat) : State := s.complete rid .badDescriptor { detail := s.faultOff rid off }

/-! ### A queue pair that fails (R350, R354, R365) -/

/-- An RDMA_ASYNC event (log entry 99). -/
def State.rdmaAsync (s : State) (qp cause : Nat) : State :=
  (s.recordEvent F.NET_ASYNC_VALID F.NET_ASYNC_OVERFLOW [(F.NET_ASYNC_QP, qp), (F.NET_ASYNC_CAUSE, cause)]).raise gRdma 0

/-- Whether a request came by a queue pair. -/
def Req.ofQp (r : Req) (qp : Nat) : Bool := match r.origin with | .qwp k _ => k == qp | _ => false

/-- An instance whose RDMA WRITEs can no longer be acknowledged: its slots' status is LINK_FAILED (R249). -/
def Inst.linkLost (x : Inst) : Inst :=
  { x with result := x.result.map (fun (r : Status × Cpl) => if r.1 = .ok || r.1 = .okDegraded then (.okPartial, r.2) else r) }

/-- The responses of a queue pair that wait in egress queues, with the slots of their requests. -/
def State.unsent (s : State) (qp : Nat) : Nat :=
  (s.txqs.map (fun (t : Nat × TxQ) => t.2.frames.countP (fun f => f.slot && f.qp == some qp))).sum

/-- Steps 1 to 5 of R350 and the event: what is not started is discarded, what is queued leaves unsent, and work that waits
for the pair's acknowledgements ends (log entry 99). -/
def State.qpStop (s : State) (qp cause : Nat) : State :=
  let q := s.qps.getD qp {}
  let gone := s.reqs.countP (fun (x : Nat × Req) => x.2.ofQp qp && x.2.phase == .fetched) + s.unsent qp
  let waiting : List (Nat × Status × Cpl) := s.reqs.filterMap (fun (x : Nat × Req) => match x.2.wait with | .acks k st c => if k = qp then some (x.1, st, c) else none | _ => none)
  let ids := q.outstanding.filterMap (fun o => if o.rid ≥ 2 ^ 48 && o.kind = 1 then some (o.rid - 2 ^ 48) else none)
  let s := { s with
    reqs := s.reqs.filter (fun (x : Nat × Req) => !(x.2.ofQp qp && x.2.phase == .fetched))
    qps := s.qps.set qp { q with state := .error, outstanding := [], inWrite := none, unacked := 0, admitted := q.admitted - gone }
    qwpAdmitted := s.qwpAdmitted - gone
    txqs := s.txqs.map (fun (t : Nat × TxQ) => (t.1, { t.2 with frames := t.2.frames.filter (fun f => f.qp != some qp) }))
    insts := s.insts.map (fun (x : Nat × Inst) => if ids.contains x.1 then (x.1, x.2.linkLost) else x) }
  let s := waiting.foldl (fun (s : State) (w : Nat × Status × Cpl) =>
    s.complete w.1 (if w.2.1 = .ok || w.2.1 = .okPartial || w.2.1 = .okDegraded then .linkFailed else w.2.1) w.2.2) s
  s.rdmaAsync qp cause

/-! ### Buffers -/

/-- How a read of a buffer that a request names ends (R56, R407, R437). -/
inductive BufRead
  | ok (bs : Bytes)
  | fail (st : Status)
  deriving DecidableEq, Repr

/-- The number of the key pair in force for a request (R435): the previous pair below the start sequence (log entry 28). -/
def State.chmEpoch (s : State) (r : Req) : Nat :=
  let chm := s.chms.getD r.part {}
  if !r.event && r.ringSeq < chm.start then chm.prevEpoch.getD chm.epoch else chm.epoch

/-- The nonce of a buffer (R436). -/
def chmNonce (ring kind role seq : Nat) : Bytes := leBytes 2 ring ++ leBytes 1 kind ++ leBytes 1 role ++ leBytes 8 seq

def Origin.ringNo : Origin → Nat
  | .ring q => q
  | _ => 0

/-- The origin queue of a forwarded request and its kind in one number: a queue pair's is 2^15 higher (R388). -/
def Origin.queueCode : Origin → Nat
  | .ring q => q
  | .qwp qp _ => 2 ^ 15 + qp
  | .fwd _ queue _ => queue

/-- Whether a range lies in the region that a QWP request names for it, with an access bit (0: none asked), or the request
names no region (R353, R360). -/
def State.regionOk (s : State) (mr : Option Nat) (part access addr n : Nat) : Bool :=
  match mr with
  | none => true
  | some k => match s.mrs.get? (k / 256) with
    | some m => m.state != .free && m.key == BitVec.ofNat 8 (k % 256) && m.partition == part && m.base ≤ addr
        && addr + n ≤ m.base + m.length && (access == 0 || bit m.access access)
    | none => false

/-- Whether the destination of a request takes a range (R360; log entry 105). -/
def State.dstOk (s : State) (r : Req) (addr n : Nat) : Bool := s.regionOk r.dstMr r.part 2 addr n

/-- `n` bytes of a source buffer of a request, with its role (R436): a failed read is LINK_FAILED and a poisoned one
POISONED (R56); in confidential host mode the bytes are decrypted and their tag checked (R437). -/
def State.bufRead (s : State) (r : Req) (role addr n : Nat) : BufRead :=
  let a := memKey r.srcSpace addr
  if !s.regionOk r.srcMr r.part 0 addr n then .fail .accessDenied
  else match s.busRead a n with
  | .failed => .fail .linkFailed
  | .poisoned => .fail .poisoned
  | .ok bs =>
    if s.chmBuf r r.srcSpace then
      let nonce := chmNonce r.origin.ringNo (2 + 2 * b2n r.event) role r.ringSeq
      let key := chmKey r.part (s.chmEpoch r) 0
      match s.busRead (a + roundUp n 64) 16 with
      | .failed => .fail .linkFailed
      | .poisoned => .fail .poisoned
      | .ok tag => if tag = gcmTag key nonce [] bs then .ok (gcmBytes key nonce bs) else .fail .accessDenied
    else .ok bs

/-- A request whose source could not be read completes (R56); a tag that failed in confidential host mode is counted and
reported (R446). -/
def State.noteTag (s : State) (r : Req) (st : Status) : State :=
  if st = .accessDenied && s.chmBuf r r.srcSpace then (s.bump F.SEC_TAG_FAIL_COUNT).security 3 r.part else s

def State.failRead (s : State) (rid : Nat) (st : Status) : State :=
  match s.req? rid with
  | some r =>
    let s := match r.origin with
      | .qwp qp _ => if st = Status.linkFailed && r.srcSpace = qp + 1 && (s.qps.getD qp {}).state == QpState.rts then s.qpStop qp 4 else s
      | _ => s
    (s.noteTag r st).complete rid st
  | none => s

/-- The token identifiers of a request: those that follow a QWP descriptor, or a source buffer (R359). -/
def State.tokenRead (s : State) (r : Req) (addr n : Nat) : BufRead :=
  match r.inlineTokens with
  | some bs => .ok (bs.take n)
  | none => s.bufRead r 1 addr n

/-- Data sent by RDMA WRITE on a queue pair, in packets of the path MTU (R347, R356). -/
def State.rdmaSend (s : State) (qp rid rkey addr : Nat) (bs : Bytes) : State :=
  let q := s.qps.getD qp {}
  ((List.range (max 1 (ceilDiv bs.length q.mtu))).map (fun i => (i, (bs.drop (i * q.mtu)).take q.mtu))).foldl
    (fun (s : State) (x : Nat × Bytes) =>
      s.qpSend qp 1 rid (q.frameLen x.2.length (if x.1 = 0 then 16 else 0))
        (fun psn => .rdmaWrite qp psn rkey (addr + x.1 * q.mtu) x.2)) s

/-- Bytes written to a destination buffer of a request, with its role (R84, R360, R391): an executor sends them to the
origin in DATA frames; in confidential host mode they are encrypted and tagged (R437), unless the role is a map record, which
is only tagged. The 64-byte lines listed carry poison. `rid` is whoever waits for the acknowledgement of an RDMA WRITE. -/
def State.bufWrite (s : State) (r : Req) (role addr : Nat) (bs : Bytes) (lines : List Nat := []) (rid : Nat := 0) : State :=
  if r.mute then s
  else match r.origin with
  | .fwd pos _ num => s.ringSend pos 2 num r.part ([addr, role, bs.length, leNat bs] ++ lines) bs.length
  | _ =>
    let a := memKey r.dstSpace addr
    let s :=
      if s.chmBuf r r.dstSpace then
        let nonce := chmNonce r.origin.ringNo (3 + 2 * b2n r.event) role r.ringSeq
        let key := chmKey r.part (s.chmEpoch r) 0
        let ct := if role = 8 then bs else gcmBytes key nonce bs
        (s.busWrite a ct).busWrite (a + roundUp bs.length 64) (if role = 8 then gcmTag key nonce bs [] else gcmTag key nonce [] ct)
      else s.busWrite a bs
    match r.dstSpace with
    | 0 => lines.foldl (fun s n => if n * 64 < bs.length then s.poisonRange (addr + n * 64) 1 else s) (s.hostFrame r.part bs.length)
    | sp + 1 => s.rdmaSend sp rid r.dstRkey addr bs

/-- The zero-length flush read after data written to accelerator memory (R84): whether it ends well (log entry 40). -/
def State.flushOk (s : State) (space addr : Nat) : Bool := !s.rangeFails (memKey space addr) 1

end Sys2Proof.Machine
end

