-- ==== Sys2Proof/Machine/Beat.lean ====
section
/-! DEFINITION. The beat (R76, R217 to R227): the tracker of each domain, positions and their times, and the commands of the
beat's own events. -/

namespace Sys2Proof.Machine

open Sys2Proof

/-- Tracker states (R250). -/
def bOff : Nat := 0
def bAcquiring : Nat := 1
def bLocked : Nat := 2
def bLost : Nat := 3

def State.beat (s : State) (n : Nat) : Beat := s.beats.getD n {}
def State.setBeat (s : State) (n : Nat) (b : Beat) : State := { s with beats := s.beats.set n b }
def State.layersOf (s : State) (n : Nat) : Nat := s.get F.BEAT_CFG_LAYERS n
def State.beatSource (s : State) (n : Nat) : Nat := s.get F.BEAT_CFG_SOURCE n

/-- Intervals and gaps that the means take (R222). -/
def State.beatAvg (s : State) (n : Nat) : Nat := 2 ^ s.get F.BEAT_CFG_AVG_LOG2 n

/-- The mean of the newest `n` of a list, rounded down (R226). -/
def meanOf (n : Nat) (xs : List Nat) : Nat := (xs.take n).sum / max 1 (xs.take n).length

/-- The domain of a partition, where it is bound (R221). -/
def State.boundDomain (s : State) (p : Nat) : Option Nat :=
  if s.on F.PART_BEAT_CFG_BOUND p then some (s.get F.PART_BEAT_CFG_DOMAIN p) else none

/-! ### Positions (R225, R226) -/

/-- A position from its parts. -/
def mkPos (step layer phase : Nat) : Nat := step % 2 ^ 32 * 2 ^ 32 + layer * 2 ^ 20 + phase * 2 ^ 10
def posStep (p : Nat) : Nat := p / 2 ^ 32
def posLayer (p : Nat) : Nat := bits p 31 20
def posPhase (p : Nat) : Nat := bits p 19 10

/-- The phase of a domain now; before a period is known the spec gives no phase (log entry 4). -/
def State.beatPhase (s : State) (b : Beat) : Nat :=
  if b.period = 0 then Config.freeNat s.freeCtr % 1024 else min 1023 ((s.time - b.last) * 1024 / b.period)

/-- The current position of a domain; zero while it is OFF (log entry 74). -/
def State.beatPos (s : State) (n : Nat) : Nat :=
  let b := s.beat n
  if b.state = bOff then 0 else mkPos b.step b.layer (s.beatPhase b)

/-- The step gap in use: the period until the first gap is measured (R222). -/
def Beat.gapUsed (b : Beat) : Nat := if b.gapCount = 0 then b.period else b.gap

/-- The estimated time of a position that is not earlier than the current layer (R226). -/
def Beat.estimate (b : Beat) (layers pos : Nat) : Nat :=
  let (s', l', f) := (posStep pos, posLayer pos, posPhase pos)
  if s' = b.step then b.last + (l' - b.layer) * b.period + f * b.period / 1024
  else b.last + (layers - 1 - b.layer) * b.period + b.gapUsed
    + (s' - b.step - 1) * (b.gapUsed + (layers - 1) * b.period) + l' * b.period + f * b.period / 1024

/-- Whether a position has passed (R226). -/
def State.posPassed (s : State) (n pos : Nat) : Bool :=
  pos ≤ s.beatPos n || (s.beat n).estimate (s.layersOf n) pos ≤ s.time

/-- The time of a position as it is estimated now; a position before the current layer lies before now. -/
def State.posTime (s : State) (n pos : Nat) : Nat :=
  let b := s.beat n
  if posStep pos < b.step || (posStep pos = b.step && posLayer pos < b.layer) then b.last
  else b.estimate (s.layersOf n) pos

/-- The step nearest a step whose low 10 bits are given; of two equally near, the later (R76). -/
def nearStep (cur low : Nat) : Nat :=
  let d := (low + 1024 - cur % 1024) % 1024
  if d ≤ 512 || cur + d < 1024 then cur + d else cur + d - 1024

/-- The position that a deadline field names in a domain (R76; log entry 74). -/
def State.resolvePos (s : State) (n field : Nat) : Nat :=
  mkPos (nearStep (s.beat n).step (field % 1024)) (bits field 31 20) (bits field 19 10)

/-- The deadline time of a timed request (R227), re-estimated with every layer start. -/
def State.deadlineTime? (s : State) (r : Req) : Option Nat :=
  match r.deadline, r.beatDom with
  | some pos, some n => if (s.beat n).state = bOff || (s.beat n).state = bAcquiring then none else some (s.posTime n pos)
  | _, _ => none

/-- The commit point of a timed request (R245). -/
def State.commitTime? (s : State) (r : Req) : Option Nat :=
  (s.deadlineTime? r).map (fun t => t - s.get F.SCHED_CFG_MARGIN_NS)

/-! ### The tracker (R222, R223) -/

/-- Beat-related work of a domain in progress marked beat_lost (R82, R224). -/
def State.markLost (s : State) (n : Nat) : State :=
  { s with
    reqs := s.reqs.map (fun x => if x.2.beatDom = some n then (x.1, { x.2 with beatLost := true }) else x)
    insts := s.insts.map (fun x => if x.2.dom = n then (x.1, { x.2 with beatLost := true }) else x) }

/-- Entry into LOST. -/
def State.enterLost (s : State) (n : Nat) : State :=
  let s := s.setBeat n { s.beat n with state := bLost, goodRun := 0 }
  ((s.markLost n).bump F.BEAT_COUNTS_LOST 1 n).raise gBeat n

/-- An accepted layer start at a time, with its sync (R222). -/
def State.layerStart (s : State) (n t : Nat) (sync : Bool) : State :=
  let b := s.beat n
  let layers := s.layersOf n
  let avg := s.beatAvg n
  let first := b.state == bOff
  let toZero := first || (s.on F.BEAT_CFG_SYNC_EN n && sync) || b.layer + 1 == layers
  let iv := t - b.last
  let inBand := decide (4 * iv ≥ 3 * b.period) && decide (4 * iv ≤ 5 * b.period)
  let s := if !first && !toZero && b.state == bLocked && !inBand then s.enterLost n else s
  let b := s.beat n
  let was := b.state
  let b : Beat :=
    if !first && !toZero then
      let run := if b.state = bLost then (if inBand then b.goodRun + 1 else 0) else b.goodRun
      let ivs := (iv :: b.intervals).take avg
      let pushed := b.pushed + 1
      let st := if b.state = bAcquiring && pushed ≥ avg then bLocked
        else if b.state = bLost && run ≥ avg then bLocked else b.state
      { b with goodRun := run, intervals := ivs, pushed := pushed, state := st
               period := if st != bLost && pushed ≥ avg then meanOf avg ivs else b.period }
    else if !first then
      let gs := (iv :: b.gaps).take avg
      { b with gaps := gs, gap := meanOf avg gs, gapCount := b.gapCount + 1 }
    else b
  let slip := toZero && !first && b.layer + 1 != layers
  let b : Beat :=
    if toZero then { b with step := if first then 0 else (b.step + 1) % 2 ^ 32, layer := 0 } else { b with layer := b.layer + 1 }
  let b : Beat := { b with state := if first then bAcquiring else b.state, last := t }
  let s := s.setBeat n b
  let s := if slip then (s.bump F.BEAT_COUNTS_SLIPS 1 n).raise gBeat n else s
  if was = bLost && b.state = bLocked then s.raise gBeat n else s

/-- Whether a layer start at a time is a glitch (R218): too soon after the last one that the source gave. -/
def State.isGlitch (s : State) (n t : Nat) : Bool :=
  match (s.beat n).accepted with
  | some a => t < a + max 1 (s.get F.BEAT_CFG_MIN_US n) * 1000
  | none => false

/-- Whether this device is the master of a ring it has joined. -/
def State.isMaster (s : State) : Bool := s.get F.RING_STATUS_STATE == 3 && s.get F.RING_STATUS_ROLE == 1

/-- A layer start taken by the tracker. -/
def State.takeStart (s : State) (n t : Nat) (sync : Bool) : State :=
  let s := s.layerStart n t sync
  s.setBeat n { s.beat n with accepted := some t }

/-- A layer start of a domain's source: a glitch is counted and ignored; the ring's master passes an accepted one on as a BEAT
frame (R398). -/
def State.sourceStart (s : State) (n t : Nat) (sync : Bool) : State :=
  if s.isGlitch n t then s.bump F.BEAT_COUNTS_GLITCHES 1 n
  else
    let s := s.takeStart n t sync
    if s.isMaster && (s.beatSource n = 1 || s.beatSource n = 2) then s.ringCast 9 0 [n, b2n sync, t, s.layersOf n] else s

/-- The tracker of a domain restarted in OFF (R224); timed requests of the domain run on as untimed. -/
def State.restartBeat (s : State) (n : Nat) : State :=
  let s := s.markLost n
  { s.setBeat n {} with reqs := s.reqs.map (fun x => if x.2.beatDom = some n then (x.1, { x.2 with deadline := none }) else x) }

/-! ### The beat's own events -/

/-- A positive crossing of a BEATn pair, with the level of its sync (R218). -/
def effBeatPinEdge (s : State) (n : Nat) (sync : Bool) : State :=
  if n ≥ 4 || s.beatSource n != 1 || s.layersOf n = 0 || !s.dieWorks 0 then s else s.sourceStart n s.time sync

def execBeatPinEdge (e : Env) (domain : Nat) (sync : Bool) (s : State) : Host.Outcome State Fault Refusal :=
  .next (effBeatPinEdge (s.enter e) domain sync)

/-- A BEAT frame of the ring master, with its timestamp and the layers of its domain (R220, R398): the master's layer starts are
followed without a glitch rule of the member's own; a member whose LAYERS
differs enters LOST at the first layer start that it receives. -/
def effBeatFrame (s : State) (n t layers : Nat) (sync : Bool) : State :=
  if n ≥ 4 || s.beatSource n != 3 || s.layersOf n = 0 || !(s.get F.RING_STATUS_STATE == 3) || s.isMaster then s
  else
    let first := (s.beat n).state == bOff
    let s := s.takeStart n t sync
    if first && layers != s.layersOf n then s.enterLost n else s

def execBeatFrame (e : Env) (domain time layers : Nat) (sync : Bool) (s : State) : Host.Outcome State Fault Refusal :=
  .next (effBeatFrame (s.enter e) domain time layers sync)

/-- No layer start for 2.25 periods puts a LOCKED domain into LOST, but for the last layer of a step (R223). -/
def effBeatLostTimeout (s : State) (n : Nat) : State :=
  let b := s.beat n
  if b.state = bLocked && b.layer + 1 != s.layersOf n && 4 * (s.time - b.last) ≥ 9 * b.period then s.enterLost n else s

def execBeatLostTimeout (e : Env) (domain : Nat) (s : State) : Host.Outcome State Fault Refusal :=
  .next (effBeatLostTimeout (s.enter e) domain)

/-- A missing layer start of a LOST domain synthesised on the frozen period (R223); it enters no mean and no run. -/
def effBeatSynthLayer (s : State) (n : Nat) : State :=
  let b := s.beat n
  if b.state = bLost && b.layer + 1 != s.layersOf n && b.period != 0 && s.time ≥ b.last + b.period then
    (s.setBeat n { b with layer := b.layer + 1, last := b.last + b.period }).bump F.BEAT_COUNTS_MISSED 1 n
  else s

def execBeatSynthLayer (e : Env) (domain : Nat) (s : State) : Host.Outcome State Fault Refusal :=
  .next (effBeatSynthLayer (s.enter e) domain)

/-- Whether a partition bound to a domain has a schedule slot armed, or an arm or disarm pending (R221, R224). -/
def State.schedBusy (s : State) (p : Nat) : Bool :=
  let x := s.scheds.getD p {}
  x.armed.isSome || x.pend.isSome

/-- A write that changes SOURCE (R224): ignored while a bound partition's schedule is armed or pending. -/
def effBeatSourceChange (s : State) (n src : Nat) : State :=
  if n ≥ 4 || src ≥ 4 || src = s.beatSource n
      || (List.range 128).any (fun p => s.boundDomain p == some n && s.schedBusy p) then s
  else (s.put F.BEAT_CFG_SOURCE src n).restartBeat n

def execBeatSourceChange (e : Env) (domain source : Nat) (s : State) : Host.Outcome State Fault Refusal :=
  .next (effBeatSourceChange (s.enter e) domain source)

/-- BEAT_MARK (R219). -/
def effBeatMark (s : State) (rid : Nat) : State :=
  match s.startedReq? rid [0x50] with
  | none => s
  | some r =>
    let n := r.markDomain
    let own := r.snap.bound == some n && r.snap.markEn
    if s.beatSource n != 2 || (r.part != 0 && !own) then s.complete rid .accessDenied
    else if s.layersOf n = 0 then s.complete rid .ok { result0 := s.beatPos n }
    else if s.isGlitch n r.startTime then
      (s.bump F.BEAT_COUNTS_GLITCHES 1 n).complete rid .ok { result0 := s.beatPos n }
    else
      let s := s.sourceStart n r.startTime r.markSync
      s.complete rid .ok { result0 := mkPos (s.beat n).step (s.beat n).layer 0 }

def execBeatMark (e : Env) (rid : Nat) (s : State) : Host.Outcome State Fault Refusal := .next (effBeatMark (s.enter e) rid)

end Sys2Proof.Machine
end

