-- ==== Sys2Proof/Machine/Codec.lean ====
section
/-! DEFINITION. The codec slice (R157 to R166): byte planes, canonical codes, the container, the raw-store rule, the
stored form of a leaf and its integrity tag, and how poison spreads. -/

namespace Sys2Proof.Machine

open Sys2Proof

/-- The plane of byte `i` of a payload whose key region takes `k` bytes and value region `v` (R159). -/
def planeOf (kf vf k v i : Nat) : Nat :=
  if i < k then (if fmtWidth kf = 16 && i % 2 = 1 then 1 else 0)
  else if i < k + v then (if fmtWidth vf = 16 && (i - k) % 2 = 1 then 3 else 2)
  else 4

/-- The canonical codes of 256 lengths (R161): code and length of each byte value. -/
def canonical (len : List Nat) : List (Nat × Nat) :=
  let tab := (List.range 12).foldl (fun (a : Nat × List (Nat × Nat × Nat)) i =>
    let l := i + 1
    let r := (len.mapIdx (fun b x => (b, x))).foldl (fun (a : Nat × List (Nat × Nat × Nat)) p =>
      if p.2 = l then (a.1 + 1, (p.1, a.1, l) :: a.2) else a) a
    (2 * r.1, r.2)) (0, [])
  (List.range 256).map (fun b => match tab.2.find? (fun e => e.1 == b) with | some e => e.2 | none => (0, 0))

/-- Bits of a code, most significant first. -/
def codeBits (c : Nat × Nat) : List Bool := (List.range c.2).map (fun i => bit c.1 (c.2 - 1 - i))

/-- Bits packed into bytes, bit 0 first (R161). -/
def packBits (bs : List Bool) : Bytes := (chunksOf 8 (bs.length / 8 + 1) bs).map (fun c =>
  BitVec.ofNat 8 (c.foldr (fun b acc => b2n b + 2 * acc) 0))

/-- Each byte of a payload with its plane. -/
def planed (kf vf k v : Nat) (p : Bytes) : List (Nat × Nat) := p.mapIdx (fun i b => (planeOf kf vf k v i, b.toNat))

/-- Items of a list of lines that belong to sub-stream `s` (R162). -/
def subLines {α : Type} (s : Nat) (ls : List α) : List α :=
  (ls.mapIdx (fun i l => (i, l))).filterMap (fun p => if p.1 % 16 = s then some p.2 else none)

/-- The outcome of an encoder (R163): the stored payload before encryption, whether it is raw, and why. -/
structure Encoded where
  bytes : Bytes := []
  raw : Bool := true
  overBudget : Bool := false
  noGain : Bool := false
  deriving DecidableEq, Repr

/-- The container of a payload under five tables of lengths (R162), and the decode clocks d (R163). -/
def container (lens : List (List Nat)) (kf vf k v : Nat) (p : Bytes) : Bytes × Nat :=
  let codes := lens.map canonical
  let lines := (chunksOf 64 (p.length / 64 + 1) (planed kf vf k v p)).map (fun l =>
    l.flatMap (fun x => codeBits ((codes.getD x.1 []).getD x.2 (0, 0))))
  let subs := (List.range 16).map (fun s => subLines s lines)
  let coded := subs.map (fun ls => let b := packBits ls.flatten; padTo (roundUp b.length 16) b)
  let body := coded.flatMap (fun c => leBytes 4 c.length) ++ coded.flatten
  let d := (subs.map (fun ls => (ls.map (fun l => if l.length ≤ 512 then 1 else 2)).sum)).foldl max 0
  (padTo (roundUp body.length 64) body, d)

/-- What an encoder stores for a payload (R163): the null table and COMPRESS_EN 0 store raw. -/
def encodePayload (tab : CodeTable) (compressEn : Bool) (kf vf k v : Nat) (p : Bytes) : Encoded :=
  if tab.isNull || !compressEn then { bytes := p }
  else
    let (c, d) := container tab.lengths kf vf k v p
    let u := p.length
    if d > (u + 767) / 768 then { bytes := p, overBudget := true }
    else if 16 * c.length > 15 * u then { bytes := p, noGain := true }
    else { bytes := c, raw := false }

/-- The XTS tweak of a data unit (R158). -/
def xtsTweak (leaf : Nat) (gen : Epoch) (part u : Nat) : Nat :=
  leaf % 2 ^ 30 + gen.toNat * 2 ^ 30 + part * 2 ^ 38 + u * 2 ^ 48

/-- The number of a partition's leaf key set of an epoch and a DRBG draw (R426, R430). -/
def dataKeyNo (part : Nat) (epoch : Epoch) (draw : Nat) : Nat := 2 ^ 40 + (draw * 128 + part) * 256 + epoch.toNat

/-- A payload encrypted unit by unit of 4,096 bytes under a numbered key (R158). -/
def encryptUnits (key leaf : Nat) (gen : Epoch) (part : Nat) (bs : Bytes) : Bytes :=
  ((chunksOf 4096 (bs.length / 4096 + 1) bs).mapIdx (fun u c => sealBytes key (xtsTweak leaf gen part u) c)).flatten
def decryptUnits (key leaf : Nat) (gen : Epoch) (part : Nat) (bs : Bytes) : Bytes :=
  ((chunksOf 4096 (bs.length / 4096 + 1) bs).mapIdx (fun u c => openBytes key (xtsTweak leaf gen part u) c)).flatten

/-- Header bytes 8 to 63 (R20). -/
def hdrTail (h : LeafHdr) : Bytes :=
  leBytes 1 h.codecEpoch.toNat ++ leBytes 1 h.keyEpoch.toNat ++ leBytes 1 (h.keyFormat + 16 * h.valueFormat)
    ++ leBytes 1 (b2n h.raw + 2 * b2n h.promoted + 4 * b2n h.sink) ++ leBytes 4 h.compressedLength
    ++ leBytes 2 h.tokenCount ++ leBytes 1 h.generation.toNat ++ leBytes 1 h.shapeIndex ++ leBytes 1 h.shapeEpoch.toNat
    ++ leBytes 1 0 ++ leBytes 2 h.layer ++ leBytes 4 h.chunkNumber ++ leBytes 4 h.sequenceIndex ++ leBytes 32 0

/-- The 64 bytes of a leaf header (R20). -/
def hdrBytes (h : LeafHdr) : Bytes := leBytes 8 h.tag ++ hdrTail h

/-- Lines of a decoded payload that a poisoned run of stored bytes poisons (R166): per line in a raw leaf; from the line
it falls in to the end of the sub-stream in a container; every line when the directory is hit. -/
def spreadPoison (raw : Bool) (lens : List (List Nat)) (kf vf k v : Nat) (p : Bytes) (first n : Nat) : List Nat :=
  let nl := p.length / 64
  let all := List.range nl
  let lo := first / 16 * 16
  let hi := roundUp (first + n) 16
  if raw then all.filter (fun l => decide (l * 64 < hi) && decide (lo < l * 64 + 64))
  else if lo < 64 then all
  else
    let codes := lens.map canonical
    let bitsOf := (chunksOf 64 nl (planed kf vf k v p)).map (fun l =>
      (l.map (fun x => ((codes.getD x.1 []).getD x.2 (0, 0)).2)).sum)
    let subs := (List.range 16).map (fun s => (subLines s all).zip (subLines s bitsOf))
    (subs.foldl (fun (a : Nat × List Nat) ls =>
      let len := roundUp (((ls.map (·.2)).sum + 7) / 8) 16
      let hit := decide (a.1 < hi) && decide (lo < a.1 + len)
      let from_ := (lo - a.1) * 8
      let r := ls.foldl (fun (b : Nat × List Nat) l =>
        (b.1 + l.2, if hit && decide (from_ < b.1 + l.2) then l.1 :: b.2 else b.2)) (0, a.2)
      (a.1 + len, r.2)) (64, [])).2

end Sys2Proof.Machine
end

