-- ==== Sys2Proof/Machine/Records.lean ====
section
/-! DEFINITION. The records of leaves, chunks and sequences as bytes (R22, R24, R27, R129). -/

namespace Sys2Proof.Machine

open Sys2Proof

def LeafState.code : LeafState → Nat
  | .free => 0 | .filling => 1 | .sealed => 2 | .migrating => 3 | .evicting => 4 | .poisoned => 5
def Persist.code : Persist → Nat
  | .vol => 0 | .durable => 1 | .pinned => 2
def Tier.code : Tier → Nat
  | .hbm => 0 | .pool => 1 | .flash => 2
def SeqState.code : SeqState → Nat
  | .free => 0 | .openS => 1 | .published => 2 | .retired => 3
def persistOf (n : Nat) : Persist := match n with | 0 => .vol | 1 => .durable | _ => .pinned
def tierOf (n : Nat) : Tier := match n with | 0 => .hbm | 1 => .pool | _ => .flash

/-- The leaf record (R22), given its hold count. -/
def leafRecord (l : Leaf) (holds : Nat) : Bytes :=
  leBytes 1 (l.state.code + 8 * l.persist.code + 32 * l.tier.code + 128 * b2n l.shadowPresent)
    ++ leBytes 1 (l.keyFormat + 16 * l.valueFormat) ++ leBytes 1 l.codecEpoch.toNat ++ leBytes 1 l.keyEpoch.toNat
    ++ leBytes 1 l.generation.toNat ++ leBytes 1 l.pinCount ++ leBytes 2 holds
    ++ leBytes 4 (l.compressedLength + l.dirtyMask * 2 ^ 18 + b2n l.raw * 2 ^ 22 + b2n l.promoted * 2 ^ 23
        + b2n l.rulePin * 2 ^ 24 + b2n l.noStore * 2 ^ 25 + b2n l.noShare * 2 ^ 26 + b2n l.shortTtl * 2 ^ 27
        + l.destTier.code * 2 ^ 30)
    ++ leBytes 2 (l.shapeIndex + 16 * l.layer) ++ leBytes 1 l.ruleClass ++ leBytes 1 l.partition
    ++ leBytes 4 l.location ++ leBytes 4 l.destLocation ++ leBytes 4 l.ownerSequence ++ leBytes 4 l.refCount

/-- Bytes 16 to 31 of a chunk record, with the sequence index given (R24, R337). -/
def chunkMeta (c : Chunk) (seqIndex : Nat) : Bytes :=
  leBytes 4 c.number ++ leBytes 2 c.tokenCount
    ++ leBytes 1 (b2n c.published + 2 * b2n c.acts.noStore + 4 * b2n c.acts.noShare + 8 * b2n c.acts.pin
        + 16 * b2n c.acts.shortTtl)
    ++ leBytes 1 c.acts.ruleClass ++ leBytes 2 (c.layerCount + c.shapeIndex * 2 ^ 12) ++ leBytes 1 c.shapeEpoch.toNat
    ++ leBytes 1 c.ruleSetEpoch.toNat ++ leBytes 4 seqIndex

/-- The chunk record (R24). -/
def chunkRecord (c : Chunk) : Bytes :=
  let b := leBytes 16 c.hash ++ chunkMeta c c.sequenceIndex ++ c.leaves.flatMap (leBytes 4)
  padTo (roundUp b.length 16) b

/-- The size of a chunk record (R24). -/
def chunkSize (layers : Nat) : Nat := roundUp (32 + 4 * layers) 16

/-- The sequence record (R27), given the address of its chunk table. -/
def seqRecord (q : Sequ) (tableAddr : Nat) : Bytes :=
  leBytes 1 (q.state.code + 4 * q.persist.code + 16 * q.shapeIndex) ++ leBytes 1 q.shapeEpoch.toNat
    ++ leBytes 1 q.ruleSetEpoch.toNat ++ leBytes 1 q.generation.toNat
    ++ leBytes 4 (q.holderIndex + q.holderPosition * 2 ^ 16 + q.holderKind * 2 ^ 20) ++ leBytes 8 q.leaseExpiry
    ++ leBytes 4 q.publishedChunks ++ leBytes 4 q.totalChunks ++ leBytes 2 q.openTokens ++ leBytes 2 q.adapterId
    ++ leBytes 1 q.tierHints ++ leBytes 1 q.shareGroup ++ leBytes 2 0 ++ leBytes 8 tableAddr ++ leBytes 16 q.lastHash
    ++ leBytes 8 0

/-- The placement record (R272). -/
def placeRecord (p : Place) : Bytes :=
  leBytes 3 p.lastTick ++ leBytes 1 p.heat ++ leBytes 1 p.hints
    ++ leBytes 3 (p.shadowSlot + b2n p.shadowUpper * 2 ^ 21 + b2n p.shadowWhole * 2 ^ 22)

/-- A summary block (R203): one scale and one row of cells for each KV head, each row in lines of 128 cells of 4 bits. -/
def summaryRecord (x : Summary) : Bytes :=
  let h := x.scales.length
  let d := x.cells.length / max 1 h
  let span := if d ≤ 128 then 1 else 2
  let row (k : Nat) : Bytes := padTo (64 * span) (packElems 4 (((x.cells.drop (k * d)).take d).map (fun c => (c % 16).toNat)))
  padTo (ceilDiv (16 + 2 * h) 64 * 64)
    (leBytes 1 x.generation.toNat ++ leBytes 1 (b2n x.valid) ++ leBytes 2 x.tokenCount ++ leBytes 12 0 ++ x.scales.flatMap (leBytes 2))
    ++ (List.range h).flatMap row

/-- A root-index entry in use (R105). -/
def rootRecord (e : RootEntry) : Bytes :=
  leBytes 16 e.hash ++ leBytes 4 (e.seqIndex + e.ringPos * 2 ^ 28) ++ leBytes 4 e.chunkNumber ++ leBytes 1 (e.partition + 128)
    ++ leBytes 1 e.generation.toNat ++ leBytes 2 e.adapterId ++ leBytes 1 e.priority ++ leBytes 1 e.shapeIndex ++ leBytes 1 e.ctxTag
    ++ leBytes 1 0

/-- The units of a Canopy entry (R95): the cells of a prefix entry; of a classification entry the key and then the mask. -/
def CanopyEntry.unitBytes (e : CanopyEntry) (units : Nat) : Bytes :=
  if e.kind = .rule then leBytes 16 e.value ++ leBytes 16 e.care else leBytes (8 * units) e.value

/-- The two parity bits of a unit, one over each half of 32 bits (R93). -/
def unitParity (unit : Bytes) : Bool × Bool :=
  let par (v : Nat) : Bool := ((List.range 32).countP (bit v)) % 2 == 1
  (par (fieldAt unit 0 4), par (fieldAt unit 4 4))

/-- The associated record of a Canopy entry (R97). -/
def CanopyEntry.record (e : CanopyEntry) : Bytes :=
  leBytes 8 (e.pointer % 2 ^ 40) ++ leBytes 1 e.priority ++ leBytes 1 (1 + 2 * b2n (e.kind == .rule)) ++ leBytes 2 e.hits ++ leBytes 4 0

/-- The lengths of a plane in a code-table record: 4 bits each. -/
def lengthBytes (len : List Nat) : Bytes :=
  (List.range 128).map (fun i => BitVec.ofNat 8 (len.getD (2 * i) 0 + 16 * len.getD (2 * i + 1) 0))

/-- A code-table record (R160). -/
def tableRecord (t : CodeTable) (epoch : Epoch) (f slot : Nat) : Bytes :=
  padTo 1024 (padTo 64 (leBytes 1 epoch.toNat ++ leBytes 1 (1 + 2 * b2n t.isNull) ++ leBytes 1 (f + 16 * slot) ++ leBytes 1 0
    ++ leBytes 4 t.sampled ++ leBytes 8 t.trainedTime) ++ (List.range 5).flatMap (fun q => lengthBytes (t.lengths.getD q [])))

/-- The five tables of lengths of a code-table record. -/
def tableLengths (b : Bytes) : List (List Nat) :=
  (List.range 5).map (fun q => (List.range 256).map (fun v =>
    let x := fieldAt b (64 + 128 * q + v / 2) 1
    if v % 2 = 0 then x % 16 else x / 16))

/-- A slot of a code table in the area of R160; one that holds no table is not valid. -/
def slotRecord (x : Slot CodeTable) (f shape : Nat) : Bytes :=
  if x.loaded then tableRecord x.body x.epoch f shape else padTo 1024 []

/-- The scan state (R129). -/
def scanBytes (sc : Scan) : Bytes :=
  leBytes 2 sc.st ++ leBytes 1 (b2n sc.fPin + 2 * b2n sc.fNoStore + 4 * b2n sc.fNoShare + 8 * b2n sc.fShortTtl)
    ++ leBytes 1 sc.cls ++ leBytes 4 0

/-! ### Two-slot tables (R51) -/

/-- The slot that holds the current epoch. -/
def Slots.current? {α : Type} (t : Slots α) : Option (Slot α) :=
  match t.cur with
  | some false => some t.a
  | some true => some t.b
  | none => none

/-- The slot that does not hold the current epoch, into which a load goes. -/
def Slots.other {α : Type} (t : Slots α) : Slot α :=
  match t.cur with
  | some false => t.b
  | _ => t.a

/-- The current epoch, 0 where nothing is current. -/
def Slots.epoch {α : Type} (t : Slots α) : Epoch :=
  match t.current? with
  | some s => s.epoch
  | none => 0

/-- A load into the other slot under the current epoch plus 1. -/
def Slots.load {α : Type} (t : Slots α) (body : α) : Slots α :=
  let e : Epoch := t.epoch + 1
  match t.cur with
  | some false => { t with b := { loaded := true, epoch := e, body := body } }
  | _ => { t with a := { loaded := true, epoch := e, body := body } }

/-- The switch to the other slot. -/
def Slots.switch {α : Type} (t : Slots α) : Slots α :=
  match t.cur with
  | some false => { t with cur := some true }
  | _ => { t with cur := some false }

/-- The body of the loaded slot that carries an epoch. -/
def Slots.find {α : Type} (t : Slots α) (e : Epoch) : Option α :=
  if t.a.loaded && t.a.epoch == e then some t.a.body
  else if t.b.loaded && t.b.epoch == e then some t.b.body
  else none

end Sys2Proof.Machine
end

