-- ==== Sys2Proof/Machine/Store.lean ====
section
/-! DEFINITION. The store: leaf indices and their holds (R16 to R26, R33), sequences, shape records, codec scopes, and the
stored form of a copy. -/

namespace Sys2Proof.Machine

open Sys2Proof

/-! ### Choices that the spec leaves to the device -/

/-- An index below `bound` that is not in use, whichever the device takes (log entry 5). -/
def State.pick (s : State) (used : Nat → Bool) (bound : Nat) : Option Nat × State :=
  let start := s.free.1 % max bound 1
  (match firstFree (fun k => used ((start + k) % bound)) bound 0 with
   | some k => some ((start + k) % bound)
   | none => none, s.free.2)

/-! ### Leaves and sequences -/

def State.leaf (s : State) (i : Nat) : Leaf := s.leaves.getD i {}
def State.setLeaf (s : State) (i : Nat) (l : Leaf) : State := { s with leaves := s.leaves.set i l }
def State.seq (s : State) (i : Nat) : Sequ := s.seqs.getD i {}
def State.setSeq (s : State) (i : Nat) (q : Sequ) : State := { s with seqs := s.seqs.set i q }

/-- Whether a copy serves no read well: it is poisoned or fails its tag. -/
def Copy.spoilt (c : Copy) : Bool := c.poison != [] || c.tagBad

/-- The primary copy (R266): the durable copy when the tier is flash. -/
def Leaf.primary (l : Leaf) : Option Copy := if l.tier = .flash then l.durable else l.cur

/-- The hold count of a leaf index (R22, R23). -/
def State.holdCount (s : State) (i : Nat) : Nat := s.holds.countP (fun h => h.leaf == i)

/-- The holds on one copy. -/
def State.copyHolds (s : State) (i cid : Nat) : Nat := s.holds.countP (fun h => h.leaf == i && h.cid == cid)

/-- Leaf indices of the directory (R288). -/
def State.dirSize (s : State) : Nat := 2 ^ s.get F.TIER_DIR_CFG_LOG2_LEAVES

/-- Whether a leaf index is out of FREE or withheld after a store recovery (R528, R421). -/
def State.leafUsed (s : State) (i : Nat) : Bool := (s.leaf i).state != .free || (s.leaf i).withheld

/-- A number for a new copy, by which holds name it (log entry 43). -/
def State.newCid (s : State) : Nat × State := (s.nextCid, { s with nextCid := s.nextCid + 1 })

/-- The handle of a sequence of this device (R16, R17). -/
def State.seqHandle (s : State) (i : Nat) : Nat := mkHandle (s.seq i).partition s.pos (s.seq i).generation i

/-- The handle of a leaf of this device. -/
def State.leafHandle (s : State) (i : Nat) : Nat := mkHandle (s.leaf i).partition s.pos (s.leaf i).generation i

/-- The present tick of 2^28 ns (R272). -/
def State.tick (s : State) : Nat := s.time / 2 ^ 28 % 2 ^ 24

/-! ### Shape records (R28, R51) -/

def State.shapeSlots (s : State) (p slot : Nat) : Slots Bytes :=
  s.shapes.getD (p * 16 + slot) { a := { body := [] }, b := { body := [] } }

/-- The shape record that is current in a slot. -/
def State.shapeNow? (s : State) (p slot : Nat) : Option (Slot Bytes) := (s.shapeSlots p slot).current?

/-- The shape record of a slot and an epoch; the empty record where none is loaded. -/
def State.shapeAt (s : State) (p slot : Nat) (e : Epoch) : Bytes := ((s.shapeSlots p slot).find e).getD []

/-- The shape record of a sequence (R27). -/
def State.seqShape (s : State) (q : Sequ) : Bytes := s.shapeAt q.partition q.shapeIndex q.shapeEpoch

/-! ### Codec scopes (R51, R167) -/

def scopeKey (p slot f : Nat) : Nat := (p * 16 + slot) * 16 + f

/-- A scope; a partition starts with the null table at epoch 0. -/
def State.scope (s : State) (k : Nat) : CodecScope :=
  s.scopes.getD k { slots := { cur := some false, a := { loaded := true, body := {} }, b := { body := {} } } }

/-- The code table of a scope and an epoch. -/
def State.codeTable (s : State) (k : Nat) (e : Epoch) : CodeTable := ((s.scope k).slots.find e).getD {}

/-- The current key epoch of a partition (R431). -/
def State.keyEpoch (s : State) (p : Nat) : Epoch := BitVec.ofNat 8 (s.get F.PART_KEY_STATUS_CURRENT_EPOCH p)

/-! ### The stored form of a copy (R157 to R163) -/

/-- The element regions of a payload. -/
def regionLens (sh : Bytes) (kf vf : Nat) : Nat × Nat :=
  let n := shHeads sh * shTpl sh * shDim sh
  (regionSize kf n, regionSize vf n)

/-- The stored payload of a copy before encryption: raw, or the container under the table of its codec epoch. -/
def State.plainStored (s : State) (l : Leaf) (c : Copy) : Bytes :=
  if c.hdr.raw then c.payload
  else
    let sh := s.shapeAt l.partition c.hdr.shapeIndex c.hdr.shapeEpoch
    let r := regionLens sh c.hdr.keyFormat c.hdr.valueFormat
    let tab := s.codeTable (scopeKey l.partition c.hdr.shapeIndex c.hdr.keyFormat) c.hdr.codecEpoch
    (container tab.lengths c.hdr.keyFormat c.hdr.valueFormat r.1 r.2 c.payload).1

/-- The leaf key set of a partition under a key epoch. -/
def State.leafKey (s : State) (p : Nat) (e : Epoch) : Nat := Config.keySet (dataKeyNo p e ((s.parts.getD p {}).keys.getD e.toNat 0))

/-- The stored payload of a copy as the tiers hold it. -/
def State.storedPayload (s : State) (i : Nat) (l : Leaf) (c : Copy) : Bytes :=
  encryptUnits (s.leafKey l.partition c.hdr.keyEpoch) i c.hdr.generation l.partition (s.plainStored l c)

/-- The integrity tag over a tweak, a header and a stored payload (R20, R427). -/
def leafTag (key leaf part : Nat) (h : LeafHdr) (stored : Bytes) : Nat :=
  (tag64 key (leBytes 16 (xtsTweak leaf h.generation part 0) ++ hdrTail h ++ stored)).toNat

/-- A payload encoded now: under the current table and the current key epoch (R157, R167), with the counters of R171. -/
def State.encodeCopy (s : State) (i : Nat) (l : Leaf) (h : LeafHdr) (payload : Bytes) : Copy × State :=
  let p := l.partition
  let k := scopeKey p h.shapeIndex h.keyFormat
  let tab := ((s.scope k).slots.current?).getD { body := {} }
  let sh := s.shapeAt p h.shapeIndex h.shapeEpoch
  let r := regionLens sh h.keyFormat h.valueFormat
  let e := encodePayload tab.body (s.on F.CODEC_CFG_COMPRESS_EN) h.keyFormat h.valueFormat r.1 r.2 payload
  let h : LeafHdr := { h with
    codecEpoch := tab.epoch, keyEpoch := s.keyEpoch p, raw := e.raw, compressedLength := e.bytes.length }
  let h := { h with tag := leafTag (s.leafKey p h.keyEpoch) i p h (encryptUnits (s.leafKey p h.keyEpoch) i h.generation p e.bytes) }
  let s := s.bump F.CODEC_ENCODED_COUNT
  let s := if e.overBudget then s.bump F.CODEC_RAW_BUDGET_COUNT
    else if e.noGain then s.bump F.CODEC_RAW_GAIN_COUNT else s
  let (cid, s) := s.newCid
  ({ cid := cid, hdr := h, payload := payload }, s)

/-- The fields of a leaf record that repeat its header (R22). -/
def Leaf.withHdr (l : Leaf) (h : LeafHdr) : Leaf :=
  { l with keyFormat := h.keyFormat, valueFormat := h.valueFormat, codecEpoch := h.codecEpoch, keyEpoch := h.keyEpoch,
           compressedLength := h.compressedLength, raw := h.raw, promoted := h.promoted }

/-- A leaf that the sweep is rewriting in flash: MIGRATING within its own tier until the program commits (R33, R169). -/
def Leaf.rewriting (l : Leaf) : Bool := l.state == .migrating && l.tier == .flash && l.destTier == .flash

/-- The record of a leaf when its rewrite in flash has ended. -/
def Leaf.moved (l : Leaf) : Leaf := if l.rewriting then { l with state := .sealed, destTier := .hbm, destLocation := 0 } else l

/-- The stored bytes of a slot: header, stored payload, zeros (R294). -/
def State.slotBytes (s : State) (i : Nat) (l : Leaf) (c : Copy) : Bytes :=
  hdrBytes c.hdr ++ s.storedPayload i l c

/-- The quarters in which two copies' stored bytes differ, as a mask (R267; log entry 78). -/
def State.diffMask (s : State) (i : Nat) (l : Leaf) (a b : Copy) : Nat :=
  let x := s.slotBytes i l a
  let y := s.slotBytes i l b
  (List.range 4).foldl (fun m q =>
    m + b2n (padTo 65536 (x.drop (q * 65536)) != padTo 65536 (y.drop (q * 65536))) * 2 ^ q) 0

/-- Whether a copy carries the current codec and key epochs (R36). -/
def State.copyCurrent (s : State) (l : Leaf) (c : Copy) : Bool :=
  c.hdr.codecEpoch == (s.scope (scopeKey l.partition c.hdr.shapeIndex c.hdr.keyFormat)).slots.epoch
    && c.hdr.keyEpoch == s.keyEpoch l.partition

/-! ### Users of a codec slot or of an epoch (R51, R167) -/

/-- Every stored copy of a leaf; the shadow is no user of a table. -/
def Leaf.copies (l : Leaf) : List Copy := l.cur.toList ++ l.old ++ l.durable.toList

/-- Leaves that are encoded and not yet stored: sealing with an append, or programmed by a group that has not committed. -/
def State.queuedLeaves (s : State) : List (Nat × Leaf) :=
  s.reqs.flatMap (fun x => match x.2.wait with | .append pl => pl.sealedLeaves | _ => [])
    ++ s.flash.groups.flatMap (fun g => g.2.recs.filterMap (fun r => match r with | .leaf i (some l) => some (i, l) | _ => none))

/-- Whether a copy of a leaf is encoded under an epoch of a codec scope. -/
def codecUse (k : Nat) (e : Epoch) (l : Leaf) (c : Copy) : Bool :=
  scopeKey l.partition c.hdr.shapeIndex c.hdr.keyFormat == k && c.hdr.codecEpoch == e

/-- Users of an epoch of a codec scope (R51, R167): leaves, stored or queued, with a copy under it, each once, and the holds on
copies made under it. -/
def State.codecUsers (s : State) (k : Nat) (e : Epoch) : Nat :=
  let used := (s.leaves.filter (fun x => x.2.state != .filling) ++ s.queuedLeaves).filterMap (fun x =>
    if (x.2.cur.toList ++ x.2.durable.toList).any (codecUse k e x.2) then some x.1 else none)
  used.eraseDups.length + s.holds.countP (fun h =>
    let l := s.leaf h.leaf
    l.state != .filling && l.copies.any (fun c => c.cid == h.cid && codecUse k e l c))

/-- A codec scope whose old slot has no user left: its sweep ends and the CODEC group is raised (R169). -/
def State.endSweep (s : State) (k : Nat) : State :=
  let sc := s.scope k
  let o := sc.slots.other
  if sc.sweeping && (!o.loaded || s.codecUsers k o.epoch = 0) then
    ({ s with scopes := s.scopes.set k { sc with sweeping := false } }).raise gCodec 0
  else s

/-- The end of every sweep whose old slot has lost its last user. -/
def State.endSweeps (s : State) : State := s.scopes.foldl (fun s x => s.endSweep x.1) s

/-- Users of an epoch of a shape slot: sequences not FREE and stored leaves. -/
def State.shapeUsers (s : State) (p slot : Nat) (e : Epoch) : Nat :=
  s.seqs.countP (fun x => x.2.partition == p && x.2.state != .free && x.2.shapeIndex == slot && x.2.shapeEpoch == e)
    + s.leaves.countP (fun x => x.2.partition == p && x.2.state != .free && x.2.copies.any (fun c =>
        c.hdr.shapeIndex == slot && c.hdr.shapeEpoch == e))

/-- Users of an epoch of a partition's rule sets: sequences not FREE. -/
def State.ruleUsers (s : State) (p : Nat) (e : Epoch) : Nat :=
  s.seqs.countP (fun x => x.2.partition == p && x.2.state != .free && x.2.ruleSetEpoch == e)

/-- Users of an epoch of a partition's keys: stored copies and shadows (R431). -/
def State.keyUsers (s : State) (p : Nat) (e : Epoch) : Nat :=
  (s.leaves.map (fun x => if x.2.partition = p && x.2.state != .free && x.2.state != .filling
    then x.2.copies.countP (fun c => c.hdr.keyEpoch == e) + x.2.shadow.toList.countP (fun sh => sh.keyEpoch == e) else 0)).sum

/-! ### Release (R33, R49) -/

/-- A journaled leaf or sequence (R300): a leaf with a durable copy; a sequence that is DURABLE or holds a DURABLE leaf;
the leaves of another partition count as VOLATILE (R26). -/
def Leaf.journaled (l : Leaf) : Bool := l.durable.isSome

def State.seqJournaled (s : State) (q : Sequ) : Bool :=
  q.persist != .vol || q.chunks.any (fun c => c.leaves.any (fun i =>
    (s.leaf i).persist != .vol && (s.leaf i).partition == q.partition))

/-- A journal group opened; it commits by JOURNAL_COMMIT (R301). -/
def State.openGroup (s : State) (g : Group) : Nat × State :=
  let f := s.flash
  (f.nextGroup, { s with flash := { f with groups := f.groups.set f.nextGroup g, nextGroup := f.nextGroup + 1 } })

/-- The journal records of a leaf's release: its record, and no durable copy in any quarter (R300). -/
def releaseRecs (i : Nat) (l : Leaf) : List JRec :=
  .leaf i none :: (l.flashQuarters.mapIdx (fun q pa => JRec.map i q 0xFFFFFFFE pa l.generation false))

/-- A leaf index settled: old copies without holds go (cell d), a releasing shadow without holds goes, an EVICTING leaf
without holds loses its copies and is FREE when no chunk names it, and a POISONED leaf with neither is FREE (R33). The
summary block of a leaf that leaves is no longer valid (R204; log entry 43). -/
def State.settleLeaf (s : State) (i : Nat) : State :=
  let l := s.leaf i
  let holds := s.holdCount i
  let l := { l with old := l.old.filter (fun c => s.copyHolds i c.cid != 0) }
  let l := match l.shadow with
    | some sh => if sh.releasing && s.copyHolds i sh.cid = 0 then { l with shadow := none } else l
    | none => l
  let gone := (l.state = .evicting || (l.state = .poisoned && l.refCount = 0)) && holds = 0
  let s := if gone && l.journaled then (s.openGroup { recs := releaseRecs i l }).2 else s
  if gone then
    if l.refCount = 0 then s.setLeaf i { generation := l.generation, place := l.place, summary := none }
    else s.setLeaf i { l with
      cur := none, old := [], durable := none, shadow := none, shadowPresent := false, flashQuarters := [], summary := none }
  else s.setLeaf i l

/-- A leaf settled, and the sweeps that its copies kept going ended (R169). -/
def State.settle (s : State) (i : Nat) : State := (s.settleLeaf i).endSweeps

/-- The shadow of a leaf released (R286): shadow_present clears, the space goes at its last hold. -/
def Leaf.dropShadow (l : Leaf) : Leaf :=
  { l with shadowPresent := false, shadow := l.shadow.map (fun sh => { sh with releasing := true }) }

/-- A LEAF_PIN or LEAF_MIGRATE that waits on a leaf that leaves ends with a status (R31, cell h). -/
def State.endWaiters (s : State) (i : Nat) (st : Status) : State :=
  let pins := s.flash.groups.filterMap (fun g =>
    match g.2.rid with
    | some rid => match s.req? rid with
      | some r => if r.opcode = 0x22 && g.2.recs.any (fun x => match x with | .leaf j _ => j == i | _ => false)
        then some (g.1, rid) else none
      | none => none
    | none => none)
  let migs := s.reqs.filterMap (fun r => match r.2.wait with | .migrate j _ => if j = i then some r.1 else none | _ => none)
  let s := pins.foldl (fun s x => ({ s with flash := { s.flash with groups := s.flash.groups.erase x.1 } }).complete x.2 st) s
  migs.foldl (fun s rid => s.complete rid st) s

/-- A leaf enters EVICTING (R33): a migration in progress ends, its destination freed; the shadow is released. -/
def State.evict (s : State) (i : Nat) : State :=
  let l := s.leaf i
  if l.state = .sealed || l.state = .migrating then
    let s := s.setLeaf i { l.dropShadow with
      state := .evicting, destTier := .hbm, destLocation := 0
      summary := l.summary.map (fun x => { x with valid := false }) }
    (s.endWaiters i .evicted).settle i
  else s

/-- A leaf enters POISONED (R33). -/
def State.poisonLeaf (s : State) (i : Nat) : State :=
  let l := s.leaf i
  if l.state = .free || l.state = .evicting || l.state = .poisoned then s
  else
    let s := s.setLeaf i { l with state := .poisoned, destTier := .hbm, destLocation := 0
                                  summary := l.summary.map (fun x => { x with valid := false }) }
    (s.endWaiters i .poisoned).settle i

/-- A chunk record releases one leaf: its ref_count falls, and at zero the leaf leaves (R33). -/
def State.dropRef (s : State) (i : Nat) : State :=
  let l := s.leaf i
  let s := s.setLeaf i { l with refCount := l.refCount - 1 }
  if l.refCount ≤ 1 then
    match l.state with
    | .filling => s.poisonLeaf i
    | .sealed => s.evict i
    | .migrating => s.evict i
    | _ => s.settle i
  else s

/-- The chunks of a sequence from `n` on dropped (R40): their leaves become POISONED and their records go. -/
def State.dropTail (s : State) (q n : Nat) : State :=
  let sq := s.seq q
  let gone := (sq.chunks.drop n).flatMap (·.leaves)
  let s := s.setSeq q { sq with chunks := sq.chunks.take n, totalChunks := min n sq.totalChunks, openTokens := 0 }
  gone.foldl (fun s i => (s.poisonLeaf i).dropRef i) s

/-! ### Holds (R23) -/

/-- A hold taken on a copy. -/
def State.hold (s : State) (owner leaf cid : Nat) : State :=
  { s with holds := { owner := owner, leaf := leaf, cid := cid } :: s.holds }

/-- One hold of an owner released. -/
def State.unhold (s : State) (owner leaf cid : Nat) : State :=
  ({ s with holds := s.holds.erase { owner := owner, leaf := leaf, cid := cid } }).settle leaf

/-! ### The record area (R504) -/

/-- Granules of 64 bytes in use: two for each sequence record with its scan states, the chunk tables and records, and the
contexts, whose size the spec does not give (log entry 6). -/
def State.recGranules (s : State) : Nat :=
  (s.seqs.map (fun x => if x.2.state = .free then 0
    else 2 + ceilDiv (8 * x.2.chunks.length) 64 + (x.2.chunks.map (fun c => ceilDiv (chunkSize c.layerCount) 64)).sum)).sum
  + (s.ctxs.map (fun x => Config.ctxGranules (x.2.found.length + x.2.rules.length))).sum

/-- Whether the area can give `n` more granules. -/
def State.recRoom (s : State) (n : Nat) : Bool := s.recGranules + n ≤ s.get F.GLB_REC_CFG_GIB * 2 ^ 24

end Sys2Proof.Machine
end

