-- ==== Sys2Proof/Machine/Exts.lean ====
section
/-! DEFINITION. Invocations of an extension (R262, R263): the Saplings that run them, and what one may do. -/

namespace Sys2Proof.Machine

open Sys2Proof

def State.ext (s : State) (p : Nat) : Ext := s.exts.getD p {}
def State.setExt (s : State) (p : Nat) (x : Ext) : State := { s with exts := s.exts.set p x }

/-- The Saplings set aside for extensions in the clusters that are on, without faulted ones (R251, R265; log entry 27). -/
def State.extCores (s : State) : Nat :=
  let cores := s.get F.SAPL_EXT_CFG_CORES
  ((List.range 8).map (fun g => if s.pdOn (48 + g) then
    (List.range cores).countP (fun c => !s.ras.faulted.contains (32 * g + 31 - c)) else 0)).sum

/-- Whether the extension of a partition is enabled with a hook (R261). -/
def State.extHook (s : State) (p hook : Nat) : Bool :=
  let x := s.ext p
  x.state == 3 && bit x.hooks hook

/-- A faulted invocation of a partition's extension: after 3 faults it is disabled (R262). -/
def State.extFault (s : State) (p : Nat) : State :=
  let x := s.ext p
  let n := min 255 (x.faults + 1)
  if n ≥ 3 then (s.setExt p { x with faults := n, state := 0, err := 4, notes := [] }).raise gSapling 1
  else s.setExt p { x with faults := n }

/-- The DMA writes of an invocation to its partition's scratch buffer: offsets and bytes, each of at most 4 KiB within the buffer;
the first that is not is refused, and nothing after it is issued. -/
def State.scratchWrites (s : State) (p : Nat) : List (Nat × List Nat) → Bool × State
  | [] => (true, s)
  | (off, bs) :: ws =>
    let x := s.ext p
    if bs.length > 4096 || off + bs.length > x.scratchLen then (false, s)
    else State.scratchWrites
      ((s.busWrite (memKey 0 (x.scratch / 64 * 64 + off)) (bs.map (BitVec.ofNat 8))).hostFrame p bs.length) p ws

/-- One invocation on some inputs (R262, R263): the scratch writes that it issued stand, however it ends; a fault counts; it answers
what it computes only where it ends well, 0, and not by a fault, 1, or by its budget or too late. What it computes is the
operator's (log entries 4, 76). -/
def State.extInvoke (s : State) (p : Nat) (inputs : List Nat) : Option (List Nat) × State :=
  let r := Config.extResult s.freeCtr inputs
  let (ok, s) := ({ s with freeCtr := s.freeCtr + 1 } : State).scratchWrites p r.2.1
  if !ok || r.1 = 1 then (none, s.extFault p)
  else if r.1 = 0 then (some r.2.2, s)
  else (none, s)

end Sys2Proof.Machine
end

