-- ==== Sys2Proof/Machine/FlashOps.lean ====
section
/-! DEFINITION. Flash media (R289 to R300, R458): addresses, bands and rows, the placing of mapping units, and the
programs and records of a journal group. -/

namespace Sys2Proof.Machine

open Sys2Proof

/-! ### State of the tier (R290, R316) -/

def State.flashState (s : State) : Nat := s.get F.FLASH_STATUS_STATE
/-- Whether flash takes programs of data: mounted and not read-only. -/
def State.flashWritable (s : State) : Bool := s.flashState == 2
/-- Whether flash can be read: mounted or read-only. -/
def State.flashReadable (s : State) : Bool := s.flashState == 2 || s.flashState == 3

/-! ### Media profile (R315) -/

def State.profile (s : State) : Bytes := ((s.flash.profiles.current?).getD { body := [] }).body
def prBits (b : Bytes) : Nat := sfield b 2 7 0
def prBlocks (b : Bytes) : Nat := sfield b 8 15 0
def prRowsNative (b : Bytes) : Nat := sfield b 10 15 0
def prRowsSlc (b : Bytes) : Nat := sfield b 12 15 0
def prWlPages (b : Bytes) : Nat := sfield b 14 7 0
def prTReadSlc (b : Bytes) : Nat := sfield b 24 15 0
def prTReadNative (b : Bytes) : Nat := sfield b 26 15 0
def prTProgSlc (b : Bytes) : Nat := sfield b 28 15 0
def prEndurNative (b : Bytes) : Nat := sfield b 36 15 0
def prRefresh (b : Bytes) : Nat := sfield b 42 7 0

/-! ### Addresses (R291, R292) -/

def blockKey (ch die blk : Nat) : Nat := ch + 32 * die + 1024 * blk
def paOf (key row : Nat) : Nat := key + row * 2 ^ 22
def paKey (pa : Nat) : Nat := pa % 2 ^ 22
def paRow (pa : Nat) : Nat := pa / 2 ^ 22
def paCh (pa : Nat) : Nat := pa % 32
/-- The number of a die, 32 × channel + position (R291). -/
def paDie (pa : Nat) : Nat := pa % 32 * 32 + pa / 32 % 32

def mapZero : Nat := 0xFFFFFFFF
def mapNone : Nat := 0xFFFFFFFE

/-- A block's record; one that is marked bad by its maker is bad. -/
def State.block (s : State) (k : Nat) : Block :=
  s.flash.blocks.getD k { state := if Config.factoryBad k then 3 else 0 }

def State.setBlock (s : State) (k : Nat) (b : Block) : State :=
  { s with flash := { s.flash with blocks := s.flash.blocks.set k b } }

/-- The media time in hours (R298). -/
def State.mediaHour (s : State) : Nat := s.flash.mediaHours + (s.time - s.flash.hourStart) / 3600000000000

def State.diesPerCh (s : State) : Nat := s.get F.FLASH_STATUS_DIES_PER_CH
def State.dieState (s : State) (n : Nat) : Nat := s.get F.FLASH_DIE_STATUS_STATE n

/-- The two anchor blocks (R303), which no band takes. -/
def isAnchor (key : Nat) : Bool := key < 2

/-- The free block with the fewest erases of a die, on a channel (R306); SLOW and FAILED dies give none (R312). -/
def State.freeBlock (s : State) (ch die : Nat) : Option Nat :=
  if s.dieState (32 * ch + die) != 1 then none
  else
    ((List.range (prBlocks s.profile)).foldl (fun (best : Option (Nat × Nat)) b =>
      let k := blockKey ch die b
      let r := s.block k
      if r.state != 0 || isAnchor k then best
      else match best with
        | some (_, e) => if r.eraseCount < e then some (k, r.eraseCount) else best
        | none => some (k, r.eraseCount)) none).map (·.1)

/-- One block per channel for a new band: of one die position where the device can, else of any die (R291). -/
def State.bandBlocks (s : State) : Option (List Nat) :=
  let dies := List.range s.diesPerCh
  let all (pick : Nat → Option Nat) : Option (List Nat) := (List.range 32).mapM pick
  match dies.findSome? (fun d => all (fun ch => s.freeBlock ch d)) with
  | some l => some l
  | none => all (fun ch => dies.findSome? (fun d => s.freeBlock ch d))

def Band.rows (b : Band) (pr : Bytes) : Nat := if b.slc then prRowsSlc pr else prRowsNative pr

/-- Data bands in a mode: SLC data bands against the SLC region, native bands against the rest (R296). -/
def State.bandsInUse (s : State) (slc : Bool) : Nat := s.flash.bands.countP (fun b => b.2.slc == slc && b.2.kind == 0)

/-- The programmed quarters that the map names, each with its leaf and quarter. -/
def State.namedMus (s : State) : List (Nat × Nat × Nat) :=
  s.leaves.flatMap (fun x => (x.2.flashQuarters.mapIdx (fun q pa => (pa, x.1, q))).filter (fun y => y.1 != mapZero && y.1 != mapNone))

/-- The committed mapping units that a block holds (R298). -/
def State.validOf (s : State) (key : Nat) : Nat := s.namedMus.countP (fun x => paKey x.1 == key)

/-- A group of the device's own that records blocks as they are now (R300, R301). -/
def State.noteBlocks (s : State) (keys : List Nat) : State :=
  (s.openGroup { recs := keys.map (fun k => .block k (s.block k) (s.validOf k)) }).2

/-- The blocks of a band closed, but for those that are bad. -/
def State.closeBlocks (s : State) (keys : List Nat) : State :=
  let open_ := keys.filter (fun k => (s.block k).state == 1)
  (open_.foldl (fun (s : State) k => s.setBlock k { s.block k with state := 2 }) s).noteBlocks open_

/-- A band put; one that closes closes its blocks. -/
def State.setBand (s : State) (k : Nat) (b : Band) : State :=
  let was := match s.flash.bands.get? k with | some x => x.isOpen | none => false
  let s' := { s with flash := { s.flash with bands := s.flash.bands.set k b } }
  if was && !b.isOpen then s'.closeBlocks b.blocks else s'

/-- What a block's first program since its erase puts into its record (R298). -/
def State.stampBlock (s : State) (key : Nat) : State :=
  if s.flash.mus.any (fun m => paKey m.1 == key) then s
  else s.setBlock key { s.block key with
    profileEpoch := s.flash.profiles.epoch, programHour := s.mediaHour, programTemp := s.get F.FLASH_DIE_STATUS_TEMP_C (paDie key) }

/-- A band entered among those in use, which are numbered in the order in which they were opened. -/
def State.addBand (s : State) (k : Nat) (b : Band) : State :=
  { s with flash := { s.flash with bands := s.flash.bands.set k b, bandSeq := s.flash.bandSeq + 1 } }

/-- A new band opened (R291); the SLC region and the native bands are bounded by what format set aside, and journal and
checkpoint bands come from the reserve. -/
def State.newBand (s : State) (slc : Bool) (kind : Nat) : Option (Nat × State) :=
  let full := kind = 0 && s.bandsInUse slc ≥ (if slc then s.flash.slcTotal else s.flash.natTotal)
  if full then none
  else match s.bandBlocks, firstFree (fun k => (s.flash.bands.get? k).isSome) 131072 0 with
    | some bl, some k =>
      let s := bl.foldl (fun (s : State) b => s.setBlock b { s.block b with
        state := 1, slc := slc, band := k, profileEpoch := s.flash.profiles.epoch, programHour := s.mediaHour }) s
      some (k, (s.addBand k { blocks := bl, slc := slc, kind := kind, born := s.flash.bandSeq }).noteBlocks bl)
    | _, _ => none

/-- Whether a row of a band must stay unprogrammed, since it would hold a reserved address (R292). -/
def Band.skipRow (b : Band) (row : Nat) : Bool :=
  b.blocks.any (fun k => paOf k row == mapZero || paOf k row == mapNone)

/-- A band gone on to a row, past one that must stay empty; after its last row it is closed (R292, R295). -/
def Band.goTo (b : Band) (row rows : Nat) : Band :=
  let r := if b.skipRow row then row + 1 else row
  if r ≥ rows then { b with row := r, isOpen := false, used := [] } else { b with row := r, used := [] }

/-- The parity channel of a row of band `k` (R291). -/
def parityCh (k row : Nat) : Nat := (k + row) % 32

/-- The channels of the open row that are free for data. -/
def Band.freeChs (b : Band) (k : Nat) (avoid : List Nat) : List Nat :=
  (List.range 32).filter (fun c => c != parityCh k b.row && !b.used.contains c && !avoid.contains c)

/-- A row closed: its parity is programmed, in the same step, and its mapping units count as closed (R295; log entry 81). -/
def State.closeRow (s : State) (k row : Nat) : State :=
  match s.flash.bands.get? k with
  | none => s
  | some b =>
    let inRow (pa : Nat) : Bool := paRow pa == row && b.blocks.contains (paKey pa)
    let mus := s.flash.mus.map (fun m => if inRow m.1 then (m.1, { m.2 with closed := true }) else m)
    let pk := b.blocks.getD (parityCh k row) 0
    let mus := Table.set (paOf pk row) { kind := 3, seqNo := s.flash.journalSeq, done := true, issued := true, closed := true } mus
    let s := s.stampBlock pk
    let s := { s with flash := { s.flash with mus := mus } }
    s.setBand k (if b.row = row && b.used != [] && b.isOpen then b.goTo (row + 1) (b.rows s.profile) else b)

/-- Mapping units entered at their addresses. -/
def State.enterMus (s : State) (l : List (Nat × Mu)) : State :=
  l.foldl (fun (s : State) x =>
    let s := s.stampBlock (paKey x.1)
    { s with flash := { s.flash with mus := s.flash.mus.set x.1 x.2 } }) s

/-- Mapping units placed in one row of an open band (R294): the addresses, or none where no band has room. -/
def State.place (s : State) (slc : Bool) (kind : Nat) (mus : List Mu) (avoid : List Nat) : Nat → Option (List Nat) × State
  | 0 => (none, s)
  | fuel + 1 =>
    match s.flash.bands.find? (fun b => b.2.isOpen && b.2.slc == slc && b.2.kind == kind) with
    | some (k, b) =>
      let chs := (b.freeChs k avoid).take mus.length
      if b.row < b.rows s.profile && chs.length = mus.length && !b.skipRow b.row then
        let pas := chs.map (fun c => paOf (b.blocks.getD c 0) b.row)
        (some pas, (s.enterMus (pas.zip mus)).setBand k { b with used := b.used ++ chs })
      else
        State.place (s.setBand k (b.goTo (b.row + 1) (b.rows s.profile))) slc kind mus avoid fuel
    | none =>
      match s.newBand slc kind with
      | some (_, s) => State.place s slc kind mus avoid fuel
      | none => (none, s)

/-! ### NAND credits (R458) -/

/-- The current drawn on a channel by programs and erases that have their credit. -/
def State.nandCh (s : State) (ch : Nat) : Nat :=
  s.flash.mus.countP (fun m => paCh m.1 == ch && m.2.issued && !m.2.done) * s.get F.CUPOLA_NAND_CFG_PROG_MA
    + s.flash.erasing.countP (fun e => paCh e.1 == ch && e.2) * s.get F.CUPOLA_NAND_CFG_ERASE_MA

def State.nandAll (s : State) : Nat := ((List.range 32).map s.nandCh).sum

/-- Whether a channel can take a further current. -/
def State.nandRoom (s : State) (ch ma : Nat) : Bool :=
  s.nandCh ch + ma ≤ s.get F.CUPOLA_NAND_CFG_CH_MA && s.nandAll + ma ≤ s.get F.CUPOLA_NAND_TOTAL_MA

/-- Whether free native bands are below FLASH_GC_CFG.CRIT (R306, R321). -/
def State.bandsCritical (s : State) : Bool :=
  (s.flash.natTotal - s.bandsInUse false) * 1024 < s.get F.FLASH_GC_CFG_CRIT * s.flash.natTotal

/-- Whether a unit is programmed by the background write-back or a sweep: for a group that no request waits for, and no relocation. -/
def State.background (s : State) (m : Nat × Mu) : Bool :=
  !m.2.reloc && s.flash.groups.any (fun g => g.2.rid.isNone && g.2.mus.contains m.1)

/-- The units in the order in which they take program credits: by address, and below CRIT those of background work last (R306). -/
def State.creditOrder (s : State) : List (Nat × Mu) :=
  if s.bandsCritical then s.flash.mus.filter (fun m => !s.background m) ++ s.flash.mus.filter s.background else s.flash.mus

/-- Programs and erases that wait take their credits; none while power fails (R319) or on a channel whose Buttress die has stopped
(R14). -/
def State.issueNand (s : State) : State :=
  if s.on F.FLASH_STATUS_PF then s
  else
    let s := s.creditOrder.foldl (fun s m =>
      if !m.2.issued && s.pdOn (80 + paCh m.1 / 8) && s.dieWorks (paCh m.1 / 16) && s.nandRoom (paCh m.1) (s.get F.CUPOLA_NAND_CFG_PROG_MA) then
        { s with flash := { s.flash with mus := s.flash.mus.modify m.1 (fun x => { x with issued := true, seqNo := s.flash.journalSeq }) } }
      else s) s
    s.flash.erasing.foldl (fun s e =>
      if !e.2 && s.pdOn (80 + paCh e.1 / 8) && s.dieWorks (paCh e.1 / 16) && s.nandRoom (paCh e.1) (s.get F.CUPOLA_NAND_CFG_ERASE_MA) then
        { s with flash := { s.flash with erasing := s.flash.erasing.map (fun x => if x.1 = e.1 then (x.1, true) else x) } }
      else s) s

/-! ### Groups -/

def State.setGroup (s : State) (gid : Nat) (f : Group → Group) : State :=
  { s with flash := { s.flash with groups := s.flash.groups.modify gid f } }

/-- The quarters of a stored form of a length that hold anything (R294). -/
def liveQuarters (clen : Nat) : List Nat := (List.range 4).filter (fun q => q * 65536 < 64 + clen)

def quarterAt (l : List Nat) (q : Nat) : Nat := l.getD q mapNone

/-- Quarters of a leaf programmed for a group (R294, R304): placed in one row of an SLC band, with their MAP records; those
without a free band wait. A quarter that holds only zeros is mapped as such. -/
def State.programQuarters (s : State) (gid i : Nat) (clen : Nat) (qs : List Nat) : State :=
  let l := s.leaf i
  let live := qs.filter (fun q => (liveQuarters clen).contains q)
  let zero := qs.filter (fun q => !(liveQuarters clen).contains q)
  let s := s.setGroup gid (fun g => { g with
    recs := g.recs ++ zero.map (fun q => .map i q mapZero (quarterAt l.flashQuarters q) l.generation false) })
  if live = [] then s
  else
    let avoid := (l.flashQuarters.mapIdx (fun q pa => (q, pa))).filterMap (fun x =>
      if x.2 = mapZero || x.2 = mapNone || live.contains x.1 then none else some (paCh x.2))
    let tags := live.map (fun q => ({ leaf := i, quarter := q, seqNo := s.flash.journalSeq, gen := l.generation } : Mu))
    match s.place true 0 tags avoid 4 with
    | (some pas, s) =>
      let s := s.setGroup gid (fun g => { g with
        mus := g.mus ++ pas
        recs := g.recs ++ (live.zip pas).map (fun x =>
          .map i x.1 x.2 (quarterAt l.flashQuarters x.1) l.generation false) })
      let h := s.flash.health
      ({ s with flash := { s.flash with health := { h with writeMus := h.writeMus + live.length } } }).issueNand
    | (none, s) => s.setGroup gid (fun g => { g with pend := g.pend ++ live.map (fun q => (i, q)) })

/-- A leaf's durable copy programmed for a group, with its LEAF record (R300): the record holds what the copy will be. -/
def State.programLeaf (s : State) (gid i : Nat) (rec : Leaf) (c : Copy) : State :=
  let s := s.programQuarters gid i c.hdr.compressedLength (List.range 4)
  s.setGroup gid (fun g => { g with recs := g.recs ++ [.leaf i (some { rec with durable := some { c with tier := .flash, loc := i } })] })

/-- Whether a durable leaf more fits the tier for a partition (R275 to R277): `n` of them. -/
def State.flashRoom (s : State) (p n : Nat) : Bool :=
  let used (p : Option Nat) := s.leaves.countP (fun x => x.2.durable.isSome && (p.isNone || p == some x.2.partition))
  used (some p) + n ≤ s.get F.PART_TIER_LIMIT_SLOTS p 2 && used none + n ≤ s.get F.FLASH_USABLE_LEAVES

/-- Completion of a write-class request whose effect the journal records (R301): at once where it records nothing, else
when its group commits. -/
def State.completeJournaled (s : State) (rid : Nat) (recs : List JRec) (st : Status) (c : Cpl := {}) : State :=
  if recs = [] then s.complete rid st c
  else
    let (gid, s) := s.openGroup { recs := recs, rid := some rid }
    s.wait rid (.journal gid st c)

/-- The journal cannot take a record: absent or blank media (R290), or read-only with its reserve full (R316). -/
def State.journalFull (s : State) : Bool :=
  !s.flashReadable || (s.flashState == 3 && s.flash.bands.countP (fun b => b.2.kind == 1) ≥ 8
    && !s.flash.bands.any (fun b => b.2.kind == 1 && b.2.isOpen))

/-! ### The key anchor (R429) -/

/-- The tenant identifier of a partition. -/
def State.tenant (s : State) (p : Nat) : Nat := s.pair F.PART_SEC_TENANT_LO_ID F.PART_SEC_TENANT_HI_ID p

/-- Whether the key anchor can be programmed: the media is formatted and mounted. -/
def State.anchorUp (s : State) : Bool := s.flash.formatted && s.flashReadable

/-- The record of a partition in the anchor brought up to its key store. -/
def State.writeAnchor (s : State) (p : Nat) : State :=
  let r : KeyRec := { tenant := s.tenant p, current := (s.keyEpoch p).toNat, keys := (s.parts.getD p {}).keys }
  if s.anchorUp then { s with sec := { s.sec with anchor := s.sec.anchor.set p r } } else s

end Sys2Proof.Machine
end

