-- ==== Sys2Proof/Machine/Tier.lean ====
section
/-! DEFINITION. Tiers (R266 to R287): hints, ages, usage, allocation and relief, shadows, migration and seal placement. -/

namespace Sys2Proof.Machine

open Sys2Proof

/-! ### Hints (R269, R270) -/

/-- The hints of a leaf at its seal (R270): the class entry's, else the sequence's. -/
def State.sealHints (s : State) (p cls seqHints : Nat) : Nat :=
  if cls = 0 then seqHints
  else match s.classHints.get? (p * 256 + cls) with
    | some (h, true) => h
    | _ => seqHints

/-- A placement record with one hint bit changed. -/
def setNoPromote (h : Nat) (b : Bool) : Nat := setBits h 3 3 (b2n b)

/-! ### Ages (R272, R279) -/

/-- The age of a leaf in ticks. -/
def State.age (s : State) (l : Leaf) : Nat := (s.tick + 2 ^ 24 - l.place.lastTick) % 2 ^ 24

/-- The age limit of a leaf in ticks (R279): the partition's limit, rounded up, scaled by retain (R269). -/
def State.ageLimit (s : State) (l : Leaf) : Nat :=
  let sec := max 1 (if l.shortTtl then s.get F.PART_TIER_AGE_SHORT_S l.partition else s.get F.PART_TIER_AGE_AGE_S l.partition)
  let t := ceilDiv (sec * 10 ^ 9) (2 ^ 28)
  match hintRetain l.place.hints with
  | 1 => 4 * t
  | 2 => ceilDiv t 4
  | _ => t

/-! ### Slots -/

/-- HBM slots that copies take whole: primaries, old copies that are held, destinations of migrations, whole shadows. -/
def State.hbmWhole (s : State) (slot : Nat) : Bool :=
  s.leaves.any (fun x =>
    let l := x.2
    (l.cur.toList ++ l.old).any (fun c => c.tier == .hbm && c.loc == slot)
      || (l.state == .migrating && l.destTier == .hbm && l.destLocation == slot)
      || (match l.shadow with | some sh => sh.whole && sh.slot == slot | none => false))

/-- Halves of an HBM slot that shadows take, or that are lost with a placement record (R411, kind 6): lower, upper. -/
def State.hbmHalf (s : State) (slot : Nat) (upper : Bool) : Bool :=
  s.leaves.any (fun x => match x.2.shadow with
    | some sh => !sh.whole && sh.slot == slot && sh.upper == upper
    | none => false)
    || s.badRecs.contains (6, slot * 2 + b2n upper)

/-- Whether an HBM slot is taken: by a copy, by a shadow, or by retirement (R413). -/
def State.hbmTaken (s : State) (slot : Nat) : Bool :=
  s.retiredSlots.contains slot || s.hbmWhole slot || s.hbmHalf slot false || s.hbmHalf slot true

/-- The slots of the tier-0 leaf area. -/
def State.hbmSlots (s : State) : Nat := s.get F.TIER_HBM_SLOTS_SLOTS

/-- Every HBM slot that is taken, each once. -/
def State.hbmTakenList (s : State) : List Nat :=
  (s.retiredSlots ++ s.badRecs.filterMap (fun (b : Nat × Nat) => if b.1 = 6 then some (b.2 / 2) else none) ++ s.leaves.flatMap (fun (x : Nat × Leaf) =>
    (x.2.cur.toList ++ x.2.old).filterMap (fun c => if c.tier = .hbm then some c.loc else none)
      ++ (if x.2.state = .migrating && x.2.destTier = .hbm then [x.2.destLocation] else [])
      ++ x.2.shadow.toList.map (·.slot))).eraseDups

def State.hbmFree (s : State) : Nat := s.hbmSlots - s.hbmTakenList.length

/-- LEAF extents in ADMIT (R326). -/
def State.leafExts (s : State) : List Extent := (s.pool.exts.map (·.2)).filter (fun x => x.kind == 1 && x.state == 1)

/-- The slots of an extent: 8 in each 2 MiB. -/
def Extent.firstSlot (x : Extent) : Nat := x.base * 8
def Extent.slotCount (x : Extent) : Nat := x.len * 8
def Extent.hasSlot (x : Extent) (slot : Nat) : Bool := x.firstSlot ≤ slot && slot < x.firstSlot + x.slotCount

/-- Tier-1 capacity (R326). -/
def State.poolCap (s : State) : Nat := (s.leafExts.map Extent.slotCount).sum

def State.poolTakenList (s : State) : List Nat :=
  s.leaves.flatMap (fun x =>
    (x.2.cur.toList ++ x.2.old).filterMap (fun c => if c.tier = .pool then some c.loc else none)
      ++ (if x.2.state = .migrating && x.2.destTier = .pool then [x.2.destLocation] else []))

/-- Free pool slots in LEAF extents in ADMIT. -/
def State.poolFree (s : State) : Nat :=
  s.poolCap - (s.poolTakenList.filter (fun k => s.leafExts.any (·.hasSlot k))).length

/-- Whether the pool tier is up (R287). -/
def State.poolUp (s : State) : Bool := s.get F.POOL_STATUS_STATE == 2

/-- Whether the pool tier is marked down: until its link has trained again after a restart (R342). -/
def State.poolDown (s : State) : Bool := s.get F.POOL_STATUS_STATE == 3 || s.pool.down

/-- The slot at place `k` over the extents in turn. -/
def nthSlot : List Extent → Nat → Option Nat
  | [], _ => none
  | x :: t, k => if k < x.slotCount then some (x.firstSlot + k) else nthSlot t (k - x.slotCount)

/-- Bytes of a partition to or from a target taken from both buckets; the wait until they can cover them is time (R327; log entries
33, 95). -/
def State.poolTake (s : State) (p target n : Nat) : State :=
  let take (t : Table Nat) (k : Nat) : Table Nat := t.set k (t.getD k 0 - n)
  { s with pool := { s.pool with tgtCredit := take s.pool.tgtCredit target, partCredit := take s.pool.partCredit p } }

/-- A copy read from, or written to, a pool slot for a partition: its header and stored payload pass the target's bucket (R327). -/
def State.poolPass (s : State) (p : Nat) (c : Copy) (slot : Nat) : State :=
  match s.pool.exts.find? (fun x => x.2.hasSlot slot) with
  | some x => s.poolTake p x.2.target (64 + c.hdr.compressedLength)
  | none => s

/-- A copy read wherever it lies. -/
def State.readPass (s : State) (p : Nat) (c : Copy) : State := if c.tier = .pool then s.poolPass p c c.loc else s

/-- A free pool slot, whichever the device takes. -/
def State.pickPool (s : State) : Option Nat × State :=
  let xs := s.leafExts
  let taken := s.poolTakenList
  let r := s.pick (fun k => match nthSlot xs k with | some v => taken.contains v | none => true) s.poolCap
  (r.1.bind (nthSlot xs), r.2)

/-! ### Usage (R275, R276) -/

/-- What one leaf counts in a tier, in half slots. -/
def Leaf.halves (l : Leaf) (t : Nat) : Nat :=
  match t with
  | 0 => (match l.cur with | some c => if c.tier = .hbm then 2 else 0 | none => 0)
      + (match l.shadow with | some sh => if sh.whole then 2 else 1 | none => 0)
  | 1 => match l.cur with | some c => if c.tier = .pool then 2 else 0 | none => 0
  | _ => if l.durable.isSome then 2 else 0

/-- What the destination of a leaf's migration takes in a tier besides: it is allocated, and no copy yet. -/
def Leaf.destHalves (l : Leaf) (t : Nat) : Nat :=
  if l.state = .migrating && l.destTier != .flash && l.destTier.code = t then 2 else 0

/-- PART_TIER_USED (R275). -/
def State.tierUsed (s : State) (p t : Nat) : Nat := (s.leaves.map (fun x => if x.2.partition = p then x.2.halves t else 0)).sum

/-- The capacity of a tier in slots (R276, R413). -/
def State.tierCap (s : State) (t : Nat) : Nat :=
  match t with | 0 => s.hbmSlots - s.retiredSlots.length | 1 => s.poolCap | _ => s.get F.FLASH_USABLE_LEAVES

def State.tierFree (s : State) (t : Nat) : Nat := if t = 0 then s.hbmFree else s.poolFree

/-- What a partition has of a tier or is about to have (R276; log entry 80). -/
def State.tierTaken (s : State) (p t : Nat) : Nat :=
  s.tierUsed p t + (s.leaves.map (fun x => if x.2.partition = p then x.2.destHalves t else 0)).sum

/-- Whether a partition may use `n` half slots more of a tier. -/
def State.withinLimit (s : State) (p t n : Nat) : Bool := s.tierTaken p t + n ≤ 2 * s.get F.PART_TIER_LIMIT_SLOTS p t

/-- Whether a partition is over its reservation, counting `n` half slots that it asks for (R276; log entry 80). -/
def State.overResv (s : State) (p t n : Nat) : Bool := s.tierTaken p t + n > 2 * s.get F.PART_TIER_RESV_SLOTS p t

/-- A leaf as it is when what it is giving up has gone: held old copies and shadows, the source of its migration, or all of it. -/
def Leaf.freed (l : Leaf) : Leaf :=
  let l := { l with old := [], shadow := l.shadow.filter (fun sh => !sh.releasing) }
  match l.state, l.destTier with
  | .migrating, .flash => { l with state := .sealed, cur := none }
  | .migrating, t => { l with state := .sealed, cur := some { l.cur.getD {} with tier := t, loc := l.destLocation } }
  | .evicting, _ => { l with cur := none, durable := none, shadow := none }
  | _, _ => l

/-- The state in which every release in progress is done: relief waits for it and goes no further than it needs (R277). -/
def State.freed (s : State) : State := { s with leaves := s.leaves.map (fun x => (x.1, x.2.freed)) }

/-! ### Re-encoding and shadows -/

/-- A copy re-encoded and re-wrapped where its epochs are stale (R36, R169); a copy that is current is itself. -/
def State.freshCopy (s : State) (i : Nat) (l : Leaf) (c : Copy) : Copy × State :=
  if s.copyCurrent l c then
    let (cid, s) := s.newCid
    ({ c with cid := cid }, s)
  else
    let (c', s) := s.encodeCopy i l c.hdr c.payload
    ({ c' with poison := c.poison, tagBad := c.tagBad }, s)

/-- Whether the shadow setting of a partition covers a tier (R284). -/
def State.shadowCovers (s : State) (p : Nat) (t : Tier) : Bool :=
  match t with
  | .hbm => false
  | .pool => s.get F.PART_TIER_CFG_SHADOW p == 2
  | .flash => s.get F.PART_TIER_CFG_SHADOW p ≥ 1

/-- A place for a shadow: half of a slot that holds one half shadow, else of a free slot. -/
def State.shadowPlace (s : State) (p : Nat) (whole : Bool) : Option (Nat × Bool) × State :=
  if !s.withinLimit p 0 (if whole then 2 else 1) then (none, s)
  else
    let half := s.leaves.findSome? (fun x => match x.2.shadow with
      | some sh => if sh.whole || s.hbmHalf sh.slot (!sh.upper) then none else some (sh.slot, !sh.upper)
      | none => none)
    match whole, half with
    | false, some h => (some h, s)
    | _, _ =>
      let r := s.pick s.hbmTaken s.hbmSlots
      (r.1.map (fun k => (k, false)), r.2)

/-- The shadow of a leaf built from a copy (R284, R285): never of a NO_STORE leaf, and not where space would need relief, or
where readers still hold the shadow before it (log entry 78). -/
def State.buildShadow (s : State) (i : Nat) (c : Copy) (dest : Tier) : State :=
  let l := s.leaf i
  if !s.shadowCovers l.partition dest || l.noStore || l.shadowPresent || c.spoilt then s
  else if l.shadow.isSome then s.bump F.TIER_SHADOW_SKIP_COUNT
  else
    let sh := s.shapeAt l.partition c.hdr.shapeIndex c.hdr.shapeEpoch
    let pl := shadowPayload (decodeKeys sh c.hdr.keyFormat c.hdr.valueFormat c.payload)
      (decodeVals sh c.hdr.keyFormat c.hdr.valueFormat c.payload)
    let whole := pl.length + 64 > 131072
    match s.shadowPlace l.partition whole with
    | (some (slot, upper), s) =>
      let (cid, s) := s.newCid
      let sh : Shadow := { cid := cid, slot := slot, upper := upper, whole := whole, payload := pl, keyEpoch := s.keyEpoch l.partition }
      let pl : Place := { l.place with shadowSlot := slot, shadowUpper := upper, shadowWhole := whole }
      (s.setLeaf i { l with shadowPresent := true, shadow := some sh, place := pl }).bump F.TIER_SHADOWS_COUNT
    | (none, s) => s.bump F.TIER_SHADOW_SKIP_COUNT

/-! ### The switch of a migration (R283) -/

/-- The old primary kept while it is held, the new one in its place, and the record back to SEALED (log entry 78). -/
def State.switchRecord (s : State) (i : Nat) (t : Tier) (loc : Nat) (new : Option Copy) : State :=
  let l := s.leaf i
  let keep := l.cur.toList.filter (fun c => s.copyHolds i c.cid != 0)
  let cur := new.map (fun (c : Copy) => ({ c with tier := t, loc := loc } : Copy))
  let l := { l with
    state := .sealed, tier := t, location := loc, destTier := .hbm, destLocation := 0, cur := cur, old := l.old ++ keep }
  let l := match new, l.durable with
    | some c, some d => { l.withHdr c.hdr with dirtyMask := s.diffMask i l c d }
    | some c, none => { l.withHdr c.hdr with dirtyMask := 0 }
    | none, some d => { l.withHdr d.hdr with dirtyMask := 0 }
    | none, none => l
  let l := if t = .hbm then l.dropShadow else l
  (s.setLeaf i l).settle i

/-- The good copy from which a background reader takes a leaf (R410): its primary, else its durable copy. -/
def Leaf.goodCopy (l : Leaf) : Option Copy :=
  let ok (c : Copy) : Bool := c.poison == [] && !c.tagBad && !l.failedPrimary
  match l.primary with
  | some c => if ok c then some c
    else match l.durable with | some d => if d.poison = [] && !d.tagBad then some d else none | none => none
  | none => none

/-- A tag that fails as a background reader takes a leaf counts in RAS_UNCORRECTED (R166). -/
def State.checkTags (s : State) (i : Nat) : State :=
  let l := s.leaf i
  let bad (c : Option Copy) : Bool := match c with | some c => c.tagBad | none => false
  let first := match l.primary with | some c => c.spoilt || l.failedPrimary | none => true
  if bad l.primary || (first && bad l.durable) then s.raise gRasUncorrected 3 else s

/-- A leaf moved to HBM or the pool at a slot: the bytes copied, re-encoded where stale, a shadow built on leaving HBM. A
leaf of which no good copy is left enters POISONED (R410). -/
def State.moveTo (s : State) (i : Nat) (t : Tier) (loc : Nat) : State :=
  let l := s.leaf i
  let s := s.checkTags i
  match l.goodCopy with
  | none => s.poisonLeaf i
  | some c =>
    let s := if l.tier = .hbm then s.buildShadow i c t else s
    let s := s.readPass l.partition c
    let (c', s) := s.freshCopy i (s.leaf i) c
    let s := if t = .pool then s.poolPass l.partition c' loc else s
    let s := s.setLeaf i { s.leaf i with failedPrimary := false }
    s.switchRecord i t loc (some { c' with poison := [], tagBad := false })

/-- What a drop to the durable copy writes back first (R267, R283), its map update committed with it: the dirty quarters, and
those that a re-encode of a stale primary changes (R36); a primary that has gone bad is not written (R406, R410). None where
flash takes no program. -/
def State.writeBackNow (s : State) (i : Nat) : Option State :=
  let l := s.leaf i
  match l.cur, l.durable with
  | some c, some d =>
    if c.spoilt || l.failedPrimary || (l.dirtyMask = 0 && s.copyCurrent l c) then some s
    else if !s.flashWritable then (if l.dirtyMask = 0 then some s else none)
    else
      let (c, s) := (s.readPass l.partition c).freshCopy i l c
      let mask := if d.spoilt then 15 else l.dirtyMask ||| s.diffMask i l c d
      let qs := (List.range 4).filter (fun q => bit mask q)
      let live := qs.filter (fun q => (liveQuarters c.hdr.compressedLength).contains q)
      let tags := live.map (fun q => ({ leaf := i, quarter := q, seqNo := s.flash.journalSeq, gen := l.generation
                                        issued := true, done := true, closed := true } : Mu))
      match s.place true 0 tags [] 4 with
      | (none, _) => none
      | (some pas, s) =>
        let at_ (q : Nat) : Nat := match findIdx (· == q) live 0 with
          | some k => pas.getD k mapZero
          | none => mapZero
        let fq := (List.range 4).map (fun q => if bit mask q then at_ q else quarterAt l.flashQuarters q)
        let l' := { l with
          durable := some { c with tier := .flash, loc := i }, dirtyMask := 0, flashQuarters := fq
          old := l.old ++ (if s.copyHolds i d.cid = 0 then [] else [d]) }
        let f := s.flash
        let s := { s with flash := { f with
          image := { f.image with leaves := f.image.leaves.set i { l' with state := .sealed, cur := none } }
          health := { f.health with writeMus := f.health.writeMus + live.length } } }
        some ((s.setLeaf i l').bump F.TIER_WRITEBACKS_COUNT qs.length)
  | _, _ => some s

/-- A DURABLE leaf's primary dropped to its durable copy (R280, R283); none where its write-back fails. -/
def State.dropToDurable (s : State) (i : Nat) : Option State :=
  (s.writeBackNow i).map (fun s =>
    let l := s.leaf i
    let s := s.checkTags i
    let s := match l.tier, l.goodCopy with
      | .hbm, some c => s.buildShadow i c .flash
      | _, _ => s
    s.switchRecord i .flash i none)

/-- The destination allocated and the record in MIGRATING (R283, step 1; log entry 79). -/
def State.startMove (s : State) (i : Nat) (dest : Tier) (loc : Nat) : State :=
  s.setLeaf i { s.leaf i with state := .migrating, destTier := dest, destLocation := loc }

/-! ### Relief (R277 to R280) -/

/-- Whether a leaf may be relieved in a tier (R34, R279). -/
def State.relievable (s : State) (t : Tier) (i : Nat) (l : Leaf) : Bool :=
  l.state == .sealed && l.persist != .pinned && s.holdCount i == 0 && l.tier == t
    && !(l.dirtyMask != 0 && !s.flashWritable)

/-- A candidate of relief: its key (age minus limit), its leaf, and whether it is the shadow. -/
structure Cand where
  key : Int
  leaf : Nat
  isShadow : Bool
  deriving DecidableEq, Repr

/-- Insertion in relief order: descending key, equal keys by the lower leaf index. -/
def insertCand (c : Cand) : List Cand → List Cand
  | [] => [c]
  | a :: t => if c.key > a.key || (c.key = a.key && c.leaf < a.leaf) then c :: a :: t else a :: insertCand c t

/-- The candidates of relief in a tier among the partitions that a test admits, in order (R279). -/
def State.candidates (s : State) (t : Tier) (ok : Nat → Bool) : List Cand :=
  s.leaves.foldl (fun acc x =>
    let (i, l) := x
    if !ok l.partition then acc
    else
      let key : Int := (s.age l : Int) - s.ageLimit l
      let acc := if s.relievable t i l then insertCand ⟨key, i, false⟩ acc else acc
      if t = .hbm && l.shadowPresent then insertCand ⟨key, i, true⟩ acc else acc) []

/-- The extension's order of a batch (R263): it ranks the candidates of its partition from copies of their leaf records, and they
take the places of the batch that are theirs in that order, lower ranks first, equal ranks by age. -/
def State.rankFor (s : State) (p : Nat) (cs : List Cand) : List Cand × State :=
  let mine := cs.filter (fun c => (s.leaf c.leaf).partition == p)
  match s.extInvoke p (mine.flatMap (fun c => (leafRecord (s.leaf c.leaf) (s.holdCount c.leaf)).map (·.toNat))) with
  | (some ranks, s) =>
    let ranked := ((mine.mapIdx (fun k c => (ranks.getD k 0 % 256, c))).mergeSort (fun a b => a.1 ≤ b.1)).map (·.2)
    ((cs.foldl (fun (a : List Cand × List Cand) c =>
      if (s.leaf c.leaf).partition = p then (a.1 ++ a.2.take 1, a.2.drop 1) else (a.1 ++ [c], a.2)) ([], ranked)).1, s)
  | (none, s) => (cs, s)

/-- A batch of candidates with what the EVICT_RANK hooks make of it; without an extension Sapling on line the age order holds. -/
def State.rankBatch (s : State) (cs : List Cand) : List Cand × State :=
  if s.extCores = 0 then (cs, s)
  else ((cs.map (fun c => (s.leaf c.leaf).partition)).eraseDups).foldl (fun (a : List Cand × State) p =>
    if a.2.extHook p 0 then a.2.rankFor p a.1 else a) (cs, s)

/-- One candidate relieved (R280): a demotion and a drop are migrations, which MIGRATION_SWITCH ends (R283). -/
def State.relieveOne (s : State) (c : Cand) : State :=
  let l := s.leaf c.leaf
  if c.isShadow then (s.setLeaf c.leaf l.dropShadow).settle c.leaf
  else match l.persist, l.tier with
    | .vol, .hbm =>
      if !hintNoPool l.place.hints && !l.noStore && s.poolUp && s.withinLimit l.partition 1 2 && s.poolFree > 0 then
        match s.pickPool with
        | (some k, s) => (s.startMove c.leaf .pool k).bump F.TIER_DEMOTIONS_COUNT
        | (none, s) => (s.evict c.leaf).bump F.TIER_EVICTIONS_COUNT
      else (s.evict c.leaf).bump F.TIER_EVICTIONS_COUNT
    | .vol, _ => (s.evict c.leaf).bump F.TIER_EVICTIONS_COUNT
    | _, _ => (s.startMove c.leaf .flash c.leaf).bump F.TIER_DEMOTIONS_COUNT

/-- Whether a candidate still is one when its turn comes (R278 to R280). -/
def State.stillCand (s : State) (t : Tier) (isOver : State → Nat → Bool) (c : Cand) : Bool :=
  let l := s.leaf c.leaf
  isOver s.freed l.partition && (if c.isShadow then l.shadowPresent else s.relievable t c.leaf l)

/-- The candidates of a batch relieved in turn until a test holds of what will be free. -/
def State.relieveBatch (t : Tier) (done : State → Bool) (isOver : State → Nat → Bool) : List Cand → State → State
  | [], s => s
  | c :: cs, s =>
    if done s.freed then s
    else State.relieveBatch t done isOver cs (if s.stillCand t isOver c then s.relieveOne c else s)

/-- The next batch of candidates that have not been tried: 64 where an extension ranks one of them, else the first (R263, R279). -/
def State.nextBatch (s : State) (t : Tier) (isOver : State → Nat → Bool) (tried : List (Nat × Bool)) : List Cand :=
  let cs := ((s.candidates t (isOver s.freed)).filter (fun c => !tried.contains (c.leaf, c.isShadow))).take 64
  if cs.any (fun c => s.extHook (s.leaf c.leaf).partition 0) then cs else cs.take 1

/-- Relief of a tier batch by batch until a test holds of what will be free, or no candidate is left; a shadow that a drop builds
is a candidate too. -/
def State.relieve (t : Tier) (done : State → Bool) (isOver : State → Nat → Bool) : Nat → List (Nat × Bool) → State → State
  | 0, _, s => s
  | fuel + 1, tried, s =>
    if done s.freed then s
    else match s.nextBatch t isOver tried with
      | [] => s
      | c :: cs =>
        let r := s.rankBatch (c :: cs)
        State.relieve t done isOver fuel (tried ++ (c :: cs).map (fun c => (c.leaf, c.isShadow)))
          (State.relieveBatch t done isOver r.1 r.2)

/-- Relief over every candidate that a tier can have. -/
def State.relieveAll (s : State) (t : Tier) (done : State → Bool) (isOver : State → Nat → Bool) : State :=
  State.relieve t done isOver (2 * s.leaves.length) [] s

/-- What an allocation comes to: a slot, nothing, or a wait for space that is being freed (R277). -/
inductive Alloc where
  | slot (k : Nat)
  | full
  | later
  deriving DecidableEq, Repr

/-- Space of one slot allocated in HBM or the pool for a partition in the foreground (R277); relief waits for a Sapling cluster
(R253) and for the space that it frees. -/
def State.allocSlot (s : State) (p : Nat) (t : Tier) : Alloc × State :=
  let n := t.code
  let fits (s : State) : Bool := s.withinLimit p n 2
  let room (s : State) : Bool := s.tierFree n > 0
  if (!fits s || !room s) && !s.anyCluster then (.later, s)
  else
    let s := if fits s then s else s.relieveAll t fits (fun _ q => q == p)
    if !fits s.freed then (.full, s.bump F.TIER_RELIEF_FAIL_COUNT)
    else if !fits s then (.later, s)
    else
      let s := if room s then s else s.relieveAll t room (fun s q => s.overResv q n (if q = p then 2 else 0))
      if !room s.freed then (.full, s.bump F.TIER_RELIEF_FAIL_COUNT)
      else if !room s then (.later, s)
      else match (if t = .hbm then s.pick s.hbmTaken s.hbmSlots else s.pickPool) with
        | (some k, s) => (.slot k, s)
        | (none, s) => (.full, s)

/-! ### Sampled accesses (R273, R281) -/

/-- One counted access to a leaf: every 2^N_LOG2-th is sampled, and may queue a promotion. -/
def State.access (s : State) (i : Nat) : State :=
  let n := s.accesses + 1
  let s := { s with accesses := n }
  if n % 2 ^ s.get F.TIER_SAMPLE_CFG_N_LOG2 != 0 then s
  else
    let l := s.leaf i
    let heat := min 255 (l.place.heat + 1)
    let s := s.setLeaf i { l with place := { l.place with lastTick := s.tick, heat := heat } }
    let ph := s.get F.TIER_SAMPLE_CFG_PROMOTE_HEAT
    if ph != 0 && heat ≥ ph && l.tier != .hbm && l.state = .sealed && !hintNoPromote l.place.hints && !s.promos.contains i
    then { s with promos := s.promos ++ [i] } else s

/-! ### Seal placement (R271) -/

/-- The primary of a leaf that has just sealed placed by its hints; it takes free space only. A copy to the pool is a migration;
a DURABLE leaf's copy in flash, just programmed, becomes its primary at once. -/
def State.placeSealed (s : State) (i : Nat) : State :=
  let l := s.leaf i
  let t := hintTier l.place.hints
  let toPool (s : State) : State :=
    if !hintNoPool l.place.hints && s.poolUp && s.withinLimit l.partition 1 2 && s.poolFree > 0 then
      match s.pickPool with
      | (some k, s) => s.startMove i .pool k
      | (none, s) => s
    else s
  if l.noStore then s
  else match l.persist with
    | .vol => if t = 1 || t = 2 then toPool s else s
    | _ => if t = 2 then (s.dropToDurable i).getD s else if t = 1 then toPool s else s

end Sys2Proof.Machine
end

