-- ==== Sys2Proof/Machine/Reads.lean ====
section
/-! DEFINITION. Reads of leaves: holds and what they see (R23, R48, R180, R181, R268), poison at the reader (R166, R407,
R410), decoded values (R154) and the slot image (R20, R159). -/

namespace Sys2Proof.Machine

open Sys2Proof

/-- The tokens of a FILLING leaf that are visible: the leading run of its written tokens (R48). -/
def visibleRun : List (Option TokKV) → Nat
  | some _ :: t => visibleRun t + 1
  | _ => 0

/-- Whether a read of a leaf falls back to its durable copy (R268). -/
def Leaf.fallsBack (l : Leaf) : Bool :=
  l.tier != .flash && l.durable.isSome && (l.failedPrimary || (match l.cur with | some c => c.spoilt | none => true))

/-- The copy that a read of a leaf takes its hold on. -/
def Leaf.readCopy (l : Leaf) : Copy :=
  if l.fallsBack then l.durable.getD {} else (l.primary.or (l.cur.or l.durable)).getD {}

/-- Whether every line of a leaf reads poisoned: it is POISONED, the copy fails its tag, it cannot be read and there is no
other, or a staged value of its chunk reads as uncorrectable (R166, R408, R409). -/
def Leaf.dead (l : Leaf) (c : Copy) (chunkBad : Bool) : Bool :=
  l.state == .poisoned || c.tagBad || (l.failedPrimary && !l.fallsBack)
    || (l.state == .filling && (chunkBad || l.staged.any (fun x => match x with | some v => v.bad | none => false)))

/-- Whether the code table of a copy reads as uncorrectable and no slice holds it in its cache (R411). -/
def State.tableLost (s : State) (l : Leaf) (c : Copy) : Bool :=
  let k := scopeKey l.partition c.hdr.shapeIndex c.hdr.keyFormat * 256 + c.hdr.codecEpoch.toNat
  s.badRecs.contains (4, k) && !c.hdr.raw && !s.tabCache.any (fun (x : Nat × List Nat) => x.2.contains k)

/-- What a read of a leaf that takes its hold now will see. -/
def State.viewOf (s : State) (i chunk : Nat) (chunkBad : Bool) : View :=
  let l := s.leaf i
  let c := l.readCopy
  let filling := l.state == .filling || c.payload == []
  { leaf := i, chunk := chunk, filling := filling, dead := l.dead c chunkBad || (!filling && s.tableLost l c), copy := c, tier := c.tier, staged := l.staged
    count := if filling then visibleRun l.staged else c.hdr.tokenCount
    sh := if filling then (match s.seqs.get? l.ownerSequence with | some q => s.seqShape q | none => [])
      else s.shapeAt l.partition c.hdr.shapeIndex c.hdr.shapeEpoch
    shadow := if l.shadowPresent then l.shadow else none, generation := l.generation }

/-- The owner number of holds that background work of the device takes. -/
def deviceOwner : Nat := 2 ^ 64

/-- Whether a leaf can take a hold more (R23). -/
def State.canHold (s : State) (i : Nat) : Bool := s.holdCount i < 65535

/-- The holds of an owner on what a read will see, and the view. -/
def State.holdView (s : State) (owner i chunk : Nat) (chunkBad : Bool) : View × State :=
  let v := s.viewOf i chunk chunkBad
  let s := s.hold owner i v.copy.cid
  (v, match v.shadow with | some sh => s.hold owner i sh.cid | none => s)

/-- A held leaf read: a fallback is counted, a failed tag raised, and a leaf of which every copy is bad enters POISONED behind
the hold (R33, R268, R287). -/
def State.noteRead (s : State) (v : View) : State :=
  let i := v.leaf
  let l := s.leaf i
  let s := if l.fallsBack then
      (s.setLeaf i { l with failedPrimary := true }).bump F.TIER_FALLBACKS_COUNT
    else s
  let s := s.checkTags i
  let s := match v.tier with
    | .hbm => s.bump F.RAS_HBM_POISON_READS_COUNT v.copy.poison.length
    | .pool => (s.readPass l.partition v.copy).bump F.POOL_POISON_READS_COUNT v.copy.poison.length
    | .flash => s
  if !v.filling && v.copy.spoilt && l.state != .poisoned then s.poisonLeaf i else s

/-- A leaf held for an owner and read, and what the read sees. -/
def State.takeView (s : State) (owner i chunk : Nat) (chunkBad : Bool) : View × State :=
  let (v, s) := s.holdView owner i chunk chunkBad
  (v, s.noteRead v)

/-- The poisoned lines of the slot image (R408): a payload line is one line further on. -/
def View.lines (v : View) : List Nat :=
  if v.dead then List.range 4096
  else if v.filling then []
  else (List.range 4096).filter (fun n => n != 0 && v.copy.poison.contains (n - 1))

/-- Whether a view carries poison. -/
def View.poisoned (v : View) : Bool := v.dead || (!v.filling && v.copy.poison != [])

/-- A list of staged tokens cut to a count, the rest zero. -/
def stagedRegion (h t d count : Nat) (rows : List (List Word)) : List Word :=
  (List.range h).flatMap (fun i => (List.range t).flatMap (fun k =>
    if k < count then ((rows.getD k []).drop (i * d)).take d else List.replicate d 0))

/-- The keys and values of a view in FP32, each [kv_head][token][channel] over tokens_per_leaf tokens (R154, R181). -/
def View.keysVals (v : View) : List Word × List Word :=
  if v.filling then
    let toks := v.staged.map (fun x => x.getD {})
    let (h, t, d) := (shHeads v.sh, shTpl v.sh, shDim v.sh)
    (stagedRegion h t d v.count (toks.map (·.k)), stagedRegion h t d v.count (toks.map (·.v)))
  else
    (decodeKeys v.sh v.copy.hdr.keyFormat v.copy.hdr.valueFormat v.copy.payload,
      decodeVals v.sh v.copy.hdr.keyFormat v.copy.hdr.valueFormat v.copy.payload)

/-- The keys and values of a shadow (R150, R246). -/
def shadowKV (sh payload : Bytes) : List Word × List Word :=
  (decodeKeys sh 11 12 payload (side := false), decodeVals sh 11 12 payload)

/-- The header of a shadow (R285). -/
def State.shadowHdr (s : State) (v : View) (payload : Bytes) : LeafHdr :=
  let h : LeafHdr := { v.copy.hdr with
    keyFormat := 11, valueFormat := 12, raw := true, codecEpoch := 0, generation := v.generation
    keyEpoch := (match v.shadow with | some sh => sh.keyEpoch | none => 0), compressedLength := payload.length }
  let p := (s.leaf v.leaf).partition
  { h with tag := leafTag (s.leafKey p h.keyEpoch) v.leaf p h (encryptUnits (s.leafKey p h.keyEpoch) v.leaf h.generation p payload) }

/-- The decoded slot image of 262,144 bytes (R79). -/
def slotImage (h : LeafHdr) (payload : Bytes) : Bytes := padTo 262144 (hdrBytes h ++ payload)

/-- The runs of a buffer by whether its 64-byte lines are poisoned: offset, bytes, poison. -/
def poisonRuns (lines : List Nat) : Nat → Nat → Bytes → List (Nat × Bytes × Bool)
  | 0, _, _ => []
  | n + 1, i, bs =>
    if bs = [] then []
    else
      let bad := lines.contains i
      let l := bs.take 64
      (i * 64, if bad then l.map (fun _ => 0) else l, bad) :: poisonRuns lines n (i + 1) (bs.drop 64)

/-- A buffer written to the destination of a request, its poisoned lines as zero bytes that carry poison (R406, R408). -/
def State.writeLines (s : State) (r : Req) (role addr : Nat) (bs : Bytes) (lines : List Nat) : State :=
  s.bufWrite r role addr ((poisonRuns lines (bs.length / 64 + 1) 0 bs).flatMap (fun x => x.2.1)) lines

/-- Values written in a plain format, the saturations counted (R155). -/
def State.convertOut (s : State) (f : FpFmt) (xs : List Word) : Bytes × State :=
  let r := writeElems f xs
  (r.1, s.bump F.QUANT_SATURATED_COUNT r.2)

/-- The table of a view's copy fetched into the cache of a codec slice, which holds 64 tables (R165); which one gives way the
spec leaves open (log entry 5). -/
def State.cacheTable (s : State) (g : Nat) (v : View) : State :=
  let k := scopeKey (s.leaf v.leaf).partition v.copy.hdr.shapeIndex v.copy.hdr.keyFormat * 256 + v.copy.hdr.codecEpoch.toNat
  let c := s.tabCache.getD g []
  if v.filling || v.copy.hdr.raw || c.contains k then s
  else
    let (x, s) := s.free
    let c := if c.length < 64 then c else c.eraseIdx (x % 64)
    ({ s with tabCache := s.tabCache.set g (c ++ [k]) }).bump F.CODEC_TABLE_MISS_COUNT 1 g

/-- A copy decoded outside a Spire, in a slice that is on (log entry 5). -/
def State.decodeAny (s : State) (v : View) : State :=
  let on := (List.range 8).filter (fun g => s.pdOn (56 + g))
  let (x, s) := s.free
  match on[x % max 1 on.length]? with
  | some g => s.cacheTable g v
  | none => s

/-- Whether the tier of a view's copy cannot be read: the pool is not up there, or flash is not readable (R195, R287). -/
def State.readFails (s : State) (v : View) : Bool :=
  !v.filling && (match v.tier with
    | .hbm => false
    | .pool => !s.poolUp || !s.pool.exts.any (fun x => (x.2.state == 1 || x.2.state == 2) && x.2.hasSlot v.copy.loc)
    | .flash => !s.flashReadable)

/-- Whether a pool or flash read would arrive after a time: the time it takes is not given (R245, log entries 4, 87). -/
def State.arrivesLate (s : State) (t : Tier) (by_ : Nat) : Bool × State :=
  if s.time > by_ then (true, s)
  else match t with
    | .hbm => (false, s)
    | _ => (s.time + s.free.1 > by_, s.free.2)

end Sys2Proof.Machine
end

