-- ==== Sys2Proof/Machine/Lantern.lean ====
section
/-! DEFINITION. Summary blocks of Lantern (R203, R204) and its arrays: which are usable, and which a SELECT holds (R200, R206,
R209). -/

namespace Sys2Proof.Machine

open Sys2Proof

/-- The mean of one KV head's keys over the tokens of a leaf, channel by channel: summed in token order, divided once. -/
def meanRow (rows : List (List Word)) (d : Nat) : List Word :=
  let sum := rows.foldl (fun acc r => (acc.zip r).map (fun p => fadd p.1 p.2)) (List.replicate d (0 : Word))
  sum.map (fun x => fdiv x (fnat rows.length))

/-- The row scale of a mean, up(amax / 7), as FP16 bits, and its cells. -/
def summaryRow (mean : List Word) : Nat × List Int :=
  if amaxBits mean = 0 then (0, mean.map (fun _ => 0))
  else
    let s := (fp16.convert (num32 (fdiv (amax mean) (fnat 7))) true).1
    (s, mean.map (fun x => clampInt (-7) 7 (fround (fdiv x (half s)))))

/-- The summary block of a leaf from its decoded keys; none for policy NONE (R201). -/
def summaryOf (sh : Bytes) (gen : Epoch) (count : Nat) (keys : List Word) : Option Summary :=
  if shPolicy sh = 0 then none
  else
    let d := shDim sh
    let t := shTpl sh
    let rows := (List.range (shHeads sh)).map (fun h => summaryRow (meanRow ((List.range t).map (rowOf keys t d h)) d))
    some { generation := gen, valid := true, tokenCount := count, scales := rows.map (·.1), cells := rows.flatMap (·.2) }

/-- The size B of a summary block (R203). -/
def summaryBlock (sh : Bytes) : Nat :=
  let span := if shDim sh ≤ 128 then 1 else 2
  ceilDiv (16 + 2 * shHeads sh) 64 * 64 + shHeads sh * span * 64

/-! ### The arrays -/

def State.larray (s : State) (a : Nat) : LArray := s.arrays.getD a {}

/-- The trims of a column group of an array (R216): GAIN with 14 fraction bits, OFFSET in sixteenths, two's complement. -/
def State.trimGain (s : State) (a g : Nat) : Nat := ((s.larray a).trims.getD g (0x4000, 0)).1
def State.trimOffset (s : State) (a g : Nat) : Int := (BitVec.ofNat 16 ((s.larray a).trims.getD g (0x4000, 0)).2).toInt

/-- The array at a place among those a SELECT holds; passes beyond them load the same ones again (R205, step 3). -/
def heldAt (arrays : List Nat) (i : Nat) : Nat := arrays.getD (i % max 1 arrays.length) 0

/-- LANTERN_CFG.CAL_DELTA, of which 0 acts as 1. -/
def State.calDelta (s : State) : Nat := max 1 (s.get F.LANTERN_CFG_CAL_DELTA)

/-- The difference of two temperatures. -/
def natDiff (a b : Nat) : Nat := max a b - min a b

/-- Whether the last success of an array's calibration is recent enough and near enough in temperature (R209). -/
def State.calFresh (s : State) (a : Nat) : Bool :=
  let x := s.larray a
  (match x.lastOk with | some t => decide (s.time < t + s.get F.LANTERN_CFG_STALE_MS * 1000000) | none => false)
    && decide (natDiff (s.get F.LANTERN_GROUP_STATUS_TEMP_C (a / 16)) x.temp < 2 * s.calDelta)

/-- The arrays of a group. -/
def groupArrays (g : Nat) : List Nat := (List.range 16).map (· + 16 * g)

/-- Usable arrays of a powered group; retired ones are never allocated (R209, R413). -/
def State.usableArrays (s : State) (g : Nat) : List Nat :=
  if s.pdOn (76 + g) then
    (groupArrays g).filter (fun a => (s.larray a).state == 1 && s.calFresh a && !s.ras.arrays.contains a)
  else []

/-- A group that reaches zero usable arrays while powered is reported (R209). -/
def State.noUsable (s : State) (g : Nat) : State := if (s.usableArrays g).isEmpty then s.raise gLantern 1 else s

/-! ### Arrays that a SELECT holds (R206, R216) -/

/-- Whether the holder of arrays is still there: a request, or an instance before its commit point (owner, slot). -/
def State.selectLive (s : State) (o : Nat × Nat) : Bool :=
  if o.1 < 2 ^ 48 then (s.req? o.1).isSome
  else match s.insts.get? (o.1 - 2 ^ 48) with | some x => !x.commit | none => false

/-- The SELECT that holds an array. -/
def State.arrayHolder (s : State) (a : Nat) : Option (Nat × Nat) := (s.larray a).holder.filter s.selectLive

/-- Whether a SELECT holds an array: HELD of LANTERN_ARRAY_STATUS. -/
def State.arrayHeld (s : State) (a : Nat) : Bool := (s.arrayHolder a).isSome

/-- The arrays that a SELECT holds. -/
def State.heldBy (s : State) (o : Nat × Nat) : List Nat := (List.range 64).filter (fun a => s.arrayHolder a == some o)

/-- The usable arrays of a group that no SELECT holds. -/
def State.freeArrays (s : State) (g : Nat) : List Nat := (s.usableArrays g).filter (fun a => !s.arrayHeld a)

/-- The holder of a set of arrays changes. -/
def State.setHolder (s : State) (o : Option (Nat × Nat)) (as : List Nat) : State :=
  { s with arrays := as.foldl (fun (t : Table LArray) a => t.set a { t.getD a {} with holder := o }) s.arrays }
def State.holdArrays (s : State) (o : Nat × Nat) (as : List Nat) : State := s.setHolder (some o) as
def State.releaseArrays (s : State) (as : List Nat) : State := s.setHolder none as

/-- The SELECTs that hold arrays of a group: their partitions (R453). -/
def State.lanternParts (s : State) (g : Nat) : List Nat :=
  (groupArrays g).filterMap (fun a => match s.arrayHolder a with
    | none => none
    | some o => if o.1 < 2 ^ 48 then (s.req? o.1).map (·.part) else (s.insts.get? (o.1 - 2 ^ 48)).map (·.part))

end Sys2Proof.Machine
end

