-- ==== Sys2Proof/Machine/Hash.lean ====
section
/-! DEFINITION. The chain hash (R90): 64-bit words, arithmetic modulo 2^64. -/

namespace Sys2Proof.Machine

open Sys2Proof

def chC0 : BitVec 64 := 0x71a40d3e9b58c2f6
def chC1 : BitVec 64 := 0x2e85b7c146d90fa3
def chM0 : BitVec 64 := 0x9e3779b97f4a7c15
def chM1 : BitVec 64 := 0x8f3c5a2d71e64b9b

/-- The rounds over the tokens, four at a time. -/
def chRounds : List Nat → BitVec 64 × BitVec 64 → BitVec 64 × BitVec 64
  | t0 :: t1 :: t2 :: t3 :: rest, (a, b) =>
    let w0 := BitVec.ofNat 64 (t0 % 2 ^ 32 + t1 % 2 ^ 32 * 2 ^ 32)
    let w1 := BitVec.ofNat 64 (t2 % 2 ^ 32 + t3 % 2 ^ 32 * 2 ^ 32)
    let a := (a + w0).rotateLeft 24 ^^^ b
    chRounds rest (a, (b + w1).rotateLeft 40 ^^^ a)
  | _, ab => ab

/-- H(i) from H(i − 1), the shape identifier, the adapter and the tokens of the chunk; low 64 bits in [63:0]. -/
def chainHash (prev shapeId adapter : Nat) (toks : List Nat) : Nat :=
  let a := (BitVec.ofNat 64 (prev % 2 ^ 64) ^^^ chC0) + BitVec.ofNat 64 (shapeId % 2 ^ 32)
  let b := (BitVec.ofNat 64 (prev / 2 ^ 64) ^^^ chC1) + BitVec.ofNat 64 (adapter % 2 ^ 16 * 2 ^ 32 + toks.length)
  let ab := chRounds toks (a, b)
  let a := (ab.1 ^^^ (ab.1 >>> 32)) * chM0
  let b := (ab.2 ^^^ (ab.2 >>> 32)) * chM1
  (a ^^^ b.rotateLeft 32).toNat + (b + a).toNat * 2 ^ 64

/-- The context tag (R95). -/
def ctxTag (shapeId adapter : Nat) : Nat :=
  (shapeId ^^^ (shapeId / 2 ^ 8) ^^^ (shapeId / 2 ^ 16) ^^^ (shapeId / 2 ^ 24) ^^^ adapter ^^^ (adapter / 2 ^ 8)) % 256

end Sys2Proof.Machine
end

