-- ==== Sys2Proof/Machine/Search.lean ====
section
/-! DEFINITION. Canopy and the root index (R93 to R112): searches, walks, placement of entries, filling and removal. -/

namespace Sys2Proof.Machine

open Sys2Proof

/-! ### Canopy banks (R93, R94, R104) -/

def State.bank (s : State) (b : Nat) : CanopyBank := s.banks.getD b {}
/-- The width code of a bank: 0 unused; 1, 2 or 3 for 1, 2 or 4 units. -/
def State.bankWidth (s : State) (b : Nat) : Nat := s.get F.CANOPY_BANK_CFG_WIDTH b
def bankUnits (w : Nat) : Nat := match w with | 1 => 1 | 2 => 2 | _ => 4
def bankSlots (w : Nat) : Nat := 131072 / bankUnits w
/-- A bank that holds entries: powered, in use, and not retired (R413). -/
def State.bankLive (s : State) (b : Nat) : Bool := s.pdOn (72 + b / 16) && s.bankWidth b != 0 && !(s.bank b).retired

/-- EMPTY kept in step with a bank's entries. -/
def State.setBank (s : State) (b : Nat) (k : CanopyBank) : State :=
  ({ s with banks := s.banks.set b k }).put F.CANOPY_BANK_CFG_EMPTY (b2n (k.entries == [])) b

/-- The live banks of a width whose half a hash selects (R94). -/
def State.halfBanks (s : State) (w hash : Nat) : List Nat :=
  (List.range 64).filter (fun b => s.bankLive b && s.bankWidth b == w && b % 2 == hash % 2)

/-- The cells of a prefix entry of a width (R95). -/
def prefixCells (w : Nat) (e : RootEntry) : Nat :=
  if w = 1 then e.hash % 2 ^ 56 + e.ctxTag * 2 ^ 56
  else e.hash % 2 ^ 96 + e.partition * 2 ^ 96 + e.adapterId * 2 ^ 104 + e.ctxTag * 2 ^ 120

/-- What an exact search looks for: hash, partition, adapter and context tag, and whether the lookup is shared (R99). -/
structure Key where
  hash : Nat
  part : Nat
  adapter : Nat
  tag : Nat
  shared : Bool
  deriving DecidableEq, Repr

/-- Whether a stored entry matches an exact search (R99). -/
def exactMatch (w : Nat) (k : Key) (e : CanopyEntry) : Bool :=
  e.kind == .index && !e.cleared
    && (if w = 1 then e.value == k.hash % 2 ^ 56 + k.tag * 2 ^ 56
        else
          let v := prefixCells 2 { hash := k.hash, partition := k.part, adapterId := k.adapter, ctxTag := k.tag }
          if k.shared then setBits e.value 102 96 0 == setBits v 102 96 0 else e.value == v)

/-- Matches gathered in bank and slot order, put into resolution order (R98): the higher priority first, then the lower bank, then the
lower slot. -/
def inResolution (hits : List CanopyEntry) : List CanopyEntry := hits.mergeSort (fun a b => a.priority ≥ b.priority)

/-- What a search reports (R98): the first match in resolution order, and whether there are several. -/
def searchReport (hits : List CanopyEntry) : Option CanopyEntry × Bool := ((inResolution hits).head?, decide (hits.length > 1))

/-- The banks that an exact search engages: those of 1 and 2 units of the half that its hash selects (R94). -/
def State.exactBanks (s : State) (hash : Nat) : List Nat :=
  (List.range 64).filter (fun b => s.bankLive b && (s.bankWidth b == 1 || s.bankWidth b == 2) && b % 2 == hash % 2)

/-- The entries that an exact search matches, in bank and slot order (R99). -/
def State.exactHits (s : State) (k : Key) : List CanopyEntry :=
  (s.exactBanks k.hash).flatMap (fun b =>
    ((s.bank b).entries.filter (fun x => exactMatch (s.bankWidth b) k x.2)).map (·.2))

/-- The hits of the entries that a search matches counted (R97). -/
def State.countHits (s : State) (k : Key) : State :=
  { s with banks := s.banks.map (fun x =>
      if (s.exactBanks k.hash).contains x.1 then
        (x.1, { x.2 with entries := x.2.entries.map (fun y =>
          if exactMatch (s.bankWidth x.1) k y.2 then (y.1, { y.2 with hits := min 65535 (y.2.hits + 1) }) else y) })
      else x) }

/-- An exact search of Canopy with what it reports (R98, R99). -/
def State.canopySearch (s : State) (k : Key) : (Option CanopyEntry × Bool) × State := (searchReport (s.exactHits k), s.countHits k)

/-- A ternary search of the 4-unit entries (R99) in resolution order (R98). The entries of a group that is off are searched in the HBM
shadow and count alike (R134); a cleared entry is one that the shadow has lost too (R102, R411). -/
def State.ternary (s : State) (key : Nat) : List CanopyEntry :=
  inResolution ((List.range 64).flatMap (fun b =>
    if s.bankWidth b = 3 then
      ((s.bank b).entries ++ (s.bank b).away).filterMap (fun x =>
        if x.2.kind == .rule && !x.2.cleared && ((x.2.value ^^^ key) &&& x.2.care) % 2 ^ 128 == 0 then some x.2 else none)
    else []))

/-- The place of an entry in the priority order of a bank: behind the last entry of its priority or more. -/
def bankPlace (es : Table CanopyEntry) (p : Nat) : Nat :=
  match (es.filter (fun x => x.2.priority ≥ p)).getLast? with | some x => x.1 + 1 | none => 0

/-- An entry placed in a bank (R101): the entries between its place and the nearest hole of the same run move by one slot, the hole
above where two are equally near (DESIGN CHOICE). None where the run has no hole. -/
def bankInsert (cap run : Nat) (es : Table CanopyEntry) (e : CanopyEntry) : Option (Table CanopyEntry) :=
  let k := bankPlace es e.priority
  let r := min k (cap - 1) / run * run
  let free (i : Nat) : Bool := decide (i < cap) && (es.get? i).isNone
  let up := ((List.range run).map (r + ·)).find? (fun i => i ≥ k && free i)
  let down := (((List.range run).reverse).map (r + ·)).find? (fun i => i < k && free i)
  let useUp (h : Nat) : Table CanopyEntry := Table.set k e (es.map (fun x => if k ≤ x.1 && x.1 < h then (x.1 + 1, x.2) else x))
  let useDown (h : Nat) : Table CanopyEntry := Table.set (k - 1) e (es.map (fun x => if h < x.1 && x.1 < k then (x.1 - 1, x.2) else x))
  match up, down with
  | some h, some g => some (if h - k ≤ k - 1 - g then useUp h else useDown g)
  | some h, none => some (useUp h)
  | none, some g => some (useDown g)
  | none, none => none

/-- One entry put into the bank with the fewest entries of a list, the lowest of them (DESIGN CHOICE: the spec does not say which bank of
the half takes an entry; log entry 36); a bank without a hole in the run is marked RESPREAD. -/
def State.canopyPut (s : State) (bs : List Nat) (e : CanopyEntry) : Bool × State :=
  match bs with
  | [] => (false, s)
  | b0 :: t =>
    let b := t.foldl (fun m b => if (s.bank b).entries.length < (s.bank m).entries.length then b else m) b0
    let w := s.bankWidth b
    let hole := if (s.bank b).entries = [] then s.get F.CANOPY_BANK_CFG_HOLE_LOG2 b else (s.bank b).hole
    match bankInsert (bankSlots w) (2 ^ hole) (s.bank b).entries e with
    | some es => (true, s.setBank b { s.bank b with entries := es, hole := hole })
    | none => (false, s.put F.CANOPY_BANK_CFG_RESPREAD 1 b)

/-- The entries of Canopy that a condition names, dropped from their banks and from the shadow. -/
def State.dropEntries (s : State) (gone : CanopyEntry → Bool) : State :=
  (List.range 64).foldl (fun s b =>
    let k := s.bank b
    if (k.entries ++ k.away).any (fun x => gone x.2) then
      s.setBank b { k with entries := k.entries.filter (fun x => !gone x.2), away := k.away.filter (fun x => !gone x.2) }
    else s) s

/-- Entries laid out with a hole at the end of each run, for as many runs as have one (R101). -/
def respread (cap run : Nat) (es : List CanopyEntry) : Table CanopyEntry :=
  let holes := min (cap - es.length) (cap / run)
  es.mapIdx (fun i e =>
    let lead := holes * (run - 1)
    (if i < lead then i / (run - 1) * run + i % (run - 1) else holes * run + (i - lead), e))

/-- A bank rebuilt with entries in priority order. -/
def State.rebuildBank (s : State) (b : Nat) (es : List CanopyEntry) : State :=
  let hole := s.get F.CANOPY_BANK_CFG_HOLE_LOG2 b
  (s.setBank b { s.bank b with entries := respread (bankSlots (s.bankWidth b)) (2 ^ hole) es, hole := hole }).put
    F.CANOPY_BANK_CFG_RESPREAD 0 b

/-- The holes of a bank restored. -/
def State.respreadBank (s : State) (b : Nat) : State := s.rebuildBank b ((s.bank b).entries.map (·.2))

/-- Every prefix entry of a hash dropped from Canopy. -/
def State.canopyDrop (s : State) (hash : Nat) : State :=
  s.dropEntries (fun x => x.kind == .index && (match x.root with | some r => r.hash == hash | none => false))

/-- Whether Canopy holds the entries of a hash (R100). -/
def State.canopyHas (s : State) (hash : Nat) : Bool :=
  (List.range 64).any (fun b => (s.bank b).entries.any (fun x =>
    x.2.kind == .index && (match x.2.root with | some r => r.hash == hash | none => false)))

/-! ### The shard map (R117, R393, R394) -/

/-- The shard bucket of a tree, from the hash of its chunk 0. -/
def shardBucket (h0 : Nat) : Nat := bits h0 127 116

def State.joined (s : State) : Bool := s.get F.RING_STATUS_STATE == 3

/-- The owner of a bucket under the current map. -/
def State.bucketOwner (s : State) (b : Nat) : Nat := s.ring.map.getD b 0

/-- The other member that owns a bucket under a map, if another does: a request routes by the map in force when it starts (R394). -/
def State.otherOwner? (s : State) (m : List Nat) (b : Nat) : Option Nat :=
  if s.joined && m.getD b 0 != s.pos then some (m.getD b 0) else none

/-- The words of an INDEX frame: 1 insert, 0 remove, 2 the last of a transfer, 3 purge, 4 purge acknowledged; then the
entry. -/
def indexBody (op : Nat) (e : RootEntry) : List Nat :=
  [op, e.hash, e.seqIndex, e.ringPos, e.chunkNumber, e.partition, e.generation.toNat, e.adapterId, e.priority, e.shapeIndex,
    e.ctxTag, e.bucket]

/-- An insertion or removal in a moving bucket sent on to its new owner (R394, item 2). -/
def State.indexMirror (s : State) (op : Nat) (e : RootEntry) : State :=
  match s.ring.next with
  | some m =>
    if s.joined && s.bucketOwner e.bucket == s.pos && m.getD e.bucket 0 != s.pos
    then s.ringSend (m.getD e.bucket 0) 8 0 e.partition (indexBody op e) else s
  | none => s

/-! ### The root index (R105 to R108) -/

def State.rootBuckets (s : State) : Nat := 2 ^ s.get F.ROOT_CFG_LOG2_BUCKETS
def State.bucket1 (s : State) (h : Nat) : Nat := h / 2 ^ 102 % s.rootBuckets
/-- The second bucket; never the first. -/
def State.bucket2 (s : State) (h : Nat) : Nat :=
  let b := h / 2 ^ 76 % s.rootBuckets
  if b = s.bucket1 h then b ^^^ 1 else b

/-- The entries of a bucket with their keys, by offset. -/
def State.bucketEntries (s : State) (b : Nat) : List (Nat × RootEntry) :=
  (List.range 4).filterMap (fun i => (s.roots.get? (b * 4 + i)).map (fun e => (b * 4 + i, e)))

/-- All valid entries of a hash, bucket b1 before b2. -/
def State.rootOf (s : State) (h : Nat) : List (Nat × RootEntry) :=
  (s.bucketEntries (s.bucket1 h) ++ s.bucketEntries (s.bucket2 h)).filter (fun x => x.2.hash == h)

/-- A walk (R107): the permitted entries of a hash, by descending priority, bucket and offset. -/
def State.walk (s : State) (h : Nat) (permitted : Nat → Bool) : List (Nat × RootEntry) :=
  ((s.rootOf h).filter (fun x => permitted x.2.partition)).mergeSort (fun a b => a.2.priority ≥ b.2.priority)

/-- ROOT_ENTRIES in step with the index. -/
def State.setRoots (s : State) (t : Table RootEntry) : State := ({ s with roots := t }).put F.ROOT_ENTRIES_COUNT t.length

def freePlace (s : State) (b : Nat) : Option Nat :=
  ((List.range 4).find? (fun i => (s.roots.get? (b * 4 + i)).isNone)).map (fun i => b * 4 + i)

/-- The pointer of the Canopy copies of a root entry that has moved (R97, R108). -/
def State.repoint (s : State) (e : RootEntry) (key : Nat) : State :=
  let at_ := s.base F.ROOT_BASE_LO_ADDR F.ROOT_BASE_HI_ADDR + key * 32
  { s with banks := s.banks.map (fun b => (b.1, { b.2 with
      entries := b.2.entries.map (fun x => if x.2.root = some e then (x.1, { x.2 with pointer := at_ }) else x) })) }

/-- An entry placed by R108, or none. -/
def State.rootPlace (s : State) (e : RootEntry) : Option State :=
  let b1 := s.bucket1 e.hash
  let b2 := s.bucket2 e.hash
  let n1 := (s.bucketEntries b1).length
  let n2 := (s.bucketEntries b2).length
  let b := if n2 < n1 then b2 else b1
  match freePlace s b with
  | some k => some (s.setRoots (s.roots.set k e))
  | none =>
    let move := (s.bucketEntries b1).findSome? (fun x =>
      let o := if s.bucket1 x.2.hash = b1 then s.bucket2 x.2.hash else s.bucket1 x.2.hash
      (freePlace s o).map (fun k => (x, k)))
    match move with
    | some (x, k) => some ((s.setRoots ((s.roots.set k x.2).set x.1 e)).repoint x.2 k)
    | none => none

/-- The prefix entry of Canopy that copies a root entry. -/
def rootCopy (s : State) (w : Nat) (key : Nat) (e : RootEntry) : CanopyEntry :=
  { value := prefixCells w e, pointer := s.base F.ROOT_BASE_LO_ADDR F.ROOT_BASE_HI_ADDR + key * 32, root := some e
    priority := e.priority }

/-- Whether some bank of a list has a free slot. -/
def State.anyRoom (s : State) (bs : List Nat) : Bool :=
  bs.any (fun b => (s.bank b).entries.length < bankSlots (s.bankWidth b))

/-- The hash resident in a list of banks with the fewest hits, another than one that is being filled. A key counts by its entry with the
fewest hits, and of equal ones the first in bank and slot order is taken (DESIGN CHOICE: the spec gives neither; log entry 36). -/
def State.coldest (s : State) (bs : List Nat) (but : Nat) : Option Nat :=
  ((bs.flatMap (fun b => (s.bank b).entries)).foldl (fun (m : Option (Nat × Nat)) x =>
    match x.2.root with
    | some r => if r.hash = but then m else (match m with
      | some (_, h) => if x.2.hits < h then some (r.hash, x.2.hits) else m
      | none => some (r.hash, x.2.hits))
    | none => m) none).map (·.1)

/-- Room made in a list of banks for an entry of a hash: where all are full, the coldest key goes (R100). -/
def State.makeRoom (s : State) (bs : List Nat) (h : Nat) : State :=
  if s.anyRoom bs then s else match s.coldest bs h with | some x => s.canopyDrop x | none => s

/-- One root entry copied into banks of a width, or the whole key dropped where no hole takes it (R100, R101). -/
def State.fillOne (s : State) (w h : Nat) (x : Nat × RootEntry) : Bool × State :=
  let bs := s.halfBanks w h
  let r := (s.makeRoom bs h).canopyPut bs (rootCopy s w x.1 x.2)
  (r.1, if r.1 then r.2 else r.2.canopyDrop h)

/-- All entries of a hash put into banks of a width, or none of them (R100). -/
def State.fillInto (s : State) (w h : Nat) : State :=
  ((s.rootOf h).foldl (fun (a : Bool × State) x => if a.1 then a.2.fillOne w h x else a) (true, s)).2

/-- The width code of the banks that hold the entries of a hash. -/
def State.residentWidth (s : State) (h : Nat) : Nat :=
  if (s.halfBanks 1 h).any (fun b => (s.bank b).entries.any (fun x => match x.2.root with | some r => r.hash == h | none => false)) then 1 else 2

/-- Whether a hash has an entry whose unit is cleared (R102). -/
def State.canopyCleared (s : State) (hash : Nat) : Bool :=
  (List.range 64).any (fun b => (s.bank b).entries.any (fun x =>
    x.2.cleared && (match x.2.root with | some r => r.hash == hash | none => false)))

/-- The fill of a hash that the root index resolved (R100): into the 2-unit banks, unless Canopy holds it; it writes a
cleared unit again (R411). -/
def State.canopyFill (s : State) (h : Nat) : State :=
  if s.canopyHas h && !s.canopyCleared h then s else (s.canopyDrop h).fillInto 2 h

/-- A root entry removed from the root index and from Canopy (R110, R116). -/
def State.rootRemove (s : State) (key : Nat) (e : RootEntry) : State :=
  ((s.setRoots (s.roots.erase key)).indexMirror 0 e).dropEntries (fun x => x.root == some e)

/-- The priority of an index entry (R106). -/
def indexPriority (q : Sequ) (c : Chunk) : Nat :=
  if c.acts.pin then 0xC0 else if c.acts.shortTtl then 0x20 else if q.persist != .vol then 0x80 else 0x40

/-- The index entry of a chunk of a sequence (R105). -/
def State.indexEntry (s : State) (qi : Nat) (q : Sequ) (c : Chunk) : RootEntry :=
  { hash := c.hash, seqIndex := qi, ringPos := s.pos, chunkNumber := c.number, partition := q.partition
    generation := q.generation, adapterId := q.adapterId, priority := indexPriority q c, shapeIndex := q.shapeIndex
    ctxTag := ctxTag (shId (s.seqShape q)) q.adapterId
    bucket := match q.chunks with | c0 :: _ => shardBucket c0.hash | [] => 0 }

/-- How the insertion of one entry ends. -/
inductive Inserted | made | skipped | failed
  deriving DecidableEq, Repr

/-- One entry inserted (R108, R115): skipped where its sequence has it or its hash has 8; resident hashes take it in
Canopy too. -/
def State.insertEntry (s : State) (e : RootEntry) : Inserted × State :=
  let same := s.rootOf e.hash
  if same.any (fun x => x.2.seqIndex == e.seqIndex && x.2.ringPos == e.ringPos && x.2.chunkNumber == e.chunkNumber
      && x.2.generation == e.generation && x.2.partition == e.partition) || same.length ≥ 8 then (.skipped, s)
  else
    let resident := s.canopyHas e.hash
    match s.rootPlace e with
    | none => (.failed, (s.bump F.ROOT_INSERT_FAIL_COUNT).raise gCanopy 1)
    | some s' => (.made, (if resident then
        match (s'.rootOf e.hash).find? (fun x => x.2 == e) with
        | some x => (s'.fillOne (s.residentWidth e.hash) e.hash x).2
        | none => s'
      else s').indexMirror 1 e)

/-- The entries of a partition. -/
def State.entriesOf (s : State) (p : Nat) : Nat := s.roots.countP (fun x => x.2.partition == p)

/-- The entries of a sequence for a chunk, by key. -/
def State.entriesFor (s : State) (pos qi : Nat) (gen : Epoch) (part chunk : Nat) : List (Nat × RootEntry) :=
  s.roots.filter (fun x => x.2.seqIndex == qi && x.2.ringPos == pos && x.2.generation == gen && x.2.partition == part
    && x.2.chunkNumber == chunk)

/-- Removal of the entries of a sequence for chunks from `n` − 1 down to `first` (R116); counts them. -/
def State.removeRange (s : State) (pos qi : Nat) (gen : Epoch) (part first : Nat) : Nat → Nat × State
  | 0 => (0, s)
  | n + 1 =>
    let es := s.entriesFor pos qi gen part (first + n)
    let s := es.foldl (fun s x => s.rootRemove x.1 x.2) s
    let r := State.removeRange s pos qi gen part first n
    (r.1 + es.length, r.2)

/-- Items 3 to 5 of R110 for an entry of this device. -/
def State.confirm (s : State) (e : RootEntry) : Bool :=
  let q := s.seq e.seqIndex
  q.generation == e.generation && (q.state == .openS || q.state == .published) && e.chunkNumber < q.publishedChunks
    && (match q.chunks[e.chunkNumber]? with
      | some c => c.published && c.hash == e.hash
          && c.leaves.all (fun i => (s.leaf i).state == .sealed || (s.leaf i).state == .migrating)
      | none => false)

/-- A context allocated (R113): at most 4,096 in all and 64 in a partition, and room in the record area. -/
def State.allocCtx (s : State) (c : Ctx) : Option Nat × State :=
  if s.ctxs.length ≥ 4096 || s.ctxs.countP (fun x => x.2.part == c.part) ≥ 64
      || !s.recRoom (Config.ctxGranules (c.found.length + c.rules.length)) then (none, s)
  else
    let r := s.pick (fun k => (s.ctxs.get? k).isSome) 4096
    match r.1 with
    | some k => (some k, { r.2 with ctxs := r.2.ctxs.set k { c with lastUse := s.time } })
    | none => (none, r.2)

end Sys2Proof.Machine
end

