-- ==== Sys2Proof/Machine/Rules.lean ====
section
/-! DEFINITION. Retention rules (R120 to R134): rule sets, the scan of tokens, the actions of a chunk, and classification. -/

namespace Sys2Proof.Machine

open Sys2Proof

/-- The rule-set slots of a partition: epoch 0 with the empty rule set until a load (R121). -/
def State.ruleSlots (s : State) (p : Nat) : Slots RuleSet :=
  s.rules.getD p { cur := some false, a := { loaded := true, body := {} }, b := { body := {} } }

/-- The rule set that a sequence carries. -/
def State.ruleSetOf (s : State) (q : Sequ) : RuleSet := ((s.ruleSlots q.partition).find q.ruleSetEpoch).getD {}

/-- The start state of the rule set of an epoch (R129). -/
def State.ruleStart (s : State) (p : Nat) (e : Epoch) : Nat := (((s.ruleSlots p).find e).getD {}).start

/-- The empty rule set scans nothing (R121). -/
def RuleSet.isEmpty (r : RuleSet) : Bool := r.rules == [] && r.classify == [] && r.trans == []

/-- One step of the automaton on a token (R125, R126). -/
def RuleSet.next (r : RuleSet) (st tok : Nat) : Nat :=
  let cls := r.classMap.getD tok r.dfltClass
  r.trans.getD (st * r.classCount + cls) 0

/-- A match: rule number and the token's position in the sequence. -/
structure Match where
  rule : Nat := 0
  pos : Nat := 0
  deriving DecidableEq, Repr

/-- The matches of a run of tokens from an automaton state and a position, and the state after it (R128). -/
def RuleSet.scan (r : RuleSet) : List Nat → Nat → Nat → List Match × Nat
  | [], st, _ => ([], st)
  | t :: ts, st, pos =>
    let st := r.next st t
    let rest := r.scan ts st (pos + 1)
    ((r.accept.getD st []).map (fun n => { rule := n, pos := pos }) ++ rest.1, rest.2)

def RuleSet.rule (r : RuleSet) (n : Nat) : Rule := r.rules.getD n {}

/-- Resolution order (R131): priority down, rule number up, position up. -/
def RuleSet.before (r : RuleSet) (a b : Match) : Bool :=
  let pa := (r.rule a.rule).priority
  let pb := (r.rule b.rule).priority
  pa > pb || (pa == pb && (a.rule < b.rule || (a.rule == b.rule && a.pos ≤ b.pos)))

def RuleSet.ordered (r : RuleSet) (ms : List Match) : List Match := ms.mergeSort (fun a b => r.before a b)

/-- The actions of a chunk so far joined with the matches in it (R130). Action codes: 0 PIN, 1 NO_STORE, 2 NO_SHARE,
3 CLASS, 4 SHORT_TTL. `hasCls` says that a CLASS rule has matched in the chunk, with its match. -/
structure ChunkActs where
  acts : Acts := {}
  cls : Option Match := none
  deriving DecidableEq, Repr

def RuleSet.applyMatch (r : RuleSet) (a : ChunkActs) (m : Match) : ChunkActs :=
  let x := r.rule m.rule
  match x.action with
  | 0 => { a with acts := { a.acts with pin := true } }
  | 1 => { a with acts := { a.acts with noStore := true } }
  | 2 => { a with acts := { a.acts with noShare := true } }
  | 4 => { a with acts := { a.acts with shortTtl := true } }
  | _ =>
    let better := match a.cls with | none => true | some b => !r.before b m
    if better then { acts := { a.acts with ruleClass := x.cls }, cls := some m } else a

/-- The actions that a chunk begins with: the sticky flags and class of the scan state (R129, R130). -/
def Scan.acts (sc : Scan) : Acts :=
  { noStore := sc.fNoStore, noShare := sc.fNoShare, pin := sc.fPin, shortTtl := sc.fShortTtl, ruleClass := sc.cls }

/-- The scan state after the sticky matches of a chunk (R129, R130): flags at once, the class from the next chunk on. -/
def RuleSet.sticky (r : RuleSet) (sc : Scan) (ms : List Match) : Scan :=
  let st := (r.ordered ms).filter (fun m => (r.rule m.rule).sticky)
  let sc := st.foldl (fun (sc : Scan) m =>
    match (r.rule m.rule).action with
    | 0 => { sc with fPin := true }
    | 1 => { sc with fNoStore := true }
    | 2 => { sc with fNoShare := true }
    | 4 => { sc with fShortTtl := true }
    | _ => sc) sc
  match st.find? (fun m => (r.rule m.rule).action == 3) with
  | some m => { sc with cls := (r.rule m.rule).cls }
  | none => sc

/-- Whether the leaves of a chunk become DURABLE at seal: the sequence's class, the DURABLE flag or PIN, and NO_STORE
outranks all of them (R31, R130). -/
def Acts.durable (a : Acts) (cls : Persist) (flag : Bool) : Bool := !a.noStore && (cls != .vol || flag || a.pin)

/-- The chunk classification key (R96). -/
def classKey (part shape adapter : Nat) (a : Acts) (durable : Bool) (number tokens hash : Nat) : Nat :=
  leNat (leBytes 1 part ++ leBytes 1 shape ++ leBytes 2 adapter ++ leBytes 1 a.ruleClass
    ++ leBytes 1 (b2n a.noStore + 2 * b2n a.noShare + 4 * b2n a.pin + 8 * b2n a.shortTtl + 16 * b2n durable)
    ++ leBytes 4 number ++ leBytes 2 tokens ++ leBytes 4 hash)

/-- The actions of a classification entry joined with a chunk's (R133, R134). -/
def Acts.join (a : Acts) (x : Nat) : Acts :=
  { noStore := a.noStore || bit x 0, noShare := a.noShare || bit x 1, pin := a.pin || bit x 2
    shortTtl := a.shortTtl || bit x 3, ruleClass := if bit x 4 then bits x 15 8 else a.ruleClass }

/-- Classification of a full chunk (R134): the first match of the sequence's epoch in resolution order applies. -/
def State.classify (s : State) (q : Sequ) (a : Acts) (durFlag : Bool) (number tokens hash : Nat) : Acts :=
  if (s.ruleSetOf q).isEmpty then a
  else
    let key := classKey q.partition q.shapeIndex q.adapterId a (a.durable q.persist durFlag) number tokens hash
    match (s.ternary key).find? (fun e => bits e.pointer 39 32 == q.ruleSetEpoch.toNat) with
    | some e => a.join (e.pointer % 2 ^ 32)
    | none => a

/-- The classification entries of a partition's rule-set slot taken out of Canopy (R123). -/
def State.dropClassEntries (s : State) (p : Nat) (e : Epoch) : State :=
  s.dropEntries (fun x => x.kind == .rule && x.value % 128 == p && bits x.pointer 39 32 == e.toNat)

/-- Whether an epoch of a partition's rule sets has users, or a started request has taken it for the sequence that it is about to make
(R122). -/
def State.ruleTaken (s : State) (p : Nat) (e : Epoch) : Bool :=
  s.ruleUsers p e != 0
    || s.reqs.any (fun x => x.2.phase != .fetched && x.2.part == p && x.2.snap.ruleEpoch == e
        && ((x.2.opcode == 0x10 && x.2.handle == 0) || x.2.opcode == 0x13))

/-- The switch to the other slot, which waits for a switch no more (R122). -/
def Slots.switchRules (t : Slots RuleSet) : Slots RuleSet :=
  let t := t.switch
  match t.cur with
  | some false => { t with a := { t.a with body := { t.a.body with waiting := false } } }
  | _ => { t with b := { t.b with body := { t.b.body with waiting := false } } }

/-- A slot that is not current and has no users releases its store and entries (R123). A slot that a load has filled and
no switch has reached yet stays (DEDUCED: its count has not reached zero, it has had no user yet). -/
def State.releaseRules (s : State) (p : Nat) : State :=
  let t := s.ruleSlots p
  let o := t.other
  if o.loaded && !o.body.waiting && !s.ruleTaken p o.epoch then
    let s := s.dropClassEntries p o.epoch
    let t' : Slots RuleSet := match t.cur with
      | some false => { t with b := { body := {} } }
      | _ => { t with a := { body := {} } }
    { s with rules := s.rules.set p t' }
  else s

/-- Stores, states and accept-list entries in use over all loaded rule sets (R120). -/
def State.ruleUsage (s : State) : Nat × Nat × Nat :=
  let all := s.rules.flatMap (fun x => [x.2.a, x.2.b].filter (fun sl => sl.loaded && !sl.body.isEmpty))
  (all.length, (all.map (fun sl => sl.body.stateCount)).sum, (all.map (fun sl => sl.body.acceptCount)).sum)

end Sys2Proof.Machine
end

