-- ==== Sys2Proof/Machine/SeqOps.lean ====
section
/-! DEFINITION. Sequences and the append lease (R25 to R43, R80, R81, R127 to R132, R409, R419): SEQ_OPEN, SEQ_APPEND,
SEQ_PUBLISH, SEQ_FORK, SEQ_RETIRE, SEQ_HEARTBEAT, LEAF_WRITE, the seal of a chunk, lease expiry and release of a record. -/

namespace Sys2Proof.Machine

open Sys2Proof

/-! ### The lease (R38, R39, R43) -/

/-- The end of a lease renewed at a time. -/
def State.leaseEnd (s : State) (p t : Nat) : Nat := t + s.get F.PART_LEASE_CFG_LEASE_MS p * 1000000

/-- Whether a requester holds the lease of a sequence: only an OPEN sequence has one. -/
def State.isHolder (s : State) (q : Sequ) (o : Origin) : Bool :=
  q.state == .openS && (q.holderKind, q.holderIndex, q.holderPosition) == s.holderOf o

/-- A sequence with its lease given to a requester. -/
def State.giveLease (s : State) (q : Sequ) (o : Origin) (t : Nat) : Sequ :=
  let h := s.holderOf o
  { q with holderKind := h.1, holderIndex := h.2.1, holderPosition := h.2.2, leaseExpiry := s.leaseEnd q.partition t }

/-- The lease ended: the tail dropped, the scan state and the chain hash back at the last published boundary (R37, R129). -/
def State.endLease (s : State) (qi : Nat) : State :=
  let s := s.dropTail qi (s.seq qi).publishedChunks
  let q := s.seq qi
  s.setSeq qi { q with
    state := .published, holderKind := 0, holderIndex := 0, holderPosition := 0, scan := q.scanPub
    lastHash := match q.chunks.getLast? with | some c => c.hash | none => q.seed }

/-- Whether a record of tier 0 reads as uncorrectable (R411). -/
def State.recBad (s : State) (kind key : Nat) : Bool := s.badRecs.contains (kind, key)

/-- The shape record of a partition, slot and epoch reads as uncorrectable. -/
def State.shapeBad (s : State) (p slot : Nat) (e : Epoch) : Bool := s.recBad 2 ((p * 16 + slot) * 256 + e.toNat)

/-- The seed of a hash scope (R92, R428): a share group's or a partition's. -/
def State.seedOf (s : State) (shared : Bool) (part group : Nat) : Nat :=
  let id := if shared then s.pair F.SEC_SGRP_ID_LO_ID F.SEC_SGRP_ID_HI_ID group
    else s.pair F.PART_SEC_TENANT_LO_ID F.PART_SEC_TENANT_HI_ID part
  scopeSeed s.fleetSecret (b2n shared) id

/-- The journal records of a sequence's record, where it is journaled (R300). -/
def State.seqRecs (s : State) (qi : Nat) : List JRec :=
  if s.seqJournaled (s.seq qi) then [.seq qi (s.seq qi)] else []

/-! ### SEQ_OPEN (R37, R79) -/

/-- A new sequence (R19, R92, R122, R129). -/
def State.openNew (s : State) (rid : Nat) (r : Req) : State :=
  match s.shapeNow? r.part r.shapeIndex with
  | none => s.bad rid 16
  | some slot =>
    if r.openShared && !r.snap.member then s.complete rid .accessDenied
    else if r.openPersist = 1 && s.journalFull then s.complete rid .readOnlyMedia
    else
      match s.recRoom 2, s.pick (fun k => (s.seq k).state != .free || (s.seq k).withheld) (2 ^ 28) with
      | true, (some k, s) =>
        let sc : Scan := { st := s.ruleStart r.part r.snap.ruleEpoch }
        let seed := s.seedOf r.openShared r.part r.openGroup
        let q : Sequ := {
          state := .openS, persist := persistOf r.openPersist, shapeIndex := r.shapeIndex, shapeEpoch := slot.epoch
          ruleSetEpoch := r.snap.ruleEpoch, generation := (s.seq k).generation + 1, adapterId := r.openAdapter
          tierHints := r.openHints, shareGroup := r.openGroup, shared := r.openShared, lastHash := seed, partition := r.part
          scan := sc, scanPub := sc, seed := seed }
        let s := s.setSeq k (s.giveLease q r.origin r.startTime)
        s.completeJournaled rid (s.seqRecs k) .ok { result0 := s.seqHandle k }
      | _, _ => s.complete rid .quotaExceeded

/-- A PUBLISHED sequence opened again (R37, R38); its rule-set epoch and scan state stand (R122, R129). -/
def State.openAgain (s : State) (rid : Nat) (r : Req) : State :=
  let k := hSeq r.handle
  let q := s.seq k
  if q.state != .published then s.complete rid .accessDenied
  else if s.seqJournaled q && s.journalFull then s.complete rid .readOnlyMedia
  else
    let s := s.setSeq k (s.giveLease { q with state := .openS } r.origin r.startTime)
    s.completeJournaled rid (s.seqRecs k) .ok { result0 := s.seqHandle k, result1 := q.publishedChunks }

def effSeqOpen (s : State) (rid : Nat) : State :=
  match s.startedReq? rid [0x10] with
  | some r => if r.handle = 0 then s.openNew rid r else s.openAgain rid r
  | none => s

def execSeqOpen (e : Env) (rid : Nat) (s : State) : Host.Outcome State Fault Refusal := .next (effSeqOpen (s.enter e) rid)

/-! ### Tokens into chunks (R80, R90, R127 to R130) -/

/-- A run of tokens that go into chunk `num`. -/
structure Seg where
  num : Nat := 0
  toks : List Nat := []
  deriving DecidableEq, Repr

/-- Tokens cut at chunk boundaries, from `have` tokens in chunk `num` on. -/
def cutTokens (t : Nat) : Nat → Nat → Nat → List Nat → List Seg
  | 0, _, _, _ => []
  | k + 1, num, held, toks =>
    if toks.isEmpty then []
    else { num := num, toks := toks.take (t - held) } :: cutTokens t k (num + 1) 0 (toks.drop (t - held))

/-- What the scan of an append has found so far: the scan state, the last chain hash, the chunks, and all matches. -/
structure ScanRun where
  scan : Scan := {}
  last : Nat := 0
  chunks : List Chunk := []
  found : List Match := []
  deriving DecidableEq, Repr

/-- One segment scanned into its chunk: its tokens, its actions so far, and, when it is full, its chain hash, the scan
state at its boundary and the sticky class for the next chunk (R130). -/
def scanSeg (sh : Bytes) (rs : RuleSet) (q : Sequ) (qi : Nat) (a : ScanRun) (g : Seg) (old : Option Chunk) : ScanRun :=
  let t := shTpl sh
  let c := old.getD {
    number := g.num, acts := a.scan.acts, layerCount := shLayers sh, shapeIndex := q.shapeIndex
    shapeEpoch := q.shapeEpoch, ruleSetEpoch := q.ruleSetEpoch, sequenceIndex := qi }
  let r := if rs.isEmpty then ([], a.scan.st) else rs.scan g.toks a.scan.st (g.num * t + c.tokenCount)
  let cls : Option Match := c.cls.map (fun m => { rule := m.1, pos := m.2 })
  let ca := r.1.foldl rs.applyMatch { acts := c.acts, cls := cls }
  let stick := (rs.ordered (r.1.filter (fun m => (rs.rule m.rule).sticky && (rs.rule m.rule).action == 3))).head?
  let stickyCls := match c.stickyCls, stick with
    | some x, some m => if rs.before { rule := x.1, pos := x.2 } m then some x else some (m.rule, m.pos)
    | some x, none => some x
    | none, some m => some (m.rule, m.pos)
    | none, none => none
  let sc := { rs.sticky { a.scan with st := r.2 } r.1 with cls := a.scan.cls }
  let toks := c.tokens ++ g.toks
  let full : Bool := toks.length == t
  let sc := if full = true then (match stickyCls with | some x => { sc with cls := (rs.rule x.1).cls } | none => sc) else sc
  let h := if full then chainHash a.last (shId sh) q.adapterId toks else 0
  let c : Chunk := { c with
    tokens := toks, tokenCount := toks.length, acts := ca.acts, cls := ca.cls.map (fun m => (m.rule, m.pos))
    stickyCls := stickyCls, hash := h, scanAfter := sc }
  { scan := sc, last := if full then h else a.last, chunks := a.chunks ++ [c], found := a.found ++ r.1 }

/-- The segments of an append scanned in order; the first may continue the open chunk. -/
def scanSegs (sh : Bytes) (rs : RuleSet) (q : Sequ) (qi : Nat) : List Seg → Option Chunk → ScanRun → ScanRun
  | [], _, a => a
  | g :: gs, old, a => scanSegs sh rs q qi gs none (scanSeg sh rs q qi a g old)

/-- The chunk that the next token goes into: the last one while it has room. -/
def Sequ.openChunk? (q : Sequ) (t : Nat) : Option Chunk :=
  match q.chunks.getLast? with
  | some c => if c.tokenCount < t then some c else none
  | none => none

/-- The tokens of the open chunk, the last one while it is not sealed, and 0 when none is open (R27, R81; log entry 45). -/
def openTokensOf (cs : List Chunk) : Nat :=
  match cs.getLast? with
  | some c => if c.isSealed then 0 else c.tokenCount
  | none => 0

/-! ### Staged values (R48, R81, R181, R409) -/

/-- Tokens `from_` on of a leaf's staged values replaced. -/
def stageAt (old : List (Option TokKV)) (start : Nat) (new : List TokKV) : List (Option TokKV) :=
  let old := old ++ List.replicate (start - old.length) none
  old.take start ++ new.map some ++ old.drop (start + new.length)

/-- The length of the leading run of tokens that are written (R48). -/
def leadingRun : List (Option TokKV) → Nat
  | some _ :: t => leadingRun t + 1
  | _ => 0

/-- Whether every token of a chunk of `t` tokens is written in a leaf. -/
def allWritten (t : Nat) (st : List (Option TokKV)) : Bool := leadingRun st == t

/-- Whether a staged value of a chunk's leaves reads as uncorrectable (R409). -/
def State.chunkBad (s : State) (c : Chunk) : Bool :=
  c.leaves.any (fun i => (s.leaf i).staged.any (fun x => match x with | some v => v.bad | none => false))

/-- The keys or values of a full leaf in the order of a region, [kv_head][token][channel] (R144). -/
def regionOf (h t d : Nat) (toks : List (List Word)) : List Word :=
  (List.range h).flatMap (fun i => (List.range t).flatMap (fun k => (toks.getD k []).drop (i * d) |>.take d))

/-- One layer block of R80 as `n` tokens. -/
def layerBlock (f : FpFmt) (h d n : Nat) (bs : Bytes) : List TokKV :=
  let rows := chunksOf d (2 * h * n) (readElems f (2 * h * n * d) bs)
  (List.range n).map (fun i =>
    { k := (List.range h).flatMap (fun j => rows.getD (j * n + i) [])
      v := (List.range h).flatMap (fun j => rows.getD (h * n + j * n + i) []) })

/-- A number that is no number or infinite in a source (R140). -/
def blockBad (ts : List TokKV) : Bool := ts.any (fun t => t.k.any fbad || t.v.any fbad)

/-- The layer blocks of a source (R80): one read for each, or, in confidential host mode, one buffer (R437). -/
def State.readBlocks (s : State) (r : Req) (addr stride size n : Nat) : List Bytes ⊕ Status :=
  if s.chmBuf r r.srcSpace then
    match s.bufRead r 2 addr ((n - 1) * stride + size) with
    | .ok bs => .inl ((List.range n).map (fun l => (bs.drop (l * stride)).take size))
    | .fail st => .inr st
  else
    (List.range n).foldl (fun a l =>
      match a with
      | .inr st => .inr st
      | .inl bs => match s.bufRead r 2 (addr + l * stride) size with
        | .ok b => .inl (bs ++ [b])
        | .fail st => .inr st) (.inl [])

/-! ### Opening chunks (R33, R528) -/

/-- One leaf taken out of FREE: its generation rises, an HBM slot is its own, one chunk record names it. -/
def State.openLeaf (s : State) (q : Sequ) (qi layer : Nat) : Alloc × State :=
  match s.pick s.leafUsed s.dirSize with
  | (none, s) => (.full, s)
  | (some i, s) =>
    match s.allocSlot q.partition .hbm with
    | (.full, s) => (.full, s)
    | (.later, s) => (.later, s)
    | (.slot slot, s) =>
      let (cid, s) := s.newCid
      (.slot i, s.setLeaf i {
        state := .filling, generation := (s.leaf i).generation + 1, location := slot
        cur := some { cid := cid, loc := slot }, ownerSequence := qi, partition := q.partition, refCount := 1
        shapeIndex := q.shapeIndex, layer := layer, place := (s.leaf i).place })

/-- An unused leaf given back; its generation stands (R88). -/
def State.closeLeaf (s : State) (i : Nat) : State :=
  s.setLeaf i { generation := (s.leaf i).generation, place := (s.leaf i).place }

/-- `n` layers opened, or what was opened before one could not be, and why: false is for good, none for now. -/
def State.openLeaves (s : State) (q : Sequ) (qi layer : Nat) : Nat → List Nat × Option Bool × State
  | 0 => ([], some true, s)
  | n + 1 =>
    match s.openLeaf q qi layer with
    | (.full, s) => ([], some false, s)
    | (.later, s) => ([], none, s)
    | (.slot i, s) =>
      let r := State.openLeaves s q qi (layer + 1) n
      (i :: r.1, r.2.1, r.2.2)

/-- The leaves of each chunk that has none yet; false when the device has no space, none while space is being freed, with the leaves
that were opened. -/
def State.openChunks (s : State) (q : Sequ) (qi layers : Nat) : List Chunk → List Chunk × List Nat × Option Bool × State
  | [] => ([], [], some true, s)
  | c :: cs =>
    if c.leaves != [] then
      let r := State.openChunks s q qi layers cs
      (c :: r.1, r.2.1, r.2.2.1, r.2.2.2)
    else
      match s.openLeaves q qi 0 layers with
      | (is, some false, s) => ([], is, some false, s)
      | (is, none, s) => ([], is, none, s)
      | (is, some true, s) =>
        let r := State.openChunks s q qi layers cs
        ({ c with leaves := is } :: r.1, is ++ r.2.1, r.2.2.1, r.2.2.2)

/-- The granules that `n` chunk records more take after `m` (R504). -/
def chunkGranules (layers m n : Nat) : Nat := n * ceilDiv (chunkSize layers) 64 + ceilDiv (8 * (m + n)) 64 - ceilDiv (8 * m) 64

/-! ### Commit (R48, R419) -/

/-- The rule-match information of an append (R132). -/
def State.reportMatches (s : State) (p : Nat) (reports : List RuleMatch) (n : Nat) : Nat × State :=
  if reports = [] then (0xFFFF, s)
  else
    let r := s.allocCtx { part := p, isRule := true, rules := reports }
    ((r.1.getD 0xFFFF) + min n 64 * 2 ^ 16 + b2n (n > 64) * 2 ^ 23 + 2 ^ 24, r.2)

/-- A sealed chunk noted for the extension (R263): at most 256 notes wait. -/
def State.sealNote (s : State) (p qi n : Nat) : State :=
  if s.extHook p 1 then
    let x := s.exts.getD p {}
    if x.notes.length < 256 then { s with exts := s.exts.set p { x with notes := x.notes ++ [(qi, n)] } }
    else s.bump F.SAPL_EXT_DROPPED_COUNT
  else s

/-- The tokens of a descriptor made visible with its seals: chunk records, staged values, sealed leaves and their
placement, the sequence record. -/
def State.commitPlan (s : State) (pl : Plan) : State :=
  let q := s.seq pl.seq
  let s := pl.staged.foldl (fun s x => s.setLeaf x.1 { s.leaf x.1 with staged := x.2 }) s
  let s := pl.sealedLeaves.foldl (fun s x => s.setLeaf x.1 x.2) s
  let chunks := q.chunks.take pl.first ++ pl.chunks.map (fun c =>
    if pl.ready.contains c.number then { c with isSealed := true, tokens := [] } else c)
  let s := s.setSeq pl.seq { q with
    chunks := chunks, totalChunks := chunks.length, openTokens := openTokensOf chunks, lastHash := pl.lastHash, scan := pl.scan }
  let s := pl.sealedLeaves.foldl (fun s x => s.placeSealed x.1) s
  pl.ready.foldl (fun s n => s.sealNote q.partition pl.seq n) s

/-- A committed append, leaf write or stage in completes (R78, R132, R340). -/
def State.finishPlan (s : State) (rid : Nat) (r : Req) (pl : Plan) : State :=
  let s := s.commitPlan pl
  let q := s.seq pl.seq
  let r0 := q.totalChunks % 2 ^ 32 + q.openTokens * 2 ^ 32
  if r.opcode = 0x72 then
    (s.setSeq pl.seq { q with publishedChunks := q.totalChunks, scanPub := pl.scan }).complete rid .ok { result0 := pl.reported }
  else if r.opcode = 0x11 then
    let (d, s) := s.reportMatches r.part pl.reports pl.reported
    s.complete rid .ok { result0 := r0, result1 := pl.ready.length, detail := d }
  else s.complete rid .ok { result0 := r0 }

/-- An append or leaf write without effect (R88): what it opened is given back. -/
def State.abandonPlan (s : State) (rid : Nat) (pl : Plan) (st : Status) : State :=
  (pl.made.foldl State.closeLeaf s).complete rid st

/-- The media check for chunks that seal durable (R30, R32, R277): none, or the status (log entry 50). -/
def State.mediaCheck (s : State) (p n : Nat) : Option Status :=
  if n = 0 then none
  else if !s.flashWritable then some .readOnlyMedia
  else if !s.flashRoom p n then some .quotaExceeded
  else none

/-- A plan whose chunks are ready to seal waits for the seal pipeline; one without is committed at once. -/
def State.runPlan (s : State) (rid : Nat) (r : Req) (pl : Plan) : State :=
  if pl.ready = [] then s.finishPlan rid r pl else s.wait rid (.append pl)

/-! ### SEQ_APPEND (R80, R81, R127) -/

/-- The tokens of an append. -/
def tokensOf (n : Nat) (bs : Bytes) : List Nat := (chunksOf 4 n bs).map leNat

/-- The reported matches of an append in resolution order, the first 64 (R132). -/
def reportsOf (rs : RuleSet) (t : Nat) (ms : List Match) : List RuleMatch :=
  ((rs.ordered (ms.filter (fun m => (rs.rule m.rule).report))).take 64).map (fun m =>
    { rule := m.rule, priority := (rs.rule m.rule).priority, action := (rs.rule m.rule).action, token := m.pos
      chunk := m.pos / t })

/-- The values of an append laid over the leaves of its chunks. -/
def stageChunks (s : State) (layers : List (List TokKV)) (segs : List Seg) (olds : List Nat) (chunks : List Chunk) :
    Table (List (Option TokKV)) :=
  ((segs.zip olds).zip chunks).foldl (fun (a : Table (List (Option TokKV)) × Nat) x =>
    let n := x.1.1.toks.length
    ((x.2.leaves.zip layers).foldl (fun t y =>
      Table.set y.1 (stageAt (s.leaf y.1).staged x.1.2 ((y.2.drop a.2).take n)) t) a.1, a.2 + n)) ([], 0) |>.1

/-- The chunk with its classification at seal (R134), and the chunks of a plan that are ready. -/
def State.classified (s : State) (q : Sequ) (flag : Bool) (ready : List Nat) (cs : List Chunk) : List Chunk :=
  cs.map (fun c => if ready.contains c.number
    then { c with acts := s.classify q c.acts flag c.number c.tokenCount c.hash } else c)

/-- The ready chunks whose leaves become DURABLE (R31, R130). -/
def durableChunks (q : Sequ) (flag : Bool) (ready : List Nat) (cs : List Chunk) : List Nat :=
  (cs.filter (fun c => ready.contains c.number && c.acts.durable q.persist flag)).map (·.number)

/-- The chunks among `cs` that are full with every layer written, counting staged values (R81). -/
def State.readyChunks (s : State) (t : Nat) (staged : Table (List (Option TokKV))) (cs : List Chunk) : List Nat :=
  (cs.filter (fun c => c.tokenCount == t && !c.isSealed && c.leaves.all (fun i =>
    allWritten t (staged.getD i (s.leaf i).staged)))).map (·.number)

/-- An append whose tokens and values have been read (log entry 46). -/
def State.appendRead (s : State) (rid : Nat) (r : Req) (qi : Nat) (sh : Bytes) (toks : List Nat)
    (layers : List (List TokKV)) : State :=
  let q := s.seq qi
  let t := shTpl sh
  let rs := s.ruleSetOf q
  let open? := q.openChunk? t
  let first := match open? with | some _ => q.chunks.length - 1 | none => q.chunks.length
  let held := match open? with | some c => c.tokenCount | none => 0
  let segs := cutTokens t (toks.length + 1) first held toks
  let run := scanSegs sh rs q qi segs open? { scan := q.scan, last := q.lastHash }
  let olds := held :: segs.map (fun _ => 0)
  let unsealed := ((q.chunks.filter (fun c => !c.isSealed)).map (·.tokenCount)).sum
  let fills (c : Chunk) : Bool := layers != [] && c.tokenCount == t
    && c.leaves.all (fun i => leadingRun (s.leaf i).staged == held)
  let ready := (run.chunks.filter fills).map (·.number)
  let chunks := s.classified q r.fDurable ready run.chunks
  let dur := durableChunks q r.fDurable ready chunks
  if (match open? with | some c => s.chunkBad c | none => false)
      || s.recBad 1 qi || s.recBad 0 (q.partition * 256 + q.ruleSetEpoch.toNat) then s.complete rid .poisoned
  else match s.mediaCheck q.partition (dur.length * shLayers sh) with
  | some st => s.complete rid st
  | none =>
    let fresh := chunks.length - (match open? with | some _ => 1 | none => 0)
    if layers = [] && unsealed + toks.length > 65536 then s.complete rid .quotaExceeded
    else if !s.recRoom (chunkGranules (shLayers sh) q.chunks.length fresh) then s.complete rid .quotaExceeded
    else
      match s.openChunks q qi (shLayers sh) chunks with
      | (_, made, some false, s) => (made.foldl State.closeLeaf s).complete rid .quotaExceeded
      | (_, made, none, s) => made.foldl State.closeLeaf s
      | (chunks, made, some true, s) =>
        s.runPlan rid r {
          seq := qi, gen := q.generation, first := first, chunks := chunks
          staged := stageChunks s layers segs olds chunks, made := made, scan := run.scan, lastHash := run.last
          ready := ready, durables := dur, reports := reportsOf rs t run.found
          reported := (run.found.filter (fun m => (rs.rule m.rule).report)).length }

/-- The source of an append read (R80, R91, R140). -/
def State.appendStart (s : State) (rid : Nat) (r : Req) (qi : Nat) (sh : Bytes) : State :=
  let n := r.appendCount
  let kv := r.addr16
  match kv, plainFmt? r.appendFormat with
  | 0, _ =>
    match s.tokenRead r r.addr24 (4 * n) with
    | .fail st => s.failRead rid st
    | .ok bs =>
      let toks := tokensOf n bs
      if toks.any (fun t => t ≥ 2 ^ 20) then s.complete rid .badFormat else s.appendRead rid r qi sh toks []
  | _, none => s.complete rid .badFormat
  | _, some f =>
    if r.appendFormat = 0 then s.complete rid .badFormat
    else
      let size := 2 * shHeads sh * n * shDim sh * f.bytes
      if r.appendStride != 0 && r.appendStride < size then s.bad rid 36
      else match s.tokenRead r r.addr24 (4 * n) with
      | .fail st => s.failRead rid st
      | .ok bs =>
        let toks := tokensOf n bs
        if toks.any (fun t => t ≥ 2 ^ 20) then s.complete rid .badFormat
        else match s.readBlocks r kv (if r.appendStride = 0 then size else r.appendStride) size (shLayers sh) with
        | .inr st => s.failRead rid st
        | .inl bl =>
          let layers := bl.map (layerBlock f (shHeads sh) (shDim sh) n)
          if layers.any blockBad then s.complete rid .badFormat else s.appendRead rid r qi sh toks layers

/-- The lease check and renewal that begin a write of the holder (R38, R39), then the shape record (R411). -/
def State.heldWrite (s : State) (rid : Nat) (r : Req) (go : State → Nat → Bytes → State) : State :=
  let qi := hSeq r.handle
  let q := s.seq qi
  if !s.isHolder q r.origin then s.complete rid .accessDenied
  else
    let s := s.setSeq qi (s.giveLease q r.origin r.startTime)
    if s.shapeBad q.partition q.shapeIndex q.shapeEpoch then s.complete rid .poisoned
    else go s qi (s.seqShape q)

def effSeqAppend (s : State) (rid : Nat) : State :=
  match s.startedReq? rid [0x11] with
  | some r => s.heldWrite rid r (fun s qi sh => s.appendStart rid r qi sh)
  | none => s

def execSeqAppend (e : Env) (rid : Nat) (s : State) : Host.Outcome State Fault Refusal := .next (effSeqAppend (s.enter e) rid)

/-! ### LEAF_WRITE (R81) -/

/-- The positions of a range as chunk and token, from the first chunk that has not sealed (log entry 44). -/
def writeSpots (u t first n : Nat) : List (Nat × Nat) :=
  (List.range n).map (fun i => (u + (first + i) / t, (first + i) % t))

/-- The index of the first chunk that has not sealed, and the length of the leading run of sealed chunks (R41, R81). -/
def Sequ.firstUnsealed (q : Sequ) : Nat := (findIdx (fun c => !c.isSealed) q.chunks 0).getD q.chunks.length

/-- A layer block read and laid over the leaves it touches. -/
def State.leafWriteRead (s : State) (rid : Nat) (r : Req) (qi : Nat) (sh : Bytes) (toks : List TokKV) : State :=
  let q := s.seq qi
  let t := shTpl sh
  let u := q.firstUnsealed
  let spots := (writeSpots u t r.writeFirst r.writeCount).zip toks
  let staged := spots.foldl (fun (m : Table (List (Option TokKV))) x =>
    let i := ((q.chunks.getD x.1.1 {}).leaves).getD r.writeLayer 0
    Table.set i (stageAt (m.getD i (s.leaf i).staged) x.1.2 [x.2]) m) []
  let touched := q.chunks.filter (fun c => spots.any (fun x => x.1.1 == c.number))
  let ready := s.readyChunks t staged touched
  let tail := s.classified q r.fDurable ready (q.chunks.drop u)
  let dur := durableChunks q r.fDurable ready tail
  if touched.any s.chunkBad then s.complete rid .poisoned
  else match s.mediaCheck q.partition (dur.length * shLayers sh) with
  | some st => s.complete rid st
  | none =>
    s.runPlan rid r {
      seq := qi, gen := q.generation, first := u, chunks := tail, staged := staged, scan := q.scan
      lastHash := q.lastHash, ready := ready, durables := dur }

def State.leafWriteStart (s : State) (rid : Nat) (r : Req) (qi : Nat) (sh : Bytes) : State :=
  let q := s.seq qi
  let t := shTpl sh
  let u := q.firstUnsealed
  let outside := (writeSpots u t r.writeFirst r.writeCount).any (fun x =>
    match q.chunks[x.1]? with
    | some c => c.isSealed || x.2 ≥ c.tokenCount
    | none => true)
  if r.writeLayer ≥ shLayers sh then s.bad rid 24
  else if outside then s.bad rid 26
  else if r.writeCount > t then s.bad rid 28
  else match plainFmt? r.writeFormat with
  | none => s.complete rid .badFormat
  | some f =>
    if r.writeFormat = 0 then s.complete rid .badFormat
    else match s.bufRead r 2 r.addr16 (2 * shHeads sh * r.writeCount * shDim sh * f.bytes) with
    | .fail st => s.failRead rid st
    | .ok bs =>
      let toks := layerBlock f (shHeads sh) (shDim sh) r.writeCount bs
      if blockBad toks then s.complete rid .badFormat else s.leafWriteRead rid r qi sh toks

def effLeafWrite (s : State) (rid : Nat) : State :=
  match s.startedReq? rid [0x21] with
  | some r => s.heldWrite rid r (fun s qi sh => s.leafWriteStart rid r qi sh)
  | none => s

def execLeafWrite (e : Env) (rid : Nat) (s : State) : Host.Outcome State Fault Refusal := .next (effLeafWrite (s.enter e) rid)

/-! ### The seal of a chunk (R33, R151, R163, R204, R271) -/

/-- One leaf sealed: quantised, encoded, with its header, record, placement record and summary block. -/
def State.sealLeaf (s : State) (i : Nat) (q : Sequ) (c : Chunk) (layer : Nat) (staged : List (Option TokKV))
    (durable : Bool) : Leaf × State :=
  let l := s.leaf i
  let sh := s.shapeAt q.partition c.shapeIndex c.shapeEpoch
  let (h, t, d) := (shHeads sh, shTpl sh, shDim sh)
  let toks := staged.map (fun x => x.getD {})
  let sq := sealQuantise sh layer (c.number == 0) (s.get F.QUANT_CFG_OUTLIER_RATIO) (s.on F.QUANT_CFG_OUTLIER_EN)
    (regionOf h t d (toks.map (·.k))) (regionOf h t d (toks.map (·.v)))
  let s := s.bump F.QUANT_PROMOTED_COUNT (b2n sq.promoted)
  let s := s.bump F.QUANT_CEILING_COUNT (b2n sq.ceiling)
  let s := s.bump F.QUANT_OUTLIERS_COUNT sq.q.outl
  let s := s.bump F.QUANT_SATURATED_COUNT sq.q.sat
  let hdr : LeafHdr := {
    keyFormat := sq.q.kf, valueFormat := sq.q.vf, promoted := sq.promoted, sink := c.number == 0, tokenCount := c.tokenCount
    generation := l.generation, shapeIndex := c.shapeIndex, shapeEpoch := c.shapeEpoch, layer := layer
    chunkNumber := c.number, sequenceIndex := c.sequenceIndex }
  let (cp, s) := s.encodeCopy i l hdr sq.q.payload
  let pin := c.acts.pin && !c.acts.noStore
  ({ (l.withHdr cp.hdr) with
      state := .sealed, cur := some { cp with loc := l.location }, staged := [], sealNo := cp.cid
      persist := if pin then .pinned else if durable then .durable else .vol
      rulePin := pin, noStore := c.acts.noStore, noShare := c.acts.noShare, shortTtl := c.acts.shortTtl
      ruleClass := c.acts.ruleClass, shapeIndex := c.shapeIndex, layer := layer
      place := { lastTick := s.tick, heat := 1, hints := s.sealHints q.partition c.acts.ruleClass q.tierHints }
      summary := summaryOf sh l.generation c.tokenCount (decodeKeys sh sq.q.kf sq.q.vf sq.q.payload) }, s)

/-- The leaves of a chunk sealed, layer by layer. -/
def State.sealLayers (s : State) (q : Sequ) (c : Chunk) (staged : Table (List (Option TokKV))) (durable : Bool) :
    List Nat → Nat → Table Leaf × State
  | [], _ => ([], s)
  | i :: is, layer =>
    let (l, s) := s.sealLeaf i q c layer (staged.getD i (s.leaf i).staged) durable
    let r := State.sealLayers s q c staged durable is (layer + 1)
    (Table.set i l r.1, r.2)

/-- The request whose append or leaf write waits for the seal of a chunk. -/
def State.sealer? (s : State) (qi n : Nat) : Option (Nat × Req × Plan) :=
  s.reqs.findSome? (fun x => match x.2.wait with
    | .append pl => if pl.seq = qi && pl.ready.contains n && !pl.done.contains n && pl.group.isNone then some (x.1, x.2, pl) else none
    | _ => none)

/-- The durable leaves of a plan programmed for one journal group with their LEAF records (R30, R300, R301). -/
def State.programPlan (s : State) (rid : Nat) (pl : Plan) : State :=
  let (gid, s) := s.openGroup { rid := some rid }
  let leaves := (pl.chunks.filter (fun c => pl.durables.contains c.number)).flatMap (·.leaves)
  let s := leaves.foldl (fun s i =>
    match pl.sealedLeaves.get? i with
    | some l => (match l.cur with | some c => s.programLeaf gid i l c | none => s)
    | none => s) s
  s.wait rid (.append { pl with group := some gid })

/-- The seal pipeline of a full chunk finishes, on a Sapling cluster and a codec slice that are on (R165, R251); after the last of a descriptor its commit follows, or the programs of its
durable leaves. -/
def effChunkSeal (s : State) (qi n : Nat) : State :=
  match s.sealer? qi n with
  | none => s
  | some (rid, r, pl) =>
    if !s.anyCluster || !s.anySlice then s
    else match pl.chunks.find? (fun c => c.number == n) with
    | none => s
    | some c =>
      let (ls, s) := s.sealLayers (s.seq qi) c pl.staged (pl.durables.contains n) c.leaves 0
      let pl := { pl with done := n :: pl.done, sealedLeaves := ls.foldl (fun t x => Table.set x.1 x.2 t) pl.sealedLeaves }
      if pl.done.length < pl.ready.length then s.wait rid (.append pl)
      else if pl.durables = [] then s.finishPlan rid r pl
      else s.programPlan rid pl

def execChunkSeal (e : Env) (seq chunk : Nat) (s : State) : Host.Outcome State Fault Refusal :=
  .next (effChunkSeal (s.enter e) seq chunk)

/-! ### SEQ_PUBLISH (R41) -/

/-- The journal records of chunks at publication or fork (R300). -/
def chunkRecs (qi : Nat) (cs : List Chunk) : List JRec := cs.map (fun c => .chunk qi c.number c)

def State.publish (s : State) (rid : Nat) (r : Req) (qi n : Nat) : State :=
  let q := s.seq qi
  let old := q.publishedChunks
  let new := max old n
  let chunks := q.chunks.mapIdx (fun i c => if i < new then { c with published := true } else c)
  let pub := match (if n > old then chunks[n - 1]? else none) with
    | some c => c.scanAfter
    | none => q.scanPub
  let s := s.setSeq qi { q with publishedChunks := new, chunks := chunks, scanPub := pub }
  let s := if r.release then s.endLease qi else s
  let recs := if s.seqJournaled (s.seq qi) then chunkRecs qi ((chunks.take new).drop old) ++ s.seqRecs qi else []
  s.completeJournaled rid recs .ok { result0 := new }

def effSeqPublish (s : State) (rid : Nat) : State :=
  match s.startedReq? rid [0x12] with
  | none => s
  | some r =>
    let qi := hSeq r.handle
    let q := s.seq qi
    if !s.isHolder q r.origin then s.complete rid .accessDenied
    else if r.chunkCount16 > q.firstUnsealed then s.bad rid 16
    else if s.seqJournaled q && s.journalFull then s.complete rid .readOnlyMedia
    else s.publish rid r qi r.chunkCount16

def execSeqPublish (e : Env) (rid : Nat) (s : State) : Host.Outcome State Fault Refusal := .next (effSeqPublish (s.enter e) rid)

/-! ### SEQ_FORK (R25, R26, R42, R529) -/

/-- The shape epoch that a fork takes (R529), or none where its slot does not hold the source's record. -/
def State.forkEpoch (s : State) (p : Nat) (q : Sequ) : Option Epoch :=
  if q.partition = p then some q.shapeEpoch
  else match s.shapeNow? p q.shapeIndex with
    | some sl => if sl.body = s.seqShape q then some sl.epoch else none
    | none => none

def State.fork (s : State) (rid : Nat) (r : Req) (q : Sequ) (ep : Epoch) (n k : Nat) : State :=
  let p := r.part
  let re := r.snap.ruleEpoch
  let chunks := q.chunks.take n
  let sc : Scan := { (if q.partition = p then r.snap.scan else {}) with st := s.ruleStart p re }
  let new : Sequ := {
    state := .openS, persist := persistOf r.forkPersist, shapeIndex := q.shapeIndex, shapeEpoch := ep
    ruleSetEpoch := re, generation := (s.seq k).generation + 1, publishedChunks := n, totalChunks := n
    adapterId := q.adapterId, tierHints := r.forkHints, shareGroup := q.shareGroup, shared := q.shared
    lastHash := (match chunks.getLast? with | some c => c.hash | none => q.seed), partition := p, chunks := chunks
    scan := sc, scanPub := sc, seed := q.seed }
  let s := s.setSeq k (s.giveLease new r.origin r.startTime)
  let s := (chunks.flatMap (·.leaves)).foldl (fun s i => s.setLeaf i { s.leaf i with refCount := (s.leaf i).refCount + 1 }) s
  let recs := if s.seqJournaled (s.seq k) then s.seqRecs k ++ chunkRecs k chunks else []
  s.completeJournaled rid recs .ok { result0 := s.seqHandle k, result1 := n }

def effSeqFork (s : State) (rid : Nat) : State :=
  match s.startedReq? rid [0x13] with
  | none => s
  | some r =>
    let q := s.seq (hSeq r.handle)
    let n := r.chunkCount16
    let cross := q.partition != r.part
    if q.state = .retired then s.complete rid .evicted
    else if n > q.publishedChunks then s.complete rid .notFound
    else if (q.chunks.take n).any (fun c => c.acts.noStore || (cross && c.acts.noShare)) then s.complete rid .accessDenied
    else match s.forkEpoch r.part q with
    | none => s.complete rid .badFormat
    | some ep =>
      let dur := r.forkPersist = 1 || (!cross && (q.chunks.take n).any (fun c => c.leaves.any (fun i => (s.leaf i).persist != .vol)))
      if dur && s.journalFull then s.complete rid .readOnlyMedia
      else match s.recRoom (2 + chunkGranules (shLayers (s.seqShape q)) 0 n),
          s.pick (fun k => (s.seq k).state != .free || (s.seq k).withheld) (2 ^ 28) with
        | true, (some k, s) => s.fork rid r q ep n k
        | _, _ => s.complete rid .quotaExceeded

def execSeqFork (e : Env) (rid : Nat) (s : State) : Host.Outcome State Fault Refusal := .next (effSeqFork (s.enter e) rid)

/-! ### SEQ_RETIRE, SEQUENCE_FREE (R37) -/

/-- A chunk record released: NO_STORE leaves are evicted, and each leaf loses a reference (R33). -/
def State.releaseChunk (s : State) (c : Chunk) : State :=
  let s := if c.acts.noStore then c.leaves.foldl (fun s i => s.evict i) s else s
  c.leaves.foldl State.dropRef s

/-- The index entries of a sequence removed, here and at the owner of its bucket (R116, R117). -/
def State.dropIndex (s : State) (qi : Nat) : State :=
  let q := s.seq qi
  let s := (s.removeRange s.pos qi q.generation q.partition 0 q.publishedChunks).2
  match q.chunks with
  | [] => s
  | c0 :: _ => match s.otherOwner? s.ring.map (shardBucket c0.hash) with
    | some o => s.ringSend o 8 0 q.partition
        [5, 0, qi, s.pos, q.publishedChunks, q.partition, q.generation.toNat, 0, 0, 0, 0, shardBucket c0.hash]
    | none => s

/-- A sequence moved to RETIRED: the state first, then its index entries in descending order, then its chunks. -/
def State.retire (s : State) (qi : Nat) : State :=
  let q := s.seq qi
  let s := s.setSeq qi { q with state := .retired, holderKind := 0, holderIndex := 0, holderPosition := 0 }
  let s := s.dropIndex qi
  let s := q.chunks.foldl State.releaseChunk s
  s.setSeq qi { s.seq qi with chunks := (s.seq qi).chunks.map (fun c => { c with leaves := [], tokens := [] }) }

def effSeqRetire (s : State) (rid : Nat) : State :=
  match s.startedReq? rid [0x14] with
  | none => s
  | some r =>
    let qi := hSeq r.handle
    let q := s.seq qi
    let j := s.seqJournaled q
    if q.state = .retired then s.complete rid .evicted
    else if q.state = .openS && !s.isHolder q r.origin then s.complete rid .accessDenied
    else if j && s.journalFull then s.complete rid .readOnlyMedia
    else
      let s := s.retire qi
      s.completeJournaled rid (if j then [.seq qi (s.seq qi)] else []) .ok

def execSeqRetire (e : Env) (rid : Nat) (s : State) : Host.Outcome State Fault Refusal := .next (effSeqRetire (s.enter e) rid)

/-- Whether an admitted request names a sequence by its handle. -/
def State.seqNamed (s : State) (qi : Nat) : Bool :=
  s.reqs.any (fun x => (match opRow? x.2.opcode with | some w => w.handle == .seq || w.handle == .seqOrNone | none => false)
    && x.2.handle == s.seqHandle qi)

/-- A RETIRED sequence that no descriptor names is FREE: its record is released, its generation stands (R19, R37), and a
rule-set slot without users is released (R123). -/
def effSequenceFree (s : State) (qi : Nat) : State :=
  let q := s.seq qi
  if q.state != .retired || s.seqNamed qi then s
  else (s.setSeq qi { generation := q.generation, withheld := q.withheld }).releaseRules q.partition

def execSequenceFree (e : Env) (seq : Nat) (s : State) : Host.Outcome State Fault Refusal := .next (effSequenceFree (s.enter e) seq)

/-! ### SEQ_HEARTBEAT, LEASE_EXPIRY (R38 to R40) -/

def effSeqHeartbeat (s : State) (rid : Nat) : State :=
  match s.startedReq? rid [0x15] with
  | none => s
  | some r =>
    let qi := hSeq r.handle
    if !s.isHolder (s.seq qi) r.origin then s.complete rid .accessDenied
    else
      let s := s.setSeq qi (s.giveLease (s.seq qi) r.origin r.startTime)
      s.complete rid .ok { result0 := (s.seq qi).leaseExpiry }

def execSeqHeartbeat (e : Env) (rid : Nat) (s : State) : Host.Outcome State Fault Refusal :=
  .next (effSeqHeartbeat (s.enter e) rid)

/-- Whether a request acts on a sequence by a handle of it or, as LEAF_EVICT, of a leaf that it made (R44, R45). -/
def State.actsOn (s : State) (r : Req) (qi : Nat) : Bool :=
  if r.opcode = 0x24 then
    let l := s.leaf (hLeaf r.handle)
    l.state != .free && l.generation == hGen r.handle && l.ownerSequence == qi && l.partition == (s.seq qi).partition
  else r.handle == s.seqHandle qi

/-- A write-class request of the holder on a sequence, or a heartbeat that has started, is in progress (R39, R44). -/
def State.holderBusy (s : State) (qi : Nat) : Bool :=
  s.reqs.any (fun x => x.2.phase != .fetched && (x.2.opcode == 0x15 || x.2.writeClass)
    && s.actsOn x.2 qi && s.isHolder (s.seq qi) x.2.origin)

/-- The lease of an OPEN sequence expires: the unpublished tail is dropped and the sequence is PUBLISHED. -/
def effLeaseExpiry (s : State) (qi : Nat) : State :=
  let q := s.seq qi
  if q.state != .openS || s.time < q.leaseExpiry || s.holderBusy qi then s
  else
    let j := s.seqJournaled q
    let s := s.endLease qi
    if j then (s.openGroup { recs := [.seq qi (s.seq qi)] }).2 else s

def execLeaseExpiry (e : Env) (seq : Nat) (s : State) : Host.Outcome State Fault Refusal := .next (effLeaseExpiry (s.enter e) seq)

end Sys2Proof.Machine
end

