-- ==== Sys2Proof/Machine/LeafOps.lean ====
section
/-! DEFINITION. Operations on leaves: LEAF_READ (R241, R247, R408), LEAF_PIN and LEAF_UNPIN (R30 to R32), LEAF_EVICT (R35),
LEAF_MIGRATE with its switch (R282, R283), and the tier manager's background work (R267, R274, R278, R281, R169). -/

namespace Sys2Proof.Machine

open Sys2Proof

/-- Whether a leaf handle names its leaf no longer (R18, item 3). -/
def State.leafGone (s : State) (h : Nat) : Bool := (s.leaf (hLeaf h)).state == .free || (s.leaf (hLeaf h)).generation != hGen h

/-- The chunk record of its creating sequence that names a leaf. -/
def State.chunkOfLeaf? (s : State) (i : Nat) : Option Chunk :=
  match s.seqs.get? (s.leaf i).ownerSequence with
  | some q => q.chunks.find? (fun c => c.leaves.contains i)
  | none => none

/-- Whether the shape record that a view needs reads as uncorrectable (R411). -/
def State.viewShapeBad (s : State) (i : Nat) : Bool :=
  let l := s.leaf i
  if l.state = .filling then
    match s.seqs.get? l.ownerSequence with
    | some q => s.shapeBad q.partition q.shapeIndex q.shapeEpoch
    | none => false
  else s.shapeBad l.partition l.readCopy.hdr.shapeIndex l.readCopy.hdr.shapeEpoch

/-! ### LEAF_READ -/

/-- What a LEAF_READ writes: bytes and poisoned lines, from the leaf or from its shadow (log entry 41). -/
def State.readOutput (s : State) (r : Req) (v : View) (shadow : Option Shadow) : Bytes × List Nat × State :=
  match r.readConvert, shadow with
  | false, none => (slotImage v.copy.hdr v.copy.payload, v.lines, s)
  | false, some sh => (slotImage (s.shadowHdr v sh.payload) sh.payload, [], s)
  | true, _ =>
    let kv := match shadow with | some sh => shadowKV v.sh sh.payload | none => v.keysVals
    let f := (plainFmt? r.readFormat).getD fp32
    if shadow.isNone && v.poisoned then
      let n := 2 * shHeads v.sh * shTpl v.sh * shDim v.sh * f.bytes
      (List.replicate n 0, List.range (n / 64 + 1), s)
    else
      let o := s.convertOut f (kv.1 ++ kv.2)
      (o.1, [], o.2)

/-- The data written and the completion, by the fixed order of R248 (log entry 41). -/
def State.finishRead (s : State) (rid : Nat) (r : Req) (v : View) (shadow : Option Shadow) : State :=
  let (bs, lines, s) := s.readOutput r v shadow
  if !s.dstOk r r.addr16 bs.length then s.complete rid .accessDenied
  else
    let s := s.writeLines r 4 r.addr16 bs lines
    let res := bs.length + v.count * 2 ^ 32
    let late := match s.deadlineTime? r with | some t => s.time > t | none => false
    if lines != [] then
      s.complete rid .poisoned { result0 := res, poisoned := true, detail := min (2 ^ 24 - 1) v.lines.length }
    else if r.dstSpace = 0 && !s.flushOk 0 (r.addr16 + bs.length - 1) then s.complete rid .linkFailed
    else if shadow.isSome then
      s.complete rid .okDegraded { result0 := res, path := 1, detail := 1 + b2n late * 2 ^ 31 }
    else s.complete rid .ok { result0 := res }

/-- The hold, the access, and the choice between the leaf and its shadow (R245, R247). -/
def State.startRead (s : State) (rid : Nat) (r : Req) (i : Nat) (c : Option Chunk) : State :=
  let (v, s) := s.takeView rid i ((c.map (·.number)).getD 0) (match c with | some c => s.chunkBad c | none => false)
  let s := (s.access i).decodeAny v
  let (late, s) := match s.commitTime? r with
    | some t => s.arrivesLate v.tier t
    | none => (false, s)
  if !late then (if s.readFails v then s.complete rid .mediaError else s.finishRead rid r v none)
  else match r.fDegradeOk, v.shadow with
    | true, some sh => s.finishRead rid r v (some sh)
    | _, _ => s.complete rid .deadlineMissed

/-- LEAF_READ (R79). With convert 0 the field out_format is ignored, whatever it holds (DESIGN CHOICE: the spec gives it a meaning
with convert alone; log entry 37). -/
def effLeafRead (s : State) (rid : Nat) : State :=
  match s.startedReq? rid [0x20] with
  | none => s
  | some r =>
    let i := hLeaf r.handle
    let l := s.leaf i
    let c := s.chunkOfLeaf? i
    if r.readConvert && (plainFmt? r.readFormat).isNone then s.complete rid .badFormat
    else if s.leafGone r.handle then s.complete rid .evicted
    else if l.partition != r.part && (l.noStore || l.noShare) then s.complete rid .accessDenied
    else if l.state = .filling && !r.readConvert then s.complete rid .accessDenied
    else if l.state = .evicting then s.complete rid .evicted { detail := l.readCopy.hdr.chunkNumber % 2 ^ 28 }
    else if s.viewShapeBad i then s.complete rid .poisoned
    else if !s.canHold i || !s.anySlice then s
    else s.startRead rid r i c

def execLeafRead (e : Env) (rid : Nat) (s : State) : Host.Outcome State Fault Refusal := .next (effLeafRead (s.enter e) rid)

/-! ### LEAF_PIN and LEAF_UNPIN -/

/-- The state checks of LEAF_PIN and LEAF_UNPIN (R32). -/
def State.pinCheck (s : State) (h : Nat) : Option Status :=
  if s.leafGone h then some .evicted
  else match (s.leaf (hLeaf h)).state with
    | .filling => some .accessDenied
    | .evicting => some .evicted
    | .poisoned => some .poisoned
    | _ => none

/-- The class of a leaf after its pins change (R30): PINNED while a pin or a rule pin stands, and never back to VOLATILE. -/
def Leaf.repin (l : Leaf) (n : Nat) : Leaf :=
  { l with pinCount := n, persist := if n != 0 || l.rulePin then .pinned else if l.persist = .pinned then .durable else l.persist }

/-- A change of a DURABLE leaf's record, journaled by a group of the device's own (R300; log entry 83). -/
def State.journalLeaf (s : State) (i : Nat) : State := (s.openGroup { recs := [.leaf i (some (s.leaf i))] }).2

/-- Whether a LEAF_PIN that makes a leaf DURABLE is in progress. -/
def State.pinBusy (s : State) (i : Nat) : Bool :=
  s.flash.groups.any (fun g => match g.2.rid with
    | some rid => (match s.req? rid with
      | some r => r.opcode == 0x22 && hLeaf r.handle == i
      | none => false)
    | none => false)

/-- LEAF_PIN: a VOLATILE leaf is first made DURABLE, and the pin is set when that program is committed (R31). -/
def effLeafPin (s : State) (rid : Nat) : State :=
  match s.startedReq? rid [0x22] with
  | none => s
  | some r =>
    let i := hLeaf r.handle
    let l := s.leaf i
    match s.pinCheck r.handle with
    | some st => s.complete rid st
    | none =>
      if l.noStore then s.complete rid .accessDenied
      else if l.pinCount ≥ 255 then s.complete rid .quotaExceeded
      else if l.durable.isSome then
        if s.journalFull then s.complete rid .readOnlyMedia
        else
          let s := (s.setLeaf i (l.repin (l.pinCount + 1))).journalLeaf i
          s.complete rid .ok { result0 := l.pinCount + 1 }
      else if !s.flashWritable then s.complete rid .readOnlyMedia
      else if !s.flashRoom l.partition 1 then s.complete rid .quotaExceeded
      else if s.pinBusy i then s
      else match l.goodCopy with
        | none => ((s.checkTags i).poisonLeaf i).complete rid .poisoned
        | some c =>
          let (gid, s) := s.openGroup { rid := some rid }
          let s := s.programLeaf gid i (l.repin (l.pinCount + 1)) c
          s.wait rid (.journal gid .ok { result0 := l.pinCount + 1 })

def execLeafPin (e : Env) (rid : Nat) (s : State) : Host.Outcome State Fault Refusal := .next (effLeafPin (s.enter e) rid)

/-- LEAF_UNPIN: at a count of zero nothing changes (R32). -/
def effLeafUnpin (s : State) (rid : Nat) : State :=
  match s.startedReq? rid [0x23] with
  | none => s
  | some r =>
    let i := hLeaf r.handle
    let l := s.leaf i
    match s.pinCheck r.handle with
    | some st => s.complete rid st
    | none =>
      if l.pinCount = 0 then s.complete rid .ok
      else if s.journalFull then s.complete rid .readOnlyMedia
      else
        let s := (s.setLeaf i (l.repin (l.pinCount - 1))).journalLeaf i
        s.complete rid .ok { result0 := l.pinCount - 1 }

def execLeafUnpin (e : Env) (rid : Nat) (s : State) : Host.Outcome State Fault Refusal := .next (effLeafUnpin (s.enter e) rid)

/-! ### LEAF_EVICT (R35) -/

/-- LEAF_EVICT: a release that the journal records completes when its group commits (R301). An EVICTING or POISONED leaf that is still
pinned ends ACCESS_DENIED (DESIGN CHOICE: R35 states both that status and OK for it; log entry 37). -/
def effLeafEvict (s : State) (rid : Nat) : State :=
  match s.startedReq? rid [0x24] with
  | none => s
  | some r =>
    let i := hLeaf r.handle
    let l := s.leaf i
    if s.leafGone r.handle then s.complete rid .evicted
    else if l.state = .filling || l.pinCount != 0 || l.rulePin then s.complete rid .accessDenied
    else if l.state = .evicting || l.state = .poisoned then s.complete rid .ok
    else if l.journaled && s.journalFull then s.complete rid .readOnlyMedia
    else
      let g := s.flash.nextGroup
      let s := s.evict i
      if s.flash.nextGroup = g then s.complete rid .ok
      else (s.setGroup g (fun x => { x with rid := some rid })).wait rid (.journal g .ok {})

def execLeafEvict (e : Env) (rid : Nat) (s : State) : Host.Outcome State Fault Refusal := .next (effLeafEvict (s.enter e) rid)

/-! ### LEAF_MIGRATE and the switch (R282, R283) -/

/-- Items 1 to 4 of R282. -/
def State.migrateCheck (s : State) (h : Nat) (dest : Tier) : Option Status :=
  let l := s.leaf (hLeaf h)
  if s.leafGone h then some .evicted
  else match l.state with
    | .filling => some .accessDenied
    | .poisoned => some .poisoned
    | .evicting => some .evicted
    | _ =>
      if dest != .hbm && l.noStore then some .accessDenied
      else if dest = .flash && l.persist = .vol then some .accessDenied
      else if dest = .pool && s.poolDown then some .mediaError
      else if dest = .flash && l.dirtyMask != 0 && s.flashState = 3 then some .readOnlyMedia
      else none

/-- A SEALED primary in a retired HBM slot moves into any free slot, whatever its partition's limit (R413, item 2). -/
def State.leaveRetired (s : State) (i : Nat) : State :=
  let l := s.leaf i
  let there := match l.cur with | some c => l.tier = .hbm && s.retiredSlots.contains c.loc | none => false
  if l.state != .sealed || !there then s
  else match s.pick s.hbmTaken s.hbmSlots with
    | (some k, s) => s.startMove i .hbm k
    | (none, s) => s

/-- LEAF_MIGRATE (R282): it waits while a migration of its leaf is in progress and while relief frees space for it. -/
def effLeafMigrate (s : State) (rid : Nat) : State :=
  match s.startedReq? rid [0x25] with
  | none => s
  | some r =>
    let i := hLeaf r.handle
    let l := s.leaf i
    let dest := tierOf r.destTier
    match s.migrateCheck r.handle dest with
    | some st => s.complete rid st { result0 := if s.leafGone r.handle then 0 else l.tier.code }
    | none =>
      if l.state = .migrating then s
      else if dest = l.tier then s.complete rid .ok { result0 := dest.code }
      else if dest = .flash then (s.startMove i .flash i).wait rid (.migrate i dest)
      else match s.allocSlot l.partition dest with
        | (.slot loc, s) => (s.startMove i dest loc).wait rid (.migrate i dest)
        | (.later, s) => s
        | (.full, s) => s.complete rid .quotaExceeded { result0 := l.tier.code }

def execLeafMigrate (e : Env) (rid : Nat) (s : State) : Host.Outcome State Fault Refusal := .next (effLeafMigrate (s.enter e) rid)

/-- The LEAF_MIGRATE that waits on a leaf. -/
def State.mover? (s : State) (i : Nat) : Option Nat :=
  (s.reqs.find? (fun x => match x.2.wait with | .migrate j _ => j == i | _ => false)).map (·.1)

/-- A migration that fails before its switch: the destination is freed and the leaf stays SEALED at its source (R283). -/
def State.failMove (s : State) (i : Nat) : State :=
  let l := s.leaf i
  let s := s.setLeaf i { l with state := .sealed, destTier := .hbm, destLocation := 0 }
  match s.mover? i with
  | some rid => s.complete rid .mediaError { result0 := l.tier.code }
  | none => s

/-- The end of a move that was made: the mover completes, with no_promote set or cleared by its direction (log entry 79). -/
def State.endMove (s : State) (i : Nat) (old : Tier) : State :=
  let l := s.leaf i
  match s.mover? i with
  | some rid =>
    let hints := setNoPromote l.place.hints (l.tier.code > old.code)
    let s := if l.tier = old then s else s.setLeaf i { l with place := { l.place with hints := hints } }
    s.complete rid .ok { result0 := l.tier.code }
  | none => s

/-- The copy of a migration is done and the record switches, or its destination write has failed (R283); with a leaf that
has fallen back to its durable copy, that copy becomes the primary (R268). -/
def effMigrationSwitch (s : State) (i : Nat) (fail : Bool) : State :=
  let l := s.leaf i
  if !s.anyCluster then s
  else if l.rewriting then s
  else if l.state = .migrating then
    let dest := l.destTier
    if l.goodCopy = none then (s.checkTags i).poisonLeaf i
    else if fail then s.failMove i
    else if dest = .flash then match s.dropToDurable i with
      | some s => s.endMove i l.tier
      | none => s.failMove i
    else (s.moveTo i dest l.destLocation).endMove i l.tier
  else if l.state = .sealed && l.failedPrimary && l.tier != .flash then
    match l.durable with
    | some d =>
      if d.spoilt then s.poisonLeaf i
      else (s.setLeaf i { l with failedPrimary := false, dirtyMask := 0 }).switchRecord i .flash i none
    | none => s
  else s

def execMigrationSwitch (e : Env) (leaf : Nat) (fail : Bool) (s : State) : Host.Outcome State Fault Refusal :=
  .next (effMigrationSwitch (s.enter e) leaf fail)

/-! ### The tier manager's background work: it runs on the Sapling clusters, and pauses while none is on (R253) -/

/-- A visit of the sweep to a placement record (R274, R284): heat halves, an old tick is brought up, and a shadow that the
setting no longer covers is released. -/
def effPlacementSweepVisit (s : State) (i : Nat) : State :=
  match s.leaves.get? i, s.anyCluster && !s.leaving (s.leaf i).partition with
  | none, _ => s
  | some _, false => s
  | some l, true =>
    let tick := if s.age l ≥ 2 ^ 23 then (s.tick + 2 ^ 24 - 2 ^ 23) % 2 ^ 24 else l.place.lastTick
    let l : Leaf := { l with place := { l.place with heat := l.place.heat / 2, lastTick := tick } }
    let l := if l.shadowPresent && !s.shadowCovers l.partition l.tier then l.dropShadow else l
    ((s.setLeaf i l).settle i).leaveRetired i

def execPlacementSweepVisit (e : Env) (leaf : Nat) (s : State) : Host.Outcome State Fault Refusal :=
  .next (effPlacementSweepVisit (s.enter e) leaf)

/-- Background relief of a tier (R278): from below LOW until HIGH, among the partitions over their reservation. -/
def effBackgroundRelief (s : State) (t : Nat) : State :=
  if t > 1 || !s.anyCluster || s.tierFree t * 1024 ≥ s.get F.TIER_WATER_LOW t * s.tierCap t then s
  else
    s.relieveAll (tierOf t) (fun s => s.tierFree t * 1024 ≥ s.get F.TIER_WATER_HIGH t * s.tierCap t)
      (fun s p => s.overResv p t 0 && !s.leaving p)

def execBackgroundRelief (e : Env) (tier : Nat) (s : State) : Host.Outcome State Fault Refusal :=
  .next (effBackgroundRelief (s.enter e) tier)

/-- A promotion of a queued leaf begins (R281): into HBM, or from flash into the pool, where space is free. -/
def effPromotion (s : State) (i : Nat) : State :=
  if !s.promos.contains i || !s.anyCluster || s.get F.TIER_MIG_CFG_PROMOTE_MBS = 0 then s
  else
    let s := { s with promos := s.promos.filter (· != i) }
    let l := s.leaf i
    if l.state != .sealed || l.tier = .hbm || hintNoPromote l.place.hints || s.leaving l.partition then s
    else if s.withinLimit l.partition 0 2 && s.hbmFree > 0 then
      match s.pick s.hbmTaken s.hbmSlots with
      | (some k, s) => (s.startMove i .hbm k).bump F.TIER_PROMOTIONS_COUNT
      | (none, s) => s
    else if l.tier = .flash && !hintNoPool l.place.hints && s.poolUp && s.withinLimit l.partition 1 2 && s.poolFree > 0 then
      match s.pickPool with
      | (some k, s) => (s.startMove i .pool k).bump F.TIER_PROMOTIONS_COUNT
      | (none, s) => s
    else s

def execPromotion (e : Env) (leaf : Nat) (s : State) : Host.Outcome State Fault Refusal := .next (effPromotion (s.enter e) leaf)

/-- Background write-back of a dirty leaf (R267): its quarters are programmed for a group of the device's own, and their bits
clear when it commits; a spoilt primary is not written (R406). -/
def effWriteBack (s : State) (i : Nat) : State :=
  let l := s.leaf i
  match l.cur, l.durable with
  | some c, some _ =>
    if l.state != .sealed || !s.anyCluster || l.dirtyMask = 0 || !s.flashWritable || c.spoilt || l.failedPrimary || s.leaving l.partition then s
    else if s.flash.groups.any (fun g => g.2.rid.isNone && g.2.recs.any (fun x => match x with
      | .map j _ _ _ _ _ => j == i | _ => false)) then s
    else
      let (gid, s) := (s.readPass l.partition c).openGroup {}
      let s := s.programQuarters gid i c.hdr.compressedLength ((List.range 4).filter (fun q => bit l.dirtyMask q))
      s.setGroup gid (fun g => { g with
        recs := g.recs ++ [.leaf i (some { l with durable := some { c with tier := .flash, loc := i } })] })
  | _, _ => s

def execWriteBack (e : Env) (leaf : Nat) (s : State) : Host.Outcome State Fault Refusal := .next (effWriteBack (s.enter e) leaf)

/-- The re-encode sweep reaches a leaf (R169): a stored copy with a stale epoch is rewritten in its own tier by a migration, into
free space in HBM and the pool and by a program in flash, MIGRATING until that commits (R33); MIGRATING leaves are skipped. -/
def State.sweepLeaf (s : State) (i : Nat) : State :=
  let l := s.leaf i
  match l.primary with
  | none => s
  | some c =>
    if l.state != .sealed || s.copyCurrent l c || l.failedPrimary || s.leaving l.partition || !s.on F.CODEC_CFG_SWEEP_EN || !s.anyCluster || !s.anySlice
    then s
    else
      match l.tier with
      | .hbm =>
        if s.hbmFree = 0 then s
        else match s.pick s.hbmTaken s.hbmSlots with
          | (some slot, s) => s.startMove i .hbm slot
          | (none, s) => s
      | .pool =>
        if s.poolFree = 0 then s
        else match s.pickPool with
          | (some slot, s) => s.startMove i .pool slot
          | (none, s) => s
      | .flash =>
        if !s.flashWritable || s.get F.CODEC_CFG_FLASH_SWEEP_MBS = 0 then s
        else if c.spoilt then (s.checkTags i).poisonLeaf i
        else
          let (c', s) := s.encodeCopy i l c.hdr c.payload
          let (gid, s) := s.openGroup {}
          (s.programLeaf gid i (l.withHdr c'.hdr) c').startMove i .flash i

/-- A shadow under an old key epoch built anew in new space (R431, item 4); it waits while it is held or no space is free. -/
def State.rewrapShadow (s : State) (i : Nat) : State :=
  let l := s.leaf i
  match l.shadow with
  | none => s
  | some sh =>
    if !l.shadowPresent || s.leaving l.partition || sh.releasing || sh.keyEpoch == s.keyEpoch l.partition || s.copyHolds i sh.cid != 0 then s
    else match s.shadowPlace l.partition sh.whole with
      | (some (slot, upper), s) =>
        let (cid, s) := s.newCid
        let sh' : Shadow := { sh with cid := cid, slot := slot, upper := upper, keyEpoch := s.keyEpoch l.partition }
        s.setLeaf i { l with shadow := some sh', place := { l.place with shadowSlot := slot, shadowUpper := upper } }
      | (none, s) => s

/-- The sweep at a leaf, and the end of every sweep whose old slot has no user left. -/
def effReencodeSweep (s : State) (i : Nat) : State :=
  ((s.sweepLeaf i).rewrapShadow i).endSweeps

def execReencodeSweep (e : Env) (leaf : Nat) (s : State) : Host.Outcome State Fault Refusal :=
  .next (effReencodeSweep (s.enter e) leaf)

end Sys2Proof.Machine
end

