-- ==== Sys2Proof/Machine/PrefixOps.lean ====
section
/-! DEFINITION. Prefix search (R109 to R118, R132): PREFIX_LOOKUP, PREFIX_STEP, PREFIX_INSERT, PREFIX_REMOVE, the expiry of
contexts, the padding of lookups (R441), and the upkeep of Canopy (R100 to R102). -/

namespace Sys2Proof.Machine

open Sys2Proof

/-! ### Padding (R441) -/

/-- The end of the padding bucket of a lookup that started at `t0`, or none where it has run too long. -/
def State.padEnd (s : State) (p t0 : Nat) : Option Nat :=
  (((List.range 11).filter (fun k => k ≥ s.get F.PART_SEC_CFG_PAD_LOG2 p)).find? (fun k => s.time - t0 ≤ 2 ^ k * 1000)).map
    (fun k => t0 + 2 ^ k * 1000)

/-- The completion of a PREFIX_LOOKUP or PREFIX_STEP, padded where its partition asks for it, at its origin. -/
def State.completeLookup (s : State) (rid : Nat) (st : Status) (c : Cpl) : State :=
  match s.req? rid with
  | none => s
  | some r =>
    let here := match r.origin with | .fwd _ _ _ => false | _ => true
    if !(here && s.on F.PART_SEC_CFG_LOOKUP_PAD r.part) then s.complete rid st c
    else match s.padEnd r.part r.startTime with
      | none => (s.bump F.SEC_PAD_OVERRUN_COUNT).complete rid st c
      | some t => if t ≤ s.time then s.complete rid st c else s.wait rid (.pad t st c)

/-- The padded time of a lookup is reached. -/
def effLookupPadExpiry (s : State) (rid : Nat) : State :=
  match s.req? rid with
  | some r => (match r.wait with
    | .pad t st c => if s.time ≥ t then s.complete rid st c else s
    | _ => s)
  | none => s

def execLookupPadExpiry (e : Env) (rid : Nat) (s : State) : Host.Outcome State Fault Refusal :=
  .next (effLookupPadExpiry (s.enter e) rid)

/-! ### Lookup (R109 to R113) -/

/-- No match: NOT_FOUND, with no context (log entry 56). -/
def State.lookupNone (s : State) (rid : Nat) (more : Nat := 0) : State :=
  s.completeLookup rid .notFound { detail := 0xFFFF + more }

/-- The handle that an index entry names (R111). -/
def RootEntry.handle (e : RootEntry) : Nat := mkHandle e.partition e.ringPos e.generation e.seqIndex

/-- The partitions whose entries a lookup may report (R112), as they are now; a partition that is restored and not enabled is
none of them (R469; log entry 60). -/
def State.permittedParts (s : State) (p : Nat) (shared : Bool) (g : Nat) : List Nat :=
  (List.range 128).filter (fun q => !s.hidden q && (q == p || (shared && s.inGroup g q)))

/-- The chain hashes of the full chunks of a token stream (R90, R91). -/
def chainOf (shapeId adapter t : Nat) : Nat → Nat → List Nat → List Nat
  | 0, _, _ => []
  | k + 1, prev, toks =>
    if toks.length < t || t = 0 then []
    else
      let h := chainHash prev shapeId adapter (toks.take t)
      h :: chainOf shapeId adapter t k h (toks.drop t)

/-- One hash of the forward pass: a Canopy hit, else a walk, whose hit fills Canopy (R100, R109). -/
def State.findHash (s : State) (k : Key) (permitted : List Nat) : Bool × State :=
  let r := s.canopySearch k
  if r.1.1.isSome then (true, r.2)
  else if r.2.walk k.hash permitted.contains != [] then (true, r.2.canopyFill k.hash) else (false, r.2)

/-- The forward pass: the hashes found before the first that is not. -/
def State.forwardPass (s : State) (k : Key) (permitted : List Nat) : List Nat → List Nat × State
  | [] => ([], s)
  | h :: hs =>
    match s.findHash { k with hash := h } permitted with
    | (false, s) => ([], s)
    | (true, s) =>
      let r := State.forwardPass s k permitted hs
      (h :: r.1, r.2)

/-- Canopy matches of a hash whose root entry is not of that hash (R110; log entry 60). -/
def State.falseHits (s : State) (k : Key) : Nat :=
  (s.exactHits k).countP (fun e => match e.root with | some x => x.hash != k.hash | none => true)

/-- The lookup ends with the confirmed matches at level m (R111, R113). -/
def State.finishLookup (s : State) (rid : Nat) (r : Req) (m : Nat) (found : List RootEntry) : State :=
  match found with
  | [] => s.lookupNone rid
  | e :: rest =>
    let n := found.length
    let (ctx, s) := if rest = [] then (none, s) else s.allocCtx { part := r.part, m := m, found := rest.take 63 }
    s.completeLookup rid .ok {
      result0 := e.handle, result1 := m + b2n (n > 1) * 2 ^ 32
      detail := ctx.getD 0xFFFF + min n 64 * 2 ^ 16 + b2n (n > 64) * 2 ^ 23 }

/-- A stale entry removed from the root index and from Canopy (R110). -/
def State.removeStale (s : State) (e : RootEntry) : State :=
  match (s.rootOf e.hash).find? (fun x => x.2 == e) with
  | some x => s.rootRemove x.1 x.2
  | none => s

/-- The verdict of this device on an entry: its own by R110, none for a member's entry. -/
def State.verdict (s : State) (e : RootEntry) : Option Bool := if e.ringPos = s.pos then some (s.confirm e) else none

/-- The members that must be asked about the entries of a level: present and not this device (R118). -/
def State.toAsk (s : State) (es : List RootEntry) : List Nat :=
  ((es.map (·.ringPos)).eraseDups).filter (fun q => q != s.pos && s.posPresent q)

/-- The words of a confirmation REQUEST: sequence, generation, chunk, hash and partition of every entry at a position. -/
def confirmBody (pos : Nat) (es : List RootEntry) : List Nat :=
  2 :: (es.filter (fun e => e.ringPos == pos)).flatMap (fun e =>
    [e.seqIndex, e.generation.toNat, e.chunkNumber, e.hash, e.partition])

/-- Levels confirmed from `m` chunks down (R109, step 5), until one confirms or members must be asked. -/
def State.confirmFrom (s : State) (rid : Nat) (r : Req) (k : Key) (hashes permitted : List Nat) : Nat → State
  | 0 => s.lookupNone rid
  | m + 1 =>
    let k := { k with hash := hashes.getD m 0 }
    let s := s.bump F.CANOPY_FALSE_HIT_COUNT (s.falseHits k)
    let conf := (s.walk k.hash permitted.contains).map (fun x => (x.2, s.verdict x.2))
    let s := conf.foldl (fun s c => if c.2 = some false then s.removeStale c.1 else s) s
    let asked := s.toAsk (conf.map (·.1))
    if asked != [] then
      let s := asked.foldl (fun s q => s.ringSend q 0 rid r.part (confirmBody q (conf.map (·.1)))) s
      s.wait rid (.lookup { hashes := hashes, m := m + 1, permitted := permitted, conf := conf, asked := asked })
    else
      let found := (conf.filter (fun c => c.2 == some true)).map (·.1)
      if found = [] then State.confirmFrom s rid r k hashes permitted m else s.finishLookup rid r (m + 1) found

/-- The search key of a lookup. -/
def Req.lookKey (r : Req) (tag : Nat) : Key :=
  { hash := 0, part := r.part, adapter := r.lookAdapter, tag := tag, shared := r.lookShared }

/-- A lookup whose hashes are known, on the device that searches (R117). -/
def State.lookupHashes (s : State) (rid : Nat) (r : Req) (tag : Nat) (hashes : List Nat) : State :=
  let permitted := r.snap.permitted.filter (fun q => !s.hidden q)
  let k := r.lookKey tag
  let (found, s) := s.forwardPass k permitted hashes
  s.confirmFrom rid r k found permitted found.length

/-- Verdicts of a member on the entries of a level, in the order in which they were sent (R118). -/
def fillVerdicts (pos : Nat) : List (RootEntry × Option Bool) → List Bool → List (RootEntry × Option Bool)
  | [], _ => []
  | (e, v) :: t, bs =>
    if e.ringPos = pos then
      match bs with
      | b :: bs => (e, some b) :: fillVerdicts pos t bs
      | [] => (e, v) :: fillVerdicts pos t []
    else (e, v) :: fillVerdicts pos t bs

/-- The answer of a member to a lookup that waits; no answer of an unreachable one counts as not confirmed. -/
def State.lookupAnswer (s : State) (rid pos : Nat) (answer : Option (List Bool)) : State :=
  match s.req? rid with
  | none => s
  | some r =>
    match r.wait with
    | .lookup l =>
      let conf := match answer with | some bs => fillVerdicts pos l.conf bs | none => l.conf
      let s := conf.foldl (fun s c => if c.1.ringPos = pos && c.2 = some false then s.removeStale c.1 else s) s
      let l : Lookup := { l with conf := conf, asked := l.asked.filter (· != pos) }
      if l.asked != [] then s.wait rid (.lookup l)
      else
        let found := (conf.filter (fun c => c.2 == some true)).map (·.1)
        if found != [] then s.finishLookup rid r l.m found
        else
          let tag := match conf with | c :: _ => c.1.ctxTag | [] => 0
          s.confirmFrom rid r (r.lookKey tag) l.hashes l.permitted (l.m - 1)
    | _ => s

/-- The tokens of a lookup turned into hashes here, and the search on the owner of their bucket (R117, R395). -/
def State.lookupTokens (s : State) (rid : Nat) (r : Req) (sh : Bytes) (toks : List Nat) : State :=
  let hashes := chainOf (shId sh) r.lookAdapter (shTpl sh) toks.length (s.seedOf r.lookShared r.part r.lookGroup) toks
  let tag := ctxTag (shId sh) r.lookAdapter
  match hashes with
  | [] => s.lookupNone rid
  | h0 :: _ =>
    match s.otherOwner? r.snap.shards (shardBucket h0) with
    | none => s.lookupHashes rid r tag hashes
    | some o =>
      if !s.posPresent o then s.lookupNone rid (2 ^ 31)
      else (s.ringSend o 0 rid r.part ([1, r.origin.queueCode, r.part, leNat r.entry, tag] ++ hashes) (64 + 16 * hashes.length)).wait rid (.forward o)

/-- PREFIX_LOOKUP (R109). A lookup that ends ACCESS_DENIED, POISONED, BAD_FORMAT or LINK_FAILED carries detail 0 (DESIGN CHOICE: the spec
lists no detail for these; log entry 56). It waits while no codec slice is on for its hashes (R109, step 2, R452). -/
def effPrefixLookup (s : State) (rid : Nat) : State :=
  match s.startedReq? rid [0x30] with
  | none => s
  | some r =>
    match r.hashTag, s.shapeNow? r.part r.lookShape with
    | some tag, _ => s.lookupHashes rid r tag r.hashes
    | none, none => s.completeLookup rid .badDescriptor { detail := s.faultOff rid 28 }
    | none, some slot =>
      if r.lookShared && !r.snap.member then s.completeLookup rid .accessDenied {}
      else if s.shapeBad r.part r.lookShape slot.epoch then s.completeLookup rid .poisoned {}
      else
        match s.tokenRead r r.addr16 (4 * r.lookCount) with
        | .fail st => (s.noteTag r st).completeLookup rid st {}
        | .ok bs =>
          let toks := tokensOf r.lookCount bs
          if toks.any (fun t => t ≥ 2 ^ 20) then s.completeLookup rid .badFormat {}
          else if !s.anySlice then s
          else s.lookupTokens rid r slot.body toks

def execPrefixLookup (e : Env) (rid : Nat) (s : State) : Host.Outcome State Fault Refusal :=
  .next (effPrefixLookup (s.enter e) rid)

/-! ### PREFIX_STEP (R114, R132) -/

/-- A context freed (log entry 62). -/
def State.freeCtx (s : State) (k : Nat) : State := { s with ctxs := s.ctxs.erase k }

/-- A match of a context returned, with the matches that remain; with the last one the context is freed. -/
def State.stepEmit (s : State) (rid k : Nat) (c : Ctx) (e : RootEntry) (rest : List RootEntry) : State :=
  let s := if rest = [] then s.freeCtx k else { s with ctxs := s.ctxs.set k { c with found := rest, lastUse := s.time } }
  s.completeLookup rid .ok {
    result0 := e.handle, result1 := c.m + b2n (rest != []) * 2 ^ 32
    detail := (if rest = [] then 0xFFFF else k) + min rest.length 127 * 2 ^ 16 }

/-- The next match of a search context that passes items 3 to 5 of R110; a member's match is asked of that member. -/
def State.stepFind (s : State) (rid k part : Nat) (c : Ctx) : List RootEntry → State
  | [] => (s.freeCtx k).lookupNone rid
  | e :: rest =>
    if s.hidden e.partition then State.stepFind s rid k part c rest
    else if e.ringPos = s.pos then
      if s.confirm e then s.stepEmit rid k c e rest else State.stepFind s rid k part c rest
    else if s.posPresent e.ringPos then
      let s := { s with ctxs := s.ctxs.set k { c with found := e :: rest, lastUse := s.time } }
      (s.ringSend e.ringPos 0 rid part (confirmBody e.ringPos [e])).wait rid (.step k)
    else State.stepFind s rid k part c rest

/-- The next match of a rule-match context (R132). -/
def State.stepRule (s : State) (rid k : Nat) (c : Ctx) : State :=
  match c.rules with
  | [] => (s.freeCtx k).lookupNone rid
  | m :: rest =>
    let s := if rest = [] then s.freeCtx k else { s with ctxs := s.ctxs.set k { c with rules := rest, lastUse := s.time } }
    s.completeLookup rid .ok {
      result0 := m.rule % 2 ^ 10 + m.priority % 256 * 2 ^ 16 + m.action % 8 * 2 ^ 24 + m.token % 2 ^ 32 * 2 ^ 32
      result1 := m.chunk % 2 ^ 32 + b2n (rest != []) * 2 ^ 32
      detail := (if rest = [] then 0xFFFF else k) + min rest.length 127 * 2 ^ 16 }

/-- PREFIX_STEP (R114, R132). Where it names an expired context that is still held, or one of another partition, the context is freed;
one that ends LINK_FAILED carries detail 0 (DESIGN CHOICE; log entry 56). -/
def effPrefixStep (s : State) (rid : Nat) : State :=
  match s.startedReq? rid [0x31] with
  | none => s
  | some r =>
    match s.ctxs.get? r.context with
    | none => s.lookupNone rid
    | some c =>
      if c.part != r.part || s.time ≥ c.lastUse + 1000000000 then (s.freeCtx r.context).lookupNone rid
      else if c.isRule then s.stepRule rid r.context c
      else match c.far with
      | some (o, k) =>
        if !s.joined || !s.posPresent o then s.completeLookup rid .linkFailed {}
        else (s.ringSend o 0 rid r.part [0, r.origin.queueCode, r.part, leNat (r.entry.take 16 ++ leBytes 2 k ++ r.entry.drop 18)] 64).wait
          rid (.forward o)
      | none => s.stepFind rid r.context r.part c c.found

def execPrefixStep (e : Env) (rid : Nat) (s : State) : Host.Outcome State Fault Refusal := .next (effPrefixStep (s.enter e) rid)

/-- The answer of a member to a step that waits. -/
def State.stepAnswer (s : State) (rid : Nat) (ok : Bool) : State :=
  match s.req? rid with
  | none => s
  | some r =>
    match r.wait with
    | .step k =>
      (match s.ctxs.get? k with
      | some c => (match c.found with
        | e :: rest => if ok then s.stepEmit rid k c e rest else s.stepFind rid k r.part c rest
        | [] => s.lookupNone rid)
      | none => s.lookupNone rid)
    | _ => s

/-- A context that has not been used for 1 s is freed (R113). -/
def effSearchContextExpiry (s : State) (k : Nat) : State :=
  match s.ctxs.get? k with
  | some c => if s.time ≥ c.lastUse + 1000000000 then s.freeCtx k else s
  | none => s

def execSearchContextExpiry (e : Env) (ctx : Nat) (s : State) : Host.Outcome State Fault Refusal :=
  .next (effSearchContextExpiry (s.enter e) ctx)

/-! ### PREFIX_INSERT (R115) -/

/-- Entries inserted in order on the owner of their bucket: how many, and whether one could not be placed. -/
def State.insertAll (s : State) : List RootEntry → Nat × Bool × State
  | [] => (0, false, s)
  | e :: es =>
    match s.insertEntry e with
    | (.failed, s) => (0, true, s)
    | (.skipped, s) => State.insertAll s es
    | (.made, s) =>
      let r := State.insertAll s es
      (r.1 + 1, r.2.1, r.2.2)

/-- Whether an insertion would pass the partition's quota (R115, item 1). -/
def State.overQuota (s : State) (p n : Nat) : Bool := s.entriesOf p + n > s.get F.PART_INDEX_QUOTA_MAX_ENTRIES p

/-- The journal records of an index change (R300). -/
def State.indexRecs (s : State) (qi : Nat) (chunks : List Nat) (insert : Bool) : List JRec :=
  if s.seqJournaled (s.seq qi) then chunks.map (fun n => .index qi n insert) else []

/-- The completion of an insertion of which the owner has reported the outcome. -/
def State.finishInsert (s : State) (rid : Nat) (r : Req) (n : Nat) (failed : Bool) : State :=
  let qi := hSeq r.handle
  let q := s.seq qi
  let alive := q.state == .openS || q.state == .published
  let cs := ((List.range r.chunkCount16).map (· + r.chunkFirst24)).filter (fun k => (s.roots.any (fun x =>
    x.2.seqIndex == qi && x.2.ringPos == s.pos && x.2.chunkNumber == k && x.2.partition == q.partition)) || s.joined)
  s.completeJournaled rid (if n = 0 then [] else s.indexRecs qi cs true) (if failed || !alive then .okPartial else .ok) { result0 := n }

/-- The chunks that an insertion takes: from the first, until one is not published or carries NO_STORE or NO_SHARE. -/
def insertChunks (q : Sequ) (first n : Nat) : List Chunk :=
  (((q.chunks.drop first).take n)).takeWhile (fun c => c.published && !c.acts.noStore && !c.acts.noShare)

def effPrefixInsert (s : State) (rid : Nat) : State :=
  match s.startedReq? rid [0x32] with
  | none => s
  | some r =>
    let qi := hSeq r.handle
    let q := s.seq qi
    let alive := q.state == .openS || q.state == .published
    let es := if alive then (insertChunks q r.chunkFirst24 r.chunkCount16).map (s.indexEntry qi q) else []
    let remote := match q.chunks with | c0 :: _ => s.otherOwner? r.snap.shards (shardBucket c0.hash) | [] => none
    if alive && s.shapeBad q.partition q.shapeIndex q.shapeEpoch then s.complete rid .poisoned
    else if alive && s.seqJournaled q && s.journalFull then s.complete rid .readOnlyMedia
    else match remote with
    | some o =>
      if !s.posPresent o then s.complete rid .linkFailed
      else (s.ringSend o 0 rid r.part ([3, r.part, r.chunkCount16] ++ es.flatMap (indexBody 1))).wait rid (.forward o)
    | none =>
      if s.overQuota r.part r.chunkCount16 then s.complete rid .quotaExceeded
      else
        let (n, failed, s) := s.insertAll es
        s.finishInsert rid r n failed

def execPrefixInsert (e : Env) (rid : Nat) (s : State) : Host.Outcome State Fault Refusal := .next (effPrefixInsert (s.enter e) rid)

/-! ### PREFIX_REMOVE (R116) -/

def effPrefixRemove (s : State) (rid : Nat) : State :=
  match s.startedReq? rid [0x33] with
  | none => s
  | some r =>
    let qi := hSeq r.handle
    let q := s.seq qi
    let (first, n) := (r.chunkFirst24, min r.chunkCount16 (q.chunks.length - r.chunkFirst24))
    let remote := match q.chunks with | c0 :: _ => s.otherOwner? r.snap.shards (shardBucket c0.hash) | [] => none
    if s.seqJournaled q && s.journalFull then s.complete rid .readOnlyMedia
    else match remote with
    | some o =>
      if !s.posPresent o then s.complete rid .linkFailed
      else (s.ringSend o 0 rid r.part [4, s.pos, qi, q.generation.toNat, q.partition, first, n]).wait rid (.forward o)
    | none =>
      let (m, s) := s.removeRange s.pos qi q.generation q.partition first n
      s.completeJournaled rid (if m = 0 then [] else s.indexRecs qi ((List.range n).reverse.map (· + first)) false) .ok { result0 := m }

def execPrefixRemove (e : Env) (rid : Nat) (s : State) : Host.Outcome State Fault Refusal := .next (effPrefixRemove (s.enter e) rid)

/-! ### The upkeep of Canopy (R100 to R102) -/

/-- The hashes in 2-unit banks of which an entry has reached a number of hits. -/
def State.hotHashes (s : State) (hits : Nat) : List Nat :=
  (((List.range 64).filter (fun b => s.bankWidth b == 2)).flatMap (fun b =>
    (s.bank b).entries.filterMap (fun x => match x.2.root with
      | some r => if x.2.hits ≥ hits then some r.hash else none
      | none => none))).eraseDups

/-- The hits of every entry zero again. -/
def State.clearHits (s : State) : State :=
  { s with banks := s.banks.map (fun x => (x.1, { x.2 with entries := x.2.entries.map (fun y => (y.1, { y.2 with hits := 0 })) })) }

/-- The time at which the promotion period ends (R119): PERIOD_US after the last one, of which 0 acts as 1. -/
def State.promoteDue (s : State) : Nat := s.promoAt + max 1 (s.get F.CANOPY_PROMOTE_PERIOD_US) * 1000

/-- The keys that have reached HITS moved to the 1-unit banks (R100). -/
def State.promoteHot (s : State) : State :=
  let n := s.get F.CANOPY_PROMOTE_HITS
  if n = 0 then s
  else (s.hotHashes n).foldl (fun s h => if s.halfBanks 1 h = [] then s else (s.canopyDrop h).fillInto 1 h) s

/-- A promotion period that ends now. -/
def State.periodEnd (s : State) : State := { s with promoAt := s.time }

/-- The end of a promotion period: the keys that have reached HITS in it move to the 1-unit banks, and the hits start again. They move at
the end of the period (DESIGN CHOICE: the spec does not say when inside a period; log entry 36). -/
def effCanopyPromote (s : State) : State :=
  if s.time < s.promoteDue then s else s.promoteHot.clearHits.periodEnd

def execCanopyPromote (e : Env) (s : State) : Host.Outcome State Fault Refusal := .next (effCanopyPromote (s.enter e))

/-- The maintenance port restores the holes of a bank. -/
def effCanopyRespread (s : State) (b : Nat) : State :=
  if b ≥ 64 || !s.on F.CANOPY_BANK_CFG_RESPREAD b then s
  else
    s.respreadBank b

def execCanopyRespread (e : Env) (bank : Nat) (s : State) : Host.Outcome State Fault Refusal :=
  .next (effCanopyRespread (s.enter e) bank)

/-- Units that fail parity in the scan (R102): each counts and is rewritten from the shadow, or stays cleared where the shadow
reads as uncorrectable (R411); the end of a lap is reported with its duration. -/
def effCanopyParityScan (s : State) (failing : List (Nat × Nat)) (lost : List (Nat × Nat)) (lapUs : Option Nat) : State :=
  let s := failing.foldl (fun s x => (s.bump F.CANOPY_PAR_COUNT_COUNT).raise gCanopy 0) s
  let s := lost.foldl (fun s x =>
    let k := s.bank x.1
    s.setBank x.1 { k with entries := k.entries.modify x.2 (fun e => { e with cleared := true }) }) s
  match lapUs with
  | some t => (s.put F.CANOPY_SCAN_LAP_LAST_US (min t (2 ^ 24 - 1))).put F.CANOPY_SCAN_LAP_LAPS (s.get F.CANOPY_SCAN_LAP_LAPS + 1)
  | none => s

def execCanopyParityScan (e : Env) (failing lost : List (Nat × Nat)) (lapUs : Option Nat) (s : State) :
    Host.Outcome State Fault Refusal := .next (effCanopyParityScan (s.enter e) failing lost lapUs)

/-- A bank cleared (R119): the keys that had entries in it are resolved in the root index (R100). -/
def effCanopyBankFlush (s : State) (b : Nat) : State :=
  if b ≥ 64 then s
  else
    let hs := (s.bank b).entries.filterMap (fun x => x.2.root.map (·.hash))
    let s := hs.foldl State.canopyDrop s
    s.setBank b { s.bank b with entries := [], away := [] }

/-- A bank whose group goes off holds no entries (R104); the HBM shadow keeps its classification entries (R134). -/
def State.bankOff (s : State) (b : Nat) : State :=
  let es := (s.bank b).entries.filter (fun x => x.2.kind == .rule)
  let s := effCanopyBankFlush s b
  s.setBank b { s.bank b with away := es }

/-- A bank whose group comes on takes its classification entries from the shadow again (DESIGN CHOICE: the spec says only that a group
that is off does not change the result of a search; log entry 36). -/
def State.bankOn (s : State) (b : Nat) : State :=
  let k := s.bank b
  if k.away = [] || s.bankWidth b != 3 then s else s.setBank b { k with entries := k.away, away := [] }

def execCanopyBankFlush (e : Env) (bank : Nat) (s : State) : Host.Outcome State Fault Refusal :=
  .next (effCanopyBankFlush (s.enter e) bank)

end Sys2Proof.Machine
end

