-- ==== Sys2Proof/Machine/HostPort.lean ====
section
/-! DEFINITION. The host port (R57 to R72, R85, R86, R530): ring enables, doorbells, the fetch and the start of a descriptor
with its checks (R77), forwarding (R391), Function Level Reset, and the two opcodes that do nothing. -/

namespace Sys2Proof.Machine

open Sys2Proof

/-! ### Which pages and register sets act (R58 to R60, R468) -/

/-- The ring that page or set `n` of a function names (R58), where the function has it. -/
def State.ringOf (s : State) (fn n : Nat) : Option Nat :=
  if fn = 0 then (if n < 1024 then some n else none)
  else if s.vfEnabled fn && n < 8 then some (8 * fn + n) else none

/-- A dropped write recorded (R70, R532). -/
def State.dropWrite (s : State) (ring : Nat) (headReg : Bool) (cause val : Nat) : State :=
  let s := if headReg then s.put F.HP_CQ_STATUS_DB_ERR 1 ring else s.put F.HP_SQ_STATUS_DB_ERR 1 ring
  (s.recordEvent F.HP_DB_ERR_VALID F.HP_DB_ERR_OVERFLOW
    [(F.HP_DB_ERR_RING, ring), (F.HP_DB_ERR_HEAD_REG, b2n headReg), (F.HP_DB_ERR_CAUSE, cause), (F.HP_DB_ERR_VALUE, val)]).raise
    gHostPort 0

/-- Why a doorbell write of a function is dropped before its value is looked at: the causes of HP_DB_ERR, in the order not
READY, inert page, partition not ACTIVE, bad size or offset, ring disabled (log entry 13). -/
def State.doorbellCause (s : State) (fn ring : Nat) (okPlace enabled : Bool) : Option Nat :=
  if !s.ready then some 0
  else if fn = 0 && s.vfEnabled (ring / 8) then some 2
  else if !s.partActive (ring / 8) then some 1
  else if !okPlace then some 3
  else if !enabled then some 0
  else none

/-- A doorbell write of another size or out of alignment is a refused access beside a dropped one (R66, R495). -/
def State.pageAccess (s : State) (fn page off size : Nat) (write : Bool) : State :=
  if (size = 4 || size = 8) && off % size = 0 then s else s.badAccess fn 1 (page * 0x1000 + off) write

/-- SQ_TAIL (R66, R67). -/
def effSqTail (s : State) (fn page off size val : Nat) : State :=
  match s.ringOf fn page with
  | none => s
  | some q =>
    let s := s.pageAccess fn page off size true
    match s.doorbellCause fn q (off == 0 && (size == 4 || size == 8)) (s.on F.HP_SQ_CFG_ENABLE q) with
    | some c => s.dropWrite q false c (val % 65536)
    | none =>
      if val ≥ 2 ^ s.get F.HP_SQ_CFG_LOG2_SIZE q then s.dropWrite q false 4 (val % 65536)
      else s.put F.HP_SQ_TAIL_TAIL val q

def execSqTail (e : Env) (fn page off size val : Nat) (s : State) : Host.Outcome State Fault Refusal :=
  .next (effSqTail (s.enter e) fn page off size val)

/-- CQ_HEAD (R66, R69). -/
def effCqHead (s : State) (fn page off size val : Nat) : State :=
  match s.ringOf fn page with
  | none => s
  | some c =>
    let s := s.pageAccess fn page off size true
    match s.doorbellCause fn c (off == 8 && (size == 4 || size == 8)) (s.on F.HP_CQ_CFG_ENABLE c) with
    | some x => s.dropWrite c true x (val % 65536)
    | none =>
      let n := 2 ^ s.get F.HP_CQ_CFG_LOG2_SIZE c
      if val ≥ n || (val + n - s.get F.HP_CQ_HEAD_HEAD c) % n > s.cqUnreturned c then s.dropWrite c true 4 (val % 65536)
      else s.put F.HP_CQ_HEAD_HEAD val c

def execCqHead (e : Env) (fn page off size val : Nat) (s : State) : Host.Outcome State Fault Refusal :=
  .next (effCqHead (s.enter e) fn page off size val)

/-! ### Enabling and disabling rings (R62 to R65) -/

/-- Whether a function's write of a ring register set acts: of its own rings, once READY and while the partition is ACTIVE;
the physical function's copy of a ring that a virtual function serves is inert, and the write is logged (R59, R60, R468; log entry 13). -/
def State.ringWrite (s : State) (fn ring : Nat) (cq : Bool) (val : Nat) (go : State → State) : State :=
  if ring ≥ 1024 || (fn != 0 && !(s.vfEnabled fn && ring / 8 == fn)) || !s.ready then s
  else if fn = 0 && s.vfEnabled (ring / 8) then s.dropWrite ring cq 2 (val % 65536)
  else if !s.partActive (ring / 8) then s
  else go s

/-- The fields of HP_SQ_CFG other than ENABLE. -/
def State.sqFields (s : State) (q val : Nat) : State :=
  (((s.put F.HP_SQ_CFG_LOG2_SIZE (bits val 4 0) q).put F.HP_SQ_CFG_GEN (bits val 5 5) q).put
    F.HP_SQ_CFG_CQ (bits val 10 8) q).put F.HP_SQ_CFG_WEIGHT (bits val 23 16) q

/-- The conditions of R63 (log entry 53). -/
def State.sqEnableOk (s : State) (q : Nat) : Bool :=
  6 ≤ s.get F.HP_SQ_CFG_LOG2_SIZE q && s.get F.HP_SQ_CFG_LOG2_SIZE q ≤ 16 && s.on F.HP_CQ_CFG_ENABLE (s.cqOf q)
    && (s.on F.HP_SQ_CFG_GEN q || !s.confidential (q / 8))

/-- A write of HP_SQ_CFG with ENABLE 1 (R62 to R64); the failed domains of the ring are forgotten with a new start (log entries 52, 53). -/
def effSqEnable (s : State) (fn q val : Nat) : State :=
  s.ringWrite fn q false val (fun s =>
    if s.on F.HP_SQ_STATUS_ACTIVE q then
      (if s.on F.HP_SQ_CFG_ENABLE q then s else s.put F.HP_SQ_STATUS_ENABLE_ERR 1 q)
    else
      let s := s.sqFields q val
      if !s.sqEnableOk q then s.put F.HP_SQ_STATUS_ENABLE_ERR 1 q
      else
        let s := (((s.put F.HP_SQ_CFG_ENABLE 1 q).put F.HP_SQ_STATUS_HEAD 0 q).put F.HP_SQ_TAIL_TAIL 0 q).put
          F.HP_SQ_STATUS_ACTIVE 1 q
        { s with sqs := s.sqs.set q { (s.sqs.getD q {}) with seqNo := 0 }
                 failed := s.failed.filter (fun x => x.1 != (1, q, 0)) })

def execSqEnable (e : Env) (fn q val : Nat) (s : State) : Host.Outcome State Fault Refusal :=
  .next (effSqEnable (s.enter e) fn q val)

/-- A write of HP_SQ_CFG with ENABLE 0 (R62, R64). -/
def effSqDisable (s : State) (fn q val : Nat) : State :=
  s.ringWrite fn q false val (fun s =>
    if s.on F.HP_SQ_CFG_ENABLE q then s.put F.HP_SQ_CFG_ENABLE 0 q
    else if s.on F.HP_SQ_STATUS_ACTIVE q then s
    else s.sqFields q val)

def execSqDisable (e : Env) (fn q val : Nat) (s : State) : Host.Outcome State Fault Refusal :=
  .next (effSqDisable (s.enter e) fn q val)

/-- A disabled ring whose in-flight count is zero is no longer ACTIVE (R64). -/
def effSqInactive (s : State) (q : Nat) : State :=
  if s.on F.HP_SQ_STATUS_ACTIVE q && !s.on F.HP_SQ_CFG_ENABLE q && s.get F.HP_SQ_INFLIGHT_COUNT q = 0
  then s.put F.HP_SQ_STATUS_ACTIVE 0 q else s

def execSqInactive (e : Env) (q : Nat) (s : State) : Host.Outcome State Fault Refusal := .next (effSqInactive (s.enter e) q)

/-- The fields of HP_CQ_CFG other than ENABLE. -/
def State.cqFields (s : State) (c val : Nat) : State :=
  ((s.put F.HP_CQ_CFG_LOG2_SIZE (bits val 4 0) c).put F.HP_CQ_CFG_VECTOR (bits val 18 8) c).put F.HP_CQ_CFG_IRQ_EN (bits val 30 30) c

/-- The vectors of a function (R54). -/
def vectorsOf (fn : Nat) : Nat := if fn = 0 then 2048 else 64

/-- A write of HP_CQ_CFG with ENABLE 1 (R62, R65; log entry 53). -/
def effCqEnable (s : State) (fn c val : Nat) : State :=
  s.ringWrite fn c true val (fun s =>
    if s.on F.HP_CQ_CFG_ENABLE c then s
    else
      let s := s.cqFields c val
      let log := s.get F.HP_CQ_CFG_LOG2_SIZE c
      if log < 6 || log > 16 || s.get F.HP_CQ_CFG_VECTOR c ≥ vectorsOf (s.ownerFn (c / 8)) then
        s.put F.HP_CQ_STATUS_ENABLE_ERR 1 c
      else
        let s := ((((s.put F.HP_CQ_CFG_ENABLE 1 c).put F.HP_CQ_STATUS_TAIL 0 c).put F.HP_CQ_HEAD_HEAD 0 c).put
          F.HP_CQ_STATUS_PHASE 1 c).put F.HP_CQ_STATUS_ACTIVE 1 c
        { s with cqs := s.cqs.set c {}, sqs := s.sqs.set c { (s.sqs.getD c {}) with cplSeq := 0 } })

def execCqEnable (e : Env) (fn c val : Nat) (s : State) : Host.Outcome State Fault Refusal :=
  .next (effCqEnable (s.enter e) fn c val)

/-- Whether a submission ring that is enabled or active names a completion ring (R65). -/
def State.cqNamed (s : State) (c : Nat) : Bool :=
  (List.range 8).any (fun i =>
    let q := c / 8 * 8 + i
    (s.on F.HP_SQ_CFG_ENABLE q || s.on F.HP_SQ_STATUS_ACTIVE q) && s.cqOf q == c)

/-- A write of HP_CQ_CFG with ENABLE 0 (R62, R65). -/
def effCqDisable (s : State) (fn c val : Nat) : State :=
  s.ringWrite fn c true val (fun s =>
    if !s.on F.HP_CQ_CFG_ENABLE c then s.cqFields c val
    else if s.cqNamed c || (s.cqs.getD c {}).reserved != 0 then s.put F.HP_CQ_STATUS_ENABLE_ERR 1 c
    else
      let s := (s.put F.HP_CQ_CFG_ENABLE 0 c).put F.HP_CQ_STATUS_ACTIVE 0 c
      { s with cqs := s.cqs.set c {} })

def execCqDisable (e : Env) (fn c val : Nat) (s : State) : Host.Outcome State Fault Refusal :=
  .next (effCqDisable (s.enter e) fn c val)

/-- The moderation delay since the oldest unsignalled entry is over (R85). -/
def effCqModDelayExpiry (s : State) (c : Nat) : State :=
  let st := s.cqs.getD c {}
  let d := s.get F.HP_CQ_MOD_DELAY_US c
  if s.on F.HP_CQ_CFG_IRQ_EN c && st.unsignalled != 0 && d != 0 && s.time ≥ st.oldest + d * 1000 then s.signalCq c else s

def execCqModDelayExpiry (e : Env) (c : Nat) (s : State) : Host.Outcome State Fault Refusal :=
  .next (effCqModDelayExpiry (s.enter e) c)

/-! ### Fetch (R71, R72, R530) -/

/-- Bytes of a descriptor on a ring (R74). -/
def State.descSize (s : State) (q : Nat) : Nat := if s.on F.HP_SQ_CFG_GEN q then 64 else 32

/-- Entries submitted and not fetched. -/
def State.sqAvailable (s : State) (q : Nat) : Nat :=
  let n := 2 ^ s.get F.HP_SQ_CFG_LOG2_SIZE q
  (s.get F.HP_SQ_TAIL_TAIL q + n - s.get F.HP_SQ_STATUS_HEAD q) % n

/-- Admitted requests of the host port (log entry 56). -/
def State.hostAdmitted (s : State) : Nat := s.reqs.countP (fun x => match x.2.origin with | .ring _ => true | _ => false)

/-- Free entries of a completion ring (R71). -/
def State.cqRoom (s : State) (c : Nat) : Nat :=
  2 ^ s.get F.HP_CQ_CFG_LOG2_SIZE c - 1 - (s.cqUnreturned c + (s.cqs.getD c {}).reserved)

/-- Whether a ring has `n` entries that may be fetched in one read (R71, R72). -/
def State.ringWork (s : State) (q n : Nat) : Bool :=
  q < 1024 && 1 ≤ n && n ≤ 8 && s.serves && s.on F.HP_SQ_CFG_ENABLE q && s.on F.HP_SQ_STATUS_ACTIVE q && n ≤ s.sqAvailable q
    && n ≤ s.cqRoom (s.cqOf q) && s.hostAdmitted + n ≤ 32768

/-- Whether a ring has bursts left in the present round of the arbiter: WEIGHT of them, of which 0 acts as 1 (R62, R72). -/
def State.burstLeft (s : State) (q : Nat) : Bool := (s.sqs.getD q {}).bursts < max 1 (s.get F.HP_SQ_CFG_WEIGHT q)

/-- Whether the arbiter may serve a ring: it has bursts left, or no other ring with work has, so that a new round begins (log
entry 14). -/
def State.ringTurn (s : State) (q : Nat) : Bool :=
  s.burstLeft q || (List.range 1024).all (fun k => !(s.burstLeft k && s.ringWork k 1))

/-- A burst of a ring counted in the round, or in a new one. -/
def State.countBurst (s : State) (q : Nat) : State :=
  let t := if s.burstLeft q then s.sqs else s.sqs.map (fun (x : Nat × SqSt) => (x.1, { x.2 with bursts := 0 }))
  let st := t.getD q {}
  { s with sqs := t.set q { st with bursts := st.bursts + 1 } }

/-- Whether a ring may fetch `n` entries in one read (R72). -/
def State.fetchOk (s : State) (q n : Nat) : Bool := s.ringWork q n && s.ringTurn q

/-- One entry admitted under its reservation; HEAD passes it. -/
def State.admitOne (s : State) (q : Nat) (entry : Bytes) : State :=
  let head := (s.get F.HP_SQ_STATUS_HEAD q + 1) % 2 ^ s.get F.HP_SQ_CFG_LOG2_SIZE q
  let st := s.sqs.getD q {}
  let r : Req := { origin := .ring q, part := q / 8, entry := padTo 64 entry, v2 := s.on F.HP_SQ_CFG_GEN q, sqHead := head
                   ringSeq := st.seqNo }
  let s := (s.put F.HP_SQ_STATUS_HEAD head q).put F.HP_SQ_INFLIGHT_COUNT (s.get F.HP_SQ_INFLIGHT_COUNT q + 1) q
  let s := s.cqReserve (s.cqOf q)
  { s with reqs := s.reqs.set s.reqSeq r, reqSeq := s.reqSeq + 1, sqs := s.sqs.set q { st with seqNo := st.seqNo + 1 } }

/-- An entry whose read has failed: admitted, and completed without effect, its fields zero (R530). -/
def State.admitFailed (s : State) (q : Nat) (st : Status) : State :=
  let rid := s.reqSeq
  (s.admitOne q []).complete rid st

/-- Entries admitted one after the other. -/
def State.admitAll (s : State) (q size addr : Nat) : Nat → State
  | 0 => s
  | n + 1 =>
    let i := s.get F.HP_SQ_STATUS_HEAD q
    State.admitAll (s.admitOne q (Memory.readBytes s.mem (memKey 0 (addr + i * size)) size)) q size addr n

/-- Entries completed after a failed read, in ring order (log entries 51, 52). -/
def State.failAll (s : State) (q : Nat) (st : Status) : Nat → State
  | 0 => s
  | n + 1 => State.failAll (s.admitFailed q st) q st n

/-- How the read of `n` entries ends. -/
def State.entriesRead (s : State) (q n : Nat) : BusRead :=
  let size := s.descSize q
  let len := 2 ^ s.get F.HP_SQ_CFG_LOG2_SIZE q
  let head := s.get F.HP_SQ_STATUS_HEAD q
  let rs := (List.range n).map (fun k => s.busRead (memKey 0 (s.sqBase q + (head + k) % len * size)) size)
  if rs.any (fun r => r == .failed) then .failed else if rs.any (fun r => r == .poisoned) then .poisoned else .ok []

/-- A burst of up to 8 descriptors of a ring is fetched; the arbiter of R72 chooses the ring (log entry 14). -/
def effDescriptorFetch (s : State) (q n : Nat) : State :=
  if !s.fetchOk q n then s
  else
    let s := s.countBurst q
    match s.entriesRead q n with
    | .failed => s.failAll q .linkFailed n
    | .poisoned => s.failAll q .poisoned n
    | .ok _ => s.admitAll q (s.descSize q) (s.sqBase q) n

def execDescriptorFetch (e : Env) (q n : Nat) (s : State) : Host.Outcome State Fault Refusal :=
  .next (effDescriptorFetch (s.enter e) q n)

/-- A read of submission entries that fails (R530). -/
def effSubmissionReadFail (s : State) (q n : Nat) (poisoned : Bool) : State :=
  if !s.fetchOk q n then s else (s.countBurst q).failAll q (if poisoned then .poisoned else .linkFailed) n

def execSubmissionReadFail (e : Env) (q n : Nat) (poisoned : Bool) (s : State) : Host.Outcome State Fault Refusal :=
  .next (effSubmissionReadFail (s.enter e) q n poisoned)

/-! ### Start: the checks of R77 -/

/-- The ordering domain of a request (R45; log entry 50). A leaf handle that is FREE or stale counts in the domain of the
sequence that its index names at present, sequence 0 where it names none (DESIGN CHOICE: the spec is silent). -/
def State.domOf (s : State) (r : Req) : Dom :=
  let h := r.handle
  match r.opcode with
  | 0x30 => .index r.part
  | 0x32 => .index r.part
  | 0x33 => .index r.part
  | 0x13 => .none
  | _ =>
    match opRow? r.opcode with
    | none => .none
    | some w =>
      match w.handle with
      | .leaf =>
        if hPos h != s.pos then .farLeaf h
        else
          let o := (s.leaf (hLeaf h)).ownerSequence
          .seq s.pos (s.leaf (hLeaf h)).partition o (s.seq o).generation
      | .seq => .seq (hPos h) (hPart h) (hSeq h) (hGen h)
      | .seqOrNone => if h = 0 then .none else .seq (hPos h) (hPart h) (hSeq h) (hGen h)
      | .none => .none

/-- The domain in which a request reads or writes in order: a fork reads its source (R44). -/
def State.orderDom (s : State) (r : Req) : Dom :=
  if r.opcode = 0x13 then .seq (hPos r.handle) (hPart r.handle) (hSeq r.handle) (hGen r.handle) else s.domOf r

/-- Whether a request is write-class or read-class. -/
def Req.orderedClass (r : Req) : Bool := match r.row? with | some w => w.write || w.read | none => false

/-- Whether requests of two origins start in the order of their admission: those of one ring or queue pair, and those that one
member has forwarded (R11). -/
def Origin.startsBefore (a b : Origin) : Bool :=
  match a, b with
  | .fwd p _ _, .fwd q _ _ => p == q
  | _, _ => a.key == b.key

/-- Whether a request may start now: every earlier request of its ring, queue pair or forwarding member has started (R86, R11), each
of its own ring or queue pair has completed
where FENCE asks (R75), and no earlier write of its domain is in progress (R46, log entry 15). A forwarded request waits
until the device has joined (R384). -/
def State.mayStart (s : State) (rid : Nat) (r : Req) : Bool :=
  let dom := s.orderDom r
  let here := match r.origin with | .fwd _ _ _ => s.get F.RING_STATUS_STATE = 3 | _ => true
  here && s.reqs.all (fun x =>
    if x.1 < rid && x.2.origin.startsBefore r.origin then
      x.2.phase != .fetched && !(x.2.origin.key == r.origin.key
        && (r.fFence || (r.orderedClass && x.2.writeClass && dom != .none && s.orderDom x.2 == dom)))
    else true)

/-- The operand block of a v1 descriptor merged into the v2 layout (R78): the v2 bytes, or what the start ends with. -/
inductive Start
  | go (entry : Bytes)
  | bad (off : Nat)
  | fail (st : Status)
  deriving DecidableEq, Repr

/-- The checks of items 1 and 2 that a v1 descriptor of the block form passes before its block is read. -/
def blockHead (r : Req) (row : OpRow) (bound : Bool) : Option Nat :=
  (checkFlags r row).or ((checkDeadline r row bound).or ((checkNoHandle r row).or (if r.srcSpace = 0 && r.addr16 % 64 != 0 then some 16 else none)))

/-- Reserved bits of the 32 bytes of a v1 descriptor of the block form. -/
def blockReserved (r : Req) (row : OpRow) : Option Nat :=
  if r.flags ≥ 64 then some 1
  else if r.deadlineField != 0 then some 4
  else if handleReserved row.handle r.handle then some 8
  else ((List.range 8).map (· + 24)).find? (fun b => fieldAt r.entry b 1 != 0)

/-- Items 1 and 2 of R77, with the read of a v1 operand block. -/
def State.startEncoding (s : State) (r : Req) (bound : Bool) : Start :=
  let full (e : Bytes) : Start :=
    match checkEncoding { r with entry := e } (s.confidential r.part && r.local_) bound with
    | some off => .bad off
    | none => .go e
  match r.row? with
  | none => .bad 0
  | some row =>
    if r.v2 || row.v1 != .block then full r.entry
    else match blockReserved r row with
    | some off => .bad off
    | none =>
      if r.srcSpace = 0 && r.addr16 % 64 != 0 then .bad ((blockHead r row bound).getD 16)
      else if !s.regionOk r.srcMr r.part 0 r.addr16 32 then
        (match blockHead r row bound with | some off => .bad off | none => .fail .accessDenied)
      else match s.busRead (memKey r.srcSpace r.addr16) 32 with
        | .ok bs => full (r.entry.take 16 ++ bs ++ List.replicate 16 0)
        | .failed => (match blockHead r row bound with | some off => .bad off | none => .fail .linkFailed)
        | .poisoned => (match blockHead r row bound with | some off => .bad off | none => .fail .poisoned)

/-- Item 3: the integrity tag of a descriptor in confidential host mode (R437). -/
def State.descTagOk (s : State) (r : Req) : Bool :=
  match r.origin with
  | .ring q =>
    !s.confidential r.part
      || (r.entry.drop 48).take 16 == gcmTag (chmKey r.part (s.chmEpoch r) 1) (chmNonce q 0 0 r.ringSeq) (r.entry.take 48) []
  | _ => true

/-- Whether a leaf lies in a published chunk. -/
def State.inPublished (s : State) (i : Nat) : Bool :=
  s.seqs.any (fun x => x.2.chunks.any (fun c => c.published && c.leaves.contains i))

/-- What the handle checks of R18 end with. -/
inductive HandleCheck | ok | reserved | fail (st : Status)
  deriving DecidableEq, Repr

/-- The handle checks (R18, R38, R469). A handle whose index and generation match and whose partition is not the record's is
EVICTED like one of another generation (DESIGN CHOICE: R18 gives no status for it). -/
def State.checkHandle (s : State) (r : Req) (row : OpRow) : HandleCheck :=
  let h := r.handle
  let other := hPart h != r.part
  if row.handle = .none || (row.handle = .seqOrNone && h = 0) then .ok
  else if handleReserved row.handle h then .reserved
  else if other && (!row.read || !s.shareGroup (hPart h) r.part) then .fail .accessDenied
  else if s.hidden (hPart h) then .fail .evicted
  else if row.handle = .leaf then
    if s.leafGone h || (s.leaf (hLeaf h)).partition != hPart h then .fail .evicted
    else
      let l := s.leaf (hLeaf h)
      if other && (l.noShare || l.noStore || !s.inPublished (hLeaf h)) then .fail .accessDenied else .ok
  else
    let q := s.seq (hSeq h)
    if q.state = .free || q.state = .retired || q.generation != hGen h || q.partition != hPart h then .fail .evicted else .ok

/-- The deadline of a request that starts (R76, R227): a passed one misses; a domain that is not locked once leaves it
untimed with beat_lost; a LOST one marks it (log entry 49), and an arm, disarm or mark of it (R224). -/
def State.startDeadline (s : State) (r : Req) (row : OpRow) : Req × Bool :=
  if r.opcode = 0x50 then ({ r with beatDom := some r.markDomain, beatLost := (s.beat r.markDomain).state == bLost }, false)
  else if r.opcode = 0x51 || r.opcode = 0x52 then
    (match r.snap.bound with | some n => { r with beatDom := some n, beatLost := (s.beat n).state == bLost } | none => r, false)
  else if r.deadlineField = 0 || !row.deadline then (r, false)
  else match s.boundDomain r.part with
    | none => (r, false)
    | some n =>
      let st := (s.beat n).state
      if st = bOff || st = bAcquiring then ({ r with beatLost := true }, false)
      else
        let pos := s.resolvePos n r.deadlineField
        ({ r with deadline := some pos, beatDom := some n, beatLost := st == bLost }, s.posPassed n pos)

/-! ### Forwarding to another member (R391) -/

/-- The source buffers of a request: role, address, and bytes where the descriptor itself gives them; a length that depends on
the shape record of the executor's sequence is a free value (log entry 16). -/
def Req.sources (r : Req) : List (Nat × Nat × Option Nat) :=
  match r.opcode with
  | 0x11 => (1, r.addr24, some (4 * r.appendCount)) :: (if r.addr16 = 0 then [] else [(2, r.addr16, none)])
  | 0x21 => [(2, r.addr16, none)]
  | 0x40 => (3, r.addr16, none) :: (if r.addr32 = 0 then [] else [(4, r.addr32, none)])
  | 0x41 => [(3, r.addr16, none)]
  | 0x42 => if r.addr24 = 0 then [] else [(4, r.addr24, none)]
  | _ => []

/-- The sources read one after the other, each as address, length and value (log entry 16). -/
def State.readSources (s : State) (r : Req) : List (Nat × Nat × Option Nat) → (List Nat ⊕ Status) × State
  | [] => (.inl [], s)
  | (role, addr, len) :: rest =>
    let (n, s) := match len with
      | some n => (n, s)
      | none => (s.free.1 % 2 ^ 32, s.free.2)
    match (if role = 1 then s.tokenRead r addr n else s.bufRead r role addr n) with
    | .fail st => (.inr st, s)
    | .ok bs =>
      match State.readSources s r rest with
      | (.inl ws, s) => (.inl (addr :: n :: leNat bs :: ws), s)
      | (.inr st, s) => (.inr st, s)

/-- The bytes of sources listed as address, length and value (log entry 58). -/
def srcBytes : List Nat → Nat
  | _ :: n :: _ :: t => n + srcBytes t
  | _ => 0

/-- A request sent to the member that holds its object, without the tag of confidential host mode (R437); an absent one makes it
LINK_FAILED (R392; log entry 105). -/
def State.forward (s : State) (rid : Nat) (r : Req) (pos : Nat) : State :=
  if !s.joined || !s.posPresent pos then s.complete rid .linkFailed
  else match s.readSources r r.sources with
    | (.inr st, s) => s.failRead rid st
    | (.inl ws, s) =>
      let e := if s.confidential r.part && r.local_ then r.entry.take 48 else r.entry
      (s.ringSend pos 0 rid r.part ([0, r.origin.queueCode, r.part, leNat e] ++ ws) (64 + srcBytes ws)).wait rid (.forward pos)

/-- Whether a request names an object of another position: the executor of a forwarded request never forwards it again. -/
def State.isRemote (s : State) (r : Req) (row : OpRow) : Bool :=
  (match r.origin with | .fwd _ _ _ => false | _ => true) && row.handle != .none && r.handle != 0 && hPos r.handle != s.pos

/-- What a request takes at its start and keeps. -/
def State.snapOf (s : State) (r : Req) : StartSnap :=
  let q := s.seq (hSeq r.handle)
  let (shared, g) := if r.opcode = 0x10 then (r.openShared, r.openGroup) else (r.lookShared, r.lookGroup)
  { ruleEpoch := (s.ruleSlots r.part).epoch, scan := q.scan, total := q.totalChunks, openTokens := q.openTokens
    permitted := if r.opcode = 0x30 then s.permittedParts r.part shared g else [], member := s.inGroup g r.part
    bound := s.boundDomain r.part, markEn := s.on F.PART_BEAT_CFG_MARK_EN r.part, shards := s.ring.map }

/-- Items 3 to 5 of R77 and R47, once the encoding is sound (log entries 49, 51). -/
def State.startChecked (s : State) (rid : Nat) (r : Req) (row : OpRow) : State :=
  let s := s.setReq rid r
  if !s.descTagOk r then ((s.bump F.SEC_TAG_FAIL_COUNT).security 2 r.part).complete rid .accessDenied
  else if row.part0 && r.part != 0 then s.complete rid .accessDenied
  else if row.write && !r.fIndependent && s.failed.contains (r.origin.key, r.dom) then s.complete rid .abortedPredecessor
  else if s.isRemote r row then s.forward rid r (hPos r.handle)
  else match s.checkHandle r row with
    | .reserved => s.bad rid 8
    | .fail st => s.complete rid st
    | .ok =>
      let (r, passed) := s.startDeadline r row
      let s := s.setReq rid r
      if passed then s.complete rid .deadlineMissed else s

/-- How a request that has not started ends when its partition is torn down (R480): a forwarded one is refused (log entry 117). -/
def Req.abortTeardown (r : Req) : Status := match r.origin with | .fwd _ _ _ => .accessDenied | _ => .abortedTeardown

/-- A fetched descriptor starts (R86): its checks pass and it enters its ordering domain. -/
def effDescriptorStart (s : State) (rid : Nat) : State :=
  match s.req? rid with
  | none => s
  | some r =>
    if r.phase != .fetched || s.inSr || !s.mayStart rid r then s
    else if s.leaving r.part then s.complete rid r.abortTeardown
    else
      let r := { r with phase := .started, startTime := s.time, jobNo := s.jobSeq }
      let s := { s with jobSeq := s.jobSeq + 1 }
      match s.startEncoding r (s.boundDomain r.part).isSome, r.row? with
      | .bad off, _ => (s.setReq rid { r with dom := s.domOf r }).bad rid off
      | .fail st, _ => (s.setReq rid { r with dom := s.domOf r }).complete rid st
      | .go _, none => s.bad rid 0
      | .go e, some row =>
        let r := { r with entry := e, snap := s.snapOf { r with entry := e } }
        s.startChecked rid { r with dom := s.domOf r } row

def execDescriptorStart (e : Env) (rid : Nat) (s : State) : Host.Outcome State Fault Refusal :=
  .next (effDescriptorStart (s.enter e) rid)

/-! ### NOP and FENCE (R79) -/

def effNop (s : State) (rid : Nat) : State :=
  match s.startedReq? rid [0x00] with | some _ => s.complete rid .ok | none => s

def execNop (e : Env) (rid : Nat) (s : State) : Host.Outcome State Fault Refusal :=
  .next (effNop (s.enter e) rid)

def effFence (s : State) (rid : Nat) : State :=
  match s.startedReq? rid [0x01] with | some _ => s.complete rid .ok | none => s

def execFence (e : Env) (rid : Nat) (s : State) : Host.Outcome State Fault Refusal :=
  .next (effFence (s.enter e) rid)

/-! ### Function Level Reset and SR-IOV (R59, R61) -/

/-- Whether a request came by a ring of a partition. -/
def Req.ofRings (r : Req) (p : Nat) : Bool := match r.origin with | .ring q => q / 8 == p | _ => false

/-- The register sets of a partition's rings at their reset values. -/
def State.resetRings (s : State) (p : Nat) : State :=
  let mine (off : Nat) : Bool :=
    (0x210000 + p * 0x200 ≤ off && off < 0x210200 + p * 0x200) || (0x220000 + p * 0x200 ≤ off && off < 0x220200 + p * 0x200)
  { s with
    regs := s.regs.filter (fun x => !mine x.1)
    sqs := s.sqs.filter (fun x => x.1 / 8 != p)
    cqs := s.cqs.filter (fun x => x.1 / 8 != p)
    failed := s.failed.filter (fun x => !(x.1.1 == 1 && x.1.2.1 / 8 == p)) }

/-- The rings of a partition stopped (R61, R434): what is not started has no effect, what is started completes internally, and
no completion entry of either is written. -/
def State.stopRings (s : State) (p : Nat) : State :=
  let reqs := (s.reqs.filter (fun x => !(x.2.ofRings p && x.2.phase == .fetched))).map (fun x =>
    if x.2.ofRings p then (x.1, { x.2 with silent := true }) else x)
  let insts := s.insts.map (fun x => if x.2.part = p then (x.1, { x.2 with cq := 1024 }) else x)
  State.resetRings { s with reqs := reqs, insts := insts } p

/-- Confidential host mode of a partition ended (R434): its rings stop as by a Function Level Reset, the keys are zeroised, so that
nothing more is written to its buffers, and the TDI goes to a state; leaving RUN is reported (R446; log entry 112). -/
def State.endChm (s : State) (p tdi : Nat) : State :=
  let was := s.get F.PART_CHM_STATUS_TDI_STATE p == 2
  let s := if s.confidential p then
      let s := { s with reqs := s.reqs.map (fun (x : Nat × Req) => if x.2.ofRings p then (x.1, { x.2 with mute := true }) else x) }
      s.stopRings p
    else s
  let s := (s.put F.PART_CHM_STATUS_ACTIVE 0 p).put F.PART_CHM_STATUS_TDI_STATE tdi p
  let s := { s with chms := s.chms.modify p (fun (c : Chm) => { c with bound := false, prevEpoch := none, locked := false }) }
  if was then s.security 5 p else s

/-- The SPDM sessions and the selective streams of a function gone (R473), and with them confidential host mode (R434). -/
def State.dropSessions (s : State) (fn : Nat) : State :=
  let s := { s with sec := { s.sec with
    sessions := s.sec.sessions.filter (· != fn), streams := s.sec.streams.filter (fun (x : Nat × Nat) => x.2 != fn) } }
  if s.get F.PART_CHM_STATUS_TDI_STATE fn = 0 then s else s.endChm fn 0

def effFunctionLevelReset (s : State) (fn : Nat) : State :=
  if fn != 0 && !s.vfEnabled fn then s else (s.dropSessions fn).stopRings fn

def execFunctionLevelReset (e : Env) (fn : Nat) (s : State) : Host.Outcome State Fault Refusal :=
  .next (effFunctionLevelReset (s.enter e) fn)

/-- VF Enable and NumVFs, which is fixed while VF Enable is set (R54, R59). -/
def effVfEnableChange (s : State) (enable : Bool) (num : Nat) : State :=
  let off := if s.vfEnable && !enable then (List.range s.numVfs).map (· + 1) else []
  let rise := enable && !s.vfEnable
  let s := off.foldl (fun (s : State) p => s.dropSessions p) s
  let s := { s with vfEnable := enable, numVfs := if s.vfEnable then s.numVfs else min num 127 }
  if rise then
    let s := { s with partPending := s.partPending.filter (fun p => p = 0 || s.numVfs < p) }
    (List.range s.numVfs).foldl (fun (s : State) p => s.refreshPart (p + 1)) s
  else s

def execVfEnableChange (e : Env) (enable : Bool) (num : Nat) (s : State) : Host.Outcome State Fault Refusal :=
  .next (effVfEnableChange (s.enter e) enable num)

end Sys2Proof.Machine
end

