-- ==== Sys2Proof/Machine/Elementary.lean ====
section
/-! DEFINITION. The elementary functions of attention (R185): expf lies within 1 ulp of the exact result and tanhf within 2 ulp,
and which of the values within these limits the device returns for an argument is fixed and open. -/

namespace Sys2Proof.Machine

open Sys2Proof

/-- The unit of the enclosures: 2^-320. -/
def elemOne : Nat := 2 ^ 320

/-- The alternating series of exp(-u), for u in units of 2^-320: k terms from term number i on, with the sum so far. The last term
is answered with the sum. -/
def expSeries (u : Nat) : Nat → Nat → Nat → Int → Nat × Int
  | 0, _, term, sum => (term, sum)
  | k + 1, i, term, sum =>
    let t := term * u / (i * elemOne)
    expSeries u k (i + 1) t (if i % 2 = 0 then sum + t else sum - t)

/-- An enclosure squared some number of times. -/
def squareTimes : Nat → Nat × Nat → Nat × Nat
  | 0, p => p
  | k + 1, p => squareTimes k (p.1 * p.1 / elemOne, ceilQ (p.2 * p.2) elemOne)

/-- An enclosure of exp(-n × 2^e) in units of 2^-320, for e from -149 on: exp(-u) by its series at 2^-17 of the argument, squared 17
times. From 128 on the result is below 2^-180. -/
def expEnclosure (n : Nat) (e : Int) : Nat × Nat :=
  if n = 0 then (elemOne, elemOne)
  else if (Nat.log2 n : Int) + e ≥ 7 then (0, 2 ^ 140)
  else
    let (last, sum) := expSeries (n * 2 ^ (303 + e).toNat) 9 1 elemOne elemOne
    squareTimes 17 ((sum - last - 64).toNat, (sum + last + 64).toNat)

/-- The FP32 code at or next above a number n / d. -/
def codeAbove (n d : Nat) : Nat := if n = 0 then 0 else min fp32.maxCode (fp32.magCode true n d 0)

/-- A code some number of codes below: where the codes on the way cross a power of two, their spacing halves, and as many more lie
within the limit. -/
def codesBelow (c k : Nat) : Nat := if (c - 1) % 2 ^ 23 < k then c - 2 * k else c - k

/-- The least and the greatest code within 1 ulp of exp of an FP32 number. -/
def expRange (x : Word) : Nat × Nat :=
  match fp32.decode x.toNat with
  | .rat neg n _ e =>
    let p := expEnclosure n e
    if n = 0 then (codeAbove 1 1 - 2, codeAbove 1 1 + 1)
    else if neg then (codesBelow (codeAbove p.1 elemOne) 1, codeAbove p.2 elemOne)
    else if p.1 = 0 then (fp32.maxCode, fp32.maxCode)
    else (codesBelow (codeAbove elemOne p.2) 1, codeAbove elemOne p.1)
  | _ => (0, fp32.maxCode)

/-- expf (R185): one value within 1 ulp for each argument. -/
def expf (x : Word) : Word :=
  let r := expRange x
  BitVec.ofNat 32 (r.1 + Config.expPick x % (r.2 + 1 - r.1))

/-- The least and the greatest code within 2 ulp of tanh of a positive FP32 number n × 2^e, as numbers that run on below zero. -/
def tanhRange (n : Nat) (e : Int) : Int × Int :=
  if n = 0 then (-2, 2)
  else
    let p := expEnclosure n (e + 1)
    let c := codeAbove (elemOne - p.2) (elemOne + p.2)
    ((if c < 4 then (c : Int) - 2 else (codesBelow c 2 : Int)), (codeAbove (elemOne - p.1) (elemOne + p.1) : Int) + 1)

/-- tanhf (R185): one value within 2 ulp for each argument. -/
def tanhf (x : Word) : Word :=
  match fp32.decode x.toNat with
  | .rat neg n _ e =>
    let r := tanhRange n e
    let c := r.1 + (Config.tanhPick x % (r.2 + 1 - r.1).toNat : Nat)
    BitVec.ofNat 32 (c.natAbs + b2n (neg != decide (c < 0)) * 2 ^ 31)
  | _ => BitVec.ofNat 32 (Config.tanhPick x % (fp32.maxCode + 1))

end Sys2Proof.Machine
end

