-- ==== Sys2Proof/Machine/Tables.lean ====
section
/-! DEFINITION. Replaceable tables (R51): shape records (R28, R29), rule sets (R120 to R126, R133), RULES_SWITCH (R122) and
CODEC_TRAIN (R168). -/

namespace Sys2Proof.Machine

open Sys2Proof

/-! ### Bundles (R79, R438) -/

/-- A started TABLE_LOAD of a kind. -/
def State.startedLoad? (s : State) (rid kind : Nat) : Option Req :=
  match s.startedReq? rid [0x60] with
  | some r => if r.loadKind = kind then some r else none
  | none => none

/-- The bytes of a bundle section, which is read in clear (R438; log entry 58). -/
def State.bundleRead (s : State) (r : Req) : BufRead :=
  let n := r.loadLength
  if !s.regionOk r.srcMr r.part 0 r.addr16 n then .fail .accessDenied
  else match s.busRead (memKey r.srcSpace r.addr16) n with
    | .ok bs => .ok bs
    | .failed => .fail .linkFailed
    | .poisoned => .fail .poisoned

/-- A record of tier 0 written anew no longer reads as uncorrectable (R411). -/
def State.clearBad (s : State) (kind key : Nat) : State := { s with badRecs := s.badRecs.filter (· != (kind, key)) }

/-! ### Shape records (R28, R29, R141, R143, R146, R148, R151, R184, R190, R201, R202) -/

/-- FP16 bits that are finite and not negative. -/
def halfNonNeg (h : Nat) : Bool := h % 2 ^ 15 ≤ 0x7BFF && (h < 2 ^ 15 || h % 2 ^ 15 == 0)

/-- The rungs of a ladder (R148, R141). -/
def ladderOk (value : Bool) (d : Nat) (rungs : List Nat) : Bool :=
  rungs.all (fun f => 1 ≤ f && f ≤ (if value then 12 else 11) && (d % 32 == 0 || fmtGroup f != 32))
    && (rungs.zip (rungs.drop 1)).all (fun p => fmtWidth p.1 ≤ fmtWidth p.2)
    && fmtWidth (rungs.getD 3 0) ≥ 8

/-- The plan of a shape record (R189, R190). -/
def planOk (b : Bytes) : Bool :=
  let o := shPlanOff b
  match shPlanKind b with
  | 0 => o == 0 && shPlanLen b == 0
  | k =>
    let lpu := sfield b o 7 0
    let kt := sfield b (o + 4) 15 0
    k ≤ 3 && shPlanLen b == 32 && o + 32 ≤ b.length
      && (if k = 3 then lpu == 0 else 1 ≤ lpu && lpu ≤ 64)
      && 1 ≤ sfield b (o + 1) 7 0 && sfield b (o + 1) 7 0 ≤ 48
      && 2 ≤ sfield b (o + 2) 7 0 && sfield b (o + 2) 7 0 ≤ 16
      && ([8, 16, 32] : List Nat).contains (sfield b (o + 3) 7 0)
      && 16 ≤ kt && kt ≤ 512 && kt % 16 == 0 && kt ≤ shTpl b
      && sfield b (o + 6) 7 0 != 0 && sfield b (o + 7) 7 1 == 0 && fieldAt b (o + 12) 20 == 0

/-- The summary policy of a shape record, given LANTERN_SUM_CFG.STRIDE (R201 to R203). -/
def summaryOk (b : Bytes) (stride : Nat) : Bool :=
  let o := shSumOff b
  match shPolicy b with
  | 0 => shSumLen b == 0
  | k =>
    k ≤ 2 && shSumLen b == 16 && o + 16 ≤ b.length && sfield b o 15 0 ≤ 4096
      && 0x3C00 ≤ sfield b (o + 2) 15 0 && sfield b (o + 2) 15 0 ≤ 0x7BFF && halfNonNeg (sfield b (o + 4) 15 0)
      && fieldAt b (o + 6) 10 == 0 && summaryBlock b ≤ stride * 64

/-- The header of a shape record (R28). -/
def shapeHeaderOk (b : Bytes) : Bool :=
  64 ≤ b.length && b.length ≤ 65536 && sfield b 0 15 12 == 0 && fieldAt b 44 20 == 0
    && 1 ≤ shLayers b && 64 + shLayers b ≤ b.length && 1 ≤ shHeads b && shHeads b ≤ 64 && 1 ≤ shQper b && shQper b ≤ 16
    && 64 ≤ shDim b && shDim b ≤ 256 && shDim b % 16 == 0 && 16 ≤ shTpl b && shTpl b ≤ 512 && shTpl b % 16 == 0
    && halfNonNeg (shThreshold b)
    && (shSoftCap b % 2 ^ 15 == 0 || (0x0400 ≤ shSoftCap b && shSoftCap b ≤ 0x7BFF))

/-- The formats of a shape record. -/
def shapeFormatsOk (b : Bytes) : Bool :=
  let ks := (List.range 4).map (shKeyRung b)
  let vs := (List.range 4).map (shValueRung b)
  let n := shHeads b * shTpl b * shDim b
  let t := (shTensor b).toNat
  ladderOk false (shDim b) ks && ladderOk true (shDim b) vs
    && (List.range (shLayers b)).all (fun l => ks.contains (shKeyFmt b l) && vs.contains (shValueFmt b l))
    && (!(ks ++ vs).any (fun f => f == 3 || f == 4) || (0x00800000 ≤ t && t ≤ 0x7F7FFFFF))
    && ks.all (fun k => vs.all (fun v => regionSize k n + regionSize v n + sectionSize k n + sectionSize v n ≤ 262080))

/-- Whether a shape record is sound (R29). -/
def shapeOk (b : Bytes) (stride : Nat) : Bool := shapeHeaderOk b && shapeFormatsOk b && planOk b && summaryOk b stride

/-- TABLE_LOAD of a shape record: into the slot that is not current, and current for every SEQ_OPEN that follows (R51). -/
def effTableLoadShape (s : State) (rid : Nat) : State :=
  match s.startedLoad? rid 0 with
  | none => s
  | some r =>
    let k := r.part * 16 + r.loadTarget
    let t := s.shapeSlots r.part r.loadTarget
    let o := t.other
    if o.loaded && s.shapeUsers r.part r.loadTarget o.epoch != 0 then s.complete rid .busyTeardown
    else match s.bundleRead r with
      | .fail st => s.failRead rid st
      | .ok b =>
        if !shapeOk b (s.get F.LANTERN_SUM_CFG_STRIDE) then s.complete rid .badFormat
        else
          let t := (t.load b).switch
          let s := { s with shapes := s.shapes.set k t }
          (s.clearBad 2 (k * 256 + t.epoch.toNat)).complete rid .ok { result0 := t.epoch.toNat }

def execTableLoadShape (e : Env) (rid : Nat) (s : State) : Host.Outcome State Fault Refusal :=
  .next (effTableLoadShape (s.enter e) rid)

/-! ### Rule sets (R120 to R126, R133) -/

/-- Sub-sections of a section, as offset and size. -/
abbrev SubSection := Nat × Nat

/-- Whether sub-sections lie at multiples of 64, behind the header, within the bundle, apart from each other, with their
padding zero (R125). -/
def layoutOk (b : Bytes) (ss : List SubSection) : Bool :=
  let real := ss.filter (fun x => x.2 != 0)
  ss.all (fun x => x.1 % 64 == 0)
    && real.all (fun x => 64 ≤ x.1 && x.1 + roundUp x.2 64 ≤ b.length
        && fieldAt b (x.1 + x.2) (roundUp x.2 64 - x.2) == 0)
    && (real.mapIdx (fun i x => (i, x))).all (fun p => (real.drop (p.1 + 1)).all (fun y =>
        p.2.1 + roundUp p.2.2 64 ≤ y.1 || y.1 + roundUp y.2 64 ≤ p.2.1))

/-- `n` numbers of `w` bytes. -/
def numsAt (b : Bytes) (off w n : Nat) : List Nat := (chunksOf w n ((b.drop off).take (w * n))).map leNat

/-- One rule of a rule table (R126). -/
def parseRule (x : Bytes) : Option Rule :=
  let b0 := fieldAt x 0 1
  let cls := fieldAt x 2 1
  if b0 % 8 ≤ 4 && b0 < 32 && fieldAt x 3 1 == 0 && (if b0 % 8 = 3 then cls != 0 else cls == 0) then
    some { action := b0 % 8, sticky := bit b0 3, report := bit b0 4, priority := fieldAt x 1 1, cls := cls }
  else none

/-- One classification entry of a partition (R126, R133). -/
def parseClass (p : Nat) (x : Bytes) : Option ClassEntry :=
  let key := fieldAt x 0 16
  let mask := fieldAt x 16 16
  let acts := fieldAt x 32 4
  if key % 128 == p && mask % 128 == 127 && fieldAt x 36 4 == 0 && fieldAt x 41 7 == 0 && bits acts 7 5 == 0
      && bits acts 31 16 == 0 && (if bit acts 4 then bits acts 15 8 != 0 else bits acts 15 8 == 0) then
    some { tkey := key, tmask := mask, acts := acts, priority := fieldAt x 40 1 }
  else none

/-- The accept list of each state (R126): the rules that its index entry names, each once. -/
def parseAccept (idx list : List Nat) : Option (List (List Nat)) :=
  idx.mapM (fun v =>
    let n := bits v 27 20
    if bits v 31 28 = 0 && (n = 0 || bits v 19 0 + n ≤ list.length) then some (((list.drop (bits v 19 0)).take n).eraseDups)
    else none)

/-- The header of a rule-set section (R125). -/
def ruleHeaderOk (b : Bytes) : Bool :=
  64 ≤ b.length && fieldAt b 0 2 == 1 && fieldAt b 2 2 == 0 && fieldAt b 19 1 == 0 && fieldAt b 50 14 == 0
    && 1 ≤ fieldAt b 4 4 && fieldAt b 4 4 ≤ 65536 && 1 ≤ fieldAt b 8 2 && fieldAt b 8 2 ≤ 256 && fieldAt b 10 2 ≤ 1024
    && 1 ≤ fieldAt b 12 4 && fieldAt b 12 4 ≤ 2 ^ 20 && fieldAt b 16 2 < fieldAt b 4 4 && fieldAt b 18 1 < fieldAt b 8 2
    && fieldAt b 48 2 ≤ 4096 && (fieldAt b 48 2 != 0 || fieldAt b 44 4 == 0)

/-- A rule-set section as a rule set, or none where it is BAD_FORMAT (R125, R126). -/
def parseRuleSet (p : Nat) (b : Bytes) : Option RuleSet :=
  let (sc, cc, rc, vs) := (fieldAt b 4 4, fieldAt b 8 2, fieldAt b 10 2, fieldAt b 12 4)
  let (al, kc) := (fieldAt b 36 4, fieldAt b 48 2)
  if !ruleHeaderOk b || !layoutOk b [(fieldAt b 20 4, vs), (fieldAt b 24 4, sc * cc * 2), (fieldAt b 28 4, sc * 4),
      (fieldAt b 32 4, al * 2), (fieldAt b 40 4, rc * 4), (fieldAt b 44 4, kc * 48)] then none
  else
    let cm := numsAt b (fieldAt b 20 4) 1 vs
    let tr := numsAt b (fieldAt b 24 4) 2 (sc * cc)
    let list := numsAt b (fieldAt b 32 4) 2 al
    match parseAccept (numsAt b (fieldAt b 28 4) 4 sc) list,
        (chunksOf 4 rc ((b.drop (fieldAt b 40 4)).take (4 * rc))).mapM parseRule,
        (chunksOf 48 kc ((b.drop (fieldAt b 44 4)).take (48 * kc))).mapM (parseClass p) with
    | some acc, some rules, some cls =>
      if cm.any (· ≥ cc) || tr.any (· ≥ sc) || list.any (· ≥ rc) then none
      else some {
        stateCount := sc, classCount := cc, start := fieldAt b 16 2, dfltClass := fieldAt b 18 1, classMap := cm, trans := tr
        accept := acc, acceptCount := al, rules := rules, classify := cls }
    | _, _, _ => none

/-- A classification entry put into a 4-unit bank: the lowest live one whose run has a hole, else the lowest live one with a free slot, which
is rebuilt with it (R101, R120; DESIGN CHOICE: the spec does not say which bank takes an entry; log entry 36). -/
def State.installClass (s : State) (epoch : Epoch) (c : ClassEntry) : Bool × State :=
  let e : CanopyEntry := {
    value := c.tkey, care := c.tmask, pointer := c.acts + epoch.toNat * 2 ^ 32, priority := c.priority, kind := .rule }
  let bs := (List.range 64).filter (fun b => s.bankLive b && s.bankWidth b == 3)
  let r := bs.foldl (fun (a : Bool × State) b => if a.1 then a else a.2.canopyPut [b] e) (false, s)
  if r.1 then r
  else match bs.find? (fun b => (r.2.bank b).entries.length < bankSlots 3) with
  | some b =>
    let es := (r.2.bank b).entries.map (·.2)
    (true, r.2.rebuildBank b (es.filter (fun x => x.priority ≥ c.priority) ++ e :: es.filter (fun x => x.priority < c.priority)))
  | none => r

/-- All classification entries of a rule set installed, or none where they do not fit. -/
def State.installAll (s : State) (epoch : Epoch) : List ClassEntry → Bool × State
  | [] => (true, s)
  | c :: cs =>
    match s.installClass epoch c with
    | (true, s) => State.installAll s epoch cs
    | (false, s) => (false, s)

/-- The rule-set slots with a new set in the slot that is not current, under the current epoch plus 1 (R121). -/
def State.loadRules (s : State) (rid : Nat) (r : Req) (rs : RuleSet) : State :=
  let t := (s.ruleSlots r.part).load { rs with waiting := true }
  let e : Epoch := t.epoch + 1
  let n := ({ s with rules := s.rules.set r.part t }).ruleUsage
  if n.1 > 64 || n.2.1 > 65536 || n.2.2 > 2 ^ 20 then s.complete rid .quotaExceeded
  else match (s.dropClassEntries r.part e).installAll e rs.classify with
    | (false, _) => s.complete rid .quotaExceeded
    | (true, s) =>
      let s := { s with rules := s.rules.set r.part t }
      (s.clearBad 0 (r.part * 256 + e.toNat)).complete rid .ok { result0 := e.toNat }

/-- TABLE_LOAD of a rule set. -/
def effTableLoadRuleSet (s : State) (rid : Nat) : State :=
  match s.startedLoad? rid 1 with
  | none => s
  | some r =>
    let s := s.releaseRules r.part
    let t := s.ruleSlots r.part
    let o := t.other
    if o.loaded && s.ruleTaken r.part o.epoch then s.complete rid .busyTeardown
    else match s.bundleRead r with
      | .fail st => s.failRead rid st
      | .ok b => match parseRuleSet r.part b with
        | none => s.complete rid .badFormat
        | some rs => s.loadRules rid r rs

def execTableLoadRuleSet (e : Env) (rid : Nat) (s : State) : Host.Outcome State Fault Refusal :=
  .next (effTableLoadRuleSet (s.enter e) rid)

/-- RULES_SWITCH (R122). -/
def effRulesSwitch (s : State) (rid : Nat) : State :=
  match s.startedReq? rid [0x61] with
  | none => s
  | some r =>
    let t := s.ruleSlots r.part
    let e : Epoch := BitVec.ofNat 8 r.switchEpoch
    if e = t.epoch then s.complete rid .ok { result0 := e.toNat }
    else if t.other.loaded && t.other.epoch == e then
      (({ s with rules := s.rules.set r.part t.switchRules }).releaseRules r.part).complete rid .ok { result0 := e.toNat }
    else s.complete rid .notFound

def execRulesSwitch (e : Env) (rid : Nat) (s : State) : Host.Outcome State Fault Refusal := .next (effRulesSwitch (s.enter e) rid)

/-! ### CODEC_TRAIN (R161, R168) -/

/-- Pairs of neighbours of a list of packages: weights added, members joined; an odd last one is left out. -/
def pairUp : List (Nat × List Nat) → List (Nat × List Nat)
  | a :: b :: t => (a.1 + b.1, a.2 ++ b.2) :: pairUp t
  | _ => []

/-- Lengths of 1 to 12 that form a complete code and minimise the weighted sum, by packages of rising weight. -/
def minLengths (counts : List Nat) : List Nat :=
  let items := (counts.mapIdx (fun i c => (c, [i]))).mergeSort (fun a b => a.1 ≤ b.1)
  let top := (List.range 11).foldl (fun l _ => (items ++ pairUp l).mergeSort (fun a b => a.1 ≤ b.1)) items
  let used := (top.take (2 * counts.length - 2)).flatMap (·.2)
  (List.range counts.length).map (fun i => used.countP (· == i))

/-- Whether lengths are a complete code of lengths 1 to 12 (R161). -/
def lengthsOk (len : List Nat) : Bool :=
  len.length == 256 && len.all (fun l => 1 ≤ l && l ≤ 12) && (len.map (fun l => 2 ^ (12 - l))).sum == 4096

def codeCost (counts len : List Nat) : Nat := ((counts.zip len).map (fun p => p.1 * p.2)).sum

/-- The lengths that a training run takes for a plane: any of the sets that reach the minimum (R168, step 6; log entries 4, 64). -/
def trainLengths (counts : List Nat) : List Nat :=
  let best := minLengths counts
  let pick := Config.codeLengths counts
  if lengthsOk pick && codeCost counts pick == codeCost counts best then pick else best

/-- The counts of the byte values of a plane over decoded payloads, each plus 1 (R168, step 5). -/
def planeCounts (ps : List (List (Nat × Nat))) (q : Nat) : List Nat :=
  let vals := ps.flatMap (fun p => p.filterMap (fun x => if x.1 = q then some x.2 else none))
  (List.range 256).map (fun b => vals.countP (· == b) + 1)

/-- The leaves of a scope that a training run may sample, the most recently sealed first (R168, step 4; log entry 64). -/
def State.sampleLeaves (s : State) (p slot f n : Nat) : List (Nat × Leaf) :=
  ((s.leaves.filter (fun x => x.2.state == .sealed && x.2.partition == p && x.2.shapeIndex == slot && x.2.keyFormat == f
    && x.2.tier == .hbm && !x.2.noStore)).mergeSort (fun a b => a.2.sealNo ≥ b.2.sealNo)).take n

/-- A decoded payload with the plane of each byte. -/
def State.samplePlanes (s : State) (l : Leaf) (c : Copy) : List (Nat × Nat) :=
  let r := regionLens (s.shapeAt l.partition c.hdr.shapeIndex c.hdr.shapeEpoch) c.hdr.keyFormat c.hdr.valueFormat
  planed c.hdr.keyFormat c.hdr.valueFormat r.1 r.2 c.payload

/-- The new table built, installed and made current, and the sweep started (R168, steps 5 to 9). -/
def State.installTable (s : State) (rid k : Nat) (planes : List (List (Nat × Nat))) : State :=
  let sc := s.scope k
  let tab : CodeTable := {
    isNull := false, lengths := (List.range 5).map (fun q => trainLengths (planeCounts planes q)), sampled := planes.length
    trainedTime := s.time }
  let t := (sc.slots.load tab).switch
  let s := { s with scopes := s.scopes.set k { sc with slots := t, sweeping := true } }
  ((s.clearBad 4 (k * 256 + t.epoch.toNat)).endSweep k).complete rid .ok { result0 := t.epoch.toNat }

/-- CODEC_TRAIN; it is done in one step, so no other of its scope is in progress with it. -/
def effCodecTrain (s : State) (rid : Nat) : State :=
  match s.startedReq? rid [0x62] with
  | none => s
  | some r =>
    let f := r.trainFormat
    let k := scopeKey r.part r.shapeIndex f
    let o := (s.scope k).slots.other
    if (s.shapeNow? r.part r.shapeIndex).isNone then s.bad rid 16
    else if f = 0 || f > 11 then s.complete rid .badFormat
    else if o.loaded && s.codecUsers k o.epoch != 0 then s.complete rid .busyTeardown
    else if !s.anySlice then s
    else
      let xs := s.sampleLeaves r.part r.shapeIndex f (if r.trainSamples = 0 then 4096 else r.trainSamples)
      let s := xs.foldl (fun s x => (if x.2.goodCopy.isNone then (s.checkTags x.1).poisonLeaf x.1 else s.checkTags x.1)) s
      let good := xs.filterMap (fun x => x.2.goodCopy.map (fun c => s.samplePlanes x.2 c))
      if good.length < 16 then s.complete rid .notFound else s.installTable rid k good

def execCodecTrain (e : Env) (rid : Nat) (s : State) : Host.Outcome State Fault Refusal := .next (effCodecTrain (s.enter e) rid)

end Sys2Proof.Machine
end

