-- ==== Sys2Proof/Machine/Attend.lean ====
section
/-! DEFINITION. Partial attention (R174 to R191, R197): query blocks, leaf lists, masks, the computation of a work unit in the
fixed order of R185, merging, and the KV heads that poisoned lines belong to. -/

namespace Sys2Proof.Machine

open Sys2Proof

/-! ### FP32 operations that saturate (R185) -/

/-- An FP32 result held to ±3.4028 × 10^38. -/
def fsat (a : Word) : Word := if fmag a > 0x7F7FFFFF then BitVec.ofNat 32 (0x7F7FFFFF + b2n (bit a.toNat 31) * 2 ^ 31) else a
def sadd (a b : Word) : Word := fsat (fadd a b)
def smul (a b : Word) : Word := fsat (fmul a b)
def sdiv (a b : Word) : Word := fsat (fdiv a b)
def ssub (a b : Word) : Word := fsat (fsub a b)

/-- Neighbours added in pairs. -/
def addPairs : List Word → List Word
  | a :: b :: t => sadd a b :: addPairs t
  | l => l

/-- Halvings of a list until one value is left. -/
def sumLevels : Nat → List Word → Word
  | 0, l => l.getD 0 0
  | k + 1, l => sumLevels k (addPairs l)

/-- The least exponent whose power of two is at least `n`, from `k` on. -/
def widthLog : Nat → Nat → Nat → Nat
  | 0, k, _ => k
  | f + 1, k, n => if 2 ^ k ≥ n then k else widthLog f (k + 1) n

/-- tree_sum (R185): pairs in a fixed order over the next power of two. -/
def treeSum (xs : List Word) : Word :=
  let k := widthLog 10 0 xs.length
  sumLevels k (xs ++ List.replicate (2 ^ k - xs.length) 0)

/-! ### The query block (R175, R176) -/

def qbMask (b : Bytes) : Nat := sfield b 0 1 0
def qbKeepSink (b : Bytes) : Bool := bit (fieldAt b 0 1) 2
def qbPosition (b : Bytes) : Nat := fieldAt b 4 4
def qbScale (b : Bytes) : Word := BitVec.ofNat 32 (fieldAt b 8 4)

/-- Bytes of a query block of `q` queries. -/
def queryBytes (sh : Bytes) (q : Nat) (bf : Bool) : Nat :=
  64 + q * shHeads sh * shQper sh * shDim sh * (if bf then 2 else 4)

/-- The query vectors in FP32, [query][kv_head][row]. -/
def queryRows (sh : Bytes) (q : Nat) (bf : Bool) (b : Bytes) : List (List Word) :=
  let n := q * shHeads sh * shQper sh
  chunksOf (shDim sh) n (readElems (if bf then bf16 else fp32) (n * shDim sh) (b.drop 64))

/-- A logit_scale that R176 admits: zero of either sign, or positive, normal and finite (R531). -/
def scaleOk (w : Word) : Bool := fmag w == 0 || (w.toNat < 2 ^ 31 && 0x00800000 ≤ fmag w && fmag w ≤ 0x7F7FFFFF)

/-- Whether a query block is sound. -/
def queryOk (sh : Bytes) (q : Nat) (bf : Bool) (b : Bytes) : Bool :=
  sfield b 0 7 3 == 0 && fieldAt b 1 3 == 0 && qbMask b != 3 && (qbMask b == 1 || qbPosition b == 0) && scaleOk (qbScale b)
    && fieldAt b 12 52 == 0 && !(queryRows sh q bf b).any (fun r => r.any fbad)

/-- The logit scale in use: 1 / √head_dim where the block gives zero. -/
def scaleOf (sh b : Bytes) : Word :=
  if fmag (qbScale b) = 0 then
    -- 1 / √d rounded once: the root of 1 / d, exact to 60 bits beyond
    let d := shDim sh
    let r := isqrtGo 70 (2 ^ 120 / d) 0
    (Num.rat false (2 * r + 1) 1 (-61)).to32
  else qbScale b

/-! ### Leaf lists (R178, R179) -/

/-- The entry of a leaf list. -/
structure ListEntry where
  chunk : Nat := 0
  reason : Nat := 0
  score : Nat := 0
  deriving DecidableEq, Repr

def listCount (b : Bytes) : Nat := fieldAt b 4 4

/-- The entries of a list. -/
def listEntries (b : Bytes) : List ListEntry :=
  (chunksOf 8 (listCount b) (b.drop 64)).map (fun x => { chunk := sfield x 0 27 0, reason := sfield x 0 31 28, score := fieldAt x 4 4 })

/-- Whether the header of a list is sound for a handle (log entry 66). -/
def listHeaderOk (b : Bytes) (handle : Nat) : Bool :=
  let k := fieldAt b 0 1
  k ≤ 1 && sfield b 1 7 2 == 0 && sfield b 2 15 12 == 0 && 1 ≤ listCount b && listCount b ≤ 65535
    && fieldAt b 8 8 == handle && fieldAt b 20 44 == 0

/-- Chunk numbers that strictly rise (log entry 66). -/
def rising : List Nat → Bool
  | a :: b :: t => a < b && rising (b :: t)
  | _ => true

/-- The bytes of a list (R178). -/
def listBytes (kind : Nat) (approx exact : Bool) (layer handle : Nat) (kth : Word) (es : List ListEntry) : Bytes :=
  leBytes 1 kind ++ leBytes 1 (b2n approx + 2 * b2n exact) ++ leBytes 2 layer ++ leBytes 4 es.length ++ leBytes 8 handle
    ++ leBytes 4 kth.toNat ++ leBytes 44 0
    ++ es.flatMap (fun e => leBytes 4 (e.chunk + e.reason * 2 ^ 28) ++ leBytes 4 e.score)

/-! ### Plans (R189 to R191) -/

def planLpu (sh : Bytes) : Nat := sfield sh (shPlanOff sh) 7 0
def planMaxSpires (sh : Bytes) : Nat := sfield sh (shPlanOff sh + 1) 7 0
def planFanin (sh : Bytes) : Nat := sfield sh (shPlanOff sh + 2) 7 0
def planKeyTile (sh : Bytes) : Nat := sfield sh (shPlanOff sh + 4) 15 0
def planGroves (sh : Bytes) : Nat := sfield sh (shPlanOff sh + 6) 7 0
def planExact (sh : Bytes) : Bool := shPlanKind sh != 0 && bit (fieldAt sh (shPlanOff sh + 7) 1) 0
def planSerialBelow (sh : Bytes) : Nat := fieldAt sh (shPlanOff sh + 8) 4

/-- The plan kind that a set of `n` leaves runs under; a SELECT of a shape without a plan runs head by head (log entry 17). -/
def planFor (sh : Bytes) (n : Nat) : Nat := if shPlanKind sh = 0 || n < planSerialBelow sh then 3 else shPlanKind sh

/-- Leaves of one partial (log entry 17). -/
def runLen (sh : Bytes) (n : Nat) : Nat := if planFor sh n = 3 then max 1 n else max 1 (planLpu sh)

/-- Work units of a set (R189). -/
def unitCount (sh : Bytes) (n : Nat) : Nat :=
  match planFor sh n with
  | 1 => ceilDiv n (runLen sh n)
  | 2 => ceilDiv n (runLen sh n) * shHeads sh
  | _ => shHeads sh

/-- The run of leaves that unit `u` covers. -/
def unitRun (sh : Bytes) (n u : Nat) : Nat :=
  match planFor sh n with
  | 1 => u
  | 2 => u / max 1 (shHeads sh)
  | _ => 0

/-! ### Masks (R182, R183) -/

/-- The position of query `j`, none where it is unbounded. -/
def Job.pq (j : Job) (k : Nat) : Option Int :=
  match qbMask j.qblock with
  | 0 => some ((j.total : Int) - j.nq + k)
  | 1 => some (qbPosition j.qblock + k)
  | _ => none

/-- The chunk that query `k` stands in, from which the window is measured. -/
def Job.pqChunk (j : Job) (k : Nat) : Int :=
  match j.pq k with
  | some p => p / max 1 (shTpl j.sh)
  | none => ((j.views.getLast?).map (·.chunk)).getD 0

/-- Whether the window excludes chunk `c` for query `k`. -/
def Job.outside (j : Job) (k c : Nat) : Bool :=
  let w := shWindow j.sh
  w != 0 && !(c == 0 && qbKeepSink j.qblock) && decide ((c : Int) < j.pqChunk k - w + 1)

/-- Whether token `t` of chunk `c` is masked for query `k` (log entry 67). -/
def Job.masked (j : Job) (k c t : Nat) : Bool :=
  j.outside k c || (match j.pq k with | some p => decide (((c * shTpl j.sh + t : Nat) : Int) > p) | none => false)

/-- Whether every key of a leaf counts as masked for every query, judged from the chunk number alone. -/
def Job.leafMasked (j : Job) (c : Nat) : Bool :=
  (List.range j.nq).all (fun k => j.outside k c || (match j.pq k with | some p => decide (((c * shTpl j.sh : Nat) : Int) > p) | none => false))

/-! ### The computation (R185) -/

/-- The running state of a query row. -/
structure RowSt where
  m : Word := 0xFF7FFFFF
  l : Word := 0
  acc : List Word := []
  deriving DecidableEq, Repr

/-- A finished partial of a query row (R187). -/
structure Partial where
  o : List Word := []
  m : Word := 0xFF7FFFFF
  l : Word := 0
  deriving DecidableEq, Repr

/-- The score of a key for a query row: scaled, then capped. -/
def scoreOf (scale cap : Word) (q key : List Word) : Word :=
  let x := smul scale (treeSum ((q.zip key).map (fun p => smul p.1 p.2)))
  if fmag cap != 0 then smul cap (fsat (tanhf (sdiv x cap))) else x

/-- One key tile attended: the keys and values of its tokens, none where masked. -/
def attendTile (scale cap : Word) (q : List Word) (r : RowSt) (toks : List (Option (List Word) × List Word)) : RowSt :=
  let ss := toks.map (fun t => t.1.map (scoreOf scale cap q))
  let seen := ss.filterMap id
  if seen = [] then r
  else
    let mt := seen.foldl fmax r.m
    let alpha := fsat (expf (ssub r.m mt))
    let p := ss.map (fun s => match s with | some x => fsat (expf (ssub x mt)) | none => (0 : Word))
    let l := sadd (smul r.l alpha) (treeSum p)
    let acc := r.acc.mapIdx (fun c a =>
      sadd (smul a alpha) (treeSum ((p.zip toks).map (fun x => smul x.1 (x.2.2.getD c 0)))))
    { m := mt, l := l, acc := acc }

/-- The keys and values of a view as its fate serves them, none beyond the FP32 range (R185), with the tokens that are read. -/
def View.served (v : View) : (List Word × List Word) × Nat :=
  let kv := match v.fate, v.shadow with
    | 1, some sh => shadowKV v.sh sh.payload
    | _, _ => v.keysVals
  ((kv.1.map fsat, kv.2.map fsat), v.count)

/-- Whether a view is read at all. -/
def View.isRead (v : View) : Bool := v.fate != 2 && v.fate != 4

/-- One leaf attended by a row of KV head `h` and query `k`, tile by tile. -/
def Job.attendLeaf (j : Job) (q : List Word) (h k : Nat) (r : RowSt) (v : View) : RowSt :=
  if !v.isRead then r
  else
    let ((ks, vs), n) := v.served
    let (t, d) := (shTpl j.sh, shDim j.sh)
    let toks := (List.range n).map (fun i =>
      (if j.masked k v.chunk i then none else some (rowOf ks t d h i), rowOf vs t d h i))
    let kt := max 1 (planKeyTile j.sh)
    (chunksOf kt (n / kt + 1) toks).foldl (attendTile (scaleOf j.sh j.qblock) (half (shSoftCap j.sh)) q) r

/-- The partial of one row over one run of leaves. -/
def Job.runPartial (j : Job) (q : List Word) (h k : Nat) (vs : List View) : Partial :=
  let r := vs.foldl (j.attendLeaf q h k) { acc := List.replicate (shDim j.sh) 0 }
  { m := r.m, l := r.l, o := if flt 0 r.l then r.acc.map (fun a => sdiv a r.l) else r.acc.map (fun _ => 0) }

/-- Two partials of a row merged (R188). -/
def mergePartial (a b : Partial) : Partial :=
  let mm := fmax a.m b.m
  let a1 := smul a.l (fsat (expf (ssub a.m mm)))
  let a2 := smul b.l (fsat (expf (ssub b.m mm)))
  let ls := sadd a1 a2
  { m := mm, l := ls
    o := (a.o.zip b.o).map (fun p => if flt 0 ls then sdiv (sadd (smul a1 p.1) (smul a2 p.2)) ls else 0) }

/-- A list of partials merged from left to right. -/
def mergeRun : List Partial → Partial
  | [] => {}
  | p :: ps => ps.foldl mergePartial p

/-- The fixed tree of a fan-in (R191), level by level. -/
def mergeTree (f : Nat) : Nat → List Partial → Partial
  | 0, ps => mergeRun ps
  | k + 1, ps => if ps.length ≤ 1 then mergeRun ps else mergeTree f k ((chunksOf f (ps.length / f + 1) ps).map mergeRun)

/-- One row over the whole set: its partials, merged. -/
def Job.row (j : Job) (q : List Word) (h k : Nat) : Partial :=
  let n := j.views.length
  let runs := chunksOf (runLen j.sh n) (n / runLen j.sh n + 1) j.views
  mergeTree (max 2 (planFanin j.sh)) runs.length (runs.map (j.runPartial q h k))

/-! ### Poison (R197) -/

/-- KV heads of byte `i` of an element region of `n` elements of a width. -/
def elemHeads (f n td i : Nat) : List Nat :=
  let w := max 1 (fmtWidth f)
  let lo := 8 * i / w
  let hi := (8 * i + 7) / w
  (([lo, hi] : List Nat).filter (· < n)).map (fun e => e / max 1 td)

/-- KV heads of byte `i` of a section of the scale region. -/
def sectHeads (f n h td i : Nat) : List Nat :=
  let g := max 1 (fmtGroup f)
  let pre := if f = 9 then 4 else 0
  let groups := n / g
  let per := max 1 (td / g)
  if i < pre then List.range h
  else
    let j := i - pre
    let k := scaleBytes f
    if j < groups * k then [j / k / per]
    else if f = 11 then
      let z := 2 * (j - groups * k)
      (([z, z + 1] : List Nat).filter (· < groups)).map (· / per)
    else []

/-- KV heads of byte `i` of the side-list. -/
def sideHeads (kf vf h t d i : Nat) : List Nat :=
  let c := sideCap kf vf h t d
  let hs := roundUp (8 * h) 64
  if c = 0 then []
  else if i < hs then (if i < 8 * h then [i / 8] else [])
  else if (i - hs) / 2 / t < c * h then [(i - hs) / 2 / t / c] else []

/-- KV heads of byte `i` of a decoded payload. -/
def byteHeads (sh : Bytes) (kf vf i : Nat) : List Nat :=
  let (h, t, d) := (shHeads sh, shTpl sh, shDim sh)
  let n := h * t * d
  let k := regionSize kf n
  let v := regionSize vf n
  let ks := sectionSize kf n
  let vs := sectionSize vf n
  if i < k then elemHeads kf n (t * d) i
  else if i < k + v then elemHeads vf n (t * d) (i - k)
  else if i < k + v + ks then sectHeads kf n h (t * d) (i - k - v)
  else if i < k + v + ks + vs then sectHeads vf n h (t * d) (i - k - v - ks)
  else sideHeads kf vf h t d (i - k - v - ks - vs)

/-- The KV heads that the poison of a view affects. -/
def View.badHeads (v : View) : List Nat :=
  if !v.isRead || v.fate = 1 then []
  else if v.dead then List.range (shHeads v.sh)
  else if v.filling then []
  else (v.copy.poison.flatMap (fun l => (List.range 64).flatMap (fun b =>
    byteHeads v.sh v.copy.hdr.keyFormat v.copy.hdr.valueFormat (l * 64 + b)))).eraseDups

/-- The KV heads that a job finds poisoned, and the chunk of the first affected leaf. -/
def Job.badHeads (j : Job) : List Nat := (j.views.flatMap View.badHeads).eraseDups
def Job.firstBad (j : Job) : Option Nat := (j.views.find? (fun v => v.badHeads != [])).map (·.chunk)

/-! ### The result (R187) -/

/-- The rows of a job in [query][kv_head][row] order. -/
def Job.rows (j : Job) : List Partial :=
  let (h, r) := (shHeads j.sh, shQper j.sh)
  let qs := queryRows j.sh j.nq j.qbf16 j.qblock
  let bad := j.badHeads
  (List.range (j.nq * h * r)).map (fun i =>
    let head := i / r % max 1 h
    if bad.contains head then { o := List.replicate (shDim j.sh) 0, m := 0xFF7FFFFF, l := 0xBF800000 }
    else j.row (qs.getD i []) head (i / max 1 (h * r)))

/-- The outputs, and the maxima and sums, as bytes; with the saturations of the conversion. -/
def Job.outBytes (j : Job) : Bytes × Bytes × Nat :=
  let rows := j.rows
  let o := writeElems (if j.outBf16 then bf16 else fp32) (rows.flatMap (·.o))
  (o.1, rows.flatMap (fun p => leBytes 4 p.m.toNat ++ leBytes 4 p.l.toNat), o.2)

end Sys2Proof.Machine
end

