-- ==== Sys2Proof/Machine/Spires.lean ====
section
/-! DEFINITION. The dispatcher and the Spires (R192, R255 to R259), sets of leaves with their holds (R177 to R181), ATTEND
(R180, R185, R195 to R197), and the end of a work unit. -/

namespace Sys2Proof.Machine

open Sys2Proof

/-! ### Which Spires take units -/

/-- Whether a Spire is on and online (R199). -/
def State.spireOnline (s : State) (n : Nat) : Bool := s.pdOn n && !s.on F.SPIRE_CTL_OFFLINE n
def State.spire (s : State) (n : Nat) : SpireSt := s.spires.getD n {}
def State.setSpire (s : State) (n : Nat) (x : SpireSt) : State := { s with spires := s.spires.set n x }
def State.grove (s : State) (g : Nat) : Grove := s.groves.getD g {}
def State.setGrove (s : State) (g : Nat) (q : List WUnit) : State := { s with groves := s.groves.set g { queue := q } }

/-- Whether a Grove is eligible: its codec slice and one of its Spires are on and online. -/
def State.groveOk (s : State) (g : Nat) : Bool := s.pdOn (56 + g) && (List.range 6).any (fun i => s.spireOnline (6 * g + i))

/-- The queue of units that no Grove can take. -/
def waitGrove : Nat := 8

/-- Bytes of the leaves of a unit that lie in the HBM stack of a Grove. How the controllers spread a slot over the stacks the spec
leaves open, so that is a free function (R402; log entry 68). -/
def State.stackShare (s : State) (vs : List View) (g : Nat) : Nat :=
  if g < s.stacks then ((vs.filter (fun v => v.copy.tier == .hbm)).map (fun v => Config.stackBytes g v.copy.loc)).sum else 0

/-- The first entry of a list with the greatest weight. -/
def heaviest (w : Nat → Nat) : List Nat → Option Nat
  | [] => none
  | g :: gs => match heaviest w gs with
    | some h => if w h > w g then some h else some g
    | none => some g

/-- The Grove of a new unit (R255): of those of the mask that are eligible the one whose stack holds most of the unit's leaves, else
the lowest eligible one, else none yet. -/
def State.pickGrove (s : State) (mask : Nat) (vs : List View) : Nat :=
  let ok := (List.range 8).filter s.groveOk
  match heaviest (s.stackShare vs) (ok.filter (fun g => bit mask g)), ok with
  | some g, _ => g
  | none, g :: _ => g
  | none, [] => waitGrove

/-- Spires that a job occupies, without one Spire. -/
def State.jobSpires (s : State) (job but : Nat) : Nat :=
  s.spires.countP (fun x => x.1 != but
    && ((match x.2.running with | some u => u.job == job | none => false)
      || (match x.2.assigned with | some u => u.job == job | none => false)))

/-- Whether a unit may go to a Spire under the limit of its job (R192). -/
def State.unitAllowed (s : State) (n : Nat) (u : WUnit) : Bool :=
  match s.jobs.get? u.job with
  | some j => j.maxSpires = 0 || s.jobSpires u.job n < j.maxSpires
  | none => false

/-- The partitions of non-zero weight that have units queued anywhere. -/
def State.heavyParts (s : State) : List Nat :=
  ((s.groves.flatMap (fun g => g.2.queue.map (·.part))).filter (fun p => s.get F.PART_SPIRE_WEIGHT_WEIGHT p != 0)).eraseDups

/-- The partition that a Grove's queue serves next (R257): the present one while its quantum lasts, else the next in number
with units; one of weight 0 only while no partition of another weight has units queued. The state is partition × 65536 + units left of its quantum (log entry 68). -/
def State.servePart (s : State) (g : Nat) (parts : List Nat) : Option Nat × State :=
  let st := s.drr.getD g 0
  let (cur, left) := (st / 65536, st % 65536)
  let cand := if s.heavyParts = [] then parts else parts.filter (fun p => s.get F.PART_SPIRE_WEIGHT_WEIGHT p != 0)
  if cand.contains cur && left != 0 then (some cur, { s with drr := s.drr.set g (cur * 65536 + left - 1) })
  else match ((List.range 128).map (fun i => (cur + 1 + i) % 128)).find? cand.contains with
    | some p => (some p, { s with drr := s.drr.set g (p * 65536 + (s.get F.PART_SPIRE_WEIGHT_WEIGHT p - 1)) })
    | none => (none, s)

/-- The first unit in the order of descriptors, then of units. -/
def firstUnit : List WUnit → Option WUnit
  | [] => none
  | u :: t => match firstUnit t with
    | some v => if v.job < u.job || (v.job = u.job && v.idx < u.idx) then some v else some u
    | none => some u

/-- The next unit of a Grove's queue for a Spire: the oldest of the partition whose turn it is. -/
def State.takeFrom (s : State) (n g : Nat) : Option WUnit × State :=
  let q := (s.grove g).queue
  let ok := q.filter (s.unitAllowed n)
  match s.servePart g ((ok.map (·.part)).eraseDups) with
  | (none, s) => (none, s)
  | (some p, s) =>
    match firstUnit (ok.filter (fun u => u.part == p)) with
    | some u => (some u, s.setGrove g (q.erase u))
    | none => (none, s)

/-- A unit stolen from the queues of the Groves that follow, while the own queue is empty (R256). -/
def State.steal (s : State) (n g : Nat) : Option WUnit × State :=
  if !s.on F.SAPL_DISPATCH_CFG_STEAL_EN || (s.grove g).queue != [] then (none, s)
  else
    match ((List.range 7).map (fun i => (g + 1 + i) % 8)).findSome? (fun h =>
      match s.takeFrom n h with | (some u, s) => some (u, s) | (none, _) => none) with
    | some (u, s) => (some u, s.bump F.SAPL_STEALS_COUNT)
    | none => (none, s)

/-- The views that a unit covers. -/
def Job.unitViews (j : Job) (u : Nat) : List View :=
  let n := j.views.length
  (j.views.drop (unitRun j.sh n u * runLen j.sh n)).take (runLen j.sh n)

/-- Whether a unit reads data of a KV head: all of them under SPLIT_LEAF, else its own (R189). -/
def Job.unitHead (j : Job) (u h : Nat) : Bool := planFor j.sh j.views.length == 1 || u % max 1 (shHeads j.sh) == h

/-- What a unit finds in a leaf that it reads now: poison that has come into the held copy, or into its staged values, since the hold
was taken (R197). -/
def State.freshView (s : State) (heads : Nat → Bool) (v : View) : View :=
  let l := s.leaf v.leaf
  if v.filling then
    { v with dead := v.dead || (l.generation == v.generation && l.staged.any (fun x => match x with | some t => t.bad | none => false)) }
  else match l.copies.find? (fun c => c.cid == v.copy.cid) with
    | none => v
    | some c =>
      let new := c.poison.filter (fun n => !v.copy.poison.contains n && (List.range 64).any (fun b =>
        (byteHeads v.sh v.copy.hdr.keyFormat v.copy.hdr.valueFormat (n * 64 + b)).any heads))
      { v with copy := { v.copy with poison := v.copy.poison ++ new }, dead := v.dead || c.tagBad }

/-- A unit starts on a Spire: its leaves are decoded by the slice of the Spire's Grove (R165), as they are now. -/
def State.startUnit (s : State) (n : Nat) (u : WUnit) : State :=
  let s := s.setSpire n { s.spire n with running := some u, started := s.time }
  match s.jobs.get? u.job with
  | some j =>
    let mine := j.unitViews u.idx
    let fresh (v : View) : View := if v.isRead && mine.contains v then s.freshView (j.unitHead u.idx) v else v
    let s := { s with jobs := s.jobs.set u.job { j with views := j.views.map fresh } }
    (mine.filter View.isRead).foldl (fun s v => s.cacheTable (n / 6) v) s
  | none => s

/-- One unit given to a Spire, to run or to follow, of its own Grove or stolen (R256). -/
def State.feed (s : State) (n : Nat) (stolen : Bool) : Option State :=
  match (if stolen then s.steal n (n / 6) else s.takeFrom n (n / 6)) with
  | (some u, s) => some (if (s.spire n).running.isNone then s.startUnit n u else s.setSpire n { s.spire n with assigned := some u })
  | (none, _) => none

/-- Spires that could take a unit, in order, each first from its own Grove and then from the others: idle ones, those without an
assigned unit, and slow ones only where none of the others is left (R259). -/
def State.takers (s : State) : List (Nat × Bool) :=
  let on := (List.range 48).filter (fun n => s.spireOnline n && s.pdOn (56 + n / 6))
  let fast := on.filter (fun n => !(s.spire n).slow)
  let idle := fast.filter (fun n => (s.spire n).running.isNone)
  let open_ := fast.filter (fun n => (s.spire n).running.isSome && (s.spire n).assigned.isNone)
  let both (ns : List Nat) : List (Nat × Bool) := ns.map (·, false) ++ ns.map (·, true)
  if idle != [] || open_ != [] then both idle ++ both open_
  else both (on.filter (fun n => (s.spire n).slow && ((s.spire n).running.isNone || (s.spire n).assigned.isNone)))

/-- The Groves that the plan of a shape prefers (R190). -/
def groveMask (sh : Bytes) : Nat := if shPlanKind sh = 0 then 255 else planGroves sh

/-- Units that waited for a Grove enter the queue of one that has become eligible. -/
def State.releaseWaiting (s : State) : State :=
  if (List.range 8).any s.groveOk then
    (s.grove waitGrove).queue.foldl (fun s u =>
      let g := match s.jobs.get? u.job with | some j => s.pickGrove (groveMask j.sh) (j.unitViews u.idx) | none => waitGrove
      s.setGrove g ((s.grove g).queue ++ [u])) (s.setGrove waitGrove [])
  else s

/-- Units placed until no Spire takes one. -/
def State.dispatchGo : Nat → State → State
  | 0, s => s
  | k + 1, s =>
    match s.takers.findSome? (fun n => s.feed n.1 n.2) with
    | some s => State.dispatchGo k s
    | none => s

/-- The dispatcher at work: it runs on the Sapling clusters (R253; log entry 68). -/
def State.dispatch (s : State) : State := if s.anyCluster then State.dispatchGo 96 s.releaseWaiting else s

/-! ### Jobs -/

/-- Products per clock of a stored format (R172). -/
def productsPerClock (f : Nat) (filling : Bool) : Nat :=
  if filling then 256 else match fmtWidth f with | 16 => 512 | 8 => 1024 | 6 => 1024 | _ => 2048

/-- The decoded lines that a Spire takes for a unit from its queue (R173). -/
def Job.unitLines (j : Job) (u : Nat) : Nat :=
  let heads := if planFor j.sh j.views.length = 1 then shHeads j.sh else 1
  ((j.unitViews u).map (fun v =>
    if !v.isRead then 0
    else
      let (kf, vf) := if v.fate = 1 then (11, 12) else (v.copy.hdr.keyFormat, v.copy.hdr.valueFormat)
      v.count * heads * shDim j.sh * (fmtWidth kf + fmtWidth vf) / 512)).sum

/-- The time in ns that the plan gives a unit: per leaf and KV head the larger of compute and queue clocks (R172, R173; log entry 33). -/
def Job.unitNs (j : Job) (u : Nat) : Nat :=
  let heads := if planFor j.sh j.views.length = 1 then shHeads j.sh else 1
  let rows := j.nq * shQper j.sh
  let clk (v : View) : Nat :=
    if !v.isRead then 0
    else
      let (kf, vf) := if v.fate = 1 then (11, 12) else (v.copy.hdr.keyFormat, v.copy.hdr.valueFormat)
      let comp := shDim j.sh * rows / productsPerClock kf v.filling + shDim j.sh * rows / productsPerClock vf v.filling
      let bytes := shDim j.sh * (fmtWidth kf + fmtWidth vf) / 8
      v.count * heads * max comp (bytes / 128)
  ((j.unitViews u).map clk).sum * 5 / 8

/-- A job put to work under a number: its units enter Grove queues (R255). -/
def State.queueJob (s : State) (id : Nat) (j : Job) : State :=
  let units := List.range (unitCount j.sh j.views.length)
  let s := { s with jobs := s.jobs.set id { j with left := units } }
  let s := units.foldl (fun s u =>
    let g := s.pickGrove (groveMask j.sh) (j.unitViews u)
    s.setGrove g ((s.grove g).queue ++ [{ job := id, idx := u, part := j.part, ns := j.unitNs u }])) s
  s.dispatch

/-- The work of an event instance, numbered as it starts; a descriptor's number was given when it started (R257). -/
def State.startJob (s : State) (j : Job) : State := { s with jobSeq := s.jobSeq + 1 }.queueJob s.jobSeq j

/-- A Spire whose running unit is taken from it: the time that it ran stays counted (R199). -/
def SpireSt.stop (x : SpireSt) (now : Nat) : SpireSt :=
  { x with running := none, assigned := none, busyNs := x.busyNs + (if x.running.isSome then now - x.started else 0) }

/-- A job and its units taken away. -/
def State.dropJob (s : State) (id : Nat) : State :=
  { s with
    jobs := s.jobs.erase id
    groves := s.groves.map (fun g => (g.1, { g.2 with queue := g.2.queue.filter (fun u => u.job != id) }))
    spires := s.spires.map (fun x =>
      let next := x.2.assigned.filter (fun u => u.job != id)
      (x.1, if x.2.running.any (fun u => u.job == id) then { x.2.stop s.time with assigned := next }
        else { x.2 with assigned := next })) }

/-- The Spires that one job of a partition may occupy (R192); 0 for no limit. -/
def State.spireLimit (s : State) (p : Nat) (sh : Bytes) : Nat :=
  let m := if shPlanKind sh = 0 then 0 else planMaxSpires sh
  let share := s.get F.PART_SPIRE_SHARE_MAX_SPIRES p
  if share = 0 then m else if m = 0 then share else min m share

/-! ### Sets of leaves (R177 to R181, R237) -/

/-- The chunks that a descriptor's list names, or how the list ends it: it must be sound for the handle (R178, R179). -/
def State.readList (s : State) (r : Req) (addr : Nat) : List Nat ⊕ Status :=
  let head := Memory.readBytes s.mem (memKey r.srcSpace addr) 64
  let head := if s.chmBuf r r.srcSpace then
      gcmBytes (chmKey r.part (s.chmEpoch r) 0) (chmNonce r.origin.ringNo 2 4 r.ringSeq) head
    else head
  match s.bufRead r 4 addr (64 + 8 * min 65535 (listCount head)) with
  | .fail st => .inr st
  | .ok b =>
    let cs := (listEntries b).map (·.chunk)
    if listHeaderOk b r.handle && rising cs then .inl cs else .inr .badFormat

/-- Items 3 and 4 of R180 over the chunks of a set. -/
def chunkChecks (q : Sequ) (other : Bool) (cs : List Nat) : Option Status :=
  if cs.any (fun c => c ≥ q.totalChunks || (other && c ≥ q.publishedChunks)) then some .notFound
  else if other && cs.any (fun c => let a := (q.chunks.getD c {}).acts; a.noShare || a.noStore) then some .accessDenied
  else none

/-- The leaf of a chunk for a layer. -/
def leafOf (q : Sequ) (layer c : Nat) : Nat := (q.chunks.getD c {}).leaves.getD layer 0

/-- Whether a hold can be taken on every leaf of a set now. -/
def State.canHoldAll (s : State) (q : Sequ) (layer : Nat) (cs : List Nat) : Bool := cs.all (fun c => s.canHold (leafOf q layer c))

/-- Every hold of an owner released. -/
def State.unholdAll (s : State) (owner : Nat) : State :=
  (s.holds.filter (fun h => h.owner == owner)).foldl (fun s h => s.unhold owner h.leaf h.cid) s

/-- What a set would see of its leaves now. -/
def State.peekSet (s : State) (q : Sequ) (layer : Nat) (cs : List Nat) : List View :=
  cs.map (fun c => s.viewOf (leafOf q layer c) c (s.chunkBad (q.chunks.getD c {})))

/-- The holds of a set, in set order (R180, item 5): the views, or the chunk whose leaf is EVICTING. A leaf that is masked altogether
is held and not read (R183). -/
def State.holdSet (s : State) (owner : Nat) (q : Sequ) (layer : Nat) (masked : Nat → Bool) : List Nat → (List View ⊕ Nat) × State
  | [] => (.inl [], s)
  | c :: cs =>
    let i := leafOf q layer c
    if (s.leaf i).state = .evicting then (.inr c, s)
    else
      let (v, s) : View × State :=
        if masked c then
          s.holdView owner i c (s.chunkBad (q.chunks.getD c {}))
        else
          let (v, s) := s.takeView owner i c (s.chunkBad (q.chunks.getD c {}))
          (v, s.access i)
      match State.holdSet s owner q layer masked cs with
      | (.inl vs, s) => (.inl (v :: vs), s)
      | (.inr c, s) => (.inr c, s)

/-- Held leaves read, each a counted access (R273). -/
def State.readHeld (s : State) (vs : List View) : State := vs.foldl (fun s v => (s.noteRead v).access v.leaf) s

/-- A sequence with the counts that a request took at its start (R205), but for chunks dropped since. -/
def Sequ.asOf (q : Sequ) (x : StartSnap) : Sequ :=
  if q.totalChunks < x.total then q else { q with totalChunks := x.total, openTokens := x.openTokens }

/-- The token count of a sequence record (R182). -/
def Sequ.tokens (q : Sequ) (t : Nat) : Nat :=
  if q.openTokens != 0 then (q.totalChunks - 1) * t + q.openTokens else q.totalChunks * t

/-- The token count of the sequence that a tail mask sees (R182): taken at the hold of the last chunk where the set has it, else
from the record `old` as it stood when the descriptor started. -/
def tokenTotal (q old : Sequ) (t : Nat) (vs : List View) : Nat :=
  match vs.getLast? with
  | some v => if v.chunk + 1 = q.totalChunks then v.chunk * t + v.count else old.tokens t
  | none => old.tokens t

/-- A view that misses its commit point takes its shadow or is left out, as a cheaper path allows (R246, R247). -/
def View.miss (v : View) : View := { v with fate := if v.shadow.isSome then 1 else 2 }

/-- The views of a set with the fate of those that would arrive too late, at the start (R245, item 1). -/
def State.judgeLate (s : State) (by_ : Nat) : List View → List View × State
  | [] => ([], s)
  | v :: vs =>
    let (late, s) := if v.isRead then s.arrivesLate v.tier by_ else (false, s)
    let (rest, s) := State.judgeLate s by_ vs
    ((if late then v.miss else v) :: rest, s)

/-! ### ATTEND -/

/-- The path field and the detail of a set served in part by cheaper paths (R248). -/
def pathOf (vs : List View) : Nat := if vs.any (fun v => v.fate == 1) then 1 else if vs.any (fun v => v.fate == 2) then 2 else 0
def missDetail (vs : List View) (late : Bool) : Nat :=
  min 65535 (vs.countP (fun v => v.fate == 1)) + b2n late * 2 ^ 31

/-- Whether a request runs past its deadline now. -/
def State.isLate (s : State) (r : Req) : Bool := match s.deadlineTime? r with | some t => s.time > t | none => false

/-- The outputs of an ATTEND written: the maxima and sums at ml_addr, or directly after the outputs (R187). -/
def State.writeAttend (s : State) (r : Req) (o ml : Bytes) : Bool × Nat × State :=
  if r.addr48 = 0 || s.chmBuf r r.srcSpace then
    if s.dstOk r r.addr24 (o.length + ml.length) then (true, r.addr24 + o.length + ml.length - 1, s.bufWrite r 6 r.addr24 (o ++ ml))
    else (false, 0, s)
  else if s.dstOk r r.addr24 o.length && s.dstOk r r.addr48 ml.length then
    (true, r.addr48 + ml.length - 1, (s.bufWrite r 6 r.addr24 o).bufWrite r 7 r.addr48 ml)
  else (false, 0, s)

/-- The end of an ATTEND descriptor (R195 to R197, R248). -/
def State.finishAttend (s : State) (rid : Nat) (r : Req) (j : Job) : State :=
  let (o, ml, sat) := j.outBytes
  let s := s.bump F.QUANT_SATURATED_COUNT sat
  let late := s.isLate r
  match s.writeAttend r o ml with
  | (false, _, s) => s.complete rid .accessDenied
  | (true, last, s) =>
    let r0 := j.views.countP (fun v => v.fate ≤ 1)
    let r1 := j.views.countP (fun v => v.fate == 2)
    match j.firstBad with
    | some c =>
      s.complete rid .poisoned
        { result0 := r0, result1 := r1, poisoned := true, path := pathOf j.views
          detail := min (2 ^ 24 - 1) c + min 255 j.badHeads.length * 2 ^ 24 }
    | none =>
      if r.dstSpace = 0 && !s.flushOk 0 last then s.complete rid .linkFailed
      else
        let shadows := j.views.any (fun v => v.fate == 1)
        let st : Status := if r1 != 0 then .okPartial else if shadows then .okDegraded else .ok
        s.complete rid st { result0 := r0, result1 := r1, path := pathOf j.views
                            detail := if st = .ok then 0 else missDetail j.views late }

/-- The work of an ATTEND over the leaves that it holds. -/
def State.attendJob (s : State) (rid : Nat) (r : Req) (q : Sequ) (sh qb : Bytes) (vs : List View) : Job :=
  { owner := .req rid, kind := 0, part := r.part, handle := r.handle, sh := sh, qblock := qb, qbf16 := r.attQueryBf16
    outBf16 := r.attOutBf16, nq := r.attQueries, views := vs, total := tokenTotal q (q.asOf r.snap) (shTpl sh) vs
    maxSpires := s.spireLimit r.part sh }

/-- The job of an ATTEND whose holds are taken: late leaves take their path, and the units are made. -/
def State.attendHeld (s : State) (rid : Nat) (r : Req) (q : Sequ) (sh qb : Bytes) (vs : List View) : State :=
  let j := s.attendJob rid r q sh qb vs
  let vs := vs.map (fun v => if j.leafMasked v.chunk then { v with fate := 4 } else v)
  let (vs', s) := match s.commitTime? r with
    | some t => s.judgeLate t vs
    | none => (vs, s)
  if !r.fDegradeOk && vs'.any (fun v => v.fate == 1 || v.fate == 2) then s.complete rid .deadlineMissed
  else if vs'.any (fun v => v.fate == 0 && s.readFails v) then s.complete rid .mediaError
  else (s.wait rid (.job r.jobNo)).queueJob r.jobNo { j with views := vs' }

/-- Items 3 to 5 of R180, and the holds (log entry 67). -/
def State.attendSet (s : State) (rid : Nat) (r : Req) (q : Sequ) (sh qb : Bytes) (cs : List Nat) : State :=
  match chunkChecks q (q.partition != r.part) cs with
  | some st => s.complete rid st
  | none =>
    if !s.canHoldAll q r.attLayer cs then s
    else match s.holdSet rid q r.attLayer (s.attendJob rid r q sh qb (s.peekSet q r.attLayer cs)).leafMasked cs with
      | (.inr c, s) => (s.unholdAll rid).complete rid .evicted { detail := c % 2 ^ 28 }
      | (.inl vs, s) => s.attendHeld rid r q sh qb vs

/-- The first operand of an ATTEND out of its range (R180, item 1; log entry 57). -/
def attendRange (r : Req) (sh : Bytes) : Option Nat :=
  if r.addr32 != 0 && r.attFirst != 0 then some 40
  else if r.addr32 != 0 && r.attCount != 0 then some 44
  else if r.addr32 = 0 && r.attCount = 0 then some 44
  else if r.attLayer ≥ shLayers sh then some 46
  else if r.attQueries * shQper sh > 256 then some 46
  else none

def effAttend (s : State) (rid : Nat) : State :=
  match s.startedReq? rid [0x40] with
  | none => s
  | some r =>
    let q := s.seq (hSeq r.handle)
    let sh := s.seqShape q
    if s.shapeBad q.partition q.shapeIndex q.shapeEpoch then s.complete rid .poisoned
    else match attendRange r sh with
    | some off => s.bad rid off
    | none =>
      if shPlanKind sh = 0 then s.complete rid .badFormat
      else match s.bufRead r 3 r.addr16 (queryBytes sh r.attQueries r.attQueryBf16) with
      | .fail st => s.failRead rid st
      | .ok qb =>
        if !queryOk sh r.attQueries r.attQueryBf16 qb then s.complete rid .badFormat
        else
          let set := if r.addr32 = 0 then .inl ((List.range r.attCount).map (· + r.attFirst)) else s.readList r r.addr32
          match set with
          | .inr st => s.failRead rid st
          | .inl cs => s.attendSet rid r q sh qb cs

def execAttend (e : Env) (rid : Nat) (s : State) : Host.Outcome State Fault Refusal := .next (effAttend (s.enter e) rid)

/-! ### Slow Spires (R258, R259) -/

/-- A Spire's assigned unit returns to the head of its Grove's queue. -/
def State.returnUnit (s : State) (n : Nat) : State :=
  match (s.spire n).assigned with
  | some u => (s.setSpire n { s.spire n with assigned := none }).setGrove (n / 6) (u :: (s.grove (n / 6)).queue)
  | none => s

/-- The lines that the plan of the unit a Spire runs allows in a window of 2 µs (R258; log entry 33). -/
def State.linesAllowed (s : State) (n : Nat) : Nat :=
  match (s.spire n).running with
  | some u => (match s.jobs.get? u.job with | some j => j.unitLines u.idx * 2000 / max 1 u.ns | none => 0)
  | none => 0

/-- A Spire is found at a thermal stage, or below its rate over 2 µs, in which it took `lines` decoded lines of keys and
values. -/
def effSpireSlowCheck (s : State) (n lines : Nat) : State :=
  if n ≥ 48 then s
  else
    let below := lines * 100 < s.linesAllowed n * s.get F.SAPL_DISPATCH_CFG_SLOW_PCT
    let slow := s.get F.SPIRE_STATUS_THERMAL_STAGE n != 0 || ((s.spire n).running.isSome && below)
    if !slow then s
    else
      let was := (s.spire n).slow
      let s := s.setSpire n { s.spire n with slow := true, slowAt := s.time }
      let s := if was then s else s.bump F.SAPL_SLOW_EVENTS_COUNT
      (s.returnUnit n).dispatch

def execSpireSlowCheck (e : Env) (spire keyLines valueLines : Nat) (s : State) : Host.Outcome State Fault Refusal :=
  .next (effSpireSlowCheck (s.enter e) spire (keyLines + valueLines))

/-- 100 µs at stage 0 and at rate end the slow state. -/
def effSpireSlowExit (s : State) (n : Nat) : State :=
  let x := s.spire n
  if x.slow && s.get F.SPIRE_STATUS_THERMAL_STAGE n = 0 && s.time ≥ x.slowAt + 100000 then (s.setSpire n { x with slow := false }).dispatch
  else s

def execSpireSlowExit (e : Env) (spire : Nat) (s : State) : Host.Outcome State Fault Refusal :=
  .next (effSpireSlowExit (s.enter e) spire)

/-! ### HOLD_RELEASE (R23) -/

/-- Whether an owner still reads a leaf: a descriptor with a unit on it that has not finished (R180), or an event instance in flight. -/
def State.stillReads (s : State) (owner leaf : Nat) : Bool :=
  s.jobs.any (fun x => (match x.2.owner with | .req rid => rid == owner | .inst _ _ => false)
    && x.2.left.any (fun u => (x.2.unitViews u).any (fun v => v.leaf == leaf)))
    || (owner ≥ 2 ^ 48 && s.insts.any (fun x => 2 ^ 48 + x.1 == owner))

/-- A hold of an operation released: at the last one a copy, a shadow or the leaf itself may go (R33; log entry 42). -/
def effHoldRelease (s : State) (owner leaf cid : Nat) : State :=
  if s.stillReads owner leaf then s else s.unhold owner leaf cid

def execHoldRelease (e : Env) (owner leaf cid : Nat) (s : State) : Host.Outcome State Fault Refusal :=
  .next (effHoldRelease (s.enter e) owner leaf cid)

end Sys2Proof.Machine
end

