-- ==== Sys2Proof/Machine/Select.lean ====
section
/-! DEFINITION. SELECT (R193, R194, R201, R205, R206, R210 to R214): the chunk set, the two ways of scoring, the selection and the
list; and the calibration of the Lantern arrays (R207 to R209). -/

namespace Sys2Proof.Machine

open Sys2Proof

/-! ### The chunk set (R205, step 1) -/

def shRecent (sh : Bytes) : Nat := sfield sh (shSumOff sh) 15 0
def shBandMult (sh : Bytes) : Word := half (sfield sh (shSumOff sh + 2) 15 0)
def shProxyBand (sh : Bytes) : Word := half (sfield sh (shSumOff sh + 4) 15 0)

/-- The open chunk of a sequence. -/
def openChunk (q : Sequ) : Option Nat := if q.openTokens != 0 then some (q.totalChunks - 1) else none

/-- The chunks of a set that take no rows, with their reasons: the open chunk, the sink and the recent window. -/
def forcedOf (sh : Bytes) (q : Sequ) (cs : List Nat) : List (Nat × Nat) :=
  let closed := cs.filter (fun c => some c != openChunk q)
  let recent := (closed.drop (closed.length - shRecent sh)).filter (· != 0)
  cs.filterMap (fun c =>
    if some c = openChunk q then some (c, 5) else if c = 0 then some (c, 3) else if recent.contains c then some (c, 4) else none)

/-- The candidates of a set. -/
def candsOf (sh : Bytes) (q : Sequ) (cs : List Nat) : List Nat :=
  let f := (forcedOf sh q cs).map (·.1)
  cs.filter (fun c => !f.contains c)

/-! ### Scoring -/

/-- The query vectors of a SELECT, each with its KV head (R201). -/
def evalsOf (sh : Bytes) (bf : Bool) (qb : Bytes) : List (Nat × List Word) :=
  let heads := chunksOf (shQper sh) (shHeads sh) (queryRows sh 1 bf qb)
  if shPolicy sh = 2 then heads.mapIdx (fun h rows => (h, meanRow rows (shDim sh)))
  else (heads.mapIdx (fun h rows => rows.map (fun r => (h, r)))).flatten

/-- A candidate from its row scores σ and bands β (R210). -/
def candOf (c : Nat) (rows : List (Word × Word)) : SelCand :=
  let best (xs : List Word) : Word := match xs with | [] => 0 | x :: t => t.foldl fmax x
  { chunk := c, scored := rows != [], score := best (rows.map (·.1)), hi := best (rows.map (fun r => sadd r.1 r.2))
    lo := best (rows.map (fun r => ssub r.1 r.2)) }

/-- The magnitude of an FP32 value. -/
def fabs (a : Word) : Word := BitVec.ofNat 32 (fmag a)

/-- The cells of a KV head in a summary block. -/
def Summary.row (x : Summary) (d h : Nat) : List Int := (x.cells.drop (h * d)).take d

/-- A candidate scored exactly (R214): |logit_scale| × s × tree_sum(cell × q). -/
def Job.scoreExact (j : Job) (c : Nat) (x : Summary) : SelCand :=
  let ls := fabs (scaleOf j.sh j.qblock)
  candOf c ((evalsOf j.sh j.qbf16 j.qblock).map (fun e =>
    (smul (smul ls (half (x.scales.getD e.1 0))) (treeSum (((x.row (shDim j.sh) e.1).zip e.2).map (fun p => smul (fint p.1) p.2))),
      j.pband)))

/-- Columns of arrays that a head takes. -/
def spanOf (sh : Bytes) : Nat := if shDim sh ≤ 128 then 1 else 2

/-- The quantisation scale of a query vector (R205, step 4). -/
def qscaleOf (q : List Word) : Word := fdiv (amax q) (fnat 31)

/-- The band ε in FP32 of the arrays that hold a row: array `a` of those held, and the next for the second half of a head
(R207, R210); the register counts sixteenths. -/
def State.bandOf (s : State) (arrays : List Nat) (a span : Nat) : Word :=
  fdiv (fnat (((List.range span).map (fun i => (s.larray (heldAt arrays (a + i))).band)).sum)) (fnat 16)

/-- The codes that a query vector puts on the columns of its span halves (R205, step 4): 128 a half, zero beyond head_dim. -/
def queryCodes (q : List Word) : List Int := q.map (fun x => clampInt (-31) 31 (fround (fdiv x (qscaleOf q))))

/-- The columns of column group g of half h of a row of one value a channel. -/
def columns (row : List Int) (h g : Nat) : List Int :=
  (List.range 16).map (fun c => row.getD (128 * h + 16 * g + c) 0)

/-- One half of a row: each column group's conversion, corrected by the array's trims to (p − offset) × gain, and their sum, in
units of 2 ^ −18 (R205, step 5). -/
def State.halfSum (s : State) (array n h : Nat) (codes cells : List Int) : Int :=
  ((List.range 8).map (fun g =>
    let p := Config.convert array n g (columns codes h g) (columns cells h g)
    (16 * p - s.trimOffset array g) * (s.trimGain array g : Int))).sum

/-- The y of a row in FP32: the halves of a span added exactly, then rounded once (log entry 129). -/
def State.rowSum (s : State) (arrays : List Nat) (a n span : Nat) (codes cells : List Int) : Word :=
  let y := ((List.range span).map (fun h => s.halfSum (heldAt arrays (a + h)) n h codes cells)).sum
  (Num.rat (decide (y < 0)) y.natAbs 1 (-18)).to32

/-- A candidate scored on arrays (R205, R210): what a column group converts to is free (R212, log entry 129). `at_` is its place
among the candidates, `cols` the arrays that each half of a head takes. -/
def State.scoreLantern (s : State) (j : Job) (arrays : List Nat) (at_ cols c : Nat) (x : Summary) : SelCand × State :=
  let ls := fabs (scaleOf j.sh j.qblock)
  let span := spanOf j.sh
  let es := evalsOf j.sh j.qbf16 j.qblock
  let rows := es.mapIdx (fun i e =>
    let qs := qscaleOf e.2
    let a := (e.1 * cols + at_ / 512) * span
    let y := s.rowSum arrays a (s.freeCtr + i) span (queryCodes e.2) (x.row (shDim j.sh) e.1)
    let unit (v : Word) : Word := smul (smul (smul v (half (x.scales.getD e.1 0))) qs) ls
    (if fmag qs = 0 then (0 : Word) else unit y, sadd (unit (smul (shBandMult j.sh) (s.bandOf arrays a span))) j.pband))
  (candOf c rows, { s with freeCtr := s.freeCtr + es.length })

/-! ### Selection (R211) -/

/-- Scored candidates from the largest score down, of equal ones the lower chunk first. -/
def byScore (cs : List SelCand) : List SelCand :=
  cs.mergeSort (fun a b => flt b.score a.score || (!flt a.score b.score && a.chunk ≤ b.chunk))

/-- The entries of the list and the k-th score. -/
def Job.select (j : Job) : List ListEntry × Word :=
  let scored := byScore (j.cands.filter (·.scored))
  let top := scored.take j.k
  let kth : Word := match top.getLast? with | some c => c.score | none => 0
  let los := (scored.map (·.lo)).mergeSort (fun a b => !flt a b)
  let l : Word := ((los[j.k - 1]?).or los.getLast?).getD 0
  let entry (c : SelCand) : Option ListEntry :=
    if !c.scored then some { chunk := c.chunk, reason := 2 }
    else if top.contains c then some { chunk := c.chunk, reason := 1, score := c.score.toNat }
    else if !flt c.hi l then some { chunk := c.chunk, reason := 2, score := c.score.toNat }
    else none
  let es := j.forced.map (fun f => { chunk := f.1, reason := f.2 : ListEntry }) ++ j.cands.filterMap entry
  (es.mergeSort (fun a b => a.chunk ≤ b.chunk), kth)

/-- The list of a finished SELECT, its count, and the k-th score. -/
def Job.listOut (j : Job) : Bytes × Nat × Nat :=
  let (es, kth) := j.select
  (listBytes 1 j.proxy (j.kind == 1) j.layer j.handle kth es, es.length, kth.toNat)

/-! ### Scoring a set -/

/-- The summary block of a leaf: none where it is not valid, describes another generation or reads as uncorrectable; such a
block is rewritten invalid (R205, step 2, R411). -/
def State.readSummary (s : State) (i : Nat) : Option Summary × Bool × State :=
  if s.recBad 5 i then
    let l := s.leaf i
    (none, true, (s.setLeaf i { l with summary := l.summary.map (fun x => { x with valid := false }) }).clearBad 5 i)
  else match (s.leaf i).summary with
    | some x => if x.valid && x.generation == (s.leaf i).generation then (some x, false, s) else (none, false, s)
    | none => (none, false, s)

/-- The groups that can score a shape (R206). -/
def State.scoringGroups (s : State) (sh : Bytes) : List Nat := (List.range 4).filter (fun g => (s.usableArrays g).length ≥ spanOf sh)

/-- Whether a SELECT of a partition is scored on Spires, and whether for want of arrays (R214). -/
def State.exactWhy (s : State) (p : Nat) (sh : Bytes) : Bool × Bool :=
  if s.on F.PART_LANTERN_CFG_EXACT p || s.on F.LANTERN_CFG_FORCE_EXACT || planExact sh then (true, false)
  else ((s.scoringGroups sh).isEmpty, (s.scoringGroups sh).isEmpty)

/-- Every candidate scored on arrays of one group; a candidate whose block comes after the commit point is late (R245, item 4). -/
def State.lanternAll (s : State) (j : Job) (commit : Option Nat) (arrays : List Nat) (cols : Nat) (leafOfC : Nat → Nat) :
    Nat → List Nat → List SelCand × State
  | _, [] => ([], s)
  | n, c :: cs =>
    let (late, s) := match commit with | some t => s.arrivesLate .pool t | none => (false, s)
    let (x, _, s) := s.readSummary (leafOfC c)
    let (cand, s) : SelCand × State := match late, x with
      | false, some x => s.scoreLantern j arrays n cols c x
      | l, _ => ({ chunk := c, late := l }, s)
    let (rest, s) := State.lanternAll s j commit arrays cols leafOfC (n + 1) cs
    (cand :: rest, s)

/-- A SELECT scored on the arrays that it holds, in one step; it then releases them. -/
def State.runLantern (s : State) (j : Job) (commit : Option Nat) (q : Sequ) (arrays cs : List Nat) : Job × State :=
  let (cands, s) := s.lanternAll j commit arrays (ceilDiv cs.length 512) (leafOf q j.layer) 0 cs
  let s := (s.releaseArrays arrays).bump F.LANTERN_SELECTS_COUNT
  ({ j with cands := cands }, s.bump F.LANTERN_UNSCORED_COUNT (cands.countP (fun c => !c.scored)))

/-- The arrays that a set of `n` candidates takes where enough are free: one for each 512 of them, head and half (R205, step 3). -/
def arraysFor (sh : Bytes) (n : Nat) : Nat := shHeads sh * ceilDiv n 512 * spanOf sh

/-- The arrays a SELECT may take: free usable ones of one group, no more than its set needs and whole spans of them; none where
no group has a span free. Which group and which arrays is free (log entry 70). -/
def State.pickArrays (s : State) (sh : Bytes) (n : Nat) : Option (List Nat) :=
  let gs := (s.scoringGroups sh).filter (fun g => (s.freeArrays g).length ≥ spanOf sh)
  (gs[Config.freeNat s.freeCtr % max 1 gs.length]?).map (fun g =>
    let free := s.freeArrays g
    let k := Config.freeNat (s.freeCtr + 1) % free.length
    (free.drop k ++ free.take k).take (min (arraysFor sh n) (free.length / spanOf sh * spanOf sh)))

/-- The arrays a SELECT scores on: those it holds, or else those it takes now (R206). -/
def State.arraysOf (s : State) (owner : Nat × Nat) (sh : Bytes) (n : Nat) : Option (List Nat) :=
  match s.heldBy owner with
  | [] => s.pickArrays sh n
  | as => some as

/-- The arrays of a SELECT taken, where it does not hold them already. -/
def State.takeArrays (s : State) (owner : Nat × Nat) (as : List Nat) : State :=
  if s.heldBy owner = as then s else ({ s with freeCtr := s.freeCtr + 2 }).holdArrays owner as

/-- Whether a SELECT holds arrays already, so that it stays with Lantern. -/
def State.onArrays (s : State) (owner : Nat × Nat) : Bool := (s.heldBy owner) != []

/-- Whether the group of a set of arrays has its power grant (R206, R455); no array needs none. -/
def State.lanternGranted (s : State) (arrays : List Nat) : Bool :=
  match arrays with
  | [] => true
  | a :: _ => s.cupola.grants.any (fun (g : Grant) => g.cls == 2 && g.unit == a / 16)

/-- The candidates of an exact SELECT with the holds that it takes, but for leaves that are EVICTING (R194, R215). -/
def State.exactAll (s : State) (owner : Nat) (j : Job) (q : Sequ) : List Nat → (List SelCand × List View × Bool) × State
  | [] => (([], [], false), s)
  | c :: cs =>
    let i := leafOf q j.layer c
    let (x, bad, s) := s.readSummary i
    let cand : SelCand := match x with | some x => j.scoreExact c x | none => { chunk := c }
    if (s.leaf i).state = .evicting then
      let ((cands, vs, b), s) := State.exactAll s owner j q cs
      (({ chunk := c } :: cands, vs, b || bad), s)
    else
      let (v, s) := s.takeView owner i c (s.chunkBad (q.chunks.getD c {}))
      let s := s.access i
      let ((cands, vs, b), s) := State.exactAll s owner j q cs
      ((cand :: cands, v :: vs, b || bad), s)

/-- A SELECT to be scored on Spires: its candidates and views. -/
def State.runExact (s : State) (owner : Nat) (j : Job) (q : Sequ) (cs : List Nat) (fellBack : Bool) : Job × State :=
  let s := if fellBack then s.bump F.LANTERN_FALLBACKS_COUNT else s
  let ((cands, vs, bad), s) := s.exactAll owner { j with kind := 1 } q cs
  let s := s.bump F.LANTERN_UNSCORED_COUNT (cands.countP (fun c => !c.scored))
  ({ j with kind := 1, cands := cands, views := vs, bad := bad }, s)

/-- The candidates of an exact SELECT whose leaves are held already. -/
def State.heldAll (s : State) (j : Job) (q : Sequ) : List View → (List SelCand × Bool) × State
  | [] => (([], false), s)
  | v :: vs =>
    let (x, bad, s) := s.readSummary (leafOf q j.layer v.chunk)
    let cand : SelCand := match x with | some x => j.scoreExact v.chunk x | none => { chunk := v.chunk }
    let ((cands, b), s) := State.heldAll s j q vs
    ((cand :: cands, b || bad), s)

/-- A SELECT to be scored on Spires whose candidates are held already. -/
def State.runHeld (s : State) (j : Job) (q : Sequ) (vs : List View) (fellBack : Bool) : Job × State :=
  let s := if fellBack then s.bump F.LANTERN_FALLBACKS_COUNT else s
  let ((cands, bad), s) := s.heldAll { j with kind := 1 } q vs
  let s := s.bump F.LANTERN_UNSCORED_COUNT (cands.countP (fun c => !c.scored))
  ({ j with kind := 1, cands := cands, views := vs, bad := bad }, s)

/-- Whether an exact SELECT has consumed poisoned data. -/
def Job.selPoisoned (j : Job) : Bool := j.kind == 1 && (j.bad || j.views.any (fun v => v.dead))

/-- The candidates that a SELECT left unscored for lateness. -/
def Job.selLate (j : Job) : Bool := j.cands.any (·.late)

/-! ### The SELECT descriptor -/

/-- The end of a SELECT descriptor (R194, R247, R248). -/
def State.finishSelect (s : State) (rid : Nat) (r : Req) (j : Job) : State :=
  if j.selPoisoned then s.complete rid .poisoned
  else if j.selLate && !r.fDegradeOk then s.complete rid .deadlineMissed
  else
    let (b, n, kth) := j.listOut
    let late := s.isLate r
    if !s.dstOk r r.addr24 b.length then s.complete rid .accessDenied
    else
      let s := s.bufWrite r 6 r.addr24 b
      if r.dstSpace = 0 && !s.flushOk 0 (r.addr24 + b.length - 1) then s.complete rid .linkFailed
      else s.complete rid (if j.selLate then .okDegraded else .ok)
        { result0 := n, result1 := kth, approximate := j.proxy, path := if j.selLate then 2 else 0
          detail := if j.selLate then b2n late * 2 ^ 31 else 0 }

/-- A SELECT on Lantern: it takes arrays, and where none is free or their group lacks its power grant it waits (R206). -/
def State.selectLantern (s : State) (rid : Nat) (r : Req) (q : Sequ) (j : Job) (cands : List Nat) : State :=
  match s.arraysOf (rid, 0) j.sh cands.length with
  | none => s
  | some as =>
    let s := s.takeArrays (rid, 0) as
    if !s.lanternGranted as then s
    else
      let x := s.runLantern j (s.commitTime? r) q as cands
      x.2.finishSelect rid r x.1

/-- A SELECT whose operands and data have passed their checks is scored; on Lantern it first takes arrays, where none is free it
waits, and it waits for the power grant of their group, SELECT being given again (R206). -/
def State.selectSet (s : State) (rid : Nat) (r : Req) (q : Sequ) (j : Job) (cs : List Nat) : State :=
  let j := { j with forced := forcedOf j.sh q cs }
  let cands := candsOf j.sh q cs
  let (exact, fell) := s.exactWhy r.part j.sh
  if (exact && !s.onArrays (rid, 0)) = true then
    if !s.canHoldAll q j.layer cands then s
    else
      let (j, s) := s.runExact rid j q cands fell
      if j.views = [] then s.finishSelect rid r j else (s.wait rid (.job r.jobNo)).queueJob r.jobNo j
  else
    s.selectLantern rid r q j cands

def effSelect (s : State) (rid : Nat) : State :=
  match s.startedReq? rid [0x41] with
  | none => s
  | some r =>
    let q := (s.seq (hSeq r.handle)).asOf r.snap
    let sh := s.seqShape q
    if s.shapeBad q.partition q.shapeIndex q.shapeEpoch then s.complete rid .poisoned
    else if r.selLayer ≥ shLayers sh then s.bad rid 32
    else if shPolicy sh = 0 then s.complete rid .badFormat
    else match s.bufRead r 3 r.addr16 (queryBytes sh 1 r.selQueryBf16) with
      | .fail st => s.failRead rid st
      | .ok qb =>
        if !queryOk sh 1 r.selQueryBf16 qb then s.complete rid .badFormat
        else
          let cs := (List.range r.selCount).map (· + r.selFirst)
          match chunkChecks q (q.partition != r.part) cs with
          | some st => s.complete rid st
          | none => s.selectSet rid r q {
              owner := .req rid, kind := 3, part := r.part, handle := r.handle, sh := sh, qblock := qb, qbf16 := r.selQueryBf16
              layer := r.selLayer, k := r.selK, proxy := r.selProxy, pband := if r.selProxy then shProxyBand sh else 0
              maxSpires := s.spireLimit r.part sh } cs

def execSelect (e : Env) (rid : Nat) (s : State) : Host.Outcome State Fault Refusal := .next (effSelect (s.enter e) rid)

/-! ### Calibration of the arrays (R207 to R209) -/

/-- The group temperature sampled. -/
def State.lanternTemp (s : State) (g temp : Nat) : State := s.put F.LANTERN_GROUP_STATUS_TEMP_C temp g

/-- Whether an array is due (R208): out of calibration after its domain came on, by its period, or by its temperature; one that a
SELECT holds calibrates when it is released. -/
def State.calDue (s : State) (a : Nat) : Bool :=
  let x := s.larray a
  let temp := s.get F.LANTERN_GROUP_STATUS_TEMP_C (a / 16)
  (x.state == 1 || x.state == 3) && !s.arrayHeld a
    && ((match x.lastCal with | some t => decide (s.time ≥ t + s.get F.LANTERN_CFG_CAL_PERIOD_MS * 1000000) | none => true)
      || (x.lastOk.isSome && natDiff temp x.temp ≥ s.calDelta))

/-- A calibration starts: one of a group at a time, in array order among those due. -/
def effLanternCalibrationDue (s : State) (a temp : Nat) : State :=
  let g := a / 16
  if a ≥ 64 || !s.pdOn (76 + g) then s
  else
    let s := s.lanternTemp g temp
    let group := (List.range 16).map (· + 16 * g)
    if group.any (fun b => (s.larray b).state == 2) || !s.calDue a || group.any (fun b => b < a && s.calDue b) then s
    else
      let s' := { s with arrays := s.arrays.set a { s.larray a with state := 2, lastCal := some s.time } }
      if (s.larray a).state = 1 then s'.noUsable g else s'

def execLanternCalibrationDue (e : Env) (array temp : Nat) (s : State) : Host.Outcome State Fault Refusal :=
  .next (effLanternCalibrationDue (s.enter e) array temp)

/-- A calibration ends after 2 µs: its residual is measured, and trims and band are taken where it is within the limit. -/
def effLanternCalibrationDone (s : State) (a : Nat) : State :=
  let x := s.larray a
  if x.state != 2 || !(match x.lastCal with | some t => decide (s.time ≥ t + 2000) | none => false) then s
  else
    let n := s.freeCtr
    let s := s.free.2
    let rho := Config.calError a n
    if rho > s.get F.LANTERN_CAL_LIMIT_LIMIT then
      (({ s with arrays := s.arrays.set a { x with state := 3, failed := true } }).bump F.LANTERN_CAL_FAIL_COUNT).raise gLantern 0
    else { s with arrays := s.arrays.set a { x with
      state := 1, failed := false, lastOk := some s.time, temp := s.get F.LANTERN_GROUP_STATUS_TEMP_C (a / 16)
      band := s.get F.LANTERN_CAL_LIMIT_GUARD + 2 * rho
      trims := (List.range 8).map (fun g => (Config.calFit a g n % 65536, Config.calFit a (g + 8) n % 65536)) } }

def execLanternCalibrationDone (e : Env) (array : Nat) (s : State) : Host.Outcome State Fault Refusal :=
  .next (effLanternCalibrationDone (s.enter e) array)

/-- An array goes out of calibration by age or by temperature (R209). -/
def effLanternStale (s : State) (a temp : Nat) : State :=
  let g := a / 16
  if a ≥ 64 || !s.pdOn (76 + g) then s
  else
    let s := s.lanternTemp g temp
    if (s.larray a).state = 1 && !s.calFresh a then
      ({ s with arrays := s.arrays.set a { s.larray a with state := 3 } }).noUsable g
    else s

def execLanternStale (e : Env) (array temp : Nat) (s : State) : Host.Outcome State Fault Refusal :=
  .next (effLanternStale (s.enter e) array temp)

end Sys2Proof.Machine
end

