-- ==== Sys2Proof/Machine/Deliver.lean ====
section
/-! DEFINITION. Delivery (R241 to R244, R247, R248): blocks, map records, and the DELIVER descriptor. -/

namespace Sys2Proof.Machine

open Sys2Proof

/-! ### Blocks (R241, R244) -/

/-- The size of a block. -/
def blockSize (sh : Bytes) (f : FpFmt) : Nat := 2 * shHeads sh * shTpl sh * shDim sh * f.bytes

/-- Values of [kv_head][token][channel] with the tokens from `n` on as zero. -/
def blockVals (sh : Bytes) (n : Nat) (xs : List Word) : List Word :=
  (List.range (shHeads sh)).flatMap (fun h => (List.range (shTpl sh)).flatMap (fun t =>
    if t < n then rowOf xs (shTpl sh) (shDim sh) h t else List.replicate (shDim sh) 0))

/-- Whether a view is delivered from its leaf with poison. -/
def View.delPoisoned (v : View) : Bool := v.fate == 0 && v.poisoned

/-- Whether a view is delivered at all. -/
def View.delivered (v : View) : Bool := v.fate ≤ 1

/-- The block of a view, with the saturations counted. -/
def State.blockOf (s : State) (sh : Bytes) (f : FpFmt) (v : View) : Bytes × State :=
  if v.delPoisoned then (List.replicate (blockSize sh f) 0, s)
  else
    let ((ks, vs), n) := v.served
    s.convertOut f (blockVals sh n ks ++ blockVals sh n vs)

/-- The poisoned lines of a block written over PCIe. -/
def blockLines (size first : Nat) (v : View) : List Nat :=
  if v.delPoisoned then (List.range (ceilDiv size 64)).map (· + first / 64) else []

/-- The blocks of a set, each at its place; an undelivered block is not written. In confidential host mode they are one
buffer, in which the bytes of undelivered blocks are zero (R437, log entry 18). -/
def State.putBlocks (s : State) (r : Req) (rid base : Nat) (sh : Bytes) (f : FpFmt) (vs : List View) : State :=
  let n := blockSize sh f
  if s.chmBuf r r.dstSpace then
    let (bs, s) := vs.foldl (fun (a : Bytes × State) v =>
      if v.delivered then let (b, s) := a.2.blockOf sh f v; (a.1 ++ b, s) else (a.1 ++ List.replicate n 0, a.2)) ([], s)
    s.bufWrite r 6 base bs ((vs.mapIdx (fun i v => blockLines n (i * n) v)).flatten) rid
  else
    (vs.foldl (fun (a : Nat × State) v =>
      (a.1 + n, if v.delivered then
          let (b, s) := a.2.blockOf sh f v
          s.bufWrite r 6 (base + a.1) b (blockLines n 0 v) rid
        else a.2)) (0, s)).2

/-! ### Map records (R242, R243) -/

/-- The map entry of a view. -/
def View.mapEntry (v : View) : Nat :=
  match v.fate with
  | 0 => if v.poisoned then 3 else 1
  | 1 => 2
  | _ => 0

/-- Entries of two bits, four to a byte, padded to a multiple of 64 bytes. -/
def mapBits (es : List Nat) : Bytes :=
  let b := (chunksOf 4 (es.length / 4 + 1) es).map (fun x =>
    BitVec.ofNat 8 (x.getD 0 0 + 4 * x.getD 1 0 + 16 * x.getD 2 0 + 64 * x.getD 3 0))
  padTo (roundUp (ceilDiv es.length 4) 64) (b.take (ceilDiv es.length 4))

/-- A map record. -/
def mapRecord (stamp : Nat) (es : List Nat) (st : Status) (path lastTokens localCount : Nat) : Bytes :=
  leBytes 8 stamp ++ leBytes 4 es.length ++ leBytes 1 st.code ++ leBytes 1 path ++ leBytes 2 lastTokens ++ leBytes 4 localCount
    ++ leBytes 44 0 ++ mapBits es

/-- Tokens of the last chunk of a set at its hold. -/
def lastTokens (vs : List View) : Nat := match vs.getLast? with | some v => v.count | none => 0

/-- The first chunk of a set that was poisoned and how many were (R244; log entry 73). -/
def poisonDetail (bad : List Nat) : Nat :=
  match bad with
  | [] => 0
  | c :: _ => min (2 ^ 24 - 1) c + min 255 bad.length * 2 ^ 24

/-- The status of a slot or a descriptor by R248, from what happened to it. -/
def statusOf (poisoned missed link partial_ degraded : Bool) : Status :=
  if poisoned then .poisoned else if missed then .deadlineMissed else if link then .linkFailed
  else if partial_ then .okPartial else if degraded then .okDegraded else .ok

/-- The flush read of R243 after writes over PCIe; nothing is read for other targets (log entry 40). -/
def State.flushed (s : State) (r : Req) (kind last : Nat) : Bool :=
  match r.origin, r.dstSpace with
  | .fwd _ _ _, _ => true
  | _, 0 => kind = 0 || s.flushOk 0 last
  | _, sp + 1 => (s.qps.getD sp {}).state == .rts

/-! ### The DELIVER descriptor -/

/-- The destination of a DELIVER as the device writes it: the queue pair and key of target kind 2 (R360). -/
def Req.target (r : Req) : Req :=
  if r.opcode = 0x42 && r.delTarget = 2 then { r with dstSpace := 1 + r.delQp, dstRkey := r.delRkey, dstMr := none } else r

/-- A request that completes when the RDMA WRITEs that it sent are acknowledged (R84). -/
def State.completeAcked (s : State) (rid qp : Nat) (st : Status) (c : Cpl) : State :=
  if (s.qps.getD qp {}).outstanding.any (fun o => o.rid == rid && o.kind == 1) then s.wait rid (.acks qp st c) else s.complete rid st c

/-- Where the map record of a descriptor goes: bitmap_addr, or behind the blocks; behind their tag in confidential host mode
(R242, R437, log entry 18). -/
def State.mapAddr (s : State) (r : Req) (total : Nat) : Nat :=
  if r.addr48 != 0 && !(s.confidential r.part && r.local_) then r.addr48
  else roundUp (r.addr16 + total) 64 + (if s.chmBuf r r.dstSpace then 64 else 0)

/-- The place of the last block of a set that is written. -/
def lastWritten (vs : List View) : Option Nat := ((vs.mapIdx (fun i v => (i, v))).filter (fun x => x.2.delivered)).getLast?.map (·.1)

/-- The end of a DELIVER: blocks, flush, map record, second flush, completion (log entry 18). -/
def State.deliverOut (s : State) (rid : Nat) (r : Req) (sh : Bytes) (f : FpFmt) (vs : List View) : State :=
  let r := r.target
  let n := blockSize sh f
  let s := s.putBlocks r rid r.addr16 sh f vs
  let bad := (vs.filter View.delPoisoned).map (·.chunk)
  let link := match lastWritten vs with | some i => !s.flushed r r.delTarget (r.addr16 + n * (i + 1) - 1) | none => false
  let out := vs.countP (fun v => v.fate == 2)
  let shadows := vs.countP (fun v => v.fate == 1)
  let st := statusOf (bad != []) false link (out != 0) (shadows != 0)
  let stamp := match r.deadline with
    | some p => p
    | none => match r.snap.bound with | some d => s.beatPos d | none => 0
  let m := mapRecord stamp (vs.map View.mapEntry) st (pathOf vs) (lastTokens vs) 0
  let at_ := s.mapAddr r (n * vs.length)
  let late := s.isLate r
  let s := s.bufWrite r 8 at_ m [] rid
  let st := if st = .ok || st = .okPartial || st = .okDegraded then (if s.flushed r r.delTarget (at_ + m.length - 1) then st else .linkFailed) else st
  let good := vs.countP (fun v => v.delivered && !v.delPoisoned)
  let wrote := n * vs.countP View.delivered + m.length
  let c : Cpl := {
    result0 := good + (vs.length - good) * 2 ^ 32, result1 := wrote, path := pathOf vs, poisoned := bad != []
    detail := if bad != [] then poisonDetail bad else if st = .okPartial || st = .okDegraded then missDetail vs late else 0 }
  match r.origin, r.dstSpace, r.delTarget with
  | .ring _, sp + 1, 2 => s.completeAcked rid sp st c
  | _, _, _ => s.complete rid st c

/-- A DELIVER whose holds are taken (R245, R247, R287). -/
def State.deliverHeld (s : State) (rid : Nat) (r : Req) (sh : Bytes) (f : FpFmt) (vs : List View) : State :=
  let (vs, s) := match s.commitTime? r with
    | some t => s.judgeLate t vs
    | none => (vs, s)
  let s := vs.foldl (fun s v => if v.fate = 0 then s.decodeAny v else s) s
  let n := blockSize sh f * vs.length
  if vs.any (fun v => v.fate == 0 && s.readFails v) then s.complete rid .mediaError
  else if !r.fDegradeOk && vs.any (fun v => v.fate != 0) && !vs.any View.delPoisoned then
    let (bs, s) := s.freeBytes n
    (s.bufWrite r.target 6 r.addr16 bs).complete rid .deadlineMissed
  else if r.delTarget != 2 && (!s.dstOk r r.addr16 n || !s.dstOk r (s.mapAddr r n) (64 + roundUp (ceilDiv vs.length 4) 64)) then
    s.complete rid .accessDenied
  else s.deliverOut rid r sh f vs

/-- Items 3 to 5 of R180, and the holds. -/
def State.deliverSet (s : State) (rid : Nat) (r : Req) (q : Sequ) (sh : Bytes) (f : FpFmt) (cs : List Nat) : State :=
  match chunkChecks q (q.partition != r.part) cs with
  | some st => s.complete rid st
  | none =>
    if !s.canHoldAll q r.delLayer cs then s
    else match s.holdSet rid q r.delLayer (fun _ => false) cs with
      | (.inr c, s) => (s.unholdAll rid).complete rid .evicted { detail := c % 2 ^ 28 }
      | (.inl vs, s) => s.deliverHeld rid r sh f vs

/-- The first operand of a DELIVER out of its range (R180, item 1). -/
def deliverRange (r : Req) (sh : Bytes) : Option Nat :=
  if r.addr24 != 0 && r.delFirst != 0 then some 32
  else if r.addr24 != 0 && r.delCount != 0 then some 36
  else if r.addr24 = 0 && r.delCount = 0 then some 36
  else if r.delLayer ≥ shLayers sh then some 38
  else none

/-- Whether the target of a DELIVER is refused: target kind 1 of a QWP request, or a queue pair of another partition (R360). -/
def State.targetDenied (s : State) (r : Req) : Bool :=
  (r.delTarget == 1 && (match r.origin with | .qwp _ _ => true | .fwd _ queue _ => queue ≥ 2 ^ 15 | .ring _ => false))
    || (r.delTarget == 2 && (s.qps.getD r.delQp {}).partition != r.part && (match r.origin with | .fwd _ _ _ => false | _ => true))

/-- Whether the queue pair of target kind 2 can send. -/
def State.targetDown (s : State) (r : Req) : Bool :=
  r.delTarget == 2 && (s.qps.getD r.delQp {}).state != .rts && (match r.origin with | .fwd _ _ _ => false | _ => true)

/-- DELIVER. Its target (R360) is judged before the ranges of R180, item 1 (DESIGN CHOICE: R77 gives no order within its
item 6; log entry 37). -/
def effDeliver (s : State) (rid : Nat) : State :=
  match s.startedReq? rid [0x42] with
  | none => s
  | some r =>
    let q := s.seq (hSeq r.handle)
    let sh := s.seqShape q
    if s.shapeBad q.partition q.shapeIndex q.shapeEpoch then s.complete rid .poisoned
    else if s.targetDenied r then s.complete rid .accessDenied
    else match deliverRange r sh, (if r.delFormat ≤ 4 then plainFmt? r.delFormat else none) with
    | some off, _ => s.bad rid off
    | none, none => s.complete rid .badFormat
    | none, some f =>
      if !s.anySlice then s
      else
        let set := if r.addr24 = 0 then .inl ((List.range r.delCount).map (· + r.delFirst)) else s.readList r r.addr24
        match set with
        | .inr st => s.failRead rid st
        | .inl cs => if s.targetDown r then s.complete rid .linkFailed else s.deliverSet rid r q sh f cs

def execDeliver (e : Env) (rid : Nat) (s : State) : Host.Outcome State Fault Refusal := .next (effDeliver (s.enter e) rid)

end Sys2Proof.Machine
end

