-- ==== Sys2Proof/Machine/Sched.lean ====
section
/-! DEFINITION. Schedule Images (R228 to R233), SCHEDULE_ARM and SCHEDULE_DISARM (R234, R235), and the switch at a reference. -/

namespace Sys2Proof.Machine

open Sys2Proof

/-! ### The image (R229 to R232) -/

def imLayers (b : Bytes) : Nat := sfield b 2 11 0
def imEvents (b : Bytes) : Nat := fieldAt b 4 4
def imSlots (b : Bytes) : Nat := fieldAt b 8 2
def imTargets (b : Bytes) : Nat := fieldAt b 10 2
def imCq (b : Bytes) : Nat := sfield b 12 2 0
def imEventsOff (b : Bytes) : Nat := fieldAt b 16 4
def imTargetsOff (b : Bytes) : Nat := fieldAt b 20 4
/-- The bytes of an event and of a target entry. -/
def imEvent (b : Bytes) (n : Nat) : Bytes := (b.drop (imEventsOff b + 32 * n)).take 32
def imTarget (b : Bytes) (n : Nat) : Bytes := (b.drop (imTargetsOff b + 64 * n)).take 64

def evLayer (e : Bytes) : Nat := sfield e 0 11 0
def evLead (e : Bytes) : Nat := sfield e 0 15 12
def evIssuePhase (e : Bytes) : Nat := sfield e 2 9 0
def evDeadlinePhase (e : Bytes) : Nat := sfield e 4 9 0
def evOp (e : Bytes) : Nat := sfield e 6 1 0
def evMiss (e : Bytes) : Nat := sfield e 6 4 2
def evReportAll (e : Bytes) : Bool := bit (fieldAt e 6 1) 5
def evUseList (e : Bytes) : Bool := bit (fieldAt e 6 1) 6
def evProxy (e : Bytes) : Bool := bit (fieldAt e 6 1) 7
def evFormat (e : Bytes) : Nat := sfield e 7 3 0
def evOutBf16 (e : Bytes) : Bool := bit (fieldAt e 7 1) 4
def evQueryBf16 (e : Bytes) : Bool := bit (fieldAt e 7 1) 5
def evRange (e : Bytes) : Nat := sfield e 7 7 6
def evSlotFirst (e : Bytes) : Nat := fieldAt e 8 2
def evSlotCount (e : Bytes) : Nat := fieldAt e 10 2
def evTarget (e : Bytes) : Nat := fieldAt e 12 2
def evTag (e : Bytes) : Nat := fieldAt e 14 2
def evQueryLayer (e : Bytes) : Nat := sfield e 16 11 0
def evQueries (e : Bytes) : Nat := sfield e 16 15 12 + 1
def evK (e : Bytes) : Nat := fieldAt e 18 2
def evProxyBand (e : Bytes) : Nat := fieldAt e 20 2
def evListEvent (e : Bytes) : Nat := fieldAt e 22 2

def tgKind (t : Bytes) : Nat := sfield t 0 1 0
def tgQp (t : Bytes) : Nat := sfield t 2 14 0
def tgRkey (t : Bytes) : Nat := fieldAt t 4 4
def tgBase (t : Bytes) : Nat := fieldAt t 8 8
def tgSlotStride (t : Bytes) : Nat := fieldAt t 16 4
def tgLayerStride (t : Bytes) : Nat := fieldAt t 20 4
def tgMapOffset (t : Bytes) : Nat := fieldAt t 24 4
def tgQueryBase (t : Bytes) : Nat := fieldAt t 32 8
def tgQueryStride (t : Bytes) : Nat := fieldAt t 40 4
def tgQueryLayerStride (t : Bytes) : Nat := fieldAt t 44 4

/-- The slot-layer area and the query area of slot-table entry `i` and a layer (R232). -/
def slotArea (t : Bytes) (i layer : Nat) : Nat := tgBase t + i * tgSlotStride t + layer * tgLayerStride t
def queryArea (t : Bytes) (i layer : Nat) : Nat := tgQueryBase t + i * tgQueryStride t + layer * tgQueryLayerStride t

/-- The issue layer of an event (R230), and whether it lies in the step before the one served. -/
def evIssueLayer (layers : Nat) (e : Bytes) : Nat := (evLayer e + layers - evLead e % layers) % layers
def evWraps (e : Bytes) : Bool := decide (evLead e > evLayer e)

/-- Whether an event is sound by itself (R230, R231). -/
def eventOk (b e : Bytes) : Bool :=
  let n := imLayers b
  evLayer e < n && evLead e ≤ 8 && sfield e 2 15 10 == 0 && sfield e 4 15 10 == 0 && evOp e != 3 && evMiss e ≤ 4
    && (if evOp e = 0 then evFormat e ≤ 4 else evFormat e == 0) && evRange e != 3
    && 1 ≤ evSlotCount e && evSlotFirst e + evSlotCount e ≤ imSlots b && evTarget e < imTargets b
    && evQueryLayer e < n && (if evProxy e then evQueryLayer e < evLayer e else evQueryLayer e == evLayer e)
    && (if evOp e = 2 then 1 ≤ evK e else evK e == 0)
    && (if evOp e = 2 && evProxy e then halfNonNeg (evProxyBand e) else evProxyBand e % 2 ^ 15 == 0)
    && fieldAt e 24 8 == 0
    && (evLead e != 0 || evIssuePhase e < evDeadlinePhase e)
    && (!evUseList e || (evListEvent e < imEvents b && evOp (imEvent b (evListEvent e)) == 2
      && evLayer (imEvent b (evListEvent e)) == evLayer e))
    && (evOp e != 0 || evMiss e != 3 || tgQueryBase (imTarget b (evTarget e)) != 0)

/-- Whether a target entry is sound (R232). -/
def targetOk (t : Bytes) : Bool :=
  tgKind t != 3 && sfield t 0 7 2 == 0 && fieldAt t 1 1 == 0 && sfield t 2 15 15 == 0 && fieldAt t 28 4 == 0 && fieldAt t 48 16 == 0
    && ([tgSlotStride t, tgLayerStride t, tgMapOffset t, tgQueryStride t, tgQueryLayerStride t]).all (· % 64 == 0)

/-- Events in ascending order of issue layer and phase (log entry 66). -/
def eventsOrdered (keys : List Nat) : Bool := (keys.zip (keys.drop 1)).all (fun p => p.1 ≤ p.2)

/-- The header of an image with its two tables apart and inside the bundle (R229). -/
def imageHeaderOk (b : Bytes) : Bool :=
  let (eo, es, to_, ts) := (imEventsOff b, 32 * imEvents b, imTargetsOff b, 64 * imTargets b)
  64 ≤ b.length && fieldAt b 0 2 == 1 && sfield b 2 15 12 == 0 && 1 ≤ imLayers b && 1 ≤ imEvents b && imEvents b ≤ 16384
    && 1 ≤ imSlots b && imSlots b ≤ 4096 && 1 ≤ imTargets b && imTargets b ≤ 256 && sfield b 12 7 3 == 0 && fieldAt b 13 3 == 0
    && fieldAt b 24 40 == 0 && eo % 64 == 0 && to_ % 64 == 0 && 64 ≤ eo && 64 ≤ to_ && eo + es ≤ b.length && to_ + ts ≤ b.length
    && (eo + es ≤ to_ || to_ + ts ≤ eo)

/-- Whether an image meets R229 to R232. -/
def imageOk (b : Bytes) : Bool :=
  let evs := (List.range (imEvents b)).map (imEvent b)
  imageHeaderOk b && evs.all (eventOk b) && (List.range (imTargets b)).all (fun n => targetOk (imTarget b n))
    && eventsOrdered (evs.map (fun e => evIssueLayer (imLayers b) e * 1024 + evIssuePhase e))

/-! ### Loading (R228) -/

def State.sched (s : State) (p : Nat) : Sched := s.scheds.getD p {}
def State.setSched (s : State) (p : Nat) (x : Sched) : State := { s with scheds := s.scheds.set p x }
def Sched.img (x : Sched) (slot : Bool) : Option SchedImg := if slot then x.b else x.a
def Sched.setImg (x : Sched) (slot : Bool) (i : Option SchedImg) : Sched := if slot then { x with b := i } else { x with a := i }

/-- Images loaded in the device (log entry 75). -/
def State.imagesLoaded (s : State) : Nat := (s.scheds.map (fun x => b2n x.2.a.isSome + b2n x.2.b.isSome)).sum

/-- Whether a slot is armed, has an arm or disarm pending, or has users. -/
def State.slotBusy (s : State) (p : Nat) (slot : Bool) : Bool :=
  let x := s.sched p
  (match x.armed with | some a => a.1 == slot | none => false) || (match x.pend with | some q => q.slot == slot | none => false)
    || s.insts.any (fun i => i.2.part == p && i.2.slot == slot)

/-- TABLE_LOAD of a Schedule Image. -/
def effTableLoadScheduleImage (s : State) (rid : Nat) : State :=
  match s.startedLoad? rid 2 with
  | none => s
  | some r =>
    let p := r.part
    let slot := r.loadTarget == 1
    let x := s.sched p
    if r.loadLength > 2 ^ 20 then s.complete rid .badFormat
    else if s.slotBusy p slot then s.complete rid .busyTeardown
    else if r.loadLength = 0 then (s.setSched p (x.setImg slot none)).complete rid .ok
    else if (x.img slot).isNone && s.imagesLoaded ≥ 4 then s.complete rid .quotaExceeded
    else match s.bundleRead r with
      | .fail st => s.failRead rid st
      | .ok b =>
        if !imageOk b then s.complete rid .badFormat
        else
          let e := x.lastEpoch + 1
          let x := { x with lastEpoch := e }.setImg slot (some { bytes := b, epoch := e })
          ((s.setSched p x).clearBad 3 (p * 2 + r.loadTarget)).complete rid .ok { result0 := e.toNat }

def execTableLoadScheduleImage (e : Env) (rid : Nat) (s : State) : Host.Outcome State Fault Refusal :=
  .next (effTableLoadScheduleImage (s.enter e) rid)

/-! ### Arming (R234, R235) -/

/-- The step of the reference of an arm or disarm: the next step, or the one that its field names (R76, R234). -/
def State.refStep (s : State) (n : Nat) (r : Req) : Nat :=
  if r.deadlineField = 0 then (s.beat n).step + 1 else posStep (s.resolvePos n r.deadlineField)

/-- The completion ring of an image. -/
def schedCq (p : Nat) (b : Bytes) : Nat := 8 * p + imCq b

/-- A slot-table entry as R233 lays it out. -/
def slotEntryOk (e : Bytes) : Bool := sfield e 8 31 28 == 0 && sfield e 12 31 28 == 0

/-- The ring and the head that a request names in its completion entry. -/
def Req.sqPair (r : Req) : Nat × Nat := (r.origin.ringNo, r.sqHead)

/-- An arm whose conditions hold: its entries are read and held until the reference (log entry 75). -/
def State.armRead (s : State) (rid : Nat) (r : Req) (n step : Nat) : State :=
  match (if r.addr24 = 0 then .ok [] else s.bufRead r 2 r.addr24 (16 * r.armCount)) with
  | .fail st => s.failRead rid st
  | .ok b =>
    let es := if r.addr24 = 0 then [] else chunksOf 16 r.armCount b
    if !es.all slotEntryOk then s.complete rid .badFormat
    else
      let x := s.sched r.part
      (s.setSched r.part { x with pend := some {
        slot := r.schedSlot, step := step, dom := n, rid := rid, first := r.armFirst, entries := es, sqId := r.sqPair.1, sqHead := r.sqPair.2 } }).wait
        rid (.arm r.schedSlot)

def effScheduleArm (s : State) (rid : Nat) : State :=
  match s.startedReq? rid [0x51] with
  | none => s
  | some r =>
    let p := r.part
    let x := s.sched p
    match r.snap.bound with
    | none => s.bad rid 4
    | some n =>
      if bits r.deadlineField 31 10 != 0 then s.bad rid 4
      else match x.img r.schedSlot with
        | none => s.complete rid .notFound
        | some im =>
          if r.armFirst ≥ imSlots im.bytes && r.armCount != 0 then s.bad rid 32
          else if r.armFirst + r.armCount > imSlots im.bytes then s.bad rid 34
          else if imLayers im.bytes != s.layersOf n then s.complete rid .badFormat
          else if !s.on F.HP_CQ_STATUS_ACTIVE (schedCq p im.bytes) then s.complete rid .accessDenied
          else if x.pend.isSome then s.complete rid .busyTeardown
          else if s.posPassed n (mkPos (s.refStep n r) 0 0) then s.complete rid .deadlineMissed
          else s.armRead rid r n (s.refStep n r)

def execScheduleArm (e : Env) (rid : Nat) (s : State) : Host.Outcome State Fault Refusal := .next (effScheduleArm (s.enter e) rid)

def effScheduleDisarm (s : State) (rid : Nat) : State :=
  match s.startedReq? rid [0x52] with
  | none => s
  | some r =>
    let p := r.part
    let x := s.sched p
    match r.snap.bound with
    | none => s.bad rid 4
    | some n =>
      if bits r.deadlineField 31 10 != 0 then s.bad rid 4
      else if !(match x.armed with | some a => a.1 == r.schedSlot | none => false) then s.complete rid .notFound
      else if x.pend.isSome then s.complete rid .busyTeardown
      else if s.posPassed n (mkPos (s.refStep n r) 0 0) then s.complete rid .deadlineMissed
      else (s.setSched p { x with pend := some { disarm := true, slot := r.schedSlot, step := s.refStep n r, dom := n, rid := rid } }).wait
        rid (.disarm r.schedSlot)

def execScheduleDisarm (e : Env) (rid : Nat) (s : State) : Host.Outcome State Fault Refusal :=
  .next (effScheduleDisarm (s.enter e) rid)

/-- The new entries in place of those from `first` on. -/
def putEntries (t : Table Bytes) (first : Nat) : List Bytes → Table Bytes
  | [] => t
  | e :: es => putEntries (t.set first e) (first + 1) es

/-- What the pending arm or disarm does to the schedules of its partition. -/
def Sched.switched (x : Sched) (q : SchedPend) : Sched :=
  if q.disarm then { x with armed := none, pend := none }
  else
    let x := match x.img q.slot with
      | some im => x.setImg q.slot (some { im with table := putEntries im.table q.first q.entries, sqId := q.sqId, sqHead := q.sqHead })
      | none => x
    let same := match x.armed with | some a => a.1 == q.slot | none => false
    if same then { x with pend := none } else { x with armed := some (q.slot, q.step), dom := q.dom, pend := none, issued := [], selDone := [] }

/-- The reference of a pending arm or disarm is reached. -/
def effScheduleSwitch (s : State) (p : Nat) : State :=
  let x := s.sched p
  match x.pend with
  | some q =>
    let pos := mkPos q.step 0 0
    if !s.posPassed q.dom pos then s else (s.setSched p (x.switched q)).complete q.rid .ok { result0 := pos }
  | none => s

def execScheduleSwitch (e : Env) (part : Nat) (s : State) : Host.Outcome State Fault Refusal :=
  .next (effScheduleSwitch (s.enter e) part)

end Sys2Proof.Machine
end

