-- ==== Sys2Proof/Machine/Insts.lean ====
section
/-! DEFINITION. Event instances (R236 to R249): issue, the poll of a query's stamp, the commit point, completion; and the end of a
work unit (R256), whoever owns its job. -/

namespace Sys2Proof.Machine

open Sys2Proof

/-! ### An instance and its parts -/

def Inst.ev (x : Inst) : Bytes := imEvent x.image x.event
def Inst.tgt (x : Inst) : Bytes := imTarget x.image (evTarget x.ev)
/-- The deadline position of an instance (R245). -/
def Inst.deadline (x : Inst) : Nat := mkPos x.step (evLayer x.ev) (evDeadlinePhase x.ev)
/-- The owner number of an instance's holds and of its RDMA WRITEs. -/
def instOwner (id : Nat) : Nat := 2 ^ 48 + id

/-- The time of an instance's deadline and its commit point (R226, R245). -/
def State.instDeadline (s : State) (x : Inst) : Nat := s.posTime x.dom x.deadline
def State.instCommit (s : State) (x : Inst) : Nat := s.instDeadline x - s.get F.SCHED_CFG_MARGIN_NS

/-- An instance as the request whose buffers it reads and writes (R436). -/
def Inst.req (x : Inst) (handle : Nat) : Req :=
  { origin := .ring x.cq, part := x.part, ringSeq := x.seqNo, event := true, entry := leBytes 8 0 ++ leBytes 8 handle
    dstSpace := if tgKind x.tgt = 2 then 1 + tgQp x.tgt else 0, dstRkey := if tgKind x.tgt = 2 then tgRkey x.tgt else 0 }

/-- A missed view under a miss action; for LOCAL_ATTEND of a DELIVER, a leaf in HBM waits for the query (R246). -/
def View.missBy (v : View) (op act : Nat) : View :=
  if act = 1 && op ≤ 1 then v.miss
  else if act = 3 && op = 0 && v.tier = .hbm then { v with fate := 3 }
  else { v with fate := 2 }

/-! ### Issue (R236 to R238) -/

/-- The step whose issue position of an event was reached last. -/
def State.issueStep (s : State) (n : Nat) (layers : Nat) (e : Bytes) : Option Nat :=
  let cur := (s.beat n).step
  let pos (k : Nat) : Nat := mkPos k (evIssueLayer layers e) (evIssuePhase e)
  if s.posPassed n (pos cur) then some cur else if cur = 0 then none else some (cur - 1)

/-- The step that an event of the armed slot is due for, if it is due (R236). -/
def State.dueStep (s : State) (p ev : Nat) (x : Sched) (im : SchedImg) (since : Nat) : Option Nat :=
  let n := x.dom
  if (s.beat n).state = bOff || (s.beat n).state = bAcquiring then none
  else
    let e := imEvent im.bytes ev
    match s.issueStep n (imLayers im.bytes) e with
    | none => none
    | some k =>
      let serve := k + b2n (evWraps e)
      let before := match x.pend with | some q => (!q.disarm && q.slot == (x.armed.map (·.1)).getD false) || serve < q.step | none => true
      if since ≤ k && before && x.issued.getD ev 0 < serve + 1 then some serve else none

/-- The chunks of a range (R233; log entry 57). -/
def rangeChunks (q : Sequ) (range split cold : Nat) : List Nat :=
  let lo := if range = 0 then split else cold
  let hi := if range = 1 then split else q.totalChunks
  (List.range (hi - lo)).map (· + lo)

/-- The list of an earlier SELECT instance as the target memory holds it (R238); in confidential host mode under the nonce with
which that instance wrote it (log entry 19), with its tag checked (R437). -/
def State.eventList (s : State) (x : Inst) (handle at_ selSeq : Nat) : List Nat ⊕ Status :=
  let size (b : Bytes) : Nat := 64 + 8 * min 65535 (listCount b)
  let space := if tgKind x.tgt = 2 then 1 + tgQp x.tgt else 0
  let chm := s.confidential x.part && space == 0
  let nonce := chmNonce x.cq 5 6 selSeq
  let key := chmKey x.part (s.chms.getD x.part {}).epoch 0
  let open_ (b : Bytes) : Bytes := if chm then gcmBytes key nonce b else b
  match s.busRead (memKey space at_) (size (open_ (Memory.readBytes s.mem (memKey space at_) 64))) with
  | .failed => .inr .linkFailed
  | .poisoned => .inr .poisoned
  | .ok b =>
    let list := open_ b
    let cs := (listEntries list).map (·.chunk)
    let set : List Nat ⊕ Status := if listHeaderOk list handle && rising cs then .inl cs else .inr .badFormat
    if !chm then set
    else match s.busRead (memKey space (at_ + roundUp b.length 64)) 16 with
      | .failed => .inr .linkFailed
      | .poisoned => .inr .poisoned
      | .ok tag => if tag = gcmTag key nonce [] b then set else .inr .accessDenied

/-- The set of a slot: from its list, or from its range. -/
def State.slotSet (s : State) (x : Inst) (sd : Sched) (i : Nat) (entry : Bytes) (q : Sequ) : List Nat ⊕ Status :=
  let e := x.ev
  let range : List Nat ⊕ Status := .inl (rangeChunks q (evRange e) (sfield entry 8 27 0) (sfield entry 12 27 0))
  if evUseList e && evOp e ≤ 1 then
    match sd.selDone.get? (evListEvent e) with
    | some d =>
      if d.1 = x.step + 1 then
        let le := imEvent x.image (evListEvent e)
        s.eventList { x with event := evListEvent e } (fieldAt entry 0 8) (slotArea (imTarget x.image (evTarget le)) i (evLayer le)) d.2
      else range
    | none => range
  else range

/-- The status that a slot takes before its set is formed: its handle, its records, and the conditions of item 1 and 2 of R180
(log entry 20). -/
def State.slotCheck (s : State) (x : Inst) (r : Req) (q : Sequ) (sh : Bytes) : Option Status :=
  let e := x.ev
  match s.checkHandle r { code := 0, handle := .seq, read := true } with
  | .reserved => some .badDescriptor
  | .fail st => some st
  | .ok =>
    if s.shapeBad q.partition q.shapeIndex q.shapeEpoch then some .poisoned
    else if evLayer e ≥ shLayers sh || (evOp e = 1 && evQueries e * shQper sh > 256) then some .badDescriptor
    else if (evOp e = 1 && shPlanKind sh = 0) || (evOp e = 2 && shPolicy sh = 0) then some .badFormat
    else if tgKind x.tgt = 2 && (s.qps.getD (tgQp x.tgt) {}).partition != x.part then some .accessDenied
    else if tgKind x.tgt = 2 && (s.qps.getD (tgQp x.tgt) {}).state != .rts then some .linkFailed
    else none

/-- A slot with its holds and the misses that are known at the issue position (R237, R245). -/
def State.slotHeld (s : State) (x : Inst) (sl : InstSlot) (q : Sequ) (vs : List View) : InstSlot × State :=
  let e := x.ev
  let (js, s) := s.judgeLate (s.instCommit x) vs
  let vs := js.map (fun v => if v.fate = 0 then v else { v with fate := 0 }.missBy (evOp e) (evMiss e))
  if vs.any (fun v => v.fate == 0 && s.readFails v) then ({ sl with status := .mediaError, done := true }, s)
  else ({ sl with views := vs, done := evOp e = 0, total := tokenTotal q q (shTpl sl.sh) vs }, s)

/-- The holds of a slot's set, the leaves of an ATTEND to be read once its query is known (R183), or EVICTED with the chunk whose leaf is EVICTING and no hold left (R180, item 5). -/
def State.slotHolds (s : State) (id : Nat) (x : Inst) (q : Sequ) (cs : List Nat) : (List View ⊕ Nat) × State :=
  match s.holdSet (instOwner id) q (evLayer x.ev) (fun _ => evOp x.ev == 1) cs with
  | (.inr c, s) =>
    let mine := s.holds.filter (fun y => y.owner == instOwner id && cs.any (fun k => leafOf q (evLayer x.ev) k == y.leaf))
    (.inr c, mine.foldl (fun s y => s.unhold (instOwner id) y.leaf y.cid) s)
  | (.inl vs, s) => (.inl vs, s)

/-- A SELECT slot at its issue position: its set and the chunks that take no rows are fixed (R205), and its candidates are held
where it would be scored on Spires (R194). -/
def State.formSelect (s : State) (id : Nat) (x : Inst) (sl : InstSlot) (q : Sequ) (cs : List Nat) : Option (InstSlot × State) :=
  let sl := { sl with views := cs.map (fun c => { chunk := c }), forced := forcedOf sl.sh q cs }
  if !(s.exactWhy x.part sl.sh).1 then some (sl, s)
  else if !s.canHoldAll q (evLayer x.ev) (candsOf sl.sh q cs) then none
  else match s.slotHolds id x q (candsOf sl.sh q cs) with
    | (.inr c, s) => some ({ sl with status := .evicted, done := true, detail := c % 2 ^ 28 }, s)
    | (.inl vs, s) =>
      some ({ sl with exact := true, views := cs.map (fun c => (vs.find? (fun v => v.chunk == c)).getD { chunk := c }) }, s)

/-- One slot formed: none where its holds cannot be counted yet. -/
def State.formSlot (s : State) (id : Nat) (x : Inst) (sd : Sched) (i : Nat) (entry : Bytes) : Option (InstSlot × State) :=
  let e := x.ev
  let h := fieldAt entry 0 8
  let q := s.seq (hSeq h)
  let sh := s.seqShape q
  let sl : InstSlot := { entry := i, handle := h, sh := sh }
  let fail (st : Status) (d : Nat) : InstSlot := { sl with status := st, done := true, detail := d }
  match s.slotCheck x (x.req h) q sh with
  | some st => some (fail st 0, s)
  | none =>
    match s.slotSet x sd i entry q with
    | .inr st => some (fail st 0, if st = .accessDenied then (s.bump F.SEC_TAG_FAIL_COUNT).security 3 x.part else s)
    | .inl cs =>
      if cs = [] then some ({ sl with done := true }, s)
      else match chunkChecks q (q.partition != x.part) cs with
        | some st => some (fail st 0, s)
        | none =>
          if evOp e = 2 then s.formSelect id x sl q cs
          else if !s.canHoldAll q (evLayer e) cs then none
          else match s.slotHolds id x q cs with
            | (.inr c, s) => some (fail .evicted (c % 2 ^ 28), s)
            | (.inl vs, s) => some (s.slotHeld x sl q vs)

/-- The slots of an instance, in slot order, those with an empty entry left out. -/
def State.formSlots (s : State) (id : Nat) (x : Inst) (sd : Sched) (im : SchedImg) : List Nat → Option (List InstSlot × State)
  | [] => some ([], s)
  | i :: is =>
    let entry := im.table.getD i []
    if fieldAt entry 0 8 = 0 then State.formSlots s id x sd im is
    else match s.formSlot id x sd i entry with
      | none => none
      | some (sl, s) => match State.formSlots s id x sd im is with
        | none => none
        | some (sls, s) => some (sl :: sls, s)

/-- An instance issued for a step. -/
def State.issue (s : State) (p ev step : Nat) (slot : Bool) (im : SchedImg) : State :=
  let e := imEvent im.bytes ev
  let c := schedCq p im.bytes
  let sd := s.sched p
  let mark (s : State) : State := s.setSched p { s.sched p with issued := (s.sched p).issued.set ev (step + 1) }
  if !s.cqHasRoom c then (((mark s).bump F.SCHED_DROPPED_COUNT).raise gDeadline 0)
  else
    let seqNo := (s.cqs.getD c {}).instSeq
    let x : Inst := {
      part := p, slot := slot, image := im.bytes, epoch := im.epoch, event := ev, step := step, cq := c, seqNo := seqNo, dom := sd.dom
      sqId := im.sqId, sqHead := im.sqHead, beatLost := (s.beat sd.dom).state == bLost
      bad := s.recBad 3 (p * 2 + b2n slot) }
    let id := s.instSeq
    let slots := if x.bad then some ([], s) else s.formSlots id x sd im ((List.range (evSlotCount e)).map (· + evSlotFirst e))
    match slots with
    | none => s
    | some (sls, s) =>
      let s := (mark s).cqReserve c
      let s := { s with
        cqs := s.cqs.set c { (s.cqs.getD c {}) with instSeq := seqNo + 1 }
        insts := s.insts.set id { x with slots := sls }, instSeq := id + 1 }
      s.bump F.SCHED_ISSUED_COUNT

def effEventIssue (s : State) (p ev : Nat) : State :=
  let x := s.sched p
  if !s.serves then s else match x.armed with
  | none => s
  | some (slot, since) => match x.img slot with
    | none => s
    | some im =>
      if ev ≥ imEvents im.bytes then s
      else match s.dueStep p ev x im since with
        | some step => s.issue p ev step slot im
        | none => s

def execEventIssue (e : Env) (p ev : Nat) (s : State) : Host.Outcome State Fault Refusal := .next (effEventIssue (s.enter e) p ev)

/-! ### Changing an instance -/

def State.setInst (s : State) (id : Nat) (x : Inst) : State := { s with insts := s.insts.set id x }

/-- A slot of an instance replaced. -/
def State.setSlot (s : State) (id k : Nat) (sl : InstSlot) : State :=
  { s with insts := s.insts.modify id (fun x => { x with slots := modifyAt (fun _ => sl) k x.slots }) }

/-- What a finished job brings to its slot. -/
def State.slotResult (s : State) (sl : InstSlot) (j : Job) : InstSlot × State :=
  if j.kind = 1 || j.kind = 3 then
    if j.selPoisoned then ({ sl with status := .poisoned, done := true }, s)
    else
      let (b, n, kth) := j.listOut
      ({ sl with tail := b, res0 := n, res1 := kth, late := j.selLate, done := true }, s)
  else
    let (o, ml, sat) := j.outBytes
    let s := s.bump F.QUANT_SATURATED_COUNT sat
    let bad := j.badHeads
    let st : Status := if bad = [] then .ok else .poisoned
    let detail := match j.firstBad with | some c => min (2 ^ 24 - 1) c + min 255 bad.length * 2 ^ 24 | none => 0
    if j.kind = 2 then ({ sl with status := st, detail := detail, tail := o ++ ml, localCount := j.views.length, done := true }, s)
    else ({ sl with
      status := st, detail := detail, tail := o ++ ml, views := j.views, done := true
      res0 := j.views.countP (fun v => v.fate ≤ 1), res1 := j.views.countP (fun v => v.fate == 2) }, s)

/-- A job of an instance ends. -/
def State.finishSlot (s : State) (id k : Nat) (j : Job) : State :=
  match s.insts.get? id with
  | none => s
  | some x => match x.slots[k]? with
    | none => s
    | some sl =>
      let (sl, s) := s.slotResult sl j
      s.setSlot id k sl

/-- A job ends: its owner takes what it brings. -/
def State.finishJob (s : State) (id : Nat) (j : Job) : State :=
  let s := s.dropJob id
  match j.owner with
  | .inst i k => s.finishSlot i k j
  | .req rid => match s.req? rid with
    | none => s
    | some r => if j.kind = 1 then s.finishSelect rid r j else s.finishAttend rid r j

/-! ### The stamp (R239) -/

/-- The job of a slot's query. -/
def Inst.job (x : Inst) (id k : Nat) (sl : InstSlot) (qb : Bytes) : Job :=
  let e := x.ev
  { owner := .inst id k, kind := if evOp e = 0 then 2 else if evOp e = 2 then 3 else 0, part := x.part, handle := sl.handle, sh := sl.sh, qblock := qb
    qbf16 := evQueryBf16 e, outBf16 := evOutBf16 e, nq := if evOp e = 2 then 1 else evQueries e, total := sl.total
    layer := evLayer e, k := evK e, proxy := evProxy e, pband := if evProxy e then half (evProxyBand e) else 0 }

/-- A query that has come for an ATTEND or a LOCAL_ATTEND: the work starts. -/
def State.slotAttend (s : State) (id k : Nat) (sl : InstSlot) (j : Job) : State :=
  let vs := if j.kind = 2 then sl.views.filter (fun v => v.fate == 3) else sl.views
  let vs := vs.map (fun v => if j.leafMasked v.chunk then { v with fate := 4 } else v)
  let s := if j.kind = 2 then s else s.readHeld (vs.filter View.isRead)
  (s.setSlot id k { sl with asked := true, done := false }).startJob { j with views := vs, maxSpires := s.spireLimit j.part j.sh }

/-- A SELECT slot on Lantern: it takes arrays, and waits as a descriptor does (R206). -/
def State.slotLantern (s : State) (id k : Nat) (x : Inst) (sl : InstSlot) (q : Sequ) (j : Job) (cands : List Nat) : State :=
  match s.arraysOf (instOwner id, k) j.sh cands.length with
  | none => s
  | some as =>
    let s := s.takeArrays (instOwner id, k) as
    if !s.lanternGranted as then s
    else
      let y := s.runLantern j (some (s.instCommit x)) q as cands
      (y.2.setSlot id k { sl with asked := true, late := y.1.selLate }).finishSlot id k y.1

/-- A query that has come for a SELECT: the candidates are scored. -/
def State.slotSelect (s : State) (id k : Nat) (x : Inst) (sl : InstSlot) (j : Job) : State :=
  let q := s.seq (hSeq sl.handle)
  let j := { j with forced := sl.forced }
  let cands := (sl.views.map (·.chunk)).filter (fun c => !sl.forced.any (fun f => f.1 == c))
  let (exact, fell) := s.exactWhy x.part sl.sh
  if sl.exact = true then
    let (j, s) := s.runHeld j q (sl.views.filter (fun v => cands.contains v.chunk)) fell
    let s := s.setSlot id k { sl with asked := true }
    if j.views = [] then s.finishSlot id k j
    else s.startJob { j with maxSpires := s.spireLimit j.part j.sh }
  else if (exact && !s.onArrays (instOwner id, k)) = true then
    if !s.canHoldAll q j.layer cands then s
    else
      let (j, s) := s.runExact (instOwner id) j q cands fell
      let s := s.setSlot id k { sl with asked := true }
      if j.views = [] then s.finishSlot id k j
      else s.startJob { j with maxSpires := s.spireLimit j.part j.sh }
  else
    s.slotLantern id k x sl q j cands

/-- Whether a slot waits for a query now. -/
def Inst.wantsQuery (x : Inst) (sl : InstSlot) : Bool :=
  !sl.asked && sl.status == .ok && tgQueryBase x.tgt != 0
    && (if evOp x.ev = 0 then x.commit && evMiss x.ev == 3 && sl.views.any (fun v => v.fate == 3) && shPlanKind sl.sh != 0
        else !x.commit && !sl.done)

/-- The address of a slot's query area, and whether its stamp is the one awaited. -/
def Inst.queryAt (x : Inst) (sl : InstSlot) : Nat := queryArea x.tgt sl.entry (evQueryLayer x.ev)
def State.stampReady (s : State) (x : Inst) (sl : InstSlot) : Bool :=
  match s.busRead (memKey 0 (x.queryAt sl)) 8 with
  | .ok b => leNat b == mkPos x.step (evQueryLayer x.ev) 0
  | _ => false

/-- A poll of the query area of slot `k` of an instance. -/
def effQueryStampPoll (s : State) (id k : Nat) : State :=
  match s.insts.get? id with
  | none => s
  | some x => match x.slots[k]? with
    | none => s
    | some sl =>
      if !x.wantsQuery sl || x.result.isSome || !s.stampReady x sl then s
      else
        let nq := if evOp x.ev = 2 then 1 else evQueries x.ev
        let r := x.req sl.handle
        match s.bufRead r 3 (x.queryAt sl + 64) (queryBytes sl.sh nq (evQueryBf16 x.ev)) with
        | .fail st => (s.noteTag r st).setSlot id k { sl with status := st, asked := true, done := true }
        | .ok qb =>
          if !queryOk sl.sh nq (evQueryBf16 x.ev) qb then s.setSlot id k { sl with status := .badFormat, asked := true, done := true }
          else
            let j := x.job id k sl qb
            if evOp x.ev = 2 then s.slotSelect id k x sl j else s.slotAttend id k sl j

def execQueryStampPoll (e : Env) (inst k : Nat) (s : State) : Host.Outcome State Fault Refusal :=
  .next (effQueryStampPoll (s.enter e) inst k)

/-! ### The commit point (R245, R246) -/

/-- The units of a job that a Spire runs now. -/
def State.runningUnits (s : State) (id : Nat) : List Nat :=
  s.spires.filterMap (fun x => match x.2.running with | some u => if u.job = id then some u.idx else none | none => none)

/-- The views of a job that are not consumed: those of its queued units, and of a running one as it may be (log entry 4). -/
def State.missJob (s : State) (id : Nat) (j : Job) (f : View → View) : Job × State :=
  let run := s.runningUnits id
  let missed := j.left.filter (fun u => !run.contains u || Config.freeNat (s.freeCtr + u) % 2 == 1)
  let s := { s with freeCtr := s.freeCtr + unitCount j.sh j.views.length }
  let n := j.views.length
  let hit (i : Nat) : Bool := missed.any (fun u => unitRun j.sh n u == i / runLen j.sh n)
  let gone := (j.views.mapIdx (fun i v => if hit i then some v.chunk else none)).filterMap (fun o => o)
  let s := s.bump F.LANTERN_UNSCORED_COUNT (j.cands.countP (fun c => c.scored && gone.contains c.chunk))
  ({ j with
     views := j.views.mapIdx (fun i v => if hit i && v.fate = 0 then f v else v)
     cands := j.cands.map (fun c => if gone.contains c.chunk then { c with scored := false, late := true } else c) }, s)

/-- A timed request whose work on Spires is not done at its commit point (R247). -/
def State.commitReq (s : State) (rid : Nat) : State :=
  match s.req? rid with
  | none => s
  | some r => match r.wait, s.commitTime? r with
    | .job id, some t => match s.jobs.get? id with
      | none => s
      | some j =>
        if s.time < t then s
        else if !r.fDegradeOk then (s.dropJob id).complete rid .deadlineMissed
        else
          let (j, s) := s.missJob id j View.miss
          s.finishJob id j
    | _, _ => s

/-- A DELIVER slot at the commit point: a leaf whose block write has not started is missed; which have is not given (log
entry 4; log entry 72). -/
def State.commitDeliver (s : State) (act : Nat) : List View → List View × State
  | [] => ([], s)
  | v :: vs =>
    let (x, s) := if v.fate = 0 then s.free else (0, s)
    let (rest, s) := State.commitDeliver s act vs
    ((if v.fate = 0 && x % 2 = 1 then v.missBy 0 act else v) :: rest, s)

/-- The job of a slot that runs. -/
def State.slotJob? (s : State) (id k : Nat) : Option (Nat × Job) := s.jobs.find? (fun x => x.2.owner == .inst id k)

/-- One slot of an instance at its commit point. -/
def State.commitSlot (s : State) (id k : Nat) (x : Inst) (sl : InstSlot) : State :=
  let (op, act) := (evOp x.ev, evMiss x.ev)
  if sl.status != .ok then s
  else if op = 0 then
    let (vs, s) := s.commitDeliver act sl.views
    let sl := { sl with views := vs }
    s.setSlot id k { sl with noQuery := vs.any (fun v => v.fate == 3) && !s.stampReady x sl }
  else if sl.done then s
  else match s.slotJob? id k with
    | some (jid, j) =>
      let (j, s) := s.missJob jid j (fun v => v.missBy op act)
      s.finishJob jid j
    | none =>
      -- the query has not come: every leaf is missed and nothing can stand in for one
      let j := x.job id k sl []
      let s := s.setSlot id k { sl with noQuery := true }
      if op = 2 then
        let cs := (sl.views.map (·.chunk)).filter (fun c => !sl.forced.any (fun f => f.1 == c))
        (s.bump F.LANTERN_UNSCORED_COUNT cs.length).finishSlot id k { j with
          kind := if sl.exact then 1 else 3, forced := sl.forced, cands := cs.map (fun c => { chunk := c, late := true }) }
      else s.finishSlot id k { j with views := sl.views.map (fun v => { v with fate := 2 }) }

/-- The commit point of an instance (log entry 72). -/
def State.commitInst (s : State) (id : Nat) : State :=
  match s.insts.get? id with
  | none => s
  | some x =>
    if x.commit || x.result.isSome || s.time < s.instCommit x then s
    else (x.slots.mapIdx (fun k sl => (k, sl))).foldl (fun s y => s.commitSlot id y.1 x y.2) (s.setInst id { x with commit := true })

def effCommitPoint (s : State) (inst : Bool) (id : Nat) : State :=
  if inst = true then s.commitInst id else s.commitReq id

def execCommitPoint (e : Env) (inst : Bool) (id : Nat) (s : State) : Host.Outcome State Fault Refusal :=
  .next (effCommitPoint (s.enter e) inst id)

/-! ### Completion (R240, R242, R243, R248) -/

/-- Whether a slot has had a miss. -/
def InstSlot.missed (sl : InstSlot) : Bool := sl.status == .ok && (sl.late || sl.views.any (fun v => v.fate ≥ 1 && v.fate ≤ 3))

/-- What a slot adds to the completion of its instance. -/
structure SlotOut where
  st : Status := .ok
  res0 : Nat := 0
  res1 : Nat := 0
  poisonChunk : Nat := 0
  poisonCount : Nat := 0
  deriving DecidableEq, Repr

/-- What follows a slot's data: a first flush, then its map record, with the bytes behind it (log entry 71), and the flush that a write to
accelerator memory takes before the completion entry (R84, R243). -/
def State.slotMap (s : State) (x : Inst) (id : Nat) (sl : InstSlot) (last : Option Nat) (st0 : Bool → Status) (es : List Nat) (path : Nat)
    (tail : Bytes) : Status × Nat × State :=
  let r := x.req sl.handle
  let link := match last with | some a => !s.flushed r 1 a | none => false
  let st := st0 link
  let m := mapRecord x.deadline es st path (lastTokens sl.views) sl.localCount ++ tail
  let at_ := slotArea x.tgt sl.entry (evLayer x.ev) + tgMapOffset x.tgt
  let s := s.bufWrite r 8 at_ m [] (instOwner id)
  (if st = .ok || st = .okPartial || st = .okDegraded then (if s.flushed r (tgKind x.tgt) (at_ + m.length - 1) then st else .linkFailed) else st,
    m.length, s)

/-- A slot that brings nothing: a map record alone, every entry 0. -/
def State.slotEmpty (s : State) (x : Inst) (id : Nat) (sl : InstSlot) (st : Status) (path : Nat) : SlotOut × State :=
  let (st, n, s) := s.slotMap x id sl none (fun _ => st) (sl.views.map (fun _ => 0)) path []
  ({ st := st, res0 := sl.views.length * 2 ^ 32, res1 := n }, s)

/-- The writes of a DELIVER slot. -/
def State.slotDeliver (s : State) (x : Inst) (id : Nat) (sl : InstSlot) (f : FpFmt) (path : Nat) : SlotOut × State :=
  let r := x.req sl.handle
  let base := slotArea x.tgt sl.entry (evLayer x.ev)
  let n := blockSize sl.sh f
  let s := sl.views.foldl (fun s v => if v.fate = 0 then s.decodeAny v else s) s
  let s := s.putBlocks r (instOwner id) base sl.sh f sl.views
  let bad := (sl.views.filter View.delPoisoned).map (·.chunk)
  let wrote := sl.views.countP View.delivered
  let last := (lastWritten sl.views).map (fun i => base + n * (i + 1) - 1)
  let left := sl.views.countP (fun v => v.fate ≥ 2) - sl.localCount
  let soft := sl.views.any (fun v => v.fate == 1) || sl.localCount != 0
  let (st, m, s) := s.slotMap x id sl last (fun link => statusOf (bad != [] || sl.status == .poisoned) false link (left != 0) soft)
    (sl.views.map View.mapEntry) path sl.tail
  let good := sl.views.countP (fun v => v.delivered && !v.delPoisoned)
  ({ st := st, res0 := good + (sl.views.length - good) * 2 ^ 32, res1 := n * wrote + m
     poisonChunk := if bad != [] then bad.headD 0 else sl.detail % 2 ^ 24
     poisonCount := if bad != [] then bad.length else sl.detail / 2 ^ 24 }, s)

/-- The writes of an ATTEND slot. -/
def State.slotOutputs (s : State) (x : Inst) (id : Nat) (sl : InstSlot) (path : Nat) : SlotOut × State :=
  let r := x.req sl.handle
  let base := slotArea x.tgt sl.entry (evLayer x.ev)
  let s := s.bufWrite r 6 base sl.tail [] (instOwner id)
  let bad := sl.status == .poisoned
  let soft := sl.views.any (fun v => v.fate == 1)
  let (st, _, s) := s.slotMap x id sl (some (base + sl.tail.length - 1)) (fun link => statusOf bad false link (sl.res1 != 0) soft)
    (sl.views.map (fun v => if v.badHeads != [] then 3 else v.mapEntry)) path []
  ({ st := st, res0 := sl.res0, res1 := sl.res1, poisonChunk := sl.detail % 2 ^ 24, poisonCount := sl.detail / 2 ^ 24 }, s)

/-- The writes of a SELECT slot: its list, which has no map record. -/
def State.slotList (s : State) (x : Inst) (id : Nat) (sl : InstSlot) : SlotOut × State :=
  let r := x.req sl.handle
  let base := slotArea x.tgt sl.entry (evLayer x.ev)
  let s := s.bufWrite r 6 base sl.tail [] (instOwner id)
  let link := !s.flushed r 1 (base + sl.tail.length - 1)
  ({ st := statusOf false false link false sl.late, res0 := sl.res0, res1 := sl.res1 }, s)

/-- The target bytes of a slot whose instance completes DEADLINE_MISSED are undefined (R88, R246; log entry 71). -/
def State.slotUndefined (s : State) (x : Inst) (id : Nat) (sl : InstSlot) (f : FpFmt) : State :=
  let r := x.req sl.handle
  let base := slotArea x.tgt sl.entry (evLayer x.ev)
  let n := if evOp x.ev = 0 then blockSize sl.sh f * sl.views.length else sl.tail.length
  let (b, s) := s.freeBytes n
  let s := s.bufWrite r 6 base b [] (instOwner id)
  if evOp x.ev = 2 then s
  else
    let (b, s) := s.freeBytes (64 + roundUp (ceilDiv sl.views.length 4) 64)
    s.bufWrite r 8 (base + tgMapOffset x.tgt) b [] (instOwner id)

/-- The writes of a slot by operation; a slot with a failing status or an empty range brings its map record alone (R233, R237). -/
def State.slotWrite (s : State) (x : Inst) (id : Nat) (skip : Bool) (path : Nat) (f : FpFmt) (sl : InstSlot) : SlotOut × State :=
  let op := evOp x.ev
  let failed := sl.status.isFailure && (sl.status != .poisoned || sl.tail = [])
  if op = 2 then
    if failed then s.slotEmpty x id { sl with views := [] } sl.status 0
    else if skip then ({}, s)
    else if sl.views = [] then s.slotEmpty x id sl .ok 0
    else s.slotList x id sl
  else if failed then s.slotEmpty x id sl sl.status 0
  else if skip then if op = 0 then s.slotEmpty x id sl .okPartial path else ({ st := .okPartial, res1 := sl.views.length }, s)
  else if op = 0 then s.slotDeliver x id sl f path
  else if sl.views = [] then s.slotEmpty x id sl .ok 0
  else s.slotOutputs x id sl path

/-- All slots written in slot order. -/
def State.slotWrites (s : State) (x : Inst) (id : Nat) (skip : Bool) (path : Nat) (f : FpFmt) : List InstSlot → List SlotOut × State
  | [] => ([], s)
  | sl :: sls =>
    let (o, s) := s.slotWrite x id skip path f sl
    let (os, s) := State.slotWrites s x id skip path f sls
    (o :: os, s)

/-- The path field of an instance: the miss action that some leaf has taken (R248). -/
def Inst.path (x : Inst) : Nat :=
  let vs := x.slots.flatMap (fun sl => if sl.status == .ok || sl.status == .poisoned then sl.views else [])
  if !x.slots.any InstSlot.missed then 0
  else match evMiss x.ev with
    | 1 => if vs.any (fun v => v.fate == 1) then 1 else 2
    | 3 => if x.slots.any (fun sl => sl.localCount != 0) then 3 else 2
    | a => a

/-- Detail for OK_DEGRADED and OK_PARTIAL, over all slots (R248). -/
def Inst.softDetail (x : Inst) (late : Bool) : Nat :=
  let shadows := (x.slots.map (fun sl => sl.views.countP (fun v => v.fate == 1))).sum
  let loc := (x.slots.map (·.localCount)).sum
  min 65535 shadows + min 16383 loc * 2 ^ 16 + b2n (x.slots.any (·.noQuery)) * 2 ^ 30 + b2n late * 2 ^ 31

/-- The status and the entry of an instance whose slots have brought these. -/
def Inst.outcome (x : Inst) (os : List SlotOut) (late : Bool) : Status × Cpl :=
  let bad := os.filter (fun o => o.st == .poisoned && o.poisonCount != 0)
  let poisoned := x.bad || os.any (fun o => o.st == .poisoned)
  let missed := x.slots.any InstSlot.missed
  let left := x.slots.any (fun sl => sl.status == .ok && sl.views.countP (fun v => v.fate == 2 || v.fate == 3) > sl.localCount && evOp x.ev != 2)
  let partial_ := left || (missed && evMiss x.ev == 4) || os.any (fun o => o.st.code ≥ 0x10)
  let soft := x.slots.any (fun sl => sl.late || sl.localCount != 0 || sl.views.any (fun v => v.fate == 1))
  let st := statusOf poisoned (missed && evMiss x.ev == 0) false partial_ soft
  (st, {
    result0 := (os.map (fun o => o.res0 % 2 ^ 32)).sum % 2 ^ 32 + (os.map (fun o => o.res0 / 2 ^ 32)).sum % 2 ^ 32 * 2 ^ 32
    result1 := (os.map (·.res1)).sum, path := x.path, beatLost := x.beatLost, poisoned := poisoned
    approximate := evOp x.ev == 2 && evProxy x.ev
    detail := if poisoned then (match bad with
        | o :: _ => min (2 ^ 24 - 1) o.poisonChunk + min 255 ((bad.map (·.poisonCount)).sum) * 2 ^ 24
        | [] => 0)
      else if st = .okPartial || st = .okDegraded then x.softDetail late else 0 })

/-- The writes of an instance, and how it completes. -/
def State.instWrite (s : State) (id : Nat) (x : Inst) : State :=
  let f := (plainFmt? (evFormat x.ev)).getD fp32
  let missed := x.slots.any InstSlot.missed
  let late := s.time > s.instDeadline x
  let (os, s) : List SlotOut × State :=
    if x.bad then ([], s)
    else if missed && evMiss x.ev = 0 && !x.slots.any (fun sl => sl.status == .poisoned || sl.views.any View.delPoisoned) then
      ([], x.slots.foldl (fun s sl => if sl.status = .ok then s.slotUndefined x id sl f else s) s)
    else s.slotWrites x id (missed && evMiss x.ev == 4) x.path f x.slots
  let s := if late && !x.bad then s.bump F.SCHED_LATE_COUNT else s
  s.setInst id { x with result := some (x.outcome os late) }

/-- The completion entry of an instance, or its reservation returned (R240). -/
def State.instComplete (s : State) (id : Nat) (x : Inst) (st : Status) (c : Cpl) : State :=
  let s := { s with insts := s.insts.erase id }
  let s := if st = .okDegraded then s.bump F.SCHED_DEGRADED_COUNT else if st = .okPartial then s.bump F.SCHED_PARTIAL_COUNT else s
  let s := if st = .poisoned then (s.bump F.RAS_POISON_CONSUMED_COUNT).raisePoison x.part else s
  let s := if st != .ok && s.on F.SCHED_CFG_MISS_IRQ then s.raise gDeadline 1 else s
  let s := if evOp x.ev = 2 && (st = .ok || st = .okDegraded) then
      s.setSched x.part { s.sched x.part with selDone := (s.sched x.part).selDone.set x.event (x.step + 1, x.seqNo) }
    else s
  if x.cq ≥ 1024 then s
  else if evReportAll x.ev || st != .ok then
    s.postCq x.cq false (fun ph => cplBytes (evTag x.ev) st c ph x.sqId x.sqHead s.time)
  else s.cqUnreserve x.cq

/-- Whether some slot's work still runs. -/
def Inst.busy (x : Inst) : Bool :=
  x.slots.any (fun sl => if evOp x.ev = 0 then sl.asked && !sl.done else !sl.done)

/-- An instance completes when its slots are done, its writes sent, and RDMA WRITEs acknowledged. -/
def effEventCompletion (s : State) (id : Nat) : State :=
  let s := s.commitInst id
  match s.insts.get? id with
  | none => s
  | some x =>
    if x.busy then s
    else
      let s := if x.result.isNone then s.instWrite id x else s
      match s.insts.get? id with
      | none => s
      | some x => match x.result with
        | none => s
        | some (st, c) =>
          if tgKind x.tgt = 2 && (s.qps.getD (tgQp x.tgt) {}).outstanding.any (fun o => o.rid == instOwner id && o.kind == 1) then s
          else s.instComplete id x st c

def execEventCompletion (e : Env) (inst : Nat) (s : State) : Host.Outcome State Fault Refusal :=
  .next (effEventCompletion (s.enter e) inst)

/-! ### Work units (R256) -/

/-- A unit finishes on a Spire: the assigned one starts, the dispatcher places others, and a job without units left ends. The
dispatcher and the merges run on Saplings, so nothing finishes while no cluster is on (R253). -/
def effWorkUnitFinish (s : State) (n : Nat) : State :=
  match (s.spire n).running with
  | none => s
  | some u =>
    if !s.anyCluster then s
    else
      let x := s.spire n
      let s := (s.bump F.SPIRE_UNITS_COUNT 1 n).setSpire n { x with
        running := none, assigned := none, busyNs := x.busyNs + (s.time - x.started) }
      let s := match x.assigned with | some v => s.startUnit n v | none => s
      let s := s.dispatch
      match s.jobs.get? u.job with
      | none => s
      | some j =>
        let j := { j with left := j.left.erase u.idx }
        let s := { s with jobs := s.jobs.set u.job j }
        if j.left = [] then s.finishJob u.job j else s

def execWorkUnitFinish (e : Env) (spire : Nat) (s : State) : Host.Outcome State Fault Refusal :=
  .next (effWorkUnitFinish (s.enter e) spire)

end Sys2Proof.Machine
end

