-- ==== Sys2Proof/Machine/PoolOps.lean ====
section
/-! DEFINITION. The memory pool port (R322 to R336, R341 to R343): extents and their release, bandwidth buckets, POOL_FLUSH,
POOL_LEASE, and the failures of targets and of the link. -/

namespace Sys2Proof.Machine

open Sys2Proof

/-! ### Extents (R324) -/

/-- The memory space in which the bytes of shared windows lie, by pool address (log entry 3). -/
def poolSpace : Nat := 2 ^ 19

def State.extent? (s : State) (k : Nat) : Option Extent := s.pool.exts.get? k
def State.setExtent (s : State) (k : Nat) (x : Extent) : State := { s with pool := { s.pool with exts := s.pool.exts.set k x } }
def State.dropExtent (s : State) (k : Nat) : State := { s with pool := { s.pool with exts := s.pool.exts.erase k } }

/-- Whether a byte range lies wholly within an extent. -/
def Extent.holds (x : Extent) (addr len : Nat) : Bool := x.base * 2 ^ 21 ≤ addr && addr + len ≤ (x.base + x.len) * 2 ^ 21

/-- The extent of a range that a partition may flush, lease and stage in (R329): SHARED, its own, in ADMIT. -/
def State.sharedExt? (s : State) (p addr len : Nat) : Option (Nat × Extent) :=
  s.pool.exts.find? (fun x => x.2.kind == 2 && x.2.state == 1 && x.2.owner == some p && x.2.holds addr len)

/-- Whether a run of 2 MiB units meets an extent that is not free. -/
def State.unitsTaken (s : State) (base len : Nat) : Bool :=
  s.pool.exts.any (fun x => x.2.state != 0 && x.2.base < base + len && base < x.2.base + x.2.len)

/-- The lowest base below the top of pool address space at which a run fits: 0 or the end of an extent (R325). -/
def State.lowestBase (s : State) (len : Nat) : Option Nat :=
  let tops := s.pool.exts.filterMap (fun x => if x.2.state = 0 then none else some (x.2.base + x.2.len))
  ((0 :: tops).mergeSort (fun a b => a ≤ b)).find? (fun b => b + len ≤ 2 ^ 24 && !s.unitsTaken b len)

/-- An entry that holds no extent, whichever the device takes (log entry 5). -/
def State.pickExtent (s : State) : Option Nat × State :=
  s.pick (fun k => match s.extent? k with | some x => x.state != 0 | none => false) 256

/-- A Dynamic Capacity Device offers an extent of 2 MiB units (R325; log entry 93). -/
def effDcOffer (s : State) (target len : Nat) : State :=
  if !s.poolUp || target ≥ 64 || len = 0 then s
  else
    let (slot, s) := s.pickExtent
    let s := match s.on F.POOL_CFG_DC_ACCEPT, slot, s.lowestBase len with
      | true, some k, some b =>
        (s.setExtent k { base := b, len := len, target := target, kind := s.get F.POOL_CFG_DC_KIND,
                         owner := some (s.get F.POOL_CFG_DC_OWNER), dynamic := true, state := 1 }).send (.pool 1 k)
      | _, _, _ => s.send (.pool 0 target)
    s.raise gPool 0

def execDcOffer (e : Env) (target len : Nat) (s : State) : Host.Outcome State Fault Refusal :=
  .next (effDcOffer (s.enter e) target len)

/-- A static extent added as configured; an overlap, or a target that does not map it, leaves it out, and so does a
range that passes the top of pool address space (R15, R324, R344). -/
def effPoolExtAdd (s : State) (k : Nat) : State :=
  match s.extent? k with
  | none => s
  | some x =>
    let mapped := s.pool.targets.any (fun t => t.1 == x.target && t.2.1 ≤ x.base && x.base + x.len ≤ t.2.1 + t.2.2)
    if x.state != 0 || x.len = 0 || x.kind = 0 || x.kind = 3 || s.unitsTaken x.base x.len || !mapped || k ≥ 256 || x.base + x.len > 2 ^ 24 then s
    else s.setExtent k { x with state := 1, dynamic := false, blocked := false }

def execPoolExtAdd (e : Env) (ext : Nat) (s : State) : Host.Outcome State Fault Refusal :=
  .next (effPoolExtAdd (s.enter e) ext)

/-! ### Bandwidth and DevLoad (R327) -/

/-- The cap of the buckets in bytes. -/
def State.poolBurst (s : State) : Nat :=
  1024 * (let b := s.get F.POOL_BW_CFG_BURST_KIB; if b = 0 then 256 else b)

/-- A rate factor at a refill, by the worst DevLoad of the interval. -/
def nextFactor (f w : Nat) : Nat :=
  let f := match w with
    | 3 => f - f / 4
    | 2 => f - f / 16
    | 0 => f + 8
    | _ => f
  min 256 (max 16 f)

/-- A refill of both kinds of buckets. The operands give, for each target that answered in the interval, its worst and its last
DevLoad and the median latency of its reads (R327, R328). -/
def effPoolBwRefill (s : State) (loads : List (Nat × Nat × Nat × Nat)) : State :=
  let us := max 1 (s.get F.POOL_BW_CFG_INTERVAL_US)
  let burst := s.poolBurst
  let worst (t : Nat) : Nat := match loads.find? (fun l => l.1 == t) with | some l => l.2.1 % 4 | none => 0
  let fell := (List.range 64).any (fun t => nextFactor (s.get F.POOL_TARGET_LOAD_FACTOR t) (worst t) < s.get F.POOL_TARGET_LOAD_FACTOR t)
  let s := (List.range 64).foldl (fun s t =>
    let f := nextFactor (s.get F.POOL_TARGET_LOAD_FACTOR t) (worst t)
    let s := s.put F.POOL_TARGET_LOAD_FACTOR f t
    { s with pool := { s.pool with tgtCredit := s.pool.tgtCredit.set t (min burst (s.pool.tgtCredit.getD t 0 + 500 * f * us)) } }) s
  let s := (List.range 128).foldl (fun s p =>
    let c := s.pool.partCredit.getD p 0 + s.get F.PART_POOL_BW_GBPS p * 1000 * us
    { s with pool := { s.pool with partCredit := s.pool.partCredit.set p (min burst c) } }) s
  let s := loads.foldl (fun s l =>
    if l.1 ≥ 64 then s
    else (s.put F.POOL_TARGET_LOAD_DEVLOAD (l.2.2.1 % 4) l.1).put F.POOL_TARGET_LOAD_LAT_NS (min 65535 l.2.2.2) l.1) s
  if fell then s.bump F.POOL_THROTTLED_COUNT else s

def execPoolBwRefill (e : Env) (loads : List (Nat × Nat × Nat × Nat)) (s : State) : Host.Outcome State Fault Refusal :=
  .next (effPoolBwRefill (s.enter e) loads)

/-! ### Flush (R329, R330) -/

/-- The lines of a range discarded from the read buffers (log entry 90). -/
def State.dropReads (s : State) (addr len : Nat) : State :=
  { s with pool := { s.pool with readBuf := s.pool.readBuf.filter (fun b => !(b.1 * 64 < addr + len && addr < b.1 * 64 + 64)) } }

/-- The format of pool_addr and length (R329). -/
def poolRangeFault (r : Req) : Option Nat :=
  if r.addr16 % 64 != 0 then some 16 else if r.addr24 % 64 != 0 || r.addr24 = 0 then some 24 else none

/-- POOL_FLUSH: every pool write of this device has been answered by the end of its step, so the read buffers remain. -/
def effPoolFlush (s : State) (rid : Nat) : State :=
  match s.startedReq? rid [0x70] with
  | none => s
  | some r =>
    match poolRangeFault r with
    | some off => s.bad rid off
    | none =>
      if (s.sharedExt? r.part r.addr16 r.addr24).isNone then s.complete rid .accessDenied
      else if !s.poolUp then s.complete rid .mediaError
      else (s.dropReads r.addr16 r.addr24).complete rid .ok

def execPoolFlush (e : Env) (rid : Nat) (s : State) : Host.Outcome State Fault Refusal := .next (effPoolFlush (s.enter e) rid)

/-! ### Leases (R331 to R334) -/

def Lease.overlaps (l : Lease) (base len : Nat) : Bool := l.base < base + len && base < l.base + l.len

/-- Who holds a lease that a request asks for: a queue pair of this home, or a partition on a ring position (R331). -/
def State.leaseHolder (s : State) (r : Req) : Bool × Nat × Nat :=
  match r.origin with
  | .qwp qp _ => (true, qp, s.pos)
  | .ring _ => (false, r.part, s.pos)
  | .fwd pos _ _ => (false, r.part, pos)

def Lease.heldBy (l : Lease) (h : Bool × Nat × Nat) : Bool := l.isQp == h.1 && l.holder == h.2.1 && l.pos == h.2.2

/-- A lease that has expired unreleased (R334): unless its extent leaves, every line of its range is poisoned. -/
def State.expireLease (s : State) (l : Lease) : State :=
  let leaving := s.pool.exts.any (fun x => x.2.state == 2 && x.2.holds l.base l.len)
  let s := { s with pool := { s.pool with leases := s.pool.leases.erase l } }
  let s := if leaving || !s.poolUp then s else (s.dropReads l.base l.len).poisonRange (memKey poolSpace l.base) l.len
  (s.bump F.POOL_LEASE_LOST_COUNT).raise gPool 1

/-- The expired leases that meet a range expire before anything is granted in it (R334; log entry 91). -/
def State.expireDue (s : State) (base len : Nat) : State :=
  (s.pool.leases.filter (fun l => l.overlaps base len && l.expiry ≤ s.time)).foldl (fun s l => s.expireLease l) s

/-- The lease that a holder has on exactly a range. -/
def State.leaseOn? (s : State) (h : Bool × Nat × Nat) (base len : Nat) : Option Lease :=
  s.pool.leases.find? (fun l => l.heldBy h && l.base == base && l.len == len)

/-- The milliseconds left of some lease of those that stand in the way; the rounding is open (log entries 4, 91). -/
def State.leaseLeft (s : State) (ls : List Lease) : Nat × State :=
  let (x, s) := s.free
  match ls[x % max 1 ls.length]? with
  | some l =>
    let ns := l.expiry - s.time
    let (y, s) := s.free
    (min (2 ^ 32 - 1) (if y % 2 = 0 then ns / 1000000 else ceilDiv ns 1000000), s)
  | none => (0, s)

/-- A lease renewed at this home. -/
def State.renewLease (s : State) (l : Lease) (ms : Nat) : State :=
  { s with pool := { s.pool with leases := s.pool.leases.map (fun x =>
      if x = l then { x with ms := ms, expiry := s.time + ms * 1000000 } else x) } }

/-- An acquire at the home (R332, items 2 to 5; log entry 91). -/
def State.acquireAt (s : State) (rid : Nat) (r : Req) : State :=
  let (a, n, ms) := (r.addr16, r.addr24, r.leaseMs)
  let s := s.expireDue a n
  let h := s.leaseHolder r
  let others := s.pool.leases.filter (fun l => l.overlaps a n && !l.heldBy h)
  let done := { result0 := s.time + ms * 1000000 : Cpl }
  if others != [] then
    let (left, s) := s.leaseLeft others
    s.complete rid .accessDenied { detail := left }
  else match s.leaseOn? h a n with
    | some l => (s.renewLease l ms).complete rid .ok done
    | none =>
      if s.pool.leases.length ≥ 4096 || s.pool.leases.countP (·.heldBy h) ≥ 64 then s.complete rid .quotaExceeded
      else
        let l : Lease := { isQp := h.1, holder := h.2.1, pos := h.2.2, base := a, len := n, ms := ms, expiry := s.time + ms * 1000000 }
        ({ s with pool := { s.pool with leases := s.pool.leases ++ [l] } }).complete rid .ok done

/-- A renew at the home (R332, items 4 and 5; log entry 91). -/
def State.renewAt (s : State) (rid : Nat) (r : Req) : State :=
  let s := s.expireDue r.addr16 r.addr24
  match s.leaseOn? (s.leaseHolder r) r.addr16 r.addr24 with
  | some l => (s.renewLease l r.leaseMs).complete rid .ok { result0 := s.time + r.leaseMs * 1000000 }
  | none => s.complete rid .notFound

/-- A release at the home (log entries 91, 92). -/
def State.releaseAt (s : State) (rid : Nat) (r : Req) : State :=
  let s := s.expireDue r.addr16 r.addr24
  match s.leaseOn? (s.leaseHolder r) r.addr16 r.addr24 with
  | some l => ({ s with pool := { s.pool with leases := s.pool.leases.erase l } }).complete rid .ok
  | none => s.complete rid .notFound

/-- The checks of R329 and R332, item 1, and the home of the range (R331): none where this device is the home. A release is
taken in an extent that leaves as well (R335, step 4). -/
def State.leaseWhere (s : State) (r : Req) : (Nat ⊕ Status) ⊕ Option Nat :=
  match poolRangeFault r with
  | some off => .inl (.inl off)
  | none =>
    if r.leaseOp != 2 && (r.leaseMs < 10 || r.leaseMs > 60000) then .inl (.inl 36)
    else
      let ext := if r.leaseOp = 2 then
          s.pool.exts.find? (fun x => x.2.kind == 2 && (x.2.state == 1 || x.2.state == 2) && x.2.owner == some r.part
            && x.2.holds r.addr16 r.addr24)
        else s.sharedExt? r.part r.addr16 r.addr24
      match ext, r.origin with
      | none, _ => .inl (.inr .accessDenied)
      | some _, .fwd _ _ _ => .inr none
      | some (_, x), _ => if x.homeLocal || x.home = s.pos then .inr none else .inr (some x.home)

/-- One lease operation: at this home, or forwarded to the home; a release of this device flushes first (R332). -/
def State.leaseOp (s : State) (rid op : Nat) (at_ : State → Req → State) : State :=
  match s.startedReq? rid [0x71] with
  | none => s
  | some r =>
    if r.leaseOp != op then s
    else match s.leaseWhere r with
      | .inl (.inl off) => s.bad rid off
      | .inl (.inr st) => s.complete rid st
      | .inr home =>
        let mine := match r.origin with | .ring _ => true | _ => false
        if op = 2 && mine && !s.poolUp then s.complete rid .mediaError
        else
          let s := if op = 2 && mine then s.dropReads r.addr16 r.addr24 else s
          match home with
          | none => at_ s r
          | some q => s.forward rid r q

def effPoolLeaseAcquire (s : State) (rid : Nat) : State := s.leaseOp rid 0 (fun s r => s.acquireAt rid r)

def execPoolLeaseAcquire (e : Env) (rid : Nat) (s : State) : Host.Outcome State Fault Refusal :=
  .next (effPoolLeaseAcquire (s.enter e) rid)

def effPoolLeaseRenew (s : State) (rid : Nat) : State := s.leaseOp rid 1 (fun s r => s.renewAt rid r)

def execPoolLeaseRenew (e : Env) (rid : Nat) (s : State) : Host.Outcome State Fault Refusal :=
  .next (effPoolLeaseRenew (s.enter e) rid)

def effPoolLeaseRelease (s : State) (rid : Nat) : State := s.leaseOp rid 2 (fun s r => s.releaseAt rid r)

def execPoolLeaseRelease (e : Env) (rid : Nat) (s : State) : Host.Outcome State Fault Refusal :=
  .next (effPoolLeaseRelease (s.enter e) rid)

/-- What the answer of another home to a lease request of a partition of this device makes known here. -/
def State.noteLease (s : State) (r : Req) (home : Nat) (expiry : Nat) : State :=
  let rest := s.pool.remote.filter (fun l => !(l.holder == r.part && l.pos == home && l.base == r.addr16 && l.len == r.addr24))
  let new : Lease := { holder := r.part, pos := home, base := r.addr16, len := r.addr24, ms := r.leaseMs, expiry := expiry }
  { s with pool := { s.pool with remote := if r.leaseOp = 2 then rest else rest ++ [new] } }

/-- The leases of a partition of this device, at this home and at others. -/
def State.partLeases (s : State) (p : Nat) : List Lease :=
  s.pool.leases.filter (·.heldBy (false, p, s.pos)) ++ s.pool.remote.filter (·.holder == p)

/-- The lease under which a stage of a partition works: one that has not expired and covers a range (R333, R339). -/
def State.leaseCovering? (s : State) (p addr len : Nat) : Option Lease :=
  (s.partLeases p).find? (fun l => l.base ≤ addr && addr + len ≤ l.base + l.len && s.time < l.expiry)

/-- The leases of a partition that is torn down released after the flush (R333); its extents stay, unowned (R343). -/
def State.dropLeases (s : State) (p : Nat) : State :=
  let s := (s.partLeases p).foldl (fun s l => s.dropReads l.base l.len) s
  let far := s.pool.remote.filter (·.holder == p)
  let s := far.foldl (fun s l => s.ringSend l.pos 0 (2 ^ 40) p
    [0, 0, p, leNat ([0x71, 0] ++ List.replicate 14 0 ++ leBytes 8 l.base ++ leBytes 8 l.len ++ [2] ++ List.replicate 31 0)]) s
  { s with pool := { s.pool with
      leases := s.pool.leases.filter (fun l => !l.heldBy (false, p, s.pos))
      remote := s.pool.remote.filter (fun l => l.holder != p)
      exts := s.pool.exts.map (fun x => if x.2.owner = some p then (x.1, { x.2 with owner := none }) else x) } }

/-- A lease expires without release (R334). -/
def effPoolLeaseExpiry (s : State) (base len : Nat) : State :=
  match s.pool.leases.find? (fun l => l.base == base && l.len == len) with
  | some l => if s.time < l.expiry then s else s.expireLease l
  | none => s

def execPoolLeaseExpiry (e : Env) (base len : Nat) (s : State) : Host.Outcome State Fault Refusal :=
  .next (effPoolLeaseExpiry (s.enter e) base len)

/-- The renewal of the lease under which a stage that has not completed works (R333); `ok` is the answer of another home. One
that fails ends the stage LINK_FAILED. -/
def effPoolLeaseAutoRenew (s : State) (rid : Nat) (ok : Bool) : State :=
  match s.req? rid with
  | none => s
  | some r =>
    if r.opcode != 0x72 then s
    else match r.wait with
      | .append pl =>
        match s.leaseCovering? r.part r.addr16 1 with
        | none => s.abandonPlan rid pl .linkFailed
        | some l =>
          if s.pool.leases.contains l then s.renewLease l l.ms
          else if ok && s.joined && s.posPresent l.pos then
            { s with pool := { s.pool with remote := s.pool.remote.map (fun x =>
                if x = l then { x with expiry := s.time + x.ms * 1000000 } else x) } }
          else s.abandonPlan rid pl .linkFailed
      | _ => s

def execPoolLeaseAutoRenew (e : Env) (rid : Nat) (ok : Bool) (s : State) : Host.Outcome State Fault Refusal :=
  .next (effPoolLeaseAutoRenew (s.enter e) rid ok)

/-! ### Extent release (R335) -/

/-- Whether a copy lies in an extent. -/
def Extent.hasCopy (x : Extent) (c : Copy) : Bool := c.tier == .pool && x.hasSlot c.loc

/-- A migration into an extent that leaves or fails: the destination is freed, and the leaf stays at its source (R343). -/
def State.abortInto (s : State) (x : Extent) (i : Nat) : State :=
  let l := s.leaf i
  if l.state = .migrating && l.destTier = .pool && x.hasSlot l.destLocation then s.failMove i else s

/-- The migration of one primary out of an extent begun (R335, steps 2 and 3); false where it must wait for an HBM slot (log entry 93). -/
def State.moveOut (s : State) (i : Nat) : Bool × State :=
  let l := s.leaf i
  if l.state != .sealed then (true, s)
  else if l.durable.isSome then
    if l.dirtyMask = 0 || s.flashWritable then (true, s.startMove i .flash i)
    else match (if s.hbmFree > 0 then s.pick s.hbmTaken s.hbmSlots else (none, s)) with
      | (some k, s) => (true, s.startMove i .hbm k)
      | (none, s) => (false, s)
  else if s.hbmFree > 0 && s.withinLimit l.partition 0 2 then
    match s.pick s.hbmTaken s.hbmSlots with
    | (some k, s) => (true, s.startMove i .hbm k)
    | (none, s) => (true, s.evict i)
  else if s.poolFree > 0 && s.withinLimit l.partition 1 2 then
    match s.pickPool with
    | (some k, s) => (true, s.startMove i .pool k)
    | (none, s) => (true, s.evict i)
  else (true, s.evict i)

/-- The leaves whose primary lies in an extent. -/
def State.extPrimaries (s : State) (x : Extent) : List Nat :=
  s.leaves.filterMap (fun l => match l.2.cur with
    | some c => if x.hasCopy c then some l.1 else none
    | none => none)

/-- What can be moved out of an extent in DRAIN moved (R335); it runs on the Sapling clusters (R253; log entry 93). -/
def State.drainExtent (s : State) (k : Nat) : State :=
  match s.extent? k with
  | none => s
  | some x =>
    let s := s.leaves.foldl (fun s l => s.abortInto x l.1) s
    if x.kind != 1 || !s.anyCluster || !s.poolUp then s
    else
      let r := (s.extPrimaries x).foldl (fun (a : Bool × State) i => let b := a.2.moveOut i; (a.1 && b.1, b.2)) (true, s)
      r.2.setExtent k { x with blocked := !r.1 }

/-- An extent enters DRAIN. -/
def State.startRelease (s : State) (k : Nat) : State :=
  match s.extent? k with
  | none => s
  | some x =>
    if x.state != 1 then s
    else (s.setExtent k { x with state := 2, releaseAt := s.time + max 1 (s.get F.POOL_CFG_RELEASE_MS) * 1000000 }).drainExtent k

/-- A Dynamic Capacity Device asks for its extent back. -/
def effDcReleaseRequest (s : State) (k : Nat) : State :=
  match s.extent? k with
  | some x => if x.dynamic && s.poolUp then s.startRelease k else s
  | none => s

def execDcReleaseRequest (e : Env) (ext : Nat) (s : State) : Host.Outcome State Fault Refusal :=
  .next (effDcReleaseRequest (s.enter e) ext)

/-- A write of POOL_EXT_CTL.RELEASE; an extent that has FAILED has nothing to drain. -/
def effPoolExtRelease (s : State) (k : Nat) : State := s.startRelease k

def execPoolExtRelease (e : Env) (ext : Nat) (s : State) : Host.Outcome State Fault Refusal :=
  .next (effPoolExtRelease (s.enter e) ext)

/-- The longest wait for the leases of a SHARED extent in release has passed: they end without poison (R335, step 4). -/
def effPoolReleaseMsExpiry (s : State) (k : Nat) : State :=
  match s.extent? k with
  | none => s
  | some x =>
    if x.state != 2 || s.time < x.releaseAt then s
    else { s with pool := { s.pool with leases := s.pool.leases.filter (fun l => !x.holds l.base l.len) } }

def execPoolReleaseMsExpiry (e : Env) (ext : Nat) (s : State) : Host.Outcome State Fault Refusal :=
  .next (effPoolReleaseMsExpiry (s.enter e) ext)

/-- Whether something is left in an extent (R335, step 5): a copy, a lease, or a request that waits. -/
def State.extBusy (s : State) (x : Extent) : Bool :=
  s.leaves.any (fun l => (l.2.cur.toList ++ l.2.old).any x.hasCopy
      || (l.2.state == .migrating && l.2.destTier == .pool && x.hasSlot l.2.destLocation))
    || (x.kind == 2 && s.pool.leases.any (fun l => x.holds l.base l.len))
    || s.reqs.any (fun r => (r.2.opcode == 0x71 || r.2.opcode == 0x72) && r.2.phase == .waiting && x.holds r.2.addr16 1)

/-- The last step of a release (R335): the device acknowledges and frees the entry once nothing is left in it. -/
def effExtentReleased (s : State) (k : Nat) : State :=
  match s.extent? k with
  | none => s
  | some x =>
    if x.state != 2 then s
    else
      let s := s.drainExtent k
      let dead := (s.extPrimaries x).filter (fun i => (s.leaf i).state == .poisoned && s.holdCount i == 0)
      let s := dead.foldl (fun s i => s.setLeaf i { s.leaf i with cur := none }) s
      if s.extBusy x then s
      else
        let s := if x.dynamic then s.send (.pool 2 k) else s
        (s.dropExtent k).raise gPool 2

def execExtentReleased (e : Env) (ext : Nat) (s : State) : Host.Outcome State Fault Refusal :=
  .next (effExtentReleased (s.enter e) ext)

/-! ### Failures (R287, R341, R342) -/

/-- What reads of requests in flight see of copies that can no longer be read: the durable copy of their leaf serves them where
it is good, and nothing does where there is none (R268, R287). -/
def State.spoilView (s : State) (gone : Copy → Bool) (v : View) : View :=
  if !gone v.copy then v
  else match (s.leaf v.leaf).durable with
    | some d => if d.tagBad then { v with dead := true } else { v with copy := { d with cid := v.copy.cid }, tier := .flash }
    | none => { v with dead := true }

/-- The views of jobs and instances on copies that can no longer be read (R341), each fallback counted. -/
def State.spoilViews (s : State) (gone : Copy → Bool) : State :=
  let views := s.jobs.flatMap (fun (j : Nat × Job) => j.2.views)
    ++ s.insts.flatMap (fun (x : Nat × Inst) => x.2.slots.flatMap (fun (y : InstSlot) => y.views))
  let n := views.countP (fun v => gone v.copy && (s.leaf v.leaf).durable.isSome)
  { (s.bump F.TIER_FALLBACKS_COUNT n) with
    jobs := s.jobs.map (fun (j : Nat × Job) => (j.1, { j.2 with views := j.2.views.map (s.spoilView gone) }))
    insts := s.insts.map (fun (x : Nat × Inst) => (x.1, { x.2 with
      slots := x.2.slots.map (fun (y : InstSlot) => { y with views := y.views.map (s.spoilView gone) }) })) }

/-- A leaf whose pool primary has failed: its durable copy becomes its primary, or `lost` decides. -/
def State.losePrimary (s : State) (lost : State → Nat → State) (i : Nat) : State :=
  let l := s.leaf i
  if l.state = .sealed || l.state = .migrating then
    if l.durable.isSome then
      let s := match l.state, s.mover? i with
        | .migrating, some rid => s.complete rid .mediaError
        | _, _ => s
      (s.setLeaf i { s.leaf i with failedPrimary := false, dirtyMask := 0 }).switchRecord i .flash i none
    else lost s i
  else s

/-- Extents enter FAILED (R341): their primaries are lost and their leases end without poison. -/
def State.failExtent (s : State) (k : Nat) : State :=
  match s.extent? k with
  | none => s
  | some x =>
    let s := s.setExtent k { x with state := 3, blocked := false }
    let s := s.leaves.foldl (fun s l => s.abortInto x l.1) s
    let s := s.spoilViews x.hasCopy
    let s := (s.extPrimaries x).foldl (fun s i => s.losePrimary State.poisonLeaf i) s
    { s with pool := { s.pool with leases := s.pool.leases.filter (fun l => !(x.kind == 2 && x.holds l.base l.len)) } }

/-- A target fails, or one dynamic extent is removed without release (R341). -/
def effPoolTargetFail (s : State) (target : Nat) (ext : Option Nat) : State :=
  let hit := s.pool.exts.filterMap (fun x =>
    if (x.2.state = 1 || x.2.state = 2) && x.2.target = target && (ext.isNone || (ext = some x.1 && x.2.dynamic)) then some x.1 else none)
  if hit = [] || !s.poolUp then s else (hit.foldl State.failExtent s).raise gPool 3

def execPoolTargetFail (e : Env) (target : Nat) (ext : Option Nat) (s : State) : Host.Outcome State Fault Refusal :=
  .next (effPoolTargetFail (s.enter e) target ext)

/-- The pool tier marked down (R287, R341): DURABLE leaves take their durable copies, VOLATILE ones leave, and every partition
that used the pool is told. -/
def effPoolPortDown (s : State) : State :=
  if !s.poolUp then s
  else
    let used := (List.range 128).filter (fun p => s.tierUsed p 1 > 0 || s.partLeases p != [])
    let s := { s with pool := { s.pool with down := true } }.put F.POOL_STATUS_STATE 3
    let inPool := s.leaves.filterMap (fun l => match l.2.cur with
      | some c => if c.tier = .pool then some l.1 else none
      | none => none)
    let into := s.leaves.filterMap (fun l => if l.2.state = .migrating && l.2.destTier = .pool then some l.1 else none)
    let s := s.spoilViews (fun c => c.tier == .pool)
    let s := into.foldl State.failMove s
    let s := inPool.foldl (fun s i => s.losePrimary State.evict i) s
    let s := used.foldl (fun s p => s.put F.PART_POOL_STATUS_DOWN 1 p) s
    s.raise gPool 4

def execPoolPortDown (e : Env) (s : State) : Host.Outcome State Fault Refusal := .next (effPoolPortDown (s.enter e))

/-- A write of POOL_CTL.RESTART: taken while the port is down (R342). -/
def effPoolRestart (s : State) : State :=
  if s.get F.POOL_STATUS_STATE != 3 then s
  else (List.range 128).foldl (fun s p => s.put F.PART_POOL_STATUS_DOWN 0 p) (s.put F.POOL_STATUS_STATE 1)

def execPoolRestart (e : Env) (s : State) : Host.Outcome State Fault Refusal := .next (effPoolRestart (s.enter e))

/-- The link of the port has trained (R322, R342): mode, width and the ranges that the decoders map; in common-clock mode
POOL_REFCLK runs, with SRIS it is off (R522). The extents of targets that
are still mapped are new extents: nothing that they held is used again. -/
def effPoolLinkTrained (s : State) (cxl31 common : Bool) (width : Nat) (targets : List (Nat × Nat × Nat)) : State :=
  if s.get F.POOL_STATUS_STATE != 1 || !s.dieWorks 1 || !(width = 4 || width = 8 || width = 16) then s
  else
    let ts := targets.filter (fun t => t.1 < 64)
    let s := (s.put F.POOL_STATUS_STATE 2).put F.POOL_STATUS_CXL31 (b2n cxl31)
    let s := (s.put F.POOL_STATUS_WIDTH width).put F.POOL_STATUS_TARGETS (ts.map (·.1)).eraseDups.length
    let live := s.pool.exts.filter (fun x => x.2.state = 0 || x.2.dynamic || ts.any (fun t => t.1 == x.2.target))
    { s with pool := { s.pool with
        down := false, targets := ts, leases := [], remote := s.pool.remote, readBuf := [], refclk := common
        exts := live.map (fun x => (x.1, { x.2 with state := min 1 x.2.state, blocked := false })) } }

def execPoolLinkTrained (e : Env) (mode : Bool × Bool) (width : Nat) (targets : List (Nat × Nat × Nat)) (s : State) :
    Host.Outcome State Fault Refusal := .next (effPoolLinkTrained (s.enter e) mode.1 mode.2 width targets)

end Sys2Proof.Machine
end

