-- ==== Sys2Proof/Machine/Ecc.lean ====
section
/-! DEFINITION. Errors of memories: the HBM symbol code and its marks (R402 to R404), the counters and the address log (R412), and
what an uncorrectable word does to what it holds (R405, R409, R411). -/

namespace Sys2Proof.Machine

open Sys2Proof

/-! ### The symbol code (R402) -/

/-- Multiplication by x in GF(2^16) with the polynomial x^16 + x^12 + x^3 + x + 1. -/
def gfX (a : Nat) : Nat := if a < 2 ^ 15 then 2 * a else (2 * a) ^^^ 0x1100B

/-- Multiplication in GF(2^16), over the bits of `b`. -/
def gfMul (a b : Nat) : Nat :=
  ((List.range 16).foldl (fun (acc : Nat × Nat) i => (if bit b i then acc.1 ^^^ acc.2 else acc.1, gfX acc.2)) (0, a)).1

/-- α^j, with α = x. -/
def gfPow : Nat → Nat
  | 0 => 1
  | j + 1 => gfX (gfPow j)

/-- A polynomial, lowest coefficient first, times x − c. -/
def polyTimes (p : List Nat) (c : Nat) : List Nat := (0 :: p).zipWith (· ^^^ ·) (p.map (gfMul c) ++ [0])

/-- The generator g(x): the product of x − α^j for j from 0 to 15, lowest coefficient first. -/
def rsGen : List Nat := (List.range 16).foldl (fun p j => polyTimes p (gfPow j)) [1]

/-- One step of the division by g: the remainder, lowest coefficient first, after a further data symbol. -/
def rsStep (g : List Nat) (r : List Nat) (sym : Nat) : List Nat :=
  let fb := sym ^^^ r.getD 15 0
  (0 :: r.take 15).zipWith (· ^^^ ·) ((g.take 16).map (gfMul fb))

/-- The check symbols 112 to 127 over the 112 data symbols: symbol 127 − j holds coefficient j of the remainder. -/
def rsChecks (syms : List Nat) : List Nat := (syms.foldl (rsStep rsGen) (List.replicate 16 0)).reverse

/-- The symbols of bytes, two bytes each, little-endian. -/
def symsOf : Bytes → List Nat
  | a :: b :: t => (a.toNat + 256 * b.toNat) :: symsOf t
  | [a] => [a.toNat]
  | [] => []

/-- A codeword of 256 bytes over 224 data bytes; written poisoned, its check symbols are inverted (R406). -/
def codeword (data : Bytes) (poisoned : Bool) : Bytes :=
  let ck := rsChecks (symsOf (padTo 224 data))
  padTo 224 data ++ ck.flatMap (fun c => leBytes 2 (if poisoned then c ^^^ 0xFFFF else c))

/-! ### Marks (R403, R404) -/

/-- The marking state of a stack, and its marked dies. -/
def State.stackState (s : State) (k : Nat) : Nat := s.get F.RAS_HBM_STACK_STATE k
def State.markedDies (s : State) (k : Nat) : List Nat :=
  (if s.stackState k ≥ 1 then [s.get F.RAS_HBM_STACK_DIE_A k] else []) ++ (if s.stackState k ≥ 2 then [s.get F.RAS_HBM_STACK_DIE_B k] else [])

/-- A die marked, in a stack that is in state 0 or 1 (log entry 107). -/
def State.markDie (s : State) (k die : Nat) : State :=
  if (s.markedDies k).contains die then s
  else match s.stackState k with
    | 0 => ((s.put F.RAS_HBM_STACK_STATE 1 k).put F.RAS_HBM_STACK_DIE_A die k).raise gRasCorrected 1
    | 1 => (((s.put F.RAS_HBM_STACK_STATE 2 k).put F.RAS_HBM_STACK_DIE_B die k).raise gRasCorrected 1).raise gRasUncorrected 1
    | _ => s

/-- Symbol errors of a codeword that a marking state corrects beside the marked dies' symbols (log entry 25). -/
def correctable (state : Nat) : Nat := match state with | 0 => 8 | 1 => 4 | _ => 0

/-! ### Counters and the address log (R412, R423) -/

/-- RAS_CORRECTED with cause CE: at most once per millisecond. -/
def State.raiseCe (s : State) : State :=
  match s.ras.ceAt with
  | some t => if s.time < t + 1000000 then s else ({ s with ras := { s.ras with ceAt := some s.time } }).raise gRasCorrected 0
  | none => ({ s with ras := { s.ras with ceAt := some s.time } }).raise gRasCorrected 0

/-- One more occurrence at an entry of the log. -/
def State.logRepeat (s : State) (k : Nat) : State :=
  { s with ras := { s.ras with log := s.ras.log.modify k (fun (x : LogEntry) => { x with repeats := min 255 (x.repeats + 1) }) } }

/-- An entry put in the log at an index. -/
def State.logPut (s : State) (k : Nat) (x : LogEntry) : State :=
  { s with ras := { s.ras with log := s.ras.log.set k { x with time := s.time / 2 ^ 20 % 2 ^ 32, born := s.ras.born }, born := s.ras.born + 1 } }

/-- The oldest corrected entry of a log. -/
def oldestCorrected (t : Table LogEntry) : Option Nat :=
  (t.foldl (fun (b : Option (Nat × Nat)) x => if x.2.ue then b else match b with
    | some (_, n) => if x.2.born < n then some (x.1, x.2.born) else b
    | none => some (x.1, x.2.born)) none).map (·.1)

/-- An error entered in the log by the rules of R412; `dieEvent` says that it is one (item 2). Which free index a new entry takes
the spec leaves open (log entry 5). -/
def State.logError (s : State) (x : LogEntry) (dieEvent : Bool) : State :=
  let t := s.ras.log
  let at_ := t.find? (fun (y : Nat × LogEntry) => y.2.addr == x.addr && y.2.source == x.source)
  let die := t.find? (fun (y : Nat × LogEntry) => dieEvent && y.2.source == 0 && !y.2.ue && y.2.unit == x.unit && y.2.sub == x.sub)
  match at_, die with
  | some (k, _), _ => s.logRepeat k
  | none, some (k, _) => s.logRepeat k
  | none, none =>
    match s.pick (fun k => (t.get? k).isSome) 32 with
    | (some k, s) => s.logPut k x
    | (none, s) =>
      match x.ue, oldestCorrected t with
      | true, some k => s.logPut k x
      | _, _ => s.put F.RAS_LOG_STATUS_OVERFLOW 1

/-! ### What an uncorrectable word does (R405, R409, R411) -/

/-- Lines of a leaf's slot poisoned in the copy that lies in HBM; line 0 is the header, which belongs to every KV head (R197). -/
def State.poisonLines (s : State) (i : Nat) (lines : List Nat) : State :=
  let l := s.leaf i
  match l.cur with
  | some c => if c.tier = .hbm then
      let ps := (lines.filter (· != 0)).map (· - 1)
      s.setLeaf i { l with cur := some { c with
        poison := c.poison ++ ps.filter (fun n => !c.poison.contains n), tagBad := c.tagBad || lines.contains 0 } }
    else s
  | none => s

/-- Lines of a leaf poisoned in the unit that a Spire runs. -/
def State.poisonUnit (s : State) (n i : Nat) (lines : List Nat) : State :=
  match (s.spire n).running with
  | none => s
  | some u =>
    let hitView (v : View) : View :=
      if v.leaf = i then { v with copy := { v.copy with poison := v.copy.poison ++ lines }, dead := v.dead || v.filling } else v
    { s with jobs := s.jobs.modify u.job (fun (j : Job) => { j with views := j.views.map hitView }) }

/-- An uncorrectable error of a Spire: enough of them within one second set it OFFLINE (R405). -/
def State.spireUe (s : State) (n : Nat) : State :=
  let x := s.spire n
  let ts := (x.ueTimes.filter (fun t => s.time < t + 1000000000)) ++ [s.time]
  let s := s.setSpire n { x with ueTimes := ts }
  let lim := s.get F.RAS_CFG_UE_OFFLINE
  if lim != 0 && ts.length ≥ lim then ((s.put F.SPIRE_CTL_OFFLINE 1 n).returnUnit n).dispatch else s

/-- A shadow lost with its placement record: it is treated as absent, and its space is not used again (R411). -/
def State.losePlacement (s : State) (i : Nat) : State :=
  let l := s.leaf i
  let lost : List (Nat × Nat) := match l.shadow with
    | some sh => if sh.whole then [(6, sh.slot * 2), (6, sh.slot * 2 + 1)] else [(6, sh.slot * 2 + b2n sh.upper)]
    | none => []
  let hints := (s.seq l.ownerSequence).tierHints
  { (s.setLeaf i { l with place := { lastTick := s.tick, heat := 0, hints := hints }, shadow := none, shadowPresent := false }) with
    badRecs := s.badRecs ++ lost }

/-- A record of tier 0 that reads as uncorrectable from now on; a code table that some slice holds is fetched from there. -/
def State.loseRecord (s : State) (kind key : Nat) : State :=
  if kind > 5 || s.badRecs.contains (kind, key) then s else { s with badRecs := s.badRecs ++ [(kind, key)] }

/-- Staged values of a leaf that read as uncorrectable (R409). -/
def State.poisonStaged (s : State) (i : Nat) (toks : List Nat) : State :=
  let l := s.leaf i
  s.setLeaf i { l with staged := l.staged.mapIdx (fun k x => if toks.contains k then x.map (fun v => { v with bad := true }) else x) }

/-- What an uncorrectable word holds, and what becomes of it. Directory records are left to the store recovery (log entry 107). -/
def State.applyHit (s : State) : ScrubHit → State
  | .none => s
  | .leaf i lines => s.poisonLines i lines
  | .spire n i lines => s.poisonUnit n i lines
  | .shadow i => (s.setLeaf i (s.leaf i).dropShadow).settle i
  | .staged i toks => s.poisonStaged i toks
  | .placement i => s.losePlacement i
  | .summary i => s.loseRecord 5 i
  | .rootBucket b => s.setRoots (s.roots.filter (fun (x : Nat × RootEntry) => x.1 / 4 != b))
  | .canopyShadow b k => effCanopyParityScan s [] [(b, k)] none
  | .record kind key => s.loseRecord kind key
  | .directory _ _ => s
  | .descriptor rid => (match s.req? rid with
      | some r => if r.phase = .fetched && r.local_ then s.complete rid .internal else s
      | none => s)
  | .poisonRead => s

end Sys2Proof.Machine
end

