-- ==== Sys2Proof/Machine/HbmMap.lean ====
section
/-! DEFINITION. The records that lie in HBM at addresses the spec gives, as bytes: the leaf directory (R22), the placement records
(R272), the flash map (R297), the root index (R105), the shadow of Canopy (R102), the code tables (R160) and the summary blocks
(R203). Bytes of other areas are free (log entry 26). -/

namespace Sys2Proof.Machine

open Sys2Proof

/-- The offset of an address in an area of a size (R503). -/
def State.inArea (s : State) (lo hi : Fld) (size a : Nat) : Option Nat :=
  let b := s.base lo hi
  if b ≤ a && a < b + size then some (a - b) else none

/-- The four map entries of a leaf index (R297). -/
def flashMapRecord (qs : List Nat) : Bytes := (List.range 4).flatMap (fun q => leBytes 4 (quarterAt qs q))

/-- The entry that a slot of a bank holds in the shadow: also of a group that is off, and also one that the array has lost to parity
(R102, R134). -/
def State.shadowEntry (s : State) (b slot : Nat) : Option CanopyEntry :=
  ((s.bank b).entries.get? slot).or ((s.bank b).away.get? slot)

/-- A byte of the Canopy shadow (R102): units of bank after bank, then records by bank and slot (log entry 130). The unit of a slot
without an entry is not stated; its record is not valid. -/
def State.canopyShadowByte (s : State) (o : Nat) : Option Byte :=
  if o < 64 * 2 ^ 20 then
    let b := o / 2 ^ 20
    let n := bankUnits (s.bankWidth b)
    let u := o / 8 % 131072
    (s.shadowEntry b (u / n)).map (fun e => (e.unitBytes n).getD (u % n * 8 + o % 8) 0)
  else
    let r := (o - 64 * 2 ^ 20) / 16
    match s.shadowEntry (r / 131072) (r % 131072) with
    | some e => some (e.record.getD (o % 16) 0)
    | none => if o % 16 = 9 then some 0 else none

/-- A byte of the code-table area (R160). -/
def State.codeTableByte (s : State) (o : Nat) : Byte :=
  let t := (s.scope (o / 2048)).slots
  (slotRecord (if o / 1024 % 2 = 0 then t.a else t.b) (o / 2048 % 16) (o / 2048 / 16 % 16)).getD (o % 1024) 0

/-- A byte of the summary area (R203): a leaf without a block, and what lies behind a block, is not stated. -/
def State.summaryByte (s : State) (o : Nat) : Option Byte :=
  let stride := 64 * s.get F.LANTERN_SUM_CFG_STRIDE
  match (s.leaf (o / stride)).summary with
  | some x => (summaryRecord x)[o % stride]?
  | none => none

/-- A byte of the root index (R105): of an entry not in use the valid flag alone is stated. -/
def State.rootByte (s : State) (o : Nat) : Option Byte :=
  match s.roots.get? (o / 32) with
  | some e => some ((rootRecord e).getD (o % 32) 0)
  | none => if o % 32 = 24 then some 0 else none

/-- A byte of a record area of HBM, where the configuration seal has put it and the spec says what it is. -/
def State.recordByte (s : State) (a : Nat) : Option Byte :=
  if !s.on F.GLB_SEAL_SEALED then none
  else match s.inArea F.TIER_DIR_BASE_LO_ADDR F.TIER_DIR_BASE_HI_ADDR (32 * s.dirSize) a with
  | some o => some ((leafRecord (s.leaf (o / 32)) (s.holdCount (o / 32))).getD (o % 32) 0)
  | none => match s.inArea F.TIER_PLACE_BASE_LO_ADDR F.TIER_PLACE_BASE_HI_ADDR (8 * s.dirSize) a with
  | some o => some ((placeRecord (s.leaf (o / 8)).place).getD (o % 8) 0)
  | none => match s.inArea F.FLASH_MAP_BASE_LO_ADDR F.FLASH_MAP_BASE_HI_ADDR (16 * s.dirSize) a with
  | some o => some ((flashMapRecord (s.leaf (o / 16)).flashQuarters).getD (o % 16) 0)
  | none => match s.inArea F.ROOT_BASE_LO_ADDR F.ROOT_BASE_HI_ADDR (128 * 2 ^ s.get F.ROOT_CFG_LOG2_BUCKETS) a with
  | some o => s.rootByte o
  | none => match s.inArea F.CANOPY_SHADOW_BASE_LO_ADDR F.CANOPY_SHADOW_BASE_HI_ADDR (192 * 2 ^ 20) a with
  | some o => s.canopyShadowByte o
  | none => match s.inArea F.CODEC_TABLE_BASE_LO_ADDR F.CODEC_TABLE_BASE_HI_ADDR (64 * 2 ^ 20) a with
  | some o => some (s.codeTableByte o)
  | none => match s.inArea F.LANTERN_SUM_BASE_LO_ADDR F.LANTERN_SUM_BASE_HI_ADDR (64 * s.get F.LANTERN_SUM_CFG_STRIDE * s.dirSize) a with
  | some o => s.summaryByte o
  | none => none

end Sys2Proof.Machine
end

