-- ==== Sys2Proof/Machine/Media.lean ====
section
/-! DEFINITION. The events of the flash tier (R299 to R319): programs, erases and reads that end, the commit of journal groups,
folding and collection, checkpoints, dies, power failure, the health log, and the media profile (R315, R296). -/

namespace Sys2Proof.Machine

open Sys2Proof

/-! ### What the map names (R297) -/

/-- Whether a group that is not committed holds an address. -/
def State.inGroups (s : State) (pa : Nat) : Bool := s.flash.groups.any (fun g => g.2.mus.contains pa)

/-- The band of an address. -/
def State.muBand (s : State) (pa : Nat) : Nat := (s.block (paKey pa)).band

/-! ### Retirement and the read-only state (R310, R316) -/

/-- Health counts changed. -/
def State.health (s : State) (f : Health → Health) : State := { s with flash := { s.flash with health := f s.flash.health } }

/-- A rewrite in flash that is not made leaves its leaf SEALED at its source (R283). -/
def State.endRewrites (s : State) (g : Group) : State :=
  g.recs.foldl (fun s r => match r with
    | .leaf i _ => s.setLeaf i (s.leaf i).moved
    | _ => s) s

/-- A group whose programs are not all done ends when the tier becomes read-only; its request completes READ_ONLY_MEDIA. -/
def State.dropGroup (s : State) (gid : Nat) : State :=
  match s.flash.groups.get? gid with
  | none => s
  | some g =>
    let s := { s with flash := { s.flash with groups := s.flash.groups.erase gid } }
    match g.rid with
    | none => s.endRewrites g
    | some rid => match s.req? rid with
      | some r => (match r.wait with
        | .append pl => s.abandonPlan rid pl .readOnlyMedia
        | _ => s.complete rid .readOnlyMedia)
      | none => s

/-- Entry into the read-only state. -/
def State.enterReadOnly (s : State) : State :=
  if s.flashState != 2 then s
  else
    let s := (s.put F.FLASH_STATUS_STATE 3).raise gFlash 0
    let undone := s.flash.groups.filter (fun g => g.2.pend != [] || g.2.mus.any (fun pa => !(s.flash.mus.getD pa {}).done))
    let s := undone.foldl (fun s g => s.dropGroup g.1) s
    { s with flash := { s.flash with folding := false, collecting := false } }

/-- A block retired as bad: it takes a spare of its channel, and without one the tier becomes read-only. -/
def State.retireBlock (s : State) (key : Nat) : State :=
  let b := s.block key
  if b.state = 3 then s
  else
    let s := (s.setBlock key { b with state := 3, relocate := true }).health (fun h => { h with grownBad := h.grownBad + 1 })
    let s := (s.noteBlocks [key]).raise gFlash 2
    let left := s.get F.FLASH_SPARE_LEFT (key % 32)
    if left = 0 then s.enterReadOnly else s.put F.FLASH_SPARE_LEFT (left - 1) (key % 32)

/-! ### Programs that end (R301, R309) -/

/-- Quarters that waited for a band are placed again (R304). -/
def State.retryPending (s : State) : State :=
  s.flash.groups.foldl (fun s x =>
    match s.flash.groups.get? x.1 with
    | none => s
    | some g =>
      if g.pend = [] then s
      else
        let leafs := (g.pend.map (·.1)).eraseDups
        leafs.foldl (fun s i =>
          let qs := (g.pend.filter (fun p => p.1 == i)).map (·.2)
          let s := s.setGroup x.1 (fun g => { g with pend := g.pend.filter (fun p => p.1 != i) })
          s.programQuarters x.1 i 262080 qs) s) s

/-- A program ends. A row whose data positions are all programmed closes (R295). -/
def effFlashProgramDone (s : State) (pa : Nat) : State :=
  match s.flash.mus.get? pa with
  | none => s
  | some m =>
    if !m.issued || m.done then s
    else
      let s := ({ s with flash := { s.flash with mus := s.flash.mus.set pa { m with done := true } } }).issueNand
      let k := s.muBand pa
      let row := s.flash.mus.filter (fun x => paRow x.1 == paRow pa && s.muBand x.1 == k && x.2.kind != 3)
      if row.length = 31 && row.all (fun x => x.2.done) then s.closeRow k (paRow pa) else s

def execFlashProgramDone (e : Env) (pa : Nat) (s : State) : Host.Outcome State Fault Refusal :=
  .next (effFlashProgramDone (s.enter e) pa)

/-- The channels of a leaf's quarters other than one, as they will be when a group commits (R294). -/
def State.quarterChs (s : State) (g : Group) (i q : Nat) : List Nat :=
  let now (k : Nat) : Nat := g.recs.foldl (fun v r => match r with
    | .map j k' new _ _ _ => if j = i && k' = k then new else v
    | _ => v) (quarterAt (s.leaf i).flashQuarters k)
  (((List.range 4).filter (· != q)).map now).filterMap (fun v => if v = mapZero || v = mapNone then none else some (paCh v))

/-- A mapping unit programmed again at a new destination: its group names that instead. -/
def State.replaceMu (s : State) (pa : Nat) : State :=
  match s.flash.mus.get? pa, s.flash.groups.find? (fun g => g.2.mus.contains pa) with
  | some m, some (gid, g) =>
    let slc := match s.flash.bands.get? (s.muBand pa) with | some b => b.slc | none => true
    let s := { s with flash := { s.flash with mus := s.flash.mus.erase pa } }
    let others := s.quarterChs g m.leaf m.quarter
    match s.place slc 0 [{ m with issued := false, done := false, closed := false }] others 4 with
    | (some (new :: _), s) =>
      (s.setGroup gid (fun g => { g with
        mus := g.mus.map (fun x => if x = pa then new else x)
        recs := g.recs.map (fun r => match r with
          | .map i q n o gen c => .map i q (if n = pa then new else n) o gen c
          | r => r) })).issueNand
    | (_, s) =>
      if m.reloc then s.dropGroup gid
      else s.setGroup gid (fun g => { g with
        mus := g.mus.filter (· != pa), pend := g.pend ++ [(m.leaf, m.quarter)]
        recs := g.recs.filter (fun r => match r with | .map _ _ n _ _ _ => n != pa | _ => true) })
  | _, _ => s

/-- A program reports failure: the block is bad, its band closes at the row, and the units of that row that had not closed are
programmed again elsewhere. -/
def effFlashProgramFail (s : State) (pa : Nat) : State :=
  match s.flash.mus.get? pa with
  | none => s
  | some m =>
    if !m.issued || m.done then s
    else
      let k := s.muBand pa
      let s := s.health (fun h => { h with progFail := h.progFail + 1 })
      let s := match s.flash.bands.get? k with
        | some b => s.setBand k { b with isOpen := false }
        | none => s
      let row := (s.flash.mus.filter (fun x => paRow x.1 == paRow pa && s.muBand x.1 == k && x.2.kind == 0 && !x.2.closed)).map (·.1)
      row.foldl State.replaceMu (s.retireBlock (paKey pa))

def execFlashProgramFail (e : Env) (pa : Nat) (s : State) : Host.Outcome State Fault Refusal :=
  .next (effFlashProgramFail (s.enter e) pa)

/-! ### Bands without valid units are erased (R307) -/

/-- The blocks of a band begin to be erased: its units and the band itself are gone, bad blocks stay as they are. -/
def State.eraseBand (s : State) (k : Nat) (b : Band) : State :=
  let keys := b.blocks.filter (fun x => (s.block x).state != 3)
  ({ s with flash := { s.flash with
    bands := s.flash.bands.erase k
    mus := s.flash.mus.filter (fun m => !b.blocks.contains (paKey m.1))
    journal := s.flash.journal.filter (fun m => !b.blocks.contains (paKey m.1))
    erasing := s.flash.erasing ++ keys.map (fun x => (x, false)) } }).issueNand

/-- Closed data bands in which nothing is named and nothing waits for its commit are erased. -/
def State.reapBands (s : State) : State :=
  let named := s.namedMus
  s.flash.bands.foldl (fun s x =>
    let b := x.2
    let mine (pa : Nat) : Bool := b.blocks.contains (paKey pa)
    if b.kind = 0 && !b.isOpen && !named.any (fun n => mine n.1) && !s.flash.groups.any (fun g => g.2.mus.any mine) then s.eraseBand x.1 b
    else s) s

/-- An erase ends; a failed one retires the block (R310). -/
def effFlashEraseDone (s : State) (key : Nat) (fail : Bool) : State :=
  if !s.flash.erasing.contains (key, true) then s
  else
    let b := s.block key
    let s := { s with flash := { s.flash with erasing := s.flash.erasing.filter (fun x => x.1 != key) } }
    if fail = true then ((s.health (fun h => { h with eraseFail := h.eraseFail + 1 })).retireBlock key).issueNand
    else
      let s := s.setBlock key { eraseCount := min 65535 (b.eraseCount + 1) }
      ((s.noteBlocks [key]).issueNand).retryPending

def execFlashEraseDone (e : Env) (block : Nat) (fail : Bool) (s : State) : Host.Outcome State Fault Refusal :=
  .next (effFlashEraseDone (s.enter e) block fail)

/-! ### The commit of a group (R300, R301) -/

/-- A map value put for a quarter. -/
def setQuarter (l : List Nat) (q v : Nat) : List Nat := (List.range 4).map (fun i => if i = q then v else quarterAt l i)

/-- The map values of a leaf after the absolute MAP records of a group. -/
def recQuarters (recs : List JRec) (i : Nat) (l : List Nat) : List Nat :=
  recs.foldl (fun l r => match r with
    | .map j q new _ _ false => if j = i then setQuarter l q new else l
    | _ => l) l

/-- A leaf as a mount would restore it (R302, item 1). -/
def Leaf.restored (l : Leaf) (i : Nat) (qs : List Nat) : Leaf :=
  { l with
    state := .sealed, tier := .flash, location := i, destTier := .hbm, destLocation := 0, cur := none, old := []
    shadow := none, shadowPresent := false, staged := [], flashQuarters := qs, dirtyMask := 0, summary := none, refCount := 0
    failedPrimary := false, withheld := false }

def State.setImage (s : State) (f : Image → Image) : State := { s with flash := { s.flash with image := f s.flash.image } }

/-- A conditional MAP record of a relocation (R302, R307): applied only where the entry still holds the old value. -/
def State.applyMove (s : State) (i q new old : Nat) (gen : Epoch) : State :=
  let l := s.leaf i
  if l.generation != gen || quarterAt l.flashQuarters q != old then s
  else
    let s := s.setLeaf i { l with flashQuarters := setQuarter l.flashQuarters q new }
    s.setImage (fun m => { m with leaves := m.leaves.modify i (fun x => { x with flashQuarters := setQuarter x.flashQuarters q new }) })

/-- What a committed durable copy changes in the live record of its leaf: the copy and its map values; the class and the pins
where it is the first; the quarters in which the primary differs. -/
def State.takeDurable (s : State) (i : Nat) (rec : Leaf) (d : Copy) (qs : List Nat) : State :=
  let l := s.leaf i
  let kept := l.durable.toList.filter (fun c => c.cid != d.cid && s.copyHolds i c.cid != 0)
  let l' : Leaf := { l with durable := some d, flashQuarters := qs, old := l.old ++ kept }
  let l' := if l.durable.isNone then { l' with persist := rec.persist, pinCount := rec.pinCount } else l'
  let l' := match l'.cur with
    | some c => { l' with dirtyMask := if l.tier = .flash then 0 else s.diffMask i l' c d }
    | none => { l' with dirtyMask := 0 }
  (s.setLeaf i (if l.tier = .flash then (l'.withHdr d.hdr).moved else l')).endSweeps

/-- A LEAF record applied: to the image, and to the live leaf where the group brings a durable copy. -/
def State.applyLeaf (s : State) (recs : List JRec) (plan : Bool) (i : Nat) (rec : Leaf) : State :=
  let l := s.leaf i
  if l.generation != rec.generation || (!plan && (l.state = .free || l.state = .evicting)) then s
  else
    let qs := recQuarters recs i l.flashQuarters
    let s := s.setImage (fun m => { m with leaves := m.leaves.set i (rec.restored i qs) })
    match rec.durable with
    | some d => if plan || l.durable == some d then s else s.takeDurable i rec d qs
    | none => s

/-- One record of a committed group. -/
def State.applyRec (s : State) (recs : List JRec) (plan : Bool) (r : JRec) : State :=
  match r with
  | .map i q new old gen true => s.applyMove i q new old gen
  | .map _ _ _ _ _ false => s
  | .leaf i (some rec) => s.applyLeaf recs plan i rec
  | .leaf i none => s.setImage (fun m => { m with leaves := m.leaves.erase i })
  | .chunk q n c => s.setImage (fun m => { m with seqs := m.seqs.modify q (fun x => { x with
      chunks := x.chunks.filter (fun y => y.number != n) ++ [c] }) })
  | .seq q rec => s.setImage (fun m => { m with
      seqs := m.seqs.set q { rec with chunks := (m.seqs.getD q {}).chunks } })
  | .index q n ins => s.setImage (fun m => { m with
      index := if ins then m.index.filter (· != (q, n)) ++ [(q, n)] else m.index.filter (· != (q, n)) })
  | .block _ _ _ => s
  | .profile _ => s

/-- The sealed leaves of a plan with the durable copies that their group has committed. -/
def planDurables (recs : List JRec) (t : Table Leaf) : Table Leaf :=
  recs.foldl (fun t r => match r with
    | .leaf i (some rec) => t.modify i (fun l => { l with durable := rec.durable, flashQuarters := recQuarters recs i [] })
    | _ => t) t

/-- Whether the row of a unit can close now, or the rows of its word line: what is placed there is programmed (R295, R305). -/
def State.rowReady (s : State) (pa : Nat) : Bool :=
  let k := s.muBand pa
  let w := match s.flash.bands.get? k with | some b => if b.slc then 1 else max 1 (prWlPages s.profile) | none => 1
  s.flash.mus.all (fun x => !(s.muBand x.1 == k && paRow x.1 / w == paRow pa / w) || x.2.done)

/-- An open band gone on to a row, unless it is past it. -/
def State.passTo (s : State) (k row : Nat) : State :=
  match s.flash.bands.get? k with
  | some b => if b.isOpen && b.row < row then s.setBand k (b.goTo row (b.rows s.profile)) else s
  | none => s

/-- The row of a unit closed; in native mode every row of its word line, of which the rest stays unprogrammed. -/
def State.closeFor (s : State) (pa : Nat) : State :=
  let k := s.muBand pa
  match s.flash.bands.get? k with
  | none => s
  | some b =>
    if b.slc then s.closeRow k (paRow pa)
    else
      let w := max 1 (prWlPages s.profile)
      let r0 := paRow pa / w * w
      let s := ((List.range w).map (· + r0)).foldl (fun s r =>
        if s.flash.mus.any (fun x => s.muBand x.1 == k && paRow x.1 == r) then s.closeRow k r else s) s
      s.passTo k (r0 + w)

/-- The entries of a group's records: with each CHUNK its CHUNK_META, and the last one ends the group (R299, R300). -/
def journalEntries (gid : Nat) (recs : List JRec) : List JEntry :=
  let es := recs.flatMap (fun r => match r with
    | .chunk _ _ _ => [{ group := gid, what := r : JEntry }, { group := gid, isMeta := true, what := r }]
    | _ => [{ group := gid, what := r }])
  es.mapIdx (fun i e => { e with last := i + 1 == es.length })

/-- The journal mapping units that a group takes: 2,046 records in each. -/
def journalMus (gid : Nat) (recs : List JRec) : List (List JEntry) :=
  let es := journalEntries gid recs
  if es = [] then [[]] else chunksOf 2046 (es.length / 2046 + 1) es

/-- The next journal mapping unit at an address (R299). -/
def State.addJournal (s : State) (pa : Nat) (es : List JEntry) : State :=
  let mu : JournalMu := { seqNo := s.flash.journalSeq, checkpoint := s.flash.ckptSeq, recs := es }
  { s with flash := { s.flash with journalSeq := s.flash.journalSeq + 1, journal := s.flash.journal.set pa mu } }

/-- Journal mapping units programmed and their rows closed: none where the journal has no room. -/
def State.writeJournal (s : State) : List (List JEntry) → Option State
  | [] => some s
  | es :: rest =>
    match s.place true 1 [{ kind := 1, seqNo := s.flash.journalSeq, issued := true, done := true, closed := true }] [] 4 with
    | (some (pa :: _), s) =>
      if !s.nandRoom (paCh pa) (s.get F.CUPOLA_NAND_CFG_PROG_MA) then none
      else
        let s := s.addJournal pa es
        State.writeJournal (s.closeRow (s.muBand pa) (paRow pa)) rest
    | (_, _) => none

/-- A group committed: its records take effect and its request goes on. -/
def State.commitGroup (s : State) (gid : Nat) (g : Group) : State :=
  let plan := match g.rid with
    | some rid => (match s.req? rid with | some r => (match r.wait with | .append pl => some (rid, r, pl) | _ => none) | none => none)
    | none => none
  let s := { s with flash := { s.flash with groups := s.flash.groups.erase gid } }
  let s := g.mus.foldl State.closeFor s
  let back := g.recs.countP (fun r => match r with
    | .map i _ _ _ _ false => plan.isNone && g.rid.isNone && (s.leaf i).tier != .flash && (s.leaf i).durable.isSome
    | _ => false)
  let s := g.recs.foldl (fun s r => s.applyRec g.recs plan.isSome r) s
  let s := s.bump F.TIER_WRITEBACKS_COUNT back
  let s := match plan, g.rid with
    | some (rid, r, pl), _ => s.finishPlan rid r { pl with sealedLeaves := planDurables g.recs pl.sealedLeaves }
    | none, some rid => (match s.req? rid with
      | some r => (match r.wait with | .journal _ st c => s.complete rid st c | _ => s)
      | none => s)
    | none, none => s
  s.reapBands

/-- JOURNAL_COMMIT of a group whose units are programmed: the journal unit of its end record and the rows close with it. -/
def effJournalCommit (s : State) (gid : Nat) : State :=
  match s.flash.groups.get? gid with
  | none => s
  | some g =>
    if !s.flashReadable || s.on F.FLASH_STATUS_PF || !s.anyCluster || g.pend != []
        || g.mus.any (fun pa => !(s.flash.mus.getD pa {}).done || !s.rowReady pa) then s
    else if s.flashState = 3 && s.journalFull then s
    else match s.writeJournal (journalMus gid g.recs) with
      | none => s
      | some s => s.commitGroup gid g

def execJournalCommit (e : Env) (group : Nat) (s : State) : Host.Outcome State Fault Refusal :=
  .next (effJournalCommit (s.enter e) group)

/-! ### Folding and collection (R305 to R307) -/

/-- Programmed units of a band that the map names, by leaf. -/
def State.validIn (s : State) (b : Band) : List (Nat × Nat × Nat) := s.namedMus.filter (fun x => b.blocks.contains (paKey x.1))

/-- The quarters of one leaf moved from a band to a native band, by a group of the device's own with conditional records. A
durable copy that reads as uncorrectable is not copied (R410). -/
def State.relocateLeaf (s : State) (b : Band) (i : Nat) : State :=
  let l := s.leaf i
  let qs := ((l.flashQuarters.mapIdx (fun q pa => (q, pa))).filter (fun x => b.blocks.contains (paKey x.2) && x.2 != mapZero && x.2 != mapNone
    && !s.flash.groups.any (fun g => g.2.recs.any (fun r => match r with | .map j q' _ _ _ true => j == i && q' == x.1 | _ => false))))
  if qs = [] then s
  else match l.durable with
    | none => s
    | some d =>
      if d.spoilt then
        if l.tier != .flash && !l.cur.toList.any Copy.spoilt then s.setLeaf i { l with dirtyMask := 15 } else s.poisonLeaf i
      else
        let avoid := (l.flashQuarters.mapIdx (fun q pa => (q, pa))).filterMap (fun x =>
          if x.2 = mapZero || x.2 = mapNone || qs.contains x then none else some (paCh x.2))
        let tags := qs.map (fun x => ({ leaf := i, quarter := x.1, seqNo := s.flash.journalSeq, gen := l.generation, reloc := true } : Mu))
        match s.place false 0 tags avoid 4 with
        | (some pas, s) =>
          let recs := (qs.zip pas).map (fun x => JRec.map i x.1.1 x.2 x.1.2 l.generation true)
          let s := (s.openGroup { recs := recs, mus := pas }).2
          (s.health (fun h => { h with relocMus := h.relocMus + pas.length })).issueNand
        | (none, s) => s

/-- Every valid unit of a band moved. -/
def State.relocateBand (s : State) (b : Band) : State :=
  (((s.validIn b).map (fun x => x.2.1)).eraseDups).foldl (fun s i => s.relocateLeaf b i) s

/-- Whether background work on flash runs: mounted, power good, on a Sapling cluster (R253, R316, R319). -/
def State.flashBusyOk (s : State) : Bool := s.flashWritable && !s.on F.FLASH_STATUS_PF && s.anyCluster

/-- FOLD: the oldest closed SLC band, while folding runs. -/
def effFold (s : State) : State :=
  let free := s.flash.slcTotal - s.bandsInUse true
  let fold := s.get F.FLASH_GC_CFG_FOLD
  let run := if s.flash.folding then free * 64 < 2 * fold * s.flash.slcTotal else free * 64 < fold * s.flash.slcTotal
  let s := { s with flash := { s.flash with folding := run && s.flashBusyOk } }
  if !s.flash.folding then s
  else
    let closed := s.flash.bands.filter (fun x => x.2.slc && x.2.kind == 0 && !x.2.isOpen && s.validIn x.2 != [])
    match (closed.mergeSort (fun x y => x.2.born ≤ y.2.born)).head? with
    | some (_, b) => s.relocateBand b
    | none => s.reapBands

def execFold (e : Env) (s : State) : Host.Outcome State Fault Refusal := .next (effFold (s.enter e))

/-- The number of ascending limits that a value has reached. -/
def bucketOf (limits : List Nat) (v : Nat) : Nat := limits.countP (· ≤ v)

/-- The retention bucket of a block (R314). -/
def State.retention (s : State) (b : Block) : Nat :=
  bucketOf ((List.range 7).map (fun i => fieldAt s.profile (48 + 4 * i) 4)) (s.mediaHour - b.programHour)

/-- Whether a band is collected before the greedy choice. -/
def State.urgent (s : State) (b : Band) : Bool :=
  b.blocks.any (fun k => (s.block k).relocate || s.retention (s.block k) ≥ prRefresh s.profile)

/-- GARBAGE_COLLECTION: a closed native band, one with a block to be relocated or refreshed first, else the one with the fewest
valid units. -/
def effGarbageCollection (s : State) : State :=
  let free := s.flash.natTotal - s.bandsInUse false
  let limit := if s.flash.collecting then s.get F.FLASH_GC_CFG_HIGH else s.get F.FLASH_GC_CFG_LOW
  let s := { s with flash := { s.flash with collecting := free * 1024 < limit * s.flash.natTotal && s.flashBusyOk } }
  let closed := s.flash.bands.filter (fun x => !x.2.slc && x.2.kind == 0 && !x.2.isOpen)
  let pick := match closed.find? (fun x => s.urgent x.2) with
    | some x => some x
    | none => if s.flash.collecting then
        (closed.mergeSort (fun x y => (s.validIn x.2).length ≤ (s.validIn y.2).length)).head?
      else none
  match pick with
  | some (_, b) => if s.flashBusyOk then (s.relocateBand b).reapBands else s
  | none => s

def execGarbageCollection (e : Env) (s : State) : Host.Outcome State Fault Refusal := .next (effGarbageCollection (s.enter e))

/-! ### Checkpoints (R303) -/

/-- Mapping units that a checkpoint of the map and the block records takes. -/
def State.ckptMus (s : State) : Nat := ceilDiv (16 * s.dirSize + 512 * s.diesPerCh * prBlocks s.profile) 65536

/-- Checkpoint bands opened for `n` units. -/
def State.ckptBands (s : State) : Nat → State
  | 0 => s
  | n + 1 => match s.newBand true 2 with
    | some (k, s) => match s.flash.bands.get? k with
      | some b => State.ckptBands (s.setBand k { b with isOpen := false }) n
      | none => s
    | none => s

/-- A checkpoint written: what lies before the present journal sequence need not be replayed. -/
def State.writeCheckpoint (s : State) : State :=
  let s := s.ckptBands (ceilDiv s.ckptMus (31 * max 1 (prRowsSlc s.profile)))
  { s with flash := { s.flash with ckptSeq := s.flash.journalSeq, saved := s.flash.health } }

/-- CHECKPOINT: after its count of journal units it is written, and journal and checkpoint bands older than it are erased. -/
def State.checkpoint (s : State) : State :=
  let old := s.flash.bands.filter (fun x => x.2.kind == 2 || (x.2.kind == 1 && !x.2.isOpen))
  old.foldl (fun s x => s.eraseBand x.1 x.2) s.writeCheckpoint

def effCheckpoint (s : State) : State :=
  if !s.flashBusyOk || s.flash.journalSeq < s.flash.ckptSeq + 16 * max 1 (s.get F.FLASH_CKPT_CFG_MUS) then s else s.checkpoint

def execCheckpoint (e : Env) (s : State) : Host.Outcome State Fault Refusal := .next (effCheckpoint (s.enter e))

/-! ### Reads and dies (R311, R312, R314) -/

def State.die (s : State) (n : Nat) : Die := s.flash.dies.getD n {}
def State.setDie (s : State) (n : Nat) (d : Die) : State := { s with flash := { s.flash with dies := s.flash.dies.set n d } }

/-- Codewords of a mask. -/
def maskBits (n m : Nat) : List Nat := (List.range n).filter (bit m)

/-- Codewords of a durable copy's quarter that could not be rebuilt: the payload lines that they poison (R166, R311); in the
first codeword of all lies the header. -/
def State.spoilDurable (s : State) (i q words : Nat) : State :=
  let l := s.leaf i
  match l.durable with
  | none => s
  | some d =>
    let sh := s.shapeAt l.partition d.hdr.shapeIndex d.hdr.shapeEpoch
    let r := regionLens sh d.hdr.keyFormat d.hdr.valueFormat
    let tab := s.codeTable (scopeKey l.partition d.hdr.shapeIndex d.hdr.keyFormat) d.hdr.codecEpoch
    let lines := (maskBits 16 words).flatMap (fun w =>
      let a := q * 65536 + w * 4096
      spreadPoison d.hdr.raw tab.lengths d.hdr.keyFormat d.hdr.valueFormat r.1 r.2 d.payload (a - 64) (if a = 0 then 4032 else 4096))
    s.setLeaf i { l with durable := some { d with
      poison := (d.poison ++ lines).eraseDups, tagBad := d.tagBad || (q == 0 && bit words 0) } }

/-- A unit rebuilt from its row (R310, R311). -/
def State.rebuilt (s : State) (pa : Nat) : State :=
  let key := paKey pa
  let b := s.block key
  let n := min 255 (b.rebuilds + 1)
  let s := (s.setBlock key { b with rebuilds := n, relocate := true }).health (fun h => { h with rebuilt := h.rebuilt + 1 })
  if n ≥ max 1 (s.get F.FLASH_READ_CFG_RETIRE_REBUILDS) then s.retireBlock key else s

/-- A read of a unit ends: decoded (0), with corrections (1), after the retry ladder (2), or by a rebuild from its row (3), of
which the codewords of `words` fail as well. -/
def effFlashReadDone (s : State) (pa outcome lat words : Nat) : State :=
  match s.flash.mus.get? pa with
  | none => s
  | some m =>
    if !m.done then s
    else
      let d := s.die (paDie pa)
      let s := s.setDie (paDie pa) { d with lats := (lat :: d.lats).take 256 }
      match outcome with
      | 0 => s
      | 1 => s.health (fun h => { h with corrected := h.corrected + 1 })
      | 2 => s.health (fun h => { h with retried := h.retried + 1 })
      | _ =>
        let s := s.rebuilt pa
        let n := (maskBits 16 words).length
        if n = 0 then s
        else
          let s := (s.health (fun h => { h with uncorrectable := h.uncorrectable + n }))
          let s := { s with flash := { s.flash with mus := s.flash.mus.modify pa (fun x => { x with bad := true }) } }
          match s.namedMus.find? (fun x => x.1 == pa) with
          | some (_, i, q) => s.spoilDurable i q words
          | none => s

def execFlashReadDone (e : Env) (pa outcome lat words : Nat) (s : State) : Host.Outcome State Fault Refusal :=
  .next (effFlashReadDone (s.enter e) pa outcome lat words)

/-- A die enters a state that takes it out of new bands (R312). -/
def State.dieTo (s : State) (n st : Nat) : State := (s.put F.FLASH_DIE_STATUS_STATE st n).raise gFlash 1

/-- The median latency of a die's last 256 completed reads; of an even number, the upper of the two in the middle (DESIGN CHOICE: the
spec says no more; log entry 82). -/
def Die.median (d : Die) : Nat := (d.lats.mergeSort (fun a b => a ≤ b)).getD (d.lats.length / 2) 0

/-- A read, by its address and how long it has been outstanding, past SLOW_MULT times the die's median: it is rebuilt at once, counted,
and the die may become SLOW. -/
def effSlowReadTimeout (s : State) (read : Nat × Nat) : State :=
  let n := paDie read.1
  let d := s.die n
  if (s.flash.mus.get? read.1).isNone || !s.flashReadable || read.2 < s.get F.FLASH_READ_CFG_SLOW_MULT * d.median then s
  else
    let times := s.time :: d.slowTimes.filter (fun t => decide (t + 1000000000 > s.time))
    let s := (s.setDie n { d with slowTimes := times, slowAt := s.time, slowCount := min 65535 (d.slowCount + 1) }).health
      (fun h => { h with slowReads := h.slowReads + 1 })
    if s.dieState n = 1 && times.length ≥ max 1 (s.get F.FLASH_READ_CFG_SLOW_ENTER) then s.dieTo n 2 else s

def execSlowReadTimeout (e : Env) (read : Nat × Nat) (s : State) : Host.Outcome State Fault Refusal :=
  .next (effSlowReadTimeout (s.enter e) read)

/-- 60 s without a slow read end the SLOW state. -/
def effDieSlowExit (s : State) (n : Nat) : State :=
  if s.dieState n = 2 && s.time ≥ (s.die n).slowAt + 60000000000 then s.put F.FLASH_DIE_STATUS_STATE 1 n else s

def execDieSlowExit (e : Env) (die : Nat) (s : State) : Host.Outcome State Fault Refusal := .next (effDieSlowExit (s.enter e) die)

/-- A die stops answering: FAILED, its blocks marked for relocation. -/
def effDieFailed (s : State) (n : Nat) : State :=
  if s.dieState n = 0 || s.dieState n = 3 then s
  else
    let s := s.dieTo n 3
    { s with flash := { s.flash with blocks := s.flash.blocks.map (fun x =>
      if paDie x.1 = n && (x.2.state = 1 || x.2.state = 2) then (x.1, { x.2 with relocate := true }) else x) } }

def execDieFailed (e : Env) (die : Nat) (s : State) : Host.Outcome State Fault Refusal := .next (effDieFailed (s.enter e) die)

/-- The bin of the temperature histogram (R318). -/
def tempBin (t : Nat) : Nat := if t < 25 then 0 else min 15 (t / 5 - 4)

/-- A die temperature read (R314): the hottest die counts a minute of the histogram once a minute. -/
def effDieTemperatureRead (s : State) (n temp : Nat) : State :=
  if s.dieState n = 0 then s
  else
    let s := s.put F.FLASH_DIE_STATUS_TEMP_C temp n
    if s.time < s.flash.tempAt + 60000000000 then s
    else
      let hot := (List.range 1024).foldl (fun m d => if s.dieState d = 0 then m else max m (s.get F.FLASH_DIE_STATUS_TEMP_C d)) 0
      let s := s.health (fun h => { h with
        tempHist := (List.range 16).map (fun i => h.tempHist.getD i 0 + (if i = tempBin hot then 1 else 0)) })
      { s with flash := { s.flash with tempAt := s.time / 60000000000 * 60000000000 } }

def execDieTemperatureRead (e : Env) (die temp : Nat) (s : State) : Host.Outcome State Fault Refusal :=
  .next (effDieTemperatureRead (s.enter e) die temp)

/-! ### Power failure (R319) -/

/-- The shutdown step (R303, R319, item 4): a checkpoint, of which no older band is erased while power fails, and the shutdown record, a
journal unit without records that holds the health counters. Where none can be programmed the next mount is unclean (log entry 82). -/
def State.shutdown (s : State) : State :=
  let c := s.writeCheckpoint
  match c.writeJournal [[]] with
  | some s => { s with flash := { s.flash with shutdownRec := true } }
  | none => c

/-- Steps 1 to 5 of R319: SLC programs in flight complete and their rows close; native programs and erases are reset, to be done
again; a shutdown record is written. -/
def State.flashSafe (s : State) : State :=
  let slcOf (pa : Nat) : Bool := match s.flash.bands.get? (s.muBand pa) with | some b => b.slc | none => true
  let flying := s.flash.mus.filter (fun m => m.2.issued && !m.2.done)
  let s := { s with flash := { s.flash with
    mus := s.flash.mus.map (fun (m : Nat × Mu) => if m.2.issued && !m.2.done && slcOf m.1 then (m.1, { m.2 with done := true }) else m)
    erasing := s.flash.erasing.map (fun (e : Nat × Bool) => (e.1, false)) } }
  let s := flying.foldl (fun s m => if slcOf m.1 then (if s.rowReady m.1 then s.closeFor m.1 else s) else s.replaceMu m.1) s
  s.shutdown

def effPwrFailFall (s : State) : State :=
  if s.on F.FLASH_STATUS_PF then s
  else
    let s := (s.put F.FLASH_STATUS_PF 1).health (fun h => { h with powerFails := h.powerFails + 1 })
    let s := if s.flashReadable then s.flashSafe else s
    (s.put F.FLASH_STATUS_SAFE 1).raise gFlash 3

def execPwrFailFall (e : Env) (s : State) : Host.Outcome State Fault Refusal := .next (effPwrFailFall (s.enter e))

/-- PWR_FAIL_N rises before power is lost: erases are done again, and work goes on. -/
def effPwrFailRise (s : State) : State :=
  if !s.on F.FLASH_STATUS_PF then s
  else
    let s := (s.put F.FLASH_STATUS_PF 0).put F.FLASH_STATUS_SAFE 0
    ({ s with flash := { s.flash with shutdownRec := !s.flashReadable } }).issueNand

def execPwrFailRise (e : Env) (s : State) : Host.Outcome State Fault Refusal := .next (effPwrFailRise (s.enter e))

/-! ### The health log (R318) -/

/-- Saturating fields of the log. -/
def sat4 (n : Nat) : Bytes := leBytes 4 (min (2 ^ 32 - 1) n)
def sat8 (n : Nat) : Bytes := leBytes 8 (min (2 ^ 64 - 1) n)

/-- Erase counts of the blocks of a die. -/
def State.dieErases (s : State) (n : Nat) : List Nat :=
  (s.flash.blocks.filter (fun x => paDie x.1 == n)).map (fun x => x.2.eraseCount)

/-- The wear of a die in percent of the profile's endurance, saturating. -/
def State.dieWear (s : State) (n : Nat) : Nat :=
  if prEndurNative s.profile = 0 then 0 else min 255 ((s.dieErases n).foldl max 0 * 100 / prEndurNative s.profile)

/-- The entry of a die. -/
def State.healthDie (s : State) (n : Nat) : Bytes :=
  let es := s.dieErases n
  leBytes 1 (s.dieState n) ++ leBytes 1 (s.get F.FLASH_DIE_STATUS_TEMP_C n) ++ leBytes 2 (es.foldl max 0)
    ++ leBytes 2 (es.sum / max 1 (prBlocks s.profile)) ++ leBytes 2 (s.die n).slowCount

/-- The lowest share of spares left over the channels, in percent of those at format. -/
def State.spareLeft (s : State) : Nat :=
  (List.range 32).foldl (fun m c =>
    let n := s.flash.spareStart.getD c 0
    min m (if n = 0 then 0 else s.get F.FLASH_SPARE_LEFT c * 100 / n)) 100

/-- The health log. -/
def State.healthLog (s : State) : Bytes :=
  let h := s.flash.health
  leBytes 2 1 ++ leBytes 1 s.flashState ++ leBytes 1 s.spareLeft
    ++ leBytes 1 ((List.range 1024).foldl (fun m n => max m (s.dieWear n)) 0) ++ leBytes 3 0
    ++ leBytes 4 (s.get F.FLASH_USABLE_LEAVES) ++ leBytes 4 (s.leaves.countP (fun x => x.2.durable.isSome))
    ++ sat8 h.corrected ++ sat8 h.retried ++ sat8 h.rebuilt ++ sat8 h.uncorrectable ++ sat8 h.slowReads ++ sat4 h.progFail
    ++ sat4 h.eraseFail ++ sat4 h.grownBad ++ sat4 h.factoryBad ++ sat8 h.writeMus ++ sat8 h.relocMus ++ sat4 h.powerFails
    ++ sat4 h.uncleanMounts ++ (List.range 16).flatMap (fun i => sat4 (h.tempHist.getD i 0)) ++ leBytes 96 0
    ++ (List.range 1024).flatMap s.healthDie

/-- HEALTH_SNAP: the log is written to host memory. -/
def effHealthSnap (s : State) : State :=
  let a := s.pair F.FLASH_HEALTH_ADDR_LO_ADDR F.FLASH_HEALTH_ADDR_HI_ADDR / 64 * 64
  (s.busWrite a s.healthLog).deviceFrame 8448

def execHealthSnap (e : Env) (s : State) : Host.Outcome State Fault Refusal := .next (effHealthSnap (s.enter e))

/-! ### The media profile (R315) and format (R296) -/

/-- The geometry of a profile. -/
def prGeom (b : Bytes) : Bytes := (b.drop 2).take 12

/-- Whether offsets of a table entry beyond its levels are zero. -/
def entryOk (levels : Nat) (x : Bytes) : Bool := levels ≤ 16 && (x.drop levels).all (· == 0)

/-- Whether limits ascend. -/
def ascending (l : List Nat) : Bool := (l.zip (l.drop 1)).all (fun p => p.1 ≤ p.2)

/-- Whether a profile meets R315, for the dies found and the media as formatted. -/
def State.profileOk (s : State) (b : Bytes) : Bool :=
  let bits_ := prBits b
  let levels := fieldAt b 40 1
  let steps := fieldAt b 41 1
  let hours := (List.range 7).map (fun i => fieldAt b (48 + 4 * i) 4)
  let temps (o : Nat) : List Nat := (List.range 3).map (fun i => fieldAt b (o + i) 1)
  b.length == 2304 && fieldAt b 0 2 == 1 && 2 ≤ bits_ && bits_ ≤ 4 && fieldAt b 3 1 == 4 && fieldAt b 4 2 == 16384 && 1872 ≤ fieldAt b 6 2
    && 1 ≤ prBlocks b && prBlocks b ≤ 4096 && 1 ≤ prRowsNative b && prRowsNative b ≤ 1024 && prRowsSlc b * bits_ == prRowsNative b
    && 1 ≤ prWlPages b && prWlPages b ≤ 4 && fieldAt b 16 8 == s.flash.dieId && prTProgSlc b ≤ 700
    && levels == 2 ^ bits_ - 1 && steps ≤ 8 && 1 ≤ prRefresh b && prRefresh b ≤ 7 && sfield b 43 7 2 == 0
    && ascending hours && ascending (temps 76) && ascending (temps 79) && fieldAt b 82 14 == 0
    && ((chunksOf 16 128 ((b.drop 96).take 2048))).all (entryOk levels)
    && ((chunksOf 16 8 ((b.drop 2144).take 128)).mapIdx (fun i x => if i < steps then entryOk levels x else x.all (· == 0))).all id
    && fieldAt b 2272 32 == 0 && (s.flashState != 2 && s.flashState != 3 || prGeom b == s.flash.geom)

/-- Good blocks of a channel. -/
def goodBlocks (dies blocks ch : Nat) : Nat :=
  ((List.range dies).map (fun d => (List.range blocks).countP (fun b => !Config.factoryBad (blockKey ch d b)))).sum

/-- Blank media formatted: regions, spares and capacity from the good blocks of each channel. The journal reserve of 8 bands
comes out of the native bands (R316). -/
def State.format (s : State) (b : Bytes) : State :=
  let (dies, blocks) := (s.diesPerCh, prBlocks b)
  let good := (List.range 32).map (goodBlocks dies blocks)
  let pct (f : Fld) (n : Nat) : Nat := n * s.get f / 100
  let least (l : List Nat) : Nat := l.foldl min (l.headD 0)
  let slc := least (good.map (pct F.FLASH_CFG_SLC_PCT))
  let spare := good.map (pct F.FLASH_CFG_SPARE_PCT)
  let nat := least ((good.zip spare).map (fun x => x.1 - x.2 - pct F.FLASH_CFG_SLC_PCT x.1)) - 8
  let g := good.sum * prRowsNative b * 65536
  let usable := g * 31 / 32 * (100 - s.get F.FLASH_CFG_SLC_PCT) / 100 * (100 - s.get F.FLASH_CFG_RESERVE_PCT) / 100 / 262144
  let s := (spare.mapIdx (fun c n => (c, n))).foldl (fun s x => s.put F.FLASH_SPARE_LEFT x.2 x.1) s
  let f := s.flash
  let s := { s with flash := { f with
    formatted := true, blocks := [], bands := [], mus := [], groups := [], image := {}, erasing := [], spareStart := spare
    slcTotal := slc, natTotal := nat, geom := prGeom b, journalSeq := 0, ckptSeq := 0, shutdownRec := false
    health := { f.health with factoryBad := 32 * dies * blocks - good.sum, grownBad := 0 }
    saved := { f.health with factoryBad := 32 * dies * blocks - good.sum, grownBad := 0 } } }
  (s.put F.FLASH_USABLE_LEAVES (min (2 ^ 32 - 1) usable)).put F.FLASH_STATUS_STATE 2

/-- Blocks programmed under an epoch of the profile. -/
def State.profileUsers (s : State) (e : Epoch) : Nat :=
  s.flash.blocks.countP (fun x => (x.2.state == 1 || x.2.state == 2) && x.2.profileEpoch == e)

/-- TABLE_LOAD of a media profile; on blank media it formats. -/
def effTableLoadMediaProfile (s : State) (rid : Nat) : State :=
  match s.startedLoad? rid 3 with
  | none => s
  | some r =>
    let t := s.flash.profiles
    if r.part != 0 then s.complete rid .accessDenied
    else if t.other.loaded && s.profileUsers t.other.epoch != 0 then s.complete rid .busyTeardown
    else match s.bundleRead r with
      | .fail st => s.failRead rid st
      | .ok b =>
        if s.flashState = 0 || s.flashState = 4 || !s.profileOk b then s.complete rid .badFormat
        else
          let s := if s.flashState = 1 then (s.format b).parts.keys.foldl (fun (s : State) p => s.writeAnchor p) (s.format b) else s
          let t := (t.load b).switch
          let s := { s with flash := { s.flash with profiles := t } }
          let s := s.put F.FLASH_STATUS_PROFILE_EPOCH t.epoch.toNat
          ((s.openGroup { recs := [.profile t.epoch] }).2).complete rid .ok { result0 := t.epoch.toNat }

def execTableLoadMediaProfile (e : Env) (rid : Nat) (s : State) : Host.Outcome State Fault Refusal :=
  .next (effTableLoadMediaProfile (s.enter e) rid)

end Sys2Proof.Machine
end

