-- ==== Sys2Proof/Machine/Mount.lean ====
section
/-! DEFINITION. The durable store rebuilt from flash (R302), the key anchor (R429), and the mount (R466, step 5, R469, R471). -/

namespace Sys2Proof.Machine

open Sys2Proof

/-! ### Leaf key sets and the key anchor (R426, R429, R430) -/

/-- The record of a partition taken out of both anchor copies (R439, step 2; log entry 110). -/
def State.clearAnchor (s : State) (p : Nat) : State :=
  if s.anchorUp then { s with sec := { s.sec with anchor := s.sec.anchor.erase p } } else s

/-- A key set drawn for an epoch of a partition. -/
def State.drawKey (s : State) (p : Nat) (e : Epoch) : State :=
  { s with
    sec := { s.sec with draws := s.sec.draws + 1 }
    parts := s.parts.set p { (s.parts.getD p {}) with keys := (s.parts.getD p {}).keys.set e.toNat s.sec.draws } }

/-- The two key slots of a partition cleared, and epoch 0 with a fresh key set (R430; log entry 110). -/
def State.freshKeys (s : State) (p : Nat) : State :=
  let s := { s with parts := s.parts.set p { (s.parts.getD p {}) with keys := [], sweep := false } }
  let s := (s.put F.PART_KEY_STATUS_CURRENT_EPOCH 0 p).put F.PART_KEY_STATUS_OTHER_LOADED 0 p
  ((s.put F.PART_KEY_STATUS_OTHER_EPOCH 0 p).drawKey p 0).writeAnchor p

/-- The key sets of a record of the anchor taken into the key store (log entry 110). -/
def State.takeKeys (s : State) (p : Nat) (r : KeyRec) : State :=
  let s := { s with parts := s.parts.set p { (s.parts.getD p {}) with keys := r.keys } }
  let s := s.put F.PART_KEY_STATUS_CURRENT_EPOCH r.current p
  match r.keys.find? (fun (k : Nat × Nat) => k.1 != r.current) with
  | some k => (s.put F.PART_KEY_STATUS_OTHER_EPOCH k.1 p).put F.PART_KEY_STATUS_OTHER_LOADED 1 p
  | none => s

/-! ### The store that the journal describes (R302) -/

/-- A journaled sequence as a mount restores it (item 2): PUBLISHED at its published_chunks, with no lease holder (log entry 85). -/
def Sequ.restored (q : Sequ) : Sequ :=
  let cs := (q.chunks.filter (fun c => c.number < q.publishedChunks)).mergeSort (fun a b => a.number ≤ b.number)
  { q with
    state := .published, holderIndex := 0, holderPosition := 0, holderKind := 0, leaseExpiry := 0
    totalChunks := q.publishedChunks, openTokens := 0, scan := q.scanPub, withheld := false
    lastHash := match cs.getLast? with | some c => c.hash | none => q.lastHash
    chunks := cs.map (fun (c : Chunk) => { c with published := true, tokens := [] }) }

/-- The sequences that the journal keeps. -/
def Image.liveSeqs (m : Image) : Table Sequ :=
  m.seqs.filterMap (fun (x : Nat × Sequ) =>
    if x.2.state = .free || x.2.state = .retired then none else some (x.1, x.2.restored))

/-- The leaf indices that chunk records of some sequences name, with the partition of the sequence. -/
def namedLeaves (t : Table Sequ) : List (Nat × Nat) :=
  t.flatMap (fun (x : Nat × Sequ) => x.2.chunks.flatMap (fun c => c.leaves.map (fun i => (i, x.2.partition))))

/-- One entry of the root index rebuilt (item 6). The context tag of a sequence whose shape record is not loaded is free (log entry 61). -/
def State.rebuildEntry (s : State) (e : Nat × Nat) : State :=
  match s.seqs.get? e.1 with
  | none => s
  | some q => match q.chunks.find? (fun c => c.number == e.2) with
    | none => s
    | some c =>
      let x := s.indexEntry e.1 q c
      let (x, s) := if s.seqShape q = [] then ({ x with ctxTag := s.free.1 % 256 }, s.free.2) else (x, s)
      (s.insertEntry x).2

/-- Leaves that a published chunk names and that have no LEAF record (item 4): EVICTING with no copy. -/
def State.addEvicting (s : State) (named : List (Nat × Nat)) (x : Nat × Nat) : State :=
  let (g, s) := s.free
  let old := s.leaf x.1
  s.setLeaf x.1 { state := .evicting, partition := x.2, generation := if old.generation = 0 then BitVec.ofNat 8 g else old.generation
                  withheld := old.withheld, refCount := named.countP (fun y => y.1 == x.1) }

/-- Tier 0 rebuilt from what the checkpoint and the committed groups describe (items 1 to 6). `s.leaves` and `s.seqs` hold what
keeps its generation: the indices that are not restored (log entries 84, 85). -/
def State.restoreStore (s : State) : State :=
  let m := s.flash.image
  let seqs := m.liveSeqs
  let named := namedLeaves seqs
  let back := m.leaves.map (fun (x : Nat × Leaf) =>
    let l := x.2.restored x.1 x.2.flashQuarters
    let known := (s.sec.anchor.get? l.partition).isSome
    (x.1, ({ l with
      refCount := named.countP (fun y => y.1 == x.1)
      durable := l.durable.map (fun (c : Copy) => { c with tagBad := c.tagBad || !known }) } : Leaf)))
  let s := { s with
    seqs := seqs.foldl (fun (t : Table Sequ) x => t.set x.1 x.2) s.seqs
    leaves := back.foldl (fun (t : Table Leaf) x => t.set x.1 x.2) s.leaves
    holds := [], promos := [], jobs := [] }
  let missing := (named.filter (fun x => (m.leaves.get? x.1).isNone)).foldl
    (fun (acc : List (Nat × Nat)) x => if acc.any (fun y => y.1 == x.1) then acc else acc ++ [x]) []
  let s := missing.foldl (fun (s : State) x => s.addEvicting named x) s
  let s := back.foldl (fun (s : State) x => if x.2.refCount = 0 then s.poisonLeaf x.1 else s) s
  m.index.foldl (fun (s : State) e => s.rebuildEntry e) ({ s with roots := [] }.setRoots [])

/-! ### The mount (R466, step 5) -/

/-- What a mount makes of the media: programs that were not complete are lost, rows that were left open are closed (R295), and
what no group committed is gone (log entry 85). -/
def Flash.remounted (f : Flash) : Flash :=
  { f with
    mus := (f.mus.filter (fun (x : Nat × Mu) => x.2.done)).map (fun (x : Nat × Mu) => (x.1, { x.2 with closed := true }))
    groups := [], dies := [], folding := false, collecting := false, shutdownRec := false, health := f.saved }

/-- MOUNT: in phase MOUNTING, on formatted media. Where no anchor copy or no checkpoint can be read, bring-up halts. -/
def effMount (s : State) (readable : Bool) : State :=
  if s.phase != 3 || !s.flash.formatted || s.diesPerCh = 0 || s.flashState != 0 then s
  else if !readable then (s.put F.GLB_BOOT_STATUS_PHASE 6).put F.GLB_BOOT_STATUS_FAIL_CODE 4
  else
    let f := s.flash
    let unclean := !f.shutdownRec
    let h := if unclean then { f.saved with uncleanMounts := f.saved.uncleanMounts + 1 } else f.saved
    let f : Flash := { f with saved := h, mountAt := s.time, mediaHours := f.mediaHours + s.get F.FLASH_MOUNT_CFG_OFF_HOURS }
    let s := { s with flash := f.remounted }
    let s := ((s.put F.FLASH_STATUS_STATE 4).put F.FLASH_STATUS_SAFE (s.get F.FLASH_STATUS_PF)).put F.FLASH_STATUS_UNCLEAN (b2n unclean)
    let s := (s.put F.GLB_MOUNT_TIME_UNCLEAN (b2n unclean)).put F.FLASH_STATUS_PROFILE_EPOCH f.profiles.epoch.toNat
    let s := s.sec.anchor.foldl (fun (s : State) x => s.takeKeys x.1 x.2) s
    let s := (f.spares.mapIdx (fun c n => (c, n))).foldl (fun (s : State) x => s.put F.FLASH_SPARE_LEFT x.2 x.1) s
    (s.put F.FLASH_USABLE_LEAVES f.usable).restoreStore

def execMount (e : Env) (readable : Bool) (s : State) : Host.Outcome State Fault Refusal :=
  .next (effMount (s.enter e) readable)

/-- A partition whose key record the anchor holds: FREE with RESTORED set (R466, step 6). -/
def State.markRestored (s : State) (p : Nat) : State :=
  if p = 0 then s
  else ({ s with parts := s.parts.set p { (s.parts.getD p {}) with restored := true } }).put F.PART_STATE_RESTORED 1 p

/-- MOUNT_DONE: phase READY. Blank or absent media has nothing to mount (log entry 34). -/
def effMountDone (s : State) : State :=
  let mounts := s.flash.formatted && s.diesPerCh != 0
  if s.phase != 3 || (mounts && s.flashState != 4) then s
  else
    let s := if mounts then
        (s.put F.FLASH_STATUS_STATE (if s.flash.readOnly then 3 else 2)).put F.GLB_MOUNT_TIME_MS
          (min (2 ^ 24 - 1) ((s.time - s.flash.mountAt) / 1000000))
      else s
    let s := (s.put F.GLB_BOOT_STATUS_PHASE 4).put F.PART_STATE_STATE 1 0
    let s := if mounts then s.sec.anchor.keys.foldl (fun (s : State) p => s.markRestored p) s else s
    let s := if (s.parts.getD 0 {}).keys = [] then s.freshKeys 0 else s
    s.raise gFirmware 0

def execMountDone (e : Env) (s : State) : Host.Outcome State Fault Refusal := .next (effMountDone (s.enter e))

end Sys2Proof.Machine
end

