-- ==== Sys2Proof/Machine/Traffic.lean ====
section
/-! DEFINITION. Traffic (R366 to R376): the egress scheduler, shapers, sampling, PFC and the ingress meters. -/

namespace Sys2Proof.Machine

open Sys2Proof

def State.txq (s : State) (e k : Nat) : TxQ := s.txqs.getD (e * 64 + k) {}
def State.setTxq (s : State) (e k : Nat) (q : TxQ) : State := { s with txqs := s.txqs.set (e * 64 + k) q }
def State.txport (s : State) (e : Nat) : TxPort := s.txports.getD e {}
def State.setTxport (s : State) (e : Nat) (p : TxPort) : State := { s with txports := s.txports.set e p }

/-! ### Lengths and eligibility (R368, R369) -/

/-- OVERHEAD as a signed number. -/
def TxPort.over (p : TxPort) : Int := toSigned 8 p.overhead

/-- The counted length of a frame. -/
def countedLen (p : TxPort) (len : Nat) : Nat := (max 1 ((len : Int) + p.over)).toNat

/-- The largest counted length. -/
def maxCounted (p : TxPort) : Nat := ((4352 : Int) + p.over).toNat

/-- Whether an egress port can start a frame: its link is up (R366, R373; log entry 128). -/
def State.portUp (s : State) (e : Nat) : Bool :=
  if e < 16 then bit (s.get F.NET_PORT_STATUS_LINK_UP (e / 4)) (e % 4)
  else if e = 16 then s.on F.RING_STATUS_EAST_UP
  else if e = 17 then s.on F.RING_STATUS_WEST_UP
  else e == 18

/-- Whether a queue of a port is eligible. -/
def TxQ.eligible (q : TxQ) (e : Nat) (p : TxPort) : Bool :=
  match q.frames with
  | [] => false
  | f :: _ => (q.rate == 0 || decide (0 ≤ q.credit)) && !(decide (e < 16) && p.paused.contains f.prio)

def TxQ.headLen (q : TxQ) (p : TxPort) : Nat := match q.frames with | f :: _ => countedLen p f.len | [] => 0

/-- The cap of a queue's deficit. -/
def TxQ.deficitCap (q : TxQ) (p : TxPort) : Nat := q.quantum * 64 + maxCounted p

/-- The weighted pick of R369: at most 121 looks round the queues 4 to 63. -/
def State.pickWeighted (s : State) (e : Nat) : Nat → Option Nat × State
  | 0 => (none, s)
  | n + 1 =>
    let p := s.txport e
    let w := s.txq e p.cur
    if w.frames != [] && w.quantum != 0 && w.eligible e p && w.headLen p ≤ w.deficit then
      (some p.cur, s.setTxq e p.cur { w with deficit := w.deficit - w.headLen p })
    else
      let s := if w.frames = [] && w.deficit != 0 then s.setTxq e p.cur { w with deficit := 0 } else s
      let cur := 4 + (p.cur - 4 + 1) % 60
      let s := s.setTxport e { p with cur := cur }
      let x := s.txq e cur
      let s := if x.frames != [] && x.quantum != 0 then
          s.setTxq e cur { x with deficit := min (x.deficit + x.quantum * 64) (x.deficitCap p) }
        else s
      State.pickWeighted s e n

/-- The queue that sends next (R369). -/
def State.pickQueue (s : State) (e : Nat) : Option Nat × State :=
  let p := s.txport e
  match (List.range 4).find? (fun k => (s.txq e k).eligible e p) with
  | some k => (some k, s)
  | none =>
    match s.pickWeighted e 121 with
    | (some k, s) => (some k, s)
    | (none, s) =>
      let weighted := (List.range 60).map (· + 4)
      if weighted.any (fun k => (s.txq e k).quantum != 0 && (s.txq e k).eligible e p) then (none, s)
      else (weighted.find? (fun k => (s.txq e k).quantum == 0 && (s.txq e k).eligible e p), s)

/-- A frame starts: it leaves its queue, is sent, and pays its shaper; one in 2^DELAY_LOG2 is timed (R370, R376; log entry 101). The
response of a QWP request frees its slot (R358). -/
def State.startFrame (s : State) (e k : Nat) : State :=
  let p := s.txport e
  let q := s.txq e k
  match q.frames with
  | [] => s
  | f :: rest =>
    let n := q.timed + 1
    let d := min 65535 ((s.time - f.entered) / 64)
    let timed := n % 2 ^ s.get F.TRAFFIC_PORT_CFG_DELAY_LOG2 e == 0
    let q := { q with
      frames := rest, timed := n
      credit := if q.rate = 0 then q.credit else q.credit - 256 * (countedLen p f.len : Int)
      delayLast := if timed then d else q.delayLast
      delayMax := if timed then max d q.delayMax else q.delayMax }
    let s := (s.setTxq e k q).send f.what
    match f.slot, f.qp with
    | true, some qp => s.freeSlots qp 1
    | _, _ => s

/-- The port can start a frame. -/
def effEgressFrameStart (s : State) (e : Nat) : State :=
  if !s.portUp e then s
  else match s.pickQueue e with
    | (some k, s) => s.startFrame e k
    | (none, s) => s

def execEgressFrameStart (e : Env) (port : Nat) (s : State) : Host.Outcome State Fault Refusal :=
  .next (effEgressFrameStart (s.enter e) port)

/-! ### Shapers (R370, R371) -/

/-- The burst of a shaper in bytes with 8 fraction bits (log entry 101). -/
def TxQ.burstCredit (q : TxQ) : Int := 256 * 64 * (max 0x44 q.burst : Nat)

/-- What was written to a queue since the last refill takes effect. -/
def TxQ.settleCfg (q : TxQ) (p : TxPort) : TxQ :=
  let was := q.rate
  let q := { q with
    rate := q.newRate.getD q.rate, burst := q.newBurst.getD q.burst, quantum := q.newQuantum.getD q.quantum
    newRate := none, newBurst := none, newQuantum := none }
  { q with
    deficit := min q.deficit (q.deficitCap p)
    credit := if was = 0 && q.rate != 0 then q.burstCredit else min q.credit q.burstCredit }

/-- One queue at a refill (log entry 33). -/
def TxQ.refill (q : TxQ) (p : TxPort) : TxQ :=
  let q := q.settleCfg p
  if q.rate = 0 then q
  else { q with credit := min q.burstCredit (q.credit + (q.rate * (p.interval * 256) * 256 / 8000 : Nat)) }

def effShaperRefill (s : State) (e : Nat) : State :=
  if e > 18 then s
  else
    let p := { s.txport e with interval := max 1 (s.get F.TRAFFIC_PORT_CFG_INTERVAL e), overhead := s.get F.TRAFFIC_PORT_CFG_OVERHEAD e }
    let s := s.setTxport e p
    { s with txqs := s.txqs.map (fun (x : Nat × TxQ) => if x.1 / 64 = e then (x.1, x.2.refill p) else x) }

def execShaperRefill (e : Env) (port : Nat) (s : State) : Host.Outcome State Fault Refusal :=
  .next (effShaperRefill (s.enter e) port)

/-! ### Sampling (R376) -/

/-- The bytes that a queue holds. -/
def TxQ.bytes (q : TxQ) : Nat := q.frames.foldl (fun n f => n + f.len) 0

def effQueueDepthSample (s : State) (e : Nat) : State :=
  { s with txqs := s.txqs.map (fun (x : Nat × TxQ) =>
      if x.1 / 64 = e then
        let d := min 65535 (x.2.bytes / 64)
        (x.1, { x.2 with depthLast := d, depthMax := max d x.2.depthMax })
      else x) }

def execQueueDepthSample (e : Env) (port : Nat) (s : State) : Host.Outcome State Fault Refusal :=
  .next (effQueueDepthSample (s.enter e) port)

/-- TRAFFIC_STAT_CTL.CLEAR: the maxima of the selected queue, or of every queue. -/
def effTrafficStatClear (s : State) (port queue : Nat) (all : Bool) : State :=
  { s with txqs := s.txqs.map (fun (x : Nat × TxQ) =>
      if all || x.1 = port * 64 + queue then (x.1, { x.2 with depthMax := 0, delayMax := 0 }) else x) }

def execTrafficStatClear (e : Env) (port queue : Nat) (all : Bool) (s : State) : Host.Outcome State Fault Refusal :=
  .next (effTrafficStatClear (s.enter e) port queue all)

/-- A write of PART_TRAFFIC_Q: the move to another queue waits for the old one (R372); RING_Q 0 is ignored. -/
def effPartTrafficQWrite (s : State) (p val : Nat) : State :=
  let s := s.put F.PART_TRAFFIC_Q_HOST_Q (bits val 5 0) p
  if bits val 13 8 = 0 then s else s.put F.PART_TRAFFIC_Q_RING_Q (bits val 13 8) p

def execPartTrafficQWrite (e : Env) (p val : Nat) (s : State) : Host.Outcome State Fault Refusal :=
  .next (if p < 128 then effPartTrafficQWrite (s.enter e) p val else s.enter e)

/-- A PFC frame pauses or resumes a priority of a sub-port whose port has PFC on it (R345, R369). -/
def effPfcPause (s : State) (port prio : Nat) (paused : Bool) : State :=
  if port ≥ 16 || prio ≥ 8 || (paused && !bit (s.get F.NET_PORT_CFG_PFC_EN (port / 4)) prio) then s
  else
    let p := s.txport port
    let rest := p.paused.filter (· != prio)
    s.setTxport port { p with paused := if paused then prio :: rest else rest }

def execPfcPause (e : Env) (port prio : Nat) (paused : Bool) (s : State) : Host.Outcome State Fault Refusal :=
  .next (effPfcPause (s.enter e) port prio paused)

/-! ### Ingress meters (R374, R375) -/

def State.meter (s : State) (p : Nat) : Meter := s.meters.getD p {}

/-- A bucket size in bytes with 8 fraction bits. -/
def bucketSize (units : Nat) : Nat := 256 * max 4352 (64 * units)

/-- The meter of a partition with what its registers hold now, and full buckets. -/
def State.loadMeter (s : State) (p : Nat) : Meter :=
  { mode := s.get F.PART_METER_CFG_MODE p, yellow := s.get F.PART_METER_CFG_YELLOW_ACT p, red := s.get F.PART_METER_CFG_RED_ACT p
    cir := s.get F.PART_METER_CIR_MBPS p, pir := s.get F.PART_METER_PIR_MBPS p
    cbs := s.get F.PART_METER_BURST_CBS p, ebs := s.get F.PART_METER_BURST_EBS_PBS p
    tc := bucketSize (s.get F.PART_METER_BURST_CBS p), te := bucketSize (s.get F.PART_METER_BURST_EBS_PBS p) }

/-- Tokens of 256 ns at a rate in Mb/s. -/
def rateTokens (mbps : Nat) : Nat := mbps * 256 * 256 / 8000

/-- A refill of the buckets: in mode 1 what overflows the committed bucket goes to the excess bucket. -/
def Meter.refill (m : Meter) : Meter :=
  match m.mode with
  | 1 =>
    let sum := m.tc + rateTokens m.cir
    let tc := min (bucketSize m.cbs) sum
    { m with tc := tc, te := min (bucketSize m.ebs) (m.te + (sum - tc)) }
  | 2 => { m with
      tc := min (bucketSize m.cbs) (m.tc + rateTokens m.cir)
      te := min (bucketSize m.ebs) (m.te + rateTokens (max m.pir m.cir)) }
  | _ => m

def effMeterRefill (s : State) (p : Nat) : State :=
  let m := s.meter p
  { s with meters := s.meters.set p (if m.changed then s.loadMeter p else m.refill) }

def execMeterRefill (e : Env) (p : Nat) (s : State) : Host.Outcome State Fault Refusal :=
  .next (if p < 128 then effMeterRefill (s.enter e) p else s.enter e)

/-- The colour of a packet: 0 green, 1 yellow, 2 red, and the meter after it. -/
def Meter.colour (m : Meter) (len : Nat) : Nat × Meter :=
  let n := 256 * len
  match m.mode with
  | 1 =>
    if m.tc ≥ n then (0, { m with tc := m.tc - n })
    else if m.te ≥ n then (1, { m with te := m.te - n })
    else (2, m)
  | 2 =>
    if m.te < n then (2, m)
    else if m.tc < n then (1, { m with te := m.te - n })
    else (0, { m with te := m.te - n, tc := m.tc - n })
  | _ => (0, m)

/-- A request packet of a partition measured: whether it passes, and its ECN field then (R375). -/
def State.measure (s : State) (p len ecn : Nat) : Bool × Nat × State :=
  let m := s.meter p
  let (c, m2) := m.colour len
  let s := { s with meters := s.meters.set p m2 }
  let s := match c with
    | 0 => s.bump F.TRAFFIC_METER_GREEN_COUNT 1 p
    | 1 => s.bump F.TRAFFIC_METER_YELLOW_COUNT 1 p
    | _ => s.bump F.TRAFFIC_METER_RED_COUNT 1 p
  let act := match c with | 0 => 0 | 1 => m.yellow | _ => m.red
  if act = 2 || (act = 1 && ecn = 0) then (false, ecn, s.bump F.TRAFFIC_METER_DROP_COUNT 1 p)
  else if act = 1 then (true, 3, s)
  else (true, ecn, s)

/-- The packets of a message measured one after the other: whether all pass, and whether one carries CE. -/
def State.measureAll (s : State) (p ecn : Nat) : List Nat → Bool × Bool × State
  | [] => (true, ecn == 3, s)
  | len :: rest =>
    match s.measure p len ecn with
    | (ok, e, s) =>
      let r := State.measureAll s p ecn rest
      (ok && r.1, e == 3 || r.2.1, r.2.2)

end Sys2Proof.Machine
end

