-- ==== Sys2Proof/Machine/Net.lean ====
section
/-! DEFINITION. The network (R345 to R364): queue pairs, memory regions, RDMA in both directions, and QWP requests. -/

namespace Sys2Proof.Machine

open Sys2Proof

def State.qp (s : State) (k : Nat) : Qp := s.qps.getD k {}
def State.setQp (s : State) (k : Nat) (q : Qp) : State := { s with qps := s.qps.set k q }

/-! ### Ports (R345, R346) -/

/-- Sub-ports of a mode (log entry 128). -/
def modeSubs (m : Nat) : Nat := match m with | 2 => 2 | 4 => 4 | _ => 1

/-- The rate of a sub-port in MB/s. -/
def modeRate (m : Nat) : Nat := match m with | 0 => 100000 | 1 => 50000 | 2 => 50000 | 3 => 25000 | 4 => 25000 | _ => 12500

/-- A sub-port gains or loses its link. -/
def effSubportLinkChange (s : State) (port sub : Nat) (up : Bool) : State :=
  let was := s.get F.NET_PORT_STATUS_LINK_UP port
  if port ≥ 4 || sub ≥ modeSubs (s.get F.NET_PORT_CFG_MODE port) || bit was sub = up
      || (up && (!s.on F.NET_PORT_CFG_ENABLE port || !s.pdOn (84 + port) || !s.dieWorks (port / 2))) then s
  else
    let s := s.put F.NET_PORT_STATUS_LINK_UP (setBits was sub sub (b2n up)) port
    (if up then s.put F.NET_PORT_STATUS_MODE (s.get F.NET_PORT_CFG_MODE port) port else s).raise gNetwork port

def execSubportLinkChange (e : Env) (port sub : Nat) (up : Bool) (s : State) : Host.Outcome State Fault Refusal :=
  .next (effSubportLinkChange (s.enter e) port sub up)

/-! ### Queue pairs (R349, R350) -/

/-- Queue pairs that a partition holds. -/
def State.qpCount (s : State) (p : Nat) : Nat := s.qps.countP (fun x => x.2.state != .reset && x.2.partition == p)

/-- A queue pair as its context describes it (R349), with the rate of its sub-port (R347). -/
def parseQp (b : Bytes) (rate : Nat) : Qp := {
  state := .rts, partition := sfield b 0 6 0, port := sfield b 1 1 0, subPort := sfield b 1 3 2
  fatalMode := bit (fieldAt b 1 1) 4, qwpV1 := bit (fieldAt b 1 1) 5, qwpV2 := bit (fieldAt b 1 1) 6, pmtu := sfield b 2 2 0
  egressQueue := sfield b 3 5 0, remoteQpn := fieldAt b 4 3, sendPsn := fieldAt b 8 3, expectPsn := fieldAt b 12 3
  lastPsn := (fieldAt b 12 3 + 2 ^ 24 - 1) % 2 ^ 24, rqDepth := sfield b 16 10 0, retryCnt := sfield b 18 2 0
  rnrRetry := sfield b 18 5 3, timeout := sfield b 19 4 0, minRnrTimer := sfield b 20 4 0, udpSrcPort := fieldAt b 22 2
  remoteIp := fieldAt b 24 16, remoteMac := fieldAt b 40 6, vlanId := sfield b 46 11 0, pcp := sfield b 46 14 12
  vlanEn := bit (fieldAt b 46 2) 15, dscp := sfield b 48 5 0, hopLimit := fieldAt b 49 1
  retriesLeft := sfield b 18 2 0, rnrLeft := sfield b 18 5 3, rate := rate }

/-- The fields of a context in range (log entry 96). -/
def State.qpCtxOk (s : State) (b : Bytes) : Bool :=
  !bit (fieldAt b 0 1) 7 && !bit (fieldAt b 1 1) 7 && sfield b 2 7 3 == 0 && sfield b 3 7 6 == 0 && fieldAt b 7 1 == 0
    && fieldAt b 11 1 == 0 && fieldAt b 15 1 == 0 && sfield b 16 15 11 == 0 && sfield b 18 7 6 == 0 && sfield b 19 7 5 == 0
    && sfield b 20 7 5 == 0 && fieldAt b 21 1 == 0 && sfield b 48 7 6 == 0 && leNat ((b.drop 50).take 14) == 0
    && sfield b 1 3 2 < modeSubs (s.get F.NET_PORT_CFG_MODE (sfield b 1 1 0))
    && 3 ≤ sfield b 2 2 0 && sfield b 2 2 0 ≤ 5 && 1 ≤ sfield b 16 10 0 && sfield b 16 10 0 ≤ 1024

/-- LOAD: from RESET to RTS, or CMD_ERR. -/
def effQpLoad (s : State) (k addr : Nat) : State :=
  let refuse := s.setQp k { s.qp k with cmdErr := true }
  match s.busRead (memKey 0 (addr / 64 * 64)) 64 with
  | .ok b =>
    let rate := modeRate (s.get F.NET_PORT_CFG_MODE (sfield b 1 1 0))
    let q := parseQp b rate
    if (s.qp k).state != .reset || !s.partActive q.partition || s.qpCount q.partition ≥ s.get F.PART_NET_CFG_MAX_QP q.partition
        || !s.qpCtxOk b || (!q.qwpV1 && !q.qwpV2) then refuse
    else s.setQp k { q with cmdErr := (s.qp k).cmdErr, raisedAt := s.time }
  | _ => refuse

def execQpLoad (e : Env) (qp addr : Nat) (s : State) : Host.Outcome State Fault Refusal :=
  .next (if qp < 32768 then effQpLoad (s.enter e) qp addr else s.enter e)

/-- The ERROR command. -/
def effQpError (s : State) (k : Nat) : State := if (s.qp k).state = .rts then s.qpStop k 7 else s

def execQpError (e : Env) (qp : Nat) (s : State) : Host.Outcome State Fault Refusal := .next (effQpError (s.enter e) qp)

/-- The RESET command: through ERROR where the pair runs, then DRAINING until its started requests have completed. -/
def effQpReset (s : State) (k : Nat) : State :=
  match (s.qp k).state with
  | .rts =>
    let s := s.qpStop k 7
    s.setQp k { s.qp k with state := .draining }
  | .error => s.setQp k { s.qp k with state := .draining }
  | _ => s

def execQpReset (e : Env) (qp : Nat) (s : State) : Host.Outcome State Fault Refusal := .next (effQpReset (s.enter e) qp)

/-- The last step of a RESET command. -/
def effQpDrainDone (s : State) (k : Nat) : State :=
  if (s.qp k).state = .draining && !s.reqs.any (fun x => x.2.ofQp k) then s.setQp k { cmdErr := (s.qp k).cmdErr } else s

def execQpDrainDone (e : Env) (qp : Nat) (s : State) : Host.Outcome State Fault Refusal := .next (effQpDrainDone (s.enter e) qp)

/-! ### Memory regions (R352, R353) -/

/-- MR_REGISTER: an index that is free, its key raised (log entries 35, 96). -/
def effMrRegister (s : State) (rid : Nat) : State :=
  match s.startedReq? rid [0x78] with
  | none => s
  | some r =>
    let (base, len) := (r.addr16, r.addr24)
    if len = 0 || len > 2 ^ 40 then s.bad rid 24
    else if base + len > 2 ^ 64 then s.bad rid 16
    else if r.mrAccess = 0 then s.bad rid 32
    else
      let held := s.mrs.countP (fun x => x.2.state != .free && x.2.partition == r.part)
      let all := s.mrs.countP (fun x => x.2.state != .free)
      if held ≥ s.get F.PART_NET_MR_MAX_MR r.part || all ≥ 2 ^ 20 then s.complete rid .quotaExceeded
      else match s.pick (fun k => (s.mrs.getD k {}).state != .free) (2 ^ 20) with
        | (some k, s) =>
          let key := (s.mrs.getD k {}).key + 1
          let m : Mr := { state := .admits, key := key, partition := r.part, base := base, length := len, access := r.mrAccess }
          ({ s with mrs := s.mrs.set k m }).complete rid .ok { result0 := key.toNat + k * 256 }
        | (none, s) => s.complete rid .quotaExceeded

def execMrRegister (e : Env) (rid : Nat) (s : State) : Host.Outcome State Fault Refusal := .next (effMrRegister (s.enter e) rid)

/-- Whether admitted work names a region: an inbound WRITE that is part done, or a QWP request. -/
def State.mrBusy (s : State) (k : Nat) : Bool :=
  s.qps.any (fun x => match x.2.inWrite with | some w => w.region == k | none => false)
    || s.reqs.any (fun x => x.2.srcMr.any (· / 256 == k) || x.2.dstMr.any (· / 256 == k))

/-- A region freed at the end of its drain, and every MR_REVOKE of it completed (log entry 96). -/
def State.freeMr (s : State) (k : Nat) : State :=
  let s := { s with mrs := s.mrs.set k { key := (s.mrs.getD k {}).key } }
  (s.reqs.filterMap (fun x => match x.2.wait with | .revoke j => if j = k then some x.1 else none | _ => none)).foldl
    (fun s rid => s.complete rid .ok) s

/-- MR_REVOKE: the region drains, and the request completes when no admitted work names it; the command is given again until
then. -/
def effMrRevoke (s : State) (rid : Nat) : State :=
  match s.req? rid with
  | none => s
  | some r =>
    match r.wait with
    | .revoke k => if s.mrBusy k then s else s.freeMr k
    | _ =>
      match s.startedReq? rid [0x79] with
      | none => s
      | some r =>
        let k := r.rkey / 256
        match s.mrs.get? k with
        | none => s.complete rid .notFound
        | some m =>
          if m.state = .free || m.key != BitVec.ofNat 8 r.rkey || m.partition != r.part then s.complete rid .notFound
          else
            let s := ({ s with mrs := s.mrs.set k { m with state := .drain } }).wait rid (.revoke k)
            if s.mrBusy k then s else s.freeMr k

def execMrRevoke (e : Env) (rid : Nat) (s : State) : Host.Outcome State Fault Refusal := .next (effMrRevoke (s.enter e) rid)

/-! ### What a received packet brings about (R347, R348, R354, R357) -/

/-- A packet marked CE: a CNP, at most one in 50 µs. -/
def State.congested (s : State) (k : Nat) (ce : Bool) : State :=
  let q := s.qp k
  let due : Bool := match q.cnpSent with | some t => s.time ≥ t + 50000 | none => true
  if ce && due then (s.setQp k { q with cnpSent := some s.time }).qpControl k 3 0 0 else s

/-- Packets executed in order: the expected PSN moves on; an acknowledgement is sent at the end of a message or after 8 packets
(log entry 98). -/
def State.received (s : State) (k n : Nat) (ends : Bool) : State :=
  let q := s.qp k
  let last := (q.expectPsn + n - 1) % 2 ^ 24
  let un := q.unacked + n
  let ack := ends || un ≥ 8
  let s := s.setQp k { q with
    expectPsn := (q.expectPsn + n) % 2 ^ 24, lastPsn := last, unacked := if ack then 0 else un
    oldestUnacked := if q.unacked = 0 then s.time else q.oldestUnacked }
  if ack then s.qpControl k 0 last 0 else s

/-- An error of an inbound message of `n` packets (R354): a NAK, the event, and by the error mode the message consumed or the
pair in ERROR (log entry 98). -/
def State.nakIn (s : State) (k psn n code cause : Nat) : State :=
  let q := s.qp k
  if q.fatalMode then (s.qpStop k cause).qpControl k 1 psn code
  else ((s.setQp k { q with expectPsn := (psn + n) % 2 ^ 24, inWrite := none, unacked := 0 }).qpControl k 1 psn code).rdmaAsync k cause

/-- An access error: counted as well. -/
def State.accessNak (s : State) (k psn n : Nat) : State := (s.bump F.NET_ACCESS_NAKS_COUNT).nakIn k psn n 2 1

/-- Whether a PSN lies in the 2^23 behind the expected one. -/
def Qp.behind (q : Qp) (psn : Nat) : Bool :=
  let d := (q.expectPsn + 2 ^ 24 - psn) % 2 ^ 24
  1 ≤ d && d ≤ 2 ^ 23

/-- The packets of a message of a length. -/
def Qp.packets (q : Qp) (len : Nat) : Nat := max 1 (ceilDiv len q.mtu)

/-- Whether an inbound message is admitted to a region (R353). -/
def State.mrAdmits (s : State) (k rkey addr len access : Nat) : Bool :=
  match s.mrs.get? (rkey / 256) with
  | some m => m.state == .admits && m.key == BitVec.ofNat 8 rkey && m.partition == (s.qp k).partition && bit m.access access
      && m.base ≤ addr && addr + len ≤ m.base + m.length
  | none => false

/-- An RDMA READ answered from the region's present contents, in packets (R353, R355; log entry 99). -/
def State.answerRead (s : State) (k psn addr n : Nat) (fresh : Bool) : State :=
  let q := s.qp k
  match s.busRead (memKey 0 addr) n with
  | .ok bs =>
    let s := ((List.range (q.packets n)).map (fun i => (i, (bs.drop (i * q.mtu)).take q.mtu))).foldl
      (fun (s : State) (x : Nat × Bytes) => s.enqueue q.egressPort q.egressQueue
        { len := q.frameLen x.2.length (if x.1 = 0 || x.1 + 1 = q.packets n then 4 else 0), prio := q.pcp, part := q.partition
          qp := some k, entered := s.time, what := .rdmaRead k ((psn + x.1) % 2 ^ 24) x.2 }) s
    if fresh then s.setQp k { s.qp k with expectPsn := (psn + q.packets n) % 2 ^ 24, lastPsn := (psn + q.packets n - 1) % 2 ^ 24, unacked := 0 }
    else s
  | _ => s.nakIn k psn (q.packets n) 3 6

/-- A packet in the duplicate region (R357): a WRITE (kind 0) and a SEND (1) are acknowledged and not executed, a READ (2) is
executed again. -/
def State.duplicate (s : State) (k psn kind rkey addr n : Nat) : State :=
  let q := s.qp k
  match kind with
  | 0 => (s.bump F.NET_DUP_WRITES_COUNT).qpControl k 0 q.lastPsn 0
  | 1 => (s.bump F.NET_DUP_SENDS_COUNT).qpControl k 0 q.lastPsn 0
  | _ =>
    if s.mrAdmits k rkey addr n 0 then s.answerRead k psn addr n false
    else
      let s := (s.bump F.NET_ACCESS_NAKS_COUNT)
      if q.fatalMode then (s.qpStop k 1).qpControl k 1 psn 2 else (s.qpControl k 1 psn 2).rdmaAsync k 1

def effDuplicatePacket (s : State) (k psn kind rkey addr n : Nat) : State :=
  if (s.qp k).state != .rts || !(s.qp k).behind psn then s else s.duplicate k psn kind rkey addr n

def execDuplicatePacket (e : Env) (qp psn kind rkey addr n : Nat) (s : State) : Host.Outcome State Fault Refusal :=
  .next (effDuplicatePacket (s.enter e) qp psn kind rkey addr n)

/-- The P_Key of a partition (R348). -/
def State.pkeyOf (s : State) (p : Nat) : Nat := 0x8000 + s.get F.NET_PKEY_CFG_BASE * 128 + p

/-- A request packet whose P_Key differs: measured, dropped, counted, reported. -/
def effPkeyDrop (s : State) (k pkey len ecn : Nat) : State :=
  let q := s.qp k
  if q.state != .rts || pkey = s.pkeyOf q.partition then s
  else match s.measure q.partition len ecn with
    | (false, _, s) => s
    | (true, _, s) => (s.bump F.NET_PKEY_DROPS_COUNT).rdmaAsync k 2

def execPkeyDrop (e : Env) (qp pkey len ecn : Nat) (s : State) : Host.Outcome State Fault Refusal :=
  .next (effPkeyDrop (s.enter e) qp pkey len ecn)

/-! ### Inbound RDMA (R353, R355) -/

/-- One packet of an inbound RDMA WRITE that is in order: admitted with its first, written in PSN order. -/
def State.writePacket (s : State) (k psn rkey addr total : Nat) (data : Bytes) (first last : Bool) : State :=
  let q := s.qp k
  let w : Option InWrite := if first then some { region := rkey / 256, addr := addr, left := total } else q.inWrite
  match w with
  | none => s.nakIn k psn 1 1 3
  | some w =>
    let badLen := data.length > w.left || (last && data.length != w.left) || (!last && (data.length != q.mtu || data.length = w.left))
    if first && q.inWrite.isSome then s.nakIn k psn 1 1 3
    else if first && total > 2 ^ 31 then s.nakIn k psn (q.packets total) 1 3
    else if first && !s.mrAdmits k rkey addr total 1 then s.accessNak k psn (q.packets total)
    else if badLen then s.nakIn k psn (q.packets w.left) 1 3
    else
      let s := s.busWrite (memKey 0 w.addr) data
      let rest : InWrite := { w with addr := w.addr + data.length, left := w.left - data.length }
      (s.setQp k { s.qp k with inWrite := if last then none else some rest }).received k 1 last

def effRdmaWriteInbound (s : State) (k psn rkey addr total : Nat) (data : Bytes) (first last : Bool) (len ecn : Nat) : State :=
  let q := s.qp k
  if q.state != .rts then s
  else match s.measure q.partition len ecn with
    | (false, _, s) => s
    | (true, ecn, s) =>
      let s := s.congested k (ecn == 3)
      if psn = q.expectPsn then s.writePacket k psn rkey addr total data first last
      else if q.behind psn then s.duplicate k psn 0 rkey addr total
      else s.qpControl k 1 q.expectPsn 0

def execRdmaWriteInbound (e : Env) (qp psn rkey addr total : Nat) (data : Bytes) (first last : Bool) (len ecn : Nat)
    (s : State) : Host.Outcome State Fault Refusal :=
  .next (effRdmaWriteInbound (s.enter e) qp psn rkey addr total data first last len ecn)

def effRdmaReadInbound (s : State) (k psn rkey addr n len ecn : Nat) : State :=
  let q := s.qp k
  if q.state != .rts then s
  else match s.measure q.partition len ecn with
    | (false, _, s) => s
    | (true, ecn, s) =>
      let s := s.congested k (ecn == 3)
      if psn = q.expectPsn then
        if q.inWrite.isSome || n > 2 ^ 31 then s.nakIn k psn (q.packets n) 1 3
        else if !s.mrAdmits k rkey addr n 0 then s.accessNak k psn (q.packets n)
        else s.answerRead k psn addr n true
      else if q.behind psn then s.duplicate k psn 2 rkey addr n
      else s.qpControl k 1 q.expectPsn 0

def execRdmaReadInbound (e : Env) (qp psn rkey addr n len ecn : Nat) (s : State) : Host.Outcome State Fault Refusal :=
  .next (effRdmaReadInbound (s.enter e) qp psn rkey addr n len ecn)

/-- 2 µs have passed since the oldest packet that is not acknowledged. -/
def effAckCoalesceTimer (s : State) (k : Nat) : State :=
  let q := s.qp k
  if q.state != .rts || q.unacked = 0 || s.time < q.oldestUnacked + 2000 then s
  else (s.setQp k { q with unacked := 0 }).qpControl k 0 q.lastPsn 0

def execAckCoalesceTimer (e : Env) (qp : Nat) (s : State) : Host.Outcome State Fault Refusal :=
  .next (effAckCoalesceTimer (s.enter e) qp)

/-! ### QWP requests (R358 to R361) -/

/-- The offset of the first fault of a QWP header, or none (R361, item 1). -/
def qwpFault (q : Qp) (m : Bytes) : Option Nat :=
  let v := sfield m 0 3 0
  let f := fieldAt m 1 1
  let op := fieldAt m 16 1
  let (addrOff, cntOff, cntLen) := if op = 0x30 then (32, 40, 4) else (40, 48, 2)
  let n := fieldAt m cntOff cntLen
  let base := if v = 1 then 48 else 80
  if m.length < 16 then some 0
  else if sfield m 0 7 4 != 0 || !((v = 1 && q.qwpV1) || (v = 2 && q.qwpV2)) then some 0
  else if f ≥ 8 then some 1
  else if bit f 2 then
    if v = 1 || !(op = 0x11 || op = 0x30) || fieldAt m addrOff 8 != 0 || n > 1024 then some 1
    else if fieldAt m 2 2 != m.length || m.length != base + 4 * n then some 2 else none
  else if fieldAt m 2 2 != m.length || m.length != base then some 2
  else none

/-- The opcodes that no QWP request carries (R361, item 2). -/
def qwpDenied (op : Nat) : Bool :=
  (0x50 ≤ op && op ≤ 0x52) || (0x60 ≤ op && op ≤ 0x62) || op == 0x78 || op == 0x79 || (0x7C ≤ op && op ≤ 0x7E)

/-- Whether an rkey names a region of a partition that drains (R353; log entry 96). -/
def State.mrDrains (s : State) (p : Nat) (k : Option Nat) : Bool :=
  match k with
  | none => false
  | some k => let m := s.mrs.getD (k / 256) {}; m.state == .drain && m.partition == p && m.key == BitVec.ofNat 8 k

/-- The request that a message carries (log entry 97). -/
def qwpReq (q : Qp) (k psn : Nat) (m : Bytes) : Req :=
  let f := fieldAt m 1 1
  let v := sfield m 0 3 0
  { origin := .qwp k psn, part := q.partition, entry := padTo 64 ((m.drop 16).take (if v = 1 then 32 else 64)), v2 := v != 1
    srcSpace := if bit f 0 then 0 else k + 1, dstSpace := if bit f 1 then 0 else k + 1
    srcMr := if bit f 0 then some (fieldAt m 8 4) else none, dstMr := if bit f 1 then some (fieldAt m 12 4) else none
    srcRkey := fieldAt m 8 4, dstRkey := fieldAt m 12 4, qwpVersion := v, requestId := fieldAt m 4 4
    inlineTokens := if bit f 2 then some (m.drop 80) else none }

/-- A message that does not pass its header: what its completion carries is its tag. -/
def qwpBadReq (q : Qp) (k psn : Nat) (m : Bytes) : Req :=
  { origin := .qwp k psn, part := q.partition, entry := padTo 64 ([0, 0] ++ (m.drop 18).take 2), qwpVersion := sfield m 0 3 0
    requestId := if m.length < 16 then 0 else fieldAt m 4 4 }

/-- A message admitted: it takes a slot, is acknowledged, and is a request of the pair (log entries 97, 100). -/
def State.qwpAdmit (s : State) (k psn : Nat) (m : Bytes) : State :=
  let q := s.qp k
  let rid := s.reqSeq
  let take (s : State) (r : Req) : State :=
    let s := (s.received k (q.packets m.length) true).bump F.NET_QWP_REQUESTS_COUNT
    { s with
      reqs := s.reqs.set rid r, reqSeq := rid + 1, qwpAdmitted := s.qwpAdmitted + 1
      qps := s.qps.modify k (fun x => { x with admitted := x.admitted + 1, reads := x.reads || r.srcSpace != 0 }) }
  match qwpFault q m with
  | some off => (take s (qwpBadReq q k psn m)).complete rid .badDescriptor { detail := off }
  | none =>
    let r := qwpReq q k psn m
    if qwpDenied r.opcode then (take s { qwpBadReq q k psn m with srcSpace := 0 }).complete rid .accessDenied
    else if s.mrDrains r.part r.srcMr || s.mrDrains r.part r.dstMr then (take s (qwpBadReq q k psn m)).complete rid .accessDenied
    else take s r

/-- An inbound SEND: the whole message with the lengths of its frames. Without a free slot, before READY (R468) and after a
fatal fault it meets an RNR NAK. -/
def effQwpRequest (s : State) (k psn : Nat) (m : Bytes) (lens : List Nat) (ecn : Nat) : State :=
  let q := s.qp k
  if q.state != .rts then s
  else match s.measureAll q.partition ecn lens with
    | (false, _, s) => s
    | (true, ce, s) =>
      let s := s.congested k ce
      if psn != q.expectPsn then
        if q.behind psn then s.duplicate k psn 1 0 0 0 else s.qpControl k 1 q.expectPsn 0
      else if q.inWrite.isSome || m.length > 4176 then s.nakIn k psn (q.packets m.length) 1 3
      else if !s.serves || q.admitted ≥ q.rqDepth || s.qwpAdmitted ≥ 65536 then
        (s.bump F.NET_RNR_NAKS_COUNT).qpControl k 2 psn q.minRnrTimer
      else s.qwpAdmit k psn m

def execQwpRequest (e : Env) (qp psn : Nat) (msg : Bytes) (lens : List Nat) (ecn : Nat) (s : State) :
    Host.Outcome State Fault Refusal := .next (effQwpRequest (s.enter e) qp psn msg lens ecn)

/-! ### Outbound operations (R347, R354, R356) -/

/-- Operations up to a PSN acknowledged, and the work that waited for the last of its writes completed. -/
def State.acked (s : State) (k psn : Nat) : State :=
  let q := s.qp k
  let left := q.outstanding.filter (fun o => (psn + 2 ^ 24 - o.psn) % 2 ^ 24 ≥ 2 ^ 23)
  if left.length = q.outstanding.length then s
  else
    let s := s.setQp k { q with outstanding := left, sentAt := s.time, retriesLeft := q.retryCnt, rnrLeft := q.rnrRetry }
    let done : List (Nat × Status × Cpl) := s.reqs.filterMap (fun (x : Nat × Req) => match x.2.wait with
      | .acks j st c => if j = k && !left.any (fun o => o.rid == x.1 && o.kind == 1) then some (x.1, st, c) else none
      | _ => none)
    done.foldl (fun (s : State) (w : Nat × Status × Cpl) => s.complete w.1 w.2.1 w.2.2) s

def effAckReceived (s : State) (k psn ecn : Nat) : State :=
  if (s.qp k).state != .rts then s else (s.congested k (ecn == 3)).acked k psn

def execAckReceived (e : Env) (qp psn ecn : Nat) (s : State) : Host.Outcome State Fault Refusal :=
  .next (effAckReceived (s.enter e) qp psn ecn)

/-- A NAK of an outbound operation: what came before it is acknowledged, and the pair enters ERROR. -/
def effNakReceived (s : State) (k psn : Nat) : State :=
  if (s.qp k).state != .rts then s else (s.acked k ((psn + 2 ^ 24 - 1) % 2 ^ 24)).qpStop k 5

def execNakReceived (e : Env) (qp psn : Nat) (s : State) : Host.Outcome State Fault Refusal :=
  .next (effNakReceived (s.enter e) qp psn)

/-- The payload bytes of what a queue pair sends. -/
def Out.payload : Out → Nat
  | .rdmaWrite _ _ _ _ d => d.length
  | .qwpResponse _ _ d => d.length
  | _ => 0

/-- Every operation that is not acknowledged sent again. -/
def State.resend (s : State) (k : Nat) : State :=
  let q := s.qp k
  q.outstanding.foldl (fun s o => s.enqueue q.egressPort q.egressQueue
    { len := q.frameLen o.what.payload (if o.kind = 1 then 16 else 0), prio := q.pcp, part := q.partition, qp := some k
      entered := s.time, what := o.what }) (s.setQp k { q with sentAt := s.time })

/-- The local ACK timeout: 4.096 µs × 2^timeout. -/
def Qp.ackTimeout (q : Qp) : Nat := 4096 * 2 ^ q.timeout

def effAckTimeout (s : State) (k : Nat) : State :=
  let q := s.qp k
  if q.state != .rts || q.outstanding = [] || q.timeout = 0 || s.time < q.sentAt + q.ackTimeout then s
  else if q.retriesLeft = 0 then s.qpStop k 4
  else (s.setQp k { q with retriesLeft := q.retriesLeft - 1 }).resend k

def execAckTimeout (e : Env) (qp : Nat) (s : State) : Host.Outcome State Fault Refusal := .next (effAckTimeout (s.enter e) qp)

/-- An RNR NAK: what came before it is acknowledged, the rest is sent again under rnr_retry, 7 of which is unlimited. -/
def effRnrNakReceived (s : State) (k psn : Nat) : State :=
  if (s.qp k).state != .rts then s
  else
    let s := s.acked k ((psn + 2 ^ 24 - 1) % 2 ^ 24)
    let q := s.qp k
    if q.outstanding = [] then s
    else if q.rnrRetry = 7 then s.resend k
    else if q.rnrLeft = 0 then s.qpStop k 4
    else (s.setQp k { q with rnrLeft := q.rnrLeft - 1 }).resend k

def execRnrNakReceived (e : Env) (qp psn : Nat) (s : State) : Host.Outcome State Fault Refusal :=
  .next (effRnrNakReceived (s.enter e) qp psn)

/-- A CNP: the rate falls, at most once in 50 µs. -/
def effCnpReceived (s : State) (k : Nat) : State :=
  let q := s.qp k
  if q.state != .rts then s
  else
    let due : Bool := match q.cutAt with | some t => s.time ≥ t + 50000 | none => true
    let q := { q with cnpSeen := some s.time }
    s.setQp k (if due then { q with rate := q.rate - q.rate / 2 ^ s.get F.NET_CC_CFG_DEC_LOG2, cutAt := some s.time } else q)

def execCnpReceived (e : Env) (qp : Nat) (s : State) : Host.Outcome State Fault Refusal := .next (effCnpReceived (s.enter e) qp)

/-- 55 µs without a CNP: the rate rises, up to the line rate. -/
def effRateIncrease (s : State) (k : Nat) : State :=
  let q := s.qp k
  let since := max q.raisedAt (q.cnpSeen.getD 0)
  if q.state != .rts || s.time < since + 55000 then s
  else s.setQp k { q with
    rate := min (modeRate (s.get F.NET_PORT_CFG_MODE q.port)) (q.rate + max 1 (s.get F.NET_CC_CFG_AI_MBS)), raisedAt := s.time }

def execRateIncrease (e : Env) (qp : Nat) (s : State) : Host.Outcome State Fault Refusal := .next (effRateIncrease (s.enter e) qp)

/-! ### Teardown (R351) -/

/-- The queue pairs of a partition sent through R350, and its regions drained (log entry 117). -/
def State.netTeardown (s : State) (p : Nat) : State :=
  let mine := (s.qps.filter (fun x => x.2.partition == p && x.2.state != .reset)).map (·.1)
  let s := mine.foldl (fun s k => effQpDrainDone (effQpReset s k) k) s
  { s with mrs := s.mrs.map (fun (x : Nat × Mr) =>
      if x.2.partition = p && x.2.state = .admits then (x.1, { x.2 with state := .drain }) else x) }

/-- Whether queue pairs or regions of a partition still drain; those that have drained are freed. -/
def State.netDrained (s : State) (p : Nat) : Bool × State :=
  let s := ((s.qps.filter (fun x => x.2.partition == p && x.2.state != .reset)).map (·.1)).foldl effQpDrainDone s
  let s := ((s.mrs.filter (fun x => x.2.partition == p && x.2.state == .drain)).map (·.1)).foldl
    (fun s k => if s.mrBusy k then s else s.freeMr k) s
  (!s.qps.any (fun x => x.2.partition == p && x.2.state != .reset)
    && !s.mrs.any (fun x => x.2.partition == p && x.2.state != .free), s)

end Sys2Proof.Machine
end

