-- ==== Sys2Proof/Machine/Stage.lean ====
section
/-! DEFINITION. Session staging (R337 to R340): POOL_STAGE out and in, the snapshot, and the decoding of a container (R162). -/

namespace Sys2Proof.Machine

open Sys2Proof

/-! ### Decoding a container (R161, R162) -/

/-- The bits of bytes, bit 0 first. -/
def bitsOf (bs : Bytes) : List Bool := bs.flatMap (fun b => (List.range 8).map (fun i => bit b.toNat i))

/-- One code taken from the front of a sub-stream: its byte value, and the bits behind it. -/
def takeCode (codes : List (Nat × Nat)) : Nat → Nat → Nat → List Bool → Option (Nat × List Bool)
  | 0, _, _, _ => none
  | _, _, _, [] => none
  | fuel + 1, v, l, b :: rest =>
    let v := 2 * v + b2n b
    match findIdx (fun c => c == (v, l + 1)) codes 0 with
    | some k => some (k, rest)
    | none => takeCode codes fuel v (l + 1) rest

/-- One line of 64 bytes taken from a sub-stream, given the plane of each of its bytes. -/
def takeLine (codes : List (List (Nat × Nat))) : List Nat → List Bool → Option (Bytes × List Bool)
  | [], bs => some ([], bs)
  | p :: ps, bs =>
    match takeCode (codes.getD p []) 12 0 0 bs with
    | none => none
    | some (v, rest) => match takeLine codes ps rest with
      | some (t, rest) => some (BitVec.ofNat 8 v :: t, rest)
      | none => none

/-- The lines of a sub-stream in order. -/
def takeLines (codes : List (List (Nat × Nat))) : List (List Nat) → List Bool → Option (List Bytes)
  | [], _ => some []
  | l :: ls, bs =>
    match takeLine codes l bs with
    | none => none
    | some (x, rest) => (takeLines codes ls rest).map (x :: ·)

/-- The payload of `u` bytes that a container holds, or none where it holds no such payload. -/
def decodeContainer (lens : List (List Nat)) (kf vf k v u : Nat) (c : Bytes) : Option Bytes :=
  let codes := lens.map canonical
  let lines := chunksOf 64 (u / 64 + 1) ((List.range u).map (planeOf kf vf k v))
  let subLen (i : Nat) : Nat := fieldAt c (4 * i) 4 % 2 ^ 18
  let subs := (List.range 16).map (fun i =>
    takeLines codes (subLines i lines) (bitsOf ((c.drop (64 + ((List.range i).map subLen).sum)).take (subLen i))))
  match subs.mapM id with
  | none => none
  | some ls => some ((List.range lines.length).flatMap (fun i => (ls.getD (i % 16) []).getD (i / 16) []))

/-! ### The snapshot (R337, R338) -/

/-- The identifier of a sequence's chain-hash scope (R428). -/
def State.scopeNo (s : State) (q : Sequ) : Nat :=
  if q.shared then s.pair F.SEC_SGRP_ID_LO_ID F.SEC_SGRP_ID_HI_ID q.shareGroup
  else s.pair F.PART_SEC_TENANT_LO_ID F.PART_SEC_TENANT_HI_ID q.partition

/-- The public identifier of a sequence's scope. -/
def State.scopeIdOf (s : State) (q : Sequ) : Nat := scopeIdent s.fleetSecret (b2n q.shared) (s.scopeNo q)

/-- The staging key set of a sequence's scope and a staging epoch. -/
def State.stageKey (s : State) (q : Sequ) (epoch : Nat) : Nat := stageKeys s.fleetSecret (b2n q.shared) (s.scopeNo q) epoch

/-- The leaf image of directory entry `e` (R294, R338): under the staging key, with no generation and no sequence. -/
def State.leafImage (s : State) (key e : Nat) (l : Leaf) (c : Copy) : Bytes :=
  let h := { c.hdr with generation := 0, sequenceIndex := 0 }
  let stored := encryptUnits key e 0 0 (s.plainStored l c)
  let b := hdrBytes { h with tag := leafTag key e 0 h stored } ++ stored
  padTo (roundUp b.length 4096) b

/-- The metadata of a snapshot in front of its leaf area, given the tables and the lengths of the leaf images. -/
def State.snapMeta (s : State) (q : Sequ) (k : Nat) (tables : List Bytes) (lens : List Nat) : Bytes :=
  let sh := s.seqShape q
  let epoch := s.get F.SEC_STAGE_EPOCH_CURRENT
  let area := roundUp (256 + 1024 * tables.length + 32 * k + 4 * lens.length) 4096
  let offs := (List.range lens.length).map (fun i => (area + ((lens.take i).sum)) / 4096)
  let head := leBytes 2 1 ++ leBytes 2 0 ++ leBytes 4 k ++ leBytes 2 (shLayers sh) ++ leBytes 2 tables.length ++ leBytes 4 area
    ++ leBytes 8 (area + lens.sum) ++ leBytes 8 (s.scopeIdOf q) ++ leBytes 2 q.adapterId ++ leBytes 1 epoch
    ++ leBytes 1 q.persist.code ++ leBytes 4 0
  let tail := padTo (area - 48) (padTo 208 (sh.take 44) ++ tables.flatten
    ++ (q.chunks.take k).flatMap (fun c => leBytes 16 c.hash ++ chunkMeta c 0) ++ offs.flatMap (leBytes 4))
  head ++ leBytes 8 (tag64 (s.stageKey q epoch) (head ++ tail)).toNat ++ tail

/-- The code tables that a set of leaves was encoded under, each once, in the order in which the leaves name them. -/
def State.stageTables (s : State) (ls : List (Leaf × Copy)) : List Bytes :=
  let keys := (ls.map (fun x => (x.1.partition, x.2.hdr.shapeIndex, x.2.hdr.keyFormat, x.2.hdr.codecEpoch))).eraseDups
  keys.map (fun k => tableRecord (s.codeTable (scopeKey k.1 k.2.1 k.2.2.1) k.2.2.2) k.2.2.2 k.2.2.1 k.2.1)

/-! ### POOL_STAGE out (R339) -/

/-- Bytes written to a shared window: the read buffers hold them no longer, and the buckets pay (R327). -/
def State.poolWrite (s : State) (p target addr : Nat) (bs : Bytes) : State :=
  ((s.busWrite (memKey poolSpace addr) bs).dropReads addr bs.length).poolTake p target bs.length

/-- What ends a stage out over the leaves that it holds: a tier that cannot be read, or poison. -/
def State.stageFault (s : State) (vs : List View) : Option Status :=
  if vs.any (fun v => v.dead || v.copy.spoilt) then some .poisoned
  else if vs.any s.readFails then some .mediaError
  else none

/-- The snapshot written under the lease, and flushed (R339). -/
def State.stageWrite (s : State) (rid : Nat) (r : Req) (q : Sequ) (k : Nat) (vs : List View) : State :=
  let ls := vs.map (fun v => (s.leaf v.leaf, v.copy))
  let key := s.stageKey q (s.get F.SEC_STAGE_EPOCH_CURRENT)
  let images := ls.mapIdx (fun e x => s.leafImage key e x.1 x.2)
  let bytes := s.snapMeta q k (s.stageTables ls) (images.map List.length) ++ images.flatten
  let n := bytes.length
  match s.leaseCovering? r.part r.addr16 n, s.sharedExt? r.part r.addr16 n with
  | some _, some (_, x) =>
    if !s.poolUp then s.complete rid .mediaError
    else (s.poolWrite r.part x.target r.addr16 bytes).complete rid .ok { result0 := n }
  | _, _ => s.complete rid .accessDenied { detail := n / 4096 % 2 ^ 32 }

def effPoolStageOut (s : State) (rid : Nat) : State :=
  match s.startedReq? rid [0x72] with
  | none => s
  | some r =>
    if r.stageIn then s
    else
      let q := s.seq (hSeq r.handle)
      let chunks := (q.chunks.take q.publishedChunks).takeWhile (fun c => !c.acts.noStore)
      let leaves := chunks.flatMap (fun c => c.leaves.map (fun i => (i, c)))
      if q.state != .openS && q.state != .published then s.complete rid .evicted
      else if chunks = [] then s.complete rid .notFound
      else if q.partition != r.part && chunks.any (fun c => c.acts.noShare) then s.complete rid .accessDenied
      else if leaves.any (fun x => (s.leaf x.1).state == .evicting) then s.complete rid .evicted
      else if leaves.any (fun x => !s.canHold x.1) then s
      else
        let (vs, s) := leaves.foldl (fun (a : List View × State) x =>
          let b := a.2.takeView rid x.1 x.2.number (a.2.chunkBad x.2)
          (a.1 ++ [b.1], b.2)) ([], s)
        let s := match s.stageFault vs with
          | some st => s.complete rid st
          | none => s.stageWrite rid r q chunks.length vs
        vs.foldl (fun s v => match v.shadow with
          | some sh => (s.unhold rid v.leaf v.copy.cid).unhold rid v.leaf sh.cid
          | none => s.unhold rid v.leaf v.copy.cid) s

def execPoolStageOut (e : Env) (rid : Nat) (s : State) : Host.Outcome State Fault Refusal := .next (effPoolStageOut (s.enter e) rid)

/-! ### POOL_STAGE in (R340) -/

/-- A leaf header read from its 64 bytes (R20). -/
def parseHdr (b : Bytes) : LeafHdr := {
  tag := fieldAt b 0 8
  codecEpoch := BitVec.ofNat 8 (fieldAt b 8 1)
  keyEpoch := BitVec.ofNat 8 (fieldAt b 9 1)
  keyFormat := sfield b 10 3 0
  valueFormat := sfield b 10 7 4
  raw := bit (fieldAt b 11 1) 0
  promoted := bit (fieldAt b 11 1) 1
  sink := bit (fieldAt b 11 1) 2
  compressedLength := fieldAt b 12 4
  tokenCount := fieldAt b 16 2
  generation := BitVec.ofNat 8 (fieldAt b 18 1)
  shapeIndex := sfield b 19 3 0
  shapeEpoch := BitVec.ofNat 8 (fieldAt b 20 1)
  layer := sfield b 22 11 0
  chunkNumber := fieldAt b 24 4
  sequenceIndex := sfield b 28 27 0 }

/-- Bytes of a shared window. A line in the read buffers is read from there or from the pool (R330): which, the spec leaves
open until a flush (log entries 4, 90). What was read is in the buffers afterwards. -/
def State.poolRead (s : State) (p target addr n : Nat) : BusRead × State :=
  match s.busRead (memKey poolSpace addr) n with
  | .ok bs =>
    let (x, s) := s.free
    let old := s.pool.readBuf
    let out := if x % 2 = 0 then bs
      else bs.mapIdx (fun i b => match old.find? (fun l => l.1 == (addr + i) / 64) with
        | some l => l.2.getD ((addr + i) % 64) b
        | none => b)
    let first := addr / 64
    let lines := (List.range ((addr + n + 63) / 64 - first)).map (fun i =>
      (first + i, Memory.readBytes s.mem (memKey poolSpace ((first + i) * 64)) 64))
    let keep := old.filter (fun l => !lines.any (fun m => m.1 == l.1))
    (.ok out, ({ s with pool := { s.pool with readBuf := keep ++ lines } }).poolTake p target n)
  | .poisoned => (.poisoned, s.bump F.POOL_POISON_READS_COUNT
      (s.memPoison.countP (fun l => l * 64 < memKey poolSpace addr + n && memKey poolSpace addr < l * 64 + 64)))
  | .failed => (.failed, s)

/-- What a snapshot's header gives: chunks, layers, tables, the start of the leaf area, and its length. -/
structure Snap where
  bytes : Bytes := []
  chunks : Nat := 0
  layers : Nat := 0
  tables : Nat := 0
  area : Nat := 0
  total : Nat := 0
  deriving DecidableEq, Repr

def parseSnap (b : Bytes) : Snap := {
  bytes := b, chunks := fieldAt b 4 4, layers := sfield b 8 11 0, tables := fieldAt b 10 2, area := fieldAt b 12 4
  total := fieldAt b 16 8 }

/-- Record of a code table of a snapshot. -/
def Snap.table (p : Snap) (i : Nat) : Bytes := (p.bytes.drop (256 + 1024 * i)).take 1024
/-- Bytes 0 to 31 of a chunk record of a snapshot. -/
def Snap.chunk (p : Snap) (c : Nat) : Bytes := (p.bytes.drop (256 + 1024 * p.tables + 32 * c)).take 32
/-- The offset of a leaf image. -/
def Snap.off (p : Snap) (e : Nat) : Nat := 4096 * fieldAt p.bytes (256 + 1024 * p.tables + 32 * p.chunks + 4 * e) 4
/-- A leaf image: its header bytes, and its stored payload. -/
def Snap.hdr (p : Snap) (e : Nat) : Bytes := (p.bytes.drop (p.off e)).take 64
def Snap.stored (p : Snap) (e : Nat) : Bytes := (p.bytes.drop (p.off e + 64)).take (parseHdr (p.hdr e)).compressedLength

/-- A code-table record of a snapshot in range (R160, R161). -/
def snapTableOk (b : Bytes) : Bool :=
  bit (fieldAt b 1 1) 0 && fieldAt b 1 1 < 4 && fieldAt b 3 1 == 0 && leNat ((b.drop 16).take 48) == 0
    && leNat ((b.drop 704).take 320) == 0 && (bit (fieldAt b 1 1) 1 || (tableLengths b).all lengthsOk)

/-- A chunk record of a snapshot in range (R24, R337). -/
def Snap.chunkOk (p : Snap) (sh : Bytes) (c : Nat) : Bool :=
  let b := p.chunk c
  fieldAt b 16 4 == c && fieldAt b 20 2 == shTpl sh && fieldAt b 22 1 < 32 && sfield b 24 11 0 == p.layers && fieldAt b 28 4 == 0

/-- The length of a leaf's payload by its formats. -/
def imagePayload (sh : Bytes) (h : LeafHdr) : Nat := payloadSize h.keyFormat h.valueFormat (shHeads sh) (shTpl sh) (shDim sh)

/-- A leaf image of a snapshot in range: its place, and the fields of its header. -/
def Snap.imageOk (p : Snap) (sh : Bytes) (e : Nat) : Bool :=
  let h := parseHdr (p.hdr e)
  p.area ≤ p.off e && p.off e + 64 + h.compressedLength ≤ p.total && h.compressedLength ≤ 262080
    && 1 ≤ h.keyFormat && h.keyFormat ≤ 12 && 1 ≤ h.valueFormat && h.valueFormat ≤ 12
    && h.layer == e % max 1 p.layers && h.chunkNumber == e / max 1 p.layers && h.tokenCount == shTpl sh
    && h.generation == 0 && h.sequenceIndex == 0 && (!h.raw || h.compressedLength == imagePayload sh h)

/-- The fields of a snapshot in range (R340, item 3). -/
def Snap.fieldsOk (p : Snap) (sh : Bytes) : Bool :=
  let b := p.bytes
  fieldAt b 0 2 == 1 && fieldAt b 2 2 == 0 && 1 ≤ p.chunks && p.layers == shLayers sh && sfield b 8 15 12 == 0 && p.tables ≤ 32
    && p.area % 4096 == 0 && 256 + 1024 * p.tables + 32 * p.chunks + 4 * p.chunks * p.layers ≤ p.area && p.area ≤ p.total
    && p.total ≤ b.length && fieldAt b 35 1 ≤ 2 && fieldAt b 36 4 == 0 && leNat ((b.drop 92).take 164) == 0
    && (List.range p.tables).all (fun i => snapTableOk (p.table i))
    && (List.range p.chunks).all (p.chunkOk sh) && (List.range (p.chunks * p.layers)).all (p.imageOk sh)

/-- The tag over a snapshot's metadata (R337). -/
def Snap.tagOk (p : Snap) (key : Nat) : Bool :=
  fieldAt p.bytes 40 8 == (tag64 key (p.bytes.take 40 ++ (p.bytes.drop 48).take (p.area - 48))).toNat

/-- The tag of a leaf image (R338). -/
def Snap.leafOk (p : Snap) (key e : Nat) : Bool :=
  (parseHdr (p.hdr e)).tag
    == (tag64 key (leBytes 16 (xtsTweak e 0 0 0) ++ (p.hdr e).drop 8 ++ p.stored e)).toNat

/-- The decoded payload of a leaf image, with the snapshot's table of its format and epoch. -/
def Snap.payload (p : Snap) (key : Nat) (sh : Bytes) (e : Nat) : Option Bytes :=
  let h := parseHdr (p.hdr e)
  let plain := decryptUnits key e 0 0 (p.stored e)
  if h.raw then some plain
  else
    let tab := ((List.range p.tables).map p.table).find? (fun t =>
      fieldAt t 0 1 == h.codecEpoch.toNat && sfield t 2 3 0 == h.keyFormat && !bit (fieldAt t 1 1) 1)
    let r := regionLens sh h.keyFormat h.valueFormat
    match tab with
    | some t => decodeContainer (tableLengths t) h.keyFormat h.valueFormat r.1 r.2 (imagePayload sh h) plain
    | none => none

/-- The chunk record that a sequence takes from a snapshot. -/
def Snap.chunkOf (p : Snap) (q : Sequ) (qi : Nat) (sc : Scan) (c : Nat) : Chunk :=
  let b := p.chunk c
  let f := fieldAt b 22 1
  { hash := fieldAt b 0 16, number := c, tokenCount := fieldAt b 20 2, published := true
    acts := { noStore := bit f 1, noShare := bit f 2, pin := bit f 3, shortTtl := bit f 4, ruleClass := fieldAt b 23 1 }
    layerCount := p.layers, shapeIndex := q.shapeIndex, shapeEpoch := q.shapeEpoch, ruleSetEpoch := q.ruleSetEpoch
    sequenceIndex := qi, isSealed := true, scanAfter := sc }

/-- One staged leaf: encoded under the table and key of now, not quantised again (R153), with its record and summary block. -/
def State.stageLeaf (s : State) (q : Sequ) (qi : Nat) (c : Chunk) (i : Nat) (h : LeafHdr) (payload : Bytes) : Leaf × State :=
  let l := s.leaf i
  let sh := s.seqShape q
  let hdr : LeafHdr := { h with
    generation := l.generation, shapeIndex := q.shapeIndex, shapeEpoch := q.shapeEpoch, sequenceIndex := qi }
  let (cp, s) := s.encodeCopy i l hdr payload
  ({ (l.withHdr cp.hdr) with
      state := .sealed, cur := some { cp with loc := l.location }, staged := [], sealNo := cp.cid
      persist := if q.persist = .vol then .vol else .durable
      noStore := c.acts.noStore, noShare := c.acts.noShare, shortTtl := c.acts.shortTtl, ruleClass := c.acts.ruleClass
      shapeIndex := q.shapeIndex, layer := h.layer
      place := { lastTick := s.tick, heat := 1, hints := s.sealHints q.partition c.acts.ruleClass q.tierHints }
      summary := summaryOf sh l.generation c.tokenCount (decodeKeys sh h.keyFormat h.valueFormat payload) }, s)

/-- Every leaf of a snapshot staged, in directory order. -/
def State.stageLeaves (s : State) (q : Sequ) (qi : Nat) (p : Snap) :
    List (Chunk × Nat × Bytes) → Nat → Table Leaf → Table Leaf × State
  | [], _, t => (t, s)
  | (c, i, payload) :: rest, e, t =>
    let (l, s) := s.stageLeaf q qi c i (parseHdr (p.hdr e)) payload
    State.stageLeaves s q qi p rest (e + 1) (t.set i l)

/-- The journal records of a sequence that is published with a stage in (R300). -/
def stageRecs (q : Sequ) (pl : Plan) : List JRec :=
  chunkRecs pl.seq pl.chunks ++ [.seq pl.seq { q with
    chunks := pl.chunks, publishedChunks := pl.chunks.length, totalChunks := pl.chunks.length, lastHash := pl.lastHash
    scan := pl.scan, scanPub := pl.scan }]

/-- A snapshot whose every leaf is sound taken into its sequence: at once, or with the programs of a DURABLE sequence. -/
def State.stageTake (s : State) (rid : Nat) (r : Req) (q : Sequ) (qi : Nat) (p : Snap) (payloads : List Bytes) : State :=
  let n := p.chunks
  let durable := q.persist != .vol
  match s.mediaCheck q.partition (if durable then n * p.layers else 0) with
  | some st => s.complete rid st
  | none =>
    if !s.recRoom (chunkGranules p.layers 0 n) then s.complete rid .quotaExceeded
    else
      let sc : Scan := { st := (s.ruleSetOf q).start }
      match s.openChunks q qi p.layers ((List.range n).map (p.chunkOf q qi sc)) with
      | (_, made, some false, s) => (made.foldl State.closeLeaf s).complete rid .quotaExceeded
      | (_, made, none, s) => made.foldl State.closeLeaf s
      | (cs, made, some true, s) =>
        let items := (cs.flatMap (fun c => c.leaves.map (fun i => (c, i)))).zip payloads
        let (ls, s) := s.stageLeaves q qi p (items.map (fun x => (x.1.1, x.1.2, x.2))) 0 []
        let pl : Plan := {
          seq := qi, gen := q.generation, chunks := cs, made := made, scan := sc, lastHash := ((cs.getLast?).getD {}).hash
          durables := if durable then cs.map (·.number) else [], sealedLeaves := ls, reported := p.total }
        if durable then
          let s := s.programPlan rid pl
          match s.req? rid with
          | some x => (match x.wait with
            | .append pl2 => s.setGroup (pl2.group.getD s.flash.nextGroup) (fun g => { g with recs := g.recs ++ stageRecs q pl })
            | _ => s)
          | none => s
        else s.finishPlan rid r pl

/-- Items 3 to 5 of R340 on a snapshot that has been read. -/
def State.stageCheck (s : State) (rid : Nat) (r : Req) (q : Sequ) (qi : Nat) (p : Snap) (poison : Bool) : State :=
  let sh := s.seqShape q
  let epoch := fieldAt p.bytes 34 1
  let key := s.stageKey q epoch
  let known := epoch = s.get F.SEC_STAGE_EPOCH_CURRENT || epoch = s.get F.SEC_STAGE_EPOCH_PREVIOUS
  if (p.bytes.drop 48).take 44 != sh.take 44 || fieldAt p.bytes 32 2 != q.adapterId || !known || !p.fieldsOk sh || !p.tagOk key then
    s.complete rid .badFormat
  else if fieldAt p.bytes 24 8 != s.scopeIdOf q then s.complete rid .accessDenied
  else
    let es := List.range (p.chunks * p.layers)
    match es.mapM (p.payload key sh) with
    | some payloads =>
      if poison then s.complete rid .poisoned
      else if !es.all (p.leafOk key) then (s.raise gRasUncorrected 3).complete rid .poisoned else s.stageTake rid r q qi p payloads
    | none => s.complete rid .poisoned

def effPoolStageIn (s : State) (rid : Nat) : State :=
  match s.startedReq? rid [0x72] with
  | none => s
  | some r =>
    let qi := hSeq r.handle
    let q := s.seq qi
    let p := r.part
    let head := parseSnap (Memory.readBytes s.mem (memKey poolSpace r.addr16) 256)
    let n := max 256 head.total
    if !r.stageIn then s
    else if !s.isHolder q r.origin then s.complete rid .accessDenied
    else match s.leaseCovering? p r.addr16 n, s.sharedExt? p r.addr16 n with
      | some _, some (_, x) =>
        if q.totalChunks != 0 || q.openTokens != 0 then s.bad rid 8
        else if !s.poolUp then s.complete rid .mediaError
        else if !s.anyCluster || !s.anySlice then s
        else if s.shapeBad q.partition q.shapeIndex q.shapeEpoch then s.complete rid .poisoned
        else match s.poolRead p x.target r.addr16 n with
          | (.ok bs, s) => s.stageCheck rid r q qi (parseSnap bs) false
          | (.poisoned, s) =>
            s.stageCheck rid r q qi (parseSnap (Memory.readBytes s.mem (memKey poolSpace r.addr16) n)) true
          | (.failed, s) => s.complete rid .mediaError
      | _, _ => s.complete rid .accessDenied

def execPoolStageIn (e : Env) (rid : Nat) (s : State) : Host.Outcome State Fault Refusal := .next (effPoolStageIn (s.enter e) rid)

end Sys2Proof.Machine
end

