-- ==== Sys2Proof/Machine/RingOps.lean ====
section
/-! DEFINITION. The Bruiskade ring (R378 to R401): joining and leaving, the master, delivery of frames, forwarded requests,
the shard map and its changes, purges, and the alignment of DEVICE_TIME. -/

namespace Sys2Proof.Machine

open Sys2Proof

/-! ### Members (R385, R386) -/

/-- The strap rank of this device (R382): 2 MASTER_EN, 1 STANDBY_EN, 0 none. -/
def Ring.rank (r : Ring) : Nat := if r.strapMaster then 2 else if r.strapStandby then 1 else 0

/-- The present, reachable positions in order. -/
def State.presentMembers (s : State) : List Nat := (List.range 16).filter s.posPresent

/-- The number of present members shown (R401). -/
def State.countMembers (s : State) : State := s.put F.RING_STATUS_MEMBERS s.presentMembers.length

/-- One row of the member table written. -/
def State.setMember (s : State) (p serial rank : Nat) (present : Bool) (inc : Nat) : State :=
  let s := ((((s.put F.RING_MEMBER_ASSIGNED 1 p).put F.RING_MEMBER_PRESENT (b2n present) p).put F.RING_MEMBER_RANK rank p).put
    F.RING_MEMBER_INCARNATION inc p).put F.RING_MEMBER_SERIAL_SERIAL serial p
  { s with ring := { s.ring with serials := s.ring.serials.set p serial } }

/-- The words of a MEMBERS frame: the serial number refused plus 1 or 0, the master's position, the position that has joined
plus 1 or 0, then position, serial number, rank, presence and incarnation of every assigned position. -/
def State.memberWords (s : State) (refused joined : Nat) : List Nat :=
  [refused, s.myPos, joined] ++ ((List.range 16).filter (fun p => s.on F.RING_MEMBER_ASSIGNED p)).flatMap (fun p =>
    [p, s.ring.serials.getD p 0, s.get F.RING_MEMBER_RANK p, s.get F.RING_MEMBER_PRESENT p, s.get F.RING_MEMBER_INCARNATION p])

/-- The member table distributed by the master (R386). -/
def State.castMembers (s : State) (refused joined : Nat) : State :=
  let s := { s with ring := { s.ring with lastPresent := s.presentMembers } }
  s.ringCast 6 0 (s.memberWords refused joined)

/-- Whether this device reaches more than half of the members present in the last member table, itself counted (R387). -/
def State.majority (s : State) : Bool :=
  s.ring.lastPresent.length < 2 * s.ring.lastPresent.countP (fun p => p == s.myPos || s.posPresent p)

/-- A request that another member was to answer ends (R390, R392): a lookup goes on without that member. -/
def State.loseWait (s : State) (pos : Nat) (rid : Nat) : State :=
  match s.req? rid with
  | none => s
  | some r => match r.wait with
    | .forward p => if p = pos then (if r.opcode = 0x30 || r.opcode = 0x31 then s.completeLookup rid .linkFailed {} else s.complete rid .linkFailed) else s
    | .lookup l => if l.asked.contains pos then s.lookupAnswer rid pos none else s
    | .step k => (match s.ctxs.get? k with
      | some c => if c.found.head?.any (fun e => e.ringPos == pos) then s.stepAnswer rid false else s
      | none => s)
    | _ => s

/-- A position is no longer reachable (R390, R392): its frames are dropped, what waits for it ends, and a purge no longer waits
for it. -/
def State.memberLost (s : State) (pos : Nat) : State :=
  let s := s.put F.RING_MEMBER_PRESENT 0 pos
  let s := { s with ring := { s.ring with
    peers := s.ring.peers.set pos { absentAt := some s.time }
    purges := s.ring.purges.filter (fun x => x.2 != pos) } }
  (s.reqs.keys.foldl (fun (s : State) rid => s.loseWait pos rid) s).countMembers

/-- A member found unreachable: the RING group, and at a master that keeps its majority the new member table. -/
def State.memberGone (s : State) (pos : Nat) : State :=
  if !s.posPresent pos || pos = s.myPos then s
  else
    let s := (s.memberLost pos).raise gRing 1
    if s.isMaster && s.majority then s.castMembers 0 0 else s

/-! ### The shard map (R393, R394) -/

/-- The map that gives bucket b to the ⌊b × n / 4,096⌋-th of `n` members. -/
def shareMap (ps : List Nat) : List Nat := (List.range 4096).map (fun b => ps.getD (b * ps.length / 4096) 0)

/-- The map in force, written out. -/
def State.mapNow (s : State) : List Nat := (List.range 4096).map s.bucketOwner

/-- A map without an owner: the shares of the others, or only its buckets given away where AUTO_SHARD is clear. -/
def State.mapWithout (s : State) (p : Nat) : List Nat :=
  let ps := s.presentMembers.filter (· != p)
  if ps = [] then s.mapNow
  else if s.on F.RING_CFG_AUTO_SHARD then shareMap ps
  else s.mapNow.mapIdx (fun b o => if o = p then ps.getD (b * ps.length / 4096) 0 else o)

/-- The words of a SHARD frame: 0 the map in force, 1 prepare, 2 commit; its epoch; the entries, bit 7 set on a moving one. -/
def shardBody (phase epoch : Nat) (old new : List Nat) : List Nat :=
  [phase, epoch] ++ new.mapIdx (fun b o => o + (if phase = 1 && old.getD b 0 != o then 128 else 0))

/-- The entries of this device's moving buckets sent to their new owners, then the last one of each (R394, item 2). -/
def State.sendMoving (s : State) (new : List Nat) : State :=
  let mine := s.roots.filter (fun x => s.bucketOwner x.2.bucket == s.myPos && new.getD x.2.bucket 0 != s.myPos)
  let s := mine.foldl (fun s x => s.ringSend (new.getD x.2.bucket 0) 8 0 x.2.partition (indexBody 1 x.2) 32) s
  let owners := ((new.mapIdx (fun b o => (s.bucketOwner b, o))).filter (fun x => x.1 == s.myPos && x.2 != s.myPos)).map (·.2)
  owners.eraseDups.foldl (fun s o => s.ringSend o 8 0 0 [2] 0) s

/-- The root-index entries of buckets that this device does not own are removed (R394, R395). -/
def State.dropUnowned (s : State) : State :=
  (s.roots.filter (fun x => s.bucketOwner x.2.bucket != s.myPos)).foldl (fun s x => s.rootRemove x.1 x.2) s

/-- A map comes into force. -/
def State.setMap (s : State) (epoch : Nat) (m : List Nat) : State :=
  let s := { s with ring := { s.ring with map := m, next := none, transfers := [] } }
  ((s.put F.RING_SHARD_EPOCH_CURRENT epoch).put F.RING_SHARD_EPOCH_CHANGING 0).dropUnowned

/-- The change of the map begins at the master, or waits for the change or the purges before it (R394, R396). -/
def State.changeTo (s : State) (m : List Nat) : State :=
  let old := s.mapNow
  if s.ring.next.isSome || s.ring.purges != [] then { s with ring := { s.ring with want := some m } }
  else if m = old then s
  else
    let pairs := (m.mapIdx (fun b o => (old.getD b 0, o))).filterMap (fun (x : Nat × Nat) =>
      if x.1 != x.2 && (s.posPresent x.1 || x.1 == s.myPos) then some (x.1 * 16 + x.2) else none)
    let s := { s with ring := { s.ring with next := some m, transfers := pairs.eraseDups } }
    let s := s.put F.RING_SHARD_EPOCH_CHANGING 1
    let s := s.ringCast 7 0 (shardBody 1 ((s.get F.RING_SHARD_EPOCH_CURRENT + 1) % 256) old m) 4096
    s.sendMoving m

/-- A change that has waited begins. -/
def State.changeWanted (s : State) : State :=
  match s.ring.want with
  | some m => if s.isMaster then { s with ring := { s.ring with want := none } }.changeTo m else s
  | none => s

/-- Every present new owner has acknowledged its last entry: the change commits. -/
def effShardTransferDone (s : State) : State :=
  match s.ring.next with
  | none => s
  | some m =>
    let open_ := s.ring.transfers.filter (fun t => (s.posPresent (t / 16) || t / 16 == s.myPos) && (s.posPresent (t % 16) || t % 16 == s.myPos))
    if !s.isMaster || open_ != [] || s.ring.purges != [] then s
    else
      let e := (s.get F.RING_SHARD_EPOCH_CURRENT + 1) % 256
      ((s.ringCast 7 0 (shardBody 2 e [] m) 4096).setMap e m).changeWanted

def execShardTransferDone (e : Env) (s : State) : Host.Outcome State Fault Refusal := .next (effShardTransferDone (s.enter e))

/-- RING_CTL.COMMIT: the staged entries, with AUTO_SHARD clear (R393). -/
def effRingCommit (s : State) : State :=
  if !s.isMaster || s.on F.RING_CFG_AUTO_SHARD then s
  else
    let m := s.mapNow.mapIdx (fun b o => s.ring.staged.getD b o)
    { s with ring := { s.ring with staged := [] } }.changeTo m

def execRingCommit (e : Env) (s : State) : Host.Outcome State Fault Refusal := .next (effRingCommit (s.enter e))

/-- RING_CTL.REBALANCE: the shares of the present members, with AUTO_SHARD set (log entry 104). -/
def effRingRebalance (s : State) : State :=
  if s.isMaster && s.on F.RING_CFG_AUTO_SHARD then s.changeTo (shareMap s.presentMembers) else s

def execRingRebalance (e : Env) (s : State) : Host.Outcome State Fault Refusal := .next (effRingRebalance (s.enter e))

/-- The buckets of an owner that has been absent for REASSIGN_MS are given to others (R395). -/
def effShardReassign (s : State) (pos : Nat) : State :=
  match (s.ring.peers.getD pos {}).absentAt with
  | some t =>
    if s.isMaster && s.on F.RING_CFG_AUTO_SHARD && pos < 16 && !s.posPresent pos && s.mapNow.contains pos
        && s.time ≥ t + s.get F.RING_CFG_REASSIGN_MS * 1000000
    then s.changeTo (s.mapWithout pos) else s
  | none => s

def execShardReassign (e : Env) (pos : Nat) (s : State) : Host.Outcome State Fault Refusal :=
  .next (effShardReassign (s.enter e) pos)

/-- RING_CTL.FORGET: the position of an absent member becomes free (R385). -/
def effRingForget (s : State) (pos : Nat) : State :=
  if !s.isMaster || pos ≥ 16 || pos = s.myPos || !s.on F.RING_MEMBER_ASSIGNED pos || s.posPresent pos then s
  else
    let s := (s.putWord (F.RING_MEMBER_ASSIGNED.off pos 0) 0).putWord (F.RING_MEMBER_SERIAL_SERIAL.off pos 0) 0
    { s with ring := { s.ring with serials := s.ring.serials.erase pos } }.castMembers 0 0

def execRingForget (e : Env) (pos : Nat) (s : State) : Host.Outcome State Fault Refusal := .next (effRingForget (s.enter e) pos)

/-! ### Joining (R384) -/

/-- A join frame: serial number, rank, fresh flag, and whether the device leaves instead (R384, R399). -/
def State.joinWords (s : State) (leave : Bool) : List Nat :=
  [Config.serial, s.ring.rank, b2n s.ring.fresh, b2n leave]

def State.sendJoin (s : State) : State :=
  { s with ring := { s.ring with joinSent := s.time } }.ringCast 5 0 (s.joinWords false) 32

/-- RING_CFG.ENABLE written 1: the receivers begin to lock. -/
def effRingEnable (s : State) : State :=
  let s := s.put F.RING_CFG_ENABLE 1
  if s.get F.RING_STATUS_STATE = 0 then s.put F.RING_STATUS_STATE 1 else s

def execRingEnable (e : Env) (s : State) : Host.Outcome State Fault Refusal := .next (effRingEnable (s.enter e))

/-- RING_JOIN driven high: at least one receiver has locked (R380). -/
def State.driveJoin (s : State) : State :=
  if s.ring.lockE || s.ring.lockW then { s with ring := { s.ring with joinPin := true, joinAt := some s.time } } else s

/-- The receivers of the named ports have locked on the pass-through signal; a port whose power domain is off has none. -/
def effRingReceiveLock (s : State) (east west : Bool) : State :=
  if s.get F.RING_STATUS_STATE != 1 || s.ring.joinPin || !s.on F.RING_CFG_ENABLE then s
  else
    let s := { s with ring := { s.ring with lockE := s.ring.lockE || (east && s.pdOn 88), lockW := s.ring.lockW || (west && s.pdOn 89) } }
    s.driveJoin

def execRingReceiveLock (e : Env) (east west : Bool) (s : State) : Host.Outcome State Fault Refusal :=
  .next (effRingReceiveLock (s.enter e) east west)

/-- The device is out of the ring: RING_JOIN goes low, its links are gone, and what waits for members ends (R380, R399). The
state is off after a leave and training after a loss of links. -/
def State.leaveNow (s : State) (off : Bool) : State :=
  let s := (List.range 16).foldl (fun (s : State) p => if p = s.myPos then s else s.memberLost p) s
  let s := (List.range 16).foldl (fun (s : State) p => s.put F.RING_MEMBER_PRESENT 0 p) s
  let s := [F.RING_STATUS_EAST_UP, F.RING_STATUS_WEST_UP, F.RING_STATUS_POSITION, F.RING_STATUS_ROLE, F.RING_STATUS_SYNCED,
    F.RING_STATUS_NO_MASTER, F.RING_STATUS_MEMBERS, F.RING_SHARD_EPOCH_CHANGING].foldl (fun (s : State) f => s.put f 0) s
  let s := s.put F.RING_STATUS_STATE (if off then 0 else 1)
  { s with ring := { s.ring with
      joinPin := false, lockE := s.ring.lockE && !off, lockW := s.ring.lockW && !off, joinAt := some s.time, leaving := false
      peers := [], map := [], next := none, transfers := [], purges := [], want := none, master := none, lastPresent := []
      gotMembers := false, gotMap := false, timed := false, formedAt := none, heard := [] } }

/-- A ring port has trained, or has lost its link, or sees frames of another ring identity (R380, R382, R384). -/
def effRingLinkChange (s : State) (east up idErr : Bool) : State :=
  let f := if east then F.RING_STATUS_EAST_UP else F.RING_STATUS_WEST_UP
  if idErr then (s.put F.RING_STATUS_ID_ERR 1).raise gRing 4
  else if up then
    if !s.ring.joinPin || !s.pdOn (if east then 88 else 89) || !s.dieWorks (b2n east) then s
    else
      let s := s.put f 1
      if s.get F.RING_STATUS_STATE = 1 then (s.put F.RING_STATUS_STATE 2).sendJoin
      else if s.get F.RING_STATUS_STATE = 2 then s.sendJoin else s
  else
    let s := s.put f 0
    if s.ring.joinPin && s.get F.RING_STATUS_STATE ≥ 2 && !s.on F.RING_STATUS_EAST_UP && !s.on F.RING_STATUS_WEST_UP
    then s.leaveNow false else s

def execRingLinkChange (e : Env) (east up idErr : Bool) (s : State) : Host.Outcome State Fault Refusal :=
  .next (effRingLinkChange (s.enter e) east up idErr)

/-- No port has trained 20 ms after RING_JOIN rose: it goes low again. -/
def effRingTrainTimeout (s : State) : State :=
  match s.ring.joinAt with
  | some t =>
    if s.ring.joinPin && s.get F.RING_STATUS_STATE = 1 && s.time ≥ t + 20000000 then { s with ring := { s.ring with joinPin := false } } else s
  | none => s

def execRingTrainTimeout (e : Env) (s : State) : Host.Outcome State Fault Refusal := .next (effRingTrainTimeout (s.enter e))

/-- The join is complete (R384, step 5): member table, shard map and time have come. -/
def State.tryJoined (s : State) : State :=
  if s.get F.RING_STATUS_STATE = 2 && s.ring.gotMembers && s.ring.gotMap && s.ring.timed then
    let s := s.put F.RING_STATUS_STATE 3
    { s with ring := { s.ring with fresh := false, lastHeartbeat := s.time } }.dropUnowned
  else s

/-! ### The master (R387) -/

/-- This device becomes master, under the next epoch; the member table and the map are distributed. -/
def State.becomeMaster (s : State) : State :=
  let e := (s.get F.RING_SHARD_EPOCH_CURRENT + 1) % 256
  let m := s.mapNow
  let s := ((s.put F.RING_STATUS_ROLE 1).put F.RING_STATUS_NO_MASTER 0).bump F.RING_TAKEOVERS_COUNT
  let s := { s with ring := { s.ring with master := some s.myPos, heartbeatSent := s.time, timed := true } }
  let s := s.countMembers.castMembers 0 0
  let s := (s.setMap e m).ringCast 7 0 (shardBody 0 e [] m) 4096
  (s.put F.RING_STATUS_SYNCED 1).raise gRing 3

/-- A ring forms (R384, step 4, R385): the first master takes position 0 and owns every bucket. -/
def State.formRing (s : State) : State :=
  let s := (s.put F.RING_STATUS_STATE 3).put F.RING_STATUS_POSITION 0
  let s := s.setMember 0 Config.serial s.ring.rank true (s.get F.RING_MEMBER_INCARNATION 0)
  { s with ring := { s.ring with map := [], fresh := false, gotMembers := true, gotMap := true, formedAt := some s.time } }.becomeMaster

/-- Whether a device that joins may form the ring: it is a candidate, no master has answered for 100 ms, and it has heard no
candidate that outranks it; the lower serial number decides among equals (log entries 21, 103). -/
def State.mayForm (s : State) : Bool :=
  s.get F.RING_STATUS_STATE = 2 && s.ring.rank != 0 && !s.ring.gotMembers && s.time ≥ s.ring.joinSent + 100000000
    && !s.ring.heard.any (fun x => x.1 > s.ring.rank || (x.1 == s.ring.rank && x.2 < Config.serial))

/-- Whether a candidate outranks this one and is present (R387); the master that has fallen silent is none (log entries 21, 103). -/
def State.outranked (s : State) : Bool :=
  s.presentMembers.any (fun q => q != s.myPos && s.ring.master != some q && s.get F.RING_MEMBER_RANK q != 0
    && (s.get F.RING_MEMBER_RANK q > s.ring.rank || (s.get F.RING_MEMBER_RANK q == s.ring.rank && q < s.myPos)))

/-- A candidate takes over (R387). -/
def effMasterTakeover (s : State) : State :=
  if s.mayForm then s.formRing
  else if s.get F.RING_STATUS_STATE != 3 || s.get F.RING_STATUS_ROLE = 1 || s.ring.rank = 0 || s.outranked
      || s.time < s.ring.lastHeartbeat + 50000000 then s
  else
    let t := match s.ring.master with | some q => if q = s.myPos then s else s.memberLost q | none => s
    if t.majority then t.becomeMaster else s

def execMasterTakeover (e : Env) (s : State) : Host.Outcome State Fault Refusal := .next (effMasterTakeover (s.enter e))

/-- Joining goes on: a device that could not train tries again after 1 s; one that has had no answer for 100 ms takes over or
sends its join frame again. -/
def effJoinRetry (s : State) : State :=
  if s.get F.RING_STATUS_STATE = 1 && !s.ring.joinPin then
    match s.ring.joinAt with
    | some t => if s.time ≥ t + 1000000000 then s.driveJoin else s
    | none => s
  else if s.mayForm then s.formRing
  else if s.get F.RING_STATUS_STATE = 2 && !s.ring.gotMembers && s.time ≥ s.ring.joinSent + 100000000 then s.sendJoin
  else s

def execJoinRetry (e : Env) (s : State) : Host.Outcome State Fault Refusal := .next (effJoinRetry (s.enter e))

/-- The heartbeat of the master, every 1 ms; one that has lost its majority sends no more (R386, R387). -/
def effHeartbeat (s : State) : State :=
  if !s.isMaster || s.time < s.ring.heartbeatSent + 1000000 then s
  else if s.majority then { s with ring := { s.ring with heartbeatSent := s.time } }.ringCast 4 0 [s.myPos] 8
  else
    let s := (s.put F.RING_STATUS_ROLE 2).put F.RING_STATUS_NO_MASTER 1
    { s with ring := { s.ring with master := none, lastHeartbeat := s.time } }.raise gRing 2

def execHeartbeat (e : Env) (s : State) : Host.Outcome State Fault Refusal := .next (effHeartbeat (s.enter e))

/-- A member has received no heartbeat for 50 ms (log entry 103). -/
def effHeartbeatTimeout (s : State) : State :=
  if s.get F.RING_STATUS_STATE != 3 || s.get F.RING_STATUS_ROLE = 1 || s.on F.RING_STATUS_NO_MASTER
      || s.time < s.ring.lastHeartbeat + 50000000 then s
  else ((s.put F.RING_STATUS_NO_MASTER 1).put F.RING_STATUS_ROLE (if s.ring.rank = 0 then 0 else 2)).raise gRing 2

def execHeartbeatTimeout (e : Env) (s : State) : Host.Outcome State Fault Refusal := .next (effHeartbeatTimeout (s.enter e))

/-! ### Delivery (R388 to R390) -/

/-- Whether sequence `a` is `b` or comes before it, in 32 bits. -/
def seqLe (a b : Nat) : Bool := (b + 2 ^ 32 - a) % 2 ^ 32 < 2 ^ 31

/-- A frame whose tag fails is dropped and counted; another one brings its acknowledgement (R390). -/
def State.frameIn (s : State) (h : RingHdr) : Option State :=
  if h.bad then none
  else
    let p := s.ring.peers.getD h.src {}
    let p : Peer := { p with kept := p.kept.filter (fun k => !seqLe k.seq h.ack) }
    some { s with ring := { s.ring with peers := s.ring.peers.set h.src p } }

def State.tagFail (s : State) : State := s.bump F.RING_TAG_FAIL_COUNT

/-- Cells and poison of memory spaces of forwarded requests that no request uses any more (log entry 2). -/
def State.sweepSpaces (s : State) : State :=
  let live : List Nat := s.reqs.flatMap (fun (x : Nat × Req) => [x.2.srcSpace, 2 ^ 20 + x.1 * 32 + 16])
  { s with
    mem := s.mem.filter (fun c => c.1 / 2 ^ 64 < 2 ^ 20 || live.contains (c.1 / 2 ^ 64))
    memPoison := s.memPoison.filter (fun l => l * 64 / 2 ^ 64 < 2 ^ 20 || live.contains (l * 64 / 2 ^ 64)) }

/-- The sources of a forwarded request, laid at their addresses in a memory space of its own. -/
def State.putSources (s : State) (space : Nat) : List Nat → State
  | addr :: n :: v :: t => State.putSources (s.busWrite (memKey space addr) (leBytes n v)) space t
  | _ => s

/-- A forwarded request admitted at its executor (R391). -/
def State.admitForward (s : State) (src num queue part entry : Nat) (srcs : List Nat) (tag : Option Nat) (hashes : List Nat) : State :=
  let s := s.sweepSpaces
  let space := 2 ^ 20 + num * 32 + src
  let r : Req := {
    origin := .fwd src queue num, part := part % 128, entry := leBytes 64 entry, srcSpace := space, dstSpace := space
    hashTag := tag, hashes := hashes }
  let s := s.putSources space srcs
  { s with reqs := s.reqs.set s.reqSeq r, reqSeq := s.reqSeq + 1 }

/-- A list cut into runs of `n`. -/
def runsOf (n : Nat) : Nat → List Nat → List (List Nat)
  | 0, _ => []
  | k + 1, xs => if xs = [] || n = 0 then [] else xs.take n :: runsOf n k (xs.drop n)

/-- The entry that an INDEX frame or an insertion carries. -/
def entryOf (ws : List Nat) : RootEntry :=
  { hash := ws.getD 1 0, seqIndex := ws.getD 2 0, ringPos := ws.getD 3 0, chunkNumber := ws.getD 4 0, partition := ws.getD 5 0
    generation := BitVec.ofNat 8 (ws.getD 6 0), adapterId := ws.getD 7 0, priority := ws.getD 8 0, shapeIndex := ws.getD 9 0
    ctxTag := ws.getD 10 0, bucket := ws.getD 11 0 }

/-- The answers of this member to the entries of a confirmation (R118). -/
def State.confirmAll (s : State) (ws : List Nat) : List Nat :=
  (runsOf 5 ws.length ws).map (fun w =>
    let e : RootEntry := { seqIndex := w.getD 0 0, generation := BitVec.ofNat 8 (w.getD 1 0), chunkNumber := w.getD 2 0, hash := w.getD 3 0 }
    b2n (s.confirm e && !s.hidden (w.getD 4 0)))

/-- A REQUEST frame at its executor: a descriptor, a lookup by hashes, a confirmation, an insertion or a removal in the root
index. A device that leaves refuses new requests (R399); what cannot be parsed answers REMOTE_ERROR (R391). -/
def State.requestIn (s : State) (src num : Nat) (body : List Nat) : State :=
  let answer (s : State) (ws : List Nat) (len : Nat) : State := s.ringSend src 1 num 0 ws len
  if s.ring.leaving then answer s [0, 0, Status.linkFailed.code, 0, 0, 0, 0] 32
  else match body with
    | 0 :: queue :: part :: entry :: srcs => s.admitForward src num queue part entry srcs none []
    | 1 :: queue :: part :: entry :: tag :: hashes => s.admitForward src num queue part entry [] (some tag) hashes
    | 2 :: ws => answer s (2 :: s.confirmAll ws) (ws.length / 5)
    | 3 :: part :: count :: ws =>
      if s.overQuota part count then answer s [3, Status.quotaExceeded.code, 0, 0] 32
      else
        let (n, failed, s) := s.insertAll ((runsOf 12 ws.length ws).map entryOf)
        answer s [3, 0, n, b2n failed] 32
    | [4, pos, qi, gen, part, first, n] =>
      let (m, s) := s.removeRange pos qi (BitVec.ofNat 8 gen) part first n
      answer s [4, 0, m, 0] 32
    | _ => answer s [0, 0, Status.remoteError.code, 0, 0, 0, 0] 32

/-- The status that a code stands for. -/
def Status.ofCode (c : Nat) : Option Status :=
  [Status.ok, Status.okDegraded, Status.okPartial, Status.notFound, Status.evicted, Status.poisoned, Status.mediaError,
    Status.deadlineMissed, Status.abortedPredecessor, Status.abortedTeardown, Status.abortedReset, Status.accessDenied,
    Status.quotaExceeded, Status.busyTeardown, Status.readOnlyMedia, Status.badDescriptor, Status.badFormat, Status.linkFailed,
    Status.remoteError, Status.internal].find? (fun s => s.code == c)

/-- A context of another member put in a context of this device's own (R113, log entry 22). -/
def State.farCtx (s : State) (r : Req) (pos : Nat) (c : Cpl) : Cpl × State :=
  let k := c.detail % 2 ^ 16
  if r.opcode != 0x31 then
    if k = 0xFFFF then (c, s)
    else
      let (n, s) := s.allocCtx { part := r.part, far := some (pos, k), lastUse := s.time }
      ({ c with detail := setBits c.detail 15 0 (n.getD 0xFFFF) }, s)
  else if k = 0xFFFF then (c, s.freeCtx r.context)
  else
    let s := { s with ctxs := s.ctxs.modify r.context (fun x => { x with lastUse := s.time }) }
    ({ c with detail := setBits c.detail 15 0 r.context }, s)

/-- The completion of a forwarded request at its origin, behind its data (R84, R243, R391). -/
def State.forwardDone (s : State) (rid pos : Nat) (r : Req) (st : Status) (c : Cpl) : State :=
  let good := st = .ok || st = .okDegraded || st = .okPartial
  let qwp := match r.origin with | .qwp _ _ => true | _ => false
  let c : Cpl := if st = .badDescriptor && qwp then { c with detail := c.detail + 16 } else c
  if r.opcode = 0x42 && s.targetDenied r then s.complete rid .accessDenied
  else if good && r.opcode = 0x42 && s.targetDown r then s.complete rid .linkFailed c
  else if good && r.lastWrite.isSome then s.complete rid .linkFailed c
  else if r.opcode = 0x30 || r.opcode = 0x31 then
    let (c, s) := s.farCtx r pos c
    s.completeLookup rid st c
  else if r.opcode = 0x11 && good then
    let (c, s) := s.farCtx r pos c
    s.complete rid st c
  else
    let s := if r.opcode = 0x71 && st = .ok then s.noteLease r pos c.result0 else s
    match r.origin, r.target.dstSpace, r.delTarget with
    | .ring _, sp + 1, 2 => if r.opcode = 0x42 then s.completeAcked rid sp st c else s.complete rid st c
    | _, _, _ => s.complete rid st c

/-- A RESPONSE frame at the origin. -/
def State.responseIn (s : State) (src rid : Nat) (body : List Nat) : State :=
  match s.req? rid with
  | none => s
  | some r => match r.wait with
    | .forward p =>
      if p != src then s
      else (match body with
        | [0, _, code, b3, r0, r1, d] =>
          let c : Cpl := { result0 := r0, result1 := r1, detail := d, path := bits b3 3 1, beatLost := bit b3 4, approximate := bit b3 5, poisoned := bit b3 6 }
          (match Status.ofCode code with
          | some st => s.forwardDone rid src r st c
          | none => s.complete rid .remoteError)
        | [3, code, n, failed] => if code = 0 then s.finishInsert rid r n (failed != 0) else s.complete rid .quotaExceeded
        | [4, _, m, _] =>
          let qi := hSeq r.handle
          let n := min r.chunkCount16 ((s.seq qi).chunks.length - r.chunkFirst24)
          s.completeJournaled rid (if m = 0 then [] else s.indexRecs qi ((List.range n).reverse.map (· + r.chunkFirst24)) false) .ok { result0 := m }
        | _ => s.complete rid .remoteError)
    | .lookup l =>
      if !l.asked.contains src then s
      else (match body with
        | 2 :: vs => s.lookupAnswer rid src (some (vs.map (· != 0)))
        | _ => s.lookupAnswer rid src none)
    | .step k =>
      (match s.ctxs.get? k with
      | some c => if c.found.head?.any (fun e => e.ringPos == src) then s.stepAnswer rid (body == [2, 1]) else s
      | none => s.stepAnswer rid false)
    | _ => s

/-- Destination data written at the origin; a write whose flush fails is remembered for the completion (R84). -/
def State.writeBack_ (s : State) (rid : Nat) (r : Req) (role addr : Nat) (bs : Bytes) (lines : List Nat) : State :=
  let s := s.bufWrite r role addr bs lines rid
  let fails := r.dstSpace = 0 && bs != [] && !s.flushOk 0 (addr + bs.length - 1)
  if fails then { s with reqs := s.reqs.modify rid (fun x => { x with lastWrite := some addr }) } else s

/-- The data of one DATA frame (R391). The blocks of a DELIVER into a buffer of confidential host mode are gathered, and
sealed as one buffer when the map record comes, which moves behind their tag (R437, log entries 18, 105). -/
def State.dataIn (s : State) (src rid : Nat) (body : List Nat) : State :=
  match s.req? rid, body with
  | some r, addr :: role :: n :: v :: lines =>
    let here := match r.wait with | .forward p => p == src | _ => false
    let t := r.target
    let bs := leBytes n v
    let space := 2 ^ 20 + rid * 32 + 16
    if !here || (r.opcode = 0x42 && (s.targetDenied r || s.targetDown r)) then s
    else if !s.dstOk t addr n then s.complete rid .accessDenied
    else if r.opcode = 0x42 && s.chmBuf t t.dstSpace then
      if role != 8 then
        let s := s.busWrite (memKey space addr) bs
        lines.foldl (fun (s : State) l => s.poisonRange (memKey space (addr + 64 * l)) 1) s
      else
        let total := addr - r.addr16
        let data := Memory.readBytes s.mem (memKey space r.addr16) total
        let bad := (List.range (ceilDiv total 64)).filter (fun l => s.rangePoisoned (memKey space (r.addr16 + 64 * l)) 1)
        let s := if total = 0 then s else s.writeBack_ rid t 6 r.addr16 data bad
        s.writeBack_ rid t 8 (addr + 64) bs lines
    else s.writeBack_ rid t role addr bs lines
  | _, _ => s

/-- The acknowledgement of a partition's purge by a member (R396). -/
def State.purgeAck (s : State) (p src : Nat) : State :=
  let s := { s with ring := { s.ring with purges := s.ring.purges.filter (fun x => x != (p, src)) } }
  if s.ring.purges = [] then s.changeWanted else s

/-- The last entry of a transfer acknowledged to the master (R394). -/
def State.transferred (s : State) (old new : Nat) : State :=
  { s with ring := { s.ring with transfers := s.ring.transfers.filter (fun t => t != old * 16 + new) } }

/-- An INDEX frame (R394, R396). -/
def State.indexIn (s : State) (src part : Nat) (body : List Nat) : State :=
  match body with
  | 0 :: _ => (match (s.rootOf (entryOf body).hash).find? (fun x => x.2 == entryOf body) with
    | some x => s.rootRemove x.1 x.2
    | none => s)
  | 1 :: _ => (s.insertEntry (entryOf body)).2
  | 2 :: _ => if s.isMaster then s.transferred src s.myPos
    else (match s.ring.master with | some m => s.ringSend m 8 0 0 [6, src, s.myPos] 8 | none => s)
  | 3 :: _ =>
    let s := (s.roots.filter (fun x => x.2.partition == part && x.2.ringPos == src)).foldl (fun s x => s.rootRemove x.1 x.2) s
    s.ringSend src 8 0 part [4] 8
  | 4 :: _ => s.purgeAck part src
  | 5 :: _ :: qi :: pos :: n :: p :: gen :: _ => (s.removeRange pos qi (BitVec.ofNat 8 gen) p 0 n).2
  | [6, old, new] => s.transferred old new
  | _ => s

/-- A numbered frame that is next in order takes its effect. -/
def State.takeFrame (s : State) (src kind num part : Nat) (body : List Nat) : State :=
  match kind with
  | 0 => s.requestIn src num body
  | 1 => s.responseIn src num body
  | 2 => s.dataIn src num body
  | 8 => s.indexIn src part body
  | _ => s

/-- Frames held that have become the next ones. -/
def State.takeEarly (s : State) (src : Nat) : Nat → State
  | 0 => s
  | n + 1 =>
    let p := s.ring.peers.getD src {}
    let next := (p.rxSeq + 1) % 2 ^ 32
    match p.early.find? (fun k => k.seq == next) with
    | none => s
    | some k =>
      let p : Peer := { p with rxSeq := next, early := p.early.filter (fun x => x.seq != next) }
      State.takeEarly (State.takeFrame { s with ring := { s.ring with peers := s.ring.peers.set src p } } src k.kind k.num k.part k.body) src n

/-- A numbered frame arrives (R390): the next one takes its effect, and frames held after it follow; a duplicate is only
acknowledged; an early one is held. A device that has no position yet takes none, and one stopped by a fatal fault takes no
request (R422). -/
def State.numbered (s : State) (h : RingHdr) (kind : Nat) (body : List Nat) : State :=
  if s.get F.RING_STATUS_STATE < 2 || !s.ring.gotMembers || h.src ≥ 16 || kind = 0 && s.on F.RAS_STATUS_FATAL then s
  else match s.frameIn h with
  | none => s.tagFail
  | some s =>
    let p : Peer := { (s.ring.peers.getD h.src {}) with ackDue := true }
    let next := (p.rxSeq + 1) % 2 ^ 32
    if h.seq = next then
      let p : Peer := { p with rxSeq := next }
      let s := { s with ring := { s.ring with peers := s.ring.peers.set h.src p } }
      (s.takeFrame h.src kind h.num h.part body).takeEarly h.src p.early.length
    else
      let k : Kept := { seq := h.seq, kind := kind, num := h.num, part := h.part, body := body }
      let early := !seqLe h.seq p.rxSeq && !p.early.any (fun x => x.seq == h.seq)
      let p : Peer := if early then { p with early := p.early ++ [k] } else p
      { s with ring := { s.ring with peers := s.ring.peers.set h.src p } }

def execRequest (e : Env) (h : RingHdr) (body : List Nat) (s : State) : Host.Outcome State Fault Refusal :=
  .next ((s.enter e).numbered h 0 body)

def execResponse (e : Env) (h : RingHdr) (body : List Nat) (s : State) : Host.Outcome State Fault Refusal :=
  .next ((s.enter e).numbered h 1 body)

def execData (e : Env) (h : RingHdr) (body : List Nat) (s : State) : Host.Outcome State Fault Refusal :=
  .next ((s.enter e).numbered h 2 body)

def execIndex (e : Env) (h : RingHdr) (body : List Nat) (s : State) : Host.Outcome State Fault Refusal :=
  .next ((s.enter e).numbered h 8 body)

/-- An ACK frame: only its acknowledgement. -/
def effAck (s : State) (h : RingHdr) : State := (s.frameIn h).getD s.tagFail

def execAck (e : Env) (h : RingHdr) (s : State) : Host.Outcome State Fault Refusal := .next (effAck (s.enter e) h)

/-- The acknowledgement that no other frame has carried within 2 µs. -/
def effRingAckTimer (s : State) (src : Nat) : State :=
  let p := s.ring.peers.getD src {}
  if !p.ackDue then s
  else
    { s with ring := { s.ring with peers := s.ring.peers.set src { p with ackDue := false } } }.enqueue (s.ringPort src) 0
      { len := ringLen 0, entered := s.time, what := .ringFrame src 3 0 p.rxSeq 0 [] }

def execRingAckTimer (e : Env) (src : Nat) (s : State) : Host.Outcome State Fault Refusal := .next (effRingAckTimer (s.enter e) src)

/-- The frames to a destination that have waited RETX_US are sent again, by the route of now; after 16 attempts it is
unreachable. -/
def effRingRetransmit (s : State) (dst : Nat) : State :=
  let p := s.ring.peers.getD dst {}
  let late (k : Kept) : Bool := s.time ≥ k.sentAt + max 1 (s.get F.RING_CFG_RETX_US) * 1000
  let due := p.kept.filter late
  if due = [] || s.get F.RING_STATUS_STATE < 2 then s
  else if due.any (fun k => k.tries ≥ 16) then s.memberGone dst
  else
    let p' : Peer := { p with kept := p.kept.map (fun k => if late k then { k with tries := k.tries + 1, sentAt := s.time } else k), ackDue := false }
    let port := s.ringPort dst
    let s := { s with ring := { s.ring with peers := s.ring.peers.set dst p' } }
    due.foldl (fun (s : State) k => (s.bump F.RING_RETX_COUNT).enqueue port k.queue
      { len := ringLen k.len, part := k.part, entered := s.time, what := .ringFrame dst k.kind k.seq p.rxSeq k.num k.body }) s

def execRingRetransmit (e : Env) (dst : Nat) (s : State) : Host.Outcome State Fault Refusal :=
  .next (effRingRetransmit (s.enter e) dst)

/-- A frame for another member, or a broadcast, passed on to the other port (R388, R389); one that reaches 15 hops is dropped. -/
def effRingFrameForward (s : State) (fromEast : Bool) (dst kind seq ack num part hops len : Nat) (body : List Nat) : State :=
  if s.get F.RING_STATUS_STATE < 2 || dst = s.myPos then s
  else if hops + 1 ≥ 15 then s.bump F.RING_HOP_DROPS_COUNT
  else
    let port := if fromEast then 17 else 16
    if !s.on (if fromEast then F.RING_STATUS_WEST_UP else F.RING_STATUS_EAST_UP) then s
    else (s.bump F.RING_FWD_FRAMES_COUNT).enqueue port (if kind ≥ 3 then 0 else s.ringQueue part port)
      { len := ringLen len, part := part, entered := s.time, what := .ringFrame dst kind seq ack num body }

def execRingFrameForward (e : Env) (fromEast : Bool) (dst kind seq ack num part hops len : Nat) (body : List Nat) (s : State) :
    Host.Outcome State Fault Refusal :=
  .next (effRingFrameForward (s.enter e) fromEast dst kind seq ack num part hops len body)

/-! ### Control frames: JOIN, MEMBERS, HEARTBEAT, SHARD -/

/-- The position of a device that joins (R385): its old one, its place in east order while the ring forms, or the lowest one
not assigned. -/
def State.positionFor (s : State) (serial east : Nat) : Option Nat :=
  let free (p : Nat) : Bool := !s.on F.RING_MEMBER_ASSIGNED p
  match (List.range 16).find? (fun p => !free p && s.ring.serials.get? p == some serial) with
  | some p => some p
  | none =>
    let forming := match s.ring.formedAt with | some t => s.time ≤ t + 100000000 | none => false
    if forming && 1 ≤ east && east < 16 && free east then some east else (List.range 16).find? free

/-- A JOIN frame: the master gives a position and distributes the member table and the map; another device that joins
remembers whom it has heard. -/
def effJoin (s : State) (h : RingHdr) (serial rank : Nat) (fresh leave : Bool) (east : Nat) : State :=
  if h.bad then s.tagFail
  else if !s.isMaster then
    if s.get F.RING_STATUS_STATE = 2 then { s with ring := { s.ring with heard := (rank, serial) :: s.ring.heard.filter (fun x => x.2 != serial) } }
    else s
  else match s.positionFor serial east with
  | none => s.castMembers (serial + 1) 0
  | some p =>
    if p = s.myPos then s
    else if leave then (if s.posPresent p then s.changeTo (s.mapWithout p) else s)
    else
      let old := s.on F.RING_MEMBER_ASSIGNED p
      let s := if s.posPresent p then s.memberLost p else s
      let inc := s.get F.RING_MEMBER_INCARNATION p + (if old && fresh then 1 else 0)
      let s := (s.setMember p serial rank true (inc % 2 ^ 16)).countMembers
      let s := { s with ring := { s.ring with peers := s.ring.peers.set p {} } }
      let s := s.castMembers 0 (p + 1)
      let s := if old && fresh then s.raise gRing 0 else s
      let s := s.raise gRing 1
      let s := s.ringCast 7 0 (shardBody 0 (s.get F.RING_SHARD_EPOCH_CURRENT) [] s.mapNow) 4096
      if s.on F.RING_CFG_AUTO_SHARD && s.mapNow.all (fun o => s.posPresent o) then s.changeTo (shareMap s.presentMembers) else s

def execJoin (e : Env) (h : RingHdr) (serial rank : Nat) (fresh leave : Bool) (east : Nat) (s : State) :
    Host.Outcome State Fault Refusal :=
  .next (effJoin (s.enter e) h serial rank fresh leave east)

/-- The rows of a MEMBERS frame taken into the member's copy. A position that is not listed is free; a changed incarnation
raises POSITION_RESET; a member that is now absent is lost. -/
def State.takeRows (s : State) (rows : List (List Nat)) : State :=
  (List.range 16).foldl (fun (s : State) p =>
    match rows.find? (fun w => w.getD 0 16 == p) with
    | none =>
      if !s.on F.RING_MEMBER_ASSIGNED p then s
      else
        let s := (s.putWord (F.RING_MEMBER_ASSIGNED.off p 0) 0).putWord (F.RING_MEMBER_SERIAL_SERIAL.off p 0) 0
        { s with ring := { s.ring with serials := s.ring.serials.erase p } }
    | some w =>
      let present := w.getD 3 0 != 0
      let reset := s.on F.RING_MEMBER_ASSIGNED p && s.get F.RING_MEMBER_INCARNATION p != w.getD 4 0
      let s := if s.posPresent p && !present then s.memberLost p else s
      let s := s.setMember p (w.getD 1 0) (w.getD 2 0) present (w.getD 4 0)
      if reset then s.raise gRing 0 else s) s

/-- A MEMBERS frame (R386). -/
def effMembers (s : State) (h : RingHdr) (body : List Nat) : State :=
  if h.bad then s.tagFail
  else if s.get F.RING_STATUS_STATE < 2 || s.isMaster then s
  else match body with
  | refused :: master :: joined :: rest =>
    if refused = Config.serial + 1 then
      if s.ring.gotMembers then s else (s.put F.RING_STATUS_FULL 1).raise gRing 4
    else
      let rows := runsOf 5 rest.length rest
      match rows.find? (fun w => w.getD 1 0 == Config.serial) with
      | none => s
      | some mine =>
        let s := if joined != 0 && joined - 1 != mine.getD 0 0 && s.posPresent (joined - 1) then s.memberLost (joined - 1) else s
        let s := s.takeRows rows
        let s := if joined = 0 then s else { s with ring := { s.ring with peers := s.ring.peers.set (joined - 1) {} } }
        let s := { s with ring := { s.ring with
          master := some master, timed := s.ring.timed && s.ring.master == some master, gotMembers := true
          lastPresent := (rows.filter (fun (w : List Nat) => w.getD 3 0 != 0)).map (fun (w : List Nat) => w.getD 0 0) } }
        ((s.put F.RING_STATUS_POSITION (mine.getD 0 0)).countMembers.raise gRing 1).tryJoined
  | _ => s

def execMembers (e : Env) (h : RingHdr) (body : List Nat) (s : State) : Host.Outcome State Fault Refusal :=
  .next (effMembers (s.enter e) h body)

/-- A heartbeat of the master received: the takeover timer starts again. Of two masters the outranked one is a member again. -/
def effHeartbeatReceived (s : State) (h : RingHdr) : State :=
  if h.bad then s.tagFail
  else if s.get F.RING_STATUS_STATE != 3 || h.src = s.myPos then s
  else if s.isMaster && !(s.get F.RING_MEMBER_RANK h.src > s.ring.rank || (s.get F.RING_MEMBER_RANK h.src = s.ring.rank && h.src < s.myPos)) then s
  else
    let s := (s.put F.RING_STATUS_NO_MASTER 0).put F.RING_STATUS_ROLE 0
    { s with ring := { s.ring with lastHeartbeat := s.time, master := some h.src, timed := s.ring.timed && s.ring.master == some h.src } }

def execHeartbeatReceived (e : Env) (h : RingHdr) (s : State) : Host.Outcome State Fault Refusal :=
  .next (effHeartbeatReceived (s.enter e) h)

/-- A SHARD frame of the master: the map in force, a prepare, or a commit (R394). A map in force ends a change that its master
has abandoned (R400). -/
def effShard (s : State) (h : RingHdr) (body : List Nat) : State :=
  if h.bad then s.tagFail
  else if s.get F.RING_STATUS_STATE < 2 || s.isMaster || !s.ring.gotMembers || s.ring.master != some h.src then s
  else match body with
  | phase :: epoch :: ws =>
    let m := ws.map (· % 16)
    if phase = 1 then
      let s := { s with ring := { s.ring with next := some m } }
      (s.put F.RING_SHARD_EPOCH_CHANGING 1).sendMoving m
    else
      let s := s.setMap (epoch % 256) m
      { s with ring := { s.ring with gotMap := true } }.tryJoined
  | _ => s

def execShard (e : Env) (h : RingHdr) (body : List Nat) (s : State) : Host.Outcome State Fault Refusal :=
  .next (effShard (s.enter e) h body)

/-! ### Leaving (R399) -/

/-- RING_CTL.LEAVE, or RING_CFG.ENABLE written 0: the master moves the device's buckets; once it owns none and no forwarded
request is left, it drives RING_JOIN low. Given again until then. -/
def effRingLeave (s : State) : State :=
  let st := s.get F.RING_STATUS_STATE
  if st = 0 then s
  else if st < 3 then s.leaveNow true
  else
    let alone := s.presentMembers.all (· == s.myPos)
    let busy := s.reqs.any (fun (x : Nat × Req) => match x.2.origin with | .fwd _ _ _ => true | _ => false)
    if !s.ring.leaving then
      let s := { s with ring := { s.ring with leaving := true } }
      if alone then (if busy then s else s.leaveNow true)
      else if s.isMaster then s.changeTo (s.mapWithout s.myPos)
      else s.ringCast 5 0 (s.joinWords true) 32
    else if !busy && (alone || !s.mapNow.contains s.myPos) then s.leaveNow true
    else s

def execRingLeave (e : Env) (s : State) : Host.Outcome State Fault Refusal := .next (effRingLeave (s.enter e))

/-- The purge of a partition's index entries on every other member (R396), and whether it has been acknowledged. -/
def State.ringPurge (s : State) (p : Nat) : State :=
  if !s.joined then s
  else
    let others := s.presentMembers.filter (· != s.myPos)
    let s := others.foldl (fun (s : State) q => s.ringSend q 8 0 p [3] 8) s
    { s with ring := { s.ring with purges := s.ring.purges ++ others.map (fun q => (p, q)) } }

def State.purgeOpen (s : State) (p : Nat) : Bool := s.ring.purges.any (fun x => x.1 == p)

/-! ### Time (R397) -/

/-- A time moved by a step of DEVICE_TIME. -/
def stepNs (d : Int) (t : Nat) : Nat := ((t : Int) + d).toNat

def Wait.shift (d : Int) : Wait → Wait
  | .pad t st c => .pad (stepNs d t) st c
  | w => w

/-- Leases, extents and requests keep their remaining times. -/
def State.stepLeases (s : State) (d : Int) : State :=
  let f := stepNs d
  { s with
    seqs := s.seqs.map (fun (x : Nat × Sequ) => if x.2.holderKind = 0 then x else (x.1, { x.2 with leaseExpiry := f x.2.leaseExpiry }))
    pool := { s.pool with
      leases := s.pool.leases.map (fun l => { l with expiry := f l.expiry })
      remote := s.pool.remote.map (fun l => { l with expiry := f l.expiry })
      exts := s.pool.exts.map (fun (x : Nat × Extent) => (x.1, { x.2 with releaseAt := f x.2.releaseAt })) }
    reqs := s.reqs.map (fun (x : Nat × Req) => (x.1, { x.2 with startTime := f x.2.startTime, wait := x.2.wait.shift d }))
    ctxs := s.ctxs.map (fun (x : Nat × Ctx) => (x.1, { x.2 with lastUse := f x.2.lastUse }))
    cqs := s.cqs.map (fun (x : Nat × CqSt) => (x.1, { x.2 with oldest := f x.2.oldest })) }

/-- Intervals that run on links and queues keep their lengths. -/
def State.stepLinks (s : State) (d : Int) : State :=
  let f := stepNs d
  { s with
    qps := s.qps.map (fun (x : Nat × Qp) => (x.1, { x.2 with
      sentAt := f x.2.sentAt, cnpSent := x.2.cnpSent.map f, cnpSeen := x.2.cnpSeen.map f, cutAt := x.2.cutAt.map f
      raisedAt := f x.2.raisedAt, oldestUnacked := f x.2.oldestUnacked }))
    txqs := s.txqs.map (fun (x : Nat × TxQ) => (x.1, { x.2 with
      frames := x.2.frames.map (fun y => { y with entered := f y.entered }) }))
    ring := { s.ring with
      joinAt := s.ring.joinAt.map f, lastHeartbeat := f s.ring.lastHeartbeat, heartbeatSent := f s.ring.heartbeatSent
      joinSent := f s.ring.joinSent, formedAt := s.ring.formedAt.map f
      peers := s.ring.peers.map (fun (x : Nat × Peer) => (x.1, { x.2 with
        absentAt := x.2.absentAt.map f, kept := x.2.kept.map (fun k => { k with sentAt := f k.sentAt }) })) } }

/-- Intervals that run inside the device keep their lengths. -/
def State.stepUnits (s : State) (d : Int) : State :=
  let f := stepNs d
  { s with
    spires := s.spires.map (fun (x : Nat × SpireSt) => (x.1, { x.2 with
      started := f x.2.started, slowAt := f x.2.slowAt, ueTimes := x.2.ueTimes.map f }))
    exts := s.exts.map (fun (x : Nat × Ext) => (x.1, { x.2 with lastTimer := f x.2.lastTimer }))
    beats := s.beats.map (fun (x : Nat × Beat) => (x.1, { x.2 with last := f x.2.last, accepted := x.2.accepted.map f }))
    arrays := s.arrays.map (fun (x : Nat × LArray) => (x.1, { x.2 with lastOk := x.2.lastOk.map f, lastCal := x.2.lastCal.map f }))
    flash := { s.flash with
      dies := s.flash.dies.map (fun (x : Nat × Die) => (x.1, { x.2 with slowTimes := x.2.slowTimes.map f, slowAt := f x.2.slowAt }))
      hourStart := f s.flash.hourStart, tempAt := f s.flash.tempAt, mountAt := f s.flash.mountAt }
    ras := { s.ras with lapStart := f s.ras.lapStart, ceAt := s.ras.ceAt.map f } }

/-- DEVICE_TIME stepped: every stored future time moves with it, and beat domains with the ring source restart in OFF. -/
def State.stepTime (s : State) (d : Int) : State :=
  let s := { s with time := stepNs d s.time }
  let s := ((s.stepLeases d).stepLinks d).stepUnits d
  (List.range 4).foldl (fun (s : State) n => if s.beatSource n = 3 then s.restartBeat n else s) s

/-- A TIME frame: an exchange that gives the delays of the links, or the master's time, as what this device's DEVICE_TIME is
ahead of it. An offset of more than 10 µs at join or under a new master is stepped away; a smaller one is slewed away, which is
in the times of the commands that follow (log entry 23). -/
def effTime (s : State) (h : RingHdr) (offset : Option Int) (delays : Option (Nat × Nat)) : State :=
  if h.bad then s.tagFail
  else if s.get F.RING_STATUS_STATE < 2 then s
  else
    let s := match delays with | some d => { s with ring := { s.ring with linkDelay := d } } | none => s
    match offset with
    | none => s
    | some o =>
      if s.isMaster || !s.ring.gotMembers || s.ring.master != some h.src then s
      else
        let s := s.put F.RING_TIME_OFFSET_NS (o % 2 ^ 32).toNat
        let step := !s.ring.timed && (o > 10000 || o < -10000)
        let s := if step then s.stepTime (-o) else s
        let near := step || (-100 ≤ o && o ≤ 100)
        let s := s.put F.RING_STATUS_SYNCED (b2n near)
        { s with ring := { s.ring with timed := true } }.tryJoined

def execTime (e : Env) (h : RingHdr) (offset : Option Int) (delays : Option (Nat × Nat)) (s : State) :
    Host.Outcome State Fault Refusal :=
  .next (effTime (s.enter e) h offset delays)

/-- The master's TIME frame, every 1 ms, or a member's exchange of TIME frames with its neighbours. -/
def effTimeSend (s : State) : State :=
  if s.isMaster then s.ringCast 10 0 [0, s.time] 8
  else if s.get F.RING_STATUS_STATE ≥ 2 then s.ringCast 10 0 [1] 8 else s

def execTimeSend (e : Env) (s : State) : Host.Outcome State Fault Refusal := .next (effTimeSend (s.enter e))

end Sys2Proof.Machine
end

