-- ==== Sys2Proof/Machine/Ras.lean ====
section
/-! DEFINITION. Scrubbing (R417), retirement (R413), the check-bit test mode (R414), self-test (R415), store recovery (R421), fatal
faults (R422), and the faults of Keep, Saplings, codec slices and the pool (R254, R322, R405, R418). -/

namespace Sys2Proof.Machine

open Sys2Proof

/-! ### Store recovery (R421) -/

/-- Journal groups already formed committed (step 4); a group whose data has found no band is not formed. -/
def State.commitFormed (s : State) : State :=
  let formed := s.flash.groups.filter (fun (g : Nat × Group) => g.2.pend == [])
  let pas := formed.flatMap (fun (g : Nat × Group) => g.2.mus)
  let s := { s with flash := { s.flash with
    mus := s.flash.mus.map (fun (m : Nat × Mu) => if pas.contains m.1 then (m.1, { m.2 with issued := true, done := true }) else m) } }
  let s := formed.foldl (fun (s : State) g => s.commitGroup g.1 g.2) s
  { s with flash := { s.flash with groups := s.flash.groups.filter (fun (g : Nat × Group) => g.2.pend == []) } }

/-- How a store recovery, or a fatal fault where the host port works, ends one request (step 3, R419, R420): what has passed its
commit point has its own status; what waits for a partition, a region, a schedule or another member goes on where `on` says so;
all else completes ABORTED_RESET. -/
def State.endRequest (s : State) (on : Bool) (x : Nat × Req) : State :=
  match x.2.phase, x.2.wait with
  | .waiting, .pad _ st c => s.complete x.1 st c
  | .waiting, .acks _ st c => if on then s else s.complete x.1 st c
  | .waiting, .append pl => if on then s.abandonPlan x.1 pl .abortedReset else s.complete x.1 .abortedReset
  | .waiting, .teardown _ => if on then s else s.complete x.1 .abortedReset
  | .waiting, .waitFree _ => if on then s else s.complete x.1 .abortedReset
  | .waiting, .createScrub _ => if on then s else s.complete x.1 .abortedReset
  | .waiting, .revoke _ => if on then s else s.complete x.1 .abortedReset
  | .waiting, .arm _ => if on then s else s.complete x.1 .abortedReset
  | .waiting, .disarm _ => if on then s else s.complete x.1 .abortedReset
  | .waiting, .forward _ => if on then s else s.complete x.1 .abortedReset
  | _, _ => s.complete x.1 .abortedReset

/-- Every request ended, and every instance in flight whose writes have not been sent. -/
def State.endRequests (s : State) (on : Bool) : State :=
  let s := s.reqs.foldl (fun (s : State) x => if (s.req? x.1).isSome then s.endRequest on x else s) s
  s.insts.foldl (fun (s : State) x => if x.2.result.isSome then s else s.instComplete x.1 x.2 .abortedReset {}) s

/-- Spires and Groves with no work. -/
def State.stopSpires (s : State) : State :=
  { s with
    jobs := []
    groves := []
    spires := s.spires.map (fun (x : Nat × SpireSt) => (x.1, x.2.stop s.time)) }

/-- The freed indices of a recovery (step 5): the generation of a readable record advances, an unreadable one is withheld. -/
def freedLeaf (bad : List Nat) (x : Nat × Leaf) : Nat × Leaf :=
  (x.1, if bad.contains x.1 || x.2.withheld then { generation := x.2.generation, withheld := true } else { generation := x.2.generation + 1 })
def freedSeq (bad : List Nat) (x : Nat × Sequ) : Nat × Sequ :=
  (x.1, if bad.contains x.1 || x.2.withheld then { generation := x.2.generation, withheld := true } else { generation := x.2.generation + 1 })

/-- Tier 0 rebuilt from flash (steps 5 and 6): Canopy, contexts, pool slots, shadows and leases are empty. Classification entries
belong to the rule sets (R123), which stay (log entry 24). -/
def State.rebuildTier (s : State) (badLeaves badSeqs : List Nat) : State :=
  let s := (List.range 128).foldl (fun (s : State) p => if s.partLeases p = [] then s else s.dropLeases p) s
  let s := { s with
    leaves := s.leaves.map (freedLeaf badLeaves)
    seqs := s.seqs.map (freedSeq badSeqs)
    banks := s.banks.map (fun (b : Nat × CanopyBank) => (b.1, { b.2 with entries := b.2.entries.filter (fun (x : Nat × CanopyEntry) => x.2.kind == CanopyKind.rule) }))
    ctxs := []
    holds := []
    promos := []
    badRecs := s.badRecs.filter (fun (b : Nat × Nat) => b.1 == 0 || (2 ≤ b.1 && b.1 ≤ 4))
    pool := { s.pool with readBuf := [] }
    ras := { s.ras with raw := [] } }
  if s.flashReadable then s.restoreStore else s.setRoots []

/-- STORE_RECOVERY, done in one step (log entry 24). -/
def effStoreRecovery (s : State) (badLeaves badSeqs : List Nat) : State :=
  if !s.serves then s
  else
    let s := (s.put F.RAS_STATUS_RECOVERING 1).raise gRasUncorrected 2
    let s := ((List.range 128).filter s.partActive).foldl (fun (s : State) p => (s.put F.PART_RAS_STATUS_RECOVERED 1 p).refreshPart p) s
    let s := ((s.commitFormed).endRequests true).stopSpires
    let s := s.rebuildTier badLeaves badSeqs
    (s.put F.RAS_STATUS_RECOVERING 0).bump F.RAS_STATUS_RECOVERIES

def execStoreRecovery (e : Env) (badLeaves badSeqs : List Nat) (s : State) : Host.Outcome State Fault Refusal :=
  .next (effStoreRecovery (s.enter e) badLeaves badSeqs)

/-! ### Fatal faults (R422) -/

/-- RAS_STATUS.FATAL and the FATAL group (log entry 108). -/
def State.setFatal (s : State) : State := (s.put F.RAS_STATUS_FATAL 1).raise gFatal 0

/-- Every interface of a Buttress die stops, and none of the other die (R14): its Ethernet sub-ports, its ring port and, on die 1,
the pool port go down; its flash channels, the beat inputs and the host port take nothing more. -/
def State.stopDie (s : State) (d : Nat) : State :=
  let s := { s with ras := { s.ras with dies := d :: s.ras.dies.filter (· != d) } }
  let s := (List.range 8).foldl (fun (s : State) i => effSubportLinkChange s (2 * d + i / 4) (i % 4) false) s
  let s := effRingLinkChange s (d == 1) false false
  if d = 1 then effPoolPortDown s else s

/-- FATAL_FAULT, of a Buttress die where one is named (log entry 108): where the host port does not work, as with die 0, no
completion is written. -/
def effFatalFault (s : State) (hostWorks : Bool) (die : Option Nat) : State :=
  if s.phase = 0 || s.on F.RAS_STATUS_FATAL then s
  else
    let s := if hostWorks && die != some 0 then (s.setFatal).endRequests false else { s.setFatal with reqs := [], insts := [] }
    let s := s.stopSpires
    match die with
    | some d => if d < 2 then s.stopDie d else s
    | none => s

def execFatalFault (e : Env) (fault : Bool × Option Nat) (s : State) : Host.Outcome State Fault Refusal :=
  .next (effFatalFault (s.enter e) fault.1 fault.2)

/-! ### Scrubbing and the errors it finds (R417) -/

/-- RAS_INJECT.ARM clears once the word of its target has been written (R414; log entry 107). -/
def State.injectDone (s : State) (source unit : Nat) : State :=
  let t := match s.get F.RAS_INJECT_TARGET with | 0 => 1 | 1 => 2 | 2 => 3 | 3 => 4 | _ => 6
  if s.on F.RAS_INJECT_ARM && t = source && s.get F.RAS_INJECT_UNIT = unit then s.put F.RAS_INJECT_ARM 0 else s

/-- The end of a lap, of HBM in s or of SRAM in ms. -/
def State.endLap (s : State) (hbm : Bool) (v : Nat) : State :=
  if hbm then
    let s := (s.put F.RAS_SCRUB_LAP_LAST (min v (2 ^ 24 - 1))).put F.RAS_SCRUB_LAP_LAPS (s.get F.RAS_SCRUB_LAP_LAPS + 1)
    ({ s with ras := { s.ras with dieEvents := [], lapStart := s.time } }).put F.RAS_SCRUB_POS_STALLED 0
  else (s.put F.RAS_SCRUB_SRAM_LAP_LAST (min v (2 ^ 24 - 1))).put F.RAS_SCRUB_SRAM_LAP_LAPS (s.get F.RAS_SCRUB_SRAM_LAP_LAPS + 1)

/-- A die event: enough of them within a lap mark the die (R404). -/
def State.dieEvent (s : State) (k die : Nat) : State :=
  let n := s.ras.dieEvents.getD (k * 16 + die) 0 + 1
  let s := { s with ras := { s.ras with dieEvents := s.ras.dieEvents.set (k * 16 + die) n } }
  let lim := s.get F.RAS_CFG_MARK_CW
  if lim != 0 && n ≥ lim then s.markDie k die else s

/-- Errors in an HBM codeword of a stack: those of marked dies do not count (R412); what the marking state corrects is counted
and written back; the rest is uncorrectable, and in state 2 an error beside the marked dies is not detected (R403; log entry 25). -/
def State.hbmError (s : State) (k : Nat) (errs : List (Nat × Nat)) (addr : Nat) (hit : ScrubHit) : State :=
  let errs := errs.filter (fun (x : Nat × Nat) => x.2 != 0 && !(s.markedDies k).contains x.1)
  let n := (errs.map (fun (x : Nat × Nat) => x.2)).sum
  if n = 0 || s.stackState k = 2 then s
  else
    let die := match errs with | (d, _) :: _ => d | [] => 0
    let entry : LogEntry := { symbols := min 255 n, sub := die, unit := k, source := 0, addr := addr }
    if n ≤ correctable (s.stackState k) then
      let s := errs.foldl (fun (s : State) x => s.bump F.RAS_HBM_DIE_SYM_COUNT x.2 k x.1) (s.bump F.RAS_HBM_CE_COUNT 1 k)
      let isEvent := errs.length = 1 && n ≥ s.get F.RAS_CFG_MARK_SYM
      let s := (s.logError entry isEvent).raiseCe
      if isEvent then s.dieEvent k die else s
    else
      (((s.bump F.RAS_HBM_UE_COUNT 1 k).logError { entry with ue := true } false).raise gRasUncorrected 0).applyHit hit

/-- Bits in error in an on-die word (R405): Heartwood corrects two, every other memory one (log entry 25). -/
def State.sramError (s : State) (source unit : Nat) (errs : List (Nat × Nat)) (addr : Nat) (hit : ScrubHit) : State :=
  let n := (errs.map (fun (x : Nat × Nat) => x.2)).sum
  if n = 0 then s
  else
    let bank := match errs with | (b, _) :: _ => b | [] => 0
    let hw := source = 1
    let entry : LogEntry := { symbols := min 255 n, sub := bank % 64, unit := (if source = 2 then unit / 6 else unit) % 16, source := source, addr := addr }
    if n ≤ (if hw then 2 else 1) then
      ((s.bump (if hw then F.RAS_HW_CE_COUNT else F.RAS_SRAM_CE_COUNT)).logError entry false).raiseCe
    else
      let s := (s.bump (if hw then F.RAS_HW_UE_COUNT else F.RAS_SRAM_UE_COUNT)).logError { entry with ue := true } false
      let s := (s.raise gRasUncorrected 0).applyHit hit
      if source = 2 && unit < 48 then s.spireUe unit else s

/-- HBM_SCRUB: one word that the scrubber, or another reader, found in error, and the progress of the laps (log entry 25). -/
def effHbmScrub (s : State) (source unit : Nat) (errs : List (Nat × Nat)) (addr : Nat) (hit : ScrubHit)
    (lap : Option (Bool × Nat)) (pct : Option Nat) : State :=
  if s.phase < 1 || s.on F.RAS_STATUS_FATAL then s
  else
    let s := match hit with
      | .poisonRead => s.bump F.RAS_HBM_POISON_READS_COUNT
      | _ =>
        let s := s.injectDone source unit
        let s' := if source = 0 then (if unit ≥ s.stacks || s.inSr then s else s.hbmError unit errs addr hit)
          else if source ≤ 6 then s.sramError source unit errs addr hit else s
        match hit with
        | .directory ls qs => if s' = s then s' else effStoreRecovery s' ls qs
        | _ => s'
    let s := match lap with | some (hbm, v) => if hbm && s.inSr then s else s.endLap hbm v | none => s
    match pct with | some v => s.put F.RAS_SCRUB_POS_PCT (min 100 v) | none => s

def execHbmScrub (e : Env) (source unit : Nat) (errs : List (Nat × Nat)) (addr : Nat) (hit : ScrubHit)
    (lap : Option (Bool × Nat)) (pct : Option Nat) (s : State) : Host.Outcome State Fault Refusal :=
  .next (effHbmScrub (s.enter e) source unit errs addr hit lap pct)

/-- SCRUB_STALLED: once in a lap that has run past WARN_H hours. -/
def effScrubStalled (s : State) : State :=
  if s.phase < 2 || s.on F.RAS_SCRUB_POS_STALLED
      || s.time < s.ras.lapStart + max 1 (s.get F.RAS_SCRUB_CFG_WARN_H) * 3600000000000 then s
  else (s.put F.RAS_SCRUB_POS_STALLED 1).raise gRasCorrected 2

def execScrubStalled (e : Env) (s : State) : Host.Outcome State Fault Refusal := .next (effScrubStalled (s.enter e))

/-- POOL_EVENT_RECORD: a record of a pool memory device, logged with source 7 (R322, R423). -/
def effPoolEventRecord (s : State) (device addr : Nat) (ue : Bool) : State :=
  if !s.serves || !s.poolUp then s
  else
    let s := s.logError { unit := device % 16, source := 7, ue := ue, addr := addr } false
    if ue then s.raise gRasUncorrected 0 else s.raiseCe

def execPoolEventRecord (e : Env) (device addr : Nat) (uncorrectable : Bool) (s : State) : Host.Outcome State Fault Refusal :=
  .next (effPoolEventRecord (s.enter e) device addr uncorrectable)

/-! ### Retirement (R413) -/

/-- The HBM slot in which an address lies, in the tier-0 leaf area. -/
def State.slotOf? (s : State) (addr : Nat) : Option Nat :=
  let b := s.base F.TIER_HBM_BASE_LO_ADDR F.TIER_HBM_BASE_HI_ADDR
  if b ≤ addr && addr < b + s.hbmSlots * 262144 then some ((addr - b) / 262144) else none

/-- The sum of the tier-0 reservations (log entry 80). -/
def State.resvSum (s : State) (t : Nat) : Nat := ((List.range 128).map (fun p => s.get F.PART_TIER_RESV_SLOTS p t)).sum

/-- Whether a unit in retirement still holds work (item 5). -/
def State.retireHolds (s : State) (kind unit : Nat) : Bool :=
  match kind with
  | 0 => s.hbmWhole unit || s.hbmHalf unit false || s.hbmHalf unit true
  | 2 => (s.spire unit).running.isSome || (s.spire unit).assigned.isSome
  | 5 => s.arrayHeld unit
  | _ => false

/-- RAS_RETIRE_STATUS.BUSY. -/
def State.retireBusy (s : State) : Bool :=
  match s.ras.retiring with | some (k, u) => s.retireHolds k u | none => false

/-- The outcome code of a request (RAS_RETIRE_STATUS.ERR; log entry 107). -/
def State.retireErr (s : State) (kind unit : Nat) (slot : Option Nat) : Nat :=
  if s.retireBusy then 5
  else match kind, slot with
    | 0, none => 1
    | 0, some k => if s.retiredSlots.contains k then 1 else if s.retiredSlots.length ≥ 4096 then 3
        else if s.resvSum 0 > s.tierCap 0 - 1 then 2 else 0
    | 1, _ => if unit ≥ s.stacks then 1 else if s.stackState unit = 2 then 4 else 0
    | 2, _ => if unit ≥ 48 then 1 else 0
    | 3, _ => if unit ≥ 256 then 1 else 0
    | 4, _ => if unit ≥ 64 then 1 else 0
    | _, _ => if unit ≥ 64 then 1 else 0

/-- A Spire set OFFLINE (R199, R259). -/
def State.spireOff (s : State) (n : Nat) : State := ((s.put F.SPIRE_CTL_OFFLINE 1 n).returnUnit n).dispatch

/-- A Lantern array retired: it is never allocated again, and may have been the last usable one of its group (R209, R413). -/
def State.retireArray (s : State) (a : Nat) : State :=
  let s' := { s with ras := { s.ras with arrays := a :: s.ras.arrays.filter (· != a) } }
  if (s.usableArrays (a / 16)).contains a then s'.noUsable (a / 16) else s'

/-- A unit of kinds 1 to 5 retired. -/
def State.retireUnit (s : State) (kind unit die : Nat) : State :=
  match kind with
  | 1 => s.markDie unit die
  | 2 => ({ s with ras := { s.ras with spires := unit :: s.ras.spires.filter (· != unit) } }).spireOff unit
  | 3 => { s with ras := { s.ras with
      saplings := unit :: s.ras.saplings.filter (· != unit), faulted := unit :: s.ras.faulted.filter (· != unit) } }
  | 4 => (effCanopyBankFlush s unit).setBank unit { (effCanopyBankFlush s unit).bank unit with retired := true }
  | _ => s.retireArray unit

/-- An HBM slot retired: it leaves the free list, a shadow in it goes, and a SEALED primary moves. -/
def State.retireSlot (s : State) (k : Nat) : State :=
  let s := { s with retiredSlots := s.retiredSlots ++ [k] }
  let s := s.put F.RAS_RETIRE_STATUS_SLOTS s.retiredSlots.length
  s.leaves.foldl (fun (s : State) x =>
    let s := match x.2.shadow with
      | some sh => if sh.slot = k then (s.setLeaf x.1 (s.leaf x.1).dropShadow).settle x.1 else s
      | none => s
    s.leaveRetired x.1) s

/-- RAS_RETIRE_GO: kinds 6 and 7 are ignored. -/
def effRasRetireGo (s : State) (kind unit die : Nat) : State :=
  if kind ≥ 6 || s.phase < 2 then s
  else
    let slot := s.slotOf? (s.pair F.RAS_RETIRE_ADDR_LO_ADDR F.RAS_RETIRE_ADDR_HI_ADDR)
    let err := s.retireErr kind unit slot
    let s := s.put F.RAS_RETIRE_STATUS_ERR err
    if err != 0 then s
    else match (if kind = 0 then slot else none) with
      | some k => ({ s with ras := { s.ras with retiring := some (0, k) } }).retireSlot k
      | none => ({ s with ras := { s.ras with retiring := some (kind, unit) } }).retireUnit kind unit (die % 16)

def execRasRetireGo (e : Env) (kind unit die : Nat) (s : State) : Host.Outcome State Fault Refusal :=
  .next (effRasRetireGo (s.enter e) kind unit die)

/-! ### The check-bit test mode (R414) -/

/-- The copy that lies in an HBM slot, with its leaf. -/
def State.copyIn (s : State) (slot : Nat) : Option (Nat × Leaf × Copy) :=
  s.leaves.findSome? (fun (x : Nat × Leaf) => match x.2.cur with
    | some c => if c.tier = .hbm && c.loc = slot then some (x.1, x.2, c) else none
    | none => none)

/-- The leaf slots that a codeword touches, each with the first and the last byte of it in the slot. -/
def State.slotsOfCw (s : State) (cw : Nat) : List (Nat × Nat × Nat) :=
  let b := s.base F.TIER_HBM_BASE_LO_ADDR F.TIER_HBM_BASE_HI_ADDR
  (((List.range 224).filterMap (fun i => s.slotOf? (cw * 224 + i))).eraseDups).map (fun k =>
    let lo := b + k * 262144
    (k, max lo (cw * 224) - lo, min (lo + 262144) (cw * 224 + 224) - 1 - lo))

/-- The payload lines of a copy in bytes of its slot from `a` to `z`: header line 0 is no payload line. -/
def linesIn (a z : Nat) : List Nat := ((List.range (z / 64 + 1)).filter (fun n => a / 64 ≤ n && n ≥ 1)).map (· - 1)

/-- The 256 bytes of a codeword: as written raw, where what it holds is still there; else the stored bytes of the leaf copies in it
and of the records in it, and free bytes elsewhere (log entry 26), with their check symbols. -/
def State.cwBytes (s : State) (cw : Nat) : Bytes × State :=
  let occ := (s.slotsOfCw cw).filterMap (fun x => (s.copyIn x.1).map (fun y => y.2.2.cid))
  match s.ras.raw.get? cw with
  | some (k, bs) => if k = occ.foldl (fun n c => n * 2 ^ 64 + c + 1) 0 then (bs, s) else (bs, { s with ras := { s.ras with raw := s.ras.raw.erase cw } })
  | none =>
    let (fill, s) := s.freeBytes 224
    let data := (List.range 224).map (fun i =>
      match s.slotOf? (cw * 224 + i) with
      | some k => (match s.copyIn k with
        | some (j, l, c) => (s.slotBytes j l c).getD (cw * 224 + i - (s.base F.TIER_HBM_BASE_LO_ADDR F.TIER_HBM_BASE_HI_ADDR + k * 262144)) 0
        | none => fill.getD i 0)
      | none => (s.recordByte (cw * 224 + i)).getD (fill.getD i 0))
    let bad := (s.slotsOfCw cw).any (fun x => match s.copyIn x.1 with
      | some (_, _, c) => (linesIn x.2.1 x.2.2).any c.poison.contains
      | none => false)
    (codeword data bad, s)

/-- How a codeword written raw reads: exactly as data, as the poison pattern, or otherwise; one that is neither reads corrected or
uncorrectable, by the errors that it has against what lay there before, and is free where they are too many to say. -/
inductive RawRead | same | changed | lost
  deriving DecidableEq, Repr

/-- Symbols in which two codewords differ. -/
def symDiff (a b : Bytes) : Nat := ((symsOf a).zip (symsOf b)).countP (fun x => x.1 != x.2)

def State.rawRead (s : State) (old new : Bytes) : RawRead × State :=
  let data := new.take 224
  if new = old then (.same, s)
  else if new = codeword data true then (.lost, s)
  else if new = codeword data false then (if data = old.take 224 then .same else .changed, s)
  else if symDiff old new ≤ 8 && old = codeword (old.take 224) false then (.same, s)
  else (if s.free.1 % 2 = 0 then .lost else .changed, s.free.2)

/-- What a raw codeword does to the leaf copies in it: changed stored bytes fail the integrity tag (R427), lost ones are poisoned,
and lines written clean again are clean (log entry 26). -/
def State.applyRaw (s : State) (cw : Nat) (r : RawRead) : State :=
  (s.slotsOfCw cw).foldl (fun (s : State) x =>
    match s.copyIn x.1 with
    | none => s
    | some (i, l, c) =>
      let lines := linesIn x.2.1 x.2.2
      let c' : Copy := match r with
        | .same => c
        | .changed => { c with tagBad := true, poison := c.poison.filter (fun n => !lines.contains n) }
        | .lost => if x.2.1 < 64 then { c with tagBad := true } else { c with poison := c.poison ++ lines.filter (fun n => !c.poison.contains n) }
      s.setLeaf i { l with cur := some c' }) s

/-- The codeword under test. -/
def State.cbtWord (s : State) : Nat := s.pair F.RAS_CBT_ADDR_LO_ADDR F.RAS_CBT_ADDR_HI_ADDR / 224
/-- The buffer of the test mode. -/
def State.cbtBuf (s : State) : Nat := s.pair F.RAS_CBT_BUF_LO_ADDR F.RAS_CBT_BUF_HI_ADDR / 64 * 64

/-- The size of the HBM data address space (R1). -/
def State.hbmBytes (s : State) : Nat := (if s.hb6 then 336 else 448) * 2 ^ 30

def effWriteRaw (s : State) : State :=
  if !s.on F.RAS_CBT_CTL_ENABLE || s.phase < 2 then s
  else match s.busRead (memKey 0 s.cbtBuf) 256 with
    | .ok bs =>
      let cw := s.cbtWord
      if cw * 224 ≥ s.hbmBytes then s.put F.RAS_CBT_STATUS_ERR 1
      else
        let (old, s) := s.cwBytes cw
        let (r, s) := s.rawRead old bs
        let s := s.applyRaw cw r
        let occ := (s.slotsOfCw cw).filterMap (fun x => (s.copyIn x.1).map (fun y => y.2.2.cid))
        { s with ras := { s.ras with raw := s.ras.raw.set cw (occ.foldl (fun n c => n * 2 ^ 64 + c + 1) 0, bs) } }
    | _ => s.put F.RAS_CBT_STATUS_ERR 1

def execWriteRaw (e : Env) (s : State) : Host.Outcome State Fault Refusal := .next (effWriteRaw (s.enter e))

def effReadRaw (s : State) : State :=
  if !s.on F.RAS_CBT_CTL_ENABLE || s.phase < 2 then s
  else if s.cbtWord * 224 ≥ s.hbmBytes || s.rangeFails (memKey 0 s.cbtBuf) 256 then s.put F.RAS_CBT_STATUS_ERR 1
  else
    let (bs, s) := s.cwBytes s.cbtWord
    (s.busWrite (memKey 0 s.cbtBuf) bs).deviceFrame 256

def execReadRaw (e : Env) (s : State) : Host.Outcome State Fault Refusal := .next (effReadRaw (s.enter e))

/-- A debug bit of R442 set: sticky until a power-on reset. -/
def State.setDebug (s : State) (b : Nat) : State := s.put F.SEC_STATUS_DEBUG (s.get F.SEC_STATUS_DEBUG ||| 2 ^ b)

/-- RAS_INJECT_ARM: ignored unless the test mode is open. -/
def effRasInjectArm (s : State) (target unit bits : Nat) : State :=
  let s := ((s.put F.RAS_INJECT_TARGET (target % 16)).put F.RAS_INJECT_UNIT (unit % 256)).put F.RAS_INJECT_BITS (bits % 4)
  if !s.on F.RAS_CBT_CTL_ENABLE then s else (s.put F.RAS_INJECT_ARM 1).setDebug 2

def execRasInjectArm (e : Env) (target unit bits : Nat) (s : State) : Host.Outcome State Fault Refusal :=
  .next (effRasInjectArm (s.enter e) target unit bits)

/-! ### Self-test (R415) -/

/-- Whether a self-test of a unit is accepted. -/
def State.bistOk (s : State) (target unit : Nat) : Bool :=
  let idle (n : Nat) : Bool := (s.spire n).running.isNone && (s.spire n).assigned.isNone
  match target with
  | 0 => unit < 48 && s.on F.SPIRE_CTL_OFFLINE unit && idle unit
  | 1 => unit < 8
  | 2 => unit < 8 && s.pdOn (56 + unit) && (s.grove unit).queue == [] && (List.range 6).all (fun i => idle (6 * unit + i))
  | 3 => unit < 4 && s.pdOn (72 + unit) && (List.range 16).all (fun b => (s.bank (16 * unit + b)).entries == [])
  | 4 => unit < 4 && s.pdOn (76 + unit) && (groupArrays unit).all (fun a => !s.arrayHeld a)
  | 5 => (List.range 127).all (fun p => !s.partActive (p + 1))
  | _ => false

/-- RAS_BIST_GO. -/
def effRasBistGo (s : State) (target unit : Nat) : State :=
  if s.phase < 2 || s.on F.RAS_STATUS_FATAL then s
  else if s.ras.bist.isSome || !s.bistOk target unit then s.put F.RAS_BIST_STATUS_REFUSED 1
  else
    let s := { s.put F.RAS_BIST_STATUS_BUSY 1 with ras := { s.ras with bist := some (target, unit) } }
    if target = 5 then s.setDebug 4 else s

def execRasBistGo (e : Env) (target unit : Nat) (s : State) : Host.Outcome State Fault Refusal :=
  .next (effRasBistGo (s.enter e) target unit)

/-- HBM self-test has destroyed tier 0, and the fill has written zeros (R416): what only tier 0 held is gone, and the durable
store is taken from flash again (log entry 24). -/
def State.loseTier (s : State) : State :=
  let s := ((s.commitFormed).endRequests true).stopSpires
  let up := s.flashReadable
  let s := { s with
    shapes := if up then s.shapes else [], rules := if up then s.rules else [], scopes := if up then s.scopes else []
    banks := if up then s.banks else s.banks.map (fun (b : Nat × CanopyBank) => (b.1, { b.2 with entries := [], away := [] }))
    scheds := [], badRecs := [], tabCache := [] }
  (s.rebuildTier [] [])

/-- The failing parts of a self-test: core dies by stack × 16 + die are marked, units are retired (R413). -/
def State.bistFail (s : State) (target unit : Nat) (failed : List Nat) : State :=
  match target with
  | 0 => if failed = [] then s else s.retireUnit 2 unit 0
  | 1 => { s with ras := { s.ras with faulted := s.ras.faulted.filter (fun (c : Nat) =>
      c / 32 != unit || failed.contains (c % 32) || s.ras.saplings.contains c)
        ++ (failed.map (· + 32 * unit)).filter (fun c => !s.ras.faulted.contains c) } }
  | 3 => failed.foldl (fun (s : State) b => if b / 16 = unit then s.retireUnit 4 b 0 else s) s
  | 4 => failed.foldl (fun (s : State) a => if a / 16 = unit then s.retireUnit 5 a 0 else s) s
  | 5 => failed.foldl (fun (s : State) x => if x < 16 * s.stacks then s.markDie (x / 16) (x % 16) else s) s
  | _ => s

/-- BIST_DONE: of the test that was asked for, or the test of a cluster with a faulted Sapling, which starts by itself. -/
def effBistDone (s : State) (target unit fails : Nat) (failed : List Nat) : State :=
  let asked := s.ras.bist == some (target, unit)
  let own := target = 1 && s.ras.faulted.any (fun c => c / 32 == unit)
  if !asked && !own then s
  else
    let s := if target = 5 then s.loseTier else s
    let s := s.bistFail target unit failed
    if asked then
      let s := { s with ras := { s.ras with bist := none } }
      ((s.put F.RAS_BIST_STATUS_BUSY 0).put F.RAS_BIST_STATUS_PASS (b2n (fails = 0))).put F.RAS_BIST_STATUS_FAILS (min fails (2 ^ 16 - 1))
    else s

def execBistDone (e : Env) (target unit fails : Nat) (failed : List Nat) (s : State) : Host.Outcome State Fault Refusal :=
  .next (effBistDone (s.enter e) target unit fails failed)

/-! ### Faults that stay within a block (R254, R405, R418) -/

/-- KEEP_DOWN of every mailbox (R492). -/
def State.setKeepDown (s : State) (v : Nat) : State :=
  let s := (List.range 8).foldl (fun (s : State) n => s.put F.MBX_NS_STATUS_KEEP_DOWN v n) s
  (List.range 4).foldl (fun (s : State) n => s.put F.MBX_SEC_STATUS_KEEP_DOWN v n) s

/-- KEEP_RESTART: management pauses until Keep's firmware runs again; mailboxes keep their contents. -/
def effKeepRestart (s : State) : State :=
  if !s.boot.keep then s
  else (({ s with boot := { s.boot with keep := false } }).setKeepDown 1).bump F.RAS_KEEP_RESTARTS_COUNT |>.raise gFirmware 1

def execKeepRestart (e : Env) (s : State) : Host.Outcome State Fault Refusal := .next (effKeepRestart (s.enter e))

/-- SAPLING_FAULT: the core is marked faulted; its work restarts elsewhere with the same result (R252). -/
def effSaplingFault (s : State) (cluster core : Nat) : State :=
  let c := cluster * 32 + core
  if cluster ≥ 8 || core ≥ 32 || !s.pdOn (48 + cluster) || s.ras.faulted.contains c then s
  else (({ s with ras := { s.ras with faulted := c :: s.ras.faulted } }).bump F.SAPL_FAULTS_COUNT).raise gSapling 0

def execSaplingFault (e : Env) (cluster core : Nat) (s : State) : Host.Outcome State Fault Refusal :=
  .next (effSaplingFault (s.enter e) cluster core)

/-- CODEC_SLICE_RESET: the slice's tables go, and the leaves that it was decoding are fetched again. -/
def effCodecSliceReset (s : State) (g : Nat) : State := { s with tabCache := s.tabCache.erase g }

def execCodecSliceReset (e : Env) (slice : Nat) (s : State) : Host.Outcome State Fault Refusal :=
  .next (effCodecSliceReset (s.enter e) slice)

end Sys2Proof.Machine
end

