-- ==== Sys2Proof/Machine/Power.lean ====
section
/-! DEFINITION. Power domains (R447 to R452), the Cupola arbiter (R453 to R457) and temperature (R459 to R461). -/

namespace Sys2Proof.Machine

open Sys2Proof

/-! ### Reserves (R454) -/

def State.pd (s : State) (d : Nat) : Pd := s.pds.getD d {}
def State.setPd (s : State) (d : Nat) (x : Pd) : State := { s with pds := s.pds.set d x }

/-- The reserve of a domain in mW. -/
def domainMw (d : Nat) : Nat :=
  if d < 48 then 500 else if d < 56 then 8750 else if d < 64 then 500 else if d < 72 then 6000 else if d < 76 then 1000
  else if d < 80 then 500 else if d < 84 then 4000 else if d < 88 then 17500 else if d < 90 then 11000
  else if d = 90 then 12000 else 2000

/-- The HBM stacks that are present. -/
def State.presentStacks (s : State) : List Nat := (List.range 8).filter (fun k => (s.pd (64 + k)).state != 5)

/-- The total reserve in mW: every domain that is not OFF, and 6.75 W for each stack in self-refresh (R452). -/
def State.reserveMw (s : State) : Nat :=
  36000 + ((List.range 92).map (fun d => if (s.pd d).state = 0 || (s.pd d).state = 5 then 0 else domainMw d)).sum
    + (if s.inSr then 6750 * s.presentStacks.length else 0)

/-- The budget that a further reserve must fit: the one in force, or a lower one that waits for the next epoch (R457). -/
def State.budgetMw (s : State) : Nat :=
  1000 * (match s.cupola.budget with | some w => min w (s.get F.CUPOLA_BUDGET_WATTS) | none => s.get F.CUPOLA_BUDGET_WATTS)

/-! ### Switching a domain on (R449, R451) -/

/-- A request of a domain has completed or was refused. -/
def State.pdResult (s : State) (d : Nat) (st : Status) : State := (s.setPd d { s.pd d with result := st.code }).raise gPower 0

/-- Whether the domains can be switched: the device is out of reset and has not tripped (log entry 121). -/
def State.pdUp (s : State) : Bool := 1 ≤ s.phase && s.phase ≤ 4 && !s.cupola.tripped

def effPdOn (s : State) (d : Nat) (waitFree : Bool) : State :=
  let x := s.pd d
  if d ≥ 92 || !s.pdUp then s
  else if (64 ≤ d && d < 72) || x.state = 5 then s.pdResult d .accessDenied
  else if x.state = 2 then s.pdResult d .ok
  else if x.state = 1 || x.held then s.pdResult d .busyTeardown
  else if x.state != 0 then (if waitFree then s.setPd d { x with held := true } else s.pdResult d .busyTeardown)
  else if s.reserveMw + domainMw d + s.cupola.refreshMw > s.budgetMw then s.pdResult d .quotaExceeded
  else s.setPd d { x with state := 1 }

def execPdOn (e : Env) (domain : Nat) (waitFree : Bool) (s : State) : Host.Outcome State Fault Refusal :=
  .next (effPdOn (s.enter e) domain waitFree)

/-- The arrays of a Lantern group all in one state, nothing known of their calibration (R209). -/
def State.lanternGroup (s : State) (g st : Nat) : State :=
  { s with arrays := (List.range 16).foldl (fun (t : Table LArray) i =>
      t.set (16 * g + i) { (t.getD (16 * g + i) {}) with state := st, lastOk := none, lastCal := none, failed := false }) s.arrays }

/-- What a domain does when it comes on. -/
def State.domainStart (s : State) (d : Nat) : State :=
  if d < 48 then (s.setSpire d { s.spire d with running := none, assigned := none }).dispatch
  else if d < 64 then s.dispatch
  else if 72 ≤ d && d < 76 then (List.range 16).foldl (fun (s : State) b => s.bankOn (16 * (d - 72) + b)) s
  else if 76 ≤ d && d < 80 then s.lanternGroup (d - 76) 3
  else if 80 ≤ d && d < 84 then s.issueNand
  else if d = 90 then s.put F.POOL_STATUS_STATE 1
  else s

def effPdPoweredOn (s : State) (d : Nat) : State :=
  if d ≥ 92 || (s.pd d).state != 1 || s.cupola.tripped then s
  else ((s.setPd d { s.pd d with state := 2 }).domainStart d).pdResult d .ok

def execPdPoweredOn (e : Env) (domain : Nat) (s : State) : Host.Outcome State Fault Refusal :=
  .next (effPdPoweredOn (s.enter e) domain)

/-! ### Switching a domain off (R450) -/

/-- Whether every partition other than 0 is FREE. -/
def State.tenantsFree (s : State) : Bool := (List.range 127).all (fun p => s.pstate (p + 1) == 0)

/-- The Refused column of R450 (log entry 121). -/
def State.offRefused (s : State) (d : Nat) : Bool :=
  if d = 48 then !s.tenantsFree || s.flashState == 4
  else if 56 ≤ d && d < 64 then !s.tenantsFree && !(List.range 8).any (fun g => 56 + g != d && s.pdOn (56 + g))
  else if 80 ≤ d && d < 84 then (s.flashState == 2 || s.flashState == 3 || s.flashState == 4) && !s.inSr
  else if 84 ≤ d && d < 88 then s.qps.any (fun (x : Nat × Qp) => x.2.port == d - 84 && x.2.state != .reset)
  else if d = 88 || d = 89 then s.ring.joinPin
  else if d = 91 then s.rules.any (fun (x : Nat × Slots RuleSet) =>
    (x.2.a.loaded && x.2.a.body.rules != []) || (x.2.b.loaded && x.2.b.body.rules != []))
  else false

/-- What a domain begins when it enters DRAINING. The units that wait for a codec slice go to another Grove (log entry 121). -/
def State.domainDrain (s : State) (d : Nat) : State :=
  if d < 48 then (s.returnUnit d).dispatch
  else if d < 56 then
    if s.anyCluster then s
    else if s.flashWritable && !s.on F.FLASH_STATUS_PF then (s.commitFormed).checkpoint else s.commitFormed
  else if d < 64 then
    let g := d - 56
    let q := (s.grove g).queue
    ((s.setGrove g []).setGrove waitGrove ((s.grove waitGrove).queue ++ q)).dispatch
  else if d = 90 then s.pool.exts.keys.foldl State.startRelease s
  else s

/-- Whether a domain has drained. -/
def State.domainDrained (s : State) (d : Nat) : Bool :=
  let idle (n : Nat) : Bool := (s.spire n).running.isNone && (s.spire n).assigned.isNone
  if d < 48 then idle d
  else if 56 ≤ d && d < 64 then (List.range 6).all (fun i => idle (6 * (d - 56) + i))
  else if 76 ≤ d && d < 80 then (groupArrays (d - 76)).all (fun a => !s.arrayHeld a)
  else if d = 90 then !s.pool.exts.any (fun (x : Nat × Extent) => x.2.state == 1 || x.2.state == 2)
  else true

/-- What is gone when a domain is OFF: the SRAM of its blocks. -/
def State.domainGone (s : State) (d : Nat) : State :=
  if 56 ≤ d && d < 64 then { s with tabCache := s.tabCache.erase (d - 56) }
  else if 72 ≤ d && d < 76 then (List.range 16).foldl (fun (s : State) b => s.bankOff (16 * (d - 72) + b)) s
  else if 76 ≤ d && d < 80 then s.lanternGroup (d - 76) 0
  else if 84 ≤ d && d < 88 then s.put F.NET_PORT_STATUS_LINK_UP 0 (d - 84)
  else if d = 90 then { s.put F.POOL_STATUS_STATE 0 with pool := { s.pool with refclk := false, down := false } }
  else s

def effPdOff (s : State) (d : Nat) : State :=
  let x := s.pd d
  if d ≥ 92 || !s.pdUp then s
  else if 64 ≤ d && d < 72 then s.pdResult d .accessDenied
  else if x.state = 0 then s.pdResult d .ok
  else if x.state = 1 then s.pdResult d .busyTeardown
  else if x.state != 2 then s.setPd d { x with held := false }
  else if s.offRefused d then s.pdResult d .busyTeardown
  else (s.setPd d { x with state := 3 }).domainDrain d

def execPdOff (e : Env) (domain : Nat) (s : State) : Host.Outcome State Fault Refusal := .next (effPdOff (s.enter e) domain)

/-- PD_DRAIN_DONE: the domain passes through POWERING_OFF to OFF (log entry 29), and a held request to switch it on follows. -/
def effPdDrainDone (s : State) (d : Nat) : State :=
  if d ≥ 92 || (s.pd d).state != 3 || !s.domainDrained d then s
  else
    let held := (s.pd d).held
    let s := ((s.setPd d { s.pd d with state := 0, held := false }).domainGone d).pdResult d .ok
    if held then effPdOn s d false else s

def execPdDrainDone (e : Env) (domain : Nat) (s : State) : Host.Outcome State Fault Refusal :=
  .next (effPdDrainDone (s.enter e) domain)

/-! ### HBM self-refresh (R452) -/

/-- Every present stack's domain put to a state. -/
def State.stacksTo (s : State) (st : Nat) : State :=
  s.presentStacks.foldl (fun (s : State) k => s.setPd (64 + k) { s.pd (64 + k) with state := st }) s

/-- The domains that must be OFF before self-refresh. -/
def srDomains : List Nat := List.range 64 ++ [72, 73, 74, 75, 76, 77, 78, 79, 91]

def effHbmSrEnter (s : State) : State :=
  if !s.pdUp || s.inSr then s
  else if srDomains.any (fun d => (s.pd d).state != 0) then s.put F.CUPOLA_HBM_STATUS_ERR 1
  else ((s.put F.CUPOLA_HBM_CTL_SR 1).put F.CUPOLA_HBM_STATUS_IN_SR 1).stacksTo 0

def execHbmSrEnter (e : Env) (s : State) : Host.Outcome State Fault Refusal := .next (effHbmSrEnter (s.enter e))

def effHbmSrExit (s : State) : State :=
  if !s.inSr || s.cupola.tripped then s
  else ((s.put F.CUPOLA_HBM_CTL_SR 0).put F.CUPOLA_HBM_STATUS_IN_SR 0).stacksTo 2

def execHbmSrExit (e : Env) (s : State) : Host.Outcome State Fault Refusal := .next (effHbmSrExit (s.enter e))

/-! ### The budget (R457) -/

def effCupolaBudgetWrite (s : State) (w : Nat) : State :=
  if !s.pdUp || w < 300 || w > 780 then s
  else if 1000 * w < s.reserveMw + s.cupola.refreshMw then (s.put F.CUPOLA_STATUS_BUDGET_ERR 1).raise gPower 1
  else { s with cupola := { s.cupola with budget := some w } }

def execCupolaBudgetWrite (e : Env) (watts : Nat) (s : State) : Host.Outcome State Fault Refusal :=
  .next (effCupolaBudgetWrite (s.enter e) watts)

/-! ### The epoch (R453) -/

def State.sensorTemp (s : State) (n : Nat) : Nat := s.get F.THERM_SENSOR_TEMP_C n
def State.sensorStage (s : State) (n : Nat) : Nat := s.get F.THERM_SENSOR_STAGE n

/-- Quarters of a cost at the thermal stage of a block: Spires and codec slices by the sensor of their Grove (R460). -/
def State.stageFactor (s : State) (cls unit : Nat) : Nat :=
  match cls with
  | 0 => 4 - s.sensorStage unit
  | 3 => 4 - s.sensorStage (unit / 6)
  | _ => 4

/-- The cost of a grant of a class at stage 0, in mW and mA. -/
def grantCost : Nat → Nat × Nat
  | 0 => (4500, 5000)
  | 1 => (1750, 2500)
  | 2 => (9300, 700)
  | _ => (6000, 4300)

/-- A grant of a class for a unit, at its cost now. -/
def State.grantOf (s : State) (cls unit : Nat) : Grant :=
  let f := s.stageFactor cls unit
  { cls := cls, unit := unit, mw := (grantCost cls).1 * f / 4, ma := (grantCost cls).2 * f / 4 }

/-- The units of a class in round robin, those after the last one granted first. -/
def afterLast (last : Option Nat) (us : List Nat) : List Nat :=
  match last with
  | some k => us.filter (fun u => k < u) ++ us.filter (fun u => u ≤ k)
  | none => us

/-- Grants kept, oldest first, while the power and the current fit; the newest are revoked (log entry 120). -/
def keepHeld (avail cap : Int) : List Grant → List Grant
  | [] => []
  | g :: gs => if (g.mw : Int) ≤ avail && (g.ma : Int) ≤ cap then g :: keepHeld (avail - g.mw) (cap - g.ma) gs else []

/-- New grants in order of request: those that fit, and whether one has to wait. -/
def grantNew (avail cap : Int) : List Grant → List Grant × Bool
  | [] => ([], false)
  | g :: gs =>
    if (g.mw : Int) ≤ avail && (g.ma : Int) ≤ cap then
      let r := grantNew (avail - g.mw) (cap - g.ma) gs
      (g :: r.1, r.2)
    else ((grantNew avail cap gs).1, true)

/-- The partition whose unit runs on a Spire. -/
def State.spirePart (s : State) (n : Nat) : Nat :=
  match (s.spire n).running, (s.spire n).assigned with
  | some u, _ => u.part
  | none, some u => u.part
  | none, none => 128

/-- The partition for which a Lantern group works in an epoch: of those that hold arrays in it the one named, or else the first. -/
def State.lanternWork (s : State) (lantern : List (Nat × Nat)) (g : Nat) : Option Nat :=
  let ps := s.lanternParts g
  match lantern.find? (fun x => x.1 == g && ps.contains x.2) with
  | some x => some x.2
  | none => ps.head?

/-- The requests of the epoch, as class, unit and the partition whose work the block runs. -/
def State.powerRequests (s : State) (codec lantern : List (Nat × Nat)) (canopy : List Nat) : List (Nat × Nat × Nat) :=
  ((codec.filter (fun x => x.1 < 8 && s.pdOn (56 + x.1))).map (fun x => (0, x.1, x.2)))
    ++ (if (List.range 4).any (fun k => s.pdOn (72 + k)) then
        ((canopy.take (ceilDiv (s.get F.CANOPY_RATE_CAP) 100)).mapIdx (fun i p => (1, i, p))) else [])
    ++ ((List.range 4).filterMap (fun g => (s.lanternWork lantern g).map (fun p => (2, g, p))))
    ++ (((List.range 48).filter (fun n => (s.spire n).running.isSome || (s.spire n).assigned.isSome)).map (fun n => (3, n, s.spirePart n)))

/-- The refresh bursts due, in mW: each stack named, doubled above 85 °C (log entry 120). -/
def State.refreshDue (s : State) (due : List Nat) : Nat :=
  ((due.filter (fun k => s.presentStacks.contains k && !s.inSr)).map (fun k => if s.sensorTemp (10 + k) > 85 then 5000 else 2500)).sum

/-- The search rate that the junction temperature admits (R103). -/
def State.canopyThermal (s : State) : Nat :=
  let cap := s.get F.CANOPY_RATE_CAP
  match s.get F.THERM_STATUS_STAGE with | 0 => cap | 1 => cap * 3 / 4 | 2 => cap / 2 | _ => cap / 4

/-- CANOPY_RATE.EFFECTIVE: the lower of that and what Cupola grants, which is nothing while Canopy holds no grant (R103; DESIGN CHOICE:
the spec does not say what it reads then; log entry 37). -/
def State.setCanopyRate (s : State) : State :=
  s.put F.CANOPY_RATE_EFFECTIVE (min s.canopyThermal (100 * s.cupola.grants.countP (fun g => g.cls == 1)))

/-- A Spire without a grant counts as slow (R455, R259; log entry 69). -/
def State.spireStarved (s : State) (n : Nat) : State :=
  let was := (s.spire n).slow
  let s := s.setSpire n { s.spire n with slow := true, slowAt := s.time }
  (if was then s else s.bump F.SAPL_SLOW_EVENTS_COUNT).returnUnit n

/-- The energy of the partitions of an epoch added up, and after 100 ms their means (R463; log entry 122). -/
def State.powerMeans (s : State) (parts : List (Nat × Nat)) : State :=
  let en := parts.foldl (fun (t : Table Nat) x => if x.1 < 128 then t.set x.1 (t.getD x.1 0 + x.2) else t) s.cupola.energy
  if s.cupola.epochs + 1 < 100000 then { s with cupola := { s.cupola with energy := en, epochs := s.cupola.epochs + 1 } }
  else
    let s := (List.range 128).foldl (fun (s : State) p => s.put F.PART_POWER_WATTS (min 4095 (en.getD p 0 / 100000000)) p) s
    { s with cupola := { s.cupola with energy := [], epochs := 0 } }

/-- The budget that waited for this epoch comes into force (log entry 120). -/
def State.takeBudget (s : State) : State :=
  match s.cupola.budget with
  | some w => { s.put F.CUPOLA_BUDGET_WATTS w with cupola := { s.cupola with budget := none } }
  | none => s

/-- What an epoch has for its grants, with `refr` mW of refresh due: power in mW, and the core current in mA that the slew limit
leaves (R453, R456). -/
def State.epochMw (s : State) (refr : Nat) : Int := 1000 * (s.get F.CUPOLA_BUDGET_WATTS : Int) - (s.reserveMw : Nat) - (refr : Nat)
def State.epochMa (s : State) : Int := (s.cupola.coreMa : Int) + 1000 * (s.get F.CUPOLA_SLEW_A_PER_US : Int)

def grantsMw (l : List Grant) : Nat := (l.map (fun (g : Grant) => g.mw)).sum
def grantsMa (l : List Grant) : Nat := (l.map (fun (g : Grant) => g.ma)).sum

/-- The grants held from the last epoch whose blocks still ask, at their cost now. -/
def State.heldGrants (s : State) (reqs : List (Nat × Nat × Nat)) : List Grant :=
  (s.cupola.grants.filter (fun (g : Grant) => reqs.any (fun x => x.1 == g.cls && x.2.1 == g.unit))).map (fun (g : Grant) => s.grantOf g.cls g.unit)

/-- The requests without a kept grant, class after class, in round robin within each. -/
def State.freshGrants (s : State) (reqs : List (Nat × Nat × Nat)) (kept : List Grant) : List Grant :=
  [0, 1, 2, 3].flatMap (fun c =>
    ((afterLast (s.cupola.last.get? c) ((reqs.filter (fun x => x.1 == c)).map (fun x => x.2.1))).filter (fun u =>
      !kept.any (fun g => g.cls == c && g.unit == u))).map (fun u => s.grantOf c u))

/-- The grants kept, those newly made, and whether one was revoked or has to wait. -/
def State.epochGrants (s : State) (refr : Nat) (reqs : List (Nat × Nat × Nat)) : List Grant × List Grant × Bool :=
  let held := s.heldGrants reqs
  let kept := keepHeld (s.epochMw refr) s.epochMa held
  let r := grantNew (s.epochMw refr - (grantsMw kept : Nat)) (s.epochMa - (grantsMa kept : Nat)) (s.freshGrants reqs kept)
  (kept, r.1, r.2 || kept.length < held.length)

/-- The grants of an epoch noted in the arbiter, in its registers and in the partitions' means. -/
def State.noteGrants (s : State) (refr : Nat) (reqs : List (Nat × Nat × Nat)) (kept new : List Grant) (waits : Bool) : State :=
  let all := kept ++ new
  let now := min 1023 ((s.reserveMw + refr + grantsMw all) / 1000)
  let last := new.foldl (fun (t : Table Nat) g => t.set g.cls g.unit) s.cupola.last
  let s := { s with cupola := { s.cupola with grants := all, last := last, coreMa := grantsMa all, refreshMw := refr } }
  let s := if waits then s.bump F.CUPOLA_WAITS_COUNT else s
  let s := (s.put F.CUPOLA_STATUS_GRANTED_W (min 1023 (ceilDiv (refr + grantsMw all) 1000))).put F.CUPOLA_POWER_NOW_W now
  let s := (s.put F.CUPOLA_POWER_PEAK_W (max now (s.get F.CUPOLA_POWER_PEAK_W))).setCanopyRate
  s.powerMeans (all.map (fun (g : Grant) =>
    (match reqs.find? (fun (x : Nat × Nat × Nat) => x.1 == g.cls && x.2.1 == g.unit) with | some x => x.2.2 | none => 128, g.mw)))

/-- The Spires that ask and hold no grant count as slow (log entry 69). -/
def State.starveSpires (s : State) (reqs : List (Nat × Nat × Nat)) : State :=
  let starved : List Nat := (reqs.filter (fun (x : Nat × Nat × Nat) =>
    x.1 == 3 && !s.cupola.grants.any (fun (g : Grant) => g.cls == 3 && g.unit == x.2.1))).map (fun (x : Nat × Nat × Nat) => x.2.1)
  if starved.isEmpty then s else (starved.foldl State.spireStarved s).dispatch

/-- CUPOLA_EPOCH: the refresh due, the codec slices with work and the partition of it, the
partition for which each Lantern group works where several hold arrays in it, and for each 100 million
searches per second that Canopy asks for the partition of those (log entry 29). -/
def effCupolaEpoch (s : State) (refresh : List Nat) (codec lantern : List (Nat × Nat)) (canopy : List Nat) : State :=
  if !s.pdUp then s
  else
    let s := s.takeBudget
    let refr := s.refreshDue refresh
    let reqs := s.powerRequests codec lantern canopy
    let g := s.epochGrants refr reqs
    (s.noteGrants refr reqs g.1 g.2.1 g.2.2).starveSpires reqs

def execCupolaEpoch (e : Env) (refresh : List Nat) (codec lantern : List (Nat × Nat)) (canopy : List Nat) (s : State) :
    Host.Outcome State Fault Refusal := .next (effCupolaEpoch (s.enter e) refresh codec lantern canopy)

/-! ### Temperature (R459 to R461) -/

/-- The threshold of a stage. -/
def stageTemp : Nat → Nat
  | 1 => 98
  | 2 => 101
  | _ => 104

/-- The stage at a temperature, coming from a stage: each is left 2 °C below its threshold (log entry 122). -/
def stageAfter (old temp : Nat) : Nat :=
  (([3, 2, 1] : List Nat).find? (fun n => temp ≥ stageTemp n || (n ≤ old && temp + 2 > stageTemp n))).getD 0

/-- The junction temperature and the device stage (log entry 122). -/
def State.junction (s : State) : State :=
  let tj := ((List.range 10).map s.sensorTemp).foldl max 0
  let st := stageAfter (s.get F.THERM_STATUS_STAGE) tj
  let s := (s.put F.THERM_STATUS_TJ_C tj).put F.THERM_STATUS_STAGE st
  ((s.put F.CUPOLA_STATUS_STAGE st).put F.THERM_STATUS_WARN
    (b2n ((List.range 18).any (fun n => s.sensorTemp n ≥ s.get F.THERM_CFG_WARN_C)))).setCanopyRate

/-- The Spires of a Grove at the stage of its sensor; a Spire above stage 0 is slow, and the 100 µs that end its slow state begin at
stage 0 (R258). -/
def State.groveStage (s : State) (g st : Nat) : State :=
  let s := (List.range 6).foldl (fun (s : State) i => s.put F.SPIRE_STATUS_THERMAL_STAGE st (6 * g + i)) s
  (List.range 6).foldl (fun (s : State) i =>
    let n := 6 * g + i
    if st != 0 then effSpireSlowCheck s n 0
    else if (s.spire n).slow then s.setSpire n { s.spire n with slowAt := s.time }
    else s) s

def effThermalSample (s : State) (n temp : Nat) : State :=
  if n ≥ 10 + s.stacks || !s.boot.aon then s
  else
    let t := min temp 255
    let warn := s.get F.THERM_CFG_WARN_C
    let reached := s.sensorTemp n < warn && t ≥ warn
    let old := s.sensorStage n
    let st := if n < 10 then stageAfter old t else 0
    let s := ((s.put F.THERM_SENSOR_TEMP_C t n).put F.THERM_SENSOR_STAGE st n).put F.THERM_SENSOR_MAX_C (max t (s.get F.THERM_SENSOR_MAX_C n)) n
    let s := if n < 8 && st != old then s.groveStage n st else s
    let s := s.junction
    let s := if reached then s.raise gThermal 0 else s
    if st > old then s.raise gThermal 1 else if st < old then s.raise gThermal 2 else s

def execThermalSample (e : Env) (sensor temp : Nat) (s : State) : Host.Outcome State Fault Refusal :=
  .next (effThermalSample (s.enter e) sensor temp)

/-- THERMAL_TRIP: a sensor has reached 110 °C (log entry 108). -/
def effThermalTrip (s : State) (n : Nat) : State :=
  if n ≥ 10 + s.stacks || !s.boot.aon || s.cupola.tripped then s
  else
    let s := { s with cupola := { s.cupola with tripped := true } }
    let s := if s.on F.RAS_STATUS_FATAL then s else (s.setFatal).endRequests false
    ((s.stopSpires).leaveNow true).raise gFatal 1

def execThermalTrip (e : Env) (sensor : Nat) (s : State) : Host.Outcome State Fault Refusal :=
  .next (effThermalTrip (s.enter e) sensor)

end Sys2Proof.Machine
end

