-- ==== Sys2Proof/Machine/Security.lean ====
section
/-! DEFINITION. Security (R424 to R446): key rotation, TDISP and confidential host mode, SPDM sessions, IDE streams, measurements, and
the provisioning messages of the management interfaces. -/

namespace Sys2Proof.Machine

open Sys2Proof

/-! ### Key rotation (R431) -/

/-- Users of the other key slot of a partition. -/
def State.otherKeyUsers (s : State) (p : Nat) : Nat :=
  if s.on F.PART_KEY_STATUS_OTHER_LOADED p then s.keyUsers p (BitVec.ofNat 8 (s.get F.PART_KEY_STATUS_OTHER_EPOCH p)) else 0

/-- KEY_ROTATE: refused by item 1, else the new key set becomes current and the sweep begins. -/
def effKeyRotate (s : State) (p : Nat) : State :=
  if p ≥ 128 || !s.serves then s
  else if !s.partActive p then s.put F.SEC_KEY_STATUS_ERR 1
  else if s.otherKeyUsers p != 0 then s.put F.SEC_KEY_STATUS_ERR 2
  else if s.flashState = 3 then s.put F.SEC_KEY_STATUS_ERR 3
  else
    let cur := s.keyEpoch p
    let new := cur + 1
    let x := s.parts.getD p {}
    let x : Part := { x with keys := x.keys.filter (fun (k : Nat × Nat) => k.1 == cur.toNat), sweep := true }
    let s := ({ s with parts := s.parts.set p x }).drawKey p new
    let s := (s.put F.PART_KEY_STATUS_OTHER_EPOCH cur.toNat p).put F.PART_KEY_STATUS_OTHER_LOADED 1 p
    (s.put F.PART_KEY_STATUS_CURRENT_EPOCH new.toNat p).writeAnchor p

def execKeyRotate (e : Env) (part : Nat) (s : State) : Host.Outcome State Fault Refusal := .next (effKeyRotate (s.enter e) part)

/-- KEY_RETIRED: the old slot has no user left; its key set is zeroised and the anchor rewritten. -/
def effKeyRetired (s : State) (p : Nat) : State :=
  if !s.on F.PART_KEY_STATUS_OTHER_LOADED p || s.otherKeyUsers p != 0 then s
  else
    let cur := (s.keyEpoch p).toNat
    let x := s.parts.getD p {}
    let x : Part := { x with keys := x.keys.filter (fun (k : Nat × Nat) => k.1 == cur), sweep := false }
    let s := { s with parts := s.parts.set p x }
    ((s.put F.PART_KEY_STATUS_OTHER_LOADED 0 p).writeAnchor p).security 8 p

def execKeyRetired (e : Env) (part : Nat) (s : State) : Host.Outcome State Fault Refusal := .next (effKeyRetired (s.enter e) part)

/-! ### Replies -/

/-- A reply of Keep: which protocol, a status code, and its words. -/
def State.reply (s : State) (kind : Nat) (st : Status) (body : List Nat := []) : State := s.send (.mgmt kind st.code body)

/-- The management port as an SPDM requester. -/
def mgmtPort : Nat := 128

/-! ### Sessions and streams (R432, R433) -/

/-- Whether a function has a DOE: the physical function and every enabled virtual function; or the management port. -/
def State.hasDoe (s : State) (fn : Nat) : Bool := fn == 0 || fn == mgmtPort || s.vfEnabled fn

/-- KEY_EXCHANGE: a secured session of a requester. -/
def effKeyExchange (s : State) (fn : Nat) : State :=
  if !s.boot.keep || !s.hasDoe fn then s.reply 2 .accessDenied
  else ({ s with sec := { s.sec with sessions := fn :: s.sec.sessions.filter (· != fn) } }).reply 2 .ok

def execKeyExchange (e : Env) (fn : Nat) (s : State) : Host.Outcome State Fault Refusal := .next (effKeyExchange (s.enter e) fn)

/-- IDE_KM in a session: `op` 0 programs and starts, 1 refreshes the keys of, and 2 stops the link stream (no number) or one of 64
selective streams. A selective stream that stops takes confidential host mode with it (R434). -/
def effIdeKm (s : State) (fn : Nat) (stream : Option Nat) (op : Nat) : State :=
  if !s.sec.sessions.contains fn || fn = mgmtPort then s.reply 3 .accessDenied
  else match stream, op with
    | none, 0 => ({ s with sec := { s.sec with linkIde := true } }).reply 3 .ok
    | none, 1 => s.reply 3 (if s.sec.linkIde then .ok else .notFound)
    | none, _ => ({ s with sec := { s.sec with linkIde := false } }).reply 3 .ok
    | some k, 0 =>
      if k ≥ 64 || ((s.sec.streams.get? k).isSome && s.sec.streams.get? k != some fn) then s.reply 3 .accessDenied
      else ({ s with sec := { s.sec with streams := s.sec.streams.set k fn } }).reply 3 .ok
    | some k, 1 => s.reply 3 (if s.sec.streams.get? k = some fn then .ok else .notFound)
    | some k, _ =>
      if s.sec.streams.get? k != some fn then s.reply 3 .notFound
      else
        let s := { s with sec := { s.sec with streams := s.sec.streams.erase k } }
        let bound := s.get F.PART_CHM_STATUS_TDI_STATE fn != 0 && (s.chms.getD fn {}).stream = k
        (if bound then s.endChm fn 3 else s).reply 3 .ok

def execIdeKm (e : Env) (fn : Nat) (stream : Option Nat) (op : Nat) (s : State) : Host.Outcome State Fault Refusal :=
  .next (effIdeKm (s.enter e) fn stream op)

/-! ### TDISP and confidential host mode (R433 to R435) -/

def State.tdi (s : State) (p : Nat) : Nat := s.get F.PART_CHM_STATUS_TDI_STATE p

/-- LOCK_INTERFACE_REQUEST (step 4): a tenant partition with CHM_ALLOW, in a session of its function, on a selective stream of it. -/
def effLockInterface (s : State) (p stream : Nat) : State :=
  let ok := p != 0 && p < 128 && s.vfEnabled p && s.on F.PART_SEC_CFG_CHM_ALLOW p && s.sec.sessions.contains p
    && s.sec.streams.get? stream == some p && s.tdi p == 0
  if !ok then s.reply 4 .accessDenied
  else
    let c : Chm := { (s.chms.getD p {}) with stream := stream, locked := true, bound := false }
    (({ s with chms := s.chms.set p c }).put F.PART_CHM_STATUS_TDI_STATE 1 p).reply 4 .ok

def execLockInterfaceRequest (e : Env) (part stream : Nat) (s : State) : Host.Outcome State Fault Refusal :=
  .next (effLockInterface (s.enter e) part stream)

/-- CHM_BIND: a new pair of keys from a start sequence on; one previous pair is kept. The first epoch is 1 (log entry 28). -/
def effChmBind (s : State) (p start : Nat) : State :=
  if !s.sec.sessions.contains p || !(s.tdi p == 1 || s.tdi p == 2) then s.reply 5 .accessDenied
  else
    let c := s.chms.getD p {}
    let c : Chm := { c with bound := true, epoch := c.epoch + 1, start := start % 2 ^ 64, prevEpoch := if c.bound then some c.epoch else none }
    (({ s with chms := s.chms.set p c }).put F.PART_CHM_STATUS_CHM_EPOCH (c.epoch % 256) p).reply 5 .ok [c.epoch % 256]

def execChmBind (e : Env) (part start : Nat) (s : State) : Host.Outcome State Fault Refusal := .next (effChmBind (s.enter e) part start)

/-- START_INTERFACE_REQUEST (step 7). -/
def effStartInterface (s : State) (p : Nat) : State :=
  if s.tdi p != 1 || !(s.chms.getD p {}).bound then s.reply 6 .accessDenied
  else ((s.put F.PART_CHM_STATUS_TDI_STATE 2 p).put F.PART_CHM_STATUS_ACTIVE 1 p).reply 6 .ok

def execStartInterfaceRequest (e : Env) (part : Nat) (s : State) : Host.Outcome State Fault Refusal :=
  .next (effStartInterface (s.enter e) part)

/-- STOP_INTERFACE_REQUEST, and the other ends of confidential host mode (R434): `cause` 0 is the request, which also leaves ERROR;
1 is a transition to ERROR, 2 the loss of the session, 3 the loss of the selective stream, which leave the TDI in ERROR. -/
def effStopInterface (s : State) (p cause : Nat) : State :=
  if s.tdi p = 0 || p ≥ 128 then s
  else match cause with
    | 0 => (s.endChm p 0).reply 7 .ok
    | 2 => ({ s with sec := { s.sec with sessions := s.sec.sessions.filter (· != p) } }).endChm p 3
    | 3 => ({ s with sec := { s.sec with streams := s.sec.streams.erase (s.chms.getD p {}).stream } }).endChm p 3
    | _ => s.endChm p 3

def execStopInterfaceRequest (e : Env) (part cause : Nat) (s : State) : Host.Outcome State Fault Refusal :=
  .next (effStopInterface (s.enter e) part cause)

/-! ### Measurements (R442, R506) -/

/-- The content of a measurement block, by index. -/
def State.measured (s : State) (i : Nat) : Option Bytes :=
  match i with
  | 1 => some (Config.imageContent 1 0)
  | 2 => some (Config.imageContent 2 s.boot.version)
  | 3 => some (Config.imageContent 3 s.boot.version)
  | 4 => some s.sec.sealWords
  | 5 => some (leBytes 1 (s.get F.SEC_STATUS_DEBUG))
  | 6 => some (leBytes 48 (s.sec.root.getD 0) ++ leBytes 1 (b2n s.fleet.isSome) ++ fleetKdf s.fleetSecret labelFleetId [] 8)
  | _ =>
    if 0x10 ≤ i && i < 0x90 then
      let p := i - 0x10
      let x := s.exts.getD p {}
      some (leBytes 8 (s.tenant p) ++ leBytes 4 (s.regWord (0x400098 + p * 0x8000) 2) ++ leBytes 1 (s.tdi p)
        ++ leBytes 1 (s.get F.PART_CHM_STATUS_CHM_EPOCH p) ++ (if x.image = [] then List.replicate 48 0 else sha384 x.image))
    else none

/-- The SHA-384 digest of a measurement. -/
def State.digest (s : State) (i : Nat) : Option Bytes := (s.measured i).map sha384

/-- SPDM GET_MEASUREMENTS of one index, on a function's DOE or the management port. -/
def effSpdmGetMeasurements (s : State) (fn i : Nat) : State :=
  if !s.boot.keep || !s.hasDoe fn then s
  else match s.digest i with
    | some d => s.reply 1 .ok (i :: d.map (fun b => b.toNat))
    | none => s.reply 1 .notFound

def execSpdmGetMeasurements (e : Env) (fn index : Nat) (s : State) : Host.Outcome State Fault Refusal :=
  .next (effSpdmGetMeasurements (s.enter e) fn index)

/-! ### Provisioning (R443, R444) -/

def State.provisioned (s : State) : Bool := s.sec.root.isSome

/-- Whether every partition other than 0 is FREE. -/
def State.allFree (s : State) : Bool := (List.range 127).all (fun p => s.pstate (p + 1) == 0)

/-- A session of the management port whose mutual authentication chains to the operator root. -/
def State.opSession (s : State) (chained : Bool) : Bool := s.boot.keep && s.sec.sessions.contains mgmtPort && chained && s.provisioned

/-- CLAIM, in any mutually authenticated session of an unprovisioned device. -/
def effClaim (s : State) (fn root extKey : Nat) (authentic : Bool) : State :=
  if !s.boot.keep || s.provisioned || !authentic || !s.sec.sessions.contains fn then s.reply 8 .accessDenied
  else ({ s with sec := { s.sec with root := some root, extKey := some extKey } }).reply 8 .ok

def execClaim (e : Env) (fn root extKey : Nat) (authentic : Bool) (s : State) : Host.Outcome State Fault Refusal :=
  .next (effClaim (s.enter e) fn root extKey authentic)

def effSetFleet (s : State) (secret : Nat) (chained : Bool) : State :=
  if !s.opSession chained || !s.allFree || s.get F.RING_STATUS_STATE != 0 then s.reply 9 .accessDenied
  else ({ s with fleet := some secret }).reply 9 .ok

def execSetFleet (e : Env) (secret : Nat) (chained : Bool) (s : State) : Host.Outcome State Fault Refusal :=
  .next (effSetFleet (s.enter e) secret chained)

def effSetExtKey (s : State) (key : Nat) (chained : Bool) : State :=
  if !s.opSession chained then s.reply 10 .accessDenied
  else ({ s with sec := { s.sec with extKey := some key } }).reply 10 .ok

def execSetExtKey (e : Env) (key : Nat) (chained : Bool) (s : State) : Host.Outcome State Fault Refusal :=
  .next (effSetExtKey (s.enter e) key chained)

/-- SET_CAK of sub-port port × 4 + number, while its port is disabled (log entry 112). -/
def effSetCak (s : State) (subPort key : Nat) (chained : Bool) : State :=
  if !s.opSession chained || subPort ≥ 16 || s.on F.NET_PORT_CFG_ENABLE (subPort / 4) then s.reply 11 .accessDenied
  else ({ s with sec := { s.sec with caks := s.sec.caks.set subPort key } }).reply 11 .ok

def execSetCak (e : Env) (subPort key : Nat) (chained : Bool) (s : State) : Host.Outcome State Fault Refusal :=
  .next (effSetCak (s.enter e) subPort key chained)

/-- DEBUG_UNLOCK with a challenge that the operator signed: `facility` 0 is JTAG debug, 1 operator profiling. -/
def effDebugUnlock (s : State) (facility : Nat) (signed : Bool) : State :=
  if !s.opSession signed || facility > 1 then s.reply 12 .accessDenied
  else ((s.setDebug (if facility = 0 then 0 else 3)).security 6 0).reply 12 .ok

def execDebugUnlock (e : Env) (facility : Nat) (signed : Bool) (s : State) : Host.Outcome State Fault Refusal :=
  .next (effDebugUnlock (s.enter e) facility signed)

/-- DECOMMISSION: the device is unprovisioned, and both anchor copies are zeroised (log entry 112). -/
def effDecommission (s : State) (chained : Bool) : State :=
  if !s.opSession chained || !s.allFree then s.reply 13 .accessDenied
  else ({ s with fleet := none, sec := { s.sec with root := none, caks := [], anchor := [] } }).reply 13 .ok

def execDecommission (e : Env) (chained : Bool) (s : State) : Host.Outcome State Fault Refusal :=
  .next (effDecommission (s.enter e) chained)

end Sys2Proof.Machine
end

