-- ==== Sys2Proof/Machine/Boot.lean ====
section
/-! DEFINITION. Power-on and the bring-up sequence (R464 to R471), the configuration seal (R505, R506), and the resets that clear the
device (R472 to R475, R319). -/

namespace Sys2Proof.Machine

open Sys2Proof

/-! ### What survives (R473, R475) -/

/-- The bits of a register that a conventional or device reset keeps: counters and maxima since power-on reset, the stacks' marking
states, RAS_RETIRE_STATUS.SLOTS, SEC_STATUS.DEBUG and GLB_RESET_CAUSE (R475); and FLASH_STATUS.PF, which reports a pin. -/
def keptBits (off : Nat) : Nat :=
  let within (a b : Nat) : Bool := a ≤ off && off ≤ b
  if off = 0x108 || within 0xC00010 0xC00018 || within 0xC00100 0xC0011C
    || (within 0x1000000 0x10005FF && (off % 32 == 8 || off % 32 == 12))
    || within 0x1001000 0x1001008 || within 0x1002104 0x100210C || off = 0x1002114 || within 0x13E0004 0x13E0010
    || within 0x1400020 0x140002C || (within 0x1600000 0x16000FF && off % 64 == 32) || within 0x1600410 0x1600420
    || within 0x1800100 0x180011C || within 0x2000200 0x2000208 || within 0x2401100 0x2401114 || within 0x2801000 0x28017FC
    || within 0x2C00300 0x2C00310 || within 0x3000020 0x300003C || within 0x3000040 0x3000098 || within 0x3000100 0x30002FC
    || within 0x3400040 0x3400048 || off = 0x380000C then 0xFFFFFFFF
  else if off = 0x3000000 then 0xFF00
  else if off = 0x300050C then 0x1FFF0000
  else if off = 0x3000804 || off = 0x3000808 then 0xFF000000
  else if off = 0x3400000 then 0xF8
  else if off = 0x3800010 then 0xFFC00
  else if within 0x3800310 0x3800354 then 0xFF0000
  else if off = F.FLASH_STATUS_PF.base then 2 ^ F.FLASH_STATUS_PF.lo
  else 0

/-- The register file after a conventional or device reset. Registers of which only some bits are kept reset to zero. -/
def keptRegs (regs : Table Word) : Table Word :=
  (regs.filter (fun (x : Nat × Word) => keptBits x.1 != 0)).foldl
    (fun (t : Table Word) x => t.set x.1 (x.2 &&& BitVec.ofNat 32 (keptBits x.1))) resetWords

/-- The flash tier as it goes into a reset: what the registers reported of its spares, its capacity and its read-only state (log
entries 84, 86). -/
def State.flashKept (s : State) : Flash :=
  let f := s.flash
  if s.flashReadable then
    { f with spares := (List.range 32).map (fun c => s.get F.FLASH_SPARE_LEFT c), usable := s.get F.FLASH_USABLE_LEAVES,
             readOnly := s.flashState = 3 }
  else f

/-- Flash after a reset: work that no mount will find is gone (log entry 82). -/
def Flash.stopped (f : Flash) : Flash :=
  { f with groups := [], folding := false, collecting := false, erasing := f.erasing.map (fun (e : Nat × Bool) => (e.1, false)) }

/-- The domains after a reset: OFF, and ABSENT for the two stacks that TM7400-HB6 lacks (R2, R448). -/
def resetPds (hb6 : Bool) : Table Pd := if hb6 then [(70, { state := 5 }), (71, { state := 5 })] else []

/-- Tier 0 memory begins: PHASE 1, with every present stack's domain on (R466, step 1; log entries 77, 124). -/
def State.startMemory (s : State) : State :=
  (s.presentStacks.foldl (fun (s : State) k => s.setPd (64 + k) { state := 2 }) s).put F.GLB_BOOT_STATUS_PHASE 1

/-- What follows a reset: with Keep's firmware running and PERST_N high, the sequence of R466 from step 1; in recovery, PHASE 5
(log entry 124). -/
def State.bringUp (s : State) : State :=
  if s.boot.aon && !s.boot.held && !s.boot.keep then (s.put F.GLB_BOOT_STATUS_PHASE 5).put F.GLB_BOOT_STATUS_FAIL_CODE 1
  else if s.boot.keep && s.boot.perst && s.phase = 0 then s.startMemory
  else s

/-- A table that comes back with the durable store: stored leaves and restored sequences are users of their shape records, code
tables and rule sets (R51, R53, R153, R477; log entry 84). Without formatted media there is no such store. -/
def State.restored {α : Type} (s : State) (t : Table α) : Table α := if s.flash.formatted then t else []

/-- A conventional or device reset (R473 to R475). `cause` is the code of GLB_RESET_CAUSE.LAST (log entry 124). -/
def State.resetDevice (s : State) (cause : Nat) : State :=
  let device := cause = 3 || cause = 4
  let s := if s.flashReadable && !s.on F.FLASH_STATUS_PF then s.flashSafe else s
  let fatal := s.get F.RAS_STATUS_FATAL
  let sec : Sec := { s.sec with
    sessions := if device then s.sec.sessions else s.sec.sessions.filter (· == mgmtPort)
    linkIde := device && s.sec.linkIde, streams := if device then s.sec.streams else [], sealWords := [] }
  let boot : Boot := { s.boot with perst := s.boot.perst && cause != 1, filled := false, bases := [] }
  let ras : Ras := { log := s.ras.log, born := s.ras.born, spires := s.ras.spires, faulted := s.ras.saplings
                     saplings := s.ras.saplings, arrays := s.ras.arrays, lapStart := s.time }
  let ring : Ring := { strapMaster := s.ring.strapMaster, strapStandby := s.ring.strapStandby }
  let straps := s.get F.RING_STATUS_RING_ID
  let t : State := { State.reset with
    time := s.time, hb6 := s.hb6, mem := s.mem, memPoison := s.memPoison, memFail := s.memFail, freeCtr := s.freeCtr
    out := s.out, pending := s.pending, nextCid := s.nextCid, regs := keptRegs s.regs, flash := s.flashKept.stopped
    fleet := s.fleet, sec := sec, boot := boot, ras := ras, ring := ring, retiredSlots := s.retiredSlots
    vfEnable := device && s.vfEnable, numVfs := if device then s.numVfs else 0
    banks := (s.banks.filter (fun (b : Nat × CanopyBank) => b.2.retired)).map (fun (b : Nat × CanopyBank) => (b.1, { retired := true }))
    promoAt := s.time
    spires := s.spires.map (fun (x : Nat × SpireSt) => (x.1, { busyNs := x.2.busyNs }))
    shapes := s.restored s.shapes, rules := s.restored s.rules, scopes := s.restored s.scopes, pds := resetPds s.hb6 }
  let t := t.put F.RING_STATUS_RING_ID straps
  let t := (t.put F.GLB_RESET_CAUSE_LAST cause).put F.GLB_RESET_CAUSE_WAS_FATAL fatal
  let t := t.bump F.GLB_RESET_CAUSE_COUNT
  let t := t.ras.spires.foldl (fun (t : State) n => t.put F.SPIRE_CTL_OFFLINE 1 n) t
  (if t.boot.keep then t.setKeepDown 0 else t).bringUp

/-- Whether a reset other than power-on acts: VDD_AON is present, and the device has not tripped (R461, R472). -/
def State.resettable (s : State) : Bool := s.boot.aon && !s.cupola.tripped

/-- CONVENTIONAL_RESET: 1 PERST_N low, 2 a Hot Reset or Link Disable. -/
def effConventionalReset (s : State) (kind : Nat) : State :=
  if !s.resettable || (kind != 1 && kind != 2) then s else s.resetDevice kind

def execConventionalReset (e : Env) (kind : Nat) (s : State) : Host.Outcome State Fault Refusal :=
  .next (effConventionalReset (s.enter e) kind)

/-- DEVICE_RESET: by GLB_RESET_CTL, or by the operator's request, which needs Keep and its management session (R443, R472). -/
def effDeviceReset (s : State) (operator : Bool) : State :=
  if !s.resettable || (operator && !s.opSession true) then s else s.resetDevice (if operator then 4 else 3)

def execDeviceReset (e : Env) (operator : Bool) (s : State) : Host.Outcome State Fault Refusal :=
  .next (effDeviceReset (s.enter e) operator)

/-! ### Power (R464, R319) -/

/-- What lies outside the device, in fuses and in flash, and outlasts the loss of power. -/
def State.unpowered (s : State) : State :=
  let f := s.flashKept.stopped
  let f : Flash := { f with mediaHours := s.mediaHour, hourStart := 0, tempAt := 0, mountAt := 0 }
  { State.reset with
    hb6 := s.hb6, mem := s.mem, memPoison := s.memPoison, memFail := s.memFail, freeCtr := s.freeCtr
    out := s.out, pending := s.pending, nextCid := s.nextCid, flash := f, fleet := s.fleet
    sec := { draws := s.sec.draws, anchor := s.sec.anchor, root := s.sec.root, extKey := s.sec.extKey, caks := s.sec.caks }
    boot := { area := s.boot.area, nextVersion := s.boot.nextVersion }
    shapes := s.restored s.shapes, rules := s.restored s.rules, scopes := s.restored s.scopes }

def effPowerLoss (s : State) : State := s.unpowered

def execPowerLoss (e : Env) (s : State) : Host.Outcome State Fault Refusal := .next (effPowerLoss (s.enter e))

/-- The dies on each channel and the ID bytes of the die type, from what the LUNs of each channel answer at power-on; the tier is absent,
with no dies, where a channel has more or fewer targets or LUNs than channel 0, where one does not answer, and where the ID of one
differs from that of LUN 0 of channel 0 (R290). At most 32 are taken on a channel (R291). -/
def flashFound (targets : List Nat) (luns : Luns) : Nat × Nat :=
  let n := (luns.headD []).length
  match (luns.headD []).headD none with
  | some id =>
    let alike := targets.length = 32 && targets.all (· == targets.headD 0) && luns.length = 32 && luns.all (fun ch => ch.length == n)
    if alike && luns.all (fun ch => ch.all (· == some id)) then (min n 32, id) else (0, 0)
  | none => (0, 0)

/-- POWER_ON: the boot ROM takes the images of the boot area, or stays in recovery. -/
def effPowerOn (s : State) (hb6 : Bool) (targets : List Nat) (luns : Luns) (images : Bool) : State :=
  if s.boot.aon then s
  else
    let t := s.unpowered
    let perCh := (flashFound targets luns).1
    let ok := images && perCh != 0
    let boot : Boot := { aon := true, area := images, held := ok, nextVersion := t.boot.nextVersion
                         version := if ok then t.boot.nextVersion else 0 }
    ({ t with hb6 := hb6, boot := boot, pds := resetPds hb6, flash := { t.flash with perCh := perCh, dieId := (flashFound targets luns).2 } }).bringUp

def execPowerOn (e : Env) (hb6 : Bool) (targets : List Nat) (luns : Luns) (images : Bool) (s : State) : Host.Outcome State Fault Refusal :=
  .next (effPowerOn (s.enter e) hb6 targets luns images)

/-- PLDM_FIRMWARE_UPDATE: verified images go to Keep memory in recovery, and to the boot area where its blocks answer. -/
def effPldmFirmwareUpdate (s : State) (image : Nat) (verified : Bool) : State :=
  let area := s.boot.area || s.flash.perCh != 0
  if !s.boot.aon || !verified || s.cupola.tripped then s
  else if s.phase = 5 then
    let s := { s with boot := { s.boot with held := true, area := area, version := image, nextVersion := image } }
    (s.put F.GLB_BOOT_STATUS_PHASE 0).put F.GLB_BOOT_STATUS_FAIL_CODE 0
  else if !s.opSession true || s.phase = 6 || s.flash.perCh = 0 then s
  else { s with boot := { s.boot with area := area, nextVersion := image } }

def execPldmFirmwareUpdate (e : Env) (image : Nat) (verified : Bool) (s : State) : Host.Outcome State Fault Refusal :=
  .next (effPldmFirmwareUpdate (s.enter e) image verified)

/-- KEEP_FIRMWARE_RUNNING: after the boot ROM, or after a Keep restart. -/
def effKeepFirmwareRunning (s : State) : State :=
  if !s.boot.aon || !s.boot.held || s.boot.keep || s.cupola.tripped then s
  else (({ s with boot := { s.boot with keep := true } }).setKeepDown 0).bringUp

def execKeepFirmwareRunning (e : Env) (s : State) : Host.Outcome State Fault Refusal := .next (effKeepFirmwareRunning (s.enter e))

/-- PERST_N_RISE: the straps are sampled (R382). -/
def effPerstNRise (s : State) (masterEn standbyEn : Bool) (ringId : Nat) : State :=
  if !s.resettable || s.boot.perst then s
  else
    let s := { s with boot := { s.boot with perst := true }, ring := { s.ring with strapMaster := masterEn, strapStandby := standbyEn } }
    (s.put F.RING_STATUS_RING_ID (ringId % 4)).bringUp

def execPerstNRise (e : Env) (masterEn standbyEn : Bool) (ringId : Nat) (s : State) : Host.Outcome State Fault Refusal :=
  .next (effPerstNRise (s.enter e) masterEn standbyEn ringId)

/-! ### Memory (R466, steps 1 to 3, R415, R471) -/

/-- PHASE 6, HALTED (log entry 108). -/
def State.halt (s : State) (code unit : Nat) : State :=
  ((s.put F.GLB_BOOT_STATUS_PHASE 6).put F.GLB_BOOT_STATUS_FAIL_CODE code).put F.GLB_BOOT_STATUS_FAIL_UNIT (unit % 16)

/-- The flash channels initialised (R290): the dies found, and the state of the tier before a mount (log entry 81). -/
def State.initFlash (s : State) : State :=
  let n := s.flash.perCh
  let s := s.put F.FLASH_STATUS_DIES_PER_CH n
  let s := (List.range 32).foldl (fun (s : State) ch => (List.range n).foldl (fun (s : State) d => s.put F.FLASH_DIE_STATUS_STATE 1 (32 * ch + d)) s) s
  s.put F.FLASH_STATUS_STATE (if n != 0 && !s.flash.formatted then 1 else 0)

/-- MEMORY_FILL_DONE: training or BIST has failed fatally, or memory holds zeros, the parts that failed are marked or retired, and
the clusters and the flash groups are on. -/
def effMemoryFillDone (s : State) (trainFail : Option Nat) (fatal : Bool) (dies units : List (Nat × Nat)) : State :=
  if s.phase != 1 || !s.boot.keep || s.on F.RAS_STATUS_FATAL then s
  else match trainFail with
    | some k => (s.halt 2 k).setFatal
    | none =>
      if fatal then (s.halt 3 0).setFatal
      else
        let s := dies.foldl (fun (s : State) x => if s.presentStacks.contains x.1 && x.2 < 16 then s.markDie x.1 x.2 else s) s
        let s := units.foldl (fun (s : State) x => if 2 ≤ x.1 && x.1 ≤ 5 then s.retireUnit x.1 x.2 0 else s) s
        let s := [48, 49, 50, 51, 52, 53, 54, 55, 80, 81, 82, 83].foldl (fun (s : State) d => s.setPd d { state := 2 }) s
        let s := { s with boot := { s.boot with filled := true } }
        s.initFlash.put F.GLB_BOOT_STATUS_PHASE 2

def execMemoryFillDone (e : Env) (trainFail : Option Nat) (fatal : Bool) (dies units : List (Nat × Nat)) (s : State) :
    Host.Outcome State Fault Refusal :=
  .next (effMemoryFillDone (s.enter e) trainFail fatal dies units)

/-! ### The configuration seal (R503, R505, R506) -/

/-- A tier-0 area: the offset of the LO word of its base register, its base and its size in bytes, rounded up to 2 MiB. -/
structure Area where
  off : Nat
  base : Nat
  size : Nat
  deriving DecidableEq, Repr

/-- The areas of R503 that have a size, in the order of its table. -/
def State.areas (s : State) : List Area :=
  let l := s.get F.TIER_DIR_CFG_LOG2_LEAVES
  let area (lo hi : Fld) (size : Nat) : Area := ⟨lo.base, s.base lo hi, roundUp size (2 ^ 21)⟩
  let all : List Area :=
    [area F.TIER_HBM_BASE_LO_ADDR F.TIER_HBM_BASE_HI_ADDR (s.get F.TIER_HBM_SLOTS_SLOTS * 2 ^ 18),
     area F.TIER_DIR_BASE_LO_ADDR F.TIER_DIR_BASE_HI_ADDR (32 * 2 ^ l),
     area F.TIER_PLACE_BASE_LO_ADDR F.TIER_PLACE_BASE_HI_ADDR (8 * 2 ^ l),
     area F.FLASH_MAP_BASE_LO_ADDR F.FLASH_MAP_BASE_HI_ADDR (16 * 2 ^ l),
     area F.FLASH_META_BASE_LO_ADDR F.FLASH_META_BASE_HI_ADDR (128 * 2 ^ 20),
     area F.GLB_REC_BASE_LO_ADDR F.GLB_REC_BASE_HI_ADDR (s.get F.GLB_REC_CFG_GIB * 2 ^ 30),
     area F.ROOT_BASE_LO_ADDR F.ROOT_BASE_HI_ADDR (128 * 2 ^ s.get F.ROOT_CFG_LOG2_BUCKETS),
     area F.CANOPY_SHADOW_BASE_LO_ADDR F.CANOPY_SHADOW_BASE_HI_ADDR (192 * 2 ^ 20),
     area F.PATTERN_BASE_LO_ADDR F.PATTERN_BASE_HI_ADDR (128 * 2 ^ 20),
     area F.CODEC_TABLE_BASE_LO_ADDR F.CODEC_TABLE_BASE_HI_ADDR (64 * 2 ^ 20),
     area F.LANTERN_SUM_BASE_LO_ADDR F.LANTERN_SUM_BASE_HI_ADDR (64 * s.get F.LANTERN_SUM_CFG_STRIDE * 2 ^ l),
     area F.SCHED_BASE_LO_ADDR F.SCHED_BASE_HI_ADDR (32 * 2 ^ 20),
     area F.NET_TABLE_BASE_LO_ADDR F.NET_TABLE_BASE_HI_ADDR (64 * 2 ^ 20)]
  all.filter (fun a => a.size != 0)

/-- Whether both words of an area's base have been written since the reset (check 6; log entry 123). -/
def State.baseWritten (s : State) (a : Area) : Bool := s.boot.bases.contains a.off && s.boot.bases.contains (a.off + 4)

/-- The first of some areas that overlaps one before it (log entry 123). -/
def firstOverlap (before : List Area) : List Area → Option Area
  | [] => none
  | a :: as =>
    if before.any (fun b => a.base < b.base + b.size && b.base < a.base + a.size) then some a
    else firstOverlap (before ++ [a]) as

/-- HBM data capacity in bytes (R1, R2), and the most slots that TIER_HBM_SLOTS can give. -/
def State.hbmCapacity (s : State) : Nat := (if s.hb6 then 336 else 448) * 2 ^ 30
def State.slotLimit (s : State) : Nat := if s.hb6 then 1376256 else 1835008

/-- The checks of R505 in the order of its table: the code of the first failure with the register at fault. A base that has not
been written takes no part in check 4 (check 6; log entry 123). -/
def State.sealCheck (s : State) : Option (Nat × Option Nat) :=
  let one (v : Nat) : Nat := max 1 v
  let as := s.areas
  let ch := one (s.get F.CUPOLA_NAND_CFG_CH_MA)
  if s.phase != 2 || s.on F.GLB_SEAL_SEALED then some (1, none)
  else if s.get F.TIER_HBM_SLOTS_SLOTS = 0 || s.get F.TIER_HBM_SLOTS_SLOTS > s.slotLimit then some (2, some F.TIER_HBM_SLOTS_SLOTS.base)
  else if s.get F.GLB_REC_CFG_GIB = 0 || s.get F.GLB_REC_CFG_GIB > 64 then some (2, some F.GLB_REC_CFG_GIB.base)
  else match as.find? (fun (a : Area) => a.base + a.size > s.hbmCapacity) with
  | some a => some (3, some (a.off + 4))
  | none => match firstOverlap [] (as.filter s.baseWritten) with
    | some a => some (4, some (a.off + 4))
    | none =>
      if ch < one (s.get F.CUPOLA_NAND_CFG_PROG_MA) || ch < one (s.get F.CUPOLA_NAND_CFG_ERASE_MA) then some (5, some F.CUPOLA_NAND_CFG_CH_MA.base)
      else if one (s.get F.CUPOLA_NAND_TOTAL_MA) < ch then some (5, some F.CUPOLA_NAND_TOTAL_MA.base)
      else (as.find? (fun (a : Area) => !s.baseWritten a)).map (fun a => (6, some (a.off + 4)))

/-- The bits of a register that lie in LK fields. -/
def RegDesc.lkBits (d : RegDesc) : Nat :=
  (d.fields.map (fun (f : Nat × Nat × Access) => if f.2.2 = .lk then 2 ^ (f.1 + 1) - 2 ^ f.2.1 else 0)).sum

/-- Every register array of BAR0, by ascending offset. -/
def regsAll : List RegDesc :=
  regsGlb ++ regsBelfry ++ regsHost ++ regsPart ++ regsCanopy ++ regsPattern ++ regsCodec ++ regsSpire ++ regsLantern ++ regsBeat
    ++ regsTier ++ regsFlash ++ regsPool ++ regsNet ++ regsTraffic ++ regsRing ++ regsRas ++ regsSec ++ regsCupola ++ regsMbx

/-- Every register that holds an LK field: its offset, its reset value and the bits of its LK fields. -/
def lkRegs : List (Nat × Nat × Nat) :=
  (regsAll.filter (fun d => d.lkBits != 0)).flatMap (fun d =>
    (List.range d.n1).map (fun i => (d.base + i * d.s1, d.word0, d.lkBits)))

/-- The words of R506: the offset and the LK fields of every register that has any, in ascending order of offset. -/
def State.sealPairs (s : State) : Bytes :=
  lkRegs.flatMap (fun (x : Nat × Nat × Nat) => leBytes 4 x.1 ++ leBytes 4 (s.regWord x.1 x.2.1 &&& x.2.2))

/-- GLB_SEAL_SET. A refusal by check 1 leaves GLB_SEAL_ERR as it is. -/
def effGlbSealSet (s : State) : State :=
  match s.sealCheck with
  | some (code, at_) =>
    let s := s.put F.GLB_SEAL_ERR code
    match at_ with | some off => s.put F.GLB_SEAL_ERR_OFFSET off | none => s
  | none =>
    let s := { s with sec := { s.sec with sealWords := s.sealPairs } }
    ((s.put F.GLB_SEAL_SEALED 1).put F.GLB_SEAL_ERR 0).put F.GLB_BOOT_STATUS_PHASE 3

def execGlbSealSet (e : Env) (s : State) : Host.Outcome State Fault Refusal := .next (effGlbSealSet (s.enter e))

end Sys2Proof.Machine
end

