-- ==== Sys2Proof/Machine/ExtOps.lean ====
section
/-! DEFINITION. Operator extensions (R261 to R265): loading, enabling and disabling, and the hooks SEAL_NOTE and TIMER. -/

namespace Sys2Proof.Machine

open Sys2Proof

/-! ### The image (R261) -/

def xHooks (b : Bytes) : Nat := sfield b 2 2 0
def xCode (b : Bytes) : Nat := sfield b 4 31 0
def xData (b : Bytes) : Nat := sfield b 8 31 0
def xTimer (b : Bytes) : Nat := sfield b 12 15 0
def xBudget (b : Bytes) : Nat := sfield b 28 31 0
def xSigOff (b : Bytes) : Nat := sfield b 32 31 0

/-- The header of an image of a length: reserved fields zero and every field in range. -/
def extHeaderOk (b : Bytes) (len : Nat) : Bool :=
  let entry (off : Nat) : Bool := sfield b off 31 0 == 0 || sfield b off 31 0 < xCode b
  sfield b 0 15 0 == 1 && sfield b 2 7 3 == 0 && sfield b 3 7 0 == 0 && xCode b ≤ 49152 && xData b ≤ 16384
    && (if bit (xHooks b) 2 then 1 ≤ xTimer b && xTimer b ≤ 10000 else xTimer b == 0) && sfield b 14 15 0 == 0
    && entry 16 && entry 20 && entry 24 && 1000 ≤ xBudget b && xBudget b ≤ 1000000
    && sfield b 36 31 0 == 104 && 64 + xCode b + xData b ≤ xSigOff b && xSigOff b + 104 ≤ len
    && (b.drop 40).take 24 == List.replicate 24 0

/-- EXT_LOAD: ignored unless STATE is 0; an image that cannot be read has no good header (log entry 27). -/
def effExtLoad (s : State) (p : Nat) : State :=
  let x := s.ext p
  if p ≥ 128 || x.state != 0 || !s.serves then s
  else
    let fail (e : Nat) : State := s.setExt p { x with err := e }
    match s.busRead (memKey 0 (x.addr / 64 * 64)) x.len with
    | .ok b =>
      if x.len < 64 || !extHeaderOk b x.len then fail 1
      else match s.sec.extKey with
        | none => fail 2
        | some k =>
          if !Config.sigOk k (b.take (xSigOff b + 104)) then fail 2
          else s.setExt p { x with
            state := 2, err := 0, faults := 0, hooks := xHooks b, timerMs := xTimer b, budget := xBudget b
            image := b.take (xSigOff b + 104), notes := [] }
    | _ => fail 1

def execExtLoad (e : Env) (part : Nat) (s : State) : Host.Outcome State Fault Refusal := .next (effExtLoad (s.enter e) part)

/-- EXT_ENABLE: refused while CHM_ALLOW is set, and without a free extension Sapling. -/
def effExtEnable (s : State) (p : Nat) : State :=
  let x := s.ext p
  if x.state != 2 then s
  else if s.on F.PART_SEC_CFG_CHM_ALLOW p then s.setExt p { x with err := 5 }
  else if s.exts.countP (fun (y : Nat × Ext) => y.2.state == 3) ≥ s.extCores then s.setExt p { x with err := 3 }
  else s.setExt p { x with state := 3, err := 0, lastTimer := s.time }

def execExtEnable (e : Env) (part : Nat) (s : State) : Host.Outcome State Fault Refusal := .next (effExtEnable (s.enter e) part)

/-- EXT_DISABLE: no invocation starts any more. -/
def effExtDisable (s : State) (p : Nat) : State :=
  let x := s.ext p
  if x.state = 0 then s else s.setExt p { x with state := 0, notes := [] }

def execExtDisable (e : Env) (part : Nat) (s : State) : Host.Outcome State Fault Refusal := .next (effExtDisable (s.enter e) part)

/-! ### The hooks (R263): an invocation waits for an extension Sapling on line (R253) -/

/-- SEAL_NOTE: the oldest note of a sealed chunk, with a copy of its chunk record. -/
def effSealNote (s : State) (p : Nat) : State :=
  let x := s.ext p
  if !s.extHook p 1 || !s.serves || s.extCores = 0 then s
  else match x.notes with
    | [] => s
    | (qi, n) :: rest =>
      let s := s.setExt p { x with notes := rest }
      match (s.seq qi).chunks.find? (fun c => c.number == n) with
      | some c => (s.extInvoke p ((chunkRecord c).map (fun b => b.toNat))).2
      | none => s

def execSealNote (e : Env) (part : Nat) (s : State) : Host.Outcome State Fault Refusal := .next (effSealNote (s.enter e) part)

/-- TIMER: every timer_ms. -/
def effTimer (s : State) (p : Nat) : State :=
  let x := s.ext p
  if !s.extHook p 2 || !s.serves || s.extCores = 0 || s.time < x.lastTimer + x.timerMs * 1000000 then s
  else ((s.setExt p { x with lastTimer := x.lastTimer + x.timerMs * 1000000 }).extInvoke p []).2

def execTimer (e : Env) (part : Nat) (s : State) : Host.Outcome State Fault Refusal := .next (effTimer (s.enter e) part)

end Sys2Proof.Machine
end

