-- ==== Sys2Proof/Machine/Mailbox.lean ====
section
/-! DEFINITION. The mailboxes between host software and Keep (R489 to R492), and the second signal of pending (R485). -/

namespace Sys2Proof.Machine

open Sys2Proof

/-- BELFRY_REARM: vector 0 is sent again while the device is pending (R485). -/
def effBelfryRearm (s : State) : State := if s.isPending then s.send (.msix 0 0) else s

def execBelfryRearm (e : Env) (s : State) : Host.Outcome State Fault Refusal := .next (effBelfryRearm (s.enter e))

/-! ### The registers of a mailbox (R489) -/

/-- How many mailboxes there are of a kind. -/
def boxCount (secure : Bool) : Nat := if secure then 4 else 8

def State.box (s : State) (secure : Bool) (n : Nat) : Mailbox := (if secure then s.mbxSec else s.mbxNs).getD n {}

def State.setBox (s : State) (secure : Bool) (n : Nat) (m : Mailbox) : State :=
  if secure then { s with mbxSec := s.mbxSec.set n m } else { s with mbxNs := s.mbxNs.set n m }

def fH2kFull (secure : Bool) : Fld := if secure then F.MBX_SEC_STATUS_H2K_FULL else F.MBX_NS_STATUS_H2K_FULL
def fK2hFull (secure : Bool) : Fld := if secure then F.MBX_SEC_STATUS_K2H_FULL else F.MBX_NS_STATUS_K2H_FULL
def fOverrun (secure : Bool) : Fld := if secure then F.MBX_SEC_STATUS_OVERRUN else F.MBX_NS_STATUS_OVERRUN

/-- Whether the mailbox block answers: from READY on, and not in RECOVERY (R468, R492; log entry 126). -/
def State.boxesUp (s : State) : Bool := s.ready

/-- A cause of the MAILBOX group: K2H full (bit n) or H2K empty; those of secure mailboxes lie in the secure window (R486). -/
def State.boxCause (s : State) (secure : Bool) (n : Nat) (empty : Bool) : State :=
  if secure then
    let w := s.regWord 0x10000100 0
    (s.putWord 0x10000100 (w ||| 2 ^ (n + 4 * b2n empty))).refreshDev
  else s.raise gMailbox (n + 8 * b2n empty)

/-! ### What the host does -/

/-- The message of a mailbox sent: ignored with OVERRUN while H2K is FULL (R490; log entry 126). -/
def State.sendBox (s : State) (secure : Bool) (n v : Nat) : State :=
  if s.on (fH2kFull secure) n then s.put (fOverrun secure) 1 n
  else (s.setBox secure n { s.box secure n with h2k := v }).put (fH2kFull secure) 1 n

/-- A write of H2K: `half` 0 the whole message, 1 the low word, which is staged, 2 the high word, which sends. -/
def effH2kSend (s : State) (n : Nat) (secure : Bool) (half v : Nat) : State :=
  if n ≥ boxCount secure || !s.boxesUp then s
  else match half with
    | 0 => s.sendBox secure n (v % 2 ^ 64)
    | 1 => s.setBox secure n { s.box secure n with staged := v % 2 ^ 32 }
    | _ => s.sendBox secure n ((s.box secure n).staged + v % 2 ^ 32 * 2 ^ 32)

def execH2kSend (e : Env) (box : Nat) (secure : Bool) (half val : Nat) (s : State) : Host.Outcome State Fault Refusal :=
  .next (effH2kSend (s.enter e) box secure half val)

/-- K2H emptied; what it holds then the spec does not say (log entry 4). -/
def State.emptyBox (s : State) (secure : Bool) (n : Nat) : State :=
  let v := s.free.1 % 2 ^ 64
  (s.free.2.setBox secure n { s.box secure n with k2h := v }).put (fK2hFull secure) 0 n

/-- A read of K2H: `half` 0 the whole message, 1 the low word, which latches the high one, 2 the latched word, which empties. -/
def effK2hRead (s : State) (n : Nat) (secure : Bool) (half : Nat) : State :=
  if n ≥ boxCount secure || !s.boxesUp then s
  else
    let off := (if secure then 0x10000008 else 0x3C00008) + 32 * n
    let m := s.box secure n
    match half with
    | 0 => (s.emptyBox secure n).send (.readData 0 off m.k2h)
    | 1 => (s.setBox secure n { m with latched := m.k2h / 2 ^ 32 }).send (.readData 0 off (m.k2h % 2 ^ 32))
    | _ => (s.emptyBox secure n).send (.readData 0 (off + 4) m.latched)

def execK2hRead (e : Env) (box : Nat) (secure : Bool) (half : Nat) (s : State) : Host.Outcome State Fault Refusal :=
  .next (effK2hRead (s.enter e) box secure half)

/-! ### What Keep does (R490, R491) -/

/-- Keep takes a message: H2K is empty, and the request waits for its answer. -/
def effKeepTakeMessage (s : State) (n : Nat) (secure : Bool) : State :=
  if n ≥ boxCount secure || !s.boot.keep || !s.on (fH2kFull secure) n then s
  else
    let m := s.box secure n
    ((s.setBox secure n { m with taken := m.taken ++ [m.h2k] }).put (fH2kFull secure) 0 n).boxCause secure n true

def execKeepTakeMessage (e : Env) (box : Nat) (secure : Bool) (s : State) : Host.Outcome State Fault Refusal :=
  .next (effKeepTakeMessage (s.enter e) box secure)

def msgService (m : Nat) : Nat := m % 256
def msgToken (m : Nat) : Nat := bits m 15 8
def msgStatus (m : Nat) : Nat := bits m 23 16
def msgArg (m : Nat) : Nat := bits m 63 24

/-- The envelope of R491. -/
def mkMsg (service token status arg : Nat) : Nat := service + token * 2 ^ 8 + status * 2 ^ 16 + arg % 2 ^ 40 * 2 ^ 24

/-- The status and the argument of the answer to a request (log entry 126). -/
def State.serve (s : State) (m : Nat) : Status × Nat :=
  if msgStatus m != 0 then (.badDescriptor, 0)
  else match msgService m with
    | 0 => (.ok, msgArg m)
    | 1 => (.ok, Config.keepVersion s.boot.version % 2 ^ 24)
    | 2 =>
      let f := bits (msgArg m) 15 8
      if f > 9 then (.badDescriptor, 0)
      else match s.digest (msgArg m % 256) with
        | some d => (.ok, leNat ((d.drop (5 * f)).take 5))
        | none => (.notFound, 0)
    | _ => (.badDescriptor, 0)

/-- The oldest request of a mailbox answered, where it asks for a service or is one that no service serves; K2H must be empty. -/
def State.answer (s : State) (n : Nat) (secure : Bool) (service : Nat) : State :=
  let m := s.box secure n
  match m.taken with
  | [] => s
  | q :: rest =>
    if n ≥ boxCount secure || !s.boot.keep || s.on (fK2hFull secure) n then s
    else if msgService q != service && msgService q ≤ 2 && msgStatus q = 0 then s
    else
      let (st, arg) := s.serve q
      let k2h := mkMsg (msgService q) (msgToken q) st.code arg
      ((s.setBox secure n { m with taken := rest, k2h := k2h }).put (fK2hFull secure) 1 n).boxCause secure n false

def effEcho (s : State) (n : Nat) (secure : Bool) : State := s.answer n secure 0
def execEcho (e : Env) (box : Nat) (secure : Bool) (s : State) : Host.Outcome State Fault Refusal :=
  .next (effEcho (s.enter e) box secure)

def effVersion (s : State) (n : Nat) (secure : Bool) : State := s.answer n secure 1
def execVersion (e : Env) (box : Nat) (secure : Bool) (s : State) : Host.Outcome State Fault Refusal :=
  .next (effVersion (s.enter e) box secure)

def effMeasure (s : State) (n : Nat) (secure : Bool) : State := s.answer n secure 2
def execMeasure (e : Env) (box : Nat) (secure : Bool) (s : State) : Host.Outcome State Fault Refusal :=
  .next (effMeasure (s.enter e) box secure)

end Sys2Proof.Machine
end

