-- ==== Sys2Proof/Machine/PartRegs.lean ====
section
/-! DEFINITION. What the registers of the partition block read (R43, R119, R135, R199, R250, R288, R344, R446, R493), and what they
read while the partition leaves (R439). -/

namespace Sys2Proof.Machine

open Sys2Proof

/-- The status word of a pair of slots under R51: the current epoch, the other slot's epoch, whether it is loaded, and its users,
which saturate. -/
def slotsWord {α : Type} (t : Slots α) (users : Nat) : Nat :=
  let o := t.other
  t.epoch.toNat + (if o.loaded then o.epoch.toNat * 2 ^ 8 + 2 ^ 16 + min 32767 users * 2 ^ 17 else 0)

/-- PART_RULES_STATUS (R135). -/
def State.rulesWord (s : State) (p : Nat) : Nat :=
  let t := s.ruleSlots p
  slotsWord t (s.ruleUsers p t.other.epoch)

/-- PART_SCHED_STATUS (R250). -/
def State.schedWord (s : State) (p : Nat) : Nat :=
  let x := s.sched p
  let slotEpoch (i : Option SchedImg) : Nat := match i with | some m => m.epoch.toNat | none => 0
  (match x.armed with | some (b, _) => 1 + 2 * b2n b | none => 0) + 4 * b2n x.pend.isSome + 8 * b2n x.a.isSome + 16 * b2n x.b.isSome
    + slotEpoch x.a * 2 ^ 8 + slotEpoch x.b * 2 ^ 16

/-- PART_KEY_STATUS (R446). -/
def State.keyWord (s : State) (p : Nat) : Nat :=
  setBits (s.word (0x4000A4 + p * 0x8000)) 31 17 (min 32767 (s.otherKeyUsers p))

/-- The word that the register at offset `o` of a partition's block reads. -/
def State.partLive (s : State) (p o : Nat) : Nat :=
  let w := s.word (0x400000 + p * 0x8000 + o)
  match o with
  | 0x18 => s.rulesWord p
  | 0x28 => s.schedWord p
  | 0x48 => s.tierUsed p 0
  | 0x58 => s.tierUsed p 1
  | 0x68 => s.tierUsed p 2
  | 0x74 => setBits w 7 1 (min 64 (s.partLeases p).length)
  | 0x98 => if p = 0 then setBits w 1 1 0 else w
  | 0xA4 => s.keyWord p
  | 0xB0 => s.partSummary p
  | _ => w

/-- The registers of a partition's block that are frozen while it leaves: all but its state and its causes, which the transitions
themselves set (log entry 118). -/
def frozenOffsets : List Nat :=
  (regsPart.flatMap (fun d => (List.range d.n2).map (fun j => d.base - 0x400000 + j * d.s2))).filter
    (fun o => o != 0 && o != 0x94 && o < 0xB0)

/-- What the registers of a partition read, kept on entry to DRAINING (log entry 118). -/
def State.freeze (s : State) (p : Nat) : State :=
  { s with parts := s.parts.set p { (s.parts.getD p {}) with
      frozen := frozenOffsets.foldl (fun (t : Table Nat) o => t.set o (s.partLive p o)) [] } }

/-- The word read at an offset of a partition's block. -/
def State.partWord (s : State) (p o : Nat) : Nat :=
  match (s.parts.getD p {}).frozen.get? o with
  | some w => w
  | none => s.partLive p o

end Sys2Proof.Machine
end

