-- ==== Sys2Proof/Machine/PartOps.lean ====
section
/-! DEFINITION. The life of a partition (R476 to R481): creation from a configuration block, enabling, teardown, and the scrub of
R439. -/

namespace Sys2Proof.Machine

open Sys2Proof

/-! ### The configuration block (R478) -/

def cbShadow (b : Bytes) : Nat := sfield b 2 1 0
def cbPadLog2 (b : Bytes) : Nat := sfield b 3 3 0
def cbLeaseMs (b : Bytes) : Nat := fieldAt b 4 2
def cbMaxSpires (b : Bytes) : Nat := sfield b 7 5 0
def cbTenant (b : Bytes) : Nat := fieldAt b 8 8
def cbAge (b : Bytes) : Nat := fieldAt b 28 2
def cbShort (b : Bytes) : Nat := fieldAt b 30 2
def cbHostQ (b : Bytes) : Nat := sfield b 32 5 0
def cbRingQ (b : Bytes) : Nat := sfield b 33 5 0
def cbResv (b : Bytes) (t : Nat) : Nat := sfield b (48 + 8 * t) 29 0
def cbLimit (b : Bytes) (t : Nat) : Nat := sfield b (52 + 8 * t) 29 0

/-- The fields of a configuration block that are reserved, as offset, high and low bit. -/
def cbReserved : List (Nat × Nat × Nat) :=
  [(2, 7, 6), (3, 7, 4), (7, 7, 6), (16, 31, 29), (23, 7, 4), (24, 31, 21), (32, 7, 6), (33, 7, 6), (48, 31, 30), (52, 31, 30),
   (56, 31, 30), (60, 31, 30), (64, 31, 30), (68, 31, 30)]

/-- Item 3 of R477: reserved fields, the ranges of the registers, and every limit at least its reservation. -/
def configOk (b : Bytes) : Bool :=
  fieldAt b 0 2 == 1 && cbReserved.all (fun f => sfield b f.1 f.2.1 f.2.2 == 0) && fieldAt b 34 14 == 0 && fieldAt b 72 56 == 0
    && cbShadow b ≤ 2 && cbPadLog2 b ≤ 10 && 100 ≤ cbLeaseMs b && cbLeaseMs b ≤ 60000 && cbMaxSpires b ≤ 48 && 1 ≤ cbAge b
    && 1 ≤ cbShort b && 1 ≤ cbRingQ b && (List.range 3).all (fun t => cbResv b t ≤ cbLimit b t)

/-- Item 4 of R477: the reservations of a block in place of those of partition `p` stay within the capacities of R276. -/
def State.configFits (s : State) (p : Nat) (b : Bytes) : Bool :=
  (List.range 3).all (fun t => s.resvSum t - s.get F.PART_TIER_RESV_SLOTS p t + cbResv b t ≤ s.tierCap t)

/-- The registers of a partition's block at their Reset values, but for its state, its key status and its TDI. -/
def State.resetPartRegs (s : State) (p : Nat) : State :=
  let o := 0x400000 + p * 0x8000
  { s with
    regs := s.regs.filter (fun x => !(o ≤ x.1 && x.1 < o + 0x8000) || x.1 == o || x.1 == o + 0xA4 || x.1 == o + 0xA8)
    meters := s.meters.erase p
    partQs := s.partQs.erase p }

/-- Every register that R478 names written from a block. -/
def State.writeConfig (s : State) (p : Nat) (b : Bytes) : State :=
  let s := s.resetPartRegs p
  let s := (((s.put F.PART_TIER_CFG_SHADOW (cbShadow b) p).put F.PART_SEC_CFG_COARSEN (sfield b 2 2 2) p).put
    F.PART_SEC_CFG_LOOKUP_PAD (sfield b 2 3 3) p).put F.PART_SEC_CFG_CHM_ALLOW
    (if (s.ext p).state = 3 then 0 else sfield b 2 4 4) p
  let s := ((s.put F.PART_LANTERN_CFG_EXACT (sfield b 2 5 5) p).put F.PART_SEC_CFG_PAD_LOG2 (cbPadLog2 b) p).put
    F.PART_LEASE_CFG_LEASE_MS (cbLeaseMs b) p
  let s := (s.put F.PART_SPIRE_WEIGHT_WEIGHT (fieldAt b 6 1) p).put F.PART_SPIRE_SHARE_MAX_SPIRES (cbMaxSpires b) p
  let s := (s.put F.PART_SEC_TENANT_LO_ID (cbTenant b % 2 ^ 32) p).put F.PART_SEC_TENANT_HI_ID (cbTenant b / 2 ^ 32) p
  let s := ((s.put F.PART_INDEX_QUOTA_MAX_ENTRIES (sfield b 16 28 0) p).put F.PART_NET_CFG_MAX_QP (fieldAt b 20 2) p).put
    F.PART_POOL_BW_GBPS (fieldAt b 22 1) p
  let s := ((s.put F.PART_BEAT_CFG_DOMAIN (sfield b 23 1 0) p).put F.PART_BEAT_CFG_BOUND (sfield b 23 2 2) p).put
    F.PART_BEAT_CFG_MARK_EN (sfield b 23 3 3) p
  let s := ((s.put F.PART_NET_MR_MAX_MR (sfield b 24 20 0) p).put F.PART_TIER_AGE_AGE_S (cbAge b) p).put F.PART_TIER_AGE_SHORT_S (cbShort b) p
  let s := (s.put F.PART_TRAFFIC_Q_HOST_Q (cbHostQ b) p).put F.PART_TRAFFIC_Q_RING_Q (cbRingQ b) p
  (List.range 3).foldl (fun (s : State) t =>
    (s.put F.PART_TIER_RESV_SLOTS (cbResv b t) p t).put F.PART_TIER_LIMIT_SLOTS (cbLimit b t) p t) s

/-- What the device keeps for a partition, changed. -/
def State.setPart (s : State) (p : Nat) (f : Part → Part) : State := { s with parts := s.parts.set p (f (s.parts.getD p {})) }

/-- The block kept, the registers written and CONFIGURED set. -/
def State.configure (s : State) (p : Nat) (b : Bytes) : State :=
  ((s.setPart p (fun x => { x with block := some b })).writeConfig p b).put F.PART_STATE_CONFIGURED 1 p

/-! ### The scrub (R439) -/

/-- Rule sets, code tables, shapes, schedules and scan states of a partition gone: null tables at epoch 0. -/
def State.clearTables (s : State) (p : Nat) : State :=
  let s := s.dropEntries (fun x => x.kind == .rule && x.value % 128 == p)
  { s with
    rules := s.rules.erase p
    scheds := s.scheds.erase p
    shapes := s.shapes.filter (fun (x : Nat × Slots Bytes) => x.1 / 16 != p)
    scopes := s.scopes.filter (fun (x : Nat × CodecScope) => x.1 / 256 != p)
    tabCache := s.tabCache.map (fun (x : Nat × List Nat) => (x.1, x.2.filter (fun k => k / 65536 != p)))
    badRecs := s.badRecs.filter (fun (b : Nat × Nat) => !((b.1 == 0 && b.2 / 256 == p) || (b.1 == 2 && b.2 / 4096 == p)
      || (b.1 == 3 && b.2 / 2 == p) || (b.1 == 4 && b.2 / 65536 == p) || (b.1 == 1 && (s.seq b.2).partition == p)
      || (b.1 == 5 && (s.leaf b.2).partition == p))) }

/-- A sequence of a partition erased: its index entries, its chunk records with their references, and its record, which is journaled
where it was (R300). -/
def State.eraseSeq (s : State) (qi : Nat) : State :=
  let q := s.seq qi
  let s := if s.seqJournaled q then (s.openGroup { recs := [.seq qi { generation := q.generation }] }).2 else s
  let s := s.dropIndex qi
  let s := q.chunks.foldl State.releaseChunk s
  s.setSeq qi { generation := q.generation, withheld := q.withheld }

/-- A leaf of a partition erased: it holds no copy; an index that chunk records of other partitions name stays EVICTING (R26). -/
def State.eraseLeaf (s : State) (i : Nat) : State :=
  let s := match (s.leaf i).state with
    | .filling => s.poisonLeaf i
    | _ => s.evict i
  let l := s.leaf i
  if l.state = .free then s.setLeaf i { l with place := {} }
  else (s.setLeaf i { l.dropShadow with state := .evicting, place := {}, summary := none, staged := [], pinCount := 0 }).settle i

/-- A partition enters SCRUBBING: its keys and the key record go first, then all that it stored. -/
def State.beginScrub (s : State) (p : Nat) : State :=
  let s := s.setPState p 3
  let s := if s.tdi p = 0 then s else s.endChm p 0
  let s := (s.setPart p (fun x => { x with keys := [], sweep := false })).clearAnchor p
  let s := s.clearTables p
  let seqs := (s.seqs.filter (fun (x : Nat × Sequ) => x.2.partition = p && x.2.state != .free)).map (·.1)
  let s := seqs.foldl State.eraseSeq s
  let leaves := (s.leaves.filter (fun (x : Nat × Leaf) => x.2.partition = p && x.2.state != .free)).map (·.1)
  let s := leaves.foldl State.eraseLeaf s
  let s := { s with
    promos := s.promos.filter (fun i => !leaves.contains i)
    ctxs := s.ctxs.filter (fun (x : Nat × Ctx) => x.2.part != p) }
  (s.reapBands).resetRings p

/-- Whether the scrub of a partition is done: no copy of it is held any more, and every release of a durable copy is committed. -/
def State.scrubbed (s : State) (p : Nat) : Bool :=
  !s.leaves.any (fun (x : Nat × Leaf) => x.2.partition == p && x.2.state != .free && x.2.copies != [])
    && !s.flash.groups.any (fun (g : Nat × Group) => g.2.recs.any (fun r => match r with
      | .leaf _ none => true
      | .seq _ q => q.state == .free
      | _ => false))

/-! ### PARTITION_ENABLE (R479) -/

/-- Items 4 and 5: the partition becomes ACTIVE, and a restored store becomes visible. -/
def State.enableNow (s : State) (rid p : Nat) : State :=
  if !s.on F.PART_STATE_CONFIGURED p then s.complete rid .notFound
  else
    let s := (s.setPart p (fun x => { x with restored := false })).put F.PART_STATE_RESTORED 0 p
    (s.setPState p 1).complete rid .ok

def effPartitionEnable (s : State) (rid : Nat) : State :=
  match s.startedReq? rid [0x7E] with
  | none => s
  | some r =>
    let p := r.partArg
    if p = 0 then s.complete rid .accessDenied
    else if s.pstate p = 0 then s.enableNow rid p
    else if !r.fWaitFree || (s.parts.getD p {}).enableHeld.isSome then s.complete rid .busyTeardown
    else ((s.setPart p (fun x => { x with enableHeld := some rid })).put F.PART_STATE_ENABLE_HELD 1 p).wait rid (.waitFree p)

def execPartitionEnable (e : Env) (rid : Nat) (s : State) : Host.Outcome State Fault Refusal :=
  .next (effPartitionEnable (s.enter e) rid)

/-- A partition that has become FREE goes on with the PARTITION_ENABLE that it holds (item 3). -/
def State.resumeEnable (s : State) (p : Nat) : State :=
  match (s.parts.getD p {}).enableHeld with
  | none => s
  | some rid => ((s.setPart p (fun x => { x with enableHeld := none })).put F.PART_STATE_ENABLE_HELD 0 p).enableNow rid p

/-! ### PARTITION_CREATE (R477) -/

/-- The configuration taken into effect on a partition without a restored store. -/
def State.createFresh (s : State) (p : Nat) (b : Bytes) : State := ((s.clearTables p).configure p b).freshKeys p

/-- Items 3 to 5, once the block is read. A restored store of the same tenant is kept; of another it is scrubbed first, and the
descriptor completes with the scrub. -/
def State.createFrom (s : State) (rid p : Nat) (b : Bytes) : State :=
  let x := s.parts.getD p {}
  let same := match s.sec.anchor.get? p with | some k => k.tenant == cbTenant b | none => false
  if !configOk b then s.complete rid .badFormat
  else if !s.configFits p b then s.complete rid .quotaExceeded
  else if !x.restored then ((s.createFresh p b).raisePState p).complete rid .ok
  else if same then ((s.configure p b).raisePState p).complete rid .ok
  else ((s.beginScrub p).setPart p (fun x => { x with scrubFor := some rid, block := some b })).wait rid (.createScrub p)

def effPartitionCreate (s : State) (rid : Nat) : State :=
  match s.startedReq? rid [0x7C] with
  | none => s
  | some r =>
    let p := r.partArg
    if p = 0 then s.complete rid .accessDenied
    else if s.pstate p != 0 then s.complete rid .busyTeardown
    else match s.busRead (memKey r.srcSpace r.addr24) 128 with
      | .failed => s.failRead rid .linkFailed
      | .poisoned => s.failRead rid .poisoned
      | .ok b => s.createFrom rid p b

def execPartitionCreate (e : Env) (rid : Nat) (s : State) : Host.Outcome State Fault Refusal :=
  .next (effPartitionCreate (s.enter e) rid)

/-! ### PARTITION_TEARDOWN (R480) -/

/-- Requests of a partition that have not started end at once, in the order in which they were admitted. -/
def State.abortFetched (s : State) (p : Nat) : State :=
  s.reqs.foldl (fun (s : State) (x : Nat × Req) =>
    if x.2.part = p && x.2.phase = .fetched then s.complete x.1 x.2.abortTeardown else s) s

/-- The schedule slots of a partition stop, and a pending arm or disarm ends (R249). -/
def State.stopSchedules (s : State) (p : Nat) : State :=
  let x := s.sched p
  let s := s.setSched p { x with armed := none, pend := none }
  match x.pend with
  | some q => s.complete q.rid .abortedTeardown
  | none => s

/-- Background work on the leaves of a partition stops: a migration ends, its destination freed (R33, R49). -/
def State.stopBackground (s : State) (p : Nat) : State :=
  let moving := (s.leaves.filter (fun (x : Nat × Leaf) => x.2.partition = p && x.2.state = .migrating)).map (·.1)
  let s := moving.foldl State.evict s
  { s with
    scopes := s.scopes.map (fun (x : Nat × CodecScope) => if x.1 / 256 = p then (x.1, { x.2 with sweeping := false }) else x)
    promos := s.promos.filter (fun i => (s.leaf i).partition != p) }

/-- Everything that a partition entering DRAINING begins at once. -/
def State.beginDrain (s : State) (p : Nat) : State :=
  let s := (s.freeze p).setPState p 2
  let s := (List.range 8).foldl (fun (s : State) i => s.put F.HP_SQ_CFG_ENABLE 0 (8 * p + i)) s
  let s := (s.netTeardown p).abortFetched p
  let s := (effExtDisable (s.stopSchedules p) p).stopBackground p
  let s := { s with ctxs := s.ctxs.filter (fun (x : Nat × Ctx) => x.2.part != p) }
  s.ringPurge p

def effPartitionTeardown (s : State) (rid : Nat) : State :=
  match s.startedReq? rid [0x7D] with
  | none => s
  | some r =>
    let p := r.partArg
    if p = 0 then s.complete rid .accessDenied
    else if s.pstate p != 1 then s.complete rid .busyTeardown
    else ((s.setPart p (fun x => { x with scrubFor := some rid })).wait rid (.teardown p)).beginDrain p

def execPartitionTeardown (e : Env) (rid : Nat) (s : State) : Host.Outcome State Fault Refusal :=
  .next (effPartitionTeardown (s.enter e) rid)

/-- PARTITION_DRAIN_DONE: started requests and instances have completed, pairs and regions have drained, every purge is
acknowledged. Leases go after the last stage under them (R333). -/
def effPartitionDrainDone (s : State) (p : Nat) : State :=
  if s.pstate p != 2 then s
  else
    let (net, s) := s.netDrained p
    if !net || s.purgeOpen p || s.reqs.any (fun (x : Nat × Req) => x.2.part == p) || s.insts.any (fun (x : Nat × Inst) => x.2.part == p) then s
    else (s.dropLeases p).beginScrub p

def execPartitionDrainDone (e : Env) (part : Nat) (s : State) : Host.Outcome State Fault Refusal :=
  .next (effPartitionDrainDone (s.enter e) part)

/-- SCRUB_COMPLETE: the partition is FREE with its kept configuration and a fresh key set, and what waited for it goes on. A
creation checks its reservations again, since others may have taken the capacity meanwhile (log entry 117). -/
def effScrubComplete (s : State) (p : Nat) : State :=
  if s.pstate p != 3 || !s.scrubbed p then s
  else
    let x := s.parts.getD p {}
    let creating := match x.scrubFor.bind s.req? with | some r => r.wait == .createScrub p | none => false
    let s := (s.setPart p (fun (y : Part) => { y with restored := false, scrubFor := none, frozen := [] })).put F.PART_STATE_RESTORED 0 p
    let fits := !creating || (match x.block with | some b => s.configFits p b | none => true)
    let s := match x.block, fits with
      | some b, true => s.configure p b
      | _, _ => (((s.setPart p (fun (y : Part) => { y with block := none })).resetPartRegs p).put F.PART_STATE_CONFIGURED 0 p)
    let s := ({ s with classHints := s.classHints.filter (fun (x : Nat × (Nat × Bool)) => x.1 / 256 != p) }.freshKeys p).setPState p 0
    let s := match x.scrubFor with
      | some rid => s.complete rid (if fits then .ok else .quotaExceeded)
      | none => s
    s.resumeEnable p

def execScrubComplete (e : Env) (part : Nat) (s : State) : Host.Outcome State Fault Refusal :=
  .next (effScrubComplete (s.enter e) part)

end Sys2Proof.Machine
end

