-- ==== Sys2Proof/Machine/RegRead.lean ====
section
/-! DEFINITION. What a read of a register returns (R495, R496, R498): the words held in the register file, and those that the blocks
work out from their state. -/

namespace Sys2Proof.Machine

open Sys2Proof

/-- A count in `w` bits, saturating. -/
def satW (w n : Nat) : Nat := min n (2 ^ w - 1)

/-! ### Words that blocks work out -/

/-- GLB_REV (R2, R507). -/
def State.revWord (s : State) : Nat := if s.hb6 then 0x3F16B1 else 0xFF08B1

/-- GLB_FW_VERSION: zero until Keep's firmware runs. -/
def State.versionWord (s : State) : Nat :=
  if s.boot.keep || (1 ≤ s.phase && s.phase ≤ 4) then Config.keepVersion s.boot.version % 2 ^ 24 else 0

/-- BELFRY_CTL with PENDING. -/
def State.ctlWord (s : State) : Nat := setBits (s.word 0x100008) 2 2 (b2n s.isPending)

/-- CODEC_SCOPE_STATUS of the selected scope (R171). -/
def State.scopeWord (s : State) : Nat :=
  let w := s.word F.CODEC_SCOPE_SEL_PARTITION.base
  let k := scopeKey (bits w 6 0) (bits w 11 8) (bits w 15 12)
  let t := (s.scope k).slots
  slotsWord t (s.codecUsers k t.other.epoch)

/-- The leaves that a unit reads. -/
def State.unitLeaves (s : State) (u : Option WUnit) : Nat :=
  match u with
  | some u => (match s.jobs.get? u.job with | some j => (j.unitViews u.idx).countP View.isRead | none => 0)
  | none => 0

/-- SPIRE_STATUS_n: how many of the 8 entries for decoded leaves are filled is free within what its units have left to read (R165;
log entry 127). -/
def State.spireWord (s : State) (n : Nat) : Nat × State :=
  let x := s.spire n
  let st := match (s.pd n).state with | 2 => (if x.running.isSome then 2 else 1) | 3 => 3 | _ => 0
  let w := setBits (s.word (0x1000004 + 32 * n)) 1 0 st
  if x.running.isSome then
    let (v, s) := s.free
    (setBits w 7 4 (v % (min 8 (s.unitLeaves x.running + s.unitLeaves x.assigned) + 1)), s)
  else (w, s)

/-- SPIRE_BUSY_n in µs, the unit that runs included. -/
def State.busyWord (s : State) (n : Nat) : Nat :=
  let x := s.spire n
  satW 32 ((x.busyNs + (if x.running.isSome then s.time - x.started else 0)) / 1000)

/-- SAPL_CLUSTER_STATUS_g (R265). -/
def State.clusterWord (s : State) (g : Nat) : Nat :=
  let bad := s.ras.faulted.countP (fun c => c / 32 == g)
  let on := s.pdOn (48 + g)
  (if on then 32 - bad else 0) + bad * 2 ^ 8 + b2n on * 2 ^ 16 + b2n ((s.pd (48 + g)).state == 3) * 2 ^ 17

/-- The registers of the selected extension (R265): STATUS at offset 0x14 of the window. -/
def State.extWord (s : State) (off : Nat) : Nat :=
  let x := s.ext (s.get F.SAPL_EXT_SEL_PARTITION)
  match off with
  | 0x1002204 => x.addr % 2 ^ 32
  | 0x1002208 => x.addr / 2 ^ 32
  | 0x100220C => x.len
  | 0x1002214 => x.state + x.err * 4 + satW 8 x.faults * 2 ^ 8
  | 0x1002218 => x.scratch % 2 ^ 32
  | 0x100221C => x.scratch / 2 ^ 32
  | 0x1002220 => x.scratchLen
  | _ => 0

/-- LANTERN_GROUP_STATUS_g, LANTERN_ARRAY_STATUS_n, LANTERN_ARRAY_CAL_n and LANTERN_TRIM (R216). -/
def State.groupWord (s : State) (g : Nat) : Nat :=
  setBits (setBits (s.word (0x1400100 + 4 * g)) 4 0 (s.usableArrays g).length) 16 16 (b2n (s.pdOn (76 + g)))
def State.arrayWord (s : State) (a : Nat) : Nat :=
  let x := s.larray a
  (if s.pdOn (76 + a / 16) then x.state else 0) + b2n (s.arrayHeld a) * 4 + min 4095 x.band * 2 ^ 8
def State.calWord (s : State) (a : Nat) : Nat :=
  let x := s.larray a
  (match x.lastOk with | some t => satW 24 ((s.time - t) / 1000) | none => 0xFFFFFF) + x.temp % 256 * 2 ^ 24
def State.trimWord (s : State) (a c : Nat) : Nat :=
  let t := (s.larray a).trims.getD c (0x4000, 0)
  t.1 % 2 ^ 16 + t.2 % 2 ^ 16 * 2 ^ 16

/-- The read-only registers of a beat domain (R250), by offset in its set. -/
def State.beatWord (s : State) (n o : Nat) : Nat :=
  let b := s.beat n
  match o with
  | 0x04 => b.state + 4 * b2n (b.state != 0 && b.layer + 1 == s.layersOf n)
  | 0x08 => if b.state = 0 then 0 else s.beatPos n % 2 ^ 32
  | 0x0C => if b.state = 0 then 0 else s.beatPos n / 2 ^ 32
  | 0x10 => satW 32 b.period
  | 0x14 => satW 32 b.gapUsed
  | 0x18 => b.last % 2 ^ 32
  | _ => b.last / 2 ^ 32 % 2 ^ 32

/-- TIER_CLASS_HINTS of the selected entry; class 0 has none. -/
def State.classWord (s : State) : Nat :=
  let w := s.word F.TIER_CLASS_SEL_PARTITION.base
  let k := bits w 6 0 * 256 + bits w 15 8
  if bits w 15 8 = 0 then 0 else match s.classHints.get? k with | some x => x.1 + 256 * b2n x.2 | none => 0

/-- The flash counters from FLASH_CORRECTED to FLASH_PF_EVENTS (R321), by number (log entry 82). -/
def State.flashCount (s : State) (k : Nat) : Nat :=
  let h := s.flash.health
  satW 32 ([h.corrected, h.retried, h.rebuilt, h.uncorrectable, h.slowReads, h.progFail, h.eraseFail, h.powerFails].getD k 0)

/-- FLASH_DIE_STATUS_n with its wear. -/
def State.dieWord (s : State) (n : Nat) : Nat :=
  setBits (s.word (0x1C01000 + 4 * n)) 23 16 (if s.dieState n = 0 || s.flashState < 2 then 0 else satW 8 (s.dieWear n))

/-- POOL_STATUS, and the registers of the selected extent (R344). -/
def State.poolWord (s : State) : Nat :=
  setBits (s.word 0x2000004) 16 8 (s.pool.exts.countP (fun (x : Nat × Extent) => x.2.state != 0))
def State.extentWord (s : State) (off : Nat) : Nat :=
  let x := (s.extent? (s.get F.POOL_EXT_SEL_INDEX)).getD {}
  match off with
  | 0x2000014 => x.base
  | 0x2000018 => x.len
  | 0x200001C => x.target % 64 + x.kind % 4 * 2 ^ 6 + (x.owner.getD 0) % 128 * 2 ^ 8 + x.home % 16 * 2 ^ 16 + b2n x.homeLocal * 2 ^ 20
      + b2n x.dynamic * 2 ^ 21
  | _ => x.state + 4 * b2n x.blocked + satW 24 (if x.state = 0 then 0 else (s.extPrimaries x).length) * 2 ^ 8

/-- NET_SUB_MAC_LO to NET_SUB_IPV6_3 of the selected sub-port (R365). -/
def State.subSel (s : State) : Nat := s.get F.NET_SUB_SEL_PORT * 4 + s.get F.NET_SUB_SEL_SUB
def State.subWord (s : State) (off : Nat) : Nat :=
  let x := s.subPorts.getD s.subSel {}
  match off with
  | 0x2400804 => x.mac % 2 ^ 32
  | 0x2400808 => x.mac / 2 ^ 32 % 2 ^ 16
  | 0x240080C => x.ipv4 % 2 ^ 32
  | _ => x.ipv6 / 2 ^ (8 * (off - 0x2400810)) % 2 ^ 32

/-- NET_QP_STATUS of the selected queue pair. -/
def State.qpWord (s : State) : Nat :=
  let q := s.qp (s.get F.NET_QP_SEL_QP)
  (match q.state with | .reset => 0 | .rts => 1 | .error => 2 | .draining => 3) + 4 * b2n q.cmdErr + q.admitted % 2 ^ 11 * 2 ^ 8

/-- TRAFFIC_Q_RATE to TRAFFIC_Q_DELAY of the selected queue (R377); a held write reads as written (R6). -/
def State.trafficWord (s : State) (off : Nat) : Nat :=
  let k := s.get F.TRAFFIC_SEL_QUEUE
  let q := s.txq (s.get F.TRAFFIC_SEL_PORT) k
  match off with
  | 0x2800004 => q.newRate.getD q.rate
  | 0x2800008 => q.newBurst.getD q.burst
  | 0x280000C => if k < 4 then 0 else q.newQuantum.getD q.quantum
  | 0x2800010 => (q.credit % 2 ^ 32).toNat
  | 0x2800014 => satW 16 q.depthLast + satW 16 q.depthMax * 2 ^ 16
  | _ => satW 16 q.delayLast + satW 16 q.delayMax * 2 ^ 16

/-- RING_MEMBER_n with the hops of the route in use. -/
def State.memberWord (s : State) (n : Nat) : Nat :=
  let hops := if !s.joined || n = s.myPos || !s.posPresent n then 0
    else if s.ringPort n = 16 then s.eastHops s.myPos n else s.eastHops n s.myPos
  setBits (s.word (0x2C00100 + 8 * n)) 7 4 (satW 4 hops)

/-- RAS_LOG_W0 to RAS_LOG_TIME of the selected entry (R423). -/
def State.logWord (s : State) (off : Nat) : Nat :=
  match s.ras.log.get? (s.get F.RAS_LOG_SEL_INDEX) with
  | none => 0
  | some x => match off with
    | 0x3000404 => satW 8 x.repeats + satW 8 x.symbols * 2 ^ 8 + x.sub % 64 * 2 ^ 16 + x.unit % 16 * 2 ^ 22 + x.source % 16 * 2 ^ 26
        + b2n x.ue * 2 ^ 30 + 2 ^ 31
    | 0x3000408 => x.addr % 2 ^ 32
    | 0x300040C => x.addr / 2 ^ 32 % 2 ^ 32
    | _ => x.time / 2 ^ 20 % 2 ^ 32

/-- SEC_STATUS (R446). -/
def State.secWord (s : State) : Nat :=
  setBits (s.word 0x3400000) 2 0 (b2n s.provisioned + 2 * b2n s.fleet.isSome + 4 * s.get F.GLB_SEAL_SEALED)
    + b2n s.sec.linkIde * 2 ^ 8 + satW 7 s.sec.streams.length * 2 ^ 9

/-- CUPOLA_PD_STATUS of the selected domain, and CUPOLA_PD_MAP_w (R463). -/
def State.pdWord (s : State) : Nat :=
  let x := s.pd (s.get F.CUPOLA_PD_SEL_DOMAIN)
  x.state + 8 * b2n x.held + x.result % 256 * 2 ^ 8
def State.pdMap (s : State) (w : Nat) : Nat :=
  ((List.range 32).map (fun i => b2n (32 * w + i < 92 && s.pdOn (32 * w + i)) * 2 ^ i)).sum

/-! ### The word at an offset of the physical function's BAR0 -/

/-- Registers of BAR0 from 0x0100_0000 on (log entry 127). -/
def State.readHigh (s : State) (off : Nat) : Nat × State :=
  let w := s.word off
  if off < 0x1001000 then
    let n := (off - 0x1000000) / 32
    if (regAt? off).isNone then (0, s)
    else if off % 32 = 4 then s.spireWord n
    else (if off % 32 = 12 then s.busyWord n else w, s)
  else if 0x1002000 ≤ off && off < 0x1002020 then (if off % 4 = 0 then s.clusterWord ((off - 0x1002000) / 4) else 0, s)
  else if 0x1002204 ≤ off && off ≤ 0x1002220 then (s.extWord off, s)
  else if 0x1400100 ≤ off && off < 0x1400110 then (s.groupWord ((off - 0x1400100) / 4), s)
  else if 0x1400200 ≤ off && off < 0x1400400 then
    (if off % 8 = 0 then s.arrayWord ((off - 0x1400200) / 8) else s.calWord ((off - 0x1400200) / 8), s)
  else if 0x1401000 ≤ off && off < 0x1401800 then (s.trimWord ((off - 0x1401000) / 32) (off % 32 / 4), s)
  else if 0x1600000 ≤ off && off < 0x1600100 then
    (if off % 64 = 0 || off % 64 ≥ 0x20 then w else s.beatWord ((off - 0x1600000) / 64) (off % 64), s)
  else if 0x1C00200 ≤ off && off < 0x1C00220 then (s.flashCount ((off - 0x1C00200) / 4), s)
  else if 0x1C01000 ≤ off && off < 0x1C02000 then (s.dieWord ((off - 0x1C01000) / 4), s)
  else if 0x2000014 ≤ off && off ≤ 0x2000024 && off != 0x2000020 then (s.extentWord off, s)
  else if 0x2400804 ≤ off && off < 0x2400820 then (s.subWord off, s)
  else if 0x2800004 ≤ off && off < 0x280001C then (s.trafficWord off, s)
  else if 0x2C00100 ≤ off && off < 0x2C00180 && off % 8 = 0 then (s.memberWord ((off - 0x2C00100) / 8), s)
  else if 0x3000404 ≤ off && off < 0x3000414 then (s.logWord off, s)
  else if 0x3800200 ≤ off && off < 0x380020C then (s.pdMap ((off - 0x3800200) / 4), s)
  else match off with
    | 0x160040C => (s.imagesLoaded, s)
    | 0x1800044 => (s.classWord, s)
    | 0x2000004 => (s.poolWord, s)
    | 0x2401020 => (s.qpWord, s)
    | 0x2C00204 => (s.bucketOwner (s.get F.RING_SHARD_SEL_BUCKET) % 16, s)
    | 0x3000414 => (setBits w 5 0 s.ras.log.length, s)
    | 0x300050C => (setBits w 0 0 (b2n s.retireBusy), s)
    | 0x3400000 => (s.secWord, s)
    | 0x3400018 => (setBits w 2 2 (b2n (s.parts.getD (s.get F.SEC_KEY_SEL_PARTITION) {}).sweep), s)
    | 0x3800000 => (match s.cupola.budget with | some v => setBits w 9 0 v | none => w, s)
    | 0x3800008 => (setBits w 9 0 (satW 10 (ceilDiv s.reserveMw 1000)), s)
    | 0x3800108 => (s.pdWord, s)
    | _ => (w, s)

/-- The word at an offset of BAR0. A register set of rings reads its reset values while the partition is not ACTIVE (R60; log entry 127). -/
def State.readWord (s : State) (off : Nat) : Nat × State :=
  let w := s.word off
  if off < 0x100000 then
    (match off with
      | 0x4 => s.revWord
      | 0x8 => Config.serial % 2 ^ 32
      | 0xC => Config.serial / 2 ^ 32 % 2 ^ 32
      | 0x10 => s.versionWord
      | 0x18 => s.time % 2 ^ 32
      | 0x1C => s.time / 2 ^ 32 % 2 ^ 32
      | 0x54 => satW 32 (ceilDiv s.recGranules 16384)
      | _ => w, s)
  else if off < 0x200000 then
    (if off = 0x100000 then s.summary else if off = 0x100008 then s.ctlWord
      else if off < 0x100300 && off ≥ 0x100100 && off % 16 = 0 then s.groupCause ((off - 0x100100) / 16) else w, s)
  else if off < 0x400000 then
    (if off ≥ 0x210000 && off < 0x230000 && !s.partActive (off % 0x10000 / 0x200) then
      (match regAt? off with | some x => x.1.word0 | none => 0) else w, s)
  else if off < 0x800000 then
    (if (regAt? off).isSome then s.partWord ((off - 0x400000) / 0x8000) (off % 0x8000) else 0, s)
  else if off < 0x1000000 then
    (if off = 0xA00008 then let u := s.ruleUsage; satW 7 u.1 + satW 17 u.2.1 * 2 ^ 8
      else if off = 0xC00024 then s.scopeWord
      else if off = 0x800200 then setBits w 29 28 (s.get F.THERM_STATUS_STAGE) else w, s)
  else s.readHigh off

end Sys2Proof.Machine
end

