-- ==== Sys2Proof/Machine/RegAccess.lean ====
section
/-! DEFINITION. Accesses to the setup registers (R6, R7, R494 to R502, R532), to the partition view, and to the secure windows (R438,
R489): the access codes, the writes that are ignored, and the work that a write starts. -/

namespace Sys2Proof.Machine

open Sys2Proof

/-! ### Writes by access code -/

/-- Fields of which only some values are accepted, with the least and the greatest; a write of another value is ignored. -/
def fieldRanges : List (Fld × Nat × Nat) :=
  [(F.PART_LEASE_CFG_LEASE_MS, 100, 60000), (F.CANOPY_BANK_CFG_HOLE_LOG2, 3, 6), (F.CANOPY_RATE_CAP, 1, 2000),
   (F.CANOPY_SCAN_CFG_LAP_MS, 1, 1000), (F.QUANT_CFG_OUTLIER_RATIO, 2, 15), (F.PART_SPIRE_SHARE_MAX_SPIRES, 0, 48),
   (F.LANTERN_CFG_CAL_PERIOD_MS, 1, 100), (F.BEAT_CFG_AVG_LOG2, 0, 6), (F.SAPL_DISPATCH_CFG_SLOW_PCT, 10, 95),
   (F.TIER_SAMPLE_CFG_N_LOG2, 0, 12), (F.PART_TIER_CFG_SHADOW, 0, 2), (F.FLASH_READ_CFG_SLOW_MULT, 2, 8),
   (F.POOL_CFG_DC_KIND, 1, 2), (F.NET_PORT_CFG_MODE, 0, 5), (F.NET_CC_CFG_DEC_LOG2, 1, 8), (F.TRAFFIC_SEL_PORT, 0, 18),
   (F.PART_METER_CFG_MODE, 0, 2), (F.PART_METER_CFG_YELLOW_ACT, 0, 2), (F.PART_METER_CFG_RED_ACT, 0, 2),
   (F.RAS_CFG_MARK_SYM, 3, 8), (F.CUPOLA_SLEW_A_PER_US, 20, 560), (F.CUPOLA_PD_SEL_DOMAIN, 0, 91), (F.THERM_CFG_WARN_C, 60, 97),
   (F.ROOT_CFG_LOG2_BUCKETS, 16, 26), (F.TIER_DIR_CFG_LOG2_LEAVES, 16, 30), (F.SAPL_EXT_CFG_CORES, 0, 4), (F.FLASH_CFG_MODE, 0, 1),
   (F.NET_PKEY_CFG_BASE, 1, 0xFE)]

/-- Whether a field of an array takes a value. -/
def fieldTakes (base lo v : Nat) : Bool :=
  match fieldRanges.find? (fun (x : Fld × Nat × Nat) => x.1.base == base && x.1.lo == lo) with
  | some x => x.2.1 ≤ v && v ≤ x.2.2
  | none => true

/-- The word that a write leaves (R6): `keep` names, by their lowest bits, fields whose write is ignored. -/
def writtenWord (d : RegDesc) (isSealed : Bool) (keep : List Nat) (old val : Nat) : Nat :=
  d.fields.foldl (fun (w : Nat) (f : Nat × Nat × Access) =>
    let was := bits old f.1 f.2.1
    let v := bits val f.1 f.2.1
    let takes := !keep.contains f.2.1 && fieldTakes d.base f.2.1 v
    match f.2.2 with
    | .rw => if takes then setBits w f.1 f.2.1 v else w
    | .lk => if takes && !isSealed then setBits w f.1 f.2.1 v else w
    | .w1c => setBits w f.1 f.2.1 (was &&& (2 ^ 32 - 1 - v))
    | .w1s => setBits w f.1 f.2.1 (was ||| v)
    | _ => w) old

/-- A write of a register by its access codes. After the seal, one that would change an LK field raises SECURITY (R7); before it,
the offset is noted as written since the reset (R505). -/
def State.writeFields (s : State) (off val : Nat) (keep : List Nat := []) : State :=
  match regAt? off with
  | none => s
  | some (d, _, _) =>
    let isSealed := s.on F.GLB_SEAL_SEALED
    let old := s.regWord off d.word0
    let lk := d.lkBits
    let s := s.putWord off (writtenWord d isSealed keep old val)
    if lk = 0 then s
    else if isSealed then (if (old ^^^ writtenWord d false keep old val) &&& lk = 0 then s else s.security 1 0)
    else { s with boot := { s.boot with bases := off :: s.boot.bases.filter (· != off) } }

/-! ### Blocks -/

def State.writeGlb (s : State) (off val : Nat) : State :=
  match off with
  | 0x40 => if bit val 0 then effGlbSealSet s else s
  | 0x104 => if val % 256 = 0xC3 && bit val 8 then effDeviceReset s false else s
  | _ => s.writeFields off val

/-- Bits of a group cause register that mirror a leaf register or the secure window; they are RO (R484, R486). -/
def mirrorBits (g : Nat) : Nat := match g with | 0 => 0xFFFFFFFF | 1 => 0x10000 | 4 => 0xF | 15 => 0xF | _ => 0

def State.writeBelfry (s : State) (off val : Nat) : State :=
  let v := if 0x100100 ≤ off && off < 0x100300 && off % 16 = 0 then val &&& (2 ^ 32 - 1 - mirrorBits ((off - 0x100100) / 16)) else val
  let s := (s.writeFields off v).refreshDev
  if off = 0x100008 && bit val 1 then effBelfryRearm s else s

/-- The register sets of rings (R62 to R65). -/
def State.writeRing (s : State) (fn off val : Nat) : State :=
  let o := off % 64
  if off < 0x220000 then
    let q := (off - 0x210000) / 64
    let busy := s.on F.HP_SQ_CFG_ENABLE q || s.on F.HP_SQ_STATUS_ACTIVE q
    if o = 8 then (if bit val 31 then effSqEnable s fn q val else effSqDisable s fn q val)
    else s.ringWrite fn q false val (fun s => if o < 8 && busy then s else s.writeFields off val)
  else
    let c := (off - 0x220000) / 64
    let busy := s.on F.HP_CQ_CFG_ENABLE c || s.on F.HP_CQ_STATUS_ACTIVE c
    if o = 8 then (if bit val 31 then effCqEnable s fn c val else effCqDisable s fn c val)
    else s.ringWrite fn c true val (fun s => if o < 8 && busy then s else s.writeFields off val)

def State.writeHost (s : State) (fn off val : Nat) : State :=
  if 0x210000 ≤ off && off < 0x230000 then (if (regAt? off).isSome then s.writeRing fn off val else s) else s.writeFields off val

/-- The cause and mask registers of a partition's own tree (R423, R493, R501). -/
def ownedOffsets : List Nat := [0x94, 0xB0, 0xB4, 0xB8, 0xBC]

def State.writeOwned (s : State) (p o val : Nat) : State :=
  let off := 0x400000 + p * 0x8000 + o
  let s := match o with
    | 0xB0 => if bit val 15 then s.put F.PART_BELFRY_SUMMARY_SUMMARY (setBits (s.get F.PART_BELFRY_SUMMARY_SUMMARY p) 15 15 0) p else s
    | 0xB4 => s.put F.PART_BELFRY_MASK_MASK (val &&& 0x8019) p
    | _ => s.writeFields off val
  s.refreshPart p

/-- Whether a ring of a partition is enabled. -/
def State.ringsOn (s : State) (p : Nat) : Bool :=
  (List.range 8).any (fun i => s.on F.HP_SQ_CFG_ENABLE (8 * p + i) || s.on F.HP_CQ_CFG_ENABLE (8 * p + i))

/-- Whether a write of CHM_ALLOW acts (R446, R264). -/
def State.chmWritable (s : State) (p : Nat) (set : Bool) : Bool :=
  p != 0 && !s.ringsOn p && !(set && (s.ext p).state == 3)

/-- A write of a reservation or a limit of tier `t` (R276). -/
def State.writeTier (s : State) (p t : Nat) (limit : Bool) (v : Nat) : State :=
  let v := v % 2 ^ 30
  let resv := s.get F.PART_TIER_RESV_SLOTS p t
  if limit then (if v < resv then s else s.put F.PART_TIER_LIMIT_SLOTS v p t)
  else if v > s.get F.PART_TIER_LIMIT_SLOTS p t || (v > resv && s.resvSum t - resv + v > s.tierCap t) then s
  else s.put F.PART_TIER_RESV_SLOTS v p t

/-- Partition 0's writes of the partition blocks; those of a partition that leaves are frozen (R439). -/
def State.writePart (s : State) (p o val : Nat) : State :=
  let off := 0x400000 + p * 0x8000 + o
  if ownedOffsets.contains o then (if s.vfEnabled p then s else s.writeOwned p o val)
  else if s.leaving p then s
  else match o with
    | 0x24 => if s.schedBusy p then s else s.writeFields off val
    | 0x40 => s.writeTier p 0 false val
    | 0x44 => s.writeTier p 0 true val
    | 0x50 => s.writeTier p 1 false val
    | 0x54 => s.writeTier p 1 true val
    | 0x60 => s.writeTier p 2 false val
    | 0x64 => s.writeTier p 2 true val
    | 0x80 => effPartTrafficQWrite s p val
    | 0x98 => s.writeFields off val (if s.chmWritable p (bit val 0) then [] else [0])
    | 0x9C => if s.pstate p = 0 then s.writeFields off val else s
    | 0xA0 => if s.pstate p = 0 then s.writeFields off val else s
    | _ =>
      let s := s.writeFields off val
      if 0x84 ≤ o && o ≤ 0x90 then { s with meters := s.meters.set p { s.meter p with changed := true } } else s

def State.writeCanopy (s : State) (off val : Nat) : State :=
  if off < 0x800100 && off % 4 = 0 then
    let n := (off - 0x800000) / 4
    let s := s.writeFields off val (if s.on F.CANOPY_BANK_CFG_EMPTY n then [] else [0])
    if bit val 8 then effCanopyBankFlush s n else s
  else s.writeFields off val

/-- SPIRE_CTL_n: a retired Spire stays OFFLINE (R413). -/
def State.writeSpire (s : State) (n : Nat) (offline : Bool) : State :=
  if offline then (if s.on F.SPIRE_CTL_OFFLINE n then s else s.spireOff n)
  else if s.ras.spires.contains n then s
  else (s.put F.SPIRE_CTL_OFFLINE 0 n).dispatch

/-- The registers of the selected extension (R265). -/
def State.writeExt (s : State) (off val : Nat) : State :=
  let p := s.get F.SAPL_EXT_SEL_PARTITION
  let x := s.ext p
  match off with
  | 0x1002204 => s.setExt p { x with addr := setBits x.addr 31 0 val }
  | 0x1002208 => s.setExt p { x with addr := setBits x.addr 63 32 val }
  | 0x100220C => s.setExt p { x with len := val % 2 ^ 24 }
  | 0x1002218 => s.setExt p { x with scratch := setBits x.scratch 31 0 val }
  | 0x100221C => s.setExt p { x with scratch := setBits x.scratch 63 32 val }
  | 0x1002220 => s.setExt p { x with scratchLen := val % 2 ^ 24 }
  | 0x1002210 =>
    let s := if bit val 0 then effExtLoad s p else s
    let s := if bit val 1 then effExtEnable s p else s
    if bit val 2 then effExtDisable s p else s
  | _ => s

def State.writeSpires (s : State) (off val : Nat) : State :=
  if off < 0x1001000 then (if off % 32 = 0 && (regAt? off).isSome then s.writeSpire ((off - 0x1000000) / 32) (bit val 0) else s)
  else if 0x1002204 ≤ off && off ≤ 0x1002220 then s.writeExt off val
  else s.writeFields off val

/-- LANTERN_CFG: STALE_MS is at least CAL_PERIOD_MS + 1. -/
def State.writeLantern (s : State) (off val : Nat) : State :=
  if off = 0x1400000 then
    let period := if fieldTakes off 0 (bits val 7 0) then bits val 7 0 else s.get F.LANTERN_CFG_CAL_PERIOD_MS
    s.writeFields off val (if bits val 23 16 > period then [] else [16])
  else s.writeFields off val

/-- BEAT_CFG_n: SOURCE changes as R224 permits, and LAYERS 0 puts the domain in OFF. -/
def State.writeBeat (s : State) (off val : Nat) : State :=
  if off < 0x1600100 && off % 64 = 0 then
    let n := (off - 0x1600000) / 64
    let s := s.writeFields off val (if s.beatSource n = 0 then [0] else [0, 3, 8, 20])
    let s := if s.layersOf n = 0 && (s.beat n).state != 0 then s.restartBeat n else s
    effBeatSourceChange s n (bits val 1 0)
  else s.writeFields off val

/-- TIER_CLASS_HINTS: class 0 has no entry, and invalid hints are ignored. -/
def State.writeClass (s : State) (val : Nat) : State :=
  let c := s.get F.TIER_CLASS_SEL_CLASS
  if c = 0 || !hintsOk (val % 256) then s
  else { s with classHints := s.classHints.set (s.get F.TIER_CLASS_SEL_PARTITION * 256 + c) (val % 256, bit val 8) }

def State.writeTiers (s : State) (off val : Nat) : State :=
  match off with
  | 0x1800044 => s.writeClass val
  | 0x1800030 => s.writeFields off val (if bits val 25 16 < bits val 9 0 then [16] else [])
  | 0x1800034 => s.writeFields off val (if bits val 25 16 < bits val 9 0 then [16] else [])
  | _ => s.writeFields off val

/-- The data rates of a mode of the flash channels (R321), in 100 MT/s. -/
def rateOk (mode rate : Nat) : Bool := if mode = 0 then 8 ≤ rate && rate ≤ 36 else 4 ≤ rate && rate ≤ 16

/-- FLASH_CFG: a rate that the mode of the same write does not have is ignored. -/
def State.writeFlash (s : State) (off val : Nat) : State :=
  match off with
  | 0x1C00000 => s.writeFields off val (if rateOk (if bits val 1 0 ≤ 1 then bits val 1 0 else s.get F.FLASH_CFG_MODE) (bits val 15 8) then [] else [8])
  | 0x1C0001C => s.writeFields off val (if bits val 23 16 ≤ bits val 15 8 then [16] else [])
  | 0x1C0002C => if bit val 0 then effHealthSnap s else s
  | _ => s.writeFields off val

/-- The registers of the selected extent: most ignore writes unless it is free; the owner may change in ADMIT (R344). -/
def State.writeExtent (s : State) (off val : Nat) : State :=
  let k := s.get F.POOL_EXT_SEL_INDEX
  let x := (s.extent? k).getD {}
  match off with
  | 0x2000014 => if x.state = 0 then s.setExtent k { x with base := val % 2 ^ 24 } else s
  | 0x2000018 => if x.state = 0 then s.setExtent k { x with len := val % 2 ^ 24 } else s
  | 0x200001C =>
    let x := if x.state = 0 then { x with target := bits val 5 0, kind := bits val 7 6 } else x
    let x := if x.state ≤ 1 then { x with owner := some (bits val 14 8) } else x
    s.setExtent k { x with home := bits val 19 16, homeLocal := bit val 20 }
  | _ =>
    let s := if bit val 0 then effPoolExtAdd s k else s
    if bit val 1 then effPoolExtRelease s k else s

def State.writePool (s : State) (off val : Nat) : State :=
  if off = 0x2000008 then (if bit val 0 then effPoolRestart s else s)
  else if 0x2000014 ≤ off && off ≤ 0x2000020 then s.writeExtent off val
  else s.writeFields off val

/-- The addresses of the selected sub-port: ignored while its port is enabled (R365). -/
def State.writeSub (s : State) (off val : Nat) : State :=
  let k := s.subSel
  let x := s.subPorts.getD k {}
  if s.on F.NET_PORT_CFG_ENABLE (k / 4) then s
  else
    let x : SubPort := match off with
      | 0x2400804 => { x with mac := setBits x.mac 31 0 val }
      | 0x2400808 => { x with mac := setBits x.mac 47 32 (val % 2 ^ 16) }
      | 0x240080C => { x with ipv4 := val }
      | _ => { x with ipv6 := setBits x.ipv6 (8 * (off - 0x2400810) + 31) (8 * (off - 0x2400810)) val }
    { s with subPorts := s.subPorts.set k x }

/-- NET_PORT_CFG_p: a port that is switched off loses its links. -/
def State.writePort (s : State) (p off val : Nat) : State :=
  let was := s.on F.NET_PORT_CFG_ENABLE p
  let s := s.writeFields off val (if was then [0] else [])
  if was && !bit val 3 then (List.range 4).foldl (fun (s : State) i => effSubportLinkChange s p i false) s else s

def State.writeNet (s : State) (off val : Nat) : State :=
  let k := s.get F.NET_QP_SEL_QP
  if off < 0x2400400 && off % 256 = 0 then s.writePort ((off - 0x2400000) / 256) off val
  else if 0x2400804 ≤ off && off < 0x2400820 then s.writeSub off val
  else match off with
    | 0x240101C => match val % 4 with
      | 1 => effQpLoad s k (s.pair F.NET_QP_CTX_LO_ADDR F.NET_QP_CTX_HI_ADDR)
      | 2 => effQpError s k
      | 3 => effQpReset s k
      | _ => s
    | 0x2401020 => if bit val 2 then s.setQp k { s.qp k with cmdErr := false } else s
    | _ => s.writeFields off val

/-- The registers of the selected queue: a write is held until the port's next refill (R371). -/
def State.writeTraffic (s : State) (off val : Nat) : State :=
  let e := s.get F.TRAFFIC_SEL_PORT
  let k := s.get F.TRAFFIC_SEL_QUEUE
  let q := s.txq e k
  match off with
  | 0x2800004 => s.setTxq e k { q with newRate := some (val % 2 ^ 20) }
  | 0x2800008 => s.setTxq e k { q with newBurst := some (val % 2 ^ 16) }
  | 0x280000C => if k < 4 then s else s.setTxq e k { q with newQuantum := some (val % 2 ^ 16) }
  | 0x280001C => if bit val 0 then effTrafficStatClear s e k (bit val 1) else s
  | _ => s.writeFields off val

/-- RING_CFG: ENABLE joins and leaves; LANE_RATE is fixed while it is 1. -/
def State.writeRingCfg (s : State) (val : Nat) : State :=
  let was := s.on F.RING_CFG_ENABLE
  let s := s.writeFields F.RING_CFG_ENABLE.base val (if was then [0, 1] else [0])
  if !was && bit val 0 then effRingEnable s
  else if was && !bit val 0 then effRingLeave (s.put F.RING_CFG_ENABLE 0)
  else s

def State.writeBke (s : State) (off val : Nat) : State :=
  match off with
  | 0x2C00000 => s.writeRingCfg val
  | 0x2C00008 =>
    let s := if bit val 0 then effRingLeave s else s
    let s := if bit val 1 then effRingCommit s else s
    let s := if bit val 2 then effRingForget s (bits val 7 4) else s
    if bit val 3 then effRingRebalance s else s
  | 0x2C00204 =>
    if !s.isMaster || s.on F.RING_CFG_AUTO_SHARD then s
    else { s with ring := { s.ring with staged := s.ring.staged.set (s.get F.RING_SHARD_SEL_BUCKET) (val % 16) } }
  | _ => s.writeFields off val

/-- RAS_CBT_CTL: each opening of the test mode is measured and reported (R414, R442). -/
def State.writeCbt (s : State) (val : Nat) : State :=
  let opens := bit val 2 && !s.on F.RAS_CBT_CTL_ENABLE
  let s := s.writeFields F.RAS_CBT_CTL_ENABLE.base val
  let s := if opens then (s.setDebug 1).security 7 0 else s
  match val % 4 with | 1 => effWriteRaw s | 2 => effReadRaw s | _ => s

def State.writeRas (s : State) (off val : Nat) : State :=
  match off with
  | 0x3000404 => if bit val 31 then { s with ras := { s.ras with log := s.ras.log.erase (s.get F.RAS_LOG_SEL_INDEX) } } else s
  | 0x3000508 =>
    let s := s.writeFields off val
    if bit val 16 then effRasRetireGo s (bits val 2 0) (bits val 11 4) (bits val 15 12) else s
  | 0x3000610 => s.writeCbt val
  | 0x3000620 => if bit val 15 then effRasInjectArm s (bits val 3 0) (bits val 11 4) (bits val 13 12) else s.writeFields off val
  | 0x3000700 =>
    let s := s.writeFields off val
    if bit val 11 then effRasBistGo s (bits val 2 0) (bits val 10 3) else s
  | _ => s.writeFields off val

/-- Whether a share group has a member (R119). -/
def State.groupUsed (s : State) (g : Nat) : Bool := (List.range 4).any (fun w => s.on F.CANOPY_SGRP_MEMBER_MEMBERS g w)

def State.writeSec (s : State) (off val : Nat) : State :=
  if 0x3400100 ≤ off && off < 0x3400200 && s.groupUsed ((off - 0x3400100) / 8) then s
  else match off with
    | 0x3400014 => if bit val 0 then effKeyRotate s (s.get F.SEC_KEY_SEL_PARTITION) else s
    | 0x3400020 => (s.put F.SEC_STAGE_EPOCH_PREVIOUS (s.get F.SEC_STAGE_EPOCH_CURRENT)).writeFields off val
    | _ => s.writeFields off val

def State.writeCupola (s : State) (off val : Nat) : State :=
  match off with
  | 0x3800000 => effCupolaBudgetWrite s (bits val 9 0)
  | 0x3800030 => if bit val 0 then effHbmSrEnter s else effHbmSrExit s
  | 0x3800104 => match val % 4 with
    | 1 => effPdOn s (s.get F.CUPOLA_PD_SEL_DOMAIN) (bit val 2)
    | 2 => effPdOff s (s.get F.CUPOLA_PD_SEL_DOMAIN)
    | _ => s
  | _ => s.writeFields off val

/-- A 4-byte write in a mailbox set (R489): a write of K2H is ignored. -/
def State.writeMbx (s : State) (secure : Bool) (n o val : Nat) : State :=
  match o with
  | 0x0 => effH2kSend s n secure 1 val
  | 0x4 => effH2kSend s n secure 2 val
  | 0x10 => s.writeFields ((if secure then 0x10000010 else 0x3C00010) + 32 * n) val
  | _ => s

/-- A 4-byte write at an offset of the physical function's BAR0. -/
def State.writeWord (s : State) (fn off val : Nat) : State :=
  if off < 0x100000 then s.writeGlb off val
  else if off < 0x200000 then s.writeBelfry off val
  else if off < 0x400000 then s.writeHost fn off val
  else if off < 0x800000 then s.writePart ((off - 0x400000) / 0x8000) (off % 0x8000) val
  else if off < 0xA00000 then s.writeCanopy off val
  else if off < 0x1000000 then s.writeFields off val
  else if off < 0x1400000 then s.writeSpires off val
  else if off < 0x1600000 then s.writeLantern off val
  else if off < 0x1800000 then s.writeBeat off val
  else if off < 0x1C00000 then s.writeTiers off val
  else if off < 0x2000000 then s.writeFlash off val
  else if off < 0x2400000 then s.writePool off val
  else if off < 0x2800000 then s.writeNet off val
  else if off < 0x2C00000 then s.writeTraffic off val
  else if off < 0x3000000 then s.writeBke off val
  else if off < 0x3400000 then s.writeRas off val
  else if off < 0x3800000 then s.writeSec off val
  else if off < 0x3C00000 then s.writeCupola off val
  else if off < 0x3C00100 then s.writeMbx false ((off - 0x3C00000) / 32) (off % 32) val
  else s

/-! ### Which offsets answer (R468, R471, R464), and the partition view (R500, R501) -/

/-- The windows with an LK field, which software sets up before the seal (R466, step 4). -/
def hasLk (off : Nat) : Bool := off < 0x4000000 && (regWindow off).any (fun d => d.lkBits != 0)

/-- Whether an offset of BAR0 answers in the phase: nothing before the link trains, the global block in RECOVERY and HALTED, the
blocks with LK fields until READY. -/
def State.answers (s : State) (off : Nat) : Bool :=
  match s.phase with
  | 0 => false
  | 4 => true
  | 5 => off < 0x100000
  | 6 => off < 0x100000
  | _ => hasLk off

/-- The register behind an offset of the BAR0 of virtual function `p`. -/
def viewOffset (p off : Nat) : Option Nat :=
  if off < 0x8000 then some (0x400000 + p * 0x8000 + off)
  else if 0x10000 ≤ off && off < 0x10200 then some (0x210000 + 8 * p * 0x40 + (off - 0x10000))
  else if 0x11000 ≤ off && off < 0x11200 then some (0x220000 + 8 * p * 0x40 + (off - 0x11000))
  else if [0x20000, 0x20004, 0x20010, 0x20018, 0x2001C].contains off then some (off - 0x20000)
  else none

/-- Whether the TDI of a partition has its ring register sets bound to a stream (R433, step 4). -/
def State.tdiBound (s : State) (p : Nat) : Bool := s.tdi p == 1 || s.tdi p == 2

/-- A 4-byte write by a virtual function: its rings, on the bound stream where there is one, and the registers of its own tree. -/
def State.viewWrite (s : State) (p off val : Nat) (stream : Option Nat) : State :=
  match viewOffset p off with
  | none => s
  | some a =>
    if !s.answers a then s
    else if off < 0x8000 then (if ownedOffsets.contains off then s.writeOwned p off val else s)
    else if off < 0x20000 then
      (if s.tdiBound p && stream != some (s.chms.getD p {}).stream then s else s.writeWord p a val)
    else s

/-- A word as a virtual function reads it (R440): counts lose their low 6 bits while COARSEN is 1, and power is rounded down to 16 W. -/
def State.coarse (s : State) (p off w : Nat) : Nat :=
  let c (hi lo : Nat) : Nat := setBits w hi lo (bits w hi lo / 64 * 64)
  if off = 0xAC then setBits w 11 0 (bits w 11 0 / 16 * 16)
  else if !s.on F.PART_SEC_CFG_COARSEN p then w
  else if off = 0x48 || off = 0x58 || off = 0x68 then c 30 0
  else if off = 0x18 || off = 0xA4 then c 31 17
  else if off = 0x74 then c 7 1
  else if 0x10000 ≤ off && off < 0x10200 && off % 64 = 0x14 then c 15 0
  else w

/-! ### Reads with the latch of pairs (R498) -/

/-- The LO registers of 64-bit pairs. -/
def loBases : List Nat :=
  [0x8, 0x18, 0x48, 0x210000, 0x220000, 0x40009C, 0x800218, 0x801000, 0xA00000, 0xC00000, 0x1002204, 0x1002218, 0x1400004, 0x1600008,
   0x1600018, 0x1600400, 0x1800000, 0x1800008, 0x1800010, 0x1C00004, 0x1C0000C, 0x1C00030, 0x2400804, 0x2401004, 0x2401014, 0x3000408,
   0x3000500, 0x3000600, 0x3000608, 0x3400100]

def isLo (off : Nat) : Bool := match regAt? off with | some (d, _, _) => loBases.contains d.base | none => false

/-- A 4-byte read by a function of a register of BAR0: a read of a LO word latches its HI word, which the next read of it returns. -/
def State.readLatched (s : State) (fn off : Nat) : Nat × State :=
  let key (o : Nat) : Nat := fn * 2 ^ 32 + o
  match s.latches.get? (key off) with
  | some v => (v, { s with latches := s.latches.erase (key off) })
  | none =>
    let (v, s) := s.readWord off
    if isLo off then
      let (h, s) := s.readWord (off + 4)
      (v, { s with latches := s.latches.set (key (off + 4)) h })
    else (v, s)

/-- A 4-byte read by a function of its BAR0. -/
def State.read4 (s : State) (fn off : Nat) : Nat × State :=
  if fn = 0 || fn = mgmtPort then (if s.answers off then s.readLatched fn off else (0, s))
  else match viewOffset fn off with
    | none => (0, s)
    | some a =>
      if !s.answers a then (0, s)
      else let (v, s) := s.readLatched fn a; (s.coarse fn off v, s)

/-- A 4-byte write by a function to its BAR0. -/
def State.write4 (s : State) (fn off val : Nat) (stream : Option Nat) : State :=
  let val := val % 2 ^ 32
  if fn = 0 || fn = mgmtPort then (if s.answers off then s.writeWord 0 off val else s) else s.viewWrite fn off val stream

/-! ### The selectors of Keep's management path (R499) -/

def selectors : List Nat :=
  [0xC00020, 0x1002200, 0x1800040, 0x2000010, 0x2400800, 0x2401010, 0x2800000, 0x2C00200, 0x3000400, 0x3400010, 0x3800100]

/-- The selectors in the register file put by those of a table. -/
def State.withSelectors (s : State) (t : Table Nat) : State :=
  selectors.foldl (fun (s : State) o => s.putWord o (t.getD o 0)) s

def State.selectorsNow (s : State) : Table Nat := selectors.map (fun o => (o, s.word o))

/-- An access by Keep's management path, with its own selectors in place of the physical function's. -/
def State.asMgmt (s : State) (go : State → State) : State :=
  let host := s.selectorsNow
  let s := go (s.withSelectors s.mgmtSel)
  { s with mgmtSel := s.selectorsNow }.withSelectors host

/-! ### One access (R495, R496) -/

/-- A read of 4 or 8 bytes of BAR0. -/
def State.readBar0 (s : State) (fn off size : Nat) : State :=
  let mbx := (fn = 0 || fn = mgmtPort) && 0x3C00000 ≤ off && off < 0x3C00100 && off % 32 < 16
  if mbx then
    let n := (off - 0x3C00000) / 32
    if !s.answers off then s.send (.readData fn off 0)
    else match off % 32, size with
      | 8, 8 => effK2hRead s n false 0
      | 8, _ => effK2hRead s n false 1
      | 12, _ => effK2hRead s n false 2
      | 0, 8 => s.send (.readData fn off (s.box false n).h2k)
      | 0, _ => s.send (.readData fn off ((s.box false n).h2k % 2 ^ 32))
      | _, _ => s.send (.readData fn off ((s.box false n).h2k / 2 ^ 32))
  else
    let (v, s) := s.read4 fn off
    if size = 8 then let (h, s) := s.read4 fn (off + 4); s.send (.readData fn off (v + h * 2 ^ 32)) else s.send (.readData fn off v)

/-- A write of 4 or 8 bytes of BAR0: 8 bytes act as two words, the lower address first, but a message register takes them whole. -/
def State.writeBar0 (s : State) (fn off size val : Nat) (stream : Option Nat) : State :=
  if size = 8 && (fn = 0 || fn = mgmtPort) && 0x3C00000 ≤ off && off < 0x3C00100 && off % 32 = 0 then
    (if s.answers off then effH2kSend s ((off - 0x3C00000) / 32) false 0 val else s)
  else
    let s := s.write4 fn off val stream
    if size = 8 then s.write4 fn (off + 4) (val / 2 ^ 32) stream else s

/-- The size of BAR0 of a function (R58). -/
def barSize (fn : Nat) : Nat := if fn = 0 || fn = mgmtPort then 0x4000000 else 0x100000

/-- An access to BAR0. -/
def State.bar0 (s : State) (fn off size : Nat) (val stream : Option Nat) : State :=
  if off ≥ barSize fn then s
  else if (size != 4 && size != 8) || off % size != 0 then
    let s := s.badAccess (if fn = mgmtPort then 0 else fn) 0 off val.isSome
    if val.isSome then s else s.send (.readData fn off 0)
  else match val with
    | none => s.readBar0 fn off size
    | some v => s.writeBar0 fn off size v stream

/-- An access to a doorbell page: reads return zero, and writes act as SQ_TAIL and CQ_HEAD do (R66). A write at another offset is reported
as one of SQ_TAIL below offset 8 and of CQ_HEAD from there on (DESIGN CHOICE: the spec names neither register for it; log entry 37). -/
def State.bar2 (s : State) (fn off size : Nat) (val : Option Nat) : State :=
  let page := off / 0x1000
  if (s.ringOf fn page).isNone then s
  else match val with
    | none => (s.pageAccess fn page (off % 0x1000) size false).send (.readData fn off 0)
    | some v => if off % 0x1000 < 8 then effSqTail s fn page (off % 0x1000) size v else effCqHead s fn page (off % 0x1000) size v

/-! ### Secure windows (R438, R489, R502) -/

/-- The link stream, among the numbers of streams. -/
def linkStream : Nat := 64

/-- Whether a TLP to the secure window of a function is admitted. -/
def State.windowOpen (s : State) (fn : Nat) (stream : Option Nat) : Bool :=
  if fn = 0 then !s.sec.linkIde || stream == some linkStream
  else s.tdiBound fn && stream == some (s.chms.getD fn {}).stream

/-- A 4-byte read of a secure window's registers other than the messages. -/
def State.windowWord (s : State) (fn off : Nat) : Nat :=
  if fn = 0 then (if off < 0x80 && off % 32 = 16 || off = 0x100 || off = 0x104 then s.word (0x10000000 + off) else 0)
  else match off with
    | 0x0 => s.partWord fn 0xA8
    | 0x4 => s.coarse fn 0xA4 (s.partWord fn 0xA4)
    | _ => 0

def State.windowRead (s : State) (fn off size : Nat) : State :=
  if fn = 0 && off < 0x80 && off % 32 < 16 && s.boxesUp then
    let m := s.box true (off / 32)
    match off % 32, size with
    | 8, 8 => effK2hRead s (off / 32) true 0
    | 8, _ => effK2hRead s (off / 32) true 1
    | 12, _ => effK2hRead s (off / 32) true 2
    | 0, 8 => s.send (.readData fn off m.h2k)
    | 0, _ => s.send (.readData fn off (m.h2k % 2 ^ 32))
    | _, _ => s.send (.readData fn off (m.h2k / 2 ^ 32))
  else
    let v := if s.ready then s.windowWord fn off + (if size = 8 then s.windowWord fn (off + 4) * 2 ^ 32 else 0) else 0
    s.send (.readData fn off v)

/-- A 4-byte write of the secure window of partition 0; the window of a virtual function holds only RO copies. -/
def State.windowWrite4 (s : State) (off val : Nat) : State :=
  if off < 0x80 then s.writeMbx true (off / 32) (off % 32) val
  else if off = 0x100 || off = 0x104 then (s.writeFields (0x10000000 + off) val).refreshDev
  else s

def State.windowWrite (s : State) (fn off size val : Nat) : State :=
  if fn != 0 || !s.ready then s
  else if size = 8 && off < 0x80 && off % 32 = 0 then effH2kSend s (off / 32) true 0 val
  else
    let s := s.windowWrite4 off (val % 2 ^ 32)
    if size = 8 then s.windowWrite4 (off + 4) (val / 2 ^ 32 % 2 ^ 32) else s

/-- SECURE_WINDOW_ACCESS: `val` none is a read; `stream` is the IDE stream on which the TLP arrives with the T bit set (log entry 115). -/
def effSecureWindowAccess (s : State) (fn off size : Nat) (val stream : Option Nat) : State :=
  if s.phase = 0 || !s.dieWorks 0 || (fn != 0 && !s.vfEnabled fn) || off ≥ (if fn = 0 then 0x100000 else 0x10000) then s
  else if !s.windowOpen fn stream then
    let s := (s.bump F.SEC_WINDOW_REFUSED_COUNT).security 4 fn
    if val.isSome then s else s.send (.unsupported fn off)
  else if (size != 4 && size != 8) || off % size != 0 then
    let s := s.badAccess fn 2 off val.isSome
    if val.isSome then s else s.send (.readData fn off 0)
  else match val with
    | none => s.windowRead fn off size
    | some v => s.windowWrite fn off size v

def execSecureWindowAccess (e : Env) (fn off size : Nat) (val stream : Option Nat) (s : State) : Host.Outcome State Fault Refusal :=
  .next (effSecureWindowAccess (s.enter e) fn off size val stream)

/-! ### The commands -/

/-- REGISTER_WRITE: an access by a function to BAR0, BAR2 or BAR4, or by the operator through Keep; `val` none is a read (log entry 113). -/
def effRegisterWrite (s : State) (fn bar off size : Nat) (val stream : Option Nat) : State :=
  if s.phase = 0 || !s.dieWorks 0 then s
  else if fn = mgmtPort then
    (if bar = 0 && s.opSession true then s.asMgmt (fun s => s.bar0 fn off size val stream) else s)
  else if fn != 0 && !s.vfEnabled fn then s
  else match bar with
    | 0 => s.bar0 fn off size val stream
    | 2 => s.bar2 fn off size val
    | 4 => effSecureWindowAccess s fn off size val stream
    | _ => s

def execRegisterWrite (e : Env) (fn bar off size : Nat) (val stream : Option Nat) (s : State) : Host.Outcome State Fault Refusal :=
  .next (effRegisterWrite (s.enter e) fn bar off size val stream)

/-- The registers of BAR0 that hold causes of the two trees: groups, leaves, and those of the partition view. -/
def isCause (fn off : Nat) : Bool :=
  if fn = 0 then
    (0x100100 ≤ off && off < 0x100300 && off % 16 == 0) || (0x101000 ≤ off && off < 0x101220 && off % 8 == 0)
      || (0x400000 ≤ off && off < 0x800000 && [0x94, 0xB0, 0xB8].contains (off % 0x8000))
  else [0x94, 0xB0, 0xB8].contains off

/-- CAUSE_CLEAR: a W1C write of a cause register; that of the secure window is at 0x1000_0100. -/
def effCauseClear (s : State) (fn off val : Nat) : State :=
  if s.phase = 0 || !s.dieWorks 0 || (fn != 0 && !s.vfEnabled fn) then s
  else if fn = 0 && off = 0x10000100 then s.windowWrite 0 0x100 4 val
  else if isCause fn off then s.write4 fn off val none
  else s

def execCauseClear (e : Env) (fn off val : Nat) (s : State) : Host.Outcome State Fault Refusal :=
  .next (effCauseClear (s.enter e) fn off val)

end Sys2Proof.Machine
end

