-- ==== Sys2Proof/Machine/Dispatch.lean ====
section
/-! DEFINITION. The dispatch of the commands: one arm per row of the opcode table, each one direct call of its meaning. -/

namespace Sys2Proof.Machine

open Sys2Proof

def exec (i : Instr) (s : State) : Host.Outcome State Fault Refusal :=
  match i with
  | .nop e rid => Sys2Proof.Machine.execNop e rid s
  | .fence e rid => Sys2Proof.Machine.execFence e rid s
  | .seqOpen e rid => Sys2Proof.Machine.execSeqOpen e rid s
  | .seqAppend e rid => Sys2Proof.Machine.execSeqAppend e rid s
  | .seqPublish e rid => Sys2Proof.Machine.execSeqPublish e rid s
  | .seqFork e rid => Sys2Proof.Machine.execSeqFork e rid s
  | .seqRetire e rid => Sys2Proof.Machine.execSeqRetire e rid s
  | .seqHeartbeat e rid => Sys2Proof.Machine.execSeqHeartbeat e rid s
  | .leafRead e rid => Sys2Proof.Machine.execLeafRead e rid s
  | .leafWrite e rid => Sys2Proof.Machine.execLeafWrite e rid s
  | .leafPin e rid => Sys2Proof.Machine.execLeafPin e rid s
  | .leafUnpin e rid => Sys2Proof.Machine.execLeafUnpin e rid s
  | .leafEvict e rid => Sys2Proof.Machine.execLeafEvict e rid s
  | .leafMigrate e rid => Sys2Proof.Machine.execLeafMigrate e rid s
  | .prefixLookup e rid => Sys2Proof.Machine.execPrefixLookup e rid s
  | .prefixStep e rid => Sys2Proof.Machine.execPrefixStep e rid s
  | .prefixInsert e rid => Sys2Proof.Machine.execPrefixInsert e rid s
  | .prefixRemove e rid => Sys2Proof.Machine.execPrefixRemove e rid s
  | .attend e rid => Sys2Proof.Machine.execAttend e rid s
  | .select e rid => Sys2Proof.Machine.execSelect e rid s
  | .deliver e rid => Sys2Proof.Machine.execDeliver e rid s
  | .beatMark e rid => Sys2Proof.Machine.execBeatMark e rid s
  | .scheduleArm e rid => Sys2Proof.Machine.execScheduleArm e rid s
  | .scheduleDisarm e rid => Sys2Proof.Machine.execScheduleDisarm e rid s
  | .tableLoadShape e rid => Sys2Proof.Machine.execTableLoadShape e rid s
  | .tableLoadRuleSet e rid => Sys2Proof.Machine.execTableLoadRuleSet e rid s
  | .tableLoadScheduleImage e rid => Sys2Proof.Machine.execTableLoadScheduleImage e rid s
  | .tableLoadMediaProfile e rid => Sys2Proof.Machine.execTableLoadMediaProfile e rid s
  | .rulesSwitch e rid => Sys2Proof.Machine.execRulesSwitch e rid s
  | .codecTrain e rid => Sys2Proof.Machine.execCodecTrain e rid s
  | .poolFlush e rid => Sys2Proof.Machine.execPoolFlush e rid s
  | .poolLeaseAcquire e rid => Sys2Proof.Machine.execPoolLeaseAcquire e rid s
  | .poolLeaseRenew e rid => Sys2Proof.Machine.execPoolLeaseRenew e rid s
  | .poolLeaseRelease e rid => Sys2Proof.Machine.execPoolLeaseRelease e rid s
  | .poolStageOut e rid => Sys2Proof.Machine.execPoolStageOut e rid s
  | .poolStageIn e rid => Sys2Proof.Machine.execPoolStageIn e rid s
  | .mrRegister e rid => Sys2Proof.Machine.execMrRegister e rid s
  | .mrRevoke e rid => Sys2Proof.Machine.execMrRevoke e rid s
  | .partitionCreate e rid => Sys2Proof.Machine.execPartitionCreate e rid s
  | .partitionTeardown e rid => Sys2Proof.Machine.execPartitionTeardown e rid s
  | .partitionEnable e rid => Sys2Proof.Machine.execPartitionEnable e rid s
  | .sqTail e fn page off size val => Sys2Proof.Machine.execSqTail e fn page off size val s
  | .cqHead e fn page off size val => Sys2Proof.Machine.execCqHead e fn page off size val s
  | .descriptorFetch e q n => Sys2Proof.Machine.execDescriptorFetch e q n s
  | .submissionReadFail e q n poisoned => Sys2Proof.Machine.execSubmissionReadFail e q n poisoned s
  | .descriptorStart e rid => Sys2Proof.Machine.execDescriptorStart e rid s
  | .cqModDelayExpiry e c => Sys2Proof.Machine.execCqModDelayExpiry e c s
  | .sqEnable e fn q val => Sys2Proof.Machine.execSqEnable e fn q val s
  | .sqDisable e fn q val => Sys2Proof.Machine.execSqDisable e fn q val s
  | .sqInactive e q => Sys2Proof.Machine.execSqInactive e q s
  | .cqEnable e fn c val => Sys2Proof.Machine.execCqEnable e fn c val s
  | .cqDisable e fn c val => Sys2Proof.Machine.execCqDisable e fn c val s
  | .functionLevelReset e fn => Sys2Proof.Machine.execFunctionLevelReset e fn s
  | .vfEnableChange e enable num => Sys2Proof.Machine.execVfEnableChange e enable num s
  | .registerWrite e fn bar off size val stream => Sys2Proof.Machine.execRegisterWrite e fn bar off size val stream s
  | .leaseExpiry e seq => Sys2Proof.Machine.execLeaseExpiry e seq s
  | .sequenceFree e seq => Sys2Proof.Machine.execSequenceFree e seq s
  | .holdRelease e owner leaf cid => Sys2Proof.Machine.execHoldRelease e owner leaf cid s
  | .chunkSeal e seq chunk => Sys2Proof.Machine.execChunkSeal e seq chunk s
  | .searchContextExpiry e ctx => Sys2Proof.Machine.execSearchContextExpiry e ctx s
  | .canopyPromote e => Sys2Proof.Machine.execCanopyPromote e s
  | .canopyRespread e bank => Sys2Proof.Machine.execCanopyRespread e bank s
  | .canopyParityScan e failing lost lapUs => Sys2Proof.Machine.execCanopyParityScan e failing lost lapUs s
  | .canopyBankFlush e bank => Sys2Proof.Machine.execCanopyBankFlush e bank s
  | .workUnitFinish e spire => Sys2Proof.Machine.execWorkUnitFinish e spire s
  | .spireSlowCheck e spire keyLines valueLines => Sys2Proof.Machine.execSpireSlowCheck e spire keyLines valueLines s
  | .spireSlowExit e spire => Sys2Proof.Machine.execSpireSlowExit e spire s
  | .lanternCalibrationDue e array temp => Sys2Proof.Machine.execLanternCalibrationDue e array temp s
  | .lanternCalibrationDone e array => Sys2Proof.Machine.execLanternCalibrationDone e array s
  | .lanternStale e array temp => Sys2Proof.Machine.execLanternStale e array temp s
  | .beatPinEdge e domain sync => Sys2Proof.Machine.execBeatPinEdge e domain sync s
  | .beatFrame e domain time layers sync => Sys2Proof.Machine.execBeatFrame e domain time layers sync s
  | .beatLostTimeout e domain => Sys2Proof.Machine.execBeatLostTimeout e domain s
  | .beatSynthLayer e domain => Sys2Proof.Machine.execBeatSynthLayer e domain s
  | .scheduleSwitch e part => Sys2Proof.Machine.execScheduleSwitch e part s
  | .eventIssue e p ev => Sys2Proof.Machine.execEventIssue e p ev s
  | .queryStampPoll e inst k => Sys2Proof.Machine.execQueryStampPoll e inst k s
  | .commitPoint e inst id => Sys2Proof.Machine.execCommitPoint e inst id s
  | .eventCompletion e inst => Sys2Proof.Machine.execEventCompletion e inst s
  | .placementSweepVisit e leaf => Sys2Proof.Machine.execPlacementSweepVisit e leaf s
  | .backgroundRelief e tier => Sys2Proof.Machine.execBackgroundRelief e tier s
  | .promotion e leaf => Sys2Proof.Machine.execPromotion e leaf s
  | .writeBack e leaf => Sys2Proof.Machine.execWriteBack e leaf s
  | .migrationSwitch e leaf fail => Sys2Proof.Machine.execMigrationSwitch e leaf fail s
  | .reencodeSweep e leaf => Sys2Proof.Machine.execReencodeSweep e leaf s
  | .journalCommit e group => Sys2Proof.Machine.execJournalCommit e group s
  | .flashProgramDone e pa => Sys2Proof.Machine.execFlashProgramDone e pa s
  | .flashProgramFail e pa => Sys2Proof.Machine.execFlashProgramFail e pa s
  | .flashEraseDone e block fail => Sys2Proof.Machine.execFlashEraseDone e block fail s
  | .flashReadDone e pa outcome lat words => Sys2Proof.Machine.execFlashReadDone e pa outcome lat words s
  | .slowReadTimeout e read => Sys2Proof.Machine.execSlowReadTimeout e read s
  | .dieSlowExit e die => Sys2Proof.Machine.execDieSlowExit e die s
  | .dieFailed e die => Sys2Proof.Machine.execDieFailed e die s
  | .fold e => Sys2Proof.Machine.execFold e s
  | .garbageCollection e => Sys2Proof.Machine.execGarbageCollection e s
  | .checkpoint e => Sys2Proof.Machine.execCheckpoint e s
  | .dieTemperatureRead e die temp => Sys2Proof.Machine.execDieTemperatureRead e die temp s
  | .mount e readable => Sys2Proof.Machine.execMount e readable s
  | .pwrFailFall e => Sys2Proof.Machine.execPwrFailFall e s
  | .pwrFailRise e => Sys2Proof.Machine.execPwrFailRise e s
  | .healthSnap e => Sys2Proof.Machine.execHealthSnap e s
  | .poolBwRefill e loads => Sys2Proof.Machine.execPoolBwRefill e loads s
  | .dcOffer e target len => Sys2Proof.Machine.execDcOffer e target len s
  | .dcReleaseRequest e ext => Sys2Proof.Machine.execDcReleaseRequest e ext s
  | .poolExtAdd e ext => Sys2Proof.Machine.execPoolExtAdd e ext s
  | .poolExtRelease e ext => Sys2Proof.Machine.execPoolExtRelease e ext s
  | .extentReleased e ext => Sys2Proof.Machine.execExtentReleased e ext s
  | .poolLeaseExpiry e base len => Sys2Proof.Machine.execPoolLeaseExpiry e base len s
  | .poolLeaseAutoRenew e rid ok => Sys2Proof.Machine.execPoolLeaseAutoRenew e rid ok s
  | .poolTargetFail e target ext => Sys2Proof.Machine.execPoolTargetFail e target ext s
  | .poolPortDown e => Sys2Proof.Machine.execPoolPortDown e s
  | .poolRestart e => Sys2Proof.Machine.execPoolRestart e s
  | .qpLoad e qp addr => Sys2Proof.Machine.execQpLoad e qp addr s
  | .qpError e qp => Sys2Proof.Machine.execQpError e qp s
  | .qpReset e qp => Sys2Proof.Machine.execQpReset e qp s
  | .qpDrainDone e qp => Sys2Proof.Machine.execQpDrainDone e qp s
  | .qwpRequest e qp psn msg lens ecn => Sys2Proof.Machine.execQwpRequest e qp psn msg lens ecn s
  | .rdmaWriteInbound e qp psn rkey addr total data first last len ecn => Sys2Proof.Machine.execRdmaWriteInbound e qp psn rkey addr total data first last len ecn s
  | .rdmaReadInbound e qp psn rkey addr n len ecn => Sys2Proof.Machine.execRdmaReadInbound e qp psn rkey addr n len ecn s
  | .duplicatePacket e qp psn kind rkey addr n => Sys2Proof.Machine.execDuplicatePacket e qp psn kind rkey addr n s
  | .pkeyDrop e qp pkey len ecn => Sys2Proof.Machine.execPkeyDrop e qp pkey len ecn s
  | .meterRefill e p => Sys2Proof.Machine.execMeterRefill e p s
  | .ackReceived e qp psn ecn => Sys2Proof.Machine.execAckReceived e qp psn ecn s
  | .nakReceived e qp psn => Sys2Proof.Machine.execNakReceived e qp psn s
  | .ackTimeout e qp => Sys2Proof.Machine.execAckTimeout e qp s
  | .cnpReceived e qp => Sys2Proof.Machine.execCnpReceived e qp s
  | .rateIncrease e qp => Sys2Proof.Machine.execRateIncrease e qp s
  | .subportLinkChange e port sub up => Sys2Proof.Machine.execSubportLinkChange e port sub up s
  | .egressFrameStart e port => Sys2Proof.Machine.execEgressFrameStart e port s
  | .shaperRefill e port => Sys2Proof.Machine.execShaperRefill e port s
  | .queueDepthSample e port => Sys2Proof.Machine.execQueueDepthSample e port s
  | .trafficStatClear e port queue all => Sys2Proof.Machine.execTrafficStatClear e port queue all s
  | .partTrafficQWrite e p val => Sys2Proof.Machine.execPartTrafficQWrite e p val s
  | .ringEnable e => Sys2Proof.Machine.execRingEnable e s
  | .ringReceiveLock e east west => Sys2Proof.Machine.execRingReceiveLock e east west s
  | .ringTrainTimeout e => Sys2Proof.Machine.execRingTrainTimeout e s
  | .joinRetry e => Sys2Proof.Machine.execJoinRetry e s
  | .join e h serial rank fresh leave east => Sys2Proof.Machine.execJoin e h serial rank fresh leave east s
  | .members e h body => Sys2Proof.Machine.execMembers e h body s
  | .heartbeat e => Sys2Proof.Machine.execHeartbeat e s
  | .heartbeatReceived e h => Sys2Proof.Machine.execHeartbeatReceived e h s
  | .masterTakeover e => Sys2Proof.Machine.execMasterTakeover e s
  | .request e h body => Sys2Proof.Machine.execRequest e h body s
  | .response e h body => Sys2Proof.Machine.execResponse e h body s
  | .data e h body => Sys2Proof.Machine.execData e h body s
  | .ack e h => Sys2Proof.Machine.execAck e h s
  | .ringRetransmit e dst => Sys2Proof.Machine.execRingRetransmit e dst s
  | .ringAckTimer e src => Sys2Proof.Machine.execRingAckTimer e src s
  | .ringFrameForward e fromEast dst kind seq ack num part hops len body => Sys2Proof.Machine.execRingFrameForward e fromEast dst kind seq ack num part hops len body s
  | .shard e h body => Sys2Proof.Machine.execShard e h body s
  | .index e h body => Sys2Proof.Machine.execIndex e h body s
  | .shardTransferDone e => Sys2Proof.Machine.execShardTransferDone e s
  | .shardReassign e pos => Sys2Proof.Machine.execShardReassign e pos s
  | .time e h offset delays => Sys2Proof.Machine.execTime e h offset delays s
  | .timeSend e => Sys2Proof.Machine.execTimeSend e s
  | .ringLeave e => Sys2Proof.Machine.execRingLeave e s
  | .ringCommit e => Sys2Proof.Machine.execRingCommit e s
  | .ringForget e pos => Sys2Proof.Machine.execRingForget e pos s
  | .ringRebalance e => Sys2Proof.Machine.execRingRebalance e s
  | .hbmScrub e source unit errs addr hit lap pct => Sys2Proof.Machine.execHbmScrub e source unit errs addr hit lap pct s
  | .scrubStalled e => Sys2Proof.Machine.execScrubStalled e s
  | .rasRetireGo e kind unit die => Sys2Proof.Machine.execRasRetireGo e kind unit die s
  | .writeRaw e => Sys2Proof.Machine.execWriteRaw e s
  | .readRaw e => Sys2Proof.Machine.execReadRaw e s
  | .rasInjectArm e target unit bits => Sys2Proof.Machine.execRasInjectArm e target unit bits s
  | .rasBistGo e target unit => Sys2Proof.Machine.execRasBistGo e target unit s
  | .bistDone e target unit fails failed => Sys2Proof.Machine.execBistDone e target unit fails failed s
  | .storeRecovery e badLeaves badSeqs => Sys2Proof.Machine.execStoreRecovery e badLeaves badSeqs s
  | .fatalFault e fault => Sys2Proof.Machine.execFatalFault e fault s
  | .keepRestart e => Sys2Proof.Machine.execKeepRestart e s
  | .saplingFault e cluster core => Sys2Proof.Machine.execSaplingFault e cluster core s
  | .codecSliceReset e slice => Sys2Proof.Machine.execCodecSliceReset e slice s
  | .extLoad e part => Sys2Proof.Machine.execExtLoad e part s
  | .extEnable e part => Sys2Proof.Machine.execExtEnable e part s
  | .extDisable e part => Sys2Proof.Machine.execExtDisable e part s
  | .sealNote e part => Sys2Proof.Machine.execSealNote e part s
  | .timer e part => Sys2Proof.Machine.execTimer e part s
  | .keyRotate e part => Sys2Proof.Machine.execKeyRotate e part s
  | .keyRetired e part => Sys2Proof.Machine.execKeyRetired e part s
  | .lockInterfaceRequest e part stream => Sys2Proof.Machine.execLockInterfaceRequest e part stream s
  | .chmBind e part start => Sys2Proof.Machine.execChmBind e part start s
  | .startInterfaceRequest e part => Sys2Proof.Machine.execStartInterfaceRequest e part s
  | .stopInterfaceRequest e part cause => Sys2Proof.Machine.execStopInterfaceRequest e part cause s
  | .secureWindowAccess e fn off size val stream => Sys2Proof.Machine.execSecureWindowAccess e fn off size val stream s
  | .spdmGetMeasurements e fn index => Sys2Proof.Machine.execSpdmGetMeasurements e fn index s
  | .claim e fn root extKey authentic => Sys2Proof.Machine.execClaim e fn root extKey authentic s
  | .setFleet e secret chained => Sys2Proof.Machine.execSetFleet e secret chained s
  | .setExtKey e key chained => Sys2Proof.Machine.execSetExtKey e key chained s
  | .setCak e subPort key chained => Sys2Proof.Machine.execSetCak e subPort key chained s
  | .debugUnlock e facility signed => Sys2Proof.Machine.execDebugUnlock e facility signed s
  | .decommission e chained => Sys2Proof.Machine.execDecommission e chained s
  | .pldmFirmwareUpdate e image verified => Sys2Proof.Machine.execPldmFirmwareUpdate e image verified s
  | .partitionDrainDone e part => Sys2Proof.Machine.execPartitionDrainDone e part s
  | .scrubComplete e part => Sys2Proof.Machine.execScrubComplete e part s
  | .pdOn e domain waitFree => Sys2Proof.Machine.execPdOn e domain waitFree s
  | .pdOff e domain => Sys2Proof.Machine.execPdOff e domain s
  | .pdPoweredOn e domain => Sys2Proof.Machine.execPdPoweredOn e domain s
  | .pdDrainDone e domain => Sys2Proof.Machine.execPdDrainDone e domain s
  | .hbmSrEnter e => Sys2Proof.Machine.execHbmSrEnter e s
  | .hbmSrExit e => Sys2Proof.Machine.execHbmSrExit e s
  | .cupolaBudgetWrite e watts => Sys2Proof.Machine.execCupolaBudgetWrite e watts s
  | .cupolaEpoch e refresh codec lantern canopy => Sys2Proof.Machine.execCupolaEpoch e refresh codec lantern canopy s
  | .thermalSample e sensor temp => Sys2Proof.Machine.execThermalSample e sensor temp s
  | .thermalTrip e sensor => Sys2Proof.Machine.execThermalTrip e sensor s
  | .belfryRearm e => Sys2Proof.Machine.execBelfryRearm e s
  | .causeClear e fn off val => Sys2Proof.Machine.execCauseClear e fn off val s
  | .h2kSend e box secure half val => Sys2Proof.Machine.execH2kSend e box secure half val s
  | .k2hRead e box secure half => Sys2Proof.Machine.execK2hRead e box secure half s
  | .keepTakeMessage e box secure => Sys2Proof.Machine.execKeepTakeMessage e box secure s
  | .echo e box secure => Sys2Proof.Machine.execEcho e box secure s
  | .version e box secure => Sys2Proof.Machine.execVersion e box secure s
  | .measure e box secure => Sys2Proof.Machine.execMeasure e box secure s
  | .powerOn e hb6 targets luns images => Sys2Proof.Machine.execPowerOn e hb6 targets luns images s
  | .keepFirmwareRunning e => Sys2Proof.Machine.execKeepFirmwareRunning e s
  | .perstNRise e masterEn standbyEn ringId => Sys2Proof.Machine.execPerstNRise e masterEn standbyEn ringId s
  | .memoryFillDone e trainFail fatal dies units => Sys2Proof.Machine.execMemoryFillDone e trainFail fatal dies units s
  | .glbSealSet e => Sys2Proof.Machine.execGlbSealSet e s
  | .mountDone e => Sys2Proof.Machine.execMountDone e s
  | .conventionalReset e kind => Sys2Proof.Machine.execConventionalReset e kind s
  | .deviceReset e operator => Sys2Proof.Machine.execDeviceReset e operator s
  | .powerLoss e => Sys2Proof.Machine.execPowerLoss e s
  | .ringLinkChange e east up idErr => Sys2Proof.Machine.execRingLinkChange e east up idErr s
  | .poolLinkTrained e mode width targets => Sys2Proof.Machine.execPoolLinkTrained e mode width targets s
  | .poolEventRecord e device addr uncorrectable => Sys2Proof.Machine.execPoolEventRecord e device addr uncorrectable s
  | .pfcPause e port prio paused => Sys2Proof.Machine.execPfcPause e port prio paused s
  | .beatSourceChange e domain source => Sys2Proof.Machine.execBeatSourceChange e domain source s
  | .keyExchange e fn => Sys2Proof.Machine.execKeyExchange e fn s
  | .ideKm e fn stream op => Sys2Proof.Machine.execIdeKm e fn stream op s
  | .lookupPadExpiry e rid => Sys2Proof.Machine.execLookupPadExpiry e rid s
  | .poolReleaseMsExpiry e ext => Sys2Proof.Machine.execPoolReleaseMsExpiry e ext s
  | .ackCoalesceTimer e qp => Sys2Proof.Machine.execAckCoalesceTimer e qp s
  | .rnrNakReceived e qp psn => Sys2Proof.Machine.execRnrNakReceived e qp psn s
  | .heartbeatTimeout e => Sys2Proof.Machine.execHeartbeatTimeout e s

end Sys2Proof.Machine
end

