-- ==== Sys2Proof/Safety.lean ====
section
/-! DEFINITION. The terms in which the claims are stated: that a command answers a next state with a property, that a request
completes, what a completion leaves alone, and the invariant of the device. -/

namespace Sys2Proof.Machine

open Sys2Proof

/-- A command answers a next state of which a property holds. -/
def Answers (c : Instr) (s : State) (post : State → Prop) : Prop := ∃ t, exec c s = .next t ∧ post t

/-- The secrets of an operator are held only by a device that has been claimed (R444): without an operator root there is no fleet
secret and no sub-port key. -/
def State.secretsOwned (s : State) : Bool := s.sec.root.isSome || (s.fleet.isNone && s.sec.caks == [])

/-- The invariant that every step keeps: memory has its canonical form (log entry 3), the registers that are listed rise by offset,
and an unclaimed device holds no operator secret. -/
structure State.Inv (s : State) : Prop where
  memory : Memory.wf s.mem = true
  registers : Table.sorted s.regs = true
  secrets : s.secretsOwned = true

/-- The state without what raising a cause changes: the register file, the pending bits, INT_N and what has been sent. -/
def State.calm (s : State) : State := { s with regs := [], devPending := false, partPending := [], intN := false, out := [] }

/-- The state without what a completion changes: the requests and failed domains, the register file, completion rings and
memory, egress queues, queue pairs and ring peers, and the causes it may raise. -/
def State.settled (s : State) : State :=
  { s with reqs := [], failed := [], regs := [], mem := [], memPoison := [], cqs := [], sqs := [], txqs := [], partQs := [],
           out := [], qps := [], qwpAdmitted := 0, freeCtr := 0, ring := {}, intN := false, devPending := false, partPending := [] }

end Sys2Proof.Machine
end

