-- ==== Sys2Proof/Certificates/Slice0/Obligations.lean ====
section
/-! DEFINITION. The statements for the provers, of the whole device: the queue and the invariant, rings and completions, sequences and
leaves, prefix search, attention, beat and schedules, pool, network, flash, the ring of devices, errors, extensions, security, power,
mailboxes, bring-up, partitions and registers. Every `s1` is the state as the command's environment leaves it. -/

section

open Sys2Proof Sys2Proof.Machine

/-- A step runs the command at the front of the queue on the state with the queue's rest, and an empty queue idles
(log entry 1; the queue is the model's own). -/
def Obligations.StepRunsTheFrontCommand : Prop :=
  (∀ (c : Instr) (rest : List Instr) (s : State), step { s with pending := c :: rest } = exec c { s with pending := rest })
    ∧ ∀ s : State, s.pending = [] → step s = .next s

/-- No command stops the device, and none touches the commands that wait behind it: they run in the order in which they came. -/
def Obligations.EveryCommandAnswersAndLeavesTheQueue : Prop :=
  ∀ (c : Instr) (s : State), ∃ t, exec c s = .next t ∧ t.pending = s.pending

/-- From every state with the invariant, a step gives a state with it: memory keeps its canonical form (log entry 3), the listed
registers rise, and a device without an operator root holds neither a fleet secret nor a sub-port key (R444). -/
def Obligations.EveryStepKeepsTheInvariant : Prop :=
  ∀ s t : State, s.Inv → step s = .next t → t.Inv

/-- What reset leaves (R6, R54, R101, R448, R457, R466, R476): the invariant; no command, request, leaf, sequence or hold; every partition FREE,
every domain OFF, PHASE 0, no seal, no cause, and every register at the Reset value of its table. -/
def Obligations.ResetHoldsTheResetValues : Prop :=
  State.reset.Inv ∧ State.reset.pending = [] ∧ State.reset.reqs = [] ∧ State.reset.leaves = [] ∧ State.reset.seqs = [] ∧ State.reset.holds = []
  ∧ State.reset.vfEnable = false ∧ State.reset.phase = 0 ∧ (∀ p, p < 128 → State.reset.pstate p = 0) ∧ (∀ d, (State.reset.pd d).state = 0)
  ∧ State.reset.get F.CUPOLA_BUDGET_WATTS = 650 ∧ State.reset.get F.CUPOLA_SLEW_A_PER_US = 160 ∧ State.reset.get F.GLB_SEAL_SEALED = 0
  ∧ (∀ i, i < 32 → State.reset.get F.BELFRY_GRP_CAUSE_CAUSE i = 0)
  ∧ (∀ n, 16 ≤ n → n < 56 → State.reset.regWord (0x800000 + 4 * n) 0 = 0x10042) ∧ (∀ n, 56 ≤ n → n < 64 →
    State.reset.regWord (0x800000 + 4 * n) 0 = 0x10043)
  ∧ ∀ off word0, off < 0x800040 ∨ 0x800100 ≤ off → State.reset.regWord off word0 = word0

/-- Doorbell writes (R59, R60, R66, R67, R69, R70). One that the device accepts sets TAIL or HEAD, and nothing else but what the outside has
done to memory; one that it drops sets DB_ERR of the ring and leaves the ring, the register, the cause and bits 15:0 of the value in
HP_DB_ERR, and neither TAIL nor HEAD moves. -/
def Obligations.DoorbellsMoveOrAreRecorded : Prop :=
  ((∀ (e : Env) (fn page size val q : Nat) (s : State), s.ringOf fn page = some q → (size = 4 ∨ size = 8) →
    s.doorbellCause fn q true (s.on F.HP_SQ_CFG_ENABLE q) = none → val < 2 ^ s.get F.HP_SQ_CFG_LOG2_SIZE q → val < 65536 →
    ∃ t, exec (.sqTail e fn page 0 size val) s = .next t ∧ t.get F.HP_SQ_TAIL_TAIL q = val
      ∧ t = (s.enter e).put F.HP_SQ_TAIL_TAIL val q)
  ∧ ∀ (e : Env) (fn page size val c : Nat) (s : State), s.ringOf fn page = some c → (size = 4 ∨ size = 8) →
    s.doorbellCause fn c true (s.on F.HP_CQ_CFG_ENABLE c) = none → val < 2 ^ s.get F.HP_CQ_CFG_LOG2_SIZE c → val < 65536 →
    (val + 2 ^ s.get F.HP_CQ_CFG_LOG2_SIZE c - s.get F.HP_CQ_HEAD_HEAD c) % 2 ^ s.get F.HP_CQ_CFG_LOG2_SIZE c ≤ s.cqUnreturned c →
    ∃ t, exec (.cqHead e fn page 8 size val) s = .next t ∧ t.get F.HP_CQ_HEAD_HEAD c = val
      ∧ t = (s.enter e).put F.HP_CQ_HEAD_HEAD val c)
  ∧ (∀ (e : Env) (fn page size val q cause : Nat) (s : State), s.ringOf fn page = some q → (size = 4 ∨ size = 8) →
    (s.doorbellCause fn q true (s.on F.HP_SQ_CFG_ENABLE q) = some cause
      ∨ s.doorbellCause fn q true (s.on F.HP_SQ_CFG_ENABLE q) = none ∧ cause = 4 ∧ 2 ^ s.get F.HP_SQ_CFG_LOG2_SIZE q ≤ val) →
    ∃ t, exec (.sqTail e fn page 0 size val) s = .next t ∧ t.get F.HP_SQ_STATUS_DB_ERR q = 1 ∧ t.get F.HP_DB_ERR_VALID = 1
      ∧ t.get F.HP_DB_ERR_RING = q % 1024 ∧ t.get F.HP_DB_ERR_HEAD_REG = 0 ∧ t.get F.HP_DB_ERR_CAUSE = cause % 8
      ∧ t.get F.HP_DB_ERR_VALUE = val % 65536 ∧ (s.on F.HP_DB_ERR_VALID = true → t.get F.HP_DB_ERR_OVERFLOW = 1)
      ∧ t.get F.BELFRY_GRP_CAUSE_CAUSE gHostPort % 2 = 1
      ∧ ∀ k, t.get F.HP_SQ_TAIL_TAIL k = s.get F.HP_SQ_TAIL_TAIL k ∧ t.get F.HP_CQ_HEAD_HEAD k = s.get F.HP_CQ_HEAD_HEAD k)
  ∧ ∀ (e : Env) (fn page size val c cause : Nat) (s : State), s.ringOf fn page = some c → (size = 4 ∨ size = 8) →
    s.doorbellCause fn c true (s.on F.HP_CQ_CFG_ENABLE c) = some cause →
    ∃ t, exec (.cqHead e fn page 8 size val) s = .next t ∧ t.get F.HP_CQ_STATUS_DB_ERR c = 1 ∧ t.get F.HP_DB_ERR_VALID = 1
      ∧ t.get F.HP_DB_ERR_RING = c % 1024 ∧ t.get F.HP_DB_ERR_HEAD_REG = 1 ∧ t.get F.HP_DB_ERR_CAUSE = cause % 8
      ∧ t.get F.HP_DB_ERR_VALUE = val % 65536
      ∧ ∀ k, t.get F.HP_SQ_TAIL_TAIL k = s.get F.HP_SQ_TAIL_TAIL k ∧ t.get F.HP_CQ_HEAD_HEAD k = s.get F.HP_CQ_HEAD_HEAD k

/-- Enabling and disabling the rings of a READY device, written by the function that serves an ACTIVE partition (R63, R64, R65). -/
def Obligations.RingsAreEnabledAndDisabled : Prop :=
  ∀ (e : Env) (fn q val : Nat) (s : State), q < 1024 → s.ready = true → s.partActive (q / 8) = true →
    (fn = 0 ∧ s.vfEnabled (q / 8) = false ∨ fn ≠ 0 ∧ s.vfEnabled fn = true ∧ q / 8 = fn) →
    (s.on F.HP_SQ_STATUS_ACTIVE q = false → (s.sqFields q val).sqEnableOk q = true →
      ∃ t, exec (.sqEnable e fn q val) s = .next t ∧ t.get F.HP_SQ_CFG_ENABLE q = 1 ∧ t.get F.HP_SQ_STATUS_HEAD q = 0
        ∧ t.get F.HP_SQ_TAIL_TAIL q = 0 ∧ t.get F.HP_SQ_STATUS_ACTIVE q = 1)
    ∧ (s.on F.HP_SQ_STATUS_ACTIVE q = false → (s.sqFields q val).sqEnableOk q = false →
      ∃ t, exec (.sqEnable e fn q val) s = .next t ∧ t.get F.HP_SQ_STATUS_ENABLE_ERR q = 1
        ∧ t.get F.HP_SQ_CFG_ENABLE q = s.get F.HP_SQ_CFG_ENABLE q ∧ t.get F.HP_SQ_STATUS_ACTIVE q = 0)
    ∧ (s.on F.HP_SQ_STATUS_ACTIVE q = true → s.on F.HP_SQ_CFG_ENABLE q = false →
      ∃ t, exec (.sqEnable e fn q val) s = .next t ∧ t = (s.enter e).put F.HP_SQ_STATUS_ENABLE_ERR 1 q)
    ∧ (s.on F.HP_SQ_CFG_ENABLE q = true → exec (.sqDisable e fn q val) s = .next ((s.enter e).put F.HP_SQ_CFG_ENABLE 0 q))
    ∧ (s.on F.HP_SQ_STATUS_ACTIVE q = true → s.on F.HP_SQ_CFG_ENABLE q = false → s.get F.HP_SQ_INFLIGHT_COUNT q = 0 →
      exec (.sqInactive e q) s = .next ((s.enter e).put F.HP_SQ_STATUS_ACTIVE 0 q))
    ∧ (s.on F.HP_CQ_CFG_ENABLE q = false → 6 ≤ bits val 4 0 → bits val 4 0 ≤ 16 → bits val 18 8 < vectorsOf (s.ownerFn (q / 8)) →
      ∃ t, exec (.cqEnable e fn q val) s = .next t ∧ t.get F.HP_CQ_CFG_ENABLE q = 1 ∧ t.get F.HP_CQ_STATUS_TAIL q = 0
        ∧ t.get F.HP_CQ_HEAD_HEAD q = 0 ∧ t.get F.HP_CQ_STATUS_PHASE q = 1 ∧ t.get F.HP_CQ_STATUS_ACTIVE q = 1)
    ∧ (s.on F.HP_CQ_CFG_ENABLE q = true → s.cqNamed q = false → (s.cqs.getD q {}).reserved = 0 →
      ∃ t, exec (.cqDisable e fn q val) s = .next t ∧ t.get F.HP_CQ_CFG_ENABLE q = 0 ∧ t.get F.HP_CQ_STATUS_ACTIVE q = 0)
    ∧ (s.on F.HP_CQ_CFG_ENABLE q = true → (s.cqNamed q = true ∨ (s.cqs.getD q {}).reserved ≠ 0) →
      exec (.cqDisable e fn q val) s = .next ((s.enter e).put F.HP_CQ_STATUS_ENABLE_ERR 1 q))

/-- A fetch admits the entries HEAD to HEAD + n - 1 in ring order (R71, R72): HEAD passes them, and each becomes a request that
holds its bytes, its place in the ring and the number of the partition. -/
def Obligations.FetchAdmitsInRingOrder : Prop :=
  ∀ (e : Env) (q n : Nat) (s : State) (bs : Bytes), (s.enter e).fetchOk q n = true → (s.enter e).entriesRead q n = .ok bs →
    s.get F.HP_SQ_STATUS_HEAD q < 2 ^ s.get F.HP_SQ_CFG_LOG2_SIZE q → s.get F.HP_SQ_CFG_LOG2_SIZE q ≤ 16 →
    ∃ t, exec (.descriptorFetch e q n) s = .next t ∧ t.reqSeq = s.reqSeq + n
      ∧ t.get F.HP_SQ_STATUS_HEAD q = (s.get F.HP_SQ_STATUS_HEAD q + n) % 2 ^ s.get F.HP_SQ_CFG_LOG2_SIZE q
      ∧ (∀ k, k < s.reqSeq → t.reqs.get? k = s.reqs.get? k)
      ∧ (∀ k, k < n → ∃ r, t.reqs.get? (s.reqSeq + k) = some r ∧ r.origin = .ring q ∧ r.part = q / 8 ∧ r.phase = .fetched
          ∧ r.ringSeq = (s.sqs.getD q {}).seqNo + k
          ∧ r.sqHead = (s.get F.HP_SQ_STATUS_HEAD q + k + 1) % 2 ^ s.get F.HP_SQ_CFG_LOG2_SIZE q
          ∧ r.entry = padTo 64 (Memory.readBytes (s.enter e).mem (memKey 0 (s.sqBase q
              + (s.get F.HP_SQ_STATUS_HEAD q + k) % 2 ^ s.get F.HP_SQ_CFG_LOG2_SIZE q * s.descSize q)) (s.descSize q)))
      ∧ t.mem = (s.enter e).mem ∧ t.leaves = s.leaves ∧ t.seqs = s.seqs

/-- Entries whose read fails are admitted and complete without effect (R530): no request of theirs is left, and everything that a
completion may not change is as it was but for the count of requests and of the ring's bursts. -/
def Obligations.FailedEntriesCompleteWithoutEffect : Prop :=
  ∀ (e : Env) (q n : Nat) (poisoned : Bool) (s : State), (s.enter e).fetchOk q n = true →
    (∀ k, s.reqSeq ≤ k → s.reqs.get? k = none) →
    ∃ t, exec (.submissionReadFail e q n poisoned) s = .next t ∧ (∀ k, t.reqs.get? k = s.reqs.get? k)
      ∧ t.reqSeq = s.reqSeq + n ∧ t.settled = { ((s.enter e).countBurst q).settled with reqSeq := s.reqSeq + n }

/-- A descriptor starts (R77, R86): the request keeps its merged operands, its ordering domain, its deadline and what it fixes of the
store at its start, it takes the next number of work, and nothing else changes. -/
def Obligations.DescriptorsStartInOrder : Prop :=
  ∀ (e : Env) (rid : Nat) (s : State) (r r0 r1 : Req) (en : Bytes) (row : OpRow),
    s.reqs.get? rid = some r → r.phase = .fetched → s.inSr = false → (s.enter e).mayStart rid r = true → s.leaving r.part = false →
    r0 = { r with phase := .started, startTime := (s.enter e).time, jobNo := s.jobSeq } → r.row? = some row →
    (s.enter e).startEncoding r0 (s.boundDomain r.part).isSome = .go en →
    r1 = { r0 with entry := en, snap := s.snapOf { r0 with entry := en }, dom := s.domOf { r0 with entry := en } } →
    s.descTagOk r1 = true → (row.part0 = false ∨ r.part = 0) → s.isRemote r1 row = false →
    (row.write = true → r1.fIndependent = false → s.failed.contains (r.origin.key, r1.dom) = false) →
    s.checkHandle r1 row = .ok → ((s.enter e).startDeadline r1 row).2 = false →
    ∃ t, exec (.descriptorStart e rid) s = .next t ∧ t.reqs.get? rid = some ((s.enter e).startDeadline r1 row).1
      ∧ (∀ k, k ≠ rid → t.reqs.get? k = s.reqs.get? k) ∧ { t with reqs := s.reqs } = { s.enter e with jobSeq := s.jobSeq + 1 }

/-- The moderation delay of a completion ring is over (R85): one signal on the ring's vector covers the entries written before. -/
def Obligations.DelayedCompletionsSignalOnce : Prop :=
  ∀ (e : Env) (c : Nat) (s : State), s.on F.HP_CQ_CFG_IRQ_EN c = true → (s.cqs.getD c {}).unsignalled ≠ 0 →
    s.get F.HP_CQ_MOD_DELAY_US c ≠ 0 → (s.cqs.getD c {}).oldest + s.get F.HP_CQ_MOD_DELAY_US c * 1000 ≤ max s.time e.t →
    s.get F.HP_CQ_CFG_VECTOR c ≠ 0 →
    ∃ t, exec (.cqModDelayExpiry e c) s = .next t ∧ t.out = .msix (s.ownerFn (c / 8)) (s.get F.HP_CQ_CFG_VECTOR c) :: s.out
      ∧ (t.cqs.getD c {}).unsignalled = 0 ∧ t.txqs = ((s.enter e).hostFrame (c / 8) 4).txqs
      ∧ t.partQs = ((s.enter e).hostFrame (c / 8) 4).partQs
      ∧ { t with out := s.out, cqs := s.cqs, txqs := s.txqs, partQs := s.partQs } = s.enter e

/-- A Function Level Reset (R61) and the VF Enable bit (R54, R59): unstarted descriptors of the function's rings are gone, started
ones go on silently, the register sets of the rings read their reset values, and the store is as it was. -/
def Obligations.FunctionResetsStopRings : Prop :=
  (∀ (e : Env) (fn : Nat) (s : State), fn = 0 ∨ s.vfEnabled fn = true →
    ∃ t, exec (.functionLevelReset e fn) s = .next t
      ∧ (∀ k r, t.reqs.get? k = some r → r.ofRings fn = true → r.phase ≠ .fetched ∧ r.silent = true)
      ∧ (∀ off, 0x210000 + fn * 0x200 ≤ off → off < 0x210200 + fn * 0x200 → t.regs.get? off = none)
      ∧ (∀ off, 0x220000 + fn * 0x200 ≤ off → off < 0x220200 + fn * 0x200 → t.regs.get? off = none)
      ∧ t.leaves = s.leaves ∧ t.seqs = s.seqs ∧ t.parts = s.parts ∧ t.roots = s.roots ∧ t.mem = (s.enter e).mem)
  ∧ (∀ (e : Env) (num : Nat) (s : State), s.vfEnable = false →
    ∃ t, exec (.vfEnableChange e true num) s = .next t ∧ t.vfEnable = true ∧ t.numVfs = min num 127 ∧ t.regs = s.regs)
  ∧ ∀ (e : Env) (num : Nat) (s : State), s.vfEnable = true →
    ∃ t, exec (.vfEnableChange e true num) s = .next t ∧ t.numVfs = s.numVfs ∧ t.regs = s.regs

/-- Completions (R75, R79, R88): a completion, failed or not, frees its request and leaves the store as it is; NOP and FENCE, once started,
complete OK. -/
def Obligations.CompletionsLeaveTheStore : Prop :=
  (∀ (s : State) (rid : Nat) (st : Status) (c : Cpl),
    (s.complete rid st c).reqs.get? rid = none ∧ (∀ k, k ≠ rid → (s.complete rid st c).reqs.get? k = s.reqs.get? k)
      ∧ (s.complete rid st c).settled = s.settled)
  ∧ (∀ (e : Env) (rid : Nat) (s : State) (r : Req), s.startedReq? rid [0x00] = some r →
    ∃ t, exec (.nop e rid) s = .next t ∧ t = (s.enter e).complete rid .ok ∧ t.reqs = s.reqs.erase rid)
  ∧ ∀ (e : Env) (rid : Nat) (s : State) (r : Req), s.startedReq? rid [0x01] = some r →
    ∃ t, exec (.fence e rid) s = .next t ∧ t = (s.enter e).complete rid .ok ∧ t.reqs = s.reqs.erase rid

/-- The completion of a request of a submission ring (R82, R83): 32 bytes at the next index of its completion ring, with the tag, the
status, the phase, the ring, the head and the time; TAIL moves on, the phase turns at the end of the ring, and no other byte of
memory changes. (In confidential host mode a tag is written behind the ring as well, R435.) -/
def Obligations.CompletionsWriteOneEntry : Prop :=
  ∀ (s : State) (rid : Nat) (st : Status) (c : Cpl) (r : Req) (q cq i ph n : Nat),
    s.reqs.get? rid = some r → r.origin = .ring q → q < 1024 → r.part < 128 → r.silent = false → cq = s.cqOf q →
      s.on F.HP_CQ_STATUS_ACTIVE cq = true →
    i = s.get F.HP_CQ_STATUS_TAIL cq → ph = s.get F.HP_CQ_STATUS_PHASE cq → n = s.get F.HP_CQ_CFG_LOG2_SIZE cq → i < 2 ^ n → n ≤ 16 →
    s.confidential (cq / 8) = false → s.rangeFails (s.cqBase cq + i * 32) 32 = false → Memory.wf s.mem = true →
    Memory.readBytes (s.complete rid st c).mem (s.cqBase cq + i * 32) 32
        = cplBytes r.tag st { c with beatLost := c.beatLost || r.beatLost } ph q r.sqHead s.time
      ∧ (s.complete rid st c).get F.HP_CQ_STATUS_TAIL cq = (i + 1) % 2 ^ n
      ∧ (s.complete rid st c).get F.HP_CQ_STATUS_PHASE cq = (if i + 1 = 2 ^ n then 1 - ph else ph)
      ∧ ∀ a, (a < s.cqBase cq + i * 32 ∨ s.cqBase cq + i * 32 + 32 ≤ a) →
          Memory.readByte (s.complete rid st c).mem a = Memory.readByte s.mem a

/-- Opening a sequence, keeping its lease and losing it (R19, R37 to R39, R79, R92, R122). A new sequence takes a free record, one
generation up; a PUBLISHED one is opened again; both give the lease to the requester, and a heartbeat renews it. A lease that has
expired with no write of the holder in progress ends. -/
def Obligations.SequencesOpenUnderALease : Prop :=
  (∀ (e : Env) (rid : Nat) (s s1 : State) (r : Req) (slot : Slot Bytes) (k : Nat) (s2 : State), s1 = s.enter e →
    s1.startedReq? rid [0x10] = some r → r.handle = 0 → s1.shapeNow? r.part r.shapeIndex = some slot →
    (r.openShared = true → r.snap.member = true) → (r.openPersist = 1 → s1.journalFull = false) → s1.recRoom 2 = true →
    s1.pick (fun k => (s1.seq k).state != .free || (s1.seq k).withheld) (2 ^ 28) = (some k, s2) →
    ∃ q t, exec (.seqOpen e rid) s = .next t
      ∧ t = (s2.setSeq k q).completeJournaled rid ((s2.setSeq k q).seqRecs k) .ok { result0 := (s2.setSeq k q).seqHandle k }
      ∧ q.state = .openS ∧ q.generation = (s.seq k).generation + 1 ∧ q.partition = r.part ∧ q.shapeIndex = r.shapeIndex
      ∧ q.shapeEpoch = slot.epoch ∧ q.adapterId = r.openAdapter ∧ q.tierHints = r.openHints ∧ q.chunks = [] ∧ q.openTokens = 0
      ∧ q.publishedChunks = 0 ∧ q.ruleSetEpoch = r.snap.ruleEpoch ∧ q.lastHash = s2.seedOf r.openShared r.part r.openGroup
      ∧ (q.holderKind, q.holderIndex, q.holderPosition) = s.holderOf r.origin ∧ q.leaseExpiry = s.leaseEnd r.part r.startTime)
  ∧ (∀ (e : Env) (rid : Nat) (s s1 : State) (r : Req) (k : Nat) (q : Sequ), s1 = s.enter e → s1.startedReq? rid [0x10] = some r →
    r.handle ≠ 0 → k = hSeq r.handle → (s.seq k).state = .published → (s1.seqJournaled (s.seq k) = true → s1.journalFull = false) →
    q = s.giveLease { s.seq k with state := .openS } r.origin r.startTime →
    exec (.seqOpen e rid) s = .next ((s1.setSeq k q).completeJournaled rid ((s1.setSeq k q).seqRecs k) .ok
      { result0 := (s1.setSeq k q).seqHandle k, result1 := (s.seq k).publishedChunks }))
  ∧ (∀ (e : Env) (rid : Nat) (s s1 : State) (r : Req) (k : Nat) (q : Sequ), s1 = s.enter e → s1.startedReq? rid [0x15] = some r →
    k = hSeq r.handle → s.isHolder (s.seq k) r.origin = true → q = s.giveLease (s.seq k) r.origin r.startTime →
    q.leaseExpiry = r.startTime + s.get F.PART_LEASE_CFG_LEASE_MS (s.seq k).partition * 1000000
      ∧ exec (.seqHeartbeat e rid) s = .next ((s1.setSeq k q).complete rid .ok { result0 := q.leaseExpiry }))
  ∧ ∀ (e : Env) (k : Nat) (s s1 : State), s1 = s.enter e → (s.seq k).state = .openS → (s.seq k).leaseExpiry ≤ s1.time →
    s.holderBusy k = false →
    ∃ t, exec (.leaseExpiry e k) s = .next t ∧ t.seqs = (s1.endLease k).seqs
      ∧ (t.seq k).state = .published ∧ ((t.seq k).holderKind, (t.seq k).holderIndex, (t.seq k).holderPosition) = (0, 0, 0)

/-- An operation of the holder that writes (R39, R48, R80, R81): the lease is renewed, and the values read are laid over the open
chunks; a full chunk waits for its seal, and the last seal of a descriptor commits it or starts its durable programs. -/
def Obligations.WritesOfTheHolderRenewTheLease : Prop :=
  (∀ (e : Env) (rid : Nat) (s s1 s2 : State) (r : Req) (k : Nat) (toks : List Nat) (bs : Bytes), s1 = s.enter e →
    s1.startedReq? rid [0x11] = some r → k = hSeq r.handle → s1.isHolder (s1.seq k) r.origin = true →
    s2 = s1.setSeq k (s1.giveLease (s1.seq k) r.origin r.startTime) →
    s2.shapeBad (s1.seq k).partition (s1.seq k).shapeIndex (s1.seq k).shapeEpoch = false → r.addr16 = 0 →
    s2.tokenRead r r.addr24 (4 * r.appendCount) = .ok bs → toks = tokensOf r.appendCount bs → toks.any (fun t => t ≥ 2 ^ 20) = false →
    exec (.seqAppend e rid) s = .next (s2.appendRead rid r k (s2.seqShape (s2.seq k)) toks []))
  ∧ (∀ (e : Env) (rid : Nat) (s s1 s2 : State) (r : Req) (k size : Nat) (f : FpFmt) (sh bs : Bytes) (bl : List Bytes), s1 = s.enter e →
    s1.startedReq? rid [0x11] = some r → k = hSeq r.handle → s1.isHolder (s1.seq k) r.origin = true →
    s2 = s1.setSeq k (s1.giveLease (s1.seq k) r.origin r.startTime) →
    s2.shapeBad (s1.seq k).partition (s1.seq k).shapeIndex (s1.seq k).shapeEpoch = false → r.addr16 ≠ 0 → r.appendFormat ≠ 0 →
    plainFmt? r.appendFormat = some f → sh = s2.seqShape (s2.seq k) → size = 2 * shHeads sh * r.appendCount * shDim sh * f.bytes →
    (r.appendStride = 0 ∨ size ≤ r.appendStride) → s2.tokenRead r r.addr24 (4 * r.appendCount) = .ok bs →
    (tokensOf r.appendCount bs).any (fun t => t ≥ 2 ^ 20) = false →
    s2.readBlocks r r.addr16 (if r.appendStride = 0 then size else r.appendStride) size (shLayers sh) = .inl bl →
    (bl.map (layerBlock f (shHeads sh) (shDim sh) r.appendCount)).any blockBad = false →
    exec (.seqAppend e rid) s = .next (s2.appendRead rid r k sh (tokensOf r.appendCount bs)
      (bl.map (layerBlock f (shHeads sh) (shDim sh) r.appendCount))))
  ∧ (∀ (e : Env) (rid : Nat) (s s1 s2 : State) (r : Req) (k u : Nat) (f : FpFmt) (sh bs : Bytes) (q : Sequ), s1 = s.enter e →
    s1.startedReq? rid [0x21] = some r → k = hSeq r.handle → s1.isHolder (s1.seq k) r.origin = true →
    s2 = s1.setSeq k (s1.giveLease (s1.seq k) r.origin r.startTime) →
    s2.shapeBad (s1.seq k).partition (s1.seq k).shapeIndex (s1.seq k).shapeEpoch = false → q = s2.seq k → sh = s2.seqShape q →
    u = q.firstUnsealed → r.writeLayer < shLayers sh → r.writeCount ≤ shTpl sh → r.writeFormat ≠ 0 → plainFmt? r.writeFormat = some f →
    (∀ x ∈ writeSpots u (shTpl sh) r.writeFirst r.writeCount, ∃ c, q.chunks[x.1]? = some c ∧ c.isSealed = false ∧ x.2 < c.tokenCount) →
    s2.bufRead r 2 r.addr16 (2 * shHeads sh * r.writeCount * shDim sh * f.bytes) = .ok bs →
    blockBad (layerBlock f (shHeads sh) (shDim sh) r.writeCount bs) = false →
    exec (.leafWrite e rid) s = .next (s2.leafWriteRead rid r k sh (layerBlock f (shHeads sh) (shDim sh) r.writeCount bs)))
  ∧ ∀ (e : Env) (k n rid : Nat) (s s1 s2 : State) (r : Req) (pl pl' : Plan) (c : Chunk) (ls : Table Leaf), s1 = s.enter e →
    s1.sealer? k n = some (rid, r, pl) → s1.anyCluster = true → s1.anySlice = true → pl.chunks.find? (fun c => c.number == n) = some c →
    s1.sealLayers (s1.seq k) c pl.staged (pl.durables.contains n) c.leaves 0 = (ls, s2) →
    pl' = { pl with done := n :: pl.done, sealedLeaves := ls.foldl (fun t x => Table.set x.1 x.2 t) pl.sealedLeaves } →
    exec (.chunkSeal e k n) s = .next (if pl'.done.length < pl.ready.length then s2.wait rid (.append pl')
      else if pl.durables = [] then s2.finishPlan rid r pl' else s2.programPlan rid pl')

/-- Publishing, forking, retiring and releasing a sequence (R23, R25, R37, R41, R42, R123). -/
def Obligations.SequencesPublishForkAndRetire : Prop :=
  (∀ (e : Env) (rid : Nat) (s s1 : State) (r : Req) (k : Nat), s1 = s.enter e → s1.startedReq? rid [0x12] = some r → k = hSeq r.handle →
    s1.isHolder (s1.seq k) r.origin = true → r.chunkCount16 ≤ (s1.seq k).firstUnsealed →
    (s1.seqJournaled (s1.seq k) = true → s1.journalFull = false) → r.release = false →
    ∃ t q recs, exec (.seqPublish e rid) s = .next t ∧ q.publishedChunks = max (s.seq k).publishedChunks r.chunkCount16
      ∧ t = (s1.setSeq k q).completeJournaled rid recs .ok { result0 := q.publishedChunks } ∧ q.state = (s.seq k).state
      ∧ q.totalChunks = (s.seq k).totalChunks)
  ∧ (∀ (e : Env) (rid : Nat) (s s1 : State) (r : Req), s1 = s.enter e → s1.startedReq? rid [0x13] = some r →
    ((s.seq (hSeq r.handle)).state = .retired → exec (.seqFork e rid) s = .next (s1.complete rid .evicted))
    ∧ ((s.seq (hSeq r.handle)).state ≠ .retired → (s.seq (hSeq r.handle)).publishedChunks < r.chunkCount16 →
      exec (.seqFork e rid) s = .next (s1.complete rid .notFound)))
  ∧ (∀ (e : Env) (rid : Nat) (s s1 s2 : State) (r : Req) (q : Sequ) (ep : Epoch) (k : Nat), s1 = s.enter e →
    s1.startedReq? rid [0x13] = some r → q = s1.seq (hSeq r.handle) → q.state ≠ .retired → r.chunkCount16 ≤ q.publishedChunks →
    (q.chunks.take r.chunkCount16).any (fun c => c.acts.noStore || (q.partition != r.part && c.acts.noShare)) = false →
    s1.forkEpoch r.part q = some ep → s1.journalFull = false →
    s1.recRoom (2 + chunkGranules (shLayers (s1.seqShape q)) 0 r.chunkCount16) = true →
    s1.pick (fun k => (s1.seq k).state != .free || (s1.seq k).withheld) (2 ^ 28) = (some k, s2) →
    ∃ new s3 recs, exec (.seqFork e rid) s = .next (s3.completeJournaled rid recs .ok { result0 := s3.seqHandle k, result1 := r.chunkCount16 })
      ∧ s3 = ((q.chunks.take r.chunkCount16).flatMap (·.leaves)).foldl
          (fun s i => s.setLeaf i { s.leaf i with refCount := (s.leaf i).refCount + 1 }) (s2.setSeq k new)
      ∧ new.chunks = q.chunks.take r.chunkCount16 ∧ new.publishedChunks = r.chunkCount16 ∧ new.state = .openS
      ∧ new.partition = r.part ∧ new.generation = (s.seq k).generation + 1
      ∧ (new.holderKind, new.holderIndex, new.holderPosition) = s.holderOf r.origin)
  ∧ (∀ (e : Env) (rid : Nat) (s s1 : State) (r : Req) (k : Nat), s1 = s.enter e → s1.startedReq? rid [0x14] = some r → k = hSeq r.handle →
    (s.seq k).state ≠ .retired → ((s.seq k).state = .openS → s1.isHolder (s1.seq k) r.origin = true) → (s1.seqJournaled (s1.seq k) = true →
      s1.journalFull = false) →
    ∃ s2 recs, exec (.seqRetire e rid) s = .next (s2.completeJournaled rid recs .ok) ∧ s2 = s1.retire k
      ∧ ∀ c ∈ (s2.seq k).chunks, c.leaves = [] ∧ c.tokens = [])
  ∧ (∀ (e : Env) (k : Nat) (s s1 : State), s1 = s.enter e → (s.seq k).state = .retired → s.seqNamed k = false →
    exec (.sequenceFree e k) s
      = .next ((s1.setSeq k { generation := (s.seq k).generation, withheld := (s.seq k).withheld }).releaseRules (s.seq k).partition))
  ∧ ∀ (e : Env) (owner leaf cid : Nat) (s s1 : State), s1 = s.enter e → s.stillReads owner leaf = false →
    exec (.holdRelease e owner leaf cid) s
      = .next (({ s1 with holds := s1.holds.erase { owner := owner, leaf := leaf, cid := cid } }).settle leaf)

/-- Reading a leaf (R23, R245): a LEAF_READ that passes its checks holds the leaf, counts the access, writes the leaf and completes. -/
def Obligations.LeafReadsHoldAndWrite : Prop :=
  ∀ (e : Env) (rid : Nat) (s s1 s2 s3 s4 : State) (r : Req) (i n : Nat) (v : View) (bs : Bytes), s1 = s.enter e →
    s1.startedReq? rid [0x20] = some r → i = hLeaf r.handle → (r.readConvert = true → (plainFmt? r.readFormat).isSome = true) →
    s1.leafGone r.handle = false → ((s.leaf i).partition = r.part ∨ (s.leaf i).noStore = false ∧ (s.leaf i).noShare = false) →
    ((s.leaf i).state = .filling → r.readConvert = true) → (s.leaf i).state ≠ .evicting → s1.viewShapeBad i = false →
    s1.canHold i = true → s1.anySlice = true → n = ((s1.chunkOfLeaf? i).map (·.number)).getD 0 →
    s1.takeView rid i n (match s1.chunkOfLeaf? i with | some c => s1.chunkBad c | none => false) = (v, s2) →
    s3 = (s2.access i).decodeAny v → s3.commitTime? r = none → s3.readFails v = false → s3.readOutput r v none = (bs, [], s4) →
    s4.dstOk r r.addr16 bs.length = true →
    (r.dstSpace = 0 → (s4.writeLines r 4 r.addr16 bs []).flushOk 0 (r.addr16 + bs.length - 1) = true) →
    exec (.leafRead e rid) s
      = .next ((s4.writeLines r 4 r.addr16 bs []).complete rid .ok { result0 := bs.length + v.count * 2 ^ 32 })

/-- Pins and evictions of a leaf (R30 to R32, R35). -/
def Obligations.LeafPinsAndEvictions : Prop :=
  ∀ (e : Env) (rid : Nat) (s s1 : State) (r : Req) (i : Nat) (l : Leaf), s1 = s.enter e → i = hLeaf r.handle → l = s.leaf i →
    s.leafGone r.handle = false →
    (s1.startedReq? rid [0x22] = some r → s1.pinCheck r.handle = none → l.noStore = false → l.pinCount < 255 → l.durable.isSome = true →
      s1.journalFull = false →
      exec (.leafPin e rid) s = .next (((s1.setLeaf i { l with pinCount := l.pinCount + 1, persist := .pinned }).journalLeaf i).complete
        rid .ok { result0 := l.pinCount + 1 }))
    ∧ (∀ c, s1.startedReq? rid [0x22] = some r → s1.pinCheck r.handle = none → l.noStore = false → l.pinCount < 255 → l.durable = none →
      s1.flashWritable = true → s1.flashRoom l.partition 1 = true → s1.pinBusy i = false → l.goodCopy = some c →
      exec (.leafPin e rid) s = .next (((s1.openGroup { rid := some rid }).2.programLeaf s1.flash.nextGroup i
          { l with pinCount := l.pinCount + 1, persist := .pinned } c).wait rid
        (.journal s1.flash.nextGroup .ok { result0 := l.pinCount + 1 })))
    ∧ (s1.startedReq? rid [0x23] = some r → s1.pinCheck r.handle = none → l.pinCount = 0 →
      exec (.leafUnpin e rid) s = .next (s1.complete rid .ok))
    ∧ (s1.startedReq? rid [0x23] = some r → s1.pinCheck r.handle = none → l.pinCount ≠ 0 → s1.journalFull = false →
      exec (.leafUnpin e rid) s = .next (((s1.setLeaf i (l.repin (l.pinCount - 1))).journalLeaf i).complete rid .ok
        { result0 := l.pinCount - 1 }))
    ∧ (s1.startedReq? rid [0x24] = some r → (l.state = .filling ∨ l.pinCount ≠ 0 ∨ l.rulePin = true) →
      exec (.leafEvict e rid) s = .next (s1.complete rid .accessDenied))
    ∧ (s1.startedReq? rid [0x24] = some r → (l.state = .evicting ∨ l.state = .poisoned) → l.pinCount = 0 → l.rulePin = false →
      exec (.leafEvict e rid) s = .next (s1.complete rid .ok))
    ∧ (s1.startedReq? rid [0x24] = some r → (l.state = .sealed ∨ l.state = .migrating) → l.pinCount = 0 → l.rulePin = false →
      (l.journaled = true → s1.journalFull = false) →
      exec (.leafEvict e rid) s = .next (if (s1.evict i).flash.nextGroup = s.flash.nextGroup then (s1.evict i).complete rid .ok
        else ((s1.evict i).setGroup s.flash.nextGroup (fun x => { x with rid := some rid })).wait rid (.journal s.flash.nextGroup .ok {})))

/-- Migration (R282, R283): a LEAF_MIGRATE to another tier takes a place there, marks the leaf MIGRATING and waits; at the switch the
copy is the primary and the request completes, and a failed write of the destination leaves the leaf where it was, as does a tier without room. -/
def Obligations.MigrationsMoveALeaf : Prop :=
  (∀ (e : Env) (rid : Nat) (s s1 s2 : State) (r : Req) (i loc : Nat) (l : Leaf) (dest : Tier), s1 = s.enter e →
    s1.startedReq? rid [0x25] = some r → i = hLeaf r.handle → l = s.leaf i → dest = tierOf r.destTier → s1.migrateCheck r.handle dest = none →
    l.state ≠ .migrating →
    (dest = l.tier → exec (.leafMigrate e rid) s = .next (s1.complete rid .ok { result0 := dest.code }))
    ∧ (dest ≠ l.tier → dest = .flash → exec (.leafMigrate e rid) s
        = .next ((s1.setLeaf i { l with state := .migrating, destTier := .flash, destLocation := i }).wait rid (.migrate i .flash)))
    ∧ (dest ≠ l.tier → dest ≠ .flash → s1.allocSlot l.partition dest = (.slot loc, s2) → exec (.leafMigrate e rid) s
        = .next ((s2.setLeaf i { s2.leaf i with state := .migrating, destTier := dest, destLocation := loc }).wait rid (.migrate i dest))))
  ∧ (∀ (e : Env) (i : Nat) (s s1 : State) (l : Leaf), s1 = s.enter e → l = s.leaf i → s1.anyCluster = true → l.state = .migrating →
    l.rewriting = false → l.goodCopy ≠ none →
    (l.destTier ≠ .flash → exec (.migrationSwitch e i false) s = .next ((s1.moveTo i l.destTier l.destLocation).endMove i l.tier))
    ∧ (∀ s2, l.destTier = .flash → s1.dropToDurable i = some s2 → exec (.migrationSwitch e i false) s = .next (s2.endMove i l.tier))
    ∧ (l.destTier = .flash → s1.dropToDurable i = none → exec (.migrationSwitch e i false) s = .next (s1.failMove i))
    ∧ ∀ k, s1.mover? i = some k → exec (.migrationSwitch e i true) s
        = .next ((s1.setLeaf i { l with state := .sealed, destTier := .hbm, destLocation := 0 }).complete k .mediaError
          { result0 := l.tier.code }))
  ∧ ∀ (e : Env) (i k : Nat) (s s1 s2 : State) (l : Leaf), s1 = s.enter e → s.promos.contains i = true → s1.anyCluster = true →
    s.get F.TIER_MIG_CFG_PROMOTE_MBS ≠ 0 → l = s.leaf i → l.state = .sealed → l.tier ≠ .hbm → hintNoPromote l.place.hints = false →
    s.leaving l.partition = false → s1.withinLimit l.partition 0 2 = true → 0 < s1.hbmFree →
    ({ s1 with promos := s1.promos.filter (· != i) }).pick s1.hbmTaken s1.hbmSlots = (some k, s2) →
    exec (.promotion e i) s = .next ((s2.setLeaf i { s2.leaf i with state := .migrating, destTier := .hbm, destLocation := k }).bump
      F.TIER_PROMOTIONS_COUNT)

/-- The tier manager's background work (R267, R274, R278): the sweep halves a leaf's heat, relief takes partitions over their
reservation until free space is high, write-back programs the dirty quarters, and the re-encode sweep moves a leaf that is not
current and ends its scopes. -/
def Obligations.BackgroundWorkOfTheTiers : Prop :=
  (∀ (e : Env) (i : Nat) (s s1 : State) (l l' : Leaf), s1 = s.enter e → s.leaves.get? i = some l → s1.anyCluster = true →
    s.leaving l.partition = false → (l.shadowPresent = true → s1.shadowCovers l.partition l.tier = true) →
    l' = { l with place := { l.place with heat := l.place.heat / 2, lastTick := if s1.age l ≥ 2 ^ 23 then (s1.tick + 2 ^ 24 - 2 ^ 23) % 2 ^ 24
      else l.place.lastTick } } →
    exec (.placementSweepVisit e i) s = .next (((s1.setLeaf i l').settle i).leaveRetired i))
  ∧ (∀ (e : Env) (t : Nat) (s s1 : State), s1 = s.enter e → t ≤ 1 → s1.anyCluster = true →
    s1.tierFree t * 1024 < s1.get F.TIER_WATER_LOW t * s1.tierCap t →
    exec (.backgroundRelief e t) s
      = .next (s1.relieveAll (tierOf t) (fun s => s.tierFree t * 1024 ≥ s.get F.TIER_WATER_HIGH t * s.tierCap t)
          (fun s p => s.overResv p t 0 && !s.leaving p)))
  ∧ (∀ (e : Env) (i : Nat) (s s1 : State) (l : Leaf) (c d : Copy), s1 = s.enter e → l = s.leaf i → l.cur = some c → l.durable = some d →
    l.state = .sealed → s1.anyCluster = true → l.dirtyMask ≠ 0 → s1.flashWritable = true → c.spoilt = false → l.failedPrimary = false →
    s.leaving l.partition = false → (∀ g ∈ s.flash.groups, g.2.rid = none → ∀ x ∈ g.2.recs, ∀ j q pa k gen b, x = .map j q pa k gen b → j ≠ i) →
    exec (.writeBack e i) s = .next ((((s1.readPass l.partition c).openGroup {}).2.programQuarters s1.flash.nextGroup i c.hdr.compressedLength
        ((List.range 4).filter (fun q => bit l.dirtyMask q))).setGroup s1.flash.nextGroup
          (fun g => { g with recs := g.recs ++ [.leaf i (some { l with durable := some { c with tier := .flash, loc := i } })] })))
  ∧ ∀ (e : Env) (i : Nat) (s s1 s2 : State) (l : Leaf) (c : Copy) (slot : Nat), s1 = s.enter e → l = s.leaf i → l.primary = some c →
    l.state = .sealed → s1.copyCurrent l c = false → l.failedPrimary = false → s.leaving l.partition = false →
    s.on F.CODEC_CFG_SWEEP_EN = true → s1.anyCluster = true → s1.anySlice = true → l.tier = .hbm → s1.hbmFree ≠ 0 →
    s1.pick s1.hbmTaken s1.hbmSlots = (some slot, s2) →
    exec (.reencodeSweep e i) s
      = .next (((s2.setLeaf i { s2.leaf i with state := .migrating, destTier := .hbm, destLocation := slot }).rewrapShadow i).endSweeps)

/-- Prefix lookups (R90, R109, R112 to R114): the tokens are cut into chain hashes, the forward pass goes as far as a hash is
indexed, and the levels are confirmed from the longest down, over the partitions permitted when it started; a step returns the next
match of its context, or frees it unused for 1 s or foreign; a padded answer goes out at its time; an unused context is freed. -/
def Obligations.PrefixLookupsSearchByContent : Prop :=
  (∀ (e : Env) (rid : Nat) (s s1 s2 : State) (r : Req) (slot : Slot Bytes) (bs : Bytes) (toks hashes found perm : List Nat) (h0 : Nat)
      (hs : List Nat), s1 = s.enter e → s1.startedReq? rid [0x30] = some r → r.hashTag = none → s1.shapeNow? r.part r.lookShape = some slot →
    (r.lookShared = true → r.snap.member = true) → s1.anySlice = true → s1.shapeBad r.part r.lookShape slot.epoch = false →
    s1.tokenRead r r.addr16 (4 * r.lookCount) = .ok bs → toks = tokensOf r.lookCount bs → toks.any (fun t => t ≥ 2 ^ 20) = false →
    hashes = chainOf (shId slot.body) r.lookAdapter (shTpl slot.body) toks.length (s1.seedOf r.lookShared r.part r.lookGroup) toks →
    perm = r.snap.permitted.filter (fun q => !s1.hidden q) →
    (hashes = [] → exec (.prefixLookup e rid) s = .next (s1.completeLookup rid .notFound { detail := 0xFFFF }))
    ∧ (hashes = h0 :: hs → s1.otherOwner? r.snap.shards (shardBucket h0) = none →
      s1.forwardPass (r.lookKey (ctxTag (shId slot.body) r.lookAdapter)) perm hashes = (found, s2) →
      exec (.prefixLookup e rid) s
        = .next (s2.confirmFrom rid r (r.lookKey (ctxTag (shId slot.body) r.lookAdapter)) found perm found.length)))
  ∧ (∀ (e : Env) (rid : Nat) (s s1 : State) (r : Req) (c : Ctx), s1 = s.enter e → s1.startedReq? rid [0x31] = some r →
    s.ctxs.get? r.context = some c → c.part = r.part → s1.time < c.lastUse + 1000000000 →
    (∀ m m' rest, c.isRule = true → c.rules = m :: m' :: rest → ∃ cpl,
      exec (.prefixStep e rid) s = .next (({ s1 with ctxs := s1.ctxs.set r.context { c with rules := m' :: rest, lastUse := s1.time } }).completeLookup
        rid .ok cpl) ∧ cpl.result0 = m.rule % 2 ^ 10 + m.priority % 256 * 2 ^ 16 + m.action % 8 * 2 ^ 24 + m.token % 2 ^ 32 * 2 ^ 32)
    ∧ (∀ x rest, c.isRule = false → c.far = none → c.found = x :: rest → s.hidden x.partition = false → x.ringPos = s.pos →
      s.confirm x = true → exec (.prefixStep e rid) s = .next (s1.stepEmit rid r.context c x rest))
    ∧ (c.isRule = false → c.far = none → c.found = [] →
      exec (.prefixStep e rid) s = .next (({ s1 with ctxs := s1.ctxs.erase r.context }).completeLookup rid .notFound { detail := 0xFFFF })))
  ∧ (∀ (e : Env) (rid : Nat) (s s1 : State) (r : Req) (c : Ctx), s1 = s.enter e → s1.startedReq? rid [0x31] = some r →
    s.ctxs.get? r.context = some c → (c.part ≠ r.part ∨ c.lastUse + 1000000000 ≤ s1.time) →
    exec (.prefixStep e rid) s = .next (({ s1 with ctxs := s1.ctxs.erase r.context }).completeLookup rid .notFound { detail := 0xFFFF }))
  ∧ (∀ (e : Env) (rid t : Nat) (s s1 : State) (r : Req) (st : Status) (c : Cpl), s1 = s.enter e → s.reqs.get? rid = some r →
    r.wait = .pad t st c → t ≤ s1.time → exec (.lookupPadExpiry e rid) s = .next (s1.complete rid st c))
  ∧ ∀ (e : Env) (k : Nat) (s s1 : State) (c : Ctx), s1 = s.enter e → s.ctxs.get? k = some c → c.lastUse + 1000000000 ≤ s1.time →
    ∃ t, exec (.searchContextExpiry e k) s = .next t ∧ t.ctxs.get? k = none ∧ { t with ctxs := s.ctxs } = s1

/-- Changes of the prefix index (R105, R106, R115, R116): the published chunks of a live sequence are inserted in ascending order with
the priority of R106, and a range is removed in descending order, on the owner of their bucket. -/
def Obligations.IndexChangesOnTheOwner : Prop :=
  (∀ (e : Env) (rid : Nat) (s s1 : State) (r : Req) (k : Nat) (q : Sequ), s1 = s.enter e → s1.startedReq? rid [0x32] = some r →
    k = hSeq r.handle → q = s.seq k →
    ((q.state = .openS ∨ q.state = .published) →
      s1.shapeBad q.partition q.shapeIndex q.shapeEpoch = false ∧ (s1.seqJournaled q = true → s1.journalFull = false)) →
    (∀ c0, q.chunks.head? = some c0 → s1.otherOwner? r.snap.shards (shardBucket c0.hash) = none) →
    (s1.overQuota r.part r.chunkCount16 = true → exec (.prefixInsert e rid) s = .next (s1.complete rid .quotaExceeded))
    ∧ (∀ n failed s2, s1.overQuota r.part r.chunkCount16 = false → (q.state = .openS ∨ q.state = .published) →
      s1.insertAll ((insertChunks q r.chunkFirst24 r.chunkCount16).map (s1.indexEntry k q)) = (n, failed, s2) →
      exec (.prefixInsert e rid) s = .next (s2.finishInsert rid r n failed)))
  ∧ (∀ (e : Env) (rid : Nat) (s s1 s2 : State) (r : Req) (k n m : Nat) (q : Sequ), s1 = s.enter e → s1.startedReq? rid [0x33] = some r →
    k = hSeq r.handle → q = s.seq k → n = min r.chunkCount16 (q.chunks.length - r.chunkFirst24) →
    (s1.seqJournaled q = true → s1.journalFull = false) →
    (∀ c0, q.chunks.head? = some c0 → s1.otherOwner? r.snap.shards (shardBucket c0.hash) = none) →
    s1.removeRange s1.pos k q.generation q.partition r.chunkFirst24 n = (m, s2) →
    ∃ recs, exec (.prefixRemove e rid) s = .next (s2.completeJournaled rid recs .ok { result0 := m }))
  ∧ ∀ (s : State) (k : Nat) (q : Sequ) (c : Chunk) (w key : Nat),
    (s.indexEntry k q c).priority = (if c.acts.pin then 0xC0 else if c.acts.shortTtl then 0x20 else if q.persist ≠ .vol then 0x80 else 0x40)
      ∧ (rootCopy s w key (s.indexEntry k q c)).priority = (s.indexEntry k q c).priority

/-- The upkeep of Canopy (R100 to R102, R119): a promotion period that has ended moves the hot keys, and no entry has hits after it; a
respread acts on one bank and leaves the others as they are; a flush empties one bank, and of the others takes only the copies of the
keys it held; every unit that fails parity is counted and raises CANOPY, an
entry lost with its record matches nothing, and a lap is recorded. -/
def Obligations.CanopyUpkeep : Prop :=
  (∀ (e : Env) (s s1 : State), s1 = s.enter e → s.promoAt + max 1 (s.get F.CANOPY_PROMOTE_PERIOD_US) * 1000 ≤ s1.time →
    ∃ t, exec (.canopyPromote e) s = .next t ∧ (∀ b x y, (b, x) ∈ t.banks → y ∈ x.entries → y.2.hits = 0) ∧ t.promoAt = s1.time
      ∧ t = { s1.promoteHot.clearHits with promoAt := s1.time }
      ∧ (s.get F.CANOPY_PROMOTE_HITS = 0 → t = { s1.clearHits with promoAt := s1.time }))
  ∧ (∀ (e : Env) (s s1 : State), s1 = s.enter e → s1.time < s.promoAt + max 1 (s.get F.CANOPY_PROMOTE_PERIOD_US) * 1000 →
    exec (.canopyPromote e) s = .next s1)
  ∧ (∀ (e : Env) (b : Nat) (s s1 : State), s1 = s.enter e → b < 64 → s.on F.CANOPY_BANK_CFG_RESPREAD b = true →
    ∃ t, exec (.canopyRespread e b) s = .next t ∧ t.get F.CANOPY_BANK_CFG_RESPREAD b = 0
      ∧ (t.bank b).entries = respread (bankSlots (s.bankWidth b)) (2 ^ s.get F.CANOPY_BANK_CFG_HOLE_LOG2 b) ((s.bank b).entries.map (·.2))
      ∧ (∀ k, k ≠ b → t.bank k = s.bank k) ∧ { t with banks := s.banks, regs := s.regs } = s1)
  ∧ (∀ (e : Env) (failing lost : List (Nat × Nat)) (lap : Option Nat) (s s1 : State), s1 = s.enter e → (∀ x ∈ lost, x.1 < 64) →
    ∃ t, exec (.canopyParityScan e failing lost lap) s = .next t
      ∧ t.get F.CANOPY_PAR_COUNT_COUNT = min (s.get F.CANOPY_PAR_COUNT_COUNT + failing.length) (2 ^ 32 - 1)
      ∧ (failing ≠ [] → t.get F.BELFRY_GRP_CAUSE_CAUSE gCanopy % 2 = 1)
      ∧ (∀ us, lap = some us → t.get F.CANOPY_SCAN_LAP_LAST_US = min us (2 ^ 24 - 1)
        ∧ t.get F.CANOPY_SCAN_LAP_LAPS = (s.get F.CANOPY_SCAN_LAP_LAPS + 1) % 2 ^ 8)
      ∧ ∀ b i, (t.bank b).entries.get? i = if (b, i) ∈ lost then ((s.bank b).entries.get? i).map (fun x => { x with cleared := true })
          else (s.bank b).entries.get? i)
  ∧ ∀ (e : Env) (b : Nat) (s : State) (hs : List Nat), b < 64 → hs = (s.bank b).entries.filterMap (fun x => x.2.root.map (·.hash)) →
    ∃ t, exec (.canopyBankFlush e b) s = .next t ∧ (t.bank b).entries = []
      ∧ ∀ k, k < 64 → k ≠ b → (t.bank k).entries = (s.bank k).entries.filter (fun x => !(x.2.kind == .index && (match x.2.root with
          | some r => hs.contains r.hash | none => false)))

/-- ATTEND, SELECT and DELIVER (R158 to R163, R180, R190 to R194, R203, R205): with their operands in range, their query and their set read and
valid, the leaves are held in ascending order and the computation proceeds on what they hold, a masked leaf unread; a SELECT is scored
on the Lantern where its shape's policy and a usable group allow it: it takes its arrays, waits for their Cupola grant, and is scored on
them; and exactly on the Spires otherwise. Its sequence is as it was when the descriptor started. -/
def Obligations.AttendSelectAndDeliver : Prop :=
  (∀ (e : Env) (rid : Nat) (s s1 s2 : State) (r : Req) (q : Sequ) (sh qb : Bytes) (cs : List Nat) (vs : List View), s1 = s.enter e →
    s1.startedReq? rid [0x40] = some r → q = s1.seq (hSeq r.handle) → sh = s1.seqShape q →
    s1.shapeBad q.partition q.shapeIndex q.shapeEpoch = false → attendRange r sh = none → shPlanKind sh ≠ 0 →
    s1.bufRead r 3 r.addr16 (queryBytes sh r.attQueries r.attQueryBf16) = .ok qb → queryOk sh r.attQueries r.attQueryBf16 qb = true →
    (if r.addr32 = 0 then .inl ((List.range r.attCount).map (· + r.attFirst)) else s1.readList r r.addr32) = .inl cs →
    chunkChecks q (q.partition != r.part) cs = none → s1.canHoldAll q r.attLayer cs = true →
    s1.holdSet rid q r.attLayer (s1.attendJob rid r q sh qb (s1.peekSet q r.attLayer cs)).leafMasked cs = (.inl vs, s2) →
      exec (.attend e rid) s = .next (s2.attendHeld rid r q sh qb vs))
  ∧ (∀ (e : Env) (rid : Nat) (s s1 s2 : State) (r : Req) (q : Sequ) (sh qb : Bytes) (cs : List Nat) (j j' : Job) (fell : Bool), s1 = s.enter e →
    s1.startedReq? rid [0x41] = some r → q = (s1.seq (hSeq r.handle)).asOf r.snap → sh = s1.seqShape q →
    s1.shapeBad q.partition q.shapeIndex q.shapeEpoch = false → r.selLayer < shLayers sh → shPolicy sh ≠ 0 →
    s1.bufRead r 3 r.addr16 (queryBytes sh 1 r.selQueryBf16) = .ok qb → queryOk sh 1 r.selQueryBf16 qb = true →
    cs = (List.range r.selCount).map (· + r.selFirst) → chunkChecks q (q.partition != r.part) cs = none →
    j = { owner := .req rid, kind := 3, part := r.part, handle := r.handle, sh := sh, qblock := qb, qbf16 := r.selQueryBf16, layer := r.selLayer,
          k := r.selK, proxy := r.selProxy, pband := if r.selProxy then shProxyBand sh else 0, maxSpires := s1.spireLimit r.part sh,
          forced := forcedOf sh q cs } →
    (∀ as s3, (s1.exactWhy r.part sh = (false, fell) ∨ s1.onArrays (rid, 0) = true) →
      s1.arraysOf (rid, 0) sh (candsOf sh q cs).length = some as → s3 = s1.takeArrays (rid, 0) as →
      (s3.lanternGranted as = true → s3.runLantern j (s3.commitTime? r) q as (candsOf sh q cs) = (j', s2) →
        exec (.select e rid) s = .next (s2.finishSelect rid r j'))
      ∧ (s3.lanternGranted as = false → exec (.select e rid) s = .next s3))
    ∧ (s1.exactWhy r.part sh = (true, fell) → s1.onArrays (rid, 0) = false → s1.canHoldAll q r.selLayer (candsOf sh q cs) = true →
      s1.runExact rid j q (candsOf sh q cs) fell = (j', s2) → j'.views ≠ [] →
      exec (.select e rid) s = .next ((s2.wait rid (.job r.jobNo)).queueJob r.jobNo j')))
  ∧ ∀ (e : Env) (rid : Nat) (s s1 s2 : State) (r : Req) (q : Sequ) (sh : Bytes) (f : FpFmt) (cs : List Nat) (vs : List View), s1 = s.enter e →
    s1.startedReq? rid [0x42] = some r → q = s1.seq (hSeq r.handle) → sh = s1.seqShape q →
    s1.shapeBad q.partition q.shapeIndex q.shapeEpoch = false → s1.targetDenied r = false → deliverRange r sh = none → r.delFormat ≤ 4 →
    plainFmt? r.delFormat = some f → s1.anySlice = true →
    (if r.addr24 = 0 then .inl ((List.range r.delCount).map (· + r.delFirst)) else s1.readList r r.addr24) = .inl cs → s1.targetDown r = false →
    chunkChecks q (q.partition != r.part) cs = none → s1.canHoldAll q r.delLayer cs = true →
    s1.holdSet rid q r.delLayer (fun _ => false) cs = (.inl vs, s2) → exec (.deliver e rid) s = .next (s2.deliverHeld rid r sh f vs)

/-- Tables are loaded into the slot that is not current, whose epoch counts on (R51, R132, R133, R139, R173, R230): a shape and a
trained table become current at once, a rule set waits for RULES_SWITCH, an image goes into its own slot. -/
def Obligations.TablesAreLoaded : Prop :=
  (∀ (e : Env) (rid : Nat) (s s1 : State) (r : Req) (b : Bytes) (t t' : Slots Bytes), s1 = s.enter e → s1.startedLoad? rid 0 = some r →
    t = s1.shapeSlots r.part r.loadTarget → (t.other.loaded = true → s1.shapeUsers r.part r.loadTarget t.other.epoch = 0) →
    s1.bundleRead r = .ok b → shapeOk b (s1.get F.LANTERN_SUM_CFG_STRIDE) = true → t' = (t.load b).switch →
    exec (.tableLoadShape e rid) s
      = .next ((({ s1 with shapes := s1.shapes.set (r.part * 16 + r.loadTarget) t' }).clearBad 2 ((r.part * 16 + r.loadTarget) * 256 + t'.epoch.toNat)).complete
          rid .ok { result0 := t'.epoch.toNat }))
  ∧ (∀ {α : Type} (t : Slots α) (b : α), ((t.load b).switch).epoch = t.epoch + 1
      ∧ ((t.load b).switch).current?.map (·.body) = some b ∧ (t.load b).epoch = t.epoch)
  ∧ (∀ (e : Env) (rid : Nat) (s s1 : State) (r : Req) (b : Bytes) (rs : RuleSet), s1 = (s.enter e).releaseRules r.part →
    (s.enter e).startedLoad? rid 1 = some r →
    ((s1.ruleSlots r.part).other.loaded = true → s1.ruleTaken r.part (s1.ruleSlots r.part).other.epoch = false) →
    s1.bundleRead r = .ok b → parseRuleSet r.part b = some rs → exec (.tableLoadRuleSet e rid) s = .next (s1.loadRules rid r rs))
  ∧ (∀ (e : Env) (rid : Nat) (s s1 : State) (r : Req) (t : Slots RuleSet), s1 = s.enter e → s1.startedReq? rid [0x61] = some r →
    t = s1.ruleSlots r.part →
    (BitVec.ofNat 8 r.switchEpoch = t.epoch → exec (.rulesSwitch e rid) s = .next (s1.complete rid .ok { result0 := t.epoch.toNat }))
    ∧ (BitVec.ofNat 8 r.switchEpoch ≠ t.epoch → t.other.loaded = true → t.other.epoch = BitVec.ofNat 8 r.switchEpoch →
      exec (.rulesSwitch e rid) s = .next ((({ s1 with rules := s1.rules.set r.part t.switchRules }).releaseRules r.part).complete rid .ok
        { result0 := (BitVec.ofNat 8 r.switchEpoch : Epoch).toNat }))
    ∧ (BitVec.ofNat 8 r.switchEpoch ≠ t.epoch → t.other.loaded = false → exec (.rulesSwitch e rid) s = .next (s1.complete rid .notFound)))
  ∧ (∀ (e : Env) (rid : Nat) (s s1 : State) (r : Req) (b : Bytes) (slot : Bool) (x : Sched), s1 = s.enter e → s1.startedLoad? rid 2 = some r →
    slot = (r.loadTarget == 1) → x = s1.sched r.part → s1.slotBusy r.part slot = false →
    (r.loadLength = 0 → exec (.tableLoadScheduleImage e rid) s = .next ((s1.setSched r.part (x.setImg slot none)).complete rid .ok))
    ∧ (0 < r.loadLength → r.loadLength ≤ 2 ^ 20 → (x.img slot = none → s1.imagesLoaded < 4) → s1.bundleRead r = .ok b → imageOk b = true →
      exec (.tableLoadScheduleImage e rid) s
        = .next (((s1.setSched r.part ({ x with lastEpoch := x.lastEpoch + 1 }.setImg slot (some { bytes := b, epoch := x.lastEpoch + 1 }))).clearBad 3
            (r.part * 2 + r.loadTarget)).complete rid .ok { result0 := (x.lastEpoch + 1).toNat })))
  ∧ ∀ (e : Env) (rid : Nat) (s s1 : State) (r : Req) (f k : Nat) (xs : List (Nat × Leaf)), s1 = s.enter e → s1.startedReq? rid [0x62] = some r →
    f = r.trainFormat → k = scopeKey r.part r.shapeIndex f → (s1.shapeNow? r.part r.shapeIndex).isSome = true → 0 < f → f ≤ 11 →
    ((s1.scope k).slots.other.loaded = true → s1.codecUsers k (s1.scope k).slots.other.epoch = 0) → s1.anySlice = true →
    xs = s1.sampleLeaves r.part r.shapeIndex f (if r.trainSamples = 0 then 4096 else r.trainSamples) →
    (∀ x ∈ xs, x.2.goodCopy.isSome = true) → 16 ≤ xs.length →
    ∃ planes, planes.length = xs.length
      ∧ exec (.codecTrain e rid) s = .next ((xs.foldl (fun s x => s.checkTags x.1) s1).installTable rid k planes)

/-- The beat (R217 to R227): an edge, a frame or a mark of the domain's own source starts a layer; the first puts the tracker into
ACQUIRING at step 0, layer 0; no start within 2.25 periods puts it into LOST, where missing layers are synthesised; a change of
source restarts it. -/
def Obligations.BeatTracksLayerStarts : Prop :=
  (∀ (e : Env) (n t layers : Nat) (sync : Bool) (s s1 : State), s1 = s.enter e → n < 4 → s1.layersOf n ≠ 0 →
    (s1.beatSource n = 1 → s1.dieWorks 0 = true → exec (.beatPinEdge e n sync) s = .next (s1.sourceStart n s1.time sync))
    ∧ (s1.beatSource n = 3 → s1.get F.RING_STATUS_STATE = 3 → s1.get F.RING_STATUS_ROLE ≠ 1 → ((s1.beat n).state ≠ bOff ∨ layers = s1.layersOf n) →
        exec (.beatFrame e n t layers sync) s = .next (s1.takeStart n t sync))
    ∧ (s1.beatSource n = 3 → s1.get F.RING_STATUS_STATE = 3 → s1.get F.RING_STATUS_ROLE ≠ 1 → (s1.beat n).state = bOff → layers ≠ s1.layersOf n →
        exec (.beatFrame e n t layers sync) s = .next ((s1.takeStart n t sync).enterLost n)))
  ∧ (∀ (e : Env) (rid : Nat) (s s1 : State) (r : Req), s1 = s.enter e → s1.startedReq? rid [0x50] = some r →
    s1.beatSource r.markDomain = 2 →
    (r.part ≠ 0 → r.snap.bound = some r.markDomain ∧ r.snap.markEn = true) →
    s1.layersOf r.markDomain ≠ 0 → s1.isGlitch r.markDomain r.startTime = false →
    ∃ s2, s2 = s1.sourceStart r.markDomain r.startTime r.markSync ∧ exec (.beatMark e rid) s
      = .next (s2.complete rid .ok { result0 := mkPos (s2.beat r.markDomain).step (s2.beat r.markDomain).layer 0 }))
  ∧ (∀ (n t : Nat) (sync : Bool) (s : State), s.isGlitch n t = false → s.isMaster = false →
    (s.beat n).state = bOff → ((s.sourceStart n t sync).beat n).state = bAcquiring ∧ ((s.sourceStart n t sync).beat n).step = 0
      ∧ ((s.sourceStart n t sync).beat n).layer = 0 ∧ ((s.sourceStart n t sync).beat n).last = t
      ∧ ((s.sourceStart n t sync).beat n).accepted = some t ∧ ∀ m, m ≠ n → (s.sourceStart n t sync).beat m = s.beat m)
  ∧ (∀ (n t : Nat) (sync : Bool) (s : State), s.isGlitch n t = true →
    s.sourceStart n t sync = s.bump F.BEAT_COUNTS_GLITCHES 1 n)
  ∧ (∀ (e : Env) (n : Nat) (s s1 : State) (b : Beat), s1 = s.enter e → b = s.beat n →
    (b.state = bLocked → b.layer + 1 ≠ s.layersOf n → 9 * b.period ≤ 4 * (s1.time - b.last) →
      exec (.beatLostTimeout e n) s = .next (s1.enterLost n))
    ∧ (b.state = bLost → b.layer + 1 ≠ s.layersOf n → b.period ≠ 0 → b.last + b.period ≤ s1.time →
      exec (.beatSynthLayer e n) s
        = .next ((s1.setBeat n { b with layer := b.layer + 1, last := b.last + b.period }).bump F.BEAT_COUNTS_MISSED 1 n)))
  ∧ ∀ (e : Env) (n src : Nat) (s s1 : State), s1 = s.enter e → n < 4 → src < 4 → src ≠ s.beatSource n →
    (List.range 128).any (fun p => s1.boundDomain p == some n && s1.schedBusy p) = false →
    exec (.beatSourceChange e n src) s = .next ((s1.put F.BEAT_CFG_SOURCE src n).restartBeat n)

/-- Schedules (R230 to R237): SCHEDULE_ARM reads its entries and pends until its step, SCHEDULE_DISARM pends likewise, and at the step
the schedule changes over and the descriptor completes with the position. -/
def Obligations.SchedulesArmAtTheirStep : Prop :=
  (∀ (e : Env) (rid n : Nat) (s s1 : State) (r : Req) (im : SchedImg) (b : Bytes) (es : List Bytes) (x : Sched) (pd : SchedPend),
    s1 = s.enter e →
    s1.startedReq? rid [0x51] = some r → r.snap.bound = some n → bits r.deadlineField 31 10 = 0 → x = s1.sched r.part →
    x.img r.schedSlot = some im → (r.armFirst < imSlots im.bytes ∨ r.armCount = 0) → r.armFirst + r.armCount ≤ imSlots im.bytes →
    imLayers im.bytes = s1.layersOf n → s1.on F.HP_CQ_STATUS_ACTIVE (schedCq r.part im.bytes) = true → x.pend = none →
    s1.posPassed n (mkPos (s1.refStep n r) 0 0) = false → (r.addr24 ≠ 0 → s1.bufRead r 2 r.addr24 (16 * r.armCount) = .ok b) →
    es = (if r.addr24 = 0 then [] else chunksOf 16 r.armCount b) → es.all slotEntryOk = true →
    pd = { slot := r.schedSlot, step := s1.refStep n r, dom := n, rid := rid, first := r.armFirst, entries := es
           sqId := r.sqPair.1, sqHead := r.sqPair.2 } →
    exec (.scheduleArm e rid) s = .next ((s1.setSched r.part { x with pend := some pd }).wait rid (.arm r.schedSlot)))
  ∧ (∀ (e : Env) (rid n since : Nat) (s s1 : State) (r : Req) (x : Sched) (pd : SchedPend), s1 = s.enter e → s1.startedReq? rid [0x52] = some r →
    r.snap.bound = some n → bits r.deadlineField 31 10 = 0 → x = s1.sched r.part → x.armed = some (r.schedSlot, since) → x.pend = none →
    s1.posPassed n (mkPos (s1.refStep n r) 0 0) = false →
    pd = { disarm := true, slot := r.schedSlot, step := s1.refStep n r, dom := n, rid := rid } →
    exec (.scheduleDisarm e rid) s = .next ((s1.setSched r.part { x with pend := some pd }).wait rid (.disarm r.schedSlot)))
  ∧ ∀ (e : Env) (p : Nat) (s s1 : State) (q : SchedPend), s1 = s.enter e → (s1.sched p).pend = some q →
    s1.posPassed q.dom (mkPos q.step 0 0) = true →
    exec (.scheduleSwitch e p) s = .next ((s1.setSched p ((s1.sched p).switched q)).complete q.rid .ok { result0 := mkPos q.step 0 0 })
    ∧ ((s1.sched p).switched q).pend = none ∧ (q.disarm = true → ((s1.sched p).switched q).armed = none)

/-- Event instances (R238 to R249): a due event is issued with the next numbers of its domain and instance sequence, or dropped where its
completion ring has no room; its query starts it, its commit point ends the wait for its leaves, and it completes when no slot runs. -/
def Obligations.InstancesRunTheirEvents : Prop :=
  (∀ (e : Env) (p ev since step : Nat) (slot : Bool) (s s1 : State) (im : SchedImg) (x : Inst), s1 = s.enter e → s1.serves = true →
    (s1.sched p).armed = some (slot, since) → (s1.sched p).img slot = some im → ev < imEvents im.bytes →
    s1.dueStep p ev (s1.sched p) im since = some step →
    (s1.cqHasRoom (schedCq p im.bytes) = false → exec (.eventIssue e p ev) s
      = .next (((s1.setSched p { s1.sched p with issued := (s1.sched p).issued.set ev (step + 1) }).bump F.SCHED_DROPPED_COUNT).raise gDeadline 0))
    ∧ (∀ sls s2, s1.cqHasRoom (schedCq p im.bytes) = true → s1.recBad 3 (p * 2 + b2n slot) = false →
      x = { part := p, slot := slot, image := im.bytes, epoch := im.epoch, event := ev, step := step, cq := schedCq p im.bytes
            seqNo := (s1.cqs.getD (schedCq p im.bytes) {}).instSeq, dom := (s1.sched p).dom, sqId := im.sqId, sqHead := im.sqHead
            beatLost := (s1.beat (s1.sched p).dom).state == bLost } →
      s1.formSlots s1.instSeq x (s1.sched p) im ((List.range (evSlotCount (imEvent im.bytes ev))).map (· + evSlotFirst (imEvent im.bytes ev)))
        = some (sls, s2) →
      ∃ t, exec (.eventIssue e p ev) s = .next t ∧ t.insts = s2.insts.set s1.instSeq { x with slots := sls } ∧ t.instSeq = s1.instSeq + 1
        ∧ t.scheds = s2.scheds.set p { s2.sched p with issued := (s2.sched p).issued.set ev (step + 1) }))
  ∧ (∀ (e : Env) (id k : Nat) (s s1 : State) (x : Inst) (sl : InstSlot) (qb : Bytes) (nq : Nat), s1 = s.enter e → s1.insts.get? id = some x →
    x.slots[k]? = some sl → x.wantsQuery sl = true → x.result = none → s1.stampReady x sl = true →
    nq = (if evOp x.ev = 2 then 1 else evQueries x.ev) →
    s1.bufRead (x.req sl.handle) 3 (x.queryAt sl + 64) (queryBytes sl.sh nq (evQueryBf16 x.ev)) = .ok qb →
    queryOk sl.sh nq (evQueryBf16 x.ev) qb = true →
    exec (.queryStampPoll e id k) s
      = .next (if evOp x.ev = 2 then s1.slotSelect id k x sl (x.job id k sl qb) else s1.slotAttend id k sl (x.job id k sl qb)))
  ∧ (∀ (e : Env) (id : Nat) (s s1 : State) (x : Inst), s1 = s.enter e → s1.insts.get? id = some x → x.result = none →
    (x.commit = false → s1.instCommit x ≤ s1.time → exec (.commitPoint e true id) s
      = .next ((x.slots.mapIdx (fun k sl => (k, sl))).foldl (fun s y => s.commitSlot id y.1 x y.2) (s1.setInst id { x with commit := true })))
    ∧ (∀ s2 x' st c, x.commit = true → x.busy = false → s1.instWrite id x = s2 → s2.insts.get? id = some x' → x'.result = some (st, c) →
      tgKind x'.tgt ≠ 2 → exec (.eventCompletion e id) s = .next (s2.instComplete id x' st c)))
  ∧ ∀ (e : Env) (rid id t : Nat) (s s1 s2 : State) (r : Req) (j j' : Job), s1 = s.enter e → s1.reqs.get? rid = some r → r.wait = .job id →
    s1.commitTime? r = some t → t ≤ s1.time → s1.jobs.get? id = some j →
    (r.fDegradeOk = false → exec (.commitPoint e false rid) s = .next ((s1.dropJob id).complete rid .deadlineMissed))
    ∧ (r.fDegradeOk = true → s1.missJob id j View.miss = (j', s2) → exec (.commitPoint e false rid) s = .next (s2.finishJob id j'))

/-- The Spires and the Lantern (R166, R203, R258, R259, R206 to R211): a finished unit counts, frees its Spire and ends its job when it
was the last; a slow Spire gives its next unit back and is released after 100 µs; an array is calibrated when due, is usable if its
error is within the limit, and stale when its time or temperature has run off. -/
def Obligations.SpiresAndLanternArrays : Prop :=
  (∀ (e : Env) (n : Nat) (s s1 s2 s3 : State) (u : WUnit) (x : SpireSt) (j : Job), s1 = s.enter e → x = s1.spire n → x.running = some u →
    s1.anyCluster = true →
    s2 = (s1.bump F.SPIRE_UNITS_COUNT 1 n).setSpire n { x with running := none, assigned := none, busyNs := x.busyNs + (s1.time - x.started) } →
    s3 = (match x.assigned with | some v => s2.startUnit n v | none => s2).dispatch → s3.jobs.get? u.job = some j →
    (j.left.erase u.idx ≠ [] → exec (.workUnitFinish e n) s = .next { s3 with jobs := s3.jobs.set u.job { j with left := j.left.erase u.idx } })
    ∧ (j.left.erase u.idx = [] → exec (.workUnitFinish e n) s
        = .next (({ s3 with jobs := s3.jobs.set u.job { j with left := [] } }).finishJob u.job { j with left := [] })))
  ∧ (∀ (e : Env) (n keyLines valueLines : Nat) (s s1 : State), s1 = s.enter e → n < 48 →
    (s1.get F.SPIRE_STATUS_THERMAL_STAGE n ≠ 0
      ∨ ((s1.spire n).running.isSome = true ∧ (keyLines + valueLines) * 100 < s1.linesAllowed n * s1.get F.SAPL_DISPATCH_CFG_SLOW_PCT)) →
    (s1.spire n).slow = false →
    exec (.spireSlowCheck e n keyLines valueLines) s
      = .next (((s1.setSpire n { s1.spire n with slow := true, slowAt := s1.time }).bump F.SAPL_SLOW_EVENTS_COUNT).returnUnit n).dispatch)
  ∧ (∀ (e : Env) (n : Nat) (s s1 : State), s1 = s.enter e → (s1.spire n).slow = true → s1.get F.SPIRE_STATUS_THERMAL_STAGE n = 0 →
    (s1.spire n).slowAt + 100000 ≤ s1.time →
    exec (.spireSlowExit e n) s = .next (s1.setSpire n { s1.spire n with slow := false }).dispatch)
  ∧ (∀ (e : Env) (a temp : Nat) (s s1 : State), s1 = (s.enter e).lanternTemp (a / 16) temp → a < 64 → s1.pdOn (76 + a / 16) = true →
    (∀ i, i < 16 → (s1.larray (i + 16 * (a / 16))).state ≠ 2 ∧ (i + 16 * (a / 16) < a → s1.calDue (i + 16 * (a / 16)) = false)) →
    s1.calDue a = true →
    ∃ t, exec (.lanternCalibrationDue e a temp) s = .next t ∧ t.arrays = s1.arrays.set a { s1.larray a with state := 2, lastCal := some s1.time })
  ∧ (∀ (e : Env) (a t0 rho : Nat) (s s1 : State) (x : LArray), s1 = s.enter e → x = s1.larray a → x.state = 2 → x.lastCal = some t0 →
    t0 + 2000 ≤ s1.time → rho = Config.calError a s1.freeCtr →
    (s1.get F.LANTERN_CAL_LIMIT_LIMIT < rho → exec (.lanternCalibrationDone e a) s
      = .next ((({ s1.free.2 with arrays := s1.arrays.set a { x with state := 3, failed := true } }).bump F.LANTERN_CAL_FAIL_COUNT).raise gLantern 0))
    ∧ (rho ≤ s1.get F.LANTERN_CAL_LIMIT_LIMIT → ∃ t, exec (.lanternCalibrationDone e a) s = .next t
        ∧ (t.larray a).state = 1 ∧ (t.larray a).failed = false ∧ (t.larray a).lastOk = some s1.time
        ∧ (t.larray a).band = s1.get F.LANTERN_CAL_LIMIT_GUARD + 2 * rho ∧ { t with arrays := s1.arrays } = s1.free.2))
  ∧ ∀ (e : Env) (a temp t0 : Nat) (s s1 : State), s1 = (s.enter e).lanternTemp (a / 16) temp → a < 64 → s1.pdOn (76 + a / 16) = true →
    (s1.larray a).state = 1 → (s1.larray a).lastOk = some t0 →
    (t0 + s1.get F.LANTERN_CFG_STALE_MS * 1000000 ≤ s1.time
      ∨ 2 * s1.calDelta ≤ natDiff (s1.get F.LANTERN_GROUP_STATUS_TEMP_C (a / 16)) (s1.larray a).temp) →
    exec (.lanternStale e a temp) s
      = .next (({ s1 with arrays := s1.arrays.set a { s1.larray a with state := 3 } }).noUsable (a / 16))

/-- Pool coherence (R329 to R334): a flush discards the read buffers' lines; a lease is granted at its home where no other holder's
lease overlaps, and is renewed, released or lost at its expiry; a stage that runs renews its own. -/
def Obligations.PoolLeasesAreGrantedAndLost : Prop :=
  (∀ (e : Env) (rid : Nat) (s s1 : State) (r : Req), s1 = s.enter e → s1.startedReq? rid [0x70] = some r → poolRangeFault r = none →
    (s1.sharedExt? r.part r.addr16 r.addr24).isSome = true → s1.poolUp = true →
    exec (.poolFlush e rid) s = .next ((s1.dropReads r.addr16 r.addr24).complete rid .ok))
  ∧ (∀ (e : Env) (rid : Nat) (s s0 s1 : State) (r : Req) (h : Bool × Nat × Nat), s0 = s.enter e → s0.startedReq? rid [0x71] = some r →
    s0.leaseWhere r = .inr none → s1 = s0.expireDue r.addr16 r.addr24 → h = s1.leaseHolder r →
    (∀ l0 : Lease, l0 = { isQp := h.1, holder := h.2.1, pos := h.2.2, base := r.addr16, len := r.addr24, ms := r.leaseMs
                          expiry := s1.time + r.leaseMs * 1000000 } → r.leaseOp = 0 → (∀ l ∈ s1.pool.leases, l.overlaps r.addr16 r.addr24 = true →
                            l.heldBy h = true) →
      s1.leaseOn? h r.addr16 r.addr24 = none → s1.pool.leases.length < 4096 → s1.pool.leases.countP (·.heldBy h) < 64 →
      exec (.poolLeaseAcquire e rid) s = .next (({ s1 with pool := { s1.pool with leases := s1.pool.leases
        ++ [l0] } }).complete rid .ok { result0 := s1.time + r.leaseMs * 1000000 }))
    ∧ (∀ l, r.leaseOp = 1 → s1.leaseOn? h r.addr16 r.addr24 = some l → exec (.poolLeaseRenew e rid) s
      = .next ((s1.renewLease l r.leaseMs).complete rid .ok { result0 := s1.time + r.leaseMs * 1000000 })))
  ∧ (∀ (e : Env) (rid : Nat) (s s0 s1 : State) (r : Req) (q : Nat) (l : Lease), s0 = s.enter e → s0.startedReq? rid [0x71] = some r →
    s0.leaseWhere r = .inr none → r.leaseOp = 2 → r.origin = .ring q → s0.poolUp = true →
    s1 = (s0.dropReads r.addr16 r.addr24).expireDue r.addr16 r.addr24 → s1.leaseOn? (s1.leaseHolder r) r.addr16 r.addr24 = some l →
    exec (.poolLeaseRelease e rid) s = .next (({ s1 with pool := { s1.pool with leases := s1.pool.leases.erase l } }).complete rid .ok))
  ∧ (∀ (e : Env) (base len : Nat) (s s1 : State) (l : Lease), s1 = s.enter e →
    s1.pool.leases.find? (fun l => l.base == base && l.len == len) = some l → l.expiry ≤ s1.time →
    s1.poolUp = true → (∀ x ∈ s1.pool.exts, x.2.state ≠ 2) →
    exec (.poolLeaseExpiry e base len) s = .next ((((({ s1 with pool := { s1.pool with leases := s1.pool.leases.erase l } }).dropReads l.base
      l.len).poisonRange (memKey poolSpace l.base) l.len).bump F.POOL_LEASE_LOST_COUNT).raise gPool 1))
  ∧ ∀ (e : Env) (rid : Nat) (ok : Bool) (s s1 : State) (r : Req) (pl : Plan) (l : Lease), s1 = s.enter e → s1.reqs.get? rid = some r →
    r.opcode = 0x72 → r.wait = .append pl → s1.leaseCovering? r.part r.addr16 1 = some l →
    (s1.pool.leases.contains l = true → exec (.poolLeaseAutoRenew e rid ok) s = .next (s1.renewLease l l.ms))
    ∧ (s1.pool.leases.contains l = false → ok = false →
      exec (.poolLeaseAutoRenew e rid ok) s = .next (s1.abandonPlan rid pl .linkFailed))

/-- Pool extents (R324, R325, R335, R344): a configured extent that a target maps and no other overlaps is added; an offer is accepted at
the lowest base or refused; a release drains and, at its time, frees the extent with POOL cause 2. -/
def Obligations.PoolExtentsComeAndGo : Prop :=
  (∀ (e : Env) (k : Nat) (s s1 : State) (x : Extent), s1 = s.enter e → k < 256 → s1.extent? k = some x → x.state = 0 → 0 < x.len →
    x.kind ≠ 0 → x.kind ≠ 3 → x.base + x.len ≤ 2 ^ 24 → s1.unitsTaken x.base x.len = false →
    s1.pool.targets.any (fun t => t.1 == x.target && t.2.1 ≤ x.base && x.base + x.len ≤ t.2.1 + t.2.2) = true →
    exec (.poolExtAdd e k) s = .next (s1.setExtent k { x with state := 1, dynamic := false, blocked := false }))
  ∧ (∀ (e : Env) (target len : Nat) (s s1 s2 : State) (slot : Option Nat), s1 = s.enter e → s1.poolUp = true → target < 64 → 0 < len →
    s1.pickExtent = (slot, s2) →
    (∀ (k b : Nat) (x : Extent), s2.on F.POOL_CFG_DC_ACCEPT = true → slot = some k → s2.lowestBase len = some b →
      x = { base := b, len := len, target := target, kind := s2.get F.POOL_CFG_DC_KIND, owner := some (s2.get F.POOL_CFG_DC_OWNER)
            dynamic := true, state := 1 } →
      exec (.dcOffer e target len) s = .next (((s2.setExtent k x).send (.pool 1 k)).raise gPool 0))
    ∧ (s2.on F.POOL_CFG_DC_ACCEPT = false → exec (.dcOffer e target len) s = .next ((s2.send (.pool 0 target)).raise gPool 0)))
  ∧ (∀ (e : Env) (k : Nat) (s s1 : State) (x : Extent), s1 = s.enter e → s1.extent? k = some x → x.state = 1 →
    exec (.poolExtRelease e k) s
      = .next ((s1.setExtent k { x with state := 2, releaseAt := s1.time + max 1 (s1.get F.POOL_CFG_RELEASE_MS) * 1000000 }).drainExtent k)
    ∧ (x.dynamic = true → s1.poolUp = true → exec (.dcReleaseRequest e k) s = exec (.poolExtRelease e k) s))
  ∧ ∀ (e : Env) (k : Nat) (s s1 : State) (x : Extent), s1 = s.enter e → s1.extent? k = some x → x.state = 2 →
    (x.releaseAt ≤ s1.time → exec (.poolReleaseMsExpiry e k) s
      = .next { s1 with pool := { s1.pool with leases := s1.pool.leases.filter (fun l => !x.holds l.base l.len) } })
    ∧ (∀ s2, s2 = s1.drainExtent k → (s2.extPrimaries x).filter (fun i => (s2.leaf i).state == .poisoned && s2.holdCount i == 0) = [] →
      s2.extBusy x = false →
      exec (.extentReleased e k) s = .next (((if x.dynamic = true then s2.send (.pool 2 k) else s2).dropExtent k).raise gPool 2))

/-- The pool's links, buckets and stages (R326 to R328, R336 to R344): a trained link brings the pool up with no lease and its extents as
new ones; a port that falls fails the moves into the pool and what it held, and a restart admits training again; a failed target fails
its extents; a refill sets each target's factor by its worst load and adds to every bucket up to the burst; a stage out writes the
published chunks as one image where the lease covers it, and a stage in takes the chunks of an image that checks. -/
def Obligations.PoolLinksBucketsAndStages : Prop :=
  (∀ (e : Env) (cxl31 common : Bool) (width : Nat) (targets : List (Nat × Nat × Nat)) (s : State), s.get F.POOL_STATUS_STATE = 1 →
    s.dieWorks 1 = true → (width = 4 ∨ width = 8 ∨ width = 16) →
    ∃ t, exec (.poolLinkTrained e (cxl31, common) width targets) s = .next t ∧ t.get F.POOL_STATUS_STATE = 2 ∧ t.get F.POOL_STATUS_WIDTH = width
      ∧ t.pool.leases = [] ∧ t.pool.readBuf = [] ∧ t.pool.targets = targets.filter (fun t => t.1 < 64) ∧ t.pool.refclk = common
      ∧ t.pool.down = false ∧ t.pool.exts = (s.pool.exts.filter (fun x => x.2.state = 0 || x.2.dynamic
        || t.pool.targets.any (fun y => y.1 == x.2.target))).map
          (fun x => (x.1, { x.2 with state := min 1 x.2.state, blocked := false }))
      ∧ { t with regs := s.regs, pool := s.pool } = s.enter e)
  ∧ (∀ (e : Env) (s s1 : State), s1 = s.enter e → s.get F.POOL_STATUS_STATE = 3 →
    exec (.poolRestart e) s
      = .next ((List.range 128).foldl (fun s p => s.put F.PART_POOL_STATUS_DOWN 0 p) (s1.put F.POOL_STATUS_STATE 1)))
  ∧ (∀ (e : Env) (s s1 s2 : State) (used inPool into : List Nat), s1 = s.enter e → s.get F.POOL_STATUS_STATE = 2 →
    used = (List.range 128).filter (fun p => s1.tierUsed p 1 > 0 || s1.partLeases p != []) →
    inPool = s1.leaves.filterMap (fun l => match l.2.cur with | some c => if c.tier = .pool then some l.1 else none | none => none) →
    into = s1.leaves.filterMap (fun l => if l.2.state = .migrating && l.2.destTier = .pool then some l.1 else none) →
    s2 = (({ s1 with pool := { s1.pool with down := true } } : State).put F.POOL_STATUS_STATE 3).spoilViews (fun c => c.tier == .pool) →
    ∃ t, exec (.poolPortDown e) s = .next t ∧ t.get F.BELFRY_GRP_CAUSE_CAUSE gPool / 2 ^ 4 % 2 = 1
      ∧ t = (used.foldl (fun s p => s.put F.PART_POOL_STATUS_DOWN 1 p)
          (inPool.foldl (fun s i => s.losePrimary State.evict i) (into.foldl State.failMove s2))).raise gPool 4)
  ∧ (∀ (e : Env) (target : Nat) (ext : Option Nat) (s s1 : State) (hit : List Nat), s1 = s.enter e → s1.poolUp = true →
    hit = s1.pool.exts.filterMap (fun x => if (x.2.state = 1 || x.2.state = 2) && x.2.target = target
      && (ext.isNone || (ext = some x.1 && x.2.dynamic)) then some x.1 else none) → hit ≠ [] →
    exec (.poolTargetFail e target ext) s = .next ((hit.foldl State.failExtent s1).raise gPool 3))
  ∧ (∀ (e : Env) (device addr : Nat) (s s1 : State), s1 = s.enter e → s1.serves = true → s1.poolUp = true →
    exec (.poolEventRecord e device addr true) s
      = .next ((s1.logError { unit := device % 16, source := 7, ue := true, addr := addr } false).raise gRasUncorrected 0)
    ∧ exec (.poolEventRecord e device addr false) s
      = .next (s1.logError { unit := device % 16, source := 7, ue := false, addr := addr } false).raiseCe)
  ∧ (∀ (e : Env) (loads : List (Nat × Nat × Nat × Nat)) (s : State),
    ∃ t, exec (.poolBwRefill e loads) s = .next t
      ∧ (∀ p, p < 128 → t.pool.partCredit.getD p 0
        = min s.poolBurst (s.pool.partCredit.getD p 0 + s.get F.PART_POOL_BW_GBPS p * 1000 * max 1 (s.get F.POOL_BW_CFG_INTERVAL_US)))
      ∧ ∀ i f w, i < 64 → f = s.get F.POOL_TARGET_LOAD_FACTOR i →
        w = (match loads.find? (fun l => l.1 == i) with | some l => l.2.1 % 4 | none => 0) →
        t.get F.POOL_TARGET_LOAD_FACTOR i
            = min 256 (max 16 (if w = 3 then f - f / 4 else if w = 2 then f - f / 16 else if w = 0 then f + 8 else f))
          ∧ t.pool.tgtCredit.getD i 0
            = min s.poolBurst (s.pool.tgtCredit.getD i 0 + 500 * t.get F.POOL_TARGET_LOAD_FACTOR i * max 1 (s.get F.POOL_BW_CFG_INTERVAL_US)))
  ∧ (∀ (e : Env) (rid : Nat) (s s1 s2 : State) (r : Req) (q : Sequ) (chunks : List Chunk) (leaves : List (Nat × Chunk)) (vs : List View)
      (ls : List (Leaf × Copy)) (images : List Bytes) (img : Bytes) (l : Lease) (k : Nat) (x : Extent),
    s1 = s.enter e → s1.startedReq? rid [0x72] = some r → r.stageIn = false → q = s1.seq (hSeq r.handle) →
    (q.state = .openS ∨ q.state = .published) →
    chunks = (q.chunks.take q.publishedChunks).takeWhile (fun c => !c.acts.noStore) → chunks ≠ [] →
    leaves = chunks.flatMap (fun c => c.leaves.map (fun i => (i, c))) →
    (q.partition = r.part ∨ ∀ c ∈ chunks, c.acts.noShare = false) →
    (∀ x ∈ leaves, (s1.leaf x.1).state ≠ .evicting ∧ s1.canHold x.1 = true) →
    leaves.foldl (fun (a : List View × State) x =>
      let b := a.2.takeView rid x.1 x.2.number (a.2.chunkBad x.2)
      (a.1 ++ [b.1], b.2)) ([], s1) = (vs, s2) → s2.stageFault vs = none →
    ls = vs.map (fun v => (s2.leaf v.leaf, v.copy)) →
    images = ls.mapIdx (fun e x => s2.leafImage (s2.stageKey q (s2.get F.SEC_STAGE_EPOCH_CURRENT)) e x.1 x.2) →
    img = s2.snapMeta q chunks.length (s2.stageTables ls) (images.map List.length) ++ images.flatten →
    s2.leaseCovering? r.part r.addr16 img.length = some l → s2.sharedExt? r.part r.addr16 img.length = some (k, x) → s2.poolUp = true →
    exec (.poolStageOut e rid) s = .next (vs.foldl (fun s v => match v.shadow with
      | some sh => (s.unhold rid v.leaf v.copy.cid).unhold rid v.leaf sh.cid
      | none => s.unhold rid v.leaf v.copy.cid) ((s2.poolWrite r.part x.target r.addr16 img).complete rid .ok { result0 := img.length })))
  ∧ ∀ (e : Env) (rid k : Nat) (s s1 s2 : State) (r : Req) (q : Sequ) (n : Nat) (l : Lease) (x : Extent) (bs sh : Bytes)
      (p : Snap) (key epoch : Nat) (payloads : List Bytes), s1 = s.enter e →
    s1.startedReq? rid [0x72] = some r → r.stageIn = true → q = s1.seq (hSeq r.handle) → s1.isHolder q r.origin = true →
    n = max 256 (parseSnap (Memory.readBytes s1.mem (memKey poolSpace r.addr16) 256)).total →
    s1.leaseCovering? r.part r.addr16 n = some l → s1.sharedExt? r.part r.addr16 n = some (k, x) → q.totalChunks = 0 → q.openTokens = 0 →
    s1.poolUp = true → s1.anyCluster = true → s1.anySlice = true → s1.shapeBad q.partition q.shapeIndex q.shapeEpoch = false →
    s1.poolRead r.part x.target r.addr16 n = (.ok bs, s2) →
    p = parseSnap bs → sh = s2.seqShape q → epoch = fieldAt p.bytes 34 1 → key = s2.stageKey q epoch →
    (p.bytes.drop 48).take 44 = sh.take 44 → fieldAt p.bytes 32 2 = q.adapterId →
    (epoch = s2.get F.SEC_STAGE_EPOCH_CURRENT ∨ epoch = s2.get F.SEC_STAGE_EPOCH_PREVIOUS) → p.fieldsOk sh = true → p.tagOk key = true →
    fieldAt p.bytes 24 8 = s2.scopeIdOf q → (List.range (p.chunks * p.layers)).mapM (p.payload key sh) = some payloads →
    (∀ i, i < p.chunks * p.layers → p.leafOk key i = true) →
    exec (.poolStageIn e rid) s = .next (s2.stageTake rid r q (hSeq r.handle) p payloads)

/-- Queue pairs and links (R345 to R351): LOAD takes a valid context from RESET to RTS, ERROR stops a pair, RESET drains it, and when its
requests have ended it is RESET again; a link's change is a network event. -/
def Obligations.QueuePairsChangeState : Prop :=
  (∀ (e : Env) (k addr : Nat) (s s1 : State) (b : Bytes) (q : Qp), s1 = s.enter e → k < 32768 →
    s1.busRead (memKey 0 (addr / 64 * 64)) 64 = .ok b → q = parseQp b (modeRate (s1.get F.NET_PORT_CFG_MODE (sfield b 1 1 0))) →
    ((s1.qp k).state = .reset → s1.partActive q.partition = true → s1.qpCount q.partition < s1.get F.PART_NET_CFG_MAX_QP q.partition →
      s1.qpCtxOk b = true → (q.qwpV1 = true ∨ q.qwpV2 = true) →
      exec (.qpLoad e k addr) s = .next (s1.setQp k { q with cmdErr := (s1.qp k).cmdErr, raisedAt := s1.time }) ∧ q.state = .rts)
    ∧ ((s1.qp k).state ≠ .reset → exec (.qpLoad e k addr) s = .next (s1.setQp k { s1.qp k with cmdErr := true })))
  ∧ (∀ (e : Env) (k : Nat) (s s1 : State), s1 = s.enter e →
    ((s1.qp k).state = .rts → exec (.qpError e k) s = .next (s1.qpStop k 7)
      ∧ exec (.qpReset e k) s = .next ((s1.qpStop k 7).setQp k { (s1.qpStop k 7).qp k with state := .draining }))
    ∧ ((s1.qp k).state = .error → exec (.qpReset e k) s = .next (s1.setQp k { s1.qp k with state := .draining }))
    ∧ ((s1.qp k).state = .draining → (∀ x ∈ s1.reqs, x.2.ofQp k = false) →
      exec (.qpDrainDone e k) s = .next (s1.setQp k { cmdErr := (s1.qp k).cmdErr })))
  ∧ ∀ (e : Env) (port sub : Nat) (s s1 : State), s1 = s.enter e → port < 4 → sub < modeSubs (s1.get F.NET_PORT_CFG_MODE port) →
    (bit (s1.get F.NET_PORT_STATUS_LINK_UP port) sub = true → exec (.subportLinkChange e port sub false) s
      = .next ((s1.put F.NET_PORT_STATUS_LINK_UP (setBits (s1.get F.NET_PORT_STATUS_LINK_UP port) sub sub 0) port).raise gNetwork port))
    ∧ (bit (s1.get F.NET_PORT_STATUS_LINK_UP port) sub = false → s1.on F.NET_PORT_CFG_ENABLE port = true →
      s1.dieWorks (port / 2) = true → s1.pdOn (84 + port) = true →
      ∃ s2, s2 = s1.put F.NET_PORT_STATUS_LINK_UP (setBits (s1.get F.NET_PORT_STATUS_LINK_UP port) sub sub 1) port
        ∧ exec (.subportLinkChange e port sub true) s
          = .next ((s2.put F.NET_PORT_STATUS_MODE (s2.get F.NET_PORT_CFG_MODE port) port).raise gNetwork port))

/-- Memory regions and inbound packets (R352 to R357): a region takes a free index and the next key, and is freed when no admitted work
names it; a packet in sequence is executed, one behind is a duplicate, one ahead meets a NAK; a QWP request takes a slot or
meets an RNR NAK. -/
def Obligations.RegionsAndInboundPackets : Prop :=
  (∀ (e : Env) (rid k : Nat) (s s1 s2 : State) (r : Req) (m : Mr), s1 = s.enter e → s1.startedReq? rid [0x78] = some r → 0 < r.addr24 →
    r.addr24 ≤ 2 ^ 40 → r.addr16 + r.addr24 ≤ 2 ^ 64 → r.mrAccess ≠ 0 →
    s1.mrs.countP (fun x => x.2.state != .free && x.2.partition == r.part) < s1.get F.PART_NET_MR_MAX_MR r.part →
    s1.mrs.countP (fun x => x.2.state != .free) < 2 ^ 20 →
    s1.pick (fun k => (s1.mrs.getD k {}).state != .free) (2 ^ 20) = (some k, s2) →
    m = { state := .admits, key := (s2.mrs.getD k {}).key + 1, partition := r.part, base := r.addr16, length := r.addr24, access := r.mrAccess } →
    exec (.mrRegister e rid) s = .next (({ s2 with mrs := s2.mrs.set k m }).complete rid .ok { result0 := m.key.toNat + k * 256 }))
  ∧ (∀ (e : Env) (rid : Nat) (s s1 s2 : State) (r : Req) (m : Mr), s1 = s.enter e → s1.startedReq? rid [0x79] = some r →
    (∀ k, r.wait ≠ .revoke k) → s1.mrs.get? (r.rkey / 256) = some m → m.state ≠ .free → m.key = BitVec.ofNat 8 r.rkey → m.partition = r.part →
    s2 = ({ s1 with mrs := s1.mrs.set (r.rkey / 256) { m with state := .drain } }).wait rid (.revoke (r.rkey / 256)) →
    exec (.mrRevoke e rid) s = .next (if s2.mrBusy (r.rkey / 256) = true then s2 else s2.freeMr (r.rkey / 256)))
  ∧ (∀ (e : Env) (k psn rkey addr n len ecn ecn' : Nat) (data : Bytes) (first last : Bool) (s s1 s2 s3 : State) (q : Qp), s1 = s.enter e →
    q = s1.qp k → q.state = .rts → s1.measure q.partition len ecn = (true, ecn', s2) → s3 = s2.congested k (ecn' == 3) →
    (psn = q.expectPsn → exec (.rdmaWriteInbound e k psn rkey addr n data first last len ecn) s
      = .next (s3.writePacket k psn rkey addr n data first last))
    ∧ (psn = q.expectPsn → q.inWrite = none → n ≤ 2 ^ 31 → s3.mrAdmits k rkey addr n 0 = true →
      exec (.rdmaReadInbound e k psn rkey addr n len ecn) s = .next (s3.answerRead k psn addr n true))
    ∧ (psn = q.expectPsn → q.inWrite = none → n ≤ 2 ^ 31 → s3.mrAdmits k rkey addr n 0 = false →
      exec (.rdmaReadInbound e k psn rkey addr n len ecn) s = .next (s3.accessNak k psn (q.packets n)))
    ∧ (psn ≠ q.expectPsn → q.behind psn = false →
      exec (.rdmaWriteInbound e k psn rkey addr n data first last len ecn) s = .next (s3.qpControl k 1 q.expectPsn 0)
      ∧ exec (.rdmaReadInbound e k psn rkey addr n len ecn) s = .next (s3.qpControl k 1 q.expectPsn 0)))
  ∧ (∀ (e : Env) (k psn kind rkey addr n : Nat) (s s1 : State), s1 = s.enter e → (s1.qp k).state = .rts → (s1.qp k).behind psn = true →
    (kind = 0 → exec (.duplicatePacket e k psn kind rkey addr n) s
      = .next ((s1.bump F.NET_DUP_WRITES_COUNT).qpControl k 0 (s1.qp k).lastPsn 0))
    ∧ (kind = 1 → exec (.duplicatePacket e k psn kind rkey addr n) s
      = .next ((s1.bump F.NET_DUP_SENDS_COUNT).qpControl k 0 (s1.qp k).lastPsn 0))
    ∧ (2 ≤ kind → s1.mrAdmits k rkey addr n 0 = true →
      exec (.duplicatePacket e k psn kind rkey addr n) s = .next (s1.answerRead k psn addr n false)))
  ∧ (∀ (e : Env) (k pkey len ecn ecn' : Nat) (s s1 s2 : State), s1 = s.enter e → (s1.qp k).state = .rts →
    pkey ≠ s1.pkeyOf (s1.qp k).partition → s1.measure (s1.qp k).partition len ecn = (true, ecn', s2) →
    exec (.pkeyDrop e k pkey len ecn) s = .next ((s2.bump F.NET_PKEY_DROPS_COUNT).rdmaAsync k 2))
  ∧ ∀ (e : Env) (k psn ecn : Nat) (m : Bytes) (lens : List Nat) (ce : Bool) (s s1 s2 s3 : State) (q : Qp), s1 = s.enter e → q = s1.qp k →
    q.state = .rts → s1.measureAll q.partition ecn lens = (true, ce, s2) → s3 = s2.congested k ce → psn = q.expectPsn →
    q.inWrite = none → m.length ≤ 4176 →
    (s3.serves = true → q.admitted < q.rqDepth → s3.qwpAdmitted < 65536 → exec (.qwpRequest e k psn m lens ecn) s = .next (s3.qwpAdmit k psn m))
    ∧ (q.rqDepth ≤ q.admitted →
      exec (.qwpRequest e k psn m lens ecn) s = .next ((s3.bump F.NET_RNR_NAKS_COUNT).qpControl k 2 psn q.minRnrTimer))

/-- Acknowledgement, retry and rate (R347, R348, R354, R356): an ACK retires what it covers, a NAK stops the pair with cause 5, a timeout or
an RNR NAK sends again while retries are left and stops the pair with cause 4 after; a CNP cuts the rate, and 55 µs without
one raise it. -/
def Obligations.AcknowledgesRetriesAndRates : Prop :=
  (∀ (e : Env) (k psn ecn : Nat) (s s1 : State), s1 = s.enter e → (s1.qp k).state = .rts →
    exec (.ackReceived e k psn ecn) s = .next ((s1.congested k (ecn == 3)).acked k psn)
    ∧ exec (.nakReceived e k psn) s = .next ((s1.acked k ((psn + 2 ^ 24 - 1) % 2 ^ 24)).qpStop k 5))
  ∧ (∀ (e : Env) (k : Nat) (s s1 : State) (q : Qp), s1 = s.enter e → q = s1.qp k → q.state = .rts → q.outstanding ≠ [] → q.timeout ≠ 0 →
    q.sentAt + 4096 * 2 ^ q.timeout ≤ s1.time →
    (q.retriesLeft = 0 → exec (.ackTimeout e k) s = .next (s1.qpStop k 4))
    ∧ (q.retriesLeft ≠ 0 → exec (.ackTimeout e k) s = .next ((s1.setQp k { q with retriesLeft := q.retriesLeft - 1 }).resend k)))
  ∧ (∀ (e : Env) (k psn : Nat) (s s1 s2 : State) (q : Qp), s1 = s.enter e → (s1.qp k).state = .rts →
    s2 = s1.acked k ((psn + 2 ^ 24 - 1) % 2 ^ 24) → q = s2.qp k → q.outstanding ≠ [] →
    (q.rnrRetry = 7 → exec (.rnrNakReceived e k psn) s = .next (s2.resend k))
    ∧ (q.rnrRetry ≠ 7 → q.rnrLeft = 0 → exec (.rnrNakReceived e k psn) s = .next (s2.qpStop k 4))
    ∧ (q.rnrRetry ≠ 7 → q.rnrLeft ≠ 0 →
      exec (.rnrNakReceived e k psn) s = .next ((s2.setQp k { q with rnrLeft := q.rnrLeft - 1 }).resend k)))
  ∧ (∀ (e : Env) (k : Nat) (s s1 : State) (q : Qp), s1 = s.enter e → q = s1.qp k → q.state = .rts →
    (∀ q' : Qp, (∀ t, q.cutAt = some t → t + 50000 ≤ s1.time) →
      q' = { q with cnpSeen := some s1.time, rate := q.rate - q.rate / 2 ^ s1.get F.NET_CC_CFG_DEC_LOG2, cutAt := some s1.time } →
      exec (.cnpReceived e k) s = .next (s1.setQp k q'))
    ∧ (∀ t, q.cutAt = some t → s1.time < t + 50000 → exec (.cnpReceived e k) s = .next (s1.setQp k { q with cnpSeen := some s1.time })))
  ∧ (∀ (e : Env) (k : Nat) (s s1 : State) (q q' : Qp), s1 = s.enter e → q = s1.qp k → q.state = .rts →
    max q.raisedAt (q.cnpSeen.getD 0) + 55000 ≤ s1.time →
    q' = { q with rate := min (modeRate (s1.get F.NET_PORT_CFG_MODE q.port)) (q.rate + max 1 (s1.get F.NET_CC_CFG_AI_MBS)), raisedAt := s1.time } →
    exec (.rateIncrease e k) s = .next (s1.setQp k q'))
  ∧ ∀ (e : Env) (k : Nat) (s s1 : State) (q : Qp), s1 = s.enter e → q = s1.qp k → q.state = .rts → q.unacked ≠ 0 →
    q.oldestUnacked + 2000 ≤ s1.time →
    exec (.ackCoalesceTimer e k) s = .next ((s1.setQp k { q with unacked := 0 }).qpControl k 0 q.lastPsn 0)

/-- Egress traffic (R366 to R377): a started frame leaves its queue and is sent; refills add to every queue of their port and to a
partition's meter; depths are sampled and cleared; a paused priority is held until it is resumed. -/
def Obligations.EgressQueuesShapersAndMeters : Prop :=
  (∀ (e : Env) (port k : Nat) (s s1 s2 : State) (f : Frame) (rest : List Frame), s1 = s.enter e → s1.portUp port = true →
    s1.pickQueue port = (some k, s2) → (s2.txq port k).frames = f :: rest →
    ∃ t, exec (.egressFrameStart e port) s = .next t ∧ (t.txq port k).frames = rest ∧ t.out = (s2.send f.what).out
      ∧ { t with out := s2.out, txqs := s2.txqs, qps := s2.qps, qwpAdmitted := s2.qwpAdmitted } = s2
      ∧ (f.slot = false → t.qps = s2.qps ∧ t.qwpAdmitted = s2.qwpAdmitted)
      ∧ ∀ qp, f.slot = true → f.qp = some qp → t.qps = (s2.freeSlots qp 1).qps ∧ t.qwpAdmitted = s2.qwpAdmitted - 1)
  ∧ (∀ (e : Env) (port : Nat) (s s1 : State) (p : TxPort), s1 = s.enter e → port ≤ 18 →
    p = { s1.txport port with interval := max 1 (s1.get F.TRAFFIC_PORT_CFG_INTERVAL port), overhead := s1.get F.TRAFFIC_PORT_CFG_OVERHEAD port } →
    ∃ t, exec (.shaperRefill e port) s = .next t ∧ { t with txqs := s1.txqs } = s1.setTxport port p
      ∧ t.txqs = s1.txqs.map (fun (x : Nat × TxQ) => if x.1 / 64 = port then (x.1, x.2.refill p) else x))
  ∧ (∀ (e : Env) (port queue : Nat) (all : Bool) (s s1 : State), s1 = s.enter e →
    (∃ t, exec (.queueDepthSample e port) s = .next t ∧ { t with txqs := s.txqs } = s1
      ∧ (∀ k q, (k, q) ∈ t.txqs → ∃ q0, (k, q0) ∈ s.txqs ∧ (k / 64 ≠ port → q = q0) ∧ q.frames = q0.frames
          ∧ (k / 64 = port → q.depthLast = min 65535 (q0.bytes / 64) ∧ q.depthMax = max (min 65535 (q0.bytes / 64)) q0.depthMax)))
    ∧ ∃ t, exec (.trafficStatClear e port queue all) s = .next t ∧ { t with txqs := s.txqs } = s1
      ∧ t.txqs = s.txqs.map (fun x => if all || x.1 = port * 64 + queue then (x.1, { x.2 with depthMax := 0, delayMax := 0 }) else x))
  ∧ (∀ (e : Env) (p val : Nat) (s s1 : State), s1 = s.enter e → p < 128 →
    ∃ t, exec (.partTrafficQWrite e p val) s = .next t ∧ t.get F.PART_TRAFFIC_Q_HOST_Q p = bits val 5 0
      ∧ t.get F.PART_TRAFFIC_Q_RING_Q p = (if bits val 13 8 = 0 then s.get F.PART_TRAFFIC_Q_RING_Q p else bits val 13 8)
      ∧ { t with regs := s.regs } = s1)
  ∧ (∀ (e : Env) (port prio : Nat) (paused : Bool) (s s1 : State), s1 = s.enter e → port < 16 → prio < 8 →
    (paused = true → bit (s1.get F.NET_PORT_CFG_PFC_EN (port / 4)) prio = true) →
    ∃ t, exec (.pfcPause e port prio paused) s = .next t ∧ (prio ∈ (t.txport port).paused ↔ paused = true)
      ∧ { t with txports := s.txports } = s1)
  ∧ ∀ (e : Env) (p : Nat) (s s1 : State), s1 = s.enter e → p < 128 →
    exec (.meterRefill e p) s = .next { s1 with meters := s1.meters.set p (if (s1.meter p).changed = true then s1.loadMeter p else (s1.meter p).refill) }

/-- Flash units (R295, R301, R309 to R312): an ended program closes its row when the row is full, a failed program or erase is counted and retires
the block, a read counts its outcome and rebuilds, and a read past its time is counted on its die. -/
def Obligations.FlashUnitsProgramEraseAndRead : Prop :=
  (∀ (e : Env) (pa : Nat) (s s1 s2 : State) (m : Mu), s1 = s.enter e → s1.flash.mus.get? pa = some m → m.issued = true → m.done = false →
    s2 = ({ s1 with flash := { s1.flash with mus := s1.flash.mus.set pa { m with done := true } } }).issueNand →
    exec (.flashProgramDone e pa) s = .next (
      if (s2.flash.mus.filter (fun x => paRow x.1 == paRow pa && s2.muBand x.1 == s2.muBand pa && x.2.kind != 3)).length = 31
          && (s2.flash.mus.filter (fun x => paRow x.1 == paRow pa && s2.muBand x.1 == s2.muBand pa && x.2.kind != 3)).all (fun x => x.2.done)
      then s2.closeRow (s2.muBand pa) (paRow pa) else s2))
  ∧ (∀ (e : Env) (pa : Nat) (s s1 : State) (m : Mu), s1 = s.enter e → s1.flash.mus.get? pa = some m → m.issued = true → m.done = false →
    ∃ (s2 s3 : State) (row : List Nat), s2 = s1.health (fun h => { h with progFail := h.progFail + 1 })
      ∧ s3 = (match s2.flash.bands.get? (s1.muBand pa) with | some b => s2.setBand (s1.muBand pa) { b with isOpen := false } | none => s2)
      ∧ row = (s3.flash.mus.filter (fun x => paRow x.1 == paRow pa && s3.muBand x.1 == s1.muBand pa && x.2.kind == 0 && !x.2.closed)).map (·.1)
      ∧ exec (.flashProgramFail e pa) s = .next (row.foldl State.replaceMu (s3.retireBlock (paKey pa))))
  ∧ (∀ (e : Env) (key : Nat) (s s1 s2 : State), s1 = s.enter e → s1.flash.erasing.contains (key, true) = true →
    s2 = { s1 with flash := { s1.flash with erasing := s1.flash.erasing.filter (fun x => x.1 != key) } } →
    exec (.flashEraseDone e key true) s
      = .next ((s2.health (fun h => { h with eraseFail := h.eraseFail + 1 })).retireBlock key).issueNand
    ∧ ∀ s3, s3 = s2.setBlock key { eraseCount := min 65535 ((s1.block key).eraseCount + 1) } →
      exec (.flashEraseDone e key false) s = .next ((s3.noteBlocks [key]).issueNand).retryPending)
  ∧ (∀ (e : Env) (pa lat words : Nat) (s s1 s2 : State) (m : Mu), s1 = s.enter e → s1.flash.mus.get? pa = some m → m.done = true →
    s2 = s1.setDie (paDie pa) { s1.die (paDie pa) with lats := (lat :: (s1.die (paDie pa)).lats).take 256 } →
    exec (.flashReadDone e pa 0 lat words) s = .next s2
    ∧ exec (.flashReadDone e pa 1 lat words) s = .next (s2.health (fun h => { h with corrected := h.corrected + 1 }))
    ∧ exec (.flashReadDone e pa 2 lat words) s = .next (s2.health (fun h => { h with retried := h.retried + 1 }))
    ∧ exec (.flashReadDone e pa 3 lat 0) s = .next (s2.rebuilt pa))
  ∧ ∀ (e : Env) (pa age : Nat) (s s1 s2 : State) (d : Die) (times : List Nat), s1 = s.enter e → (s1.flash.mus.get? pa).isSome = true →
    s1.flashReadable = true → d = s1.die (paDie pa) → s1.get F.FLASH_READ_CFG_SLOW_MULT * d.median ≤ age → times = s1.time :: d.slowTimes.filter (fun t => decide (t + 1000000000 > s1.time)) →
    s2 = (s1.setDie (paDie pa) { d with slowTimes := times, slowAt := s1.time, slowCount := min 65535 (d.slowCount + 1) }).health
      (fun h => { h with slowReads := h.slowReads + 1 }) →
    exec (.slowReadTimeout e (pa, age)) s = .next (
      if s2.dieState (paDie pa) = 1 && times.length ≥ max 1 (s2.get F.FLASH_READ_CFG_SLOW_ENTER) then s2.dieTo (paDie pa) 2 else s2)

/-- The journal and the background of flash (R300 to R307, R315, R318): a group whose units are programmed commits; folding moves the oldest
closed SLC band, collection the urgent or the emptiest native one; a checkpoint follows its count; a profile becomes current; the
health log goes to host memory. -/
def Obligations.FlashCommitsFoldsAndCollects : Prop :=
  (∀ (e : Env) (gid : Nat) (s s1 s2 : State) (g : Group), s1 = s.enter e → s1.flash.groups.get? gid = some g → s1.flashReadable = true →
    s1.on F.FLASH_STATUS_PF = false → s1.anyCluster = true → g.pend = [] →
    (∀ pa ∈ g.mus, (s1.flash.mus.getD pa {}).done = true ∧ s1.rowReady pa = true) → (s1.flashState = 3 → s1.journalFull = false) →
    s1.writeJournal (journalMus gid g.recs) = some s2 → exec (.journalCommit e gid) s = .next (s2.commitGroup gid g))
  ∧ (∀ (e : Env) (s s1 s2 : State) (free : Nat) (closed : Table Band), s1 = s.enter e → free = s1.flash.slcTotal - s1.bandsInUse true →
    s2 = { s1 with flash := { s1.flash with folding := decide (free * 64
      < (if s1.flash.folding = true then 2 * s1.get F.FLASH_GC_CFG_FOLD else s1.get F.FLASH_GC_CFG_FOLD) * s1.flash.slcTotal) && s1.flashBusyOk } } →
    closed = s2.flash.bands.filter (fun x => x.2.slc && x.2.kind == 0 && !x.2.isOpen && s2.validIn x.2 != []) →
    (s2.flash.folding = false → exec (.fold e) s = .next s2)
    ∧ (∀ k b, s2.flash.folding = true → (closed.mergeSort (fun x y => x.2.born ≤ y.2.born)).head? = some (k, b) →
      exec (.fold e) s = .next (s2.relocateBand b))
    ∧ (s2.flash.folding = true → closed = [] → exec (.fold e) s = .next s2.reapBands))
  ∧ (∀ (e : Env) (s s1 s2 : State) (free : Nat) (closed : Table Band), s1 = s.enter e → free = s1.flash.natTotal - s1.bandsInUse false →
    s2 = { s1 with flash := { s1.flash with collecting := decide (free * 1024
      < (if s1.flash.collecting = true then s1.get F.FLASH_GC_CFG_HIGH else s1.get F.FLASH_GC_CFG_LOW) * s1.flash.natTotal) && s1.flashBusyOk } } →
    closed = s2.flash.bands.filter (fun x => !x.2.slc && x.2.kind == 0 && !x.2.isOpen) →
    (∀ k b, closed.find? (fun x => s2.urgent x.2) = some (k, b) → s2.flashBusyOk = true →
      exec (.garbageCollection e) s = .next (s2.relocateBand b).reapBands)
    ∧ (∀ k b, closed.find? (fun x => s2.urgent x.2) = none → s2.flash.collecting = true → s2.flashBusyOk = true →
      (closed.mergeSort (fun x y => (s2.validIn x.2).length ≤ (s2.validIn y.2).length)).head? = some (k, b) →
      exec (.garbageCollection e) s = .next (s2.relocateBand b).reapBands)
    ∧ (closed.find? (fun x => s2.urgent x.2) = none → s2.flash.collecting = false → exec (.garbageCollection e) s = .next s2))
  ∧ (∀ (e : Env) (s s1 : State), s1 = s.enter e → s1.flashBusyOk = true →
    s1.flash.ckptSeq + 16 * max 1 (s1.get F.FLASH_CKPT_CFG_MUS) ≤ s1.flash.journalSeq → exec (.checkpoint e) s = .next s1.checkpoint)
  ∧ (∀ (e : Env) (s s1 : State), s1 = s.enter e → exec (.healthSnap e) s
    = .next ((s1.busWrite (s1.pair F.FLASH_HEALTH_ADDR_LO_ADDR F.FLASH_HEALTH_ADDR_HI_ADDR / 64 * 64) s1.healthLog).deviceFrame 8448))
  ∧ ∀ (e : Env) (rid : Nat) (s s1 s2 s3 : State) (r : Req) (b : Bytes) (t : Slots Bytes), s1 = s.enter e → s1.startedLoad? rid 3 = some r →
    r.part = 0 → (s1.flash.profiles.other.loaded = true → s1.profileUsers s1.flash.profiles.other.epoch = 0) → s1.bundleRead r = .ok b →
    s1.profileOk b = true → t = (s1.flash.profiles.load b).switch →
    ((s1.flashState = 1 ∧ s2 = (s1.format b).parts.keys.foldl (fun (s : State) p => s.writeAnchor p) (s1.format b))
      ∨ ((s1.flashState = 2 ∨ s1.flashState = 3) ∧ s2 = s1)) →
    s3 = ({ s2 with flash := { s2.flash with profiles := t } }).put F.FLASH_STATUS_PROFILE_EPOCH t.epoch.toNat →
    exec (.tableLoadMediaProfile e rid) s
      = .next (((s3.openGroup { recs := [.profile t.epoch] }).2).complete rid .ok { result0 := t.epoch.toNat })

/-- Dies, power failure and the mount (R302, R312, R314, R319, R466): a slow die recovers after 60 s, a dead one is FAILED and its blocks are to be
relocated; PWR_FAIL_N makes the media safe; a mount that cannot be read fails the boot, and MOUNT_DONE makes the device READY. -/
def Obligations.FlashDiesPowerFailAndMount : Prop :=
  (∀ (e : Env) (n : Nat) (s s1 : State), s1 = s.enter e →
    (s1.dieState n = 2 → (s1.die n).slowAt + 60000000000 ≤ s1.time → exec (.dieSlowExit e n) s = .next (s1.put F.FLASH_DIE_STATUS_STATE 1 n))
    ∧ ((s1.dieState n = 1 ∨ s1.dieState n = 2) → ∃ t, exec (.dieFailed e n) s = .next t ∧ t.regs = (s1.dieTo n 3).regs
        ∧ ∀ x ∈ t.flash.blocks, paDie x.1 = n → (x.2.state = 1 ∨ x.2.state = 2) → x.2.relocate = true)
    ∧ (∀ temp, s1.dieState n ≠ 0 →
        (s1.time < s1.flash.tempAt + 60000000000 → exec (.dieTemperatureRead e n temp) s = .next (s1.put F.FLASH_DIE_STATUS_TEMP_C temp n))
        ∧ (s1.flash.tempAt + 60000000000 ≤ s1.time → ∃ t, exec (.dieTemperatureRead e n temp) s = .next t
            ∧ t.regs = (s1.put F.FLASH_DIE_STATUS_TEMP_C temp n).regs ∧ t.flash.tempAt = s1.time / 60000000000 * 60000000000
            ∧ t.flash.health.tempHist.length = 16)))
  ∧ (∀ (e : Env) (s s1 s2 : State), s1 = s.enter e → s1.on F.FLASH_STATUS_PF = false →
    s2 = (s1.put F.FLASH_STATUS_PF 1).health (fun h => { h with powerFails := h.powerFails + 1 }) →
    exec (.pwrFailFall e) s = .next (((if s2.flashReadable = true then s2.flashSafe else s2).put F.FLASH_STATUS_SAFE 1).raise gFlash 3))
  ∧ (∀ (e : Env) (s s1 s2 : State), s1 = s.enter e → s1.on F.FLASH_STATUS_PF = true →
    s2 = (s1.put F.FLASH_STATUS_PF 0).put F.FLASH_STATUS_SAFE 0 →
    exec (.pwrFailRise e) s = .next ({ s2 with flash := { s2.flash with shutdownRec := !s2.flashReadable } }).issueNand)
  ∧ (∀ (e : Env) (s s1 s2 s3 : State) (h : Health) (f : Flash), s1 = s.enter e → s1.phase = 3 → s1.flash.formatted = true → s1.diesPerCh ≠ 0 →
    s1.flashState = 0 →
    exec (.mount e false) s = .next ((s1.put F.GLB_BOOT_STATUS_PHASE 6).put F.GLB_BOOT_STATUS_FAIL_CODE 4)
    ∧ (h = (if s1.flash.shutdownRec = true then s1.flash.saved else { s1.flash.saved with uncleanMounts := s1.flash.saved.uncleanMounts + 1 }) →
      f = { s1.flash with saved := h, mountAt := s1.time, mediaHours := s1.flash.mediaHours + s1.get F.FLASH_MOUNT_CFG_OFF_HOURS } →
      s2 = { s1 with flash := f.remounted } →
      s3 = ((((s2.put F.FLASH_STATUS_STATE 4).put F.FLASH_STATUS_SAFE (s2.get F.FLASH_STATUS_PF)).put
        F.FLASH_STATUS_UNCLEAN (b2n (!s1.flash.shutdownRec))).put F.GLB_MOUNT_TIME_UNCLEAN (b2n (!s1.flash.shutdownRec))).put
        F.FLASH_STATUS_PROFILE_EPOCH f.profiles.epoch.toNat →
      ∃ s4, s4 = s3.sec.anchor.foldl (fun (s : State) x => s.takeKeys x.1 x.2) s3 ∧ exec (.mount e true) s
        = .next (((f.spares.mapIdx (fun c n => (c, n))).foldl (fun (s : State) x => s.put F.FLASH_SPARE_LEFT x.2 x.1) s4).put
            F.FLASH_USABLE_LEAVES f.usable).restoreStore))
  ∧ ∀ (e : Env) (s s1 s2 : State), s1 = s.enter e → s1.phase = 3 →
    (((s1.flash.formatted = false ∨ s1.diesPerCh = 0) ∧ s2 = (s1.put F.GLB_BOOT_STATUS_PHASE 4).put F.PART_STATE_STATE 1)
      ∨ (s1.flash.formatted = true ∧ s1.diesPerCh ≠ 0 ∧ s1.flashState = 4 ∧ ∃ s4,
          s4 = (((s1.put F.FLASH_STATUS_STATE (if s1.flash.readOnly = true then 3 else 2)).put F.GLB_MOUNT_TIME_MS
            (min (2 ^ 24 - 1) ((s1.time - s1.flash.mountAt) / 1000000))).put F.GLB_BOOT_STATUS_PHASE 4).put F.PART_STATE_STATE 1
          ∧ s2 = s4.sec.anchor.keys.foldl (fun (s : State) p => s.markRestored p) s4)) →
    exec (.mountDone e) s = .next ((if (s2.parts.getD 0 {}).keys = [] then s2.freshKeys 0 else s2).raise gFirmware 0)

/-- Ring frames (R388 to R391): a numbered frame that is the next of its sender takes its effect and those held after it follow, a
duplicate has no effect but its acknowledgement, an early one is held, and one whose tag fails is counted and dropped. -/
def Obligations.NumberedFramesTakeEffectInOrder : Prop :=
  (∀ (e : Env) (h : RingHdr) (body : List Nat) (kind : Nat) (s s1 s2 : State) (p : Peer) (c : Instr),
    (kind, c) ∈ [(0, Instr.request e h body), (1, .response e h body), (2, .data e h body), (8, .index e h body)] → s1 = s.enter e →
    2 ≤ s1.get F.RING_STATUS_STATE → s1.ring.gotMembers = true → h.src < 16 → (kind = 0 → s1.on F.RAS_STATUS_FATAL = false) →
    (h.bad = true → exec c s = .next (s1.bump F.RING_TAG_FAIL_COUNT))
    ∧ (h.bad = false → s1.frameIn h = some s2 → p = { (s2.ring.peers.getD h.src {}) with ackDue := true } →
      (h.seq = (p.rxSeq + 1) % 2 ^ 32 → exec c s
        = .next ((({ s2 with ring := { s2.ring with peers := s2.ring.peers.set h.src { p with rxSeq := h.seq } } }).takeFrame h.src kind h.num h.part
            body).takeEarly h.src p.early.length))
      ∧ (h.seq ≠ (p.rxSeq + 1) % 2 ^ 32 → seqLe h.seq p.rxSeq = true → exec c s
        = .next { s2 with ring := { s2.ring with peers := s2.ring.peers.set h.src p } })
      ∧ (h.seq ≠ (p.rxSeq + 1) % 2 ^ 32 → seqLe h.seq p.rxSeq = false → (∀ k ∈ p.early, k.seq ≠ h.seq) → ∀ k : Kept,
        k = { seq := h.seq, kind := kind, num := h.num, part := h.part, body := body } → exec c s
        = .next { s2 with ring := { s2.ring with peers := s2.ring.peers.set h.src { p with early := p.early ++ [k] } } })))
  ∧ (∀ (e : Env) (h : RingHdr) (s s1 : State), s1 = s.enter e →
    (h.bad = true → exec (.ack e h) s = .next (s1.bump F.RING_TAG_FAIL_COUNT))
    ∧ (h.bad = false → ∃ t, exec (.ack e h) s = .next t ∧ { t with ring := s.ring } = s1
        ∧ (t.ring.peers.getD h.src {}).kept = (s.ring.peers.getD h.src {}).kept.filter (fun k => !seqLe k.seq h.ack)))
  ∧ (∀ (e : Env) (src : Nat) (s s1 s2 : State) (p : Peer), s1 = s.enter e → p = s1.ring.peers.getD src {} → p.ackDue = true →
    s2 = { s1 with ring := { s1.ring with peers := s1.ring.peers.set src { p with ackDue := false } } } →
    exec (.ringAckTimer e src) s = .next (s2.enqueue (s1.ringPort src) 0
      { len := ringLen 0, entered := s1.time, what := .ringFrame src 3 0 p.rxSeq 0 [] }))
  ∧ (∀ (e : Env) (dst : Nat) (s s1 : State) (p : Peer) (k : Kept), s1 = s.enter e → 2 ≤ s1.get F.RING_STATUS_STATE →
    p = s1.ring.peers.getD dst {} → p.kept = [k] → k.sentAt + max 1 (s1.get F.RING_CFG_RETX_US) * 1000 ≤ s1.time →
    (16 ≤ k.tries → exec (.ringRetransmit e dst) s = .next (s1.memberGone dst))
    ∧ (k.tries < 16 → ∃ t, exec (.ringRetransmit e dst) s = .next t
        ∧ (t.ring.peers.getD dst {}).kept = [{ k with tries := k.tries + 1, sentAt := s1.time }]))
  ∧ ∀ (e : Env) (fromEast : Bool) (dst kind seq ack num part hops len : Nat) (body : List Nat) (s s1 s2 : State) (port : Nat), s1 = s.enter e →
    2 ≤ s1.get F.RING_STATUS_STATE → dst ≠ s1.myPos →
    (15 ≤ hops + 1 → exec (.ringFrameForward e fromEast dst kind seq ack num part hops len body) s = .next (s1.bump F.RING_HOP_DROPS_COUNT))
    ∧ (hops + 1 < 15 → s1.on (if fromEast = true then F.RING_STATUS_WEST_UP else F.RING_STATUS_EAST_UP) = true →
      port = (if fromEast = true then 17 else 16) → s2 = s1.bump F.RING_FWD_FRAMES_COUNT →
      exec (.ringFrameForward e fromEast dst kind seq ack num part hops len body) s
        = .next (s2.enqueue port (if kind ≥ 3 then 0 else s1.ringQueue part port)
            { len := ringLen len, part := part, entered := s1.time, what := .ringFrame dst kind seq ack num body }))

/-- Joining and leaving the ring (R380 to R386, R399): ENABLE starts the training, a lock drives RING_JOIN, a link that trains sends the
join frame, the master assigns a position and distributes the tables, and a leave gives the buckets up first. -/
def Obligations.RingMembersJoinAndLeave : Prop :=
  (∀ (e : Env) (s s1 : State), s1 = (s.enter e).put F.RING_CFG_ENABLE 1 →
    (s1.get F.RING_STATUS_STATE = 0 → exec (.ringEnable e) s = .next (s1.put F.RING_STATUS_STATE 1))
    ∧ (s1.get F.RING_STATUS_STATE ≠ 0 → exec (.ringEnable e) s = .next s1))
  ∧ (∀ (e : Env) (east west : Bool) (s s1 : State), s1 = s.enter e → s1.get F.RING_STATUS_STATE = 1 → s1.ring.joinPin = false →
    s1.on F.RING_CFG_ENABLE = true → ((east = true ∧ s1.pdOn 88 = true) ∨ (west = true ∧ s1.pdOn 89 = true)) →
    ∃ t, exec (.ringReceiveLock e east west) s = .next t ∧ t.ring.joinPin = true ∧ t.ring.joinAt = some s1.time ∧ { t with ring := s.ring } = s1)
  ∧ (∀ (e : Env) (east : Bool) (s s1 s2 : State), s1 = s.enter e →
    exec (.ringLinkChange e east true true) s = .next ((s1.put F.RING_STATUS_ID_ERR 1).raise gRing 4)
    ∧ (s1.ring.joinPin = true → s1.dieWorks (b2n east) = true → s1.pdOn (if east = true then 88 else 89) = true →
      s2 = s1.put (if east = true then F.RING_STATUS_EAST_UP else F.RING_STATUS_WEST_UP) 1 → s2.get F.RING_STATUS_STATE = 1 →
      exec (.ringLinkChange e east true false) s = .next (s2.put F.RING_STATUS_STATE 2).sendJoin)
    ∧ (s2 = s1.put (if east = true then F.RING_STATUS_EAST_UP else F.RING_STATUS_WEST_UP) 0 → s2.ring.joinPin = true →
      2 ≤ s2.get F.RING_STATUS_STATE → s2.on F.RING_STATUS_EAST_UP = false → s2.on F.RING_STATUS_WEST_UP = false →
      exec (.ringLinkChange e east false false) s = .next (s2.leaveNow false)))
  ∧ (∀ (e : Env) (t : Nat) (s s1 : State), s1 = s.enter e → s1.ring.joinAt = some t → s1.get F.RING_STATUS_STATE = 1 →
    (s1.ring.joinPin = true → t + 20000000 ≤ s1.time →
      exec (.ringTrainTimeout e) s = .next { s1 with ring := { s1.ring with joinPin := false } })
    ∧ (s1.ring.joinPin = false → t + 1000000000 ≤ s1.time → exec (.joinRetry e) s = .next s1.driveJoin))
  ∧ (∀ (e : Env) (h : RingHdr) (serial rank east p inc : Nat) (fresh : Bool) (s s1 s2 s3 s4 : State), s1 = s.enter e → h.bad = false →
    s1.isMaster = true → s1.positionFor serial east = some p → p ≠ s1.myPos →
    s2 = (if s1.posPresent p = true then s1.memberLost p else s1) →
    inc = s2.get F.RING_MEMBER_INCARNATION p + (if (s1.on F.RING_MEMBER_ASSIGNED p && fresh) = true then 1 else 0) →
    s3 = (s2.setMember p serial rank true (inc % 2 ^ 16)).countMembers →
    s4 = (((if (s1.on F.RING_MEMBER_ASSIGNED p && fresh) = true
      then ({ s3 with ring := { s3.ring with peers := s3.ring.peers.set p {} } }.castMembers 0 (p + 1)).raise gRing 0
      else { s3 with ring := { s3.ring with peers := s3.ring.peers.set p {} } }.castMembers 0 (p + 1))).raise gRing 1) →
    ∃ s5, s5 = s4.ringCast 7 0 (shardBody 0 (s4.get F.RING_SHARD_EPOCH_CURRENT) [] s4.mapNow) 4096
      ∧ exec (.join e h serial rank fresh false east) s
        = .next (if (s5.on F.RING_CFG_AUTO_SHARD
          && s5.mapNow.all (fun o => s5.posPresent o)) = true then s5.changeTo (shareMap s5.presentMembers) else s5))
  ∧ (∀ (e : Env) (h : RingHdr) (master : Nat) (rest mine : List Nat) (s s1 s2 : State), s1 = s.enter e → h.bad = false →
    2 ≤ s1.get F.RING_STATUS_STATE → s1.isMaster = false →
    (runsOf 5 rest.length rest).find? (fun w => w.getD 1 0 == Config.serial) = some mine →
    s2 = s1.takeRows (runsOf 5 rest.length rest) →
    ∃ s3 : State, s3.ring.master = some master ∧ s3.ring.gotMembers = true ∧ { s3 with ring := s2.ring } = s2
      ∧ exec (.members e h (0 :: master :: 0 :: rest)) s
        = .next ((s3.put F.RING_STATUS_POSITION (mine.getD 0 0)).countMembers.raise gRing 1).tryJoined)
  ∧ (∀ (e : Env) (s s1 : State), s1 = s.enter e →
    ((s1.get F.RING_STATUS_STATE = 1 ∨ s1.get F.RING_STATUS_STATE = 2) → exec (.ringLeave e) s = .next (s1.leaveNow true))
    ∧ (s1.get F.RING_STATUS_STATE = 3 → s1.ring.leaving = false → s1.presentMembers.all (· == s1.myPos) = false →
      exec (.ringLeave e) s = .next (if s1.isMaster = true
        then ({ s1 with ring := { s1.ring with leaving := true } }).changeTo (({ s1 with ring := { s1.ring with leaving := true } }).mapWithout s1.myPos)
        else ({ s1 with ring := { s1.ring with leaving := true } }).ringCast 5 0 (({ s1 with ring := { s1.ring with leaving := true } }).joinWords true) 32)))
  ∧ ∀ (e : Env) (pos : Nat) (s s1 s2 : State), s1 = s.enter e → s1.isMaster = true → pos < 16 → pos ≠ s1.myPos →
    s1.on F.RING_MEMBER_ASSIGNED pos = true → s1.posPresent pos = false →
    s2 = (s1.putWord (F.RING_MEMBER_ASSIGNED.off pos 0) 0).putWord (F.RING_MEMBER_SERIAL_SERIAL.off pos 0) 0 →
    exec (.ringForget e pos) s = .next ({ s2 with ring := { s2.ring with serials := s2.ring.serials.erase pos } }.castMembers 0 0)

/-- The ring master and its time (R387, R397, R398): the master beats each millisecond while it sees a majority and steps down without one; 50 ms
without a beat end its role for the others, of whom the highest rank takes over; its time sets the members' clocks. -/
def Obligations.RingMasterBeatsAndTakesOver : Prop :=
  (∀ (e : Env) (s s1 s2 : State), s1 = s.enter e → s1.isMaster = true → s1.ring.heartbeatSent + 1000000 ≤ s1.time →
    (s1.majority = true → exec (.heartbeat e) s
      = .next ({ s1 with ring := { s1.ring with heartbeatSent := s1.time } }.ringCast 4 0 [s1.myPos] 8))
    ∧ (s1.majority = false → s2 = (s1.put F.RING_STATUS_ROLE 2).put F.RING_STATUS_NO_MASTER 1 → exec (.heartbeat e) s
      = .next ({ s2 with ring := { s2.ring with master := none, lastHeartbeat := s2.time } }.raise gRing 2)))
  ∧ (∀ (e : Env) (s s1 : State), s1 = s.enter e → s1.get F.RING_STATUS_STATE = 3 → s1.get F.RING_STATUS_ROLE ≠ 1 →
    s1.ring.lastHeartbeat + 50000000 ≤ s1.time →
    (s1.on F.RING_STATUS_NO_MASTER = false → exec (.heartbeatTimeout e) s = .next ((((s1.put F.RING_STATUS_NO_MASTER 1).put F.RING_STATUS_ROLE
      (if s1.ring.rank = 0 then 0 else 2))).raise gRing 2))
    ∧ (∀ q, s1.ring.rank ≠ 0 → s1.outranked = false → s1.ring.master = some q → q ≠ s1.myPos → (s1.memberLost q).majority = true →
      exec (.masterTakeover e) s = .next (s1.memberLost q).becomeMaster))
  ∧ (∀ (e : Env) (s s1 : State), s1 = s.enter e → s1.mayForm = true → exec (.masterTakeover e) s = .next s1.formRing)
  ∧ (∀ (e : Env) (h : RingHdr) (s s1 : State), s1 = s.enter e →
    (h.bad = true → exec (.heartbeatReceived e h) s = .next (s1.bump F.RING_TAG_FAIL_COUNT))
    ∧ (h.bad = false → s1.get F.RING_STATUS_STATE = 3 → h.src ≠ s1.myPos → s1.isMaster = false →
      ∃ t, exec (.heartbeatReceived e h) s = .next t ∧ t.get F.RING_STATUS_NO_MASTER = 0 ∧ t.get F.RING_STATUS_ROLE = 0
        ∧ t.ring.lastHeartbeat = s1.time ∧ t.ring.master = some h.src ∧ { t with ring := s.ring, regs := s.regs } = s1))
  ∧ (∀ (e : Env) (h : RingHdr) (o : Int) (s s1 : State), s1 = s.enter e → h.bad = false → 2 ≤ s1.get F.RING_STATUS_STATE →
    s1.isMaster = false → s1.ring.gotMembers = true → s1.ring.master = some h.src → s1.ring.timed = true →
    ∃ s2, s2 = (s1.put F.RING_TIME_OFFSET_NS (o % 2 ^ 32).toNat).put F.RING_STATUS_SYNCED (b2n (decide (-100 ≤ o) && decide (o ≤ 100)))
      ∧ exec (.time e h (some o) none) s = .next { s2 with ring := { s2.ring with timed := true } }.tryJoined)
  ∧ ∀ (e : Env) (s s1 : State), s1 = s.enter e →
    (s1.isMaster = true → exec (.timeSend e) s = .next (s1.ringCast 10 0 [0, s1.time] 8))
    ∧ (s1.isMaster = false → 2 ≤ s1.get F.RING_STATUS_STATE → exec (.timeSend e) s = .next (s1.ringCast 10 0 [1] 8))

/-- The shard map (R393 to R396): the master commits a staged map, shares the buckets again, or takes an absent member's away; a member moves
its entries when the change opens and takes the map when it closes, which it does once every new owner has answered. -/
def Obligations.ShardMapsChangeUnderTheMaster : Prop :=
  (∀ (e : Env) (s s1 : State), s1 = s.enter e → s1.isMaster = true →
    (s1.on F.RING_CFG_AUTO_SHARD = false → exec (.ringCommit e) s
      = .next (({ s1 with ring := { s1.ring with staged := [] } }).changeTo (s1.mapNow.mapIdx (fun b o => s1.ring.staged.getD b o))))
    ∧ (s1.on F.RING_CFG_AUTO_SHARD = true → exec (.ringRebalance e) s = .next (s1.changeTo (shareMap s1.presentMembers)))
    ∧ (∀ pos t, s1.on F.RING_CFG_AUTO_SHARD = true → (s1.ring.peers.getD pos {}).absentAt = some t → pos < 16 → s1.posPresent pos = false →
        s1.mapNow.contains pos = true → t + s1.get F.RING_CFG_REASSIGN_MS * 1000000 ≤ s1.time →
        exec (.shardReassign e pos) s = .next (s1.changeTo (s1.mapWithout pos)))
    ∧ (∀ m, s1.ring.next = some m → s1.ring.purges = [] → s1.ring.transfers = [] →
        exec (.shardTransferDone e) s = .next (((s1.ringCast 7 0 (shardBody 2 ((s1.get F.RING_SHARD_EPOCH_CURRENT + 1) % 256) [] m) 4096).setMap
          ((s1.get F.RING_SHARD_EPOCH_CURRENT + 1) % 256) m).changeWanted)))
  ∧ (∀ (e : Env) (h : RingHdr) (epoch : Nat) (ws m : List Nat) (s s1 : State), s1 = s.enter e → h.bad = false → 2 ≤ s1.get F.RING_STATUS_STATE →
    s1.isMaster = false → s1.ring.gotMembers = true → s1.ring.master = some h.src → m = ws.map (· % 16) →
    exec (.shard e h (1 :: epoch :: ws)) s
      = .next ((({ s1 with ring := { s1.ring with next := some m } }).put F.RING_SHARD_EPOCH_CHANGING 1).sendMoving m)
    ∧ (∀ phase, phase ≠ 1 → ∃ s2, s2 = s1.setMap (epoch % 256) m
        ∧ exec (.shard e h (phase :: epoch :: ws)) s = .next { s2 with ring := { s2.ring with gotMap := true } }.tryJoined))
  ∧ ∀ (s : State) (epoch : Nat) (m : List Nat), (s.setMap epoch m) = (((({ s with ring := { s.ring with map := m, next := none, transfers := [] } }).put
    F.RING_SHARD_EPOCH_CURRENT epoch).put F.RING_SHARD_EPOCH_CHANGING 0).dropUnowned)

/-- Errors found and repaired (R403 to R422): what a reader finds is decided by the errors of its codeword, a scrub that stalls warns, a retirement
takes out a slot or a unit or says why not, a recovery rebuilds the store, a fatal fault stops the Spires, a faulted core is set aside. -/
def Obligations.ErrorsAreFoundAndRepaired : Prop :=
  (∀ (e : Env) (unit addr : Nat) (errs : List (Nat × Nat)) (hit : ScrubHit) (s s1 : State), s1 = s.enter e → 1 ≤ s1.phase →
    s1.on F.RAS_STATUS_FATAL = false →
    exec (.hbmScrub e 0 unit errs addr .poisonRead none none) s = .next (s1.bump F.RAS_HBM_POISON_READS_COUNT)
    ∧ ((∀ ls qs, hit ≠ .directory ls qs) → hit ≠ .poisonRead → unit < (s1.injectDone 0 unit).stacks → (s1.injectDone 0 unit).inSr = false →
      exec (.hbmScrub e 0 unit errs addr hit none none) s = .next ((s1.injectDone 0 unit).hbmError unit errs addr hit))
    ∧ ∀ source, (∀ ls qs, hit ≠ .directory ls qs) → hit ≠ .poisonRead → 1 ≤ source → source ≤ 6 →
      exec (.hbmScrub e source unit errs addr hit none none) s = .next ((s1.injectDone source unit).sramError source unit errs addr hit)
    ∧ ∀ (lap : Option (Bool × Nat)) (pct : Option Nat) (s2 s3 : State), exec (.hbmScrub e source unit errs addr hit none none) s = .next s2 →
      s3 = (match lap with | some (hbm, v) => if hbm && s2.inSr then s2 else s2.endLap hbm v | none => s2) →
      exec (.hbmScrub e source unit errs addr hit lap pct) s
        = .next (match pct with | some v => s3.put F.RAS_SCRUB_POS_PCT (min 100 v) | none => s3))
  ∧ (∀ (e : Env) (s s1 : State), s1 = s.enter e → 2 ≤ s1.phase → s1.on F.RAS_SCRUB_POS_STALLED = false →
    s1.ras.lapStart + max 1 (s1.get F.RAS_SCRUB_CFG_WARN_H) * 3600000000000 ≤ s1.time →
    exec (.scrubStalled e) s = .next ((s1.put F.RAS_SCRUB_POS_STALLED 1).raise gRasCorrected 2))
  ∧ (∀ (e : Env) (kind unit die err : Nat) (s s1 s2 : State), s1 = s.enter e → kind < 6 → 2 ≤ s1.phase →
    err = s1.retireErr kind unit (s1.slotOf? (s1.pair F.RAS_RETIRE_ADDR_LO_ADDR F.RAS_RETIRE_ADDR_HI_ADDR)) →
    s2 = s1.put F.RAS_RETIRE_STATUS_ERR err →
    (err ≠ 0 → exec (.rasRetireGo e kind unit die) s = .next s2)
    ∧ (∀ k, err = 0 → kind = 0 → s1.slotOf? (s1.pair F.RAS_RETIRE_ADDR_LO_ADDR F.RAS_RETIRE_ADDR_HI_ADDR) = some k →
      exec (.rasRetireGo e kind unit die) s = .next (({ s2 with ras := { s2.ras with retiring := some (0, k) } }).retireSlot k))
    ∧ (err = 0 → kind ≠ 0 →
      exec (.rasRetireGo e kind unit die) s = .next (({ s2 with ras := { s2.ras with retiring := some (kind, unit) } }).retireUnit kind unit (die % 16))))
  ∧ (∀ (e : Env) (badLeaves badSeqs : List Nat) (s s1 s2 s3 : State), s1 = s.enter e → s1.serves = true →
    s2 = (s1.put F.RAS_STATUS_RECOVERING 1).raise gRasUncorrected 2 →
    s3 = ((List.range 128).filter s2.partActive).foldl (fun (s : State) p => (s.put F.PART_RAS_STATUS_RECOVERED 1 p).refreshPart p) s2 →
    exec (.storeRecovery e badLeaves badSeqs) s = .next ((((((s3.commitFormed).endRequests true).stopSpires).rebuildTier badLeaves badSeqs).put
      F.RAS_STATUS_RECOVERING 0).bump F.RAS_STATUS_RECOVERIES))
  ∧ (∀ (e : Env) (s s1 : State), s1 = s.enter e → s1.phase ≠ 0 → s1.on F.RAS_STATUS_FATAL = false →
    exec (.fatalFault e (true, none)) s = .next ((s1.setFatal).endRequests false).stopSpires
    ∧ exec (.fatalFault e (false, none)) s = .next ({ s1.setFatal with reqs := [], insts := [] } : State).stopSpires
    ∧ exec (.fatalFault e (true, some 1)) s = .next (((s1.setFatal).endRequests false).stopSpires.stopDie 1)
    ∧ ∀ w : Bool, exec (.fatalFault e (w, some 0)) s = .next (({ s1.setFatal with reqs := [], insts := [] } : State).stopSpires.stopDie 0))
  ∧ (∀ (e : Env) (s s1 : State), s1 = s.enter e → s1.boot.keep = true → exec (.keepRestart e) s
    = .next (((({ s1 with boot := { s1.boot with keep := false } }).setKeepDown 1).bump F.RAS_KEEP_RESTARTS_COUNT).raise gFirmware 1))
  ∧ (∀ (e : Env) (cluster core : Nat) (s s1 : State), s1 = s.enter e → cluster < 8 → core < 32 → s1.pdOn (48 + cluster) = true →
    s1.ras.faulted.contains (cluster * 32 + core) = false →
    exec (.saplingFault e cluster core) s
      = .next ((({ s1 with ras := { s1.ras with faulted := (cluster * 32 + core) :: s1.ras.faulted } }).bump F.SAPL_FAULTS_COUNT).raise gSapling 0))
  ∧ ∀ (e : Env) (g : Nat) (s s1 : State), s1 = s.enter e →
    ∃ t, exec (.codecSliceReset e g) s = .next t ∧ t.tabCache.get? g = none ∧ { t with tabCache := s.tabCache } = s1

/-- The check-bit test, error injection and self-tests (R411 to R419): raw reads and writes of one codeword pass by the host's buffer, an armed
injection and a codec test show on the debug pin, and a self-test is refused, runs and reports. -/
def Obligations.CheckBitTestsAndSelfTests : Prop :=
  (∀ (e : Env) (s s1 s2 : State) (bs : Bytes), s1 = s.enter e → s1.on F.RAS_CBT_CTL_ENABLE = true → 2 ≤ s1.phase →
    (s1.hbmBytes ≤ s1.cbtWord * 224 → exec (.readRaw e) s = .next (s1.put F.RAS_CBT_STATUS_ERR 1))
    ∧ (s1.cbtWord * 224 < s1.hbmBytes → s1.rangeFails (memKey 0 s1.cbtBuf) 256 = false → s1.cwBytes s1.cbtWord = (bs, s2) →
      exec (.readRaw e) s = .next ((s2.busWrite (memKey 0 s2.cbtBuf) bs).deviceFrame 256)))
  ∧ (∀ (e : Env) (s s1 s2 s3 : State) (bs old : Bytes) (r : RawRead), s1 = s.enter e → s1.on F.RAS_CBT_CTL_ENABLE = true → 2 ≤ s1.phase →
    s1.busRead (memKey 0 s1.cbtBuf) 256 = .ok bs →
    (s1.hbmBytes ≤ s1.cbtWord * 224 → exec (.writeRaw e) s = .next (s1.put F.RAS_CBT_STATUS_ERR 1))
    ∧ (s1.cbtWord * 224 < s1.hbmBytes → s1.cwBytes s1.cbtWord = (old, s2) → s2.rawRead old bs = (r, s3) →
      ∃ s4 n, s4 = s3.applyRaw s1.cbtWord r ∧ exec (.writeRaw e) s
        = .next { s4 with ras := { s4.ras with raw := s4.ras.raw.set s1.cbtWord (n, bs) } }))
  ∧ (∀ (e : Env) (target unit bits : Nat) (s s1 s2 : State), s1 = s.enter e →
    s2 = ((s1.put F.RAS_INJECT_TARGET (target % 16)).put F.RAS_INJECT_UNIT (unit % 256)).put F.RAS_INJECT_BITS (bits % 4) →
    (s2.on F.RAS_CBT_CTL_ENABLE = true → exec (.rasInjectArm e target unit bits) s = .next ((s2.put F.RAS_INJECT_ARM 1).setDebug 2))
    ∧ (s2.on F.RAS_CBT_CTL_ENABLE = false → exec (.rasInjectArm e target unit bits) s = .next s2))
  ∧ (∀ (e : Env) (target unit : Nat) (s s1 s2 : State), s1 = s.enter e → 2 ≤ s1.phase → s1.on F.RAS_STATUS_FATAL = false →
    (s1.ras.bist.isSome = true → exec (.rasBistGo e target unit) s = .next (s1.put F.RAS_BIST_STATUS_REFUSED 1))
    ∧ (s1.ras.bist = none → s1.bistOk target unit = true →
      s2 = { s1.put F.RAS_BIST_STATUS_BUSY 1 with ras := { s1.ras with bist := some (target, unit) } } →
      exec (.rasBistGo e target unit) s = .next (if target = 5 then s2.setDebug 4 else s2)))
  ∧ ∀ (e : Env) (target unit fails : Nat) (failed : List Nat) (s s1 s2 : State), s1 = s.enter e → s1.ras.bist = some (target, unit) →
    s2 = (if target = 5 then s1.loseTier else s1).bistFail target unit failed →
    ∃ t, exec (.bistDone e target unit fails failed) s = .next t ∧ t.ras.bist = none ∧ t.get F.RAS_BIST_STATUS_BUSY = 0
      ∧ t.get F.RAS_BIST_STATUS_PASS = b2n (fails = 0) ∧ t.get F.RAS_BIST_STATUS_FAILS = min fails (2 ^ 16 - 1)
      ∧ { t with ras := s2.ras, regs := s2.regs } = s2

/-- Extensions (R279 to R287): an image whose header and signature hold is loaded, is enabled on a core that is free and not for a partition that
allows confidential mode, and its hooks run on sealed chunks and at its timer. -/
def Obligations.ExtensionsLoadAndRun : Prop :=
  (∀ (e : Env) (p : Nat) (s s1 : State) (b : Bytes) (k : Nat), s1 = s.enter e → p < 128 → (s1.ext p).state = 0 → s1.serves = true →
    s1.busRead (memKey 0 ((s1.ext p).addr / 64 * 64)) (s1.ext p).len = .ok b →
    (64 ≤ (s1.ext p).len → extHeaderOk b (s1.ext p).len = true → s1.sec.extKey = some k →
      Config.sigOk k (b.take (xSigOff b + 104)) = true →
      ∃ t, exec (.extLoad e p) s = .next t ∧ (t.ext p).state = 2 ∧ (t.ext p).err = 0 ∧ (t.ext p).hooks = xHooks b ∧ (t.ext p).timerMs = xTimer b
        ∧ (t.ext p).budget = xBudget b ∧ (t.ext p).image = b.take (xSigOff b + 104) ∧ { t with exts := s.exts } = s1)
    ∧ (extHeaderOk b (s1.ext p).len = false → exec (.extLoad e p) s = .next (s1.setExt p { s1.ext p with err := 1 })))
  ∧ (∀ (e : Env) (p : Nat) (s s1 : State), s1 = s.enter e →
    ((s1.ext p).state = 2 → s1.on F.PART_SEC_CFG_CHM_ALLOW p = true → exec (.extEnable e p) s = .next (s1.setExt p { s1.ext p with err := 5 }))
    ∧ ((s1.ext p).state = 2 → s1.on F.PART_SEC_CFG_CHM_ALLOW p = false →
      s1.extCores ≤ s1.exts.countP (fun (y : Nat × Ext) => y.2.state == 3) → exec (.extEnable e p) s = .next (s1.setExt p { s1.ext p with err := 3 }))
    ∧ ((s1.ext p).state = 2 → s1.on F.PART_SEC_CFG_CHM_ALLOW p = false →
      s1.exts.countP (fun (y : Nat × Ext) => y.2.state == 3) < s1.extCores →
      exec (.extEnable e p) s = .next (s1.setExt p { s1.ext p with state := 3, err := 0, lastTimer := s1.time }))
    ∧ ((s1.ext p).state ≠ 0 → exec (.extDisable e p) s = .next (s1.setExt p { s1.ext p with state := 0, notes := [] })))
  ∧ (∀ (e : Env) (p qi n : Nat) (rest : List (Nat × Nat)) (c : Chunk) (s s1 s2 : State), s1 = s.enter e → s1.extHook p 1 = true →
    s1.serves = true → s1.extCores ≠ 0 → (s1.ext p).notes = (qi, n) :: rest → s2 = s1.setExt p { s1.ext p with notes := rest } →
    (s2.seq qi).chunks.find? (fun c => c.number == n) = some c →
    exec (.sealNote e p) s = .next (s2.extInvoke p ((chunkRecord c).map (fun b => b.toNat))).2)
  ∧ ∀ (e : Env) (p : Nat) (s s1 : State), s1 = s.enter e → s1.extHook p 2 = true → s1.serves = true → s1.extCores ≠ 0 →
    (s1.ext p).lastTimer + (s1.ext p).timerMs * 1000000 ≤ s1.time → exec (.timer e p) s
      = .next ((s1.setExt p { s1.ext p with lastTimer := (s1.ext p).lastTimer + (s1.ext p).timerMs * 1000000 }).extInvoke p []).2

/-- Key rotation (R431, R442): refused with a code by item 1, else a fresh key set under the next epoch is current, the old one waits in the
other slot for its users, and the anchor is written; a slot whose users are gone is retired with the security cause KEY_RETIRED (8). -/
def Obligations.KeysRotateAndRetire : Prop :=
  (∀ (e : Env) (p : Nat) (s s1 : State), s1 = s.enter e → p < 128 → s1.serves = true →
    (s1.partActive p = false → exec (.keyRotate e p) s = .next (s1.put F.SEC_KEY_STATUS_ERR 1))
    ∧ (s1.partActive p = true → s1.otherKeyUsers p ≠ 0 → exec (.keyRotate e p) s = .next (s1.put F.SEC_KEY_STATUS_ERR 2))
    ∧ (s1.partActive p = true → s1.otherKeyUsers p = 0 → s1.flashState = 3 → exec (.keyRotate e p) s = .next (s1.put F.SEC_KEY_STATUS_ERR 3))
    ∧ ∀ s2 x, s1.partActive p = true → s1.otherKeyUsers p = 0 → s1.flashState ≠ 3 → x = s1.parts.getD p {} →
      s2 = ({ s1 with parts := s1.parts.set p { x with keys := x.keys.filter (fun (k : Nat × Nat) => k.1 == (s1.keyEpoch p).toNat), sweep := true } }
        : State).drawKey p (s1.keyEpoch p + 1) →
      exec (.keyRotate e p) s = .next ((((s2.put F.PART_KEY_STATUS_OTHER_EPOCH (s1.keyEpoch p).toNat p).put F.PART_KEY_STATUS_OTHER_LOADED 1 p).put
        F.PART_KEY_STATUS_CURRENT_EPOCH (s1.keyEpoch p + 1).toNat p).writeAnchor p))
  ∧ ∀ (e : Env) (p : Nat) (s s1 s2 : State) (x : Part), s1 = s.enter e → s1.on F.PART_KEY_STATUS_OTHER_LOADED p = true → s1.otherKeyUsers p = 0 →
    x = s1.parts.getD p {} →
    s2 = { s1 with parts := s1.parts.set p { x with keys := x.keys.filter (fun (k : Nat × Nat) => k.1 == (s1.keyEpoch p).toNat), sweep := false } } →
    exec (.keyRetired e p) s = .next (((s2.put F.PART_KEY_STATUS_OTHER_LOADED 0 p).writeAnchor p).security 8 p)

/-- Sessions, streams and confidential interfaces (R432 to R435): a session opens on a function that has a DOE, its streams start and stop in
it, an interface is locked in its session on its stream, is bound to keys, started and stopped, and each answer goes out. -/
def Obligations.SessionsStreamsAndInterfaces : Prop :=
  (∀ (e : Env) (fn : Nat) (s s1 : State), s1 = s.enter e → s1.boot.keep = true → (s1.hasDoe fn = true →
      exec (.keyExchange e fn) s = .next (({ s1 with sec := { s1.sec with sessions := fn :: s1.sec.sessions.filter (· != fn) } }).reply 2 .ok))
    ∧ (s1.hasDoe fn = false → exec (.keyExchange e fn) s = .next (s1.reply 2 .accessDenied)))
  ∧ (∀ (e : Env) (fn k op : Nat) (stream : Option Nat) (s s1 : State), s1 = s.enter e →
    (s1.sec.sessions.contains fn = false → exec (.ideKm e fn stream op) s = .next (s1.reply 3 .accessDenied))
    ∧ (s1.sec.sessions.contains fn = true → fn ≠ mgmtPort → k < 64 → s1.sec.streams.get? k = none →
      exec (.ideKm e fn (some k) 0) s = .next (({ s1 with sec := { s1.sec with streams := s1.sec.streams.set k fn } }).reply 3 .ok))
    ∧ (s1.sec.sessions.contains fn = true → fn ≠ mgmtPort →
      exec (.ideKm e fn none 0) s = .next (({ s1 with sec := { s1.sec with linkIde := true } }).reply 3 .ok))
    ∧ ∀ s2, s1.sec.sessions.contains fn = true → fn ≠ mgmtPort → s1.sec.streams.get? k = some fn →
      s2 = { s1 with sec := { s1.sec with streams := s1.sec.streams.erase k } } → 2 ≤ op →
      (s2.tdi fn ≠ 0 → (s2.chms.getD fn {}).stream = k → exec (.ideKm e fn (some k) op) s = .next ((s2.endChm fn 3).reply 3 .ok))
      ∧ (s2.tdi fn = 0 → exec (.ideKm e fn (some k) op) s = .next (s2.reply 3 .ok)))
  ∧ (∀ (e : Env) (p stream : Nat) (s s1 : State), s1 = s.enter e → p ≠ 0 → p < 128 → s1.vfEnabled p = true →
    s1.on F.PART_SEC_CFG_CHM_ALLOW p = true → s1.sec.sessions.contains p = true → s1.sec.streams.get? stream = some p → s1.tdi p = 0 →
    ∃ t, exec (.lockInterfaceRequest e p stream) s = .next t ∧ t.tdi p = 1 ∧ (t.chms.getD p {}).stream = stream
      ∧ (t.chms.getD p {}).locked = true ∧ (t.chms.getD p {}).bound = false ∧ t.out = .mgmt 4 Status.ok.code [] :: s1.out
      ∧ { t with chms := s1.chms, regs := s1.regs, out := s1.out } = s1)
  ∧ (∀ (e : Env) (p start : Nat) (s s1 : State), s1 = s.enter e → s1.sec.sessions.contains p = true → s1.tdi p = 1 ∨ s1.tdi p = 2 →
    ∃ t, exec (.chmBind e p start) s = .next t ∧ (t.chms.getD p {}).bound = true ∧ (t.chms.getD p {}).start = start % 2 ^ 64
      ∧ (t.chms.getD p {}).epoch = (s1.chms.getD p {}).epoch + 1
      ∧ (t.chms.getD p {}).prevEpoch = (if (s1.chms.getD p {}).bound then some (s1.chms.getD p {}).epoch else none) ∧ t.tdi p = s1.tdi p
      ∧ { t with chms := s1.chms, regs := s1.regs, out := s1.out } = s1)
  ∧ (∀ (e : Env) (p : Nat) (s s1 : State), s1 = s.enter e → (s1.tdi p = 1 → (s1.chms.getD p {}).bound = true →
      exec (.startInterfaceRequest e p) s = .next (((s1.put F.PART_CHM_STATUS_TDI_STATE 2 p).put F.PART_CHM_STATUS_ACTIVE 1 p).reply 6 .ok))
    ∧ (s1.tdi p ≠ 1 → exec (.startInterfaceRequest e p) s = .next (s1.reply 6 .accessDenied)))
  ∧ ∀ (e : Env) (p : Nat) (s s1 : State), s1 = s.enter e → p < 128 →
    (s1.tdi p ≠ 0 → exec (.stopInterfaceRequest e p 0) s = .next ((s1.endChm p 0).reply 7 .ok)
      ∧ exec (.stopInterfaceRequest e p 1) s = .next (s1.endChm p 3)
      ∧ exec (.stopInterfaceRequest e p 2) s
        = .next (({ s1 with sec := { s1.sec with sessions := s1.sec.sessions.filter (· != p) } }).endChm p 3)
      ∧ exec (.stopInterfaceRequest e p 3) s
        = .next (({ s1 with sec := { s1.sec with streams := s1.sec.streams.erase (s1.chms.getD p {}).stream } }).endChm p 3))
    ∧ (s1.tdi p = 0 → exec (.stopInterfaceRequest e p 0) s = .next s1)

/-- Provisioning, measurements and updates (R442 to R444, R464): each message of R444 in a session that chains to the operator root has its
effect, and none without such a session; a measurement answers with its digest; verified images are taken in recovery. -/
def Obligations.TheOperatorProvisionsTheDevice : Prop :=
  (∀ (e : Env) (fn root key : Nat) (s s1 : State), s1 = s.enter e → s1.boot.keep = true → s1.sec.root = none → s1.sec.sessions.contains fn = true →
    exec (.claim e fn root key true) s = .next (({ s1 with sec := { s1.sec with root := some root, extKey := some key } }).reply 8 .ok)
    ∧ exec (.claim e fn root key false) s = .next (s1.reply 8 .accessDenied))
  ∧ (∀ (e : Env) (key port : Nat) (s s1 : State), s1 = s.enter e → s1.opSession true = true →
    (s1.allFree = true → s1.get F.RING_STATUS_STATE = 0 → exec (.setFleet e key true) s = .next (({ s1 with fleet := some key }).reply 9 .ok))
    ∧ exec (.setExtKey e key true) s = .next (({ s1 with sec := { s1.sec with extKey := some key } }).reply 10 .ok)
    ∧ (port < 16 → s1.on F.NET_PORT_CFG_ENABLE (port / 4) = false →
      exec (.setCak e port key true) s = .next (({ s1 with sec := { s1.sec with caks := s1.sec.caks.set port key } }).reply 11 .ok))
    ∧ exec (.debugUnlock e 0 true) s = .next (((s1.setDebug 0).security 6 0).reply 12 .ok)
    ∧ exec (.debugUnlock e 1 true) s = .next (((s1.setDebug 3).security 6 0).reply 12 .ok)
    ∧ (s1.allFree = true → exec (.decommission e true) s
      = .next (({ s1 with fleet := none, sec := { s1.sec with root := none, caks := [], anchor := [] } }).reply 13 .ok)))
  ∧ (∀ (e : Env) (key port : Nat) (s s1 : State), s1 = s.enter e →
    exec (.setFleet e key false) s = .next (s1.reply 9 .accessDenied) ∧ exec (.setExtKey e key false) s = .next (s1.reply 10 .accessDenied)
    ∧ exec (.setCak e port key false) s = .next (s1.reply 11 .accessDenied)
    ∧ exec (.debugUnlock e key false) s = .next (s1.reply 12 .accessDenied)
    ∧ exec (.decommission e false) s = .next (s1.reply 13 .accessDenied))
  ∧ (∀ (e : Env) (fn i : Nat) (s s1 : State) (b : Bytes), s1 = s.enter e → s1.boot.keep = true → s1.hasDoe fn = true → s1.measured i = some b →
    exec (.spdmGetMeasurements e fn i) s = .next (s1.reply 1 .ok (i :: (sha384 b).map (fun b => b.toNat))))
  ∧ ∀ (e : Env) (image : Nat) (s s1 s2 : State), s1 = s.enter e → s1.boot.aon = true → s1.cupola.tripped = false → s1.phase = 5 →
    s2 = { s1 with boot := { s1.boot with
      held := true, area := s1.boot.area || s1.flash.perCh != 0, version := image, nextVersion := image } } →
    exec (.pldmFirmwareUpdate e image true) s = .next ((s2.put F.GLB_BOOT_STATUS_PHASE 0).put F.GLB_BOOT_STATUS_FAIL_CODE 0)
    ∧ exec (.pldmFirmwareUpdate e image false) s = .next s1

/-- Power domains (R449 to R452, R454): a request to switch on or off ends with the first outcome that applies, a domain comes on when its
switches are up, goes off when it has drained, and the stacks go into and out of self-refresh together. -/
def Obligations.DomainsPowerOnAndOff : Prop :=
  (∀ (e : Env) (d : Nat) (w : Bool) (s s1 : State), s1 = s.enter e → d < 92 → s1.pdUp = true →
    (64 ≤ d ∧ d < 72 ∨ (s1.pd d).state = 5 → exec (.pdOn e d w) s = .next (s1.pdResult d .accessDenied))
    ∧ (¬ (64 ≤ d ∧ d < 72) →
      ((s1.pd d).state = 2 → exec (.pdOn e d w) s = .next (s1.pdResult d .ok))
      ∧ ((s1.pd d).state = 3 → (s1.pd d).held = false →
        exec (.pdOn e d false) s = .next (s1.pdResult d .busyTeardown)
        ∧ exec (.pdOn e d true) s = .next (s1.setPd d { s1.pd d with held := true }))
      ∧ ((s1.pd d).state = 0 → (s1.pd d).held = false → s1.budgetMw < s1.reserveMw + domainMw d + s1.cupola.refreshMw →
        exec (.pdOn e d w) s = .next (s1.pdResult d .quotaExceeded))
      ∧ ((s1.pd d).state = 0 → (s1.pd d).held = false → s1.reserveMw + domainMw d + s1.cupola.refreshMw ≤ s1.budgetMw →
        exec (.pdOn e d w) s = .next (s1.setPd d { s1.pd d with state := 1 }))))
  ∧ (∀ (e : Env) (d : Nat) (s s1 : State), s1 = s.enter e → d < 92 → (s1.pd d).state = 1 → s1.cupola.tripped = false →
    exec (.pdPoweredOn e d) s = .next (((s1.setPd d { s1.pd d with state := 2 }).domainStart d).pdResult d .ok))
  ∧ (∀ (e : Env) (d : Nat) (s s1 : State), s1 = s.enter e → d < 92 → s1.pdUp = true →
    (64 ≤ d → d < 72 → exec (.pdOff e d) s = .next (s1.pdResult d .accessDenied))
    ∧ (¬ (64 ≤ d ∧ d < 72) →
      ((s1.pd d).state = 0 → exec (.pdOff e d) s = .next (s1.pdResult d .ok))
      ∧ ((s1.pd d).state = 2 → s1.offRefused d = true → exec (.pdOff e d) s = .next (s1.pdResult d .busyTeardown))
      ∧ ((s1.pd d).state = 2 → s1.offRefused d = false →
        exec (.pdOff e d) s = .next ((s1.setPd d { s1.pd d with state := 3 }).domainDrain d))
      ∧ ((s1.pd d).state = 3 → exec (.pdOff e d) s = .next (s1.setPd d { s1.pd d with held := false }))))
  ∧ (∀ (e : Env) (d : Nat) (s s1 s2 : State), s1 = s.enter e → d < 92 → (s1.pd d).state = 3 → s1.domainDrained d = true →
    s2 = ((s1.setPd d { s1.pd d with state := 0, held := false }).domainGone d).pdResult d .ok →
    ((s1.pd d).held = false → exec (.pdDrainDone e d) s = .next s2)
    ∧ ((s1.pd d).held = true → exec (.pdDrainDone e d) s = .next (effPdOn s2 d false)))
  ∧ (∀ (e : Env) (s s1 : State), s1 = s.enter e → s1.pdUp = true → s1.inSr = false →
    ((∃ d ∈ srDomains, (s1.pd d).state ≠ 0) → exec (.hbmSrEnter e) s = .next (s1.put F.CUPOLA_HBM_STATUS_ERR 1))
    ∧ ((∀ d ∈ srDomains, (s1.pd d).state = 0) →
      exec (.hbmSrEnter e) s = .next (((s1.put F.CUPOLA_HBM_CTL_SR 1).put F.CUPOLA_HBM_STATUS_IN_SR 1).stacksTo 0)))
  ∧ ∀ (e : Env) (s s1 : State), s1 = s.enter e → s1.inSr = true → s1.cupola.tripped = false →
    exec (.hbmSrExit e) s = .next (((s1.put F.CUPOLA_HBM_CTL_SR 0).put F.CUPOLA_HBM_STATUS_IN_SR 0).stacksTo 2)

/-- The epoch of Cupola (R453, R456, R457): the budget written since the last epoch is in force, the reserve, the refresh due and the grants
stay within it wherever the reserve and the refresh do, the core current rises by at most the slew limit, and the grants go to blocks that
ask. -/
def Obligations.EveryEpochStaysWithinTheBudget : Prop :=
  ∀ (e : Env) (refresh canopy : List Nat) (codec lantern : List (Nat × Nat)) (s s1 s2 : State), s1 = s.enter e → s1.pdUp = true →
    s2 = (match s1.cupola.budget with | some w => s1.put F.CUPOLA_BUDGET_WATTS w | none => s1) →
    ∃ t, exec (.cupolaEpoch e refresh codec lantern canopy) s = .next t ∧ t.cupola.budget = none
      ∧ (s2.reserveMw + s2.refreshDue refresh ≤ 1000 * s2.get F.CUPOLA_BUDGET_WATTS →
        s2.reserveMw + s2.refreshDue refresh + grantsMw t.cupola.grants ≤ 1000 * s2.get F.CUPOLA_BUDGET_WATTS)
      ∧ (1000 * s2.get F.CUPOLA_BUDGET_WATTS < s2.reserveMw + s2.refreshDue refresh → grantsMw t.cupola.grants = 0)
      ∧ t.cupola.coreMa = grantsMa t.cupola.grants
      ∧ t.cupola.coreMa ≤ s1.cupola.coreMa + 1000 * s2.get F.CUPOLA_SLEW_A_PER_US
      ∧ ∀ g ∈ t.cupola.grants, ∃ p, (g.cls, g.unit, p) ∈ s2.powerRequests codec lantern canopy

/-- Budget, temperature and trip (R457, R459 to R461): a budget out of range is ignored, one below the reserve and the refresh is recorded,
another waits for the epoch; a sample moves the stage of its sensor with 2 °C of hysteresis and raises its causes; a trip is fatal. -/
def Obligations.BudgetTemperatureAndTrip : Prop :=
  (∀ (e : Env) (w : Nat) (s s1 : State), s1 = s.enter e → s1.pdUp = true →
    (w < 300 ∨ 780 < w → exec (.cupolaBudgetWrite e w) s = .next s1)
    ∧ (300 ≤ w → w ≤ 780 → 1000 * w < s1.reserveMw + s1.cupola.refreshMw →
      exec (.cupolaBudgetWrite e w) s = .next ((s1.put F.CUPOLA_STATUS_BUDGET_ERR 1).raise gPower 1))
    ∧ (300 ≤ w → w ≤ 780 → s1.reserveMw + s1.cupola.refreshMw ≤ 1000 * w →
      exec (.cupolaBudgetWrite e w) s = .next { s1 with cupola := { s1.cupola with budget := some w } }))
  ∧ (∀ old temp, (temp ≥ 104 → stageAfter old temp = 3) ∧ (101 ≤ temp → temp < 104 → stageAfter 0 temp = 2)
    ∧ (98 ≤ temp → temp < 101 → stageAfter 0 temp = 1) ∧ (temp ≤ 96 → stageAfter old temp = 0)
    ∧ (temp = 103 → stageAfter 3 temp = 3) ∧ (temp = 102 → stageAfter 3 temp = 2))
  ∧ (∀ (e : Env) (n temp st t : Nat) (s s1 s2 s3 : State), s1 = s.enter e → n < 10 + s1.stacks → s1.boot.aon = true → t = min temp 255 →
    st = (if n < 10 then stageAfter (s1.sensorStage n) t else 0) →
    s2 = ((s1.put F.THERM_SENSOR_TEMP_C t n).put F.THERM_SENSOR_STAGE st n).put F.THERM_SENSOR_MAX_C (max t (s1.get F.THERM_SENSOR_MAX_C n)) n →
    s3 = (if n < 8 ∧ st ≠ s1.sensorStage n then s2.groveStage n st else s2).junction →
    (st = s1.sensorStage n → t < s1.get F.THERM_CFG_WARN_C → exec (.thermalSample e n temp) s = .next s3)
    ∧ (s1.sensorStage n < st → t < s1.get F.THERM_CFG_WARN_C → exec (.thermalSample e n temp) s = .next (s3.raise gThermal 1))
    ∧ (st < s1.sensorStage n → t < s1.get F.THERM_CFG_WARN_C → exec (.thermalSample e n temp) s = .next (s3.raise gThermal 2))
    ∧ (st = s1.sensorStage n → s1.sensorTemp n < s1.get F.THERM_CFG_WARN_C → s1.get F.THERM_CFG_WARN_C ≤ t →
      exec (.thermalSample e n temp) s = .next (s3.raise gThermal 0)))
  ∧ ∀ (e : Env) (n : Nat) (s s1 s2 : State), s1 = s.enter e → n < 10 + s1.stacks → s1.boot.aon = true → s1.cupola.tripped = false →
    s1.on F.RAS_STATUS_FATAL = false → s2 = { s1 with cupola := { s1.cupola with tripped := true } } →
    exec (.thermalTrip e n) s = .next (((((s2.setFatal).endRequests false).stopSpires).leaveNow true).raise gFatal 1)

/-- Mailboxes (R485, R489 to R491): a message sent makes H2K full or sets OVERRUN, Keep takes messages in order and answers the oldest with
its service's result where K2H is empty, a read empties K2H, and a device that is still pending signals again. -/
def Obligations.MailboxesCarryMessagesOnce : Prop :=
  (∀ (e : Env) (n v : Nat) (sec : Bool) (s s1 : State), s1 = s.enter e → n < boxCount sec → s1.boxesUp = true →
    (s1.on (fH2kFull sec) n = true → exec (.h2kSend e n sec 0 v) s = .next (s1.put (fOverrun sec) 1 n))
    ∧ (s1.on (fH2kFull sec) n = false →
      exec (.h2kSend e n sec 0 v) s = .next ((s1.setBox sec n { s1.box sec n with h2k := v % 2 ^ 64 }).put (fH2kFull sec) 1 n)
      ∧ exec (.h2kSend e n sec 2 v) s = .next ((s1.setBox sec n { s1.box sec n with
        h2k := (s1.box sec n).staged + v % 2 ^ 32 * 2 ^ 32 }).put (fH2kFull sec) 1 n))
    ∧ exec (.h2kSend e n sec 1 v) s = .next (s1.setBox sec n { s1.box sec n with staged := v % 2 ^ 32 }))
  ∧ (∀ (e : Env) (n off : Nat) (sec : Bool) (s s1 : State), s1 = s.enter e → n < boxCount sec → s1.boxesUp = true →
    off = (if sec then 0x10000008 else 0x3C00008) + 32 * n →
    exec (.k2hRead e n sec 0) s = .next ((s1.emptyBox sec n).send (.readData 0 off (s1.box sec n).k2h))
    ∧ exec (.k2hRead e n sec 1) s = .next ((s1.setBox sec n { s1.box sec n with latched := (s1.box sec n).k2h / 2 ^ 32 }).send
      (.readData 0 off ((s1.box sec n).k2h % 2 ^ 32)))
    ∧ exec (.k2hRead e n sec 2) s = .next ((s1.emptyBox sec n).send (.readData 0 (off + 4) (s1.box sec n).latched)))
  ∧ (∀ (e : Env) (n : Nat) (sec : Bool) (s s1 : State), s1 = s.enter e → n < boxCount sec → s1.boot.keep = true → s1.on (fH2kFull sec) n = true →
    exec (.keepTakeMessage e n sec) s = .next (((s1.setBox sec n { s1.box sec n with
      taken := (s1.box sec n).taken ++ [(s1.box sec n).h2k] }).put (fH2kFull sec) 0 n).boxCause sec n true))
  ∧ (∀ (e : Env) (n q a : Nat) (rest : List Nat) (sec : Bool) (st : Status) (s s1 s2 : State), s1 = s.enter e → n < boxCount sec →
    s1.boot.keep = true → s1.on (fK2hFull sec) n = false → (s1.box sec n).taken = q :: rest → s1.serve q = (st, a) →
    s2 = ((s1.setBox sec n { s1.box sec n with taken := rest, k2h := mkMsg (msgService q) (msgToken q) st.code a }).put (fK2hFull sec) 1 n).boxCause
      sec n false →
    (msgService q = 0 → exec (.echo e n sec) s = .next s2) ∧ (msgService q = 1 → exec (.version e n sec) s = .next s2)
    ∧ (msgService q = 2 → exec (.measure e n sec) s = .next s2)
    ∧ (msgStatus q = 0 → (msgService q = 0 → (st, a) = (.ok, msgArg q))
      ∧ (msgService q = 1 → (st, a) = (.ok, Config.keepVersion s1.boot.version % 2 ^ 24)) ∧ (2 < msgService q → (st, a) = (.badDescriptor, 0)))
    ∧ (msgStatus q ≠ 0 → (st, a) = (.badDescriptor, 0)))
  ∧ ∀ (e : Env) (s s1 : State), s1 = s.enter e → (s1.isPending = true → exec (.belfryRearm e) s = .next (s1.send (.msix 0 0)))
    ∧ (s1.isPending = false → exec (.belfryRearm e) s = .next s1)

/-- Power and bring-up (R464, R466, R471): with images the device powers on and waits for Keep, without them it stays in recovery; the
flash found is what all 32 channels have alike; with Keep running and PERST_N high memory begins in PHASE 1, a failure halts it, and filled memory is PHASE 2 with the clusters and flash groups on. -/
def Obligations.TheDevicePowersOnAndComesUp : Prop :=
  (∀ (e : Env) (hb6 : Bool) (targets : List Nat) (luns : Luns) (s s1 : State), s1 = s.enter e → s1.boot.aon = false →
    ((flashFound targets luns).1 ≠ 0 → ∃ t, exec (.powerOn e hb6 targets luns true) s = .next t ∧ t.boot.aon = true ∧ t.boot.held = true ∧ t.boot.keep = false
      ∧ t.phase = 0 ∧ t.hb6 = hb6 ∧ t.flash.perCh = (flashFound targets luns).1 ∧ t.flash.dieId = (flashFound targets luns).2 ∧ t.leaves = [] ∧ t.seqs = []
        ∧ t.reqs = [] ∧ t.mem = s1.mem
      ∧ t.sec.root = s1.sec.root ∧ t.sec.anchor = s1.sec.anchor ∧ t.fleet = s1.fleet)
    ∧ ∃ t, exec (.powerOn e hb6 targets luns false) s = .next t ∧ t.boot.held = false ∧ t.phase = 5 ∧ t.get F.GLB_BOOT_STATUS_FAIL_CODE = 1)
  ∧ (∀ (k n id : Nat), 0 < n → n ≤ 32 → flashFound (List.replicate 32 k) (List.replicate 32 (List.replicate n (some id))) = (n, id))
  ∧ (∀ (e : Env) (s s1 s2 : State), s1 = s.enter e → s1.boot.aon = true → s1.boot.held = true → s1.boot.keep = false → s1.cupola.tripped = false →
    s2 = ({ s1 with boot := { s1.boot with keep := true } } : State).setKeepDown 0 →
    ∃ t, exec (.keepFirmwareRunning e) s = .next t ∧ t.boot.keep = true
      ∧ (s2.boot.perst = true → s2.phase = 0 → t = s2.startMemory ∧ t.phase = 1) ∧ (s2.phase ≠ 0 → t = s2))
  ∧ (∀ (e : Env) (m sb : Bool) (id : Nat) (s s1 s2 : State), s1 = s.enter e → s1.resettable = true → s1.boot.perst = false →
    s2 = ({ s1 with boot := { s1.boot with perst := true }, ring := { s1.ring with strapMaster := m, strapStandby := sb } } : State).put
      F.RING_STATUS_RING_ID (id % 4) →
    ∃ t, exec (.perstNRise e m sb id) s = .next t ∧ t.boot.perst = true ∧ t.ring.strapMaster = m ∧ t.ring.strapStandby = sb
      ∧ (s1.boot.keep = true → s2.phase = 0 → t = s2.startMemory ∧ t.phase = 1))
  ∧ (∀ (e : Env) (k : Nat) (dies units : List (Nat × Nat)) (s s1 : State), s1 = s.enter e → s1.phase = 1 → s1.boot.keep = true →
    s1.on F.RAS_STATUS_FATAL = false →
    exec (.memoryFillDone e (some k) false dies units) s = .next ((s1.halt 2 k).setFatal)
    ∧ exec (.memoryFillDone e none true dies units) s = .next ((s1.halt 3 0).setFatal)
    ∧ ∃ t, exec (.memoryFillDone e none false [] []) s = .next t ∧ t.phase = 2 ∧ t.boot.filled = true
      ∧ (∀ d, 48 ≤ d → d < 56 → (t.pd d).state = 2) ∧ (∀ d, 80 ≤ d → d < 84 → (t.pd d).state = 2))
  ∧ (∀ (e : Env) (s s1 : State), s1 = s.enter e → (s1.sealCheck = none →
      ∃ t, exec (.glbSealSet e) s = .next t ∧ t.get F.GLB_SEAL_SEALED = 1 ∧ t.get F.GLB_SEAL_ERR = 0 ∧ t.phase = 3
        ∧ t.sec.sealWords = s1.sealPairs)
    ∧ (∀ code off, s1.sealCheck = some (code, some off) →
      exec (.glbSealSet e) s = .next ((s1.put F.GLB_SEAL_ERR code).put F.GLB_SEAL_ERR_OFFSET off))
    ∧ (s1.phase ≠ 2 → exec (.glbSealSet e) s = .next (s1.put F.GLB_SEAL_ERR 1)))
  ∧ ∀ (e : Env) (s s1 : State), s1 = s.enter e → ∃ t, exec (.powerLoss e) s = .next t ∧ t.boot.aon = false ∧ t.phase = 0 ∧ t.leaves = []
    ∧ t.time = 0 ∧ t.flash.perCh = s1.flash.perCh ∧ t.flash.blocks = s1.flash.blocks ∧ t.sec.root = s1.sec.root ∧ t.sec.extKey = s1.sec.extKey
    ∧ t.sec.caks = s1.sec.caks ∧ t.sec.anchor = s1.sec.anchor ∧ t.fleet = s1.fleet

/-- Conventional and device resets (R472 to R475): what each clears and keeps of the state in which
flash has been made safe (R474, item 3), wherever the device is powered and has not tripped. -/
def Obligations.ResetsClearAndKeep : Prop :=
  (∀ (e : Env) (kind : Nat) (s s1 s2 : State), s1 = s.enter e → s1.resettable = true →
    s2 = (if s1.flashReadable && !s1.on F.FLASH_STATUS_PF then s1.flashSafe else s1) → kind = 1 ∨ kind = 2 →
    ∃ t, exec (.conventionalReset e kind) s = .next t ∧ t.reqs = [] ∧ t.insts = [] ∧ t.leaves = [] ∧ t.seqs = [] ∧ t.holds = [] ∧ t.ctxs = []
      ∧ t.roots = [] ∧ t.mbxNs = [] ∧ t.time = s2.time ∧ t.mem = s2.mem ∧ t.fleet = s2.fleet ∧ t.sec.root = s2.sec.root
      ∧ t.sec.sessions = s2.sec.sessions.filter (· == mgmtPort) ∧ t.sec.streams = [] ∧ t.sec.linkIde = false ∧ t.vfEnable = false ∧ t.numVfs = 0
      ∧ t.ras.log = s2.ras.log ∧ t.retiredSlots = s2.retiredSlots ∧ t.boot.keep = s2.boot.keep ∧ t.boot.bases = []
      ∧ (t.boot.perst = (s2.boot.perst && kind != 1)) ∧ t.ring.joinPin = false ∧ t.ring.strapMaster = s2.ring.strapMaster)
  ∧ ∀ (e : Env) (op : Bool) (s s1 s2 : State), s1 = s.enter e → s1.resettable = true →
    s2 = (if s1.flashReadable && !s1.on F.FLASH_STATUS_PF then s1.flashSafe else s1) → (op = true → s1.opSession true = true) →
    ∃ t, exec (.deviceReset e op) s = .next t ∧ t.reqs = [] ∧ t.insts = [] ∧ t.leaves = [] ∧ t.seqs = [] ∧ t.holds = [] ∧ t.ctxs = []
      ∧ t.roots = [] ∧ t.mbxNs = [] ∧ t.time = s2.time ∧ t.mem = s2.mem ∧ t.fleet = s2.fleet ∧ t.sec.root = s2.sec.root
      ∧ t.sec.sessions = s2.sec.sessions ∧ t.sec.streams = s2.sec.streams ∧ t.sec.linkIde = s2.sec.linkIde ∧ t.vfEnable = s2.vfEnable
      ∧ t.numVfs = s2.numVfs ∧ t.ras.log = s2.ras.log ∧ t.retiredSlots = s2.retiredSlots ∧ t.boot.keep = s2.boot.keep ∧ t.boot.bases = []
      ∧ t.boot.perst = s2.boot.perst ∧ t.ring.joinPin = false ∧ t.ring.strapMaster = s2.ring.strapMaster

/-- Partitions (R33, R439, R477 to R480): a block of operands creates a FREE partition, a created one is enabled, an ACTIVE one drains, and once
it has drained and is scrubbed it is FREE again with its kept configuration and the teardown completes OK. -/
def Obligations.PartitionsComeAndGo : Prop :=
  (∀ (e : Env) (rid p : Nat) (s s1 s2 : State) (r : Req), s1 = s.enter e → s1.startedReq? rid [0x7E] = some r → p = r.partArg →
    (p = 0 → exec (.partitionEnable e rid) s = .next (s1.complete rid .accessDenied))
    ∧ (p ≠ 0 → s1.pstate p = 0 → s1.on F.PART_STATE_CONFIGURED p = false → exec (.partitionEnable e rid) s = .next (s1.complete rid .notFound))
    ∧ (p ≠ 0 → s1.pstate p = 0 → s1.on F.PART_STATE_CONFIGURED p = true →
      s2 = (s1.setPart p (fun x => { x with restored := false })).put F.PART_STATE_RESTORED 0 p →
      exec (.partitionEnable e rid) s = .next ((s2.setPState p 1).complete rid .ok))
    ∧ (p ≠ 0 → s1.pstate p ≠ 0 → r.fWaitFree = false → exec (.partitionEnable e rid) s = .next (s1.complete rid .busyTeardown)))
  ∧ (∀ (e : Env) (rid p : Nat) (s s1 : State) (r : Req) (b : Bytes), s1 = s.enter e → s1.startedReq? rid [0x7C] = some r → p = r.partArg → p ≠ 0 →
    (s1.pstate p ≠ 0 → exec (.partitionCreate e rid) s = .next (s1.complete rid .busyTeardown))
    ∧ (s1.pstate p = 0 → s1.busRead (memKey r.srcSpace r.addr24) 128 = .ok b →
      (configOk b = false → exec (.partitionCreate e rid) s = .next (s1.complete rid .badFormat))
      ∧ (configOk b = true → s1.configFits p b = false → exec (.partitionCreate e rid) s = .next (s1.complete rid .quotaExceeded))
      ∧ (configOk b = true → s1.configFits p b = true → (s1.parts.getD p {}).restored = false →
        exec (.partitionCreate e rid) s = .next (((s1.createFresh p b).raisePState p).complete rid .ok))))
  ∧ (∀ (e : Env) (rid p : Nat) (s s1 : State) (r : Req), s1 = s.enter e → s1.startedReq? rid [0x7D] = some r → p = r.partArg → p ≠ 0 →
    (s1.pstate p ≠ 1 → exec (.partitionTeardown e rid) s = .next (s1.complete rid .busyTeardown))
    ∧ (s1.pstate p = 1 → exec (.partitionTeardown e rid) s
      = .next (((s1.setPart p (fun x => { x with scrubFor := some rid })).wait rid (.teardown p)).beginDrain p)))
  ∧ (∀ (e : Env) (p : Nat) (s s1 s2 : State), s1 = s.enter e → s1.pstate p = 2 → s1.netDrained p = (true, s2) → s2.purgeOpen p = false →
    (∀ x ∈ s2.reqs, x.2.part ≠ p) → (∀ x ∈ s2.insts, x.2.part ≠ p) → exec (.partitionDrainDone e p) s = .next ((s2.dropLeases p).beginScrub p))
  ∧ ∀ (e : Env) (p rid : Nat) (s s1 s2 : State) (b : Bytes), s1 = s.enter e → s1.pstate p = 3 → s1.scrubbed p = true →
    (s1.parts.getD p {}).scrubFor = some rid → s1.req? rid = none ∨ (∃ r, s1.req? rid = some r ∧ r.wait = .teardown p) →
    (s1.parts.getD p {}).block = some b →
    s2 = (s1.setPart p (fun (y : Part) => { y with restored := false, scrubFor := none, frozen := [] })).put F.PART_STATE_RESTORED 0 p →
    exec (.scrubComplete e p) s = .next
      (((((({ s2.configure p b with
              classHints := (s2.configure p b).classHints.filter (fun (x : Nat × (Nat × Bool)) => x.1 / 256 != p)
            }).freshKeys p).setPState p 0).complete rid .ok).resumeEnable p))

/-- Register accesses (R6, R7, R438, R484, R495): what a write leaves of every field of every register of BAR0, by the field's access code;
which accesses act, which are recorded and dropped, and what a secure window refuses. The values of some fields are limited by their own
rules (fieldTakes). -/
def Obligations.RegistersActByAccessCode : Prop :=
  (∀ d ∈ regsAll, ∀ (f : Nat × Nat × Access) (isSealed : Bool) (old val : Nat), f ∈ d.fields → old < 2 ^ 32 →
    bits (writtenWord d isSealed [] old val) f.1 f.2.1 = (match f.2.2 with
      | .rw => if fieldTakes d.base f.2.1 (bits val f.1 f.2.1) then bits val f.1 f.2.1 else bits old f.1 f.2.1
      | .lk => if isSealed = false ∧ fieldTakes d.base f.2.1 (bits val f.1 f.2.1) then bits val f.1 f.2.1 else bits old f.1 f.2.1
      | .w1c => (bits old f.1 f.2.1 &&& (2 ^ 32 - 1 - bits val f.1 f.2.1)) % 2 ^ (f.1 + 1 - f.2.1)
      | .w1s => (bits old f.1 f.2.1 ||| bits val f.1 f.2.1) % 2 ^ (f.1 + 1 - f.2.1)
      | _ => bits old f.1 f.2.1))
  ∧ (∀ (e : Env) (off val : Nat) (stream : Option Nat) (s s1 : State), s1 = s.enter e → s1.phase ≠ 0 → s1.dieWorks 0 = true → off % 4 = 0 →
    off < 0x4000000 →
    (s1.answers off = true → exec (.registerWrite e 0 0 off 4 (some val) stream) s = .next (s1.writeWord 0 off (val % 2 ^ 32)))
    ∧ (s1.answers off = false → exec (.registerWrite e 0 0 off 4 (some val) stream) s = .next s1)
    ∧ (off < 0x3C00000 → exec (.registerWrite e 0 0 off 4 none stream) s
      = .next ((s1.read4 0 off).2.send (.readData 0 off (s1.read4 0 off).1))))
  ∧ (∀ (e : Env) (fn off size val : Nat) (stream : Option Nat) (s s1 : State), s1 = s.enter e → s1.phase ≠ 0 → s1.dieWorks 0 = true →
    fn = 0 ∨ s1.vfEnabled fn = true →
    fn ≠ mgmtPort → off < barSize fn → (size ≠ 4 ∧ size ≠ 8) ∨ off % size ≠ 0 →
    exec (.registerWrite e fn 0 off size (some val) stream) s = .next (s1.badAccess fn 0 off true)
    ∧ exec (.registerWrite e fn 0 off size none stream) s = .next ((s1.badAccess fn 0 off false).send (.readData fn off 0)))
  ∧ (∀ (e : Env) (fn off size val : Nat) (stream : Option Nat) (s s1 : State), s1 = s.enter e → s1.phase ≠ 0 → s1.dieWorks 0 = true →
    fn = 0 ∨ s1.vfEnabled fn = true →
    off < 0x10000 →
    (s1.windowOpen fn stream = false →
      exec (.secureWindowAccess e fn off size (some val) stream) s = .next ((s1.bump F.SEC_WINDOW_REFUSED_COUNT).security 4 fn)
      ∧ exec (.secureWindowAccess e fn off size none stream) s
        = .next (((s1.bump F.SEC_WINDOW_REFUSED_COUNT).security 4 fn).send (.unsupported fn off)))
    ∧ (s1.windowOpen fn stream = true → size = 4 ∨ size = 8 → off % size = 0 →
      exec (.secureWindowAccess e fn off size none stream) s = .next (s1.windowRead fn off size)
      ∧ exec (.secureWindowAccess e fn off size (some val) stream) s = .next (s1.windowWrite fn off size val)))
  ∧ ∀ (e : Env) (off val : Nat) (s s1 : State), s1 = s.enter e → s1.phase ≠ 0 → s1.dieWorks 0 = true → isCause 0 off = true → off ≠ 0x10000100 →
    exec (.causeClear e 0 off val) s = .next (s1.write4 0 off val none)

/-- R42: a fork of more chunks than the source has published completes NOT_FOUND. -/
def Obligations.ForksBeyondThePublishedChunksAreNotFound : Prop :=
  ∀ (e : Env) (rid : Nat) (s s1 : State) (r : Req), s1 = s.enter e → s1.startedReq? rid [0x13] = some r →
    ((s1.seq (hSeq r.handle)).state = .openS ∨ (s1.seq (hSeq r.handle)).state = .published) →
    (s1.seq (hSeq r.handle)).publishedChunks < r.chunkCount16 → exec (.seqFork e rid) s = .next (s1.complete rid .notFound)

/-- R106: the priority of an index entry, from the chunk and the sequence at insertion, and the same in its Canopy copy. -/
def Obligations.InsertionSetsThePriority : Prop :=
  (∀ (s : State) (k : Nat) (q : Sequ) (c : Chunk), (c.acts.pin = true → (s.indexEntry k q c).priority = 0xC0)
    ∧ (c.acts.pin = false → c.acts.shortTtl = true → (s.indexEntry k q c).priority = 0x20)
    ∧ (c.acts.pin = false → c.acts.shortTtl = false → q.persist = .durable → (s.indexEntry k q c).priority = 0x80)
    ∧ (c.acts.pin = false → c.acts.shortTtl = false → q.persist = .vol → (s.indexEntry k q c).priority = 0x40))
  ∧ (∀ (e : Env) (rid n : Nat) (failed : Bool) (s s1 s2 : State) (r : Req) (q : Sequ), s1 = s.enter e → s1.startedReq? rid [0x32] = some r →
    q = s1.seq (hSeq r.handle) → q.state = .openS ∨ q.state = .published → s1.shapeBad q.partition q.shapeIndex q.shapeEpoch = false →
    (s1.seqJournaled q = true → s1.journalFull = false) → (∀ c0 cs, q.chunks = c0 :: cs → s1.otherOwner? r.snap.shards (shardBucket c0.hash) = none) →
    s1.overQuota r.part r.chunkCount16 = false →
    s1.insertAll ((insertChunks q r.chunkFirst24 r.chunkCount16).map (s1.indexEntry (hSeq r.handle) q)) = (n, failed, s2) →
    exec (.prefixInsert e rid) s = .next (s2.finishInsert rid r n failed))
  ∧ ∀ (s : State) (w key : Nat) (x : RootEntry), (rootCopy s w key x).priority = x.priority

/-- R124: the pattern engine stays on while a loaded rule set holds a rule. -/
def Obligations.ThePatternEngineStaysOnForItsRules : Prop :=
  ∀ (e : Env) (k : Nat) (x : Slots RuleSet) (s s1 : State), s1 = s.enter e → s1.pdUp = true → (s1.pd 91).state = 2 → (k, x) ∈ s1.rules →
    (x.a.loaded = true ∧ x.a.body.rules ≠ []) ∨ (x.b.loaded = true ∧ x.b.body.rules ≠ []) →
    exec (.pdOff e 91) s = .next (s1.pdResult 91 .busyTeardown)

end
end

