-- ==== Sys2Proof/Laws/Table.lean ====
section
/-! SUPPORT. Laws of sparse tables: what a key reads as after a table has changed, and that keys still rise. -/

namespace Sys2Proof.Table

variable {α β : Type}

@[simp] theorem get?_nil (k : Nat) : Table.get? ([] : Table α) k = none := rfl

theorem get?_cons (a : Nat) (b : α) (t : Table α) (k : Nat) :
    Table.get? ((a, b) :: t) k = if a = k then some b else Table.get? t k := rfl

theorem mem_of_get? {t : Table α} {k : Nat} {v : α} (h : t.get? k = some v) : (k, v) ∈ t := by
  induction t with
  | nil => simp at h
  | cons e t ih =>
    obtain ⟨a, b⟩ := e
    rw [get?_cons] at h
    split at h
    · rename_i hk
      cases h
      exact hk ▸ List.mem_cons_self
    · exact List.mem_cons_of_mem _ (ih h)

theorem get?_none_of {t : Table α} {k : Nat} (h : ∀ e ∈ t, e.1 ≠ k) : t.get? k = none := by
  cases hg : t.get? k with
  | none => rfl
  | some v => exact absurd rfl (h _ (mem_of_get? hg))

@[simp] theorem get?_set_same (t : Table α) (k : Nat) (v : α) : (Table.set k v t).get? k = some v := by
  induction t with
  | nil => simp [Table.set, get?_cons]
  | cons e t ih =>
    obtain ⟨a, b⟩ := e
    unfold Table.set
    split
    · simp [get?_cons]
    · split
      · simp [get?_cons]
      · rename_i h1 h2
        rw [get?_cons, if_neg (fun h => h2 h.symm)]
        exact ih

theorem get?_set_other (t : Table α) {k j : Nat} (v : α) (h : k ≠ j) : (Table.set k v t).get? j = t.get? j := by
  induction t with
  | nil => simp [Table.set, get?_cons, h]
  | cons e t ih =>
    obtain ⟨a, b⟩ := e
    unfold Table.set
    split
    · simp [get?_cons, h]
    · split
      · rename_i h2
        subst h2
        simp [get?_cons, h]
      · simp only [get?_cons, ih]

theorem get?_set (t : Table α) (k j : Nat) (v : α) : (Table.set k v t).get? j = if k = j then some v else t.get? j := by
  by_cases h : k = j
  · subst h; simp
  · rw [get?_set_other t v h, if_neg h]

theorem getD_set (t : Table α) (k j : Nat) (v d : α) : (Table.set k v t).getD j d = if k = j then v else t.getD j d := by
  unfold Table.getD
  rw [get?_set]
  split <;> rfl

@[simp] theorem getD_set_same (t : Table α) (k : Nat) (v d : α) : (Table.set k v t).getD k d = v := by simp [getD_set]

theorem get?_erase (t : Table α) (k j : Nat) : (Table.erase k t).get? j = if k = j then none else t.get? j := by
  unfold Table.erase
  induction t with
  | nil => simp
  | cons e t ih =>
    obtain ⟨a, b⟩ := e
    rw [List.filter_cons]
    by_cases ha : a = k
    · subst ha
      simp only [beq_self_eq_true, Bool.not_true, Bool.false_eq_true, ↓reduceIte, get?_cons]
      rw [ih]
      by_cases hj : a = j <;> simp [hj]
    · simp only [ha, Bool.not_eq_true', beq_eq_false_iff_ne, ne_eq, not_false_eq_true, ↓reduceIte, get?_cons, ih]
      by_cases hk : k = j
      · subst hk; simp [ha]
      · simp [hk]

theorem erase_absent {t : Table α} {k : Nat} (h : t.get? k = none) : Table.erase k t = t := by
  induction t with
  | nil => rfl
  | cons e t ih =>
    obtain ⟨a, b⟩ := e
    rw [get?_cons] at h
    by_cases hk : a = k
    · simp [hk] at h
    · rw [if_neg hk] at h
      have := ih h
      unfold Table.erase at this ⊢
      rw [List.filter_cons, this]
      simp [hk]

@[simp] theorem get?_erase_same (t : Table α) (k : Nat) : (Table.erase k t).get? k = none := by simp [get?_erase]

theorem get?_modify (t : Table α) (k j : Nat) (f : α → α) :
    (Table.modify k f t).get? j = if k = j then (t.get? j).map f else t.get? j := by
  unfold Table.modify
  split
  · rename_i v hv
    rw [get?_set]
    by_cases h : k = j
    · subst h; simp [hv]
    · simp [h]
  · rename_i hv
    by_cases h : k = j
    · subst h; simp [hv]
    · simp [h]

/-- A key that is not listed reads as the default. -/
theorem getD_of_none {t : Table α} {k : Nat} (h : t.get? k = none) (d : α) : t.getD k d = d := by simp [Table.getD, h]

theorem getD_of_some {t : Table α} {k : Nat} {v : α} (h : t.get? k = some v) (d : α) : t.getD k d = v := by
  simp [Table.getD, h]

/-! ### The keys rise -/

theorem sorted_cons {a : Nat} {b : α} {t : Table α} :
    Table.sorted ((a, b) :: t) = true ↔ (∀ e ∈ t, a < e.1) ∧ Table.sorted t = true := by
  induction t generalizing a b with
  | nil => simp [Table.sorted]
  | cons e t ih =>
    obtain ⟨c, d⟩ := e
    simp only [Table.sorted, Bool.and_eq_true, decide_eq_true_eq, List.mem_cons, forall_eq_or_imp]
    constructor
    · intro ⟨h1, h2⟩
      exact ⟨⟨h1, fun e he => Nat.lt_trans h1 ((ih.mp h2).1 e he)⟩, h2⟩
    · intro ⟨⟨h1, _⟩, h3⟩
      exact ⟨h1, h3⟩

theorem mem_set {t : Table α} {k : Nat} {v : α} {e : Nat × α} (h : e ∈ Table.set k v t) : e = (k, v) ∨ e ∈ t := by
  induction t with
  | nil => simpa [Table.set] using h
  | cons x t ih =>
    obtain ⟨a, b⟩ := x
    unfold Table.set at h
    split at h
    · simpa using h
    · split at h
      · rcases List.mem_cons.mp h with h | h
        · exact .inl h
        · exact .inr (List.mem_cons_of_mem _ h)
      · rcases List.mem_cons.mp h with h | h
        · exact .inr (h ▸ List.mem_cons_self)
        · rcases ih h with h | h
          · exact .inl h
          · exact .inr (List.mem_cons_of_mem _ h)

/-- Putting an entry keeps the keys rising. -/
theorem set_sorted {t : Table α} (k : Nat) (v : α) (h : Table.sorted t = true) : Table.sorted (Table.set k v t) = true := by
  induction t with
  | nil => simp [Table.set, Table.sorted]
  | cons x t ih =>
    obtain ⟨a, b⟩ := x
    have ⟨h1, h2⟩ := sorted_cons.mp h
    unfold Table.set
    split
    · rename_i hk
      refine sorted_cons.mpr ⟨fun e he => ?_, h⟩
      rcases List.mem_cons.mp he with he | he
      · exact he ▸ hk
      · exact Nat.lt_trans hk (h1 e he)
    · split
      · rename_i hk
        subst hk
        exact sorted_cons.mpr ⟨h1, h2⟩
      · rename_i hk hk'
        refine sorted_cons.mpr ⟨fun e he => ?_, ih h2⟩
        rcases mem_set he with he | he
        · subst he; simp only; omega
        · exact h1 e he

/-- Dropping entries keeps the keys rising. -/
theorem filter_sorted {t : Table α} (p : Nat × α → Bool) (h : Table.sorted t = true) :
    Table.sorted (List.filter p t : Table α) = true := by
  induction t with
  | nil => simpa using h
  | cons x t ih =>
    obtain ⟨a, b⟩ := x
    have ⟨h1, h2⟩ := sorted_cons.mp h
    rw [List.filter_cons]
    split
    · exact sorted_cons.mpr ⟨fun e he => h1 e ((List.mem_filter.mp he).1), ih h2⟩
    · exact ih h2

end Sys2Proof.Table
end

