-- ==== Sys2Proof/Laws/Registers.lean ====
section
/-! SUPPORT. Laws of bit fields and of the register file: a field reads as it was put, and putting it leaves every other register
and every other bit of its own register alone. -/

namespace Sys2Proof.Machine

open Sys2Proof

/-! ### Bit fields -/

theorem bits_lt (v hi lo : Nat) : bits v hi lo < 2 ^ (hi + 1 - lo) := Nat.mod_lt _ (Nat.two_pow_pos _)

/-- A word is what lies above a field, the field, and what lies below it. -/
theorem bits_split (v : Nat) {hi lo : Nat} (h : lo ≤ hi) :
    v = v / 2 ^ (hi + 1) * 2 ^ (hi + 1) + bits v hi lo * 2 ^ lo + v % 2 ^ lo := by
  have e : 2 ^ (hi + 1) = 2 ^ lo * 2 ^ (hi + 1 - lo) := by rw [← Nat.pow_add]; congr 1; omega
  have h1 : v / 2 ^ (hi + 1) = v / 2 ^ lo / 2 ^ (hi + 1 - lo) := by rw [e, Nat.div_div_eq_div_mul]
  have h2 := Nat.div_add_mod v (2 ^ lo)
  have h3 := Nat.div_add_mod (v / 2 ^ lo) (2 ^ (hi + 1 - lo))
  unfold bits
  rw [h1, e]
  generalize v / 2 ^ lo / 2 ^ (hi + 1 - lo) = A at *
  generalize v / 2 ^ lo % 2 ^ (hi + 1 - lo) = B at *
  rw [← h3, Nat.mul_add, ← Nat.mul_assoc] at h2
  rw [Nat.mul_comm A, Nat.mul_comm B]
  exact h2.symm

theorem setBits_eq (v : Nat) {hi lo : Nat} (x : Nat) (h : lo ≤ hi) :
    setBits v hi lo x = v / 2 ^ (hi + 1) * 2 ^ (hi + 1) + x % 2 ^ (hi + 1 - lo) * 2 ^ lo + v % 2 ^ lo := by
  have := bits_split v h
  unfold setBits
  omega

theorem setBits_parts {hi lo x : Nat} (v : Nat) (h : lo ≤ hi) :
    setBits v hi lo x / 2 ^ (hi + 1) = v / 2 ^ (hi + 1) ∧ bits (setBits v hi lo x) hi lo = x % 2 ^ (hi + 1 - lo)
      ∧ setBits v hi lo x % 2 ^ lo = v % 2 ^ lo := by
  have e : 2 ^ (hi + 1) = 2 ^ (hi + 1 - lo) * 2 ^ lo := by rw [← Nat.pow_add]; congr 1; omega
  rw [setBits_eq v x h]
  have hx : x % 2 ^ (hi + 1 - lo) < 2 ^ (hi + 1 - lo) := Nat.mod_lt _ (Nat.two_pow_pos _)
  have hv : v % 2 ^ lo < 2 ^ lo := Nat.mod_lt _ (Nat.two_pow_pos _)
  generalize v / 2 ^ (hi + 1) = A
  generalize x % 2 ^ (hi + 1 - lo) = B at *
  generalize v % 2 ^ lo = C at *
  have hlow : B * 2 ^ lo + C < 2 ^ (hi + 1) := by
    have h1 : (B + 1) * 2 ^ lo ≤ 2 ^ (hi + 1) := by rw [e]; exact Nat.mul_le_mul_right _ hx
    rw [Nat.add_mul, Nat.one_mul] at h1
    omega
  have e1 : A * 2 ^ (hi + 1) + B * 2 ^ lo + C = (A * 2 ^ (hi + 1 - lo) + B) * 2 ^ lo + C := by
    rw [e, Nat.add_mul, Nat.mul_assoc]
  have p := Nat.two_pow_pos lo
  have q := Nat.two_pow_pos (hi + 1 - lo)
  refine ⟨?_, ?_, ?_⟩
  · rw [Nat.add_assoc, Nat.mul_comm, Nat.mul_add_div (Nat.two_pow_pos _), Nat.div_eq_of_lt hlow, Nat.add_zero]
  · unfold bits
    rw [e1, Nat.mul_comm, Nat.mul_add_div p, Nat.div_eq_of_lt hv, Nat.add_zero, Nat.mul_comm, Nat.mul_add_mod,
      Nat.mod_eq_of_lt hx]
  · rw [e1, Nat.mul_comm, Nat.mul_add_mod, Nat.mod_eq_of_lt hv]

theorem setBits_lt {v hi lo x : Nat} (h : lo ≤ hi) (hh : hi ≤ 31) (hv : v < 2 ^ 32) : setBits v hi lo x < 2 ^ 32 := by
  have h1 := (setBits_parts (x := x) v h).1
  have e : (2 : Nat) ^ 32 = 2 ^ (hi + 1) * 2 ^ (31 - hi) := by rw [← Nat.pow_add]; congr 1; omega
  have h2 : v / 2 ^ (hi + 1) < 2 ^ (31 - hi) := by
    rw [Nat.div_lt_iff_lt_mul (Nat.two_pow_pos _), Nat.mul_comm, ← e]
    exact hv
  rw [← h1, Nat.div_lt_iff_lt_mul (Nat.two_pow_pos _), Nat.mul_comm, ← e] at h2
  exact h2

/-- Bits above a field do not change with it. -/
theorem bits_setBits_above {v hi lo x hi' lo' : Nat} (h : lo ≤ hi) (hd : hi < lo') :
    bits (setBits v hi lo x) hi' lo' = bits v hi' lo' := by
  have h1 := (setBits_parts (x := x) v h).1
  have e : 2 ^ lo' = 2 ^ (hi + 1) * 2 ^ (lo' - (hi + 1)) := by rw [← Nat.pow_add]; congr 1; omega
  unfold bits
  rw [e, ← Nat.div_div_eq_div_mul, ← Nat.div_div_eq_div_mul, h1]

/-- Bits below a field do not change with it. -/
theorem bits_setBits_below {v hi lo x hi' lo' : Nat} (h : lo ≤ hi) (hd : hi' < lo) :
    bits (setBits v hi lo x) hi' lo' = bits v hi' lo' := by
  have h1 := (setBits_parts (x := x) v h).2.2
  unfold bits
  by_cases hl : lo' ≤ hi' + 1
  · have key : ∀ u : Nat, u / 2 ^ lo' % 2 ^ (hi' + 1 - lo') = u % 2 ^ lo / 2 ^ lo' % 2 ^ (hi' + 1 - lo') := by
      intro u
      have e1 : 2 ^ lo = 2 ^ lo' * 2 ^ (lo - lo') := by rw [← Nat.pow_add]; congr 1; omega
      have e2 : 2 ^ (lo - lo') = 2 ^ (hi' + 1 - lo') * 2 ^ (lo - (hi' + 1)) := by rw [← Nat.pow_add]; congr 1; omega
      rw [e1, Nat.mod_mul_right_div_self, e2, Nat.mod_mul_right_mod]
    rw [key, h1, ← key]
  · have : hi' + 1 - lo' = 0 := by omega
    rw [this, Nat.pow_zero, Nat.mod_one, Nat.mod_one]

/-! ### The register file -/

theorem Table.get?_set_word (t : Table Word) (k j : Nat) (v : Word) :
    (Table.set k v t).get? j = if k = j then some v else t.get? j := Sys2Proof.Table.get?_set t k j v

/-- A word of the register file, the reset value included, fits 32 bits. -/
theorem regWord_lt (s : State) (off : Nat) {w : Nat} (h : w < 2 ^ 32) : s.regWord off w < 2 ^ 32 := by
  unfold State.regWord
  split
  · exact BitVec.isLt _
  · exact h

theorem regWord_put (s : State) (f : Fld) (v i j off w : Nat) :
    (s.put f v i j).regWord off w
      = if f.off i j = off then (BitVec.ofNat 32 (setBits (s.regWord (f.off i j) f.word0) f.hi f.lo v)).toNat else s.regWord off w := by
  unfold State.put State.regWord
  simp only [Table.get?_set_word]
  by_cases h : f.off i j = off
  · simp [h]
  · simp [h]

/-- A field reads as it was put, cut to its width. -/
theorem get_put (s : State) (f : Fld) (v i j : Nat) (h : f.lo ≤ f.hi) (hh : f.hi ≤ 31) (h0 : f.word0 < 2 ^ 32) :
    (s.put f v i j).get f i j = v % 2 ^ (f.hi + 1 - f.lo) := by
  unfold State.get
  rw [regWord_put, if_pos rfl, BitVec.toNat_ofNat, Nat.mod_eq_of_lt (setBits_lt h hh (regWord_lt s _ h0))]
  exact (setBits_parts _ h).2.1

/-- A field put leaves the fields of every other register alone. -/
theorem get_put_other (s : State) (f g : Fld) (v i j i' j' : Nat) (h : f.off i j ≠ g.off i' j') :
    (s.put f v i j).get g i' j' = s.get g i' j' := by
  unfold State.get
  rw [regWord_put, if_neg h]

/-- A field put leaves the other fields of its register alone. -/
theorem get_put_beside (s : State) (f g : Fld) (v i j i' j' : Nat) (ho : f.off i j = g.off i' j') (hw : f.word0 = g.word0)
    (h : f.lo ≤ f.hi) (hh : f.hi ≤ 31) (h0 : f.word0 < 2 ^ 32) (hd : f.hi < g.lo ∨ g.hi < f.lo) :
    (s.put f v i j).get g i' j' = s.get g i' j' := by
  unfold State.get
  rw [regWord_put, if_pos ho, BitVec.toNat_ofNat, Nat.mod_eq_of_lt (setBits_lt h hh (regWord_lt s _ h0)), ho, hw]
  rcases hd with hd | hd
  · exact bits_setBits_above h hd
  · exact bits_setBits_below h hd

/-- Fields of disjoint bits and one reset word do not touch each other, in whichever registers they lie. -/
theorem get_put_apart (s : State) (f g : Fld) (v i j i' j' : Nat)
    (h : f.word0 = g.word0 ∧ f.lo ≤ f.hi ∧ f.hi ≤ 31 ∧ f.word0 < 2 ^ 32 ∧ (f.hi < g.lo ∨ g.hi < f.lo)) :
    (s.put f v i j).get g i' j' = s.get g i' j' := by
  by_cases ho : f.off i j = g.off i' j'
  · exact get_put_beside s f g v i j i' j' ho h.1 h.2.1 h.2.2.1 h.2.2.2.1 h.2.2.2.2
  · exact get_put_other s f g v i j i' j' ho

/-- A counter rises by `n` and stops at its top. -/
theorem get_bump (s : State) (f : Fld) (n i j : Nat) (h : f.lo ≤ f.hi) (hh : f.hi ≤ 31) (h0 : f.word0 < 2 ^ 32) :
    (s.bump f n i j).get f i j = min (s.get f i j + n) (2 ^ (f.hi + 1 - f.lo) - 1) := by
  unfold State.bump
  rw [get_put _ _ _ _ _ h hh h0]
  exact Nat.mod_eq_of_lt (by have := Nat.two_pow_pos (f.hi + 1 - f.lo); omega)

/-- A counter raised leaves the fields of every other register alone. -/
theorem get_bump_other (s : State) (f g : Fld) (n i j i' j' : Nat) (h : f.off i j ≠ g.off i' j') :
    (s.bump f n i j).get g i' j' = s.get g i' j' := get_put_other s f g _ i j i' j' h

end Sys2Proof.Machine
end

