-- ==== Sys2Proof/Laws/Access.lean ====
section
/-! SUPPORT. The fields of a register lie apart from one another within its 32 bits, for every register of BAR0. -/

namespace Sys2Proof.Machine

open Sys2Proof

/-- Whether fields lie within 32 bits and apart from one another. -/
def fieldsApart : List (Nat × Nat × Access) → Bool
  | [] => true
  | f :: fs => decide (f.2.1 ≤ f.1) && decide (f.1 ≤ 31) && fs.all (fun g => decide (f.1 < g.2.1) || decide (g.1 < f.2.1)) && fieldsApart fs

def allApart (l : List RegDesc) : Bool := l.all (fun d => fieldsApart d.fields)

theorem regs_apart : allApart regsGlb = true ∧ allApart regsBelfry = true ∧ allApart regsHost = true ∧ allApart regsPart = true
    ∧ allApart regsCanopy = true ∧ allApart regsPattern = true ∧ allApart regsCodec = true ∧ allApart regsSpire = true
    ∧ allApart regsLantern = true ∧ allApart regsBeat = true ∧ allApart regsTier = true ∧ allApart regsFlash = true
    ∧ allApart regsPool = true ∧ allApart regsNet = true ∧ allApart regsTraffic = true ∧ allApart regsRing = true
    ∧ allApart regsRas = true ∧ allApart regsSec = true ∧ allApart regsCupola = true ∧ allApart regsMbx = true := by
  refine ⟨?_, ?_, ?_, ?_, ?_, ?_, ?_, ?_, ?_, ?_, ?_, ?_, ?_, ?_, ?_, ?_, ?_, ?_, ?_, ?_⟩ <;> rfl

/-- The fields of every register of BAR0 lie apart. -/
theorem regsAll_apart : ∀ d ∈ regsAll, fieldsApart d.fields = true := by
  have h : allApart regsAll = true := by
    obtain ⟨a1, a2, a3, a4, a5, a6, a7, a8, a9, a10, a11, a12, a13, a14, a15, a16, a17, a18, a19, a20⟩ := regs_apart
    unfold allApart at *
    unfold regsAll
    simp only [List.all_append, Bool.and_eq_true]
    exact ⟨⟨⟨⟨⟨⟨⟨⟨⟨⟨⟨⟨⟨⟨⟨⟨⟨⟨⟨a1, a2⟩, a3⟩, a4⟩, a5⟩, a6⟩, a7⟩, a8⟩, a9⟩, a10⟩, a11⟩, a12⟩, a13⟩, a14⟩, a15⟩, a16⟩, a17⟩, a18⟩, a19⟩, a20⟩
  exact fun d hd => List.all_eq_true.mp h d hd

end Sys2Proof.Machine
end

