-- ==== Sys2Proof/Laws/State.lean ====
section
/-! SUPPORT. The fields of the state after each of its small updates: one lemma per field and update, so that no proof unfolds
a record update. -/

namespace Sys2Proof.Machine

open Sys2Proof

variable (s : State)

/-- A register field depends on the register file alone. -/
theorem get_congr {s t : State} (h : t.regs = s.regs) (f : Fld) (i j : Nat) : t.get f i j = s.get f i j := by
  unfold State.get State.regWord
  rw [h]

theorem on_congr {s t : State} (h : t.regs = s.regs) (f : Fld) (i j : Nat) : t.on f i j = s.on f i j := by
  unfold State.on
  rw [get_congr h]

/-! ### put -/

@[simp] theorem put_time (f : Fld) (v i j : Nat) : (s.put f v i j).time = s.time := rfl
@[simp] theorem put_hb6 (f : Fld) (v i j : Nat) : (s.put f v i j).hb6 = s.hb6 := rfl
@[simp] theorem put_latches (f : Fld) (v i j : Nat) : (s.put f v i j).latches = s.latches := rfl
@[simp] theorem put_mgmtSel (f : Fld) (v i j : Nat) : (s.put f v i j).mgmtSel = s.mgmtSel := rfl
@[simp] theorem put_mem (f : Fld) (v i j : Nat) : (s.put f v i j).mem = s.mem := rfl
@[simp] theorem put_memPoison (f : Fld) (v i j : Nat) : (s.put f v i j).memPoison = s.memPoison := rfl
@[simp] theorem put_memFail (f : Fld) (v i j : Nat) : (s.put f v i j).memFail = s.memFail := rfl
@[simp] theorem put_freeCtr (f : Fld) (v i j : Nat) : (s.put f v i j).freeCtr = s.freeCtr := rfl
@[simp] theorem put_out (f : Fld) (v i j : Nat) : (s.put f v i j).out = s.out := rfl
@[simp] theorem put_reqs (f : Fld) (v i j : Nat) : (s.put f v i j).reqs = s.reqs := rfl
@[simp] theorem put_reqSeq (f : Fld) (v i j : Nat) : (s.put f v i j).reqSeq = s.reqSeq := rfl
@[simp] theorem put_failed (f : Fld) (v i j : Nat) : (s.put f v i j).failed = s.failed := rfl
@[simp] theorem put_cqs (f : Fld) (v i j : Nat) : (s.put f v i j).cqs = s.cqs := rfl
@[simp] theorem put_sqs (f : Fld) (v i j : Nat) : (s.put f v i j).sqs = s.sqs := rfl
@[simp] theorem put_vfEnable (f : Fld) (v i j : Nat) : (s.put f v i j).vfEnable = s.vfEnable := rfl
@[simp] theorem put_numVfs (f : Fld) (v i j : Nat) : (s.put f v i j).numVfs = s.numVfs := rfl
@[simp] theorem put_devPending (f : Fld) (v i j : Nat) : (s.put f v i j).devPending = s.devPending := rfl
@[simp] theorem put_partPending (f : Fld) (v i j : Nat) : (s.put f v i j).partPending = s.partPending := rfl
@[simp] theorem put_intN (f : Fld) (v i j : Nat) : (s.put f v i j).intN = s.intN := rfl
@[simp] theorem put_mbxNs (f : Fld) (v i j : Nat) : (s.put f v i j).mbxNs = s.mbxNs := rfl
@[simp] theorem put_mbxSec (f : Fld) (v i j : Nat) : (s.put f v i j).mbxSec = s.mbxSec := rfl
@[simp] theorem put_parts (f : Fld) (v i j : Nat) : (s.put f v i j).parts = s.parts := rfl
@[simp] theorem put_chms (f : Fld) (v i j : Nat) : (s.put f v i j).chms = s.chms := rfl
@[simp] theorem put_leaves (f : Fld) (v i j : Nat) : (s.put f v i j).leaves = s.leaves := rfl
@[simp] theorem put_nextCid (f : Fld) (v i j : Nat) : (s.put f v i j).nextCid = s.nextCid := rfl
@[simp] theorem put_holds (f : Fld) (v i j : Nat) : (s.put f v i j).holds = s.holds := rfl
@[simp] theorem put_seqs (f : Fld) (v i j : Nat) : (s.put f v i j).seqs = s.seqs := rfl
@[simp] theorem put_shapes (f : Fld) (v i j : Nat) : (s.put f v i j).shapes = s.shapes := rfl
@[simp] theorem put_txqs (f : Fld) (v i j : Nat) : (s.put f v i j).txqs = s.txqs := rfl
@[simp] theorem put_txports (f : Fld) (v i j : Nat) : (s.put f v i j).txports = s.txports := rfl
@[simp] theorem put_partQs (f : Fld) (v i j : Nat) : (s.put f v i j).partQs = s.partQs := rfl
@[simp] theorem put_meters (f : Fld) (v i j : Nat) : (s.put f v i j).meters = s.meters := rfl
@[simp] theorem put_qps (f : Fld) (v i j : Nat) : (s.put f v i j).qps = s.qps := rfl
@[simp] theorem put_mrs (f : Fld) (v i j : Nat) : (s.put f v i j).mrs = s.mrs := rfl
@[simp] theorem put_subPorts (f : Fld) (v i j : Nat) : (s.put f v i j).subPorts = s.subPorts := rfl
@[simp] theorem put_qwpAdmitted (f : Fld) (v i j : Nat) : (s.put f v i j).qwpAdmitted = s.qwpAdmitted := rfl
@[simp] theorem put_spires (f : Fld) (v i j : Nat) : (s.put f v i j).spires = s.spires := rfl
@[simp] theorem put_groves (f : Fld) (v i j : Nat) : (s.put f v i j).groves = s.groves := rfl
@[simp] theorem put_drr (f : Fld) (v i j : Nat) : (s.put f v i j).drr = s.drr := rfl
@[simp] theorem put_exts (f : Fld) (v i j : Nat) : (s.put f v i j).exts = s.exts := rfl
@[simp] theorem put_roots (f : Fld) (v i j : Nat) : (s.put f v i j).roots = s.roots := rfl
@[simp] theorem put_banks (f : Fld) (v i j : Nat) : (s.put f v i j).banks = s.banks := rfl
@[simp] theorem put_promoAt (f : Fld) (v i j : Nat) : (s.put f v i j).promoAt = s.promoAt := rfl
@[simp] theorem put_ctxs (f : Fld) (v i j : Nat) : (s.put f v i j).ctxs = s.ctxs := rfl
@[simp] theorem put_rules (f : Fld) (v i j : Nat) : (s.put f v i j).rules = s.rules := rfl
@[simp] theorem put_scopes (f : Fld) (v i j : Nat) : (s.put f v i j).scopes = s.scopes := rfl
@[simp] theorem put_accesses (f : Fld) (v i j : Nat) : (s.put f v i j).accesses = s.accesses := rfl
@[simp] theorem put_classHints (f : Fld) (v i j : Nat) : (s.put f v i j).classHints = s.classHints := rfl
@[simp] theorem put_promos (f : Fld) (v i j : Nat) : (s.put f v i j).promos = s.promos := rfl
@[simp] theorem put_retiredSlots (f : Fld) (v i j : Nat) : (s.put f v i j).retiredSlots = s.retiredSlots := rfl
@[simp] theorem put_flash (f : Fld) (v i j : Nat) : (s.put f v i j).flash = s.flash := rfl
@[simp] theorem put_pds (f : Fld) (v i j : Nat) : (s.put f v i j).pds = s.pds := rfl
@[simp] theorem put_badRecs (f : Fld) (v i j : Nat) : (s.put f v i j).badRecs = s.badRecs := rfl
@[simp] theorem put_fleet (f : Fld) (v i j : Nat) : (s.put f v i j).fleet = s.fleet := rfl
@[simp] theorem put_pool (f : Fld) (v i j : Nat) : (s.put f v i j).pool = s.pool := rfl
@[simp] theorem put_ring (f : Fld) (v i j : Nat) : (s.put f v i j).ring = s.ring := rfl
@[simp] theorem put_beats (f : Fld) (v i j : Nat) : (s.put f v i j).beats = s.beats := rfl
@[simp] theorem put_scheds (f : Fld) (v i j : Nat) : (s.put f v i j).scheds = s.scheds := rfl
@[simp] theorem put_insts (f : Fld) (v i j : Nat) : (s.put f v i j).insts = s.insts := rfl
@[simp] theorem put_instSeq (f : Fld) (v i j : Nat) : (s.put f v i j).instSeq = s.instSeq := rfl
@[simp] theorem put_jobs (f : Fld) (v i j : Nat) : (s.put f v i j).jobs = s.jobs := rfl
@[simp] theorem put_jobSeq (f : Fld) (v i j : Nat) : (s.put f v i j).jobSeq = s.jobSeq := rfl
@[simp] theorem put_arrays (f : Fld) (v i j : Nat) : (s.put f v i j).arrays = s.arrays := rfl
@[simp] theorem put_tabCache (f : Fld) (v i j : Nat) : (s.put f v i j).tabCache = s.tabCache := rfl
@[simp] theorem put_ras (f : Fld) (v i j : Nat) : (s.put f v i j).ras = s.ras := rfl
@[simp] theorem put_sec (f : Fld) (v i j : Nat) : (s.put f v i j).sec = s.sec := rfl
@[simp] theorem put_cupola (f : Fld) (v i j : Nat) : (s.put f v i j).cupola = s.cupola := rfl
@[simp] theorem put_boot (f : Fld) (v i j : Nat) : (s.put f v i j).boot = s.boot := rfl
@[simp] theorem put_pending (f : Fld) (v i j : Nat) : (s.put f v i j).pending = s.pending := rfl

/-! ### bump -/

@[simp] theorem bump_time (f : Fld) (n i j : Nat) : (s.bump f n i j).time = s.time := rfl
@[simp] theorem bump_hb6 (f : Fld) (n i j : Nat) : (s.bump f n i j).hb6 = s.hb6 := rfl
@[simp] theorem bump_latches (f : Fld) (n i j : Nat) : (s.bump f n i j).latches = s.latches := rfl
@[simp] theorem bump_mgmtSel (f : Fld) (n i j : Nat) : (s.bump f n i j).mgmtSel = s.mgmtSel := rfl
@[simp] theorem bump_mem (f : Fld) (n i j : Nat) : (s.bump f n i j).mem = s.mem := rfl
@[simp] theorem bump_memPoison (f : Fld) (n i j : Nat) : (s.bump f n i j).memPoison = s.memPoison := rfl
@[simp] theorem bump_memFail (f : Fld) (n i j : Nat) : (s.bump f n i j).memFail = s.memFail := rfl
@[simp] theorem bump_freeCtr (f : Fld) (n i j : Nat) : (s.bump f n i j).freeCtr = s.freeCtr := rfl
@[simp] theorem bump_out (f : Fld) (n i j : Nat) : (s.bump f n i j).out = s.out := rfl
@[simp] theorem bump_reqs (f : Fld) (n i j : Nat) : (s.bump f n i j).reqs = s.reqs := rfl
@[simp] theorem bump_reqSeq (f : Fld) (n i j : Nat) : (s.bump f n i j).reqSeq = s.reqSeq := rfl
@[simp] theorem bump_failed (f : Fld) (n i j : Nat) : (s.bump f n i j).failed = s.failed := rfl
@[simp] theorem bump_cqs (f : Fld) (n i j : Nat) : (s.bump f n i j).cqs = s.cqs := rfl
@[simp] theorem bump_sqs (f : Fld) (n i j : Nat) : (s.bump f n i j).sqs = s.sqs := rfl
@[simp] theorem bump_vfEnable (f : Fld) (n i j : Nat) : (s.bump f n i j).vfEnable = s.vfEnable := rfl
@[simp] theorem bump_numVfs (f : Fld) (n i j : Nat) : (s.bump f n i j).numVfs = s.numVfs := rfl
@[simp] theorem bump_devPending (f : Fld) (n i j : Nat) : (s.bump f n i j).devPending = s.devPending := rfl
@[simp] theorem bump_partPending (f : Fld) (n i j : Nat) : (s.bump f n i j).partPending = s.partPending := rfl
@[simp] theorem bump_intN (f : Fld) (n i j : Nat) : (s.bump f n i j).intN = s.intN := rfl
@[simp] theorem bump_mbxNs (f : Fld) (n i j : Nat) : (s.bump f n i j).mbxNs = s.mbxNs := rfl
@[simp] theorem bump_mbxSec (f : Fld) (n i j : Nat) : (s.bump f n i j).mbxSec = s.mbxSec := rfl
@[simp] theorem bump_parts (f : Fld) (n i j : Nat) : (s.bump f n i j).parts = s.parts := rfl
@[simp] theorem bump_chms (f : Fld) (n i j : Nat) : (s.bump f n i j).chms = s.chms := rfl
@[simp] theorem bump_leaves (f : Fld) (n i j : Nat) : (s.bump f n i j).leaves = s.leaves := rfl
@[simp] theorem bump_nextCid (f : Fld) (n i j : Nat) : (s.bump f n i j).nextCid = s.nextCid := rfl
@[simp] theorem bump_holds (f : Fld) (n i j : Nat) : (s.bump f n i j).holds = s.holds := rfl
@[simp] theorem bump_seqs (f : Fld) (n i j : Nat) : (s.bump f n i j).seqs = s.seqs := rfl
@[simp] theorem bump_shapes (f : Fld) (n i j : Nat) : (s.bump f n i j).shapes = s.shapes := rfl
@[simp] theorem bump_txqs (f : Fld) (n i j : Nat) : (s.bump f n i j).txqs = s.txqs := rfl
@[simp] theorem bump_txports (f : Fld) (n i j : Nat) : (s.bump f n i j).txports = s.txports := rfl
@[simp] theorem bump_partQs (f : Fld) (n i j : Nat) : (s.bump f n i j).partQs = s.partQs := rfl
@[simp] theorem bump_meters (f : Fld) (n i j : Nat) : (s.bump f n i j).meters = s.meters := rfl
@[simp] theorem bump_qps (f : Fld) (n i j : Nat) : (s.bump f n i j).qps = s.qps := rfl
@[simp] theorem bump_mrs (f : Fld) (n i j : Nat) : (s.bump f n i j).mrs = s.mrs := rfl
@[simp] theorem bump_subPorts (f : Fld) (n i j : Nat) : (s.bump f n i j).subPorts = s.subPorts := rfl
@[simp] theorem bump_qwpAdmitted (f : Fld) (n i j : Nat) : (s.bump f n i j).qwpAdmitted = s.qwpAdmitted := rfl
@[simp] theorem bump_spires (f : Fld) (n i j : Nat) : (s.bump f n i j).spires = s.spires := rfl
@[simp] theorem bump_groves (f : Fld) (n i j : Nat) : (s.bump f n i j).groves = s.groves := rfl
@[simp] theorem bump_drr (f : Fld) (n i j : Nat) : (s.bump f n i j).drr = s.drr := rfl
@[simp] theorem bump_exts (f : Fld) (n i j : Nat) : (s.bump f n i j).exts = s.exts := rfl
@[simp] theorem bump_roots (f : Fld) (n i j : Nat) : (s.bump f n i j).roots = s.roots := rfl
@[simp] theorem bump_banks (f : Fld) (n i j : Nat) : (s.bump f n i j).banks = s.banks := rfl
@[simp] theorem bump_promoAt (f : Fld) (n i j : Nat) : (s.bump f n i j).promoAt = s.promoAt := rfl
@[simp] theorem bump_ctxs (f : Fld) (n i j : Nat) : (s.bump f n i j).ctxs = s.ctxs := rfl
@[simp] theorem bump_rules (f : Fld) (n i j : Nat) : (s.bump f n i j).rules = s.rules := rfl
@[simp] theorem bump_scopes (f : Fld) (n i j : Nat) : (s.bump f n i j).scopes = s.scopes := rfl
@[simp] theorem bump_accesses (f : Fld) (n i j : Nat) : (s.bump f n i j).accesses = s.accesses := rfl
@[simp] theorem bump_classHints (f : Fld) (n i j : Nat) : (s.bump f n i j).classHints = s.classHints := rfl
@[simp] theorem bump_promos (f : Fld) (n i j : Nat) : (s.bump f n i j).promos = s.promos := rfl
@[simp] theorem bump_retiredSlots (f : Fld) (n i j : Nat) : (s.bump f n i j).retiredSlots = s.retiredSlots := rfl
@[simp] theorem bump_flash (f : Fld) (n i j : Nat) : (s.bump f n i j).flash = s.flash := rfl
@[simp] theorem bump_pds (f : Fld) (n i j : Nat) : (s.bump f n i j).pds = s.pds := rfl
@[simp] theorem bump_badRecs (f : Fld) (n i j : Nat) : (s.bump f n i j).badRecs = s.badRecs := rfl
@[simp] theorem bump_fleet (f : Fld) (n i j : Nat) : (s.bump f n i j).fleet = s.fleet := rfl
@[simp] theorem bump_pool (f : Fld) (n i j : Nat) : (s.bump f n i j).pool = s.pool := rfl
@[simp] theorem bump_ring (f : Fld) (n i j : Nat) : (s.bump f n i j).ring = s.ring := rfl
@[simp] theorem bump_beats (f : Fld) (n i j : Nat) : (s.bump f n i j).beats = s.beats := rfl
@[simp] theorem bump_scheds (f : Fld) (n i j : Nat) : (s.bump f n i j).scheds = s.scheds := rfl
@[simp] theorem bump_insts (f : Fld) (n i j : Nat) : (s.bump f n i j).insts = s.insts := rfl
@[simp] theorem bump_instSeq (f : Fld) (n i j : Nat) : (s.bump f n i j).instSeq = s.instSeq := rfl
@[simp] theorem bump_jobs (f : Fld) (n i j : Nat) : (s.bump f n i j).jobs = s.jobs := rfl
@[simp] theorem bump_jobSeq (f : Fld) (n i j : Nat) : (s.bump f n i j).jobSeq = s.jobSeq := rfl
@[simp] theorem bump_arrays (f : Fld) (n i j : Nat) : (s.bump f n i j).arrays = s.arrays := rfl
@[simp] theorem bump_tabCache (f : Fld) (n i j : Nat) : (s.bump f n i j).tabCache = s.tabCache := rfl
@[simp] theorem bump_ras (f : Fld) (n i j : Nat) : (s.bump f n i j).ras = s.ras := rfl
@[simp] theorem bump_sec (f : Fld) (n i j : Nat) : (s.bump f n i j).sec = s.sec := rfl
@[simp] theorem bump_cupola (f : Fld) (n i j : Nat) : (s.bump f n i j).cupola = s.cupola := rfl
@[simp] theorem bump_boot (f : Fld) (n i j : Nat) : (s.bump f n i j).boot = s.boot := rfl
@[simp] theorem bump_pending (f : Fld) (n i j : Nat) : (s.bump f n i j).pending = s.pending := rfl

/-! ### putWord -/

@[simp] theorem putWord_time (o v : Nat) : (s.putWord o v).time = s.time := rfl
@[simp] theorem putWord_hb6 (o v : Nat) : (s.putWord o v).hb6 = s.hb6 := rfl
@[simp] theorem putWord_latches (o v : Nat) : (s.putWord o v).latches = s.latches := rfl
@[simp] theorem putWord_mgmtSel (o v : Nat) : (s.putWord o v).mgmtSel = s.mgmtSel := rfl
@[simp] theorem putWord_mem (o v : Nat) : (s.putWord o v).mem = s.mem := rfl
@[simp] theorem putWord_memPoison (o v : Nat) : (s.putWord o v).memPoison = s.memPoison := rfl
@[simp] theorem putWord_memFail (o v : Nat) : (s.putWord o v).memFail = s.memFail := rfl
@[simp] theorem putWord_freeCtr (o v : Nat) : (s.putWord o v).freeCtr = s.freeCtr := rfl
@[simp] theorem putWord_out (o v : Nat) : (s.putWord o v).out = s.out := rfl
@[simp] theorem putWord_reqs (o v : Nat) : (s.putWord o v).reqs = s.reqs := rfl
@[simp] theorem putWord_reqSeq (o v : Nat) : (s.putWord o v).reqSeq = s.reqSeq := rfl
@[simp] theorem putWord_failed (o v : Nat) : (s.putWord o v).failed = s.failed := rfl
@[simp] theorem putWord_cqs (o v : Nat) : (s.putWord o v).cqs = s.cqs := rfl
@[simp] theorem putWord_sqs (o v : Nat) : (s.putWord o v).sqs = s.sqs := rfl
@[simp] theorem putWord_vfEnable (o v : Nat) : (s.putWord o v).vfEnable = s.vfEnable := rfl
@[simp] theorem putWord_numVfs (o v : Nat) : (s.putWord o v).numVfs = s.numVfs := rfl
@[simp] theorem putWord_devPending (o v : Nat) : (s.putWord o v).devPending = s.devPending := rfl
@[simp] theorem putWord_partPending (o v : Nat) : (s.putWord o v).partPending = s.partPending := rfl
@[simp] theorem putWord_intN (o v : Nat) : (s.putWord o v).intN = s.intN := rfl
@[simp] theorem putWord_mbxNs (o v : Nat) : (s.putWord o v).mbxNs = s.mbxNs := rfl
@[simp] theorem putWord_mbxSec (o v : Nat) : (s.putWord o v).mbxSec = s.mbxSec := rfl
@[simp] theorem putWord_parts (o v : Nat) : (s.putWord o v).parts = s.parts := rfl
@[simp] theorem putWord_chms (o v : Nat) : (s.putWord o v).chms = s.chms := rfl
@[simp] theorem putWord_leaves (o v : Nat) : (s.putWord o v).leaves = s.leaves := rfl
@[simp] theorem putWord_nextCid (o v : Nat) : (s.putWord o v).nextCid = s.nextCid := rfl
@[simp] theorem putWord_holds (o v : Nat) : (s.putWord o v).holds = s.holds := rfl
@[simp] theorem putWord_seqs (o v : Nat) : (s.putWord o v).seqs = s.seqs := rfl
@[simp] theorem putWord_shapes (o v : Nat) : (s.putWord o v).shapes = s.shapes := rfl
@[simp] theorem putWord_txqs (o v : Nat) : (s.putWord o v).txqs = s.txqs := rfl
@[simp] theorem putWord_txports (o v : Nat) : (s.putWord o v).txports = s.txports := rfl
@[simp] theorem putWord_partQs (o v : Nat) : (s.putWord o v).partQs = s.partQs := rfl
@[simp] theorem putWord_meters (o v : Nat) : (s.putWord o v).meters = s.meters := rfl
@[simp] theorem putWord_qps (o v : Nat) : (s.putWord o v).qps = s.qps := rfl
@[simp] theorem putWord_mrs (o v : Nat) : (s.putWord o v).mrs = s.mrs := rfl
@[simp] theorem putWord_subPorts (o v : Nat) : (s.putWord o v).subPorts = s.subPorts := rfl
@[simp] theorem putWord_qwpAdmitted (o v : Nat) : (s.putWord o v).qwpAdmitted = s.qwpAdmitted := rfl
@[simp] theorem putWord_spires (o v : Nat) : (s.putWord o v).spires = s.spires := rfl
@[simp] theorem putWord_groves (o v : Nat) : (s.putWord o v).groves = s.groves := rfl
@[simp] theorem putWord_drr (o v : Nat) : (s.putWord o v).drr = s.drr := rfl
@[simp] theorem putWord_exts (o v : Nat) : (s.putWord o v).exts = s.exts := rfl
@[simp] theorem putWord_roots (o v : Nat) : (s.putWord o v).roots = s.roots := rfl
@[simp] theorem putWord_banks (o v : Nat) : (s.putWord o v).banks = s.banks := rfl
@[simp] theorem putWord_promoAt (o v : Nat) : (s.putWord o v).promoAt = s.promoAt := rfl
@[simp] theorem putWord_ctxs (o v : Nat) : (s.putWord o v).ctxs = s.ctxs := rfl
@[simp] theorem putWord_rules (o v : Nat) : (s.putWord o v).rules = s.rules := rfl
@[simp] theorem putWord_scopes (o v : Nat) : (s.putWord o v).scopes = s.scopes := rfl
@[simp] theorem putWord_accesses (o v : Nat) : (s.putWord o v).accesses = s.accesses := rfl
@[simp] theorem putWord_classHints (o v : Nat) : (s.putWord o v).classHints = s.classHints := rfl
@[simp] theorem putWord_promos (o v : Nat) : (s.putWord o v).promos = s.promos := rfl
@[simp] theorem putWord_retiredSlots (o v : Nat) : (s.putWord o v).retiredSlots = s.retiredSlots := rfl
@[simp] theorem putWord_flash (o v : Nat) : (s.putWord o v).flash = s.flash := rfl
@[simp] theorem putWord_pds (o v : Nat) : (s.putWord o v).pds = s.pds := rfl
@[simp] theorem putWord_badRecs (o v : Nat) : (s.putWord o v).badRecs = s.badRecs := rfl
@[simp] theorem putWord_fleet (o v : Nat) : (s.putWord o v).fleet = s.fleet := rfl
@[simp] theorem putWord_pool (o v : Nat) : (s.putWord o v).pool = s.pool := rfl
@[simp] theorem putWord_ring (o v : Nat) : (s.putWord o v).ring = s.ring := rfl
@[simp] theorem putWord_beats (o v : Nat) : (s.putWord o v).beats = s.beats := rfl
@[simp] theorem putWord_scheds (o v : Nat) : (s.putWord o v).scheds = s.scheds := rfl
@[simp] theorem putWord_insts (o v : Nat) : (s.putWord o v).insts = s.insts := rfl
@[simp] theorem putWord_instSeq (o v : Nat) : (s.putWord o v).instSeq = s.instSeq := rfl
@[simp] theorem putWord_jobs (o v : Nat) : (s.putWord o v).jobs = s.jobs := rfl
@[simp] theorem putWord_jobSeq (o v : Nat) : (s.putWord o v).jobSeq = s.jobSeq := rfl
@[simp] theorem putWord_arrays (o v : Nat) : (s.putWord o v).arrays = s.arrays := rfl
@[simp] theorem putWord_tabCache (o v : Nat) : (s.putWord o v).tabCache = s.tabCache := rfl
@[simp] theorem putWord_ras (o v : Nat) : (s.putWord o v).ras = s.ras := rfl
@[simp] theorem putWord_sec (o v : Nat) : (s.putWord o v).sec = s.sec := rfl
@[simp] theorem putWord_cupola (o v : Nat) : (s.putWord o v).cupola = s.cupola := rfl
@[simp] theorem putWord_boot (o v : Nat) : (s.putWord o v).boot = s.boot := rfl
@[simp] theorem putWord_pending (o v : Nat) : (s.putWord o v).pending = s.pending := rfl

/-! ### free -/

@[simp] theorem free_time : (s.free.2).time = s.time := rfl
@[simp] theorem free_hb6 : (s.free.2).hb6 = s.hb6 := rfl
@[simp] theorem free_regs : (s.free.2).regs = s.regs := rfl
@[simp] theorem free_latches : (s.free.2).latches = s.latches := rfl
@[simp] theorem free_mgmtSel : (s.free.2).mgmtSel = s.mgmtSel := rfl
@[simp] theorem free_mem : (s.free.2).mem = s.mem := rfl
@[simp] theorem free_memPoison : (s.free.2).memPoison = s.memPoison := rfl
@[simp] theorem free_memFail : (s.free.2).memFail = s.memFail := rfl
@[simp] theorem free_out : (s.free.2).out = s.out := rfl
@[simp] theorem free_reqs : (s.free.2).reqs = s.reqs := rfl
@[simp] theorem free_reqSeq : (s.free.2).reqSeq = s.reqSeq := rfl
@[simp] theorem free_failed : (s.free.2).failed = s.failed := rfl
@[simp] theorem free_cqs : (s.free.2).cqs = s.cqs := rfl
@[simp] theorem free_sqs : (s.free.2).sqs = s.sqs := rfl
@[simp] theorem free_vfEnable : (s.free.2).vfEnable = s.vfEnable := rfl
@[simp] theorem free_numVfs : (s.free.2).numVfs = s.numVfs := rfl
@[simp] theorem free_devPending : (s.free.2).devPending = s.devPending := rfl
@[simp] theorem free_partPending : (s.free.2).partPending = s.partPending := rfl
@[simp] theorem free_intN : (s.free.2).intN = s.intN := rfl
@[simp] theorem free_mbxNs : (s.free.2).mbxNs = s.mbxNs := rfl
@[simp] theorem free_mbxSec : (s.free.2).mbxSec = s.mbxSec := rfl
@[simp] theorem free_parts : (s.free.2).parts = s.parts := rfl
@[simp] theorem free_chms : (s.free.2).chms = s.chms := rfl
@[simp] theorem free_leaves : (s.free.2).leaves = s.leaves := rfl
@[simp] theorem free_nextCid : (s.free.2).nextCid = s.nextCid := rfl
@[simp] theorem free_holds : (s.free.2).holds = s.holds := rfl
@[simp] theorem free_seqs : (s.free.2).seqs = s.seqs := rfl
@[simp] theorem free_shapes : (s.free.2).shapes = s.shapes := rfl
@[simp] theorem free_txqs : (s.free.2).txqs = s.txqs := rfl
@[simp] theorem free_txports : (s.free.2).txports = s.txports := rfl
@[simp] theorem free_partQs : (s.free.2).partQs = s.partQs := rfl
@[simp] theorem free_meters : (s.free.2).meters = s.meters := rfl
@[simp] theorem free_qps : (s.free.2).qps = s.qps := rfl
@[simp] theorem free_mrs : (s.free.2).mrs = s.mrs := rfl
@[simp] theorem free_subPorts : (s.free.2).subPorts = s.subPorts := rfl
@[simp] theorem free_qwpAdmitted : (s.free.2).qwpAdmitted = s.qwpAdmitted := rfl
@[simp] theorem free_spires : (s.free.2).spires = s.spires := rfl
@[simp] theorem free_groves : (s.free.2).groves = s.groves := rfl
@[simp] theorem free_drr : (s.free.2).drr = s.drr := rfl
@[simp] theorem free_exts : (s.free.2).exts = s.exts := rfl
@[simp] theorem free_roots : (s.free.2).roots = s.roots := rfl
@[simp] theorem free_banks : (s.free.2).banks = s.banks := rfl
@[simp] theorem free_promoAt : (s.free.2).promoAt = s.promoAt := rfl
@[simp] theorem free_ctxs : (s.free.2).ctxs = s.ctxs := rfl
@[simp] theorem free_rules : (s.free.2).rules = s.rules := rfl
@[simp] theorem free_scopes : (s.free.2).scopes = s.scopes := rfl
@[simp] theorem free_accesses : (s.free.2).accesses = s.accesses := rfl
@[simp] theorem free_classHints : (s.free.2).classHints = s.classHints := rfl
@[simp] theorem free_promos : (s.free.2).promos = s.promos := rfl
@[simp] theorem free_retiredSlots : (s.free.2).retiredSlots = s.retiredSlots := rfl
@[simp] theorem free_flash : (s.free.2).flash = s.flash := rfl
@[simp] theorem free_pds : (s.free.2).pds = s.pds := rfl
@[simp] theorem free_badRecs : (s.free.2).badRecs = s.badRecs := rfl
@[simp] theorem free_fleet : (s.free.2).fleet = s.fleet := rfl
@[simp] theorem free_pool : (s.free.2).pool = s.pool := rfl
@[simp] theorem free_ring : (s.free.2).ring = s.ring := rfl
@[simp] theorem free_beats : (s.free.2).beats = s.beats := rfl
@[simp] theorem free_scheds : (s.free.2).scheds = s.scheds := rfl
@[simp] theorem free_insts : (s.free.2).insts = s.insts := rfl
@[simp] theorem free_instSeq : (s.free.2).instSeq = s.instSeq := rfl
@[simp] theorem free_jobs : (s.free.2).jobs = s.jobs := rfl
@[simp] theorem free_jobSeq : (s.free.2).jobSeq = s.jobSeq := rfl
@[simp] theorem free_arrays : (s.free.2).arrays = s.arrays := rfl
@[simp] theorem free_tabCache : (s.free.2).tabCache = s.tabCache := rfl
@[simp] theorem free_ras : (s.free.2).ras = s.ras := rfl
@[simp] theorem free_sec : (s.free.2).sec = s.sec := rfl
@[simp] theorem free_cupola : (s.free.2).cupola = s.cupola := rfl
@[simp] theorem free_boot : (s.free.2).boot = s.boot := rfl
@[simp] theorem free_pending : (s.free.2).pending = s.pending := rfl
@[simp] theorem free_get (g : Fld) (x y : Nat) : (s.free.2).get g x y = s.get g x y := rfl
@[simp] theorem free_on (g : Fld) (x y : Nat) : (s.free.2).on g x y = s.on g x y := rfl

/-! ### freeBytes -/

@[simp] theorem freeBytes_time (n : Nat) : ((s.freeBytes n).2).time = s.time := rfl
@[simp] theorem freeBytes_hb6 (n : Nat) : ((s.freeBytes n).2).hb6 = s.hb6 := rfl
@[simp] theorem freeBytes_regs (n : Nat) : ((s.freeBytes n).2).regs = s.regs := rfl
@[simp] theorem freeBytes_latches (n : Nat) : ((s.freeBytes n).2).latches = s.latches := rfl
@[simp] theorem freeBytes_mgmtSel (n : Nat) : ((s.freeBytes n).2).mgmtSel = s.mgmtSel := rfl
@[simp] theorem freeBytes_mem (n : Nat) : ((s.freeBytes n).2).mem = s.mem := rfl
@[simp] theorem freeBytes_memPoison (n : Nat) : ((s.freeBytes n).2).memPoison = s.memPoison := rfl
@[simp] theorem freeBytes_memFail (n : Nat) : ((s.freeBytes n).2).memFail = s.memFail := rfl
@[simp] theorem freeBytes_out (n : Nat) : ((s.freeBytes n).2).out = s.out := rfl
@[simp] theorem freeBytes_reqs (n : Nat) : ((s.freeBytes n).2).reqs = s.reqs := rfl
@[simp] theorem freeBytes_reqSeq (n : Nat) : ((s.freeBytes n).2).reqSeq = s.reqSeq := rfl
@[simp] theorem freeBytes_failed (n : Nat) : ((s.freeBytes n).2).failed = s.failed := rfl
@[simp] theorem freeBytes_cqs (n : Nat) : ((s.freeBytes n).2).cqs = s.cqs := rfl
@[simp] theorem freeBytes_sqs (n : Nat) : ((s.freeBytes n).2).sqs = s.sqs := rfl
@[simp] theorem freeBytes_vfEnable (n : Nat) : ((s.freeBytes n).2).vfEnable = s.vfEnable := rfl
@[simp] theorem freeBytes_numVfs (n : Nat) : ((s.freeBytes n).2).numVfs = s.numVfs := rfl
@[simp] theorem freeBytes_devPending (n : Nat) : ((s.freeBytes n).2).devPending = s.devPending := rfl
@[simp] theorem freeBytes_partPending (n : Nat) : ((s.freeBytes n).2).partPending = s.partPending := rfl
@[simp] theorem freeBytes_intN (n : Nat) : ((s.freeBytes n).2).intN = s.intN := rfl
@[simp] theorem freeBytes_mbxNs (n : Nat) : ((s.freeBytes n).2).mbxNs = s.mbxNs := rfl
@[simp] theorem freeBytes_mbxSec (n : Nat) : ((s.freeBytes n).2).mbxSec = s.mbxSec := rfl
@[simp] theorem freeBytes_parts (n : Nat) : ((s.freeBytes n).2).parts = s.parts := rfl
@[simp] theorem freeBytes_chms (n : Nat) : ((s.freeBytes n).2).chms = s.chms := rfl
@[simp] theorem freeBytes_leaves (n : Nat) : ((s.freeBytes n).2).leaves = s.leaves := rfl
@[simp] theorem freeBytes_nextCid (n : Nat) : ((s.freeBytes n).2).nextCid = s.nextCid := rfl
@[simp] theorem freeBytes_holds (n : Nat) : ((s.freeBytes n).2).holds = s.holds := rfl
@[simp] theorem freeBytes_seqs (n : Nat) : ((s.freeBytes n).2).seqs = s.seqs := rfl
@[simp] theorem freeBytes_shapes (n : Nat) : ((s.freeBytes n).2).shapes = s.shapes := rfl
@[simp] theorem freeBytes_txqs (n : Nat) : ((s.freeBytes n).2).txqs = s.txqs := rfl
@[simp] theorem freeBytes_txports (n : Nat) : ((s.freeBytes n).2).txports = s.txports := rfl
@[simp] theorem freeBytes_partQs (n : Nat) : ((s.freeBytes n).2).partQs = s.partQs := rfl
@[simp] theorem freeBytes_meters (n : Nat) : ((s.freeBytes n).2).meters = s.meters := rfl
@[simp] theorem freeBytes_qps (n : Nat) : ((s.freeBytes n).2).qps = s.qps := rfl
@[simp] theorem freeBytes_mrs (n : Nat) : ((s.freeBytes n).2).mrs = s.mrs := rfl
@[simp] theorem freeBytes_subPorts (n : Nat) : ((s.freeBytes n).2).subPorts = s.subPorts := rfl
@[simp] theorem freeBytes_qwpAdmitted (n : Nat) : ((s.freeBytes n).2).qwpAdmitted = s.qwpAdmitted := rfl
@[simp] theorem freeBytes_spires (n : Nat) : ((s.freeBytes n).2).spires = s.spires := rfl
@[simp] theorem freeBytes_groves (n : Nat) : ((s.freeBytes n).2).groves = s.groves := rfl
@[simp] theorem freeBytes_drr (n : Nat) : ((s.freeBytes n).2).drr = s.drr := rfl
@[simp] theorem freeBytes_exts (n : Nat) : ((s.freeBytes n).2).exts = s.exts := rfl
@[simp] theorem freeBytes_roots (n : Nat) : ((s.freeBytes n).2).roots = s.roots := rfl
@[simp] theorem freeBytes_banks (n : Nat) : ((s.freeBytes n).2).banks = s.banks := rfl
@[simp] theorem freeBytes_promoAt (n : Nat) : ((s.freeBytes n).2).promoAt = s.promoAt := rfl
@[simp] theorem freeBytes_ctxs (n : Nat) : ((s.freeBytes n).2).ctxs = s.ctxs := rfl
@[simp] theorem freeBytes_rules (n : Nat) : ((s.freeBytes n).2).rules = s.rules := rfl
@[simp] theorem freeBytes_scopes (n : Nat) : ((s.freeBytes n).2).scopes = s.scopes := rfl
@[simp] theorem freeBytes_accesses (n : Nat) : ((s.freeBytes n).2).accesses = s.accesses := rfl
@[simp] theorem freeBytes_classHints (n : Nat) : ((s.freeBytes n).2).classHints = s.classHints := rfl
@[simp] theorem freeBytes_promos (n : Nat) : ((s.freeBytes n).2).promos = s.promos := rfl
@[simp] theorem freeBytes_retiredSlots (n : Nat) : ((s.freeBytes n).2).retiredSlots = s.retiredSlots := rfl
@[simp] theorem freeBytes_flash (n : Nat) : ((s.freeBytes n).2).flash = s.flash := rfl
@[simp] theorem freeBytes_pds (n : Nat) : ((s.freeBytes n).2).pds = s.pds := rfl
@[simp] theorem freeBytes_badRecs (n : Nat) : ((s.freeBytes n).2).badRecs = s.badRecs := rfl
@[simp] theorem freeBytes_fleet (n : Nat) : ((s.freeBytes n).2).fleet = s.fleet := rfl
@[simp] theorem freeBytes_pool (n : Nat) : ((s.freeBytes n).2).pool = s.pool := rfl
@[simp] theorem freeBytes_ring (n : Nat) : ((s.freeBytes n).2).ring = s.ring := rfl
@[simp] theorem freeBytes_beats (n : Nat) : ((s.freeBytes n).2).beats = s.beats := rfl
@[simp] theorem freeBytes_scheds (n : Nat) : ((s.freeBytes n).2).scheds = s.scheds := rfl
@[simp] theorem freeBytes_insts (n : Nat) : ((s.freeBytes n).2).insts = s.insts := rfl
@[simp] theorem freeBytes_instSeq (n : Nat) : ((s.freeBytes n).2).instSeq = s.instSeq := rfl
@[simp] theorem freeBytes_jobs (n : Nat) : ((s.freeBytes n).2).jobs = s.jobs := rfl
@[simp] theorem freeBytes_jobSeq (n : Nat) : ((s.freeBytes n).2).jobSeq = s.jobSeq := rfl
@[simp] theorem freeBytes_arrays (n : Nat) : ((s.freeBytes n).2).arrays = s.arrays := rfl
@[simp] theorem freeBytes_tabCache (n : Nat) : ((s.freeBytes n).2).tabCache = s.tabCache := rfl
@[simp] theorem freeBytes_ras (n : Nat) : ((s.freeBytes n).2).ras = s.ras := rfl
@[simp] theorem freeBytes_sec (n : Nat) : ((s.freeBytes n).2).sec = s.sec := rfl
@[simp] theorem freeBytes_cupola (n : Nat) : ((s.freeBytes n).2).cupola = s.cupola := rfl
@[simp] theorem freeBytes_boot (n : Nat) : ((s.freeBytes n).2).boot = s.boot := rfl
@[simp] theorem freeBytes_pending (n : Nat) : ((s.freeBytes n).2).pending = s.pending := rfl
@[simp] theorem freeBytes_get (n : Nat) (g : Fld) (x y : Nat) : ((s.freeBytes n).2).get g x y = s.get g x y := rfl
@[simp] theorem freeBytes_on (n : Nat) (g : Fld) (x y : Nat) : ((s.freeBytes n).2).on g x y = s.on g x y := rfl

/-! ### send -/

@[simp] theorem send_time (o : Out) : (s.send o).time = s.time := rfl
@[simp] theorem send_hb6 (o : Out) : (s.send o).hb6 = s.hb6 := rfl
@[simp] theorem send_regs (o : Out) : (s.send o).regs = s.regs := rfl
@[simp] theorem send_latches (o : Out) : (s.send o).latches = s.latches := rfl
@[simp] theorem send_mgmtSel (o : Out) : (s.send o).mgmtSel = s.mgmtSel := rfl
@[simp] theorem send_mem (o : Out) : (s.send o).mem = s.mem := rfl
@[simp] theorem send_memPoison (o : Out) : (s.send o).memPoison = s.memPoison := rfl
@[simp] theorem send_memFail (o : Out) : (s.send o).memFail = s.memFail := rfl
@[simp] theorem send_freeCtr (o : Out) : (s.send o).freeCtr = s.freeCtr := rfl
@[simp] theorem send_reqs (o : Out) : (s.send o).reqs = s.reqs := rfl
@[simp] theorem send_reqSeq (o : Out) : (s.send o).reqSeq = s.reqSeq := rfl
@[simp] theorem send_failed (o : Out) : (s.send o).failed = s.failed := rfl
@[simp] theorem send_cqs (o : Out) : (s.send o).cqs = s.cqs := rfl
@[simp] theorem send_sqs (o : Out) : (s.send o).sqs = s.sqs := rfl
@[simp] theorem send_vfEnable (o : Out) : (s.send o).vfEnable = s.vfEnable := rfl
@[simp] theorem send_numVfs (o : Out) : (s.send o).numVfs = s.numVfs := rfl
@[simp] theorem send_devPending (o : Out) : (s.send o).devPending = s.devPending := rfl
@[simp] theorem send_partPending (o : Out) : (s.send o).partPending = s.partPending := rfl
@[simp] theorem send_intN (o : Out) : (s.send o).intN = s.intN := rfl
@[simp] theorem send_mbxNs (o : Out) : (s.send o).mbxNs = s.mbxNs := rfl
@[simp] theorem send_mbxSec (o : Out) : (s.send o).mbxSec = s.mbxSec := rfl
@[simp] theorem send_parts (o : Out) : (s.send o).parts = s.parts := rfl
@[simp] theorem send_chms (o : Out) : (s.send o).chms = s.chms := rfl
@[simp] theorem send_leaves (o : Out) : (s.send o).leaves = s.leaves := rfl
@[simp] theorem send_nextCid (o : Out) : (s.send o).nextCid = s.nextCid := rfl
@[simp] theorem send_holds (o : Out) : (s.send o).holds = s.holds := rfl
@[simp] theorem send_seqs (o : Out) : (s.send o).seqs = s.seqs := rfl
@[simp] theorem send_shapes (o : Out) : (s.send o).shapes = s.shapes := rfl
@[simp] theorem send_txqs (o : Out) : (s.send o).txqs = s.txqs := rfl
@[simp] theorem send_txports (o : Out) : (s.send o).txports = s.txports := rfl
@[simp] theorem send_partQs (o : Out) : (s.send o).partQs = s.partQs := rfl
@[simp] theorem send_meters (o : Out) : (s.send o).meters = s.meters := rfl
@[simp] theorem send_qps (o : Out) : (s.send o).qps = s.qps := rfl
@[simp] theorem send_mrs (o : Out) : (s.send o).mrs = s.mrs := rfl
@[simp] theorem send_subPorts (o : Out) : (s.send o).subPorts = s.subPorts := rfl
@[simp] theorem send_qwpAdmitted (o : Out) : (s.send o).qwpAdmitted = s.qwpAdmitted := rfl
@[simp] theorem send_spires (o : Out) : (s.send o).spires = s.spires := rfl
@[simp] theorem send_groves (o : Out) : (s.send o).groves = s.groves := rfl
@[simp] theorem send_drr (o : Out) : (s.send o).drr = s.drr := rfl
@[simp] theorem send_exts (o : Out) : (s.send o).exts = s.exts := rfl
@[simp] theorem send_roots (o : Out) : (s.send o).roots = s.roots := rfl
@[simp] theorem send_banks (o : Out) : (s.send o).banks = s.banks := rfl
@[simp] theorem send_promoAt (o : Out) : (s.send o).promoAt = s.promoAt := rfl
@[simp] theorem send_ctxs (o : Out) : (s.send o).ctxs = s.ctxs := rfl
@[simp] theorem send_rules (o : Out) : (s.send o).rules = s.rules := rfl
@[simp] theorem send_scopes (o : Out) : (s.send o).scopes = s.scopes := rfl
@[simp] theorem send_accesses (o : Out) : (s.send o).accesses = s.accesses := rfl
@[simp] theorem send_classHints (o : Out) : (s.send o).classHints = s.classHints := rfl
@[simp] theorem send_promos (o : Out) : (s.send o).promos = s.promos := rfl
@[simp] theorem send_retiredSlots (o : Out) : (s.send o).retiredSlots = s.retiredSlots := rfl
@[simp] theorem send_flash (o : Out) : (s.send o).flash = s.flash := rfl
@[simp] theorem send_pds (o : Out) : (s.send o).pds = s.pds := rfl
@[simp] theorem send_badRecs (o : Out) : (s.send o).badRecs = s.badRecs := rfl
@[simp] theorem send_fleet (o : Out) : (s.send o).fleet = s.fleet := rfl
@[simp] theorem send_pool (o : Out) : (s.send o).pool = s.pool := rfl
@[simp] theorem send_ring (o : Out) : (s.send o).ring = s.ring := rfl
@[simp] theorem send_beats (o : Out) : (s.send o).beats = s.beats := rfl
@[simp] theorem send_scheds (o : Out) : (s.send o).scheds = s.scheds := rfl
@[simp] theorem send_insts (o : Out) : (s.send o).insts = s.insts := rfl
@[simp] theorem send_instSeq (o : Out) : (s.send o).instSeq = s.instSeq := rfl
@[simp] theorem send_jobs (o : Out) : (s.send o).jobs = s.jobs := rfl
@[simp] theorem send_jobSeq (o : Out) : (s.send o).jobSeq = s.jobSeq := rfl
@[simp] theorem send_arrays (o : Out) : (s.send o).arrays = s.arrays := rfl
@[simp] theorem send_tabCache (o : Out) : (s.send o).tabCache = s.tabCache := rfl
@[simp] theorem send_ras (o : Out) : (s.send o).ras = s.ras := rfl
@[simp] theorem send_sec (o : Out) : (s.send o).sec = s.sec := rfl
@[simp] theorem send_cupola (o : Out) : (s.send o).cupola = s.cupola := rfl
@[simp] theorem send_boot (o : Out) : (s.send o).boot = s.boot := rfl
@[simp] theorem send_pending (o : Out) : (s.send o).pending = s.pending := rfl
@[simp] theorem send_get (o : Out) (g : Fld) (x y : Nat) : (s.send o).get g x y = s.get g x y := rfl
@[simp] theorem send_on (o : Out) (g : Fld) (x y : Nat) : (s.send o).on g x y = s.on g x y := rfl

/-! ### enter -/

@[simp] theorem enter_hb6 (e : Env) : (s.enter e).hb6 = s.hb6 := rfl
@[simp] theorem enter_regs (e : Env) : (s.enter e).regs = s.regs := rfl
@[simp] theorem enter_latches (e : Env) : (s.enter e).latches = s.latches := rfl
@[simp] theorem enter_mgmtSel (e : Env) : (s.enter e).mgmtSel = s.mgmtSel := rfl
@[simp] theorem enter_freeCtr (e : Env) : (s.enter e).freeCtr = s.freeCtr := rfl
@[simp] theorem enter_out (e : Env) : (s.enter e).out = s.out := rfl
@[simp] theorem enter_reqs (e : Env) : (s.enter e).reqs = s.reqs := rfl
@[simp] theorem enter_reqSeq (e : Env) : (s.enter e).reqSeq = s.reqSeq := rfl
@[simp] theorem enter_failed (e : Env) : (s.enter e).failed = s.failed := rfl
@[simp] theorem enter_cqs (e : Env) : (s.enter e).cqs = s.cqs := rfl
@[simp] theorem enter_sqs (e : Env) : (s.enter e).sqs = s.sqs := rfl
@[simp] theorem enter_vfEnable (e : Env) : (s.enter e).vfEnable = s.vfEnable := rfl
@[simp] theorem enter_numVfs (e : Env) : (s.enter e).numVfs = s.numVfs := rfl
@[simp] theorem enter_devPending (e : Env) : (s.enter e).devPending = s.devPending := rfl
@[simp] theorem enter_partPending (e : Env) : (s.enter e).partPending = s.partPending := rfl
@[simp] theorem enter_intN (e : Env) : (s.enter e).intN = s.intN := rfl
@[simp] theorem enter_mbxNs (e : Env) : (s.enter e).mbxNs = s.mbxNs := rfl
@[simp] theorem enter_mbxSec (e : Env) : (s.enter e).mbxSec = s.mbxSec := rfl
@[simp] theorem enter_parts (e : Env) : (s.enter e).parts = s.parts := rfl
@[simp] theorem enter_chms (e : Env) : (s.enter e).chms = s.chms := rfl
@[simp] theorem enter_leaves (e : Env) : (s.enter e).leaves = s.leaves := rfl
@[simp] theorem enter_nextCid (e : Env) : (s.enter e).nextCid = s.nextCid := rfl
@[simp] theorem enter_holds (e : Env) : (s.enter e).holds = s.holds := rfl
@[simp] theorem enter_seqs (e : Env) : (s.enter e).seqs = s.seqs := rfl
@[simp] theorem enter_shapes (e : Env) : (s.enter e).shapes = s.shapes := rfl
@[simp] theorem enter_txqs (e : Env) : (s.enter e).txqs = s.txqs := rfl
@[simp] theorem enter_txports (e : Env) : (s.enter e).txports = s.txports := rfl
@[simp] theorem enter_partQs (e : Env) : (s.enter e).partQs = s.partQs := rfl
@[simp] theorem enter_meters (e : Env) : (s.enter e).meters = s.meters := rfl
@[simp] theorem enter_qps (e : Env) : (s.enter e).qps = s.qps := rfl
@[simp] theorem enter_mrs (e : Env) : (s.enter e).mrs = s.mrs := rfl
@[simp] theorem enter_subPorts (e : Env) : (s.enter e).subPorts = s.subPorts := rfl
@[simp] theorem enter_qwpAdmitted (e : Env) : (s.enter e).qwpAdmitted = s.qwpAdmitted := rfl
@[simp] theorem enter_spires (e : Env) : (s.enter e).spires = s.spires := rfl
@[simp] theorem enter_groves (e : Env) : (s.enter e).groves = s.groves := rfl
@[simp] theorem enter_drr (e : Env) : (s.enter e).drr = s.drr := rfl
@[simp] theorem enter_exts (e : Env) : (s.enter e).exts = s.exts := rfl
@[simp] theorem enter_roots (e : Env) : (s.enter e).roots = s.roots := rfl
@[simp] theorem enter_banks (e : Env) : (s.enter e).banks = s.banks := rfl
@[simp] theorem enter_promoAt (e : Env) : (s.enter e).promoAt = s.promoAt := rfl
@[simp] theorem enter_ctxs (e : Env) : (s.enter e).ctxs = s.ctxs := rfl
@[simp] theorem enter_rules (e : Env) : (s.enter e).rules = s.rules := rfl
@[simp] theorem enter_scopes (e : Env) : (s.enter e).scopes = s.scopes := rfl
@[simp] theorem enter_accesses (e : Env) : (s.enter e).accesses = s.accesses := rfl
@[simp] theorem enter_classHints (e : Env) : (s.enter e).classHints = s.classHints := rfl
@[simp] theorem enter_promos (e : Env) : (s.enter e).promos = s.promos := rfl
@[simp] theorem enter_retiredSlots (e : Env) : (s.enter e).retiredSlots = s.retiredSlots := rfl
@[simp] theorem enter_flash (e : Env) : (s.enter e).flash = s.flash := rfl
@[simp] theorem enter_pds (e : Env) : (s.enter e).pds = s.pds := rfl
@[simp] theorem enter_badRecs (e : Env) : (s.enter e).badRecs = s.badRecs := rfl
@[simp] theorem enter_fleet (e : Env) : (s.enter e).fleet = s.fleet := rfl
@[simp] theorem enter_pool (e : Env) : (s.enter e).pool = s.pool := rfl
@[simp] theorem enter_ring (e : Env) : (s.enter e).ring = s.ring := rfl
@[simp] theorem enter_beats (e : Env) : (s.enter e).beats = s.beats := rfl
@[simp] theorem enter_scheds (e : Env) : (s.enter e).scheds = s.scheds := rfl
@[simp] theorem enter_insts (e : Env) : (s.enter e).insts = s.insts := rfl
@[simp] theorem enter_instSeq (e : Env) : (s.enter e).instSeq = s.instSeq := rfl
@[simp] theorem enter_jobs (e : Env) : (s.enter e).jobs = s.jobs := rfl
@[simp] theorem enter_jobSeq (e : Env) : (s.enter e).jobSeq = s.jobSeq := rfl
@[simp] theorem enter_arrays (e : Env) : (s.enter e).arrays = s.arrays := rfl
@[simp] theorem enter_tabCache (e : Env) : (s.enter e).tabCache = s.tabCache := rfl
@[simp] theorem enter_ras (e : Env) : (s.enter e).ras = s.ras := rfl
@[simp] theorem enter_sec (e : Env) : (s.enter e).sec = s.sec := rfl
@[simp] theorem enter_cupola (e : Env) : (s.enter e).cupola = s.cupola := rfl
@[simp] theorem enter_boot (e : Env) : (s.enter e).boot = s.boot := rfl
@[simp] theorem enter_pending (e : Env) : (s.enter e).pending = s.pending := rfl
@[simp] theorem enter_get (e : Env) (g : Fld) (x y : Nat) : (s.enter e).get g x y = s.get g x y := rfl
@[simp] theorem enter_on (e : Env) (g : Fld) (x y : Nat) : (s.enter e).on g x y = s.on g x y := rfl

/-! ### setReq -/

@[simp] theorem setReq_time (k : Nat) (r : Req) : (s.setReq k r).time = s.time := rfl
@[simp] theorem setReq_hb6 (k : Nat) (r : Req) : (s.setReq k r).hb6 = s.hb6 := rfl
@[simp] theorem setReq_regs (k : Nat) (r : Req) : (s.setReq k r).regs = s.regs := rfl
@[simp] theorem setReq_latches (k : Nat) (r : Req) : (s.setReq k r).latches = s.latches := rfl
@[simp] theorem setReq_mgmtSel (k : Nat) (r : Req) : (s.setReq k r).mgmtSel = s.mgmtSel := rfl
@[simp] theorem setReq_mem (k : Nat) (r : Req) : (s.setReq k r).mem = s.mem := rfl
@[simp] theorem setReq_memPoison (k : Nat) (r : Req) : (s.setReq k r).memPoison = s.memPoison := rfl
@[simp] theorem setReq_memFail (k : Nat) (r : Req) : (s.setReq k r).memFail = s.memFail := rfl
@[simp] theorem setReq_freeCtr (k : Nat) (r : Req) : (s.setReq k r).freeCtr = s.freeCtr := rfl
@[simp] theorem setReq_out (k : Nat) (r : Req) : (s.setReq k r).out = s.out := rfl
@[simp] theorem setReq_reqSeq (k : Nat) (r : Req) : (s.setReq k r).reqSeq = s.reqSeq := rfl
@[simp] theorem setReq_failed (k : Nat) (r : Req) : (s.setReq k r).failed = s.failed := rfl
@[simp] theorem setReq_cqs (k : Nat) (r : Req) : (s.setReq k r).cqs = s.cqs := rfl
@[simp] theorem setReq_sqs (k : Nat) (r : Req) : (s.setReq k r).sqs = s.sqs := rfl
@[simp] theorem setReq_vfEnable (k : Nat) (r : Req) : (s.setReq k r).vfEnable = s.vfEnable := rfl
@[simp] theorem setReq_numVfs (k : Nat) (r : Req) : (s.setReq k r).numVfs = s.numVfs := rfl
@[simp] theorem setReq_devPending (k : Nat) (r : Req) : (s.setReq k r).devPending = s.devPending := rfl
@[simp] theorem setReq_partPending (k : Nat) (r : Req) : (s.setReq k r).partPending = s.partPending := rfl
@[simp] theorem setReq_intN (k : Nat) (r : Req) : (s.setReq k r).intN = s.intN := rfl
@[simp] theorem setReq_mbxNs (k : Nat) (r : Req) : (s.setReq k r).mbxNs = s.mbxNs := rfl
@[simp] theorem setReq_mbxSec (k : Nat) (r : Req) : (s.setReq k r).mbxSec = s.mbxSec := rfl
@[simp] theorem setReq_parts (k : Nat) (r : Req) : (s.setReq k r).parts = s.parts := rfl
@[simp] theorem setReq_chms (k : Nat) (r : Req) : (s.setReq k r).chms = s.chms := rfl
@[simp] theorem setReq_leaves (k : Nat) (r : Req) : (s.setReq k r).leaves = s.leaves := rfl
@[simp] theorem setReq_nextCid (k : Nat) (r : Req) : (s.setReq k r).nextCid = s.nextCid := rfl
@[simp] theorem setReq_holds (k : Nat) (r : Req) : (s.setReq k r).holds = s.holds := rfl
@[simp] theorem setReq_seqs (k : Nat) (r : Req) : (s.setReq k r).seqs = s.seqs := rfl
@[simp] theorem setReq_shapes (k : Nat) (r : Req) : (s.setReq k r).shapes = s.shapes := rfl
@[simp] theorem setReq_txqs (k : Nat) (r : Req) : (s.setReq k r).txqs = s.txqs := rfl
@[simp] theorem setReq_txports (k : Nat) (r : Req) : (s.setReq k r).txports = s.txports := rfl
@[simp] theorem setReq_partQs (k : Nat) (r : Req) : (s.setReq k r).partQs = s.partQs := rfl
@[simp] theorem setReq_meters (k : Nat) (r : Req) : (s.setReq k r).meters = s.meters := rfl
@[simp] theorem setReq_qps (k : Nat) (r : Req) : (s.setReq k r).qps = s.qps := rfl
@[simp] theorem setReq_mrs (k : Nat) (r : Req) : (s.setReq k r).mrs = s.mrs := rfl
@[simp] theorem setReq_subPorts (k : Nat) (r : Req) : (s.setReq k r).subPorts = s.subPorts := rfl
@[simp] theorem setReq_qwpAdmitted (k : Nat) (r : Req) : (s.setReq k r).qwpAdmitted = s.qwpAdmitted := rfl
@[simp] theorem setReq_spires (k : Nat) (r : Req) : (s.setReq k r).spires = s.spires := rfl
@[simp] theorem setReq_groves (k : Nat) (r : Req) : (s.setReq k r).groves = s.groves := rfl
@[simp] theorem setReq_drr (k : Nat) (r : Req) : (s.setReq k r).drr = s.drr := rfl
@[simp] theorem setReq_exts (k : Nat) (r : Req) : (s.setReq k r).exts = s.exts := rfl
@[simp] theorem setReq_roots (k : Nat) (r : Req) : (s.setReq k r).roots = s.roots := rfl
@[simp] theorem setReq_banks (k : Nat) (r : Req) : (s.setReq k r).banks = s.banks := rfl
@[simp] theorem setReq_promoAt (k : Nat) (r : Req) : (s.setReq k r).promoAt = s.promoAt := rfl
@[simp] theorem setReq_ctxs (k : Nat) (r : Req) : (s.setReq k r).ctxs = s.ctxs := rfl
@[simp] theorem setReq_rules (k : Nat) (r : Req) : (s.setReq k r).rules = s.rules := rfl
@[simp] theorem setReq_scopes (k : Nat) (r : Req) : (s.setReq k r).scopes = s.scopes := rfl
@[simp] theorem setReq_accesses (k : Nat) (r : Req) : (s.setReq k r).accesses = s.accesses := rfl
@[simp] theorem setReq_classHints (k : Nat) (r : Req) : (s.setReq k r).classHints = s.classHints := rfl
@[simp] theorem setReq_promos (k : Nat) (r : Req) : (s.setReq k r).promos = s.promos := rfl
@[simp] theorem setReq_retiredSlots (k : Nat) (r : Req) : (s.setReq k r).retiredSlots = s.retiredSlots := rfl
@[simp] theorem setReq_flash (k : Nat) (r : Req) : (s.setReq k r).flash = s.flash := rfl
@[simp] theorem setReq_pds (k : Nat) (r : Req) : (s.setReq k r).pds = s.pds := rfl
@[simp] theorem setReq_badRecs (k : Nat) (r : Req) : (s.setReq k r).badRecs = s.badRecs := rfl
@[simp] theorem setReq_fleet (k : Nat) (r : Req) : (s.setReq k r).fleet = s.fleet := rfl
@[simp] theorem setReq_pool (k : Nat) (r : Req) : (s.setReq k r).pool = s.pool := rfl
@[simp] theorem setReq_ring (k : Nat) (r : Req) : (s.setReq k r).ring = s.ring := rfl
@[simp] theorem setReq_beats (k : Nat) (r : Req) : (s.setReq k r).beats = s.beats := rfl
@[simp] theorem setReq_scheds (k : Nat) (r : Req) : (s.setReq k r).scheds = s.scheds := rfl
@[simp] theorem setReq_insts (k : Nat) (r : Req) : (s.setReq k r).insts = s.insts := rfl
@[simp] theorem setReq_instSeq (k : Nat) (r : Req) : (s.setReq k r).instSeq = s.instSeq := rfl
@[simp] theorem setReq_jobs (k : Nat) (r : Req) : (s.setReq k r).jobs = s.jobs := rfl
@[simp] theorem setReq_jobSeq (k : Nat) (r : Req) : (s.setReq k r).jobSeq = s.jobSeq := rfl
@[simp] theorem setReq_arrays (k : Nat) (r : Req) : (s.setReq k r).arrays = s.arrays := rfl
@[simp] theorem setReq_tabCache (k : Nat) (r : Req) : (s.setReq k r).tabCache = s.tabCache := rfl
@[simp] theorem setReq_ras (k : Nat) (r : Req) : (s.setReq k r).ras = s.ras := rfl
@[simp] theorem setReq_sec (k : Nat) (r : Req) : (s.setReq k r).sec = s.sec := rfl
@[simp] theorem setReq_cupola (k : Nat) (r : Req) : (s.setReq k r).cupola = s.cupola := rfl
@[simp] theorem setReq_boot (k : Nat) (r : Req) : (s.setReq k r).boot = s.boot := rfl
@[simp] theorem setReq_pending (k : Nat) (r : Req) : (s.setReq k r).pending = s.pending := rfl
@[simp] theorem setReq_get (k : Nat) (r : Req) (g : Fld) (x y : Nat) : (s.setReq k r).get g x y = s.get g x y := rfl
@[simp] theorem setReq_on (k : Nat) (r : Req) (g : Fld) (x y : Nat) : (s.setReq k r).on g x y = s.on g x y := rfl

/-! ### wait -/

@[simp] theorem wait_time (k : Nat) (w : Wait) : (s.wait k w).time = s.time := rfl
@[simp] theorem wait_hb6 (k : Nat) (w : Wait) : (s.wait k w).hb6 = s.hb6 := rfl
@[simp] theorem wait_regs (k : Nat) (w : Wait) : (s.wait k w).regs = s.regs := rfl
@[simp] theorem wait_latches (k : Nat) (w : Wait) : (s.wait k w).latches = s.latches := rfl
@[simp] theorem wait_mgmtSel (k : Nat) (w : Wait) : (s.wait k w).mgmtSel = s.mgmtSel := rfl
@[simp] theorem wait_mem (k : Nat) (w : Wait) : (s.wait k w).mem = s.mem := rfl
@[simp] theorem wait_memPoison (k : Nat) (w : Wait) : (s.wait k w).memPoison = s.memPoison := rfl
@[simp] theorem wait_memFail (k : Nat) (w : Wait) : (s.wait k w).memFail = s.memFail := rfl
@[simp] theorem wait_freeCtr (k : Nat) (w : Wait) : (s.wait k w).freeCtr = s.freeCtr := rfl
@[simp] theorem wait_out (k : Nat) (w : Wait) : (s.wait k w).out = s.out := rfl
@[simp] theorem wait_reqSeq (k : Nat) (w : Wait) : (s.wait k w).reqSeq = s.reqSeq := rfl
@[simp] theorem wait_failed (k : Nat) (w : Wait) : (s.wait k w).failed = s.failed := rfl
@[simp] theorem wait_cqs (k : Nat) (w : Wait) : (s.wait k w).cqs = s.cqs := rfl
@[simp] theorem wait_sqs (k : Nat) (w : Wait) : (s.wait k w).sqs = s.sqs := rfl
@[simp] theorem wait_vfEnable (k : Nat) (w : Wait) : (s.wait k w).vfEnable = s.vfEnable := rfl
@[simp] theorem wait_numVfs (k : Nat) (w : Wait) : (s.wait k w).numVfs = s.numVfs := rfl
@[simp] theorem wait_devPending (k : Nat) (w : Wait) : (s.wait k w).devPending = s.devPending := rfl
@[simp] theorem wait_partPending (k : Nat) (w : Wait) : (s.wait k w).partPending = s.partPending := rfl
@[simp] theorem wait_intN (k : Nat) (w : Wait) : (s.wait k w).intN = s.intN := rfl
@[simp] theorem wait_mbxNs (k : Nat) (w : Wait) : (s.wait k w).mbxNs = s.mbxNs := rfl
@[simp] theorem wait_mbxSec (k : Nat) (w : Wait) : (s.wait k w).mbxSec = s.mbxSec := rfl
@[simp] theorem wait_parts (k : Nat) (w : Wait) : (s.wait k w).parts = s.parts := rfl
@[simp] theorem wait_chms (k : Nat) (w : Wait) : (s.wait k w).chms = s.chms := rfl
@[simp] theorem wait_leaves (k : Nat) (w : Wait) : (s.wait k w).leaves = s.leaves := rfl
@[simp] theorem wait_nextCid (k : Nat) (w : Wait) : (s.wait k w).nextCid = s.nextCid := rfl
@[simp] theorem wait_holds (k : Nat) (w : Wait) : (s.wait k w).holds = s.holds := rfl
@[simp] theorem wait_seqs (k : Nat) (w : Wait) : (s.wait k w).seqs = s.seqs := rfl
@[simp] theorem wait_shapes (k : Nat) (w : Wait) : (s.wait k w).shapes = s.shapes := rfl
@[simp] theorem wait_txqs (k : Nat) (w : Wait) : (s.wait k w).txqs = s.txqs := rfl
@[simp] theorem wait_txports (k : Nat) (w : Wait) : (s.wait k w).txports = s.txports := rfl
@[simp] theorem wait_partQs (k : Nat) (w : Wait) : (s.wait k w).partQs = s.partQs := rfl
@[simp] theorem wait_meters (k : Nat) (w : Wait) : (s.wait k w).meters = s.meters := rfl
@[simp] theorem wait_qps (k : Nat) (w : Wait) : (s.wait k w).qps = s.qps := rfl
@[simp] theorem wait_mrs (k : Nat) (w : Wait) : (s.wait k w).mrs = s.mrs := rfl
@[simp] theorem wait_subPorts (k : Nat) (w : Wait) : (s.wait k w).subPorts = s.subPorts := rfl
@[simp] theorem wait_qwpAdmitted (k : Nat) (w : Wait) : (s.wait k w).qwpAdmitted = s.qwpAdmitted := rfl
@[simp] theorem wait_spires (k : Nat) (w : Wait) : (s.wait k w).spires = s.spires := rfl
@[simp] theorem wait_groves (k : Nat) (w : Wait) : (s.wait k w).groves = s.groves := rfl
@[simp] theorem wait_drr (k : Nat) (w : Wait) : (s.wait k w).drr = s.drr := rfl
@[simp] theorem wait_exts (k : Nat) (w : Wait) : (s.wait k w).exts = s.exts := rfl
@[simp] theorem wait_roots (k : Nat) (w : Wait) : (s.wait k w).roots = s.roots := rfl
@[simp] theorem wait_banks (k : Nat) (w : Wait) : (s.wait k w).banks = s.banks := rfl
@[simp] theorem wait_promoAt (k : Nat) (w : Wait) : (s.wait k w).promoAt = s.promoAt := rfl
@[simp] theorem wait_ctxs (k : Nat) (w : Wait) : (s.wait k w).ctxs = s.ctxs := rfl
@[simp] theorem wait_rules (k : Nat) (w : Wait) : (s.wait k w).rules = s.rules := rfl
@[simp] theorem wait_scopes (k : Nat) (w : Wait) : (s.wait k w).scopes = s.scopes := rfl
@[simp] theorem wait_accesses (k : Nat) (w : Wait) : (s.wait k w).accesses = s.accesses := rfl
@[simp] theorem wait_classHints (k : Nat) (w : Wait) : (s.wait k w).classHints = s.classHints := rfl
@[simp] theorem wait_promos (k : Nat) (w : Wait) : (s.wait k w).promos = s.promos := rfl
@[simp] theorem wait_retiredSlots (k : Nat) (w : Wait) : (s.wait k w).retiredSlots = s.retiredSlots := rfl
@[simp] theorem wait_flash (k : Nat) (w : Wait) : (s.wait k w).flash = s.flash := rfl
@[simp] theorem wait_pds (k : Nat) (w : Wait) : (s.wait k w).pds = s.pds := rfl
@[simp] theorem wait_badRecs (k : Nat) (w : Wait) : (s.wait k w).badRecs = s.badRecs := rfl
@[simp] theorem wait_fleet (k : Nat) (w : Wait) : (s.wait k w).fleet = s.fleet := rfl
@[simp] theorem wait_pool (k : Nat) (w : Wait) : (s.wait k w).pool = s.pool := rfl
@[simp] theorem wait_ring (k : Nat) (w : Wait) : (s.wait k w).ring = s.ring := rfl
@[simp] theorem wait_beats (k : Nat) (w : Wait) : (s.wait k w).beats = s.beats := rfl
@[simp] theorem wait_scheds (k : Nat) (w : Wait) : (s.wait k w).scheds = s.scheds := rfl
@[simp] theorem wait_insts (k : Nat) (w : Wait) : (s.wait k w).insts = s.insts := rfl
@[simp] theorem wait_instSeq (k : Nat) (w : Wait) : (s.wait k w).instSeq = s.instSeq := rfl
@[simp] theorem wait_jobs (k : Nat) (w : Wait) : (s.wait k w).jobs = s.jobs := rfl
@[simp] theorem wait_jobSeq (k : Nat) (w : Wait) : (s.wait k w).jobSeq = s.jobSeq := rfl
@[simp] theorem wait_arrays (k : Nat) (w : Wait) : (s.wait k w).arrays = s.arrays := rfl
@[simp] theorem wait_tabCache (k : Nat) (w : Wait) : (s.wait k w).tabCache = s.tabCache := rfl
@[simp] theorem wait_ras (k : Nat) (w : Wait) : (s.wait k w).ras = s.ras := rfl
@[simp] theorem wait_sec (k : Nat) (w : Wait) : (s.wait k w).sec = s.sec := rfl
@[simp] theorem wait_cupola (k : Nat) (w : Wait) : (s.wait k w).cupola = s.cupola := rfl
@[simp] theorem wait_boot (k : Nat) (w : Wait) : (s.wait k w).boot = s.boot := rfl
@[simp] theorem wait_pending (k : Nat) (w : Wait) : (s.wait k w).pending = s.pending := rfl
@[simp] theorem wait_get (k : Nat) (w : Wait) (g : Fld) (x y : Nat) : (s.wait k w).get g x y = s.get g x y := rfl
@[simp] theorem wait_on (k : Nat) (w : Wait) (g : Fld) (x y : Nat) : (s.wait k w).on g x y = s.on g x y := rfl

/-! ### enqueue -/

@[simp] theorem enqueue_time (p q : Nat) (f : Frame) : (s.enqueue p q f).time = s.time := rfl
@[simp] theorem enqueue_hb6 (p q : Nat) (f : Frame) : (s.enqueue p q f).hb6 = s.hb6 := rfl
@[simp] theorem enqueue_regs (p q : Nat) (f : Frame) : (s.enqueue p q f).regs = s.regs := rfl
@[simp] theorem enqueue_latches (p q : Nat) (f : Frame) : (s.enqueue p q f).latches = s.latches := rfl
@[simp] theorem enqueue_mgmtSel (p q : Nat) (f : Frame) : (s.enqueue p q f).mgmtSel = s.mgmtSel := rfl
@[simp] theorem enqueue_mem (p q : Nat) (f : Frame) : (s.enqueue p q f).mem = s.mem := rfl
@[simp] theorem enqueue_memPoison (p q : Nat) (f : Frame) : (s.enqueue p q f).memPoison = s.memPoison := rfl
@[simp] theorem enqueue_memFail (p q : Nat) (f : Frame) : (s.enqueue p q f).memFail = s.memFail := rfl
@[simp] theorem enqueue_freeCtr (p q : Nat) (f : Frame) : (s.enqueue p q f).freeCtr = s.freeCtr := rfl
@[simp] theorem enqueue_out (p q : Nat) (f : Frame) : (s.enqueue p q f).out = s.out := rfl
@[simp] theorem enqueue_reqs (p q : Nat) (f : Frame) : (s.enqueue p q f).reqs = s.reqs := rfl
@[simp] theorem enqueue_reqSeq (p q : Nat) (f : Frame) : (s.enqueue p q f).reqSeq = s.reqSeq := rfl
@[simp] theorem enqueue_failed (p q : Nat) (f : Frame) : (s.enqueue p q f).failed = s.failed := rfl
@[simp] theorem enqueue_cqs (p q : Nat) (f : Frame) : (s.enqueue p q f).cqs = s.cqs := rfl
@[simp] theorem enqueue_sqs (p q : Nat) (f : Frame) : (s.enqueue p q f).sqs = s.sqs := rfl
@[simp] theorem enqueue_vfEnable (p q : Nat) (f : Frame) : (s.enqueue p q f).vfEnable = s.vfEnable := rfl
@[simp] theorem enqueue_numVfs (p q : Nat) (f : Frame) : (s.enqueue p q f).numVfs = s.numVfs := rfl
@[simp] theorem enqueue_devPending (p q : Nat) (f : Frame) : (s.enqueue p q f).devPending = s.devPending := rfl
@[simp] theorem enqueue_partPending (p q : Nat) (f : Frame) : (s.enqueue p q f).partPending = s.partPending := rfl
@[simp] theorem enqueue_intN (p q : Nat) (f : Frame) : (s.enqueue p q f).intN = s.intN := rfl
@[simp] theorem enqueue_mbxNs (p q : Nat) (f : Frame) : (s.enqueue p q f).mbxNs = s.mbxNs := rfl
@[simp] theorem enqueue_mbxSec (p q : Nat) (f : Frame) : (s.enqueue p q f).mbxSec = s.mbxSec := rfl
@[simp] theorem enqueue_parts (p q : Nat) (f : Frame) : (s.enqueue p q f).parts = s.parts := rfl
@[simp] theorem enqueue_chms (p q : Nat) (f : Frame) : (s.enqueue p q f).chms = s.chms := rfl
@[simp] theorem enqueue_leaves (p q : Nat) (f : Frame) : (s.enqueue p q f).leaves = s.leaves := rfl
@[simp] theorem enqueue_nextCid (p q : Nat) (f : Frame) : (s.enqueue p q f).nextCid = s.nextCid := rfl
@[simp] theorem enqueue_holds (p q : Nat) (f : Frame) : (s.enqueue p q f).holds = s.holds := rfl
@[simp] theorem enqueue_seqs (p q : Nat) (f : Frame) : (s.enqueue p q f).seqs = s.seqs := rfl
@[simp] theorem enqueue_shapes (p q : Nat) (f : Frame) : (s.enqueue p q f).shapes = s.shapes := rfl
@[simp] theorem enqueue_txports (p q : Nat) (f : Frame) : (s.enqueue p q f).txports = s.txports := rfl
@[simp] theorem enqueue_partQs (p q : Nat) (f : Frame) : (s.enqueue p q f).partQs = s.partQs := rfl
@[simp] theorem enqueue_meters (p q : Nat) (f : Frame) : (s.enqueue p q f).meters = s.meters := rfl
@[simp] theorem enqueue_qps (p q : Nat) (f : Frame) : (s.enqueue p q f).qps = s.qps := rfl
@[simp] theorem enqueue_mrs (p q : Nat) (f : Frame) : (s.enqueue p q f).mrs = s.mrs := rfl
@[simp] theorem enqueue_subPorts (p q : Nat) (f : Frame) : (s.enqueue p q f).subPorts = s.subPorts := rfl
@[simp] theorem enqueue_qwpAdmitted (p q : Nat) (f : Frame) : (s.enqueue p q f).qwpAdmitted = s.qwpAdmitted := rfl
@[simp] theorem enqueue_spires (p q : Nat) (f : Frame) : (s.enqueue p q f).spires = s.spires := rfl
@[simp] theorem enqueue_groves (p q : Nat) (f : Frame) : (s.enqueue p q f).groves = s.groves := rfl
@[simp] theorem enqueue_drr (p q : Nat) (f : Frame) : (s.enqueue p q f).drr = s.drr := rfl
@[simp] theorem enqueue_exts (p q : Nat) (f : Frame) : (s.enqueue p q f).exts = s.exts := rfl
@[simp] theorem enqueue_roots (p q : Nat) (f : Frame) : (s.enqueue p q f).roots = s.roots := rfl
@[simp] theorem enqueue_banks (p q : Nat) (f : Frame) : (s.enqueue p q f).banks = s.banks := rfl
@[simp] theorem enqueue_promoAt (p q : Nat) (f : Frame) : (s.enqueue p q f).promoAt = s.promoAt := rfl
@[simp] theorem enqueue_ctxs (p q : Nat) (f : Frame) : (s.enqueue p q f).ctxs = s.ctxs := rfl
@[simp] theorem enqueue_rules (p q : Nat) (f : Frame) : (s.enqueue p q f).rules = s.rules := rfl
@[simp] theorem enqueue_scopes (p q : Nat) (f : Frame) : (s.enqueue p q f).scopes = s.scopes := rfl
@[simp] theorem enqueue_accesses (p q : Nat) (f : Frame) : (s.enqueue p q f).accesses = s.accesses := rfl
@[simp] theorem enqueue_classHints (p q : Nat) (f : Frame) : (s.enqueue p q f).classHints = s.classHints := rfl
@[simp] theorem enqueue_promos (p q : Nat) (f : Frame) : (s.enqueue p q f).promos = s.promos := rfl
@[simp] theorem enqueue_retiredSlots (p q : Nat) (f : Frame) : (s.enqueue p q f).retiredSlots = s.retiredSlots := rfl
@[simp] theorem enqueue_flash (p q : Nat) (f : Frame) : (s.enqueue p q f).flash = s.flash := rfl
@[simp] theorem enqueue_pds (p q : Nat) (f : Frame) : (s.enqueue p q f).pds = s.pds := rfl
@[simp] theorem enqueue_badRecs (p q : Nat) (f : Frame) : (s.enqueue p q f).badRecs = s.badRecs := rfl
@[simp] theorem enqueue_fleet (p q : Nat) (f : Frame) : (s.enqueue p q f).fleet = s.fleet := rfl
@[simp] theorem enqueue_pool (p q : Nat) (f : Frame) : (s.enqueue p q f).pool = s.pool := rfl
@[simp] theorem enqueue_ring (p q : Nat) (f : Frame) : (s.enqueue p q f).ring = s.ring := rfl
@[simp] theorem enqueue_beats (p q : Nat) (f : Frame) : (s.enqueue p q f).beats = s.beats := rfl
@[simp] theorem enqueue_scheds (p q : Nat) (f : Frame) : (s.enqueue p q f).scheds = s.scheds := rfl
@[simp] theorem enqueue_insts (p q : Nat) (f : Frame) : (s.enqueue p q f).insts = s.insts := rfl
@[simp] theorem enqueue_instSeq (p q : Nat) (f : Frame) : (s.enqueue p q f).instSeq = s.instSeq := rfl
@[simp] theorem enqueue_jobs (p q : Nat) (f : Frame) : (s.enqueue p q f).jobs = s.jobs := rfl
@[simp] theorem enqueue_jobSeq (p q : Nat) (f : Frame) : (s.enqueue p q f).jobSeq = s.jobSeq := rfl
@[simp] theorem enqueue_arrays (p q : Nat) (f : Frame) : (s.enqueue p q f).arrays = s.arrays := rfl
@[simp] theorem enqueue_tabCache (p q : Nat) (f : Frame) : (s.enqueue p q f).tabCache = s.tabCache := rfl
@[simp] theorem enqueue_ras (p q : Nat) (f : Frame) : (s.enqueue p q f).ras = s.ras := rfl
@[simp] theorem enqueue_sec (p q : Nat) (f : Frame) : (s.enqueue p q f).sec = s.sec := rfl
@[simp] theorem enqueue_cupola (p q : Nat) (f : Frame) : (s.enqueue p q f).cupola = s.cupola := rfl
@[simp] theorem enqueue_boot (p q : Nat) (f : Frame) : (s.enqueue p q f).boot = s.boot := rfl
@[simp] theorem enqueue_pending (p q : Nat) (f : Frame) : (s.enqueue p q f).pending = s.pending := rfl
@[simp] theorem enqueue_get (p q : Nat) (f : Frame) (g : Fld) (x y : Nat) : (s.enqueue p q f).get g x y = s.get g x y := rfl
@[simp] theorem enqueue_on (p q : Nat) (f : Frame) (g : Fld) (x y : Nat) : (s.enqueue p q f).on g x y = s.on g x y := rfl

/-! ### cqReserve -/

@[simp] theorem cqReserve_time (c : Nat) : (s.cqReserve c).time = s.time := rfl
@[simp] theorem cqReserve_hb6 (c : Nat) : (s.cqReserve c).hb6 = s.hb6 := rfl
@[simp] theorem cqReserve_regs (c : Nat) : (s.cqReserve c).regs = s.regs := rfl
@[simp] theorem cqReserve_latches (c : Nat) : (s.cqReserve c).latches = s.latches := rfl
@[simp] theorem cqReserve_mgmtSel (c : Nat) : (s.cqReserve c).mgmtSel = s.mgmtSel := rfl
@[simp] theorem cqReserve_mem (c : Nat) : (s.cqReserve c).mem = s.mem := rfl
@[simp] theorem cqReserve_memPoison (c : Nat) : (s.cqReserve c).memPoison = s.memPoison := rfl
@[simp] theorem cqReserve_memFail (c : Nat) : (s.cqReserve c).memFail = s.memFail := rfl
@[simp] theorem cqReserve_freeCtr (c : Nat) : (s.cqReserve c).freeCtr = s.freeCtr := rfl
@[simp] theorem cqReserve_out (c : Nat) : (s.cqReserve c).out = s.out := rfl
@[simp] theorem cqReserve_reqs (c : Nat) : (s.cqReserve c).reqs = s.reqs := rfl
@[simp] theorem cqReserve_reqSeq (c : Nat) : (s.cqReserve c).reqSeq = s.reqSeq := rfl
@[simp] theorem cqReserve_failed (c : Nat) : (s.cqReserve c).failed = s.failed := rfl
@[simp] theorem cqReserve_sqs (c : Nat) : (s.cqReserve c).sqs = s.sqs := rfl
@[simp] theorem cqReserve_vfEnable (c : Nat) : (s.cqReserve c).vfEnable = s.vfEnable := rfl
@[simp] theorem cqReserve_numVfs (c : Nat) : (s.cqReserve c).numVfs = s.numVfs := rfl
@[simp] theorem cqReserve_devPending (c : Nat) : (s.cqReserve c).devPending = s.devPending := rfl
@[simp] theorem cqReserve_partPending (c : Nat) : (s.cqReserve c).partPending = s.partPending := rfl
@[simp] theorem cqReserve_intN (c : Nat) : (s.cqReserve c).intN = s.intN := rfl
@[simp] theorem cqReserve_mbxNs (c : Nat) : (s.cqReserve c).mbxNs = s.mbxNs := rfl
@[simp] theorem cqReserve_mbxSec (c : Nat) : (s.cqReserve c).mbxSec = s.mbxSec := rfl
@[simp] theorem cqReserve_parts (c : Nat) : (s.cqReserve c).parts = s.parts := rfl
@[simp] theorem cqReserve_chms (c : Nat) : (s.cqReserve c).chms = s.chms := rfl
@[simp] theorem cqReserve_leaves (c : Nat) : (s.cqReserve c).leaves = s.leaves := rfl
@[simp] theorem cqReserve_nextCid (c : Nat) : (s.cqReserve c).nextCid = s.nextCid := rfl
@[simp] theorem cqReserve_holds (c : Nat) : (s.cqReserve c).holds = s.holds := rfl
@[simp] theorem cqReserve_seqs (c : Nat) : (s.cqReserve c).seqs = s.seqs := rfl
@[simp] theorem cqReserve_shapes (c : Nat) : (s.cqReserve c).shapes = s.shapes := rfl
@[simp] theorem cqReserve_txqs (c : Nat) : (s.cqReserve c).txqs = s.txqs := rfl
@[simp] theorem cqReserve_txports (c : Nat) : (s.cqReserve c).txports = s.txports := rfl
@[simp] theorem cqReserve_partQs (c : Nat) : (s.cqReserve c).partQs = s.partQs := rfl
@[simp] theorem cqReserve_meters (c : Nat) : (s.cqReserve c).meters = s.meters := rfl
@[simp] theorem cqReserve_qps (c : Nat) : (s.cqReserve c).qps = s.qps := rfl
@[simp] theorem cqReserve_mrs (c : Nat) : (s.cqReserve c).mrs = s.mrs := rfl
@[simp] theorem cqReserve_subPorts (c : Nat) : (s.cqReserve c).subPorts = s.subPorts := rfl
@[simp] theorem cqReserve_qwpAdmitted (c : Nat) : (s.cqReserve c).qwpAdmitted = s.qwpAdmitted := rfl
@[simp] theorem cqReserve_spires (c : Nat) : (s.cqReserve c).spires = s.spires := rfl
@[simp] theorem cqReserve_groves (c : Nat) : (s.cqReserve c).groves = s.groves := rfl
@[simp] theorem cqReserve_drr (c : Nat) : (s.cqReserve c).drr = s.drr := rfl
@[simp] theorem cqReserve_exts (c : Nat) : (s.cqReserve c).exts = s.exts := rfl
@[simp] theorem cqReserve_roots (c : Nat) : (s.cqReserve c).roots = s.roots := rfl
@[simp] theorem cqReserve_banks (c : Nat) : (s.cqReserve c).banks = s.banks := rfl
@[simp] theorem cqReserve_promoAt (c : Nat) : (s.cqReserve c).promoAt = s.promoAt := rfl
@[simp] theorem cqReserve_ctxs (c : Nat) : (s.cqReserve c).ctxs = s.ctxs := rfl
@[simp] theorem cqReserve_rules (c : Nat) : (s.cqReserve c).rules = s.rules := rfl
@[simp] theorem cqReserve_scopes (c : Nat) : (s.cqReserve c).scopes = s.scopes := rfl
@[simp] theorem cqReserve_accesses (c : Nat) : (s.cqReserve c).accesses = s.accesses := rfl
@[simp] theorem cqReserve_classHints (c : Nat) : (s.cqReserve c).classHints = s.classHints := rfl
@[simp] theorem cqReserve_promos (c : Nat) : (s.cqReserve c).promos = s.promos := rfl
@[simp] theorem cqReserve_retiredSlots (c : Nat) : (s.cqReserve c).retiredSlots = s.retiredSlots := rfl
@[simp] theorem cqReserve_flash (c : Nat) : (s.cqReserve c).flash = s.flash := rfl
@[simp] theorem cqReserve_pds (c : Nat) : (s.cqReserve c).pds = s.pds := rfl
@[simp] theorem cqReserve_badRecs (c : Nat) : (s.cqReserve c).badRecs = s.badRecs := rfl
@[simp] theorem cqReserve_fleet (c : Nat) : (s.cqReserve c).fleet = s.fleet := rfl
@[simp] theorem cqReserve_pool (c : Nat) : (s.cqReserve c).pool = s.pool := rfl
@[simp] theorem cqReserve_ring (c : Nat) : (s.cqReserve c).ring = s.ring := rfl
@[simp] theorem cqReserve_beats (c : Nat) : (s.cqReserve c).beats = s.beats := rfl
@[simp] theorem cqReserve_scheds (c : Nat) : (s.cqReserve c).scheds = s.scheds := rfl
@[simp] theorem cqReserve_insts (c : Nat) : (s.cqReserve c).insts = s.insts := rfl
@[simp] theorem cqReserve_instSeq (c : Nat) : (s.cqReserve c).instSeq = s.instSeq := rfl
@[simp] theorem cqReserve_jobs (c : Nat) : (s.cqReserve c).jobs = s.jobs := rfl
@[simp] theorem cqReserve_jobSeq (c : Nat) : (s.cqReserve c).jobSeq = s.jobSeq := rfl
@[simp] theorem cqReserve_arrays (c : Nat) : (s.cqReserve c).arrays = s.arrays := rfl
@[simp] theorem cqReserve_tabCache (c : Nat) : (s.cqReserve c).tabCache = s.tabCache := rfl
@[simp] theorem cqReserve_ras (c : Nat) : (s.cqReserve c).ras = s.ras := rfl
@[simp] theorem cqReserve_sec (c : Nat) : (s.cqReserve c).sec = s.sec := rfl
@[simp] theorem cqReserve_cupola (c : Nat) : (s.cqReserve c).cupola = s.cupola := rfl
@[simp] theorem cqReserve_boot (c : Nat) : (s.cqReserve c).boot = s.boot := rfl
@[simp] theorem cqReserve_pending (c : Nat) : (s.cqReserve c).pending = s.pending := rfl
@[simp] theorem cqReserve_get (c : Nat) (g : Fld) (x y : Nat) : (s.cqReserve c).get g x y = s.get g x y := rfl
@[simp] theorem cqReserve_on (c : Nat) (g : Fld) (x y : Nat) : (s.cqReserve c).on g x y = s.on g x y := rfl

/-! ### cqUnreserve -/

@[simp] theorem cqUnreserve_time (c : Nat) : (s.cqUnreserve c).time = s.time := rfl
@[simp] theorem cqUnreserve_hb6 (c : Nat) : (s.cqUnreserve c).hb6 = s.hb6 := rfl
@[simp] theorem cqUnreserve_regs (c : Nat) : (s.cqUnreserve c).regs = s.regs := rfl
@[simp] theorem cqUnreserve_latches (c : Nat) : (s.cqUnreserve c).latches = s.latches := rfl
@[simp] theorem cqUnreserve_mgmtSel (c : Nat) : (s.cqUnreserve c).mgmtSel = s.mgmtSel := rfl
@[simp] theorem cqUnreserve_mem (c : Nat) : (s.cqUnreserve c).mem = s.mem := rfl
@[simp] theorem cqUnreserve_memPoison (c : Nat) : (s.cqUnreserve c).memPoison = s.memPoison := rfl
@[simp] theorem cqUnreserve_memFail (c : Nat) : (s.cqUnreserve c).memFail = s.memFail := rfl
@[simp] theorem cqUnreserve_freeCtr (c : Nat) : (s.cqUnreserve c).freeCtr = s.freeCtr := rfl
@[simp] theorem cqUnreserve_out (c : Nat) : (s.cqUnreserve c).out = s.out := rfl
@[simp] theorem cqUnreserve_reqs (c : Nat) : (s.cqUnreserve c).reqs = s.reqs := rfl
@[simp] theorem cqUnreserve_reqSeq (c : Nat) : (s.cqUnreserve c).reqSeq = s.reqSeq := rfl
@[simp] theorem cqUnreserve_failed (c : Nat) : (s.cqUnreserve c).failed = s.failed := rfl
@[simp] theorem cqUnreserve_sqs (c : Nat) : (s.cqUnreserve c).sqs = s.sqs := rfl
@[simp] theorem cqUnreserve_vfEnable (c : Nat) : (s.cqUnreserve c).vfEnable = s.vfEnable := rfl
@[simp] theorem cqUnreserve_numVfs (c : Nat) : (s.cqUnreserve c).numVfs = s.numVfs := rfl
@[simp] theorem cqUnreserve_devPending (c : Nat) : (s.cqUnreserve c).devPending = s.devPending := rfl
@[simp] theorem cqUnreserve_partPending (c : Nat) : (s.cqUnreserve c).partPending = s.partPending := rfl
@[simp] theorem cqUnreserve_intN (c : Nat) : (s.cqUnreserve c).intN = s.intN := rfl
@[simp] theorem cqUnreserve_mbxNs (c : Nat) : (s.cqUnreserve c).mbxNs = s.mbxNs := rfl
@[simp] theorem cqUnreserve_mbxSec (c : Nat) : (s.cqUnreserve c).mbxSec = s.mbxSec := rfl
@[simp] theorem cqUnreserve_parts (c : Nat) : (s.cqUnreserve c).parts = s.parts := rfl
@[simp] theorem cqUnreserve_chms (c : Nat) : (s.cqUnreserve c).chms = s.chms := rfl
@[simp] theorem cqUnreserve_leaves (c : Nat) : (s.cqUnreserve c).leaves = s.leaves := rfl
@[simp] theorem cqUnreserve_nextCid (c : Nat) : (s.cqUnreserve c).nextCid = s.nextCid := rfl
@[simp] theorem cqUnreserve_holds (c : Nat) : (s.cqUnreserve c).holds = s.holds := rfl
@[simp] theorem cqUnreserve_seqs (c : Nat) : (s.cqUnreserve c).seqs = s.seqs := rfl
@[simp] theorem cqUnreserve_shapes (c : Nat) : (s.cqUnreserve c).shapes = s.shapes := rfl
@[simp] theorem cqUnreserve_txqs (c : Nat) : (s.cqUnreserve c).txqs = s.txqs := rfl
@[simp] theorem cqUnreserve_txports (c : Nat) : (s.cqUnreserve c).txports = s.txports := rfl
@[simp] theorem cqUnreserve_partQs (c : Nat) : (s.cqUnreserve c).partQs = s.partQs := rfl
@[simp] theorem cqUnreserve_meters (c : Nat) : (s.cqUnreserve c).meters = s.meters := rfl
@[simp] theorem cqUnreserve_qps (c : Nat) : (s.cqUnreserve c).qps = s.qps := rfl
@[simp] theorem cqUnreserve_mrs (c : Nat) : (s.cqUnreserve c).mrs = s.mrs := rfl
@[simp] theorem cqUnreserve_subPorts (c : Nat) : (s.cqUnreserve c).subPorts = s.subPorts := rfl
@[simp] theorem cqUnreserve_qwpAdmitted (c : Nat) : (s.cqUnreserve c).qwpAdmitted = s.qwpAdmitted := rfl
@[simp] theorem cqUnreserve_spires (c : Nat) : (s.cqUnreserve c).spires = s.spires := rfl
@[simp] theorem cqUnreserve_groves (c : Nat) : (s.cqUnreserve c).groves = s.groves := rfl
@[simp] theorem cqUnreserve_drr (c : Nat) : (s.cqUnreserve c).drr = s.drr := rfl
@[simp] theorem cqUnreserve_exts (c : Nat) : (s.cqUnreserve c).exts = s.exts := rfl
@[simp] theorem cqUnreserve_roots (c : Nat) : (s.cqUnreserve c).roots = s.roots := rfl
@[simp] theorem cqUnreserve_banks (c : Nat) : (s.cqUnreserve c).banks = s.banks := rfl
@[simp] theorem cqUnreserve_promoAt (c : Nat) : (s.cqUnreserve c).promoAt = s.promoAt := rfl
@[simp] theorem cqUnreserve_ctxs (c : Nat) : (s.cqUnreserve c).ctxs = s.ctxs := rfl
@[simp] theorem cqUnreserve_rules (c : Nat) : (s.cqUnreserve c).rules = s.rules := rfl
@[simp] theorem cqUnreserve_scopes (c : Nat) : (s.cqUnreserve c).scopes = s.scopes := rfl
@[simp] theorem cqUnreserve_accesses (c : Nat) : (s.cqUnreserve c).accesses = s.accesses := rfl
@[simp] theorem cqUnreserve_classHints (c : Nat) : (s.cqUnreserve c).classHints = s.classHints := rfl
@[simp] theorem cqUnreserve_promos (c : Nat) : (s.cqUnreserve c).promos = s.promos := rfl
@[simp] theorem cqUnreserve_retiredSlots (c : Nat) : (s.cqUnreserve c).retiredSlots = s.retiredSlots := rfl
@[simp] theorem cqUnreserve_flash (c : Nat) : (s.cqUnreserve c).flash = s.flash := rfl
@[simp] theorem cqUnreserve_pds (c : Nat) : (s.cqUnreserve c).pds = s.pds := rfl
@[simp] theorem cqUnreserve_badRecs (c : Nat) : (s.cqUnreserve c).badRecs = s.badRecs := rfl
@[simp] theorem cqUnreserve_fleet (c : Nat) : (s.cqUnreserve c).fleet = s.fleet := rfl
@[simp] theorem cqUnreserve_pool (c : Nat) : (s.cqUnreserve c).pool = s.pool := rfl
@[simp] theorem cqUnreserve_ring (c : Nat) : (s.cqUnreserve c).ring = s.ring := rfl
@[simp] theorem cqUnreserve_beats (c : Nat) : (s.cqUnreserve c).beats = s.beats := rfl
@[simp] theorem cqUnreserve_scheds (c : Nat) : (s.cqUnreserve c).scheds = s.scheds := rfl
@[simp] theorem cqUnreserve_insts (c : Nat) : (s.cqUnreserve c).insts = s.insts := rfl
@[simp] theorem cqUnreserve_instSeq (c : Nat) : (s.cqUnreserve c).instSeq = s.instSeq := rfl
@[simp] theorem cqUnreserve_jobs (c : Nat) : (s.cqUnreserve c).jobs = s.jobs := rfl
@[simp] theorem cqUnreserve_jobSeq (c : Nat) : (s.cqUnreserve c).jobSeq = s.jobSeq := rfl
@[simp] theorem cqUnreserve_arrays (c : Nat) : (s.cqUnreserve c).arrays = s.arrays := rfl
@[simp] theorem cqUnreserve_tabCache (c : Nat) : (s.cqUnreserve c).tabCache = s.tabCache := rfl
@[simp] theorem cqUnreserve_ras (c : Nat) : (s.cqUnreserve c).ras = s.ras := rfl
@[simp] theorem cqUnreserve_sec (c : Nat) : (s.cqUnreserve c).sec = s.sec := rfl
@[simp] theorem cqUnreserve_cupola (c : Nat) : (s.cqUnreserve c).cupola = s.cupola := rfl
@[simp] theorem cqUnreserve_boot (c : Nat) : (s.cqUnreserve c).boot = s.boot := rfl
@[simp] theorem cqUnreserve_pending (c : Nat) : (s.cqUnreserve c).pending = s.pending := rfl
@[simp] theorem cqUnreserve_get (c : Nat) (g : Fld) (x y : Nat) : (s.cqUnreserve c).get g x y = s.get g x y := rfl
@[simp] theorem cqUnreserve_on (c : Nat) (g : Fld) (x y : Nat) : (s.cqUnreserve c).on g x y = s.on g x y := rfl

/-! ### setLeaf -/

@[simp] theorem setLeaf_time (i : Nat) (l : Leaf) : (s.setLeaf i l).time = s.time := rfl
@[simp] theorem setLeaf_hb6 (i : Nat) (l : Leaf) : (s.setLeaf i l).hb6 = s.hb6 := rfl
@[simp] theorem setLeaf_regs (i : Nat) (l : Leaf) : (s.setLeaf i l).regs = s.regs := rfl
@[simp] theorem setLeaf_latches (i : Nat) (l : Leaf) : (s.setLeaf i l).latches = s.latches := rfl
@[simp] theorem setLeaf_mgmtSel (i : Nat) (l : Leaf) : (s.setLeaf i l).mgmtSel = s.mgmtSel := rfl
@[simp] theorem setLeaf_mem (i : Nat) (l : Leaf) : (s.setLeaf i l).mem = s.mem := rfl
@[simp] theorem setLeaf_memPoison (i : Nat) (l : Leaf) : (s.setLeaf i l).memPoison = s.memPoison := rfl
@[simp] theorem setLeaf_memFail (i : Nat) (l : Leaf) : (s.setLeaf i l).memFail = s.memFail := rfl
@[simp] theorem setLeaf_freeCtr (i : Nat) (l : Leaf) : (s.setLeaf i l).freeCtr = s.freeCtr := rfl
@[simp] theorem setLeaf_out (i : Nat) (l : Leaf) : (s.setLeaf i l).out = s.out := rfl
@[simp] theorem setLeaf_reqs (i : Nat) (l : Leaf) : (s.setLeaf i l).reqs = s.reqs := rfl
@[simp] theorem setLeaf_reqSeq (i : Nat) (l : Leaf) : (s.setLeaf i l).reqSeq = s.reqSeq := rfl
@[simp] theorem setLeaf_failed (i : Nat) (l : Leaf) : (s.setLeaf i l).failed = s.failed := rfl
@[simp] theorem setLeaf_cqs (i : Nat) (l : Leaf) : (s.setLeaf i l).cqs = s.cqs := rfl
@[simp] theorem setLeaf_sqs (i : Nat) (l : Leaf) : (s.setLeaf i l).sqs = s.sqs := rfl
@[simp] theorem setLeaf_vfEnable (i : Nat) (l : Leaf) : (s.setLeaf i l).vfEnable = s.vfEnable := rfl
@[simp] theorem setLeaf_numVfs (i : Nat) (l : Leaf) : (s.setLeaf i l).numVfs = s.numVfs := rfl
@[simp] theorem setLeaf_devPending (i : Nat) (l : Leaf) : (s.setLeaf i l).devPending = s.devPending := rfl
@[simp] theorem setLeaf_partPending (i : Nat) (l : Leaf) : (s.setLeaf i l).partPending = s.partPending := rfl
@[simp] theorem setLeaf_intN (i : Nat) (l : Leaf) : (s.setLeaf i l).intN = s.intN := rfl
@[simp] theorem setLeaf_mbxNs (i : Nat) (l : Leaf) : (s.setLeaf i l).mbxNs = s.mbxNs := rfl
@[simp] theorem setLeaf_mbxSec (i : Nat) (l : Leaf) : (s.setLeaf i l).mbxSec = s.mbxSec := rfl
@[simp] theorem setLeaf_parts (i : Nat) (l : Leaf) : (s.setLeaf i l).parts = s.parts := rfl
@[simp] theorem setLeaf_chms (i : Nat) (l : Leaf) : (s.setLeaf i l).chms = s.chms := rfl
@[simp] theorem setLeaf_nextCid (i : Nat) (l : Leaf) : (s.setLeaf i l).nextCid = s.nextCid := rfl
@[simp] theorem setLeaf_holds (i : Nat) (l : Leaf) : (s.setLeaf i l).holds = s.holds := rfl
@[simp] theorem setLeaf_seqs (i : Nat) (l : Leaf) : (s.setLeaf i l).seqs = s.seqs := rfl
@[simp] theorem setLeaf_shapes (i : Nat) (l : Leaf) : (s.setLeaf i l).shapes = s.shapes := rfl
@[simp] theorem setLeaf_txqs (i : Nat) (l : Leaf) : (s.setLeaf i l).txqs = s.txqs := rfl
@[simp] theorem setLeaf_txports (i : Nat) (l : Leaf) : (s.setLeaf i l).txports = s.txports := rfl
@[simp] theorem setLeaf_partQs (i : Nat) (l : Leaf) : (s.setLeaf i l).partQs = s.partQs := rfl
@[simp] theorem setLeaf_meters (i : Nat) (l : Leaf) : (s.setLeaf i l).meters = s.meters := rfl
@[simp] theorem setLeaf_qps (i : Nat) (l : Leaf) : (s.setLeaf i l).qps = s.qps := rfl
@[simp] theorem setLeaf_mrs (i : Nat) (l : Leaf) : (s.setLeaf i l).mrs = s.mrs := rfl
@[simp] theorem setLeaf_subPorts (i : Nat) (l : Leaf) : (s.setLeaf i l).subPorts = s.subPorts := rfl
@[simp] theorem setLeaf_qwpAdmitted (i : Nat) (l : Leaf) : (s.setLeaf i l).qwpAdmitted = s.qwpAdmitted := rfl
@[simp] theorem setLeaf_spires (i : Nat) (l : Leaf) : (s.setLeaf i l).spires = s.spires := rfl
@[simp] theorem setLeaf_groves (i : Nat) (l : Leaf) : (s.setLeaf i l).groves = s.groves := rfl
@[simp] theorem setLeaf_drr (i : Nat) (l : Leaf) : (s.setLeaf i l).drr = s.drr := rfl
@[simp] theorem setLeaf_exts (i : Nat) (l : Leaf) : (s.setLeaf i l).exts = s.exts := rfl
@[simp] theorem setLeaf_roots (i : Nat) (l : Leaf) : (s.setLeaf i l).roots = s.roots := rfl
@[simp] theorem setLeaf_banks (i : Nat) (l : Leaf) : (s.setLeaf i l).banks = s.banks := rfl
@[simp] theorem setLeaf_promoAt (i : Nat) (l : Leaf) : (s.setLeaf i l).promoAt = s.promoAt := rfl
@[simp] theorem setLeaf_ctxs (i : Nat) (l : Leaf) : (s.setLeaf i l).ctxs = s.ctxs := rfl
@[simp] theorem setLeaf_rules (i : Nat) (l : Leaf) : (s.setLeaf i l).rules = s.rules := rfl
@[simp] theorem setLeaf_scopes (i : Nat) (l : Leaf) : (s.setLeaf i l).scopes = s.scopes := rfl
@[simp] theorem setLeaf_accesses (i : Nat) (l : Leaf) : (s.setLeaf i l).accesses = s.accesses := rfl
@[simp] theorem setLeaf_classHints (i : Nat) (l : Leaf) : (s.setLeaf i l).classHints = s.classHints := rfl
@[simp] theorem setLeaf_promos (i : Nat) (l : Leaf) : (s.setLeaf i l).promos = s.promos := rfl
@[simp] theorem setLeaf_retiredSlots (i : Nat) (l : Leaf) : (s.setLeaf i l).retiredSlots = s.retiredSlots := rfl
@[simp] theorem setLeaf_flash (i : Nat) (l : Leaf) : (s.setLeaf i l).flash = s.flash := rfl
@[simp] theorem setLeaf_pds (i : Nat) (l : Leaf) : (s.setLeaf i l).pds = s.pds := rfl
@[simp] theorem setLeaf_badRecs (i : Nat) (l : Leaf) : (s.setLeaf i l).badRecs = s.badRecs := rfl
@[simp] theorem setLeaf_fleet (i : Nat) (l : Leaf) : (s.setLeaf i l).fleet = s.fleet := rfl
@[simp] theorem setLeaf_pool (i : Nat) (l : Leaf) : (s.setLeaf i l).pool = s.pool := rfl
@[simp] theorem setLeaf_ring (i : Nat) (l : Leaf) : (s.setLeaf i l).ring = s.ring := rfl
@[simp] theorem setLeaf_beats (i : Nat) (l : Leaf) : (s.setLeaf i l).beats = s.beats := rfl
@[simp] theorem setLeaf_scheds (i : Nat) (l : Leaf) : (s.setLeaf i l).scheds = s.scheds := rfl
@[simp] theorem setLeaf_insts (i : Nat) (l : Leaf) : (s.setLeaf i l).insts = s.insts := rfl
@[simp] theorem setLeaf_instSeq (i : Nat) (l : Leaf) : (s.setLeaf i l).instSeq = s.instSeq := rfl
@[simp] theorem setLeaf_jobs (i : Nat) (l : Leaf) : (s.setLeaf i l).jobs = s.jobs := rfl
@[simp] theorem setLeaf_jobSeq (i : Nat) (l : Leaf) : (s.setLeaf i l).jobSeq = s.jobSeq := rfl
@[simp] theorem setLeaf_arrays (i : Nat) (l : Leaf) : (s.setLeaf i l).arrays = s.arrays := rfl
@[simp] theorem setLeaf_tabCache (i : Nat) (l : Leaf) : (s.setLeaf i l).tabCache = s.tabCache := rfl
@[simp] theorem setLeaf_ras (i : Nat) (l : Leaf) : (s.setLeaf i l).ras = s.ras := rfl
@[simp] theorem setLeaf_sec (i : Nat) (l : Leaf) : (s.setLeaf i l).sec = s.sec := rfl
@[simp] theorem setLeaf_cupola (i : Nat) (l : Leaf) : (s.setLeaf i l).cupola = s.cupola := rfl
@[simp] theorem setLeaf_boot (i : Nat) (l : Leaf) : (s.setLeaf i l).boot = s.boot := rfl
@[simp] theorem setLeaf_pending (i : Nat) (l : Leaf) : (s.setLeaf i l).pending = s.pending := rfl
@[simp] theorem setLeaf_get (i : Nat) (l : Leaf) (g : Fld) (x y : Nat) : (s.setLeaf i l).get g x y = s.get g x y := rfl
@[simp] theorem setLeaf_on (i : Nat) (l : Leaf) (g : Fld) (x y : Nat) : (s.setLeaf i l).on g x y = s.on g x y := rfl

/-! ### setSeq -/

@[simp] theorem setSeq_time (i : Nat) (q : Sequ) : (s.setSeq i q).time = s.time := rfl
@[simp] theorem setSeq_hb6 (i : Nat) (q : Sequ) : (s.setSeq i q).hb6 = s.hb6 := rfl
@[simp] theorem setSeq_regs (i : Nat) (q : Sequ) : (s.setSeq i q).regs = s.regs := rfl
@[simp] theorem setSeq_latches (i : Nat) (q : Sequ) : (s.setSeq i q).latches = s.latches := rfl
@[simp] theorem setSeq_mgmtSel (i : Nat) (q : Sequ) : (s.setSeq i q).mgmtSel = s.mgmtSel := rfl
@[simp] theorem setSeq_mem (i : Nat) (q : Sequ) : (s.setSeq i q).mem = s.mem := rfl
@[simp] theorem setSeq_memPoison (i : Nat) (q : Sequ) : (s.setSeq i q).memPoison = s.memPoison := rfl
@[simp] theorem setSeq_memFail (i : Nat) (q : Sequ) : (s.setSeq i q).memFail = s.memFail := rfl
@[simp] theorem setSeq_freeCtr (i : Nat) (q : Sequ) : (s.setSeq i q).freeCtr = s.freeCtr := rfl
@[simp] theorem setSeq_out (i : Nat) (q : Sequ) : (s.setSeq i q).out = s.out := rfl
@[simp] theorem setSeq_reqs (i : Nat) (q : Sequ) : (s.setSeq i q).reqs = s.reqs := rfl
@[simp] theorem setSeq_reqSeq (i : Nat) (q : Sequ) : (s.setSeq i q).reqSeq = s.reqSeq := rfl
@[simp] theorem setSeq_failed (i : Nat) (q : Sequ) : (s.setSeq i q).failed = s.failed := rfl
@[simp] theorem setSeq_cqs (i : Nat) (q : Sequ) : (s.setSeq i q).cqs = s.cqs := rfl
@[simp] theorem setSeq_sqs (i : Nat) (q : Sequ) : (s.setSeq i q).sqs = s.sqs := rfl
@[simp] theorem setSeq_vfEnable (i : Nat) (q : Sequ) : (s.setSeq i q).vfEnable = s.vfEnable := rfl
@[simp] theorem setSeq_numVfs (i : Nat) (q : Sequ) : (s.setSeq i q).numVfs = s.numVfs := rfl
@[simp] theorem setSeq_devPending (i : Nat) (q : Sequ) : (s.setSeq i q).devPending = s.devPending := rfl
@[simp] theorem setSeq_partPending (i : Nat) (q : Sequ) : (s.setSeq i q).partPending = s.partPending := rfl
@[simp] theorem setSeq_intN (i : Nat) (q : Sequ) : (s.setSeq i q).intN = s.intN := rfl
@[simp] theorem setSeq_mbxNs (i : Nat) (q : Sequ) : (s.setSeq i q).mbxNs = s.mbxNs := rfl
@[simp] theorem setSeq_mbxSec (i : Nat) (q : Sequ) : (s.setSeq i q).mbxSec = s.mbxSec := rfl
@[simp] theorem setSeq_parts (i : Nat) (q : Sequ) : (s.setSeq i q).parts = s.parts := rfl
@[simp] theorem setSeq_chms (i : Nat) (q : Sequ) : (s.setSeq i q).chms = s.chms := rfl
@[simp] theorem setSeq_leaves (i : Nat) (q : Sequ) : (s.setSeq i q).leaves = s.leaves := rfl
@[simp] theorem setSeq_nextCid (i : Nat) (q : Sequ) : (s.setSeq i q).nextCid = s.nextCid := rfl
@[simp] theorem setSeq_holds (i : Nat) (q : Sequ) : (s.setSeq i q).holds = s.holds := rfl
@[simp] theorem setSeq_shapes (i : Nat) (q : Sequ) : (s.setSeq i q).shapes = s.shapes := rfl
@[simp] theorem setSeq_txqs (i : Nat) (q : Sequ) : (s.setSeq i q).txqs = s.txqs := rfl
@[simp] theorem setSeq_txports (i : Nat) (q : Sequ) : (s.setSeq i q).txports = s.txports := rfl
@[simp] theorem setSeq_partQs (i : Nat) (q : Sequ) : (s.setSeq i q).partQs = s.partQs := rfl
@[simp] theorem setSeq_meters (i : Nat) (q : Sequ) : (s.setSeq i q).meters = s.meters := rfl
@[simp] theorem setSeq_qps (i : Nat) (q : Sequ) : (s.setSeq i q).qps = s.qps := rfl
@[simp] theorem setSeq_mrs (i : Nat) (q : Sequ) : (s.setSeq i q).mrs = s.mrs := rfl
@[simp] theorem setSeq_subPorts (i : Nat) (q : Sequ) : (s.setSeq i q).subPorts = s.subPorts := rfl
@[simp] theorem setSeq_qwpAdmitted (i : Nat) (q : Sequ) : (s.setSeq i q).qwpAdmitted = s.qwpAdmitted := rfl
@[simp] theorem setSeq_spires (i : Nat) (q : Sequ) : (s.setSeq i q).spires = s.spires := rfl
@[simp] theorem setSeq_groves (i : Nat) (q : Sequ) : (s.setSeq i q).groves = s.groves := rfl
@[simp] theorem setSeq_drr (i : Nat) (q : Sequ) : (s.setSeq i q).drr = s.drr := rfl
@[simp] theorem setSeq_exts (i : Nat) (q : Sequ) : (s.setSeq i q).exts = s.exts := rfl
@[simp] theorem setSeq_roots (i : Nat) (q : Sequ) : (s.setSeq i q).roots = s.roots := rfl
@[simp] theorem setSeq_banks (i : Nat) (q : Sequ) : (s.setSeq i q).banks = s.banks := rfl
@[simp] theorem setSeq_promoAt (i : Nat) (q : Sequ) : (s.setSeq i q).promoAt = s.promoAt := rfl
@[simp] theorem setSeq_ctxs (i : Nat) (q : Sequ) : (s.setSeq i q).ctxs = s.ctxs := rfl
@[simp] theorem setSeq_rules (i : Nat) (q : Sequ) : (s.setSeq i q).rules = s.rules := rfl
@[simp] theorem setSeq_scopes (i : Nat) (q : Sequ) : (s.setSeq i q).scopes = s.scopes := rfl
@[simp] theorem setSeq_accesses (i : Nat) (q : Sequ) : (s.setSeq i q).accesses = s.accesses := rfl
@[simp] theorem setSeq_classHints (i : Nat) (q : Sequ) : (s.setSeq i q).classHints = s.classHints := rfl
@[simp] theorem setSeq_promos (i : Nat) (q : Sequ) : (s.setSeq i q).promos = s.promos := rfl
@[simp] theorem setSeq_retiredSlots (i : Nat) (q : Sequ) : (s.setSeq i q).retiredSlots = s.retiredSlots := rfl
@[simp] theorem setSeq_flash (i : Nat) (q : Sequ) : (s.setSeq i q).flash = s.flash := rfl
@[simp] theorem setSeq_pds (i : Nat) (q : Sequ) : (s.setSeq i q).pds = s.pds := rfl
@[simp] theorem setSeq_badRecs (i : Nat) (q : Sequ) : (s.setSeq i q).badRecs = s.badRecs := rfl
@[simp] theorem setSeq_fleet (i : Nat) (q : Sequ) : (s.setSeq i q).fleet = s.fleet := rfl
@[simp] theorem setSeq_pool (i : Nat) (q : Sequ) : (s.setSeq i q).pool = s.pool := rfl
@[simp] theorem setSeq_ring (i : Nat) (q : Sequ) : (s.setSeq i q).ring = s.ring := rfl
@[simp] theorem setSeq_beats (i : Nat) (q : Sequ) : (s.setSeq i q).beats = s.beats := rfl
@[simp] theorem setSeq_scheds (i : Nat) (q : Sequ) : (s.setSeq i q).scheds = s.scheds := rfl
@[simp] theorem setSeq_insts (i : Nat) (q : Sequ) : (s.setSeq i q).insts = s.insts := rfl
@[simp] theorem setSeq_instSeq (i : Nat) (q : Sequ) : (s.setSeq i q).instSeq = s.instSeq := rfl
@[simp] theorem setSeq_jobs (i : Nat) (q : Sequ) : (s.setSeq i q).jobs = s.jobs := rfl
@[simp] theorem setSeq_jobSeq (i : Nat) (q : Sequ) : (s.setSeq i q).jobSeq = s.jobSeq := rfl
@[simp] theorem setSeq_arrays (i : Nat) (q : Sequ) : (s.setSeq i q).arrays = s.arrays := rfl
@[simp] theorem setSeq_tabCache (i : Nat) (q : Sequ) : (s.setSeq i q).tabCache = s.tabCache := rfl
@[simp] theorem setSeq_ras (i : Nat) (q : Sequ) : (s.setSeq i q).ras = s.ras := rfl
@[simp] theorem setSeq_sec (i : Nat) (q : Sequ) : (s.setSeq i q).sec = s.sec := rfl
@[simp] theorem setSeq_cupola (i : Nat) (q : Sequ) : (s.setSeq i q).cupola = s.cupola := rfl
@[simp] theorem setSeq_boot (i : Nat) (q : Sequ) : (s.setSeq i q).boot = s.boot := rfl
@[simp] theorem setSeq_pending (i : Nat) (q : Sequ) : (s.setSeq i q).pending = s.pending := rfl
@[simp] theorem setSeq_get (i : Nat) (q : Sequ) (g : Fld) (x y : Nat) : (s.setSeq i q).get g x y = s.get g x y := rfl
@[simp] theorem setSeq_on (i : Nat) (q : Sequ) (g : Fld) (x y : Nat) : (s.setSeq i q).on g x y = s.on g x y := rfl

/-! ### Memory writes -/

@[simp] theorem busWrite_time (a : Nat) (bs : Bytes) : (s.busWrite a bs).time = s.time := by
  unfold State.busWrite; split <;> rfl
@[simp] theorem busWrite_hb6 (a : Nat) (bs : Bytes) : (s.busWrite a bs).hb6 = s.hb6 := by
  unfold State.busWrite; split <;> rfl
@[simp] theorem busWrite_regs (a : Nat) (bs : Bytes) : (s.busWrite a bs).regs = s.regs := by
  unfold State.busWrite; split <;> rfl
@[simp] theorem busWrite_latches (a : Nat) (bs : Bytes) : (s.busWrite a bs).latches = s.latches := by
  unfold State.busWrite; split <;> rfl
@[simp] theorem busWrite_mgmtSel (a : Nat) (bs : Bytes) : (s.busWrite a bs).mgmtSel = s.mgmtSel := by
  unfold State.busWrite; split <;> rfl
@[simp] theorem busWrite_memFail (a : Nat) (bs : Bytes) : (s.busWrite a bs).memFail = s.memFail := by
  unfold State.busWrite; split <;> rfl
@[simp] theorem busWrite_freeCtr (a : Nat) (bs : Bytes) : (s.busWrite a bs).freeCtr = s.freeCtr := by
  unfold State.busWrite; split <;> rfl
@[simp] theorem busWrite_out (a : Nat) (bs : Bytes) : (s.busWrite a bs).out = s.out := by
  unfold State.busWrite; split <;> rfl
@[simp] theorem busWrite_reqs (a : Nat) (bs : Bytes) : (s.busWrite a bs).reqs = s.reqs := by
  unfold State.busWrite; split <;> rfl
@[simp] theorem busWrite_reqSeq (a : Nat) (bs : Bytes) : (s.busWrite a bs).reqSeq = s.reqSeq := by
  unfold State.busWrite; split <;> rfl
@[simp] theorem busWrite_failed (a : Nat) (bs : Bytes) : (s.busWrite a bs).failed = s.failed := by
  unfold State.busWrite; split <;> rfl
@[simp] theorem busWrite_cqs (a : Nat) (bs : Bytes) : (s.busWrite a bs).cqs = s.cqs := by
  unfold State.busWrite; split <;> rfl
@[simp] theorem busWrite_sqs (a : Nat) (bs : Bytes) : (s.busWrite a bs).sqs = s.sqs := by
  unfold State.busWrite; split <;> rfl
@[simp] theorem busWrite_vfEnable (a : Nat) (bs : Bytes) : (s.busWrite a bs).vfEnable = s.vfEnable := by
  unfold State.busWrite; split <;> rfl
@[simp] theorem busWrite_numVfs (a : Nat) (bs : Bytes) : (s.busWrite a bs).numVfs = s.numVfs := by
  unfold State.busWrite; split <;> rfl
@[simp] theorem busWrite_devPending (a : Nat) (bs : Bytes) : (s.busWrite a bs).devPending = s.devPending := by
  unfold State.busWrite; split <;> rfl
@[simp] theorem busWrite_partPending (a : Nat) (bs : Bytes) : (s.busWrite a bs).partPending = s.partPending := by
  unfold State.busWrite; split <;> rfl
@[simp] theorem busWrite_intN (a : Nat) (bs : Bytes) : (s.busWrite a bs).intN = s.intN := by
  unfold State.busWrite; split <;> rfl
@[simp] theorem busWrite_mbxNs (a : Nat) (bs : Bytes) : (s.busWrite a bs).mbxNs = s.mbxNs := by
  unfold State.busWrite; split <;> rfl
@[simp] theorem busWrite_mbxSec (a : Nat) (bs : Bytes) : (s.busWrite a bs).mbxSec = s.mbxSec := by
  unfold State.busWrite; split <;> rfl
@[simp] theorem busWrite_parts (a : Nat) (bs : Bytes) : (s.busWrite a bs).parts = s.parts := by
  unfold State.busWrite; split <;> rfl
@[simp] theorem busWrite_chms (a : Nat) (bs : Bytes) : (s.busWrite a bs).chms = s.chms := by
  unfold State.busWrite; split <;> rfl
@[simp] theorem busWrite_leaves (a : Nat) (bs : Bytes) : (s.busWrite a bs).leaves = s.leaves := by
  unfold State.busWrite; split <;> rfl
@[simp] theorem busWrite_nextCid (a : Nat) (bs : Bytes) : (s.busWrite a bs).nextCid = s.nextCid := by
  unfold State.busWrite; split <;> rfl
@[simp] theorem busWrite_holds (a : Nat) (bs : Bytes) : (s.busWrite a bs).holds = s.holds := by
  unfold State.busWrite; split <;> rfl
@[simp] theorem busWrite_seqs (a : Nat) (bs : Bytes) : (s.busWrite a bs).seqs = s.seqs := by
  unfold State.busWrite; split <;> rfl
@[simp] theorem busWrite_shapes (a : Nat) (bs : Bytes) : (s.busWrite a bs).shapes = s.shapes := by
  unfold State.busWrite; split <;> rfl
@[simp] theorem busWrite_txqs (a : Nat) (bs : Bytes) : (s.busWrite a bs).txqs = s.txqs := by
  unfold State.busWrite; split <;> rfl
@[simp] theorem busWrite_txports (a : Nat) (bs : Bytes) : (s.busWrite a bs).txports = s.txports := by
  unfold State.busWrite; split <;> rfl
@[simp] theorem busWrite_partQs (a : Nat) (bs : Bytes) : (s.busWrite a bs).partQs = s.partQs := by
  unfold State.busWrite; split <;> rfl
@[simp] theorem busWrite_meters (a : Nat) (bs : Bytes) : (s.busWrite a bs).meters = s.meters := by
  unfold State.busWrite; split <;> rfl
@[simp] theorem busWrite_qps (a : Nat) (bs : Bytes) : (s.busWrite a bs).qps = s.qps := by
  unfold State.busWrite; split <;> rfl
@[simp] theorem busWrite_mrs (a : Nat) (bs : Bytes) : (s.busWrite a bs).mrs = s.mrs := by
  unfold State.busWrite; split <;> rfl
@[simp] theorem busWrite_subPorts (a : Nat) (bs : Bytes) : (s.busWrite a bs).subPorts = s.subPorts := by
  unfold State.busWrite; split <;> rfl
@[simp] theorem busWrite_qwpAdmitted (a : Nat) (bs : Bytes) : (s.busWrite a bs).qwpAdmitted = s.qwpAdmitted := by
  unfold State.busWrite; split <;> rfl
@[simp] theorem busWrite_spires (a : Nat) (bs : Bytes) : (s.busWrite a bs).spires = s.spires := by
  unfold State.busWrite; split <;> rfl
@[simp] theorem busWrite_groves (a : Nat) (bs : Bytes) : (s.busWrite a bs).groves = s.groves := by
  unfold State.busWrite; split <;> rfl
@[simp] theorem busWrite_drr (a : Nat) (bs : Bytes) : (s.busWrite a bs).drr = s.drr := by
  unfold State.busWrite; split <;> rfl
@[simp] theorem busWrite_exts (a : Nat) (bs : Bytes) : (s.busWrite a bs).exts = s.exts := by
  unfold State.busWrite; split <;> rfl
@[simp] theorem busWrite_roots (a : Nat) (bs : Bytes) : (s.busWrite a bs).roots = s.roots := by
  unfold State.busWrite; split <;> rfl
@[simp] theorem busWrite_banks (a : Nat) (bs : Bytes) : (s.busWrite a bs).banks = s.banks := by
  unfold State.busWrite; split <;> rfl
@[simp] theorem busWrite_promoAt (a : Nat) (bs : Bytes) : (s.busWrite a bs).promoAt = s.promoAt := by
  unfold State.busWrite; split <;> rfl
@[simp] theorem busWrite_ctxs (a : Nat) (bs : Bytes) : (s.busWrite a bs).ctxs = s.ctxs := by
  unfold State.busWrite; split <;> rfl
@[simp] theorem busWrite_rules (a : Nat) (bs : Bytes) : (s.busWrite a bs).rules = s.rules := by
  unfold State.busWrite; split <;> rfl
@[simp] theorem busWrite_scopes (a : Nat) (bs : Bytes) : (s.busWrite a bs).scopes = s.scopes := by
  unfold State.busWrite; split <;> rfl
@[simp] theorem busWrite_accesses (a : Nat) (bs : Bytes) : (s.busWrite a bs).accesses = s.accesses := by
  unfold State.busWrite; split <;> rfl
@[simp] theorem busWrite_classHints (a : Nat) (bs : Bytes) : (s.busWrite a bs).classHints = s.classHints := by
  unfold State.busWrite; split <;> rfl
@[simp] theorem busWrite_promos (a : Nat) (bs : Bytes) : (s.busWrite a bs).promos = s.promos := by
  unfold State.busWrite; split <;> rfl
@[simp] theorem busWrite_retiredSlots (a : Nat) (bs : Bytes) : (s.busWrite a bs).retiredSlots = s.retiredSlots := by
  unfold State.busWrite; split <;> rfl
@[simp] theorem busWrite_flash (a : Nat) (bs : Bytes) : (s.busWrite a bs).flash = s.flash := by
  unfold State.busWrite; split <;> rfl
@[simp] theorem busWrite_pds (a : Nat) (bs : Bytes) : (s.busWrite a bs).pds = s.pds := by
  unfold State.busWrite; split <;> rfl
@[simp] theorem busWrite_badRecs (a : Nat) (bs : Bytes) : (s.busWrite a bs).badRecs = s.badRecs := by
  unfold State.busWrite; split <;> rfl
@[simp] theorem busWrite_fleet (a : Nat) (bs : Bytes) : (s.busWrite a bs).fleet = s.fleet := by
  unfold State.busWrite; split <;> rfl
@[simp] theorem busWrite_pool (a : Nat) (bs : Bytes) : (s.busWrite a bs).pool = s.pool := by
  unfold State.busWrite; split <;> rfl
@[simp] theorem busWrite_ring (a : Nat) (bs : Bytes) : (s.busWrite a bs).ring = s.ring := by
  unfold State.busWrite; split <;> rfl
@[simp] theorem busWrite_beats (a : Nat) (bs : Bytes) : (s.busWrite a bs).beats = s.beats := by
  unfold State.busWrite; split <;> rfl
@[simp] theorem busWrite_scheds (a : Nat) (bs : Bytes) : (s.busWrite a bs).scheds = s.scheds := by
  unfold State.busWrite; split <;> rfl
@[simp] theorem busWrite_insts (a : Nat) (bs : Bytes) : (s.busWrite a bs).insts = s.insts := by
  unfold State.busWrite; split <;> rfl
@[simp] theorem busWrite_instSeq (a : Nat) (bs : Bytes) : (s.busWrite a bs).instSeq = s.instSeq := by
  unfold State.busWrite; split <;> rfl
@[simp] theorem busWrite_jobs (a : Nat) (bs : Bytes) : (s.busWrite a bs).jobs = s.jobs := by
  unfold State.busWrite; split <;> rfl
@[simp] theorem busWrite_jobSeq (a : Nat) (bs : Bytes) : (s.busWrite a bs).jobSeq = s.jobSeq := by
  unfold State.busWrite; split <;> rfl
@[simp] theorem busWrite_arrays (a : Nat) (bs : Bytes) : (s.busWrite a bs).arrays = s.arrays := by
  unfold State.busWrite; split <;> rfl
@[simp] theorem busWrite_tabCache (a : Nat) (bs : Bytes) : (s.busWrite a bs).tabCache = s.tabCache := by
  unfold State.busWrite; split <;> rfl
@[simp] theorem busWrite_ras (a : Nat) (bs : Bytes) : (s.busWrite a bs).ras = s.ras := by
  unfold State.busWrite; split <;> rfl
@[simp] theorem busWrite_sec (a : Nat) (bs : Bytes) : (s.busWrite a bs).sec = s.sec := by
  unfold State.busWrite; split <;> rfl
@[simp] theorem busWrite_cupola (a : Nat) (bs : Bytes) : (s.busWrite a bs).cupola = s.cupola := by
  unfold State.busWrite; split <;> rfl
@[simp] theorem busWrite_boot (a : Nat) (bs : Bytes) : (s.busWrite a bs).boot = s.boot := by
  unfold State.busWrite; split <;> rfl
@[simp] theorem busWrite_pending (a : Nat) (bs : Bytes) : (s.busWrite a bs).pending = s.pending := by
  unfold State.busWrite; split <;> rfl
@[simp] theorem busWrite_get (a : Nat) (bs : Bytes) (g : Fld) (x y : Nat) : (s.busWrite a bs).get g x y = s.get g x y := get_congr (busWrite_regs ..) g x y
@[simp] theorem busWrite_on (a : Nat) (bs : Bytes) (g : Fld) (x y : Nat) : (s.busWrite a bs).on g x y = s.on g x y := on_congr (busWrite_regs ..) g x y
@[simp] theorem poisonRange_time (a n : Nat) : (s.poisonRange a n).time = s.time := by
  unfold State.poisonRange; split <;> rfl
@[simp] theorem poisonRange_hb6 (a n : Nat) : (s.poisonRange a n).hb6 = s.hb6 := by
  unfold State.poisonRange; split <;> rfl
@[simp] theorem poisonRange_regs (a n : Nat) : (s.poisonRange a n).regs = s.regs := by
  unfold State.poisonRange; split <;> rfl
@[simp] theorem poisonRange_latches (a n : Nat) : (s.poisonRange a n).latches = s.latches := by
  unfold State.poisonRange; split <;> rfl
@[simp] theorem poisonRange_mgmtSel (a n : Nat) : (s.poisonRange a n).mgmtSel = s.mgmtSel := by
  unfold State.poisonRange; split <;> rfl
@[simp] theorem poisonRange_mem (a n : Nat) : (s.poisonRange a n).mem = s.mem := by
  unfold State.poisonRange; split <;> rfl
@[simp] theorem poisonRange_memFail (a n : Nat) : (s.poisonRange a n).memFail = s.memFail := by
  unfold State.poisonRange; split <;> rfl
@[simp] theorem poisonRange_freeCtr (a n : Nat) : (s.poisonRange a n).freeCtr = s.freeCtr := by
  unfold State.poisonRange; split <;> rfl
@[simp] theorem poisonRange_out (a n : Nat) : (s.poisonRange a n).out = s.out := by
  unfold State.poisonRange; split <;> rfl
@[simp] theorem poisonRange_reqs (a n : Nat) : (s.poisonRange a n).reqs = s.reqs := by
  unfold State.poisonRange; split <;> rfl
@[simp] theorem poisonRange_reqSeq (a n : Nat) : (s.poisonRange a n).reqSeq = s.reqSeq := by
  unfold State.poisonRange; split <;> rfl
@[simp] theorem poisonRange_failed (a n : Nat) : (s.poisonRange a n).failed = s.failed := by
  unfold State.poisonRange; split <;> rfl
@[simp] theorem poisonRange_cqs (a n : Nat) : (s.poisonRange a n).cqs = s.cqs := by
  unfold State.poisonRange; split <;> rfl
@[simp] theorem poisonRange_sqs (a n : Nat) : (s.poisonRange a n).sqs = s.sqs := by
  unfold State.poisonRange; split <;> rfl
@[simp] theorem poisonRange_vfEnable (a n : Nat) : (s.poisonRange a n).vfEnable = s.vfEnable := by
  unfold State.poisonRange; split <;> rfl
@[simp] theorem poisonRange_numVfs (a n : Nat) : (s.poisonRange a n).numVfs = s.numVfs := by
  unfold State.poisonRange; split <;> rfl
@[simp] theorem poisonRange_devPending (a n : Nat) : (s.poisonRange a n).devPending = s.devPending := by
  unfold State.poisonRange; split <;> rfl
@[simp] theorem poisonRange_partPending (a n : Nat) : (s.poisonRange a n).partPending = s.partPending := by
  unfold State.poisonRange; split <;> rfl
@[simp] theorem poisonRange_intN (a n : Nat) : (s.poisonRange a n).intN = s.intN := by
  unfold State.poisonRange; split <;> rfl
@[simp] theorem poisonRange_mbxNs (a n : Nat) : (s.poisonRange a n).mbxNs = s.mbxNs := by
  unfold State.poisonRange; split <;> rfl
@[simp] theorem poisonRange_mbxSec (a n : Nat) : (s.poisonRange a n).mbxSec = s.mbxSec := by
  unfold State.poisonRange; split <;> rfl
@[simp] theorem poisonRange_parts (a n : Nat) : (s.poisonRange a n).parts = s.parts := by
  unfold State.poisonRange; split <;> rfl
@[simp] theorem poisonRange_chms (a n : Nat) : (s.poisonRange a n).chms = s.chms := by
  unfold State.poisonRange; split <;> rfl
@[simp] theorem poisonRange_leaves (a n : Nat) : (s.poisonRange a n).leaves = s.leaves := by
  unfold State.poisonRange; split <;> rfl
@[simp] theorem poisonRange_nextCid (a n : Nat) : (s.poisonRange a n).nextCid = s.nextCid := by
  unfold State.poisonRange; split <;> rfl
@[simp] theorem poisonRange_holds (a n : Nat) : (s.poisonRange a n).holds = s.holds := by
  unfold State.poisonRange; split <;> rfl
@[simp] theorem poisonRange_seqs (a n : Nat) : (s.poisonRange a n).seqs = s.seqs := by
  unfold State.poisonRange; split <;> rfl
@[simp] theorem poisonRange_shapes (a n : Nat) : (s.poisonRange a n).shapes = s.shapes := by
  unfold State.poisonRange; split <;> rfl
@[simp] theorem poisonRange_txqs (a n : Nat) : (s.poisonRange a n).txqs = s.txqs := by
  unfold State.poisonRange; split <;> rfl
@[simp] theorem poisonRange_txports (a n : Nat) : (s.poisonRange a n).txports = s.txports := by
  unfold State.poisonRange; split <;> rfl
@[simp] theorem poisonRange_partQs (a n : Nat) : (s.poisonRange a n).partQs = s.partQs := by
  unfold State.poisonRange; split <;> rfl
@[simp] theorem poisonRange_meters (a n : Nat) : (s.poisonRange a n).meters = s.meters := by
  unfold State.poisonRange; split <;> rfl
@[simp] theorem poisonRange_qps (a n : Nat) : (s.poisonRange a n).qps = s.qps := by
  unfold State.poisonRange; split <;> rfl
@[simp] theorem poisonRange_mrs (a n : Nat) : (s.poisonRange a n).mrs = s.mrs := by
  unfold State.poisonRange; split <;> rfl
@[simp] theorem poisonRange_subPorts (a n : Nat) : (s.poisonRange a n).subPorts = s.subPorts := by
  unfold State.poisonRange; split <;> rfl
@[simp] theorem poisonRange_qwpAdmitted (a n : Nat) : (s.poisonRange a n).qwpAdmitted = s.qwpAdmitted := by
  unfold State.poisonRange; split <;> rfl
@[simp] theorem poisonRange_spires (a n : Nat) : (s.poisonRange a n).spires = s.spires := by
  unfold State.poisonRange; split <;> rfl
@[simp] theorem poisonRange_groves (a n : Nat) : (s.poisonRange a n).groves = s.groves := by
  unfold State.poisonRange; split <;> rfl
@[simp] theorem poisonRange_drr (a n : Nat) : (s.poisonRange a n).drr = s.drr := by
  unfold State.poisonRange; split <;> rfl
@[simp] theorem poisonRange_exts (a n : Nat) : (s.poisonRange a n).exts = s.exts := by
  unfold State.poisonRange; split <;> rfl
@[simp] theorem poisonRange_roots (a n : Nat) : (s.poisonRange a n).roots = s.roots := by
  unfold State.poisonRange; split <;> rfl
@[simp] theorem poisonRange_banks (a n : Nat) : (s.poisonRange a n).banks = s.banks := by
  unfold State.poisonRange; split <;> rfl
@[simp] theorem poisonRange_promoAt (a n : Nat) : (s.poisonRange a n).promoAt = s.promoAt := by
  unfold State.poisonRange; split <;> rfl
@[simp] theorem poisonRange_ctxs (a n : Nat) : (s.poisonRange a n).ctxs = s.ctxs := by
  unfold State.poisonRange; split <;> rfl
@[simp] theorem poisonRange_rules (a n : Nat) : (s.poisonRange a n).rules = s.rules := by
  unfold State.poisonRange; split <;> rfl
@[simp] theorem poisonRange_scopes (a n : Nat) : (s.poisonRange a n).scopes = s.scopes := by
  unfold State.poisonRange; split <;> rfl
@[simp] theorem poisonRange_accesses (a n : Nat) : (s.poisonRange a n).accesses = s.accesses := by
  unfold State.poisonRange; split <;> rfl
@[simp] theorem poisonRange_classHints (a n : Nat) : (s.poisonRange a n).classHints = s.classHints := by
  unfold State.poisonRange; split <;> rfl
@[simp] theorem poisonRange_promos (a n : Nat) : (s.poisonRange a n).promos = s.promos := by
  unfold State.poisonRange; split <;> rfl
@[simp] theorem poisonRange_retiredSlots (a n : Nat) : (s.poisonRange a n).retiredSlots = s.retiredSlots := by
  unfold State.poisonRange; split <;> rfl
@[simp] theorem poisonRange_flash (a n : Nat) : (s.poisonRange a n).flash = s.flash := by
  unfold State.poisonRange; split <;> rfl
@[simp] theorem poisonRange_pds (a n : Nat) : (s.poisonRange a n).pds = s.pds := by
  unfold State.poisonRange; split <;> rfl
@[simp] theorem poisonRange_badRecs (a n : Nat) : (s.poisonRange a n).badRecs = s.badRecs := by
  unfold State.poisonRange; split <;> rfl
@[simp] theorem poisonRange_fleet (a n : Nat) : (s.poisonRange a n).fleet = s.fleet := by
  unfold State.poisonRange; split <;> rfl
@[simp] theorem poisonRange_pool (a n : Nat) : (s.poisonRange a n).pool = s.pool := by
  unfold State.poisonRange; split <;> rfl
@[simp] theorem poisonRange_ring (a n : Nat) : (s.poisonRange a n).ring = s.ring := by
  unfold State.poisonRange; split <;> rfl
@[simp] theorem poisonRange_beats (a n : Nat) : (s.poisonRange a n).beats = s.beats := by
  unfold State.poisonRange; split <;> rfl
@[simp] theorem poisonRange_scheds (a n : Nat) : (s.poisonRange a n).scheds = s.scheds := by
  unfold State.poisonRange; split <;> rfl
@[simp] theorem poisonRange_insts (a n : Nat) : (s.poisonRange a n).insts = s.insts := by
  unfold State.poisonRange; split <;> rfl
@[simp] theorem poisonRange_instSeq (a n : Nat) : (s.poisonRange a n).instSeq = s.instSeq := by
  unfold State.poisonRange; split <;> rfl
@[simp] theorem poisonRange_jobs (a n : Nat) : (s.poisonRange a n).jobs = s.jobs := by
  unfold State.poisonRange; split <;> rfl
@[simp] theorem poisonRange_jobSeq (a n : Nat) : (s.poisonRange a n).jobSeq = s.jobSeq := by
  unfold State.poisonRange; split <;> rfl
@[simp] theorem poisonRange_arrays (a n : Nat) : (s.poisonRange a n).arrays = s.arrays := by
  unfold State.poisonRange; split <;> rfl
@[simp] theorem poisonRange_tabCache (a n : Nat) : (s.poisonRange a n).tabCache = s.tabCache := by
  unfold State.poisonRange; split <;> rfl
@[simp] theorem poisonRange_ras (a n : Nat) : (s.poisonRange a n).ras = s.ras := by
  unfold State.poisonRange; split <;> rfl
@[simp] theorem poisonRange_sec (a n : Nat) : (s.poisonRange a n).sec = s.sec := by
  unfold State.poisonRange; split <;> rfl
@[simp] theorem poisonRange_cupola (a n : Nat) : (s.poisonRange a n).cupola = s.cupola := by
  unfold State.poisonRange; split <;> rfl
@[simp] theorem poisonRange_boot (a n : Nat) : (s.poisonRange a n).boot = s.boot := by
  unfold State.poisonRange; split <;> rfl
@[simp] theorem poisonRange_pending (a n : Nat) : (s.poisonRange a n).pending = s.pending := by
  unfold State.poisonRange; split <;> rfl
@[simp] theorem poisonRange_get (a n : Nat) (g : Fld) (x y : Nat) : (s.poisonRange a n).get g x y = s.get g x y := get_congr (poisonRange_regs ..) g x y
@[simp] theorem poisonRange_on (a n : Nat) (g : Fld) (x y : Nat) : (s.poisonRange a n).on g x y = s.on g x y := on_congr (poisonRange_regs ..) g x y

/-! ### What an update sets -/

theorem setReq_reqs (k : Nat) (r : Req) : (s.setReq k r).reqs = Table.set k r s.reqs := rfl
theorem setLeaf_leaves (i : Nat) (l : Leaf) : (s.setLeaf i l).leaves = Table.set i l s.leaves := rfl
theorem setSeq_seqs (i : Nat) (q : Sequ) : (s.setSeq i q).seqs = Table.set i q s.seqs := rfl
@[simp] theorem seq_setSeq (i : Nat) (q : Sequ) : (s.setSeq i q).seq i = q := Table.getD_set_same ..
@[simp] theorem leaf_setLeaf (i : Nat) (l : Leaf) : (s.setLeaf i l).leaf i = l := Table.getD_set_same ..
theorem seq_setSeq_other {i j : Nat} (q : Sequ) (h : i ≠ j) : (s.setSeq i q).seq j = s.seq j := by
  unfold State.seq State.setSeq
  rw [Table.getD_set, if_neg h]
theorem leaf_setLeaf_other {i j : Nat} (l : Leaf) (h : i ≠ j) : (s.setLeaf i l).leaf j = s.leaf j := by
  unfold State.leaf State.setLeaf
  rw [Table.getD_set, if_neg h]

end Sys2Proof.Machine
end

