-- ==== Sys2Proof/Laws/Causes.lean ====
section
/-! SUPPORT. What raising a cause and completing a request do: the registers they write, and what they leave. -/

namespace Sys2Proof.Machine

open Sys2Proof

theorem ite_get {c : Prop} [Decidable c] (a b : State) (f : Fld) (i j : Nat) :
    (if c then a else b).get f i j = if c then a.get f i j else b.get f i j := apply_ite (fun x => State.get x f i j) ..

/-! ### Causes -/

@[simp] theorem refreshDev_regs (s : State) : s.refreshDev.regs = s.regs := (apply_ite State.regs _ _ _).trans (ite_self _)

@[simp] theorem refreshPart_regs (s : State) (p : Nat) : (s.refreshPart p).regs = s.regs :=
  (apply_ite State.regs _ _ _).trans (ite_self _)

theorem raise_get (s : State) (g b : Nat) (f : Fld) (i j : Nat) (h : F.BELFRY_GRP_CAUSE_CAUSE.off g 0 ≠ f.off i j) :
    (s.raise g b).get f i j = s.get f i j :=
  (get_congr (refreshDev_regs _) f i j).trans (get_put_other _ _ _ _ _ _ _ _ h)

/-- A cause that is raised is set in its group, and the other bits of the group stay. -/
theorem raise_get_cause (s : State) (g b : Nat) :
    (s.raise g b).get F.BELFRY_GRP_CAUSE_CAUSE g = (s.get F.BELFRY_GRP_CAUSE_CAUSE g ||| 2 ^ b) % 2 ^ 32 := by
  unfold State.raise
  rw [get_congr (refreshDev_regs _), get_put _ _ _ _ _ (by decide) (by decide) (by decide)]
  rfl

@[simp] theorem put_calm (s : State) (f : Fld) (v i j : Nat) : (s.put f v i j).calm = s.calm := rfl

@[simp] theorem bump_calm (s : State) (f : Fld) (n i j : Nat) : (s.bump f n i j).calm = s.calm := rfl

@[simp] theorem refreshDev_calm (s : State) : s.refreshDev.calm = s.calm := (apply_ite State.calm _ _ _).trans (ite_self _)

@[simp] theorem refreshPart_calm (s : State) (p : Nat) : (s.refreshPart p).calm = s.calm :=
  (apply_ite State.calm _ _ _).trans (ite_self _)

@[simp] theorem raise_calm (s : State) (g b : Nat) : (s.raise g b).calm = s.calm := refreshDev_calm _

@[simp] theorem raisePState_calm (s : State) (p : Nat) : (s.raisePState p).calm = s.calm := by simp [State.raisePState]

@[simp] theorem setPState_calm (s : State) (p v : Nat) : (s.setPState p v).calm = s.calm := by simp [State.setPState]

@[simp] theorem raisePoison_calm (s : State) (p : Nat) : (s.raisePoison p).calm = s.calm := by simp [State.raisePoison]

@[simp] theorem raiseCq_calm (s : State) (c : Nat) : (s.raiseCq c).calm = s.calm := by
  refine (apply_ite State.calm _ _ _).trans ?_
  simp

theorem foldl_put_calm (l : List (Fld × Nat)) (s : State) :
    (l.foldl (fun (s : State) (fv : Fld × Nat) => s.put fv.1 fv.2) s).calm = s.calm := by
  induction l generalizing s with
  | nil => rfl
  | cons a l ih => exact (ih _).trans rfl

@[simp] theorem recordEvent_calm (s : State) (v o : Fld) (l : List (Fld × Nat)) : (s.recordEvent v o l).calm = s.calm := by
  refine (apply_ite State.calm _ _ _).trans ?_
  simp [foldl_put_calm]

@[simp] theorem badAccess_calm (s : State) (fn bar off : Nat) (w : Bool) : (s.badAccess fn bar off w).calm = s.calm :=
  recordEvent_calm ..

@[simp] theorem security_calm (s : State) (c p : Nat) : (s.security c p).calm = s.calm :=
  (raise_calm _ _ _).trans (recordEvent_calm ..)

end Sys2Proof.Machine
end

