-- ==== Sys2Proof/Laws/Choice.lean ====
section
/-! SUPPORT. The free choice of an unused number (log entry 5): it finds one wherever there is one, below the bound, and uses up one
free value. -/

namespace Sys2Proof.Laws

open Sys2Proof Sys2Proof.Machine

/-- What the search for the first unused number answers is unused and in its range. -/
theorem firstFree_unused (used : Nat → Bool) : ∀ (n i k : Nat), firstFree used n i = some k → used k = false ∧ i ≤ k ∧ k < i + n
  | 0, _, _, h => by simp [firstFree] at h
  | n + 1, i, k, h => by
    rw [firstFree] at h
    split at h
    · have := firstFree_unused used n (i + 1) k h
      exact ⟨this.1, by omega, by omega⟩
    · next hu =>
      cases h
      exact ⟨by simpa using hu, by omega, by omega⟩

/-- It answers one wherever the range has one. -/
theorem firstFree_finds (used : Nat → Bool) :
    ∀ (n i k : Nat), used k = false → i ≤ k → k < i + n → ∃ j, firstFree used n i = some j
  | 0, i, k, _, h1, h2 => by omega
  | n + 1, i, k, h, h1, h2 => by
    rw [firstFree]
    split
    · have : k ≠ i := by
        intro e
        subst e
        simp_all
      exact firstFree_finds used n (i + 1) k h (by omega) (by omega)
    · exact ⟨i, rfl⟩

/-- The choice answers an unused number below the bound wherever there is one. -/
theorem pick_finds (s : State) (used : Nat → Bool) (bound k : Nat) (hk : k < bound) (h : used k = false) :
    ∃ j, j < bound ∧ used j = false ∧ s.pick used bound = (some j, s.free.2) := by
  have hb : max bound 1 = bound := by omega
  have e : (s.free.1 % bound + ((k + bound) - s.free.1 % bound) % bound) % bound = k := by
    have := Nat.mod_lt s.free.1 (by omega : bound > 0)
    rcases Nat.lt_or_ge k (s.free.1 % bound) with g | g
    · rw [Nat.mod_eq_of_lt (by omega : k + bound - s.free.1 % bound < bound),
        show s.free.1 % bound + (k + bound - s.free.1 % bound) = k + bound by omega, Nat.add_mod_right, Nat.mod_eq_of_lt hk]
    · rw [show k + bound - s.free.1 % bound = (k - s.free.1 % bound) + bound by omega, Nat.add_mod_right,
        Nat.mod_eq_of_lt (by omega : k - s.free.1 % bound < bound),
        show s.free.1 % bound + (k - s.free.1 % bound) = k by omega, Nat.mod_eq_of_lt hk]
  obtain ⟨j, hj⟩ := firstFree_finds (fun j => used ((s.free.1 % bound + j) % bound)) bound 0
    (((k + bound) - s.free.1 % bound) % bound) (by simp only [e, h]) (by omega) (by
      have := Nat.mod_lt ((k + bound) - s.free.1 % bound) (by omega : bound > 0)
      omega)
  refine ⟨(s.free.1 % bound + j) % bound, Nat.mod_lt _ (by omega), (firstFree_unused _ _ _ _ hj).1, ?_⟩
  simp only [State.pick, hb, hj]

end Sys2Proof.Laws
end

