-- ==== Sys2Proof/Laws/Cipher.lean ====
section
/-! SUPPORT. Decryption undoes encryption (R157, R158): of blocks, of a data unit, and of a payload unit by unit. -/

namespace Sys2Proof.Machine

open Sys2Proof

/-- XTS under a permutation undone by XTS under its inverse. -/
theorem xtsRun_inv (f g : BitVec 128 → BitVec 128) (h : ∀ x, g (f x) = x) :
    ∀ (t : BitVec 128) (l : List (BitVec 128)), xtsRun g t (xtsRun f t l) = l
  | _, [] => rfl
  | t, b :: bs => by
    have := xtsRun_inv f g h (xtsDouble t) bs
    simp [xtsRun, this, BitVec.xor_assoc, h]

theorem xtsRun_length (f : BitVec 128 → BitVec 128) : ∀ (t : BitVec 128) (l : List (BitVec 128)), (xtsRun f t l).length = l.length
  | _, [] => rfl
  | _, _ :: bs => by simp [xtsRun, xtsRun_length f _ bs]

theorem length_leBytes (n v : Nat) : (leBytes n v).length = n := by
  induction n generalizing v with
  | zero => rfl
  | succ n ih => simp [leBytes, ih]

theorem leNat_leBytes (n v : Nat) : leNat (leBytes n v) = v % 2 ^ (8 * n) := by
  induction n generalizing v with
  | zero => simp [leBytes, leNat, Nat.mod_one]
  | succ n ih =>
    have e : (2 : Nat) ^ (8 * (n + 1)) = 2 ^ 8 * 2 ^ (8 * n) := by rw [← Nat.pow_add]; congr 1; omega
    rw [e, Nat.mod_mul]
    show (BitVec.ofNat 8 v).toNat + 256 * leNat (leBytes n (v / 256)) = _
    rw [ih]; rfl

theorem leBytes_leNat (b : Bytes) : leBytes b.length (leNat b) = b := by
  induction b with
  | nil => rfl
  | cons a t ih =>
    simp only [List.length_cons, leBytes, leNat]
    congr 1
    · apply BitVec.eq_of_toNat_eq; simp [BitVec.toNat_ofNat]; omega
    · rw [show (a.toNat + 256 * leNat t) / 256 = leNat t by have := a.isLt; omega]; exact ih

theorem leNat_lt (b : Bytes) : leNat b < 2 ^ (8 * b.length) := by
  induction b with
  | nil => simp [leNat]
  | cons a t ih =>
    have e : (2 : Nat) ^ (8 * (t.length + 1)) = 256 * 2 ^ (8 * t.length) := by
      rw [show 8 * (t.length + 1) = 8 + 8 * t.length by omega, Nat.pow_add]
    have := a.isLt
    simp only [leNat, List.length_cons, e]; omega

/-- The bytes of a block of 16. -/
theorem leBytes_blockOf (b : Bytes) (h : b.length = 16) : leBytes 16 (blockOf b).toNat = b := by
  have h1 := leNat_lt b
  rw [h] at h1
  have h2 : (blockOf b).toNat = leNat b := by
    unfold blockOf
    rw [BitVec.toNat_ofNat]
    exact Nat.mod_eq_of_lt (by simpa using h1)
  rw [h2, ← h]
  exact leBytes_leNat b

theorem blockOf_leBytes (x : BitVec 128) : blockOf (leBytes 16 x.toNat) = x := by
  unfold blockOf
  rw [leNat_leBytes]
  apply BitVec.eq_of_toNat_eq
  have := x.isLt
  simp only [BitVec.toNat_ofNat]
  omega

/-- A list cut into runs of `n` and joined again. -/
theorem chunksOf_flatten {α : Type} (n : Nat) (hn : 0 < n) : ∀ (k : Nat) (xs : List α), xs.length < k * n → (chunksOf n k xs).flatten = xs
  | 0, xs, h => by simp at h
  | k + 1, [], _ => by simp [chunksOf]
  | k + 1, a :: t, h => by
    have hk : ((a :: t).drop n).length < k * n ∨ ((a :: t).drop n) = [] := by
      rw [Nat.succ_mul] at h
      by_cases hl : (a :: t).length ≤ n
      · right; exact List.drop_eq_nil_of_le hl
      · left; rw [List.length_drop]; omega
    have hd : (chunksOf n k ((a :: t).drop n)).flatten = (a :: t).drop n := by
      rcases hk with hk | hk
      · exact chunksOf_flatten n hn k _ hk
      · rw [hk]; cases k <;> simp [chunksOf]
    simp only [chunksOf, List.isEmpty_cons, Bool.false_eq_true, if_false, List.flatten_cons, hd]
    exact List.take_append_drop n _

/-- Runs of whole blocks, joined, are cut into the same runs. -/
theorem chunksOf_blocks (n : Nat) (hn : 0 < n) : ∀ (l : List Bytes) (k : Nat), (∀ b ∈ l, b.length = n) → l.length < k →
    chunksOf n k l.flatten = l
  | [], k, _, _ => by cases k <;> simp [chunksOf]
  | b :: l, 0, _, hk => by simp at hk
  | b :: l, k + 1, h, hk => by
    have hb : b.length = n := h b (by simp)
    have ih := chunksOf_blocks n hn l k (fun x hx => h x (by simp [hx])) (by simpa using hk)
    have hne : ((b :: l).flatten).isEmpty = false := by
      rw [List.flatten_cons]
      cases b with
      | nil => simp at hb; omega
      | cons _ _ => rfl
    simp only [chunksOf, hne, Bool.false_eq_true, if_false]
    rw [List.flatten_cons, List.take_append_of_le_length (by omega), List.drop_append_of_le_length (by omega),
      List.take_of_length_le (by omega), List.drop_eq_nil_of_le (by omega), List.nil_append, ih]

theorem chunksOf_lengths {α : Type} (n : Nat) : ∀ (k : Nat) (xs : List α), n ∣ xs.length → ∀ b ∈ chunksOf n k xs, b.length = n
  | 0, _, _, b, h => by simp [chunksOf] at h
  | k + 1, xs, hd, b, h => by
    simp only [chunksOf] at h
    split at h
    · simp at h
    · next hne =>
      have hl : n ≤ xs.length := Nat.le_of_dvd (by cases xs <;> simp at hne ⊢) hd
      rcases List.mem_cons.mp h with h | h
      · subst h; rw [List.length_take]; omega
      · refine chunksOf_lengths n k (xs.drop n) ?_ b h
        rw [List.length_drop]; exact Nat.dvd_sub hd (Nat.dvd_refl n)

theorem blockBytes_blocksOf (bs : Bytes) (h : 16 ∣ bs.length) : blockBytes (blocksOf bs) = bs := by
  have h1 : blockBytes (blocksOf bs) = (chunksOf 16 (bs.length / 16 + 1) bs).flatten := by
    unfold blockBytes blocksOf
    rw [List.flatMap_map, List.flatMap_def]
    congr 1
    have : ∀ l : List Bytes, (∀ b ∈ l, b.length = 16) → l.map (fun b => leBytes 16 (blockOf b).toNat) = l := by
      intro l hl
      induction l with
      | nil => rfl
      | cons b t ih => simp [leBytes_blockOf b (hl b (by simp)), ih (fun x hx => hl x (by simp [hx]))]
    exact this _ (chunksOf_lengths 16 _ _ h)
  rw [h1]
  exact chunksOf_flatten 16 (by omega) _ _ (by omega)

theorem length_blockBytes (l : List (BitVec 128)) : (blockBytes l).length = 16 * l.length := by
  induction l with
  | nil => rfl
  | cons b t ih =>
    unfold blockBytes at ih ⊢
    rw [List.flatMap_cons, List.length_append, ih, length_leBytes, List.length_cons]; omega

theorem blocksOf_blockBytes (l : List (BitVec 128)) : blocksOf (blockBytes l) = l := by
  unfold blocksOf
  rw [length_blockBytes]
  unfold blockBytes
  rw [List.flatMap_def, chunksOf_blocks 16 (by omega) _ _ (by
    intro b hb; obtain ⟨x, _, rfl⟩ := List.mem_map.mp hb; exact length_leBytes 16 _) (by simp)]
  rw [List.map_map]
  have : ∀ l : List (BitVec 128), l.map (blockOf ∘ fun b => leBytes 16 b.toNat) = l := by
    intro l
    induction l with
    | nil => rfl
    | cons b t ih => simp [blockOf_leBytes, ih]
  exact this l

theorem padTo_length (bs : Bytes) (n : Nat) (h : bs.length = n) : padTo n bs = bs := by
  subst h; simp [padTo]

theorem length_blocksOf (bs : Bytes) (h : 16 ∣ bs.length) : 16 * (blocksOf bs).length = bs.length := by
  rw [← length_blockBytes, blockBytes_blocksOf bs h]

theorem length_sealBytes (key tweak : Nat) (bs : Bytes) (h : 16 ∣ bs.length) : (sealBytes key tweak bs).length = bs.length := by
  unfold sealBytes
  rw [padTo_length _ _ (by rw [length_blockBytes, xtsRun_length, length_blocksOf bs h]), length_blockBytes, xtsRun_length,
    length_blocksOf bs h]

/-- A data unit of whole blocks, encrypted and decrypted again. -/
theorem openBytes_sealBytes (key tweak : Nat) (bs : Bytes) (h : 16 ∣ bs.length) :
    openBytes key tweak (sealBytes key tweak bs) = bs := by
  have hs : sealBytes key tweak bs = blockBytes (xtsRun (keyPart key 0).enc (xtsMask key tweak) (blocksOf bs)) := by
    unfold sealBytes
    exact padTo_length _ _ (by rw [length_blockBytes, xtsRun_length, length_blocksOf bs h])
  unfold openBytes
  rw [hs, blocksOf_blockBytes, xtsRun_inv _ _ (keyPart key 0).dec_enc, blockBytes_blocksOf bs h, length_blockBytes,
    xtsRun_length, length_blocksOf bs h]
  exact padTo_length _ _ rfl

theorem length_chunksOf_le {α : Type} (n : Nat) : ∀ (k : Nat) (xs : List α), ∀ b ∈ chunksOf n k xs, b.length ≤ n
  | 0, _, b, h => by simp [chunksOf] at h
  | k + 1, xs, b, h => by
    simp only [chunksOf] at h
    split at h
    · simp at h
    · rcases List.mem_cons.mp h with h | h
      · subst h; rw [List.length_take]; omega
      · exact length_chunksOf_le n k _ b h

/-- Runs replaced by runs of the same lengths, joined, are cut into those. -/
theorem chunksOf_mapIdx {α : Type} (n : Nat) (hn : 0 < n) : ∀ (k : Nat) (xs : List α) (f : Nat → List α → List α),
    (∀ u, ∀ c ∈ chunksOf n k xs, (f u c).length = c.length) → xs.length < k * n →
    chunksOf n k ((chunksOf n k xs).mapIdx f).flatten = (chunksOf n k xs).mapIdx f
  | 0, xs, _, _, h => by simp at h
  | k + 1, [], _, _, _ => by simp [chunksOf]
  | k + 1, a :: t, f, hf, h => by
    have hc : chunksOf n (k + 1) (a :: t) = (a :: t).take n :: chunksOf n k ((a :: t).drop n) := by simp [chunksOf]
    rw [hc] at hf ⊢
    rw [List.mapIdx_cons, List.flatten_cons]
    have hlen : (f 0 ((a :: t).take n)).length = ((a :: t).take n).length := hf 0 _ (by simp)
    have hne : (f 0 ((a :: t).take n) ++ ((chunksOf n k ((a :: t).drop n)).mapIdx (fun i => f (i + 1))).flatten).isEmpty = false := by
      cases hx : f 0 ((a :: t).take n) with
      | nil => rw [hx] at hlen; simp [List.length_take] at hlen; omega
      | cons _ _ => rfl
    simp only [chunksOf, hne, Bool.false_eq_true, if_false]
    by_cases hl : (a :: t).length ≤ n
    · have hd : (a :: t).drop n = [] := List.drop_eq_nil_of_le hl
      have he : chunksOf n k ([] : List α) = [] := by cases k <;> simp [chunksOf]
      rw [hd, he, List.mapIdx_nil, List.flatten_nil, List.append_nil, List.take_of_length_le (by
        rw [hlen, List.length_take]; omega), List.drop_eq_nil_of_le (by rw [hlen, List.length_take]; omega), he]
    · have hk : ((a :: t).drop n).length < k * n := by
        rw [Nat.succ_mul] at h; rw [List.length_drop]; omega
      have h16 : (f 0 ((a :: t).take n)).length = n := by rw [hlen, List.length_take]; omega
      rw [List.take_append_of_le_length (by omega), List.take_of_length_le (by omega), List.drop_append_of_le_length (by omega),
        List.drop_eq_nil_of_le (by omega), List.nil_append,
        chunksOf_mapIdx n hn k _ (fun i => f (i + 1)) (fun u c hc => hf (u + 1) c (by simp [hc])) hk]

theorem length_flatten_mapIdx {α : Type} : ∀ (l : List (List α)) (f : Nat → List α → List α),
    (∀ u, ∀ c ∈ l, (f u c).length = c.length) → (l.mapIdx f).flatten.length = l.flatten.length
  | [], _, _ => by simp
  | a :: t, f, h => by
    rw [List.mapIdx_cons, List.flatten_cons, List.flatten_cons, List.length_append, List.length_append, h 0 a (by simp),
      length_flatten_mapIdx t (fun i => f (i + 1)) (fun u c hc => h (u + 1) c (by simp [hc]))]

theorem mapIdx_inv {α : Type} : ∀ (l : List α) (f g : Nat → α → α), (∀ u, ∀ c ∈ l, g u (f u c) = c) → (l.mapIdx f).mapIdx g = l
  | [], _, _, _ => by simp
  | a :: t, f, g, h => by
    rw [List.mapIdx_cons, List.mapIdx_cons, h 0 a (by simp),
      mapIdx_inv t (fun i => f (i + 1)) (fun i => g (i + 1)) (fun u c hc => h (u + 1) c (by simp [hc]))]

theorem chunksOf_lengths_dvd {α : Type} (m n : Nat) (hmn : m ∣ n) : ∀ (k : Nat) (xs : List α), m ∣ xs.length →
    ∀ b ∈ chunksOf n k xs, m ∣ b.length
  | 0, _, _, b, h => by simp [chunksOf] at h
  | k + 1, xs, hd, b, h => by
    simp only [chunksOf] at h
    split at h
    · simp at h
    · rcases List.mem_cons.mp h with h | h
      · subst h; rw [List.length_take]
        by_cases hl : n ≤ xs.length
        · rwa [Nat.min_eq_left hl]
        · rw [Nat.min_eq_right (by omega)]; exact hd
      · refine chunksOf_lengths_dvd m n hmn k (xs.drop n) ?_ b h
        rw [List.length_drop]; exact Nat.dvd_sub hd hmn

/-- A stored payload of whole blocks, encrypted unit by unit and decrypted again (R157, R158). -/
theorem decryptUnits_encryptUnits (key leaf : Nat) (gen : Epoch) (part : Nat) (bs : Bytes) (h : 16 ∣ bs.length) :
    decryptUnits key leaf gen part (encryptUnits key leaf gen part bs) = bs := by
  have hb : ∀ c ∈ chunksOf 4096 (bs.length / 4096 + 1) bs, 16 ∣ c.length := chunksOf_lengths_dvd 16 4096 (by decide) _ _ h
  have hlt : bs.length < (bs.length / 4096 + 1) * 4096 := by omega
  have hl : ∀ u, ∀ c ∈ chunksOf 4096 (bs.length / 4096 + 1) bs,
      (sealBytes key (xtsTweak leaf gen part u) c).length = c.length := fun u c hc => length_sealBytes _ _ _ (hb c hc)
  have hf : (encryptUnits key leaf gen part bs).length = bs.length := by
    unfold encryptUnits
    rw [length_flatten_mapIdx _ _ hl, chunksOf_flatten 4096 (by omega) _ _ hlt]
  unfold decryptUnits
  rw [hf]
  unfold encryptUnits
  rw [chunksOf_mapIdx 4096 (by omega) _ _ _ hl hlt, mapIdx_inv _ (fun u c => sealBytes key (xtsTweak leaf gen part u) c)
    (fun u c => openBytes key (xtsTweak leaf gen part u) c) (fun u c hc => openBytes_sealBytes _ _ _ (hb c hc)),
    chunksOf_flatten 4096 (by omega) _ _ hlt]

end Sys2Proof.Machine
end

