-- ==== Sys2Proof/Laws/Completion.lean ====
section
/-! SUPPORT. What a completion does: the request is gone, and what it leaves alone. -/

namespace Sys2Proof.Machine

open Sys2Proof

theorem settled_of_calm {s t : State} (h : t.calm = s.calm) : t.settled = s.settled :=
  (congrArg State.settled h : t.calm.settled = s.calm.settled)

@[simp] theorem put_settled (s : State) (f : Fld) (v i j : Nat) : (s.put f v i j).settled = s.settled := rfl

@[simp] theorem bump_settled (s : State) (f : Fld) (n i j : Nat) : (s.bump f n i j).settled = s.settled := rfl

@[simp] theorem free_settled (s : State) : s.free.2.settled = s.settled := rfl

@[simp] theorem send_settled (s : State) (o : Out) : (s.send o).settled = s.settled := rfl

@[simp] theorem enqueue_settled (s : State) (p q : Nat) (f : Frame) : (s.enqueue p q f).settled = s.settled := rfl

@[simp] theorem cqUnreserve_settled (s : State) (c : Nat) : (s.cqUnreserve c).settled = s.settled := rfl

@[simp] theorem setReq_settled (s : State) (k : Nat) (r : Req) : (s.setReq k r).settled = s.settled := rfl

@[simp] theorem busWrite_settled (s : State) (a : Nat) (bs : Bytes) : (s.busWrite a bs).settled = s.settled :=
  (apply_ite State.settled _ _ _).trans (ite_self _)

@[simp] theorem raise_settled (s : State) (g b : Nat) : (s.raise g b).settled = s.settled := settled_of_calm (raise_calm ..)

@[simp] theorem raisePoison_settled (s : State) (p : Nat) : (s.raisePoison p).settled = s.settled :=
  settled_of_calm (raisePoison_calm ..)

@[simp] theorem raiseCq_settled (s : State) (c : Nat) : (s.raiseCq c).settled = s.settled := settled_of_calm (raiseCq_calm ..)

theorem ite_settled {c : Prop} [Decidable c] {a b s : State} (h : a.settled = s.settled) (h' : b.settled = s.settled) :
    (if c then a else b).settled = s.settled := by
  rw [apply_ite State.settled, h, h', ite_self]

@[simp] theorem signalCq_settled (s : State) (c : Nat) : (s.signalCq c).settled = s.settled :=
  ite_settled (raiseCq_settled _ c) rfl

@[simp] theorem moderate_settled (s : State) (c : Nat) (n : Bool) : (s.moderate c n).settled = s.settled :=
  ite_settled rfl (ite_settled (signalCq_settled s c) rfl)

@[simp] theorem hostFrame_settled (s : State) (p n : Nat) : (s.hostFrame p n).settled = s.settled := rfl

@[simp] theorem postCq_settled (s : State) (c : Nat) (n : Bool) (f : Nat → Bytes) : (s.postCq c n f).settled = s.settled := by
  unfold State.postCq
  refine ite_settled rfl ?_
  dsimp only
  rw [moderate_settled, hostFrame_settled]
  refine ite_settled ?_ ?_ <;> simp only [put_settled, cqUnreserve_settled, busWrite_settled] <;>
    exact ite_settled (busWrite_settled ..) rfl

@[simp] theorem postRing_settled (s : State) (q : Nat) (r : Req) (st : Status) (c : Cpl) : (s.postRing q r st c).settled = s.settled := by
  unfold State.postRing
  rw [postCq_settled, put_settled]

@[simp] theorem qpSend_settled (s : State) (qp kind rid len : Nat) (w : Nat → Out) (b : Bool) : (s.qpSend qp kind rid len w b).settled = s.settled := by
  unfold State.qpSend
  by_cases hr : (s.qps.getD qp {}).reads = true
  · simp only [hr, if_true]; exact ite_settled rfl rfl
  · simp only [hr]; exact ite_settled rfl rfl

@[simp] theorem postQwp_settled (s : State) (rid qp : Nat) (r : Req) (st : Status) (c : Cpl) :
    (s.postQwp rid qp r st c).settled = s.settled :=
  ite_settled rfl (qpSend_settled ..)

@[simp] theorem ringSend_settled (s : State) (d k n p : Nat) (b : List Nat) (l : Nat) : (s.ringSend d k n p b l).settled = s.settled := by
  unfold State.ringSend
  dsimp only
  split
  · rfl
  · rw [enqueue_settled]
    split <;> rfl

@[simp] theorem countDone_settled (s : State) (o : Nat) (st : Status) : (s.countDone o st).settled = s.settled :=
  ite_settled (ite_settled rfl rfl) (ite_settled rfl rfl)

/-- A completion leaves everything else alone: sequences, leaves, tables, media, partitions and the rest. -/
@[simp] theorem complete_settled (s : State) (rid : Nat) (st : Status) (c : Cpl) : (s.complete rid st c).settled = s.settled := by
  unfold State.complete
  split
  · rfl
  · rename_i r _
    extract_lets c s1 s2 s3 s4
    have h2 : s2.settled = s.settled := ite_settled rfl rfl
    have h3 : s3.settled = s.settled := (ite_settled (s := s2) (by simp) rfl).trans h2
    have h4 : s4.settled = s.settled := (countDone_settled ..).trans h3
    refine ite_settled h4 ?_
    split <;> simp [h4]

/-! ### The requests after a completion -/

theorem reqs_of_calm {s t : State} (h : t.calm = s.calm) : t.reqs = s.reqs :=
  (congrArg State.reqs h : t.calm.reqs = s.calm.reqs)

theorem ite_reqs {c : Prop} [Decidable c] {a b : State} {x : Table Req} (h : a.reqs = x) (h' : b.reqs = x) :
    (if c then a else b).reqs = x := by
  rw [apply_ite State.reqs, h, h', ite_self]

@[simp] theorem signalCq_reqs (s : State) (c : Nat) : (s.signalCq c).reqs = s.reqs :=
  ite_reqs ((reqs_of_calm (raiseCq_calm _ c)).trans rfl) rfl

@[simp] theorem moderate_reqs (s : State) (c : Nat) (n : Bool) : (s.moderate c n).reqs = s.reqs :=
  ite_reqs rfl (ite_reqs (signalCq_reqs s c) rfl)

@[simp] theorem postCq_reqs (s : State) (c : Nat) (n : Bool) (f : Nat → Bytes) : (s.postCq c n f).reqs = s.reqs := by
  unfold State.postCq
  refine ite_reqs rfl ?_
  dsimp only
  rw [moderate_reqs]
  refine ite_reqs ?_ ?_ <;> simp only [put_reqs, cqUnreserve_reqs, busWrite_reqs] <;> exact ite_reqs (busWrite_reqs ..) rfl

@[simp] theorem qpSend_reqs (s : State) (qp kind rid len : Nat) (w : Nat → Out) (b : Bool) : (s.qpSend qp kind rid len w b).reqs = s.reqs := by
  unfold State.qpSend
  by_cases hr : (s.qps.getD qp {}).reads = true
  · simp only [hr, if_true]; exact ite_reqs rfl rfl
  · simp only [hr]; exact ite_reqs rfl rfl

@[simp] theorem postQwp_reqs (s : State) (rid qp : Nat) (r : Req) (st : Status) (c : Cpl) : (s.postQwp rid qp r st c).reqs = s.reqs :=
  ite_reqs rfl (qpSend_reqs ..)

@[simp] theorem ringSend_reqs (s : State) (d k n p : Nat) (b : List Nat) (l : Nat) : (s.ringSend d k n p b l).reqs = s.reqs := by
  unfold State.ringSend
  dsimp only
  split
  · rfl
  · rw [enqueue_reqs]
    split <;> rfl

/-- A completed request is gone, and the others stay. -/
theorem complete_reqs (s : State) (rid : Nat) (st : Status) (c : Cpl) : (s.complete rid st c).reqs = s.reqs.erase rid := by
  unfold State.complete
  split
  · rename_i h
    exact (Table.erase_absent h).symm
  · rename_i r _
    extract_lets c s1 s2 s3 s4
    have h2 : s2.reqs = s.reqs.erase rid := ite_reqs rfl rfl
    have h3 : s3.reqs = s.reqs.erase rid := ite_reqs ((reqs_of_calm (raisePoison_calm ..)).trans h2) h2
    have h4 : s4.reqs = s.reqs.erase rid := ite_reqs (ite_reqs h3 h3) (ite_reqs h3 h3)
    refine ite_reqs h4 ?_
    split
    · unfold State.postRing; rw [postCq_reqs, put_reqs, h4]
    · rw [postQwp_reqs, h4]
    · rw [ringSend_reqs, h4]

end Sys2Proof.Machine
end

