-- ==== Sys2Proof/Laws/Cupola.lean ====
section
/-! SUPPORT. The grants of an epoch (R453): what is kept and what is new fits the power and the current, and goes to blocks that ask; and
the dispatcher leaves the arbiter alone. -/

namespace Sys2Proof.Machine

open Sys2Proof

theorem keepHeld_fits (l : List Grant) (a c : Int) : ((grantsMw (keepHeld a c l) : Int) ≤ a ∨ keepHeld a c l = [])
    ∧ ((grantsMa (keepHeld a c l) : Int) ≤ c ∨ keepHeld a c l = []) ∧ ∀ g ∈ keepHeld a c l, g ∈ l := by
  induction l generalizing a c with
  | nil => exact ⟨.inr rfl, .inr rfl, fun g h => h⟩
  | cons g gs ih =>
    by_cases h : (decide ((g.mw : Int) ≤ a) && decide ((g.ma : Int) ≤ c)) = true
    · have e : keepHeld a c (g :: gs) = g :: keepHeld (a - g.mw) (c - g.ma) gs := by
        rw [keepHeld]; exact if_pos h
      obtain ⟨i1, i2, i3⟩ := ih (a - g.mw) (c - g.ma)
      simp only [Bool.and_eq_true, decide_eq_true_eq] at h
      rw [e]
      refine ⟨.inl ?_, .inl ?_, ?_⟩
      · have : grantsMw (g :: keepHeld (a - g.mw) (c - g.ma) gs) = g.mw + grantsMw (keepHeld (a - g.mw) (c - g.ma) gs) := by simp [grantsMw]
        rcases i1 with i | i
        · omega
        · rw [i] at this ⊢; rw [this]; simp [grantsMw]; omega
      · have : grantsMa (g :: keepHeld (a - g.mw) (c - g.ma) gs) = g.ma + grantsMa (keepHeld (a - g.mw) (c - g.ma) gs) := by simp [grantsMa]
        rcases i2 with i | i
        · omega
        · rw [i] at this ⊢; rw [this]; simp [grantsMa]; omega
      · intro x hx
        rcases List.mem_cons.mp hx with rfl | hx
        · exact List.mem_cons_self ..
        · exact List.mem_cons_of_mem _ (i3 x hx)
    · have e : keepHeld a c (g :: gs) = [] := by rw [keepHeld]; exact if_neg h
      rw [e]
      exact ⟨.inr rfl, .inr rfl, fun g h => absurd h List.not_mem_nil⟩
theorem grantNew_fits (l : List Grant) (a c : Int) : ((grantsMw (grantNew a c l).1 : Int) ≤ a ∨ (grantNew a c l).1 = [])
    ∧ ((grantsMa (grantNew a c l).1 : Int) ≤ c ∨ (grantNew a c l).1 = []) ∧ ∀ g ∈ (grantNew a c l).1, g ∈ l := by
  induction l generalizing a c with
  | nil => exact ⟨.inr rfl, .inr rfl, fun g h => h⟩
  | cons g gs ih =>
    by_cases h : (decide ((g.mw : Int) ≤ a) && decide ((g.ma : Int) ≤ c)) = true
    · have e : (grantNew a c (g :: gs)).1 = g :: (grantNew (a - g.mw) (c - g.ma) gs).1 := by
        rw [grantNew, if_pos h]
      obtain ⟨i1, i2, i3⟩ := ih (a - g.mw) (c - g.ma)
      simp only [Bool.and_eq_true, decide_eq_true_eq] at h
      rw [e]
      generalize (grantNew (a - g.mw) (c - g.ma) gs).1 = r at *
      refine ⟨.inl ?_, .inl ?_, ?_⟩
      · have : grantsMw (g :: r) = g.mw + grantsMw r := by simp [grantsMw]
        rcases i1 with i | i
        · omega
        · rw [i] at this ⊢; rw [this]; simp [grantsMw]; omega
      · have : grantsMa (g :: r) = g.ma + grantsMa r := by simp [grantsMa]
        rcases i2 with i | i
        · omega
        · rw [i] at this ⊢; rw [this]; simp [grantsMa]; omega
      · intro x hx
        rcases List.mem_cons.mp hx with rfl | hx
        · exact List.mem_cons_self ..
        · exact List.mem_cons_of_mem _ (i3 x hx)
    · have e : (grantNew a c (g :: gs)).1 = (grantNew a c gs).1 := by rw [grantNew, if_neg h]
      rw [e]
      obtain ⟨i1, i2, i3⟩ := ih a c
      exact ⟨i1, i2, fun x hx => List.mem_cons_of_mem _ (i3 x hx)⟩

theorem mem_afterLast {o : Option Nat} {l : List Nat} {u : Nat} (h : u ∈ afterLast o l) : u ∈ l := by
  unfold afterLast at h
  split at h
  · rcases List.mem_append.mp h with h | h <;> exact (List.mem_filter.mp h).1
  · exact h

theorem grantsMw_append (a b : List Grant) : grantsMw (a ++ b) = grantsMw a + grantsMw b := by simp [grantsMw]
theorem grantsMa_append (a b : List Grant) : grantsMa (a ++ b) = grantsMa a + grantsMa b := by simp [grantsMa]

/-- The grants of an epoch fit what it has, and each goes to a block that asks. -/
theorem epochGrants_fits (s : State) (refr : Nat) (reqs : List (Nat × Nat × Nat)) :
    (grantsMw ((s.epochGrants refr reqs).1 ++ (s.epochGrants refr reqs).2.1) ≤ max 0 (s.epochMw refr))
    ∧ (grantsMa ((s.epochGrants refr reqs).1 ++ (s.epochGrants refr reqs).2.1) ≤ max 0 s.epochMa)
    ∧ ∀ g ∈ (s.epochGrants refr reqs).1 ++ (s.epochGrants refr reqs).2.1, ∃ p, (g.cls, g.unit, p) ∈ reqs := by
  unfold State.epochGrants
  dsimp only
  obtain ⟨k1, k2, k3⟩ := keepHeld_fits (s.heldGrants reqs) (s.epochMw refr) s.epochMa
  generalize keepHeld (s.epochMw refr) s.epochMa (s.heldGrants reqs) = kept at *
  obtain ⟨n1, n2, n3⟩ := grantNew_fits (s.freshGrants reqs kept) (s.epochMw refr - (grantsMw kept : Nat)) (s.epochMa - (grantsMa kept : Nat))
  generalize (grantNew (s.epochMw refr - (grantsMw kept : Nat)) (s.epochMa - (grantsMa kept : Nat)) (s.freshGrants reqs kept)).1 = new at *
  rw [grantsMw_append, grantsMa_append]
  have e1 : grantsMw ([] : List Grant) = 0 := rfl
  have e2 : grantsMa ([] : List Grant) = 0 := rfl
  refine ⟨?_, ?_, ?_⟩
  · rcases k1 with k | k <;> rcases n1 with n | n
    · omega
    · rw [n, e1]; omega
    · rw [k, e1] at n ⊢; omega
    · rw [k, n, e1]; omega
  · rcases k2 with k | k <;> rcases n2 with n | n
    · omega
    · rw [n, e2]; omega
    · rw [k, e2] at n ⊢; omega
    · rw [k, n, e2]; omega
  · intro g hg
    rcases List.mem_append.mp hg with h | h
    · have h := k3 g h
      unfold State.heldGrants at h
      obtain ⟨x, hx, rfl⟩ := List.mem_map.mp h
      obtain ⟨y, hy, hy2⟩ := List.any_eq_true.mp (List.mem_filter.mp hx).2
      simp only [Bool.and_eq_true, beq_iff_eq] at hy2
      refine ⟨y.2.2, ?_⟩
      show (x.cls, x.unit, y.2.2) ∈ reqs
      rw [← hy2.1, ← hy2.2]
      exact hy
    · have h := n3 g h
      unfold State.freshGrants at h
      obtain ⟨c, hc, h⟩ := List.mem_flatMap.mp h
      obtain ⟨u, hu, rfl⟩ := List.mem_map.mp h
      obtain ⟨y, hy, rfl⟩ := List.mem_map.mp (mem_afterLast ((List.mem_filter.mp hu).1))
      obtain ⟨hy1, hy2⟩ := List.mem_filter.mp hy
      refine ⟨y.2.2, ?_⟩
      show (c, y.2.1, y.2.2) ∈ reqs
      rw [← beq_iff_eq.mp hy2]
      exact hy1

theorem foldl_cup {α : Type} (f : State → α → State) (h : ∀ s a, (f s a).cupola = s.cupola) (l : List α) (s : State) :
    (l.foldl f s).cupola = s.cupola := by
  induction l generalizing s with
  | nil => rfl
  | cons a l ih => rw [List.foldl_cons, ih, h]
theorem cacheTable_cup (s : State) (g : Nat) (v : View) : (s.cacheTable g v).cupola = s.cupola :=
  (apply_ite State.cupola _ _ _).trans (ite_self _)
theorem startUnit_cup (s : State) (n : Nat) (u : WUnit) : (s.startUnit n u).cupola = s.cupola := by
  unfold State.startUnit
  generalize hx : s.setSpire n _ = X
  have hX : X.cupola = s.cupola := by rw [← hx]; rfl
  dsimp only
  split
  · rw [foldl_cup _ (fun s v => cacheTable_cup s _ v)]; exact hX
  · exact hX
theorem servePart_cup (s : State) (g : Nat) (l : List Nat) : (s.servePart g l).2.cupola = s.cupola := by
  unfold State.servePart
  dsimp only
  generalize (if s.heavyParts = [] then l
    else List.filter (fun p => s.get F.PART_SPIRE_WEIGHT_WEIGHT p != 0) l) = cand
  by_cases h : (cand.contains (s.drr.getD g 0 / 65536) && s.drr.getD g 0 % 65536 != 0) = true
  · rw [if_pos h]
  · rw [if_neg h]
    cases List.find? cand.contains ((List.range 128).map (fun i => (s.drr.getD g 0 / 65536 + 1 + i) % 128)) <;> rfl
theorem takeFrom_cup (s : State) (n g : Nat) : (s.takeFrom n g).2.cupola = s.cupola := by
  unfold State.takeFrom
  dsimp only
  have h := servePart_cup s g (((((s.grove g).queue).filter (s.unitAllowed n)).map (·.part)).eraseDups)
  split
  · rename_i h2; rw [h2] at h; exact h
  · rename_i h2; rw [h2] at h
    split
    · exact h
    · exact h
theorem steal_cup (s : State) (n g : Nat) : (s.steal n g).2.cupola = s.cupola := by
  unfold State.steal
  split
  · rfl
  · split
    · rename_i u s' h
      obtain ⟨m, _, h2⟩ := List.exists_of_findSome?_eq_some h
      have ht := takeFrom_cup s n m
      split at h2
      · rename_i h3
        rw [h3] at ht
        cases h2
        exact ht
      · cases h2
    · rfl
theorem give_cup (s : State) (n : Nat) (u : WUnit) :
    (if (s.spire n).running.isNone then s.startUnit n u else s.setSpire n { s.spire n with assigned := some u }).cupola = s.cupola := by
  split
  · exact startUnit_cup ..
  · rfl
theorem feed_cup (s : State) (n : Nat) (b : Bool) : ∀ t ∈ s.feed n b, t.cupola = s.cupola := by
  intro t h
  unfold State.feed at h
  have hc : (if b then s.steal n (n / 6) else s.takeFrom n (n / 6)).2.cupola = s.cupola := by
    cases b
    · exact takeFrom_cup s n (n / 6)
    · exact steal_cup s n (n / 6)
  split at h
  · rename_i h2
    rw [h2] at hc
    cases h
    exact (give_cup _ n _).trans hc
  · cases h
theorem dispatchGo_cup (k : Nat) (s : State) : (State.dispatchGo k s).cupola = s.cupola := by
  induction k generalizing s with
  | zero => rfl
  | succ k ih =>
    unfold State.dispatchGo
    split
    · rename_i h
      rw [ih]
      obtain ⟨n, _, h2⟩ := List.exists_of_findSome?_eq_some h
      exact feed_cup s n.1 n.2 _ h2
    · rfl
theorem dispatch_cup (s : State) : s.dispatch.cupola = s.cupola := by
  unfold State.dispatch
  split
  · rw [dispatchGo_cup]
    unfold State.releaseWaiting
    split
    · exact foldl_cup _ (by intros; rfl) _ _
    · rfl
  · rfl
theorem starved_cup (s : State) (n : Nat) : (s.spireStarved n).cupola = s.cupola := by
  unfold State.spireStarved State.returnUnit
  dsimp only
  split <;> split <;> rfl
theorem putAll_cup (en : Table Nat) (l : List Nat) (s : State) :
    (l.foldl (fun (s : State) p => s.put F.PART_POWER_WATTS (min 4095 (en.getD p 0 / 100000000)) p) s).cupola = s.cupola :=
  foldl_cup (fun (s : State) p => s.put F.PART_POWER_WATTS (min 4095 (en.getD p 0 / 100000000)) p) (fun _ _ => rfl) l s
def cupKey (c : Cupola) := (c.budget, c.grants, c.coreMa)
theorem means_cup (s : State) (l : List (Nat × Nat)) : cupKey (s.powerMeans l).cupola = cupKey s.cupola := by
  unfold State.powerMeans
  dsimp only
  generalize l.foldl _ _ = en
  split
  · rfl
  · have h := congrArg cupKey (putAll_cup en (List.range 128) s)
    generalize (List.range 128).foldl (fun (s : State) p => s.put F.PART_POWER_WATTS (min 4095 (en.getD p 0 / 100000000)) p) s = X at h ⊢
    exact h

/-- What an epoch leaves in the arbiter: the budget as it was, the grants and their current. -/
theorem starveNote_cup (s : State) (refr : Nat) (reqs : List (Nat × Nat × Nat)) (kept new : List Grant) (w : Bool) :
    ((s.noteGrants refr reqs kept new w).starveSpires reqs).cupola.budget = s.cupola.budget
    ∧ ((s.noteGrants refr reqs kept new w).starveSpires reqs).cupola.grants = kept ++ new
    ∧ ((s.noteGrants refr reqs kept new w).starveSpires reqs).cupola.coreMa = grantsMa (kept ++ new) := by
  have h1 : ((s.noteGrants refr reqs kept new w).starveSpires reqs).cupola = (s.noteGrants refr reqs kept new w).cupola := by
    unfold State.starveSpires
    dsimp only
    split
    · rfl
    · rw [dispatch_cup, foldl_cup State.spireStarved starved_cup]
  have h2 : cupKey (s.noteGrants refr reqs kept new w).cupola = (s.cupola.budget, kept ++ new, grantsMa (kept ++ new)) := by
    unfold State.noteGrants
    dsimp only
    rw [means_cup]
    cases w <;> rfl
  rw [h1]
  simp only [cupKey, Prod.mk.injEq] at h2
  exact h2

end Sys2Proof.Machine
end

