-- ==== Sys2Proof/Laws/Elementary.lean ====
section
/-! SUPPORT. What the elementary functions return: a code within their limits. -/

namespace Sys2Proof.Machine

/-- expf returns a code of its range. -/
theorem expf_range (x : Word) (h : (expRange x).1 ≤ (expRange x).2) (hb : (expRange x).2 < 2 ^ 32) :
    (expRange x).1 ≤ (expf x).toNat ∧ (expf x).toNat ≤ (expRange x).2 := by
  have hm : Config.expPick x % ((expRange x).2 + 1 - (expRange x).1) < (expRange x).2 + 1 - (expRange x).1 :=
    Nat.mod_lt _ (by omega)
  have : (expf x).toNat = (expRange x).1 + Config.expPick x % ((expRange x).2 + 1 - (expRange x).1) := by
    simp only [expf, BitVec.toNat_ofNat]
    exact Nat.mod_eq_of_lt (by omega)
  omega

end Sys2Proof.Machine
end

