-- ==== Sys2Proof/Laws/Fields.lean ====
section
/-! SUPPORT. The fields that raising a cause, recording an event and completing a request leave as they are: one lemma per field. -/

namespace Sys2Proof.Machine

variable {s t : State}

theorem time_of_calm (h : t.calm = s.calm) : t.time = s.time := (congrArg State.time h : _)
theorem hb6_of_calm (h : t.calm = s.calm) : t.hb6 = s.hb6 := (congrArg State.hb6 h : _)
theorem latches_of_calm (h : t.calm = s.calm) : t.latches = s.latches := (congrArg State.latches h : _)
theorem mgmtSel_of_calm (h : t.calm = s.calm) : t.mgmtSel = s.mgmtSel := (congrArg State.mgmtSel h : _)
theorem mem_of_calm (h : t.calm = s.calm) : t.mem = s.mem := (congrArg State.mem h : _)
theorem memPoison_of_calm (h : t.calm = s.calm) : t.memPoison = s.memPoison := (congrArg State.memPoison h : _)
theorem memFail_of_calm (h : t.calm = s.calm) : t.memFail = s.memFail := (congrArg State.memFail h : _)
theorem freeCtr_of_calm (h : t.calm = s.calm) : t.freeCtr = s.freeCtr := (congrArg State.freeCtr h : _)
theorem reqSeq_of_calm (h : t.calm = s.calm) : t.reqSeq = s.reqSeq := (congrArg State.reqSeq h : _)
theorem failed_of_calm (h : t.calm = s.calm) : t.failed = s.failed := (congrArg State.failed h : _)
theorem cqs_of_calm (h : t.calm = s.calm) : t.cqs = s.cqs := (congrArg State.cqs h : _)
theorem sqs_of_calm (h : t.calm = s.calm) : t.sqs = s.sqs := (congrArg State.sqs h : _)
theorem vfEnable_of_calm (h : t.calm = s.calm) : t.vfEnable = s.vfEnable := (congrArg State.vfEnable h : _)
theorem numVfs_of_calm (h : t.calm = s.calm) : t.numVfs = s.numVfs := (congrArg State.numVfs h : _)
theorem mbxNs_of_calm (h : t.calm = s.calm) : t.mbxNs = s.mbxNs := (congrArg State.mbxNs h : _)
theorem mbxSec_of_calm (h : t.calm = s.calm) : t.mbxSec = s.mbxSec := (congrArg State.mbxSec h : _)
theorem parts_of_calm (h : t.calm = s.calm) : t.parts = s.parts := (congrArg State.parts h : _)
theorem chms_of_calm (h : t.calm = s.calm) : t.chms = s.chms := (congrArg State.chms h : _)
theorem leaves_of_calm (h : t.calm = s.calm) : t.leaves = s.leaves := (congrArg State.leaves h : _)
theorem nextCid_of_calm (h : t.calm = s.calm) : t.nextCid = s.nextCid := (congrArg State.nextCid h : _)
theorem holds_of_calm (h : t.calm = s.calm) : t.holds = s.holds := (congrArg State.holds h : _)
theorem seqs_of_calm (h : t.calm = s.calm) : t.seqs = s.seqs := (congrArg State.seqs h : _)
theorem shapes_of_calm (h : t.calm = s.calm) : t.shapes = s.shapes := (congrArg State.shapes h : _)
theorem txqs_of_calm (h : t.calm = s.calm) : t.txqs = s.txqs := (congrArg State.txqs h : _)
theorem txports_of_calm (h : t.calm = s.calm) : t.txports = s.txports := (congrArg State.txports h : _)
theorem partQs_of_calm (h : t.calm = s.calm) : t.partQs = s.partQs := (congrArg State.partQs h : _)
theorem meters_of_calm (h : t.calm = s.calm) : t.meters = s.meters := (congrArg State.meters h : _)
theorem qps_of_calm (h : t.calm = s.calm) : t.qps = s.qps := (congrArg State.qps h : _)
theorem mrs_of_calm (h : t.calm = s.calm) : t.mrs = s.mrs := (congrArg State.mrs h : _)
theorem subPorts_of_calm (h : t.calm = s.calm) : t.subPorts = s.subPorts := (congrArg State.subPorts h : _)
theorem qwpAdmitted_of_calm (h : t.calm = s.calm) : t.qwpAdmitted = s.qwpAdmitted := (congrArg State.qwpAdmitted h : _)
theorem spires_of_calm (h : t.calm = s.calm) : t.spires = s.spires := (congrArg State.spires h : _)
theorem groves_of_calm (h : t.calm = s.calm) : t.groves = s.groves := (congrArg State.groves h : _)
theorem drr_of_calm (h : t.calm = s.calm) : t.drr = s.drr := (congrArg State.drr h : _)
theorem exts_of_calm (h : t.calm = s.calm) : t.exts = s.exts := (congrArg State.exts h : _)
theorem roots_of_calm (h : t.calm = s.calm) : t.roots = s.roots := (congrArg State.roots h : _)
theorem banks_of_calm (h : t.calm = s.calm) : t.banks = s.banks := (congrArg State.banks h : _)
theorem promoAt_of_calm (h : t.calm = s.calm) : t.promoAt = s.promoAt := (congrArg State.promoAt h : _)
theorem ctxs_of_calm (h : t.calm = s.calm) : t.ctxs = s.ctxs := (congrArg State.ctxs h : _)
theorem rules_of_calm (h : t.calm = s.calm) : t.rules = s.rules := (congrArg State.rules h : _)
theorem scopes_of_calm (h : t.calm = s.calm) : t.scopes = s.scopes := (congrArg State.scopes h : _)
theorem accesses_of_calm (h : t.calm = s.calm) : t.accesses = s.accesses := (congrArg State.accesses h : _)
theorem classHints_of_calm (h : t.calm = s.calm) : t.classHints = s.classHints := (congrArg State.classHints h : _)
theorem promos_of_calm (h : t.calm = s.calm) : t.promos = s.promos := (congrArg State.promos h : _)
theorem retiredSlots_of_calm (h : t.calm = s.calm) : t.retiredSlots = s.retiredSlots := (congrArg State.retiredSlots h : _)
theorem flash_of_calm (h : t.calm = s.calm) : t.flash = s.flash := (congrArg State.flash h : _)
theorem pds_of_calm (h : t.calm = s.calm) : t.pds = s.pds := (congrArg State.pds h : _)
theorem badRecs_of_calm (h : t.calm = s.calm) : t.badRecs = s.badRecs := (congrArg State.badRecs h : _)
theorem fleet_of_calm (h : t.calm = s.calm) : t.fleet = s.fleet := (congrArg State.fleet h : _)
theorem pool_of_calm (h : t.calm = s.calm) : t.pool = s.pool := (congrArg State.pool h : _)
theorem ring_of_calm (h : t.calm = s.calm) : t.ring = s.ring := (congrArg State.ring h : _)
theorem beats_of_calm (h : t.calm = s.calm) : t.beats = s.beats := (congrArg State.beats h : _)
theorem scheds_of_calm (h : t.calm = s.calm) : t.scheds = s.scheds := (congrArg State.scheds h : _)
theorem insts_of_calm (h : t.calm = s.calm) : t.insts = s.insts := (congrArg State.insts h : _)
theorem instSeq_of_calm (h : t.calm = s.calm) : t.instSeq = s.instSeq := (congrArg State.instSeq h : _)
theorem jobs_of_calm (h : t.calm = s.calm) : t.jobs = s.jobs := (congrArg State.jobs h : _)
theorem jobSeq_of_calm (h : t.calm = s.calm) : t.jobSeq = s.jobSeq := (congrArg State.jobSeq h : _)
theorem arrays_of_calm (h : t.calm = s.calm) : t.arrays = s.arrays := (congrArg State.arrays h : _)
theorem tabCache_of_calm (h : t.calm = s.calm) : t.tabCache = s.tabCache := (congrArg State.tabCache h : _)
theorem ras_of_calm (h : t.calm = s.calm) : t.ras = s.ras := (congrArg State.ras h : _)
theorem sec_of_calm (h : t.calm = s.calm) : t.sec = s.sec := (congrArg State.sec h : _)
theorem cupola_of_calm (h : t.calm = s.calm) : t.cupola = s.cupola := (congrArg State.cupola h : _)
theorem boot_of_calm (h : t.calm = s.calm) : t.boot = s.boot := (congrArg State.boot h : _)
theorem pending_of_calm (h : t.calm = s.calm) : t.pending = s.pending := (congrArg State.pending h : _)

theorem time_of_settled (h : t.settled = s.settled) : t.time = s.time := (congrArg State.time h : _)
theorem hb6_of_settled (h : t.settled = s.settled) : t.hb6 = s.hb6 := (congrArg State.hb6 h : _)
theorem latches_of_settled (h : t.settled = s.settled) : t.latches = s.latches := (congrArg State.latches h : _)
theorem mgmtSel_of_settled (h : t.settled = s.settled) : t.mgmtSel = s.mgmtSel := (congrArg State.mgmtSel h : _)
theorem memFail_of_settled (h : t.settled = s.settled) : t.memFail = s.memFail := (congrArg State.memFail h : _)
theorem reqSeq_of_settled (h : t.settled = s.settled) : t.reqSeq = s.reqSeq := (congrArg State.reqSeq h : _)
theorem vfEnable_of_settled (h : t.settled = s.settled) : t.vfEnable = s.vfEnable := (congrArg State.vfEnable h : _)
theorem numVfs_of_settled (h : t.settled = s.settled) : t.numVfs = s.numVfs := (congrArg State.numVfs h : _)
theorem mbxNs_of_settled (h : t.settled = s.settled) : t.mbxNs = s.mbxNs := (congrArg State.mbxNs h : _)
theorem mbxSec_of_settled (h : t.settled = s.settled) : t.mbxSec = s.mbxSec := (congrArg State.mbxSec h : _)
theorem parts_of_settled (h : t.settled = s.settled) : t.parts = s.parts := (congrArg State.parts h : _)
theorem chms_of_settled (h : t.settled = s.settled) : t.chms = s.chms := (congrArg State.chms h : _)
theorem leaves_of_settled (h : t.settled = s.settled) : t.leaves = s.leaves := (congrArg State.leaves h : _)
theorem nextCid_of_settled (h : t.settled = s.settled) : t.nextCid = s.nextCid := (congrArg State.nextCid h : _)
theorem holds_of_settled (h : t.settled = s.settled) : t.holds = s.holds := (congrArg State.holds h : _)
theorem seqs_of_settled (h : t.settled = s.settled) : t.seqs = s.seqs := (congrArg State.seqs h : _)
theorem shapes_of_settled (h : t.settled = s.settled) : t.shapes = s.shapes := (congrArg State.shapes h : _)
theorem txports_of_settled (h : t.settled = s.settled) : t.txports = s.txports := (congrArg State.txports h : _)
theorem meters_of_settled (h : t.settled = s.settled) : t.meters = s.meters := (congrArg State.meters h : _)
theorem mrs_of_settled (h : t.settled = s.settled) : t.mrs = s.mrs := (congrArg State.mrs h : _)
theorem subPorts_of_settled (h : t.settled = s.settled) : t.subPorts = s.subPorts := (congrArg State.subPorts h : _)
theorem spires_of_settled (h : t.settled = s.settled) : t.spires = s.spires := (congrArg State.spires h : _)
theorem groves_of_settled (h : t.settled = s.settled) : t.groves = s.groves := (congrArg State.groves h : _)
theorem drr_of_settled (h : t.settled = s.settled) : t.drr = s.drr := (congrArg State.drr h : _)
theorem exts_of_settled (h : t.settled = s.settled) : t.exts = s.exts := (congrArg State.exts h : _)
theorem roots_of_settled (h : t.settled = s.settled) : t.roots = s.roots := (congrArg State.roots h : _)
theorem banks_of_settled (h : t.settled = s.settled) : t.banks = s.banks := (congrArg State.banks h : _)
theorem promoAt_of_settled (h : t.settled = s.settled) : t.promoAt = s.promoAt := (congrArg State.promoAt h : _)
theorem ctxs_of_settled (h : t.settled = s.settled) : t.ctxs = s.ctxs := (congrArg State.ctxs h : _)
theorem rules_of_settled (h : t.settled = s.settled) : t.rules = s.rules := (congrArg State.rules h : _)
theorem scopes_of_settled (h : t.settled = s.settled) : t.scopes = s.scopes := (congrArg State.scopes h : _)
theorem accesses_of_settled (h : t.settled = s.settled) : t.accesses = s.accesses := (congrArg State.accesses h : _)
theorem classHints_of_settled (h : t.settled = s.settled) : t.classHints = s.classHints := (congrArg State.classHints h : _)
theorem promos_of_settled (h : t.settled = s.settled) : t.promos = s.promos := (congrArg State.promos h : _)
theorem retiredSlots_of_settled (h : t.settled = s.settled) : t.retiredSlots = s.retiredSlots := (congrArg State.retiredSlots h : _)
theorem flash_of_settled (h : t.settled = s.settled) : t.flash = s.flash := (congrArg State.flash h : _)
theorem pds_of_settled (h : t.settled = s.settled) : t.pds = s.pds := (congrArg State.pds h : _)
theorem badRecs_of_settled (h : t.settled = s.settled) : t.badRecs = s.badRecs := (congrArg State.badRecs h : _)
theorem fleet_of_settled (h : t.settled = s.settled) : t.fleet = s.fleet := (congrArg State.fleet h : _)
theorem pool_of_settled (h : t.settled = s.settled) : t.pool = s.pool := (congrArg State.pool h : _)
theorem beats_of_settled (h : t.settled = s.settled) : t.beats = s.beats := (congrArg State.beats h : _)
theorem scheds_of_settled (h : t.settled = s.settled) : t.scheds = s.scheds := (congrArg State.scheds h : _)
theorem insts_of_settled (h : t.settled = s.settled) : t.insts = s.insts := (congrArg State.insts h : _)
theorem instSeq_of_settled (h : t.settled = s.settled) : t.instSeq = s.instSeq := (congrArg State.instSeq h : _)
theorem jobs_of_settled (h : t.settled = s.settled) : t.jobs = s.jobs := (congrArg State.jobs h : _)
theorem jobSeq_of_settled (h : t.settled = s.settled) : t.jobSeq = s.jobSeq := (congrArg State.jobSeq h : _)
theorem arrays_of_settled (h : t.settled = s.settled) : t.arrays = s.arrays := (congrArg State.arrays h : _)
theorem tabCache_of_settled (h : t.settled = s.settled) : t.tabCache = s.tabCache := (congrArg State.tabCache h : _)
theorem ras_of_settled (h : t.settled = s.settled) : t.ras = s.ras := (congrArg State.ras h : _)
theorem sec_of_settled (h : t.settled = s.settled) : t.sec = s.sec := (congrArg State.sec h : _)
theorem cupola_of_settled (h : t.settled = s.settled) : t.cupola = s.cupola := (congrArg State.cupola h : _)
theorem boot_of_settled (h : t.settled = s.settled) : t.boot = s.boot := (congrArg State.boot h : _)
theorem pending_of_settled (h : t.settled = s.settled) : t.pending = s.pending := (congrArg State.pending h : _)

variable (s : State)

@[simp] theorem raise_time (g b : Nat) : (s.raise g b).time = s.time := time_of_calm (raise_calm ..)
@[simp] theorem raise_hb6 (g b : Nat) : (s.raise g b).hb6 = s.hb6 := hb6_of_calm (raise_calm ..)
@[simp] theorem raise_latches (g b : Nat) : (s.raise g b).latches = s.latches := latches_of_calm (raise_calm ..)
@[simp] theorem raise_mgmtSel (g b : Nat) : (s.raise g b).mgmtSel = s.mgmtSel := mgmtSel_of_calm (raise_calm ..)
@[simp] theorem raise_mem (g b : Nat) : (s.raise g b).mem = s.mem := mem_of_calm (raise_calm ..)
@[simp] theorem raise_memPoison (g b : Nat) : (s.raise g b).memPoison = s.memPoison := memPoison_of_calm (raise_calm ..)
@[simp] theorem raise_memFail (g b : Nat) : (s.raise g b).memFail = s.memFail := memFail_of_calm (raise_calm ..)
@[simp] theorem raise_freeCtr (g b : Nat) : (s.raise g b).freeCtr = s.freeCtr := freeCtr_of_calm (raise_calm ..)
@[simp] theorem raise_reqs (g b : Nat) : (s.raise g b).reqs = s.reqs := reqs_of_calm (raise_calm ..)
@[simp] theorem raise_reqSeq (g b : Nat) : (s.raise g b).reqSeq = s.reqSeq := reqSeq_of_calm (raise_calm ..)
@[simp] theorem raise_failed (g b : Nat) : (s.raise g b).failed = s.failed := failed_of_calm (raise_calm ..)
@[simp] theorem raise_cqs (g b : Nat) : (s.raise g b).cqs = s.cqs := cqs_of_calm (raise_calm ..)
@[simp] theorem raise_sqs (g b : Nat) : (s.raise g b).sqs = s.sqs := sqs_of_calm (raise_calm ..)
@[simp] theorem raise_vfEnable (g b : Nat) : (s.raise g b).vfEnable = s.vfEnable := vfEnable_of_calm (raise_calm ..)
@[simp] theorem raise_numVfs (g b : Nat) : (s.raise g b).numVfs = s.numVfs := numVfs_of_calm (raise_calm ..)
@[simp] theorem raise_mbxNs (g b : Nat) : (s.raise g b).mbxNs = s.mbxNs := mbxNs_of_calm (raise_calm ..)
@[simp] theorem raise_mbxSec (g b : Nat) : (s.raise g b).mbxSec = s.mbxSec := mbxSec_of_calm (raise_calm ..)
@[simp] theorem raise_parts (g b : Nat) : (s.raise g b).parts = s.parts := parts_of_calm (raise_calm ..)
@[simp] theorem raise_chms (g b : Nat) : (s.raise g b).chms = s.chms := chms_of_calm (raise_calm ..)
@[simp] theorem raise_leaves (g b : Nat) : (s.raise g b).leaves = s.leaves := leaves_of_calm (raise_calm ..)
@[simp] theorem raise_nextCid (g b : Nat) : (s.raise g b).nextCid = s.nextCid := nextCid_of_calm (raise_calm ..)
@[simp] theorem raise_holds (g b : Nat) : (s.raise g b).holds = s.holds := holds_of_calm (raise_calm ..)
@[simp] theorem raise_seqs (g b : Nat) : (s.raise g b).seqs = s.seqs := seqs_of_calm (raise_calm ..)
@[simp] theorem raise_shapes (g b : Nat) : (s.raise g b).shapes = s.shapes := shapes_of_calm (raise_calm ..)
@[simp] theorem raise_txqs (g b : Nat) : (s.raise g b).txqs = s.txqs := txqs_of_calm (raise_calm ..)
@[simp] theorem raise_txports (g b : Nat) : (s.raise g b).txports = s.txports := txports_of_calm (raise_calm ..)
@[simp] theorem raise_partQs (g b : Nat) : (s.raise g b).partQs = s.partQs := partQs_of_calm (raise_calm ..)
@[simp] theorem raise_meters (g b : Nat) : (s.raise g b).meters = s.meters := meters_of_calm (raise_calm ..)
@[simp] theorem raise_qps (g b : Nat) : (s.raise g b).qps = s.qps := qps_of_calm (raise_calm ..)
@[simp] theorem raise_mrs (g b : Nat) : (s.raise g b).mrs = s.mrs := mrs_of_calm (raise_calm ..)
@[simp] theorem raise_subPorts (g b : Nat) : (s.raise g b).subPorts = s.subPorts := subPorts_of_calm (raise_calm ..)
@[simp] theorem raise_qwpAdmitted (g b : Nat) : (s.raise g b).qwpAdmitted = s.qwpAdmitted := qwpAdmitted_of_calm (raise_calm ..)
@[simp] theorem raise_spires (g b : Nat) : (s.raise g b).spires = s.spires := spires_of_calm (raise_calm ..)
@[simp] theorem raise_groves (g b : Nat) : (s.raise g b).groves = s.groves := groves_of_calm (raise_calm ..)
@[simp] theorem raise_drr (g b : Nat) : (s.raise g b).drr = s.drr := drr_of_calm (raise_calm ..)
@[simp] theorem raise_exts (g b : Nat) : (s.raise g b).exts = s.exts := exts_of_calm (raise_calm ..)
@[simp] theorem raise_roots (g b : Nat) : (s.raise g b).roots = s.roots := roots_of_calm (raise_calm ..)
@[simp] theorem raise_banks (g b : Nat) : (s.raise g b).banks = s.banks := banks_of_calm (raise_calm ..)
@[simp] theorem raise_promoAt (g b : Nat) : (s.raise g b).promoAt = s.promoAt := promoAt_of_calm (raise_calm ..)
@[simp] theorem raise_ctxs (g b : Nat) : (s.raise g b).ctxs = s.ctxs := ctxs_of_calm (raise_calm ..)
@[simp] theorem raise_rules (g b : Nat) : (s.raise g b).rules = s.rules := rules_of_calm (raise_calm ..)
@[simp] theorem raise_scopes (g b : Nat) : (s.raise g b).scopes = s.scopes := scopes_of_calm (raise_calm ..)
@[simp] theorem raise_accesses (g b : Nat) : (s.raise g b).accesses = s.accesses := accesses_of_calm (raise_calm ..)
@[simp] theorem raise_classHints (g b : Nat) : (s.raise g b).classHints = s.classHints := classHints_of_calm (raise_calm ..)
@[simp] theorem raise_promos (g b : Nat) : (s.raise g b).promos = s.promos := promos_of_calm (raise_calm ..)
@[simp] theorem raise_retiredSlots (g b : Nat) : (s.raise g b).retiredSlots = s.retiredSlots := retiredSlots_of_calm (raise_calm ..)
@[simp] theorem raise_flash (g b : Nat) : (s.raise g b).flash = s.flash := flash_of_calm (raise_calm ..)
@[simp] theorem raise_pds (g b : Nat) : (s.raise g b).pds = s.pds := pds_of_calm (raise_calm ..)
@[simp] theorem raise_badRecs (g b : Nat) : (s.raise g b).badRecs = s.badRecs := badRecs_of_calm (raise_calm ..)
@[simp] theorem raise_fleet (g b : Nat) : (s.raise g b).fleet = s.fleet := fleet_of_calm (raise_calm ..)
@[simp] theorem raise_pool (g b : Nat) : (s.raise g b).pool = s.pool := pool_of_calm (raise_calm ..)
@[simp] theorem raise_ring (g b : Nat) : (s.raise g b).ring = s.ring := ring_of_calm (raise_calm ..)
@[simp] theorem raise_beats (g b : Nat) : (s.raise g b).beats = s.beats := beats_of_calm (raise_calm ..)
@[simp] theorem raise_scheds (g b : Nat) : (s.raise g b).scheds = s.scheds := scheds_of_calm (raise_calm ..)
@[simp] theorem raise_insts (g b : Nat) : (s.raise g b).insts = s.insts := insts_of_calm (raise_calm ..)
@[simp] theorem raise_instSeq (g b : Nat) : (s.raise g b).instSeq = s.instSeq := instSeq_of_calm (raise_calm ..)
@[simp] theorem raise_jobs (g b : Nat) : (s.raise g b).jobs = s.jobs := jobs_of_calm (raise_calm ..)
@[simp] theorem raise_jobSeq (g b : Nat) : (s.raise g b).jobSeq = s.jobSeq := jobSeq_of_calm (raise_calm ..)
@[simp] theorem raise_arrays (g b : Nat) : (s.raise g b).arrays = s.arrays := arrays_of_calm (raise_calm ..)
@[simp] theorem raise_tabCache (g b : Nat) : (s.raise g b).tabCache = s.tabCache := tabCache_of_calm (raise_calm ..)
@[simp] theorem raise_ras (g b : Nat) : (s.raise g b).ras = s.ras := ras_of_calm (raise_calm ..)
@[simp] theorem raise_sec (g b : Nat) : (s.raise g b).sec = s.sec := sec_of_calm (raise_calm ..)
@[simp] theorem raise_cupola (g b : Nat) : (s.raise g b).cupola = s.cupola := cupola_of_calm (raise_calm ..)
@[simp] theorem raise_boot (g b : Nat) : (s.raise g b).boot = s.boot := boot_of_calm (raise_calm ..)
@[simp] theorem raise_pending (g b : Nat) : (s.raise g b).pending = s.pending := pending_of_calm (raise_calm ..)

@[simp] theorem raisePState_time (p : Nat) : (s.raisePState p).time = s.time := time_of_calm (raisePState_calm ..)
@[simp] theorem raisePState_hb6 (p : Nat) : (s.raisePState p).hb6 = s.hb6 := hb6_of_calm (raisePState_calm ..)
@[simp] theorem raisePState_latches (p : Nat) : (s.raisePState p).latches = s.latches := latches_of_calm (raisePState_calm ..)
@[simp] theorem raisePState_mgmtSel (p : Nat) : (s.raisePState p).mgmtSel = s.mgmtSel := mgmtSel_of_calm (raisePState_calm ..)
@[simp] theorem raisePState_mem (p : Nat) : (s.raisePState p).mem = s.mem := mem_of_calm (raisePState_calm ..)
@[simp] theorem raisePState_memPoison (p : Nat) : (s.raisePState p).memPoison = s.memPoison := memPoison_of_calm (raisePState_calm ..)
@[simp] theorem raisePState_memFail (p : Nat) : (s.raisePState p).memFail = s.memFail := memFail_of_calm (raisePState_calm ..)
@[simp] theorem raisePState_freeCtr (p : Nat) : (s.raisePState p).freeCtr = s.freeCtr := freeCtr_of_calm (raisePState_calm ..)
@[simp] theorem raisePState_reqs (p : Nat) : (s.raisePState p).reqs = s.reqs := reqs_of_calm (raisePState_calm ..)
@[simp] theorem raisePState_reqSeq (p : Nat) : (s.raisePState p).reqSeq = s.reqSeq := reqSeq_of_calm (raisePState_calm ..)
@[simp] theorem raisePState_failed (p : Nat) : (s.raisePState p).failed = s.failed := failed_of_calm (raisePState_calm ..)
@[simp] theorem raisePState_cqs (p : Nat) : (s.raisePState p).cqs = s.cqs := cqs_of_calm (raisePState_calm ..)
@[simp] theorem raisePState_sqs (p : Nat) : (s.raisePState p).sqs = s.sqs := sqs_of_calm (raisePState_calm ..)
@[simp] theorem raisePState_vfEnable (p : Nat) : (s.raisePState p).vfEnable = s.vfEnable := vfEnable_of_calm (raisePState_calm ..)
@[simp] theorem raisePState_numVfs (p : Nat) : (s.raisePState p).numVfs = s.numVfs := numVfs_of_calm (raisePState_calm ..)
@[simp] theorem raisePState_mbxNs (p : Nat) : (s.raisePState p).mbxNs = s.mbxNs := mbxNs_of_calm (raisePState_calm ..)
@[simp] theorem raisePState_mbxSec (p : Nat) : (s.raisePState p).mbxSec = s.mbxSec := mbxSec_of_calm (raisePState_calm ..)
@[simp] theorem raisePState_parts (p : Nat) : (s.raisePState p).parts = s.parts := parts_of_calm (raisePState_calm ..)
@[simp] theorem raisePState_chms (p : Nat) : (s.raisePState p).chms = s.chms := chms_of_calm (raisePState_calm ..)
@[simp] theorem raisePState_leaves (p : Nat) : (s.raisePState p).leaves = s.leaves := leaves_of_calm (raisePState_calm ..)
@[simp] theorem raisePState_nextCid (p : Nat) : (s.raisePState p).nextCid = s.nextCid := nextCid_of_calm (raisePState_calm ..)
@[simp] theorem raisePState_holds (p : Nat) : (s.raisePState p).holds = s.holds := holds_of_calm (raisePState_calm ..)
@[simp] theorem raisePState_seqs (p : Nat) : (s.raisePState p).seqs = s.seqs := seqs_of_calm (raisePState_calm ..)
@[simp] theorem raisePState_shapes (p : Nat) : (s.raisePState p).shapes = s.shapes := shapes_of_calm (raisePState_calm ..)
@[simp] theorem raisePState_txqs (p : Nat) : (s.raisePState p).txqs = s.txqs := txqs_of_calm (raisePState_calm ..)
@[simp] theorem raisePState_txports (p : Nat) : (s.raisePState p).txports = s.txports := txports_of_calm (raisePState_calm ..)
@[simp] theorem raisePState_partQs (p : Nat) : (s.raisePState p).partQs = s.partQs := partQs_of_calm (raisePState_calm ..)
@[simp] theorem raisePState_meters (p : Nat) : (s.raisePState p).meters = s.meters := meters_of_calm (raisePState_calm ..)
@[simp] theorem raisePState_qps (p : Nat) : (s.raisePState p).qps = s.qps := qps_of_calm (raisePState_calm ..)
@[simp] theorem raisePState_mrs (p : Nat) : (s.raisePState p).mrs = s.mrs := mrs_of_calm (raisePState_calm ..)
@[simp] theorem raisePState_subPorts (p : Nat) : (s.raisePState p).subPorts = s.subPorts := subPorts_of_calm (raisePState_calm ..)
@[simp] theorem raisePState_qwpAdmitted (p : Nat) : (s.raisePState p).qwpAdmitted = s.qwpAdmitted := qwpAdmitted_of_calm (raisePState_calm ..)
@[simp] theorem raisePState_spires (p : Nat) : (s.raisePState p).spires = s.spires := spires_of_calm (raisePState_calm ..)
@[simp] theorem raisePState_groves (p : Nat) : (s.raisePState p).groves = s.groves := groves_of_calm (raisePState_calm ..)
@[simp] theorem raisePState_drr (p : Nat) : (s.raisePState p).drr = s.drr := drr_of_calm (raisePState_calm ..)
@[simp] theorem raisePState_exts (p : Nat) : (s.raisePState p).exts = s.exts := exts_of_calm (raisePState_calm ..)
@[simp] theorem raisePState_roots (p : Nat) : (s.raisePState p).roots = s.roots := roots_of_calm (raisePState_calm ..)
@[simp] theorem raisePState_banks (p : Nat) : (s.raisePState p).banks = s.banks := banks_of_calm (raisePState_calm ..)
@[simp] theorem raisePState_promoAt (p : Nat) : (s.raisePState p).promoAt = s.promoAt := promoAt_of_calm (raisePState_calm ..)
@[simp] theorem raisePState_ctxs (p : Nat) : (s.raisePState p).ctxs = s.ctxs := ctxs_of_calm (raisePState_calm ..)
@[simp] theorem raisePState_rules (p : Nat) : (s.raisePState p).rules = s.rules := rules_of_calm (raisePState_calm ..)
@[simp] theorem raisePState_scopes (p : Nat) : (s.raisePState p).scopes = s.scopes := scopes_of_calm (raisePState_calm ..)
@[simp] theorem raisePState_accesses (p : Nat) : (s.raisePState p).accesses = s.accesses := accesses_of_calm (raisePState_calm ..)
@[simp] theorem raisePState_classHints (p : Nat) : (s.raisePState p).classHints = s.classHints := classHints_of_calm (raisePState_calm ..)
@[simp] theorem raisePState_promos (p : Nat) : (s.raisePState p).promos = s.promos := promos_of_calm (raisePState_calm ..)
@[simp] theorem raisePState_retiredSlots (p : Nat) : (s.raisePState p).retiredSlots = s.retiredSlots := retiredSlots_of_calm (raisePState_calm ..)
@[simp] theorem raisePState_flash (p : Nat) : (s.raisePState p).flash = s.flash := flash_of_calm (raisePState_calm ..)
@[simp] theorem raisePState_pds (p : Nat) : (s.raisePState p).pds = s.pds := pds_of_calm (raisePState_calm ..)
@[simp] theorem raisePState_badRecs (p : Nat) : (s.raisePState p).badRecs = s.badRecs := badRecs_of_calm (raisePState_calm ..)
@[simp] theorem raisePState_fleet (p : Nat) : (s.raisePState p).fleet = s.fleet := fleet_of_calm (raisePState_calm ..)
@[simp] theorem raisePState_pool (p : Nat) : (s.raisePState p).pool = s.pool := pool_of_calm (raisePState_calm ..)
@[simp] theorem raisePState_ring (p : Nat) : (s.raisePState p).ring = s.ring := ring_of_calm (raisePState_calm ..)
@[simp] theorem raisePState_beats (p : Nat) : (s.raisePState p).beats = s.beats := beats_of_calm (raisePState_calm ..)
@[simp] theorem raisePState_scheds (p : Nat) : (s.raisePState p).scheds = s.scheds := scheds_of_calm (raisePState_calm ..)
@[simp] theorem raisePState_insts (p : Nat) : (s.raisePState p).insts = s.insts := insts_of_calm (raisePState_calm ..)
@[simp] theorem raisePState_instSeq (p : Nat) : (s.raisePState p).instSeq = s.instSeq := instSeq_of_calm (raisePState_calm ..)
@[simp] theorem raisePState_jobs (p : Nat) : (s.raisePState p).jobs = s.jobs := jobs_of_calm (raisePState_calm ..)
@[simp] theorem raisePState_jobSeq (p : Nat) : (s.raisePState p).jobSeq = s.jobSeq := jobSeq_of_calm (raisePState_calm ..)
@[simp] theorem raisePState_arrays (p : Nat) : (s.raisePState p).arrays = s.arrays := arrays_of_calm (raisePState_calm ..)
@[simp] theorem raisePState_tabCache (p : Nat) : (s.raisePState p).tabCache = s.tabCache := tabCache_of_calm (raisePState_calm ..)
@[simp] theorem raisePState_ras (p : Nat) : (s.raisePState p).ras = s.ras := ras_of_calm (raisePState_calm ..)
@[simp] theorem raisePState_sec (p : Nat) : (s.raisePState p).sec = s.sec := sec_of_calm (raisePState_calm ..)
@[simp] theorem raisePState_cupola (p : Nat) : (s.raisePState p).cupola = s.cupola := cupola_of_calm (raisePState_calm ..)
@[simp] theorem raisePState_boot (p : Nat) : (s.raisePState p).boot = s.boot := boot_of_calm (raisePState_calm ..)
@[simp] theorem raisePState_pending (p : Nat) : (s.raisePState p).pending = s.pending := pending_of_calm (raisePState_calm ..)

@[simp] theorem setPState_time (p v : Nat) : (s.setPState p v).time = s.time := time_of_calm (setPState_calm ..)
@[simp] theorem setPState_hb6 (p v : Nat) : (s.setPState p v).hb6 = s.hb6 := hb6_of_calm (setPState_calm ..)
@[simp] theorem setPState_latches (p v : Nat) : (s.setPState p v).latches = s.latches := latches_of_calm (setPState_calm ..)
@[simp] theorem setPState_mgmtSel (p v : Nat) : (s.setPState p v).mgmtSel = s.mgmtSel := mgmtSel_of_calm (setPState_calm ..)
@[simp] theorem setPState_mem (p v : Nat) : (s.setPState p v).mem = s.mem := mem_of_calm (setPState_calm ..)
@[simp] theorem setPState_memPoison (p v : Nat) : (s.setPState p v).memPoison = s.memPoison := memPoison_of_calm (setPState_calm ..)
@[simp] theorem setPState_memFail (p v : Nat) : (s.setPState p v).memFail = s.memFail := memFail_of_calm (setPState_calm ..)
@[simp] theorem setPState_freeCtr (p v : Nat) : (s.setPState p v).freeCtr = s.freeCtr := freeCtr_of_calm (setPState_calm ..)
@[simp] theorem setPState_reqs (p v : Nat) : (s.setPState p v).reqs = s.reqs := reqs_of_calm (setPState_calm ..)
@[simp] theorem setPState_reqSeq (p v : Nat) : (s.setPState p v).reqSeq = s.reqSeq := reqSeq_of_calm (setPState_calm ..)
@[simp] theorem setPState_failed (p v : Nat) : (s.setPState p v).failed = s.failed := failed_of_calm (setPState_calm ..)
@[simp] theorem setPState_cqs (p v : Nat) : (s.setPState p v).cqs = s.cqs := cqs_of_calm (setPState_calm ..)
@[simp] theorem setPState_sqs (p v : Nat) : (s.setPState p v).sqs = s.sqs := sqs_of_calm (setPState_calm ..)
@[simp] theorem setPState_vfEnable (p v : Nat) : (s.setPState p v).vfEnable = s.vfEnable := vfEnable_of_calm (setPState_calm ..)
@[simp] theorem setPState_numVfs (p v : Nat) : (s.setPState p v).numVfs = s.numVfs := numVfs_of_calm (setPState_calm ..)
@[simp] theorem setPState_mbxNs (p v : Nat) : (s.setPState p v).mbxNs = s.mbxNs := mbxNs_of_calm (setPState_calm ..)
@[simp] theorem setPState_mbxSec (p v : Nat) : (s.setPState p v).mbxSec = s.mbxSec := mbxSec_of_calm (setPState_calm ..)
@[simp] theorem setPState_parts (p v : Nat) : (s.setPState p v).parts = s.parts := parts_of_calm (setPState_calm ..)
@[simp] theorem setPState_chms (p v : Nat) : (s.setPState p v).chms = s.chms := chms_of_calm (setPState_calm ..)
@[simp] theorem setPState_leaves (p v : Nat) : (s.setPState p v).leaves = s.leaves := leaves_of_calm (setPState_calm ..)
@[simp] theorem setPState_nextCid (p v : Nat) : (s.setPState p v).nextCid = s.nextCid := nextCid_of_calm (setPState_calm ..)
@[simp] theorem setPState_holds (p v : Nat) : (s.setPState p v).holds = s.holds := holds_of_calm (setPState_calm ..)
@[simp] theorem setPState_seqs (p v : Nat) : (s.setPState p v).seqs = s.seqs := seqs_of_calm (setPState_calm ..)
@[simp] theorem setPState_shapes (p v : Nat) : (s.setPState p v).shapes = s.shapes := shapes_of_calm (setPState_calm ..)
@[simp] theorem setPState_txqs (p v : Nat) : (s.setPState p v).txqs = s.txqs := txqs_of_calm (setPState_calm ..)
@[simp] theorem setPState_txports (p v : Nat) : (s.setPState p v).txports = s.txports := txports_of_calm (setPState_calm ..)
@[simp] theorem setPState_partQs (p v : Nat) : (s.setPState p v).partQs = s.partQs := partQs_of_calm (setPState_calm ..)
@[simp] theorem setPState_meters (p v : Nat) : (s.setPState p v).meters = s.meters := meters_of_calm (setPState_calm ..)
@[simp] theorem setPState_qps (p v : Nat) : (s.setPState p v).qps = s.qps := qps_of_calm (setPState_calm ..)
@[simp] theorem setPState_mrs (p v : Nat) : (s.setPState p v).mrs = s.mrs := mrs_of_calm (setPState_calm ..)
@[simp] theorem setPState_subPorts (p v : Nat) : (s.setPState p v).subPorts = s.subPorts := subPorts_of_calm (setPState_calm ..)
@[simp] theorem setPState_qwpAdmitted (p v : Nat) : (s.setPState p v).qwpAdmitted = s.qwpAdmitted := qwpAdmitted_of_calm (setPState_calm ..)
@[simp] theorem setPState_spires (p v : Nat) : (s.setPState p v).spires = s.spires := spires_of_calm (setPState_calm ..)
@[simp] theorem setPState_groves (p v : Nat) : (s.setPState p v).groves = s.groves := groves_of_calm (setPState_calm ..)
@[simp] theorem setPState_drr (p v : Nat) : (s.setPState p v).drr = s.drr := drr_of_calm (setPState_calm ..)
@[simp] theorem setPState_exts (p v : Nat) : (s.setPState p v).exts = s.exts := exts_of_calm (setPState_calm ..)
@[simp] theorem setPState_roots (p v : Nat) : (s.setPState p v).roots = s.roots := roots_of_calm (setPState_calm ..)
@[simp] theorem setPState_banks (p v : Nat) : (s.setPState p v).banks = s.banks := banks_of_calm (setPState_calm ..)
@[simp] theorem setPState_promoAt (p v : Nat) : (s.setPState p v).promoAt = s.promoAt := promoAt_of_calm (setPState_calm ..)
@[simp] theorem setPState_ctxs (p v : Nat) : (s.setPState p v).ctxs = s.ctxs := ctxs_of_calm (setPState_calm ..)
@[simp] theorem setPState_rules (p v : Nat) : (s.setPState p v).rules = s.rules := rules_of_calm (setPState_calm ..)
@[simp] theorem setPState_scopes (p v : Nat) : (s.setPState p v).scopes = s.scopes := scopes_of_calm (setPState_calm ..)
@[simp] theorem setPState_accesses (p v : Nat) : (s.setPState p v).accesses = s.accesses := accesses_of_calm (setPState_calm ..)
@[simp] theorem setPState_classHints (p v : Nat) : (s.setPState p v).classHints = s.classHints := classHints_of_calm (setPState_calm ..)
@[simp] theorem setPState_promos (p v : Nat) : (s.setPState p v).promos = s.promos := promos_of_calm (setPState_calm ..)
@[simp] theorem setPState_retiredSlots (p v : Nat) : (s.setPState p v).retiredSlots = s.retiredSlots := retiredSlots_of_calm (setPState_calm ..)
@[simp] theorem setPState_flash (p v : Nat) : (s.setPState p v).flash = s.flash := flash_of_calm (setPState_calm ..)
@[simp] theorem setPState_pds (p v : Nat) : (s.setPState p v).pds = s.pds := pds_of_calm (setPState_calm ..)
@[simp] theorem setPState_badRecs (p v : Nat) : (s.setPState p v).badRecs = s.badRecs := badRecs_of_calm (setPState_calm ..)
@[simp] theorem setPState_fleet (p v : Nat) : (s.setPState p v).fleet = s.fleet := fleet_of_calm (setPState_calm ..)
@[simp] theorem setPState_pool (p v : Nat) : (s.setPState p v).pool = s.pool := pool_of_calm (setPState_calm ..)
@[simp] theorem setPState_ring (p v : Nat) : (s.setPState p v).ring = s.ring := ring_of_calm (setPState_calm ..)
@[simp] theorem setPState_beats (p v : Nat) : (s.setPState p v).beats = s.beats := beats_of_calm (setPState_calm ..)
@[simp] theorem setPState_scheds (p v : Nat) : (s.setPState p v).scheds = s.scheds := scheds_of_calm (setPState_calm ..)
@[simp] theorem setPState_insts (p v : Nat) : (s.setPState p v).insts = s.insts := insts_of_calm (setPState_calm ..)
@[simp] theorem setPState_instSeq (p v : Nat) : (s.setPState p v).instSeq = s.instSeq := instSeq_of_calm (setPState_calm ..)
@[simp] theorem setPState_jobs (p v : Nat) : (s.setPState p v).jobs = s.jobs := jobs_of_calm (setPState_calm ..)
@[simp] theorem setPState_jobSeq (p v : Nat) : (s.setPState p v).jobSeq = s.jobSeq := jobSeq_of_calm (setPState_calm ..)
@[simp] theorem setPState_arrays (p v : Nat) : (s.setPState p v).arrays = s.arrays := arrays_of_calm (setPState_calm ..)
@[simp] theorem setPState_tabCache (p v : Nat) : (s.setPState p v).tabCache = s.tabCache := tabCache_of_calm (setPState_calm ..)
@[simp] theorem setPState_ras (p v : Nat) : (s.setPState p v).ras = s.ras := ras_of_calm (setPState_calm ..)
@[simp] theorem setPState_sec (p v : Nat) : (s.setPState p v).sec = s.sec := sec_of_calm (setPState_calm ..)
@[simp] theorem setPState_cupola (p v : Nat) : (s.setPState p v).cupola = s.cupola := cupola_of_calm (setPState_calm ..)
@[simp] theorem setPState_boot (p v : Nat) : (s.setPState p v).boot = s.boot := boot_of_calm (setPState_calm ..)
@[simp] theorem setPState_pending (p v : Nat) : (s.setPState p v).pending = s.pending := pending_of_calm (setPState_calm ..)

@[simp] theorem security_time (c p : Nat) : (s.security c p).time = s.time := time_of_calm (security_calm ..)
@[simp] theorem security_hb6 (c p : Nat) : (s.security c p).hb6 = s.hb6 := hb6_of_calm (security_calm ..)
@[simp] theorem security_latches (c p : Nat) : (s.security c p).latches = s.latches := latches_of_calm (security_calm ..)
@[simp] theorem security_mgmtSel (c p : Nat) : (s.security c p).mgmtSel = s.mgmtSel := mgmtSel_of_calm (security_calm ..)
@[simp] theorem security_mem (c p : Nat) : (s.security c p).mem = s.mem := mem_of_calm (security_calm ..)
@[simp] theorem security_memPoison (c p : Nat) : (s.security c p).memPoison = s.memPoison := memPoison_of_calm (security_calm ..)
@[simp] theorem security_memFail (c p : Nat) : (s.security c p).memFail = s.memFail := memFail_of_calm (security_calm ..)
@[simp] theorem security_freeCtr (c p : Nat) : (s.security c p).freeCtr = s.freeCtr := freeCtr_of_calm (security_calm ..)
@[simp] theorem security_reqs (c p : Nat) : (s.security c p).reqs = s.reqs := reqs_of_calm (security_calm ..)
@[simp] theorem security_reqSeq (c p : Nat) : (s.security c p).reqSeq = s.reqSeq := reqSeq_of_calm (security_calm ..)
@[simp] theorem security_failed (c p : Nat) : (s.security c p).failed = s.failed := failed_of_calm (security_calm ..)
@[simp] theorem security_cqs (c p : Nat) : (s.security c p).cqs = s.cqs := cqs_of_calm (security_calm ..)
@[simp] theorem security_sqs (c p : Nat) : (s.security c p).sqs = s.sqs := sqs_of_calm (security_calm ..)
@[simp] theorem security_vfEnable (c p : Nat) : (s.security c p).vfEnable = s.vfEnable := vfEnable_of_calm (security_calm ..)
@[simp] theorem security_numVfs (c p : Nat) : (s.security c p).numVfs = s.numVfs := numVfs_of_calm (security_calm ..)
@[simp] theorem security_mbxNs (c p : Nat) : (s.security c p).mbxNs = s.mbxNs := mbxNs_of_calm (security_calm ..)
@[simp] theorem security_mbxSec (c p : Nat) : (s.security c p).mbxSec = s.mbxSec := mbxSec_of_calm (security_calm ..)
@[simp] theorem security_parts (c p : Nat) : (s.security c p).parts = s.parts := parts_of_calm (security_calm ..)
@[simp] theorem security_chms (c p : Nat) : (s.security c p).chms = s.chms := chms_of_calm (security_calm ..)
@[simp] theorem security_leaves (c p : Nat) : (s.security c p).leaves = s.leaves := leaves_of_calm (security_calm ..)
@[simp] theorem security_nextCid (c p : Nat) : (s.security c p).nextCid = s.nextCid := nextCid_of_calm (security_calm ..)
@[simp] theorem security_holds (c p : Nat) : (s.security c p).holds = s.holds := holds_of_calm (security_calm ..)
@[simp] theorem security_seqs (c p : Nat) : (s.security c p).seqs = s.seqs := seqs_of_calm (security_calm ..)
@[simp] theorem security_shapes (c p : Nat) : (s.security c p).shapes = s.shapes := shapes_of_calm (security_calm ..)
@[simp] theorem security_txqs (c p : Nat) : (s.security c p).txqs = s.txqs := txqs_of_calm (security_calm ..)
@[simp] theorem security_txports (c p : Nat) : (s.security c p).txports = s.txports := txports_of_calm (security_calm ..)
@[simp] theorem security_partQs (c p : Nat) : (s.security c p).partQs = s.partQs := partQs_of_calm (security_calm ..)
@[simp] theorem security_meters (c p : Nat) : (s.security c p).meters = s.meters := meters_of_calm (security_calm ..)
@[simp] theorem security_qps (c p : Nat) : (s.security c p).qps = s.qps := qps_of_calm (security_calm ..)
@[simp] theorem security_mrs (c p : Nat) : (s.security c p).mrs = s.mrs := mrs_of_calm (security_calm ..)
@[simp] theorem security_subPorts (c p : Nat) : (s.security c p).subPorts = s.subPorts := subPorts_of_calm (security_calm ..)
@[simp] theorem security_qwpAdmitted (c p : Nat) : (s.security c p).qwpAdmitted = s.qwpAdmitted := qwpAdmitted_of_calm (security_calm ..)
@[simp] theorem security_spires (c p : Nat) : (s.security c p).spires = s.spires := spires_of_calm (security_calm ..)
@[simp] theorem security_groves (c p : Nat) : (s.security c p).groves = s.groves := groves_of_calm (security_calm ..)
@[simp] theorem security_drr (c p : Nat) : (s.security c p).drr = s.drr := drr_of_calm (security_calm ..)
@[simp] theorem security_exts (c p : Nat) : (s.security c p).exts = s.exts := exts_of_calm (security_calm ..)
@[simp] theorem security_roots (c p : Nat) : (s.security c p).roots = s.roots := roots_of_calm (security_calm ..)
@[simp] theorem security_banks (c p : Nat) : (s.security c p).banks = s.banks := banks_of_calm (security_calm ..)
@[simp] theorem security_promoAt (c p : Nat) : (s.security c p).promoAt = s.promoAt := promoAt_of_calm (security_calm ..)
@[simp] theorem security_ctxs (c p : Nat) : (s.security c p).ctxs = s.ctxs := ctxs_of_calm (security_calm ..)
@[simp] theorem security_rules (c p : Nat) : (s.security c p).rules = s.rules := rules_of_calm (security_calm ..)
@[simp] theorem security_scopes (c p : Nat) : (s.security c p).scopes = s.scopes := scopes_of_calm (security_calm ..)
@[simp] theorem security_accesses (c p : Nat) : (s.security c p).accesses = s.accesses := accesses_of_calm (security_calm ..)
@[simp] theorem security_classHints (c p : Nat) : (s.security c p).classHints = s.classHints := classHints_of_calm (security_calm ..)
@[simp] theorem security_promos (c p : Nat) : (s.security c p).promos = s.promos := promos_of_calm (security_calm ..)
@[simp] theorem security_retiredSlots (c p : Nat) : (s.security c p).retiredSlots = s.retiredSlots := retiredSlots_of_calm (security_calm ..)
@[simp] theorem security_flash (c p : Nat) : (s.security c p).flash = s.flash := flash_of_calm (security_calm ..)
@[simp] theorem security_pds (c p : Nat) : (s.security c p).pds = s.pds := pds_of_calm (security_calm ..)
@[simp] theorem security_badRecs (c p : Nat) : (s.security c p).badRecs = s.badRecs := badRecs_of_calm (security_calm ..)
@[simp] theorem security_fleet (c p : Nat) : (s.security c p).fleet = s.fleet := fleet_of_calm (security_calm ..)
@[simp] theorem security_pool (c p : Nat) : (s.security c p).pool = s.pool := pool_of_calm (security_calm ..)
@[simp] theorem security_ring (c p : Nat) : (s.security c p).ring = s.ring := ring_of_calm (security_calm ..)
@[simp] theorem security_beats (c p : Nat) : (s.security c p).beats = s.beats := beats_of_calm (security_calm ..)
@[simp] theorem security_scheds (c p : Nat) : (s.security c p).scheds = s.scheds := scheds_of_calm (security_calm ..)
@[simp] theorem security_insts (c p : Nat) : (s.security c p).insts = s.insts := insts_of_calm (security_calm ..)
@[simp] theorem security_instSeq (c p : Nat) : (s.security c p).instSeq = s.instSeq := instSeq_of_calm (security_calm ..)
@[simp] theorem security_jobs (c p : Nat) : (s.security c p).jobs = s.jobs := jobs_of_calm (security_calm ..)
@[simp] theorem security_jobSeq (c p : Nat) : (s.security c p).jobSeq = s.jobSeq := jobSeq_of_calm (security_calm ..)
@[simp] theorem security_arrays (c p : Nat) : (s.security c p).arrays = s.arrays := arrays_of_calm (security_calm ..)
@[simp] theorem security_tabCache (c p : Nat) : (s.security c p).tabCache = s.tabCache := tabCache_of_calm (security_calm ..)
@[simp] theorem security_ras (c p : Nat) : (s.security c p).ras = s.ras := ras_of_calm (security_calm ..)
@[simp] theorem security_sec (c p : Nat) : (s.security c p).sec = s.sec := sec_of_calm (security_calm ..)
@[simp] theorem security_cupola (c p : Nat) : (s.security c p).cupola = s.cupola := cupola_of_calm (security_calm ..)
@[simp] theorem security_boot (c p : Nat) : (s.security c p).boot = s.boot := boot_of_calm (security_calm ..)
@[simp] theorem security_pending (c p : Nat) : (s.security c p).pending = s.pending := pending_of_calm (security_calm ..)

@[simp] theorem complete_time (rid : Nat) (st : Status) (c : Cpl) : (s.complete rid st c).time = s.time := time_of_settled (complete_settled ..)
@[simp] theorem complete_hb6 (rid : Nat) (st : Status) (c : Cpl) : (s.complete rid st c).hb6 = s.hb6 := hb6_of_settled (complete_settled ..)
@[simp] theorem complete_latches (rid : Nat) (st : Status) (c : Cpl) : (s.complete rid st c).latches = s.latches := latches_of_settled (complete_settled ..)
@[simp] theorem complete_mgmtSel (rid : Nat) (st : Status) (c : Cpl) : (s.complete rid st c).mgmtSel = s.mgmtSel := mgmtSel_of_settled (complete_settled ..)
@[simp] theorem complete_memFail (rid : Nat) (st : Status) (c : Cpl) : (s.complete rid st c).memFail = s.memFail := memFail_of_settled (complete_settled ..)
@[simp] theorem complete_reqSeq (rid : Nat) (st : Status) (c : Cpl) : (s.complete rid st c).reqSeq = s.reqSeq := reqSeq_of_settled (complete_settled ..)
@[simp] theorem complete_vfEnable (rid : Nat) (st : Status) (c : Cpl) : (s.complete rid st c).vfEnable = s.vfEnable := vfEnable_of_settled (complete_settled ..)
@[simp] theorem complete_numVfs (rid : Nat) (st : Status) (c : Cpl) : (s.complete rid st c).numVfs = s.numVfs := numVfs_of_settled (complete_settled ..)
@[simp] theorem complete_mbxNs (rid : Nat) (st : Status) (c : Cpl) : (s.complete rid st c).mbxNs = s.mbxNs := mbxNs_of_settled (complete_settled ..)
@[simp] theorem complete_mbxSec (rid : Nat) (st : Status) (c : Cpl) : (s.complete rid st c).mbxSec = s.mbxSec := mbxSec_of_settled (complete_settled ..)
@[simp] theorem complete_parts (rid : Nat) (st : Status) (c : Cpl) : (s.complete rid st c).parts = s.parts := parts_of_settled (complete_settled ..)
@[simp] theorem complete_chms (rid : Nat) (st : Status) (c : Cpl) : (s.complete rid st c).chms = s.chms := chms_of_settled (complete_settled ..)
@[simp] theorem complete_leaves (rid : Nat) (st : Status) (c : Cpl) : (s.complete rid st c).leaves = s.leaves := leaves_of_settled (complete_settled ..)
@[simp] theorem complete_nextCid (rid : Nat) (st : Status) (c : Cpl) : (s.complete rid st c).nextCid = s.nextCid := nextCid_of_settled (complete_settled ..)
@[simp] theorem complete_holds (rid : Nat) (st : Status) (c : Cpl) : (s.complete rid st c).holds = s.holds := holds_of_settled (complete_settled ..)
@[simp] theorem complete_seqs (rid : Nat) (st : Status) (c : Cpl) : (s.complete rid st c).seqs = s.seqs := seqs_of_settled (complete_settled ..)
@[simp] theorem complete_shapes (rid : Nat) (st : Status) (c : Cpl) : (s.complete rid st c).shapes = s.shapes := shapes_of_settled (complete_settled ..)
@[simp] theorem complete_txports (rid : Nat) (st : Status) (c : Cpl) : (s.complete rid st c).txports = s.txports := txports_of_settled (complete_settled ..)
@[simp] theorem complete_meters (rid : Nat) (st : Status) (c : Cpl) : (s.complete rid st c).meters = s.meters := meters_of_settled (complete_settled ..)
@[simp] theorem complete_mrs (rid : Nat) (st : Status) (c : Cpl) : (s.complete rid st c).mrs = s.mrs := mrs_of_settled (complete_settled ..)
@[simp] theorem complete_subPorts (rid : Nat) (st : Status) (c : Cpl) : (s.complete rid st c).subPorts = s.subPorts := subPorts_of_settled (complete_settled ..)
@[simp] theorem complete_spires (rid : Nat) (st : Status) (c : Cpl) : (s.complete rid st c).spires = s.spires := spires_of_settled (complete_settled ..)
@[simp] theorem complete_groves (rid : Nat) (st : Status) (c : Cpl) : (s.complete rid st c).groves = s.groves := groves_of_settled (complete_settled ..)
@[simp] theorem complete_drr (rid : Nat) (st : Status) (c : Cpl) : (s.complete rid st c).drr = s.drr := drr_of_settled (complete_settled ..)
@[simp] theorem complete_exts (rid : Nat) (st : Status) (c : Cpl) : (s.complete rid st c).exts = s.exts := exts_of_settled (complete_settled ..)
@[simp] theorem complete_roots (rid : Nat) (st : Status) (c : Cpl) : (s.complete rid st c).roots = s.roots := roots_of_settled (complete_settled ..)
@[simp] theorem complete_banks (rid : Nat) (st : Status) (c : Cpl) : (s.complete rid st c).banks = s.banks := banks_of_settled (complete_settled ..)
@[simp] theorem complete_promoAt (rid : Nat) (st : Status) (c : Cpl) : (s.complete rid st c).promoAt = s.promoAt := promoAt_of_settled (complete_settled ..)
@[simp] theorem complete_ctxs (rid : Nat) (st : Status) (c : Cpl) : (s.complete rid st c).ctxs = s.ctxs := ctxs_of_settled (complete_settled ..)
@[simp] theorem complete_rules (rid : Nat) (st : Status) (c : Cpl) : (s.complete rid st c).rules = s.rules := rules_of_settled (complete_settled ..)
@[simp] theorem complete_scopes (rid : Nat) (st : Status) (c : Cpl) : (s.complete rid st c).scopes = s.scopes := scopes_of_settled (complete_settled ..)
@[simp] theorem complete_accesses (rid : Nat) (st : Status) (c : Cpl) : (s.complete rid st c).accesses = s.accesses := accesses_of_settled (complete_settled ..)
@[simp] theorem complete_classHints (rid : Nat) (st : Status) (c : Cpl) : (s.complete rid st c).classHints = s.classHints := classHints_of_settled (complete_settled ..)
@[simp] theorem complete_promos (rid : Nat) (st : Status) (c : Cpl) : (s.complete rid st c).promos = s.promos := promos_of_settled (complete_settled ..)
@[simp] theorem complete_retiredSlots (rid : Nat) (st : Status) (c : Cpl) : (s.complete rid st c).retiredSlots = s.retiredSlots := retiredSlots_of_settled (complete_settled ..)
@[simp] theorem complete_flash (rid : Nat) (st : Status) (c : Cpl) : (s.complete rid st c).flash = s.flash := flash_of_settled (complete_settled ..)
@[simp] theorem complete_pds (rid : Nat) (st : Status) (c : Cpl) : (s.complete rid st c).pds = s.pds := pds_of_settled (complete_settled ..)
@[simp] theorem complete_badRecs (rid : Nat) (st : Status) (c : Cpl) : (s.complete rid st c).badRecs = s.badRecs := badRecs_of_settled (complete_settled ..)
@[simp] theorem complete_fleet (rid : Nat) (st : Status) (c : Cpl) : (s.complete rid st c).fleet = s.fleet := fleet_of_settled (complete_settled ..)
@[simp] theorem complete_pool (rid : Nat) (st : Status) (c : Cpl) : (s.complete rid st c).pool = s.pool := pool_of_settled (complete_settled ..)
@[simp] theorem complete_beats (rid : Nat) (st : Status) (c : Cpl) : (s.complete rid st c).beats = s.beats := beats_of_settled (complete_settled ..)
@[simp] theorem complete_scheds (rid : Nat) (st : Status) (c : Cpl) : (s.complete rid st c).scheds = s.scheds := scheds_of_settled (complete_settled ..)
@[simp] theorem complete_insts (rid : Nat) (st : Status) (c : Cpl) : (s.complete rid st c).insts = s.insts := insts_of_settled (complete_settled ..)
@[simp] theorem complete_instSeq (rid : Nat) (st : Status) (c : Cpl) : (s.complete rid st c).instSeq = s.instSeq := instSeq_of_settled (complete_settled ..)
@[simp] theorem complete_jobs (rid : Nat) (st : Status) (c : Cpl) : (s.complete rid st c).jobs = s.jobs := jobs_of_settled (complete_settled ..)
@[simp] theorem complete_jobSeq (rid : Nat) (st : Status) (c : Cpl) : (s.complete rid st c).jobSeq = s.jobSeq := jobSeq_of_settled (complete_settled ..)
@[simp] theorem complete_arrays (rid : Nat) (st : Status) (c : Cpl) : (s.complete rid st c).arrays = s.arrays := arrays_of_settled (complete_settled ..)
@[simp] theorem complete_tabCache (rid : Nat) (st : Status) (c : Cpl) : (s.complete rid st c).tabCache = s.tabCache := tabCache_of_settled (complete_settled ..)
@[simp] theorem complete_ras (rid : Nat) (st : Status) (c : Cpl) : (s.complete rid st c).ras = s.ras := ras_of_settled (complete_settled ..)
@[simp] theorem complete_sec (rid : Nat) (st : Status) (c : Cpl) : (s.complete rid st c).sec = s.sec := sec_of_settled (complete_settled ..)
@[simp] theorem complete_cupola (rid : Nat) (st : Status) (c : Cpl) : (s.complete rid st c).cupola = s.cupola := cupola_of_settled (complete_settled ..)
@[simp] theorem complete_boot (rid : Nat) (st : Status) (c : Cpl) : (s.complete rid st c).boot = s.boot := boot_of_settled (complete_settled ..)
@[simp] theorem complete_pending (rid : Nat) (st : Status) (c : Cpl) : (s.complete rid st c).pending = s.pending := pending_of_settled (complete_settled ..)

end Sys2Proof.Machine
end

