-- ==== Sys2Proof/Laws/HostPort.lean ====
section
/-! SUPPORT. What the host port's operations do: dropped doorbell writes, ring writes that act. -/

namespace Sys2Proof.Machine

open Sys2Proof

theorem or_one_odd (x : Nat) : ((x ||| 2 ^ 0) % 2 ^ 32) % 2 = 1 := by
  rw [Nat.mod_mod_of_dvd _ (by decide : 2 ∣ 2 ^ 32), Nat.mod_two_eq_one_iff_testBit_zero]
  simp

/-- A function's write of a ring register set that acts. -/
theorem ringWrite_go (s : State) (fn q : Nat) (cq : Bool) (val : Nat) (go : State → State) (hq : q < 1024)
    (hr : s.ready = true) (ha : s.partActive (q / 8) = true)
    (hf : fn = 0 ∧ s.vfEnabled (q / 8) = false ∨ fn ≠ 0 ∧ s.vfEnabled fn = true ∧ q / 8 = fn) :
    s.ringWrite fn q cq val go = go s := by
  unfold State.ringWrite
  rcases hf with ⟨h1, h2⟩ | ⟨h1, h2, h3⟩
  · simp [hr, ha, h1, h2, Nat.not_le.mpr hq]
  · rw [h3] at ha
    simp [hr, ha, h1, h2, h3, Nat.not_le.mpr hq]

/-- A dropped write is recorded, and no other register changes. -/
theorem dropWrite_get (s : State) (q : Nat) (hr : Bool) (c v : Nat) (f : Fld) (i j : Nat)
   (h0 : F.HP_CQ_STATUS_DB_ERR.off q 0 ≠ f.off i j) (h1 : F.HP_SQ_STATUS_DB_ERR.off q 0 ≠ f.off i j)
   (h2 : F.HP_DB_ERR_RING.off 0 0 ≠ f.off i j) (h3 : F.BELFRY_GRP_CAUSE_CAUSE.off gHostPort 0 ≠ f.off i j) :
   (s.dropWrite q hr c v).get f i j = s.get f i j := by
  unfold State.dropWrite State.recordEvent
  dsimp only
  rw [raise_get _ _ _ _ _ _ h3]
  simp only [List.foldl_cons, List.foldl_nil, ite_get]
  rw [get_put_other _ F.HP_DB_ERR_OVERFLOW _ _ _ _ _ _ h2]
  rw [get_put_other _ F.HP_DB_ERR_VALID _ _ _ _ _ _ h2]
  rw [get_put_other _ F.HP_DB_ERR_VALUE _ _ _ _ _ _ h2]
  rw [get_put_other _ F.HP_DB_ERR_CAUSE _ _ _ _ _ _ h2]
  rw [get_put_other _ F.HP_DB_ERR_HEAD_REG _ _ _ _ _ _ h2]
  rw [get_put_other _ F.HP_DB_ERR_RING _ _ _ _ _ _ h2]
  rw [ite_self]
  split
  · exact get_put_other _ _ _ _ _ _ _ _ h0
  · exact get_put_other _ _ _ _ _ _ _ _ h1

theorem dropWrite_facts (s : State) (q : Nat) (hr : Bool) (c v : Nat) :
    let t := s.dropWrite q hr c v
    (hr = false → t.get F.HP_SQ_STATUS_DB_ERR q = 1) ∧ (hr = true → t.get F.HP_CQ_STATUS_DB_ERR q = 1) ∧ t.get F.HP_DB_ERR_VALID = 1
      ∧ t.get F.HP_DB_ERR_RING = q % 1024 ∧ t.get F.HP_DB_ERR_HEAD_REG = b2n hr ∧ t.get F.HP_DB_ERR_CAUSE = c % 8
      ∧ t.get F.HP_DB_ERR_VALUE = v % 65536 ∧ (s.on F.HP_DB_ERR_VALID = true → t.get F.HP_DB_ERR_OVERFLOW = 1)
      ∧ t.get F.BELFRY_GRP_CAUSE_CAUSE gHostPort % 2 = 1 := by
  dsimp only
  unfold State.dropWrite State.recordEvent
  dsimp only
  refine ⟨?_, ?_, ?_, ?_, ?_, ?_, ?_, ?_, ?_⟩
  case refine_9 => rw [raise_get_cause]; exact or_one_odd _
  case refine_1 =>
    rintro rfl
    rw [raise_get _ _ _ _ _ _ (by simp [Fld.off, F.BELFRY_GRP_CAUSE_CAUSE, F.HP_SQ_STATUS_DB_ERR, gHostPort]; omega)]
    simp only [List.foldl_cons, List.foldl_nil, ite_get]
    have h2 : F.HP_DB_ERR_RING.off 0 0 ≠ F.HP_SQ_STATUS_DB_ERR.off q 0 := by simp [Fld.off, F.HP_DB_ERR_RING, F.HP_SQ_STATUS_DB_ERR]; omega
    rw [get_put_other _ F.HP_DB_ERR_OVERFLOW _ _ _ _ _ _ h2]
    rw [get_put_other _ F.HP_DB_ERR_VALID _ _ _ _ _ _ h2]
    rw [get_put_other _ F.HP_DB_ERR_VALUE _ _ _ _ _ _ h2]
    rw [get_put_other _ F.HP_DB_ERR_CAUSE _ _ _ _ _ _ h2]
    rw [get_put_other _ F.HP_DB_ERR_HEAD_REG _ _ _ _ _ _ h2]
    rw [get_put_other _ F.HP_DB_ERR_RING _ _ _ _ _ _ h2]
    simp [get_put _ F.HP_SQ_STATUS_DB_ERR _ _ _ (by decide) (by decide) (by decide)]
    decide
  case refine_2 =>
    rintro rfl
    rw [raise_get _ _ _ _ _ _ (by simp [Fld.off, F.BELFRY_GRP_CAUSE_CAUSE, F.HP_CQ_STATUS_DB_ERR, gHostPort]; omega)]
    simp only [List.foldl_cons, List.foldl_nil, ite_get]
    have h2 : F.HP_DB_ERR_RING.off 0 0 ≠ F.HP_CQ_STATUS_DB_ERR.off q 0 := by simp [Fld.off, F.HP_DB_ERR_RING, F.HP_CQ_STATUS_DB_ERR]; omega
    rw [get_put_other _ F.HP_DB_ERR_OVERFLOW _ _ _ _ _ _ h2]
    rw [get_put_other _ F.HP_DB_ERR_VALID _ _ _ _ _ _ h2]
    rw [get_put_other _ F.HP_DB_ERR_VALUE _ _ _ _ _ _ h2]
    rw [get_put_other _ F.HP_DB_ERR_CAUSE _ _ _ _ _ _ h2]
    rw [get_put_other _ F.HP_DB_ERR_HEAD_REG _ _ _ _ _ _ h2]
    rw [get_put_other _ F.HP_DB_ERR_RING _ _ _ _ _ _ h2]
    simp [get_put _ F.HP_CQ_STATUS_DB_ERR _ _ _ (by decide) (by decide) (by decide)]
    decide
  all_goals rw [raise_get _ _ _ _ _ _ (by decide)]
  all_goals simp only [List.foldl_cons, List.foldl_nil, ite_get]
  case refine_3 =>
    rw [get_put_apart _ F.HP_DB_ERR_OVERFLOW _ _ _ _ _ _ (by decide)]
    rw [get_put _ F.HP_DB_ERR_VALID _ _ _ (by decide) (by decide) (by decide), ite_self]
    decide
  case refine_8 =>
    intro h
    have hh : (if hr then s.put F.HP_CQ_STATUS_DB_ERR 1 q else s.put F.HP_SQ_STATUS_DB_ERR 1 q).on F.HP_DB_ERR_VALID = true := by
      rw [← h]; unfold State.on
      split <;> rw [get_put_other _ _ _ _ _ _ _ _ (by
        simp [Fld.off, F.HP_CQ_STATUS_DB_ERR, F.HP_SQ_STATUS_DB_ERR, F.HP_DB_ERR_VALID]; omega)]
    rw [if_pos hh, get_put _ F.HP_DB_ERR_OVERFLOW _ _ _ (by decide) (by decide) (by decide)]
    decide
  all_goals rw [get_put_apart _ F.HP_DB_ERR_OVERFLOW _ _ _ _ _ _ (by decide)]
  all_goals rw [get_put_apart _ F.HP_DB_ERR_VALID _ _ _ _ _ _ (by decide), ite_self]
  case refine_7 => exact get_put _ F.HP_DB_ERR_VALUE _ _ _ (by decide) (by decide) (by decide)
  all_goals rw [get_put_apart _ F.HP_DB_ERR_VALUE _ _ _ _ _ _ (by decide)]
  case refine_6 => exact get_put _ F.HP_DB_ERR_CAUSE _ _ _ (by decide) (by decide) (by decide)
  all_goals rw [get_put_apart _ F.HP_DB_ERR_CAUSE _ _ _ _ _ _ (by decide)]
  case refine_5 => rw [get_put _ F.HP_DB_ERR_HEAD_REG _ _ _ (by decide) (by decide) (by decide)]; cases hr <;> decide
  rw [get_put_apart _ F.HP_DB_ERR_HEAD_REG _ _ _ _ _ _ (by decide)]
  exact get_put _ F.HP_DB_ERR_RING _ _ _ (by decide) (by decide) (by decide)
end Sys2Proof.Machine
end

