-- ==== Sys2Proof/Machine/Journal.lean ====
section
/-! DEFINITION. What the flash media hold as bytes: the tag of a mapping unit (R293), the stored form of a leaf's quarter (R294), the
parity of a row (R295), block records (R298), and journal mapping units with their records and their check (R299, R300). -/

namespace Sys2Proof.Machine

open Sys2Proof

/-- The 16-byte tag that every codeword of a mapping unit carries (R293). -/
def Mu.tag (m : Mu) : Bytes :=
  let data := m.kind == 0
  leBytes 4 (if data then m.leaf + m.quarter * 2 ^ 30 else 0) ++ leBytes 8 m.seqNo ++ leBytes 1 m.kind
    ++ leBytes 1 (if data then m.gen.toNat else 0) ++ leBytes 2 0

/-- The tag at an address: of a unit of a checkpoint band kind 2, and of an anchor block kind 4 (R293, R303). -/
def State.tagAt (s : State) (pa : Nat) : Option Bytes :=
  if isAnchor (paKey pa) then some (Mu.tag { kind := 4, seqNo := s.flash.ckptSeq })
  else match s.flash.mus.get? pa with
    | some m => some m.tag
    | none => match s.flash.bands.find? (fun b => b.2.kind == 2 && b.2.blocks.contains (paKey pa)) with
      | some _ => some (Mu.tag { kind := 2, seqNo := s.flash.ckptSeq })
      | none => none

/-- The stored form of a durable copy in flash: its header, its stored payload and zeros (R294); a quarter of it. -/
def storedForm (h : LeafHdr) (stored : Bytes) : Bytes := padTo 262144 (hdrBytes h ++ stored)
def quarterBytes (form : Bytes) (q : Nat) : Bytes := (form.drop (q * 65536)).take 65536

/-- The parity of data units of a row: their XOR, byte by byte, what is not programmed counting as zero (R295). -/
def rowParity (units : List Bytes) : Bytes :=
  units.foldl (fun acc u => (acc.zip (padTo 65536 u)).map (fun p => p.1 ^^^ p.2)) (List.replicate 65536 0)

/-- A block record (R298), given the committed units that the block holds. -/
def blockRecord (b : Block) (valid : Nat) : Bytes :=
  leBytes 1 (b.state + 4 * b2n b.slc + 8 * b2n b.relocate) ++ leBytes 1 b.profileEpoch.toNat ++ leBytes 2 (min 65535 b.eraseCount)
    ++ leBytes 4 (b.band % 2 ^ 17) ++ leBytes 4 b.programHour ++ leBytes 2 valid ++ leBytes 1 b.programTemp
    ++ leBytes 1 (min 255 b.rebuilds)

/-- The code of a record kind and its 24 bytes of payload (R300). The record of a leaf that is released is that of a FREE leaf
(log entry 81). -/
def JRec.code (isMeta : Bool) : JRec → Nat
  | .map .. => 1
  | .leaf .. => 2
  | .chunk .. => if isMeta then 4 else 3
  | .seq .. => 5
  | .index .. => 6
  | .block .. => 7
  | .profile _ => 8

def JRec.payload (isMeta : Bool) : JRec → Bytes
  | .map i q new old gen cond =>
    leBytes 4 (i + q * 2 ^ 30) ++ leBytes 4 new ++ leBytes 4 old ++ leBytes 1 gen.toNat ++ leBytes 1 (b2n cond)
  | .leaf i rec => leBytes 4 i ++ (leafRecord (rec.getD {}) 0).take 16 ++ leBytes 4 (rec.getD {}).ownerSequence
  | .chunk q n c => if isMeta then ((chunkRecord c).drop 20).take 12 else leBytes 4 q ++ leBytes 4 n ++ leBytes 16 c.hash
  | .seq q rec => (seqRecord rec 0).take 4 ++ leBytes 4 rec.publishedChunks ++ leBytes 4 q ++ leBytes 2 rec.adapterId
      ++ leBytes 1 rec.tierHints ++ leBytes 1 rec.shareGroup ++ leBytes 1 rec.partition
  | .index q n ins => leBytes 4 q ++ leBytes 4 n ++ leBytes 1 (b2n ins)
  | .block key b valid => leBytes 4 (paOf key 0) ++ blockRecord b valid
  | .profile e => leBytes 1 e.toNat

/-- A record of 32 bytes (R299). -/
def JEntry.bytes (e : JEntry) : Bytes :=
  leBytes 1 (e.what.code e.isMeta) ++ leBytes 1 (b2n e.last) ++ leBytes 2 0 ++ leBytes 4 (e.group % 2 ^ 32) ++ padTo 24 (e.what.payload e.isMeta)

/-- CRC-32C (Castagnoli) over bytes, bit-reflected. -/
def crc32c (bs : Bytes) : BitVec 32 :=
  let bitStep (c : BitVec 32) : BitVec 32 := (c >>> 1) ^^^ (if c.getLsbD 0 then 0x82F63B78 else 0)
  ~~~ bs.foldl (fun c b => (List.range 8).foldl (fun c _ => bitStep c) (c ^^^ b.setWidth 32)) (0xFFFFFFFF : BitVec 32)

/-- Bytes 64 to 65,535 of a journal mapping unit: its records. -/
def JournalMu.body (m : JournalMu) : Bytes := padTo 65472 (m.recs.flatMap JEntry.bytes)

/-- A journal mapping unit of 64 KiB (R299). -/
def JournalMu.bytes (m : JournalMu) : Bytes :=
  padTo 64 (leBytes 2 1 ++ leBytes 2 m.recs.length ++ leBytes 4 (crc32c m.body).toNat ++ leBytes 8 m.seqNo ++ leBytes 8 m.checkpoint)
    ++ m.body

/-- Whether 64 KiB are a valid journal mapping unit (R299). -/
def journalValid (b : Bytes) : Bool := fieldAt b 4 4 == (crc32c (b.drop 64)).toNat

/-- The journal mapping units that a mount replays (R302): those that follow the newest checkpoint, in sequence order, up to the first
that is invalid or out of sequence. -/
def Flash.replayed (f : Flash) : List JournalMu :=
  let ms := ((f.journal.map (·.2)).filter (fun m => f.ckptSeq ≤ m.seqNo)).mergeSort (fun a b => a.seqNo ≤ b.seqNo)
  (ms.foldl (fun (a : List JournalMu × Bool) m =>
    if a.2 && m.seqNo = f.ckptSeq + a.1.length && journalValid m.bytes then (a.1 ++ [m], true) else (a.1, false)) ([], true)).1

end Sys2Proof.Machine
end

