-- ==== Sys2Proof/Laws/Journal.lean ====
section
/-! SUPPORT. A journal mapping unit as the device writes it is valid (R299). -/

namespace Sys2Proof.Machine

open Sys2Proof

theorem length_padTo (n : Nat) (b : Bytes) : (padTo n b).length = n := by
  unfold padTo
  rw [List.length_take, List.length_append, List.length_replicate]; omega

theorem journalMu_valid (m : JournalMu) : journalValid m.bytes = true := by
  have hd : (m.bytes).drop 64 = m.body := by
    unfold JournalMu.bytes
    rw [List.drop_append_of_le_length (Nat.le_of_eq (length_padTo _ _).symm), List.drop_eq_nil_of_le (Nat.le_of_eq (length_padTo _ _)),
      List.nil_append]
  have hc : fieldAt m.bytes 4 4 = (crc32c m.body).toNat := by
    have h1 := (crc32c m.body).isLt
    have h2 : leNat (leBytes 4 (crc32c m.body).toNat) = (crc32c m.body).toNat := by
      rw [leNat_leBytes]; exact Nat.mod_eq_of_lt (by simpa using h1)
    rw [← h2]
    unfold fieldAt JournalMu.bytes
    congr 1
  unfold journalValid
  rw [hd, hc]
  simp

end Sys2Proof.Machine
end

