-- ==== Sys2Proof/Laws/Memory.lean ====
section
/-! SUPPORT. Laws of byte memory: the canonical form, a read after a write, and what a write leaves alone. -/

namespace Sys2Proof.Machine.Memory

open Sys2Proof

theorem wf_cons {c : Host.Cell} {m : Memory} :
    wf (c :: m) = true ↔ (∀ d ∈ m, c.1 < d.1) ∧ c.2 ≠ unlisted ∧ wf m = true := by
  induction m generalizing c with
  | nil => obtain ⟨a, v⟩ := c; simp [wf]
  | cons d m ih =>
    obtain ⟨a, v⟩ := c
    obtain ⟨b, w⟩ := d
    simp only [wf, Bool.and_eq_true, bne_iff_ne, decide_eq_true_eq, List.mem_cons, forall_eq_or_imp]
    constructor
    · intro ⟨h1, h2, h3⟩
      exact ⟨⟨h2, fun e he => Nat.lt_trans h2 ((ih.mp h3).1 e he)⟩, h1, h3⟩
    · intro ⟨⟨h1, _⟩, h2, h3⟩
      exact ⟨h2, h1, h3⟩

/-- Canonical memories with rising addresses join to a canonical memory. -/
theorem wf_append {m n : Memory} : wf (m ++ n) = true ↔ wf m = true ∧ wf n = true ∧ ∀ c ∈ m, ∀ d ∈ n, c.1 < d.1 := by
  induction m with
  | nil => simp [wf]
  | cons c m ih =>
    simp only [List.cons_append, wf_cons, ih, List.mem_append, List.mem_cons, forall_eq_or_imp]
    constructor
    · intro ⟨h1, h2, h3, h4, h5⟩
      exact ⟨⟨fun d hd => h1 d (.inl hd), h2, h3⟩, h4, fun d hd => h1 d (.inr hd), h5⟩
    · intro ⟨⟨h1, h2, h3⟩, h4, h5, h6⟩
      exact ⟨fun d hd => hd.elim (h1 d) (h5 d), h2, h3, h4, h6⟩

theorem wf_filter {m : Memory} (p : Host.Cell → Bool) (h : wf m = true) : wf (List.filter p m) = true := by
  induction m with
  | nil => simpa using h
  | cons c m ih =>
    have ⟨h1, h2, h3⟩ := wf_cons.mp h
    rw [List.filter_cons]
    split
    · exact wf_cons.mpr ⟨fun d hd => h1 d ((List.mem_filter.mp hd).1), h2, ih h3⟩
    · exact ih h3

theorem mem_cells {a : Nat} {bs : Bytes} {c : Host.Cell} (h : c ∈ cells a bs) : a ≤ c.1 ∧ c.1 < a + bs.length := by
  induction bs generalizing a with
  | nil => simp [cells] at h
  | cons b t ih =>
    unfold cells at h
    split at h
    · have := ih h; simp; omega
    · rcases List.mem_cons.mp h with h | h
      · subst h; simp
      · have := ih h; simp; omega

theorem wf_cells (a : Nat) (bs : Bytes) : wf (cells a bs) = true := by
  induction bs generalizing a with
  | nil => rfl
  | cons b t ih =>
    unfold cells
    split
    · exact ih _
    · rename_i hb
      exact wf_cons.mpr ⟨fun d hd => (mem_cells hd).1, hb, ih _⟩

/-- A write keeps the canonical form. -/
theorem writeBytes_wf {m : Memory} (a : Nat) (bs : Bytes) (h : wf m = true) : wf (m.writeBytes a bs) = true := by
  refine wf_append.mpr ⟨wf_append.mpr ⟨wf_filter _ h, wf_cells a bs, ?_⟩, wf_filter _ h, ?_⟩
  · intro c hc d hd
    have h1 := (List.mem_filter.mp hc).2
    have h2 := mem_cells hd
    simp at h1
    omega
  · intro c hc d hd
    have h1 := (List.mem_filter.mp hd).2
    simp at h1
    rcases List.mem_append.mp hc with hc | hc
    · have h2 := (List.mem_filter.mp hc).2
      simp at h2
      omega
    · have := mem_cells hc
      omega

/-! ### Reads after writes -/

/-- A cell that lies in none of the listed ones reads as the unlisted value. -/
theorem readByte_unlisted {m : Memory} {k : Nat} (h : ∀ c ∈ m, c.1 ≠ k) : readByte m k = unlisted := by
  induction m with
  | nil => rfl
  | cons c m ih =>
    obtain ⟨a, v⟩ := c
    have h1 : a ≠ k := h (a, v) List.mem_cons_self
    simp only [readByte, h1, ↓reduceIte]
    exact ih (fun c hc => h c (List.mem_cons_of_mem _ hc))

theorem readByte_append {m n : Memory} {k : Nat} :
    readByte (m ++ n) k = if (∃ c ∈ m, c.1 = k) then readByte m k else readByte n k := by
  induction m with
  | nil => simp
  | cons c m ih =>
    obtain ⟨a, v⟩ := c
    simp only [List.cons_append, readByte]
    by_cases h : a = k
    · simp [h]
    · simp only [h, ↓reduceIte, ih, List.mem_cons, exists_eq_or_imp, false_or]

theorem readByte_filter_of {m : Memory} {k : Nat} (p : Nat → Bool) (h : p k = true) :
    readByte (List.filter (fun c => p c.1) m) k = readByte m k := by
  induction m with
  | nil => rfl
  | cons c m ih =>
    obtain ⟨a, v⟩ := c
    rw [List.filter_cons]
    by_cases ha : a = k
    · subst ha; simp [h, readByte]
    · split
      · simp [readByte, ha, ih]
      · simp [readByte, ha, ih]

theorem readByte_cells {a : Nat} {bs : Bytes} {i : Nat} (h : i < bs.length) : readByte (cells a bs) (a + i) = bs[i] := by
  induction bs generalizing a i with
  | nil => simp at h
  | cons b t ih =>
    cases i with
    | zero =>
      unfold cells
      split
      · rename_i hb
        rw [readByte_unlisted (fun c hc => by have := mem_cells hc; omega)]
        simp [hb]
      · simp [readByte]
    | succ i =>
      have hi : i < t.length := by simpa using h
      have e : a + (i + 1) = (a + 1) + i := by omega
      unfold cells
      split
      · rw [e, ih hi]; simp
      · have : a ≠ a + 1 + i := by omega
        rw [e]
        simp only [readByte, this, ↓reduceIte, ih hi]
        simp

/-- A byte outside the written range reads as before. -/
theorem readByte_writeBytes_other (m : Memory) {a k : Nat} {bs : Bytes} (h : k < a ∨ a + bs.length ≤ k) :
    readByte (m.writeBytes a bs) k = readByte m k := by
  unfold writeBytes
  rw [readByte_append, readByte_append]
  have hc : ¬ ∃ c ∈ cells a bs, c.1 = k := by
    intro ⟨c, hc, e⟩
    have := mem_cells hc
    omega
  rcases h with h | h
  · have hb : readByte (m.below a) k = readByte m k := readByte_filter_of (fun x => decide (x < a)) (by simpa using h)
    by_cases hm : ∃ c ∈ m.below a, c.1 = k
    · have : ∃ c ∈ m.below a ++ cells a bs, c.1 = k := by
        obtain ⟨c, h1, h2⟩ := hm
        exact ⟨c, List.mem_append_left _ h1, h2⟩
      rw [if_pos this, if_pos hm, hb]
    · have h0 : readByte m k = unlisted := by
        rw [← hb]
        exact readByte_unlisted (fun c hc e => hm ⟨c, hc, e⟩)
      have hu : ∀ c ∈ m.atOrAbove (a + bs.length), c.1 ≠ k := by
        intro c hc
        have := (List.mem_filter.mp hc).2
        simp at this
        omega
      have : ¬ ∃ c ∈ m.below a ++ cells a bs, c.1 = k := by
        intro ⟨c, h1, h2⟩
        rcases List.mem_append.mp h1 with h1 | h1
        · exact hm ⟨c, h1, h2⟩
        · exact hc ⟨c, h1, h2⟩
      rw [if_neg this, readByte_unlisted hu, h0]
  · have : ¬ ∃ c ∈ m.below a ++ cells a bs, c.1 = k := by
      intro ⟨c, h1, h2⟩
      rcases List.mem_append.mp h1 with h1 | h1
      · have := (List.mem_filter.mp h1).2
        simp at this
        omega
      · exact hc ⟨c, h1, h2⟩
    rw [if_neg this]
    exact readByte_filter_of (fun x => decide (a + bs.length ≤ x)) (by simpa using h)

/-- A written byte reads as it was written. -/
theorem readByte_writeBytes_same (m : Memory) {a i : Nat} {bs : Bytes} (h : i < bs.length) :
    readByte (m.writeBytes a bs) (a + i) = bs[i] := by
  unfold writeBytes
  rw [readByte_append]
  have hb : ∀ c ∈ m.below a, c.1 ≠ a + i := by
    intro c hc
    have := (List.mem_filter.mp hc).2
    simp at this
    omega
  have hu : ∀ c ∈ m.atOrAbove (a + bs.length), c.1 ≠ a + i := by
    intro c hc
    have := (List.mem_filter.mp hc).2
    simp at this
    omega
  have hnb : ¬ ∃ c ∈ m.below a, c.1 = a + i := fun ⟨c, h1, h2⟩ => hb c h1 h2
  have key : readByte (m.below a ++ cells a bs) (a + i) = bs[i] := by
    rw [readByte_append, if_neg hnb]
    exact readByte_cells h
  split
  · exact key
  · rename_i hn
    have h0 : readByte (m.below a ++ cells a bs) (a + i) = unlisted :=
      readByte_unlisted (fun c hc e => hn ⟨c, hc, e⟩)
    rw [readByte_unlisted hu, ← h0, key]

/-- Reading bytes is reading each byte, in a canonical memory. -/
theorem readFrom_eq {m : Memory} {a n : Nat} (hm : wf m = true) (ha : ∀ c ∈ m, a ≤ c.1) :
    readFrom m a n = (List.range n).map (fun i => readByte m (a + i)) := by
  induction n generalizing m a with
  | zero => cases m <;> simp [readFrom]
  | succ n ih =>
    rw [List.range_succ_eq_map, List.map_cons, List.map_map]
    cases m with
    | nil =>
      simp only [readFrom, readByte]
      rw [ih rfl (by simp)]
      simp [readByte, Function.comp_def]
    | cons c m =>
      obtain ⟨k, v⟩ := c
      have ⟨h1, h2, h3⟩ := wf_cons.mp hm
      have hk : a ≤ k := ha (k, v) List.mem_cons_self
      unfold readFrom
      by_cases e : k = a
      · subst e
        rw [if_pos rfl, ih h3 (fun c hc => h1 c hc)]
        simp only [Nat.add_zero, readByte, ↓reduceIte, List.cons.injEq, true_and]
        apply List.map_congr_left
        intro i _
        have : k ≠ k + i.succ := by omega
        simp only [Function.comp_apply, this, ↓reduceIte]
        congr 1
        omega
      · have hlt : a < k := by omega
        rw [if_neg e, ih hm (fun c hc => by
          rcases List.mem_cons.mp hc with hc | hc
          · subst hc; exact hlt
          · have := h1 c hc; simp at this; omega)]
        have hu : readByte ((k, v) :: m) (a + 0) = unlisted := readByte_unlisted (fun c hc => by
          rcases List.mem_cons.mp hc with hc | hc
          · subst hc; simp; omega
          · have := h1 c hc; simp at this; omega)
        rw [hu]
        simp only [List.cons.injEq, true_and]
        apply List.map_congr_left
        intro i _
        simp only [Function.comp_apply]
        congr 1
        omega

/-- A read of a range is the bytes of its addresses. -/
theorem readBytes_eq {m : Memory} (hm : wf m = true) (a n : Nat) :
    m.readBytes a n = (List.range n).map (fun i => readByte m (a + i)) := by
  unfold readBytes atOrAbove
  rw [readFrom_eq (wf_filter _ hm) (fun c hc => by have := (List.mem_filter.mp hc).2; simpa using this)]
  apply List.map_congr_left
  intro i _
  exact readByte_filter_of (fun x => decide (a ≤ x)) (by simp)

/-- A read of bytes just written gives them. -/
theorem readBytes_writeBytes {m : Memory} (hm : wf m = true) {a n : Nat} {bs : Bytes} (hn : n ≤ bs.length) :
    (m.writeBytes a bs).readBytes a n = bs.take n := by
  rw [readBytes_eq (writeBytes_wf a bs hm)]
  apply List.ext_getElem
  · simp [hn]
  · intro i h1 h2
    have hi : i < bs.length := by
      simp at h1
      omega
    simp [readByte_writeBytes_same m hi]

end Sys2Proof.Machine.Memory
end

