-- ==== Sys2Proof/Laws/Keeps.lean ====
section
/-! SUPPORT. What every operation keeps: the queue of commands and the invariant of the device. `Keeps s t` says it of a state `t`
reached from `s`; each operation has one lemma that carries it on, and the lemmas of an operation cite those it calls. -/

namespace Sys2Proof.Machine

open Sys2Proof

/-- From `s` to `t`, the queue has not changed and the invariant has not been lost. -/
structure Keeps (s t : State) : Prop where
  pending : t.pending = s.pending
  inv : s.Inv → t.Inv

namespace Keeps

variable {s0 s t : State}

theorem refl (s : State) : Keeps s s := ⟨rfl, id⟩

theorem trans (h : Keeps s0 s) (h' : Keeps s t) : Keeps s0 t := ⟨h'.pending.trans h.pending, fun i => h'.inv (h.inv i)⟩

/-- A state that differs in fields which neither the queue nor the invariant speaks of. -/
theorem of (h : Keeps s0 s) (hp : t.pending = s.pending) (hm : t.mem = s.mem) (hr : t.regs = s.regs) (hf : t.fleet = s.fleet)
    (ho : t.sec.root = s.sec.root) (hc : t.sec.caks = s.sec.caks) : Keeps s0 t :=
  ⟨hp.trans h.pending, fun i => by
    have ⟨a, b, c⟩ := h.inv i
    refine ⟨hm ▸ a, hr ▸ b, ?_⟩
    unfold State.secretsOwned at *
    rw [ho, hf, hc]
    exact c⟩

/-- A record update of fields which neither the queue nor the invariant speaks of. -/
theorem upd {x_time : Nat} {x_hb6 : Bool} {x_latches : Table Nat} {x_mgmtSel : Table Nat} {x_memPoison : List Nat} {x_memFail :
      List (Nat × Nat)} {x_freeCtr : Nat} {x_out : List Out} {x_reqs : Table Req} {x_reqSeq : Nat} {x_failed : List ((Nat × Nat ×
      Nat) × Dom)} {x_cqs : Table CqSt} {x_sqs : Table SqSt} {x_vfEnable : Bool} {x_numVfs : Nat} {x_devPending : Bool}
      {x_partPending : List Nat} {x_intN : Bool} {x_mbxNs : Table Mailbox} {x_mbxSec : Table Mailbox} {x_parts : Table Part}
      {x_chms : Table Chm} {x_leaves : Table Leaf} {x_nextCid : Nat} {x_holds : List Hold} {x_seqs : Table Sequ} {x_shapes : Table
      (Slots Bytes)} {x_txqs : Table TxQ} {x_txports : Table TxPort} {x_partQs : Table PartQ} {x_meters : Table Meter} {x_qps :
      Table Qp} {x_mrs : Table Mr} {x_subPorts : Table SubPort} {x_qwpAdmitted : Nat} {x_spires : Table SpireSt} {x_groves : Table
      Grove} {x_drr : Table Nat} {x_exts : Table Ext} {x_roots : Table RootEntry} {x_banks : Table CanopyBank} {x_promoAt : Nat} {x_ctxs : Table
      Ctx} {x_rules : Table (Slots RuleSet)} {x_scopes : Table CodecScope} {x_accesses : Nat} {x_classHints : Table (Nat × Bool)}
      {x_promos : List Nat} {x_retiredSlots : List Nat} {x_flash : Flash} {x_pds : Table Pd} {x_badRecs : List (Nat × Nat)}
      {x_pool : Pool} {x_ring : Ring} {x_beats : Table Beat} {x_scheds : Table Sched} {x_insts : Table Inst} {x_instSeq : Nat}
      {x_jobs : Table Job} {x_jobSeq : Nat} {x_arrays : Table LArray} {x_tabCache : Table (List Nat)} {x_ras : Ras} {x_cupola :
      Cupola} {x_boot : Boot}
    (h : Keeps s0 s) :
        Keeps s0 (State.mk x_time x_hb6 s.regs x_latches x_mgmtSel s.mem x_memPoison x_memFail x_freeCtr x_out x_reqs x_reqSeq
      x_failed x_cqs x_sqs x_vfEnable x_numVfs x_devPending x_partPending x_intN x_mbxNs x_mbxSec x_parts x_chms x_leaves
      x_nextCid x_holds x_seqs x_shapes x_txqs x_txports x_partQs x_meters x_qps x_mrs x_subPorts x_qwpAdmitted x_spires x_groves
      x_drr x_exts x_roots x_banks x_promoAt x_ctxs x_rules x_scopes x_accesses x_classHints x_promos x_retiredSlots x_flash x_pds x_badRecs
      s.fleet x_pool x_ring x_beats x_scheds x_insts x_instSeq x_jobs x_jobSeq x_arrays x_tabCache x_ras s.sec x_cupola x_boot
      s.pending) :=
  h.of rfl rfl rfl rfl rfl rfl

/-- A record update of the security state that leaves the operator root and the sub-port keys. -/
theorem updSec {x_time : Nat} {x_hb6 : Bool} {x_latches : Table Nat} {x_mgmtSel : Table Nat} {x_memPoison : List Nat} {x_memFail :
      List (Nat × Nat)} {x_freeCtr : Nat} {x_out : List Out} {x_reqs : Table Req} {x_reqSeq : Nat} {x_failed : List ((Nat × Nat ×
      Nat) × Dom)} {x_cqs : Table CqSt} {x_sqs : Table SqSt} {x_vfEnable : Bool} {x_numVfs : Nat} {x_devPending : Bool}
      {x_partPending : List Nat} {x_intN : Bool} {x_mbxNs : Table Mailbox} {x_mbxSec : Table Mailbox} {x_parts : Table Part}
      {x_chms : Table Chm} {x_leaves : Table Leaf} {x_nextCid : Nat} {x_holds : List Hold} {x_seqs : Table Sequ} {x_shapes : Table
      (Slots Bytes)} {x_txqs : Table TxQ} {x_txports : Table TxPort} {x_partQs : Table PartQ} {x_meters : Table Meter} {x_qps :
      Table Qp} {x_mrs : Table Mr} {x_subPorts : Table SubPort} {x_qwpAdmitted : Nat} {x_spires : Table SpireSt} {x_groves : Table
      Grove} {x_drr : Table Nat} {x_exts : Table Ext} {x_roots : Table RootEntry} {x_banks : Table CanopyBank} {x_promoAt : Nat} {x_ctxs : Table
      Ctx} {x_rules : Table (Slots RuleSet)} {x_scopes : Table CodecScope} {x_accesses : Nat} {x_classHints : Table (Nat × Bool)}
      {x_promos : List Nat} {x_retiredSlots : List Nat} {x_flash : Flash} {x_pds : Table Pd} {x_badRecs : List (Nat × Nat)}
      {x_pool : Pool} {x_ring : Ring} {x_beats : Table Beat} {x_scheds : Table Sched} {x_insts : Table Inst} {x_instSeq : Nat}
      {x_jobs : Table Job} {x_jobSeq : Nat} {x_arrays : Table LArray} {x_tabCache : Table (List Nat)} {x_ras : Ras} {x_sec : Sec}
      {x_cupola : Cupola} {x_boot : Boot}
    (h : Keeps s0 s) (ho : x_sec.root = s.sec.root) (hc : x_sec.caks = s.sec.caks) :
        Keeps s0 (State.mk x_time x_hb6 s.regs x_latches x_mgmtSel s.mem x_memPoison x_memFail x_freeCtr x_out x_reqs x_reqSeq
      x_failed x_cqs x_sqs x_vfEnable x_numVfs x_devPending x_partPending x_intN x_mbxNs x_mbxSec x_parts x_chms x_leaves
      x_nextCid x_holds x_seqs x_shapes x_txqs x_txports x_partQs x_meters x_qps x_mrs x_subPorts x_qwpAdmitted x_spires x_groves
      x_drr x_exts x_roots x_banks x_promoAt x_ctxs x_rules x_scopes x_accesses x_classHints x_promos x_retiredSlots x_flash x_pds x_badRecs
      s.fleet x_pool x_ring x_beats x_scheds x_insts x_instSeq x_jobs x_jobSeq x_arrays x_tabCache x_ras x_sec x_cupola x_boot
      s.pending) :=
  h.of rfl rfl rfl rfl ho hc

/-- A state that differs in registers as well. -/
theorem updRegs (h : Keeps s0 s) (hp : t.pending = s.pending) (hm : t.mem = s.mem) (hf : t.fleet = s.fleet)
    (ho : t.sec.root = s.sec.root) (hc : t.sec.caks = s.sec.caks)
    (hr : Table.sorted s.regs = true → Table.sorted t.regs = true) : Keeps s0 t :=
  ⟨hp.trans h.pending, fun i => by
    have ⟨a, b, c⟩ := h.inv i
    refine ⟨hm ▸ a, hr b, ?_⟩
    unfold State.secretsOwned at *
    rw [ho, hf, hc]
    exact c⟩

/-- A state that differs in memory as well. -/
theorem updMem (h : Keeps s0 s) (hp : t.pending = s.pending) (hr : t.regs = s.regs) (hf : t.fleet = s.fleet)
    (ho : t.sec.root = s.sec.root) (hc : t.sec.caks = s.sec.caks)
    (hm : Memory.wf s.mem = true → Memory.wf t.mem = true) : Keeps s0 t :=
  ⟨hp.trans h.pending, fun i => by
    have ⟨a, b, c⟩ := h.inv i
    refine ⟨hm a, hr ▸ b, ?_⟩
    unfold State.secretsOwned at *
    rw [ho, hf, hc]
    exact c⟩

/-- A record update that also drops registers. -/
theorem dropRegs {x_time : Nat} {x_hb6 : Bool} {x_latches : Table Nat} {x_mgmtSel : Table Nat} {x_memPoison : List Nat} {x_memFail :
      List (Nat × Nat)} {x_freeCtr : Nat} {x_out : List Out} {x_reqs : Table Req} {x_reqSeq : Nat} {x_failed : List ((Nat × Nat ×
      Nat) × Dom)} {x_cqs : Table CqSt} {x_sqs : Table SqSt} {x_vfEnable : Bool} {x_numVfs : Nat} {x_devPending : Bool}
      {x_partPending : List Nat} {x_intN : Bool} {x_mbxNs : Table Mailbox} {x_mbxSec : Table Mailbox} {x_parts : Table Part}
      {x_chms : Table Chm} {x_leaves : Table Leaf} {x_nextCid : Nat} {x_holds : List Hold} {x_seqs : Table Sequ} {x_shapes : Table
      (Slots Bytes)} {x_txqs : Table TxQ} {x_txports : Table TxPort} {x_partQs : Table PartQ} {x_meters : Table Meter} {x_qps :
      Table Qp} {x_mrs : Table Mr} {x_subPorts : Table SubPort} {x_qwpAdmitted : Nat} {x_spires : Table SpireSt} {x_groves : Table
      Grove} {x_drr : Table Nat} {x_exts : Table Ext} {x_roots : Table RootEntry} {x_banks : Table CanopyBank} {x_promoAt : Nat} {x_ctxs : Table
      Ctx} {x_rules : Table (Slots RuleSet)} {x_scopes : Table CodecScope} {x_accesses : Nat} {x_classHints : Table (Nat × Bool)}
      {x_promos : List Nat} {x_retiredSlots : List Nat} {x_flash : Flash} {x_pds : Table Pd} {x_badRecs : List (Nat × Nat)}
      {x_pool : Pool} {x_ring : Ring} {x_beats : Table Beat} {x_scheds : Table Sched} {x_insts : Table Inst} {x_instSeq : Nat}
      {x_jobs : Table Job} {x_jobSeq : Nat} {x_arrays : Table LArray} {x_tabCache : Table (List Nat)} {x_ras : Ras} {pr : Nat × Word → Bool}
      {x_cupola : Cupola} {x_boot : Boot}
    (h : Keeps s0 s) :
        Keeps s0 (State.mk x_time x_hb6 (s.regs.filter pr) x_latches x_mgmtSel s.mem x_memPoison x_memFail x_freeCtr x_out x_reqs x_reqSeq
      x_failed x_cqs x_sqs x_vfEnable x_numVfs x_devPending x_partPending x_intN x_mbxNs x_mbxSec x_parts x_chms x_leaves
      x_nextCid x_holds x_seqs x_shapes x_txqs x_txports x_partQs x_meters x_qps x_mrs x_subPorts x_qwpAdmitted x_spires x_groves
      x_drr x_exts x_roots x_banks x_promoAt x_ctxs x_rules x_scopes x_accesses x_classHints x_promos x_retiredSlots x_flash x_pds x_badRecs
      s.fleet x_pool x_ring x_beats x_scheds x_insts x_instSeq x_jobs x_jobSeq x_arrays x_tabCache x_ras s.sec x_cupola x_boot
      s.pending) :=
  h.updRegs rfl rfl rfl rfl rfl (Table.filter_sorted _)

/-- A record update that also drops cells of memory. -/
theorem dropMem {x_time : Nat} {x_hb6 : Bool} {x_latches : Table Nat} {x_mgmtSel : Table Nat} {x_memPoison : List Nat} {x_memFail :
      List (Nat × Nat)} {x_freeCtr : Nat} {x_out : List Out} {x_reqs : Table Req} {x_reqSeq : Nat} {x_failed : List ((Nat × Nat ×
      Nat) × Dom)} {x_cqs : Table CqSt} {x_sqs : Table SqSt} {x_vfEnable : Bool} {x_numVfs : Nat} {x_devPending : Bool}
      {x_partPending : List Nat} {x_intN : Bool} {x_mbxNs : Table Mailbox} {x_mbxSec : Table Mailbox} {x_parts : Table Part}
      {x_chms : Table Chm} {x_leaves : Table Leaf} {x_nextCid : Nat} {x_holds : List Hold} {x_seqs : Table Sequ} {x_shapes : Table
      (Slots Bytes)} {x_txqs : Table TxQ} {x_txports : Table TxPort} {x_partQs : Table PartQ} {x_meters : Table Meter} {x_qps :
      Table Qp} {x_mrs : Table Mr} {x_subPorts : Table SubPort} {x_qwpAdmitted : Nat} {x_spires : Table SpireSt} {x_groves : Table
      Grove} {x_drr : Table Nat} {x_exts : Table Ext} {x_roots : Table RootEntry} {x_banks : Table CanopyBank} {x_promoAt : Nat} {x_ctxs : Table
      Ctx} {x_rules : Table (Slots RuleSet)} {x_scopes : Table CodecScope} {x_accesses : Nat} {x_classHints : Table (Nat × Bool)}
      {x_promos : List Nat} {x_retiredSlots : List Nat} {x_flash : Flash} {x_pds : Table Pd} {x_badRecs : List (Nat × Nat)}
      {x_pool : Pool} {x_ring : Ring} {x_beats : Table Beat} {x_scheds : Table Sched} {x_insts : Table Inst} {x_instSeq : Nat}
      {x_jobs : Table Job} {x_jobSeq : Nat} {x_arrays : Table LArray} {x_tabCache : Table (List Nat)} {x_ras : Ras} {pm : Host.Cell → Bool}
      {x_cupola : Cupola} {x_boot : Boot}
    (h : Keeps s0 s) :
        Keeps s0 (State.mk x_time x_hb6 s.regs x_latches x_mgmtSel (s.mem.filter pm) x_memPoison x_memFail x_freeCtr x_out x_reqs x_reqSeq
      x_failed x_cqs x_sqs x_vfEnable x_numVfs x_devPending x_partPending x_intN x_mbxNs x_mbxSec x_parts x_chms x_leaves
      x_nextCid x_holds x_seqs x_shapes x_txqs x_txports x_partQs x_meters x_qps x_mrs x_subPorts x_qwpAdmitted x_spires x_groves
      x_drr x_exts x_roots x_banks x_promoAt x_ctxs x_rules x_scopes x_accesses x_classHints x_promos x_retiredSlots x_flash x_pds x_badRecs
      s.fleet x_pool x_ring x_beats x_scheds x_insts x_instSeq x_jobs x_jobSeq x_arrays x_tabCache x_ras s.sec x_cupola x_boot
      s.pending) :=
  h.updMem rfl rfl rfl rfl rfl (Memory.wf_filter _)

theorem ite {c : Prop} [Decidable c] (h : Keeps s0 s) (h' : Keeps s0 t) : Keeps s0 (if c then s else t) := by
  split <;> assumption

theorem snd {α : Type} {p : α × State} {a : α} (h : Keeps s0 p.2) (e : p = (a, s)) : Keeps s0 s := by
  rw [e] at h
  exact h

theorem thd {α β : Type} {p : α × β × State} {a : α} {b : β} (h : Keeps s0 p.2.2) (e : p = (a, b, s)) : Keeps s0 s := by
  rw [e] at h
  exact h

theorem fth {α β γ : Type} {p : α × β × γ × State} {a : α} {b : β} {c : γ} (h : Keeps s0 p.2.2.2) (e : p = (a, b, c, s)) : Keeps s0 s := by
  rw [e] at h
  exact h

theorem ite2 {α : Type} {c : Prop} [Decidable c] {p q : α × State} (h : Keeps s0 p.2) (h' : Keeps s0 q.2) :
    Keeps s0 (if c then p else q).2 := by
  split <;> assumption

theorem ite3 {α β : Type} {c : Prop} [Decidable c] {p q : α × β × State} (h : Keeps s0 p.2.2) (h' : Keeps s0 q.2.2) :
    Keeps s0 (if c then p else q).2.2 := by
  split <;> assumption

theorem foldl {α : Type} {f : State → α → State} (xs : List α) (hf : ∀ s a, Keeps s0 s → Keeps s0 (f s a)) (h : Keeps s0 s) :
    Keeps s0 (xs.foldl f s) := by
  induction xs generalizing s with
  | nil => exact h
  | cons a xs ih => exact ih (hf _ _ h)

theorem foldl2 {α β : Type} {f : β × State → α → β × State} (xs : List α) (hf : ∀ s a, Keeps s0 s.2 → Keeps s0 (f s a).2) {p : β × State}
    (h : Keeps s0 p.2) : Keeps s0 (xs.foldl f p).2 := by
  induction xs generalizing p with
  | nil => exact h
  | cons a xs ih => exact ih (hf _ _ h)

end Keeps

/-- What an operation that may answer no state keeps. -/
def KeepsO (s0 : State) : Option State → Prop
  | some t => Keeps s0 t
  | none => True

/-- What an operation that may answer nothing keeps, where it answers something with a state. -/
def KeepsO2 {α : Type} (s0 : State) : Option (α × State) → Prop
  | some p => Keeps s0 p.2
  | none => True

namespace KeepsO

variable {s0 t : State} {o o' : Option State}

theorem some (h : Keeps s0 t) : KeepsO s0 (Option.some t) := h
theorem none : KeepsO s0 Option.none := True.intro
theorem get (h : KeepsO s0 o) (e : o = Option.some t) : Keeps s0 t := by rw [e] at h; exact h
theorem ite {c : Prop} [Decidable c] (h : KeepsO s0 o) (h' : KeepsO s0 o') : KeepsO s0 (if c then o else o') := by
  split <;> assumption

theorem getD (h : KeepsO s0 o) (h' : Keeps s0 t) : Keeps s0 (o.getD t) := by
  cases o <;> assumption

theorem map {f : State → State} (h : KeepsO s0 o) (hf : ∀ s, Keeps s0 s → Keeps s0 (f s)) : KeepsO s0 (o.map f) := by
  cases o with
  | none => trivial
  | some t => exact hf _ h

theorem findSome {α : Type} {f : α → Option State} (xs : List α) (h : ∀ a, KeepsO s0 (f a)) : KeepsO s0 (xs.findSome? f) := by
  induction xs with
  | nil => exact none
  | cons a xs ih =>
    rw [List.findSome?_cons]
    split
    · rename_i b e; exact e ▸ h a
    · exact ih

end KeepsO

namespace KeepsO2

variable {s0 t : State} {α : Type} {o o' : Option (α × State)}

theorem some {a : α} (h : Keeps s0 t) : KeepsO2 s0 (Option.some (a, t)) := h
theorem none : KeepsO2 s0 (Option.none : Option (α × State)) := True.intro
theorem get {a : α} (h : KeepsO2 s0 o) (e : o = Option.some (a, t)) : Keeps s0 t := by rw [e] at h; exact h
theorem get2 {p : α × State} (h : KeepsO2 s0 o) (e : o = Option.some p) : Keeps s0 p.2 := by rw [e] at h; exact h
theorem ite {c : Prop} [Decidable c] (h : KeepsO2 s0 o) (h' : KeepsO2 s0 o') : KeepsO2 s0 (if c then o else o') := by
  split <;> assumption

theorem findSome {β : Type} {f : β → Option (α × State)} (xs : List β) (h : ∀ a, KeepsO2 s0 (f a)) : KeepsO2 s0 (xs.findSome? f) := by
  induction xs with
  | nil => exact none
  | cons a xs ih =>
    rw [List.findSome?_cons]
    split
    · rename_i b e; exact e ▸ h a
    · exact ih

end KeepsO2

/-! ### The register file and memory -/

variable {s0 s : State}

theorem put_keeps (f : Fld) (v i j : Nat) (h : Keeps s0 s) : Keeps s0 (s.put f v i j) :=
  h.updRegs rfl rfl rfl rfl rfl (Table.set_sorted _ _)

theorem putWord_keeps (off v : Nat) (h : Keeps s0 s) : Keeps s0 (s.putWord off v) :=
  h.updRegs rfl rfl rfl rfl rfl (Table.set_sorted _ _)

theorem bump_keeps (f : Fld) (n i j : Nat) (h : Keeps s0 s) : Keeps s0 (s.bump f n i j) := put_keeps _ _ _ _ h

theorem free_keeps (h : Keeps s0 s) : Keeps s0 s.free.2 := h.of rfl rfl rfl rfl rfl rfl

theorem freeBytes_keeps (n : Nat) (h : Keeps s0 s) : Keeps s0 (s.freeBytes n).2 := h.of rfl rfl rfl rfl rfl rfl

theorem send_keeps (o : Out) (h : Keeps s0 s) : Keeps s0 (s.send o) := h.of rfl rfl rfl rfl rfl rfl

theorem busWrite_keeps (a : Nat) (bs : Bytes) (h : Keeps s0 s) : Keeps s0 (s.busWrite a bs) := by
  unfold State.busWrite
  split
  · exact h
  · exact h.updMem rfl rfl rfl rfl rfl (Memory.writeBytes_wf _ _)

theorem poisonRange_keeps (a n : Nat) (h : Keeps s0 s) : Keeps s0 (s.poisonRange a n) := by
  unfold State.poisonRange
  split
  · exact h
  · exact h.of rfl rfl rfl rfl rfl rfl

theorem outside_wf (ws : List (Nat × Bytes)) {m : Memory} (h : Memory.wf m = true) :
    Memory.wf (ws.foldl (fun m w => Memory.writeBytes m w.1 w.2) m) = true := by
  induction ws generalizing m with
  | nil => exact h
  | cons w ws ih => exact ih (Memory.writeBytes_wf _ _ h)

theorem enter_keeps (e : Env) (h : Keeps s0 s) : Keeps s0 (s.enter e) :=
  h.updMem rfl rfl rfl rfl rfl (outside_wf e.mem)

end Sys2Proof.Machine
end

