-- ==== Sys2Proof/Laws/KeepsBase.lean ====
section
/-! SUPPORT. What is kept by the interrupt causes, operand forms and the common operations: the queue and the invariant. -/

namespace Sys2Proof.Machine

open Sys2Proof

theorem refreshDev_keeps {s0 s : State} (hk : Keeps s0 s) :
    Keeps s0 (State.refreshDev s) := by
  unfold State.refreshDev
  repeat with_reducible first | assumption | apply send_keeps | apply Keeps.ite | apply Keeps.upd

theorem refreshPart_keeps (p : Nat) {s0 s : State} (hk : Keeps s0 s) :
    Keeps s0 (State.refreshPart s p) := by
  unfold State.refreshPart
  repeat with_reducible first | assumption | apply send_keeps | apply Keeps.ite | split | apply Keeps.upd

theorem raise_keeps (g : Nat) (b : Nat) {s0 s : State} (hk : Keeps s0 s) :
    Keeps s0 (State.raise s g b) := by
  unfold State.raise
  repeat with_reducible first | assumption | apply put_keeps | apply refreshDev_keeps

theorem raisePState_keeps (p : Nat) {s0 s : State} (hk : Keeps s0 s) :
    Keeps s0 (State.raisePState s p) := by
  unfold State.raisePState
  repeat with_reducible first | assumption | apply put_keeps | apply refreshDev_keeps | apply refreshPart_keeps

theorem raisePoison_keeps (p : Nat) {s0 s : State} (hk : Keeps s0 s) :
    Keeps s0 (State.raisePoison s p) := by
  unfold State.raisePoison
  repeat with_reducible first | assumption | apply put_keeps | apply refreshDev_keeps | apply refreshPart_keeps

theorem raiseCq_keeps (c : Nat) {s0 s : State} (hk : Keeps s0 s) :
    Keeps s0 (State.raiseCq s c) := by
  unfold State.raiseCq
  repeat with_reducible first
    | assumption | apply put_keeps | apply refreshDev_keeps | apply refreshPart_keeps | apply Keeps.ite

theorem recordEvent_keeps (valid : Fld) (overflow : Fld) (fields : List (Fld × Nat)) {s0 s : State} (hk : Keeps s0 s) :
    Keeps s0 (State.recordEvent s valid overflow fields) := by
  unfold State.recordEvent
  repeat with_reducible first | assumption | apply put_keeps | apply Keeps.ite | refine Keeps.foldl _ (fun _ _ _ => ?_) ?_

theorem badAccess_keeps (fn : Nat) (bar : Nat) (off : Nat) (write : Bool) {s0 s : State} (hk : Keeps s0 s) :
    Keeps s0 (State.badAccess s fn bar off write) := by
  unfold State.badAccess
  repeat with_reducible first | assumption | apply recordEvent_keeps

theorem security_keeps (cause : Nat) (part : Nat) {s0 s : State} (hk : Keeps s0 s) :
    Keeps s0 (State.security s cause part) := by
  unfold State.security
  repeat with_reducible first | assumption | apply raise_keeps | apply recordEvent_keeps

theorem setPState_keeps (p : Nat) (v : Nat) {s0 s : State} (hk : Keeps s0 s) :
    Keeps s0 (State.setPState s p v) := by
  unfold State.setPState
  repeat with_reducible first | assumption | apply put_keeps | apply raisePState_keeps

theorem setReq_keeps (rid : Nat) (r : Req) {s0 s : State} (hk : Keeps s0 s) :
    Keeps s0 (State.setReq s rid r) := by
  unfold State.setReq
  repeat with_reducible first | assumption | apply Keeps.upd

theorem wait_keeps (rid : Nat) (w : Wait) {s0 s : State} (hk : Keeps s0 s) :
    Keeps s0 (State.wait s rid w) := by
  unfold State.wait
  repeat with_reducible first | assumption | apply Keeps.upd

theorem enqueue_keeps (port : Nat) (queue : Nat) (f : Frame) {s0 s : State} (hk : Keeps s0 s) :
    Keeps s0 (State.enqueue s port queue f) := by
  unfold State.enqueue
  repeat with_reducible first
    | assumption | (extract_lets +onlyGivenNames xx; revert xx; intro x; clear_value x) | apply Keeps.upd

theorem hostFrame_keeps (p : Nat) (len : Nat) {s0 s : State} (hk : Keeps s0 s) :
    Keeps s0 (State.hostFrame s p len) := by
  unfold State.hostFrame
  repeat with_reducible first
    | assumption | apply enqueue_keeps | (extract_lets +onlyGivenNames xx; revert xx; intro x; clear_value x) | apply Keeps.upd

theorem qpSend_keeps (qp : Nat) (kind : Nat) (rid : Nat) (len : Nat) (what : Nat → Out) (slot : Bool) {s0 s : State} (hk : Keeps s0 s) :
    Keeps s0 (State.qpSend s qp kind rid len what slot) := by
  unfold State.qpSend
  repeat with_reducible first
    | assumption | apply enqueue_keeps | apply free_keeps | apply Keeps.ite | apply Keeps.ite2 | split | apply Keeps.upd

theorem qpControl_keeps (qp : Nat) (kind : Nat) (psn : Nat) (code : Nat) {s0 s : State} (hk : Keeps s0 s) :
    Keeps s0 (State.qpControl s qp kind psn code) := by
  unfold State.qpControl
  repeat with_reducible first | assumption | apply enqueue_keeps

theorem signalCq_keeps (c : Nat) {s0 s : State} (hk : Keeps s0 s) :
    Keeps s0 (State.signalCq s c) := by
  unfold State.signalCq
  repeat with_reducible first
    | assumption | apply raiseCq_keeps | apply hostFrame_keeps | apply send_keeps | apply Keeps.ite
    | (extract_lets +onlyGivenNames xx; revert xx; intro x; clear_value x) | apply Keeps.upd

theorem moderate_keeps (c : Nat) (notify : Bool) {s0 s : State} (hk : Keeps s0 s) :
    Keeps s0 (State.moderate s c notify) := by
  unfold State.moderate
  repeat with_reducible first | assumption | apply signalCq_keeps | apply Keeps.ite | split | apply Keeps.upd

theorem cqReserve_keeps (c : Nat) {s0 s : State} (hk : Keeps s0 s) :
    Keeps s0 (State.cqReserve s c) := by
  unfold State.cqReserve
  repeat with_reducible first
    | assumption | (extract_lets +onlyGivenNames xx; revert xx; intro x; clear_value x) | apply Keeps.upd

theorem cqUnreserve_keeps (c : Nat) {s0 s : State} (hk : Keeps s0 s) :
    Keeps s0 (State.cqUnreserve s c) := by
  unfold State.cqUnreserve
  repeat with_reducible first
    | assumption | (extract_lets +onlyGivenNames xx; revert xx; intro x; clear_value x) | apply Keeps.upd

theorem postCq_keeps (c : Nat) (notify : Bool) (entry : Nat → Bytes) {s0 s : State} (hk : Keeps s0 s) :
    Keeps s0 (State.postCq s c notify entry) := by
  unfold State.postCq
  repeat with_reducible first
    | assumption | apply busWrite_keeps | apply cqUnreserve_keeps | apply hostFrame_keeps | apply moderate_keeps
    | apply put_keeps | apply Keeps.ite | (extract_lets +onlyGivenNames xx; revert xx; intro x; clear_value x) | split
    | apply Keeps.upd

theorem postRing_keeps (q : Nat) (r : Req) (st : Status) (c : Cpl) {s0 s : State} (hk : Keeps s0 s) :
    Keeps s0 (State.postRing s q r st c) := by
  unfold State.postRing
  repeat with_reducible first | assumption | apply postCq_keeps | apply put_keeps

theorem freeSlots_keeps (qp : Nat) (n : Nat) {s0 s : State} (hk : Keeps s0 s) :
    Keeps s0 (State.freeSlots s qp n) := by
  unfold State.freeSlots
  repeat with_reducible first | assumption | apply Keeps.upd

theorem deviceFrame_keeps (len : Nat) {s0 s : State} (hk : Keeps s0 s) :
    Keeps s0 (State.deviceFrame s len) := enqueue_keeps _ _ _ hk

theorem postQwp_keeps (rid : Nat) (qp : Nat) (r : Req) (st : Status) (c : Cpl) {s0 s : State} (hk : Keeps s0 s) :
    Keeps s0 (State.postQwp s rid qp r st c) := by
  unfold State.postQwp
  repeat with_reducible first | assumption | apply qpSend_keeps | apply freeSlots_keeps | apply Keeps.ite | apply Keeps.upd

theorem ringSend_keeps (dst : Nat) (kind : Nat) (num : Nat) (part : Nat) (body : List Nat) (len : Nat) {s0 s : State} (hk : Keeps s0 s) :
    Keeps s0 (State.ringSend s dst kind num part body len) := by
  unfold State.ringSend
  repeat with_reducible first
    | assumption | apply enqueue_keeps | apply Keeps.ite | (extract_lets +onlyGivenNames xx; revert xx; intro x; clear_value x)
    | split | apply Keeps.upd

theorem ringCast_keeps (kind : Nat) (num : Nat) (body : List Nat) (len : Nat) {s0 s : State} (hk : Keeps s0 s) :
    Keeps s0 (State.ringCast s kind num body len) := by
  unfold State.ringCast
  repeat with_reducible first | assumption | apply enqueue_keeps | refine Keeps.foldl _ (fun _ _ _ => ?_) ?_

theorem countDone_keeps (opcode : Nat) (st : Status) {s0 s : State} (hk : Keeps s0 s) :
    Keeps s0 (State.countDone s opcode st) := by
  unfold State.countDone
  repeat with_reducible first | assumption | apply bump_keeps | apply Keeps.ite

theorem complete_keeps (rid : Nat) (st : Status) (c : Cpl) {s0 s : State} (hk : Keeps s0 s) :
    Keeps s0 (State.complete s rid st c) := by
  unfold State.complete
  repeat with_reducible first
    | assumption | apply bump_keeps | apply countDone_keeps | apply postQwp_keeps | apply postRing_keeps
    | apply raisePoison_keeps | apply ringSend_keeps | apply Keeps.ite
    | (extract_lets +onlyGivenNames xx; revert xx; intro x; refine (fun hx => ?_) (?_ : Keeps s0 x); clear_value x) | split
    | apply Keeps.upd

theorem bad_keeps (rid : Nat) (off : Nat) {s0 s : State} (hk : Keeps s0 s) :
    Keeps s0 (State.bad s rid off) := by
  unfold State.bad
  repeat with_reducible first | assumption | apply complete_keeps

theorem rdmaAsync_keeps (qp : Nat) (cause : Nat) {s0 s : State} (hk : Keeps s0 s) :
    Keeps s0 (State.rdmaAsync s qp cause) := by
  unfold State.rdmaAsync
  repeat with_reducible first | assumption | apply raise_keeps | apply recordEvent_keeps

theorem qpStop_keeps (qp : Nat) (cause : Nat) {s0 s : State} (hk : Keeps s0 s) :
    Keeps s0 (State.qpStop s qp cause) := by
  unfold State.qpStop
  repeat with_reducible first
    | assumption | apply complete_keeps | apply rdmaAsync_keeps | refine Keeps.foldl _ (fun _ _ _ => ?_) ?_ | apply Keeps.upd

theorem noteTag_keeps (r : Req) (st : Status) {s0 s : State} (hk : Keeps s0 s) :
    Keeps s0 (State.noteTag s r st) := by
  unfold State.noteTag
  repeat with_reducible first | assumption | apply bump_keeps | apply security_keeps | apply Keeps.ite

theorem failRead_keeps (rid : Nat) (st : Status) {s0 s : State} (hk : Keeps s0 s) :
    Keeps s0 (State.failRead s rid st) := by
  unfold State.failRead
  repeat with_reducible first
    | assumption | apply complete_keeps | apply noteTag_keeps | apply qpStop_keeps | apply Keeps.ite | split

theorem rdmaSend_keeps (qp : Nat) (rid : Nat) (rkey : Nat) (addr : Nat) (bs : Bytes) {s0 s : State} (hk : Keeps s0 s) :
    Keeps s0 (State.rdmaSend s qp rid rkey addr bs) := by
  unfold State.rdmaSend
  repeat with_reducible first | assumption | apply qpSend_keeps | refine Keeps.foldl _ (fun _ _ _ => ?_) ?_

theorem bufWrite_keeps (r : Req) (role : Nat) (addr : Nat) (bs : Bytes) (lines : List Nat) (rid : Nat) {s0 s : State} (hk : Keeps s0 s) :
    Keeps s0 (State.bufWrite s r role addr bs lines rid) := by
  unfold State.bufWrite
  repeat with_reducible first
    | assumption | apply busWrite_keeps | apply hostFrame_keeps | apply poisonRange_keeps | apply rdmaSend_keeps
    | apply ringSend_keeps | apply Keeps.ite | refine Keeps.foldl _ (fun _ _ _ => ?_) ?_
    | (extract_lets +onlyGivenNames xx; revert xx; intro x; refine (fun hx => ?_) (?_ : Keeps s0 x); clear_value x)
    | (extract_lets +onlyGivenNames xx; revert xx; intro x; clear_value x) | split

end Sys2Proof.Machine
end

