-- ==== Sys2Proof/Laws/KeepsStore.lean ====
section
/-! SUPPORT. What is kept by the store, the media and the prefix search: the queue and the invariant. -/

namespace Sys2Proof.Machine

open Sys2Proof

theorem pick_keeps (used : Nat → Bool) (bound : Nat) {s0 s : State} (hk : Keeps s0 s) :
    Keeps s0 (State.pick s used bound).2 := by
  unfold State.pick
  repeat with_reducible first | assumption | apply free_keeps

theorem setLeaf_keeps (i : Nat) (l : Leaf) {s0 s : State} (hk : Keeps s0 s) :
    Keeps s0 (State.setLeaf s i l) := by
  unfold State.setLeaf
  repeat with_reducible first | assumption | apply Keeps.upd

theorem setSeq_keeps (i : Nat) (q : Sequ) {s0 s : State} (hk : Keeps s0 s) :
    Keeps s0 (State.setSeq s i q) := by
  unfold State.setSeq
  repeat with_reducible first | assumption | apply Keeps.upd

theorem newCid_keeps {s0 s : State} (hk : Keeps s0 s) :
    Keeps s0 (State.newCid s).2 := by
  unfold State.newCid
  repeat with_reducible first | assumption | apply Keeps.upd

theorem encodeCopy_keeps (i : Nat) (l : Leaf) (h : LeafHdr) (payload : Bytes) {s0 s : State} (hk : Keeps s0 s) :
    Keeps s0 (State.encodeCopy s i l h payload).2 := by
  unfold State.encodeCopy
  repeat with_reducible first | assumption | apply bump_keeps | apply newCid_keeps | apply Keeps.ite

theorem openGroup_keeps (g : Group) {s0 s : State} (hk : Keeps s0 s) :
    Keeps s0 (State.openGroup s g).2 := by
  unfold State.openGroup
  repeat with_reducible first
    | assumption | (extract_lets +onlyGivenNames xx; revert xx; intro x; clear_value x) | apply Keeps.upd

theorem endSweep_keeps (k : Nat) {s0 s : State} (hk : Keeps s0 s) :
    Keeps s0 (State.endSweep s k) := by
  unfold State.endSweep
  repeat with_reducible first | assumption | apply raise_keeps | apply Keeps.ite | apply Keeps.upd

theorem endSweeps_keeps {s0 s : State} (hk : Keeps s0 s) : Keeps s0 (State.endSweeps s) :=
  Keeps.foldl _ (fun _ _ h => endSweep_keeps _ h) hk

theorem settleLeaf_keeps (i : Nat) {s0 s : State} (hk : Keeps s0 s) :
    Keeps s0 (State.settleLeaf s i) := by
  unfold State.settleLeaf
  repeat with_reducible first | assumption | apply openGroup_keeps | apply setLeaf_keeps | apply Keeps.ite

theorem settle_keeps (i : Nat) {s0 s : State} (hk : Keeps s0 s) : Keeps s0 (State.settle s i) :=
  endSweeps_keeps (settleLeaf_keeps i hk)

theorem endWaiters_keeps (i : Nat) (st : Status) {s0 s : State} (hk : Keeps s0 s) :
    Keeps s0 (State.endWaiters s i st) := by
  unfold State.endWaiters
  repeat with_reducible first
    | assumption | apply complete_keeps | refine Keeps.foldl _ (fun _ _ _ => ?_) ?_
    | (extract_lets +onlyGivenNames xx; revert xx; intro x; clear_value x) | apply Keeps.upd

theorem evict_keeps (i : Nat) {s0 s : State} (hk : Keeps s0 s) :
    Keeps s0 (State.evict s i) := by
  unfold State.evict
  repeat with_reducible first | assumption | apply endWaiters_keeps | apply setLeaf_keeps | apply settle_keeps | apply Keeps.ite

theorem poisonLeaf_keeps (i : Nat) {s0 s : State} (hk : Keeps s0 s) :
    Keeps s0 (State.poisonLeaf s i) := by
  unfold State.poisonLeaf
  repeat with_reducible first | assumption | apply endWaiters_keeps | apply setLeaf_keeps | apply settle_keeps | apply Keeps.ite

theorem dropRef_keeps (i : Nat) {s0 s : State} (hk : Keeps s0 s) :
    Keeps s0 (State.dropRef s i) := by
  unfold State.dropRef
  repeat with_reducible first
    | assumption | apply evict_keeps | apply poisonLeaf_keeps | apply setLeaf_keeps | apply settle_keeps | apply Keeps.ite
    | split

theorem dropTail_keeps (q : Nat) (n : Nat) {s0 s : State} (hk : Keeps s0 s) :
    Keeps s0 (State.dropTail s q n) := by
  unfold State.dropTail
  repeat with_reducible first
    | assumption | apply dropRef_keeps | apply poisonLeaf_keeps | apply setSeq_keeps | refine Keeps.foldl _ (fun _ _ _ => ?_) ?_

theorem hold_keeps (owner : Nat) (leaf : Nat) (cid : Nat) {s0 s : State} (hk : Keeps s0 s) :
    Keeps s0 (State.hold s owner leaf cid) := by
  unfold State.hold
  repeat with_reducible first | assumption | apply Keeps.upd

theorem unhold_keeps (owner : Nat) (leaf : Nat) (cid : Nat) {s0 s : State} (hk : Keeps s0 s) :
    Keeps s0 (State.unhold s owner leaf cid) := by
  unfold State.unhold
  repeat with_reducible first | assumption | apply settle_keeps | apply Keeps.upd

theorem setBlock_keeps (k : Nat) (b : Block) {s0 s : State} (hk : Keeps s0 s) :
    Keeps s0 (State.setBlock s k b) := by
  unfold State.setBlock
  repeat with_reducible first
    | assumption | (extract_lets +onlyGivenNames xx; revert xx; intro x; clear_value x) | apply Keeps.upd

theorem addBand_keeps (k : Nat) (b : Band) {s0 s : State} (hk : Keeps s0 s) :
    Keeps s0 (State.addBand s k b) := by
  unfold State.addBand
  apply Keeps.upd hk

theorem noteBlocks_keeps (keys : List Nat) {s0 s : State} (hk : Keeps s0 s) :
    Keeps s0 (State.noteBlocks s keys) := by
  unfold State.noteBlocks
  repeat with_reducible first | assumption | apply openGroup_keeps

theorem closeBlocks_keeps (keys : List Nat) {s0 s : State} (hk : Keeps s0 s) :
    Keeps s0 (State.closeBlocks s keys) := by
  unfold State.closeBlocks
  repeat with_reducible first
    | assumption | apply noteBlocks_keeps | apply setBlock_keeps | refine Keeps.foldl _ (fun _ _ _ => ?_) ?_

theorem setBand_keeps (k : Nat) (b : Band) {s0 s : State} (hk : Keeps s0 s) :
    Keeps s0 (State.setBand s k b) := by
  unfold State.setBand
  repeat with_reducible first
    | assumption | apply closeBlocks_keeps | apply Keeps.ite | refine Keeps.snd ?_ (by assumption)
    | (extract_lets +onlyGivenNames xx; revert xx; intro x; refine (fun hx => ?_) (?_ : Keeps s0 x); clear_value x)
    | (extract_lets +onlyGivenNames xx; revert xx; intro x; clear_value x) | split | apply Keeps.upd

theorem stampBlock_keeps (key : Nat) {s0 s : State} (hk : Keeps s0 s) :
    Keeps s0 (State.stampBlock s key) := by
  unfold State.stampBlock
  repeat with_reducible first | assumption | apply setBlock_keeps | apply Keeps.ite

theorem newBand_keeps (slc : Bool) (kind : Nat) {s0 s : State} (hk : Keeps s0 s) :
    KeepsO2 s0 (State.newBand s slc kind) := by
  unfold State.newBand
  repeat with_reducible first
    | assumption | apply noteBlocks_keeps | apply addBand_keeps | apply setBlock_keeps | apply KeepsO2.ite | exact KeepsO2.none
    | apply KeepsO2.some | refine Keeps.foldl _ (fun _ _ _ => ?_) ?_
    | (extract_lets +onlyGivenNames xx; revert xx; intro x; refine (fun hx => ?_) (?_ : Keeps s0 x); clear_value x)
    | (extract_lets +onlyGivenNames xx; revert xx; intro x; clear_value x) | split

theorem closeRow_keeps (k : Nat) (row : Nat) {s0 s : State} (hk : Keeps s0 s) :
    Keeps s0 (State.closeRow s k row) := by
  unfold State.closeRow
  repeat with_reducible first
    | assumption | apply setBand_keeps | apply stampBlock_keeps
    | (extract_lets +onlyGivenNames xx; revert xx; intro x; refine (fun hx => ?_) (?_ : Keeps s0 x); clear_value x)
    | (extract_lets +onlyGivenNames xx; revert xx; intro x; clear_value x) | split | apply Keeps.upd

theorem enterMus_keeps (l : List (Nat × Mu)) {s0 s : State} (hk : Keeps s0 s) :
    Keeps s0 (State.enterMus s l) := by
  unfold State.enterMus
  refine Keeps.foldl _ (fun s x h => ?_) hk
  extract_lets s'
  have h : Keeps s0 s' := stampBlock_keeps _ h
  exact Keeps.upd h

theorem place_keeps (slc : Bool) (kind : Nat) (mus : List Mu) (avoid : List Nat) (v0 : Nat) {s0 s : State} (hk : Keeps s0 s) :
    Keeps s0 (State.place s slc kind mus avoid v0).2 := by
  induction v0 generalizing s slc kind mus avoid with
  | zero => exact hk
  | succ n ih =>
    unfold State.place
    repeat with_reducible first
      | assumption | apply ih | apply newBand_keeps | apply setBand_keeps | apply enterMus_keeps | apply Keeps.ite2
      | refine KeepsO2.get ?_ (by assumption)
      | (extract_lets +onlyGivenNames xx; revert xx; intro x; clear_value x) | split

theorem issueNand_keeps {s0 s : State} (hk : Keeps s0 s) :
    Keeps s0 (State.issueNand s) := by
  unfold State.issueNand
  repeat with_reducible first
    | assumption | apply newBand_keeps | apply setBand_keeps | apply stampBlock_keeps | apply Keeps.ite | apply Keeps.ite2
    | refine Keeps.snd ?_ (by assumption) | refine Keeps.foldl _ (fun _ _ _ => ?_) ?_ | apply KeepsO2.ite | exact KeepsO2.none
    | apply KeepsO2.some
    | (extract_lets +onlyGivenNames xx; revert xx; intro x; refine (fun hx => ?_) (?_ : Keeps s0 x); clear_value x)
    | (extract_lets +onlyGivenNames xx; revert xx; intro x; clear_value x) | split | apply Keeps.upd

theorem setGroup_keeps (gid : Nat) (f : Group → Group) {s0 s : State} (hk : Keeps s0 s) :
    Keeps s0 (State.setGroup s gid f) := by
  unfold State.setGroup
  repeat with_reducible first
    | assumption | (extract_lets +onlyGivenNames xx; revert xx; intro x; clear_value x) | apply Keeps.upd

theorem programQuarters_keeps (gid : Nat) (i : Nat) (clen : Nat) (qs : List Nat) {s0 s : State} (hk : Keeps s0 s) :
    Keeps s0 (State.programQuarters s gid i clen qs) := by
  unfold State.programQuarters
  repeat with_reducible first
    | assumption | apply issueNand_keeps | apply place_keeps | apply setGroup_keeps | apply Keeps.ite
    | refine Keeps.snd ?_ (by assumption) | (extract_lets +onlyGivenNames xx; revert xx; intro x; clear_value x) | split
    | apply Keeps.upd

theorem programLeaf_keeps (gid : Nat) (i : Nat) (rec : Leaf) (c : Copy) {s0 s : State} (hk : Keeps s0 s) :
    Keeps s0 (State.programLeaf s gid i rec c) := by
  unfold State.programLeaf
  repeat with_reducible first | assumption | apply programQuarters_keeps | apply setGroup_keeps

theorem completeJournaled_keeps (rid : Nat) (recs : List JRec) (st : Status) (c : Cpl) {s0 s : State} (hk : Keeps s0 s) :
    Keeps s0 (State.completeJournaled s rid recs st c) := by
  unfold State.completeJournaled
  repeat with_reducible first | assumption | apply complete_keeps | apply openGroup_keeps | apply wait_keeps | apply Keeps.ite

theorem writeAnchor_keeps (p : Nat) {s0 s : State} (hk : Keeps s0 s) :
    Keeps s0 (State.writeAnchor s p) := by
  unfold State.writeAnchor
  repeat with_reducible first
    | assumption | apply Keeps.ite | (extract_lets +onlyGivenNames xx; revert xx; intro (x : Sec); skip)
    | refine Keeps.updSec ?_ rfl rfl

theorem pickPool_keeps {s0 s : State} (hk : Keeps s0 s) :
    Keeps s0 (State.pickPool s).2 := by
  unfold State.pickPool
  repeat with_reducible first | assumption | apply pick_keeps

theorem freshCopy_keeps (i : Nat) (l : Leaf) (c : Copy) {s0 s : State} (hk : Keeps s0 s) :
    Keeps s0 (State.freshCopy s i l c).2 := by
  unfold State.freshCopy
  repeat with_reducible first | assumption | apply encodeCopy_keeps | apply newCid_keeps | apply Keeps.ite2

theorem shadowPlace_keeps (p : Nat) (whole : Bool) {s0 s : State} (hk : Keeps s0 s) :
    Keeps s0 (State.shadowPlace s p whole).2 := by
  unfold State.shadowPlace
  repeat with_reducible first
    | assumption | apply pick_keeps | apply Keeps.ite2
    | (extract_lets +onlyGivenNames xx; revert xx; intro (x : _ × State); subst x)
    | (extract_lets +onlyGivenNames xx; revert xx; intro x; clear_value x) | split

theorem buildShadow_keeps (i : Nat) (c : Copy) (dest : Tier) {s0 s : State} (hk : Keeps s0 s) :
    Keeps s0 (State.buildShadow s i c dest) := by
  unfold State.buildShadow
  repeat with_reducible first
    | assumption | apply bump_keeps | apply newCid_keeps | apply setLeaf_keeps | apply shadowPlace_keeps | apply Keeps.ite
    | refine Keeps.snd ?_ (by assumption) | (extract_lets +onlyGivenNames xx; revert xx; intro x; clear_value x) | split
    | apply Keeps.upd

theorem switchRecord_keeps (i : Nat) (t : Tier) (loc : Nat) (new : Option Copy) {s0 s : State} (hk : Keeps s0 s) :
    Keeps s0 (State.switchRecord s i t loc new) := by
  unfold State.switchRecord
  repeat with_reducible first | assumption | apply setLeaf_keeps | apply settle_keeps

theorem checkTags_keeps (i : Nat) {s0 s : State} (hk : Keeps s0 s) :
    Keeps s0 (State.checkTags s i) := by
  unfold State.checkTags
  repeat with_reducible first | assumption | apply raise_keeps | apply Keeps.ite | (extract_lets +onlyGivenNames xx; revert xx; intro x; clear_value x)

theorem poolTake_keeps (p : Nat) (target : Nat) (n : Nat) {s0 s : State} (hk : Keeps s0 s) :
    Keeps s0 (State.poolTake s p target n) := by
  unfold State.poolTake
  repeat with_reducible first
    | assumption | (extract_lets +onlyGivenNames xx; revert xx; intro x; clear_value x) | apply Keeps.upd

theorem poolPass_keeps (p : Nat) (c : Copy) (slot : Nat) {s0 s : State} (hk : Keeps s0 s) :
    Keeps s0 (State.poolPass s p c slot) := by
  unfold State.poolPass
  repeat with_reducible first | assumption | apply poolTake_keeps | split

theorem readPass_keeps (p : Nat) (c : Copy) {s0 s : State} (hk : Keeps s0 s) :
    Keeps s0 (State.readPass s p c) := Keeps.ite (poolPass_keeps _ _ _ hk) hk

theorem moveTo_keeps (i : Nat) (t : Tier) (loc : Nat) {s0 s : State} (hk : Keeps s0 s) :
    Keeps s0 (State.moveTo s i t loc) := by
  unfold State.moveTo
  repeat with_reducible first
    | assumption | apply buildShadow_keeps | apply checkTags_keeps | apply freshCopy_keeps | apply poisonLeaf_keeps
    | apply setLeaf_keeps
    | apply switchRecord_keeps | apply readPass_keeps | apply poolPass_keeps | apply Keeps.ite | refine Keeps.snd ?_ (by assumption)
    | (extract_lets +onlyGivenNames xx; revert xx; intro x; refine (fun hx => ?_) (?_ : Keeps s0 x); clear_value x)
    | (extract_lets +onlyGivenNames xx; revert xx; intro x; clear_value x) | split

theorem writeBackNow_keeps (i : Nat) {s0 s : State} (hk : Keeps s0 s) :
    KeepsO s0 (State.writeBackNow s i) := by
  unfold State.writeBackNow
  repeat with_reducible first
    | assumption | exact KeepsO.none | apply KeepsO.some | apply KeepsO.ite | apply bump_keeps | apply place_keeps
    | apply freshCopy_keeps | apply readPass_keeps | apply setLeaf_keeps | refine Keeps.snd ?_ (by assumption)
    | (extract_lets +onlyGivenNames xx; revert xx; intro x; refine (fun hx => ?_) (?_ : Keeps s0 x); clear_value x)
    | (extract_lets +onlyGivenNames xx; revert xx; intro x; clear_value x) | split
    | apply Keeps.upd

theorem dropToDurable_keeps (i : Nat) {s0 s : State} (hk : Keeps s0 s) :
    KeepsO s0 (State.dropToDurable s i) := by
  unfold State.dropToDurable
  refine KeepsO.map (writeBackNow_keeps i hk) (fun s hk => ?_)
  repeat with_reducible first
    | assumption | apply buildShadow_keeps | apply checkTags_keeps | apply switchRecord_keeps
    | (extract_lets +onlyGivenNames xx; revert xx; intro x; refine (fun hx => ?_) (?_ : Keeps s0 x); clear_value x)
    | (extract_lets +onlyGivenNames xx; revert xx; intro x; clear_value x) | split

theorem startMove_keeps (i : Nat) (dest : Tier) (loc : Nat) {s0 s : State} (hk : Keeps s0 s) :
    Keeps s0 (State.startMove s i dest loc) := by
  unfold State.startMove
  repeat with_reducible first | assumption | apply setLeaf_keeps

theorem setExt_keeps (p : Nat) (x : Ext) {s0 s : State} (hk : Keeps s0 s) :
    Keeps s0 (State.setExt s p x) := hk.upd

theorem extFault_keeps (p : Nat) {s0 s : State} (hk : Keeps s0 s) :
    Keeps s0 (State.extFault s p) := by
  unfold State.extFault
  repeat with_reducible first | assumption | apply raise_keeps | apply setExt_keeps | apply Keeps.ite | (extract_lets +onlyGivenNames xx; revert xx; intro x; clear_value x)

theorem scratchWrites_keeps (p : Nat) (ws : List (Nat × List Nat)) {s0 s : State} (hk : Keeps s0 s) :
    Keeps s0 (State.scratchWrites s p ws).2 := by
  induction ws generalizing s with
  | nil => exact hk
  | cons w ws ih =>
    unfold State.scratchWrites
    exact Keeps.ite2 hk (ih (hostFrame_keeps _ _ (busWrite_keeps _ _ hk)))

theorem extInvoke_keeps (p : Nat) (inputs : List Nat) {s0 s : State} (hk : Keeps s0 s) :
    Keeps s0 (State.extInvoke s p inputs).2 := by
  unfold State.extInvoke
  repeat with_reducible first
    | assumption | apply extFault_keeps | apply scratchWrites_keeps | apply Keeps.ite2 | refine Keeps.snd ?_ (by assumption)
    | (extract_lets +onlyGivenNames xx; revert xx; intro x; clear_value x) | split | apply Keeps.upd

theorem rankFor_keeps (p : Nat) (cs : List Cand) {s0 s : State} (hk : Keeps s0 s) :
    Keeps s0 (State.rankFor s p cs).2 := by
  unfold State.rankFor
  repeat with_reducible first
    | assumption | apply extInvoke_keeps | refine Keeps.snd ?_ (by assumption)
    | (extract_lets +onlyGivenNames xx; revert xx; intro x; clear_value x) | split

theorem rankBatch_keeps (cs : List Cand) {s0 s : State} (hk : Keeps s0 s) :
    Keeps s0 (State.rankBatch s cs).2 := by
  unfold State.rankBatch
  refine Keeps.ite2 hk (Keeps.foldl2 _ (fun a p h => ?_) hk)
  exact Keeps.ite2 (rankFor_keeps p a.1 h) h

theorem relieveOne_keeps (c : Cand) {s0 s : State} (hk : Keeps s0 s) :
    Keeps s0 (State.relieveOne s c) := by
  unfold State.relieveOne
  repeat with_reducible first
    | assumption | apply bump_keeps | apply evict_keeps | apply startMove_keeps | apply pickPool_keeps
    | apply setLeaf_keeps | apply settle_keeps | apply Keeps.ite | refine Keeps.snd ?_ (by assumption) | split

theorem relieveBatch_keeps (t : Tier) (done : State → Bool) (isOver : State → Nat → Bool) (cs : List Cand) {s0 s : State}
    (hk : Keeps s0 s) : Keeps s0 (State.relieveBatch t done isOver cs s) := by
  induction cs generalizing s with
  | nil => exact hk
  | cons c cs ih => exact Keeps.ite hk (ih (Keeps.ite (relieveOne_keeps c hk) hk))

theorem relieve_keeps (t : Tier) (done : State → Bool) (isOver : State → Nat → Bool) (n : Nat) (tried : List (Nat × Bool)) {s0 s : State}
    (hk : Keeps s0 s) : Keeps s0 (State.relieve t done isOver n tried s) := by
  induction n generalizing s tried with
  | zero => exact hk
  | succ n ih =>
    unfold State.relieve
    split
    · exact hk
    · split
      · exact hk
      · exact ih _ (relieveBatch_keeps _ _ _ _ (rankBatch_keeps _ hk))

theorem relieveAll_keeps (t : Tier) (done : State → Bool) (isOver : State → Nat → Bool) {s0 s : State} (hk : Keeps s0 s) :
    Keeps s0 (State.relieveAll s t done isOver) := relieve_keeps _ _ _ _ _ hk

theorem allocSlot_keeps (p : Nat) (t : Tier) {s0 s : State} (hk : Keeps s0 s) :
    Keeps s0 (State.allocSlot s p t).2 := by
  unfold State.allocSlot
  repeat with_reducible first
    | assumption | apply bump_keeps | apply pick_keeps | apply pickPool_keeps | apply relieveAll_keeps
    | apply Keeps.ite | apply Keeps.ite2 | refine Keeps.snd ?_ (by assumption)
    | (extract_lets +onlyGivenNames xx; revert xx; intro x; refine (fun hx => ?_) (?_ : Keeps s0 x); clear_value x)
    | (extract_lets +onlyGivenNames xx; revert xx; intro x; clear_value x) | split

theorem access_keeps (i : Nat) {s0 s : State} (hk : Keeps s0 s) :
    Keeps s0 (State.access s i) := by
  unfold State.access
  repeat with_reducible first
    | assumption | apply setLeaf_keeps | apply Keeps.ite | (extract_lets +onlyGivenNames xx; revert xx; intro x; clear_value x)
    | apply Keeps.upd

theorem placeSealed_keeps (i : Nat) {s0 s : State} (hk : Keeps s0 s) :
    Keeps s0 (State.placeSealed s i) := by
  unfold State.placeSealed
  repeat with_reducible first
    | assumption | apply KeepsO.getD | apply dropToDurable_keeps | apply startMove_keeps | apply pickPool_keeps | apply Keeps.ite
    | refine Keeps.snd ?_ (by assumption) | split

theorem setBank_keeps (b : Nat) (k : CanopyBank) {s0 s : State} (hk : Keeps s0 s) :
    Keeps s0 (State.setBank s b k) := by
  unfold State.setBank
  repeat with_reducible first | assumption | apply put_keeps | apply Keeps.upd

theorem dropEntries_keeps (gone : CanopyEntry → Bool) {s0 s : State} (hk : Keeps s0 s) :
    Keeps s0 (State.dropEntries s gone) := by
  unfold State.dropEntries
  repeat with_reducible first | assumption | apply setBank_keeps | apply Keeps.ite | refine Keeps.foldl _ (fun _ _ _ => ?_) ?_

theorem rebuildBank_keeps (b : Nat) (es : List CanopyEntry) {s0 s : State} (hk : Keeps s0 s) :
    Keeps s0 (State.rebuildBank s b es) := by
  unfold State.rebuildBank
  repeat with_reducible first
    | assumption | apply put_keeps | apply setBank_keeps | (extract_lets +onlyGivenNames xx; revert xx; intro x; clear_value x)

theorem canopySearch_keeps (k : Key) {s0 s : State} (hk : Keeps s0 s) :
    Keeps s0 (State.canopySearch s k).2 := by
  unfold State.canopySearch State.countHits
  exact hk.upd

theorem canopyPut_keeps (bs : List Nat) (e : CanopyEntry) {s0 s : State} (hk : Keeps s0 s) :
    Keeps s0 (State.canopyPut s bs e).2 := by
  unfold State.canopyPut
  repeat with_reducible first
    | assumption | apply put_keeps | apply setBank_keeps | (extract_lets +onlyGivenNames xx; revert xx; intro x; clear_value x)
    | split

theorem canopyDrop_keeps (hash : Nat) {s0 s : State} (hk : Keeps s0 s) :
    Keeps s0 (State.canopyDrop s hash) := by
  unfold State.canopyDrop
  exact dropEntries_keeps _ hk

theorem indexMirror_keeps (op : Nat) (e : RootEntry) {s0 s : State} (hk : Keeps s0 s) :
    Keeps s0 (State.indexMirror s op e) := by
  unfold State.indexMirror
  repeat with_reducible first | assumption | apply ringSend_keeps | apply Keeps.ite | split

theorem setRoots_keeps (t : Table RootEntry) {s0 s : State} (hk : Keeps s0 s) :
    Keeps s0 (State.setRoots s t) := by
  unfold State.setRoots
  repeat with_reducible first | assumption | apply put_keeps | apply Keeps.upd

theorem repoint_keeps (e : RootEntry) (key : Nat) {s0 s : State} (hk : Keeps s0 s) : Keeps s0 (State.repoint s e key) := by
  unfold State.repoint
  exact hk.upd

theorem rootPlace_keeps (e : RootEntry) {s0 s : State} (hk : Keeps s0 s) :
    KeepsO s0 (State.rootPlace s e) := by
  unfold State.rootPlace
  repeat with_reducible first
    | assumption | apply repoint_keeps | apply setRoots_keeps | exact KeepsO.none | apply KeepsO.some
    | (extract_lets +onlyGivenNames xx; revert xx; intro x; clear_value x) | split

theorem makeRoom_keeps (bs : List Nat) (h : Nat) {s0 s : State} (hk : Keeps s0 s) : Keeps s0 (State.makeRoom s bs h) := by
  unfold State.makeRoom
  repeat with_reducible first | assumption | apply canopyDrop_keeps | apply Keeps.ite | split

theorem fillOne_keeps (w h : Nat) (x : Nat × RootEntry) {s0 s : State} (hk : Keeps s0 s) :
    Keeps s0 (State.fillOne s w h x).2 := by
  unfold State.fillOne
  repeat with_reducible first | assumption | apply canopyDrop_keeps | apply canopyPut_keeps | apply makeRoom_keeps | apply Keeps.ite

theorem fillInto_keeps (w : Nat) (h : Nat) {s0 s : State} (hk : Keeps s0 s) :
    Keeps s0 (State.fillInto s w h) := by
  unfold State.fillInto
  repeat with_reducible first
    | assumption | apply fillOne_keeps | apply Keeps.ite2 | refine Keeps.foldl2 _ (fun _ _ _ => ?_) ?_

theorem canopyFill_keeps (h : Nat) {s0 s : State} (hk : Keeps s0 s) :
    Keeps s0 (State.canopyFill s h) := by
  unfold State.canopyFill
  repeat with_reducible first | assumption | apply canopyDrop_keeps | apply fillInto_keeps | apply Keeps.ite

theorem rootRemove_keeps (key : Nat) (e : RootEntry) {s0 s : State} (hk : Keeps s0 s) :
    Keeps s0 (State.rootRemove s key e) := by
  unfold State.rootRemove
  repeat with_reducible first
    | assumption | apply dropEntries_keeps | apply indexMirror_keeps | apply setRoots_keeps

theorem insertEntry_keeps (e : RootEntry) {s0 s : State} (hk : Keeps s0 s) :
    Keeps s0 (State.insertEntry s e).2 := by
  unfold State.insertEntry
  repeat with_reducible first
    | assumption | apply bump_keeps | apply fillOne_keeps | apply indexMirror_keeps
    | apply raise_keeps | apply rootPlace_keeps | apply Keeps.ite | apply Keeps.ite2 | refine KeepsO.get ?_ (by assumption)
    | (extract_lets +onlyGivenNames xx; revert xx; intro x; clear_value x) | split

theorem removeRange_keeps (pos : Nat) (qi : Nat) (gen : Epoch) (part : Nat) (first : Nat) (v0 : Nat) {s0 s : State} (hk : Keeps s0 s) :
    Keeps s0 (State.removeRange s pos qi gen part first v0).2 := by
  induction v0 generalizing s pos qi gen part first with
  | zero =>
    unfold State.removeRange
    repeat with_reducible first | assumption | apply ih | apply rootRemove_keeps | refine Keeps.foldl _ (fun _ _ _ => ?_) ?_
  | succ n ih =>
    unfold State.removeRange
    repeat with_reducible first | assumption | apply ih | apply rootRemove_keeps | refine Keeps.foldl _ (fun _ _ _ => ?_) ?_

theorem allocCtx_keeps (c : Ctx) {s0 s : State} (hk : Keeps s0 s) :
    Keeps s0 (State.allocCtx s c).2 := by
  unfold State.allocCtx
  repeat with_reducible first
    | assumption | apply pick_keeps | apply Keeps.ite2
    | (extract_lets +onlyGivenNames xx; revert xx; intro x; refine (fun hx => ?_) (?_ : Keeps s0 x); clear_value x)
    | (extract_lets +onlyGivenNames xx; revert xx; intro (x : _ × State); subst x) | split | apply Keeps.upd

theorem dropClassEntries_keeps (p : Nat) (e : Epoch) {s0 s : State} (hk : Keeps s0 s) :
    Keeps s0 (State.dropClassEntries s p e) := by
  unfold State.dropClassEntries
  exact dropEntries_keeps _ hk

theorem releaseRules_keeps (p : Nat) {s0 s : State} (hk : Keeps s0 s) :
    Keeps s0 (State.releaseRules s p) := by
  unfold State.releaseRules
  repeat with_reducible first
    | assumption | apply dropClassEntries_keeps | apply Keeps.ite
    | (extract_lets +onlyGivenNames xx; revert xx; intro x; refine (fun hx => ?_) (?_ : Keeps s0 x); clear_value x)
    | (extract_lets +onlyGivenNames xx; revert xx; intro x; clear_value x) | apply Keeps.upd

end Sys2Proof.Machine
end

