-- ==== Sys2Proof/Laws/KeepsWork.lean ====
section
/-! SUPPORT. What is kept by sequences, leaves, the beat and the host port: the queue and the invariant. -/

namespace Sys2Proof.Machine

open Sys2Proof

theorem endLease_keeps (qi : Nat) {s0 s : State} (hk : Keeps s0 s) :
    Keeps s0 (State.endLease s qi) := by
  unfold State.endLease
  repeat with_reducible first | assumption | apply dropTail_keeps | apply setSeq_keeps

theorem openNew_keeps (rid : Nat) (r : Req) {s0 s : State} (hk : Keeps s0 s) :
    Keeps s0 (State.openNew s rid r) := by
  unfold State.openNew
  repeat with_reducible first
    | assumption | apply bad_keeps | apply complete_keeps | apply completeJournaled_keeps | apply pick_keeps
    | apply setSeq_keeps | apply Keeps.ite | refine Keeps.snd ?_ (by assumption)
    | (extract_lets +onlyGivenNames xx; revert xx; intro x; clear_value x) | split

theorem openAgain_keeps (rid : Nat) (r : Req) {s0 s : State} (hk : Keeps s0 s) :
    Keeps s0 (State.openAgain s rid r) := by
  unfold State.openAgain
  repeat with_reducible first
    | assumption | apply complete_keeps | apply completeJournaled_keeps | apply setSeq_keeps | apply Keeps.ite

theorem effSeqOpen_keeps (rid : Nat) {s0 s : State} (hk : Keeps s0 s) :
    Keeps s0 (effSeqOpen s rid) := by
  unfold effSeqOpen
  repeat with_reducible first | assumption | apply openAgain_keeps | apply openNew_keeps | apply Keeps.ite | split

theorem openLeaf_keeps (q : Sequ) (qi : Nat) (layer : Nat) {s0 s : State} (hk : Keeps s0 s) :
    Keeps s0 (State.openLeaf s q qi layer).2 := by
  unfold State.openLeaf
  repeat with_reducible first
    | assumption | apply allocSlot_keeps | apply newCid_keeps | apply pick_keeps | apply setLeaf_keeps
    | refine Keeps.snd ?_ (by assumption) | split

theorem closeLeaf_keeps (i : Nat) {s0 s : State} (hk : Keeps s0 s) :
    Keeps s0 (State.closeLeaf s i) := by
  unfold State.closeLeaf
  repeat with_reducible first | assumption | apply setLeaf_keeps

theorem openLeaves_keeps (q : Sequ) (qi : Nat) (layer : Nat) (v0 : Nat) {s0 s : State} (hk : Keeps s0 s) :
    Keeps s0 (State.openLeaves s q qi layer v0).2.2 := by
  induction v0 generalizing s q qi layer with
  | zero =>
    unfold State.openLeaves
    repeat with_reducible first | assumption | apply ih | apply openLeaf_keeps | refine Keeps.snd ?_ (by assumption) | split
  | succ n ih =>
    unfold State.openLeaves
    repeat with_reducible first | assumption | apply ih | apply openLeaf_keeps | refine Keeps.snd ?_ (by assumption) | split

theorem openChunks_keeps (q : Sequ) (qi : Nat) (layers : Nat) (v0 : List Chunk) {s0 s : State} (hk : Keeps s0 s) :
    Keeps s0 (State.openChunks s q qi layers v0).2.2.2 := by
  induction v0 generalizing s q qi layers with
  | nil =>
    unfold State.openChunks
    repeat with_reducible first
      | assumption | apply ih | apply openLeaves_keeps | refine Keeps.thd ?_ (by assumption)
      | (extract_lets +onlyGivenNames xx; revert xx; intro (x : _ × _ × _ × State); subst x) | split
  | cons a t ih =>
    unfold State.openChunks
    repeat with_reducible first
      | assumption | apply ih | apply openLeaves_keeps | refine Keeps.thd ?_ (by assumption)
      | (extract_lets +onlyGivenNames xx; revert xx; intro (x : _ × _ × _ × State); subst x) | split

theorem reportMatches_keeps (p : Nat) (reports : List RuleMatch) (n : Nat) {s0 s : State} (hk : Keeps s0 s) :
    Keeps s0 (State.reportMatches s p reports n).2 := by
  unfold State.reportMatches
  repeat with_reducible first | assumption | apply allocCtx_keeps | apply Keeps.ite2

theorem sealNote_keeps (p : Nat) (qi : Nat) (n : Nat) {s0 s : State} (hk : Keeps s0 s) :
    Keeps s0 (State.sealNote s p qi n) := by
  unfold State.sealNote
  repeat with_reducible first | assumption | apply bump_keeps | apply Keeps.ite | apply Keeps.upd

theorem commitPlan_keeps (pl : Plan) {s0 s : State} (hk : Keeps s0 s) :
    Keeps s0 (State.commitPlan s pl) := by
  unfold State.commitPlan
  repeat with_reducible first
    | assumption | apply placeSealed_keeps | apply sealNote_keeps | apply setLeaf_keeps | apply setSeq_keeps
    | refine Keeps.foldl _ (fun _ _ _ => ?_) ?_

theorem finishPlan_keeps (rid : Nat) (r : Req) (pl : Plan) {s0 s : State} (hk : Keeps s0 s) :
    Keeps s0 (State.finishPlan s rid r pl) := by
  unfold State.finishPlan
  repeat with_reducible first
    | assumption | apply commitPlan_keeps | apply complete_keeps | apply reportMatches_keeps | apply setSeq_keeps
    | apply Keeps.ite

theorem abandonPlan_keeps (rid : Nat) (pl : Plan) (st : Status) {s0 s : State} (hk : Keeps s0 s) :
    Keeps s0 (State.abandonPlan s rid pl st) := by
  unfold State.abandonPlan
  repeat with_reducible first
    | assumption | apply closeLeaf_keeps | apply complete_keeps | refine Keeps.foldl _ (fun _ _ _ => ?_) ?_

theorem runPlan_keeps (rid : Nat) (r : Req) (pl : Plan) {s0 s : State} (hk : Keeps s0 s) :
    Keeps s0 (State.runPlan s rid r pl) := by
  unfold State.runPlan
  repeat with_reducible first | assumption | apply finishPlan_keeps | apply wait_keeps | apply Keeps.ite

theorem appendRead_keeps (rid : Nat) (r : Req) (qi : Nat) (sh : Bytes) (toks : List Nat) (layers : List (List TokKV)) {s0 s : State} (hk : Keeps s0 s) :
    Keeps s0 (State.appendRead s rid r qi sh toks layers) := by
  unfold State.appendRead
  repeat with_reducible first
    | assumption | apply closeLeaf_keeps | apply complete_keeps | apply openChunks_keeps | apply runPlan_keeps | apply Keeps.ite
    | refine Keeps.foldl _ (fun _ _ _ => ?_) ?_ | refine Keeps.fth ?_ (by assumption)
    | (extract_lets +onlyGivenNames xx; revert xx; intro x; clear_value x) | split

theorem appendStart_keeps (rid : Nat) (r : Req) (qi : Nat) (sh : Bytes) {s0 s : State} (hk : Keeps s0 s) :
    Keeps s0 (State.appendStart s rid r qi sh) := by
  unfold State.appendStart
  repeat with_reducible first
    | assumption | apply appendRead_keeps | apply bad_keeps | apply complete_keeps | apply failRead_keeps | apply Keeps.ite
    | (extract_lets +onlyGivenNames xx; revert xx; intro x; clear_value x) | split

theorem heldWrite_keeps (rid : Nat) (r : Req) (go : State → Nat → Bytes → State) {s0 s : State} (h_go : ∀ a0 a1 a2, Keeps s0 a0 → Keeps s0 (go a0 a1 a2)) (hk : Keeps s0 s) :
    Keeps s0 (State.heldWrite s rid r go) := by
  unfold State.heldWrite
  repeat with_reducible first | assumption | apply h_go | apply complete_keeps | apply setSeq_keeps | apply Keeps.ite

theorem effSeqAppend_keeps (rid : Nat) {s0 s : State} (hk : Keeps s0 s) :
    Keeps s0 (effSeqAppend s rid) := by
  unfold effSeqAppend
  repeat with_reducible first | assumption | apply appendStart_keeps | apply heldWrite_keeps | split | (intro _)

theorem leafWriteRead_keeps (rid : Nat) (r : Req) (qi : Nat) (sh : Bytes) (toks : List TokKV) {s0 s : State} (hk : Keeps s0 s) :
    Keeps s0 (State.leafWriteRead s rid r qi sh toks) := by
  unfold State.leafWriteRead
  repeat with_reducible first | assumption | apply complete_keeps | apply runPlan_keeps | apply Keeps.ite | split

theorem leafWriteStart_keeps (rid : Nat) (r : Req) (qi : Nat) (sh : Bytes) {s0 s : State} (hk : Keeps s0 s) :
    Keeps s0 (State.leafWriteStart s rid r qi sh) := by
  unfold State.leafWriteStart
  repeat with_reducible first
    | assumption | apply bad_keeps | apply complete_keeps | apply failRead_keeps | apply leafWriteRead_keeps | apply Keeps.ite
    | split

theorem effLeafWrite_keeps (rid : Nat) {s0 s : State} (hk : Keeps s0 s) :
    Keeps s0 (effLeafWrite s rid) := by
  unfold effLeafWrite
  repeat with_reducible first | assumption | apply heldWrite_keeps | apply leafWriteStart_keeps | split | (intro _)

theorem sealLeaf_keeps (i : Nat) (q : Sequ) (c : Chunk) (layer : Nat) (staged : List (Option TokKV)) (durable : Bool) {s0 s : State} (hk : Keeps s0 s) :
    Keeps s0 (State.sealLeaf s i q c layer staged durable).2 := by
  unfold State.sealLeaf
  repeat with_reducible first | assumption | apply bump_keeps | apply encodeCopy_keeps

theorem sealLayers_keeps (q : Sequ) (c : Chunk) (staged : Table (List (Option TokKV))) (durable : Bool) (v0 : List Nat) (v1 : Nat) {s0 s : State} (hk : Keeps s0 s) :
    Keeps s0 (State.sealLayers s q c staged durable v0 v1).2 := by
  induction v0 generalizing s v1 q c staged durable with
  | nil =>
    unfold State.sealLayers
    repeat with_reducible first | assumption | apply ih | apply sealLeaf_keeps
  | cons a t ih =>
    unfold State.sealLayers
    repeat with_reducible first | assumption | apply ih | apply sealLeaf_keeps

theorem programPlan_keeps (rid : Nat) (pl : Plan) {s0 s : State} (hk : Keeps s0 s) :
    Keeps s0 (State.programPlan s rid pl) := by
  unfold State.programPlan
  repeat with_reducible first
    | assumption | apply openGroup_keeps | apply programLeaf_keeps | apply wait_keeps
    | refine Keeps.foldl _ (fun _ _ _ => ?_) ?_ | split

theorem effChunkSeal_keeps (qi : Nat) (n : Nat) {s0 s : State} (hk : Keeps s0 s) :
    Keeps s0 (effChunkSeal s qi n) := by
  unfold effChunkSeal
  repeat with_reducible first
    | assumption | apply finishPlan_keeps | apply programPlan_keeps | apply sealLayers_keeps | apply wait_keeps
    | apply Keeps.ite | split

theorem publish_keeps (rid : Nat) (r : Req) (qi : Nat) (n : Nat) {s0 s : State} (hk : Keeps s0 s) :
    Keeps s0 (State.publish s rid r qi n) := by
  unfold State.publish
  repeat with_reducible first
    | assumption | apply completeJournaled_keeps | apply endLease_keeps | apply setSeq_keeps | apply Keeps.ite

theorem effSeqPublish_keeps (rid : Nat) {s0 s : State} (hk : Keeps s0 s) :
    Keeps s0 (effSeqPublish s rid) := by
  unfold effSeqPublish
  repeat with_reducible first
    | assumption | apply bad_keeps | apply complete_keeps | apply publish_keeps | apply Keeps.ite | split

theorem fork_keeps (rid : Nat) (r : Req) (q : Sequ) (ep : Epoch) (n : Nat) (k : Nat) {s0 s : State} (hk : Keeps s0 s) :
    Keeps s0 (State.fork s rid r q ep n k) := by
  unfold State.fork
  repeat with_reducible first
    | assumption | apply completeJournaled_keeps | apply setLeaf_keeps | apply setSeq_keeps
    | refine Keeps.foldl _ (fun _ _ _ => ?_) ?_

theorem effSeqFork_keeps (rid : Nat) {s0 s : State} (hk : Keeps s0 s) :
    Keeps s0 (effSeqFork s rid) := by
  unfold effSeqFork
  repeat with_reducible first
    | assumption | apply complete_keeps | apply fork_keeps | apply pick_keeps | apply Keeps.ite
    | refine Keeps.snd ?_ (by assumption) | (extract_lets +onlyGivenNames xx; revert xx; intro x; clear_value x) | split

theorem releaseChunk_keeps (c : Chunk) {s0 s : State} (hk : Keeps s0 s) :
    Keeps s0 (State.releaseChunk s c) := by
  unfold State.releaseChunk
  repeat with_reducible first
    | assumption | apply dropRef_keeps | apply evict_keeps | apply Keeps.ite | refine Keeps.foldl _ (fun _ _ _ => ?_) ?_

theorem dropIndex_keeps (qi : Nat) {s0 s : State} (hk : Keeps s0 s) :
    Keeps s0 (State.dropIndex s qi) := by
  unfold State.dropIndex
  repeat with_reducible first
    | assumption | apply removeRange_keeps | apply ringSend_keeps
    | (extract_lets +onlyGivenNames xx; revert xx; intro x; refine (fun hx => ?_) (?_ : Keeps s0 x); clear_value x)
    | (extract_lets +onlyGivenNames xx; revert xx; intro x; clear_value x) | split

theorem retire_keeps (qi : Nat) {s0 s : State} (hk : Keeps s0 s) :
    Keeps s0 (State.retire s qi) := by
  unfold State.retire
  repeat with_reducible first
    | assumption | apply dropIndex_keeps | apply releaseChunk_keeps | apply setSeq_keeps
    | refine Keeps.foldl _ (fun _ _ _ => ?_) ?_

theorem effSeqRetire_keeps (rid : Nat) {s0 s : State} (hk : Keeps s0 s) :
    Keeps s0 (effSeqRetire s rid) := by
  unfold effSeqRetire
  repeat with_reducible first
    | assumption | apply complete_keeps | apply completeJournaled_keeps | apply retire_keeps | apply Keeps.ite | split

theorem effSequenceFree_keeps (qi : Nat) {s0 s : State} (hk : Keeps s0 s) :
    Keeps s0 (effSequenceFree s qi) := by
  unfold effSequenceFree
  repeat with_reducible first | assumption | apply releaseRules_keeps | apply setSeq_keeps | apply Keeps.ite

theorem effSeqHeartbeat_keeps (rid : Nat) {s0 s : State} (hk : Keeps s0 s) :
    Keeps s0 (effSeqHeartbeat s rid) := by
  unfold effSeqHeartbeat
  repeat with_reducible first | assumption | apply complete_keeps | apply setSeq_keeps | apply Keeps.ite | split

theorem effLeaseExpiry_keeps (qi : Nat) {s0 s : State} (hk : Keeps s0 s) :
    Keeps s0 (effLeaseExpiry s qi) := by
  unfold effLeaseExpiry
  repeat with_reducible first | assumption | apply endLease_keeps | apply openGroup_keeps | apply Keeps.ite

theorem holdView_keeps (owner : Nat) (i : Nat) (chunk : Nat) (chunkBad : Bool) {s0 s : State} (hk : Keeps s0 s) :
    Keeps s0 (State.holdView s owner i chunk chunkBad).2 := by
  unfold State.holdView
  repeat with_reducible first
    | assumption | apply hold_keeps | (extract_lets +onlyGivenNames xx; revert xx; intro x; refine (fun hx => ?_) (?_ : Keeps s0 x); clear_value x)
    | (extract_lets +onlyGivenNames xx; revert xx; intro x; clear_value x) | split

theorem noteRead_keeps (v : View) {s0 s : State} (hk : Keeps s0 s) :
    Keeps s0 (State.noteRead s v) := by
  unfold State.noteRead
  repeat with_reducible first
    | assumption | apply bump_keeps | apply checkTags_keeps | apply poisonLeaf_keeps | apply setLeaf_keeps
    | apply readPass_keeps | apply Keeps.ite
    | (extract_lets +onlyGivenNames xx; revert xx; intro x; refine (fun hx => ?_) (?_ : Keeps s0 x); clear_value x)
    | (extract_lets +onlyGivenNames xx; revert xx; intro x; clear_value x) | split

theorem takeView_keeps (owner : Nat) (i : Nat) (chunk : Nat) (chunkBad : Bool) {s0 s : State} (hk : Keeps s0 s) :
    Keeps s0 (State.takeView s owner i chunk chunkBad).2 :=
  noteRead_keeps _ (holdView_keeps _ _ _ _ hk)

theorem writeLines_keeps (r : Req) (role : Nat) (addr : Nat) (bs : Bytes) (lines : List Nat) {s0 s : State} (hk : Keeps s0 s) :
    Keeps s0 (State.writeLines s r role addr bs lines) := by
  unfold State.writeLines
  repeat with_reducible first | assumption | apply bufWrite_keeps

theorem convertOut_keeps (f : FpFmt) (xs : List Word) {s0 s : State} (hk : Keeps s0 s) :
    Keeps s0 (State.convertOut s f xs).2 := by
  unfold State.convertOut
  repeat with_reducible first | assumption | apply bump_keeps

theorem cacheTable_keeps (g : Nat) (v : View) {s0 s : State} (hk : Keeps s0 s) :
    Keeps s0 (State.cacheTable s g v) := by
  unfold State.cacheTable
  repeat with_reducible first | assumption | apply bump_keeps | apply free_keeps | apply Keeps.ite | split | apply Keeps.upd

theorem decodeAny_keeps (v : View) {s0 s : State} (hk : Keeps s0 s) :
    Keeps s0 (State.decodeAny s v) := by
  unfold State.decodeAny
  repeat with_reducible first
    | assumption | apply cacheTable_keeps | apply free_keeps | refine Keeps.snd ?_ (by assumption)
    | (extract_lets +onlyGivenNames xx; revert xx; intro x; clear_value x) | split

theorem arrivesLate_keeps (t : Tier) (by_ : Nat) {s0 s : State} (hk : Keeps s0 s) :
    Keeps s0 (State.arrivesLate s t by_).2 := by
  unfold State.arrivesLate
  repeat with_reducible first | assumption | apply free_keeps | apply Keeps.ite2 | split

theorem setBeat_keeps (n : Nat) (b : Beat) {s0 s : State} (hk : Keeps s0 s) :
    Keeps s0 (State.setBeat s n b) := by
  unfold State.setBeat
  repeat with_reducible first | assumption | apply Keeps.upd

theorem markLost_keeps (n : Nat) {s0 s : State} (hk : Keeps s0 s) :
    Keeps s0 (State.markLost s n) := by
  unfold State.markLost
  repeat with_reducible first | assumption | apply Keeps.upd

theorem enterLost_keeps (n : Nat) {s0 s : State} (hk : Keeps s0 s) :
    Keeps s0 (State.enterLost s n) := by
  unfold State.enterLost
  repeat with_reducible first | assumption | apply bump_keeps | apply markLost_keeps | apply raise_keeps | apply setBeat_keeps

theorem layerStart_keeps (n : Nat) (t : Nat) (sync : Bool) {s0 s : State} (hk : Keeps s0 s) :
    Keeps s0 (State.layerStart s n t sync) := by
  unfold State.layerStart
  repeat with_reducible first
    | assumption | apply bump_keeps | apply enterLost_keeps | apply raise_keeps | apply setBeat_keeps | apply Keeps.ite

theorem takeStart_keeps (n : Nat) (t : Nat) (sync : Bool) {s0 s : State} (hk : Keeps s0 s) :
    Keeps s0 (State.takeStart s n t sync) := by
  unfold State.takeStart
  repeat with_reducible first | assumption | apply layerStart_keeps | apply setBeat_keeps

theorem sourceStart_keeps (n : Nat) (t : Nat) (sync : Bool) {s0 s : State} (hk : Keeps s0 s) :
    Keeps s0 (State.sourceStart s n t sync) := by
  unfold State.sourceStart
  repeat with_reducible first
    | assumption | apply bump_keeps | apply takeStart_keeps | apply ringCast_keeps | apply setBeat_keeps | apply Keeps.ite

theorem restartBeat_keeps (n : Nat) {s0 s : State} (hk : Keeps s0 s) :
    Keeps s0 (State.restartBeat s n) := by
  unfold State.restartBeat
  repeat with_reducible first
    | assumption | apply markLost_keeps | apply setBeat_keeps
    | (extract_lets +onlyGivenNames xx; revert xx; intro x; refine (fun hx => ?_) (?_ : Keeps s0 x); clear_value x)
    | apply Keeps.upd

theorem effBeatPinEdge_keeps (n : Nat) (sync : Bool) {s0 s : State} (hk : Keeps s0 s) :
    Keeps s0 (effBeatPinEdge s n sync) := by
  unfold effBeatPinEdge
  repeat with_reducible first | assumption | apply sourceStart_keeps | apply Keeps.ite

theorem effBeatFrame_keeps (n : Nat) (t : Nat) (layers : Nat) (sync : Bool) {s0 s : State} (hk : Keeps s0 s) :
    Keeps s0 (effBeatFrame s n t layers sync) := by
  unfold effBeatFrame
  repeat with_reducible first | assumption | apply enterLost_keeps | apply takeStart_keeps | apply Keeps.ite

theorem effBeatLostTimeout_keeps (n : Nat) {s0 s : State} (hk : Keeps s0 s) :
    Keeps s0 (effBeatLostTimeout s n) := by
  unfold effBeatLostTimeout
  repeat with_reducible first | assumption | apply enterLost_keeps | apply Keeps.ite

theorem effBeatSynthLayer_keeps (n : Nat) {s0 s : State} (hk : Keeps s0 s) :
    Keeps s0 (effBeatSynthLayer s n) := by
  unfold effBeatSynthLayer
  repeat with_reducible first | assumption | apply bump_keeps | apply setBeat_keeps | apply Keeps.ite

theorem effBeatSourceChange_keeps (n : Nat) (src : Nat) {s0 s : State} (hk : Keeps s0 s) :
    Keeps s0 (effBeatSourceChange s n src) := by
  unfold effBeatSourceChange
  repeat with_reducible first | assumption | apply put_keeps | apply restartBeat_keeps | apply Keeps.ite

theorem effBeatMark_keeps (rid : Nat) {s0 s : State} (hk : Keeps s0 s) :
    Keeps s0 (effBeatMark s rid) := by
  unfold effBeatMark
  repeat with_reducible first
    | assumption | apply bump_keeps | apply complete_keeps | apply sourceStart_keeps | apply Keeps.ite | split

theorem readOutput_keeps (r : Req) (v : View) (shadow : Option Shadow) {s0 s : State} (hk : Keeps s0 s) :
    Keeps s0 (State.readOutput s r v shadow).2.2 := by
  unfold State.readOutput
  repeat with_reducible first
    | assumption | apply convertOut_keeps | apply Keeps.ite3
    | (extract_lets +onlyGivenNames xx; revert xx; intro (x : _ × State); subst x)
    | (extract_lets +onlyGivenNames xx; revert xx; intro x; clear_value x) | split

theorem finishRead_keeps (rid : Nat) (r : Req) (v : View) (shadow : Option Shadow) {s0 s : State} (hk : Keeps s0 s) :
    Keeps s0 (State.finishRead s rid r v shadow) := by
  unfold State.finishRead
  repeat with_reducible first
    | assumption | apply complete_keeps | apply readOutput_keeps | apply writeLines_keeps | apply Keeps.ite

theorem startRead_keeps (rid : Nat) (r : Req) (i : Nat) (c : Option Chunk) {s0 s : State} (hk : Keeps s0 s) :
    Keeps s0 (State.startRead s rid r i c) := by
  unfold State.startRead
  repeat with_reducible first
    | assumption | apply access_keeps | apply arrivesLate_keeps | apply complete_keeps | apply decodeAny_keeps
    | apply finishRead_keeps | apply takeView_keeps | apply Keeps.ite | split

theorem effLeafRead_keeps (rid : Nat) {s0 s : State} (hk : Keeps s0 s) :
    Keeps s0 (effLeafRead s rid) := by
  unfold effLeafRead
  repeat with_reducible first | assumption | apply complete_keeps | apply startRead_keeps | apply Keeps.ite | split

theorem journalLeaf_keeps (i : Nat) {s0 s : State} (hk : Keeps s0 s) :
    Keeps s0 (State.journalLeaf s i) := by
  unfold State.journalLeaf
  repeat with_reducible first | assumption | apply openGroup_keeps

theorem effLeafPin_keeps (rid : Nat) {s0 s : State} (hk : Keeps s0 s) :
    Keeps s0 (effLeafPin s rid) := by
  unfold effLeafPin
  repeat with_reducible first
    | assumption | apply checkTags_keeps | apply complete_keeps | apply journalLeaf_keeps | apply openGroup_keeps
    | apply poisonLeaf_keeps | apply programLeaf_keeps | apply setLeaf_keeps | apply wait_keeps | apply Keeps.ite
    | refine Keeps.snd ?_ (by assumption)
    | (extract_lets +onlyGivenNames xx; revert xx; intro x; refine (fun hx => ?_) (?_ : Keeps s0 x); clear_value x)
    | (extract_lets +onlyGivenNames xx; revert xx; intro x; clear_value x) | split | apply Keeps.upd

theorem effLeafUnpin_keeps (rid : Nat) {s0 s : State} (hk : Keeps s0 s) :
    Keeps s0 (effLeafUnpin s rid) := by
  unfold effLeafUnpin
  repeat with_reducible first
    | assumption | apply complete_keeps | apply journalLeaf_keeps | apply setLeaf_keeps | apply Keeps.ite
    | (extract_lets +onlyGivenNames xx; revert xx; intro x; refine (fun hx => ?_) (?_ : Keeps s0 x); clear_value x)
    | (extract_lets +onlyGivenNames xx; revert xx; intro x; clear_value x) | split

theorem effLeafEvict_keeps (rid : Nat) {s0 s : State} (hk : Keeps s0 s) :
    Keeps s0 (effLeafEvict s rid) := by
  unfold effLeafEvict
  repeat with_reducible first
    | assumption | apply complete_keeps | apply evict_keeps | apply setGroup_keeps | apply wait_keeps | apply Keeps.ite
    | (extract_lets +onlyGivenNames xx; revert xx; intro x; clear_value x) | split

theorem leaveRetired_keeps (i : Nat) {s0 s : State} (hk : Keeps s0 s) :
    Keeps s0 (State.leaveRetired s i) := by
  unfold State.leaveRetired
  repeat with_reducible first
    | assumption | apply pick_keeps | apply startMove_keeps | apply Keeps.ite | refine Keeps.snd ?_ (by assumption) | split

theorem effLeafMigrate_keeps (rid : Nat) {s0 s : State} (hk : Keeps s0 s) :
    Keeps s0 (effLeafMigrate s rid) := by
  unfold effLeafMigrate
  repeat with_reducible first
    | assumption | apply allocSlot_keeps | apply complete_keeps | apply startMove_keeps | apply wait_keeps | apply Keeps.ite
    | refine Keeps.snd ?_ (by assumption) | (extract_lets +onlyGivenNames xx; revert xx; intro x; clear_value x) | split

theorem endMove_keeps (i : Nat) (old : Tier) {s0 s : State} (hk : Keeps s0 s) :
    Keeps s0 (State.endMove s i old) := by
  unfold State.endMove
  repeat with_reducible first
    | assumption | apply bump_keeps | apply complete_keeps | apply setLeaf_keeps | apply Keeps.ite
    | (extract_lets +onlyGivenNames xx; revert xx; intro x; refine (fun hx => ?_) (?_ : Keeps s0 x); clear_value x)
    | (extract_lets +onlyGivenNames xx; revert xx; intro x; clear_value x) | split

theorem failMove_keeps (i : Nat) {s0 s : State} (hk : Keeps s0 s) :
    Keeps s0 (State.failMove s i) := by
  unfold State.failMove
  repeat with_reducible first
    | assumption | apply complete_keeps | apply setLeaf_keeps | refine Keeps.snd ?_ (by assumption)
    | (extract_lets +onlyGivenNames xx; revert xx; intro x; refine (fun hx => ?_) (?_ : Keeps s0 x); clear_value x)
    | (extract_lets +onlyGivenNames xx; revert xx; intro x; clear_value x) | split | apply Keeps.upd

theorem effMigrationSwitch_keeps (i : Nat) (fail : Bool) {s0 s : State} (hk : Keeps s0 s) :
    Keeps s0 (effMigrationSwitch s i fail) := by
  unfold effMigrationSwitch
  repeat with_reducible first
    | assumption | refine KeepsO.get ?_ (by assumption) | apply dropToDurable_keeps | apply endMove_keeps | apply moveTo_keeps
    | apply failMove_keeps | apply checkTags_keeps
    | apply poisonLeaf_keeps | apply setLeaf_keeps | apply switchRecord_keeps | apply Keeps.ite
    | (extract_lets +onlyGivenNames xx; revert xx; intro x; refine (fun hx => ?_) (?_ : Keeps s0 x); clear_value x) | split

theorem effPlacementSweepVisit_keeps (i : Nat) {s0 s : State} (hk : Keeps s0 s) :
    Keeps s0 (effPlacementSweepVisit s i) := by
  unfold effPlacementSweepVisit
  repeat with_reducible first | assumption | apply leaveRetired_keeps | apply setLeaf_keeps | apply settle_keeps | split

theorem effBackgroundRelief_keeps (t : Nat) {s0 s : State} (hk : Keeps s0 s) :
    Keeps s0 (effBackgroundRelief s t) := by
  unfold effBackgroundRelief
  repeat with_reducible first | assumption | apply relieveAll_keeps | apply Keeps.ite

theorem effPromotion_keeps (i : Nat) {s0 s : State} (hk : Keeps s0 s) :
    Keeps s0 (effPromotion s i) := by
  unfold effPromotion
  repeat with_reducible first
    | assumption | apply bump_keeps | apply pick_keeps | apply pickPool_keeps | apply startMove_keeps | apply Keeps.ite
    | refine Keeps.snd ?_ (by assumption) | split | apply Keeps.upd

theorem effWriteBack_keeps (i : Nat) {s0 s : State} (hk : Keeps s0 s) :
    Keeps s0 (effWriteBack s i) := by
  unfold effWriteBack
  repeat with_reducible first
    | assumption | apply openGroup_keeps | apply programQuarters_keeps | apply setGroup_keeps | apply readPass_keeps
    | apply Keeps.ite | (extract_lets +onlyGivenNames xx; revert xx; intro x; clear_value x) | split

theorem sweepLeaf_keeps (i : Nat) {s0 s : State} (hk : Keeps s0 s) :
    Keeps s0 (State.sweepLeaf s i) := by
  unfold State.sweepLeaf
  repeat with_reducible first
    | assumption | apply encodeCopy_keeps | apply startMove_keeps | apply checkTags_keeps | apply openGroup_keeps | apply pick_keeps | apply pickPool_keeps
    | apply poisonLeaf_keeps | apply programLeaf_keeps | apply Keeps.ite | refine Keeps.snd ?_ (by assumption)
    | (extract_lets +onlyGivenNames xx; revert xx; intro x; clear_value x) | split

theorem rewrapShadow_keeps (i : Nat) {s0 s : State} (hk : Keeps s0 s) :
    Keeps s0 (State.rewrapShadow s i) := by
  unfold State.rewrapShadow
  repeat with_reducible first
    | assumption | apply newCid_keeps | apply setLeaf_keeps | apply shadowPlace_keeps | apply Keeps.ite
    | refine Keeps.snd ?_ (by assumption) | (extract_lets +onlyGivenNames xx; revert xx; intro x; clear_value x) | split

theorem effReencodeSweep_keeps (i : Nat) {s0 s : State} (hk : Keeps s0 s) :
    Keeps s0 (effReencodeSweep s i) := by
  unfold effReencodeSweep
  repeat with_reducible first | assumption | apply endSweeps_keeps | apply rewrapShadow_keeps | apply sweepLeaf_keeps

theorem completeLookup_keeps (rid : Nat) (st : Status) (c : Cpl) {s0 s : State} (hk : Keeps s0 s) :
    Keeps s0 (State.completeLookup s rid st c) := by
  unfold State.completeLookup
  repeat with_reducible first
    | assumption | apply bump_keeps | apply complete_keeps | apply wait_keeps | apply Keeps.ite | split

theorem effLookupPadExpiry_keeps (rid : Nat) {s0 s : State} (hk : Keeps s0 s) :
    Keeps s0 (effLookupPadExpiry s rid) := by
  unfold effLookupPadExpiry
  repeat with_reducible first | assumption | apply complete_keeps | apply Keeps.ite | split

theorem lookupNone_keeps (rid : Nat) (more : Nat) {s0 s : State} (hk : Keeps s0 s) :
    Keeps s0 (State.lookupNone s rid more) := by
  unfold State.lookupNone
  repeat with_reducible first | assumption | apply completeLookup_keeps

theorem findHash_keeps (k : Key) (permitted : List Nat) {s0 s : State} (hk : Keeps s0 s) :
    Keeps s0 (State.findHash s k permitted).2 := by
  unfold State.findHash
  repeat with_reducible first
    | assumption | apply canopyFill_keeps | apply canopySearch_keeps | apply Keeps.ite2 | refine Keeps.snd ?_ (by assumption)
    | split

theorem forwardPass_keeps (k : Key) (permitted : List Nat) (v0 : List Nat) {s0 s : State} (hk : Keeps s0 s) :
    Keeps s0 (State.forwardPass s k permitted v0).2 := by
  induction v0 generalizing s k permitted with
  | nil =>
    unfold State.forwardPass
    repeat with_reducible first | assumption | apply ih | apply findHash_keeps | refine Keeps.snd ?_ (by assumption) | split
  | cons a t ih =>
    unfold State.forwardPass
    repeat with_reducible first | assumption | apply ih | apply findHash_keeps | refine Keeps.snd ?_ (by assumption) | split

theorem finishLookup_keeps (rid : Nat) (r : Req) (m : Nat) (found : List RootEntry) {s0 s : State} (hk : Keeps s0 s) :
    Keeps s0 (State.finishLookup s rid r m found) := by
  unfold State.finishLookup
  repeat with_reducible first
    | assumption | apply allocCtx_keeps | apply completeLookup_keeps | apply lookupNone_keeps | apply Keeps.ite2
    | (extract_lets +onlyGivenNames xx; revert xx; intro x; clear_value x) | split

theorem removeStale_keeps (e : RootEntry) {s0 s : State} (hk : Keeps s0 s) :
    Keeps s0 (State.removeStale s e) := by
  unfold State.removeStale
  repeat with_reducible first | assumption | apply rootRemove_keeps | split

theorem confirmFrom_keeps (rid : Nat) (r : Req) (k : Key) (hashes : List Nat) (permitted : List Nat) (v0 : Nat) {s0 s : State} (hk : Keeps s0 s) :
    Keeps s0 (State.confirmFrom s rid r k hashes permitted v0) := by
  induction v0 generalizing s rid r k hashes permitted with
  | zero =>
    unfold State.confirmFrom
    repeat with_reducible first
      | assumption | apply ih | apply bump_keeps | apply finishLookup_keeps | apply lookupNone_keeps | apply removeStale_keeps
      | apply ringSend_keeps | apply wait_keeps | apply Keeps.ite | refine Keeps.foldl _ (fun _ _ _ => ?_) ?_
  | succ n ih =>
    unfold State.confirmFrom
    repeat with_reducible first
      | assumption | apply ih | apply bump_keeps | apply finishLookup_keeps | apply lookupNone_keeps | apply removeStale_keeps
      | apply ringSend_keeps | apply wait_keeps | apply Keeps.ite | refine Keeps.foldl _ (fun _ _ _ => ?_) ?_

theorem lookupHashes_keeps (rid : Nat) (r : Req) (tag : Nat) (hashes : List Nat) {s0 s : State} (hk : Keeps s0 s) :
    Keeps s0 (State.lookupHashes s rid r tag hashes) := by
  unfold State.lookupHashes
  repeat with_reducible first | assumption | apply confirmFrom_keeps | apply forwardPass_keeps

theorem lookupAnswer_keeps (rid : Nat) (pos : Nat) (answer : Option (List Bool)) {s0 s : State} (hk : Keeps s0 s) :
    Keeps s0 (State.lookupAnswer s rid pos answer) := by
  unfold State.lookupAnswer
  repeat with_reducible first
    | assumption | apply confirmFrom_keeps | apply finishLookup_keeps | apply removeStale_keeps | apply wait_keeps
    | apply Keeps.ite | refine Keeps.foldl _ (fun _ _ _ => ?_) ?_ | split

theorem lookupTokens_keeps (rid : Nat) (r : Req) (sh : Bytes) (toks : List Nat) {s0 s : State} (hk : Keeps s0 s) :
    Keeps s0 (State.lookupTokens s rid r sh toks) := by
  unfold State.lookupTokens
  repeat with_reducible first
    | assumption | apply lookupHashes_keeps | apply lookupNone_keeps | apply ringSend_keeps | apply wait_keeps | apply Keeps.ite
    | (extract_lets +onlyGivenNames xx; revert xx; intro x; clear_value x) | split

theorem effPrefixLookup_keeps (rid : Nat) {s0 s : State} (hk : Keeps s0 s) :
    Keeps s0 (effPrefixLookup s rid) := by
  unfold effPrefixLookup
  repeat with_reducible first
    | assumption | apply completeLookup_keeps | apply lookupHashes_keeps | apply lookupTokens_keeps | apply noteTag_keeps
    | apply Keeps.ite | split

theorem freeCtx_keeps (k : Nat) {s0 s : State} (hk : Keeps s0 s) :
    Keeps s0 (State.freeCtx s k) := by
  unfold State.freeCtx
  repeat with_reducible first | assumption | apply Keeps.upd

theorem stepEmit_keeps (rid : Nat) (k : Nat) (c : Ctx) (e : RootEntry) (rest : List RootEntry) {s0 s : State} (hk : Keeps s0 s) :
    Keeps s0 (State.stepEmit s rid k c e rest) := by
  unfold State.stepEmit
  repeat with_reducible first
    | assumption | apply completeLookup_keeps | apply freeCtx_keeps | apply Keeps.ite | apply Keeps.upd

theorem stepFind_keeps (rid : Nat) (k : Nat) (part : Nat) (c : Ctx) (v0 : List RootEntry) {s0 s : State} (hk : Keeps s0 s) :
    Keeps s0 (State.stepFind s rid k part c v0) := by
  induction v0 generalizing s rid k part c with
  | nil =>
    unfold State.stepFind
    repeat with_reducible first
      | assumption | apply ih | apply freeCtx_keeps | apply lookupNone_keeps | apply ringSend_keeps | apply stepEmit_keeps
      | apply wait_keeps | apply Keeps.ite | apply Keeps.upd
  | cons a t ih =>
    unfold State.stepFind
    repeat with_reducible first
      | assumption | apply ih | apply freeCtx_keeps | apply lookupNone_keeps | apply ringSend_keeps | apply stepEmit_keeps
      | apply wait_keeps | apply Keeps.ite | apply Keeps.upd

theorem stepRule_keeps (rid : Nat) (k : Nat) (c : Ctx) {s0 s : State} (hk : Keeps s0 s) :
    Keeps s0 (State.stepRule s rid k c) := by
  unfold State.stepRule
  repeat with_reducible first
    | assumption | apply completeLookup_keeps | apply freeCtx_keeps | apply lookupNone_keeps | apply Keeps.ite | split
    | apply Keeps.upd

theorem effPrefixStep_keeps (rid : Nat) {s0 s : State} (hk : Keeps s0 s) :
    Keeps s0 (effPrefixStep s rid) := by
  unfold effPrefixStep
  repeat with_reducible first
    | assumption | apply completeLookup_keeps | apply freeCtx_keeps | apply lookupNone_keeps | apply ringSend_keeps
    | apply stepFind_keeps
    | apply stepRule_keeps | apply wait_keeps | apply Keeps.ite | split

theorem stepAnswer_keeps (rid : Nat) (ok : Bool) {s0 s : State} (hk : Keeps s0 s) :
    Keeps s0 (State.stepAnswer s rid ok) := by
  unfold State.stepAnswer
  repeat with_reducible first
    | assumption | apply lookupNone_keeps | apply stepEmit_keeps | apply stepFind_keeps | apply Keeps.ite | split

theorem effSearchContextExpiry_keeps (k : Nat) {s0 s : State} (hk : Keeps s0 s) :
    Keeps s0 (effSearchContextExpiry s k) := by
  unfold effSearchContextExpiry
  repeat with_reducible first | assumption | apply freeCtx_keeps | apply Keeps.ite | split

theorem insertAll_keeps (v0 : List RootEntry) {s0 s : State} (hk : Keeps s0 s) :
    Keeps s0 (State.insertAll s v0).2.2 := by
  induction v0 generalizing s with
  | nil =>
    unfold State.insertAll
    repeat with_reducible first | assumption | apply ih | apply insertEntry_keeps | refine Keeps.snd ?_ (by assumption) | split
  | cons a t ih =>
    unfold State.insertAll
    repeat with_reducible first | assumption | apply ih | apply insertEntry_keeps | refine Keeps.snd ?_ (by assumption) | split

theorem finishInsert_keeps (rid : Nat) (r : Req) (n : Nat) (failed : Bool) {s0 s : State} (hk : Keeps s0 s) :
    Keeps s0 (State.finishInsert s rid r n failed) := by
  unfold State.finishInsert
  repeat with_reducible first | assumption | apply completeJournaled_keeps

theorem effPrefixInsert_keeps (rid : Nat) {s0 s : State} (hk : Keeps s0 s) :
    Keeps s0 (effPrefixInsert s rid) := by
  unfold effPrefixInsert
  repeat with_reducible first
    | assumption | apply complete_keeps | apply finishInsert_keeps | apply insertAll_keeps | apply ringSend_keeps
    | apply wait_keeps | apply Keeps.ite | split

theorem effPrefixRemove_keeps (rid : Nat) {s0 s : State} (hk : Keeps s0 s) :
    Keeps s0 (effPrefixRemove s rid) := by
  unfold effPrefixRemove
  repeat with_reducible first
    | assumption | apply complete_keeps | apply completeJournaled_keeps | apply removeRange_keeps | apply ringSend_keeps
    | apply wait_keeps | apply Keeps.ite | split

theorem clearHits_keeps {s0 s : State} (hk : Keeps s0 s) :
    Keeps s0 (State.clearHits s) := by
  unfold State.clearHits
  repeat with_reducible first | assumption | apply Keeps.upd

theorem promoteHot_keeps {s0 s : State} (hk : Keeps s0 s) : Keeps s0 (State.promoteHot s) := by
  unfold State.promoteHot
  repeat with_reducible first
    | assumption | apply canopyDrop_keeps | apply fillInto_keeps | apply Keeps.ite | refine Keeps.foldl _ (fun _ _ _ => ?_) ?_

theorem periodEnd_keeps {s0 s : State} (hk : Keeps s0 s) : Keeps s0 (State.periodEnd s) := by
  unfold State.periodEnd
  exact hk.upd

theorem effCanopyPromote_keeps {s0 s : State} (hk : Keeps s0 s) :
    Keeps s0 (effCanopyPromote s) := by
  unfold effCanopyPromote
  repeat with_reducible first
    | assumption | apply clearHits_keeps | apply periodEnd_keeps | apply promoteHot_keeps | apply Keeps.ite

theorem effCanopyRespread_keeps (b : Nat) {s0 s : State} (hk : Keeps s0 s) :
    Keeps s0 (effCanopyRespread s b) := by
  unfold effCanopyRespread State.respreadBank
  repeat with_reducible first | assumption | apply rebuildBank_keeps | apply Keeps.ite

theorem effCanopyParityScan_keeps (failing : List (Nat × Nat)) (lost : List (Nat × Nat)) (lapUs : Option Nat) {s0 s : State} (hk : Keeps s0 s) :
    Keeps s0 (effCanopyParityScan s failing lost lapUs) := by
  unfold effCanopyParityScan
  repeat with_reducible first
    | assumption | apply bump_keeps | apply put_keeps | apply raise_keeps | apply setBank_keeps
    | refine Keeps.foldl _ (fun _ _ _ => ?_) ?_
    | (extract_lets +onlyGivenNames xx; revert xx; intro x; refine (fun hx => ?_) (?_ : Keeps s0 x); clear_value x) | split

theorem effCanopyBankFlush_keeps (b : Nat) {s0 s : State} (hk : Keeps s0 s) :
    Keeps s0 (effCanopyBankFlush s b) := by
  unfold effCanopyBankFlush
  repeat with_reducible first
    | assumption | apply canopyDrop_keeps | apply setBank_keeps | apply Keeps.ite | refine Keeps.foldl _ (fun _ _ _ => ?_) ?_

theorem bankOff_keeps (b : Nat) {s0 s : State} (hk : Keeps s0 s) : Keeps s0 (State.bankOff s b) := by
  unfold State.bankOff
  repeat with_reducible first
    | assumption | apply effCanopyBankFlush_keeps | apply setBank_keeps
    | (extract_lets +onlyGivenNames xx; revert xx; intro x; clear_value x)

theorem bankOn_keeps (b : Nat) {s0 s : State} (hk : Keeps s0 s) : Keeps s0 (State.bankOn s b) := by
  unfold State.bankOn
  repeat with_reducible first
    | assumption | apply setBank_keeps | apply Keeps.ite
    | (extract_lets +onlyGivenNames xx; revert xx; intro x; clear_value x)

theorem dropWrite_keeps (ring : Nat) (headReg : Bool) (cause : Nat) (val : Nat) {s0 s : State} (hk : Keeps s0 s) :
    Keeps s0 (State.dropWrite s ring headReg cause val) := by
  unfold State.dropWrite
  repeat with_reducible first | assumption | apply put_keeps | apply raise_keeps | apply recordEvent_keeps | apply Keeps.ite

theorem pageAccess_keeps (fn : Nat) (page : Nat) (off : Nat) (size : Nat) (write : Bool) {s0 s : State} (hk : Keeps s0 s) :
    Keeps s0 (State.pageAccess s fn page off size write) := by
  unfold State.pageAccess
  repeat with_reducible first | assumption | apply badAccess_keeps | apply Keeps.ite

theorem effSqTail_keeps (fn : Nat) (page : Nat) (off : Nat) (size : Nat) (val : Nat) {s0 s : State} (hk : Keeps s0 s) :
    Keeps s0 (effSqTail s fn page off size val) := by
  unfold effSqTail
  repeat with_reducible first
    | assumption | apply dropWrite_keeps | apply pageAccess_keeps | apply put_keeps | apply Keeps.ite
    | (extract_lets +onlyGivenNames xx; revert xx; intro x; refine (fun hx => ?_) (?_ : Keeps s0 x); clear_value x) | split

theorem effCqHead_keeps (fn : Nat) (page : Nat) (off : Nat) (size : Nat) (val : Nat) {s0 s : State} (hk : Keeps s0 s) :
    Keeps s0 (effCqHead s fn page off size val) := by
  unfold effCqHead
  repeat with_reducible first
    | assumption | apply dropWrite_keeps | apply pageAccess_keeps | apply put_keeps | apply Keeps.ite
    | (extract_lets +onlyGivenNames xx; revert xx; intro x; refine (fun hx => ?_) (?_ : Keeps s0 x); clear_value x)
    | (extract_lets +onlyGivenNames xx; revert xx; intro x; clear_value x) | split

theorem ringWrite_keeps (fn : Nat) (ring : Nat) (cq : Bool) (val : Nat) (go : State → State) {s0 s : State} (h_go : ∀ a0, Keeps s0 a0 → Keeps s0 (go a0)) (hk : Keeps s0 s) :
    Keeps s0 (State.ringWrite s fn ring cq val go) := by
  unfold State.ringWrite
  repeat with_reducible first | assumption | apply h_go | apply dropWrite_keeps | apply Keeps.ite

theorem sqFields_keeps (q : Nat) (val : Nat) {s0 s : State} (hk : Keeps s0 s) :
    Keeps s0 (State.sqFields s q val) := by
  unfold State.sqFields
  repeat with_reducible first | assumption | apply put_keeps

theorem effSqEnable_keeps (fn q val : Nat) {s0 s : State} (hk : Keeps s0 s) : Keeps s0 (effSqEnable s fn q val) := by
  refine ringWrite_keeps _ _ _ _ _ (fun s hk => ?_) hk
  have h := sqFields_keeps q val hk
  refine .ite (.ite hk (put_keeps _ _ _ _ hk)) (.ite (put_keeps _ _ _ _ h) (.upd ?_))
  exact put_keeps _ _ _ _ (put_keeps _ _ _ _ (put_keeps _ _ _ _ (put_keeps _ _ _ _ h)))

theorem effSqDisable_keeps (fn : Nat) (q : Nat) (val : Nat) {s0 s : State} (hk : Keeps s0 s) :
    Keeps s0 (effSqDisable s fn q val) := by
  unfold effSqDisable
  repeat with_reducible first
    | assumption | apply put_keeps | apply ringWrite_keeps | apply sqFields_keeps | split | apply Keeps.upd | (intro _)

theorem effSqInactive_keeps (q : Nat) {s0 s : State} (hk : Keeps s0 s) :
    Keeps s0 (effSqInactive s q) := by
  unfold effSqInactive
  repeat with_reducible first | assumption | apply put_keeps | apply Keeps.ite

theorem cqFields_keeps (c : Nat) (val : Nat) {s0 s : State} (hk : Keeps s0 s) :
    Keeps s0 (State.cqFields s c val) := by
  unfold State.cqFields
  repeat with_reducible first | assumption | apply put_keeps

theorem effCqEnable_keeps (fn c val : Nat) {s0 s : State} (hk : Keeps s0 s) : Keeps s0 (effCqEnable s fn c val) := by
  refine ringWrite_keeps _ _ _ _ _ (fun s hk => ?_) hk
  have h := cqFields_keeps c val hk
  refine .ite hk (.ite (put_keeps _ _ _ _ h) (.upd ?_))
  exact put_keeps _ _ _ _ (put_keeps _ _ _ _ (put_keeps _ _ _ _ (put_keeps _ _ _ _ (put_keeps _ _ _ _ h))))

theorem effCqDisable_keeps (fn c val : Nat) {s0 s : State} (hk : Keeps s0 s) : Keeps s0 (effCqDisable s fn c val) := by
  refine ringWrite_keeps _ _ _ _ _ (fun s hk => ?_) hk
  exact .ite (cqFields_keeps _ _ hk) (.ite (put_keeps _ _ _ _ hk) (.upd (put_keeps _ _ _ _ (put_keeps _ _ _ _ hk))))

theorem effCqModDelayExpiry_keeps (c : Nat) {s0 s : State} (hk : Keeps s0 s) :
    Keeps s0 (effCqModDelayExpiry s c) := by
  unfold effCqModDelayExpiry
  repeat with_reducible first | assumption | apply signalCq_keeps | apply Keeps.ite

theorem admit_keeps (q : Nat) (entry : Bytes) {s0 s : State} (hk : Keeps s0 s) :
    Keeps s0 (State.admitOne s q entry) := by
  unfold State.admitOne
  repeat with_reducible first
    | assumption | apply cqReserve_keeps | apply put_keeps
    | (extract_lets +onlyGivenNames xx; revert xx; intro x; refine (fun hx => ?_) (?_ : Keeps s0 x); clear_value x)
    | (extract_lets +onlyGivenNames xx; revert xx; intro x; clear_value x) | apply Keeps.upd

theorem admitFailed_keeps (q : Nat) (st : Status) {s0 s : State} (hk : Keeps s0 s) :
    Keeps s0 (State.admitFailed s q st) := by
  unfold State.admitFailed
  repeat with_reducible first | assumption | apply admit_keeps | apply complete_keeps

theorem admitAll_keeps (q : Nat) (size : Nat) (addr : Nat) (v0 : Nat) {s0 s : State} (hk : Keeps s0 s) :
    Keeps s0 (State.admitAll s q size addr v0) := by
  induction v0 generalizing s q size addr with
  | zero =>
    unfold State.admitAll
    repeat with_reducible first | assumption | apply ih | apply admit_keeps
  | succ n ih =>
    unfold State.admitAll
    repeat with_reducible first | assumption | apply ih | apply admit_keeps

theorem failAll_keeps (q : Nat) (st : Status) (v0 : Nat) {s0 s : State} (hk : Keeps s0 s) :
    Keeps s0 (State.failAll s q st v0) := by
  induction v0 generalizing s q st with
  | zero =>
    unfold State.failAll
    repeat with_reducible first | assumption | apply ih | apply admitFailed_keeps
  | succ n ih =>
    unfold State.failAll
    repeat with_reducible first | assumption | apply ih | apply admitFailed_keeps

theorem countBurst_keeps (q : Nat) {s0 s : State} (hk : Keeps s0 s) : Keeps s0 (State.countBurst s q) := by
  unfold State.countBurst
  exact hk.upd

theorem effDescriptorFetch_keeps (q : Nat) (n : Nat) {s0 s : State} (hk : Keeps s0 s) :
    Keeps s0 (effDescriptorFetch s q n) := by
  unfold effDescriptorFetch
  repeat with_reducible first
    | assumption | apply countBurst_keeps | apply admitAll_keeps | apply failAll_keeps | apply Keeps.ite
    | (extract_lets +onlyGivenNames xx; revert xx; intro x; refine (fun hx => ?_) (?_ : Keeps s0 x); clear_value x) | split

theorem effSubmissionReadFail_keeps (q : Nat) (n : Nat) (poisoned : Bool) {s0 s : State} (hk : Keeps s0 s) :
    Keeps s0 (effSubmissionReadFail s q n poisoned) := by
  unfold effSubmissionReadFail
  repeat with_reducible first | assumption | apply countBurst_keeps | apply failAll_keeps | apply Keeps.ite

theorem readSources_keeps (r : Req) (v0 : List (Nat × Nat × Option Nat)) {s0 s : State} (hk : Keeps s0 s) :
    Keeps s0 (State.readSources s r v0).2 := by
  induction v0 generalizing s r with
  | nil =>
    unfold State.readSources
    repeat with_reducible first | assumption | apply ih | apply free_keeps | refine Keeps.snd ?_ (by assumption) | split
  | cons a t ih =>
    unfold State.readSources
    repeat with_reducible first | assumption | apply ih | apply free_keeps | refine Keeps.snd ?_ (by assumption) | split

theorem forward_keeps (rid : Nat) (r : Req) (pos : Nat) {s0 s : State} (hk : Keeps s0 s) :
    Keeps s0 (State.forward s rid r pos) := by
  unfold State.forward
  repeat with_reducible first
    | assumption | apply complete_keeps | apply failRead_keeps | apply readSources_keeps | apply ringSend_keeps
    | apply wait_keeps | apply Keeps.ite | refine Keeps.snd ?_ (by assumption) | split

theorem startChecked_keeps (rid : Nat) (r : Req) (row : OpRow) {s0 s : State} (hk : Keeps s0 s) :
    Keeps s0 (State.startChecked s rid r row) := by
  unfold State.startChecked
  repeat with_reducible first
    | assumption | apply bad_keeps | apply bump_keeps | apply complete_keeps | apply forward_keeps | apply security_keeps
    | apply setReq_keeps | apply Keeps.ite | split

theorem effDescriptorStart_keeps (rid : Nat) {s0 s : State} (hk : Keeps s0 s) :
    Keeps s0 (effDescriptorStart s rid) := by
  unfold effDescriptorStart
  repeat with_reducible first
    | assumption | apply bad_keeps | apply complete_keeps | apply setReq_keeps | apply startChecked_keeps | apply Keeps.ite
    | refine Keeps.snd ?_ (by assumption)
    | (extract_lets +onlyGivenNames xx; revert xx; intro x; refine (fun hx => ?_) (?_ : Keeps s0 x); clear_value x)
    | (extract_lets +onlyGivenNames xx; revert xx; intro x; clear_value x) | split | apply Keeps.upd

theorem effNop_keeps (rid : Nat) {s0 s : State} (hk : Keeps s0 s) :
    Keeps s0 (effNop s rid) := by
  unfold effNop
  repeat with_reducible first | assumption | apply complete_keeps | split

theorem effFence_keeps (rid : Nat) {s0 s : State} (hk : Keeps s0 s) :
    Keeps s0 (effFence s rid) := by
  unfold effFence
  repeat with_reducible first | assumption | apply complete_keeps | split

theorem resetRings_keeps (p : Nat) {s0 s : State} (hk : Keeps s0 s) :
    Keeps s0 (State.resetRings s p) := by
  unfold State.resetRings
  repeat with_reducible first
    | assumption | (extract_lets +onlyGivenNames xx; revert xx; intro x; clear_value x) | apply Keeps.dropRegs

theorem stopRings_keeps (p : Nat) {s0 s : State} (hk : Keeps s0 s) :
    Keeps s0 (State.stopRings s p) := by
  unfold State.stopRings
  repeat with_reducible first | assumption | apply resetRings_keeps | apply Keeps.upd

theorem endChm_keeps (p : Nat) (tdi : Nat) {s0 s : State} (hk : Keeps s0 s) :
    Keeps s0 (State.endChm s p tdi) := by
  unfold State.endChm
  repeat with_reducible first
    | assumption | apply put_keeps | apply security_keeps | apply stopRings_keeps | apply Keeps.ite
    | (extract_lets +onlyGivenNames xx; revert xx; intro x; refine (fun hx => ?_) (?_ : Keeps s0 x); clear_value x) | split
    | apply Keeps.upd

theorem dropSessions_keeps (fn : Nat) {s0 s : State} (hk : Keeps s0 s) :
    Keeps s0 (State.dropSessions s fn) := by
  unfold State.dropSessions
  repeat with_reducible first
    | assumption | apply endChm_keeps | apply Keeps.ite | (extract_lets +onlyGivenNames xx; revert xx; intro (x : Sec); skip)
    | refine Keeps.updSec ?_ rfl rfl

theorem effFunctionLevelReset_keeps (fn : Nat) {s0 s : State} (hk : Keeps s0 s) :
    Keeps s0 (effFunctionLevelReset s fn) := by
  unfold effFunctionLevelReset
  repeat with_reducible first | assumption | apply dropSessions_keeps | apply stopRings_keeps | apply Keeps.ite

theorem effVfEnableChange_keeps (enable : Bool) (num : Nat) {s0 s : State} (hk : Keeps s0 s) :
    Keeps s0 (effVfEnableChange s enable num) := by
  unfold effVfEnableChange
  repeat with_reducible first
    | assumption | apply dropSessions_keeps | apply refreshPart_keeps | apply Keeps.ite
    | refine Keeps.foldl _ (fun _ _ _ => ?_) ?_ | split | apply Keeps.upd

end Sys2Proof.Machine
end

