-- ==== Sys2Proof/Laws/KeepsAttend.lean ====
section
/-! SUPPORT. What is kept by attention work, selections and schedules: the queue and the invariant. -/

namespace Sys2Proof.Machine

open Sys2Proof

theorem clearBad_keeps (kind : Nat) (key : Nat) {s0 s : State} (hk : Keeps s0 s) :
    Keeps s0 (State.clearBad s kind key) := by
  unfold State.clearBad
  repeat with_reducible first | assumption | apply Keeps.upd

theorem effTableLoadShape_keeps (rid : Nat) {s0 s : State} (hk : Keeps s0 s) :
    Keeps s0 (effTableLoadShape s rid) := by
  unfold effTableLoadShape
  repeat with_reducible first
    | assumption | apply clearBad_keeps | apply complete_keeps | apply failRead_keeps | apply Keeps.ite | split
    | apply Keeps.upd

theorem installClass_keeps (epoch : Epoch) (c : ClassEntry) {s0 s : State} (hk : Keeps s0 s) :
    Keeps s0 (State.installClass s epoch c).2 := by
  unfold State.installClass
  repeat with_reducible first
    | assumption | apply canopyPut_keeps | apply rebuildBank_keeps | apply Keeps.ite2 | refine Keeps.foldl2 _ (fun _ _ _ => ?_) ?_
    | split

theorem installAll_keeps (epoch : Epoch) (v0 : List ClassEntry) {s0 s : State} (hk : Keeps s0 s) :
    Keeps s0 (State.installAll s epoch v0).2 := by
  induction v0 generalizing s epoch with
  | nil =>
    unfold State.installAll
    repeat with_reducible first | assumption | apply ih | apply installClass_keeps | refine Keeps.snd ?_ (by assumption) | split
  | cons a t ih =>
    unfold State.installAll
    repeat with_reducible first | assumption | apply ih | apply installClass_keeps | refine Keeps.snd ?_ (by assumption) | split

theorem loadRules_keeps (rid : Nat) (r : Req) (rs : RuleSet) {s0 s : State} (hk : Keeps s0 s) :
    Keeps s0 (State.loadRules s rid r rs) := by
  unfold State.loadRules
  repeat with_reducible first
    | assumption | apply clearBad_keeps | apply complete_keeps | apply dropClassEntries_keeps | apply installAll_keeps
    | apply Keeps.ite | refine Keeps.snd ?_ (by assumption) | split | apply Keeps.upd

theorem effTableLoadRuleSet_keeps (rid : Nat) {s0 s : State} (hk : Keeps s0 s) :
    Keeps s0 (effTableLoadRuleSet s rid) := by
  unfold effTableLoadRuleSet
  repeat with_reducible first
    | assumption | apply complete_keeps | apply failRead_keeps | apply loadRules_keeps | apply releaseRules_keeps
    | apply Keeps.ite | split

theorem effRulesSwitch_keeps (rid : Nat) {s0 s : State} (hk : Keeps s0 s) :
    Keeps s0 (effRulesSwitch s rid) := by
  unfold effRulesSwitch
  repeat with_reducible first
    | assumption | apply complete_keeps | apply releaseRules_keeps | apply Keeps.ite | split | apply Keeps.upd

theorem installTable_keeps (rid : Nat) (k : Nat) (planes : List (List (Nat × Nat))) {s0 s : State} (hk : Keeps s0 s) :
    Keeps s0 (State.installTable s rid k planes) := by
  unfold State.installTable
  repeat with_reducible first
    | assumption | apply clearBad_keeps | apply complete_keeps | apply endSweep_keeps | apply Keeps.upd

theorem effCodecTrain_keeps (rid : Nat) {s0 s : State} (hk : Keeps s0 s) :
    Keeps s0 (effCodecTrain s rid) := by
  unfold effCodecTrain
  repeat with_reducible first
    | assumption | apply bad_keeps | apply checkTags_keeps | apply complete_keeps | apply installTable_keeps
    | apply poisonLeaf_keeps | apply Keeps.ite | refine Keeps.snd ?_ (by assumption) | refine Keeps.foldl _ (fun _ _ _ => ?_) ?_
    | (extract_lets +onlyGivenNames xx; revert xx; intro x; refine (fun hx => ?_) (?_ : Keeps s0 x); clear_value x)
    | (extract_lets +onlyGivenNames xx; revert xx; intro x; clear_value x) | split

theorem setSpire_keeps (n : Nat) (x : SpireSt) {s0 s : State} (hk : Keeps s0 s) :
    Keeps s0 (State.setSpire s n x) := by
  unfold State.setSpire
  repeat with_reducible first | assumption | apply Keeps.upd

theorem setGrove_keeps (g : Nat) (q : List WUnit) {s0 s : State} (hk : Keeps s0 s) :
    Keeps s0 (State.setGrove s g q) := by
  unfold State.setGrove
  repeat with_reducible first | assumption | apply Keeps.upd

theorem servePart_keeps (g : Nat) (parts : List Nat) {s0 s : State} (hk : Keeps s0 s) :
    Keeps s0 (State.servePart s g parts).2 := by
  unfold State.servePart
  repeat with_reducible first | assumption | apply Keeps.ite2 | split | apply Keeps.upd

theorem takeFrom_keeps (n : Nat) (g : Nat) {s0 s : State} (hk : Keeps s0 s) :
    Keeps s0 (State.takeFrom s n g).2 := by
  unfold State.takeFrom
  repeat with_reducible first
    | assumption | apply servePart_keeps | apply setGrove_keeps | refine Keeps.snd ?_ (by assumption)
    | (extract_lets +onlyGivenNames xx; revert xx; intro x; clear_value x) | split

theorem steal_keeps (n : Nat) (g : Nat) {s0 s : State} (hk : Keeps s0 s) :
    Keeps s0 (State.steal s n g).2 := by
  unfold State.steal
  refine Keeps.ite2 hk ?_
  have h : KeepsO2 s0 (((List.range 7).map (fun i => (g + 1 + i) % 8)).findSome? (fun h =>
      match s.takeFrom n h with | (some u, s) => some (u, s) | (none, _) => none)) := by
    refine KeepsO2.findSome _ (fun a => ?_)
    split
    · exact KeepsO2.some (Keeps.snd (takeFrom_keeps _ _ hk) (by assumption))
    · exact KeepsO2.none
  split
  · exact bump_keeps _ _ _ _ (KeepsO2.get h (by assumption))
  · exact hk

theorem startUnit_keeps (n : Nat) (u : WUnit) {s0 s : State} (hk : Keeps s0 s) :
    Keeps s0 (State.startUnit s n u) := by
  unfold State.startUnit
  repeat with_reducible first
    | assumption | apply cacheTable_keeps | apply setSpire_keeps | apply Keeps.ite | refine Keeps.snd ?_ (by assumption)
    | refine Keeps.foldl _ (fun _ _ _ => ?_) ?_
    | (extract_lets +onlyGivenNames xx; revert xx; intro x; refine (fun hx => ?_) (?_ : Keeps s0 x); clear_value x)
    | (extract_lets +onlyGivenNames xx; revert xx; intro x; clear_value x) | split | apply Keeps.upd

theorem feed_keeps (n : Nat) (stolen : Bool) {s0 s : State} (hk : Keeps s0 s) :
    KeepsO s0 (State.feed s n stolen) := by
  unfold State.feed
  have h : Keeps s0 (if stolen then s.steal n (n / 6) else s.takeFrom n (n / 6)).2 :=
    Keeps.ite2 (steal_keeps _ _ hk) (takeFrom_keeps _ _ hk)
  split
  · have h' := Keeps.snd h (by assumption)
    exact KeepsO.some (Keeps.ite (startUnit_keeps _ _ h') (setSpire_keeps _ _ h'))
  · exact KeepsO.none

theorem releaseWaiting_keeps {s0 s : State} (hk : Keeps s0 s) :
    Keeps s0 (State.releaseWaiting s) := by
  unfold State.releaseWaiting
  repeat with_reducible first
    | assumption | apply setGrove_keeps | apply Keeps.ite | refine Keeps.snd ?_ (by assumption)
    | refine Keeps.foldl _ (fun _ _ _ => ?_) ?_
    | (extract_lets +onlyGivenNames xx; revert xx; intro x; refine (fun hx => ?_) (?_ : Keeps s0 x); clear_value x)
    | (extract_lets +onlyGivenNames xx; revert xx; intro x; clear_value x) | split

theorem dispatchGo_keeps (v0 : Nat) {s0 s : State} (hk : Keeps s0 s) :
    Keeps s0 (State.dispatchGo v0 s) := by
  induction v0 generalizing s with
  | zero =>
    unfold State.dispatchGo
    repeat with_reducible first
      | assumption | apply ih | apply feed_keeps | exact KeepsO.none | apply KeepsO.some
      | refine KeepsO.findSome _ (fun _ => ?_) | refine Keeps.snd ?_ (by assumption) | refine KeepsO.get ?_ (by assumption)
      | split
  | succ n ih =>
    unfold State.dispatchGo
    repeat with_reducible first
      | assumption | apply ih | apply feed_keeps | exact KeepsO.none | apply KeepsO.some
      | refine KeepsO.findSome _ (fun _ => ?_) | refine Keeps.snd ?_ (by assumption) | refine KeepsO.get ?_ (by assumption)
      | split

theorem dispatch_keeps {s0 s : State} (hk : Keeps s0 s) :
    Keeps s0 (State.dispatch s) := by
  unfold State.dispatch
  repeat with_reducible first | assumption | apply dispatchGo_keeps | apply releaseWaiting_keeps | apply Keeps.ite

theorem queueJob_keeps (id : Nat) (j : Job) {s0 s : State} (hk : Keeps s0 s) :
    Keeps s0 (State.queueJob s id j) := by
  unfold State.queueJob
  repeat with_reducible first
    | assumption | apply dispatch_keeps | apply setGrove_keeps
    | refine Keeps.foldl _ (fun _ _ _ => ?_) ?_ | apply Keeps.upd

theorem startJob_keeps (j : Job) {s0 s : State} (hk : Keeps s0 s) :
    Keeps s0 (State.startJob s j) := queueJob_keeps _ _ hk.upd

theorem dropJob_keeps (id : Nat) {s0 s : State} (hk : Keeps s0 s) :
    Keeps s0 (State.dropJob s id) := by
  unfold State.dropJob
  repeat with_reducible first | assumption | apply Keeps.upd

theorem unholdAll_keeps (owner : Nat) {s0 s : State} (hk : Keeps s0 s) :
    Keeps s0 (State.unholdAll s owner) := by
  unfold State.unholdAll
  repeat with_reducible first | assumption | apply unhold_keeps | refine Keeps.foldl _ (fun _ _ _ => ?_) ?_

theorem readHeld_keeps (vs : List View) {s0 s : State} (hk : Keeps s0 s) : Keeps s0 (State.readHeld s vs) :=
  Keeps.foldl _ (fun _ _ h => access_keeps _ (noteRead_keeps _ h)) hk

theorem holdSet_keeps (owner : Nat) (q : Sequ) (layer : Nat) (masked : Nat → Bool) (v0 : List Nat) {s0 s : State} (hk : Keeps s0 s) :
    Keeps s0 (State.holdSet s owner q layer masked v0).2 := by
  induction v0 generalizing s owner q layer with
  | nil =>
    unfold State.holdSet
    repeat with_reducible first
      | assumption | apply ih | apply access_keeps | apply takeView_keeps | apply holdView_keeps | apply Keeps.ite2
      | refine Keeps.snd ?_ (by assumption)
      | (extract_lets +onlyGivenNames xx; revert xx; intro x; refine (fun hx => ?_) (?_ : Keeps s0 x); clear_value x) | split
  | cons a t ih =>
    unfold State.holdSet
    repeat with_reducible first
      | assumption | apply ih | apply access_keeps | apply takeView_keeps | apply holdView_keeps | apply Keeps.ite2
      | refine Keeps.snd ?_ (by assumption)
      | (extract_lets +onlyGivenNames xx; revert xx; intro x; refine (fun hx => ?_) (?_ : Keeps s0 x); clear_value x) | split

theorem judgeLate_keeps (by_ : Nat) (v0 : List View) {s0 s : State} (hk : Keeps s0 s) :
    Keeps s0 (State.judgeLate s by_ v0).2 := by
  induction v0 generalizing s by_ with
  | nil =>
    unfold State.judgeLate
    repeat with_reducible first | assumption | apply ih | apply arrivesLate_keeps | apply Keeps.ite2
  | cons a t ih =>
    unfold State.judgeLate
    repeat with_reducible first | assumption | apply ih | apply arrivesLate_keeps | apply Keeps.ite2

theorem writeAttend_keeps (r : Req) (o : Bytes) (ml : Bytes) {s0 s : State} (hk : Keeps s0 s) :
    Keeps s0 (State.writeAttend s r o ml).2.2 := by
  unfold State.writeAttend
  repeat with_reducible first | assumption | apply bufWrite_keeps | apply Keeps.ite3

theorem finishAttend_keeps (rid : Nat) (r : Req) (j : Job) {s0 s : State} (hk : Keeps s0 s) :
    Keeps s0 (State.finishAttend s rid r j) := by
  unfold State.finishAttend
  repeat with_reducible first
    | assumption | apply bump_keeps | apply complete_keeps | apply writeAttend_keeps | apply Keeps.ite
    | refine Keeps.thd ?_ (by assumption)
    | (extract_lets +onlyGivenNames xx; revert xx; intro x; refine (fun hx => ?_) (?_ : Keeps s0 x); clear_value x)
    | (extract_lets +onlyGivenNames xx; revert xx; intro x; clear_value x) | split

theorem attendHeld_keeps (rid : Nat) (r : Req) (q : Sequ) (sh : Bytes) (qb : Bytes) (vs : List View) {s0 s : State} (hk : Keeps s0 s) :
    Keeps s0 (State.attendHeld s rid r q sh qb vs) := by
  unfold State.attendHeld
  repeat with_reducible first
    | assumption | apply complete_keeps | apply judgeLate_keeps | apply queueJob_keeps | apply wait_keeps | apply Keeps.ite
    | refine Keeps.snd ?_ (by assumption)
    | (extract_lets +onlyGivenNames xx; revert xx; intro x; refine (fun hx => ?_) (?_ : Keeps s0 x); clear_value x)
    | (extract_lets +onlyGivenNames xx; revert xx; intro x; clear_value x) | split | apply Keeps.upd

theorem attendSet_keeps (rid : Nat) (r : Req) (q : Sequ) (sh : Bytes) (qb : Bytes) (cs : List Nat) {s0 s : State} (hk : Keeps s0 s) :
    Keeps s0 (State.attendSet s rid r q sh qb cs) := by
  unfold State.attendSet
  repeat with_reducible first
    | assumption | apply attendHeld_keeps | apply complete_keeps | apply holdSet_keeps | apply unholdAll_keeps | apply Keeps.ite
    | refine Keeps.snd ?_ (by assumption) | split

theorem effAttend_keeps (rid : Nat) {s0 s : State} (hk : Keeps s0 s) :
    Keeps s0 (effAttend s rid) := by
  unfold effAttend
  repeat with_reducible first
    | assumption | apply attendSet_keeps | apply bad_keeps | apply complete_keeps | apply failRead_keeps | apply Keeps.ite
    | (extract_lets +onlyGivenNames xx; revert xx; intro x; clear_value x) | split

theorem effHoldRelease_keeps (owner : Nat) (leaf : Nat) (cid : Nat) {s0 s : State} (hk : Keeps s0 s) :
    Keeps s0 (effHoldRelease s owner leaf cid) := by
  unfold effHoldRelease
  repeat with_reducible first | assumption | apply unhold_keeps | apply Keeps.ite

theorem returnUnit_keeps (n : Nat) {s0 s : State} (hk : Keeps s0 s) :
    Keeps s0 (State.returnUnit s n) := by
  unfold State.returnUnit
  repeat with_reducible first
    | assumption | apply setGrove_keeps | apply setSpire_keeps
    | (extract_lets +onlyGivenNames xx; revert xx; intro x; clear_value x) | split

theorem effSpireSlowCheck_keeps (n : Nat) (lines : Nat) {s0 s : State} (hk : Keeps s0 s) :
    Keeps s0 (effSpireSlowCheck s n lines) := by
  unfold effSpireSlowCheck
  repeat with_reducible first
    | assumption | apply bump_keeps | apply dispatch_keeps | apply returnUnit_keeps | apply setSpire_keeps | apply Keeps.ite

theorem effSpireSlowExit_keeps (n : Nat) {s0 s : State} (hk : Keeps s0 s) :
    Keeps s0 (effSpireSlowExit s n) := by
  unfold effSpireSlowExit
  repeat with_reducible first | assumption | apply dispatch_keeps | apply setSpire_keeps | apply Keeps.ite

theorem scoreLantern_keeps (j : Job) (arrays : List Nat) (at_ : Nat) (cols : Nat) (c : Nat) (x : Summary) {s0 s : State} (hk : Keeps s0 s) :
    Keeps s0 (State.scoreLantern s j arrays at_ cols c x).2 := by
  unfold State.scoreLantern
  repeat with_reducible first
    | assumption | apply Keeps.ite | apply Keeps.ite2
    | (extract_lets +onlyGivenNames xx; revert xx; intro x; refine (fun hx => ?_) (?_ : Keeps s0 x); clear_value x)
    | (extract_lets +onlyGivenNames xx; revert xx; intro x; clear_value x) | apply Keeps.upd

theorem readSummary_keeps (i : Nat) {s0 s : State} (hk : Keeps s0 s) :
    Keeps s0 (State.readSummary s i).2.2 := by
  unfold State.readSummary
  repeat with_reducible first | assumption | apply clearBad_keeps | apply setLeaf_keeps | apply Keeps.ite3 | split

theorem lanternAll_keeps (j : Job) (commit : Option Nat) (arrays : List Nat) (cols : Nat) (leafOfC : Nat → Nat) (v0 : Nat) (v1 : List Nat) {s0 s : State} (hk : Keeps s0 s) :
    Keeps s0 (State.lanternAll s j commit arrays cols leafOfC v0 v1).2 := by
  induction v1 generalizing s v0 j commit arrays cols with
  | nil =>
    unfold State.lanternAll
    repeat with_reducible first
      | assumption | apply ih | apply arrivesLate_keeps | apply readSummary_keeps | apply scoreLantern_keeps | split
  | cons a t ih =>
    unfold State.lanternAll
    repeat with_reducible first
      | assumption | apply ih | apply arrivesLate_keeps | apply readSummary_keeps | apply scoreLantern_keeps | split

theorem setHolder_keeps (o : Option (Nat × Nat)) (as : List Nat) {s0 s : State} (hk : Keeps s0 s) :
    Keeps s0 (State.setHolder s o as) := by
  unfold State.setHolder
  apply Keeps.upd hk

theorem takeArrays_keeps (o : Nat × Nat) (as : List Nat) {s0 s : State} (hk : Keeps s0 s) :
    Keeps s0 (State.takeArrays s o as) := by
  unfold State.takeArrays State.holdArrays
  repeat with_reducible first | assumption | apply Keeps.ite | apply setHolder_keeps | apply Keeps.upd

theorem runLantern_keeps (j : Job) (commit : Option Nat) (q : Sequ) (arrays cs : List Nat) {s0 s : State} (hk : Keeps s0 s) :
    Keeps s0 (State.runLantern s j commit q arrays cs).2 := by
  unfold State.runLantern State.releaseArrays
  repeat with_reducible first | assumption | apply bump_keeps | apply setHolder_keeps | apply lanternAll_keeps

theorem exactAll_keeps (owner : Nat) (j : Job) (q : Sequ) (v0 : List Nat) {s0 s : State} (hk : Keeps s0 s) :
    Keeps s0 (State.exactAll s owner j q v0).2 := by
  induction v0 generalizing s owner j q with
  | nil =>
    unfold State.exactAll
    repeat with_reducible first
      | assumption | apply ih | apply access_keeps | apply readSummary_keeps | apply takeView_keeps | apply Keeps.ite2
  | cons a t ih =>
    unfold State.exactAll
    repeat with_reducible first
      | assumption | apply ih | apply access_keeps | apply readSummary_keeps | apply takeView_keeps | apply Keeps.ite2

theorem runExact_keeps (owner : Nat) (j : Job) (q : Sequ) (cs : List Nat) (fellBack : Bool) {s0 s : State} (hk : Keeps s0 s) :
    Keeps s0 (State.runExact s owner j q cs fellBack).2 := by
  unfold State.runExact
  repeat with_reducible first
    | assumption | apply bad_keeps | apply bump_keeps | apply exactAll_keeps | apply Keeps.ite | apply Keeps.ite2
    | refine Keeps.snd ?_ (by assumption)
    | (extract_lets +onlyGivenNames xx; revert xx; intro x; refine (fun hx => ?_) (?_ : Keeps s0 x); clear_value x)
    | (extract_lets +onlyGivenNames xx; revert xx; intro x; clear_value x) | split | apply Keeps.upd

theorem heldAll_keeps (j : Job) (q : Sequ) (v0 : List View) {s0 s : State} (hk : Keeps s0 s) :
    Keeps s0 (State.heldAll s j q v0).2 := by
  induction v0 generalizing s with
  | nil => exact hk
  | cons a t ih =>
    unfold State.heldAll
    repeat with_reducible first | assumption | apply ih | apply readSummary_keeps

theorem runHeld_keeps (j : Job) (q : Sequ) (vs : List View) (fellBack : Bool) {s0 s : State} (hk : Keeps s0 s) :
    Keeps s0 (State.runHeld s j q vs fellBack).2 := by
  unfold State.runHeld
  repeat with_reducible first | assumption | apply bump_keeps | apply heldAll_keeps | apply Keeps.ite

theorem finishSelect_keeps (rid : Nat) (r : Req) (j : Job) {s0 s : State} (hk : Keeps s0 s) :
    Keeps s0 (State.finishSelect s rid r j) := by
  unfold State.finishSelect
  repeat with_reducible first | assumption | apply bufWrite_keeps | apply complete_keeps | apply Keeps.ite

theorem selectLantern_keeps (rid : Nat) (r : Req) (q : Sequ) (j : Job) (cs : List Nat) {s0 s : State} (hk : Keeps s0 s) :
    Keeps s0 (State.selectLantern s rid r q j cs) := by
  unfold State.selectLantern
  repeat with_reducible first
    | assumption | apply finishSelect_keeps | apply setSlot_keeps | apply runLantern_keeps | apply takeArrays_keeps | apply Keeps.ite
    | (extract_lets +onlyGivenNames xx; revert xx; intro x; refine (fun hx => ?_) (?_ : Keeps s0 x); clear_value x)
    | (extract_lets +onlyGivenNames xx; revert xx; intro x; clear_value x) | split


theorem selectSet_keeps (rid : Nat) (r : Req) (q : Sequ) (j : Job) (cs : List Nat) {s0 s : State} (hk : Keeps s0 s) :
    Keeps s0 (State.selectSet s rid r q j cs) := by
  unfold State.selectSet
  repeat with_reducible first
    | assumption | apply finishSelect_keeps | apply queueJob_keeps | apply runExact_keeps | apply selectLantern_keeps
    | apply wait_keeps | apply Keeps.ite | refine Keeps.snd ?_ (by assumption)
    | (extract_lets +onlyGivenNames xx; revert xx; intro x; refine (fun hx => ?_) (?_ : Keeps s0 x); clear_value x)
    | (extract_lets +onlyGivenNames xx; revert xx; intro x; clear_value x) | split | apply Keeps.upd

theorem effSelect_keeps (rid : Nat) {s0 s : State} (hk : Keeps s0 s) :
    Keeps s0 (effSelect s rid) := by
  unfold effSelect
  repeat with_reducible first
    | assumption | apply bad_keeps | apply complete_keeps | apply failRead_keeps | apply selectSet_keeps | apply Keeps.ite
    | (extract_lets +onlyGivenNames xx; revert xx; intro x; clear_value x) | split

theorem lanternTemp_keeps (g : Nat) (temp : Nat) {s0 s : State} (hk : Keeps s0 s) :
    Keeps s0 (State.lanternTemp s g temp) := by
  unfold State.lanternTemp
  repeat with_reducible first | assumption | apply put_keeps

theorem noUsable_keeps (g : Nat) {s0 s : State} (hk : Keeps s0 s) :
    Keeps s0 (State.noUsable s g) := by
  unfold State.noUsable
  repeat with_reducible first | assumption | apply raise_keeps | apply Keeps.ite

theorem effLanternCalibrationDue_keeps (a : Nat) (temp : Nat) {s0 s : State} (hk : Keeps s0 s) :
    Keeps s0 (effLanternCalibrationDue s a temp) := by
  unfold effLanternCalibrationDue
  repeat with_reducible first
    | assumption | apply lanternTemp_keeps | apply noUsable_keeps | apply Keeps.ite
    | (extract_lets +onlyGivenNames xx; revert xx; intro x; clear_value x) | apply Keeps.upd

theorem effLanternCalibrationDone_keeps (a : Nat) {s0 s : State} (hk : Keeps s0 s) :
    Keeps s0 (effLanternCalibrationDone s a) := by
  unfold effLanternCalibrationDone
  repeat with_reducible first
    | assumption | apply bump_keeps | apply free_keeps | apply raise_keeps | apply Keeps.ite | apply Keeps.upd

theorem effLanternStale_keeps (a : Nat) (temp : Nat) {s0 s : State} (hk : Keeps s0 s) :
    Keeps s0 (effLanternStale s a temp) := by
  unfold effLanternStale
  repeat with_reducible first | assumption | apply lanternTemp_keeps | apply noUsable_keeps | apply Keeps.ite | apply Keeps.upd

theorem blockOf_keeps (sh : Bytes) (f : FpFmt) (v : View) {s0 s : State} (hk : Keeps s0 s) :
    Keeps s0 (State.blockOf s sh f v).2 := by
  unfold State.blockOf
  repeat with_reducible first | assumption | apply convertOut_keeps | apply Keeps.ite2

theorem putBlocks_keeps (r : Req) (rid : Nat) (base : Nat) (sh : Bytes) (f : FpFmt) (vs : List View) {s0 s : State} (hk : Keeps s0 s) :
    Keeps s0 (State.putBlocks s r rid base sh f vs) := by
  unfold State.putBlocks
  repeat with_reducible first
    | assumption | apply blockOf_keeps | apply bufWrite_keeps | apply Keeps.ite | apply Keeps.ite2
    | refine Keeps.foldl2 _ (fun _ _ _ => ?_) ?_

theorem completeAcked_keeps (rid : Nat) (qp : Nat) (st : Status) (c : Cpl) {s0 s : State} (hk : Keeps s0 s) :
    Keeps s0 (State.completeAcked s rid qp st c) := by
  unfold State.completeAcked
  repeat with_reducible first | assumption | apply complete_keeps | apply wait_keeps | apply Keeps.ite

theorem deliverOut_keeps (rid : Nat) (r : Req) (sh : Bytes) (f : FpFmt) (vs : List View) {s0 s : State} (hk : Keeps s0 s) :
    Keeps s0 (State.deliverOut s rid r sh f vs) := by
  unfold State.deliverOut
  repeat with_reducible first
    | assumption | apply bufWrite_keeps | apply complete_keeps | apply completeAcked_keeps | apply putBlocks_keeps
    | (extract_lets +onlyGivenNames xx; revert xx; intro x; refine (fun hx => ?_) (?_ : Keeps s0 x); clear_value x)
    | (extract_lets +onlyGivenNames xx; revert xx; intro x; clear_value x) | split

theorem deliverHeld_keeps (rid : Nat) (r : Req) (sh : Bytes) (f : FpFmt) (vs : List View) {s0 s : State} (hk : Keeps s0 s) :
    Keeps s0 (State.deliverHeld s rid r sh f vs) := by
  unfold State.deliverHeld
  repeat with_reducible first
    | assumption | apply bufWrite_keeps | apply complete_keeps | apply decodeAny_keeps | apply deliverOut_keeps
    | apply freeBytes_keeps | apply judgeLate_keeps | apply Keeps.ite | refine Keeps.foldl _ (fun _ _ _ => ?_) ?_ | split

theorem deliverSet_keeps (rid : Nat) (r : Req) (q : Sequ) (sh : Bytes) (f : FpFmt) (cs : List Nat) {s0 s : State} (hk : Keeps s0 s) :
    Keeps s0 (State.deliverSet s rid r q sh f cs) := by
  unfold State.deliverSet
  repeat with_reducible first
    | assumption | apply complete_keeps | apply deliverHeld_keeps | apply holdSet_keeps | apply unholdAll_keeps
    | apply Keeps.ite | refine Keeps.snd ?_ (by assumption) | split

theorem effDeliver_keeps (rid : Nat) {s0 s : State} (hk : Keeps s0 s) :
    Keeps s0 (effDeliver s rid) := by
  unfold effDeliver
  repeat with_reducible first
    | assumption | apply bad_keeps | apply complete_keeps | apply deliverSet_keeps | apply failRead_keeps | apply Keeps.ite
    | (extract_lets +onlyGivenNames xx; revert xx; intro x; clear_value x) | split

theorem setSched_keeps (p : Nat) (x : Sched) {s0 s : State} (hk : Keeps s0 s) :
    Keeps s0 (State.setSched s p x) := by
  unfold State.setSched
  repeat with_reducible first | assumption | apply Keeps.upd

theorem effTableLoadScheduleImage_keeps (rid : Nat) {s0 s : State} (hk : Keeps s0 s) :
    Keeps s0 (effTableLoadScheduleImage s rid) := by
  unfold effTableLoadScheduleImage
  repeat with_reducible first
    | assumption | apply clearBad_keeps | apply complete_keeps | apply failRead_keeps | apply setSched_keeps | apply Keeps.ite
    | (extract_lets +onlyGivenNames xx; revert xx; intro x; clear_value x) | split

theorem armRead_keeps (rid : Nat) (r : Req) (n step : Nat) {s0 s : State} (hk : Keeps s0 s) :
    Keeps s0 (State.armRead s rid r n step) := by
  unfold State.armRead
  repeat with_reducible first
    | assumption | apply complete_keeps | apply failRead_keeps | apply setSched_keeps | apply wait_keeps | apply Keeps.ite
    | (extract_lets +onlyGivenNames xx; revert xx; intro x; clear_value x) | split

theorem effScheduleArm_keeps (rid : Nat) {s0 s : State} (hk : Keeps s0 s) :
    Keeps s0 (effScheduleArm s rid) := by
  unfold effScheduleArm
  repeat with_reducible first
    | assumption | apply armRead_keeps | apply bad_keeps | apply complete_keeps | apply Keeps.ite
    | (extract_lets +onlyGivenNames xx; revert xx; intro x; clear_value x) | split

theorem effScheduleDisarm_keeps (rid : Nat) {s0 s : State} (hk : Keeps s0 s) :
    Keeps s0 (effScheduleDisarm s rid) := by
  unfold effScheduleDisarm
  repeat with_reducible first
    | assumption | apply bad_keeps | apply complete_keeps | apply setSched_keeps | apply wait_keeps | apply Keeps.ite
    | (extract_lets +onlyGivenNames xx; revert xx; intro x; clear_value x) | split

theorem effScheduleSwitch_keeps (p : Nat) {s0 s : State} (hk : Keeps s0 s) :
    Keeps s0 (effScheduleSwitch s p) := by
  unfold effScheduleSwitch
  repeat with_reducible first
    | assumption | apply complete_keeps | apply setSched_keeps | apply Keeps.ite
    | (extract_lets +onlyGivenNames xx; revert xx; intro x; clear_value x) | split

theorem slotHeld_keeps (x : Inst) (sl : InstSlot) (q : Sequ) (vs : List View) {s0 s : State} (hk : Keeps s0 s) :
    Keeps s0 (State.slotHeld s x sl q vs).2 := by
  unfold State.slotHeld
  repeat with_reducible first | assumption | apply judgeLate_keeps | apply Keeps.ite2

theorem slotHolds_keeps (id : Nat) (x : Inst) (q : Sequ) (cs : List Nat) {s0 s : State} (hk : Keeps s0 s) :
    Keeps s0 (State.slotHolds s id x q cs).2 := by
  unfold State.slotHolds
  repeat with_reducible first
    | assumption | apply holdSet_keeps | apply unhold_keeps | refine Keeps.foldl _ (fun _ _ _ => ?_) ?_
    | refine Keeps.snd ?_ (by assumption) | split

theorem formSelect_keeps (id : Nat) (x : Inst) (sl : InstSlot) (q : Sequ) (cs : List Nat) {s0 s : State} (hk : Keeps s0 s) :
    KeepsO2 s0 (State.formSelect s id x sl q cs) := by
  unfold State.formSelect
  repeat with_reducible first
    | assumption | apply slotHolds_keeps | apply KeepsO2.ite | exact KeepsO2.none | apply KeepsO2.some
    | refine Keeps.snd ?_ (by assumption) | split

theorem formSlot_keeps (id : Nat) (x : Inst) (sd : Sched) (i : Nat) (entry : Bytes) {s0 s : State} (hk : Keeps s0 s) :
    KeepsO2 s0 (State.formSlot s id x sd i entry) := by
  unfold State.formSlot
  repeat with_reducible first
    | assumption | apply security_keeps | apply bump_keeps | apply Keeps.ite
    | apply slotHolds_keeps | apply formSelect_keeps | apply slotHeld_keeps | apply KeepsO2.ite | exact KeepsO2.none
    | apply KeepsO2.some | refine Keeps.foldl _ (fun _ _ _ => ?_) ?_ | refine Keeps.snd ?_ (by assumption)
    | (extract_lets +onlyGivenNames xx; revert xx; intro x; clear_value x) | split

theorem formSlots_keeps (id : Nat) (x : Inst) (sd : Sched) (im : SchedImg) (v0 : List Nat) {s0 s : State} (hk : Keeps s0 s) :
    KeepsO2 s0 (State.formSlots s id x sd im v0) := by
  induction v0 generalizing s id x sd im with
  | nil =>
    unfold State.formSlots
    repeat with_reducible first
      | assumption | apply ih | apply formSlot_keeps | apply KeepsO2.ite | exact KeepsO2.none | apply KeepsO2.some
      | refine KeepsO2.get ?_ (by assumption) | split
  | cons a t ih =>
    unfold State.formSlots
    repeat with_reducible first
      | assumption | apply ih | apply formSlot_keeps | apply KeepsO2.ite | exact KeepsO2.none | apply KeepsO2.some
      | refine KeepsO2.get ?_ (by assumption) | split

theorem issue_keeps (p : Nat) (ev : Nat) (step : Nat) (slot : Bool) (im : SchedImg) {s0 s : State} (hk : Keeps s0 s) :
    Keeps s0 (State.issue s p ev step slot im) := by
  unfold State.issue
  repeat with_reducible first
    | assumption | apply bump_keeps | apply cqReserve_keeps | apply formSlots_keeps | apply raise_keeps | apply setSched_keeps
    | apply Keeps.ite | apply KeepsO2.ite | apply KeepsO2.some | refine KeepsO2.get ?_ (by assumption)
    | (extract_lets +onlyGivenNames xx; revert xx; intro (x : Option (_ × State)); subst x)
    | (extract_lets +onlyGivenNames xx; revert xx; intro x; clear_value x) | split | apply Keeps.upd

theorem effEventIssue_keeps (p : Nat) (ev : Nat) {s0 s : State} (hk : Keeps s0 s) :
    Keeps s0 (effEventIssue s p ev) := by
  unfold effEventIssue
  repeat with_reducible first | assumption | apply issue_keeps | apply Keeps.ite | split

theorem setInst_keeps (id : Nat) (x : Inst) {s0 s : State} (hk : Keeps s0 s) :
    Keeps s0 (State.setInst s id x) := by
  unfold State.setInst
  repeat with_reducible first | assumption | apply Keeps.upd

theorem setSlot_keeps (id : Nat) (k : Nat) (sl : InstSlot) {s0 s : State} (hk : Keeps s0 s) :
    Keeps s0 (State.setSlot s id k sl) := by
  unfold State.setSlot
  repeat with_reducible first | assumption | apply Keeps.upd

theorem slotResult_keeps (sl : InstSlot) (j : Job) {s0 s : State} (hk : Keeps s0 s) :
    Keeps s0 (State.slotResult s sl j).2 := by
  unfold State.slotResult
  repeat with_reducible first | assumption | apply bump_keeps | apply Keeps.ite2

theorem finishSlot_keeps (id : Nat) (k : Nat) (j : Job) {s0 s : State} (hk : Keeps s0 s) :
    Keeps s0 (State.finishSlot s id k j) := by
  unfold State.finishSlot
  repeat with_reducible first | assumption | apply setSlot_keeps | apply slotResult_keeps | split

theorem finishJob_keeps (id : Nat) (j : Job) {s0 s : State} (hk : Keeps s0 s) :
    Keeps s0 (State.finishJob s id j) := by
  unfold State.finishJob
  repeat with_reducible first
    | assumption | apply dropJob_keeps | apply finishAttend_keeps | apply finishSelect_keeps | apply finishSlot_keeps
    | apply Keeps.ite
    | (extract_lets +onlyGivenNames xx; revert xx; intro x; refine (fun hx => ?_) (?_ : Keeps s0 x); clear_value x) | split

theorem slotAttend_keeps (id : Nat) (k : Nat) (sl : InstSlot) (j : Job) {s0 s : State} (hk : Keeps s0 s) :
    Keeps s0 (State.slotAttend s id k sl j) := by
  unfold State.slotAttend
  repeat with_reducible first
    | assumption | apply readHeld_keeps | apply setSlot_keeps | apply startJob_keeps | apply Keeps.ite
    | (extract_lets +onlyGivenNames xx; revert xx; intro x; refine (fun hx => ?_) (?_ : Keeps s0 x); clear_value x)
    | (extract_lets +onlyGivenNames xx; revert xx; intro x; clear_value x) | apply Keeps.upd

theorem slotLantern_keeps (id : Nat) (k : Nat) (x : Inst) (sl : InstSlot) (q : Sequ) (j : Job) (cs : List Nat) {s0 s : State} (hk : Keeps s0 s) :
    Keeps s0 (State.slotLantern s id k x sl q j cs) := by
  unfold State.slotLantern
  repeat with_reducible first
    | assumption | apply finishSlot_keeps | apply setSlot_keeps | apply runLantern_keeps | apply takeArrays_keeps | apply Keeps.ite
    | (extract_lets +onlyGivenNames xx; revert xx; intro x; refine (fun hx => ?_) (?_ : Keeps s0 x); clear_value x)
    | (extract_lets +onlyGivenNames xx; revert xx; intro x; clear_value x) | split


theorem slotSelect_keeps (id : Nat) (k : Nat) (x : Inst) (sl : InstSlot) (j : Job) {s0 s : State} (hk : Keeps s0 s) :
    Keeps s0 (State.slotSelect s id k x sl j) := by
  unfold State.slotSelect
  repeat with_reducible first
    | assumption | apply finishSlot_keeps | apply runExact_keeps | apply runHeld_keeps | apply setSlot_keeps
    | apply slotLantern_keeps | apply startJob_keeps | apply Keeps.ite | refine Keeps.snd ?_ (by assumption)
    | (extract_lets +onlyGivenNames xx; revert xx; intro x; refine (fun hx => ?_) (?_ : Keeps s0 x); clear_value x)
    | (extract_lets +onlyGivenNames xx; revert xx; intro x; clear_value x) | split | apply Keeps.upd

theorem effQueryStampPoll_keeps (id : Nat) (k : Nat) {s0 s : State} (hk : Keeps s0 s) :
    Keeps s0 (effQueryStampPoll s id k) := by
  unfold effQueryStampPoll
  repeat with_reducible first
    | assumption | apply noteTag_keeps | apply setSlot_keeps | apply slotAttend_keeps | apply slotSelect_keeps | apply Keeps.ite
    | (extract_lets +onlyGivenNames xx; revert xx; intro x; clear_value x) | split

theorem missJob_keeps (id : Nat) (j : Job) (f : View → View) {s0 s : State} (hk : Keeps s0 s) :
    Keeps s0 (State.missJob s id j f).2 := by
  unfold State.missJob
  repeat with_reducible first
    | assumption | apply bump_keeps | (extract_lets +onlyGivenNames xx; revert xx; intro x; refine (fun hx => ?_) (?_ : Keeps s0 x); clear_value x)
    | (extract_lets +onlyGivenNames xx; revert xx; intro x; clear_value x) | apply Keeps.upd

theorem commitReq_keeps (rid : Nat) {s0 s : State} (hk : Keeps s0 s) :
    Keeps s0 (State.commitReq s rid) := by
  unfold State.commitReq
  repeat with_reducible first
    | assumption | apply complete_keeps | apply dropJob_keeps | apply finishJob_keeps | apply missJob_keeps | apply Keeps.ite
    | split

theorem commitDeliver_keeps (act : Nat) (v0 : List View) {s0 s : State} (hk : Keeps s0 s) :
    Keeps s0 (State.commitDeliver s act v0).2 := by
  induction v0 generalizing s act with
  | nil =>
    unfold State.commitDeliver
    repeat with_reducible first | assumption | apply ih | apply free_keeps | apply Keeps.ite2
  | cons a t ih =>
    unfold State.commitDeliver
    repeat with_reducible first | assumption | apply ih | apply free_keeps | apply Keeps.ite2

theorem commitSlot_keeps (id : Nat) (k : Nat) (x : Inst) (sl : InstSlot) {s0 s : State} (hk : Keeps s0 s) :
    Keeps s0 (State.commitSlot s id k x sl) := by
  unfold State.commitSlot
  repeat with_reducible first
    | assumption | apply bump_keeps | apply commitDeliver_keeps | apply finishJob_keeps | apply finishSlot_keeps | apply missJob_keeps
    | apply setSlot_keeps | apply Keeps.ite
    | (extract_lets +onlyGivenNames xx; revert xx; intro x; refine (fun hx => ?_) (?_ : Keeps s0 x); clear_value x)
    | (extract_lets +onlyGivenNames xx; revert xx; intro x; clear_value x) | split

theorem commitInst_keeps (id : Nat) {s0 s : State} (hk : Keeps s0 s) :
    Keeps s0 (State.commitInst s id) := by
  unfold State.commitInst
  repeat with_reducible first
    | assumption | apply commitSlot_keeps | apply setInst_keeps | apply Keeps.ite | refine Keeps.foldl _ (fun _ _ _ => ?_) ?_
    | split

theorem effCommitPoint_keeps (inst : Bool) (id : Nat) {s0 s : State} (hk : Keeps s0 s) :
    Keeps s0 (effCommitPoint s inst id) := by
  unfold effCommitPoint
  repeat with_reducible first | assumption | apply commitInst_keeps | apply commitReq_keeps | apply Keeps.ite

theorem slotMap_keeps (x : Inst) (id : Nat) (sl : InstSlot) (last : Option Nat) (st0 : Bool → Status) (es : List Nat) (path : Nat) (tail : Bytes) {s0 s : State} (hk : Keeps s0 s) :
    Keeps s0 (State.slotMap s x id sl last st0 es path tail).2.2 := by
  unfold State.slotMap
  repeat with_reducible first | assumption | apply bufWrite_keeps

theorem slotEmpty_keeps (x : Inst) (id : Nat) (sl : InstSlot) (st : Status) (path : Nat) {s0 s : State} (hk : Keeps s0 s) :
    Keeps s0 (State.slotEmpty s x id sl st path).2 := by
  unfold State.slotEmpty
  repeat with_reducible first | assumption | apply slotMap_keeps

theorem slotDeliver_keeps (x : Inst) (id : Nat) (sl : InstSlot) (f : FpFmt) (path : Nat) {s0 s : State} (hk : Keeps s0 s) :
    Keeps s0 (State.slotDeliver s x id sl f path).2 := by
  unfold State.slotDeliver
  repeat with_reducible first
    | assumption | apply decodeAny_keeps | apply putBlocks_keeps | apply slotMap_keeps | apply Keeps.ite
    | refine Keeps.foldl _ (fun _ _ _ => ?_) ?_

theorem slotOutputs_keeps (x : Inst) (id : Nat) (sl : InstSlot) (path : Nat) {s0 s : State} (hk : Keeps s0 s) :
    Keeps s0 (State.slotOutputs s x id sl path).2 := by
  unfold State.slotOutputs
  repeat with_reducible first | assumption | apply bufWrite_keeps | apply slotMap_keeps

theorem slotList_keeps (x : Inst) (id : Nat) (sl : InstSlot) {s0 s : State} (hk : Keeps s0 s) :
    Keeps s0 (State.slotList s x id sl).2 := by
  unfold State.slotList
  repeat with_reducible first | assumption | apply bufWrite_keeps

theorem slotUndefined_keeps (x : Inst) (id : Nat) (sl : InstSlot) (f : FpFmt) {s0 s : State} (hk : Keeps s0 s) :
    Keeps s0 (State.slotUndefined s x id sl f) := by
  unfold State.slotUndefined
  repeat with_reducible first | assumption | apply bufWrite_keeps | apply freeBytes_keeps | apply Keeps.ite

theorem slotWrite_keeps (x : Inst) (id : Nat) (skip : Bool) (path : Nat) (f : FpFmt) (sl : InstSlot) {s0 s : State} (hk : Keeps s0 s) :
    Keeps s0 (State.slotWrite s x id skip path f sl).2 := by
  unfold State.slotWrite
  repeat with_reducible first
    | assumption | apply slotDeliver_keeps | apply slotEmpty_keeps | apply slotList_keeps | apply slotOutputs_keeps
    | apply Keeps.ite2

theorem slotWrites_keeps (x : Inst) (id : Nat) (skip : Bool) (path : Nat) (f : FpFmt) (v0 : List InstSlot) {s0 s : State} (hk : Keeps s0 s) :
    Keeps s0 (State.slotWrites s x id skip path f v0).2 := by
  induction v0 generalizing s x id skip path f with
  | nil =>
    unfold State.slotWrites
    repeat with_reducible first | assumption | apply ih | apply slotWrite_keeps
  | cons a t ih =>
    unfold State.slotWrites
    repeat with_reducible first | assumption | apply ih | apply slotWrite_keeps

theorem instWrite_keeps (id : Nat) (x : Inst) {s0 s : State} (hk : Keeps s0 s) :
    Keeps s0 (State.instWrite s id x) := by
  unfold State.instWrite
  repeat with_reducible first
    | assumption | apply bump_keeps | apply setInst_keeps | apply slotUndefined_keeps | apply slotWrites_keeps | apply Keeps.ite
    | apply Keeps.ite2 | refine Keeps.foldl _ (fun _ _ _ => ?_) ?_

theorem instComplete_keeps (id : Nat) (x : Inst) (st : Status) (c : Cpl) {s0 s : State} (hk : Keeps s0 s) :
    Keeps s0 (State.instComplete s id x st c) := by
  unfold State.instComplete
  repeat with_reducible first
    | assumption | apply bump_keeps | apply cqUnreserve_keeps | apply postCq_keeps | apply raise_keeps | apply raisePoison_keeps
    | apply setSched_keeps | apply Keeps.ite | apply Keeps.upd

theorem effEventCompletion_keeps (id : Nat) {s0 s : State} (hk : Keeps s0 s) :
    Keeps s0 (effEventCompletion s id) := by
  unfold effEventCompletion
  repeat with_reducible first
    | assumption | apply commitInst_keeps | apply instComplete_keeps | apply instWrite_keeps | apply Keeps.ite
    | (extract_lets +onlyGivenNames xx; revert xx; intro x; refine (fun hx => ?_) (?_ : Keeps s0 x); clear_value x) | split

theorem effWorkUnitFinish_keeps (n : Nat) {s0 s : State} (hk : Keeps s0 s) :
    Keeps s0 (effWorkUnitFinish s n) := by
  unfold effWorkUnitFinish
  repeat with_reducible first
    | assumption | apply bump_keeps | apply dispatch_keeps | apply finishJob_keeps | apply setSpire_keeps
    | apply startUnit_keeps | apply Keeps.ite
    | (extract_lets +onlyGivenNames xx; revert xx; intro x; refine (fun hx => ?_) (?_ : Keeps s0 x); clear_value x)
    | (extract_lets +onlyGivenNames xx; revert xx; intro x; clear_value x) | split | apply Keeps.upd

end Sys2Proof.Machine
end

