-- ==== Sys2Proof/Laws/KeepsLinks.lean ====
section
/-! SUPPORT. What is kept by the pool, the network and the ring: the queue and the invariant. -/

namespace Sys2Proof.Machine

open Sys2Proof

theorem health_keeps (f : Health → Health) {s0 s : State} (hk : Keeps s0 s) :
    Keeps s0 (State.health s f) := by
  unfold State.health
  repeat with_reducible first
    | assumption | (extract_lets +onlyGivenNames xx; revert xx; intro x; clear_value x) | apply Keeps.upd

theorem endRewrites_keeps (g : Group) {s0 s : State} (hk : Keeps s0 s) :
    Keeps s0 (State.endRewrites s g) := by
  unfold State.endRewrites
  repeat with_reducible first | assumption | apply setLeaf_keeps | refine Keeps.foldl _ (fun _ _ _ => ?_) ?_ | split

theorem dropGroup_keeps (gid : Nat) {s0 s : State} (hk : Keeps s0 s) :
    Keeps s0 (State.dropGroup s gid) := by
  unfold State.dropGroup
  repeat with_reducible first
    | assumption | apply abandonPlan_keeps | apply complete_keeps | apply endRewrites_keeps | apply wait_keeps
    | refine Keeps.snd ?_ (by assumption)
    | (extract_lets +onlyGivenNames xx; revert xx; intro x; refine (fun hx => ?_) (?_ : Keeps s0 x); clear_value x)
    | (extract_lets +onlyGivenNames xx; revert xx; intro x; clear_value x) | split | apply Keeps.upd

theorem enterReadOnly_keeps {s0 s : State} (hk : Keeps s0 s) :
    Keeps s0 (State.enterReadOnly s) := by
  unfold State.enterReadOnly
  repeat with_reducible first
    | assumption | apply dropGroup_keeps | apply put_keeps | apply raise_keeps | apply Keeps.ite
    | refine Keeps.foldl _ (fun _ _ _ => ?_) ?_
    | (extract_lets +onlyGivenNames xx; revert xx; intro x; refine (fun hx => ?_) (?_ : Keeps s0 x); clear_value x)
    | (extract_lets +onlyGivenNames xx; revert xx; intro x; clear_value x) | apply Keeps.upd

theorem retireBlock_keeps (key : Nat) {s0 s : State} (hk : Keeps s0 s) :
    Keeps s0 (State.retireBlock s key) := by
  unfold State.retireBlock
  repeat with_reducible first
    | assumption | apply enterReadOnly_keeps | apply health_keeps | apply noteBlocks_keeps | apply put_keeps | apply raise_keeps
    | apply setBlock_keeps | apply Keeps.ite
    | (extract_lets +onlyGivenNames xx; revert xx; intro x; refine (fun hx => ?_) (?_ : Keeps s0 x); clear_value x)
    | (extract_lets +onlyGivenNames xx; revert xx; intro x; clear_value x) | apply Keeps.upd

theorem retryPending_keeps {s0 s : State} (hk : Keeps s0 s) :
    Keeps s0 (State.retryPending s) := by
  unfold State.retryPending
  repeat with_reducible first
    | assumption | apply programQuarters_keeps | apply setGroup_keeps | apply Keeps.ite
    | refine Keeps.foldl _ (fun _ _ _ => ?_) ?_ | split

theorem effFlashProgramDone_keeps (pa : Nat) {s0 s : State} (hk : Keeps s0 s) :
    Keeps s0 (effFlashProgramDone s pa) := by
  unfold effFlashProgramDone
  repeat with_reducible first
    | assumption | apply closeRow_keeps | apply issueNand_keeps | apply Keeps.ite
    | (extract_lets +onlyGivenNames xx; revert xx; intro x; clear_value x) | split | apply Keeps.upd

theorem replaceMu_keeps (pa : Nat) {s0 s : State} (hk : Keeps s0 s) :
    Keeps s0 (State.replaceMu s pa) := by
  unfold State.replaceMu
  repeat with_reducible first
    | assumption | apply dropGroup_keeps | apply issueNand_keeps | apply place_keeps | apply setGroup_keeps | apply Keeps.ite
    | refine Keeps.snd ?_ (by assumption)
    | (extract_lets +onlyGivenNames xx; revert xx; intro x; refine (fun hx => ?_) (?_ : Keeps s0 x); clear_value x)
    | (extract_lets +onlyGivenNames xx; revert xx; intro x; clear_value x) | split | apply Keeps.upd

theorem effFlashProgramFail_keeps (pa : Nat) {s0 s : State} (hk : Keeps s0 s) :
    Keeps s0 (effFlashProgramFail s pa) := by
  unfold effFlashProgramFail
  repeat with_reducible first
    | assumption | apply health_keeps | apply replaceMu_keeps | apply retireBlock_keeps | apply setBand_keeps | apply Keeps.ite
    | refine Keeps.snd ?_ (by assumption) | refine Keeps.foldl _ (fun _ _ _ => ?_) ?_
    | (extract_lets +onlyGivenNames xx; revert xx; intro x; refine (fun hx => ?_) (?_ : Keeps s0 x); clear_value x)
    | (extract_lets +onlyGivenNames xx; revert xx; intro x; clear_value x) | split | apply Keeps.upd

theorem eraseBand_keeps (k : Nat) (b : Band) {s0 s : State} (hk : Keeps s0 s) :
    Keeps s0 (State.eraseBand s k b) := by
  unfold State.eraseBand
  repeat with_reducible first
    | assumption | apply issueNand_keeps | (extract_lets +onlyGivenNames xx; revert xx; intro x; clear_value x)
    | apply Keeps.upd

theorem reapBands_keeps {s0 s : State} (hk : Keeps s0 s) :
    Keeps s0 (State.reapBands s) := by
  unfold State.reapBands
  repeat with_reducible first | assumption | apply eraseBand_keeps | apply Keeps.ite | refine Keeps.foldl _ (fun _ _ _ => ?_) ?_

theorem effFlashEraseDone_keeps (key : Nat) (fail : Bool) {s0 s : State} (hk : Keeps s0 s) :
    Keeps s0 (effFlashEraseDone s key fail) := by
  unfold effFlashEraseDone
  repeat with_reducible first
    | assumption | apply health_keeps | apply issueNand_keeps | apply noteBlocks_keeps | apply retireBlock_keeps
    | apply retryPending_keeps | apply setBlock_keeps | apply Keeps.ite
    | (extract_lets +onlyGivenNames xx; revert xx; intro x; refine (fun hx => ?_) (?_ : Keeps s0 x); clear_value x)
    | (extract_lets +onlyGivenNames xx; revert xx; intro x; clear_value x) | apply Keeps.upd

theorem setImage_keeps (f : Image → Image) {s0 s : State} (hk : Keeps s0 s) :
    Keeps s0 (State.setImage s f) := by
  unfold State.setImage
  repeat with_reducible first
    | assumption | (extract_lets +onlyGivenNames xx; revert xx; intro x; clear_value x) | apply Keeps.upd

theorem applyMove_keeps (i : Nat) (q : Nat) (new : Nat) (old : Nat) (gen : Epoch) {s0 s : State} (hk : Keeps s0 s) :
    Keeps s0 (State.applyMove s i q new old gen) := by
  unfold State.applyMove
  repeat with_reducible first | assumption | apply setImage_keeps | apply setLeaf_keeps | apply Keeps.ite

theorem takeDurable_keeps (i : Nat) (rec : Leaf) (d : Copy) (qs : List Nat) {s0 s : State} (hk : Keeps s0 s) :
    Keeps s0 (State.takeDurable s i rec d qs) := by
  unfold State.takeDurable
  repeat with_reducible first
    | assumption | apply endSweeps_keeps | apply setLeaf_keeps | apply Keeps.ite | refine Keeps.snd ?_ (by assumption)
    | (extract_lets +onlyGivenNames xx; revert xx; intro x; refine (fun hx => ?_) (?_ : Keeps s0 x); clear_value x)
    | (extract_lets +onlyGivenNames xx; revert xx; intro x; clear_value x) | split | apply Keeps.upd

theorem applyLeaf_keeps (recs : List JRec) (plan : Bool) (i : Nat) (rec : Leaf) {s0 s : State} (hk : Keeps s0 s) :
    Keeps s0 (State.applyLeaf s recs plan i rec) := by
  unfold State.applyLeaf
  repeat with_reducible first
    | assumption | apply setImage_keeps | apply takeDurable_keeps | apply Keeps.ite
    | (extract_lets +onlyGivenNames xx; revert xx; intro x; refine (fun hx => ?_) (?_ : Keeps s0 x); clear_value x)
    | (extract_lets +onlyGivenNames xx; revert xx; intro x; clear_value x) | split

theorem applyRec_keeps (recs : List JRec) (plan : Bool) (r : JRec) {s0 s : State} (hk : Keeps s0 s) :
    Keeps s0 (State.applyRec s recs plan r) := by
  unfold State.applyRec
  repeat with_reducible first | assumption | apply applyLeaf_keeps | apply applyMove_keeps | apply setImage_keeps | split

theorem passTo_keeps (k : Nat) (row : Nat) {s0 s : State} (hk : Keeps s0 s) :
    Keeps s0 (State.passTo s k row) := by
  unfold State.passTo
  repeat with_reducible first | assumption | apply setBand_keeps | apply Keeps.ite | split

theorem addJournal_keeps (pa : Nat) (es : List JEntry) {s0 s : State} (hk : Keeps s0 s) :
    Keeps s0 (State.addJournal s pa es) := Keeps.upd hk

theorem closeFor_keeps (pa : Nat) {s0 s : State} (hk : Keeps s0 s) :
    Keeps s0 (State.closeFor s pa) := by
  unfold State.closeFor
  repeat with_reducible first
    | assumption | apply closeRow_keeps | apply passTo_keeps | apply Keeps.ite | refine Keeps.foldl _ (fun _ _ _ => ?_) ?_
    | (extract_lets +onlyGivenNames xx; revert xx; intro x; refine (fun hx => ?_) (?_ : Keeps s0 x); clear_value x)
    | (extract_lets +onlyGivenNames xx; revert xx; intro x; clear_value x) | split

theorem writeJournal_keeps (v0 : List (List JEntry)) {s0 s : State} (hk : Keeps s0 s) :
    KeepsO s0 (State.writeJournal s v0) := by
  induction v0 generalizing s with
  | nil => exact KeepsO.some hk
  | cons es rest ih =>
    unfold State.writeJournal
    repeat with_reducible first
      | assumption | apply ih | apply closeRow_keeps | apply addJournal_keeps | apply place_keeps | apply KeepsO.ite
      | exact KeepsO.none | refine Keeps.snd ?_ (by assumption)
      | (extract_lets +onlyGivenNames xx; revert xx; intro x; refine (fun hx => ?_) (?_ : Keeps s0 x); clear_value x) | split

theorem commitGroup_keeps (gid : Nat) (g : Group) {s0 s : State} (hk : Keeps s0 s) :
    Keeps s0 (State.commitGroup s gid g) := by
  unfold State.commitGroup
  repeat with_reducible first
    | assumption | apply applyRec_keeps | apply bump_keeps | apply closeFor_keeps | apply complete_keeps
    | apply finishPlan_keeps | apply reapBands_keeps | apply wait_keeps | refine Keeps.snd ?_ (by assumption)
    | refine Keeps.foldl _ (fun _ _ _ => ?_) ?_
    | (extract_lets +onlyGivenNames xx; revert xx; intro x; refine (fun hx => ?_) (?_ : Keeps s0 x); clear_value x)
    | (extract_lets +onlyGivenNames xx; revert xx; intro x; clear_value x) | split | apply Keeps.upd

theorem effJournalCommit_keeps (gid : Nat) {s0 s : State} (hk : Keeps s0 s) :
    Keeps s0 (effJournalCommit s gid) := by
  unfold effJournalCommit
  split
  · exact hk
  · refine Keeps.ite hk (Keeps.ite hk ?_)
    split
    · exact hk
    · next h => exact commitGroup_keeps _ _ (KeepsO.get (writeJournal_keeps _ hk) h)

theorem relocateLeaf_keeps (b : Band) (i : Nat) {s0 s : State} (hk : Keeps s0 s) :
    Keeps s0 (State.relocateLeaf s b i) := by
  unfold State.relocateLeaf
  repeat with_reducible first
    | assumption | apply health_keeps | apply issueNand_keeps | apply openGroup_keeps | apply place_keeps
    | apply poisonLeaf_keeps | apply setLeaf_keeps | apply Keeps.ite | refine Keeps.snd ?_ (by assumption)
    | (extract_lets +onlyGivenNames xx; revert xx; intro x; clear_value x) | split

theorem relocateBand_keeps (b : Band) {s0 s : State} (hk : Keeps s0 s) :
    Keeps s0 (State.relocateBand s b) := by
  unfold State.relocateBand
  repeat with_reducible first | assumption | apply relocateLeaf_keeps | refine Keeps.foldl _ (fun _ _ _ => ?_) ?_

theorem effFold_keeps {s0 s : State} (hk : Keeps s0 s) :
    Keeps s0 (effFold s) := by
  unfold effFold
  repeat with_reducible first
    | assumption | apply reapBands_keeps | apply relocateBand_keeps | apply Keeps.ite
    | (extract_lets +onlyGivenNames xx; revert xx; intro x; clear_value x) | split | apply Keeps.upd

theorem effGarbageCollection_keeps {s0 s : State} (hk : Keeps s0 s) :
    Keeps s0 (effGarbageCollection s) := by
  unfold effGarbageCollection
  repeat with_reducible first
    | assumption | apply reapBands_keeps | apply relocateBand_keeps | apply Keeps.ite
    | (extract_lets +onlyGivenNames xx; revert xx; intro x; refine (fun hx => ?_) (?_ : Keeps s0 x); clear_value x)
    | (extract_lets +onlyGivenNames xx; revert xx; intro x; clear_value x) | split | apply Keeps.upd

theorem ckptBands_keeps (v0 : Nat) {s0 s : State} (hk : Keeps s0 s) :
    Keeps s0 (State.ckptBands s v0) := by
  induction v0 generalizing s with
  | zero => exact hk
  | succ n ih =>
    unfold State.ckptBands
    repeat with_reducible first
      | assumption | apply ih | apply newBand_keeps | apply setBand_keeps | refine KeepsO2.get ?_ (by assumption) | split

theorem writeCheckpoint_keeps {s0 s : State} (hk : Keeps s0 s) :
    Keeps s0 (State.writeCheckpoint s) := by
  unfold State.writeCheckpoint
  repeat with_reducible first
    | assumption | apply ckptBands_keeps
    | (extract_lets +onlyGivenNames xx; revert xx; intro x; refine (fun hx => ?_) (?_ : Keeps s0 x); clear_value x)
    | apply Keeps.upd

theorem checkpoint_keeps {s0 s : State} (hk : Keeps s0 s) :
    Keeps s0 (State.checkpoint s) := by
  unfold State.checkpoint
  repeat with_reducible first
    | assumption | apply writeCheckpoint_keeps | apply eraseBand_keeps
    | refine Keeps.foldl _ (fun _ _ _ => ?_) ?_
    | (extract_lets +onlyGivenNames xx; revert xx; intro x; clear_value x)

theorem effCheckpoint_keeps {s0 s : State} (hk : Keeps s0 s) :
    Keeps s0 (effCheckpoint s) := by
  unfold effCheckpoint
  repeat with_reducible first | assumption | apply checkpoint_keeps | apply Keeps.ite

theorem setDie_keeps (n : Nat) (d : Die) {s0 s : State} (hk : Keeps s0 s) :
    Keeps s0 (State.setDie s n d) := by
  unfold State.setDie
  repeat with_reducible first
    | assumption | (extract_lets +onlyGivenNames xx; revert xx; intro x; clear_value x) | apply Keeps.upd

theorem spoilDurable_keeps (i : Nat) (q : Nat) (words : Nat) {s0 s : State} (hk : Keeps s0 s) :
    Keeps s0 (State.spoilDurable s i q words) := by
  unfold State.spoilDurable
  repeat with_reducible first
    | assumption | apply setLeaf_keeps | (extract_lets +onlyGivenNames xx; revert xx; intro x; clear_value x) | split

theorem rebuilt_keeps (pa : Nat) {s0 s : State} (hk : Keeps s0 s) :
    Keeps s0 (State.rebuilt s pa) := by
  unfold State.rebuilt
  repeat with_reducible first
    | assumption | apply health_keeps | apply retireBlock_keeps | apply setBlock_keeps | apply Keeps.ite

theorem effFlashReadDone_keeps (pa : Nat) (outcome : Nat) (lat : Nat) (words : Nat) {s0 s : State} (hk : Keeps s0 s) :
    Keeps s0 (effFlashReadDone s pa outcome lat words) := by
  unfold effFlashReadDone
  repeat with_reducible first
    | assumption | apply health_keeps | apply rebuilt_keeps | apply setDie_keeps | apply spoilDurable_keeps | apply Keeps.ite
    | (extract_lets +onlyGivenNames xx; revert xx; intro x; refine (fun hx => ?_) (?_ : Keeps s0 x); clear_value x)
    | (extract_lets +onlyGivenNames xx; revert xx; intro x; clear_value x) | split | apply Keeps.upd

theorem dieTo_keeps (n : Nat) (st : Nat) {s0 s : State} (hk : Keeps s0 s) :
    Keeps s0 (State.dieTo s n st) := by
  unfold State.dieTo
  repeat with_reducible first | assumption | apply put_keeps | apply raise_keeps

theorem effSlowReadTimeout_keeps (read : Nat × Nat) {s0 s : State} (hk : Keeps s0 s) :
    Keeps s0 (effSlowReadTimeout s read) := by
  unfold effSlowReadTimeout
  repeat with_reducible first | assumption | apply dieTo_keeps | apply health_keeps | apply setDie_keeps | apply Keeps.ite

theorem effDieSlowExit_keeps (n : Nat) {s0 s : State} (hk : Keeps s0 s) :
    Keeps s0 (effDieSlowExit s n) := by
  unfold effDieSlowExit
  repeat with_reducible first | assumption | apply put_keeps | apply Keeps.ite

theorem effDieFailed_keeps (n : Nat) {s0 s : State} (hk : Keeps s0 s) :
    Keeps s0 (effDieFailed s n) := by
  unfold effDieFailed
  repeat with_reducible first
    | assumption | apply dieTo_keeps | apply Keeps.ite
    | (extract_lets +onlyGivenNames xx; revert xx; intro x; refine (fun hx => ?_) (?_ : Keeps s0 x); clear_value x)
    | (extract_lets +onlyGivenNames xx; revert xx; intro x; clear_value x) | apply Keeps.upd

theorem effDieTemperatureRead_keeps (n : Nat) (temp : Nat) {s0 s : State} (hk : Keeps s0 s) :
    Keeps s0 (effDieTemperatureRead s n temp) := by
  unfold effDieTemperatureRead
  repeat with_reducible first
    | assumption | apply health_keeps | apply put_keeps | apply Keeps.ite
    | (extract_lets +onlyGivenNames xx; revert xx; intro x; refine (fun hx => ?_) (?_ : Keeps s0 x); clear_value x)
    | (extract_lets +onlyGivenNames xx; revert xx; intro x; clear_value x) | apply Keeps.upd

theorem shutdown_keeps {s0 s : State} (hk : Keeps s0 s) :
    Keeps s0 (State.shutdown s) := by
  have hc := writeCheckpoint_keeps hk
  have hw := writeJournal_keeps [[]] hc
  unfold State.shutdown
  dsimp only
  split
  · exact (hw.get ‹_›).upd
  · exact hc

theorem flashSafe_keeps {s0 s : State} (hk : Keeps s0 s) :
    Keeps s0 (State.flashSafe s) := by
  unfold State.flashSafe
  repeat with_reducible first
    | assumption | apply shutdown_keeps | apply closeFor_keeps | apply replaceMu_keeps | apply Keeps.ite | refine Keeps.foldl _ (fun _ _ _ => ?_) ?_
    | (extract_lets +onlyGivenNames xx; revert xx; intro x; clear_value x) | apply Keeps.upd

theorem effPwrFailFall_keeps {s0 s : State} (hk : Keeps s0 s) :
    Keeps s0 (effPwrFailFall s) := by
  unfold effPwrFailFall
  repeat with_reducible first
    | assumption | apply flashSafe_keeps | apply health_keeps | apply put_keeps | apply raise_keeps | apply Keeps.ite

theorem effPwrFailRise_keeps {s0 s : State} (hk : Keeps s0 s) :
    Keeps s0 (effPwrFailRise s) := by
  unfold effPwrFailRise
  repeat with_reducible first
    | assumption | apply issueNand_keeps | apply put_keeps | apply Keeps.ite
    | (extract_lets +onlyGivenNames xx; revert xx; intro x; clear_value x) | apply Keeps.upd

theorem effHealthSnap_keeps {s0 s : State} (hk : Keeps s0 s) :
    Keeps s0 (effHealthSnap s) := by
  unfold effHealthSnap
  repeat with_reducible first | assumption | apply busWrite_keeps | apply deviceFrame_keeps

theorem format_keeps (b : Bytes) {s0 s : State} (hk : Keeps s0 s) :
    Keeps s0 (State.format s b) := by
  unfold State.format
  repeat with_reducible first
    | assumption | apply put_keeps | refine Keeps.foldl _ (fun _ _ _ => ?_) ?_
    | (extract_lets +onlyGivenNames xx; revert xx; intro x; clear_value x) | apply Keeps.upd

theorem effTableLoadMediaProfile_keeps (rid : Nat) {s0 s : State} (hk : Keeps s0 s) :
    Keeps s0 (effTableLoadMediaProfile s rid) := by
  unfold effTableLoadMediaProfile
  repeat with_reducible first
    | assumption | apply complete_keeps | apply failRead_keeps | apply format_keeps | apply openGroup_keeps | apply put_keeps
    | apply writeAnchor_keeps | apply Keeps.ite | refine Keeps.foldl _ (fun _ _ _ => ?_) ?_
    | (extract_lets +onlyGivenNames xx; revert xx; intro x; clear_value x) | split | apply Keeps.upd

theorem setExtent_keeps (k : Nat) (x : Extent) {s0 s : State} (hk : Keeps s0 s) :
    Keeps s0 (State.setExtent s k x) := by
  unfold State.setExtent
  repeat with_reducible first
    | assumption | (extract_lets +onlyGivenNames xx; revert xx; intro x; clear_value x) | apply Keeps.upd

theorem dropExtent_keeps (k : Nat) {s0 s : State} (hk : Keeps s0 s) :
    Keeps s0 (State.dropExtent s k) := by
  unfold State.dropExtent
  repeat with_reducible first
    | assumption | (extract_lets +onlyGivenNames xx; revert xx; intro x; clear_value x) | apply Keeps.upd

theorem pickExtent_keeps {s0 s : State} (hk : Keeps s0 s) :
    Keeps s0 (State.pickExtent s).2 := by
  unfold State.pickExtent
  repeat with_reducible first | assumption | apply pick_keeps

theorem effDcOffer_keeps (target : Nat) (len : Nat) {s0 s : State} (hk : Keeps s0 s) :
    Keeps s0 (effDcOffer s target len) := by
  unfold effDcOffer
  repeat with_reducible first
    | assumption | apply pickExtent_keeps | apply raise_keeps | apply send_keeps | apply setExtent_keeps | apply Keeps.ite
    | split

theorem effPoolExtAdd_keeps (k : Nat) {s0 s : State} (hk : Keeps s0 s) :
    Keeps s0 (effPoolExtAdd s k) := by
  unfold effPoolExtAdd
  repeat with_reducible first | assumption | apply setExtent_keeps | apply Keeps.ite | split

theorem effPoolBwRefill_keeps (loads : List (Nat × Nat × Nat × Nat)) {s0 s : State} (hk : Keeps s0 s) :
    Keeps s0 (effPoolBwRefill s loads) := by
  unfold effPoolBwRefill
  repeat with_reducible first
    | assumption | apply bump_keeps | apply put_keeps | apply Keeps.ite | refine Keeps.foldl _ (fun _ _ _ => ?_) ?_
    | (extract_lets +onlyGivenNames xx; revert xx; intro x; refine (fun hx => ?_) (?_ : Keeps s0 x); clear_value x)
    | (extract_lets +onlyGivenNames xx; revert xx; intro x; clear_value x) | apply Keeps.upd

theorem dropReads_keeps (addr : Nat) (len : Nat) {s0 s : State} (hk : Keeps s0 s) :
    Keeps s0 (State.dropReads s addr len) := by
  unfold State.dropReads
  repeat with_reducible first
    | assumption | (extract_lets +onlyGivenNames xx; revert xx; intro x; clear_value x) | apply Keeps.upd

theorem effPoolFlush_keeps (rid : Nat) {s0 s : State} (hk : Keeps s0 s) :
    Keeps s0 (effPoolFlush s rid) := by
  unfold effPoolFlush
  repeat with_reducible first
    | assumption | apply bad_keeps | apply complete_keeps | apply dropReads_keeps | apply Keeps.ite | split

theorem expireLease_keeps (l : Lease) {s0 s : State} (hk : Keeps s0 s) :
    Keeps s0 (State.expireLease s l) := by
  unfold State.expireLease
  repeat with_reducible first
    | assumption | apply bump_keeps | apply dropReads_keeps | apply poisonRange_keeps | apply raise_keeps | apply Keeps.ite
    | (extract_lets +onlyGivenNames xx; revert xx; intro x; clear_value x) | apply Keeps.upd

theorem expireDue_keeps (base : Nat) (len : Nat) {s0 s : State} (hk : Keeps s0 s) :
    Keeps s0 (State.expireDue s base len) := by
  unfold State.expireDue
  repeat with_reducible first | assumption | apply expireLease_keeps | refine Keeps.foldl _ (fun _ _ _ => ?_) ?_

theorem leaseLeft_keeps (ls : List Lease) {s0 s : State} (hk : Keeps s0 s) :
    Keeps s0 (State.leaseLeft s ls).2 := by
  unfold State.leaseLeft
  repeat with_reducible first | assumption | apply free_keeps | refine Keeps.snd ?_ (by assumption) | split

theorem renewLease_keeps (l : Lease) (ms : Nat) {s0 s : State} (hk : Keeps s0 s) :
    Keeps s0 (State.renewLease s l ms) := by
  unfold State.renewLease
  repeat with_reducible first
    | assumption | (extract_lets +onlyGivenNames xx; revert xx; intro x; clear_value x) | apply Keeps.upd

theorem acquireAt_keeps (rid : Nat) (r : Req) {s0 s : State} (hk : Keeps s0 s) :
    Keeps s0 (State.acquireAt s rid r) := by
  unfold State.acquireAt
  repeat with_reducible first
    | assumption | apply complete_keeps | apply expireDue_keeps | apply leaseLeft_keeps | apply renewLease_keeps
    | apply Keeps.ite | (extract_lets +onlyGivenNames xx; revert xx; intro x; clear_value x) | split | apply Keeps.upd

theorem renewAt_keeps (rid : Nat) (r : Req) {s0 s : State} (hk : Keeps s0 s) :
    Keeps s0 (State.renewAt s rid r) := by
  unfold State.renewAt
  repeat with_reducible first
    | assumption | apply complete_keeps | apply expireDue_keeps | apply renewLease_keeps
    | (extract_lets +onlyGivenNames xx; revert xx; intro x; refine (fun hx => ?_) (?_ : Keeps s0 x); clear_value x) | split

theorem releaseAt_keeps (rid : Nat) (r : Req) {s0 s : State} (hk : Keeps s0 s) :
    Keeps s0 (State.releaseAt s rid r) := by
  unfold State.releaseAt
  repeat with_reducible first
    | assumption | apply complete_keeps | apply expireDue_keeps
    | (extract_lets +onlyGivenNames xx; revert xx; intro x; refine (fun hx => ?_) (?_ : Keeps s0 x); clear_value x)
    | (extract_lets +onlyGivenNames xx; revert xx; intro x; clear_value x) | split | apply Keeps.upd

theorem leaseOp_keeps (rid : Nat) (op : Nat) (at_ : State → Req → State) {s0 s : State} (h_at_ : ∀ a0 a1, Keeps s0 a0 → Keeps s0 (at_ a0 a1)) (hk : Keeps s0 s) :
    Keeps s0 (State.leaseOp s rid op at_) := by
  unfold State.leaseOp
  repeat with_reducible first
    | assumption | apply h_at_ | apply bad_keeps | apply complete_keeps | apply dropReads_keeps | apply forward_keeps
    | apply Keeps.ite
    | (extract_lets +onlyGivenNames xx; revert xx; intro x; refine (fun hx => ?_) (?_ : Keeps s0 x); clear_value x)
    | (extract_lets +onlyGivenNames xx; revert xx; intro x; clear_value x) | split

theorem effPoolLeaseAcquire_keeps (rid : Nat) {s0 s : State} (hk : Keeps s0 s) :
    Keeps s0 (effPoolLeaseAcquire s rid) := by
  unfold effPoolLeaseAcquire
  repeat with_reducible first | assumption | apply acquireAt_keeps | apply leaseOp_keeps | (intro _)

theorem effPoolLeaseRenew_keeps (rid : Nat) {s0 s : State} (hk : Keeps s0 s) :
    Keeps s0 (effPoolLeaseRenew s rid) := by
  unfold effPoolLeaseRenew
  repeat with_reducible first | assumption | apply leaseOp_keeps | apply renewAt_keeps | (intro _)

theorem effPoolLeaseRelease_keeps (rid : Nat) {s0 s : State} (hk : Keeps s0 s) :
    Keeps s0 (effPoolLeaseRelease s rid) := by
  unfold effPoolLeaseRelease
  repeat with_reducible first | assumption | apply leaseOp_keeps | apply releaseAt_keeps | (intro _)

theorem noteLease_keeps (r : Req) (home : Nat) (expiry : Nat) {s0 s : State} (hk : Keeps s0 s) :
    Keeps s0 (State.noteLease s r home expiry) := by
  unfold State.noteLease
  repeat with_reducible first
    | assumption | (extract_lets +onlyGivenNames xx; revert xx; intro x; clear_value x) | split | apply Keeps.upd

theorem dropLeases_keeps (p : Nat) {s0 s : State} (hk : Keeps s0 s) :
    Keeps s0 (State.dropLeases s p) := by
  unfold State.dropLeases
  repeat with_reducible first
    | assumption | apply dropReads_keeps | apply ringSend_keeps | refine Keeps.foldl _ (fun _ _ _ => ?_) ?_
    | (extract_lets +onlyGivenNames xx; revert xx; intro x; refine (fun hx => ?_) (?_ : Keeps s0 x); clear_value x)
    | (extract_lets +onlyGivenNames xx; revert xx; intro x; clear_value x) | apply Keeps.upd

theorem effPoolLeaseExpiry_keeps (base : Nat) (len : Nat) {s0 s : State} (hk : Keeps s0 s) :
    Keeps s0 (effPoolLeaseExpiry s base len) := by
  unfold effPoolLeaseExpiry
  repeat with_reducible first | assumption | apply expireLease_keeps | apply Keeps.ite | split

theorem effPoolLeaseAutoRenew_keeps (rid : Nat) (ok : Bool) {s0 s : State} (hk : Keeps s0 s) :
    Keeps s0 (effPoolLeaseAutoRenew s rid ok) := by
  unfold effPoolLeaseAutoRenew
  repeat with_reducible first
    | assumption | apply abandonPlan_keeps | apply renewLease_keeps | apply Keeps.ite
    | (extract_lets +onlyGivenNames xx; revert xx; intro x; clear_value x) | split | apply Keeps.upd

theorem abortInto_keeps (x : Extent) (i : Nat) {s0 s : State} (hk : Keeps s0 s) :
    Keeps s0 (State.abortInto s x i) := by
  unfold State.abortInto
  repeat with_reducible first
    | assumption | apply failMove_keeps | apply Keeps.ite
    | (extract_lets +onlyGivenNames xx; revert xx; intro x; refine (fun hx => ?_) (?_ : Keeps s0 x); clear_value x)
    | (extract_lets +onlyGivenNames xx; revert xx; intro x; clear_value x)

theorem moveOut_keeps (i : Nat) {s0 s : State} (hk : Keeps s0 s) :
    Keeps s0 (State.moveOut s i).2 := by
  unfold State.moveOut
  repeat with_reducible first
    | assumption | apply startMove_keeps | apply evict_keeps | apply pick_keeps | apply pickPool_keeps
    | apply Keeps.ite2 | refine Keeps.snd ?_ (by assumption) | split

theorem drainExtent_keeps (k : Nat) {s0 s : State} (hk : Keeps s0 s) :
    Keeps s0 (State.drainExtent s k) := by
  unfold State.drainExtent
  repeat with_reducible first
    | assumption | apply abortInto_keeps | apply moveOut_keeps | apply setExtent_keeps | apply Keeps.ite
    | refine Keeps.foldl _ (fun _ _ _ => ?_) ?_ | refine Keeps.foldl2 _ (fun _ _ _ => ?_) ?_ | split

theorem startRelease_keeps (k : Nat) {s0 s : State} (hk : Keeps s0 s) :
    Keeps s0 (State.startRelease s k) := by
  unfold State.startRelease
  repeat with_reducible first | assumption | apply drainExtent_keeps | apply setExtent_keeps | apply Keeps.ite | split

theorem effDcReleaseRequest_keeps (k : Nat) {s0 s : State} (hk : Keeps s0 s) :
    Keeps s0 (effDcReleaseRequest s k) := by
  unfold effDcReleaseRequest
  repeat with_reducible first | assumption | apply startRelease_keeps | apply Keeps.ite | split

theorem effPoolExtRelease_keeps (k : Nat) {s0 s : State} (hk : Keeps s0 s) :
    Keeps s0 (effPoolExtRelease s k) := by
  unfold effPoolExtRelease
  repeat with_reducible first | assumption | apply startRelease_keeps

theorem effPoolReleaseMsExpiry_keeps (k : Nat) {s0 s : State} (hk : Keeps s0 s) :
    Keeps s0 (effPoolReleaseMsExpiry s k) := by
  unfold effPoolReleaseMsExpiry
  repeat with_reducible first
    | assumption | apply Keeps.ite | (extract_lets +onlyGivenNames xx; revert xx; intro x; clear_value x) | split
    | apply Keeps.upd

theorem effExtentReleased_keeps (k : Nat) {s0 s : State} (hk : Keeps s0 s) :
    Keeps s0 (effExtentReleased s k) := by
  unfold effExtentReleased
  repeat with_reducible first
    | assumption | apply drainExtent_keeps | apply dropExtent_keeps | apply raise_keeps | apply send_keeps | apply setLeaf_keeps
    | apply Keeps.ite | refine Keeps.foldl _ (fun _ _ _ => ?_) ?_
    | (extract_lets +onlyGivenNames xx; revert xx; intro x; refine (fun hx => ?_) (?_ : Keeps s0 x); clear_value x) | split

theorem spoilViews_keeps (gone : Copy → Bool) {s0 s : State} (hk : Keeps s0 s) :
    Keeps s0 (State.spoilViews s gone) := by
  unfold State.spoilViews
  repeat with_reducible first
    | assumption | apply bump_keeps
    | (extract_lets +onlyGivenNames xx; revert xx; intro x; refine (fun hx => ?_) (?_ : Keeps s0 x); clear_value x)
    | (extract_lets +onlyGivenNames xx; revert xx; intro x; clear_value x) | apply Keeps.upd

theorem losePrimary_keeps (lost : State → Nat → State) (i : Nat) {s0 s : State} (h_lost : ∀ a0 a1, Keeps s0 a0 → Keeps s0 (lost a0 a1)) (hk : Keeps s0 s) :
    Keeps s0 (State.losePrimary s lost i) := by
  unfold State.losePrimary
  repeat with_reducible first
    | assumption | apply h_lost | apply complete_keeps | apply setLeaf_keeps | apply switchRecord_keeps | apply Keeps.ite
    | split

theorem failExtent_keeps (k : Nat) {s0 s : State} (hk : Keeps s0 s) :
    Keeps s0 (State.failExtent s k) := by
  unfold State.failExtent
  repeat with_reducible first
    | assumption | apply abortInto_keeps | apply losePrimary_keeps | apply poisonLeaf_keeps | apply setExtent_keeps
    | apply spoilViews_keeps | refine Keeps.foldl _ (fun _ _ _ => ?_) ?_
    | (extract_lets +onlyGivenNames xx; revert xx; intro x; refine (fun hx => ?_) (?_ : Keeps s0 x); clear_value x)
    | (extract_lets +onlyGivenNames xx; revert xx; intro x; clear_value x) | split | apply Keeps.upd | (intro _)

theorem effPoolTargetFail_keeps (target : Nat) (ext : Option Nat) {s0 s : State} (hk : Keeps s0 s) :
    Keeps s0 (effPoolTargetFail s target ext) := by
  unfold effPoolTargetFail
  repeat with_reducible first
    | assumption | apply failExtent_keeps | apply raise_keeps | apply Keeps.ite | refine Keeps.foldl _ (fun _ _ _ => ?_) ?_

theorem effPoolPortDown_keeps {s0 s : State} (hk : Keeps s0 s) :
    Keeps s0 (effPoolPortDown s) := by
  unfold effPoolPortDown
  repeat with_reducible first
    | assumption | apply raise_keeps | refine Keeps.foldl _ (fun _ _ h => ?_) ?_ | apply put_keeps | apply failMove_keeps
    | refine losePrimary_keeps _ _ ?_ ?_ | exact fun _ _ h => evict_keeps _ h | apply spoilViews_keeps | apply Keeps.ite | apply Keeps.upd
    | (extract_lets +onlyGivenNames xx; revert xx; intro x; refine (fun hx => ?_) (?_ : Keeps s0 x); clear_value x)
    | (extract_lets +onlyGivenNames xx; revert xx; intro x; clear_value x)

theorem effPoolRestart_keeps {s0 s : State} (hk : Keeps s0 s) :
    Keeps s0 (effPoolRestart s) := by
  unfold effPoolRestart
  repeat with_reducible first | assumption | apply put_keeps | apply Keeps.ite | refine Keeps.foldl _ (fun _ _ _ => ?_) ?_

theorem effPoolLinkTrained_keeps (cxl31 common : Bool) (width : Nat) (targets : List (Nat × Nat × Nat)) {s0 s : State} (hk : Keeps s0 s) :
    Keeps s0 (effPoolLinkTrained s cxl31 common width targets) := by
  unfold effPoolLinkTrained
  repeat with_reducible first
    | assumption | apply put_keeps | apply Keeps.ite
    | (extract_lets +onlyGivenNames xx; revert xx; intro x; refine (fun hx => ?_) (?_ : Keeps s0 x); clear_value x)
    | (extract_lets +onlyGivenNames xx; revert xx; intro x; clear_value x) | apply Keeps.upd

theorem poolWrite_keeps (p : Nat) (target : Nat) (addr : Nat) (bs : Bytes) {s0 s : State} (hk : Keeps s0 s) :
    Keeps s0 (State.poolWrite s p target addr bs) := by
  unfold State.poolWrite
  repeat with_reducible first | assumption | apply busWrite_keeps | apply dropReads_keeps | apply poolTake_keeps

theorem stageWrite_keeps (rid : Nat) (r : Req) (q : Sequ) (k : Nat) (vs : List View) {s0 s : State} (hk : Keeps s0 s) :
    Keeps s0 (State.stageWrite s rid r q k vs) := by
  unfold State.stageWrite
  repeat with_reducible first
    | assumption | apply complete_keeps | apply poolWrite_keeps | apply Keeps.ite
    | (extract_lets +onlyGivenNames xx; revert xx; intro x; clear_value x) | split

theorem effPoolStageOut_keeps (rid : Nat) {s0 s : State} (hk : Keeps s0 s) :
    Keeps s0 (effPoolStageOut s rid) := by
  unfold effPoolStageOut
  repeat with_reducible first
    | assumption | apply complete_keeps | apply stageWrite_keeps | apply takeView_keeps | apply unhold_keeps | apply Keeps.ite
    | refine Keeps.foldl _ (fun _ _ _ => ?_) ?_ | refine Keeps.foldl2 _ (fun _ _ _ => ?_) ?_ | split

theorem poolRead_keeps (p : Nat) (target : Nat) (addr : Nat) (n : Nat) {s0 s : State} (hk : Keeps s0 s) :
    Keeps s0 (State.poolRead s p target addr n).2 := by
  unfold State.poolRead
  repeat with_reducible first
    | assumption | apply bump_keeps | apply free_keeps | apply poolTake_keeps
    | (extract_lets +onlyGivenNames xx; revert xx; intro x; clear_value x) | split | apply Keeps.upd

theorem stageLeaf_keeps (q : Sequ) (qi : Nat) (c : Chunk) (i : Nat) (h : LeafHdr) (payload : Bytes) {s0 s : State} (hk : Keeps s0 s) :
    Keeps s0 (State.stageLeaf s q qi c i h payload).2 := by
  unfold State.stageLeaf
  repeat with_reducible first | assumption | apply encodeCopy_keeps

theorem stageLeaves_keeps (q : Sequ) (qi : Nat) (p : Snap) (v0 : List (Chunk × Nat × Bytes)) (v1 : Nat) (v2 : Table Leaf) {s0 s : State} (hk : Keeps s0 s) :
    Keeps s0 (State.stageLeaves s q qi p v0 v1 v2).2 := by
  induction v0 generalizing s v1 v2 q qi p with
  | nil =>
    unfold State.stageLeaves
    repeat with_reducible first | assumption | apply ih | apply stageLeaf_keeps
  | cons a t ih =>
    unfold State.stageLeaves
    repeat with_reducible first | assumption | apply ih | apply stageLeaf_keeps

theorem stageTake_keeps (rid : Nat) (r : Req) (q : Sequ) (qi : Nat) (p : Snap) (payloads : List Bytes) {s0 s : State} (hk : Keeps s0 s) :
    Keeps s0 (State.stageTake s rid r q qi p payloads) := by
  unfold State.stageTake
  repeat with_reducible first
    | assumption | apply closeLeaf_keeps | apply complete_keeps | apply finishPlan_keeps | apply openChunks_keeps
    | apply programPlan_keeps | apply setGroup_keeps | apply stageLeaves_keeps | apply Keeps.ite
    | refine Keeps.foldl _ (fun _ _ _ => ?_) ?_ | refine Keeps.fth ?_ (by assumption)
    | (extract_lets +onlyGivenNames xx; revert xx; intro x; refine (fun hx => ?_) (?_ : Keeps s0 x); clear_value x)
    | (extract_lets +onlyGivenNames xx; revert xx; intro x; clear_value x) | split

theorem stageCheck_keeps (rid : Nat) (r : Req) (q : Sequ) (qi : Nat) (p : Snap) (poison : Bool) {s0 s : State} (hk : Keeps s0 s) :
    Keeps s0 (State.stageCheck s rid r q qi p poison) := by
  unfold State.stageCheck
  repeat with_reducible first
    | assumption | apply complete_keeps | apply raise_keeps | apply stageTake_keeps | apply Keeps.ite
    | refine Keeps.snd ?_ (by assumption)
    | (extract_lets +onlyGivenNames xx; revert xx; intro x; refine (fun hx => ?_) (?_ : Keeps s0 x); clear_value x)
    | (extract_lets +onlyGivenNames xx; revert xx; intro x; clear_value x) | split

theorem effPoolStageIn_keeps (rid : Nat) {s0 s : State} (hk : Keeps s0 s) :
    Keeps s0 (effPoolStageIn s rid) := by
  unfold effPoolStageIn
  repeat with_reducible first
    | assumption | apply bad_keeps | apply complete_keeps | apply poolRead_keeps | apply stageCheck_keeps | apply Keeps.ite
    | refine Keeps.snd ?_ (by assumption) | split

theorem setTxq_keeps (e : Nat) (k : Nat) (q : TxQ) {s0 s : State} (hk : Keeps s0 s) :
    Keeps s0 (State.setTxq s e k q) := by
  unfold State.setTxq
  repeat with_reducible first | assumption | apply Keeps.upd

theorem setTxport_keeps (e : Nat) (p : TxPort) {s0 s : State} (hk : Keeps s0 s) :
    Keeps s0 (State.setTxport s e p) := by
  unfold State.setTxport
  repeat with_reducible first | assumption | apply Keeps.upd

theorem pickWeighted_keeps (e : Nat) (v0 : Nat) {s0 s : State} (hk : Keeps s0 s) :
    Keeps s0 (State.pickWeighted s e v0).2 := by
  induction v0 generalizing s e with
  | zero =>
    unfold State.pickWeighted
    repeat with_reducible first
      | assumption | apply ih | apply setTxport_keeps | apply setTxq_keeps | apply Keeps.ite | apply Keeps.ite2
  | succ n ih =>
    unfold State.pickWeighted
    repeat with_reducible first
      | assumption | apply ih | apply setTxport_keeps | apply setTxq_keeps | apply Keeps.ite | apply Keeps.ite2

theorem pickQueue_keeps (e : Nat) {s0 s : State} (hk : Keeps s0 s) :
    Keeps s0 (State.pickQueue s e).2 := by
  unfold State.pickQueue
  repeat with_reducible first
    | assumption | apply pickWeighted_keeps | apply Keeps.ite2 | refine Keeps.snd ?_ (by assumption)
    | (extract_lets +onlyGivenNames xx; revert xx; intro x; clear_value x) | split

theorem startFrame_keeps (e : Nat) (k : Nat) {s0 s : State} (hk : Keeps s0 s) :
    Keeps s0 (State.startFrame s e k) := by
  unfold State.startFrame
  repeat with_reducible first
    | assumption | apply freeSlots_keeps | apply send_keeps | apply setTxq_keeps
    | (extract_lets +onlyGivenNames xx; revert xx; intro x; refine (fun hx => ?_) (?_ : Keeps s0 x); clear_value x)
    | (extract_lets +onlyGivenNames xx; revert xx; intro x; clear_value x) | split

theorem effEgressFrameStart_keeps (e : Nat) {s0 s : State} (hk : Keeps s0 s) :
    Keeps s0 (effEgressFrameStart s e) := by
  unfold effEgressFrameStart
  repeat with_reducible first
    | assumption | apply pickQueue_keeps | apply startFrame_keeps | apply Keeps.ite | refine Keeps.snd ?_ (by assumption)
    | split

theorem effShaperRefill_keeps (e : Nat) {s0 s : State} (hk : Keeps s0 s) :
    Keeps s0 (effShaperRefill s e) := by
  unfold effShaperRefill
  repeat with_reducible first
    | assumption | apply setTxport_keeps | apply Keeps.ite
    | (extract_lets +onlyGivenNames xx; revert xx; intro x; refine (fun hx => ?_) (?_ : Keeps s0 x); clear_value x)
    | (extract_lets +onlyGivenNames xx; revert xx; intro x; clear_value x) | apply Keeps.upd

theorem effQueueDepthSample_keeps (e : Nat) {s0 s : State} (hk : Keeps s0 s) :
    Keeps s0 (effQueueDepthSample s e) := by
  unfold effQueueDepthSample
  repeat with_reducible first | assumption | apply Keeps.upd

theorem effTrafficStatClear_keeps (port : Nat) (queue : Nat) (all : Bool) {s0 s : State} (hk : Keeps s0 s) :
    Keeps s0 (effTrafficStatClear s port queue all) := by
  unfold effTrafficStatClear
  repeat with_reducible first | assumption | apply Keeps.upd

theorem effPartTrafficQWrite_keeps (p : Nat) (val : Nat) {s0 s : State} (hk : Keeps s0 s) :
    Keeps s0 (effPartTrafficQWrite s p val) := by
  unfold effPartTrafficQWrite
  repeat with_reducible first | assumption | apply put_keeps | apply Keeps.ite

theorem effPfcPause_keeps (port : Nat) (prio : Nat) (paused : Bool) {s0 s : State} (hk : Keeps s0 s) :
    Keeps s0 (effPfcPause s port prio paused) := by
  unfold effPfcPause
  repeat with_reducible first | assumption | apply setTxport_keeps | apply Keeps.ite

theorem effMeterRefill_keeps (p : Nat) {s0 s : State} (hk : Keeps s0 s) :
    Keeps s0 (effMeterRefill s p) := by
  unfold effMeterRefill
  repeat with_reducible first
    | assumption | (extract_lets +onlyGivenNames xx; revert xx; intro x; clear_value x) | split | apply Keeps.upd

theorem measure_keeps (p : Nat) (len : Nat) (ecn : Nat) {s0 s : State} (hk : Keeps s0 s) :
    Keeps s0 (State.measure s p len ecn).2.2 := by
  unfold State.measure
  repeat with_reducible first | assumption | apply bump_keeps | apply Keeps.ite3 | split | apply Keeps.upd

theorem measureAll_keeps (p : Nat) (ecn : Nat) (v0 : List Nat) {s0 s : State} (hk : Keeps s0 s) :
    Keeps s0 (State.measureAll s p ecn v0).2.2 := by
  induction v0 generalizing s p ecn with
  | nil =>
    unfold State.measureAll
    repeat with_reducible first | assumption | apply ih | apply measure_keeps
  | cons a t ih =>
    unfold State.measureAll
    repeat with_reducible first | assumption | apply ih | apply measure_keeps

theorem setQp_keeps (k : Nat) (q : Qp) {s0 s : State} (hk : Keeps s0 s) :
    Keeps s0 (State.setQp s k q) := by
  unfold State.setQp
  repeat with_reducible first | assumption | apply Keeps.upd

theorem effSubportLinkChange_keeps (port : Nat) (sub : Nat) (up : Bool) {s0 s : State} (hk : Keeps s0 s) :
    Keeps s0 (effSubportLinkChange s port sub up) := by
  unfold effSubportLinkChange
  repeat with_reducible first | assumption | apply put_keeps | apply raise_keeps | apply Keeps.ite

theorem effQpLoad_keeps (k : Nat) (addr : Nat) {s0 s : State} (hk : Keeps s0 s) :
    Keeps s0 (effQpLoad s k addr) := by
  unfold effQpLoad
  repeat with_reducible first
    | assumption | apply setQp_keeps | apply Keeps.ite
    | (extract_lets +onlyGivenNames xx; revert xx; intro x; refine (fun hx => ?_) (?_ : Keeps s0 x); clear_value x)
    | (extract_lets +onlyGivenNames xx; revert xx; intro x; clear_value x) | split

theorem effQpError_keeps (k : Nat) {s0 s : State} (hk : Keeps s0 s) :
    Keeps s0 (effQpError s k) := by
  unfold effQpError
  repeat with_reducible first | assumption | apply qpStop_keeps | apply Keeps.ite

theorem effQpReset_keeps (k : Nat) {s0 s : State} (hk : Keeps s0 s) :
    Keeps s0 (effQpReset s k) := by
  unfold effQpReset
  repeat with_reducible first
    | assumption | apply qpStop_keeps | apply setQp_keeps
    | (extract_lets +onlyGivenNames xx; revert xx; intro x; refine (fun hx => ?_) (?_ : Keeps s0 x); clear_value x)
    | (extract_lets +onlyGivenNames xx; revert xx; intro x; clear_value x) | split

theorem effQpDrainDone_keeps (k : Nat) {s0 s : State} (hk : Keeps s0 s) :
    Keeps s0 (effQpDrainDone s k) := by
  unfold effQpDrainDone
  repeat with_reducible first | assumption | apply setQp_keeps | apply Keeps.ite

theorem effMrRegister_keeps (rid : Nat) {s0 s : State} (hk : Keeps s0 s) :
    Keeps s0 (effMrRegister s rid) := by
  unfold effMrRegister
  repeat with_reducible first
    | assumption | apply bad_keeps | apply complete_keeps | apply pick_keeps | apply Keeps.ite
    | refine Keeps.snd ?_ (by assumption) | (extract_lets +onlyGivenNames xx; revert xx; intro x; clear_value x) | split
    | apply Keeps.upd

theorem freeMr_keeps (k : Nat) {s0 s : State} (hk : Keeps s0 s) :
    Keeps s0 (State.freeMr s k) := by
  unfold State.freeMr
  repeat with_reducible first | assumption | apply complete_keeps | refine Keeps.foldl _ (fun _ _ _ => ?_) ?_ | apply Keeps.upd

theorem effMrRevoke_keeps (rid : Nat) {s0 s : State} (hk : Keeps s0 s) :
    Keeps s0 (effMrRevoke s rid) := by
  unfold effMrRevoke
  repeat with_reducible first
    | assumption | apply complete_keeps | apply freeMr_keeps | apply wait_keeps | apply Keeps.ite
    | (extract_lets +onlyGivenNames xx; revert xx; intro x; clear_value x) | split | apply Keeps.upd

theorem congested_keeps (k : Nat) (ce : Bool) {s0 s : State} (hk : Keeps s0 s) :
    Keeps s0 (State.congested s k ce) := by
  unfold State.congested
  repeat with_reducible first | assumption | apply qpControl_keeps | apply setQp_keeps | apply Keeps.ite

theorem received_keeps (k : Nat) (n : Nat) (ends : Bool) {s0 s : State} (hk : Keeps s0 s) :
    Keeps s0 (State.received s k n ends) := by
  unfold State.received
  repeat with_reducible first | assumption | apply qpControl_keeps | apply setQp_keeps | apply Keeps.ite

theorem nakIn_keeps (k : Nat) (psn : Nat) (n : Nat) (code : Nat) (cause : Nat) {s0 s : State} (hk : Keeps s0 s) :
    Keeps s0 (State.nakIn s k psn n code cause) := by
  unfold State.nakIn
  repeat with_reducible first
    | assumption | apply qpControl_keeps | apply qpStop_keeps | apply rdmaAsync_keeps | apply setQp_keeps | apply Keeps.ite

theorem accessNak_keeps (k : Nat) (psn : Nat) (n : Nat) {s0 s : State} (hk : Keeps s0 s) :
    Keeps s0 (State.accessNak s k psn n) := by
  unfold State.accessNak
  repeat with_reducible first | assumption | apply bump_keeps | apply nakIn_keeps

theorem answerRead_keeps (k : Nat) (psn : Nat) (addr : Nat) (n : Nat) (fresh : Bool) {s0 s : State} (hk : Keeps s0 s) :
    Keeps s0 (State.answerRead s k psn addr n fresh) := by
  unfold State.answerRead
  repeat with_reducible first
    | assumption | apply enqueue_keeps | apply nakIn_keeps | apply setQp_keeps | apply Keeps.ite
    | refine Keeps.foldl _ (fun _ _ _ => ?_) ?_ | (extract_lets +onlyGivenNames xx; revert xx; intro x; clear_value x) | split

theorem duplicate_keeps (k : Nat) (psn : Nat) (kind : Nat) (rkey : Nat) (addr : Nat) (n : Nat) {s0 s : State} (hk : Keeps s0 s) :
    Keeps s0 (State.duplicate s k psn kind rkey addr n) := by
  unfold State.duplicate
  repeat with_reducible first
    | assumption | apply answerRead_keeps | apply bump_keeps | apply qpControl_keeps | apply qpStop_keeps
    | apply rdmaAsync_keeps | apply Keeps.ite
    | (extract_lets +onlyGivenNames xx; revert xx; intro x; refine (fun hx => ?_) (?_ : Keeps s0 x); clear_value x)
    | (extract_lets +onlyGivenNames xx; revert xx; intro x; clear_value x) | split

theorem effDuplicatePacket_keeps (k : Nat) (psn : Nat) (kind : Nat) (rkey : Nat) (addr : Nat) (n : Nat) {s0 s : State} (hk : Keeps s0 s) :
    Keeps s0 (effDuplicatePacket s k psn kind rkey addr n) := by
  unfold effDuplicatePacket
  repeat with_reducible first | assumption | apply duplicate_keeps | apply Keeps.ite

theorem effPkeyDrop_keeps (k : Nat) (pkey : Nat) (len : Nat) (ecn : Nat) {s0 s : State} (hk : Keeps s0 s) :
    Keeps s0 (effPkeyDrop s k pkey len ecn) := by
  unfold effPkeyDrop
  repeat with_reducible first
    | assumption | apply bump_keeps | apply measure_keeps | apply rdmaAsync_keeps | apply Keeps.ite
    | refine Keeps.thd ?_ (by assumption) | split

theorem writePacket_keeps (k : Nat) (psn : Nat) (rkey : Nat) (addr : Nat) (total : Nat) (data : Bytes) (first : Bool) (last : Bool) {s0 s : State} (hk : Keeps s0 s) :
    Keeps s0 (State.writePacket s k psn rkey addr total data first last) := by
  unfold State.writePacket
  repeat with_reducible first
    | assumption | apply accessNak_keeps | apply busWrite_keeps | apply nakIn_keeps | apply received_keeps | apply setQp_keeps
    | apply Keeps.ite | (extract_lets +onlyGivenNames xx; revert xx; intro x; clear_value x) | split

theorem effRdmaWriteInbound_keeps (k : Nat) (psn : Nat) (rkey : Nat) (addr : Nat) (total : Nat) (data : Bytes) (first : Bool) (last : Bool) (len : Nat) (ecn : Nat) {s0 s : State} (hk : Keeps s0 s) :
    Keeps s0 (effRdmaWriteInbound s k psn rkey addr total data first last len ecn) := by
  unfold effRdmaWriteInbound
  repeat with_reducible first
    | assumption | apply congested_keeps | apply duplicate_keeps | apply measure_keeps | apply qpControl_keeps
    | apply writePacket_keeps | apply Keeps.ite | refine Keeps.thd ?_ (by assumption) | split

theorem effRdmaReadInbound_keeps (k : Nat) (psn : Nat) (rkey : Nat) (addr : Nat) (n : Nat) (len : Nat) (ecn : Nat) {s0 s : State} (hk : Keeps s0 s) :
    Keeps s0 (effRdmaReadInbound s k psn rkey addr n len ecn) := by
  unfold effRdmaReadInbound
  repeat with_reducible first
    | assumption | apply accessNak_keeps | apply answerRead_keeps | apply congested_keeps | apply duplicate_keeps
    | apply measure_keeps | apply nakIn_keeps | apply qpControl_keeps | apply Keeps.ite | refine Keeps.thd ?_ (by assumption)
    | split

theorem effAckCoalesceTimer_keeps (k : Nat) {s0 s : State} (hk : Keeps s0 s) :
    Keeps s0 (effAckCoalesceTimer s k) := by
  unfold effAckCoalesceTimer
  repeat with_reducible first | assumption | apply qpControl_keeps | apply setQp_keeps | apply Keeps.ite

theorem qwpAdmit_keeps (k : Nat) (psn : Nat) (m : Bytes) {s0 s : State} (hk : Keeps s0 s) :
    Keeps s0 (State.qwpAdmit s k psn m) := by
  unfold State.qwpAdmit
  repeat with_reducible first
    | assumption | apply bump_keeps | apply complete_keeps | apply received_keeps | apply Keeps.ite
    | (extract_lets +onlyGivenNames xx; revert xx; intro (x : State → _ → State); skip)
    | (extract_lets +onlyGivenNames xx; revert xx; intro x; clear_value x) | split | apply Keeps.upd

theorem effQwpRequest_keeps (k : Nat) (psn : Nat) (m : Bytes) (lens : List Nat) (ecn : Nat) {s0 s : State} (hk : Keeps s0 s) :
    Keeps s0 (effQwpRequest s k psn m lens ecn) := by
  unfold effQwpRequest
  repeat with_reducible first
    | assumption | apply bump_keeps | apply congested_keeps | apply duplicate_keeps | apply measureAll_keeps | apply nakIn_keeps
    | apply qpControl_keeps | apply qwpAdmit_keeps | apply Keeps.ite | refine Keeps.thd ?_ (by assumption) | split

theorem acked_keeps (k : Nat) (psn : Nat) {s0 s : State} (hk : Keeps s0 s) :
    Keeps s0 (State.acked s k psn) := by
  unfold State.acked
  repeat with_reducible first
    | assumption | apply complete_keeps | apply setQp_keeps | apply Keeps.ite | refine Keeps.foldl _ (fun _ _ _ => ?_) ?_

theorem effAckReceived_keeps (k : Nat) (psn : Nat) (ecn : Nat) {s0 s : State} (hk : Keeps s0 s) :
    Keeps s0 (effAckReceived s k psn ecn) := by
  unfold effAckReceived
  repeat with_reducible first | assumption | apply acked_keeps | apply congested_keeps | apply Keeps.ite

theorem effNakReceived_keeps (k : Nat) (psn : Nat) {s0 s : State} (hk : Keeps s0 s) :
    Keeps s0 (effNakReceived s k psn) := by
  unfold effNakReceived
  repeat with_reducible first | assumption | apply acked_keeps | apply qpStop_keeps | apply Keeps.ite

theorem resend_keeps (k : Nat) {s0 s : State} (hk : Keeps s0 s) :
    Keeps s0 (State.resend s k) := by
  unfold State.resend
  repeat with_reducible first | assumption | apply enqueue_keeps | apply setQp_keeps | refine Keeps.foldl _ (fun _ _ _ => ?_) ?_

theorem effAckTimeout_keeps (k : Nat) {s0 s : State} (hk : Keeps s0 s) :
    Keeps s0 (effAckTimeout s k) := by
  unfold effAckTimeout
  repeat with_reducible first | assumption | apply qpStop_keeps | apply resend_keeps | apply setQp_keeps | apply Keeps.ite

theorem effRnrNakReceived_keeps (k : Nat) (psn : Nat) {s0 s : State} (hk : Keeps s0 s) :
    Keeps s0 (effRnrNakReceived s k psn) := by
  unfold effRnrNakReceived
  repeat with_reducible first
    | assumption | apply acked_keeps | apply qpStop_keeps | apply resend_keeps | apply setQp_keeps | apply Keeps.ite

theorem effCnpReceived_keeps (k : Nat) {s0 s : State} (hk : Keeps s0 s) :
    Keeps s0 (effCnpReceived s k) := by
  unfold effCnpReceived
  repeat with_reducible first | assumption | apply setQp_keeps | apply Keeps.ite

theorem effRateIncrease_keeps (k : Nat) {s0 s : State} (hk : Keeps s0 s) :
    Keeps s0 (effRateIncrease s k) := by
  unfold effRateIncrease
  repeat with_reducible first | assumption | apply setQp_keeps | apply Keeps.ite

theorem netTeardown_keeps (p : Nat) {s0 s : State} (hk : Keeps s0 s) :
    Keeps s0 (State.netTeardown s p) := by
  unfold State.netTeardown
  repeat with_reducible first
    | assumption | apply effQpDrainDone_keeps | apply effQpReset_keeps | refine Keeps.foldl _ (fun _ _ _ => ?_) ?_
    | (extract_lets +onlyGivenNames xx; revert xx; intro x; refine (fun hx => ?_) (?_ : Keeps s0 x); clear_value x)
    | (extract_lets +onlyGivenNames xx; revert xx; intro x; clear_value x) | apply Keeps.upd

theorem netDrained_keeps (p : Nat) {s0 s : State} (hk : Keeps s0 s) :
    Keeps s0 (State.netDrained s p).2 := by
  unfold State.netDrained
  repeat with_reducible first
    | assumption | apply freeMr_keeps | apply effQpDrainDone_keeps | apply Keeps.ite | refine Keeps.foldl _ (fun _ _ _ => ?_) ?_

theorem countMembers_keeps {s0 s : State} (hk : Keeps s0 s) :
    Keeps s0 (State.countMembers s) := by
  unfold State.countMembers
  repeat with_reducible first | assumption | apply put_keeps

theorem setMember_keeps (p : Nat) (serial : Nat) (rank : Nat) (present : Bool) (inc : Nat) {s0 s : State} (hk : Keeps s0 s) :
    Keeps s0 (State.setMember s p serial rank present inc) := by
  unfold State.setMember
  repeat with_reducible first
    | assumption | apply put_keeps
    | (extract_lets +onlyGivenNames xx; revert xx; intro x; refine (fun hx => ?_) (?_ : Keeps s0 x); clear_value x)
    | (extract_lets +onlyGivenNames xx; revert xx; intro x; clear_value x) | apply Keeps.upd

theorem castMembers_keeps (refused : Nat) (joined : Nat) {s0 s : State} (hk : Keeps s0 s) :
    Keeps s0 (State.castMembers s refused joined) := by
  unfold State.castMembers
  repeat with_reducible first
    | assumption | apply ringCast_keeps | (extract_lets +onlyGivenNames xx; revert xx; intro x; clear_value x) | apply Keeps.upd

theorem loseWait_keeps (pos : Nat) (rid : Nat) {s0 s : State} (hk : Keeps s0 s) :
    Keeps s0 (State.loseWait s pos rid) := by
  unfold State.loseWait
  repeat with_reducible first
    | assumption | apply complete_keeps | apply completeLookup_keeps | apply lookupAnswer_keeps | apply stepAnswer_keeps
    | apply Keeps.ite | split

theorem memberLost_keeps (pos : Nat) {s0 s : State} (hk : Keeps s0 s) :
    Keeps s0 (State.memberLost s pos) := by
  unfold State.memberLost
  repeat with_reducible first
    | assumption | apply countMembers_keeps | apply loseWait_keeps | apply put_keeps | refine Keeps.foldl _ (fun _ _ _ => ?_) ?_
    | (extract_lets +onlyGivenNames xx; revert xx; intro x; clear_value x) | apply Keeps.upd

theorem memberGone_keeps (pos : Nat) {s0 s : State} (hk : Keeps s0 s) :
    Keeps s0 (State.memberGone s pos) := by
  unfold State.memberGone
  repeat with_reducible first
    | assumption | apply castMembers_keeps | apply memberLost_keeps | apply raise_keeps | apply Keeps.ite

theorem sendMoving_keeps (new : List Nat) {s0 s : State} (hk : Keeps s0 s) :
    Keeps s0 (State.sendMoving s new) := by
  unfold State.sendMoving
  repeat with_reducible first | assumption | apply ringSend_keeps | refine Keeps.foldl _ (fun _ _ _ => ?_) ?_

theorem dropUnowned_keeps {s0 s : State} (hk : Keeps s0 s) :
    Keeps s0 (State.dropUnowned s) := by
  unfold State.dropUnowned
  repeat with_reducible first | assumption | apply rootRemove_keeps | refine Keeps.foldl _ (fun _ _ _ => ?_) ?_

theorem setMap_keeps (epoch : Nat) (m : List Nat) {s0 s : State} (hk : Keeps s0 s) :
    Keeps s0 (State.setMap s epoch m) := by
  unfold State.setMap
  repeat with_reducible first
    | assumption | apply dropUnowned_keeps | apply put_keeps
    | (extract_lets +onlyGivenNames xx; revert xx; intro x; clear_value x) | apply Keeps.upd

theorem changeTo_keeps (m : List Nat) {s0 s : State} (hk : Keeps s0 s) :
    Keeps s0 (State.changeTo s m) := by
  unfold State.changeTo
  repeat with_reducible first
    | assumption | apply put_keeps | apply ringCast_keeps | apply sendMoving_keeps | apply Keeps.ite
    | (extract_lets +onlyGivenNames xx; revert xx; intro x; clear_value x) | apply Keeps.upd

theorem changeWanted_keeps {s0 s : State} (hk : Keeps s0 s) :
    Keeps s0 (State.changeWanted s) := by
  unfold State.changeWanted
  repeat with_reducible first
    | assumption | apply changeTo_keeps | apply Keeps.ite | (extract_lets +onlyGivenNames xx; revert xx; intro x; clear_value x)
    | split | apply Keeps.upd

theorem effShardTransferDone_keeps {s0 s : State} (hk : Keeps s0 s) :
    Keeps s0 (effShardTransferDone s) := by
  unfold effShardTransferDone
  repeat with_reducible first
    | assumption | apply changeWanted_keeps | apply ringCast_keeps | apply setMap_keeps | apply Keeps.ite
    | (extract_lets +onlyGivenNames xx; revert xx; intro x; clear_value x) | split

theorem effRingCommit_keeps {s0 s : State} (hk : Keeps s0 s) :
    Keeps s0 (effRingCommit s) := by
  unfold effRingCommit
  repeat with_reducible first
    | assumption | apply changeTo_keeps | apply Keeps.ite | (extract_lets +onlyGivenNames xx; revert xx; intro x; clear_value x)
    | apply Keeps.upd

theorem effRingRebalance_keeps {s0 s : State} (hk : Keeps s0 s) :
    Keeps s0 (effRingRebalance s) := by
  unfold effRingRebalance
  repeat with_reducible first | assumption | apply changeTo_keeps | apply Keeps.ite

theorem effShardReassign_keeps (pos : Nat) {s0 s : State} (hk : Keeps s0 s) :
    Keeps s0 (effShardReassign s pos) := by
  unfold effShardReassign
  repeat with_reducible first | assumption | apply changeTo_keeps | apply Keeps.ite | split

theorem effRingForget_keeps (pos : Nat) {s0 s : State} (hk : Keeps s0 s) :
    Keeps s0 (effRingForget s pos) := by
  unfold effRingForget
  repeat with_reducible first
    | assumption | apply castMembers_keeps | apply putWord_keeps | apply Keeps.ite
    | (extract_lets +onlyGivenNames xx; revert xx; intro x; clear_value x) | apply Keeps.upd

theorem sendJoin_keeps {s0 s : State} (hk : Keeps s0 s) :
    Keeps s0 (State.sendJoin s) := by
  unfold State.sendJoin
  repeat with_reducible first
    | assumption | apply ringCast_keeps | (extract_lets +onlyGivenNames xx; revert xx; intro x; clear_value x) | apply Keeps.upd

theorem effRingEnable_keeps {s0 s : State} (hk : Keeps s0 s) :
    Keeps s0 (effRingEnable s) := by
  unfold effRingEnable
  repeat with_reducible first | assumption | apply put_keeps | apply Keeps.ite

theorem driveJoin_keeps {s0 s : State} (hk : Keeps s0 s) :
    Keeps s0 (State.driveJoin s) := by
  unfold State.driveJoin
  repeat with_reducible first
    | assumption | apply Keeps.ite | (extract_lets +onlyGivenNames xx; revert xx; intro x; clear_value x) | apply Keeps.upd

theorem effRingReceiveLock_keeps (east : Bool) (west : Bool) {s0 s : State} (hk : Keeps s0 s) :
    Keeps s0 (effRingReceiveLock s east west) := by
  unfold effRingReceiveLock
  repeat with_reducible first
    | assumption | apply driveJoin_keeps | apply Keeps.ite
    | (extract_lets +onlyGivenNames xx; revert xx; intro x; clear_value x) | apply Keeps.upd

theorem leaveNow_keeps (off : Bool) {s0 s : State} (hk : Keeps s0 s) :
    Keeps s0 (State.leaveNow s off) := by
  unfold State.leaveNow
  repeat with_reducible first
    | assumption | apply memberLost_keeps | apply put_keeps | apply Keeps.ite | refine Keeps.foldl _ (fun _ _ _ => ?_) ?_
    | (extract_lets +onlyGivenNames xx; revert xx; intro x; refine (fun hx => ?_) (?_ : Keeps s0 x); clear_value x)
    | (extract_lets +onlyGivenNames xx; revert xx; intro x; clear_value x) | apply Keeps.upd

theorem effRingLinkChange_keeps (east : Bool) (up : Bool) (idErr : Bool) {s0 s : State} (hk : Keeps s0 s) :
    Keeps s0 (effRingLinkChange s east up idErr) := by
  unfold effRingLinkChange
  repeat with_reducible first
    | assumption | apply leaveNow_keeps | apply put_keeps | apply raise_keeps | apply sendJoin_keeps | apply Keeps.ite

theorem effRingTrainTimeout_keeps {s0 s : State} (hk : Keeps s0 s) :
    Keeps s0 (effRingTrainTimeout s) := by
  unfold effRingTrainTimeout
  repeat with_reducible first
    | assumption | apply Keeps.ite | (extract_lets +onlyGivenNames xx; revert xx; intro x; clear_value x) | split
    | apply Keeps.upd

theorem tryJoined_keeps {s0 s : State} (hk : Keeps s0 s) :
    Keeps s0 (State.tryJoined s) := by
  unfold State.tryJoined
  repeat with_reducible first
    | assumption | apply dropUnowned_keeps | apply put_keeps | apply Keeps.ite
    | (extract_lets +onlyGivenNames xx; revert xx; intro x; clear_value x) | apply Keeps.upd

theorem becomeMaster_keeps {s0 s : State} (hk : Keeps s0 s) :
    Keeps s0 (State.becomeMaster s) := by
  unfold State.becomeMaster
  repeat with_reducible first
    | assumption | apply bump_keeps | apply castMembers_keeps | apply countMembers_keeps | apply put_keeps | apply raise_keeps
    | apply ringCast_keeps | apply setMap_keeps | (extract_lets +onlyGivenNames xx; revert xx; intro x; clear_value x)
    | apply Keeps.upd

theorem formRing_keeps {s0 s : State} (hk : Keeps s0 s) :
    Keeps s0 (State.formRing s) := by
  unfold State.formRing
  repeat with_reducible first
    | assumption | apply becomeMaster_keeps | apply put_keeps | apply setMember_keeps
    | (extract_lets +onlyGivenNames xx; revert xx; intro x; clear_value x) | apply Keeps.upd

theorem effMasterTakeover_keeps {s0 s : State} (hk : Keeps s0 s) :
    Keeps s0 (effMasterTakeover s) := by
  unfold effMasterTakeover
  repeat with_reducible first
    | assumption | apply becomeMaster_keeps | apply formRing_keeps | apply memberLost_keeps | apply Keeps.ite | split

theorem effJoinRetry_keeps {s0 s : State} (hk : Keeps s0 s) :
    Keeps s0 (effJoinRetry s) := by
  unfold effJoinRetry
  repeat with_reducible first
    | assumption | apply driveJoin_keeps | apply formRing_keeps | apply sendJoin_keeps | apply Keeps.ite | split

theorem effHeartbeat_keeps {s0 s : State} (hk : Keeps s0 s) :
    Keeps s0 (effHeartbeat s) := by
  unfold effHeartbeat
  repeat with_reducible first
    | assumption | apply put_keeps | apply raise_keeps | apply ringCast_keeps | apply Keeps.ite
    | (extract_lets +onlyGivenNames xx; revert xx; intro x; clear_value x) | apply Keeps.upd

theorem effHeartbeatTimeout_keeps {s0 s : State} (hk : Keeps s0 s) :
    Keeps s0 (effHeartbeatTimeout s) := by
  unfold effHeartbeatTimeout
  repeat with_reducible first | assumption | apply put_keeps | apply raise_keeps | apply Keeps.ite

theorem frameIn_keeps (h : RingHdr) {s0 s : State} (hk : Keeps s0 s) :
    KeepsO s0 (State.frameIn s h) := by
  unfold State.frameIn
  repeat with_reducible first
    | assumption | apply KeepsO.ite | exact KeepsO.none | apply KeepsO.some
    | (extract_lets +onlyGivenNames xx; revert xx; intro x; clear_value x) | apply Keeps.upd

theorem tagFail_keeps {s0 s : State} (hk : Keeps s0 s) :
    Keeps s0 (State.tagFail s) := by
  unfold State.tagFail
  repeat with_reducible first | assumption | apply bump_keeps

theorem sweepSpaces_keeps {s0 s : State} (hk : Keeps s0 s) :
    Keeps s0 (State.sweepSpaces s) := by
  unfold State.sweepSpaces
  repeat with_reducible first
    | assumption | (extract_lets +onlyGivenNames xx; revert xx; intro x; clear_value x) | apply Keeps.dropMem

theorem putSources_keeps (space : Nat) (v0 : List Nat) {s0 s : State} (hk : Keeps s0 s) :
    Keeps s0 (State.putSources s space v0) := by
  fun_induction State.putSources s space v0 with
  | case1 s addr n v t ih => exact ih (busWrite_keeps _ _ hk)
  | case2 s l => exact hk

theorem admitForward_keeps (src : Nat) (num : Nat) (queue : Nat) (part : Nat) (entry : Nat) (srcs : List Nat) (tag : Option Nat) (hashes : List Nat) {s0 s : State} (hk : Keeps s0 s) :
    Keeps s0 (State.admitForward s src num queue part entry srcs tag hashes) := by
  unfold State.admitForward
  repeat with_reducible first
    | assumption | apply putSources_keeps | apply sweepSpaces_keeps
    | (extract_lets +onlyGivenNames xx; revert xx; intro x; refine (fun hx => ?_) (?_ : Keeps s0 x); clear_value x)
    | (extract_lets +onlyGivenNames xx; revert xx; intro x; clear_value x) | apply Keeps.upd

theorem requestIn_keeps (src : Nat) (num : Nat) (body : List Nat) {s0 s : State} (hk : Keeps s0 s) :
    Keeps s0 (State.requestIn s src num body) := by
  unfold State.requestIn
  repeat with_reducible first
    | assumption | apply admitForward_keeps | apply insertAll_keeps | apply removeRange_keeps | apply ringSend_keeps
    | apply Keeps.ite | split

theorem farCtx_keeps (r : Req) (pos : Nat) (c : Cpl) {s0 s : State} (hk : Keeps s0 s) :
    Keeps s0 (State.farCtx s r pos c).2 := by
  unfold State.farCtx
  repeat with_reducible first
    | assumption | apply allocCtx_keeps | apply freeCtx_keeps | apply Keeps.ite2
    | (extract_lets +onlyGivenNames xx; revert xx; intro x; refine (fun hx => ?_) (?_ : Keeps s0 x); clear_value x)
    | apply Keeps.upd

theorem forwardDone_keeps (rid : Nat) (pos : Nat) (r : Req) (st : Status) (c : Cpl) {s0 s : State} (hk : Keeps s0 s) :
    Keeps s0 (State.forwardDone s rid pos r st c) := by
  unfold State.forwardDone
  repeat with_reducible first
    | assumption | apply complete_keeps | apply completeAcked_keeps | apply completeLookup_keeps | apply farCtx_keeps
    | apply noteLease_keeps | apply Keeps.ite
    | (extract_lets +onlyGivenNames xx; revert xx; intro x; refine (fun hx => ?_) (?_ : Keeps s0 x); clear_value x) | split

theorem responseIn_keeps (src : Nat) (rid : Nat) (body : List Nat) {s0 s : State} (hk : Keeps s0 s) :
    Keeps s0 (State.responseIn s src rid body) := by
  unfold State.responseIn
  repeat with_reducible first
    | assumption | apply complete_keeps | apply completeJournaled_keeps | apply finishInsert_keeps | apply forwardDone_keeps
    | apply lookupAnswer_keeps | apply stepAnswer_keeps | apply Keeps.ite
    | (extract_lets +onlyGivenNames xx; revert xx; intro x; clear_value x) | split

theorem writeBack__keeps (rid : Nat) (r : Req) (role : Nat) (addr : Nat) (bs : Bytes) (lines : List Nat) {s0 s : State} (hk : Keeps s0 s) :
    Keeps s0 (State.writeBack_ s rid r role addr bs lines) := by
  unfold State.writeBack_
  repeat with_reducible first | assumption | apply bufWrite_keeps | apply Keeps.ite | apply Keeps.upd

theorem dataIn_keeps (src : Nat) (rid : Nat) (body : List Nat) {s0 s : State} (hk : Keeps s0 s) :
    Keeps s0 (State.dataIn s src rid body) := by
  unfold State.dataIn
  repeat with_reducible first
    | assumption | apply busWrite_keeps | apply complete_keeps | apply poisonRange_keeps | apply writeBack__keeps
    | apply Keeps.ite | refine Keeps.foldl _ (fun _ _ _ => ?_) ?_
    | (extract_lets +onlyGivenNames xx; revert xx; intro x; clear_value x) | split

theorem purgeAck_keeps (p : Nat) (src : Nat) {s0 s : State} (hk : Keeps s0 s) :
    Keeps s0 (State.purgeAck s p src) := by
  unfold State.purgeAck
  repeat with_reducible first
    | assumption | apply changeWanted_keeps | apply Keeps.ite
    | (extract_lets +onlyGivenNames xx; revert xx; intro x; clear_value x) | apply Keeps.upd

theorem transferred_keeps (old : Nat) (new : Nat) {s0 s : State} (hk : Keeps s0 s) :
    Keeps s0 (State.transferred s old new) := by
  unfold State.transferred
  repeat with_reducible first
    | assumption | (extract_lets +onlyGivenNames xx; revert xx; intro x; clear_value x) | apply Keeps.upd

theorem indexIn_keeps (src : Nat) (part : Nat) (body : List Nat) {s0 s : State} (hk : Keeps s0 s) :
    Keeps s0 (State.indexIn s src part body) := by
  unfold State.indexIn
  repeat with_reducible first
    | assumption | apply insertEntry_keeps | apply purgeAck_keeps | apply removeRange_keeps | apply ringSend_keeps
    | apply rootRemove_keeps | apply transferred_keeps | apply Keeps.ite | refine Keeps.foldl _ (fun _ _ _ => ?_) ?_
    | (extract_lets +onlyGivenNames xx; revert xx; intro x; refine (fun hx => ?_) (?_ : Keeps s0 x); clear_value x) | split

theorem takeFrame_keeps (src : Nat) (kind : Nat) (num : Nat) (part : Nat) (body : List Nat) {s0 s : State} (hk : Keeps s0 s) :
    Keeps s0 (State.takeFrame s src kind num part body) := by
  unfold State.takeFrame
  repeat with_reducible first
    | assumption | apply dataIn_keeps | apply indexIn_keeps | apply requestIn_keeps | apply responseIn_keeps | split

theorem takeEarly_keeps (src : Nat) (v0 : Nat) {s0 s : State} (hk : Keeps s0 s) :
    Keeps s0 (State.takeEarly s src v0) := by
  induction v0 generalizing s src with
  | zero =>
    unfold State.takeEarly
    repeat with_reducible first
      | assumption | apply ih | apply takeFrame_keeps | (extract_lets +onlyGivenNames xx; revert xx; intro x; clear_value x)
      | split | apply Keeps.upd
  | succ n ih =>
    unfold State.takeEarly
    repeat with_reducible first
      | assumption | apply ih | apply takeFrame_keeps | (extract_lets +onlyGivenNames xx; revert xx; intro x; clear_value x)
      | split | apply Keeps.upd

theorem numbered_keeps (h : RingHdr) (kind : Nat) (body : List Nat) {s0 s : State} (hk : Keeps s0 s) :
    Keeps s0 (State.numbered s h kind body) := by
  unfold State.numbered
  repeat with_reducible first
    | assumption | apply frameIn_keeps | apply tagFail_keeps | apply takeEarly_keeps | apply takeFrame_keeps | apply Keeps.ite
    | refine KeepsO.get ?_ (by assumption) | (extract_lets +onlyGivenNames xx; revert xx; intro x; clear_value x) | split
    | apply Keeps.upd

theorem effAck_keeps (h : RingHdr) {s0 s : State} (hk : Keeps s0 s) :
    Keeps s0 (effAck s h) := by
  unfold effAck
  repeat with_reducible first | assumption | apply frameIn_keeps | apply tagFail_keeps | apply KeepsO.getD

theorem effRingAckTimer_keeps (src : Nat) {s0 s : State} (hk : Keeps s0 s) :
    Keeps s0 (effRingAckTimer s src) := by
  unfold effRingAckTimer
  repeat with_reducible first
    | assumption | apply enqueue_keeps | apply Keeps.ite | (extract_lets +onlyGivenNames xx; revert xx; intro x; clear_value x)
    | apply Keeps.upd

theorem effRingRetransmit_keeps (dst : Nat) {s0 s : State} (hk : Keeps s0 s) :
    Keeps s0 (effRingRetransmit s dst) := by
  unfold effRingRetransmit
  repeat with_reducible first
    | assumption | apply bump_keeps | apply enqueue_keeps | apply memberGone_keeps | apply Keeps.ite
    | refine Keeps.foldl _ (fun _ _ _ => ?_) ?_ | (extract_lets +onlyGivenNames xx; revert xx; intro x; clear_value x)
    | apply Keeps.upd

theorem effRingFrameForward_keeps (fromEast : Bool) (dst : Nat) (kind : Nat) (seq : Nat) (ack : Nat) (num : Nat) (part : Nat) (hops : Nat) (len : Nat) (body : List Nat) {s0 s : State} (hk : Keeps s0 s) :
    Keeps s0 (effRingFrameForward s fromEast dst kind seq ack num part hops len body) := by
  unfold effRingFrameForward
  repeat with_reducible first | assumption | apply bump_keeps | apply enqueue_keeps | apply Keeps.ite

theorem effJoin_keeps (h : RingHdr) (serial : Nat) (rank : Nat) (fresh : Bool) (leave : Bool) (east : Nat) {s0 s : State} (hk : Keeps s0 s) :
    Keeps s0 (effJoin s h serial rank fresh leave east) := by
  unfold effJoin
  repeat with_reducible first
    | assumption | apply castMembers_keeps | apply changeTo_keeps | apply countMembers_keeps | apply memberLost_keeps
    | apply raise_keeps | apply ringCast_keeps | apply setMember_keeps | apply tagFail_keeps | apply Keeps.ite
    | (extract_lets +onlyGivenNames xx; revert xx; intro x; clear_value x) | split | apply Keeps.upd

theorem takeRows_keeps (rows : List (List Nat)) {s0 s : State} (hk : Keeps s0 s) :
    Keeps s0 (State.takeRows s rows) := by
  unfold State.takeRows
  repeat with_reducible first
    | assumption | apply memberLost_keeps | apply putWord_keeps | apply raise_keeps | apply setMember_keeps | apply Keeps.ite
    | refine Keeps.foldl _ (fun _ _ _ => ?_) ?_
    | (extract_lets +onlyGivenNames xx; revert xx; intro x; refine (fun hx => ?_) (?_ : Keeps s0 x); clear_value x)
    | (extract_lets +onlyGivenNames xx; revert xx; intro x; clear_value x) | split | apply Keeps.upd

theorem effMembers_keeps (h : RingHdr) (body : List Nat) {s0 s : State} (hk : Keeps s0 s) :
    Keeps s0 (effMembers s h body) := by
  unfold effMembers
  repeat with_reducible first
    | assumption | apply countMembers_keeps | apply memberLost_keeps | apply put_keeps | apply raise_keeps | apply tagFail_keeps
    | apply takeRows_keeps | apply tryJoined_keeps | apply Keeps.ite
    | (extract_lets +onlyGivenNames xx; revert xx; intro x; clear_value x) | split | apply Keeps.upd

theorem effHeartbeatReceived_keeps (h : RingHdr) {s0 s : State} (hk : Keeps s0 s) :
    Keeps s0 (effHeartbeatReceived s h) := by
  unfold effHeartbeatReceived
  repeat with_reducible first
    | assumption | apply put_keeps | apply tagFail_keeps | apply Keeps.ite
    | (extract_lets +onlyGivenNames xx; revert xx; intro x; refine (fun hx => ?_) (?_ : Keeps s0 x); clear_value x)
    | (extract_lets +onlyGivenNames xx; revert xx; intro x; clear_value x) | apply Keeps.upd

theorem effShard_keeps (h : RingHdr) (body : List Nat) {s0 s : State} (hk : Keeps s0 s) :
    Keeps s0 (effShard s h body) := by
  unfold effShard
  repeat with_reducible first
    | assumption | apply put_keeps | apply sendMoving_keeps | apply setMap_keeps | apply tagFail_keeps | apply tryJoined_keeps
    | apply Keeps.ite | (extract_lets +onlyGivenNames xx; revert xx; intro x; clear_value x) | split | apply Keeps.upd

theorem effRingLeave_keeps {s0 s : State} (hk : Keeps s0 s) :
    Keeps s0 (effRingLeave s) := by
  unfold effRingLeave
  repeat with_reducible first
    | assumption | apply changeTo_keeps | apply leaveNow_keeps | apply ringCast_keeps | apply Keeps.ite
    | (extract_lets +onlyGivenNames xx; revert xx; intro x; clear_value x) | apply Keeps.upd

theorem ringPurge_keeps (p : Nat) {s0 s : State} (hk : Keeps s0 s) :
    Keeps s0 (State.ringPurge s p) := by
  unfold State.ringPurge
  repeat with_reducible first
    | assumption | apply ringSend_keeps | apply Keeps.ite | refine Keeps.foldl _ (fun _ _ _ => ?_) ?_
    | (extract_lets +onlyGivenNames xx; revert xx; intro x; refine (fun hx => ?_) (?_ : Keeps s0 x); clear_value x)
    | (extract_lets +onlyGivenNames xx; revert xx; intro x; clear_value x) | apply Keeps.upd

theorem stepLeases_keeps (d : Int) {s0 s : State} (hk : Keeps s0 s) :
    Keeps s0 (State.stepLeases s d) := by
  unfold State.stepLeases
  repeat with_reducible first
    | assumption | (extract_lets +onlyGivenNames xx; revert xx; intro x; clear_value x) | apply Keeps.upd

theorem stepLinks_keeps (d : Int) {s0 s : State} (hk : Keeps s0 s) :
    Keeps s0 (State.stepLinks s d) := by
  unfold State.stepLinks
  repeat with_reducible first
    | assumption | (extract_lets +onlyGivenNames xx; revert xx; intro x; clear_value x) | apply Keeps.upd

theorem stepUnits_keeps (d : Int) {s0 s : State} (hk : Keeps s0 s) :
    Keeps s0 (State.stepUnits s d) := by
  unfold State.stepUnits
  repeat with_reducible first
    | assumption | (extract_lets +onlyGivenNames xx; revert xx; intro x; clear_value x) | apply Keeps.upd

theorem stepTime_keeps (d : Int) {s0 s : State} (hk : Keeps s0 s) :
    Keeps s0 (State.stepTime s d) := by
  unfold State.stepTime
  repeat with_reducible first
    | assumption | apply restartBeat_keeps | apply stepLeases_keeps | apply stepLinks_keeps | apply stepUnits_keeps
    | apply Keeps.ite | refine Keeps.foldl _ (fun _ _ _ => ?_) ?_ | apply Keeps.upd

theorem effTime_keeps (h : RingHdr) (offset : Option Int) (delays : Option (Nat × Nat)) {s0 s : State} (hk : Keeps s0 s) :
    Keeps s0 (effTime s h offset delays) := by
  unfold effTime
  repeat with_reducible first
    | assumption | apply put_keeps | apply stepTime_keeps | apply tagFail_keeps | apply tryJoined_keeps | apply Keeps.ite
    | (extract_lets +onlyGivenNames xx; revert xx; intro x; refine (fun hx => ?_) (?_ : Keeps s0 x); clear_value x)
    | (extract_lets +onlyGivenNames xx; revert xx; intro x; clear_value x) | split | apply Keeps.upd

theorem effTimeSend_keeps {s0 s : State} (hk : Keeps s0 s) :
    Keeps s0 (effTimeSend s) := by
  unfold effTimeSend
  repeat with_reducible first | assumption | apply ringCast_keeps | apply Keeps.ite

end Sys2Proof.Machine
end

