-- ==== Sys2Proof/Laws/KeepsDevice.lean ====
section
/-! SUPPORT. What is kept by faults, extensions, security and partitions: the queue and the invariant. -/

namespace Sys2Proof.Machine

open Sys2Proof

theorem clearAnchor_keeps (p : Nat) {s0 s : State} (hk : Keeps s0 s) :
    Keeps s0 (State.clearAnchor s p) := by
  unfold State.clearAnchor
  repeat with_reducible first
    | assumption | apply Keeps.ite | (extract_lets +onlyGivenNames xx; revert xx; intro (x : Sec); skip)
    | refine Keeps.updSec ?_ rfl rfl

theorem drawKey_keeps (p : Nat) (e : Epoch) {s0 s : State} (hk : Keeps s0 s) :
    Keeps s0 (State.drawKey s p e) := by
  unfold State.drawKey
  repeat with_reducible first
    | assumption | (extract_lets +onlyGivenNames xx; revert xx; intro (x : Sec); skip)
    | (extract_lets +onlyGivenNames xx; revert xx; intro x; clear_value x) | refine Keeps.updSec ?_ rfl rfl

theorem freshKeys_keeps (p : Nat) {s0 s : State} (hk : Keeps s0 s) :
    Keeps s0 (State.freshKeys s p) := by
  unfold State.freshKeys
  repeat with_reducible first
    | assumption | apply drawKey_keeps | apply put_keeps | apply writeAnchor_keeps
    | (extract_lets +onlyGivenNames xx; revert xx; intro x; clear_value x) | apply Keeps.upd

theorem takeKeys_keeps (p : Nat) (r : KeyRec) {s0 s : State} (hk : Keeps s0 s) :
    Keeps s0 (State.takeKeys s p r) := by
  unfold State.takeKeys
  repeat with_reducible first
    | assumption | apply put_keeps
    | (extract_lets +onlyGivenNames xx; revert xx; intro x; refine (fun hx => ?_) (?_ : Keeps s0 x); clear_value x)
    | (extract_lets +onlyGivenNames xx; revert xx; intro x; clear_value x) | split | apply Keeps.upd

theorem rebuildEntry_keeps (e : Nat × Nat) {s0 s : State} (hk : Keeps s0 s) :
    Keeps s0 (State.rebuildEntry s e) := by
  unfold State.rebuildEntry
  repeat with_reducible first | assumption | apply free_keeps | apply insertEntry_keeps | apply Keeps.ite2 | split

theorem addEvicting_keeps (named : List (Nat × Nat)) (x : Nat × Nat) {s0 s : State} (hk : Keeps s0 s) :
    Keeps s0 (State.addEvicting s named x) := by
  unfold State.addEvicting
  repeat with_reducible first | assumption | apply free_keeps | apply setLeaf_keeps

theorem restoreStore_keeps {s0 s : State} (hk : Keeps s0 s) :
    Keeps s0 (State.restoreStore s) := by
  unfold State.restoreStore
  repeat with_reducible first
    | assumption | apply addEvicting_keeps | apply poisonLeaf_keeps | apply rebuildEntry_keeps | apply setRoots_keeps
    | apply Keeps.ite | refine Keeps.foldl _ (fun _ _ _ => ?_) ?_ | apply Keeps.upd

theorem effMount_keeps (readable : Bool) {s0 s : State} (hk : Keeps s0 s) :
    Keeps s0 (effMount s readable) := by
  unfold effMount
  repeat with_reducible first
    | assumption | apply put_keeps | apply restoreStore_keeps | apply takeKeys_keeps | apply Keeps.ite
    | refine Keeps.foldl _ (fun _ _ _ => ?_) ?_ | (extract_lets +onlyGivenNames xx; revert xx; intro x; clear_value x) | split
    | apply Keeps.upd

theorem markRestored_keeps (p : Nat) {s0 s : State} (hk : Keeps s0 s) :
    Keeps s0 (State.markRestored s p) := by
  unfold State.markRestored
  repeat with_reducible first
    | assumption | apply put_keeps | apply raisePState_keeps | apply Keeps.ite
    | (extract_lets +onlyGivenNames xx; revert xx; intro x; clear_value x) | apply Keeps.upd

theorem effMountDone_keeps {s0 s : State} (hk : Keeps s0 s) :
    Keeps s0 (effMountDone s) := by
  unfold effMountDone
  repeat with_reducible first
    | assumption | apply freshKeys_keeps | apply markRestored_keeps | apply put_keeps | apply raise_keeps
    | apply setPState_keeps | apply Keeps.ite | refine Keeps.foldl _ (fun _ _ _ => ?_) ?_

theorem markDie_keeps (k : Nat) (die : Nat) {s0 s : State} (hk : Keeps s0 s) :
    Keeps s0 (State.markDie s k die) := by
  unfold State.markDie
  repeat with_reducible first | assumption | apply put_keeps | apply raise_keeps | apply Keeps.ite | split

theorem raiseCe_keeps {s0 s : State} (hk : Keeps s0 s) :
    Keeps s0 (State.raiseCe s) := by
  unfold State.raiseCe
  repeat with_reducible first
    | assumption | apply raise_keeps | apply Keeps.ite | (extract_lets +onlyGivenNames xx; revert xx; intro x; clear_value x)
    | split | apply Keeps.upd

theorem logRepeat_keeps (k : Nat) {s0 s : State} (hk : Keeps s0 s) :
    Keeps s0 (State.logRepeat s k) := by
  unfold State.logRepeat
  repeat with_reducible first
    | assumption | (extract_lets +onlyGivenNames xx; revert xx; intro x; clear_value x) | apply Keeps.upd

theorem logPut_keeps (k : Nat) (x : LogEntry) {s0 s : State} (hk : Keeps s0 s) :
    Keeps s0 (State.logPut s k x) := by
  unfold State.logPut
  repeat with_reducible first
    | assumption | (extract_lets +onlyGivenNames xx; revert xx; intro x; clear_value x) | apply Keeps.upd

theorem logError_keeps (x : LogEntry) (dieEvent : Bool) {s0 s : State} (hk : Keeps s0 s) :
    Keeps s0 (State.logError s x dieEvent) := by
  unfold State.logError
  repeat with_reducible first
    | assumption | apply logPut_keeps | apply logRepeat_keeps | apply pick_keeps | apply put_keeps
    | refine Keeps.snd ?_ (by assumption) | (extract_lets +onlyGivenNames xx; revert xx; intro x; clear_value x) | split

theorem poisonLines_keeps (i : Nat) (lines : List Nat) {s0 s : State} (hk : Keeps s0 s) :
    Keeps s0 (State.poisonLines s i lines) := by
  unfold State.poisonLines
  repeat with_reducible first
    | assumption | apply setLeaf_keeps | apply Keeps.ite | (extract_lets +onlyGivenNames xx; revert xx; intro x; clear_value x)
    | split

theorem poisonUnit_keeps (n : Nat) (i : Nat) (lines : List Nat) {s0 s : State} (hk : Keeps s0 s) :
    Keeps s0 (State.poisonUnit s n i lines) := by
  unfold State.poisonUnit
  repeat with_reducible first
    | assumption | (extract_lets +onlyGivenNames xx; revert xx; intro x; clear_value x) | split | apply Keeps.upd

theorem spireUe_keeps (n : Nat) {s0 s : State} (hk : Keeps s0 s) :
    Keeps s0 (State.spireUe s n) := by
  unfold State.spireUe
  repeat with_reducible first
    | assumption | apply dispatch_keeps | apply put_keeps | apply returnUnit_keeps | apply setSpire_keeps | apply Keeps.ite

theorem losePlacement_keeps (i : Nat) {s0 s : State} (hk : Keeps s0 s) :
    Keeps s0 (State.losePlacement s i) := by
  unfold State.losePlacement
  repeat with_reducible first
    | assumption | apply setLeaf_keeps
    | (extract_lets +onlyGivenNames xx; revert xx; intro x; refine (fun hx => ?_) (?_ : Keeps s0 x); clear_value x)
    | (extract_lets +onlyGivenNames xx; revert xx; intro x; clear_value x) | apply Keeps.upd

theorem loseRecord_keeps (kind : Nat) (key : Nat) {s0 s : State} (hk : Keeps s0 s) :
    Keeps s0 (State.loseRecord s kind key) := by
  unfold State.loseRecord
  repeat with_reducible first | assumption | apply Keeps.ite | apply Keeps.upd

theorem poisonStaged_keeps (i : Nat) (toks : List Nat) {s0 s : State} (hk : Keeps s0 s) :
    Keeps s0 (State.poisonStaged s i toks) := by
  unfold State.poisonStaged
  repeat with_reducible first | assumption | apply setLeaf_keeps

theorem applyHit_keeps (v0 : ScrubHit) {s0 s : State} (hk : Keeps s0 s) :
    Keeps s0 (State.applyHit s v0) := by
  unfold State.applyHit
  repeat with_reducible first
    | assumption | apply complete_keeps | apply losePlacement_keeps | apply loseRecord_keeps | apply poisonLines_keeps
    | apply poisonStaged_keeps | apply poisonUnit_keeps | apply setLeaf_keeps | apply setRoots_keeps | apply settle_keeps
    | apply effCanopyParityScan_keeps | apply Keeps.ite | split

theorem commitFormed_keeps {s0 s : State} (hk : Keeps s0 s) :
    Keeps s0 (State.commitFormed s) := by
  unfold State.commitFormed
  repeat with_reducible first
    | assumption | apply commitGroup_keeps | refine Keeps.foldl _ (fun _ _ _ => ?_) ?_
    | (extract_lets +onlyGivenNames xx; revert xx; intro x; refine (fun hx => ?_) (?_ : Keeps s0 x); clear_value x)
    | (extract_lets +onlyGivenNames xx; revert xx; intro x; clear_value x) | apply Keeps.upd

theorem endRequest_keeps (on : Bool) (x : Nat × Req) {s0 s : State} (hk : Keeps s0 s) :
    Keeps s0 (State.endRequest s on x) := by
  unfold State.endRequest
  repeat with_reducible first | assumption | apply abandonPlan_keeps | apply complete_keeps | apply Keeps.ite | split

theorem endRequests_keeps (on : Bool) {s0 s : State} (hk : Keeps s0 s) :
    Keeps s0 (State.endRequests s on) := by
  unfold State.endRequests
  repeat with_reducible first
    | assumption | apply endRequest_keeps | apply instComplete_keeps | apply Keeps.ite
    | refine Keeps.foldl _ (fun _ _ _ => ?_) ?_

theorem stopSpires_keeps {s0 s : State} (hk : Keeps s0 s) :
    Keeps s0 (State.stopSpires s) := by
  unfold State.stopSpires
  repeat with_reducible first | assumption | apply Keeps.upd

theorem rebuildTier_keeps (badLeaves : List Nat) (badSeqs : List Nat) {s0 s : State} (hk : Keeps s0 s) :
    Keeps s0 (State.rebuildTier s badLeaves badSeqs) := by
  unfold State.rebuildTier
  repeat with_reducible first
    | assumption | apply dropLeases_keeps | apply restoreStore_keeps | apply setRoots_keeps | apply Keeps.ite
    | refine Keeps.foldl _ (fun _ _ _ => ?_) ?_ | (extract_lets +onlyGivenNames xx; revert xx; intro x; clear_value x)
    | apply Keeps.upd

theorem effStoreRecovery_keeps (badLeaves : List Nat) (badSeqs : List Nat) {s0 s : State} (hk : Keeps s0 s) :
    Keeps s0 (effStoreRecovery s badLeaves badSeqs) := by
  unfold effStoreRecovery
  repeat with_reducible first
    | assumption | apply bump_keeps | apply commitFormed_keeps | apply endRequests_keeps | apply put_keeps | apply raise_keeps
    | apply rebuildTier_keeps | apply refreshPart_keeps | apply stopSpires_keeps | apply Keeps.ite
    | refine Keeps.foldl _ (fun _ _ _ => ?_) ?_

theorem setFatal_keeps {s0 s : State} (hk : Keeps s0 s) :
    Keeps s0 (State.setFatal s) := by
  unfold State.setFatal
  repeat with_reducible first | assumption | apply put_keeps | apply raise_keeps

theorem stopDie_keeps (d : Nat) {s0 s : State} (hk : Keeps s0 s) : Keeps s0 (State.stopDie s d) := by
  unfold State.stopDie
  repeat with_reducible first
    | assumption | apply effSubportLinkChange_keeps | apply effRingLinkChange_keeps | apply effPoolPortDown_keeps | apply Keeps.ite
    | refine Keeps.foldl _ (fun _ _ _ => ?_) ?_ | apply Keeps.upd

theorem effFatalFault_keeps (hostWorks : Bool) (die : Option Nat) {s0 s : State} (hk : Keeps s0 s) :
    Keeps s0 (effFatalFault s hostWorks die) := by
  unfold effFatalFault
  repeat with_reducible first
    | assumption | apply endRequests_keeps | apply setFatal_keeps | apply stopSpires_keeps | apply stopDie_keeps | apply Keeps.ite
    | (extract_lets +onlyGivenNames xx; revert xx; intro x; refine (fun hx => ?_) (?_ : Keeps s0 x); clear_value x)
    | split | apply Keeps.upd

theorem injectDone_keeps (source : Nat) (unit : Nat) {s0 s : State} (hk : Keeps s0 s) :
    Keeps s0 (State.injectDone s source unit) := by
  unfold State.injectDone
  repeat with_reducible first | assumption | apply put_keeps | apply Keeps.ite

theorem endLap_keeps (hbm : Bool) (v : Nat) {s0 s : State} (hk : Keeps s0 s) :
    Keeps s0 (State.endLap s hbm v) := by
  unfold State.endLap
  repeat with_reducible first
    | assumption | apply put_keeps | apply Keeps.ite | (extract_lets +onlyGivenNames xx; revert xx; intro x; clear_value x)
    | apply Keeps.upd

theorem dieEvent_keeps (k : Nat) (die : Nat) {s0 s : State} (hk : Keeps s0 s) :
    Keeps s0 (State.dieEvent s k die) := by
  unfold State.dieEvent
  repeat with_reducible first
    | assumption | apply markDie_keeps | apply Keeps.ite | (extract_lets +onlyGivenNames xx; revert xx; intro x; clear_value x)
    | apply Keeps.upd

theorem hbmError_keeps (k : Nat) (errs : List (Nat × Nat)) (addr : Nat) (hit : ScrubHit) {s0 s : State} (hk : Keeps s0 s) :
    Keeps s0 (State.hbmError s k errs addr hit) := by
  unfold State.hbmError
  repeat with_reducible first
    | assumption | apply applyHit_keeps | apply bump_keeps | apply dieEvent_keeps | apply logError_keeps | apply raise_keeps
    | apply raiseCe_keeps | apply Keeps.ite | refine Keeps.foldl _ (fun _ _ _ => ?_) ?_

theorem sramError_keeps (source : Nat) (unit : Nat) (errs : List (Nat × Nat)) (addr : Nat) (hit : ScrubHit) {s0 s : State} (hk : Keeps s0 s) :
    Keeps s0 (State.sramError s source unit errs addr hit) := by
  unfold State.sramError
  repeat with_reducible first
    | assumption | apply applyHit_keeps | apply bump_keeps | apply logError_keeps | apply raise_keeps | apply raiseCe_keeps
    | apply spireUe_keeps | apply Keeps.ite

theorem effHbmScrub_keeps (source : Nat) (unit : Nat) (errs : List (Nat × Nat)) (addr : Nat) (hit : ScrubHit) (lap : Option (Bool × Nat)) (pct : Option Nat) {s0 s : State} (hk : Keeps s0 s) :
    Keeps s0 (effHbmScrub s source unit errs addr hit lap pct) := by
  unfold effHbmScrub
  repeat with_reducible first
    | assumption | apply bump_keeps | apply endLap_keeps | apply hbmError_keeps | apply injectDone_keeps | apply put_keeps
    | apply sramError_keeps | apply effStoreRecovery_keeps | apply Keeps.ite
    | (extract_lets +onlyGivenNames xx; revert xx; intro x; refine (fun hx => ?_) (?_ : Keeps s0 x); clear_value x) | split
    | apply Keeps.upd

theorem effScrubStalled_keeps {s0 s : State} (hk : Keeps s0 s) :
    Keeps s0 (effScrubStalled s) := by
  unfold effScrubStalled
  repeat with_reducible first | assumption | apply put_keeps | apply raise_keeps | apply Keeps.ite

theorem effPoolEventRecord_keeps (device : Nat) (addr : Nat) (ue : Bool) {s0 s : State} (hk : Keeps s0 s) :
    Keeps s0 (effPoolEventRecord s device addr ue) := by
  unfold effPoolEventRecord
  repeat with_reducible first | assumption | apply logError_keeps | apply raise_keeps | apply raiseCe_keeps | apply Keeps.ite

theorem spireOff_keeps (n : Nat) {s0 s : State} (hk : Keeps s0 s) :
    Keeps s0 (State.spireOff s n) := by
  unfold State.spireOff
  repeat with_reducible first | assumption | apply dispatch_keeps | apply put_keeps | apply returnUnit_keeps

theorem retireArray_keeps (a : Nat) {s0 s : State} (hk : Keeps s0 s) :
    Keeps s0 (State.retireArray s a) := by
  unfold State.retireArray
  repeat with_reducible first
    | assumption | apply noUsable_keeps | apply Keeps.ite
    | (extract_lets +onlyGivenNames xx; revert xx; intro x; refine (fun hx => ?_) (?_ : Keeps s0 x); clear_value x)
    | apply Keeps.upd

theorem retireUnit_keeps (kind : Nat) (unit : Nat) (die : Nat) {s0 s : State} (hk : Keeps s0 s) :
    Keeps s0 (State.retireUnit s kind unit die) := by
  unfold State.retireUnit
  repeat with_reducible first
    | assumption | apply effCanopyBankFlush_keeps | apply markDie_keeps | apply retireArray_keeps | apply setBank_keeps
    | apply spireOff_keeps | refine Keeps.snd ?_ (by assumption) | split | apply Keeps.upd

theorem retireSlot_keeps (k : Nat) {s0 s : State} (hk : Keeps s0 s) :
    Keeps s0 (State.retireSlot s k) := by
  unfold State.retireSlot
  repeat with_reducible first
    | assumption | apply leaveRetired_keeps | apply put_keeps | apply setLeaf_keeps | apply settle_keeps | apply Keeps.ite
    | refine Keeps.foldl _ (fun _ _ _ => ?_) ?_ | split | apply Keeps.upd

theorem effRasRetireGo_keeps (kind : Nat) (unit : Nat) (die : Nat) {s0 s : State} (hk : Keeps s0 s) :
    Keeps s0 (effRasRetireGo s kind unit die) := by
  unfold effRasRetireGo
  repeat with_reducible first
    | assumption | apply put_keeps | apply retireSlot_keeps | apply retireUnit_keeps | apply Keeps.ite
    | (extract_lets +onlyGivenNames xx; revert xx; intro x; clear_value x) | split | apply Keeps.upd

theorem cwBytes_keeps (cw : Nat) {s0 s : State} (hk : Keeps s0 s) :
    Keeps s0 (State.cwBytes s cw).2 := by
  unfold State.cwBytes
  repeat with_reducible first
    | assumption | apply freeBytes_keeps | apply Keeps.ite2
    | (extract_lets +onlyGivenNames xx; revert xx; intro x; clear_value x) | split | apply Keeps.upd

theorem rawRead_keeps (old : Bytes) (new : Bytes) {s0 s : State} (hk : Keeps s0 s) :
    Keeps s0 (State.rawRead s old new).2 := by
  unfold State.rawRead
  repeat with_reducible first | assumption | apply free_keeps | apply Keeps.ite2

theorem applyRaw_keeps (cw : Nat) (r : RawRead) {s0 s : State} (hk : Keeps s0 s) :
    Keeps s0 (State.applyRaw s cw r) := by
  unfold State.applyRaw
  repeat with_reducible first
    | assumption | apply setLeaf_keeps | refine Keeps.foldl _ (fun _ _ _ => ?_) ?_
    | (extract_lets +onlyGivenNames xx; revert xx; intro x; clear_value x) | split

theorem effWriteRaw_keeps {s0 s : State} (hk : Keeps s0 s) :
    Keeps s0 (effWriteRaw s) := by
  unfold effWriteRaw
  repeat with_reducible first
    | assumption | apply applyRaw_keeps | apply cwBytes_keeps | apply put_keeps | apply rawRead_keeps | apply Keeps.ite
    | refine Keeps.snd ?_ (by assumption)
    | (extract_lets +onlyGivenNames xx; revert xx; intro x; refine (fun hx => ?_) (?_ : Keeps s0 x); clear_value x)
    | (extract_lets +onlyGivenNames xx; revert xx; intro x; clear_value x) | split | apply Keeps.upd

theorem effReadRaw_keeps {s0 s : State} (hk : Keeps s0 s) :
    Keeps s0 (effReadRaw s) := by
  unfold effReadRaw
  repeat with_reducible first
    | assumption | apply busWrite_keeps | apply cwBytes_keeps | apply deviceFrame_keeps | apply put_keeps | apply Keeps.ite

theorem setDebug_keeps (b : Nat) {s0 s : State} (hk : Keeps s0 s) :
    Keeps s0 (State.setDebug s b) := by
  unfold State.setDebug
  repeat with_reducible first | assumption | apply put_keeps

theorem effRasInjectArm_keeps (target : Nat) (unit : Nat) (bits : Nat) {s0 s : State} (hk : Keeps s0 s) :
    Keeps s0 (effRasInjectArm s target unit bits) := by
  unfold effRasInjectArm
  repeat with_reducible first | assumption | apply put_keeps | apply setDebug_keeps | apply Keeps.ite

theorem effRasBistGo_keeps (target : Nat) (unit : Nat) {s0 s : State} (hk : Keeps s0 s) :
    Keeps s0 (effRasBistGo s target unit) := by
  unfold effRasBistGo
  repeat with_reducible first
    | assumption | apply put_keeps | apply setDebug_keeps | apply Keeps.ite
    | (extract_lets +onlyGivenNames xx; revert xx; intro x; refine (fun hx => ?_) (?_ : Keeps s0 x); clear_value x)
    | (extract_lets +onlyGivenNames xx; revert xx; intro x; clear_value x) | apply Keeps.upd

theorem loseTier_keeps {s0 s : State} (hk : Keeps s0 s) :
    Keeps s0 (State.loseTier s) := by
  unfold State.loseTier
  repeat with_reducible first
    | assumption | apply commitFormed_keeps | apply endRequests_keeps | apply rebuildTier_keeps | apply stopSpires_keeps
    | apply Keeps.upd

theorem bistFail_keeps (target : Nat) (unit : Nat) (failed : List Nat) {s0 s : State} (hk : Keeps s0 s) :
    Keeps s0 (State.bistFail s target unit failed) := by
  unfold State.bistFail
  repeat with_reducible first
    | assumption | apply markDie_keeps | apply retireUnit_keeps | apply Keeps.ite | refine Keeps.foldl _ (fun _ _ _ => ?_) ?_
    | (extract_lets +onlyGivenNames xx; revert xx; intro x; clear_value x) | split | apply Keeps.upd

theorem effBistDone_keeps (target : Nat) (unit : Nat) (fails : Nat) (failed : List Nat) {s0 s : State} (hk : Keeps s0 s) :
    Keeps s0 (effBistDone s target unit fails failed) := by
  unfold effBistDone
  repeat with_reducible first
    | assumption | apply bistFail_keeps | apply loseTier_keeps | apply put_keeps | apply Keeps.ite
    | (extract_lets +onlyGivenNames xx; revert xx; intro x; clear_value x) | split | apply Keeps.upd

theorem setKeepDown_keeps (v : Nat) {s0 s : State} (hk : Keeps s0 s) :
    Keeps s0 (State.setKeepDown s v) := by
  unfold State.setKeepDown
  repeat with_reducible first | assumption | apply put_keeps | refine Keeps.foldl _ (fun _ _ _ => ?_) ?_

theorem effKeepRestart_keeps {s0 s : State} (hk : Keeps s0 s) :
    Keeps s0 (effKeepRestart s) := by
  unfold effKeepRestart
  repeat with_reducible first
    | assumption | apply bump_keeps | apply raise_keeps | apply setKeepDown_keeps | apply Keeps.ite
    | (extract_lets +onlyGivenNames xx; revert xx; intro x; clear_value x) | apply Keeps.upd

theorem effSaplingFault_keeps (cluster : Nat) (core : Nat) {s0 s : State} (hk : Keeps s0 s) :
    Keeps s0 (effSaplingFault s cluster core) := by
  unfold effSaplingFault
  repeat with_reducible first
    | assumption | apply bump_keeps | apply raise_keeps | apply Keeps.ite
    | (extract_lets +onlyGivenNames xx; revert xx; intro x; clear_value x) | apply Keeps.upd

theorem effCodecSliceReset_keeps (g : Nat) {s0 s : State} (hk : Keeps s0 s) :
    Keeps s0 (effCodecSliceReset s g) := by
  unfold effCodecSliceReset
  repeat with_reducible first | assumption | apply Keeps.upd

theorem effExtLoad_keeps (p : Nat) {s0 s : State} (hk : Keeps s0 s) :
    Keeps s0 (effExtLoad s p) := by
  unfold effExtLoad
  repeat with_reducible first
    | assumption | apply setExt_keeps | apply Keeps.ite
    | (extract_lets +onlyGivenNames xx; revert xx; intro (x : Nat → State); subst x) | split

theorem effExtEnable_keeps (p : Nat) {s0 s : State} (hk : Keeps s0 s) :
    Keeps s0 (effExtEnable s p) := by
  unfold effExtEnable
  repeat with_reducible first | assumption | apply setExt_keeps | apply Keeps.ite

theorem effExtDisable_keeps (p : Nat) {s0 s : State} (hk : Keeps s0 s) :
    Keeps s0 (effExtDisable s p) := by
  unfold effExtDisable
  repeat with_reducible first | assumption | apply setExt_keeps | apply Keeps.ite

theorem effSealNote_keeps (p : Nat) {s0 s : State} (hk : Keeps s0 s) :
    Keeps s0 (effSealNote s p) := by
  unfold effSealNote
  repeat with_reducible first
    | assumption | apply extInvoke_keeps | apply setExt_keeps | apply Keeps.ite
    | (extract_lets +onlyGivenNames xx; revert xx; intro x; refine (fun hx => ?_) (?_ : Keeps s0 x); clear_value x) | split

theorem effTimer_keeps (p : Nat) {s0 s : State} (hk : Keeps s0 s) :
    Keeps s0 (effTimer s p) := by
  unfold effTimer
  repeat with_reducible first | assumption | apply extInvoke_keeps | apply setExt_keeps | apply Keeps.ite

theorem effKeyRotate_keeps (p : Nat) {s0 s : State} (hk : Keeps s0 s) :
    Keeps s0 (effKeyRotate s p) := by
  unfold effKeyRotate
  repeat with_reducible first
    | assumption | apply drawKey_keeps | apply put_keeps | apply writeAnchor_keeps | apply Keeps.ite | apply Keeps.upd

theorem effKeyRetired_keeps (p : Nat) {s0 s : State} (hk : Keeps s0 s) :
    Keeps s0 (effKeyRetired s p) := by
  unfold effKeyRetired
  repeat with_reducible first
    | assumption | apply put_keeps | apply security_keeps | apply writeAnchor_keeps | apply Keeps.ite | apply Keeps.upd

theorem reply_keeps (kind : Nat) (st : Status) (body : List Nat) {s0 s : State} (hk : Keeps s0 s) :
    Keeps s0 (State.reply s kind st body) := by
  unfold State.reply
  repeat with_reducible first | assumption | apply send_keeps

theorem effKeyExchange_keeps (fn : Nat) {s0 s : State} (hk : Keeps s0 s) :
    Keeps s0 (effKeyExchange s fn) := by
  unfold effKeyExchange
  repeat with_reducible first
    | assumption | apply reply_keeps | apply Keeps.ite | (extract_lets +onlyGivenNames xx; revert xx; intro (x : Sec); skip)
    | refine Keeps.updSec ?_ rfl rfl

theorem effIdeKm_keeps (fn : Nat) (stream : Option Nat) (op : Nat) {s0 s : State} (hk : Keeps s0 s) :
    Keeps s0 (effIdeKm s fn stream op) := by
  unfold effIdeKm
  repeat with_reducible first
    | assumption | apply endChm_keeps | apply reply_keeps | apply Keeps.ite
    | (extract_lets +onlyGivenNames xx; revert xx; intro (x : Sec); skip) | split | refine Keeps.updSec ?_ rfl rfl

theorem effLockInterface_keeps (p : Nat) (stream : Nat) {s0 s : State} (hk : Keeps s0 s) :
    Keeps s0 (effLockInterface s p stream) := by
  unfold effLockInterface
  repeat with_reducible first
    | assumption | apply put_keeps | apply reply_keeps | apply Keeps.ite
    | (extract_lets +onlyGivenNames xx; revert xx; intro x; clear_value x) | apply Keeps.upd

theorem effChmBind_keeps (p : Nat) (start : Nat) {s0 s : State} (hk : Keeps s0 s) :
    Keeps s0 (effChmBind s p start) := by
  unfold effChmBind
  repeat with_reducible first | assumption | apply put_keeps | apply reply_keeps | apply Keeps.ite | split | apply Keeps.upd

theorem effStartInterface_keeps (p : Nat) {s0 s : State} (hk : Keeps s0 s) :
    Keeps s0 (effStartInterface s p) := by
  unfold effStartInterface
  repeat with_reducible first | assumption | apply put_keeps | apply reply_keeps | apply Keeps.ite

theorem effStopInterface_keeps (p : Nat) (cause : Nat) {s0 s : State} (hk : Keeps s0 s) :
    Keeps s0 (effStopInterface s p cause) := by
  unfold effStopInterface
  repeat with_reducible first
    | assumption | apply endChm_keeps | apply reply_keeps | apply Keeps.ite
    | (extract_lets +onlyGivenNames xx; revert xx; intro (x : Sec); skip) | split | refine Keeps.updSec ?_ rfl rfl

theorem effSpdmGetMeasurements_keeps (fn : Nat) (i : Nat) {s0 s : State} (hk : Keeps s0 s) :
    Keeps s0 (effSpdmGetMeasurements s fn i) := by
  unfold effSpdmGetMeasurements
  repeat with_reducible first | assumption | apply reply_keeps | apply Keeps.ite | split

theorem effClaim_keeps (fn root extKey : Nat) (authentic : Bool) {s0 s : State} (hk : Keeps s0 s) :
    Keeps s0 (effClaim s fn root extKey authentic) := by
  unfold effClaim
  refine Keeps.ite (reply_keeps _ _ _ hk) (reply_keeps _ _ _ ?_)
  exact ⟨hk.pending, fun i => ⟨(hk.inv i).memory, (hk.inv i).registers, rfl⟩⟩

theorem effSetFleet_keeps (secret : Nat) (chained : Bool) {s0 s : State} (hk : Keeps s0 s) :
    Keeps s0 (effSetFleet s secret chained) := by
  unfold effSetFleet
  split
  · exact reply_keeps _ _ _ hk
  · rename_i h
    refine reply_keeps _ _ _ ⟨hk.pending, fun i => ⟨(hk.inv i).memory, (hk.inv i).registers, ?_⟩⟩
    simp only [State.opSession, State.provisioned, Bool.or_eq_true, Bool.not_eq_true', not_or, Bool.not_eq_false,
      Bool.and_eq_true] at h
    simp [State.secretsOwned, h.1.1.2]

theorem effSetExtKey_keeps (key : Nat) (chained : Bool) {s0 s : State} (hk : Keeps s0 s) :
    Keeps s0 (effSetExtKey s key chained) := by
  unfold effSetExtKey
  repeat with_reducible first
    | assumption | apply reply_keeps | apply Keeps.ite | (extract_lets +onlyGivenNames xx; revert xx; intro (x : Sec); skip)
    | refine Keeps.updSec ?_ rfl rfl

theorem effSetCak_keeps (subPort key : Nat) (chained : Bool) {s0 s : State} (hk : Keeps s0 s) :
    Keeps s0 (effSetCak s subPort key chained) := by
  unfold effSetCak
  split
  · exact reply_keeps _ _ _ hk
  · rename_i h
    refine reply_keeps _ _ _ ⟨hk.pending, fun i => ⟨(hk.inv i).memory, (hk.inv i).registers, ?_⟩⟩
    simp only [State.opSession, State.provisioned, Bool.or_eq_true, Bool.not_eq_true', not_or, Bool.not_eq_false,
      Bool.and_eq_true] at h
    simp [State.secretsOwned, h.1.1.2]

theorem effDebugUnlock_keeps (facility : Nat) (signed : Bool) {s0 s : State} (hk : Keeps s0 s) :
    Keeps s0 (effDebugUnlock s facility signed) := by
  unfold effDebugUnlock
  repeat with_reducible first | assumption | apply reply_keeps | apply security_keeps | apply setDebug_keeps | apply Keeps.ite

theorem effDecommission_keeps (chained : Bool) {s0 s : State} (hk : Keeps s0 s) : Keeps s0 (effDecommission s chained) := by
  unfold effDecommission
  refine Keeps.ite (reply_keeps _ _ _ hk) (reply_keeps _ _ _ ?_)
  exact ⟨hk.pending, fun i => ⟨(hk.inv i).memory, (hk.inv i).registers, rfl⟩⟩

theorem freeze_keeps (p : Nat) {s0 s : State} (hk : Keeps s0 s) :
    Keeps s0 (State.freeze s p) := by
  unfold State.freeze
  repeat with_reducible first
    | assumption | (extract_lets +onlyGivenNames xx; revert xx; intro x; clear_value x) | apply Keeps.upd

theorem resetPartRegs_keeps (p : Nat) {s0 s : State} (hk : Keeps s0 s) :
    Keeps s0 (State.resetPartRegs s p) := by
  unfold State.resetPartRegs
  repeat with_reducible first
    | assumption | (extract_lets +onlyGivenNames xx; revert xx; intro x; clear_value x) | apply Keeps.dropRegs

theorem writeConfig_keeps (p : Nat) (b : Bytes) {s0 s : State} (hk : Keeps s0 s) :
    Keeps s0 (State.writeConfig s p b) := by
  unfold State.writeConfig
  repeat with_reducible first
    | assumption | apply put_keeps | apply resetPartRegs_keeps | refine Keeps.foldl _ (fun _ _ _ => ?_) ?_

theorem setPart_keeps (p : Nat) (f : Part → Part) {s0 s : State} (hk : Keeps s0 s) :
    Keeps s0 (State.setPart s p f) := by
  unfold State.setPart
  repeat with_reducible first | assumption | apply Keeps.upd

theorem configure_keeps (p : Nat) (b : Bytes) {s0 s : State} (hk : Keeps s0 s) :
    Keeps s0 (State.configure s p b) := by
  unfold State.configure
  repeat with_reducible first | assumption | apply put_keeps | apply setPart_keeps | apply writeConfig_keeps

theorem clearTables_keeps (p : Nat) {s0 s : State} (hk : Keeps s0 s) :
    Keeps s0 (State.clearTables s p) := by
  unfold State.clearTables
  exact (dropEntries_keeps _ hk).upd

theorem eraseSeq_keeps (qi : Nat) {s0 s : State} (hk : Keeps s0 s) :
    Keeps s0 (State.eraseSeq s qi) := by
  unfold State.eraseSeq
  repeat with_reducible first
    | assumption | apply dropIndex_keeps | apply openGroup_keeps | apply releaseChunk_keeps | apply setSeq_keeps
    | apply Keeps.ite | refine Keeps.foldl _ (fun _ _ _ => ?_) ?_

theorem eraseLeaf_keeps (i : Nat) {s0 s : State} (hk : Keeps s0 s) :
    Keeps s0 (State.eraseLeaf s i) := by
  unfold State.eraseLeaf
  repeat with_reducible first
    | assumption | apply evict_keeps | apply poisonLeaf_keeps | apply setLeaf_keeps | apply settle_keeps | apply Keeps.ite
    | split

theorem beginScrub_keeps (p : Nat) {s0 s : State} (hk : Keeps s0 s) :
    Keeps s0 (State.beginScrub s p) := by
  unfold State.beginScrub
  repeat with_reducible first
    | assumption | apply clearAnchor_keeps | apply clearTables_keeps | apply endChm_keeps | apply eraseLeaf_keeps
    | apply eraseSeq_keeps | apply reapBands_keeps | apply resetRings_keeps | apply setPState_keeps | apply setPart_keeps
    | refine Keeps.foldl _ (fun _ _ _ => ?_) ?_ | split | apply Keeps.upd

theorem enableNow_keeps (rid : Nat) (p : Nat) {s0 s : State} (hk : Keeps s0 s) :
    Keeps s0 (State.enableNow s rid p) := by
  unfold State.enableNow
  repeat with_reducible first
    | assumption | apply complete_keeps | apply put_keeps | apply setPState_keeps | apply setPart_keeps | apply Keeps.ite

theorem effPartitionEnable_keeps (rid : Nat) {s0 s : State} (hk : Keeps s0 s) :
    Keeps s0 (effPartitionEnable s rid) := by
  unfold effPartitionEnable
  repeat with_reducible first
    | assumption | apply complete_keeps | apply enableNow_keeps | apply put_keeps | apply setPart_keeps | apply wait_keeps
    | apply Keeps.ite | split

theorem resumeEnable_keeps (p : Nat) {s0 s : State} (hk : Keeps s0 s) :
    Keeps s0 (State.resumeEnable s p) := by
  unfold State.resumeEnable
  repeat with_reducible first | assumption | apply enableNow_keeps | apply put_keeps | apply setPart_keeps | split

theorem createFresh_keeps (p : Nat) (b : Bytes) {s0 s : State} (hk : Keeps s0 s) :
    Keeps s0 (State.createFresh s p b) := by
  unfold State.createFresh
  repeat with_reducible first | assumption | apply clearTables_keeps | apply configure_keeps | apply freshKeys_keeps

theorem createFrom_keeps (rid : Nat) (p : Nat) (b : Bytes) {s0 s : State} (hk : Keeps s0 s) :
    Keeps s0 (State.createFrom s rid p b) := by
  unfold State.createFrom
  repeat with_reducible first
    | assumption | apply beginScrub_keeps | apply complete_keeps | apply configure_keeps | apply createFresh_keeps
    | apply raisePState_keeps | apply setPart_keeps | apply wait_keeps | apply Keeps.ite

theorem effPartitionCreate_keeps (rid : Nat) {s0 s : State} (hk : Keeps s0 s) :
    Keeps s0 (effPartitionCreate s rid) := by
  unfold effPartitionCreate
  repeat with_reducible first
    | assumption | apply complete_keeps | apply createFrom_keeps | apply failRead_keeps | apply Keeps.ite | split

theorem abortFetched_keeps (p : Nat) {s0 s : State} (hk : Keeps s0 s) :
    Keeps s0 (State.abortFetched s p) := by
  unfold State.abortFetched
  repeat with_reducible first | assumption | apply complete_keeps | apply Keeps.ite | refine Keeps.foldl _ (fun _ _ _ => ?_) ?_

theorem stopSchedules_keeps (p : Nat) {s0 s : State} (hk : Keeps s0 s) :
    Keeps s0 (State.stopSchedules s p) := by
  unfold State.stopSchedules
  repeat with_reducible first
    | assumption | apply complete_keeps | apply setSched_keeps
    | (extract_lets +onlyGivenNames xx; revert xx; intro x; refine (fun hx => ?_) (?_ : Keeps s0 x); clear_value x)
    | (extract_lets +onlyGivenNames xx; revert xx; intro x; clear_value x) | split

theorem stopBackground_keeps (p : Nat) {s0 s : State} (hk : Keeps s0 s) :
    Keeps s0 (State.stopBackground s p) := by
  unfold State.stopBackground
  repeat with_reducible first
    | assumption | apply evict_keeps | refine Keeps.foldl _ (fun _ _ _ => ?_) ?_
    | (extract_lets +onlyGivenNames xx; revert xx; intro x; refine (fun hx => ?_) (?_ : Keeps s0 x); clear_value x)
    | (extract_lets +onlyGivenNames xx; revert xx; intro x; clear_value x) | apply Keeps.upd

theorem beginDrain_keeps (p : Nat) {s0 s : State} (hk : Keeps s0 s) :
    Keeps s0 (State.beginDrain s p) := by
  unfold State.beginDrain
  repeat with_reducible first
    | assumption | apply abortFetched_keeps | apply freeze_keeps | apply netTeardown_keeps | apply put_keeps
    | apply ringPurge_keeps | apply setPState_keeps | apply stopBackground_keeps | apply stopSchedules_keeps
    | apply effExtDisable_keeps | refine Keeps.foldl _ (fun _ _ _ => ?_) ?_ | apply Keeps.upd

theorem effPartitionTeardown_keeps (rid : Nat) {s0 s : State} (hk : Keeps s0 s) :
    Keeps s0 (effPartitionTeardown s rid) := by
  unfold effPartitionTeardown
  repeat with_reducible first
    | assumption | apply beginDrain_keeps | apply complete_keeps | apply setPart_keeps | apply wait_keeps | apply Keeps.ite
    | split

theorem effPartitionDrainDone_keeps (p : Nat) {s0 s : State} (hk : Keeps s0 s) :
    Keeps s0 (effPartitionDrainDone s p) := by
  unfold effPartitionDrainDone
  repeat with_reducible first
    | assumption | apply beginScrub_keeps | apply dropLeases_keeps | apply netDrained_keeps | apply Keeps.ite

theorem effScrubComplete_keeps (p : Nat) {s0 s : State} (hk : Keeps s0 s) :
    Keeps s0 (effScrubComplete s p) := by
  unfold effScrubComplete
  repeat with_reducible first
    | assumption | apply complete_keeps | apply configure_keeps | apply freshKeys_keeps | apply put_keeps
    | apply resetPartRegs_keeps | apply resumeEnable_keeps | apply setPState_keeps | apply setPart_keeps | apply wait_keeps
    | apply Keeps.ite | refine Keeps.snd ?_ (by assumption)
    | (extract_lets +onlyGivenNames xx; revert xx; intro x; refine (fun hx => ?_) (?_ : Keeps s0 x); clear_value x)
    | (extract_lets +onlyGivenNames xx; revert xx; intro x; clear_value x) | split | apply Keeps.upd

end Sys2Proof.Machine
end

