-- ==== Sys2Proof/Laws/KeepsBoot.lean ====
section
/-! SUPPORT. What is kept by power, start-up and the register windows: the queue and the invariant. -/

namespace Sys2Proof.Machine

open Sys2Proof

theorem setPd_keeps (d : Nat) (x : Pd) {s0 s : State} (hk : Keeps s0 s) :
    Keeps s0 (State.setPd s d x) := by
  unfold State.setPd
  repeat with_reducible first | assumption | apply Keeps.upd

theorem pdResult_keeps (d : Nat) (st : Status) {s0 s : State} (hk : Keeps s0 s) :
    Keeps s0 (State.pdResult s d st) := by
  unfold State.pdResult
  repeat with_reducible first | assumption | apply raise_keeps | apply setPd_keeps

theorem effPdOn_keeps (d : Nat) (waitFree : Bool) {s0 s : State} (hk : Keeps s0 s) :
    Keeps s0 (effPdOn s d waitFree) := by
  unfold effPdOn
  repeat with_reducible first | assumption | apply pdResult_keeps | apply setPd_keeps | apply Keeps.ite

theorem lanternGroup_keeps (g : Nat) (st : Nat) {s0 s : State} (hk : Keeps s0 s) :
    Keeps s0 (State.lanternGroup s g st) := by
  unfold State.lanternGroup
  repeat with_reducible first | assumption | apply Keeps.upd

theorem domainStart_keeps (d : Nat) {s0 s : State} (hk : Keeps s0 s) :
    Keeps s0 (State.domainStart s d) := by
  unfold State.domainStart
  repeat with_reducible first
    | assumption | apply bankOn_keeps | apply dispatch_keeps | apply issueNand_keeps | apply lanternGroup_keeps | apply put_keeps
    | apply setSpire_keeps | apply Keeps.ite | refine Keeps.foldl _ (fun _ _ _ => ?_) ?_

theorem effPdPoweredOn_keeps (d : Nat) {s0 s : State} (hk : Keeps s0 s) :
    Keeps s0 (effPdPoweredOn s d) := by
  unfold effPdPoweredOn
  repeat with_reducible first
    | assumption | apply domainStart_keeps | apply pdResult_keeps | apply setPd_keeps | apply Keeps.ite

theorem domainDrain_keeps (d : Nat) {s0 s : State} (hk : Keeps s0 s) :
    Keeps s0 (State.domainDrain s d) := by
  unfold State.domainDrain
  repeat with_reducible first
    | assumption | apply checkpoint_keeps | apply commitFormed_keeps | apply dispatch_keeps | apply returnUnit_keeps
    | apply setGrove_keeps | apply startRelease_keeps | apply Keeps.ite | refine Keeps.foldl _ (fun _ _ _ => ?_) ?_

theorem domainGone_keeps (d : Nat) {s0 s : State} (hk : Keeps s0 s) :
    Keeps s0 (State.domainGone s d) := by
  unfold State.domainGone
  repeat with_reducible first
    | assumption | apply lanternGroup_keeps | apply put_keeps | apply bankOff_keeps | apply bankOn_keeps | apply Keeps.ite
    | refine Keeps.foldl _ (fun _ _ _ => ?_) ?_ | apply Keeps.upd

theorem effPdOff_keeps (d : Nat) {s0 s : State} (hk : Keeps s0 s) :
    Keeps s0 (effPdOff s d) := by
  unfold effPdOff
  repeat with_reducible first
    | assumption | apply domainDrain_keeps | apply pdResult_keeps | apply setPd_keeps | apply Keeps.ite

theorem effPdDrainDone_keeps (d : Nat) {s0 s : State} (hk : Keeps s0 s) :
    Keeps s0 (effPdDrainDone s d) := by
  unfold effPdDrainDone
  repeat with_reducible first
    | assumption | apply domainGone_keeps | apply pdResult_keeps | apply setPd_keeps | apply effPdOn_keeps | apply Keeps.ite

theorem stacksTo_keeps (st : Nat) {s0 s : State} (hk : Keeps s0 s) :
    Keeps s0 (State.stacksTo s st) := by
  unfold State.stacksTo
  repeat with_reducible first | assumption | apply setPd_keeps | refine Keeps.foldl _ (fun _ _ _ => ?_) ?_

theorem effHbmSrEnter_keeps {s0 s : State} (hk : Keeps s0 s) :
    Keeps s0 (effHbmSrEnter s) := by
  unfold effHbmSrEnter
  repeat with_reducible first | assumption | apply put_keeps | apply stacksTo_keeps | apply Keeps.ite

theorem effHbmSrExit_keeps {s0 s : State} (hk : Keeps s0 s) :
    Keeps s0 (effHbmSrExit s) := by
  unfold effHbmSrExit
  repeat with_reducible first | assumption | apply put_keeps | apply stacksTo_keeps | apply Keeps.ite

theorem effCupolaBudgetWrite_keeps (w : Nat) {s0 s : State} (hk : Keeps s0 s) :
    Keeps s0 (effCupolaBudgetWrite s w) := by
  unfold effCupolaBudgetWrite
  repeat with_reducible first
    | assumption | apply put_keeps | apply raise_keeps | apply Keeps.ite
    | (extract_lets +onlyGivenNames xx; revert xx; intro x; clear_value x) | apply Keeps.upd

theorem setCanopyRate_keeps {s0 s : State} (hk : Keeps s0 s) :
    Keeps s0 (State.setCanopyRate s) := by
  unfold State.setCanopyRate
  repeat with_reducible first | assumption | apply put_keeps

theorem spireStarved_keeps (n : Nat) {s0 s : State} (hk : Keeps s0 s) :
    Keeps s0 (State.spireStarved s n) := by
  unfold State.spireStarved
  repeat with_reducible first | assumption | apply bump_keeps | apply returnUnit_keeps | apply setSpire_keeps | apply Keeps.ite

theorem powerMeans_keeps (parts : List (Nat × Nat)) {s0 s : State} (hk : Keeps s0 s) :
    Keeps s0 (State.powerMeans s parts) := by
  unfold State.powerMeans
  repeat with_reducible first
    | assumption | apply put_keeps | apply Keeps.ite | refine Keeps.foldl _ (fun _ _ _ => ?_) ?_
    | (extract_lets +onlyGivenNames xx; revert xx; intro x; refine (fun hx => ?_) (?_ : Keeps s0 x); clear_value x)
    | (extract_lets +onlyGivenNames xx; revert xx; intro x; clear_value x) | apply Keeps.upd

theorem takeBudget_keeps {s0 s : State} (hk : Keeps s0 s) :
    Keeps s0 (State.takeBudget s) := by
  unfold State.takeBudget
  repeat with_reducible first | assumption | apply put_keeps | split | apply Keeps.upd

theorem noteGrants_keeps (refr : Nat) (reqs : List (Nat × Nat × Nat)) (kept new : List Grant) (waits : Bool) {s0 s : State} (hk : Keeps s0 s) :
    Keeps s0 (State.noteGrants s refr reqs kept new waits) := by
  unfold State.noteGrants
  repeat with_reducible first
    | assumption | apply bump_keeps | apply powerMeans_keeps | apply put_keeps | apply setCanopyRate_keeps | apply Keeps.ite
    | (extract_lets +onlyGivenNames xx; revert xx; intro x; refine (fun hx => ?_) (?_ : Keeps s0 x); clear_value x)
    | (extract_lets +onlyGivenNames xx; revert xx; intro x; clear_value x) | apply Keeps.upd

theorem starveSpires_keeps (reqs : List (Nat × Nat × Nat)) {s0 s : State} (hk : Keeps s0 s) :
    Keeps s0 (State.starveSpires s reqs) := by
  unfold State.starveSpires
  repeat with_reducible first
    | assumption | apply dispatch_keeps | apply spireStarved_keeps | apply Keeps.ite | refine Keeps.foldl _ (fun _ _ _ => ?_) ?_

theorem effCupolaEpoch_keeps (refresh : List Nat) (codec lantern : List (Nat × Nat)) (canopy : List Nat) {s0 s : State} (hk : Keeps s0 s) :
    Keeps s0 (effCupolaEpoch s refresh codec lantern canopy) := by
  unfold effCupolaEpoch
  repeat with_reducible first
    | assumption | apply starveSpires_keeps | apply noteGrants_keeps | apply takeBudget_keeps | apply Keeps.ite

theorem junction_keeps {s0 s : State} (hk : Keeps s0 s) :
    Keeps s0 (State.junction s) := by
  unfold State.junction
  repeat with_reducible first | assumption | apply put_keeps | apply setCanopyRate_keeps

theorem groveStage_keeps (g : Nat) (st : Nat) {s0 s : State} (hk : Keeps s0 s) :
    Keeps s0 (State.groveStage s g st) := by
  unfold State.groveStage
  repeat with_reducible first
    | assumption | apply effSpireSlowCheck_keeps | apply put_keeps | apply setSpire_keeps | apply Keeps.ite
    | refine Keeps.foldl _ (fun _ _ _ => ?_) ?_
    | (extract_lets +onlyGivenNames xx; revert xx; intro x; refine (fun hx => ?_) (?_ : Keeps s0 x); clear_value x)
    | (extract_lets +onlyGivenNames xx; revert xx; intro x; clear_value x) | apply Keeps.upd

theorem effThermalSample_keeps (n : Nat) (temp : Nat) {s0 s : State} (hk : Keeps s0 s) :
    Keeps s0 (effThermalSample s n temp) := by
  unfold effThermalSample
  repeat with_reducible first
    | assumption | apply groveStage_keeps | apply junction_keeps | apply put_keeps | apply raise_keeps | apply Keeps.ite

theorem effThermalTrip_keeps (n : Nat) {s0 s : State} (hk : Keeps s0 s) :
    Keeps s0 (effThermalTrip s n) := by
  unfold effThermalTrip
  repeat with_reducible first
    | assumption | apply endRequests_keeps | apply leaveNow_keeps | apply raise_keeps | apply setFatal_keeps
    | apply stopSpires_keeps | apply Keeps.ite | (extract_lets +onlyGivenNames xx; revert xx; intro x; clear_value x)
    | apply Keeps.upd

theorem effBelfryRearm_keeps {s0 s : State} (hk : Keeps s0 s) :
    Keeps s0 (effBelfryRearm s) := by
  unfold effBelfryRearm
  repeat with_reducible first | assumption | apply send_keeps | apply Keeps.ite

theorem setBox_keeps (secure : Bool) (n : Nat) (m : Mailbox) {s0 s : State} (hk : Keeps s0 s) :
    Keeps s0 (State.setBox s secure n m) := by
  unfold State.setBox
  repeat with_reducible first | assumption | apply Keeps.ite | apply Keeps.upd

theorem boxCause_keeps (secure : Bool) (n : Nat) (empty : Bool) {s0 s : State} (hk : Keeps s0 s) :
    Keeps s0 (State.boxCause s secure n empty) := by
  unfold State.boxCause
  repeat with_reducible first | assumption | apply putWord_keeps | apply raise_keeps | apply refreshDev_keeps | apply Keeps.ite

theorem sendBox_keeps (secure : Bool) (n : Nat) (v : Nat) {s0 s : State} (hk : Keeps s0 s) :
    Keeps s0 (State.sendBox s secure n v) := by
  unfold State.sendBox
  repeat with_reducible first | assumption | apply put_keeps | apply setBox_keeps | apply Keeps.ite

theorem effH2kSend_keeps (n : Nat) (secure : Bool) (half : Nat) (v : Nat) {s0 s : State} (hk : Keeps s0 s) :
    Keeps s0 (effH2kSend s n secure half v) := by
  unfold effH2kSend
  repeat with_reducible first
    | assumption | apply sendBox_keeps | apply setBox_keeps | apply Keeps.ite
    | (extract_lets +onlyGivenNames xx; revert xx; intro x; clear_value x) | split

theorem emptyBox_keeps (secure : Bool) (n : Nat) {s0 s : State} (hk : Keeps s0 s) :
    Keeps s0 (State.emptyBox s secure n) := by
  unfold State.emptyBox
  repeat with_reducible first | assumption | apply free_keeps | apply put_keeps | apply setBox_keeps

theorem effK2hRead_keeps (n : Nat) (secure : Bool) (half : Nat) {s0 s : State} (hk : Keeps s0 s) :
    Keeps s0 (effK2hRead s n secure half) := by
  unfold effK2hRead
  repeat with_reducible first
    | assumption | apply emptyBox_keeps | apply send_keeps | apply setBox_keeps | apply Keeps.ite
    | (extract_lets +onlyGivenNames xx; revert xx; intro x; clear_value x) | split

theorem effKeepTakeMessage_keeps (n : Nat) (secure : Bool) {s0 s : State} (hk : Keeps s0 s) :
    Keeps s0 (effKeepTakeMessage s n secure) := by
  unfold effKeepTakeMessage
  repeat with_reducible first | assumption | apply boxCause_keeps | apply put_keeps | apply setBox_keeps | apply Keeps.ite

theorem answer_keeps (n : Nat) (secure : Bool) (service : Nat) {s0 s : State} (hk : Keeps s0 s) :
    Keeps s0 (State.answer s n secure service) := by
  unfold State.answer
  repeat with_reducible first
    | assumption | apply boxCause_keeps | apply put_keeps | apply setBox_keeps | apply Keeps.ite
    | (extract_lets +onlyGivenNames xx; revert xx; intro x; clear_value x) | split

theorem effEcho_keeps (n : Nat) (secure : Bool) {s0 s : State} (hk : Keeps s0 s) :
    Keeps s0 (effEcho s n secure) := by
  unfold effEcho
  repeat with_reducible first | assumption | apply answer_keeps

theorem effVersion_keeps (n : Nat) (secure : Bool) {s0 s : State} (hk : Keeps s0 s) :
    Keeps s0 (effVersion s n secure) := by
  unfold effVersion
  repeat with_reducible first | assumption | apply answer_keeps

theorem effMeasure_keeps (n : Nat) (secure : Bool) {s0 s : State} (hk : Keeps s0 s) :
    Keeps s0 (effMeasure s n secure) := by
  unfold effMeasure
  repeat with_reducible first | assumption | apply answer_keeps

theorem startMemory_keeps {s0 s : State} (hk : Keeps s0 s) :
    Keeps s0 (State.startMemory s) := by
  unfold State.startMemory
  repeat with_reducible first | assumption | apply put_keeps | apply setPd_keeps | refine Keeps.foldl _ (fun _ _ _ => ?_) ?_

theorem bringUp_keeps {s0 s : State} (hk : Keeps s0 s) :
    Keeps s0 (State.bringUp s) := by
  unfold State.bringUp
  repeat with_reducible first | assumption | apply put_keeps | apply startMemory_keeps | apply Keeps.ite

theorem keptRegs_sorted (regs : Table Word) : Table.sorted (keptRegs regs) = true := by
  unfold keptRegs
  generalize regs.filter (fun (x : Nat × Word) => keptBits x.1 != 0) = l
  have h : Table.sorted resetWords = true := by decide
  generalize resetWords = t at h
  induction l generalizing t with
  | nil => exact h
  | cons x l ih => exact ih _ (Table.set_sorted _ _ h)

theorem resetDevice_keeps (cause : Nat) {s0 s : State} (hk : Keeps s0 s) : Keeps s0 (State.resetDevice s cause) := by
  unfold State.resetDevice
  extract_lets device s1 fatal x1 sec x2 boot ras ring straps x3 t t1 t2 t3 t4
  have h1 : Keeps s0 s1 := Keeps.ite (flashSafe_keeps hk) hk
  have ht : Keeps s0 t :=
    h1.updRegs (t := t) rfl rfl rfl rfl rfl (fun _ => keptRegs_sorted _)
  have h4 : Keeps s0 t4 := Keeps.foldl _ (fun _ _ h => put_keeps _ _ _ _ h)
    (bump_keeps _ _ _ _ (put_keeps _ _ _ _ (put_keeps _ _ _ _ (put_keeps _ _ _ _ ht))))
  exact bringUp_keeps (Keeps.ite (setKeepDown_keeps _ h4) h4)

theorem effConventionalReset_keeps (kind : Nat) {s0 s : State} (hk : Keeps s0 s) :
    Keeps s0 (effConventionalReset s kind) := by
  unfold effConventionalReset
  repeat with_reducible first | assumption | apply resetDevice_keeps | apply Keeps.ite

theorem effDeviceReset_keeps (operator : Bool) {s0 s : State} (hk : Keeps s0 s) :
    Keeps s0 (effDeviceReset s operator) := by
  unfold effDeviceReset
  repeat with_reducible first | assumption | apply resetDevice_keeps | apply Keeps.ite

theorem unpowered_keeps {s0 s : State} (hk : Keeps s0 s) : Keeps s0 (State.unpowered s) :=
  hk.updRegs rfl rfl rfl rfl rfl (fun _ => (by decide : Table.sorted resetWords = true))

theorem effPowerLoss_keeps {s0 s : State} (hk : Keeps s0 s) :
    Keeps s0 (effPowerLoss s) := by
  unfold effPowerLoss
  repeat with_reducible first | assumption | apply unpowered_keeps

theorem effPowerOn_keeps (hb6 : Bool) (targets : List Nat) (luns : Luns) (images : Bool) {s0 s : State} (hk : Keeps s0 s) :
    Keeps s0 (effPowerOn s hb6 targets luns images) := by
  unfold effPowerOn
  repeat with_reducible first
    | assumption | apply bringUp_keeps | apply unpowered_keeps | apply Keeps.ite
    | (extract_lets +onlyGivenNames xx; revert xx; intro x; clear_value x) | split | apply Keeps.upd

theorem effPldmFirmwareUpdate_keeps (image : Nat) (verified : Bool) {s0 s : State} (hk : Keeps s0 s) :
    Keeps s0 (effPldmFirmwareUpdate s image verified) := by
  unfold effPldmFirmwareUpdate
  repeat with_reducible first
    | assumption | apply put_keeps | apply Keeps.ite | (extract_lets +onlyGivenNames xx; revert xx; intro x; clear_value x)
    | apply Keeps.upd

theorem effKeepFirmwareRunning_keeps {s0 s : State} (hk : Keeps s0 s) :
    Keeps s0 (effKeepFirmwareRunning s) := by
  unfold effKeepFirmwareRunning
  repeat with_reducible first
    | assumption | apply bringUp_keeps | apply setKeepDown_keeps | apply Keeps.ite
    | (extract_lets +onlyGivenNames xx; revert xx; intro x; clear_value x) | apply Keeps.upd

theorem effPerstNRise_keeps (masterEn : Bool) (standbyEn : Bool) (ringId : Nat) {s0 s : State} (hk : Keeps s0 s) :
    Keeps s0 (effPerstNRise s masterEn standbyEn ringId) := by
  unfold effPerstNRise
  repeat with_reducible first
    | assumption | apply bringUp_keeps | apply put_keeps | apply Keeps.ite
    | (extract_lets +onlyGivenNames xx; revert xx; intro x; clear_value x) | apply Keeps.upd

theorem halt_keeps (code : Nat) (unit : Nat) {s0 s : State} (hk : Keeps s0 s) :
    Keeps s0 (State.halt s code unit) := by
  unfold State.halt
  repeat with_reducible first | assumption | apply put_keeps

theorem initFlash_keeps {s0 s : State} (hk : Keeps s0 s) :
    Keeps s0 (State.initFlash s) := by
  unfold State.initFlash
  repeat with_reducible first | assumption | apply put_keeps | refine Keeps.foldl _ (fun _ _ _ => ?_) ?_

theorem effMemoryFillDone_keeps (trainFail : Option Nat) (fatal : Bool) (dies : List (Nat × Nat)) (units : List (Nat × Nat)) {s0 s : State} (hk : Keeps s0 s) :
    Keeps s0 (effMemoryFillDone s trainFail fatal dies units) := by
  unfold effMemoryFillDone
  repeat with_reducible first
    | assumption | apply halt_keeps | apply initFlash_keeps | apply markDie_keeps | apply put_keeps | apply retireUnit_keeps
    | apply setFatal_keeps | apply setPd_keeps | apply Keeps.ite | refine Keeps.foldl _ (fun _ _ _ => ?_) ?_
    | (extract_lets +onlyGivenNames xx; revert xx; intro x; refine (fun hx => ?_) (?_ : Keeps s0 x); clear_value x)
    | (extract_lets +onlyGivenNames xx; revert xx; intro x; clear_value x) | split | apply Keeps.upd

theorem effGlbSealSet_keeps {s0 s : State} (hk : Keeps s0 s) :
    Keeps s0 (effGlbSealSet s) := by
  unfold effGlbSealSet
  repeat with_reducible first
    | assumption | apply put_keeps
    | (extract_lets +onlyGivenNames xx; revert xx; intro x; refine (fun hx => ?_) (?_ : Keeps s0 x); clear_value x)
    | (extract_lets +onlyGivenNames xx; revert xx; intro (x : Sec); skip) | split | refine Keeps.updSec ?_ rfl rfl

theorem spireWord_keeps (n : Nat) {s0 s : State} (hk : Keeps s0 s) :
    Keeps s0 (State.spireWord s n).2 := by
  unfold State.spireWord
  repeat with_reducible first | assumption | apply free_keeps | apply Keeps.ite2

theorem readHigh_keeps (off : Nat) {s0 s : State} (hk : Keeps s0 s) :
    Keeps s0 (State.readHigh s off).2 := by
  unfold State.readHigh
  repeat with_reducible first | assumption | apply spireWord_keeps | apply Keeps.ite2 | split

theorem readWord_keeps (off : Nat) {s0 s : State} (hk : Keeps s0 s) :
    Keeps s0 (State.readWord s off).2 := by
  unfold State.readWord
  repeat with_reducible first | assumption | apply readHigh_keeps | apply Keeps.ite2

theorem writeFields_keeps (off : Nat) (val : Nat) (keep : List Nat) {s0 s : State} (hk : Keeps s0 s) :
    Keeps s0 (State.writeFields s off val keep) := by
  unfold State.writeFields
  repeat with_reducible first
    | assumption | apply putWord_keeps | apply security_keeps | apply Keeps.ite
    | (extract_lets +onlyGivenNames xx; revert xx; intro x; clear_value x) | split | apply Keeps.upd

theorem writeGlb_keeps (off : Nat) (val : Nat) {s0 s : State} (hk : Keeps s0 s) :
    Keeps s0 (State.writeGlb s off val) := by
  unfold State.writeGlb
  repeat with_reducible first
    | assumption | apply writeFields_keeps | apply effDeviceReset_keeps | apply effGlbSealSet_keeps | apply Keeps.ite | split

theorem writeBelfry_keeps (off : Nat) (val : Nat) {s0 s : State} (hk : Keeps s0 s) :
    Keeps s0 (State.writeBelfry s off val) := by
  unfold State.writeBelfry
  repeat with_reducible first
    | assumption | apply refreshDev_keeps | apply writeFields_keeps | apply effBelfryRearm_keeps | apply Keeps.ite

theorem writeRing_keeps (fn : Nat) (off : Nat) (val : Nat) {s0 s : State} (hk : Keeps s0 s) :
    Keeps s0 (State.writeRing s fn off val) := by
  unfold State.writeRing
  repeat with_reducible first
    | assumption | apply ringWrite_keeps | apply writeFields_keeps | apply effCqDisable_keeps | apply effCqEnable_keeps
    | apply effSqDisable_keeps | apply effSqEnable_keeps | apply Keeps.ite | split | apply Keeps.upd | (intro _)

theorem writeHost_keeps (fn : Nat) (off : Nat) (val : Nat) {s0 s : State} (hk : Keeps s0 s) :
    Keeps s0 (State.writeHost s fn off val) := by
  unfold State.writeHost
  repeat with_reducible first | assumption | apply writeFields_keeps | apply writeRing_keeps | apply Keeps.ite

theorem writeOwned_keeps (p : Nat) (o : Nat) (val : Nat) {s0 s : State} (hk : Keeps s0 s) :
    Keeps s0 (State.writeOwned s p o val) := by
  unfold State.writeOwned
  repeat with_reducible first
    | assumption | apply put_keeps | apply refreshPart_keeps | apply writeFields_keeps | apply Keeps.ite | split

theorem writeTier_keeps (p : Nat) (t : Nat) (limit : Bool) (v : Nat) {s0 s : State} (hk : Keeps s0 s) :
    Keeps s0 (State.writeTier s p t limit v) := by
  unfold State.writeTier
  repeat with_reducible first | assumption | apply put_keeps | apply Keeps.ite

theorem writePart_keeps (p : Nat) (o : Nat) (val : Nat) {s0 s : State} (hk : Keeps s0 s) :
    Keeps s0 (State.writePart s p o val) := by
  unfold State.writePart
  repeat with_reducible first
    | assumption | apply writeFields_keeps | apply writeOwned_keeps | apply writeTier_keeps | apply effPartTrafficQWrite_keeps
    | apply Keeps.ite
    | (extract_lets +onlyGivenNames xx; revert xx; intro x; refine (fun hx => ?_) (?_ : Keeps s0 x); clear_value x)
    | (extract_lets +onlyGivenNames xx; revert xx; intro x; clear_value x) | split | apply Keeps.upd

theorem writeCanopy_keeps (off : Nat) (val : Nat) {s0 s : State} (hk : Keeps s0 s) :
    Keeps s0 (State.writeCanopy s off val) := by
  unfold State.writeCanopy
  repeat with_reducible first | assumption | apply writeFields_keeps | apply effCanopyBankFlush_keeps | apply Keeps.ite

theorem writeSpire_keeps (n : Nat) (offline : Bool) {s0 s : State} (hk : Keeps s0 s) :
    Keeps s0 (State.writeSpire s n offline) := by
  unfold State.writeSpire
  repeat with_reducible first | assumption | apply dispatch_keeps | apply put_keeps | apply spireOff_keeps | apply Keeps.ite

theorem writeExt_keeps (off : Nat) (val : Nat) {s0 s : State} (hk : Keeps s0 s) :
    Keeps s0 (State.writeExt s off val) := by
  unfold State.writeExt
  repeat with_reducible first
    | assumption | apply setExt_keeps | apply effExtDisable_keeps | apply effExtEnable_keeps | apply effExtLoad_keeps
    | apply Keeps.ite
    | (extract_lets +onlyGivenNames xx; revert xx; intro x; refine (fun hx => ?_) (?_ : Keeps s0 x); clear_value x)
    | (extract_lets +onlyGivenNames xx; revert xx; intro x; clear_value x) | split

theorem writeSpires_keeps (off : Nat) (val : Nat) {s0 s : State} (hk : Keeps s0 s) :
    Keeps s0 (State.writeSpires s off val) := by
  unfold State.writeSpires
  repeat with_reducible first
    | assumption | apply writeExt_keeps | apply writeFields_keeps | apply writeSpire_keeps | apply Keeps.ite

theorem writeLantern_keeps (off : Nat) (val : Nat) {s0 s : State} (hk : Keeps s0 s) :
    Keeps s0 (State.writeLantern s off val) := by
  unfold State.writeLantern
  repeat with_reducible first | assumption | apply writeFields_keeps | apply Keeps.ite

theorem writeBeat_keeps (off : Nat) (val : Nat) {s0 s : State} (hk : Keeps s0 s) :
    Keeps s0 (State.writeBeat s off val) := by
  unfold State.writeBeat
  repeat with_reducible first
    | assumption | apply restartBeat_keeps | apply writeFields_keeps | apply effBeatSourceChange_keeps | apply Keeps.ite

theorem writeClass_keeps (val : Nat) {s0 s : State} (hk : Keeps s0 s) :
    Keeps s0 (State.writeClass s val) := by
  unfold State.writeClass
  repeat with_reducible first | assumption | apply Keeps.ite | apply Keeps.upd

theorem writeTiers_keeps (off : Nat) (val : Nat) {s0 s : State} (hk : Keeps s0 s) :
    Keeps s0 (State.writeTiers s off val) := by
  unfold State.writeTiers
  repeat with_reducible first | assumption | apply writeClass_keeps | apply writeFields_keeps | split

theorem writeFlash_keeps (off : Nat) (val : Nat) {s0 s : State} (hk : Keeps s0 s) :
    Keeps s0 (State.writeFlash s off val) := by
  unfold State.writeFlash
  repeat with_reducible first | assumption | apply writeFields_keeps | apply effHealthSnap_keeps | apply Keeps.ite | split

theorem writeExtent_keeps (off : Nat) (val : Nat) {s0 s : State} (hk : Keeps s0 s) :
    Keeps s0 (State.writeExtent s off val) := by
  unfold State.writeExtent
  repeat with_reducible first
    | assumption | apply setExtent_keeps | apply effPoolExtAdd_keeps | apply effPoolExtRelease_keeps | apply Keeps.ite
    | (extract_lets +onlyGivenNames xx; revert xx; intro x; refine (fun hx => ?_) (?_ : Keeps s0 x); clear_value x)
    | (extract_lets +onlyGivenNames xx; revert xx; intro x; clear_value x) | split

theorem writePool_keeps (off : Nat) (val : Nat) {s0 s : State} (hk : Keeps s0 s) :
    Keeps s0 (State.writePool s off val) := by
  unfold State.writePool
  repeat with_reducible first
    | assumption | apply writeExtent_keeps | apply writeFields_keeps | apply effPoolRestart_keeps | apply Keeps.ite

theorem writeSub_keeps (off : Nat) (val : Nat) {s0 s : State} (hk : Keeps s0 s) :
    Keeps s0 (State.writeSub s off val) := by
  unfold State.writeSub
  repeat with_reducible first
    | assumption | apply Keeps.ite | (extract_lets +onlyGivenNames xx; revert xx; intro x; clear_value x) | apply Keeps.upd

theorem writePort_keeps (p : Nat) (off : Nat) (val : Nat) {s0 s : State} (hk : Keeps s0 s) :
    Keeps s0 (State.writePort s p off val) := by
  unfold State.writePort
  repeat with_reducible first
    | assumption | apply writeFields_keeps | apply effSubportLinkChange_keeps | apply Keeps.ite
    | refine Keeps.foldl _ (fun _ _ _ => ?_) ?_

theorem writeNet_keeps (off : Nat) (val : Nat) {s0 s : State} (hk : Keeps s0 s) :
    Keeps s0 (State.writeNet s off val) := by
  unfold State.writeNet
  repeat with_reducible first
    | assumption | apply setQp_keeps | apply writeFields_keeps | apply writePort_keeps | apply writeSub_keeps
    | apply effQpError_keeps | apply effQpLoad_keeps | apply effQpReset_keeps | apply Keeps.ite
    | (extract_lets +onlyGivenNames xx; revert xx; intro x; clear_value x) | split

theorem writeTraffic_keeps (off : Nat) (val : Nat) {s0 s : State} (hk : Keeps s0 s) :
    Keeps s0 (State.writeTraffic s off val) := by
  unfold State.writeTraffic
  repeat with_reducible first
    | assumption | apply setTxq_keeps | apply writeFields_keeps | apply effTrafficStatClear_keeps | apply Keeps.ite
    | (extract_lets +onlyGivenNames xx; revert xx; intro x; clear_value x) | split

theorem writeRingCfg_keeps (val : Nat) {s0 s : State} (hk : Keeps s0 s) :
    Keeps s0 (State.writeRingCfg s val) := by
  unfold State.writeRingCfg
  repeat with_reducible first
    | assumption | apply put_keeps | apply writeFields_keeps | apply effRingEnable_keeps | apply effRingLeave_keeps
    | apply Keeps.ite

theorem writeBke_keeps (off : Nat) (val : Nat) {s0 s : State} (hk : Keeps s0 s) :
    Keeps s0 (State.writeBke s off val) := by
  unfold State.writeBke
  repeat with_reducible first
    | assumption | apply writeFields_keeps | apply writeRingCfg_keeps | apply effRingCommit_keeps | apply effRingForget_keeps
    | apply effRingLeave_keeps | apply effRingRebalance_keeps | apply Keeps.ite
    | (extract_lets +onlyGivenNames xx; revert xx; intro x; refine (fun hx => ?_) (?_ : Keeps s0 x); clear_value x)
    | (extract_lets +onlyGivenNames xx; revert xx; intro x; clear_value x) | split | apply Keeps.upd

theorem writeCbt_keeps (val : Nat) {s0 s : State} (hk : Keeps s0 s) :
    Keeps s0 (State.writeCbt s val) := by
  unfold State.writeCbt
  repeat with_reducible first
    | assumption | apply security_keeps | apply setDebug_keeps | apply writeFields_keeps | apply effReadRaw_keeps
    | apply effWriteRaw_keeps | apply Keeps.ite
    | (extract_lets +onlyGivenNames xx; revert xx; intro x; refine (fun hx => ?_) (?_ : Keeps s0 x); clear_value x)
    | (extract_lets +onlyGivenNames xx; revert xx; intro x; clear_value x) | split

theorem writeRas_keeps (off : Nat) (val : Nat) {s0 s : State} (hk : Keeps s0 s) :
    Keeps s0 (State.writeRas s off val) := by
  unfold State.writeRas
  repeat with_reducible first
    | assumption | apply writeCbt_keeps | apply writeFields_keeps | apply effRasBistGo_keeps | apply effRasInjectArm_keeps
    | apply effRasRetireGo_keeps | apply Keeps.ite
    | (extract_lets +onlyGivenNames xx; revert xx; intro x; refine (fun hx => ?_) (?_ : Keeps s0 x); clear_value x)
    | (extract_lets +onlyGivenNames xx; revert xx; intro x; clear_value x) | split | apply Keeps.upd

theorem writeSec_keeps (off : Nat) (val : Nat) {s0 s : State} (hk : Keeps s0 s) :
    Keeps s0 (State.writeSec s off val) := by
  unfold State.writeSec
  repeat with_reducible first
    | assumption | apply put_keeps | apply writeFields_keeps | apply effKeyRotate_keeps | apply Keeps.ite | split

theorem writeCupola_keeps (off : Nat) (val : Nat) {s0 s : State} (hk : Keeps s0 s) :
    Keeps s0 (State.writeCupola s off val) := by
  unfold State.writeCupola
  repeat with_reducible first
    | assumption | apply writeFields_keeps | apply effCupolaBudgetWrite_keeps | apply effHbmSrEnter_keeps
    | apply effHbmSrExit_keeps | apply effPdOff_keeps | apply effPdOn_keeps | apply Keeps.ite | split

theorem writeMbx_keeps (secure : Bool) (n : Nat) (o : Nat) (val : Nat) {s0 s : State} (hk : Keeps s0 s) :
    Keeps s0 (State.writeMbx s secure n o val) := by
  unfold State.writeMbx
  repeat with_reducible first | assumption | apply writeFields_keeps | apply effH2kSend_keeps | split

theorem writeWord_keeps (fn : Nat) (off : Nat) (val : Nat) {s0 s : State} (hk : Keeps s0 s) :
    Keeps s0 (State.writeWord s fn off val) := by
  unfold State.writeWord
  repeat with_reducible first
    | assumption | apply writeBeat_keeps | apply writeBelfry_keeps | apply writeBke_keeps | apply writeCanopy_keeps
    | apply writeCupola_keeps | apply writeFields_keeps | apply writeFlash_keeps | apply writeGlb_keeps | apply writeHost_keeps
    | apply writeLantern_keeps | apply writeMbx_keeps | apply writeNet_keeps | apply writePart_keeps | apply writePool_keeps
    | apply writeRas_keeps | apply writeSec_keeps | apply writeSpires_keeps | apply writeTiers_keeps | apply writeTraffic_keeps
    | apply Keeps.ite

theorem viewWrite_keeps (p : Nat) (off : Nat) (val : Nat) (stream : Option Nat) {s0 s : State} (hk : Keeps s0 s) :
    Keeps s0 (State.viewWrite s p off val stream) := by
  unfold State.viewWrite
  repeat with_reducible first | assumption | apply writeOwned_keeps | apply writeWord_keeps | apply Keeps.ite | split

theorem readLatched_keeps (fn : Nat) (off : Nat) {s0 s : State} (hk : Keeps s0 s) :
    Keeps s0 (State.readLatched s fn off).2 := by
  unfold State.readLatched
  repeat with_reducible first
    | assumption | apply readWord_keeps | apply Keeps.ite2 | refine Keeps.snd ?_ (by assumption)
    | (extract_lets +onlyGivenNames xx; revert xx; intro x; clear_value x) | split | apply Keeps.upd

theorem read4_keeps (fn : Nat) (off : Nat) {s0 s : State} (hk : Keeps s0 s) :
    Keeps s0 (State.read4 s fn off).2 := by
  unfold State.read4
  repeat with_reducible first | assumption | apply readLatched_keeps | apply Keeps.ite2 | split

theorem write4_keeps (fn : Nat) (off : Nat) (val : Nat) (stream : Option Nat) {s0 s : State} (hk : Keeps s0 s) :
    Keeps s0 (State.write4 s fn off val stream) := by
  unfold State.write4
  repeat with_reducible first | assumption | apply viewWrite_keeps | apply writeWord_keeps | apply Keeps.ite

theorem withSelectors_keeps (t : Table Nat) {s0 s : State} (hk : Keeps s0 s) :
    Keeps s0 (State.withSelectors s t) := by
  unfold State.withSelectors
  repeat with_reducible first | assumption | apply putWord_keeps | refine Keeps.foldl _ (fun _ _ _ => ?_) ?_

theorem asMgmt_keeps (go : State → State) {s0 s : State} (h_go : ∀ a0, Keeps s0 a0 → Keeps s0 (go a0)) (hk : Keeps s0 s) :
    Keeps s0 (State.asMgmt s go) := by
  unfold State.asMgmt
  repeat with_reducible first | assumption | apply h_go | apply withSelectors_keeps | apply Keeps.upd

theorem readBar0_keeps (fn : Nat) (off : Nat) (size : Nat) {s0 s : State} (hk : Keeps s0 s) :
    Keeps s0 (State.readBar0 s fn off size) := by
  unfold State.readBar0
  repeat with_reducible first
    | assumption | apply read4_keeps | apply send_keeps | apply effK2hRead_keeps | apply Keeps.ite | split

theorem writeBar0_keeps (fn : Nat) (off : Nat) (size : Nat) (val : Nat) (stream : Option Nat) {s0 s : State} (hk : Keeps s0 s) :
    Keeps s0 (State.writeBar0 s fn off size val stream) := by
  unfold State.writeBar0
  repeat with_reducible first | assumption | apply write4_keeps | apply effH2kSend_keeps | apply Keeps.ite

theorem bar0_keeps (fn : Nat) (off : Nat) (size : Nat) (val : Option Nat) (stream : Option Nat) {s0 s : State} (hk : Keeps s0 s) :
    Keeps s0 (State.bar0 s fn off size val stream) := by
  unfold State.bar0
  repeat with_reducible first
    | assumption | apply badAccess_keeps | apply readBar0_keeps | apply send_keeps | apply writeBar0_keeps | apply Keeps.ite
    | split

theorem bar2_keeps (fn : Nat) (off : Nat) (size : Nat) (val : Option Nat) {s0 s : State} (hk : Keeps s0 s) :
    Keeps s0 (State.bar2 s fn off size val) := by
  unfold State.bar2
  repeat with_reducible first
    | assumption | apply pageAccess_keeps | apply send_keeps | apply effCqHead_keeps | apply effSqTail_keeps | apply Keeps.ite
    | split

theorem windowRead_keeps (fn : Nat) (off : Nat) (size : Nat) {s0 s : State} (hk : Keeps s0 s) :
    Keeps s0 (State.windowRead s fn off size) := by
  unfold State.windowRead
  repeat with_reducible first
    | assumption | apply send_keeps | apply effK2hRead_keeps | apply Keeps.ite
    | (extract_lets +onlyGivenNames xx; revert xx; intro x; clear_value x) | split

theorem windowWrite4_keeps (off : Nat) (val : Nat) {s0 s : State} (hk : Keeps s0 s) :
    Keeps s0 (State.windowWrite4 s off val) := by
  unfold State.windowWrite4
  repeat with_reducible first
    | assumption | apply refreshDev_keeps | apply writeFields_keeps | apply writeMbx_keeps | apply Keeps.ite

theorem windowWrite_keeps (fn : Nat) (off : Nat) (size : Nat) (val : Nat) {s0 s : State} (hk : Keeps s0 s) :
    Keeps s0 (State.windowWrite s fn off size val) := by
  unfold State.windowWrite
  repeat with_reducible first | assumption | apply windowWrite4_keeps | apply effH2kSend_keeps | apply Keeps.ite

theorem effSecureWindowAccess_keeps (fn : Nat) (off : Nat) (size : Nat) (val : Option Nat) (stream : Option Nat) {s0 s : State} (hk : Keeps s0 s) :
    Keeps s0 (effSecureWindowAccess s fn off size val stream) := by
  unfold effSecureWindowAccess
  repeat with_reducible first
    | assumption | apply badAccess_keeps | apply bump_keeps | apply security_keeps | apply send_keeps | apply windowRead_keeps
    | apply windowWrite_keeps | apply Keeps.ite | split

theorem effRegisterWrite_keeps (fn : Nat) (bar : Nat) (off : Nat) (size : Nat) (val : Option Nat) (stream : Option Nat) {s0 s : State} (hk : Keeps s0 s) :
    Keeps s0 (effRegisterWrite s fn bar off size val stream) := by
  unfold effRegisterWrite
  repeat with_reducible first
    | assumption | apply asMgmt_keeps | apply bar0_keeps | apply bar2_keeps | apply effSecureWindowAccess_keeps
    | apply Keeps.ite | split

theorem effCauseClear_keeps (fn : Nat) (off : Nat) (val : Nat) {s0 s : State} (hk : Keeps s0 s) :
    Keeps s0 (effCauseClear s fn off val) := by
  unfold effCauseClear
  repeat with_reducible first | assumption | apply windowWrite_keeps | apply write4_keeps | apply Keeps.ite

end Sys2Proof.Machine
end

