-- ==== Sys2Proof/WellFormed.lean ====
section
/-! DEFINITION. Which commands are well formed: their operands lie in the ranges the spec gives their names. The meanings do not
rest on it: an operand out of range names nothing, and the command then has no effect. -/

namespace Sys2Proof

/-- What the outside has done to memory is well formed: ranges whose reads fail are not empty. -/
def Env.wf (e : Env) : Bool := e.failSet.all (fun r => r.1 < r.2) && e.failClr.all (fun r => r.1 < r.2)

/-- A ring frame comes from one of sixteen positions, in one of 128 partitions, with 32-bit numbers (R388). -/
def RingHdr.wf (h : RingHdr) : Bool := h.src < 16 && h.part < 128 && h.seq < 2 ^ 32 && h.ack < 2 ^ 32

/-- Operands in range: 128 functions and the management port (128), 128 partitions, 1,024 rings of each kind, 32,768 queue pairs,
4 beat domains, 92 power domains, 18 sensors, 19 egress ports, 8 mailboxes of each set, and the other counts of R15. -/
def Instr.wf (i : Instr) : Bool :=
  match i with
  | .nop e _ => e.wf
  | .fence e _ => e.wf
  | .seqOpen e _ => e.wf
  | .seqAppend e _ => e.wf
  | .seqPublish e _ => e.wf
  | .seqFork e _ => e.wf
  | .seqRetire e _ => e.wf
  | .seqHeartbeat e _ => e.wf
  | .leafRead e _ => e.wf
  | .leafWrite e _ => e.wf
  | .leafPin e _ => e.wf
  | .leafUnpin e _ => e.wf
  | .leafEvict e _ => e.wf
  | .leafMigrate e _ => e.wf
  | .prefixLookup e _ => e.wf
  | .prefixStep e _ => e.wf
  | .prefixInsert e _ => e.wf
  | .prefixRemove e _ => e.wf
  | .attend e _ => e.wf
  | .select e _ => e.wf
  | .deliver e _ => e.wf
  | .beatMark e _ => e.wf
  | .scheduleArm e _ => e.wf
  | .scheduleDisarm e _ => e.wf
  | .tableLoadShape e _ => e.wf
  | .tableLoadRuleSet e _ => e.wf
  | .tableLoadScheduleImage e _ => e.wf
  | .tableLoadMediaProfile e _ => e.wf
  | .rulesSwitch e _ => e.wf
  | .codecTrain e _ => e.wf
  | .poolFlush e _ => e.wf
  | .poolLeaseAcquire e _ => e.wf
  | .poolLeaseRenew e _ => e.wf
  | .poolLeaseRelease e _ => e.wf
  | .poolStageOut e _ => e.wf
  | .poolStageIn e _ => e.wf
  | .mrRegister e _ => e.wf
  | .mrRevoke e _ => e.wf
  | .partitionCreate e _ => e.wf
  | .partitionTeardown e _ => e.wf
  | .partitionEnable e _ => e.wf
  | .sqTail e fn page _ _ val => e.wf && fn < 129 && page < 1024 && val < 2 ^ 64
  | .cqHead e fn page _ _ val => e.wf && fn < 129 && page < 1024 && val < 2 ^ 64
  | .descriptorFetch e q n => e.wf && q < 1024 && 1 ≤ n && n ≤ 8
  | .submissionReadFail e q _ _ => e.wf && q < 1024
  | .descriptorStart e _ => e.wf
  | .cqModDelayExpiry e c => e.wf && c < 1024
  | .sqEnable e fn q val => e.wf && fn < 129 && q < 1024 && val < 2 ^ 32
  | .sqDisable e fn q val => e.wf && fn < 129 && q < 1024 && val < 2 ^ 32
  | .sqInactive e q => e.wf && q < 1024
  | .cqEnable e fn c val => e.wf && fn < 129 && c < 1024 && val < 2 ^ 32
  | .cqDisable e fn c val => e.wf && fn < 129 && c < 1024 && val < 2 ^ 32
  | .functionLevelReset e fn => e.wf && fn < 128
  | .vfEnableChange e _ num => e.wf && num < 128
  | .registerWrite e fn bar _ _ _ _ => e.wf && fn < 129 && (bar == 0 || bar == 2 || bar == 4)
  | .leaseExpiry e _ => e.wf
  | .sequenceFree e _ => e.wf
  | .holdRelease e _ _ _ => e.wf
  | .chunkSeal e _ _ => e.wf
  | .searchContextExpiry e _ => e.wf
  | .canopyPromote e => e.wf
  | .canopyRespread e bank => e.wf && bank < 64
  | .canopyParityScan e _ _ _ => e.wf
  | .canopyBankFlush e bank => e.wf && bank < 64
  | .workUnitFinish e spire => e.wf && spire < 48
  | .spireSlowCheck e spire _ _ => e.wf && spire < 48
  | .spireSlowExit e spire => e.wf && spire < 48
  | .lanternCalibrationDue e array temp => e.wf && array < 64 && temp < 256
  | .lanternCalibrationDone e array => e.wf && array < 64
  | .lanternStale e array temp => e.wf && array < 64 && temp < 256
  | .beatPinEdge e domain _ => e.wf && domain < 4
  | .beatFrame e domain _ _ _ => e.wf && domain < 4
  | .beatLostTimeout e domain => e.wf && domain < 4
  | .beatSynthLayer e domain => e.wf && domain < 4
  | .scheduleSwitch e part => e.wf && part < 128
  | .eventIssue e p _ => e.wf && p < 128
  | .queryStampPoll e _ _ => e.wf
  | .commitPoint e _ _ => e.wf
  | .eventCompletion e _ => e.wf
  | .placementSweepVisit e _ => e.wf
  | .backgroundRelief e tier => e.wf && tier < 3
  | .promotion e _ => e.wf
  | .writeBack e _ => e.wf
  | .migrationSwitch e _ _ => e.wf
  | .reencodeSweep e _ => e.wf
  | .journalCommit e _ => e.wf
  | .flashProgramDone e _ => e.wf
  | .flashProgramFail e _ => e.wf
  | .flashEraseDone e _ _ => e.wf
  | .flashReadDone e _ outcome _ _ => e.wf && outcome < 5
  | .slowReadTimeout e _ => e.wf
  | .dieSlowExit e die => e.wf && die < 1024
  | .dieFailed e die => e.wf && die < 1024
  | .fold e => e.wf
  | .garbageCollection e => e.wf
  | .checkpoint e => e.wf
  | .dieTemperatureRead e die temp => e.wf && die < 1024 && temp < 256
  | .mount e _ => e.wf
  | .pwrFailFall e => e.wf
  | .pwrFailRise e => e.wf
  | .healthSnap e => e.wf
  | .poolBwRefill e _ => e.wf
  | .dcOffer e target _ => e.wf && target < 64
  | .dcReleaseRequest e ext => e.wf && ext < 256
  | .poolExtAdd e ext => e.wf && ext < 256
  | .poolExtRelease e ext => e.wf && ext < 256
  | .extentReleased e ext => e.wf && ext < 256
  | .poolLeaseExpiry e _ _ => e.wf
  | .poolLeaseAutoRenew e _ _ => e.wf
  | .poolTargetFail e target _ => e.wf && target < 64
  | .poolPortDown e => e.wf
  | .poolRestart e => e.wf
  | .qpLoad e qp _ => e.wf && qp < 32768
  | .qpError e qp => e.wf && qp < 32768
  | .qpReset e qp => e.wf && qp < 32768
  | .qpDrainDone e qp => e.wf && qp < 32768
  | .qwpRequest e qp psn msg _ ecn => e.wf && qp < 32768 && psn < 2 ^ 24 && ecn < 4 && msg.length ≤ 4176
  | .rdmaWriteInbound e qp psn _ _ _ _ _ _ _ ecn => e.wf && qp < 32768 && psn < 2 ^ 24 && ecn < 4
  | .rdmaReadInbound e qp psn _ _ _ _ ecn => e.wf && qp < 32768 && psn < 2 ^ 24 && ecn < 4
  | .duplicatePacket e qp psn kind _ _ _ => e.wf && qp < 32768 && psn < 2 ^ 24 && kind < 3
  | .pkeyDrop e qp pkey _ ecn => e.wf && qp < 32768 && pkey < 2 ^ 16 && ecn < 4
  | .meterRefill e p => e.wf && p < 128
  | .ackReceived e qp psn ecn => e.wf && qp < 32768 && psn < 2 ^ 24 && ecn < 4
  | .nakReceived e qp psn => e.wf && qp < 32768 && psn < 2 ^ 24
  | .ackTimeout e qp => e.wf && qp < 32768
  | .cnpReceived e qp => e.wf && qp < 32768
  | .rateIncrease e qp => e.wf && qp < 32768
  | .subportLinkChange e port sub _ => e.wf && port < 4 && sub < 4
  | .egressFrameStart e port => e.wf && port < 19
  | .shaperRefill e port => e.wf && port < 19
  | .queueDepthSample e port => e.wf && port < 19
  | .trafficStatClear e port _ _ => e.wf && port < 32
  | .partTrafficQWrite e p val => e.wf && p < 128 && val < 2 ^ 32
  | .ringEnable e => e.wf
  | .ringReceiveLock e _ _ => e.wf
  | .ringTrainTimeout e => e.wf
  | .joinRetry e => e.wf
  | .join e h _ _ _ _ _ => e.wf && h.wf
  | .members e h _ => e.wf && h.wf
  | .heartbeat e => e.wf
  | .heartbeatReceived e h => e.wf && h.wf
  | .masterTakeover e => e.wf
  | .request e h _ => e.wf && h.wf
  | .response e h _ => e.wf && h.wf
  | .data e h _ => e.wf && h.wf
  | .ack e h => e.wf && h.wf
  | .ringRetransmit e dst => e.wf && dst < 16
  | .ringAckTimer e src => e.wf && src < 16
  | .ringFrameForward e _ dst kind _ _ _ _ _ _ _ => e.wf && dst < 17 && kind < 16
  | .shard e h _ => e.wf && h.wf
  | .index e h _ => e.wf && h.wf
  | .shardTransferDone e => e.wf
  | .shardReassign e pos => e.wf && pos < 16
  | .time e h _ _ => e.wf && h.wf
  | .timeSend e => e.wf
  | .ringLeave e => e.wf
  | .ringCommit e => e.wf
  | .ringForget e pos => e.wf && pos < 16
  | .ringRebalance e => e.wf
  | .hbmScrub e source _ _ _ _ _ _ => e.wf && source < 8
  | .scrubStalled e => e.wf
  | .rasRetireGo e kind _ _ => e.wf && kind < 8
  | .writeRaw e => e.wf
  | .readRaw e => e.wf
  | .rasInjectArm e target _ bits => e.wf && target < 16 && bits < 4
  | .rasBistGo e target _ => e.wf && target < 8
  | .bistDone e target _ _ _ => e.wf && target < 8
  | .storeRecovery e _ _ => e.wf
  | .fatalFault e _ => e.wf
  | .keepRestart e => e.wf
  | .saplingFault e cluster core => e.wf && cluster < 8 && core < 32
  | .codecSliceReset e slice => e.wf && slice < 8
  | .extLoad e part => e.wf && part < 128
  | .extEnable e part => e.wf && part < 128
  | .extDisable e part => e.wf && part < 128
  | .sealNote e part => e.wf && part < 128
  | .timer e part => e.wf && part < 128
  | .keyRotate e part => e.wf && part < 128
  | .keyRetired e part => e.wf && part < 128
  | .lockInterfaceRequest e part stream => e.wf && part < 128 && stream < 64
  | .chmBind e part _ => e.wf && part < 128
  | .startInterfaceRequest e part => e.wf && part < 128
  | .stopInterfaceRequest e part cause => e.wf && part < 128 && cause < 4
  | .secureWindowAccess e fn _ _ _ _ => e.wf && fn < 128
  | .spdmGetMeasurements e fn ix => e.wf && fn < 129 && ix < 256
  | .claim e fn _ _ _ => e.wf && fn < 129
  | .setFleet e _ _ => e.wf
  | .setExtKey e _ _ => e.wf
  | .setCak e subPort _ _ => e.wf && subPort < 16
  | .debugUnlock e facility _ => e.wf && facility < 2
  | .decommission e _ => e.wf
  | .pldmFirmwareUpdate e _ _ => e.wf
  | .partitionDrainDone e part => e.wf && part < 128
  | .scrubComplete e part => e.wf && part < 128
  | .pdOn e domain _ => e.wf && domain < 92
  | .pdOff e domain => e.wf && domain < 92
  | .pdPoweredOn e domain => e.wf && domain < 92
  | .pdDrainDone e domain => e.wf && domain < 92
  | .hbmSrEnter e => e.wf
  | .hbmSrExit e => e.wf
  | .cupolaBudgetWrite e watts => e.wf && watts < 1024
  | .cupolaEpoch e _ _ _ _ => e.wf
  | .thermalSample e sensor _ => e.wf && sensor < 18
  | .thermalTrip e sensor => e.wf && sensor < 18
  | .belfryRearm e => e.wf
  | .causeClear e fn _ val => e.wf && fn < 128 && val < 2 ^ 32
  | .h2kSend e box _ half _ => e.wf && box < 8 && half < 3
  | .k2hRead e box _ half => e.wf && box < 8 && half < 3
  | .keepTakeMessage e box _ => e.wf && box < 8
  | .echo e box _ => e.wf && box < 8
  | .version e box _ => e.wf && box < 8
  | .measure e box _ => e.wf && box < 8
  | .powerOn e _ _ _ _ => e.wf
  | .keepFirmwareRunning e => e.wf
  | .perstNRise e _ _ ringId => e.wf && ringId < 4
  | .memoryFillDone e _ _ _ _ => e.wf
  | .glbSealSet e => e.wf
  | .mountDone e => e.wf
  | .conventionalReset e kind => e.wf && (kind == 1 || kind == 2)
  | .deviceReset e _ => e.wf
  | .powerLoss e => e.wf
  | .ringLinkChange e _ _ _ => e.wf
  | .poolLinkTrained e _ width _ => e.wf && width < 17
  | .poolEventRecord e device _ _ => e.wf && device < 64
  | .pfcPause e port prio _ => e.wf && port < 16 && prio < 8
  | .beatSourceChange e domain source => e.wf && domain < 4 && source < 4
  | .keyExchange e fn => e.wf && fn < 129
  | .ideKm e fn _ op => e.wf && fn < 129 && op < 3
  | .lookupPadExpiry e _ => e.wf
  | .poolReleaseMsExpiry e ext => e.wf && ext < 256
  | .ackCoalesceTimer e qp => e.wf && qp < 32768
  | .rnrNakReceived e qp psn => e.wf && qp < 32768 && psn < 2 ^ 24
  | .heartbeatTimeout e => e.wf

end Sys2Proof
end

