-- ==== Sys2Proof/Tests/Slice0.lean ====
section
/-! SUPPORT. Tests: the ill-formed terms that WellFormed refuses, the spec's worked examples, single steps, and for every case of
every statement that has hypotheses a concrete state and operands that meet all of them together. The small states the witnesses
are built from stand first. -/

namespace Sys2Proof.Tests
set_option Elab.async false
open Sys2Proof.Machine

/-- An environment in which nothing happens outside. -/
def e0 : Env := {}
/-- The device after bring-up: PHASE 4, the flash FORMATTED away, partition 0 ACTIVE. -/
def up : State :=
  (({ State.reset with boot := { aon := true, perst := true, keep := true, held := true, filled := true } } : State).put
    F.GLB_BOOT_STATUS_PHASE 4).put F.PART_STATE_STATE 1 0
/-- A number whose bytes hold fields, each at its byte offset. -/
def packed (fs : List (Nat × Nat)) : Nat := (fs.map (fun (x : Nat × Nat) => x.2 * 256 ^ x.1)).sum
/-- A started request of partition 0 on ring 0, with the fields of its entry. -/
def rq (fs : List (Nat × Nat)) : Req := { entry := leBytes 64 (packed fs), phase := .started }
/-- A state with a request 5. -/
def wr (s : State) (r : Req) : State := { s with reqs := [(5, r)] }
/-- The device with submission and completion ring 0 enabled, of 64 entries. -/
def ringsUp : State :=
  (((((up.put F.HP_SQ_CFG_LOG2_SIZE 6 0).put F.HP_SQ_CFG_ENABLE 1 0).put F.HP_SQ_STATUS_ACTIVE 1 0).put F.HP_CQ_CFG_LOG2_SIZE 6 0).put
    F.HP_CQ_CFG_ENABLE 1 0).put F.HP_CQ_STATUS_ACTIVE 1 0
/-- A shape record: one layer, one head of dimension 64, chunks of 16 tokens, all leaves BF16, a plan and a summary. -/
def shape1 : Bytes :=
  leBytes 128 (packed [(0, 1), (2, 1), (3, 1), (4, 64), (6, 16), (8, 0x1111), (10, 0x1111), (22, 1), (23, 1), (24, 80), (28, 32),
    (32, 112), (36, 16), (40, 7), (64, 0x11), (80, 1), (81, 1), (82, 2), (83, 8), (84, 16), (86, 1), (114, 0x3C00)])
theorem test_shape_record : shapeOk shape1 8 = true := by decide +kernel
/-- The device that serves: the flash writable, one cluster and one codec slice on, the shape in slot 0. -/
def store : State :=
  { (up.put F.FLASH_STATUS_STATE 2).put F.GLB_REC_CFG_GIB 1 with
    pds := [(48, { state := 2 }), (56, { state := 2 })]
    shapes := [(0, { cur := some false, a := { loaded := true, epoch := 1, body := shape1 }, b := { body := [] } })] }
/-- A sequence that ring 0 holds. -/
def seq1 : Sequ := { state := .openS, holderKind := 1, shapeEpoch := 1 }
/-- The device with sequence 1 and leaf 1. -/
def has (q : Sequ) (l : Leaf) : State := { store with seqs := [(1, q)], leaves := [(1, l)] }
/-- It with an open chunk of one token, in leaf 1. -/
def openSeq : Sequ := { seq1 with chunks := [{ tokenCount := 1, leaves := [1] }] }
/-- What an append has to do. -/
def sealPlan : Plan := { seq := 1, ready := [0], chunks := [{ tokenCount := 1, leaves := [1] }] }
/-- An append whose chunk 0 is ready to seal. -/
def sealing : Req :=
  { rq [(0, 0x11), (8, 1)] with wait := .append sealPlan }
/-- A sealed, published chunk. -/
def pubChunk : Chunk := { tokenCount := 16, isSealed := true, published := true, layerCount := 1, shapeEpoch := 1, leaves := [1] }
/-- A published sequence of that chunk. -/
def pubSeq : Sequ := { seq1 with state := .published, publishedChunks := 1, totalChunks := 1, chunks := [pubChunk] }
/-- Its copy. -/
def pubCopy : Copy :=
  { cid := 1, hdr := { keyFormat := 1, valueFormat := 1, raw := true, tokenCount := 16, shapeEpoch := 1, sequenceIndex := 1 }
    payload := [1, 2] }
/-- Its leaf, sealed in HBM. -/
def pubLeaf : Leaf := { state := .sealed, refCount := 1, ownerSequence := 1, cur := some pubCopy }
/-- The device with room in HBM and flash, and one leaf. -/
def flashStore (l : Leaf) : State :=
  (((((has pubSeq l).put F.PART_TIER_LIMIT_SLOTS 8 0 0).put F.PART_TIER_LIMIT_SLOTS 8 0 2).put F.FLASH_USABLE_LEAVES 8).put
    F.TIER_HBM_SLOTS_SLOTS 8)
/-- A durable leaf that lies in flash. -/
def flashLeaf : Leaf :=
  { pubLeaf with tier := .flash, persist := .durable, cur := none, durable := some { pubCopy with tier := .flash } }
/-- It with a copy of an earlier codec epoch. -/
def staleLeaf : Leaf := { pubLeaf with cur := some { pubCopy with hdr := { pubCopy.hdr with codecEpoch := 1 } } }
/-- Memory with a query block at 0x1000: no mask, scale 1, one row of zeros. -/
def queryMem : List Host.Cell := Memory.writeBytes [] 0x1000 (leBytes 64 (packed [(8, 0x3F800000)]))
/-- A published sequence of two chunks. -/
def pubSeq2 : Sequ :=
  { pubSeq with publishedChunks := 2, totalChunks := 2, chunks := [pubChunk, { pubChunk with number := 1 }] }
/-- A rule set of one state and no rules. -/
def rules1 : Bytes := leBytes 256 (packed [(0, 1), (4, 1), (8, 1), (12, 1), (20, 64), (24, 128), (28, 192)])
/-- A schedule of one ATTEND event on two layers, whose query lies at 0x2000. -/
def image1 : Bytes :=
  leBytes 192 (packed [(0, 1), (2, 2), (4, 1), (8, 1), (10, 1), (16, 64), (20, 128), (64, 0x1001), (70, 1), (74, 1), (80, 1),
    (160, 0x2000)])
theorem test_schedule_image : imageOk image1 = true := by decide +kernel
/-- The device with bytes at 0x1000. -/
def holding (s : State) (bs : Bytes) : State := { s with mem := Memory.writeBytes [] 0x1000 bs }
/-- Domain 0 in step 5 of two layers of 1000 ns, bound to partition 0. -/
def beating (s : State) : State :=
  { ((s.put F.BEAT_CFG_LAYERS 2 0).put F.PART_BEAT_CFG_BOUND 1 0).put F.PART_BEAT_CFG_DOMAIN 0 0 with
    beats := [(0, { state := bLocked, layer := 1, step := 5, period := 1000 })] }
/-- The schedule image of slot 0. -/
def img1 : SchedImg := { bytes := image1 }
/-- The device with that schedule armed. -/
def armed : State := { beating (has pubSeq pubLeaf) with scheds := [(0, { a := some img1, armed := some (false, 0) })] }
/-- An instance of its event with one slot. -/
def inst1 : Inst := { image := image1, step := 5, slots := [{ handle := 1, sh := shape1 }] }
/-- An instance without slots past its commit point. -/
def inst2 : Inst := { image := image1, step := 5, commit := true }
/-- A request with a job, due at the start of step 5. -/
def due : Req := { rq [(0, 0x40), (8, 1)] with wait := .job 7, deadline := some (mkPos 5 0 0), beatDom := some 0 }
/-- The query of that instance, stamped for its step and layer. -/
def stampMem : List Host.Cell :=
  Memory.writeBytes [] 0x2000 (leBytes 128 (packed [(2, 0x10), (4, 5), (72, 0x3F800000)]))
/-- What that rule set holds. -/
def ruleSet1 : RuleSet := { classMap := [0], trans := [0], accept := [[]] }
/-- The pool up, with extents and leases. -/
def pooled (s : State) (xs : Table Extent) (ls : List Lease) : State :=
  { s.put F.POOL_STATUS_STATE 2 with pool := { exts := xs, leases := ls, targets := [(1, 0, 8)] } }
/-- A window of 2 MiB shared with partition 0. -/
def win : Extent := { len := 1, kind := 2, state := 1 }
/-- A lease of partition 0 on its first line. -/
def lease1 : Lease := { len := 64, ms := 10, expiry := 10000000 }
/-- An extent for leaves that host software has set up. -/
def ext1 : Extent := { len := 8, kind := 1, target := 1 }
theorem lowestBase_empty (s : State) (h : s.pool.exts = []) : s.lowestBase 1 = some 0 := by
  simp [State.lowestBase, State.unitsTaken, h]
/-- Sixteen sealed leaves from which a code can be trained. -/
def trainStore : State :=
  { store with leaves := (List.range 16).map (fun (i : Nat) => (i, { pubLeaf with keyFormat := 1 })) }
theorem sample_mem (s : State) (p slot f n : Nat) (x : Nat × Leaf) (h : x ∈ s.sampleLeaves p slot f n) : x ∈ s.leaves := by
  have h := List.mem_of_mem_take h
  rw [List.mem_mergeSort] at h
  exact (List.mem_filter.1 h).1
theorem sample_length (s : State) (p slot f n : Nat) : (s.sampleLeaves p slot f n).length = min n (s.leaves.filter (fun x =>
    x.2.state == .sealed && x.2.partition == p && x.2.shapeIndex == slot && x.2.keyFormat == f && x.2.tier == .hbm &&
      !x.2.noStore)).length := by
  simp [State.sampleLeaves]
/-- A queue pair context of partition 0 on port 0: QWP v2, a path MTU of 1024 bytes, one receive slot. -/
def qpCtx : Bytes := leBytes 64 (packed [(1, 0x40), (2, 3), (16, 1)])
/-- A queue pair that runs. -/
def qp1 : Qp := { state := .rts, qwpV2 := true, rqDepth := 1, timeout := 1, rate := 100000 }
/-- The device with queue pair 32767 and a region of 2 MiB under key 0x300. -/
def net (q : Qp) : State :=
  { store with qps := [(32767, q)], mrs := [(3, { state := .admits, length := 2 ^ 21, access := 7 })] }
/-- A request that waits for its acknowledgement. -/
def out1 : OutOp := { psn := 5 }
/-- A media profile of one block a die, one SLC row of 3-bit cells. -/
def profile1 : Bytes :=
  leBytes 2304 (packed [(0, 1), (2, 3), (3, 4), (4, 16384), (6, 1872), (8, 1), (10, 3), (12, 1), (14, 1), (40, 7), (42, 1), (48, 100), (52, 100),
    (56, 100), (60, 100), (64, 100), (68, 100), (72, 100)])
/-- The flash formatted under it. -/
def flash1 : Flash :=
  { formatted := true, profiles := { cur := some false, a := { loaded := true, body := profile1 }, b := { body := [] } }
    geom := prGeom profile1, slcTotal := 1, natTotal := 1 }
/-- The device with that flash. -/
def nand (f : Flash) : State := { store with flash := f }
/-- A group with nothing left to program, and a journal band with room. -/
def readyGroup : Flash :=
  { flash1 with groups := [(3, {})], bands := [(0, { blocks := List.range 32, kind := 1 })] }
/-- A full SLC band that holds one unit of a leaf. -/
def slcBand : Band := { blocks := List.range 32, isOpen := false }
/-- A full native band. -/
def natBand : Band := { blocks := List.range 32, slc := false, isOpen := false }
theorem oldest_band (f : Nat × Band → Nat) (x : Nat × Band) :
    (([x] : List (Nat × Band)).mergeSort (fun a b => f a ≤ f b)).head? = some x := by
  rw [List.mergeSort_singleton]
  rfl
theorem test_media_profile : (nand flash1).profileOk profile1 = true := by decide +kernel
/-- The device sealed, with formatted media to mount. -/
def mountable : State :=
  { (State.reset.put F.GLB_BOOT_STATUS_PHASE 3).put F.FLASH_STATUS_DIES_PER_CH 1 with flash := flash1 }
/-- A member at position 1 of a ring, whose master may be 0. -/
def member (role : Nat) (r : Ring) : State :=
  { ((((store.put F.RING_STATUS_STATE 3).put F.RING_STATUS_POSITION 1).put F.RING_STATUS_ROLE role).put F.RING_MEMBER_ASSIGNED 1 1).put
    F.RING_MEMBER_PRESENT 1 1 with ring := r }
/-- A ring that has begun, whose master is position 0. -/
def ringOn : Ring := { gotMembers := true, master := some 0, timed := true, joinPin := true }
/-- A frame that was sent once. -/
def sent1 : Kept := { seq := 1 }
/-- The ring of a device whose frame to position 2 is not acknowledged. -/
def owing (tries : Nat) : Ring := { ringOn with peers := [(2, { kept := [{ sent1 with tries := tries }] })] }
/-- The device whose operator holds a session. -/
def operated : State := { store with sec := { root := some 1, sessions := [128] } }
/-- VF 3 of three, with a session and stream 5. -/
def tenant3 (tdi : Nat) : State :=
  { (store.put F.PART_SEC_CFG_CHM_ALLOW 1 3).put F.PART_CHM_STATUS_TDI_STATE tdi 3 with
    vfEnable := true, numVfs := 3, sec := { sessions := [3], streams := [(5, 3)] } }
/-- An extension image of one instruction. -/
def extImage : Bytes := leBytes 256 (packed [(0, 1), (4, 4), (28, 1000), (32, 68), (36, 104)])
/-- A configuration block. -/
def block1 : Bytes := leBytes 128 (packed [(0, 1), (4, 100), (28, 1), (30, 1), (33, 1)])
/-- Domain 47 in a state. -/
def domain (d st : Nat) : State := { store with pds := [(d, { state := st })] }
/-- A message of a service in a mailbox. -/
def mailed (q : Nat) : State := { store with mbxNs := [(7, { taken := [q] })] }
/-- Partition 127 in a state, configured or not. -/
def part127 (st cfg : Nat) : State := (store.put F.PART_STATE_STATE st 127).put F.PART_STATE_CONFIGURED cfg 127
/-- A leaf of an earlier key epoch. -/
def oldKeyLeaf : Leaf := { pubLeaf with keyEpoch := 9, cur := some { pubCopy with hdr := { pubCopy.hdr with keyEpoch := 9 } } }
/-- The slots of a rule set with one rule. -/
def ruleSlots1 : Slots RuleSet := { cur := some false, a := { loaded := true, body := { rules := [{}] } }, b := { body := {} } }
/-- The device after bring-up and before the seal, with a layout of HBM: 26 MiB areas one after another. -/
def areaBases : List (Fld × Fld × Nat) :=
  [(F.TIER_HBM_BASE_LO_ADDR, F.TIER_HBM_BASE_HI_ADDR, 0), (F.LANTERN_SUM_BASE_LO_ADDR, F.LANTERN_SUM_BASE_HI_ADDR, 0x5A9A000000),
   (F.TIER_DIR_BASE_LO_ADDR, F.TIER_DIR_BASE_HI_ADDR, 0x6C9A000000), (F.GLB_REC_BASE_LO_ADDR, F.GLB_REC_BASE_HI_ADDR, 0x6D9A000000),
   (F.FLASH_MAP_BASE_LO_ADDR, F.FLASH_MAP_BASE_HI_ADDR, 0x6E9A000000), (F.ROOT_BASE_LO_ADDR, F.ROOT_BASE_HI_ADDR, 0x6F1A000000),
   (F.TIER_PLACE_BASE_LO_ADDR, F.TIER_PLACE_BASE_HI_ADDR, 0x6F9A000000),
   (F.CANOPY_SHADOW_BASE_LO_ADDR, F.CANOPY_SHADOW_BASE_HI_ADDR, 0x6FDA000000),
   (F.PATTERN_BASE_LO_ADDR, F.PATTERN_BASE_HI_ADDR, 0x6FE6000000), (F.CODEC_TABLE_BASE_LO_ADDR, F.CODEC_TABLE_BASE_HI_ADDR, 0x6FEE000000),
   (F.SCHED_BASE_LO_ADDR, F.SCHED_BASE_HI_ADDR, 0x6FF2000000), (F.FLASH_META_BASE_LO_ADDR, F.FLASH_META_BASE_HI_ADDR, 0x6FF4000000),
   (F.NET_TABLE_BASE_LO_ADDR, F.NET_TABLE_BASE_HI_ADDR, 0x6FFC000000)]
/-- The device in PHASE 2 with that layout written. -/
def sealable : State :=
  let s := (((up.put F.GLB_BOOT_STATUS_PHASE 2).put F.TIER_DIR_CFG_LOG2_LEAVES 27).put F.TIER_HBM_SLOTS_SLOTS 0x16A680).put
    F.LANTERN_SUM_CFG_STRIDE 9
  areaBases.foldl (fun (s : State) b => { (s.put b.1 (b.2.2 % 2 ^ 32)).put b.2.1 (b.2.2 / 2 ^ 32) with
    boot := { s.boot with bases := b.1.base :: b.2.1.base :: s.boot.bases } }) s
theorem glbId_mem : (⟨0x0, 0x0, 1, 0x0, 1, 0x57400, [(15, 0, .ro), (31, 16, .ro)]⟩ : RegDesc) ∈ regsAll := by
  unfold regsAll
  iterate 19 apply List.mem_append_left
  exact List.mem_cons_self
/-- The device with an extension key and an image at 0x1000 for partition 127. -/
def extStore : State := { holding store extImage with exts := [(127, { addr := 0x1000, len := 256 })], sec := { extKey := some 7 } }
/-- Array 63 calibrating, 2 us after its last calibration. -/
def calStore : State := { store with arrays := [(63, { state := 2, lastCal := some 0 })], time := 2000 }
/-- The parts of a snapshot of one chunk of one layer whose leaf is stored raw: its first fields, its metadata, its leaf. -/
def snapHead : Bytes := leBytes 24 (packed [(0, 1), (4, 1), (8, 1), (12, 4096), (16, 8256)])
def snapArea : Bytes := padTo 4048 (padTo 208 (shape1.take 44) ++ leBytes 36 (packed [(20, 16), (24, 1), (32, 1)]))
def snapHdr : Bytes := leBytes 56 (packed [(2, 0x11), (3, 1), (4, 4096), (8, 16)])
def snapData : Bytes := List.replicate 4096 0
/-- The snapshot with a scope and its two tags. -/
def snapImage (scope tag tag2 : Nat) : Bytes :=
  snapHead ++ (leBytes 8 scope ++ (leBytes 8 0 ++ (leBytes 8 tag ++ (snapArea ++ (leBytes 8 tag2 ++ (snapHdr ++ snapData))))))
/-- The device with room to stage it in, and its scope and key there. -/
def stageBase : State := wr (pooled (has seq1 {}) [(255, win)] [{ lease1 with len := 2 ^ 21 }]) (rq [(0, 0x72), (8, 1), (24, 1)])
def snapScope : Nat := stageBase.scopeIdOf seq1
def snapKey : Nat := stageBase.stageKey seq1 0
def snapTag : BitVec 64 := tag64 snapKey (snapHead ++ (leBytes 8 snapScope ++ (leBytes 8 0 ++ snapArea)))
def leafTag0 : BitVec 64 := tag64 snapKey (leBytes 16 (xtsTweak 0 0 0 0) ++ snapHdr ++ snapData)
def snapBytes : Bytes := snapImage snapScope snapTag.toNat leafTag0.toNat
/-- The device with the snapshot in its window. -/
def staging : State := { stageBase with mem := Memory.writeBytes [] (memKey poolSpace 0) snapBytes }
theorem snap_length : snapBytes.length = 8256 := by decide +kernel
theorem snap_read {n : Nat} (h : n ≤ 8256) : Memory.readBytes (staging.enter e0).mem (memKey poolSpace 0) n = snapBytes.take n :=
  Memory.readBytes_writeBytes (m := []) (by decide) (by rw [snap_length]; exact h)
theorem snap_total : 8256 = max 256 (parseSnap (Memory.readBytes (staging.enter e0).mem (memKey poolSpace 0) 256)).total := by
  rw [snap_read (by decide)]; decide +kernel
theorem snap_bus : (staging.enter e0).busRead (memKey poolSpace 0) 8256 = .ok snapBytes := by
  unfold State.busRead
  rw [if_neg (by decide +kernel), if_neg (by decide +kernel), snap_read (Nat.le_refl _), List.take_of_length_le (Nat.le_of_eq snap_length)]
def snapState : State := ((staging.enter e0).poolRead 0 0 0 8256).2
theorem snap_pool : (staging.enter e0).poolRead 0 0 0 8256 = (.ok snapBytes, snapState) := by
  refine Prod.ext ?_ rfl
  unfold State.poolRead
  rw [snap_bus]
  have hb : (staging.enter e0).free.2.pool.readBuf = [] := rfl
  dsimp only
  rw [hb]
  have hm : snapBytes.mapIdx (fun _ b => b) = snapBytes := List.ext_getElem (by simp) (by simp)
  split
  · rfl
  · exact congrArg BusRead.ok hm
theorem snap_fields : (parseSnap snapBytes).fieldsOk (snapState.seqShape seq1) = true := by decide +kernel
theorem snapHead_length : snapHead.length = 24 := by decide +kernel
theorem snapArea_length : snapArea.length = 4048 := by decide +kernel
theorem snap_scope : fieldAt (parseSnap snapBytes).bytes 24 8 = snapState.scopeIdOf seq1 := by
  have h : ((snapBytes.drop 24).take 8) = leBytes 8 snapScope := by
    simp [snapBytes, snapImage, snapHead_length, length_leBytes]
  have e : snapState.scopeIdOf seq1 = snapScope := rfl
  change leNat ((snapBytes.drop 24).take 8) = _
  rw [h, leNat_leBytes, e]
  exact Nat.mod_eq_of_lt (Nat.mod_lt _ (by decide))
theorem snap_tag : (parseSnap snapBytes).tagOk (snapState.stageKey seq1 0) = true := by
  have h : ((snapBytes.drop 40).take 8) = leBytes 8 snapTag.toNat := by
    simp [snapBytes, snapImage, List.drop_append, snapHead_length, length_leBytes, List.drop_eq_nil_of_le]
  have a : snapBytes.take 40 ++ (snapBytes.drop 48).take 4048 = snapHead ++ (leBytes 8 snapScope ++ (leBytes 8 0 ++ snapArea)) := by
    simp [snapBytes, snapImage, List.drop_append, List.take_append, snapHead_length, snapArea_length, length_leBytes, List.drop_eq_nil_of_le, List.take_of_length_le]
  have e : snapState.stageKey seq1 0 = snapKey := rfl
  have c : (parseSnap snapBytes).area - 48 = 4048 := by decide +kernel
  unfold Snap.tagOk
  rw [c, e]
  change (leNat ((snapBytes.drop 40).take 8) == (tag64 snapKey (snapBytes.take 40 ++ (snapBytes.drop 48).take 4048)).toNat) = true
  rw [a, h, leNat_leBytes]
  exact beq_iff_eq.2 (Nat.mod_eq_of_lt snapTag.isLt)
theorem leafOk_of (p : Snap) (key o : Nat) (t : BitVec 64) (hd st : Bytes) (ho : p.off 0 = o) (hl : hd.length = 56)
    (hb : p.bytes.drop o = leBytes 8 t.toNat ++ (hd ++ st)) (hn : (parseHdr (p.hdr 0)).compressedLength = st.length)
    (ht : t = tag64 key (leBytes 16 (xtsTweak 0 0 0 0) ++ hd ++ st)) : p.leafOk key 0 = true := by
  have h : p.hdr 0 = leBytes 8 t.toNat ++ hd := by
    unfold Snap.hdr
    rw [ho, hb]
    simp [List.take_append, length_leBytes, hl, List.take_of_length_le]
  have s : p.stored 0 = st := by
    unfold Snap.stored
    rw [hn, ho, ← List.drop_drop, hb]
    simp [List.drop_append, length_leBytes, hl, List.drop_eq_nil_of_le]
  unfold Snap.leafOk
  rw [h, s]
  have g : (leBytes 8 t.toNat ++ hd).drop 8 = hd := by simp [length_leBytes]
  have a : (parseHdr (leBytes 8 t.toNat ++ hd)).tag = t.toNat := by
    change leNat ((leBytes 8 t.toNat ++ hd).take 8) = _
    simp [length_leBytes, leNat_leBytes]
    exact t.isLt
  rw [a, g, ← ht]
  exact beq_self_eq_true _
theorem snap_leaf : (parseSnap snapBytes).leafOk (snapState.stageKey seq1 0) 0 = true := by
  have e : snapState.stageKey seq1 0 = snapKey := rfl
  rw [e]
  refine leafOk_of _ _ 4096 leafTag0 snapHdr snapData (by decide +kernel) (by decide +kernel) ?_ (by decide +kernel) rfl
  change snapBytes.drop 4096 = _
  simp [snapBytes, snapImage, List.drop_append, snapHead_length, snapArea_length, length_leBytes, List.drop_eq_nil_of_le]
theorem snap_payload : ((List.range 1).mapM ((parseSnap snapBytes).payload (snapState.stageKey seq1 0) (snapState.seqShape seq1))).isSome = true := by
  decide +kernel

/-! ### Well-formed commands -/

/-- Operands out of range, one at a time, and an empty range whose reads fail: refused. -/
theorem test_ill_formed_1 : ([
  .nop { failSet := [(4, 4)] } 0, .fence { failSet := [(4, 4)] } 0, .seqOpen { failSet := [(4, 4)] } 0,
  .seqAppend { failSet := [(4, 4)] } 0, .seqPublish { failSet := [(4, 4)] } 0, .seqFork { failSet := [(4, 4)] } 0,
  .seqRetire { failSet := [(4, 4)] } 0, .seqHeartbeat { failSet := [(4, 4)] } 0, .leafRead { failSet := [(4, 4)] } 0,
  .leafWrite { failSet := [(4, 4)] } 0, .leafPin { failSet := [(4, 4)] } 0, .leafUnpin { failSet := [(4, 4)] } 0,
  .leafEvict { failSet := [(4, 4)] } 0, .leafMigrate { failSet := [(4, 4)] } 0, .prefixLookup { failSet := [(4, 4)] } 0,
  .prefixStep { failSet := [(4, 4)] } 0, .prefixInsert { failSet := [(4, 4)] } 0, .prefixRemove { failSet := [(4, 4)] } 0,
  .attend { failSet := [(4, 4)] } 0, .select { failSet := [(4, 4)] } 0, .deliver { failSet := [(4, 4)] } 0,
  .beatMark { failSet := [(4, 4)] } 0, .scheduleArm { failSet := [(4, 4)] } 0, .scheduleDisarm { failSet := [(4, 4)] } 0,
  .tableLoadShape { failSet := [(4, 4)] } 0, .tableLoadRuleSet { failSet := [(4, 4)] } 0,
  .tableLoadScheduleImage { failSet := [(4, 4)] } 0, .tableLoadMediaProfile { failSet := [(4, 4)] } 0,
  .rulesSwitch { failSet := [(4, 4)] } 0, .codecTrain { failSet := [(4, 4)] } 0, .poolFlush { failSet := [(4, 4)] } 0,
  .poolLeaseAcquire { failSet := [(4, 4)] } 0, .poolLeaseRenew { failSet := [(4, 4)] } 0, .poolLeaseRelease { failSet := [(4, 4)] } 0,
  .poolStageOut { failSet := [(4, 4)] } 0, .poolStageIn { failSet := [(4, 4)] } 0, .mrRegister { failSet := [(4, 4)] } 0,
  .mrRevoke { failSet := [(4, 4)] } 0, .partitionCreate { failSet := [(4, 4)] } 0, .partitionTeardown { failSet := [(4, 4)] } 0,
  .partitionEnable { failSet := [(4, 4)] } 0, .sqTail e0 129 0 0 0 0, .sqTail e0 0 1024 0 0 0, .sqTail e0 0 0 0 0 (2 ^ 64),
  .sqTail { failSet := [(4, 4)] } 0 0 0 0 0, .cqHead e0 129 0 0 0 0, .cqHead e0 0 1024 0 0 0, .cqHead e0 0 0 0 0 (2 ^ 64),
  .cqHead { failSet := [(4, 4)] } 0 0 0 0 0, .descriptorFetch e0 1024 1, .descriptorFetch e0 0 0, .descriptorFetch e0 0 9,
  .descriptorFetch { failSet := [(4, 4)] } 0 1, .submissionReadFail e0 1024 0 false,
  .submissionReadFail { failSet := [(4, 4)] } 0 0 false, .descriptorStart { failSet := [(4, 4)] } 0, .cqModDelayExpiry e0 1024,
  .cqModDelayExpiry { failSet := [(4, 4)] } 0, .sqEnable e0 129 0 0, .sqEnable e0 0 1024 0 ] : List Instr).all (fun i => i.wf == false) = true := by decide +kernel
/-- Operands out of range, one at a time, and an empty range whose reads fail: refused. -/
theorem test_ill_formed_2 : ([
  .sqEnable e0 0 0 (2 ^ 32), .sqEnable { failSet := [(4, 4)] } 0 0 0, .sqDisable e0 129 0 0, .sqDisable e0 0 1024 0,
  .sqDisable e0 0 0 (2 ^ 32), .sqDisable { failSet := [(4, 4)] } 0 0 0, .sqInactive e0 1024, .sqInactive { failSet := [(4, 4)] } 0,
  .cqEnable e0 129 0 0, .cqEnable e0 0 1024 0, .cqEnable e0 0 0 (2 ^ 32), .cqEnable { failSet := [(4, 4)] } 0 0 0, .cqDisable e0 129 0 0,
  .cqDisable e0 0 1024 0, .cqDisable e0 0 0 (2 ^ 32), .cqDisable { failSet := [(4, 4)] } 0 0 0, .functionLevelReset e0 128,
  .functionLevelReset { failSet := [(4, 4)] } 0, .vfEnableChange e0 false 128, .vfEnableChange { failSet := [(4, 4)] } false 0,
  .registerWrite e0 129 0 0 0 none none, .registerWrite e0 0 3 0 0 none none, .registerWrite { failSet := [(4, 4)] } 0 0 0 0 none none,
  .leaseExpiry { failSet := [(4, 4)] } 0, .sequenceFree { failSet := [(4, 4)] } 0, .holdRelease { failSet := [(4, 4)] } 0 0 0,
  .chunkSeal { failSet := [(4, 4)] } 0 0, .searchContextExpiry { failSet := [(4, 4)] } 0, .canopyPromote { failSet := [(4, 4)] },
  .canopyRespread e0 64, .canopyRespread { failSet := [(4, 4)] } 0, .canopyParityScan { failSet := [(4, 4)] } [] [] none,
  .canopyBankFlush e0 64, .canopyBankFlush { failSet := [(4, 4)] } 0, .workUnitFinish e0 48, .workUnitFinish { failSet := [(4, 4)] } 0,
  .spireSlowCheck e0 48 0 0, .spireSlowCheck { failSet := [(4, 4)] } 0 0 0, .spireSlowExit e0 48,
  .spireSlowExit { failSet := [(4, 4)] } 0, .lanternCalibrationDue e0 64 0, .lanternCalibrationDue e0 0 256,
  .lanternCalibrationDue { failSet := [(4, 4)] } 0 0, .lanternCalibrationDone e0 64, .lanternCalibrationDone { failSet := [(4, 4)] } 0,
  .lanternStale e0 64 0, .lanternStale e0 0 256, .lanternStale { failSet := [(4, 4)] } 0 0, .beatPinEdge e0 4 false,
  .beatPinEdge { failSet := [(4, 4)] } 0 false, .beatFrame e0 4 0 0 false, .beatFrame { failSet := [(4, 4)] } 0 0 0 false,
  .beatLostTimeout e0 4, .beatLostTimeout { failSet := [(4, 4)] } 0, .beatSynthLayer e0 4, .beatSynthLayer { failSet := [(4, 4)] } 0,
  .scheduleSwitch e0 128, .scheduleSwitch { failSet := [(4, 4)] } 0, .eventIssue e0 128 0, .eventIssue { failSet := [(4, 4)] } 0 0 ] : List Instr).all (fun i => i.wf == false) = true := by decide +kernel
/-- Operands out of range, one at a time, and an empty range whose reads fail: refused. -/
theorem test_ill_formed_3 : ([
  .queryStampPoll { failSet := [(4, 4)] } 0 0, .commitPoint { failSet := [(4, 4)] } false 0, .eventCompletion { failSet := [(4, 4)] } 0,
  .placementSweepVisit { failSet := [(4, 4)] } 0, .backgroundRelief e0 3, .backgroundRelief { failSet := [(4, 4)] } 0,
  .promotion { failSet := [(4, 4)] } 0, .writeBack { failSet := [(4, 4)] } 0, .migrationSwitch { failSet := [(4, 4)] } 0 false,
  .reencodeSweep { failSet := [(4, 4)] } 0, .journalCommit { failSet := [(4, 4)] } 0, .flashProgramDone { failSet := [(4, 4)] } 0,
  .flashProgramFail { failSet := [(4, 4)] } 0, .flashEraseDone { failSet := [(4, 4)] } 0 false, .flashReadDone e0 0 5 0 0,
  .flashReadDone { failSet := [(4, 4)] } 0 0 0 0, .slowReadTimeout { failSet := [(4, 4)] } (0, 0), .dieSlowExit e0 1024,
  .dieSlowExit { failSet := [(4, 4)] } 0, .dieFailed e0 1024, .dieFailed { failSet := [(4, 4)] } 0, .fold { failSet := [(4, 4)] },
  .garbageCollection { failSet := [(4, 4)] }, .checkpoint { failSet := [(4, 4)] }, .dieTemperatureRead e0 1024 0,
  .dieTemperatureRead e0 0 256, .dieTemperatureRead { failSet := [(4, 4)] } 0 0, .mount { failSet := [(4, 4)] } false,
  .pwrFailFall { failSet := [(4, 4)] }, .pwrFailRise { failSet := [(4, 4)] }, .healthSnap { failSet := [(4, 4)] },
  .poolBwRefill { failSet := [(4, 4)] } [], .dcOffer e0 64 0, .dcOffer { failSet := [(4, 4)] } 0 0, .dcReleaseRequest e0 256,
  .dcReleaseRequest { failSet := [(4, 4)] } 0, .poolExtAdd e0 256, .poolExtAdd { failSet := [(4, 4)] } 0, .poolExtRelease e0 256,
  .poolExtRelease { failSet := [(4, 4)] } 0, .extentReleased e0 256, .extentReleased { failSet := [(4, 4)] } 0,
  .poolLeaseExpiry { failSet := [(4, 4)] } 0 0, .poolLeaseAutoRenew { failSet := [(4, 4)] } 0 false, .poolTargetFail e0 64 none,
  .poolTargetFail { failSet := [(4, 4)] } 0 none, .poolPortDown { failSet := [(4, 4)] }, .poolRestart { failSet := [(4, 4)] },
  .qpLoad e0 32768 0, .qpLoad { failSet := [(4, 4)] } 0 0, .qpError e0 32768, .qpError { failSet := [(4, 4)] } 0, .qpReset e0 32768,
  .qpReset { failSet := [(4, 4)] } 0, .qpDrainDone e0 32768, .qpDrainDone { failSet := [(4, 4)] } 0, .qwpRequest e0 32768 0 [] [] 0,
  .qwpRequest e0 0 (2 ^ 24) [] [] 0, .qwpRequest e0 0 0 [] [] 4, .qwpRequest e0 0 0 (List.replicate 4177 0) [] 0 ] : List Instr).all (fun i => i.wf == false) = true := by decide +kernel
/-- Operands out of range, one at a time, and an empty range whose reads fail: refused. -/
theorem test_ill_formed_4 : ([
  .qwpRequest { failSet := [(4, 4)] } 0 0 [] [] 0, .rdmaWriteInbound e0 32768 0 0 0 0 [] false false 0 0,
  .rdmaWriteInbound e0 0 (2 ^ 24) 0 0 0 [] false false 0 0, .rdmaWriteInbound e0 0 0 0 0 0 [] false false 0 4,
  .rdmaWriteInbound { failSet := [(4, 4)] } 0 0 0 0 0 [] false false 0 0, .rdmaReadInbound e0 32768 0 0 0 0 0 0,
  .rdmaReadInbound e0 0 (2 ^ 24) 0 0 0 0 0, .rdmaReadInbound e0 0 0 0 0 0 0 4, .rdmaReadInbound { failSet := [(4, 4)] } 0 0 0 0 0 0 0,
  .duplicatePacket e0 32768 0 0 0 0 0, .duplicatePacket e0 0 (2 ^ 24) 0 0 0 0, .duplicatePacket e0 0 0 3 0 0 0,
  .duplicatePacket { failSet := [(4, 4)] } 0 0 0 0 0 0, .pkeyDrop e0 32768 0 0 0, .pkeyDrop e0 0 (2 ^ 16) 0 0, .pkeyDrop e0 0 0 0 4,
  .pkeyDrop { failSet := [(4, 4)] } 0 0 0 0, .meterRefill e0 128, .meterRefill { failSet := [(4, 4)] } 0, .ackReceived e0 32768 0 0,
  .ackReceived e0 0 (2 ^ 24) 0, .ackReceived e0 0 0 4, .ackReceived { failSet := [(4, 4)] } 0 0 0, .nakReceived e0 32768 0,
  .nakReceived e0 0 (2 ^ 24), .nakReceived { failSet := [(4, 4)] } 0 0, .ackTimeout e0 32768, .ackTimeout { failSet := [(4, 4)] } 0,
  .cnpReceived e0 32768, .cnpReceived { failSet := [(4, 4)] } 0, .rateIncrease e0 32768, .rateIncrease { failSet := [(4, 4)] } 0,
  .subportLinkChange e0 4 0 false, .subportLinkChange e0 0 4 false, .subportLinkChange { failSet := [(4, 4)] } 0 0 false,
  .egressFrameStart e0 19, .egressFrameStart { failSet := [(4, 4)] } 0, .shaperRefill e0 19, .shaperRefill { failSet := [(4, 4)] } 0,
  .queueDepthSample e0 19, .queueDepthSample { failSet := [(4, 4)] } 0, .trafficStatClear e0 32 0 false,
  .trafficStatClear { failSet := [(4, 4)] } 0 0 false, .partTrafficQWrite e0 128 0, .partTrafficQWrite e0 0 (2 ^ 32),
  .partTrafficQWrite { failSet := [(4, 4)] } 0 0, .ringEnable { failSet := [(4, 4)] },
  .ringReceiveLock { failSet := [(4, 4)] } false false, .ringTrainTimeout { failSet := [(4, 4)] }, .joinRetry { failSet := [(4, 4)] },
  .join e0 { src := 16 } 0 0 false false 0, .join e0 { part := 128 } 0 0 false false 0, .join e0 { seq := 4294967296 } 0 0 false false 0,
  .join e0 { ack := 4294967296 } 0 0 false false 0, .join { failSet := [(4, 4)] } {} 0 0 false false 0, .members e0 { src := 16 } [],
  .members e0 { part := 128 } [], .members e0 { seq := 4294967296 } [], .members e0 { ack := 4294967296 } [],
  .members { failSet := [(4, 4)] } {} [] ] : List Instr).all (fun i => i.wf == false) = true := by decide +kernel
/-- Operands out of range, one at a time, and an empty range whose reads fail: refused. -/
theorem test_ill_formed_5 : ([
  .heartbeat { failSet := [(4, 4)] }, .heartbeatReceived e0 { src := 16 }, .heartbeatReceived e0 { part := 128 },
  .heartbeatReceived e0 { seq := 4294967296 }, .heartbeatReceived e0 { ack := 4294967296 }, .heartbeatReceived { failSet := [(4, 4)] } {},
  .masterTakeover { failSet := [(4, 4)] }, .request e0 { src := 16 } [], .request e0 { part := 128 } [],
  .request e0 { seq := 4294967296 } [], .request e0 { ack := 4294967296 } [], .request { failSet := [(4, 4)] } {} [],
  .response e0 { src := 16 } [], .response e0 { part := 128 } [], .response e0 { seq := 4294967296 } [],
  .response e0 { ack := 4294967296 } [], .response { failSet := [(4, 4)] } {} [], .data e0 { src := 16 } [], .data e0 { part := 128 } [],
  .data e0 { seq := 4294967296 } [], .data e0 { ack := 4294967296 } [], .data { failSet := [(4, 4)] } {} [], .ack e0 { src := 16 },
  .ack e0 { part := 128 }, .ack e0 { seq := 4294967296 }, .ack e0 { ack := 4294967296 }, .ack { failSet := [(4, 4)] } {},
  .ringRetransmit e0 16, .ringRetransmit { failSet := [(4, 4)] } 0, .ringAckTimer e0 16, .ringAckTimer { failSet := [(4, 4)] } 0,
  .ringFrameForward e0 false 17 0 0 0 0 0 0 0 [], .ringFrameForward e0 false 0 16 0 0 0 0 0 0 [],
  .ringFrameForward { failSet := [(4, 4)] } false 0 0 0 0 0 0 0 0 [], .shard e0 { src := 16 } [], .shard e0 { part := 128 } [],
  .shard e0 { seq := 4294967296 } [], .shard e0 { ack := 4294967296 } [], .shard { failSet := [(4, 4)] } {} [],
  .index e0 { src := 16 } [], .index e0 { part := 128 } [], .index e0 { seq := 4294967296 } [], .index e0 { ack := 4294967296 } [],
  .index { failSet := [(4, 4)] } {} [], .shardTransferDone { failSet := [(4, 4)] }, .shardReassign e0 16,
  .shardReassign { failSet := [(4, 4)] } 0, .time e0 { src := 16 } none none, .time e0 { part := 128 } none none,
  .time e0 { seq := 4294967296 } none none, .time e0 { ack := 4294967296 } none none, .time { failSet := [(4, 4)] } {} none none,
  .timeSend { failSet := [(4, 4)] }, .ringLeave { failSet := [(4, 4)] }, .ringCommit { failSet := [(4, 4)] }, .ringForget e0 16,
  .ringForget { failSet := [(4, 4)] } 0, .ringRebalance { failSet := [(4, 4)] }, .hbmScrub e0 8 0 [] 0 .none none none,
  .hbmScrub { failSet := [(4, 4)] } 0 0 [] 0 .none none none ] : List Instr).all (fun i => i.wf == false) = true := by decide +kernel
/-- Operands out of range, one at a time, and an empty range whose reads fail: refused. -/
theorem test_ill_formed_6 : ([
  .scrubStalled { failSet := [(4, 4)] }, .rasRetireGo e0 8 0 0, .rasRetireGo { failSet := [(4, 4)] } 0 0 0,
  .writeRaw { failSet := [(4, 4)] }, .readRaw { failSet := [(4, 4)] }, .rasInjectArm e0 16 0 0, .rasInjectArm e0 0 0 4,
  .rasInjectArm { failSet := [(4, 4)] } 0 0 0, .rasBistGo e0 8 0, .rasBistGo { failSet := [(4, 4)] } 0 0, .bistDone e0 8 0 0 [],
  .bistDone { failSet := [(4, 4)] } 0 0 0 [], .storeRecovery { failSet := [(4, 4)] } [] [],
  .fatalFault { failSet := [(4, 4)] } (false, none), .keepRestart { failSet := [(4, 4)] }, .saplingFault e0 8 0, .saplingFault e0 0 32,
  .saplingFault { failSet := [(4, 4)] } 0 0, .codecSliceReset e0 8, .codecSliceReset { failSet := [(4, 4)] } 0, .extLoad e0 128,
  .extLoad { failSet := [(4, 4)] } 0, .extEnable e0 128, .extEnable { failSet := [(4, 4)] } 0, .extDisable e0 128,
  .extDisable { failSet := [(4, 4)] } 0, .sealNote e0 128, .sealNote { failSet := [(4, 4)] } 0, .timer e0 128,
  .timer { failSet := [(4, 4)] } 0, .keyRotate e0 128, .keyRotate { failSet := [(4, 4)] } 0, .keyRetired e0 128,
  .keyRetired { failSet := [(4, 4)] } 0, .lockInterfaceRequest e0 128 0, .lockInterfaceRequest e0 0 64,
  .lockInterfaceRequest { failSet := [(4, 4)] } 0 0, .chmBind e0 128 0, .chmBind { failSet := [(4, 4)] } 0 0,
  .startInterfaceRequest e0 128, .startInterfaceRequest { failSet := [(4, 4)] } 0, .stopInterfaceRequest e0 128 0,
  .stopInterfaceRequest e0 0 4, .stopInterfaceRequest { failSet := [(4, 4)] } 0 0, .secureWindowAccess e0 128 0 0 none none,
  .secureWindowAccess { failSet := [(4, 4)] } 0 0 0 none none, .spdmGetMeasurements e0 129 0, .spdmGetMeasurements e0 0 256,
  .spdmGetMeasurements { failSet := [(4, 4)] } 0 0, .claim e0 129 0 0 false, .claim { failSet := [(4, 4)] } 0 0 0 false,
  .setFleet { failSet := [(4, 4)] } 0 false, .setExtKey { failSet := [(4, 4)] } 0 false, .setCak e0 16 0 false,
  .setCak { failSet := [(4, 4)] } 0 0 false, .debugUnlock e0 2 false, .debugUnlock { failSet := [(4, 4)] } 0 false,
  .decommission { failSet := [(4, 4)] } false, .pldmFirmwareUpdate { failSet := [(4, 4)] } 0 false, .partitionDrainDone e0 128 ] : List Instr).all (fun i => i.wf == false) = true := by decide +kernel
/-- Operands out of range, one at a time, and an empty range whose reads fail: refused. -/
theorem test_ill_formed_7 : ([
  .partitionDrainDone { failSet := [(4, 4)] } 0, .scrubComplete e0 128, .scrubComplete { failSet := [(4, 4)] } 0, .pdOn e0 92 false,
  .pdOn { failSet := [(4, 4)] } 0 false, .pdOff e0 92, .pdOff { failSet := [(4, 4)] } 0, .pdPoweredOn e0 92,
  .pdPoweredOn { failSet := [(4, 4)] } 0, .pdDrainDone e0 92, .pdDrainDone { failSet := [(4, 4)] } 0, .hbmSrEnter { failSet := [(4, 4)] },
  .hbmSrExit { failSet := [(4, 4)] }, .cupolaBudgetWrite e0 1024, .cupolaBudgetWrite { failSet := [(4, 4)] } 0,
  .cupolaEpoch { failSet := [(4, 4)] } [] [] [] [], .thermalSample e0 18 0, .thermalSample { failSet := [(4, 4)] } 0 0,
  .thermalTrip e0 18, .thermalTrip { failSet := [(4, 4)] } 0, .belfryRearm { failSet := [(4, 4)] }, .causeClear e0 128 0 0,
  .causeClear e0 0 0 (2 ^ 32), .causeClear { failSet := [(4, 4)] } 0 0 0, .h2kSend e0 8 false 0 0, .h2kSend e0 0 false 3 0,
  .h2kSend { failSet := [(4, 4)] } 0 false 0 0, .k2hRead e0 8 false 0, .k2hRead e0 0 false 3, .k2hRead { failSet := [(4, 4)] } 0 false 0,
  .keepTakeMessage e0 8 false, .keepTakeMessage { failSet := [(4, 4)] } 0 false, .echo e0 8 false, .echo { failSet := [(4, 4)] } 0 false,
  .version e0 8 false, .version { failSet := [(4, 4)] } 0 false, .measure e0 8 false, .measure { failSet := [(4, 4)] } 0 false,
  .powerOn { failSet := [(4, 4)] } false [] {} false, .keepFirmwareRunning { failSet := [(4, 4)] }, .perstNRise e0 false false 4,
  .perstNRise { failSet := [(4, 4)] } false false 0, .memoryFillDone { failSet := [(4, 4)] } none false [] [],
  .glbSealSet { failSet := [(4, 4)] }, .mountDone { failSet := [(4, 4)] }, .conventionalReset e0 3,
  .conventionalReset { failSet := [(4, 4)] } 1, .deviceReset { failSet := [(4, 4)] } false, .powerLoss { failSet := [(4, 4)] },
  .ringLinkChange { failSet := [(4, 4)] } false false false, .poolLinkTrained e0 (false, false) 17 [],
  .poolLinkTrained { failSet := [(4, 4)] } (false, false) 0 [], .poolEventRecord e0 64 0 false,
  .poolEventRecord { failSet := [(4, 4)] } 0 0 false, .pfcPause e0 16 0 false, .pfcPause e0 0 8 false,
  .pfcPause { failSet := [(4, 4)] } 0 0 false, .beatSourceChange e0 4 0, .beatSourceChange e0 0 4,
  .beatSourceChange { failSet := [(4, 4)] } 0 0 ] : List Instr).all (fun i => i.wf == false) = true := by decide +kernel
/-- Operands out of range, one at a time, and an empty range whose reads fail: refused. -/
theorem test_ill_formed_8 : ([
  .keyExchange e0 129, .keyExchange { failSet := [(4, 4)] } 0, .ideKm e0 129 none 0, .ideKm e0 0 none 3,
  .ideKm { failSet := [(4, 4)] } 0 none 0, .lookupPadExpiry { failSet := [(4, 4)] } 0, .poolReleaseMsExpiry e0 256,
  .poolReleaseMsExpiry { failSet := [(4, 4)] } 0, .ackCoalesceTimer e0 32768, .ackCoalesceTimer { failSet := [(4, 4)] } 0,
  .rnrNakReceived e0 32768 0, .rnrNakReceived e0 0 (2 ^ 24), .rnrNakReceived { failSet := [(4, 4)] } 0 0,
  .heartbeatTimeout { failSet := [(4, 4)] }, .nop { failClr := [(4, 3)] } 0 ] : List Instr).all (fun i => i.wf == false) = true := by decide +kernel
/-- Operands at the end of their ranges: accepted. -/
theorem test_well_formed_1 : ([
  .nop e0 0, .fence e0 0, .seqOpen e0 0, .seqAppend e0 0, .seqPublish e0 0, .seqFork e0 0, .seqRetire e0 0, .seqHeartbeat e0 0,
  .leafRead e0 0, .leafWrite e0 0, .leafPin e0 0, .leafUnpin e0 0, .leafEvict e0 0, .leafMigrate e0 0, .prefixLookup e0 0,
  .prefixStep e0 0, .prefixInsert e0 0, .prefixRemove e0 0, .attend e0 0, .select e0 0, .deliver e0 0, .beatMark e0 0, .scheduleArm e0 0,
  .scheduleDisarm e0 0, .tableLoadShape e0 0, .tableLoadRuleSet e0 0, .tableLoadScheduleImage e0 0, .tableLoadMediaProfile e0 0,
  .rulesSwitch e0 0, .codecTrain e0 0, .poolFlush e0 0, .poolLeaseAcquire e0 0, .poolLeaseRenew e0 0, .poolLeaseRelease e0 0,
  .poolStageOut e0 0, .poolStageIn e0 0, .mrRegister e0 0, .mrRevoke e0 0, .partitionCreate e0 0, .partitionTeardown e0 0,
  .partitionEnable e0 0, .sqTail e0 (129 - 1) (1024 - 1) 0 0 (2 ^ 64 - 1), .cqHead e0 (129 - 1) (1024 - 1) 0 0 (2 ^ 64 - 1),
  .descriptorFetch e0 (1024 - 1) 8, .submissionReadFail e0 (1024 - 1) 0 false, .descriptorStart e0 0, .cqModDelayExpiry e0 (1024 - 1),
  .sqEnable e0 (129 - 1) (1024 - 1) (2 ^ 32 - 1), .sqDisable e0 (129 - 1) (1024 - 1) (2 ^ 32 - 1), .sqInactive e0 (1024 - 1),
  .cqEnable e0 (129 - 1) (1024 - 1) (2 ^ 32 - 1), .cqDisable e0 (129 - 1) (1024 - 1) (2 ^ 32 - 1), .functionLevelReset e0 (128 - 1),
  .vfEnableChange e0 false (128 - 1), .registerWrite e0 (129 - 1) 0 0 0 none none, .leaseExpiry e0 0, .sequenceFree e0 0,
  .holdRelease e0 0 0 0, .chunkSeal e0 0 0, .searchContextExpiry e0 0 ] : List Instr).all (fun i => i.wf == true) = true := by decide +kernel
/-- Operands at the end of their ranges: accepted. -/
theorem test_well_formed_2 : ([
  .canopyPromote e0, .canopyRespread e0 (64 - 1), .canopyParityScan e0 [] [] none, .canopyBankFlush e0 (64 - 1),
  .workUnitFinish e0 (48 - 1), .spireSlowCheck e0 (48 - 1) 0 0, .spireSlowExit e0 (48 - 1), .lanternCalibrationDue e0 (64 - 1) (256 - 1),
  .lanternCalibrationDone e0 (64 - 1), .lanternStale e0 (64 - 1) (256 - 1), .beatPinEdge e0 (4 - 1) false,
  .beatFrame e0 (4 - 1) 0 0 false, .beatLostTimeout e0 (4 - 1), .beatSynthLayer e0 (4 - 1), .scheduleSwitch e0 (128 - 1),
  .eventIssue e0 (128 - 1) 0, .queryStampPoll e0 0 0, .commitPoint e0 false 0, .eventCompletion e0 0, .placementSweepVisit e0 0,
  .backgroundRelief e0 (3 - 1), .promotion e0 0, .writeBack e0 0, .migrationSwitch e0 0 false, .reencodeSweep e0 0, .journalCommit e0 0,
  .flashProgramDone e0 0, .flashProgramFail e0 0, .flashEraseDone e0 0 false, .flashReadDone e0 0 (5 - 1) 0 0, .slowReadTimeout e0 (0, 0),
  .dieSlowExit e0 (1024 - 1), .dieFailed e0 (1024 - 1), .fold e0, .garbageCollection e0, .checkpoint e0,
  .dieTemperatureRead e0 (1024 - 1) (256 - 1), .mount e0 false, .pwrFailFall e0, .pwrFailRise e0, .healthSnap e0, .poolBwRefill e0 [],
  .dcOffer e0 (64 - 1) 0, .dcReleaseRequest e0 (256 - 1), .poolExtAdd e0 (256 - 1), .poolExtRelease e0 (256 - 1),
  .extentReleased e0 (256 - 1), .poolLeaseExpiry e0 0 0, .poolLeaseAutoRenew e0 0 false, .poolTargetFail e0 (64 - 1) none,
  .poolPortDown e0, .poolRestart e0, .qpLoad e0 (32768 - 1) 0, .qpError e0 (32768 - 1), .qpReset e0 (32768 - 1),
  .qpDrainDone e0 (32768 - 1), .qwpRequest e0 (32768 - 1) (2 ^ 24 - 1) [] [] (4 - 1),
  .rdmaWriteInbound e0 (32768 - 1) (2 ^ 24 - 1) 0 0 0 [] false false 0 (4 - 1),
  .rdmaReadInbound e0 (32768 - 1) (2 ^ 24 - 1) 0 0 0 0 (4 - 1), .duplicatePacket e0 (32768 - 1) (2 ^ 24 - 1) (3 - 1) 0 0 0 ] : List Instr).all (fun i => i.wf == true) = true := by decide +kernel
/-- Operands at the end of their ranges: accepted. -/
theorem test_well_formed_3 : ([
  .pkeyDrop e0 (32768 - 1) (2 ^ 16 - 1) 0 (4 - 1), .meterRefill e0 (128 - 1), .ackReceived e0 (32768 - 1) (2 ^ 24 - 1) (4 - 1),
  .nakReceived e0 (32768 - 1) (2 ^ 24 - 1), .ackTimeout e0 (32768 - 1), .cnpReceived e0 (32768 - 1), .rateIncrease e0 (32768 - 1),
  .subportLinkChange e0 (4 - 1) (4 - 1) false, .egressFrameStart e0 (19 - 1), .shaperRefill e0 (19 - 1), .queueDepthSample e0 (19 - 1),
  .trafficStatClear e0 (32 - 1) 0 false, .partTrafficQWrite e0 (128 - 1) (2 ^ 32 - 1), .ringEnable e0, .ringReceiveLock e0 false false,
  .ringTrainTimeout e0, .joinRetry e0, .join e0 { src := 15, part := 127, seq := 4294967295, ack := 4294967295 } 0 0 false false 0,
  .members e0 { src := 15, part := 127, seq := 4294967295, ack := 4294967295 } [], .heartbeat e0,
  .heartbeatReceived e0 { src := 15, part := 127, seq := 4294967295, ack := 4294967295 }, .masterTakeover e0,
  .request e0 { src := 15, part := 127, seq := 4294967295, ack := 4294967295 } [],
  .response e0 { src := 15, part := 127, seq := 4294967295, ack := 4294967295 } [],
  .data e0 { src := 15, part := 127, seq := 4294967295, ack := 4294967295 } [],
  .ack e0 { src := 15, part := 127, seq := 4294967295, ack := 4294967295 }, .ringRetransmit e0 (16 - 1), .ringAckTimer e0 (16 - 1),
  .ringFrameForward e0 false (17 - 1) (16 - 1) 0 0 0 0 0 0 [],
  .shard e0 { src := 15, part := 127, seq := 4294967295, ack := 4294967295 } [],
  .index e0 { src := 15, part := 127, seq := 4294967295, ack := 4294967295 } [], .shardTransferDone e0, .shardReassign e0 (16 - 1),
  .time e0 { src := 15, part := 127, seq := 4294967295, ack := 4294967295 } none none, .timeSend e0, .ringLeave e0, .ringCommit e0,
  .ringForget e0 (16 - 1), .ringRebalance e0, .hbmScrub e0 (8 - 1) 0 [] 0 .none none none, .scrubStalled e0, .rasRetireGo e0 (8 - 1) 0 0,
  .writeRaw e0, .readRaw e0, .rasInjectArm e0 (16 - 1) 0 (4 - 1), .rasBistGo e0 (8 - 1) 0, .bistDone e0 (8 - 1) 0 0 [],
  .storeRecovery e0 [] [], .fatalFault e0 (false, none), .keepRestart e0, .saplingFault e0 (8 - 1) (32 - 1), .codecSliceReset e0 (8 - 1),
  .extLoad e0 (128 - 1), .extEnable e0 (128 - 1), .extDisable e0 (128 - 1), .sealNote e0 (128 - 1), .timer e0 (128 - 1),
  .keyRotate e0 (128 - 1), .keyRetired e0 (128 - 1), .lockInterfaceRequest e0 (128 - 1) (64 - 1) ] : List Instr).all (fun i => i.wf == true) = true := by decide +kernel
/-- Operands at the end of their ranges: accepted. -/
theorem test_well_formed_4 : ([
  .chmBind e0 (128 - 1) 0, .startInterfaceRequest e0 (128 - 1), .stopInterfaceRequest e0 (128 - 1) (4 - 1),
  .secureWindowAccess e0 (128 - 1) 0 0 none none, .spdmGetMeasurements e0 (129 - 1) (256 - 1), .claim e0 (129 - 1) 0 0 false,
  .setFleet e0 0 false, .setExtKey e0 0 false, .setCak e0 (16 - 1) 0 false, .debugUnlock e0 (2 - 1) false, .decommission e0 false,
  .pldmFirmwareUpdate e0 0 false, .partitionDrainDone e0 (128 - 1), .scrubComplete e0 (128 - 1), .pdOn e0 (92 - 1) false,
  .pdOff e0 (92 - 1), .pdPoweredOn e0 (92 - 1), .pdDrainDone e0 (92 - 1), .hbmSrEnter e0, .hbmSrExit e0, .cupolaBudgetWrite e0 (1024 - 1),
  .cupolaEpoch e0 [] [] [] [], .thermalSample e0 (18 - 1) 0, .thermalTrip e0 (18 - 1), .belfryRearm e0,
  .causeClear e0 (128 - 1) 0 (2 ^ 32 - 1), .h2kSend e0 (8 - 1) false (3 - 1) 0, .k2hRead e0 (8 - 1) false (3 - 1),
  .keepTakeMessage e0 (8 - 1) false, .echo e0 (8 - 1) false, .version e0 (8 - 1) false, .measure e0 (8 - 1) false,
  .powerOn e0 false [] {} false, .keepFirmwareRunning e0, .perstNRise e0 false false (4 - 1), .memoryFillDone e0 none false [] [],
  .glbSealSet e0, .mountDone e0, .conventionalReset e0 1, .deviceReset e0 false, .powerLoss e0, .ringLinkChange e0 false false false,
  .poolLinkTrained e0 (false, false) (17 - 1) [], .poolEventRecord e0 (64 - 1) 0 false, .pfcPause e0 (16 - 1) (8 - 1) false,
  .beatSourceChange e0 (4 - 1) (4 - 1), .keyExchange e0 (129 - 1), .ideKm e0 (129 - 1) none (3 - 1), .lookupPadExpiry e0 0,
  .poolReleaseMsExpiry e0 (256 - 1), .ackCoalesceTimer e0 (32768 - 1), .rnrNakReceived e0 (32768 - 1) (2 ^ 24 - 1), .heartbeatTimeout e0 ] : List Instr).all (fun i => i.wf == true) = true := by decide +kernel

/-! ### Worked examples of the spec -/

/-- The handle of 02_leaves_sequences: partition 5, position 2, generation 0x17, leaf 0x0123_4567. -/
theorem test_handle : mkHandle 5 2 0x17 0x01234567 = 0x0A42E00001234567 ∧ hPart 0x0A42E00001234567 = 5 ∧ hPos 0x0A42E00001234567 = 2 ∧
    hGen 0x0A42E00001234567 = 0x17 ∧ hLeaf 0x0A42E00001234567 = 0x01234567 := by decide +kernel

/-- The chain hash of 04_prefix_search over the tokens 1 to 16. -/
def hash0 : Nat := chainHash (0x0001020304050607 + 0x08090A0B0C0D0E0F * 2 ^ 64) 1 0 ((List.range 16).map (· + 1))
theorem test_chain_hash : hash0 = 0x9C3498092C39CA3E + 0x82EA01A9EB1D33AC * 2 ^ 64 := by decide +kernel
/-- Its buckets among the default 2^24. -/
theorem test_root_buckets : State.reset.bucket1 hash0 = 0x0BA806 ∧ State.reset.bucket2 hash0 = 0x9EB1D3 := by decide +kernel

/-- The regions of a QF4 leaf of shape E2 in 06_number_formats: 4 heads of dimension 160, 192 tokens. -/
theorem test_leaf_layout : regionSize 9 122880 = 61440 ∧ sectionSize 9 122880 = 7744 ∧ sideSize 9 9 4 192 160 = 6208 := by decide +kernel

/-- The group of the QF4 example of 06_number_formats under the tensor scale 2^-9. -/
def qf4Group : List Word := [0x3F99999A, 0xBF59999A, 0x3ECCCCCD, 0x3D4CCCCD, 0xBE9EB852, 0x3F1EB852, 0x3DCCCCCD, 0xBF828F5C, 0x3E8A3D71, 0x00000000, 0x3F3D70A4, 0xBE3851EC, 0x3F000000, 0xBF19999A, 0x3F6E147B, 0x3E19999A]
theorem test_qf4_group : (encGroup 9 0x3B000000 qf4Group).scale = 0x6D ∧
    (encGroup 9 0x3B000000 qf4Group).codes = [7, 0xE, 4, 0, 0xB, 5, 1, 0xF, 3, 0, 6, 0xA, 4, 0xD, 6, 1] := by decide +kernel

/-- Summary blocks of shapes E1 and E2 in 09_lantern. -/
theorem test_summary_block : summaryBlock (leBytes 64 (packed [(2, 8), (4, 128)])) = 576 ∧
    summaryBlock (leBytes 64 (packed [(2, 4), (4, 160)])) = 576 := by decide +kernel

/-- The position of 10_beat_delivery, as a position and as a deadline field that names it from step 0x104. -/
theorem test_position : mkPos 261 12 256 = 0x0000010500C40000 ∧
    ({ store with beats := [(0, { step := 0x104 })] }).resolvePos 0 0x00C40105 = 0x0000010500C40000 := by decide +kernel

/-- The relief order A, B, C, D of 12_tiers, with the keys it gives. -/
def relief7 : State :=
  { ((store.put F.PART_TIER_CFG_SHADOW 1 7).put F.PART_TIER_AGE_AGE_S 600 7).put F.PART_TIER_AGE_SHORT_S 30 7 with
    time := 10000 * 268435456
    leaves := [(1, { pubLeaf with partition := 7, shortTtl := true, place := { lastTick := 9000, hints := 4 } }),
      (2, { pubLeaf with partition := 7, place := { lastTick := 7000 } }), (3, { pubLeaf with partition := 7, place := { lastTick := 8500 } }),
      (4, { pubLeaf with partition := 7, persist := .durable, dirtyMask := 1, durable := some {}, place := { lastTick := 7500, hints := 16 } })] }
theorem test_relief_order : (relief7.candidates .hbm (· == 7)).map (fun c => (c.leaf, c.key)) =
    [(1, 888), (2, 764), (3, -736), (4, -6444)] := by decide +kernel

/-- The P_Key of 15_network with BASE 1 and partition 5. -/
theorem test_pkey : (store.put F.NET_PKEY_CFG_BASE 1).pkeyOf 5 = 0x8085 := by decide +kernel

/-- A refill of the meter of 16_traffic: 256 bytes at 8,000 Mb/s, in units of 1/256 byte. -/
theorem test_meter_refill : (({ mode := 1, cir := 8000, cbs := 64, ebs := 128 } : Meter).refill).tc = 256 * 256 := by decide +kernel

/-- The exponential of 08_spire_attention: e^-1 = 0.367879 lies between the two codes that expf may return. -/
theorem test_expf_range : expRange 0xBF800000 = (0x3EBC5AB1, 0x3EBC5AB2) := by decide +kernel

/-- The layout of tier 0 in 23_register_map passes the seal. -/
theorem test_seal_layout : sealable.sealCheck = none := by decide +kernel

/-! ### One step each -/

/-- The next state of a command. -/
def run (i : Instr) (s : State) : State := match exec i s with | .next t => t | _ => s

/-- Mailbox 2 of the example of 22_belfry_mailboxes, with the message sent and the masks clear. -/
def asking : State :=
  { ((store.put F.MBX_NS_STATUS_H2K_FULL 1 2).put F.BELFRY_MASK_MASK 0).put F.BELFRY_GRP_MASK_MASK 0 1 with
    mbxNs := [(2, { h2k := 0x5A01 })] }
theorem test_keep_takes : let t := run (.keepTakeMessage e0 2 false) asking
    t.groupCause 1 = 0x400 ∧ t.summary = 2 ∧ t.intN = false ∧ t.on F.MBX_NS_STATUS_H2K_FULL 2 = false := by decide +kernel
theorem test_cause_clears : let s := run (.keepTakeMessage e0 2 false) asking
    let t := run (.causeClear e0 0 0x100110 0x400) s
    t.groupCause 1 = 0 ∧ t.intN = true := by decide +kernel
theorem test_version_answers : (run (.version e0 2 false) { asking with mbxNs := [(2, { taken := [0x5A01] })] }).groupCause 1 = 4 := by
  decide +kernel
/-- ECHO answers its own argument: bits 63:24 of the word (R492). -/
theorem test_echo : ((run (.echo e0 7 false) (mailed 0x12345678005A00)).box false 7).k2h = 0x12345678005A00 := by decide +kernel

theorem test_doorbell : (run (.sqTail e0 0 0 0 4 63) ringsUp).get F.HP_SQ_TAIL_TAIL 0 = 63 := by decide +kernel
theorem test_doorbell_past_the_ring : let t := run (.sqTail e0 0 0 0 4 64) ringsUp
    t.get F.HP_SQ_TAIL_TAIL 0 = 0 ∧ t.on F.HP_SQ_STATUS_DB_ERR 0 = true := by decide +kernel
/-- A NOP writes its entry of 32 bytes with the phase of its lap and status OK (R84, R89). -/
theorem test_nop : let t := run (.nop e0 5) (wr ringsUp (rq [(2, 0xBEEF)]))
    t.reqs = [] ∧ t.get F.HP_CQ_STATUS_TAIL 0 = 1 := by decide +kernel
theorem test_open : let t := run (.seqOpen e0 5) (wr ringsUp (rq [(0, 0x10)]))
    t.seqs = [] ∧ t.get F.HP_CQ_STATUS_TAIL 0 = 1 := by decide +kernel
theorem test_bad_handle_is_kept_out : (run (.seqRetire e0 4) (has seq1 {})).seqs = (has seq1 {}).seqs := by decide +kernel
theorem test_beat_advances : let t := run (.beatPinEdge { t := 2000 } 0 false) ((beating store).put F.BEAT_CFG_SOURCE 1 0)
    (t.beat 0).step = 6 ∧ (t.beat 0).layer = 0 := by decide +kernel
theorem test_step_wraps_the_layer : let s := { (beating store).put F.BEAT_CFG_SOURCE 1 0 with
        beats := [(0, { state := bLocked, layer := 0, step := 5, period := 1000 })] }
    let t := run (.beatPinEdge { t := 1000 } 0 false) s
    (t.beat 0).step = 5 ∧ (t.beat 0).layer = 1 := by decide +kernel
theorem test_qp_load : let t := run (.qpLoad e0 32767 0x1000) (holding (store.put F.PART_NET_CFG_MAX_QP 1 0) qpCtx)
    (t.qp 32767).state = .rts ∧ (t.qp 32767).rqDepth = 1 := by decide +kernel
theorem test_cnp_cuts_the_rate : let t := run (.cnpReceived e0 32767) (net { qp1 with rate := 100000 })
    (t.qp 32767).rate = 50000 := by decide +kernel
theorem test_trip : let t := run (.thermalTrip e0 0) store
    t.cupola.tripped = true := by decide +kernel
theorem test_domain_on : ((run (.pdOn e0 47 false) store).pd 47).state = 1 := by decide +kernel
theorem test_domain_absent : (run (.pdOn e0 92 false) store).pds = store.pds := by decide +kernel
theorem test_fork_beyond_publication : let t := run (.seqFork e0 5) (wr (has pubSeq pubLeaf) (rq [(0, 0x13), (8, 1), (16, 2)]))
    t.seqs = (has pubSeq pubLeaf).seqs := by decide +kernel
theorem test_power_on_twice : (run (.powerOn e0 false (List.replicate 32 1) (List.replicate 32 (List.replicate 32 (some 7))) true) up).boot = up.boot := by decide +kernel
theorem test_idle : step store = .next store := rfl
/-- The device of the example of 20_power: every domain on, every Spire with work, one Lantern array held. -/
def busyCupola : State :=
  { store with
    pds := (List.range 92).map (fun (d : Nat) => (d, { state := 2 }))
    spires := (List.range 48).map (fun (n : Nat) => (n, { running := some { job := 7, idx := n } }))
    arrays := [(0, { state := 1, holder := some (5, 0) })], reqs := [(5, rq [])] }
/-- Its epoch: refresh on two stacks, all codec slices, one Lantern group, Canopy at its cap. -/
def epoch1 : Instr := .cupolaEpoch e0 [0, 1] ((List.range 8).map (fun (i : Nat) => (i, 0))) [] (List.replicate 10 0)
theorem test_first_epoch : let t := run epoch1 busyCupola
    (t.cupola.grants.filter (fun g => g.cls == 3)).length = 21 ∧ t.cupola.coreMa = 156000 := by decide +kernel
theorem test_second_epoch : let t := run epoch1 (run epoch1 busyCupola)
    (t.cupola.grants.filter (fun g => g.cls == 3)).length = 45 ∧ t.cupola.coreMa = 259200 ∧ t.get F.CUPOLA_POWER_NOW_W = 647 := by
  decide +kernel
/-- A response frame of a QWP request at the head of its queue, its pair with two requests admitted: it frees its slot as it starts. -/
def responding : State :=
  { store.put F.NET_PORT_STATUS_LINK_UP 1 0 with
    qps := [(32767, { state := .rts, admitted := 2 })], qwpAdmitted := 2
    txqs := [(0, { frames := [{ len := 64, qp := some 32767, slot := true }], credit := 64 })] }
theorem test_response_frees_its_slot : let t := run (.egressFrameStart e0 0) responding
    (t.qp 32767).admitted = 1 ∧ t.qwpAdmitted = 1 ∧ (t.txq 0 0).frames = [] := by decide +kernel
/-- The product of the hash subkey and the first block of test case 2 of the GCM specification. -/
theorem test_ghash : ghashMul 0x0388DACE60B6A392F328C2B971B2FE78#128 0x66E94BD4EF8A2C3B884CFA59CA342B2E#128
    = 0x5E2EC746917062882C85B0685353DEB7#128 := by decide +kernel

/-! ### Witnesses: the hypotheses of each case of a statement are met together -/
theorem witness_StepRunsTheFrontCommand : ∃ (s : State), s.pending = [] := ⟨State.reset, by decide +kernel⟩
theorem witness_EveryStepKeepsTheInvariant : ∃ (s : State) (t : State), s.Inv ∧ step s = .next t := ⟨State.reset, State.reset, ⟨by decide +kernel, by
    decide +kernel, by decide +kernel⟩, rfl⟩
theorem witness_DoorbellsMoveOrAreRecorded : (∃ (fn : Nat) (page : Nat) (size : Nat) (val : Nat) (q : Nat) (s : State), s.ringOf fn page = some q ∧
    (size = 4 ∨ size = 8) ∧ s.doorbellCause fn q true (s.on F.HP_SQ_CFG_ENABLE q) = none ∧ val < 2 ^ s.get F.HP_SQ_CFG_LOG2_SIZE q ∧ val < 65536) ∧ (∃
    (fn : Nat) (page : Nat) (size : Nat) (val : Nat) (c : Nat) (s : State), s.ringOf fn page = some c ∧ (size = 4 ∨ size = 8) ∧ s.doorbellCause fn c
    true (s.on F.HP_CQ_CFG_ENABLE c) = none ∧ val < 2 ^ s.get F.HP_CQ_CFG_LOG2_SIZE c ∧ val < 65536 ∧ (val + 2 ^ s.get F.HP_CQ_CFG_LOG2_SIZE c - s.get
    F.HP_CQ_HEAD_HEAD c) % 2 ^ s.get F.HP_CQ_CFG_LOG2_SIZE c ≤ s.cqUnreturned c) ∧ (∃ (fn : Nat) (page : Nat) (size : Nat) (val : Nat) (q : Nat)
    (cause : Nat) (s : State), s.ringOf fn page = some q ∧ (size = 4 ∨ size = 8) ∧ (s.doorbellCause fn q true (s.on F.HP_SQ_CFG_ENABLE q) = some cause
    ∨ s.doorbellCause fn q true (s.on F.HP_SQ_CFG_ENABLE q) = none ∧ cause = 4 ∧ 2 ^ s.get F.HP_SQ_CFG_LOG2_SIZE q ≤ val)) ∧ (∃ (fn : Nat) (page :
    Nat) (size : Nat) (c : Nat) (cause : Nat) (s : State), s.ringOf fn page = some c ∧ (size = 4 ∨ size = 8) ∧ s.doorbellCause fn c true (s.on
    F.HP_CQ_CFG_ENABLE c) = some cause) := ⟨⟨0, 0, 4, 63, 0, ringsUp, by decide +kernel, by decide +kernel, by decide +kernel, by decide +kernel,
    by decide +kernel⟩, ⟨0, 0, 8, 63, 0, (ringsUp.put F.HP_CQ_STATUS_TAIL 63 0), by decide +kernel, by decide +kernel, by decide +kernel,
    by decide +kernel, by decide +kernel, by decide +kernel⟩, ⟨0, 0, 4, 64, 0, 4, ringsUp, by decide +kernel, by decide +kernel, by decide +kernel⟩,
    ⟨0, 7, 4, 7, 0, up, by decide +kernel, by decide +kernel, by decide +kernel⟩⟩
theorem witness_RingsAreEnabledAndDisabled_1 : (∃ (fn : Nat) (q : Nat) (val : Nat) (s : State), q < 1024 ∧ s.ready = true ∧ s.partActive (q / 8) =
    true ∧ (fn = 0 ∧ s.vfEnabled (q / 8) = false ∨ fn ≠ 0 ∧ s.vfEnabled fn = true ∧ q / 8 = fn) ∧ s.on F.HP_SQ_STATUS_ACTIVE q = false ∧ (s.sqFields q
    val).sqEnableOk q = true) ∧ (∃ (fn : Nat) (q : Nat) (val : Nat) (s : State), q < 1024 ∧ s.ready = true ∧ s.partActive (q / 8) = true ∧ (fn = 0 ∧
    s.vfEnabled (q / 8) = false ∨ fn ≠ 0 ∧ s.vfEnabled fn = true ∧ q / 8 = fn) ∧ s.on F.HP_SQ_STATUS_ACTIVE q = false ∧ (s.sqFields q val).sqEnableOk
    q = false) ∧ (∃ (fn : Nat) (q : Nat) (s : State), q < 1024 ∧ s.ready = true ∧ s.partActive (q / 8) = true ∧ (fn = 0 ∧ s.vfEnabled (q / 8) = false
    ∨ fn ≠ 0 ∧ s.vfEnabled fn = true ∧ q / 8 = fn) ∧ s.on F.HP_SQ_STATUS_ACTIVE q = true ∧ s.on F.HP_SQ_CFG_ENABLE q = false) ∧ (∃ (fn : Nat) (q :
    Nat) (s : State), q < 1024 ∧ s.ready = true ∧ s.partActive (q / 8) = true ∧ (fn = 0 ∧ s.vfEnabled (q / 8) = false ∨ fn ≠ 0 ∧ s.vfEnabled fn = true
    ∧ q / 8 = fn) ∧ s.on F.HP_SQ_CFG_ENABLE q = true) ∧ (∃ (fn : Nat) (q : Nat) (s : State), q < 1024 ∧ s.ready = true ∧ s.partActive (q / 8) = true ∧
    (fn = 0 ∧ s.vfEnabled (q / 8) = false ∨ fn ≠ 0 ∧ s.vfEnabled fn = true ∧ q / 8 = fn) ∧ s.on F.HP_SQ_STATUS_ACTIVE q = true ∧ s.on
    F.HP_SQ_CFG_ENABLE q = false ∧ s.get F.HP_SQ_INFLIGHT_COUNT q = 0) ∧ (∃ (fn : Nat) (q : Nat) (val : Nat) (s : State), q < 1024 ∧ s.ready = true ∧
    s.partActive (q / 8) = true ∧ (fn = 0 ∧ s.vfEnabled (q / 8) = false ∨ fn ≠ 0 ∧ s.vfEnabled fn = true ∧ q / 8 = fn) ∧ s.on F.HP_CQ_CFG_ENABLE q =
    false ∧ 6 ≤ bits val 4 0 ∧ bits val 4 0 ≤ 16 ∧ bits val 18 8 < vectorsOf (s.ownerFn (q / 8))) := ⟨⟨0, 0, 0x2000006, (ringsUp.put
    F.HP_SQ_STATUS_ACTIVE 0 0), by decide +kernel, by decide +kernel, by decide +kernel, by decide +kernel, by decide +kernel, by decide +kernel⟩, ⟨0,
    7, 5, up, by decide +kernel, by decide +kernel, by decide +kernel, by decide +kernel, by decide +kernel, by decide +kernel⟩, ⟨0, 0, (ringsUp.put
    F.HP_SQ_CFG_ENABLE 0 0), by decide +kernel, by decide +kernel, by decide +kernel, by decide +kernel, by decide +kernel, by decide +kernel⟩, ⟨0, 0,
    ringsUp, by decide +kernel, by decide +kernel, by decide +kernel, by decide +kernel, by decide +kernel⟩, ⟨0, 0, (ringsUp.put F.HP_SQ_CFG_ENABLE 0
    0), by decide +kernel, by decide +kernel, by decide +kernel, by decide +kernel, by decide +kernel, by decide +kernel, by decide +kernel⟩, ⟨0, 7,
    16, up, by decide +kernel, by decide +kernel, by decide +kernel, by decide +kernel, by decide +kernel, by decide +kernel, by decide +kernel,
    by decide +kernel⟩⟩
theorem witness_RingsAreEnabledAndDisabled_2 : (∃ (fn : Nat) (q : Nat) (s : State), q < 1024 ∧ s.ready = true ∧ s.partActive (q / 8) = true ∧ (fn = 0
    ∧ s.vfEnabled (q / 8) = false ∨ fn ≠ 0 ∧ s.vfEnabled fn = true ∧ q / 8 = fn) ∧ s.on F.HP_CQ_CFG_ENABLE q = true ∧ s.cqNamed q = false ∧
    (s.cqs.getD q {}).reserved = 0) ∧ (∃ (fn : Nat) (q : Nat) (s : State), q < 1024 ∧ s.ready = true ∧ s.partActive (q / 8) = true ∧ (fn = 0 ∧
    s.vfEnabled (q / 8) = false ∨ fn ≠ 0 ∧ s.vfEnabled fn = true ∧ q / 8 = fn) ∧ s.on F.HP_CQ_CFG_ENABLE q = true ∧ (s.cqNamed q = true ∨ (s.cqs.getD
    q {}).reserved ≠ 0)) := ⟨⟨0, 3, ((up.put F.HP_CQ_CFG_ENABLE 1 3)), by decide +kernel, by decide +kernel, by decide +kernel, by decide +kernel,
    by decide +kernel, by decide +kernel, by decide +kernel⟩, ⟨0, 0, ringsUp, by decide +kernel, by decide +kernel, by decide +kernel,
    by decide +kernel, by decide +kernel, by decide +kernel⟩⟩
theorem witness_FetchAdmitsInRingOrder : ∃ (e : Env) (q : Nat) (n : Nat) (s : State) (bs : Bytes), (s.enter e).fetchOk q n = true ∧ (s.enter
    e).entriesRead q n = .ok bs ∧ s.get F.HP_SQ_STATUS_HEAD q < 2 ^ s.get F.HP_SQ_CFG_LOG2_SIZE q ∧ s.get F.HP_SQ_CFG_LOG2_SIZE q ≤ 16 := ⟨e0, 0, 8,
    (ringsUp.put F.HP_SQ_TAIL_TAIL 8 0), _, by decide +kernel, rfl, by decide +kernel, by decide +kernel⟩
theorem witness_FailedEntriesCompleteWithoutEffect : ∃ (e : Env) (q : Nat) (n : Nat) (s : State), (s.enter e).fetchOk q n = true ∧ (∀ k, s.reqSeq ≤ k
    → s.reqs.get? k = none) := ⟨e0, 0, 1, (ringsUp.put F.HP_SQ_TAIL_TAIL 1 0), by decide +kernel, fun _ _ => rfl⟩
theorem witness_DescriptorsStartInOrder : ∃ (e : Env) (rid : Nat) (s : State) (r : Req) (r0 : Req) (r1 : Req) (en : Bytes) (row : OpRow), s.reqs.get?
    rid = some r ∧ r.phase = .fetched ∧ s.inSr = false ∧ (s.enter e).mayStart rid r = true ∧ s.leaving r.part = false ∧ r0 =
    { r with phase := .started, startTime := (s.enter e).time, jobNo := s.jobSeq } ∧ r.row? = some row ∧ (s.enter e).startEncoding r0 (s.boundDomain
    r.part).isSome = .go en ∧ r1 = { r0 with entry := en, snap := s.snapOf { r0 with entry := en }, dom := s.domOf { r0 with entry := en } } ∧
    s.descTagOk r1 = true ∧ (row.part0 = false ∨ r.part = 0) ∧ s.isRemote r1 row = false ∧ (row.write = true → r1.fIndependent = false →
    s.failed.contains (r.origin.key, r1.dom) = false) ∧ s.checkHandle r1 row = .ok ∧ ((s.enter e).startDeadline r1 row).2 = false := ⟨e0, 5, (wr up
    { rq [] with phase := .fetched }), _, _, _, _, _, rfl, by decide +kernel, by decide +kernel, by decide +kernel, by decide +kernel, rfl, rfl, rfl,
    rfl, by decide +kernel, by decide +kernel, by decide +kernel, by decide +kernel, by decide +kernel, by decide +kernel⟩
theorem witness_DelayedCompletionsSignalOnce : ∃ (e : Env) (c : Nat) (s : State), s.on F.HP_CQ_CFG_IRQ_EN c = true ∧ (s.cqs.getD c {}).unsignalled ≠ 0
    ∧ s.get F.HP_CQ_MOD_DELAY_US c ≠ 0 ∧ (s.cqs.getD c {}).oldest + s.get F.HP_CQ_MOD_DELAY_US c * 1000 ≤ max s.time e.t ∧ s.get F.HP_CQ_CFG_VECTOR c
    ≠ 0 := ⟨e0, 0,
    { ((up.put F.HP_CQ_CFG_IRQ_EN 1 0).put F.HP_CQ_MOD_DELAY_US 2 0).put F.HP_CQ_CFG_VECTOR 1 0 with cqs := [(0, { unsignalled := 1 })], time := 2000 },
    by decide +kernel, by decide +kernel, by decide +kernel, by decide +kernel, by decide +kernel⟩
theorem witness_FunctionResetsStopRings : (∃ (fn : Nat) (s : State), (fn = 0 ∨ s.vfEnabled fn = true)) ∧ (∃ (s : State), s.vfEnable = false) ∧ (∃ (s :
    State), s.vfEnable = true) := ⟨⟨0, up, by decide +kernel⟩, ⟨up, by decide +kernel⟩, ⟨{ up with vfEnable := true, numVfs := 1 },
    by decide +kernel⟩⟩
theorem witness_CompletionsLeaveTheStore : (∃ (rid : Nat) (s : State) (r : Req), s.startedReq? rid [0x00] = some r) ∧ (∃ (rid : Nat) (s : State) (r :
    Req), s.startedReq? rid [0x01] = some r) := ⟨⟨5, (wr up (rq [])), _, rfl⟩, ⟨5, (wr up (rq [(0, 1)])), _, rfl⟩⟩
theorem witness_CompletionsWriteOneEntry : ∃ (s : State) (rid : Nat) (r : Req) (q : Nat) (cq : Nat) (i : Nat) (ph : Nat) (n : Nat), s.reqs.get? rid =
    some r ∧ r.origin = .ring q ∧ q < 1024 ∧ r.part < 128 ∧ r.silent = false ∧ cq = s.cqOf q ∧ s.on F.HP_CQ_STATUS_ACTIVE cq = true ∧ i = s.get
    F.HP_CQ_STATUS_TAIL cq ∧ ph = s.get F.HP_CQ_STATUS_PHASE cq ∧ n = s.get F.HP_CQ_CFG_LOG2_SIZE cq ∧ i < 2 ^ n ∧ n ≤ 16 ∧ s.confidential (cq / 8) =
    false ∧ s.rangeFails (s.cqBase cq + i * 32) 32 = false ∧ Memory.wf s.mem = true := ⟨(wr ringsUp (rq [])), 5, _, 0, _, _, _, _, rfl,
    by decide +kernel, by decide +kernel, by decide +kernel, by decide +kernel, rfl, by decide +kernel, rfl, rfl, rfl, by decide +kernel,
    by decide +kernel, by decide +kernel, by decide +kernel, by decide +kernel⟩
theorem witness_SequencesOpenUnderALease : (∃ (e : Env) (rid : Nat) (s : State) (s1 : State) (r : Req) (slot : Slot Bytes) (k : Nat) (s2 : State), s1
    = s.enter e ∧ s1.startedReq? rid [0x10] = some r ∧ r.handle = 0 ∧ s1.shapeNow? r.part r.shapeIndex = some slot ∧ (r.openShared = true →
    r.snap.member = true) ∧ (r.openPersist = 1 → s1.journalFull = false) ∧ s1.recRoom 2 = true ∧ s1.pick (fun k => (s1.seq k).state != .free ||
    (s1.seq k).withheld) (2 ^ 28) = (some k, s2)) ∧ (∃ (e : Env) (rid : Nat) (s : State) (s1 : State) (r : Req) (k : Nat) (q : Sequ), s1 = s.enter e ∧
    s1.startedReq? rid [0x10] = some r ∧ r.handle ≠ 0 ∧ k = hSeq r.handle ∧ (s.seq k).state = .published ∧ (s1.seqJournaled (s.seq k) = true →
    s1.journalFull = false) ∧ q = s.giveLease { s.seq k with state := .openS } r.origin r.startTime) ∧ (∃ (e : Env) (rid : Nat) (s : State) (s1 :
    State) (r : Req) (k : Nat) (q : Sequ), s1 = s.enter e ∧ s1.startedReq? rid [0x15] = some r ∧ k = hSeq r.handle ∧ s.isHolder (s.seq k) r.origin =
    true ∧ q = s.giveLease (s.seq k) r.origin r.startTime) ∧ (∃ (e : Env) (k : Nat) (s : State) (s1 : State), s1 = s.enter e ∧ (s.seq k).state =
    .openS ∧ (s.seq k).leaseExpiry ≤ s1.time ∧ s.holderBusy k = false) := ⟨⟨e0, 5, (wr store (rq [(0, 0x10), (20, 0)])), _, _, _, _, _, rfl, rfl,
    by decide +kernel, rfl, by decide +kernel, by decide +kernel, by decide +kernel, rfl⟩, ⟨e0, 5, (wr (has { seq1 with state := .published } {}) (rq
    [(0, 0x10), (8, 1)])), _, _, _, _, rfl, rfl, by decide +kernel, rfl, by decide +kernel, by decide +kernel, rfl⟩, ⟨e0, 5, (wr (has seq1 {}) (rq
    [(0, 0x15), (8, 1)])), _, _, _, _, rfl, rfl, rfl, by decide +kernel, rfl⟩, ⟨e0, 1, { (has { seq1 with leaseExpiry := 9 } {}) with time := 9 }, _,
    rfl, by decide +kernel, by decide +kernel, by decide +kernel⟩⟩
theorem witness_WritesOfTheHolderRenewTheLease_1 : (∃ (e : Env) (rid : Nat) (s : State) (s1 : State) (s2 : State) (r : Req) (k : Nat) (toks : List
    Nat) (bs : Bytes), s1 = s.enter e ∧ s1.startedReq? rid [0x11] = some r ∧ k = hSeq r.handle ∧ s1.isHolder (s1.seq k) r.origin = true ∧ s2 =
    s1.setSeq k (s1.giveLease (s1.seq k) r.origin r.startTime) ∧ s2.shapeBad (s1.seq k).partition (s1.seq k).shapeIndex (s1.seq k).shapeEpoch = false
    ∧ r.addr16 = 0 ∧ s2.tokenRead r r.addr24 (4 * r.appendCount) = .ok bs ∧ toks = tokensOf r.appendCount bs ∧ toks.any (fun t => t ≥ 2 ^ 20) = false)
    ∧ (∃ (e : Env) (rid : Nat) (s : State) (s1 : State) (s2 : State) (r : Req) (k : Nat) (size : Nat) (f : FpFmt) (sh : Bytes) (bs : Bytes) (bl : List
    Bytes), s1 = s.enter e ∧ s1.startedReq? rid [0x11] = some r ∧ k = hSeq r.handle ∧ s1.isHolder (s1.seq k) r.origin = true ∧ s2 = s1.setSeq k
    (s1.giveLease (s1.seq k) r.origin r.startTime) ∧ s2.shapeBad (s1.seq k).partition (s1.seq k).shapeIndex (s1.seq k).shapeEpoch = false ∧ r.addr16 ≠
    0 ∧ r.appendFormat ≠ 0 ∧ plainFmt? r.appendFormat = some f ∧ sh = s2.seqShape (s2.seq k) ∧ size = 2 * shHeads sh * r.appendCount * shDim sh *
    f.bytes ∧ (r.appendStride = 0 ∨ size ≤ r.appendStride) ∧ s2.tokenRead r r.addr24 (4 * r.appendCount) = .ok bs ∧ (tokensOf r.appendCount bs).any
    (fun t => t ≥ 2 ^ 20) = false ∧ s2.readBlocks r r.addr16 (if r.appendStride = 0 then size else r.appendStride) size (shLayers sh) = .inl bl ∧
    (bl.map (layerBlock f (shHeads sh) (shDim sh) r.appendCount)).any blockBad = false) ∧ (∃ (e : Env) (k : Nat) (n : Nat) (rid : Nat) (s : State) (s1
    : State) (s2 : State) (r : Req) (pl : Plan) (pl' : Plan) (c : Chunk) (ls : Table Leaf), s1 = s.enter e ∧ s1.sealer? k n = some (rid, r, pl) ∧
    s1.anyCluster = true ∧ s1.anySlice = true ∧ pl.chunks.find? (fun c => c.number == n) = some c ∧ s1.sealLayers (s1.seq k) c pl.staged
    (pl.durables.contains n) c.leaves 0 = (ls, s2) ∧ pl' =
    { pl with done := n :: pl.done, sealedLeaves := ls.foldl (fun t x => Table.set x.1 x.2 t) pl.sealedLeaves }) := ⟨⟨e0, 5, (wr (has seq1 {}) (rq
    [(0, 0x11), (8, 1), (32, 0x10)])), _, _, _, _, _, _, rfl, rfl, rfl, by decide +kernel, rfl, by decide +kernel, by decide +kernel, rfl, rfl,
    by decide +kernel⟩, ⟨e0, 5, (wr (has seq1 {}) (rq [(0, 0x11), (8, 1), (16, 0x1000), (32, 1), (34, 1), (36, 256)])), _, _, _, _, _, _, _, _, _,
    rfl, rfl, rfl, by decide +kernel, rfl, by decide +kernel, by decide +kernel, by decide +kernel, rfl, rfl, rfl, by decide +kernel, rfl,
    by decide +kernel, rfl, by decide +kernel⟩, ⟨e0, 1, 0, 5, (wr (has openSeq { state := .filling }) sealing), _, _, sealing, sealPlan, _, _, _, rfl,
    by decide +kernel, by decide +kernel, by decide +kernel, rfl, rfl, rfl⟩⟩
theorem witness_WritesOfTheHolderRenewTheLease_2 : ∃ (e : Env) (rid : Nat) (s : State) (s1 : State) (s2 : State) (r : Req) (k : Nat) (u : Nat) (f :
    FpFmt) (sh : Bytes) (bs : Bytes) (q : Sequ), s1 = s.enter e ∧ s1.startedReq? rid [0x21] = some r ∧ k = hSeq r.handle ∧ s1.isHolder (s1.seq k)
    r.origin = true ∧ s2 = s1.setSeq k (s1.giveLease (s1.seq k) r.origin r.startTime) ∧ s2.shapeBad (s1.seq k).partition (s1.seq k).shapeIndex (s1.seq
    k).shapeEpoch = false ∧ q = s2.seq k ∧ sh = s2.seqShape q ∧ u = q.firstUnsealed ∧ r.writeLayer < shLayers sh ∧ r.writeCount ≤ shTpl sh ∧
    r.writeFormat ≠ 0 ∧ plainFmt? r.writeFormat = some f ∧ (∀ x ∈ writeSpots u (shTpl sh) r.writeFirst r.writeCount, ∃ c, q.chunks[x.1]? = some c ∧
    c.isSealed = false ∧ x.2 < c.tokenCount) ∧ s2.bufRead r 2 r.addr16 (2 * shHeads sh * r.writeCount * shDim sh * f.bytes) = .ok bs ∧ blockBad
    (layerBlock f (shHeads sh) (shDim sh) r.writeCount bs) = false := ⟨e0, 5, (wr (has openSeq { state := .filling }) (rq [(0, 0x21), (8, 1), (16,
    0x1000), (25, 0x10), (28, 1)])), _, _, _, _, _, _, _, _, _, rfl, rfl, rfl, by decide +kernel, rfl, by decide +kernel, rfl, rfl, rfl,
    by decide +kernel, by decide +kernel, by decide +kernel, rfl,
    by intro x hx; have h : x = (0, 0) := List.mem_singleton.1 hx; subst h; exact ⟨_, rfl, rfl, by decide +kernel⟩, rfl, by decide +kernel⟩
theorem witness_SequencesPublishForkAndRetire_1 : (∃ (e : Env) (rid : Nat) (s : State) (s1 : State) (r : Req) (k : Nat), s1 = s.enter e ∧
    s1.startedReq? rid [0x12] = some r ∧ k = hSeq r.handle ∧ s1.isHolder (s1.seq k) r.origin = true ∧ r.chunkCount16 ≤ (s1.seq k).firstUnsealed ∧
    (s1.seqJournaled (s1.seq k) = true → s1.journalFull = false) ∧ r.release = false) ∧ (∃ (e : Env) (rid : Nat) (s : State) (s1 : State) (r : Req),
    s1 = s.enter e ∧ s1.startedReq? rid [0x13] = some r ∧ (s.seq (hSeq r.handle)).state = .retired) ∧ (∃ (e : Env) (rid : Nat) (s : State) (s1 :
    State) (r : Req), s1 = s.enter e ∧ s1.startedReq? rid [0x13] = some r ∧ (s.seq (hSeq r.handle)).state ≠ .retired ∧ (s.seq (hSeq
    r.handle)).publishedChunks < r.chunkCount16) ∧ (∃ (e : Env) (rid : Nat) (s : State) (s1 : State) (r : Req) (k : Nat), s1 = s.enter e ∧
    s1.startedReq? rid [0x14] = some r ∧ k = hSeq r.handle ∧ (s.seq k).state ≠ .retired ∧ ((s.seq k).state = .openS → s1.isHolder (s1.seq k) r.origin
    = true) ∧ (s1.seqJournaled (s1.seq k) = true → s1.journalFull = false)) ∧ (∃ (e : Env) (k : Nat) (s : State) (s1 : State), s1 = s.enter e ∧ (s.seq
    k).state = .retired ∧ s.seqNamed k = false) ∧ (∃ (e : Env) (owner : Nat) (leaf : Nat) (s : State) (s1 : State), s1 = s.enter e ∧ s.stillReads
    owner leaf = false) := ⟨⟨e0, 5, (wr (has { openSeq with chunks := [pubChunk] } pubLeaf) (rq [(0, 0x12), (8, 1), (16, 1)])), _, _, _, rfl, rfl,
    rfl, by decide +kernel, by decide +kernel, by decide +kernel, by decide +kernel⟩, ⟨e0, 5, (wr (has { pubSeq with state := .retired } pubLeaf) (rq
    [(0, 0x13), (8, 1), (16, 1)])), _, _, rfl, rfl, by decide +kernel⟩, ⟨e0, 5, (wr (has pubSeq pubLeaf) (rq [(0, 0x13), (8, 1), (16, 2)])), _, _,
    rfl, rfl, by decide +kernel, by decide +kernel⟩, ⟨e0, 5, (wr (has seq1 {}) (rq [(0, 0x14), (8, 1)])), _, _, _, rfl, rfl, rfl, by decide +kernel,
    by decide +kernel, by decide +kernel⟩, ⟨e0, 1, (has { seq1 with state := .retired } {}), _, rfl, by decide +kernel, by decide +kernel⟩, ⟨e0, 7, 1,
    (has seq1 {}), _, rfl, by decide +kernel⟩⟩
theorem witness_SequencesPublishForkAndRetire_2 : ∃ (e : Env) (rid : Nat) (s : State) (s1 : State) (s2 : State) (r : Req) (q : Sequ) (ep : Epoch) (k :
    Nat), s1 = s.enter e ∧ s1.startedReq? rid [0x13] = some r ∧ q = s1.seq (hSeq r.handle) ∧ q.state ≠ .retired ∧ r.chunkCount16 ≤ q.publishedChunks ∧
    (q.chunks.take r.chunkCount16).any (fun c => c.acts.noStore || (q.partition != r.part && c.acts.noShare)) = false ∧ s1.forkEpoch r.part q = some
    ep ∧ s1.journalFull = false ∧ s1.recRoom (2 + chunkGranules (shLayers (s1.seqShape q)) 0 r.chunkCount16) = true ∧ s1.pick (fun k => (s1.seq
    k).state != .free || (s1.seq k).withheld) (2 ^ 28) = (some k, s2) := (Sys2Proof.Laws.pick_finds ((wr (has pubSeq pubLeaf) (rq [(0, 0x13), (8, 1),
    (16, 1)])).enter e0) _ (2 ^ 28) 2 (by decide) (by decide +kernel)).elim fun k hk => ⟨e0, 5, (wr (has pubSeq pubLeaf) (rq [(0, 0x13), (8, 1), (16,
    1)])), _, _, _, _, _, k, rfl, rfl, rfl, by decide +kernel, by decide +kernel, by decide +kernel, rfl, by decide +kernel, by decide +kernel,
    hk.2.2⟩
theorem witness_LeafReadsHoldAndWrite : ∃ (e : Env) (rid : Nat) (s : State) (s1 : State) (s2 : State) (s3 : State) (s4 : State) (r : Req) (i : Nat) (n
    : Nat) (v : View) (bs : Bytes), s1 = s.enter e ∧ s1.startedReq? rid [0x20] = some r ∧ i = hLeaf r.handle ∧ (r.readConvert = true → (plainFmt?
    r.readFormat).isSome = true) ∧ s1.leafGone r.handle = false ∧ ((s.leaf i).partition = r.part ∨ (s.leaf i).noStore = false ∧ (s.leaf i).noShare =
    false) ∧ ((s.leaf i).state = .filling → r.readConvert = true) ∧ (s.leaf i).state ≠ .evicting ∧ s1.viewShapeBad i = false ∧ s1.canHold i = true ∧
    s1.anySlice = true ∧ n = ((s1.chunkOfLeaf? i).map (·.number)).getD 0 ∧ s1.takeView rid i n
    (match s1.chunkOfLeaf? i with | some c => s1.chunkBad c | none => false) = (v, s2) ∧ s3 = (s2.access i).decodeAny v ∧ s3.commitTime? r = none ∧
    s3.readFails v = false ∧ s3.readOutput r v none = (bs, [], s4) ∧ s4.dstOk r r.addr16 bs.length = true ∧ (r.dstSpace = 0 → (s4.writeLines r 4
    r.addr16 bs []).flushOk 0 (r.addr16 + bs.length - 1) = true) := ⟨e0, 5, (wr (has pubSeq pubLeaf)
    { rq [(0, 0x20), (8, 1), (16, 0x1000), (24, 0x11)] with dstSpace := 1 }), _, _, _, _, _, _, _, _, _, rfl, rfl, rfl, by decide +kernel,
    by decide +kernel, by decide +kernel, by decide +kernel, by decide +kernel, by decide +kernel, by decide +kernel, by decide +kernel, rfl, rfl,
    rfl, by decide +kernel, by decide +kernel, rfl, by decide +kernel, by decide +kernel⟩
theorem witness_LeafPinsAndEvictions_1 : (∃ (e : Env) (rid : Nat) (s : State) (s1 : State) (r : Req) (i : Nat) (l : Leaf), s1 = s.enter e ∧ i = hLeaf
    r.handle ∧ l = s.leaf i ∧ s.leafGone r.handle = false ∧ s1.startedReq? rid [0x22] = some r ∧ s1.pinCheck r.handle = none ∧ l.noStore = false ∧
    l.pinCount < 255 ∧ l.durable.isSome = true ∧ s1.journalFull = false) ∧ (∃ (e : Env) (rid : Nat) (s : State) (s1 : State) (r : Req) (i : Nat) (l :
    Leaf) (c : _), s1 = s.enter e ∧ i = hLeaf r.handle ∧ l = s.leaf i ∧ s.leafGone r.handle = false ∧ s1.startedReq? rid [0x22] = some r ∧ s1.pinCheck
    r.handle = none ∧ l.noStore = false ∧ l.pinCount < 255 ∧ l.durable = none ∧ s1.flashWritable = true ∧ s1.flashRoom l.partition 1 = true ∧
    s1.pinBusy i = false ∧ l.goodCopy = some c) ∧ (∃ (e : Env) (rid : Nat) (s : State) (s1 : State) (r : Req) (i : Nat) (l : Leaf), s1 = s.enter e ∧ i
    = hLeaf r.handle ∧ l = s.leaf i ∧ s.leafGone r.handle = false ∧ s1.startedReq? rid [0x23] = some r ∧ s1.pinCheck r.handle = none ∧ l.pinCount = 0)
    ∧ (∃ (e : Env) (rid : Nat) (s : State) (s1 : State) (r : Req) (i : Nat) (l : Leaf), s1 = s.enter e ∧ i = hLeaf r.handle ∧ l = s.leaf i ∧
    s.leafGone r.handle = false ∧ s1.startedReq? rid [0x23] = some r ∧ s1.pinCheck r.handle = none ∧ l.pinCount ≠ 0 ∧ s1.journalFull = false) ∧ (∃ (e
    : Env) (rid : Nat) (s : State) (s1 : State) (r : Req) (i : Nat) (l : Leaf), s1 = s.enter e ∧ i = hLeaf r.handle ∧ l = s.leaf i ∧ s.leafGone
    r.handle = false ∧ s1.startedReq? rid [0x24] = some r ∧ (l.state = .filling ∨ l.pinCount ≠ 0 ∨ l.rulePin = true)) ∧ (∃ (e : Env) (rid : Nat) (s :
    State) (s1 : State) (r : Req) (i : Nat) (l : Leaf), s1 = s.enter e ∧ i = hLeaf r.handle ∧ l = s.leaf i ∧ s.leafGone r.handle = false ∧
    s1.startedReq? rid [0x24] = some r ∧ (l.state = .evicting ∨ l.state = .poisoned) ∧ l.pinCount = 0 ∧ l.rulePin = false) := ⟨⟨e0, 5, (wr (has pubSeq
    { pubLeaf with pinCount := 254, durable := some { tier := .flash } }) (rq [(0, 0x22), (8, 1)])), _, _, _, _, rfl, rfl, rfl, by decide +kernel,
    rfl, by decide +kernel, by decide +kernel, by decide +kernel, by decide +kernel, by decide +kernel⟩, ⟨e0, 5, (wr (flashStore pubLeaf) (rq [(0,
    0x22), (8, 1)])), _, _, _, _, _, rfl, rfl, rfl, by decide +kernel, rfl, by decide +kernel, by decide +kernel, by decide +kernel,
    by decide +kernel, by decide +kernel, by decide +kernel, by decide +kernel, rfl⟩, ⟨e0, 5, (wr (has pubSeq pubLeaf) (rq [(0, 0x23), (8, 1)])), _,
    _, _, _, rfl, rfl, rfl, by decide +kernel, rfl, by decide +kernel, by decide +kernel⟩, ⟨e0, 5, (wr (has pubSeq { pubLeaf with pinCount := 255 })
    (rq [(0, 0x23), (8, 1)])), _, _, _, _, rfl, rfl, rfl, by decide +kernel, rfl, by decide +kernel, by decide +kernel, by decide +kernel⟩, ⟨e0, 5,
    (wr (has pubSeq { pubLeaf with rulePin := true }) (rq [(0, 0x24), (8, 1)])), _, _, _, _, rfl, rfl, rfl, by decide +kernel, rfl,
    by decide +kernel⟩, ⟨e0, 5, (wr (has pubSeq { pubLeaf with state := .poisoned }) (rq [(0, 0x24), (8, 1)])), _, _, _, _, rfl, rfl, rfl,
    by decide +kernel, rfl, by decide +kernel, by decide +kernel, by decide +kernel⟩⟩
theorem witness_LeafPinsAndEvictions_2 : ∃ (e : Env) (rid : Nat) (s : State) (s1 : State) (r : Req) (i : Nat) (l : Leaf), s1 = s.enter e ∧ i = hLeaf
    r.handle ∧ l = s.leaf i ∧ s.leafGone r.handle = false ∧ s1.startedReq? rid [0x24] = some r ∧ (l.state = .sealed ∨ l.state = .migrating) ∧
    l.pinCount = 0 ∧ l.rulePin = false ∧ (l.journaled = true → s1.journalFull = false) := ⟨e0, 5, (wr (has pubSeq pubLeaf) (rq [(0, 0x24), (8, 1)])),
    _, _, _, _, rfl, rfl, rfl, by decide +kernel, rfl, by decide +kernel, by decide +kernel, by decide +kernel, by decide +kernel⟩
theorem witness_MigrationsMoveALeaf_1 : (∃ (e : Env) (rid : Nat) (s : State) (s1 : State) (r : Req) (i : Nat) (l : Leaf) (dest : Tier), s1 = s.enter e
    ∧ s1.startedReq? rid [0x25] = some r ∧ i = hLeaf r.handle ∧ l = s.leaf i ∧ dest = tierOf r.destTier ∧ s1.migrateCheck r.handle dest = none ∧
    l.state ≠ .migrating ∧ dest = l.tier) ∧ (∃ (e : Env) (rid : Nat) (s : State) (s1 : State) (r : Req) (i : Nat) (l : Leaf) (dest : Tier), s1 =
    s.enter e ∧ s1.startedReq? rid [0x25] = some r ∧ i = hLeaf r.handle ∧ l = s.leaf i ∧ dest = tierOf r.destTier ∧ s1.migrateCheck r.handle dest =
    none ∧ l.state ≠ .migrating ∧ dest ≠ l.tier ∧ dest = .flash) ∧ (∃ (e : Env) (rid : Nat) (s : State) (s1 : State) (s2 : State) (r : Req) (i : Nat)
    (loc : Nat) (l : Leaf) (dest : Tier), s1 = s.enter e ∧ s1.startedReq? rid [0x25] = some r ∧ i = hLeaf r.handle ∧ l = s.leaf i ∧ dest = tierOf
    r.destTier ∧ s1.migrateCheck r.handle dest = none ∧ l.state ≠ .migrating ∧ dest ≠ l.tier ∧ dest ≠ .flash ∧ s1.allocSlot l.partition dest = (.slot
    loc, s2)) ∧ (∃ (e : Env) (i : Nat) (s : State) (s1 : State) (l : Leaf), s1 = s.enter e ∧ l = s.leaf i ∧ s1.anyCluster = true ∧ l.state =
    .migrating ∧ l.rewriting = false ∧ l.goodCopy ≠ none ∧ l.destTier ≠ .flash) ∧ (∃ (e : Env) (i : Nat) (s : State) (s1 : State) (l : Leaf) (s2 : _),
    s1 = s.enter e ∧ l = s.leaf i ∧ s1.anyCluster = true ∧ l.state = .migrating ∧ l.rewriting = false ∧ l.goodCopy ≠ none ∧ l.destTier = .flash ∧
    s1.dropToDurable i = some s2) ∧ (∃ (e : Env) (i : Nat) (s : State) (s1 : State) (l : Leaf), s1 = s.enter e ∧ l = s.leaf i ∧ s1.anyCluster = true ∧
    l.state = .migrating ∧ l.rewriting = false ∧ l.goodCopy ≠ none ∧ l.destTier = .flash ∧ s1.dropToDurable i = none) := ⟨⟨e0, 5, (wr (has pubSeq
    pubLeaf) (rq [(0, 0x25), (8, 1)])), _, _, _, _, _, rfl, rfl, rfl, rfl, rfl, by decide +kernel, by decide +kernel, by decide +kernel⟩, ⟨e0, 5, (wr
    (has pubSeq { pubLeaf with persist := .durable }) (rq [(0, 0x25), (8, 1), (16, 2)])), _, _, _, _, _, rfl, rfl, rfl, rfl, rfl, by decide +kernel,
    by decide +kernel, by decide +kernel, by decide +kernel⟩, ⟨e0, 5, (wr (flashStore flashLeaf) (rq [(0, 0x25), (8, 1)])), _, _, _, _, _, _, _, rfl,
    rfl, rfl, rfl, rfl, by decide +kernel, by decide +kernel, by decide +kernel, by decide +kernel, rfl⟩, ⟨e0, 1, (has pubSeq
    { pubLeaf with state := .migrating, destTier := .pool }), _, _, rfl, rfl, by decide +kernel, by decide +kernel, by decide +kernel,
    by decide +kernel, by decide +kernel⟩, ⟨e0, 1, (flashStore
    { flashLeaf with state := .migrating, destTier := .flash, tier := .hbm, cur := some pubCopy }), _, _, _, rfl, rfl, by decide +kernel,
    by decide +kernel, by decide +kernel, by decide +kernel, by decide +kernel, rfl⟩, ⟨e0, 1, (has pubSeq
    { pubLeaf with state := .migrating, destTier := .flash, dirtyMask := 1, durable := some { tier := .flash } }), _, _, rfl, rfl, by decide +kernel,
    by decide +kernel, by decide +kernel, by decide +kernel, by decide +kernel, by decide +kernel⟩⟩
theorem witness_MigrationsMoveALeaf_2 : (∃ (e : Env) (i : Nat) (s : State) (s1 : State) (l : Leaf) (k : _), s1 = s.enter e ∧ l = s.leaf i ∧
    s1.anyCluster = true ∧ l.state = .migrating ∧ l.rewriting = false ∧ l.goodCopy ≠ none ∧ s1.mover? i = some k) ∧ (∃ (e : Env) (i : Nat) (k : Nat)
    (s : State) (s1 : State) (s2 : State) (l : Leaf), s1 = s.enter e ∧ s.promos.contains i = true ∧ s1.anyCluster = true ∧ s.get
    F.TIER_MIG_CFG_PROMOTE_MBS ≠ 0 ∧ l = s.leaf i ∧ l.state = .sealed ∧ l.tier ≠ .hbm ∧ hintNoPromote l.place.hints = false ∧ s.leaving l.partition =
    false ∧ s1.withinLimit l.partition 0 2 = true ∧ 0 < s1.hbmFree ∧ ({ s1 with promos := s1.promos.filter (· != i) }).pick s1.hbmTaken s1.hbmSlots =
    (some k, s2)) := ⟨⟨e0, 1, (wr (has pubSeq { pubLeaf with state := .migrating, destTier := .flash })
    { rq [(0, 0x25), (8, 1)] with wait := .migrate 1 .flash }), _, _, 5, rfl, rfl, by decide +kernel, by decide +kernel, by decide +kernel,
    by decide +kernel, by decide +kernel⟩, ⟨e0, 1, _, { (flashStore flashLeaf).put F.TIER_MIG_CFG_PROMOTE_MBS 1 with promos := [1] }, _, _, _, rfl,
    by decide +kernel, by decide +kernel, by decide +kernel, rfl, by decide +kernel, by decide +kernel, by decide +kernel, by decide +kernel,
    by decide +kernel, by decide +kernel, rfl⟩⟩
theorem witness_BackgroundWorkOfTheTiers_1 : (∃ (e : Env) (i : Nat) (s : State) (s1 : State) (l : Leaf) (l' : Leaf), s1 = s.enter e ∧ s.leaves.get? i
    = some l ∧ s1.anyCluster = true ∧ s.leaving l.partition = false ∧ (l.shadowPresent = true → s1.shadowCovers l.partition l.tier = true) ∧ l' =
    { l with place := { l.place with heat := l.place.heat / 2, lastTick := if s1.age l ≥ 2 ^ 23 then (s1.tick + 2 ^ 24 - 2 ^ 23) % 2 ^ 24 else l.place.lastTick } })
    ∧ (∃ (e : Env) (t : Nat) (s : State) (s1 : State), s1 = s.enter e ∧ t ≤ 1 ∧ s1.anyCluster = true ∧ s1.tierFree t * 1024 < s1.get F.TIER_WATER_LOW
    t * s1.tierCap t) ∧ (∃ (e : Env) (i : Nat) (s : State) (s1 : State) (l : Leaf) (c : Copy) (d : Copy), s1 = s.enter e ∧ l = s.leaf i ∧ l.cur = some
    c ∧ l.durable = some d ∧ l.state = .sealed ∧ s1.anyCluster = true ∧ l.dirtyMask ≠ 0 ∧ s1.flashWritable = true ∧ c.spoilt = false ∧ l.failedPrimary
    = false ∧ s.leaving l.partition = false ∧ (∀ g ∈ s.flash.groups, g.2.rid = none → ∀ x ∈ g.2.recs, ∀ j q pa k gen b, x = .map j q pa k gen b → j ≠
    i)) := ⟨⟨e0, 1, (has pubSeq pubLeaf), _, _, _, rfl, rfl, by decide +kernel, by decide +kernel, by decide +kernel, rfl⟩, ⟨e0, 0, ((has pubSeq
    pubLeaf).put F.TIER_HBM_SLOTS_SLOTS 1), _, rfl, by decide +kernel, by decide +kernel, by decide +kernel⟩, ⟨e0, 1, (has pubSeq
    { pubLeaf with dirtyMask := 1, durable := some { tier := .flash } }), _, _, _, _, rfl, rfl, rfl, rfl, by decide +kernel, by decide +kernel,
    by decide +kernel, by decide +kernel, by decide +kernel, by decide +kernel, by decide +kernel, fun _ h => absurd h List.not_mem_nil⟩⟩
theorem witness_BackgroundWorkOfTheTiers_2 : ∃ (e : Env) (i : Nat) (s : State) (s1 : State) (s2 : State) (l : Leaf) (c : Copy) (slot : Nat), s1 =
    s.enter e ∧ l = s.leaf i ∧ l.primary = some c ∧ l.state = .sealed ∧ s1.copyCurrent l c = false ∧ l.failedPrimary = false ∧ s.leaving l.partition =
    false ∧ s.on F.CODEC_CFG_SWEEP_EN = true ∧ s1.anyCluster = true ∧ s1.anySlice = true ∧ l.tier = .hbm ∧ s1.hbmFree ≠ 0 ∧ s1.pick s1.hbmTaken
    s1.hbmSlots = (some slot, s2) := (Sys2Proof.Laws.pick_finds (((flashStore staleLeaf).put F.CODEC_CFG_SWEEP_EN 1).enter e0) _ _ 1
    (by decide +kernel) (by decide +kernel)).elim fun k hk => ⟨e0, 1, ((flashStore staleLeaf).put F.CODEC_CFG_SWEEP_EN 1), _, _, _, _, _, rfl, rfl,
    rfl, by decide +kernel, by decide +kernel, by decide +kernel, by decide +kernel, by decide +kernel, by decide +kernel, by decide +kernel,
    by decide +kernel, by decide +kernel, hk.2.2⟩
theorem witness_PrefixLookupsSearchByContent_1 : (∃ (e : Env) (rid : Nat) (s : State) (s1 : State) (r : Req) (slot : Slot Bytes) (bs : Bytes) (toks :
    List Nat) (hashes : List Nat) (perm : List Nat), s1 = s.enter e ∧ s1.startedReq? rid [0x30] = some r ∧ r.hashTag = none ∧ s1.shapeNow? r.part
    r.lookShape = some slot ∧ (r.lookShared = true → r.snap.member = true) ∧ s1.anySlice = true ∧ s1.shapeBad r.part r.lookShape slot.epoch = false ∧
    s1.tokenRead r r.addr16 (4 * r.lookCount) = .ok bs ∧ toks = tokensOf r.lookCount bs ∧ toks.any (fun t => t ≥ 2 ^ 20) = false ∧ hashes = chainOf
    (shId slot.body) r.lookAdapter (shTpl slot.body) toks.length (s1.seedOf r.lookShared r.part r.lookGroup) toks ∧ perm = r.snap.permitted.filter
    (fun q => !s1.hidden q) ∧ hashes = []) ∧ (∃ (e : Env) (rid : Nat) (s : State) (s1 : State) (s2 : State) (r : Req) (slot : Slot Bytes) (bs : Bytes)
    (toks : List Nat) (hashes : List Nat) (found : List Nat) (perm : List Nat) (h0 : Nat) (hs : List Nat), s1 = s.enter e ∧ s1.startedReq? rid [0x30]
    = some r ∧ r.hashTag = none ∧ s1.shapeNow? r.part r.lookShape = some slot ∧ (r.lookShared = true → r.snap.member = true) ∧ s1.anySlice = true ∧
    s1.shapeBad r.part r.lookShape slot.epoch = false ∧ s1.tokenRead r r.addr16 (4 * r.lookCount) = .ok bs ∧ toks = tokensOf r.lookCount bs ∧ toks.any
    (fun t => t ≥ 2 ^ 20) = false ∧ hashes = chainOf (shId slot.body) r.lookAdapter (shTpl slot.body) toks.length (s1.seedOf r.lookShared r.part
    r.lookGroup) toks ∧ perm = r.snap.permitted.filter (fun q => !s1.hidden q) ∧ hashes = h0 :: hs ∧ s1.otherOwner? r.snap.shards (shardBucket h0) =
    none ∧ s1.forwardPass (r.lookKey (ctxTag (shId slot.body) r.lookAdapter)) perm hashes = (found, s2)) ∧ (∃ (e : Env) (rid : Nat) (s : State) (s1 :
    State) (r : Req) (c : Ctx) (m : _) (m' : _) (rest : _), s1 = s.enter e ∧ s1.startedReq? rid [0x31] = some r ∧ s.ctxs.get? r.context = some c ∧
    c.part = r.part ∧ s1.time < c.lastUse + 1000000000 ∧ c.isRule = true ∧ c.rules = m :: m' :: rest) ∧ (∃ (e : Env) (rid : Nat) (s : State) (s1 :
    State) (r : Req) (c : Ctx) (x : _) (rest : _), s1 = s.enter e ∧ s1.startedReq? rid [0x31] = some r ∧ s.ctxs.get? r.context = some c ∧ c.part =
    r.part ∧ s1.time < c.lastUse + 1000000000 ∧ c.isRule = false ∧ c.far = none ∧ c.found = x :: rest ∧ s.hidden x.partition = false ∧ x.ringPos =
    s.pos ∧ s.confirm x = true) ∧ (∃ (e : Env) (rid : Nat) (s : State) (s1 : State) (r : Req) (c : Ctx), s1 = s.enter e ∧ s1.startedReq? rid [0x31] =
    some r ∧ s.ctxs.get? r.context = some c ∧ c.part = r.part ∧ s1.time < c.lastUse + 1000000000 ∧ c.isRule = false ∧ c.far = none ∧ c.found = []) ∧
    (∃ (e : Env) (rid : Nat) (s : State) (s1 : State) (r : Req) (c : Ctx), s1 = s.enter e ∧ s1.startedReq? rid [0x31] = some r ∧ s.ctxs.get? r.context
    = some c ∧ (c.part ≠ r.part ∨ c.lastUse + 1000000000 ≤ s1.time)) := ⟨⟨e0, 5, (wr store (rq [(0, 0x30), (16, 0x1000), (24, 15)])), _, _, _, _, _,
    _, _, rfl, rfl, by decide +kernel, rfl, by decide +kernel, by decide +kernel, by decide +kernel, rfl, rfl, by decide +kernel, rfl, rfl,
    by decide +kernel⟩, ⟨e0, 5, (wr store (rq [(0, 0x30), (16, 0x1000), (24, 16)])), _, _, _, _, _, _, _, _, _, _, _, rfl, rfl, by decide +kernel,
    rfl, by decide +kernel, by decide +kernel, by decide +kernel, rfl, rfl, by decide +kernel, rfl, rfl, rfl, by decide +kernel, rfl⟩, ⟨e0, 5,
    { (wr store (rq [(0, 0x31), (16, 3)])) with ctxs := [(3, { isRule := true, rules := [{}, {}] })], time := 999999999 }, _, _, _, _, _, _, rfl, rfl,
    rfl, by decide +kernel, by decide +kernel, by decide +kernel, rfl⟩, ⟨e0, 5,
    { (wr (has pubSeq pubLeaf) (rq [(0, 0x31), (16, 3)])) with ctxs := [(3, { found := [{ seqIndex := 1 }] })] }, _, _, _, _, _, rfl, rfl, rfl,
    by decide +kernel, by decide +kernel, by decide +kernel, by decide +kernel, rfl, by decide +kernel, by decide +kernel, by decide +kernel⟩, ⟨e0, 5,
    { (wr store (rq [(0, 0x31), (16, 3)])) with ctxs := [(3, {})] }, _, _, _, rfl, rfl, rfl, by decide +kernel, by decide +kernel, by decide +kernel,
    by decide +kernel, by decide +kernel⟩, ⟨e0, 5, { (wr store (rq [(0, 0x31), (16, 3)])) with ctxs := [(3, { part := 1 })] }, _, _, _, rfl, rfl, rfl,
    by decide +kernel⟩⟩
theorem witness_PrefixLookupsSearchByContent_2 : (∃ (e : Env) (rid : Nat) (t : Nat) (s : State) (s1 : State) (r : Req) (st : Status) (c : Cpl), s1 =
    s.enter e ∧ s.reqs.get? rid = some r ∧ r.wait = .pad t st c ∧ t ≤ s1.time) ∧ (∃ (e : Env) (k : Nat) (s : State) (s1 : State) (c : Ctx), s1 =
    s.enter e ∧ s.ctxs.get? k = some c ∧ c.lastUse + 1000000000 ≤ s1.time) := ⟨⟨e0, 5, 0, (wr store { rq [(0, 0x30)] with wait := .pad 0 .ok {} }), _,
    { rq [(0, 0x30)] with wait := .pad 0 .ok {} }, .ok, {}, rfl, by decide +kernel, by decide +kernel, by decide +kernel⟩, ⟨e0, 3,
    { store with ctxs := [(3, {})], time := 1000000000 }, _, _, rfl, rfl, by decide +kernel⟩⟩
theorem witness_IndexChangesOnTheOwner_1 : ∃ (e : Env) (rid : Nat) (s : State) (s1 : State) (s2 : State) (r : Req) (k : Nat) (n : Nat) (m : Nat) (q :
    Sequ), s1 = s.enter e ∧ s1.startedReq? rid [0x33] = some r ∧ k = hSeq r.handle ∧ q = s.seq k ∧ n = min r.chunkCount16 (q.chunks.length -
    r.chunkFirst24) ∧ (s1.seqJournaled q = true → s1.journalFull = false) ∧ (∀ c0, q.chunks.head? = some c0 → s1.otherOwner? r.snap.shards
    (shardBucket c0.hash) = none) ∧ s1.removeRange s1.pos k q.generation q.partition r.chunkFirst24 n = (m, s2) := ⟨e0, 5, (wr (has pubSeq pubLeaf)
    (rq [(0, 0x33), (8, 1), (16, 1)])), _, _, _, _, _, _, _, rfl, rfl, rfl, rfl, rfl, by decide +kernel, fun _ _ => rfl, rfl⟩
theorem witness_IndexChangesOnTheOwner_2 : ∃ (e : Env) (rid : Nat) (s : State) (s1 : State) (r : Req) (k : Nat) (q : Sequ), s1 = s.enter e ∧
    s1.startedReq? rid [0x32] = some r ∧ k = hSeq r.handle ∧ q = s.seq k ∧ ((q.state = .openS ∨ q.state = .published) → s1.shapeBad q.partition
    q.shapeIndex q.shapeEpoch = false ∧ (s1.seqJournaled q = true → s1.journalFull = false)) ∧ (∀ c0, q.chunks.head? = some c0 → s1.otherOwner?
    r.snap.shards (shardBucket c0.hash) = none) ∧ s1.overQuota r.part r.chunkCount16 = true := ⟨e0, 5, (wr (has pubSeq pubLeaf) (rq [(0, 0x32), (8,
    1), (16, 0xFFFFFFFF)])), _, _, _, _, rfl, rfl, rfl, rfl, fun _ => ⟨by decide +kernel, fun h => nomatch h⟩, fun _ _ => rfl, by decide +kernel⟩
theorem witness_IndexChangesOnTheOwner_3 : ∃ (e : Env) (rid : Nat) (s : State) (s1 : State) (r : Req) (k : Nat) (q : Sequ) (n : _) (failed : _) (s2 :
    _), s1 = s.enter e ∧ s1.startedReq? rid [0x32] = some r ∧ k = hSeq r.handle ∧ q = s.seq k ∧ ((q.state = .openS ∨ q.state = .published) →
    s1.shapeBad q.partition q.shapeIndex q.shapeEpoch = false ∧ (s1.seqJournaled q = true → s1.journalFull = false)) ∧ (∀ c0, q.chunks.head? = some c0
    → s1.otherOwner? r.snap.shards (shardBucket c0.hash) = none) ∧ s1.overQuota r.part r.chunkCount16 = false ∧ (q.state = .openS ∨ q.state =
    .published) ∧ s1.insertAll ((insertChunks q r.chunkFirst24 r.chunkCount16).map (s1.indexEntry k q)) = (n, failed, s2) := ⟨e0, 5, (wr ((has pubSeq
    pubLeaf).put F.PART_INDEX_QUOTA_MAX_ENTRIES 1 0) (rq [(0, 0x32), (8, 1), (16, 1)])), _, _, _, _, _, _, _, rfl, rfl, rfl, rfl,
    fun _ => ⟨by decide +kernel, by decide +kernel⟩, fun _ _ => rfl, by decide +kernel, by decide +kernel, rfl⟩
theorem witness_CanopyUpkeep : (∃ (e : Env) (s : State) (s1 : State), s1 = s.enter e ∧ s.promoAt + max 1 (s.get F.CANOPY_PROMOTE_PERIOD_US) * 1000 ≤
    s1.time) ∧ (∃ (e : Env) (s : State) (s1 : State), s1 = s.enter e ∧ s1.time < s.promoAt + max 1 (s.get F.CANOPY_PROMOTE_PERIOD_US) * 1000) ∧ (∃ (e
    : Env) (b : Nat) (s : State) (s1 : State), s1 = s.enter e ∧ b < 64 ∧ s.on F.CANOPY_BANK_CFG_RESPREAD b = true) ∧ (∃ (e : Env) (lost : List (Nat ×
    Nat)) (s : State) (s1 : State), s1 = s.enter e ∧ (∀ x ∈ lost, x.1 < 64)) ∧ (∃ (b : Nat) (s : State) (hs : List Nat), b < 64 ∧ hs = (s.bank
    b).entries.filterMap (fun x => x.2.root.map (·.hash))) := ⟨⟨e0, { up with time := 1000000000 }, _, rfl, by decide +kernel⟩, ⟨e0,
    { up with promoAt := 1 }, _, rfl, by decide +kernel⟩, ⟨e0, 63, (up.put F.CANOPY_BANK_CFG_RESPREAD 1 63), _, rfl, by decide +kernel,
    by decide +kernel⟩, ⟨e0, [(63, 4)], up, _, rfl, by decide +kernel⟩, ⟨63, up, _, by decide +kernel, rfl⟩⟩
theorem witness_AttendSelectAndDeliver : (∃ (e : Env) (rid : Nat) (s : State) (s1 : State) (s2 : State) (r : Req) (q : Sequ) (sh : Bytes) (qb : Bytes)
    (cs : List Nat) (vs : List View), s1 = s.enter e ∧ s1.startedReq? rid [0x40] = some r ∧ q = s1.seq (hSeq r.handle) ∧ sh = s1.seqShape q ∧
    s1.shapeBad q.partition q.shapeIndex q.shapeEpoch = false ∧ attendRange r sh = none ∧ shPlanKind sh ≠ 0 ∧ s1.bufRead r 3 r.addr16 (queryBytes sh
    r.attQueries r.attQueryBf16) = .ok qb ∧ queryOk sh r.attQueries r.attQueryBf16 qb = true ∧ (if r.addr32 = 0 then .inl ((List.range r.attCount).map
    (· + r.attFirst)) else s1.readList r r.addr32) = .inl cs ∧ chunkChecks q (q.partition != r.part) cs = none ∧ s1.canHoldAll q r.attLayer cs = true
    ∧ s1.holdSet rid q r.attLayer (s1.attendJob rid r q sh qb (s1.peekSet q r.attLayer cs)).leafMasked cs = (.inl vs, s2)) ∧ (∃ (e : Env) (rid : Nat)
    (s : State) (s1 : State) (s2 : State) (r : Req) (q : Sequ) (sh : Bytes) (qb : Bytes) (cs : List Nat) (j : Job) (j' : Job) (fell : Bool) (as : _)
    (s3 : _), s1 = s.enter e ∧ s1.startedReq? rid [0x41] = some r ∧ q = (s1.seq (hSeq r.handle)).asOf r.snap ∧ sh = s1.seqShape q ∧ s1.shapeBad
    q.partition q.shapeIndex q.shapeEpoch = false ∧ r.selLayer < shLayers sh ∧ shPolicy sh ≠ 0 ∧ s1.bufRead r 3 r.addr16 (queryBytes sh 1
    r.selQueryBf16) = .ok qb ∧ queryOk sh 1 r.selQueryBf16 qb = true ∧ cs = (List.range r.selCount).map (· + r.selFirst) ∧ chunkChecks q (q.partition
    != r.part) cs = none ∧ j =
    { owner := .req rid, kind := 3, part := r.part, handle := r.handle, sh := sh, qblock := qb, qbf16 := r.selQueryBf16, layer := r.selLayer, k := r.selK, proxy := r.selProxy, pband := if r.selProxy then shProxyBand sh else 0, maxSpires := s1.spireLimit r.part sh, forced := forcedOf sh q cs }
    ∧ (s1.exactWhy r.part sh = (false, fell) ∨ s1.onArrays (rid, 0) = true) ∧ s1.arraysOf (rid, 0) sh (candsOf sh q cs).length = some as ∧ s3 =
    s1.takeArrays (rid, 0) as ∧ s3.lanternGranted as = true ∧ s3.runLantern j (s3.commitTime? r) q as (candsOf sh q cs) = (j', s2)) ∧ (∃ (e : Env)
    (rid : Nat) (s : State) (s1 : State) (r : Req) (q : Sequ) (sh : Bytes) (qb : Bytes) (cs : List Nat) (j : Job) (fell : Bool) (as : _) (s3 : _), s1
    = s.enter e ∧ s1.startedReq? rid [0x41] = some r ∧ q = (s1.seq (hSeq r.handle)).asOf r.snap ∧ sh = s1.seqShape q ∧ s1.shapeBad q.partition
    q.shapeIndex q.shapeEpoch = false ∧ r.selLayer < shLayers sh ∧ shPolicy sh ≠ 0 ∧ s1.bufRead r 3 r.addr16 (queryBytes sh 1 r.selQueryBf16) = .ok qb
    ∧ queryOk sh 1 r.selQueryBf16 qb = true ∧ cs = (List.range r.selCount).map (· + r.selFirst) ∧ chunkChecks q (q.partition != r.part) cs = none ∧ j
    =
    { owner := .req rid, kind := 3, part := r.part, handle := r.handle, sh := sh, qblock := qb, qbf16 := r.selQueryBf16, layer := r.selLayer, k := r.selK, proxy := r.selProxy, pband := if r.selProxy then shProxyBand sh else 0, maxSpires := s1.spireLimit r.part sh, forced := forcedOf sh q cs }
    ∧ (s1.exactWhy r.part sh = (false, fell) ∨ s1.onArrays (rid, 0) = true) ∧ s1.arraysOf (rid, 0) sh (candsOf sh q cs).length = some as ∧ s3 =
    s1.takeArrays (rid, 0) as ∧ s3.lanternGranted as = false) ∧ (∃ (e : Env) (rid : Nat) (s : State) (s1 : State) (s2 : State) (r : Req) (q : Sequ)
    (sh : Bytes) (qb : Bytes) (cs : List Nat) (j : Job) (j' : Job) (fell : Bool), s1 = s.enter e ∧ s1.startedReq? rid [0x41] = some r ∧ q = (s1.seq
    (hSeq r.handle)).asOf r.snap ∧ sh = s1.seqShape q ∧ s1.shapeBad q.partition q.shapeIndex q.shapeEpoch = false ∧ r.selLayer < shLayers sh ∧
    shPolicy sh ≠ 0 ∧ s1.bufRead r 3 r.addr16 (queryBytes sh 1 r.selQueryBf16) = .ok qb ∧ queryOk sh 1 r.selQueryBf16 qb = true ∧ cs = (List.range
    r.selCount).map (· + r.selFirst) ∧ chunkChecks q (q.partition != r.part) cs = none ∧ j =
    { owner := .req rid, kind := 3, part := r.part, handle := r.handle, sh := sh, qblock := qb, qbf16 := r.selQueryBf16, layer := r.selLayer, k := r.selK, proxy := r.selProxy, pband := if r.selProxy then shProxyBand sh else 0, maxSpires := s1.spireLimit r.part sh, forced := forcedOf sh q cs }
    ∧ s1.exactWhy r.part sh = (true, fell) ∧ s1.onArrays (rid, 0) = false ∧ s1.canHoldAll q r.selLayer (candsOf sh q cs) = true ∧ s1.runExact rid j q
    (candsOf sh q cs) fell = (j', s2) ∧ j'.views ≠ []) ∧ (∃ (e : Env) (rid : Nat) (s : State) (s1 : State) (s2 : State) (r : Req) (q : Sequ) (sh :
    Bytes) (f : FpFmt) (cs : List Nat) (vs : List View), s1 = s.enter e ∧ s1.startedReq? rid [0x42] = some r ∧ q = s1.seq (hSeq r.handle) ∧ sh =
    s1.seqShape q ∧ s1.shapeBad q.partition q.shapeIndex q.shapeEpoch = false ∧ s1.targetDenied r = false ∧ deliverRange r sh = none ∧ r.delFormat ≤ 4
    ∧ plainFmt? r.delFormat = some f ∧ s1.anySlice = true ∧ (if r.addr24 = 0 then .inl ((List.range r.delCount).map (· + r.delFirst)) else s1.readList
    r r.addr24) = .inl cs ∧ s1.targetDown r = false ∧ chunkChecks q (q.partition != r.part) cs = none ∧ s1.canHoldAll q r.delLayer cs = true ∧
    s1.holdSet rid q r.delLayer (fun _ => false) cs = (.inl vs, s2)) := ⟨⟨e0, 5,
    { (wr (has pubSeq pubLeaf) (rq [(0, 0x40), (8, 1), (16, 0x1000), (44, 1)])) with mem := queryMem }, _, _, _, _, _, _, _, _, rfl, rfl, rfl, rfl,
    by decide +kernel, by decide +kernel, by decide +kernel, rfl, by decide +kernel, rfl, by decide +kernel, by decide +kernel, rfl⟩, ⟨e0, 5,
    { (wr (has pubSeq2 pubLeaf) { rq [(0, 0x41), (8, 1), (16, 0x1000), (40, 2), (34, 1)] with snap := { total := 2 } }) with mem := queryMem, pds := [(48, { state := 2 }), (56, { state := 2 }), (76, { state := 2 })], arrays := [(0, { state := 1, holder := some (5, 0) })], cupola := { grants := [{ cls := 2 }] } },
    _, _, _, _, _, _, _, _, _, false, _, _, rfl, rfl, rfl, rfl, by decide +kernel, by decide +kernel, by decide +kernel, rfl, by decide +kernel, rfl,
    by decide +kernel, rfl, by decide +kernel, rfl, rfl, by decide +kernel, rfl⟩, ⟨e0, 5,
    { (wr (has pubSeq2 pubLeaf) { rq [(0, 0x41), (8, 1), (16, 0x1000), (40, 2), (34, 1)] with snap := { total := 2 } }) with mem := queryMem, pds := [(48, { state := 2 }), (56, { state := 2 }), (76, { state := 2 })], arrays := [(0, { state := 1, holder := some (5, 0) })] },
    _, _, _, _, _, _, _, false, _, _, rfl, rfl, rfl, rfl, by decide +kernel, by decide +kernel, by decide +kernel, rfl, by decide +kernel, rfl,
    by decide +kernel, rfl, by decide +kernel, rfl, rfl, by decide +kernel⟩, ⟨e0, 5,
    { (wr ((has pubSeq2 pubLeaf).put F.LANTERN_CFG_FORCE_EXACT 1) { rq [(0, 0x41), (8, 1), (16, 0x1000), (40, 2), (34, 1)] with snap := { total := 2 } }) with mem := queryMem },
    _, _, _, _, _, _, _, _, _, _, rfl, rfl, rfl, rfl, by decide +kernel, by decide +kernel, by decide +kernel, rfl, by decide +kernel, rfl,
    by decide +kernel, rfl, rfl, by decide +kernel, by decide +kernel, rfl, by decide +kernel⟩, ⟨e0, 5,
    { (wr (has pubSeq pubLeaf) (rq [(0, 0x42), (8, 1), (36, 1)])) with mem := queryMem }, _, _, _, _, _, _, _, _, rfl, rfl, rfl, rfl,
    by decide +kernel, by decide +kernel, by decide +kernel, by decide +kernel, rfl, by decide +kernel, rfl, by decide +kernel, by decide +kernel,
    by decide +kernel, rfl⟩⟩
theorem witness_TablesAreLoaded_1 : (∃ (e : Env) (rid : Nat) (s : State) (s1 : State) (r : Req) (b : Bytes) (t : Slots Bytes) (t' : Slots Bytes), s1 =
    s.enter e ∧ s1.startedLoad? rid 0 = some r ∧ t = s1.shapeSlots r.part r.loadTarget ∧ (t.other.loaded = true → s1.shapeUsers r.part r.loadTarget
    t.other.epoch = 0) ∧ s1.bundleRead r = .ok b ∧ shapeOk b (s1.get F.LANTERN_SUM_CFG_STRIDE) = true ∧ t' = (t.load b).switch) ∧ (∃ (e : Env) (rid :
    Nat) (s : State) (s1 : State) (r : Req) (b : Bytes) (rs : RuleSet), s1 = (s.enter e).releaseRules r.part ∧ (s.enter e).startedLoad? rid 1 = some r
    ∧ ((s1.ruleSlots r.part).other.loaded = true → s1.ruleTaken r.part (s1.ruleSlots r.part).other.epoch = false) ∧ s1.bundleRead r = .ok b ∧
    parseRuleSet r.part b = some rs) ∧ (∃ (e : Env) (rid : Nat) (s : State) (s1 : State) (r : Req) (t : Slots RuleSet), s1 = s.enter e ∧
    s1.startedReq? rid [0x61] = some r ∧ t = s1.ruleSlots r.part ∧ BitVec.ofNat 8 r.switchEpoch = t.epoch) ∧ (∃ (e : Env) (rid : Nat) (s : State) (s1
    : State) (r : Req) (t : Slots RuleSet), s1 = s.enter e ∧ s1.startedReq? rid [0x61] = some r ∧ t = s1.ruleSlots r.part ∧ BitVec.ofNat 8
    r.switchEpoch ≠ t.epoch ∧ t.other.loaded = true ∧ t.other.epoch = BitVec.ofNat 8 r.switchEpoch) ∧ (∃ (e : Env) (rid : Nat) (s : State) (s1 :
    State) (r : Req) (t : Slots RuleSet), s1 = s.enter e ∧ s1.startedReq? rid [0x61] = some r ∧ t = s1.ruleSlots r.part ∧ BitVec.ofNat 8 r.switchEpoch
    ≠ t.epoch ∧ t.other.loaded = false) ∧ (∃ (e : Env) (rid : Nat) (s : State) (s1 : State) (r : Req) (slot : Bool) (x : Sched), s1 = s.enter e ∧
    s1.startedLoad? rid 2 = some r ∧ slot = (r.loadTarget == 1) ∧ x = s1.sched r.part ∧ s1.slotBusy r.part slot = false ∧ r.loadLength = 0) := ⟨⟨e0,
    5, (holding (wr (store.put F.LANTERN_SUM_CFG_STRIDE 8) (rq [(0, 0x60), (16, 0x1000), (24, 128), (28, 0), (29, 0)])) shape1), _, _, _, _, _, rfl,
    rfl, rfl, by decide +kernel, rfl, by decide +kernel, rfl⟩, ⟨e0, 5, (holding (wr store (rq [(0, 0x60), (16, 0x1000), (24, 256), (28, 1), (29, 0)]))
    rules1), _, _, _, ruleSet1, rfl, rfl, by decide +kernel, rfl, by decide +kernel⟩, ⟨e0, 5, (wr store (rq [(0, 0x61)])), _, _, _, rfl, rfl, rfl,
    by decide +kernel⟩, ⟨e0, 5, (wr
    { store with rules := [(0, { cur := some false, a := { loaded := true, body := {} }, b := { loaded := true, epoch := 1, body := {} } })] } (rq
    [(0, 0x61), (16, 1)])), _, _, _, rfl, rfl, rfl, by decide +kernel, by decide +kernel, by decide +kernel⟩, ⟨e0, 5, (wr store (rq [(0, 0x61), (16,
    1)])), _, _, _, rfl, rfl, rfl, by decide +kernel, by decide +kernel⟩, ⟨e0, 5, (holding (wr store (rq [(0, 0x60), (16, 0x1000), (24, 0), (28, 2),
    (29, 0)])) []), _, _, _, _, rfl, rfl, rfl, rfl, by decide +kernel, by decide +kernel⟩⟩
theorem witness_TablesAreLoaded_2 : (∃ (e : Env) (rid : Nat) (s : State) (s1 : State) (r : Req) (b : Bytes) (slot : Bool) (x : Sched), s1 = s.enter e
    ∧ s1.startedLoad? rid 2 = some r ∧ slot = (r.loadTarget == 1) ∧ x = s1.sched r.part ∧ s1.slotBusy r.part slot = false ∧ 0 < r.loadLength ∧
    r.loadLength ≤ 2 ^ 20 ∧ (x.img slot = none → s1.imagesLoaded < 4) ∧ s1.bundleRead r = .ok b ∧ imageOk b = true) ∧ (∃ (e : Env) (rid : Nat) (s :
    State) (s1 : State) (r : Req) (f : Nat) (k : Nat) (xs : List (Nat × Leaf)), s1 = s.enter e ∧ s1.startedReq? rid [0x62] = some r ∧ f =
    r.trainFormat ∧ k = scopeKey r.part r.shapeIndex f ∧ (s1.shapeNow? r.part r.shapeIndex).isSome = true ∧ 0 < f ∧ f ≤ 11 ∧ ((s1.scope
    k).slots.other.loaded = true → s1.codecUsers k (s1.scope k).slots.other.epoch = 0) ∧ s1.anySlice = true ∧ xs = s1.sampleLeaves r.part r.shapeIndex
    f (if r.trainSamples = 0 then 4096 else r.trainSamples) ∧ (∀ x ∈ xs, x.2.goodCopy.isSome = true) ∧ 16 ≤ xs.length) := ⟨⟨e0, 5, (holding (wr store
    (rq [(0, 0x60), (16, 0x1000), (24, 192), (28, 2), (29, 1)])) image1), _, _, _, _, _, rfl, rfl, rfl, rfl, by decide +kernel, by decide +kernel,
    by decide +kernel, by decide +kernel, rfl, by decide +kernel⟩, ⟨e0, 5, (wr trainStore (rq [(0, 0x62), (16, 0x10)])), _, _, _, _, _, rfl, rfl, rfl,
    rfl, by decide +kernel, by decide +kernel, by decide +kernel, by decide +kernel, by decide +kernel, rfl,
    fun x hx => (by decide +kernel : ∀ x ∈ trainStore.leaves, x.2.goodCopy.isSome = true) x (sample_mem _ _ _ _ _ _ hx),
    by rw [sample_length]; decide +kernel⟩⟩
theorem witness_BeatTracksLayerStarts_1 : (∃ (e : Env) (n : Nat) (s : State) (s1 : State), s1 = s.enter e ∧ n < 4 ∧ s1.layersOf n ≠ 0 ∧ s1.beatSource
    n = 1 ∧ s1.dieWorks 0 = true) ∧ (∃ (e : Env) (n : Nat) (layers : Nat) (s : State) (s1 : State), s1 = s.enter e ∧ n < 4 ∧ s1.layersOf n ≠ 0 ∧
    s1.beatSource n = 3 ∧ s1.get F.RING_STATUS_STATE = 3 ∧ s1.get F.RING_STATUS_ROLE ≠ 1 ∧ ((s1.beat n).state ≠ bOff ∨ layers = s1.layersOf n)) ∧ (∃
    (e : Env) (n : Nat) (layers : Nat) (s : State) (s1 : State), s1 = s.enter e ∧ n < 4 ∧ s1.layersOf n ≠ 0 ∧ s1.beatSource n = 3 ∧ s1.get
    F.RING_STATUS_STATE = 3 ∧ s1.get F.RING_STATUS_ROLE ≠ 1 ∧ (s1.beat n).state = bOff ∧ layers ≠ s1.layersOf n) ∧ (∃ (e : Env) (rid : Nat) (s :
    State) (s1 : State) (r : Req), s1 = s.enter e ∧ s1.startedReq? rid [0x50] = some r ∧ s1.beatSource r.markDomain = 2 ∧ (r.part ≠ 0 → r.snap.bound =
    some r.markDomain ∧ r.snap.markEn = true) ∧ s1.layersOf r.markDomain ≠ 0 ∧ s1.isGlitch r.markDomain r.startTime = false) ∧ (∃ (n : Nat) (t : Nat)
    (s : State), s.isGlitch n t = false ∧ s.isMaster = false ∧ (s.beat n).state = bOff) ∧ (∃ (n : Nat) (t : Nat) (s : State), s.isGlitch n t = true)
    := ⟨⟨e0, 3, ((store.put F.BEAT_CFG_LAYERS 1 3).put F.BEAT_CFG_SOURCE 1 3), _, rfl, by decide +kernel, by decide +kernel, by decide +kernel,
    by decide +kernel⟩, ⟨e0, 0, 0, (((((beating store).put F.BEAT_CFG_SOURCE 3 0).put F.RING_STATUS_STATE 3).put F.RING_STATUS_ROLE 2)), _, rfl,
    by decide +kernel, by decide +kernel, by decide +kernel, by decide +kernel, by decide +kernel, by decide +kernel⟩, ⟨e0, 0, 7,
    { ((((beating store).put F.BEAT_CFG_SOURCE 3 0).put F.RING_STATUS_STATE 3).put F.RING_STATUS_ROLE 2) with beats := [] }, _, rfl,
    by decide +kernel, by decide +kernel, by decide +kernel, by decide +kernel, by decide +kernel, by decide +kernel, by decide +kernel⟩, ⟨e0, 5, (wr
    ((beating store).put F.BEAT_CFG_SOURCE 2 0) { rq [(0, 0x50)] with snap := { bound := some 0, markEn := true } }), _, _, rfl, rfl,
    by decide +kernel, by decide +kernel, by decide +kernel, by decide +kernel⟩, ⟨0, 0, store, by decide +kernel, by decide +kernel,
    by decide +kernel⟩, ⟨0, 0, { store with beats := [(0, { accepted := some 0 })] }, by decide +kernel⟩⟩
theorem witness_BeatTracksLayerStarts_2 : (∃ (e : Env) (n : Nat) (s : State) (s1 : State) (b : Beat), s1 = s.enter e ∧ b = s.beat n ∧ b.state =
    bLocked ∧ b.layer + 1 ≠ s.layersOf n ∧ 9 * b.period ≤ 4 * (s1.time - b.last)) ∧ (∃ (e : Env) (n : Nat) (s : State) (s1 : State) (b : Beat), s1 =
    s.enter e ∧ b = s.beat n ∧ b.state = bLost ∧ b.layer + 1 ≠ s.layersOf n ∧ b.period ≠ 0 ∧ b.last + b.period ≤ s1.time) ∧ (∃ (e : Env) (n : Nat)
    (src : Nat) (s : State) (s1 : State), s1 = s.enter e ∧ n < 4 ∧ src < 4 ∧ src ≠ s.beatSource n ∧ (List.range 128).any (fun p => s1.boundDomain p ==
    some n && s1.schedBusy p) = false) := ⟨⟨e0, 0, { store with beats := [(0, { state := bLocked, period := 4 })], time := 9 }, _, _, rfl, rfl,
    by decide +kernel, by decide +kernel, by decide +kernel⟩, ⟨e0, 0, { store with beats := [(0, { state := bLost, period := 1000 })], time := 1000 },
    _, _, rfl, rfl, by decide +kernel, by decide +kernel, by decide +kernel, by decide +kernel⟩, ⟨e0, 3, 3, store, _, rfl, by decide +kernel,
    by decide +kernel, by decide +kernel, by decide +kernel⟩⟩
theorem witness_SchedulesArmAtTheirStep : (∃ (e : Env) (rid : Nat) (n : Nat) (s : State) (s1 : State) (r : Req) (im : SchedImg) (b : Bytes) (es : List
    Bytes) (x : Sched) (pd : SchedPend), s1 = s.enter e ∧ s1.startedReq? rid [0x51] = some r ∧ r.snap.bound = some n ∧ bits r.deadlineField 31 10 = 0
    ∧ x = s1.sched r.part ∧ x.img r.schedSlot = some im ∧ (r.armFirst < imSlots im.bytes ∨ r.armCount = 0) ∧ r.armFirst + r.armCount ≤ imSlots
    im.bytes ∧ imLayers im.bytes = s1.layersOf n ∧ s1.on F.HP_CQ_STATUS_ACTIVE (schedCq r.part im.bytes) = true ∧ x.pend = none ∧ s1.posPassed n
    (mkPos (s1.refStep n r) 0 0) = false ∧ (r.addr24 ≠ 0 → s1.bufRead r 2 r.addr24 (16 * r.armCount) = .ok b) ∧ es = (if r.addr24 = 0 then [] else
    chunksOf 16 r.armCount b) ∧ es.all slotEntryOk = true ∧ pd =
    { slot := r.schedSlot, step := s1.refStep n r, dom := n, rid := rid, first := r.armFirst, entries := es, sqId := r.sqPair.1, sqHead := r.sqPair.2 })
    ∧ (∃ (e : Env) (rid : Nat) (n : Nat) (since : Nat) (s : State) (s1 : State) (r : Req) (x : Sched) (pd : SchedPend), s1 = s.enter e ∧
    s1.startedReq? rid [0x52] = some r ∧ r.snap.bound = some n ∧ bits r.deadlineField 31 10 = 0 ∧ x = s1.sched r.part ∧ x.armed = some (r.schedSlot,
    since) ∧ x.pend = none ∧ s1.posPassed n (mkPos (s1.refStep n r) 0 0) = false ∧ pd =
    { disarm := true, slot := r.schedSlot, step := s1.refStep n r, dom := n, rid := rid }) ∧ (∃ (e : Env) (p : Nat) (s : State) (s1 : State) (q :
    SchedPend), s1 = s.enter e ∧ (s1.sched p).pend = some q ∧ s1.posPassed q.dom (mkPos q.step 0 0) = true) ∧ (∃ (e : Env) (p : Nat) (s : State) (s1 :
    State) (q : SchedPend), s1 = s.enter e ∧ (s1.sched p).pend = some q ∧ s1.posPassed q.dom (mkPos q.step 0 0) = true ∧ q.disarm = true) := ⟨⟨e0, 5,
    _, (wr { beating ringsUp with scheds := [(0, { a := some img1 })] } { rq [(0, 0x51), (24, 0x1000), (34, 1)] with snap := { bound := some 0 } }),
    _, _, _, (List.replicate 16 0), _, _, _, rfl, rfl, rfl, by decide +kernel, rfl, rfl, by decide +kernel, by decide +kernel, by decide +kernel,
    by decide +kernel, by decide +kernel, by decide +kernel, by decide +kernel, rfl, by decide +kernel, rfl⟩, ⟨e0, 5, _, _, (wr armed
    { rq [(0, 0x52)] with snap := { bound := some 0 } }), _, _, _, _, rfl, rfl, rfl, by decide +kernel, rfl, rfl, by decide +kernel,
    by decide +kernel, rfl⟩, ⟨e0, 0, { beating store with scheds := [(0, { pend := some { step := 5 } })] }, _, _, rfl, rfl, by decide +kernel⟩, ⟨e0,
    0, { beating store with scheds := [(0, { pend := some { step := 5, disarm := true } })] }, _, _, rfl, rfl, by decide +kernel, by decide +kernel⟩⟩
theorem witness_InstancesRunTheirEvents_1 : (∃ (e : Env) (p : Nat) (ev : Nat) (since : Nat) (step : Nat) (slot : Bool) (s : State) (s1 : State) (im :
    SchedImg), s1 = s.enter e ∧ s1.serves = true ∧ (s1.sched p).armed = some (slot, since) ∧ (s1.sched p).img slot = some im ∧ ev < imEvents im.bytes
    ∧ s1.dueStep p ev (s1.sched p) im since = some step ∧ s1.cqHasRoom (schedCq p im.bytes) = false) ∧ (∃ (e : Env) (p : Nat) (ev : Nat) (since : Nat)
    (step : Nat) (slot : Bool) (s : State) (s1 : State) (im : SchedImg) (x : Inst) (sls : _) (s2 : _), s1 = s.enter e ∧ s1.serves = true ∧ (s1.sched
    p).armed = some (slot, since) ∧ (s1.sched p).img slot = some im ∧ ev < imEvents im.bytes ∧ s1.dueStep p ev (s1.sched p) im since = some step ∧
    s1.cqHasRoom (schedCq p im.bytes) = true ∧ s1.recBad 3 (p * 2 + b2n slot) = false ∧ x =
    { part := p, slot := slot, image := im.bytes, epoch := im.epoch, event := ev, step := step, cq := schedCq p im.bytes, seqNo := (s1.cqs.getD (schedCq p im.bytes) {}).instSeq, dom := (s1.sched p).dom, sqId := im.sqId, sqHead := im.sqHead, beatLost := (s1.beat (s1.sched p).dom).state == bLost }
    ∧ s1.formSlots s1.instSeq x (s1.sched p) im ((List.range (evSlotCount (imEvent im.bytes ev))).map (· + evSlotFirst (imEvent im.bytes ev))) = some
    (sls, s2)) ∧ (∃ (e : Env) (id : Nat) (k : Nat) (s : State) (s1 : State) (x : Inst) (sl : InstSlot) (qb : Bytes) (nq : Nat), s1 = s.enter e ∧
    s1.insts.get? id = some x ∧ x.slots[k]? = some sl ∧ x.wantsQuery sl = true ∧ x.result = none ∧ s1.stampReady x sl = true ∧ nq = (if evOp x.ev = 2
    then 1 else evQueries x.ev) ∧ s1.bufRead (x.req sl.handle) 3 (x.queryAt sl + 64) (queryBytes sl.sh nq (evQueryBf16 x.ev)) = .ok qb ∧ queryOk sl.sh
    nq (evQueryBf16 x.ev) qb = true) ∧ (∃ (e : Env) (id : Nat) (s : State) (s1 : State) (x : Inst), s1 = s.enter e ∧ s1.insts.get? id = some x ∧
    x.result = none ∧ x.commit = false ∧ s1.instCommit x ≤ s1.time) ∧ (∃ (e : Env) (id : Nat) (s : State) (s1 : State) (x : Inst) (s2 : _) (x' : _)
    (st : _) (c : _), s1 = s.enter e ∧ s1.insts.get? id = some x ∧ x.result = none ∧ x.commit = true ∧ x.busy = false ∧ s1.instWrite id x = s2 ∧
    s2.insts.get? id = some x' ∧ x'.result = some (st, c) ∧ tgKind x'.tgt ≠ 2) ∧ (∃ (e : Env) (rid : Nat) (id : Nat) (t : Nat) (s : State) (s1 :
    State) (r : Req) (j : Job), s1 = s.enter e ∧ s1.reqs.get? rid = some r ∧ r.wait = .job id ∧ s1.commitTime? r = some t ∧ t ≤ s1.time ∧ s1.jobs.get?
    id = some j ∧ r.fDegradeOk = false) := ⟨⟨e0, 0, 0, 0, 5, false, armed, _, img1, rfl, by decide +kernel, by decide +kernel, by decide +kernel,
    by decide +kernel, by decide +kernel, by decide +kernel⟩, ⟨e0, 0, 0, 0, 5, false,
    { ringsUp with beats := armed.beats, scheds := armed.scheds, regs := (beating ringsUp).regs }, _, img1, _, _, _, rfl, by decide +kernel,
    by decide +kernel, by decide +kernel, by decide +kernel, by decide +kernel, by decide +kernel, by decide +kernel, rfl, rfl⟩, ⟨e0, 3, 0,
    { has pubSeq pubLeaf with insts := [(3, inst1)], mem := stampMem }, _, _, _, _, _, rfl, rfl, rfl, by decide +kernel, by decide +kernel,
    by decide +kernel, rfl, rfl, by decide +kernel⟩, ⟨e0, 3, { beating store with insts := [(3, inst1)], time := 1000000 }, _, _, rfl, rfl,
    by decide +kernel, by decide +kernel, by decide +kernel⟩, ⟨e0, 3, { beating store with insts := [(3, inst2)] }, _, _, _, _, _, _, rfl, rfl,
    by decide +kernel, by decide +kernel, by decide +kernel, rfl, rfl, rfl, by decide +kernel⟩, ⟨e0, 5, 7, _,
    { (wr (beating store) due) with jobs := [(7, {})], time := 1000000 }, _, _, {}, rfl, rfl, by decide +kernel, rfl, by decide +kernel,
    by decide +kernel, by decide +kernel⟩⟩
theorem witness_InstancesRunTheirEvents_2 : ∃ (e : Env) (rid : Nat) (id : Nat) (t : Nat) (s : State) (s1 : State) (s2 : State) (r : Req) (j : Job) (j'
    : Job), s1 = s.enter e ∧ s1.reqs.get? rid = some r ∧ r.wait = .job id ∧ s1.commitTime? r = some t ∧ t ≤ s1.time ∧ s1.jobs.get? id = some j ∧
    r.fDegradeOk = true ∧ s1.missJob id j View.miss = (j', s2) := ⟨e0, 5, 7, _,
    { (wr (beating store) { due with entry := leBytes 64 (packed [(0, 0x40), (1, 0x20), (8, 1)]) }) with jobs := [(7, {})], time := 1000000 }, _, _,
    _, _, _, rfl, rfl, by decide +kernel, rfl, by decide +kernel, rfl, by decide +kernel, rfl⟩
theorem witness_SpiresAndLanternArrays_1 : (∃ (e : Env) (n : Nat) (s : State) (s1 : State) (s2 : State) (s3 : State) (u : WUnit) (x : SpireSt) (j :
    Job), s1 = s.enter e ∧ x = s1.spire n ∧ x.running = some u ∧ s1.anyCluster = true ∧ s2 = (s1.bump F.SPIRE_UNITS_COUNT 1 n).setSpire n
    { x with running := none, assigned := none, busyNs := x.busyNs + (s1.time - x.started) } ∧ s3 =
    (match x.assigned with | some v => s2.startUnit n v | none => s2).dispatch ∧ s3.jobs.get? u.job = some j ∧ j.left.erase u.idx ≠ []) ∧ (∃ (e : Env)
    (n : Nat) (s : State) (s1 : State) (s2 : State) (s3 : State) (u : WUnit) (x : SpireSt) (j : Job), s1 = s.enter e ∧ x = s1.spire n ∧ x.running =
    some u ∧ s1.anyCluster = true ∧ s2 = (s1.bump F.SPIRE_UNITS_COUNT 1 n).setSpire n
    { x with running := none, assigned := none, busyNs := x.busyNs + (s1.time - x.started) } ∧ s3 =
    (match x.assigned with | some v => s2.startUnit n v | none => s2).dispatch ∧ s3.jobs.get? u.job = some j ∧ j.left.erase u.idx = []) ∧ (∃ (e : Env)
    (n : Nat) (keyLines : Nat) (valueLines : Nat) (s : State) (s1 : State), s1 = s.enter e ∧ n < 48 ∧ (s1.get F.SPIRE_STATUS_THERMAL_STAGE n ≠ 0 ∨
    ((s1.spire n).running.isSome = true ∧ (keyLines + valueLines) * 100 < s1.linesAllowed n * s1.get F.SAPL_DISPATCH_CFG_SLOW_PCT)) ∧ (s1.spire
    n).slow = false) ∧ (∃ (e : Env) (n : Nat) (s : State) (s1 : State), s1 = s.enter e ∧ (s1.spire n).slow = true ∧ s1.get
    F.SPIRE_STATUS_THERMAL_STAGE n = 0 ∧ (s1.spire n).slowAt + 100000 ≤ s1.time) ∧ (∃ (e : Env) (a : Nat) (temp : Nat) (s : State) (s1 : State), s1 =
    (s.enter e).lanternTemp (a / 16) temp ∧ a < 64 ∧ s1.pdOn (76 + a / 16) = true ∧ (∀ i, i < 16 → (s1.larray (i + 16 * (a / 16))).state ≠ 2 ∧ (i + 16
    * (a / 16) < a → s1.calDue (i + 16 * (a / 16)) = false)) ∧ s1.calDue a = true) ∧ (∃ (e : Env) (a : Nat) (temp : Nat) (t0 : Nat) (s : State) (s1 :
    State), s1 = (s.enter e).lanternTemp (a / 16) temp ∧ a < 64 ∧ s1.pdOn (76 + a / 16) = true ∧ (s1.larray a).state = 1 ∧ (s1.larray a).lastOk = some
    t0 ∧ (t0 + s1.get F.LANTERN_CFG_STALE_MS * 1000000 ≤ s1.time ∨ 2 * s1.calDelta ≤ natDiff (s1.get F.LANTERN_GROUP_STATUS_TEMP_C (a / 16))
    (s1.larray a).temp)) := ⟨⟨e0, 47, { store with spires := [(47, { running := some { job := 7, idx := 0 } })], jobs := [(7, { left := [0, 1] })] },
    _, _, _, _, _, _, rfl, rfl, rfl, by decide +kernel, rfl, rfl, rfl, by decide +kernel⟩, ⟨e0, 47,
    { store with spires := [(47, { running := some { job := 7, idx := 0 } })], jobs := [(7, { left := [0] })] }, _, _, _, _, _, _, rfl, rfl, rfl,
    by decide +kernel, rfl, rfl, rfl, by decide +kernel⟩, ⟨e0, 47, 0, 0, (store.put F.SPIRE_STATUS_THERMAL_STAGE 1 47), _, rfl, by decide +kernel,
    by decide +kernel, by decide +kernel⟩, ⟨e0, 47, { store with spires := [(47, { slow := true })], time := 100000 }, _, rfl, by decide +kernel,
    by decide +kernel, by decide +kernel⟩, ⟨e0, 63, 0, { store with pds := [(79, { state := 2 })], arrays := [(63, { state := 1 })] }, _, rfl,
    by decide +kernel, by decide +kernel, by decide +kernel, by decide +kernel⟩, ⟨e0, 63, 0, 0,
    { store with pds := [(79, { state := 2 })], arrays := [(63, { state := 1, lastOk := some 0, lastCal := some 0 })], time := 10000000000000 }, _,
    rfl, by decide +kernel, by decide +kernel, by decide +kernel, by decide +kernel, by decide +kernel⟩⟩
theorem witness_SpiresAndLanternArrays_2 : (∃ (e : Env) (a : Nat) (t0 : Nat) (rho : Nat) (s : State) (s1 : State) (x : LArray), s1 = s.enter e ∧ x =
    s1.larray a ∧ x.state = 2 ∧ x.lastCal = some t0 ∧ t0 + 2000 ≤ s1.time ∧ rho = Config.calError a s1.freeCtr ∧ s1.get F.LANTERN_CAL_LIMIT_LIMIT <
    rho) ∨ (∃ (e : Env) (a : Nat) (t0 : Nat) (rho : Nat) (s : State) (s1 : State) (x : LArray), s1 = s.enter e ∧ x = s1.larray a ∧ x.state = 2 ∧
    x.lastCal = some t0 ∧ t0 + 2000 ≤ s1.time ∧ rho = Config.calError a s1.freeCtr ∧ rho ≤ s1.get F.LANTERN_CAL_LIMIT_LIMIT) := (Nat.lt_or_ge
    (calStore.get F.LANTERN_CAL_LIMIT_LIMIT) (Config.calError 63 calStore.freeCtr)).elim (fun h => .inl ⟨e0, 63, 0, _, calStore, _, _, rfl, rfl,
    by decide +kernel, by decide +kernel, by decide +kernel, rfl, h⟩) (fun h => .inr ⟨e0, 63, 0, _, calStore, _, _, rfl, rfl, by decide +kernel,
    by decide +kernel, by decide +kernel, rfl, h⟩)
theorem witness_PoolLeasesAreGrantedAndLost_1 : (∃ (e : Env) (rid : Nat) (s : State) (s1 : State) (r : Req), s1 = s.enter e ∧ s1.startedReq? rid
    [0x70] = some r ∧ poolRangeFault r = none ∧ (s1.sharedExt? r.part r.addr16 r.addr24).isSome = true ∧ s1.poolUp = true) ∧ (∃ (e : Env) (rid : Nat)
    (s : State) (s0 : State) (s1 : State) (r : Req) (h : Bool × Nat × Nat) (l0 : Lease), s0 = s.enter e ∧ s0.startedReq? rid [0x71] = some r ∧
    s0.leaseWhere r = .inr none ∧ s1 = s0.expireDue r.addr16 r.addr24 ∧ h = s1.leaseHolder r ∧ l0 =
    { isQp := h.1, holder := h.2.1, pos := h.2.2, base := r.addr16, len := r.addr24, ms := r.leaseMs, expiry := s1.time + r.leaseMs * 1000000 } ∧
    r.leaseOp = 0 ∧ (∀ l ∈ s1.pool.leases, l.overlaps r.addr16 r.addr24 = true → l.heldBy h = true) ∧ s1.leaseOn? h r.addr16 r.addr24 = none ∧
    s1.pool.leases.length < 4096 ∧ s1.pool.leases.countP (·.heldBy h) < 64) ∧ (∃ (e : Env) (rid : Nat) (s : State) (s0 : State) (s1 : State) (r : Req)
    (h : Bool × Nat × Nat) (l : _), s0 = s.enter e ∧ s0.startedReq? rid [0x71] = some r ∧ s0.leaseWhere r = .inr none ∧ s1 = s0.expireDue r.addr16
    r.addr24 ∧ h = s1.leaseHolder r ∧ r.leaseOp = 1 ∧ s1.leaseOn? h r.addr16 r.addr24 = some l) ∧ (∃ (e : Env) (rid : Nat) (s : State) (s0 : State)
    (s1 : State) (r : Req) (q : Nat) (l : Lease), s0 = s.enter e ∧ s0.startedReq? rid [0x71] = some r ∧ s0.leaseWhere r = .inr none ∧ r.leaseOp = 2 ∧
    r.origin = .ring q ∧ s0.poolUp = true ∧ s1 = (s0.dropReads r.addr16 r.addr24).expireDue r.addr16 r.addr24 ∧ s1.leaseOn? (s1.leaseHolder r)
    r.addr16 r.addr24 = some l) ∧ (∃ (e : Env) (base : Nat) (len : Nat) (s : State) (s1 : State) (l : Lease), s1 = s.enter e ∧ s1.pool.leases.find?
    (fun l => l.base == base && l.len == len) = some l ∧ l.expiry ≤ s1.time ∧ s1.poolUp = true ∧ (∀ x ∈ s1.pool.exts, x.2.state ≠ 2)) ∧ (∃ (e : Env)
    (rid : Nat) (s : State) (s1 : State) (r : Req) (pl : Plan) (l : Lease), s1 = s.enter e ∧ s1.reqs.get? rid = some r ∧ r.opcode = 0x72 ∧ r.wait =
    .append pl ∧ s1.leaseCovering? r.part r.addr16 1 = some l ∧ s1.pool.leases.contains l = true) := ⟨⟨e0, 5, (wr (pooled store [(255, win)] []) (rq
    [(0, 0x70), (24, 64)])), _, _, rfl, rfl, by decide +kernel, by decide +kernel, by decide +kernel⟩, ⟨e0, 5, (wr (pooled store [(255, win)] []) (rq
    [(0, 0x71), (24, 64), (36, 10)])), _, _, _, _, _, rfl, rfl, by decide +kernel, rfl, rfl, rfl, by decide +kernel, by decide +kernel,
    by decide +kernel, by decide +kernel, by decide +kernel⟩, ⟨e0, 5, (wr (pooled store [(255, win)] [lease1]) (rq [(0, 0x71), (24, 64), (32, 1), (36,
    10)])), _, _, _, _, _, rfl, rfl, by decide +kernel, rfl, rfl, by decide +kernel, rfl⟩, ⟨e0, 5, (wr (pooled store [(255, win)] [lease1]) (rq [(0,
    0x71), (24, 64), (32, 2)])), _, _, _, 0, _, rfl, rfl, by decide +kernel, by decide +kernel, by decide +kernel, by decide +kernel, rfl, rfl⟩, ⟨e0,
    0, 64, { pooled store [(255, win)] [lease1] with time := 10000000 }, _, _, rfl, rfl, by decide +kernel, by decide +kernel, by decide +kernel⟩,
    ⟨e0, 5, (wr (pooled store [(255, win)] [lease1]) { rq [(0, 0x72)] with wait := .append {} }), _, { rq [(0, 0x72)] with wait := .append {} }, {},
    _, rfl, by decide +kernel, by decide +kernel, by decide +kernel, rfl, by decide +kernel⟩⟩
theorem witness_PoolLeasesAreGrantedAndLost_2 : ∃ (e : Env) (rid : Nat) (ok : Bool) (s : State) (s1 : State) (r : Req) (pl : Plan) (l : Lease), s1 =
    s.enter e ∧ s1.reqs.get? rid = some r ∧ r.opcode = 0x72 ∧ r.wait = .append pl ∧ s1.leaseCovering? r.part r.addr16 1 = some l ∧
    s1.pool.leases.contains l = false ∧ ok = false := ⟨e0, 5, _,
    { wr store { rq [(0, 0x72)] with wait := .append {} } with pool := { remote := [lease1] } }, _, { rq [(0, 0x72)] with wait := .append {} }, {}, _,
    rfl, by decide +kernel, by decide +kernel, by decide +kernel, rfl, by decide +kernel, rfl⟩
theorem witness_PoolExtentsComeAndGo_1 : (∃ (e : Env) (k : Nat) (s : State) (s1 : State) (x : Extent), s1 = s.enter e ∧ k < 256 ∧ s1.extent? k = some
    x ∧ x.state = 0 ∧ 0 < x.len ∧ x.kind ≠ 0 ∧ x.kind ≠ 3 ∧ x.base + x.len ≤ 2 ^ 24 ∧ s1.unitsTaken x.base x.len = false ∧ s1.pool.targets.any (fun t
    => t.1 == x.target && t.2.1 ≤ x.base && x.base + x.len ≤ t.2.1 + t.2.2) = true) ∧ (∃ (e : Env) (target : Nat) (len : Nat) (s : State) (s1 : State)
    (s2 : State) (slot : Option Nat) (k : Nat) (b : Nat) (x : Extent), s1 = s.enter e ∧ s1.poolUp = true ∧ target < 64 ∧ 0 < len ∧ s1.pickExtent =
    (slot, s2) ∧ s2.on F.POOL_CFG_DC_ACCEPT = true ∧ slot = some k ∧ s2.lowestBase len = some b ∧ x =
    { base := b, len := len, target := target, kind := s2.get F.POOL_CFG_DC_KIND, owner := some (s2.get F.POOL_CFG_DC_OWNER), dynamic := true, state := 1 })
    ∧ (∃ (e : Env) (target : Nat) (len : Nat) (s : State) (s1 : State) (s2 : State) (slot : Option Nat), s1 = s.enter e ∧ s1.poolUp = true ∧ target <
    64 ∧ 0 < len ∧ s1.pickExtent = (slot, s2) ∧ s2.on F.POOL_CFG_DC_ACCEPT = false) ∧ (∃ (e : Env) (k : Nat) (s : State) (s1 : State) (x : Extent), s1
    = s.enter e ∧ s1.extent? k = some x ∧ x.state = 1) ∧ (∃ (e : Env) (k : Nat) (s : State) (s1 : State) (x : Extent), s1 = s.enter e ∧ s1.extent? k =
    some x ∧ x.state = 1 ∧ x.dynamic = true ∧ s1.poolUp = true) ∧ (∃ (e : Env) (k : Nat) (s : State) (s1 : State) (x : Extent), s1 = s.enter e ∧
    s1.extent? k = some x ∧ x.state = 2 ∧ x.releaseAt ≤ s1.time) := ⟨⟨e0, 255, (pooled store [(255, ext1)] []), _, _, rfl, by decide +kernel, rfl,
    by decide +kernel, by decide +kernel, by decide +kernel, by decide +kernel, by decide +kernel, by decide +kernel, by decide +kernel⟩, ⟨e0, 63, 1,
    (pooled (store.put F.POOL_CFG_DC_ACCEPT 1) [] []), _, _, _, _, _, _, rfl, by decide +kernel, by decide +kernel, by decide +kernel, rfl,
    by decide +kernel, rfl, lowestBase_empty _ rfl, rfl⟩, ⟨e0, 63, 1, (pooled store [] []), _, _, _, rfl, by decide +kernel, by decide +kernel,
    by decide +kernel, rfl, by decide +kernel⟩, ⟨e0, 255, (pooled store [(255, win)] []), _, _, rfl, rfl, by decide +kernel⟩, ⟨e0, 255, (pooled store
    [(255, { win with dynamic := true })] []), _, _, rfl, rfl, by decide +kernel, by decide +kernel, by decide +kernel⟩, ⟨e0, 255,
    { pooled store [(255, { win with state := 2, releaseAt := 9 })] [] with time := 9 }, _, _, rfl, rfl, by decide +kernel, by decide +kernel⟩⟩
theorem witness_PoolExtentsComeAndGo_2 : ∃ (e : Env) (k : Nat) (s : State) (s1 : State) (x : Extent) (s2 : _), s1 = s.enter e ∧ s1.extent? k = some x
    ∧ x.state = 2 ∧ s2 = s1.drainExtent k ∧ (s2.extPrimaries x).filter (fun i => (s2.leaf i).state == .poisoned && s2.holdCount i == 0) = [] ∧
    s2.extBusy x = false := ⟨e0, 255, (pooled store [(255, { win with state := 2 })] []), _, _, _, rfl, rfl, by decide +kernel, rfl,
    by decide +kernel, by decide +kernel⟩
theorem witness_PoolLinksBucketsAndStages_1 : (∃ (width : Nat) (s : State), s.get F.POOL_STATUS_STATE = 1 ∧ s.dieWorks 1 = true ∧ (width = 4 ∨ width =
    8 ∨ width = 16)) ∧ (∃ (e : Env) (s : State) (s1 : State), s1 = s.enter e ∧ s.get F.POOL_STATUS_STATE = 3) ∧ (∃ (e : Env) (s : State) (s1 : State)
    (s2 : State) (used : List Nat) (inPool : List Nat) (into : List Nat), s1 = s.enter e ∧ s.get F.POOL_STATUS_STATE = 2 ∧ used = (List.range
    128).filter (fun p => s1.tierUsed p 1 > 0 || s1.partLeases p != []) ∧ inPool = s1.leaves.filterMap (fun l
    => match l.2.cur with | some c => if c.tier = .pool then some l.1 else none | none => none) ∧ into = s1.leaves.filterMap (fun l => if l.2.state =
    .migrating && l.2.destTier = .pool then some l.1 else none) ∧ s2 = (({ s1 with pool := { s1.pool with down := true } } : State).put
    F.POOL_STATUS_STATE 3).spoilViews (fun c => c.tier == .pool)) ∧ (∃ (e : Env) (target : Nat) (ext : Option Nat) (s : State) (s1 : State) (hit :
    List Nat), s1 = s.enter e ∧ s1.poolUp = true ∧ hit = s1.pool.exts.filterMap (fun x => if (x.2.state = 1 || x.2.state = 2) && x.2.target = target
    && (ext.isNone || (ext = some x.1 && x.2.dynamic)) then some x.1 else none) ∧ hit ≠ []) ∧ (∃ (e : Env) (s : State) (s1 : State), s1 = s.enter e ∧
    s1.serves = true ∧ s1.poolUp = true) ∧ (∃ (e : Env) (rid : Nat) (s : State) (s1 : State) (s2 : State) (r : Req) (q : Sequ) (chunks : List Chunk)
    (leaves : List (Nat × Chunk)) (vs : List View) (ls : List (Leaf × Copy)) (images : List Bytes) (img : Bytes) (l : Lease) (k : Nat) (x : Extent),
    s1 = s.enter e ∧ s1.startedReq? rid [0x72] = some r ∧ r.stageIn = false ∧ q = s1.seq (hSeq r.handle) ∧ (q.state = .openS ∨ q.state = .published) ∧
    chunks = (q.chunks.take q.publishedChunks).takeWhile (fun c => !c.acts.noStore) ∧ chunks ≠ [] ∧ leaves = chunks.flatMap (fun c => c.leaves.map
    (fun i => (i, c))) ∧ (q.partition = r.part ∨ ∀ c ∈ chunks, c.acts.noShare = false) ∧ (∀ x ∈ leaves, (s1.leaf x.1).state ≠ .evicting ∧ s1.canHold
    x.1 = true) ∧ leaves.foldl (fun (a : List View × State) x => let b := a.2.takeView rid x.1 x.2.number (a.2.chunkBad x.2); (a.1 ++ [b.1], b.2))
    ([], s1) = (vs, s2) ∧ s2.stageFault vs = none ∧ ls = vs.map (fun v => (s2.leaf v.leaf, v.copy)) ∧ images = ls.mapIdx (fun e x => s2.leafImage
    (s2.stageKey q (s2.get F.SEC_STAGE_EPOCH_CURRENT)) e x.1 x.2) ∧ img = s2.snapMeta q chunks.length (s2.stageTables ls) (images.map List.length) ++
    images.flatten ∧ s2.leaseCovering? r.part r.addr16 img.length = some l ∧ s2.sharedExt? r.part r.addr16 img.length = some (k, x) ∧ s2.poolUp =
    true) := ⟨⟨16, (store.put F.POOL_STATUS_STATE 1), by decide +kernel, by decide +kernel, by decide +kernel⟩, ⟨e0, (store.put F.POOL_STATUS_STATE
    3), _, rfl, by decide +kernel⟩, ⟨e0, (store.put F.POOL_STATUS_STATE 2), _, _, _, _, _, rfl, by decide +kernel, rfl, rfl, rfl, rfl⟩, ⟨e0, 0, none,
    (pooled store [(255, win)] []), _, _, rfl, by decide +kernel, rfl, by decide +kernel⟩, ⟨e0, (pooled store [] []), _, rfl, by decide +kernel,
    by decide +kernel⟩, ⟨e0, 5, (wr (pooled (has pubSeq pubLeaf) [(255, win)] [{ lease1 with len := 2 ^ 21 }]) (rq [(0, 0x72), (8, 1)])), _, _, _, _,
    _, _, _, _, _, _, { lease1 with len := 2 ^ 21 }, 255, win, rfl, rfl, by decide +kernel, rfl, by decide +kernel, rfl, by decide +kernel, rfl,
    by decide +kernel, by decide +kernel, rfl, by decide +kernel, rfl, rfl, rfl, by decide +kernel, by decide +kernel, by decide +kernel⟩⟩
theorem witness_PoolLinksBucketsAndStages_2 : ∃ (e : Env) (rid : Nat) (k : Nat) (s : State) (s1 : State) (s2 : State) (r : Req) (q : Sequ) (n : Nat)
    (l : Lease) (x : Extent) (bs : Bytes) (sh : Bytes) (p : Snap) (key : Nat) (epoch : Nat) (payloads : List Bytes), s1 = s.enter e ∧ s1.startedReq?
    rid [0x72] = some r ∧ r.stageIn = true ∧ q = s1.seq (hSeq r.handle) ∧ s1.isHolder q r.origin = true ∧ n = max 256 (parseSnap (Memory.readBytes
    s1.mem (memKey poolSpace r.addr16) 256)).total ∧ s1.leaseCovering? r.part r.addr16 n = some l ∧ s1.sharedExt? r.part r.addr16 n = some (k, x) ∧
    q.totalChunks = 0 ∧ q.openTokens = 0 ∧ s1.poolUp = true ∧ s1.anyCluster = true ∧ s1.anySlice = true ∧ s1.shapeBad q.partition q.shapeIndex
    q.shapeEpoch = false ∧ s1.poolRead r.part x.target r.addr16 n = (.ok bs, s2) ∧ p = parseSnap bs ∧ sh = s2.seqShape q ∧ epoch = fieldAt p.bytes 34
    1 ∧ key = s2.stageKey q epoch ∧ (p.bytes.drop 48).take 44 = sh.take 44 ∧ fieldAt p.bytes 32 2 = q.adapterId ∧ (epoch = s2.get
    F.SEC_STAGE_EPOCH_CURRENT ∨ epoch = s2.get F.SEC_STAGE_EPOCH_PREVIOUS) ∧ p.fieldsOk sh = true ∧ p.tagOk key = true ∧ fieldAt p.bytes 24 8 =
    s2.scopeIdOf q ∧ (List.range (p.chunks * p.layers)).mapM (p.payload key sh) = some payloads ∧ (∀ i, i < p.chunks * p.layers → p.leafOk key i =
    true) := ⟨e0, 5, 255, staging, _, snapState, _, _, 8256, { lease1 with len := 2 ^ 21 }, win, snapBytes, _, _, _, _, (Option.get _ snap_payload),
    rfl, rfl, by decide +kernel, rfl, by decide +kernel, snap_total, by decide +kernel, by decide +kernel, by decide +kernel, by decide +kernel,
    by decide +kernel, by decide +kernel, by decide +kernel, by decide +kernel, snap_pool, rfl, rfl, rfl, rfl, by decide +kernel, by decide +kernel,
    by decide +kernel, snap_fields, snap_tag, snap_scope, (Option.some_get snap_payload).symm,
    fun i h => by have h : i = 0 := Nat.lt_one_iff.1 h; rw [h]; exact snap_leaf⟩
theorem witness_QueuePairsChangeState_1 : (∃ (e : Env) (k : Nat) (addr : Nat) (s : State) (s1 : State) (b : Bytes) (q : Qp), s1 = s.enter e ∧ k <
    32768 ∧ s1.busRead (memKey 0 (addr / 64 * 64)) 64 = .ok b ∧ q = parseQp b (modeRate (s1.get F.NET_PORT_CFG_MODE (sfield b 1 1 0))) ∧ (s1.qp
    k).state = .reset ∧ s1.partActive q.partition = true ∧ s1.qpCount q.partition < s1.get F.PART_NET_CFG_MAX_QP q.partition ∧ s1.qpCtxOk b = true ∧
    (q.qwpV1 = true ∨ q.qwpV2 = true)) ∧ (∃ (e : Env) (k : Nat) (addr : Nat) (s : State) (s1 : State) (b : Bytes) (q : Qp), s1 = s.enter e ∧ k < 32768
    ∧ s1.busRead (memKey 0 (addr / 64 * 64)) 64 = .ok b ∧ q = parseQp b (modeRate (s1.get F.NET_PORT_CFG_MODE (sfield b 1 1 0))) ∧ (s1.qp k).state ≠
    .reset) ∧ (∃ (e : Env) (k : Nat) (s : State) (s1 : State), s1 = s.enter e ∧ (s1.qp k).state = .rts) ∧ (∃ (e : Env) (k : Nat) (s : State) (s1 :
    State), s1 = s.enter e ∧ (s1.qp k).state = .error) ∧ (∃ (e : Env) (k : Nat) (s : State) (s1 : State), s1 = s.enter e ∧ (s1.qp k).state = .draining
    ∧ (∀ x ∈ s1.reqs, x.2.ofQp k = false)) ∧ (∃ (e : Env) (port : Nat) (sub : Nat) (s : State) (s1 : State), s1 = s.enter e ∧ port < 4 ∧ sub <
    modeSubs (s1.get F.NET_PORT_CFG_MODE port) ∧ bit (s1.get F.NET_PORT_STATUS_LINK_UP port) sub = true) := ⟨⟨e0, 32767, 0x1000, (holding (store.put
    F.PART_NET_CFG_MAX_QP 1 0) qpCtx), _, _, _, rfl, by decide +kernel, rfl, rfl, by decide +kernel, by decide +kernel, by decide +kernel,
    by decide +kernel, by decide +kernel⟩, ⟨e0, 32767, 0x1000, (holding (net qp1) qpCtx), _, _, _, rfl, by decide +kernel, rfl, rfl,
    by decide +kernel⟩, ⟨e0, 32767, (net qp1), _, rfl, by decide +kernel⟩, ⟨e0, 32767, (net { qp1 with state := .error }), _, rfl, by decide +kernel⟩,
    ⟨e0, 32767, (net { qp1 with state := .draining }), _, rfl, by decide +kernel, fun _ h => absurd h List.not_mem_nil⟩, ⟨e0, 3, 3, ((store.put
    F.NET_PORT_CFG_MODE 4 3).put F.NET_PORT_STATUS_LINK_UP 8 3), _, rfl, by decide +kernel, by decide +kernel, by decide +kernel⟩⟩
theorem witness_QueuePairsChangeState_2 : ∃ (e : Env) (port : Nat) (sub : Nat) (s : State) (s1 : State), s1 = s.enter e ∧ port < 4 ∧ sub < modeSubs
    (s1.get F.NET_PORT_CFG_MODE port) ∧ bit (s1.get F.NET_PORT_STATUS_LINK_UP port) sub = false ∧ s1.on F.NET_PORT_CFG_ENABLE port = true ∧
    s1.dieWorks (port / 2) = true ∧ s1.pdOn (84 + port) = true := ⟨e0, 3, 3,
    { (store.put F.NET_PORT_CFG_MODE 4 3).put F.NET_PORT_CFG_ENABLE 1 3 with pds := [(87, { state := 2 })] }, _, rfl, by decide +kernel,
    by decide +kernel, by decide +kernel, by decide +kernel, by decide +kernel, by decide +kernel⟩
theorem witness_RegionsAndInboundPackets_1 : (∃ (e : Env) (rid : Nat) (k : Nat) (s : State) (s1 : State) (s2 : State) (r : Req) (m : Mr), s1 = s.enter
    e ∧ s1.startedReq? rid [0x78] = some r ∧ 0 < r.addr24 ∧ r.addr24 ≤ 2 ^ 40 ∧ r.addr16 + r.addr24 ≤ 2 ^ 64 ∧ r.mrAccess ≠ 0 ∧ s1.mrs.countP (fun x
    => x.2.state != .free && x.2.partition == r.part) < s1.get F.PART_NET_MR_MAX_MR r.part ∧ s1.mrs.countP (fun x => x.2.state != .free) < 2 ^ 20 ∧
    s1.pick (fun k => (s1.mrs.getD k {}).state != .free) (2 ^ 20) = (some k, s2) ∧ m =
    { state := .admits, key := (s2.mrs.getD k {}).key + 1, partition := r.part, base := r.addr16, length := r.addr24, access := r.mrAccess }) ∧ (∃ (e
    : Env) (rid : Nat) (s : State) (s1 : State) (s2 : State) (r : Req) (m : Mr), s1 = s.enter e ∧ s1.startedReq? rid [0x79] = some r ∧ (∀ k, r.wait ≠
    .revoke k) ∧ s1.mrs.get? (r.rkey / 256) = some m ∧ m.state ≠ .free ∧ m.key = BitVec.ofNat 8 r.rkey ∧ m.partition = r.part ∧ s2 =
    ({ s1 with mrs := s1.mrs.set (r.rkey / 256) { m with state := .drain } }).wait rid (.revoke (r.rkey / 256))) ∧ (∃ (e : Env) (k : Nat) (psn : Nat)
    (len : Nat) (ecn : Nat) (ecn' : Nat) (s : State) (s1 : State) (s2 : State) (s3 : State) (q : Qp), s1 = s.enter e ∧ q = s1.qp k ∧ q.state = .rts ∧
    s1.measure q.partition len ecn = (true, ecn', s2) ∧ s3 = s2.congested k (ecn' == 3) ∧ psn = q.expectPsn) ∧ (∃ (e : Env) (k : Nat) (psn : Nat)
    (rkey : Nat) (addr : Nat) (n : Nat) (len : Nat) (ecn : Nat) (ecn' : Nat) (s : State) (s1 : State) (s2 : State) (s3 : State) (q : Qp), s1 = s.enter
    e ∧ q = s1.qp k ∧ q.state = .rts ∧ s1.measure q.partition len ecn = (true, ecn', s2) ∧ s3 = s2.congested k (ecn' == 3) ∧ psn = q.expectPsn ∧
    q.inWrite = none ∧ n ≤ 2 ^ 31 ∧ s3.mrAdmits k rkey addr n 0 = true) ∧ (∃ (e : Env) (k : Nat) (psn : Nat) (rkey : Nat) (addr : Nat) (n : Nat) (len
    : Nat) (ecn : Nat) (ecn' : Nat) (s : State) (s1 : State) (s2 : State) (s3 : State) (q : Qp), s1 = s.enter e ∧ q = s1.qp k ∧ q.state = .rts ∧
    s1.measure q.partition len ecn = (true, ecn', s2) ∧ s3 = s2.congested k (ecn' == 3) ∧ psn = q.expectPsn ∧ q.inWrite = none ∧ n ≤ 2 ^ 31 ∧
    s3.mrAdmits k rkey addr n 0 = false) ∧ (∃ (e : Env) (k : Nat) (psn : Nat) (len : Nat) (ecn : Nat) (ecn' : Nat) (s : State) (s1 : State) (s2 :
    State) (s3 : State) (q : Qp), s1 = s.enter e ∧ q = s1.qp k ∧ q.state = .rts ∧ s1.measure q.partition len ecn = (true, ecn', s2) ∧ s3 =
    s2.congested k (ecn' == 3) ∧ psn ≠ q.expectPsn ∧ q.behind psn = false) := ⟨⟨e0, 5, _, (wr (store.put F.PART_NET_MR_MAX_MR 1 0) (rq [(0, 0x78),
    (24, 2 ^ 40), (32, 7)])), _, _, _, _, rfl, rfl, by decide +kernel, by decide +kernel, by decide +kernel, by decide +kernel, by decide +kernel,
    by decide +kernel, rfl, rfl⟩, ⟨e0, 5, (wr (net qp1) (rq [(0, 0x79), (16, 0x300)])), _, _, _, _, rfl, rfl, (fun _ h => nomatch h), rfl,
    by decide +kernel, by decide +kernel, by decide +kernel, rfl⟩, ⟨e0, 32767, _, 0, 0, _, (net qp1), _, _, _, _, rfl, rfl, by decide +kernel, rfl,
    rfl, rfl⟩, ⟨e0, 32767, _, 0x300, 0x1FFFFF, 1, 0, 0, _, (net qp1), _, _, _, _, rfl, rfl, by decide +kernel, rfl, rfl, rfl, by decide +kernel,
    by decide +kernel, by decide +kernel⟩, ⟨e0, 32767, _, 0x300, 0x200000, 1, 0, 0, _, (net qp1), _, _, _, _, rfl, rfl, by decide +kernel, rfl, rfl,
    rfl, by decide +kernel, by decide +kernel, by decide +kernel⟩, ⟨e0, 32767, 1, 0, 0, _, (net qp1), _, _, _, _, rfl, rfl, by decide +kernel, rfl,
    rfl, by decide +kernel, by decide +kernel⟩⟩
theorem witness_RegionsAndInboundPackets_2 : (∃ (e : Env) (k : Nat) (psn : Nat) (kind : Nat) (s : State) (s1 : State), s1 = s.enter e ∧ (s1.qp
    k).state = .rts ∧ (s1.qp k).behind psn = true ∧ kind = 0) ∧ (∃ (e : Env) (k : Nat) (psn : Nat) (kind : Nat) (s : State) (s1 : State), s1 = s.enter
    e ∧ (s1.qp k).state = .rts ∧ (s1.qp k).behind psn = true ∧ kind = 1) ∧ (∃ (e : Env) (k : Nat) (psn : Nat) (kind : Nat) (rkey : Nat) (addr : Nat)
    (n : Nat) (s : State) (s1 : State), s1 = s.enter e ∧ (s1.qp k).state = .rts ∧ (s1.qp k).behind psn = true ∧ 2 ≤ kind ∧ s1.mrAdmits k rkey addr n 0
    = true) ∧ (∃ (e : Env) (k : Nat) (pkey : Nat) (len : Nat) (ecn : Nat) (ecn' : Nat) (s : State) (s1 : State) (s2 : State), s1 = s.enter e ∧ (s1.qp
    k).state = .rts ∧ pkey ≠ s1.pkeyOf (s1.qp k).partition ∧ s1.measure (s1.qp k).partition len ecn = (true, ecn', s2)) ∧ (∃ (e : Env) (k : Nat) (psn
    : Nat) (ecn : Nat) (m : Bytes) (lens : List Nat) (ce : Bool) (s : State) (s1 : State) (s2 : State) (s3 : State) (q : Qp), s1 = s.enter e ∧ q =
    s1.qp k ∧ q.state = .rts ∧ s1.measureAll q.partition ecn lens = (true, ce, s2) ∧ s3 = s2.congested k ce ∧ psn = q.expectPsn ∧ q.inWrite = none ∧
    m.length ≤ 4176 ∧ s3.serves = true ∧ q.admitted < q.rqDepth ∧ s3.qwpAdmitted < 65536) ∧ (∃ (e : Env) (k : Nat) (psn : Nat) (ecn : Nat) (m : Bytes)
    (lens : List Nat) (ce : Bool) (s : State) (s1 : State) (s2 : State) (s3 : State) (q : Qp), s1 = s.enter e ∧ q = s1.qp k ∧ q.state = .rts ∧
    s1.measureAll q.partition ecn lens = (true, ce, s2) ∧ s3 = s2.congested k ce ∧ psn = q.expectPsn ∧ q.inWrite = none ∧ m.length ≤ 4176 ∧ q.rqDepth
    ≤ q.admitted) := ⟨⟨e0, 32767, 0xFFFFFF, 0, (net qp1), _, rfl, by decide +kernel, by decide +kernel, by decide +kernel⟩, ⟨e0, 32767, 0xFFFFFF, 1,
    (net qp1), _, rfl, by decide +kernel, by decide +kernel, by decide +kernel⟩, ⟨e0, 32767, 0xFFFFFF, 2, 0x300, 0, 0, (net qp1), _, rfl,
    by decide +kernel, by decide +kernel, by decide +kernel, by decide +kernel⟩, ⟨e0, 32767, 0, 0, 0, _, (net qp1), _, _, rfl, by decide +kernel,
    by decide +kernel, rfl⟩, ⟨e0, 32767, _, 0, [], [64], _, (net qp1), _, _, _, _, rfl, rfl, by decide +kernel, rfl, rfl, rfl, by decide +kernel,
    by decide +kernel, by decide +kernel, by decide +kernel, by decide +kernel⟩, ⟨e0, 32767, _, 0, [], [64], _, (net { qp1 with admitted := 1 }), _,
    _, _, _, rfl, rfl, by decide +kernel, rfl, rfl, rfl, by decide +kernel, by decide +kernel, by decide +kernel⟩⟩
theorem witness_AcknowledgesRetriesAndRates_1 : (∃ (e : Env) (k : Nat) (s : State) (s1 : State), s1 = s.enter e ∧ (s1.qp k).state = .rts) ∧ (∃ (e :
    Env) (k : Nat) (s : State) (s1 : State) (q : Qp), s1 = s.enter e ∧ q = s1.qp k ∧ q.state = .rts ∧ q.outstanding ≠ [] ∧ q.timeout ≠ 0 ∧ q.sentAt +
    4096 * 2 ^ q.timeout ≤ s1.time ∧ q.retriesLeft = 0) ∧ (∃ (e : Env) (k : Nat) (s : State) (s1 : State) (q : Qp), s1 = s.enter e ∧ q = s1.qp k ∧
    q.state = .rts ∧ q.outstanding ≠ [] ∧ q.timeout ≠ 0 ∧ q.sentAt + 4096 * 2 ^ q.timeout ≤ s1.time ∧ q.retriesLeft ≠ 0) ∧ (∃ (e : Env) (k : Nat) (psn
    : Nat) (s : State) (s1 : State) (s2 : State) (q : Qp), s1 = s.enter e ∧ (s1.qp k).state = .rts ∧ s2 = s1.acked k ((psn + 2 ^ 24 - 1) % 2 ^ 24) ∧ q
    = s2.qp k ∧ q.outstanding ≠ [] ∧ q.rnrRetry = 7) ∧ (∃ (e : Env) (k : Nat) (psn : Nat) (s : State) (s1 : State) (s2 : State) (q : Qp), s1 = s.enter
    e ∧ (s1.qp k).state = .rts ∧ s2 = s1.acked k ((psn + 2 ^ 24 - 1) % 2 ^ 24) ∧ q = s2.qp k ∧ q.outstanding ≠ [] ∧ q.rnrRetry ≠ 7 ∧ q.rnrLeft = 0) ∧
    (∃ (e : Env) (k : Nat) (psn : Nat) (s : State) (s1 : State) (s2 : State) (q : Qp), s1 = s.enter e ∧ (s1.qp k).state = .rts ∧ s2 = s1.acked k ((psn
    + 2 ^ 24 - 1) % 2 ^ 24) ∧ q = s2.qp k ∧ q.outstanding ≠ [] ∧ q.rnrRetry ≠ 7 ∧ q.rnrLeft ≠ 0) := ⟨⟨e0, 32767, (net qp1), _, rfl,
    by decide +kernel⟩, ⟨e0, 32767, { net { qp1 with outstanding := [out1], retriesLeft := 0 } with time := 8192 }, _, _, rfl, rfl, by decide +kernel,
    by decide +kernel, by decide +kernel, by decide +kernel, by decide +kernel⟩, ⟨e0, 32767,
    { net { qp1 with outstanding := [out1], retriesLeft := 1 } with time := 8192 }, _, _, rfl, rfl, by decide +kernel, by decide +kernel,
    by decide +kernel, by decide +kernel, by decide +kernel⟩, ⟨e0, 32767, 5, (net { qp1 with outstanding := [out1], rnrRetry := 7 }), _, _, _, rfl,
    by decide +kernel, rfl, rfl, by decide +kernel, by decide +kernel⟩, ⟨e0, 32767, 5, (net { qp1 with outstanding := [out1], rnrRetry := 1 }), _, _,
    _, rfl, by decide +kernel, rfl, rfl, by decide +kernel, by decide +kernel, by decide +kernel⟩, ⟨e0, 32767, 5, (net
    { qp1 with outstanding := [out1], rnrRetry := 1, rnrLeft := 1 }), _, _, _, rfl, by decide +kernel, rfl, rfl, by decide +kernel, by decide +kernel,
    by decide +kernel⟩⟩
theorem witness_AcknowledgesRetriesAndRates_2 : (∃ (e : Env) (k : Nat) (s : State) (s1 : State) (q : Qp) (q' : Qp), s1 = s.enter e ∧ q = s1.qp k ∧
    q.state = .rts ∧ (∀ t, q.cutAt = some t → t + 50000 ≤ s1.time) ∧ q' =
    { q with cnpSeen := some s1.time, rate := q.rate - q.rate / 2 ^ s1.get F.NET_CC_CFG_DEC_LOG2, cutAt := some s1.time }) ∧ (∃ (e : Env) (k : Nat) (s
    : State) (s1 : State) (q : Qp) (t : _), s1 = s.enter e ∧ q = s1.qp k ∧ q.state = .rts ∧ q.cutAt = some t ∧ s1.time < t + 50000) ∧ (∃ (e : Env) (k
    : Nat) (s : State) (s1 : State) (q : Qp) (q' : Qp), s1 = s.enter e ∧ q = s1.qp k ∧ q.state = .rts ∧ max q.raisedAt (q.cnpSeen.getD 0) + 55000 ≤
    s1.time ∧ q' =
    { q with rate := min (modeRate (s1.get F.NET_PORT_CFG_MODE q.port)) (q.rate + max 1 (s1.get F.NET_CC_CFG_AI_MBS)), raisedAt := s1.time }) ∧ (∃ (e
    : Env) (k : Nat) (s : State) (s1 : State) (q : Qp), s1 = s.enter e ∧ q = s1.qp k ∧ q.state = .rts ∧ q.unacked ≠ 0 ∧ q.oldestUnacked + 2000 ≤
    s1.time) := ⟨⟨e0, 32767, { net { qp1 with cutAt := some 0 } with time := 50000 }, _, _, _, rfl, rfl, by decide +kernel,
    by intro t ht; cases ht; decide +kernel, rfl⟩, ⟨e0, 32767, { net { qp1 with cutAt := some 0 } with time := 49999 }, _, _, 0, rfl, rfl,
    by decide +kernel, by decide +kernel, by decide +kernel⟩, ⟨e0, 32767, { net qp1 with time := 55000 }, _, _, _, rfl, rfl, by decide +kernel,
    by decide +kernel, rfl⟩, ⟨e0, 32767, { net { qp1 with unacked := 1 } with time := 2000 }, _, _, rfl, rfl, by decide +kernel, by decide +kernel,
    by decide +kernel⟩⟩
theorem witness_EgressQueuesShapersAndMeters : (∃ (e : Env) (port : Nat) (k : Nat) (s : State) (s1 : State) (s2 : State) (f : Frame) (rest : List
    Frame), s1 = s.enter e ∧ s1.portUp port = true ∧ s1.pickQueue port = (some k, s2) ∧ (s2.txq port k).frames = f :: rest) ∧ (∃ (e : Env) (port :
    Nat) (s : State) (s1 : State) (p : TxPort), s1 = s.enter e ∧ port ≤ 18 ∧ p =
    { s1.txport port with interval := max 1 (s1.get F.TRAFFIC_PORT_CFG_INTERVAL port), overhead := s1.get F.TRAFFIC_PORT_CFG_OVERHEAD port }) ∧ (∃ (e
    : Env) (s : State) (s1 : State), s1 = s.enter e) ∧ (∃ (e : Env) (p : Nat) (s : State) (s1 : State), s1 = s.enter e ∧ p < 128) ∧ (∃ (e : Env) (port
    : Nat) (prio : Nat) (paused : Bool) (s : State) (s1 : State), s1 = s.enter e ∧ port < 16 ∧ prio < 8 ∧ (paused = true → bit (s1.get
    F.NET_PORT_CFG_PFC_EN (port / 4)) prio = true)) ∧ (∃ (e : Env) (p : Nat) (s : State) (s1 : State), s1 = s.enter e ∧ p < 128) := ⟨⟨e0, 18, _,
    { store with txqs := [(18 * 64, { frames := [{ len := 64 }], credit := 64 })] }, _, _, _, _, rfl, by decide +kernel, rfl, rfl⟩, ⟨e0, 18, store, _,
    _, rfl, by decide +kernel, rfl⟩, ⟨e0, store, _, rfl⟩, ⟨e0, 127, store, _, rfl, by decide +kernel⟩, ⟨e0, 15, 7, true, (store.put
    F.NET_PORT_CFG_PFC_EN 128 3), _, rfl, by decide +kernel, by decide +kernel, by decide +kernel⟩, ⟨e0, 127, store, _, rfl, by decide +kernel⟩⟩
theorem witness_FlashUnitsProgramEraseAndRead : (∃ (e : Env) (pa : Nat) (s : State) (s1 : State) (s2 : State) (m : Mu), s1 = s.enter e ∧
    s1.flash.mus.get? pa = some m ∧ m.issued = true ∧ m.done = false ∧ s2 =
    ({ s1 with flash := { s1.flash with mus := s1.flash.mus.set pa { m with done := true } } }).issueNand) ∧ (∃ (e : Env) (pa : Nat) (s : State) (s1 :
    State) (m : Mu), s1 = s.enter e ∧ s1.flash.mus.get? pa = some m ∧ m.issued = true ∧ m.done = false) ∧ (∃ (e : Env) (key : Nat) (s : State) (s1 :
    State) (s2 : State), s1 = s.enter e ∧ s1.flash.erasing.contains (key, true) = true ∧ s2 =
    { s1 with flash := { s1.flash with erasing := s1.flash.erasing.filter (fun x => x.1 != key) } }) ∧ (∃ (e : Env) (key : Nat) (s : State) (s1 :
    State) (s2 : State) (s3 : _), s1 = s.enter e ∧ s1.flash.erasing.contains (key, true) = true ∧ s2 =
    { s1 with flash := { s1.flash with erasing := s1.flash.erasing.filter (fun x => x.1 != key) } } ∧ s3 = s2.setBlock key
    { eraseCount := min 65535 ((s1.block key).eraseCount + 1) }) ∧ (∃ (e : Env) (pa : Nat) (lat : Nat) (s : State) (s1 : State) (s2 : State) (m : Mu),
    s1 = s.enter e ∧ s1.flash.mus.get? pa = some m ∧ m.done = true ∧ s2 = s1.setDie (paDie pa)
    { s1.die (paDie pa) with lats := (lat :: (s1.die (paDie pa)).lats).take 256 }) ∧ (∃ (e : Env) (pa : Nat) (age : Nat) (s : State) (s1 : State) (s2
    : State) (d : Die) (times : List Nat), s1 = s.enter e ∧ (s1.flash.mus.get? pa).isSome = true ∧ s1.flashReadable = true ∧ d = s1.die (paDie pa) ∧
    s1.get F.FLASH_READ_CFG_SLOW_MULT * d.median ≤ age ∧ times = s1.time :: d.slowTimes.filter (fun t => decide (t + 1000000000 > s1.time)) ∧ s2 =
    (s1.setDie (paDie pa) { d with slowTimes := times, slowAt := s1.time, slowCount := min 65535 (d.slowCount + 1) }).health (fun h =>
    { h with slowReads := h.slowReads + 1 })) := ⟨⟨e0, 3, (nand { flash1 with mus := [(3, { issued := true })] }), _, _, _, rfl, rfl,
    by decide +kernel, by decide +kernel, rfl⟩, ⟨e0, 3, (nand { flash1 with mus := [(3, { issued := true })] }), _, _, rfl, rfl, by decide +kernel,
    by decide +kernel⟩, ⟨e0, 3, (nand { flash1 with erasing := [(3, true)] }), _, _, rfl, by decide +kernel, rfl⟩, ⟨e0, 3, (nand
    { flash1 with erasing := [(3, true)] }), _, _, _, rfl, by decide +kernel, rfl, rfl⟩, ⟨e0, 3, 0, (nand
    { flash1 with mus := [(3, { issued := true, done := true })] }), _, _, _, rfl, rfl, by decide +kernel, rfl⟩, ⟨e0, 3, 0, (nand
    { flash1 with mus := [(3, { issued := true, done := true })] }), _, _, _, _, rfl, by decide +kernel, by decide +kernel, rfl, by decide +kernel,
    rfl, rfl⟩⟩
theorem witness_FlashCommitsFoldsAndCollects_1 : (∃ (e : Env) (gid : Nat) (s : State) (s1 : State) (s2 : State) (g : Group), s1 = s.enter e ∧
    s1.flash.groups.get? gid = some g ∧ s1.flashReadable = true ∧ s1.on F.FLASH_STATUS_PF = false ∧ s1.anyCluster = true ∧ g.pend = [] ∧ (∀ pa ∈
    g.mus, (s1.flash.mus.getD pa {}).done = true ∧ s1.rowReady pa = true) ∧ (s1.flashState = 3 → s1.journalFull = false) ∧ s1.writeJournal (journalMus
    gid g.recs) = some s2) ∧ (∃ (e : Env) (s : State) (s1 : State) (s2 : State) (free : Nat) (closed : Table Band), s1 = s.enter e ∧ free =
    s1.flash.slcTotal - s1.bandsInUse true ∧ s2 =
    { s1 with flash := { s1.flash with folding := decide (free * 64 < (if s1.flash.folding = true then 2 * s1.get F.FLASH_GC_CFG_FOLD else s1.get F.FLASH_GC_CFG_FOLD) * s1.flash.slcTotal) && s1.flashBusyOk } }
    ∧ closed = s2.flash.bands.filter (fun x => x.2.slc && x.2.kind == 0 && !x.2.isOpen && s2.validIn x.2 != []) ∧ s2.flash.folding = false) ∧ (∃ (e :
    Env) (s : State) (s1 : State) (s2 : State) (free : Nat) (closed : Table Band) (k : _) (b : _), s1 = s.enter e ∧ free = s1.flash.slcTotal -
    s1.bandsInUse true ∧ s2 =
    { s1 with flash := { s1.flash with folding := decide (free * 64 < (if s1.flash.folding = true then 2 * s1.get F.FLASH_GC_CFG_FOLD else s1.get F.FLASH_GC_CFG_FOLD) * s1.flash.slcTotal) && s1.flashBusyOk } }
    ∧ closed = s2.flash.bands.filter (fun x => x.2.slc && x.2.kind == 0 && !x.2.isOpen && s2.validIn x.2 != []) ∧ s2.flash.folding = true ∧
    (closed.mergeSort (fun x y => x.2.born ≤ y.2.born)).head? = some (k, b)) ∧ (∃ (e : Env) (s : State) (s1 : State) (s2 : State) (free : Nat) (closed
    : Table Band), s1 = s.enter e ∧ free = s1.flash.slcTotal - s1.bandsInUse true ∧ s2 =
    { s1 with flash := { s1.flash with folding := decide (free * 64 < (if s1.flash.folding = true then 2 * s1.get F.FLASH_GC_CFG_FOLD else s1.get F.FLASH_GC_CFG_FOLD) * s1.flash.slcTotal) && s1.flashBusyOk } }
    ∧ closed = s2.flash.bands.filter (fun x => x.2.slc && x.2.kind == 0 && !x.2.isOpen && s2.validIn x.2 != []) ∧ s2.flash.folding = true ∧ closed =
    []) ∧ (∃ (e : Env) (s : State) (s1 : State) (s2 : State) (free : Nat) (closed : Table Band) (k : _) (b : _), s1 = s.enter e ∧ free =
    s1.flash.natTotal - s1.bandsInUse false ∧ s2 =
    { s1 with flash := { s1.flash with collecting := decide (free * 1024 < (if s1.flash.collecting = true then s1.get F.FLASH_GC_CFG_HIGH else s1.get F.FLASH_GC_CFG_LOW) * s1.flash.natTotal) && s1.flashBusyOk } }
    ∧ closed = s2.flash.bands.filter (fun x => !x.2.slc && x.2.kind == 0 && !x.2.isOpen) ∧ closed.find? (fun x => s2.urgent x.2) = some (k, b) ∧
    s2.flashBusyOk = true) ∧ (∃ (e : Env) (s : State) (s1 : State) (s2 : State) (free : Nat) (closed : Table Band) (k : _) (b : _), s1 = s.enter e ∧
    free = s1.flash.natTotal - s1.bandsInUse false ∧ s2 =
    { s1 with flash := { s1.flash with collecting := decide (free * 1024 < (if s1.flash.collecting = true then s1.get F.FLASH_GC_CFG_HIGH else s1.get F.FLASH_GC_CFG_LOW) * s1.flash.natTotal) && s1.flashBusyOk } }
    ∧ closed = s2.flash.bands.filter (fun x => !x.2.slc && x.2.kind == 0 && !x.2.isOpen) ∧ closed.find? (fun x => s2.urgent x.2) = none ∧
    s2.flash.collecting = true ∧ s2.flashBusyOk = true ∧ (closed.mergeSort (fun x y => (s2.validIn x.2).length ≤ (s2.validIn y.2).length)).head? =
    some (k, b)) := ⟨⟨e0, 3, (nand readyGroup), _, _, _, rfl, rfl, by decide +kernel, by decide +kernel, by decide +kernel, by decide +kernel,
    by decide +kernel, by decide +kernel, rfl⟩, ⟨e0, (nand flash1), _, _, _, _, rfl, rfl, rfl, rfl, by decide +kernel⟩, ⟨e0,
    { nand { flash1 with bands := [(0, slcBand)] } with leaves := [(1, { flashQuarters := [0] })] }, _, _, _, _, 0, slcBand, rfl, rfl, rfl, rfl,
    by decide +kernel, oldest_band _ _⟩, ⟨e0, (nand { flash1 with bands := [(0, { slcBand with isOpen := true })] }), _, _, _, _, rfl, rfl, rfl, rfl,
    by decide +kernel, by decide +kernel⟩, ⟨e0, (nand { flash1 with bands := [(0, natBand)], blocks := [(0, { relocate := true })] }), _, _, _, _, 0,
    natBand, rfl, rfl, rfl, rfl, by decide +kernel, by decide +kernel⟩, ⟨e0, (nand
    { flash1 with bands := [(0, natBand)], blocks := (List.range 32).map (fun k => (k, {})) }), _, _, _, _, 0, natBand, rfl, rfl, rfl, rfl,
    by decide +kernel, by decide +kernel, by decide +kernel, oldest_band _ _⟩⟩
theorem witness_FlashCommitsFoldsAndCollects_2 : (∃ (e : Env) (s : State) (s1 : State) (s2 : State) (free : Nat) (closed : Table Band), s1 = s.enter e
    ∧ free = s1.flash.natTotal - s1.bandsInUse false ∧ s2 =
    { s1 with flash := { s1.flash with collecting := decide (free * 1024 < (if s1.flash.collecting = true then s1.get F.FLASH_GC_CFG_HIGH else s1.get F.FLASH_GC_CFG_LOW) * s1.flash.natTotal) && s1.flashBusyOk } }
    ∧ closed = s2.flash.bands.filter (fun x => !x.2.slc && x.2.kind == 0 && !x.2.isOpen) ∧ closed.find? (fun x => s2.urgent x.2) = none ∧
    s2.flash.collecting = false) ∧ (∃ (e : Env) (s : State) (s1 : State), s1 = s.enter e ∧ s1.flashBusyOk = true ∧ s1.flash.ckptSeq + 16 * max 1
    (s1.get F.FLASH_CKPT_CFG_MUS) ≤ s1.flash.journalSeq) ∧ (∃ (e : Env) (s : State) (s1 : State), s1 = s.enter e) := ⟨⟨e0, (nand flash1), _, _, _, _,
    rfl, rfl, rfl, rfl, by decide +kernel, by decide +kernel⟩, ⟨e0, (nand { flash1 with journalSeq := 1048576 }), _, rfl, by decide +kernel,
    by decide +kernel⟩, ⟨e0, up, _, rfl⟩⟩
theorem witness_FlashCommitsFoldsAndCollects_3 : ∃ (e : Env) (rid : Nat) (s : State) (s1 : State) (s2 : State) (s3 : State) (r : Req) (b : Bytes) (t :
    Slots Bytes), s1 = s.enter e ∧ s1.startedLoad? rid 3 = some r ∧ r.part = 0 ∧ (s1.flash.profiles.other.loaded = true → s1.profileUsers
    s1.flash.profiles.other.epoch = 0) ∧ s1.bundleRead r = .ok b ∧ s1.profileOk b = true ∧ t = (s1.flash.profiles.load b).switch ∧ ((s1.flashState = 1
    ∧ s2 = (s1.format b).parts.keys.foldl (fun (s : State) p => s.writeAnchor p) (s1.format b)) ∨ ((s1.flashState = 2 ∨ s1.flashState = 3) ∧ s2 = s1))
    ∧ s3 = ({ s2 with flash := { s2.flash with profiles := t } }).put F.FLASH_STATUS_PROFILE_EPOCH t.epoch.toNat := ⟨e0, 5,
    { nand flash1 with reqs := [(5, rq [(0, 0x60), (16, 0x1000), (24, 2304), (28, 3)])], mem := Memory.writeBytes [] 0x1000 profile1 }, _, _, _, _, _,
    _, rfl, rfl, by decide +kernel, by decide +kernel, rfl, by decide +kernel, rfl, Or.inr ⟨Or.inl (by decide +kernel), rfl⟩, rfl⟩
theorem witness_FlashDiesPowerFailAndMount_1 : (∃ (e : Env) (n : Nat) (s : State) (s1 : State), s1 = s.enter e ∧ s1.dieState n = 2 ∧ (s1.die n).slowAt
    + 60000000000 ≤ s1.time) ∧ (∃ (e : Env) (n : Nat) (s : State) (s1 : State), s1 = s.enter e ∧ (s1.dieState n = 1 ∨ s1.dieState n = 2)) ∧ (∃ (e :
    Env) (n : Nat) (s : State) (s1 : State), s1 = s.enter e ∧ s1.dieState n ≠ 0 ∧ s1.time < s1.flash.tempAt + 60000000000) ∧ (∃ (e : Env) (n : Nat) (s
    : State) (s1 : State), s1 = s.enter e ∧ s1.dieState n ≠ 0 ∧ s1.flash.tempAt + 60000000000 ≤ s1.time) ∧ (∃ (e : Env) (s : State) (s1 : State) (s2 :
    State), s1 = s.enter e ∧ s1.on F.FLASH_STATUS_PF = false ∧ s2 = (s1.put F.FLASH_STATUS_PF 1).health (fun h =>
    { h with powerFails := h.powerFails + 1 })) ∧ (∃ (e : Env) (s : State) (s1 : State) (s2 : State), s1 = s.enter e ∧ s1.on F.FLASH_STATUS_PF = true
    ∧ s2 = (s1.put F.FLASH_STATUS_PF 0).put F.FLASH_STATUS_SAFE 0) := ⟨⟨e0, 1023,
    { store.put F.FLASH_DIE_STATUS_STATE 2 1023 with time := 60000000000 }, _, rfl, by decide +kernel, by decide +kernel⟩, ⟨e0, 1023, (store.put
    F.FLASH_DIE_STATUS_STATE 1 1023), _, rfl, by decide +kernel⟩, ⟨e0, 1023, { store.put F.FLASH_DIE_STATUS_STATE 1 1023 with time := 59999999999 },
    _, rfl, by decide +kernel, by decide +kernel⟩, ⟨e0, 1023, { store.put F.FLASH_DIE_STATUS_STATE 1 1023 with time := 60000000000 }, _, rfl,
    by decide +kernel, by decide +kernel⟩, ⟨e0, store, _, _, rfl, by decide +kernel, rfl⟩, ⟨e0, (store.put F.FLASH_STATUS_PF 1), _, _, rfl,
    by decide +kernel, rfl⟩⟩
theorem witness_FlashDiesPowerFailAndMount_2 : (∃ (e : Env) (s : State) (s1 : State), s1 = s.enter e ∧ s1.phase = 3 ∧ s1.flash.formatted = true ∧
    s1.diesPerCh ≠ 0 ∧ s1.flashState = 0) ∧ (∃ (e : Env) (s : State) (s1 : State) (s2 : State) (s3 : State) (h : Health) (f : Flash), s1 = s.enter e ∧
    s1.phase = 3 ∧ s1.flash.formatted = true ∧ s1.diesPerCh ≠ 0 ∧ s1.flashState = 0 ∧ h = (if s1.flash.shutdownRec = true then s1.flash.saved else
    { s1.flash.saved with uncleanMounts := s1.flash.saved.uncleanMounts + 1 }) ∧ f =
    { s1.flash with saved := h, mountAt := s1.time, mediaHours := s1.flash.mediaHours + s1.get F.FLASH_MOUNT_CFG_OFF_HOURS } ∧ s2 =
    { s1 with flash := f.remounted } ∧ s3 = ((((s2.put F.FLASH_STATUS_STATE 4).put F.FLASH_STATUS_SAFE (s2.get F.FLASH_STATUS_PF)).put
    F.FLASH_STATUS_UNCLEAN (b2n (!s1.flash.shutdownRec))).put F.GLB_MOUNT_TIME_UNCLEAN (b2n (!s1.flash.shutdownRec))).put F.FLASH_STATUS_PROFILE_EPOCH
    f.profiles.epoch.toNat) := ⟨⟨e0, mountable, _, rfl, by decide +kernel, by decide +kernel, by decide +kernel, by decide +kernel⟩, ⟨e0, mountable,
    _, _, _, _, _, rfl, by decide +kernel, by decide +kernel, by decide +kernel, by decide +kernel, rfl, rfl, rfl, rfl⟩⟩
theorem witness_FlashDiesPowerFailAndMount_3 : ∃ (e : Env) (s : State) (s1 : State) (s2 : State), s1 = s.enter e ∧ s1.phase = 3 ∧
    (((s1.flash.formatted = false ∨ s1.diesPerCh = 0) ∧ s2 = (s1.put F.GLB_BOOT_STATUS_PHASE 4).put F.PART_STATE_STATE 1) ∨ (s1.flash.formatted = true
    ∧ s1.diesPerCh ≠ 0 ∧ s1.flashState = 4 ∧ ∃ s4, s4 = (((s1.put F.FLASH_STATUS_STATE (if s1.flash.readOnly = true then 3 else 2)).put
    F.GLB_MOUNT_TIME_MS (min (2 ^ 24 - 1) ((s1.time - s1.flash.mountAt) / 1000000))).put F.GLB_BOOT_STATUS_PHASE 4).put F.PART_STATE_STATE 1 ∧ s2 =
    s4.sec.anchor.keys.foldl (fun (s : State) p => s.markRestored p) s4)) := ⟨e0, (State.reset.put F.GLB_BOOT_STATUS_PHASE 3), _, _, rfl,
    by decide +kernel, Or.inl ⟨Or.inl rfl, rfl⟩⟩
theorem witness_NumberedFramesTakeEffectInOrder_1 : (∃ (e : Env) (h : RingHdr) (body : List Nat) (kind : Nat) (s : State) (s1 : State) (c : Instr),
    (kind, c) ∈ [(0, Instr.request e h body), (1, .response e h body), (2, .data e h body), (8, .index e h body)] ∧ s1 = s.enter e ∧ 2 ≤ s1.get
    F.RING_STATUS_STATE ∧ s1.ring.gotMembers = true ∧ h.src < 16 ∧ (kind = 0 → s1.on F.RAS_STATUS_FATAL = false) ∧ h.bad = true) ∧ (∃ (e : Env) (h :
    RingHdr) (body : List Nat) (kind : Nat) (s : State) (s1 : State) (s2 : State) (p : Peer) (c : Instr), (kind, c) ∈ [(0, Instr.request e h body),
    (1, .response e h body), (2, .data e h body), (8, .index e h body)] ∧ s1 = s.enter e ∧ 2 ≤ s1.get F.RING_STATUS_STATE ∧ s1.ring.gotMembers = true
    ∧ h.src < 16 ∧ (kind = 0 → s1.on F.RAS_STATUS_FATAL = false) ∧ h.bad = false ∧ s1.frameIn h = some s2 ∧ p =
    { (s2.ring.peers.getD h.src {}) with ackDue := true } ∧ h.seq = (p.rxSeq + 1) % 2 ^ 32) ∧ (∃ (e : Env) (h : RingHdr) (body : List Nat) (kind :
    Nat) (s : State) (s1 : State) (s2 : State) (p : Peer) (c : Instr), (kind, c) ∈ [(0, Instr.request e h body), (1, .response e h body), (2, .data e
    h body), (8, .index e h body)] ∧ s1 = s.enter e ∧ 2 ≤ s1.get F.RING_STATUS_STATE ∧ s1.ring.gotMembers = true ∧ h.src < 16 ∧ (kind = 0 → s1.on
    F.RAS_STATUS_FATAL = false) ∧ h.bad = false ∧ s1.frameIn h = some s2 ∧ p = { (s2.ring.peers.getD h.src {}) with ackDue := true } ∧ h.seq ≠
    (p.rxSeq + 1) % 2 ^ 32 ∧ seqLe h.seq p.rxSeq = true) ∧ (∃ (e : Env) (h : RingHdr) (body : List Nat) (kind : Nat) (s : State) (s1 : State) (s2 :
    State) (p : Peer) (c : Instr) (k : Kept), (kind, c) ∈ [(0, Instr.request e h body), (1, .response e h body), (2, .data e h body), (8, .index e h
    body)] ∧ s1 = s.enter e ∧ 2 ≤ s1.get F.RING_STATUS_STATE ∧ s1.ring.gotMembers = true ∧ h.src < 16 ∧ (kind = 0 → s1.on F.RAS_STATUS_FATAL = false)
    ∧ h.bad = false ∧ s1.frameIn h = some s2 ∧ p = { (s2.ring.peers.getD h.src {}) with ackDue := true } ∧ h.seq ≠ (p.rxSeq + 1) % 2 ^ 32 ∧ seqLe
    h.seq p.rxSeq = false ∧ (∀ k ∈ p.early, k.seq ≠ h.seq) ∧ k = { seq := h.seq, kind := kind, num := h.num, part := h.part, body := body }) ∧ (∃ (e :
    Env) (h : RingHdr) (s : State) (s1 : State), s1 = s.enter e ∧ h.bad = true) ∧ (∃ (e : Env) (h : RingHdr) (s : State) (s1 : State), s1 = s.enter e
    ∧ h.bad = false) := ⟨⟨e0, { src := 15, bad := true }, [], 0, (member 2 ringOn), _, (Instr.request e0 { src := 15, bad := true } []),
    List.mem_cons_self, rfl, by decide +kernel, by decide +kernel, by decide +kernel, by decide +kernel, by decide +kernel⟩, ⟨e0,
    { src := 15, seq := 1 }, [], 0, (member 2 ringOn), _, _, _, (Instr.request e0 { src := 15, seq := 1 } []), List.mem_cons_self, rfl,
    by decide +kernel, by decide +kernel, by decide +kernel, by decide +kernel, by decide +kernel, rfl, rfl, by decide +kernel⟩, ⟨e0,
    { src := 15, seq := 0 }, [], 0, (member 2 ringOn), _, _, _, (Instr.request e0 { src := 15, seq := 0 } []), List.mem_cons_self, rfl,
    by decide +kernel, by decide +kernel, by decide +kernel, by decide +kernel, by decide +kernel, rfl, rfl, by decide +kernel, by decide +kernel⟩,
    ⟨e0, { src := 15, seq := 3 }, [], 0, (member 2 ringOn), _, _, _, (Instr.request e0 { src := 15, seq := 3 } []), _, List.mem_cons_self, rfl,
    by decide +kernel, by decide +kernel, by decide +kernel, by decide +kernel, by decide +kernel, rfl, rfl, by decide +kernel, by decide +kernel,
    by decide +kernel, rfl⟩, ⟨e0, { bad := true }, (member 2 ringOn), _, rfl, by decide +kernel⟩, ⟨e0, {}, (member 2 ringOn), _, rfl,
    by decide +kernel⟩⟩
theorem witness_NumberedFramesTakeEffectInOrder_2 : (∃ (e : Env) (src : Nat) (s : State) (s1 : State) (s2 : State) (p : Peer), s1 = s.enter e ∧ p =
    s1.ring.peers.getD src {} ∧ p.ackDue = true ∧ s2 = { s1 with ring := { s1.ring with peers := s1.ring.peers.set src { p with ackDue := false } } })
    ∧ (∃ (e : Env) (dst : Nat) (s : State) (s1 : State) (p : Peer) (k : Kept), s1 = s.enter e ∧ 2 ≤ s1.get F.RING_STATUS_STATE ∧ p =
    s1.ring.peers.getD dst {} ∧ p.kept = [k] ∧ k.sentAt + max 1 (s1.get F.RING_CFG_RETX_US) * 1000 ≤ s1.time ∧ 16 ≤ k.tries) ∧ (∃ (e : Env) (dst :
    Nat) (s : State) (s1 : State) (p : Peer) (k : Kept), s1 = s.enter e ∧ 2 ≤ s1.get F.RING_STATUS_STATE ∧ p = s1.ring.peers.getD dst {} ∧ p.kept =
    [k] ∧ k.sentAt + max 1 (s1.get F.RING_CFG_RETX_US) * 1000 ≤ s1.time ∧ k.tries < 16) ∧ (∃ (e : Env) (dst : Nat) (hops : Nat) (s : State) (s1 :
    State), s1 = s.enter e ∧ 2 ≤ s1.get F.RING_STATUS_STATE ∧ dst ≠ s1.myPos ∧ 15 ≤ hops + 1) ∧ (∃ (e : Env) (fromEast : Bool) (dst : Nat) (hops :
    Nat) (s : State) (s1 : State) (s2 : State) (port : Nat), s1 = s.enter e ∧ 2 ≤ s1.get F.RING_STATUS_STATE ∧ dst ≠ s1.myPos ∧ hops + 1 < 15 ∧ s1.on
    (if fromEast = true then F.RING_STATUS_WEST_UP else F.RING_STATUS_EAST_UP) = true ∧ port = (if fromEast = true then 17 else 16) ∧ s2 = s1.bump
    F.RING_FWD_FRAMES_COUNT) := ⟨⟨e0, 15, (member 2 { ringOn with peers := [(15, { ackDue := true })] }), _, _, _, rfl, rfl, by decide +kernel, rfl⟩,
    ⟨e0, 2, { member 2 (owing 16) with time := 1000000000 }, _, _, _, rfl, by decide +kernel, rfl, rfl, by decide +kernel, by decide +kernel⟩, ⟨e0, 2,
    { member 2 (owing 15) with time := 1000000000 }, _, _, _, rfl, by decide +kernel, rfl, rfl, by decide +kernel, by decide +kernel⟩, ⟨e0, 2, 14,
    (member 2 ringOn), _, rfl, by decide +kernel, by decide +kernel, by decide +kernel⟩, ⟨e0, true, 2, 13, ((member 2 ringOn).put
    F.RING_STATUS_WEST_UP 1), _, _, _, rfl, by decide +kernel, by decide +kernel, by decide +kernel, by decide +kernel, rfl, rfl⟩⟩
theorem witness_RingMembersJoinAndLeave_1 : (∃ (e : Env) (s : State) (s1 : State), s1 = (s.enter e).put F.RING_CFG_ENABLE 1 ∧ s1.get
    F.RING_STATUS_STATE = 0) ∧ (∃ (e : Env) (s : State) (s1 : State), s1 = (s.enter e).put F.RING_CFG_ENABLE 1 ∧ s1.get F.RING_STATUS_STATE ≠ 0) ∧ (∃
    (e : Env) (east : Bool) (west : Bool) (s : State) (s1 : State), s1 = s.enter e ∧ s1.get F.RING_STATUS_STATE = 1 ∧ s1.ring.joinPin = false ∧ s1.on
    F.RING_CFG_ENABLE = true ∧ ((east = true ∧ s1.pdOn 88 = true) ∨ (west = true ∧ s1.pdOn 89 = true))) ∧ (∃ (e : Env) (s : State) (s1 : State), s1 =
    s.enter e) ∧ (∃ (e : Env) (east : Bool) (s : State) (s1 : State) (s2 : State), s1 = s.enter e ∧ s1.ring.joinPin = true ∧ s1.dieWorks (b2n east) =
    true ∧ s1.pdOn (if east = true then 88 else 89) = true ∧ s2 = s1.put (if east = true then F.RING_STATUS_EAST_UP else F.RING_STATUS_WEST_UP) 1 ∧
    s2.get F.RING_STATUS_STATE = 1) ∧ (∃ (e : Env) (east : Bool) (s : State) (s1 : State) (s2 : State), s1 = s.enter e ∧ s2 = s1.put (if east = true
    then F.RING_STATUS_EAST_UP else F.RING_STATUS_WEST_UP) 0 ∧ s2.ring.joinPin = true ∧ 2 ≤ s2.get F.RING_STATUS_STATE ∧ s2.on F.RING_STATUS_EAST_UP =
    false ∧ s2.on F.RING_STATUS_WEST_UP = false) := ⟨⟨e0, store, _, rfl, by decide +kernel⟩, ⟨e0, (member 2 ringOn), _, rfl, by decide +kernel⟩, ⟨e0,
    false, true, { (store.put F.RING_STATUS_STATE 1).put F.RING_CFG_ENABLE 1 with pds := [(89, { state := 2 })] }, _, rfl, by decide +kernel,
    by decide +kernel, by decide +kernel, by decide +kernel⟩, ⟨e0, up, _, rfl⟩, ⟨e0, false,
    { store.put F.RING_STATUS_STATE 1 with pds := [(89, { state := 2 })], ring := { joinPin := true } }, _, _, rfl, by decide +kernel,
    by decide +kernel, by decide +kernel, rfl, by decide +kernel⟩, ⟨e0, true, ((member 2 ringOn).put F.RING_STATUS_EAST_UP 1), _, _, rfl, rfl,
    by decide +kernel, by decide +kernel, by decide +kernel, by decide +kernel⟩⟩
theorem witness_RingMembersJoinAndLeave_2 : (∃ (e : Env) (t : Nat) (s : State) (s1 : State), s1 = s.enter e ∧ s1.ring.joinAt = some t ∧ s1.get
    F.RING_STATUS_STATE = 1 ∧ s1.ring.joinPin = true ∧ t + 20000000 ≤ s1.time) ∧ (∃ (e : Env) (t : Nat) (s : State) (s1 : State), s1 = s.enter e ∧
    s1.ring.joinAt = some t ∧ s1.get F.RING_STATUS_STATE = 1 ∧ s1.ring.joinPin = false ∧ t + 1000000000 ≤ s1.time) ∧ (∃ (e : Env) (h : RingHdr)
    (serial : Nat) (rank : Nat) (east : Nat) (p : Nat) (inc : Nat) (fresh : Bool) (s : State) (s1 : State) (s2 : State) (s3 : State) (s4 : State), s1
    = s.enter e ∧ h.bad = false ∧ s1.isMaster = true ∧ s1.positionFor serial east = some p ∧ p ≠ s1.myPos ∧ s2 = (if s1.posPresent p = true then
    s1.memberLost p else s1) ∧ inc = s2.get F.RING_MEMBER_INCARNATION p + (if (s1.on F.RING_MEMBER_ASSIGNED p && fresh) = true then 1 else 0) ∧ s3 =
    (s2.setMember p serial rank true (inc % 2 ^ 16)).countMembers ∧ s4 = (((if (s1.on F.RING_MEMBER_ASSIGNED p && fresh) = true then
    ({ s3 with ring := { s3.ring with peers := s3.ring.peers.set p {} } }.castMembers 0 (p + 1)).raise gRing 0 else
    { s3 with ring := { s3.ring with peers := s3.ring.peers.set p {} } }.castMembers 0 (p + 1))).raise gRing 1)) ∧ (∃ (e : Env) (h : RingHdr) (rest :
    List Nat) (mine : List Nat) (s : State) (s1 : State) (s2 : State), s1 = s.enter e ∧ h.bad = false ∧ 2 ≤ s1.get F.RING_STATUS_STATE ∧ s1.isMaster =
    false ∧ (runsOf 5 rest.length rest).find? (fun w => w.getD 1 0 == Config.serial) = some mine ∧ s2 = s1.takeRows (runsOf 5 rest.length rest)) ∧ (∃
    (e : Env) (s : State) (s1 : State), s1 = s.enter e ∧ (s1.get F.RING_STATUS_STATE = 1 ∨ s1.get F.RING_STATUS_STATE = 2)) ∧ (∃ (e : Env) (s : State)
    (s1 : State), s1 = s.enter e ∧ s1.get F.RING_STATUS_STATE = 3 ∧ s1.ring.leaving = false ∧ s1.presentMembers.all (· == s1.myPos) = false) := ⟨⟨e0,
    0, { store.put F.RING_STATUS_STATE 1 with time := 20000000, ring := { joinPin := true, joinAt := some 0 } }, _, rfl, by decide +kernel,
    by decide +kernel, by decide +kernel, by decide +kernel⟩, ⟨e0, 0,
    { store.put F.RING_STATUS_STATE 1 with time := 1000000000, ring := { joinAt := some 0 } }, _, rfl, by decide +kernel, by decide +kernel,
    by decide +kernel, by decide +kernel⟩, ⟨e0, {}, 7, 0, 0, _, _, true, (member 1 ringOn), _, _, _, _, rfl, by decide +kernel, by decide +kernel,
    rfl, by decide +kernel, rfl, rfl, rfl, rfl⟩, ⟨e0, {}, [1, Config.serial, 0, 1, 0], [1, Config.serial, 0, 1, 0], (member 2 ringOn), _, _, rfl,
    by decide +kernel, by decide +kernel, by decide +kernel, by simp [runsOf], rfl⟩, ⟨e0, (store.put F.RING_STATUS_STATE 2), _, rfl,
    by decide +kernel⟩, ⟨e0, (((member 2 ringOn).put F.RING_MEMBER_ASSIGNED 1 0).put F.RING_MEMBER_PRESENT 1 0), _, rfl, by decide +kernel,
    by decide +kernel, by decide +kernel⟩⟩
theorem witness_RingMembersJoinAndLeave_3 : ∃ (e : Env) (pos : Nat) (s : State) (s1 : State) (s2 : State), s1 = s.enter e ∧ s1.isMaster = true ∧ pos <
    16 ∧ pos ≠ s1.myPos ∧ s1.on F.RING_MEMBER_ASSIGNED pos = true ∧ s1.posPresent pos = false ∧ s2 = (s1.putWord (F.RING_MEMBER_ASSIGNED.off pos 0)
    0).putWord (F.RING_MEMBER_SERIAL_SERIAL.off pos 0) 0 := ⟨e0, 15, ((member 1 ringOn).put F.RING_MEMBER_ASSIGNED 1 15), _, _, rfl,
    by decide +kernel, by decide +kernel, by decide +kernel, by decide +kernel, by decide +kernel, rfl⟩
theorem witness_RingMasterBeatsAndTakesOver_1 : (∃ (e : Env) (s : State) (s1 : State), s1 = s.enter e ∧ s1.isMaster = true ∧ s1.ring.heartbeatSent +
    1000000 ≤ s1.time ∧ s1.majority = true) ∧ (∃ (e : Env) (s : State) (s1 : State) (s2 : State), s1 = s.enter e ∧ s1.isMaster = true ∧
    s1.ring.heartbeatSent + 1000000 ≤ s1.time ∧ s1.majority = false ∧ s2 = (s1.put F.RING_STATUS_ROLE 2).put F.RING_STATUS_NO_MASTER 1) ∧ (∃ (e : Env)
    (s : State) (s1 : State), s1 = s.enter e ∧ s1.get F.RING_STATUS_STATE = 3 ∧ s1.get F.RING_STATUS_ROLE ≠ 1 ∧ s1.ring.lastHeartbeat + 50000000 ≤
    s1.time ∧ s1.on F.RING_STATUS_NO_MASTER = false) ∧ (∃ (e : Env) (s : State) (s1 : State) (q : _), s1 = s.enter e ∧ s1.get F.RING_STATUS_STATE = 3
    ∧ s1.get F.RING_STATUS_ROLE ≠ 1 ∧ s1.ring.lastHeartbeat + 50000000 ≤ s1.time ∧ s1.ring.rank ≠ 0 ∧ s1.outranked = false ∧ s1.ring.master = some q ∧
    q ≠ s1.myPos ∧ (s1.memberLost q).majority = true) ∧ (∃ (e : Env) (s : State) (s1 : State), s1 = s.enter e ∧ s1.mayForm = true) ∧ (∃ (e : Env) (h :
    RingHdr) (s : State) (s1 : State), s1 = s.enter e ∧ h.bad = true) := ⟨⟨e0, { member 1 { ringOn with lastPresent := [1] } with time := 1000000 },
    _, rfl, by decide +kernel, by decide +kernel, by decide +kernel⟩, ⟨e0, { member 1 { ringOn with lastPresent := [0, 1] } with time := 1000000 }, _,
    _, rfl, by decide +kernel, by decide +kernel, by decide +kernel, rfl⟩, ⟨e0, { member 2 ringOn with time := 50000000 }, _, rfl, by decide +kernel,
    by decide +kernel, by decide +kernel, by decide +kernel⟩, ⟨e0,
    { member 2 { ringOn with strapStandby := true, lastPresent := [1] } with time := 50000000 }, _, _, rfl, by decide +kernel, by decide +kernel,
    by decide +kernel, by decide +kernel, by decide +kernel, rfl, by decide +kernel, by decide +kernel⟩, ⟨e0,
    { store.put F.RING_STATUS_STATE 2 with time := 100000000, ring := { strapMaster := true } }, _, rfl, by decide +kernel⟩, ⟨e0, { bad := true },
    (member 2 ringOn), _, rfl, by decide +kernel⟩⟩
theorem witness_RingMasterBeatsAndTakesOver_2 : (∃ (e : Env) (h : RingHdr) (s : State) (s1 : State), s1 = s.enter e ∧ h.bad = false ∧ s1.get
    F.RING_STATUS_STATE = 3 ∧ h.src ≠ s1.myPos ∧ s1.isMaster = false) ∧ (∃ (e : Env) (h : RingHdr) (s : State) (s1 : State), s1 = s.enter e ∧ h.bad =
    false ∧ 2 ≤ s1.get F.RING_STATUS_STATE ∧ s1.isMaster = false ∧ s1.ring.gotMembers = true ∧ s1.ring.master = some h.src ∧ s1.ring.timed = true) ∧
    (∃ (e : Env) (s : State) (s1 : State), s1 = s.enter e ∧ s1.isMaster = true) ∧ (∃ (e : Env) (s : State) (s1 : State), s1 = s.enter e ∧ s1.isMaster
    = false ∧ 2 ≤ s1.get F.RING_STATUS_STATE) := ⟨⟨e0, {}, (member 2 ringOn), _, rfl, by decide +kernel, by decide +kernel, by decide +kernel,
    by decide +kernel⟩, ⟨e0, {}, (member 2 ringOn), _, rfl, by decide +kernel, by decide +kernel, by decide +kernel, by decide +kernel,
    by decide +kernel, by decide +kernel⟩, ⟨e0, (member 1 ringOn), _, rfl, by decide +kernel⟩, ⟨e0, (member 2 ringOn), _, rfl, by decide +kernel,
    by decide +kernel⟩⟩
theorem witness_ShardMapsChangeUnderTheMaster : (∃ (e : Env) (s : State) (s1 : State), s1 = s.enter e ∧ s1.isMaster = true ∧ s1.on
    F.RING_CFG_AUTO_SHARD = false) ∧ (∃ (e : Env) (s : State) (s1 : State), s1 = s.enter e ∧ s1.isMaster = true ∧ s1.on F.RING_CFG_AUTO_SHARD = true)
    ∧ (∃ (e : Env) (s : State) (s1 : State) (pos : _) (t : _), s1 = s.enter e ∧ s1.isMaster = true ∧ s1.on F.RING_CFG_AUTO_SHARD = true ∧
    (s1.ring.peers.getD pos {}).absentAt = some t ∧ pos < 16 ∧ s1.posPresent pos = false ∧ s1.mapNow.contains pos = true ∧ t + s1.get
    F.RING_CFG_REASSIGN_MS * 1000000 ≤ s1.time) ∧ (∃ (e : Env) (s : State) (s1 : State) (m : _), s1 = s.enter e ∧ s1.isMaster = true ∧ s1.ring.next =
    some m ∧ s1.ring.purges = [] ∧ s1.ring.transfers = []) ∧ (∃ (e : Env) (h : RingHdr) (ws : List Nat) (m : List Nat) (s : State) (s1 : State), s1 =
    s.enter e ∧ h.bad = false ∧ 2 ≤ s1.get F.RING_STATUS_STATE ∧ s1.isMaster = false ∧ s1.ring.gotMembers = true ∧ s1.ring.master = some h.src ∧ m =
    ws.map (· % 16)) ∧ (∃ (e : Env) (h : RingHdr) (ws : List Nat) (m : List Nat) (s : State) (s1 : State) (phase : _), s1 = s.enter e ∧ h.bad = false
    ∧ 2 ≤ s1.get F.RING_STATUS_STATE ∧ s1.isMaster = false ∧ s1.ring.gotMembers = true ∧ s1.ring.master = some h.src ∧ m = ws.map (· % 16) ∧ phase ≠
    1) := ⟨⟨e0, ((member 1 ringOn).put F.RING_CFG_AUTO_SHARD 0), _, rfl, by decide +kernel, by decide +kernel⟩, ⟨e0, ((member 1 ringOn).put
    F.RING_CFG_AUTO_SHARD 1), _, rfl, by decide +kernel, by decide +kernel⟩, ⟨e0,
    { (member 1 { ringOn with peers := [(0, { absentAt := some 0 })] }).put F.RING_CFG_AUTO_SHARD 1 with time := 10000000000000 }, _, 0, 0, rfl,
    by decide +kernel, by decide +kernel, by decide +kernel, by decide +kernel, by decide +kernel, by decide +kernel, by decide +kernel⟩, ⟨e0, (member
    1 { ringOn with next := some [] }), _, _, rfl, by decide +kernel, rfl, by decide +kernel, by decide +kernel⟩, ⟨e0, {}, [31], _, (member 2 ringOn),
    _, rfl, by decide +kernel, by decide +kernel, by decide +kernel, by decide +kernel, by decide +kernel, rfl⟩, ⟨e0, {}, [31], _, (member 2 ringOn),
    _, 0, rfl, by decide +kernel, by decide +kernel, by decide +kernel, by decide +kernel, by decide +kernel, rfl, by decide +kernel⟩⟩
theorem witness_ErrorsAreFoundAndRepaired_1 : (∃ (e : Env) (s : State) (s1 : State), s1 = s.enter e ∧ 1 ≤ s1.phase ∧ s1.on F.RAS_STATUS_FATAL = false)
    ∧ (∃ (e : Env) (unit : Nat) (hit : ScrubHit) (s : State) (s1 : State), s1 = s.enter e ∧ 1 ≤ s1.phase ∧ s1.on F.RAS_STATUS_FATAL = false ∧ (∀ ls
    qs, hit ≠ .directory ls qs) ∧ hit ≠ .poisonRead ∧ unit < (s1.injectDone 0 unit).stacks ∧ (s1.injectDone 0 unit).inSr = false) ∧ (∃ (e : Env) (hit
    : ScrubHit) (s : State) (s1 : State) (source : _), s1 = s.enter e ∧ 1 ≤ s1.phase ∧ s1.on F.RAS_STATUS_FATAL = false ∧ (∀ ls qs, hit ≠ .directory
    ls qs) ∧ hit ≠ .poisonRead ∧ 1 ≤ source ∧ source ≤ 6) ∧ (∃ (e : Env) (unit : Nat) (addr : Nat) (errs : List (Nat × Nat)) (hit : ScrubHit) (s :
    State) (s1 : State) (source : _) (lap : Option (Bool × Nat)) (s2 : State) (s3 : State), s1 = s.enter e ∧ 1 ≤ s1.phase ∧ s1.on F.RAS_STATUS_FATAL =
    false ∧ (∀ ls qs, hit ≠ .directory ls qs) ∧ hit ≠ .poisonRead ∧ 1 ≤ source ∧ source ≤ 6 ∧ exec (.hbmScrub e source unit errs addr hit none none) s
    = .next s2 ∧ s3 = (match lap with | some (hbm, v) => if hbm && s2.inSr then s2 else s2.endLap hbm v | none => s2)) ∧ (∃ (e : Env) (s : State) (s1
    : State), s1 = s.enter e ∧ 2 ≤ s1.phase ∧ s1.on F.RAS_SCRUB_POS_STALLED = false ∧ s1.ras.lapStart + max 1 (s1.get F.RAS_SCRUB_CFG_WARN_H) *
    3600000000000 ≤ s1.time) ∧ (∃ (e : Env) (kind : Nat) (unit : Nat) (err : Nat) (s : State) (s1 : State) (s2 : State), s1 = s.enter e ∧ kind < 6 ∧ 2
    ≤ s1.phase ∧ err = s1.retireErr kind unit (s1.slotOf? (s1.pair F.RAS_RETIRE_ADDR_LO_ADDR F.RAS_RETIRE_ADDR_HI_ADDR)) ∧ s2 = s1.put
    F.RAS_RETIRE_STATUS_ERR err ∧ err ≠ 0) := ⟨⟨e0, store, _, rfl, by decide +kernel, by decide +kernel⟩, ⟨e0, 7, .none, store, _, rfl,
    by decide +kernel, by decide +kernel, (fun _ _ h => nomatch h), by decide +kernel, by decide +kernel, by decide +kernel⟩, ⟨e0, .none, store, _, 6,
    rfl, by decide +kernel, by decide +kernel, (fun _ _ h => nomatch h), by decide +kernel, by decide +kernel, by decide +kernel⟩, ⟨e0, 7, 0, [(3,
    1)], .none, store, _, 6, (some (true, 7)), _, _, rfl, by decide +kernel, by decide +kernel, (fun _ _ h => nomatch h), by decide +kernel,
    by decide +kernel, by decide +kernel, rfl, rfl⟩, ⟨e0, { store with time := 10000000000000000 }, _, rfl, by decide +kernel, by decide +kernel,
    by decide +kernel⟩, ⟨e0, 5, 64, _, store, _, _, rfl, by decide +kernel, by decide +kernel, rfl, rfl, by decide +kernel⟩⟩
theorem witness_ErrorsAreFoundAndRepaired_2 : (∃ (e : Env) (kind : Nat) (unit : Nat) (err : Nat) (s : State) (s1 : State) (s2 : State) (k : _), s1 =
    s.enter e ∧ kind < 6 ∧ 2 ≤ s1.phase ∧ err = s1.retireErr kind unit (s1.slotOf? (s1.pair F.RAS_RETIRE_ADDR_LO_ADDR F.RAS_RETIRE_ADDR_HI_ADDR)) ∧ s2
    = s1.put F.RAS_RETIRE_STATUS_ERR err ∧ err = 0 ∧ kind = 0 ∧ s1.slotOf? (s1.pair F.RAS_RETIRE_ADDR_LO_ADDR F.RAS_RETIRE_ADDR_HI_ADDR) = some k) ∧
    (∃ (e : Env) (kind : Nat) (unit : Nat) (err : Nat) (s : State) (s1 : State) (s2 : State), s1 = s.enter e ∧ kind < 6 ∧ 2 ≤ s1.phase ∧ err =
    s1.retireErr kind unit (s1.slotOf? (s1.pair F.RAS_RETIRE_ADDR_LO_ADDR F.RAS_RETIRE_ADDR_HI_ADDR)) ∧ s2 = s1.put F.RAS_RETIRE_STATUS_ERR err ∧ err
    = 0 ∧ kind ≠ 0) ∧ (∃ (e : Env) (s : State) (s1 : State) (s2 : State) (s3 : State), s1 = s.enter e ∧ s1.serves = true ∧ s2 = (s1.put
    F.RAS_STATUS_RECOVERING 1).raise gRasUncorrected 2 ∧ s3 = ((List.range 128).filter s2.partActive).foldl (fun (s : State) p => (s.put
    F.PART_RAS_STATUS_RECOVERED 1 p).refreshPart p) s2) ∧ (∃ (e : Env) (s : State) (s1 : State), s1 = s.enter e ∧ s1.phase ≠ 0 ∧ s1.on
    F.RAS_STATUS_FATAL = false) ∧ (∃ (e : Env) (s : State) (s1 : State), s1 = s.enter e ∧ s1.phase ≠ 0 ∧ s1.on F.RAS_STATUS_FATAL = false) ∧ (∃ (e :
    Env) (s : State) (s1 : State), s1 = s.enter e ∧ s1.boot.keep = true) := ⟨⟨e0, 0, 0, _, ((store.put F.TIER_HBM_SLOTS_SLOTS 2).put
    F.RAS_RETIRE_ADDR_LO_ADDR 262144), _, _, 1, rfl, by decide +kernel, by decide +kernel, rfl, rfl, by decide +kernel, by decide +kernel,
    by decide +kernel⟩, ⟨e0, 5, 63, _, store, _, _, rfl, by decide +kernel, by decide +kernel, rfl, rfl, by decide +kernel, by decide +kernel⟩, ⟨e0,
    store, _, _, _, rfl, by decide +kernel, rfl, rfl⟩, ⟨e0, store, _, rfl, by decide +kernel, by decide +kernel⟩, ⟨e0, store, _, rfl,
    by decide +kernel, by decide +kernel⟩, ⟨e0, store, _, rfl, by decide +kernel⟩⟩
theorem witness_ErrorsAreFoundAndRepaired_3 : (∃ (e : Env) (cluster : Nat) (core : Nat) (s : State) (s1 : State), s1 = s.enter e ∧ cluster < 8 ∧ core
    < 32 ∧ s1.pdOn (48 + cluster) = true ∧ s1.ras.faulted.contains (cluster * 32 + core) = false) ∧ (∃ (e : Env) (s : State) (s1 : State), s1 =
    s.enter e) := ⟨⟨e0, 7, 31, (domain 55 2), _, rfl, by decide +kernel, by decide +kernel, by decide +kernel, by decide +kernel⟩, ⟨e0, store, _,
    rfl⟩⟩
theorem witness_CheckBitTestsAndSelfTests_1 : (∃ (e : Env) (s : State) (s1 : State), s1 = s.enter e ∧ s1.on F.RAS_CBT_CTL_ENABLE = true ∧ 2 ≤ s1.phase
    ∧ s1.hbmBytes ≤ s1.cbtWord * 224) ∧ (∃ (e : Env) (s : State) (s1 : State) (s2 : State) (bs : Bytes), s1 = s.enter e ∧ s1.on F.RAS_CBT_CTL_ENABLE =
    true ∧ 2 ≤ s1.phase ∧ s1.cbtWord * 224 < s1.hbmBytes ∧ s1.rangeFails (memKey 0 s1.cbtBuf) 256 = false ∧ s1.cwBytes s1.cbtWord = (bs, s2)) ∧ (∃ (e
    : Env) (s : State) (s1 : State) (bs : Bytes), s1 = s.enter e ∧ s1.on F.RAS_CBT_CTL_ENABLE = true ∧ 2 ≤ s1.phase ∧ s1.busRead (memKey 0 s1.cbtBuf)
    256 = .ok bs ∧ s1.hbmBytes ≤ s1.cbtWord * 224) ∧ (∃ (e : Env) (s : State) (s1 : State) (s2 : State) (s3 : State) (bs : Bytes) (old : Bytes) (r :
    RawRead), s1 = s.enter e ∧ s1.on F.RAS_CBT_CTL_ENABLE = true ∧ 2 ≤ s1.phase ∧ s1.busRead (memKey 0 s1.cbtBuf) 256 = .ok bs ∧ s1.cbtWord * 224 <
    s1.hbmBytes ∧ s1.cwBytes s1.cbtWord = (old, s2) ∧ s2.rawRead old bs = (r, s3)) ∧ (∃ (e : Env) (target : Nat) (unit : Nat) (bits : Nat) (s : State)
    (s1 : State) (s2 : State), s1 = s.enter e ∧ s2 = ((s1.put F.RAS_INJECT_TARGET (target % 16)).put F.RAS_INJECT_UNIT (unit % 256)).put
    F.RAS_INJECT_BITS (bits % 4) ∧ s2.on F.RAS_CBT_CTL_ENABLE = true) ∧ (∃ (e : Env) (target : Nat) (unit : Nat) (bits : Nat) (s : State) (s1 : State)
    (s2 : State), s1 = s.enter e ∧ s2 = ((s1.put F.RAS_INJECT_TARGET (target % 16)).put F.RAS_INJECT_UNIT (unit % 256)).put F.RAS_INJECT_BITS (bits %
    4) ∧ s2.on F.RAS_CBT_CTL_ENABLE = false) := ⟨⟨e0, ((store.put F.RAS_CBT_CTL_ENABLE 1).put F.RAS_CBT_ADDR_HI_ADDR 112), _, rfl, by decide +kernel,
    by decide +kernel, by decide +kernel⟩, ⟨e0, (store.put F.RAS_CBT_CTL_ENABLE 1), _, _, _, rfl, by decide +kernel, by decide +kernel,
    by decide +kernel, by decide +kernel, rfl⟩, ⟨e0, ((store.put F.RAS_CBT_CTL_ENABLE 1).put F.RAS_CBT_ADDR_HI_ADDR 112), _, _, rfl,
    by decide +kernel, by decide +kernel, rfl, by decide +kernel⟩, ⟨e0, (store.put F.RAS_CBT_CTL_ENABLE 1), _, _, _, _, _, _, rfl, by decide +kernel,
    by decide +kernel, rfl, by decide +kernel, rfl, rfl⟩, ⟨e0, 15, 255, 3, (store.put F.RAS_CBT_CTL_ENABLE 1), _, _, rfl, rfl, by decide +kernel⟩,
    ⟨e0, 15, 255, 3, store, _, _, rfl, rfl, by decide +kernel⟩⟩
theorem witness_CheckBitTestsAndSelfTests_2 : (∃ (e : Env) (s : State) (s1 : State), s1 = s.enter e ∧ 2 ≤ s1.phase ∧ s1.on F.RAS_STATUS_FATAL = false
    ∧ s1.ras.bist.isSome = true) ∧ (∃ (e : Env) (target : Nat) (unit : Nat) (s : State) (s1 : State) (s2 : State), s1 = s.enter e ∧ 2 ≤ s1.phase ∧
    s1.on F.RAS_STATUS_FATAL = false ∧ s1.ras.bist = none ∧ s1.bistOk target unit = true ∧ s2 =
    { s1.put F.RAS_BIST_STATUS_BUSY 1 with ras := { s1.ras with bist := some (target, unit) } }) ∧ (∃ (e : Env) (target : Nat) (unit : Nat) (failed :
    List Nat) (s : State) (s1 : State) (s2 : State), s1 = s.enter e ∧ s1.ras.bist = some (target, unit) ∧ s2 = (if target = 5 then s1.loseTier else
    s1).bistFail target unit failed) := ⟨⟨e0, { store with ras := { bist := some (1, 0) } }, _, rfl, by decide +kernel, by decide +kernel,
    by decide +kernel⟩, ⟨e0, 1, 7, store, _, _, rfl, by decide +kernel, by decide +kernel, by decide +kernel, by decide +kernel, rfl⟩, ⟨e0, 1, 7,
    [31], { store with ras := { bist := some (1, 7) } }, _, _, rfl, by decide +kernel, rfl⟩⟩
theorem witness_ExtensionsLoadAndRun_1 : (∃ (e : Env) (p : Nat) (s : State) (s1 : State) (b : Bytes), s1 = s.enter e ∧ p < 128 ∧ (s1.ext p).state = 0
    ∧ s1.serves = true ∧ s1.busRead (memKey 0 ((s1.ext p).addr / 64 * 64)) (s1.ext p).len = .ok b ∧ extHeaderOk b (s1.ext p).len = false) ∧ (∃ (e :
    Env) (p : Nat) (s : State) (s1 : State), s1 = s.enter e ∧ (s1.ext p).state = 2 ∧ s1.on F.PART_SEC_CFG_CHM_ALLOW p = true) ∧ (∃ (e : Env) (p : Nat)
    (s : State) (s1 : State), s1 = s.enter e ∧ (s1.ext p).state = 2 ∧ s1.on F.PART_SEC_CFG_CHM_ALLOW p = false ∧ s1.extCores ≤ s1.exts.countP (fun (y
    : Nat × Ext) => y.2.state == 3)) ∧ (∃ (e : Env) (p : Nat) (s : State) (s1 : State), s1 = s.enter e ∧ (s1.ext p).state = 2 ∧ s1.on
    F.PART_SEC_CFG_CHM_ALLOW p = false ∧ s1.exts.countP (fun (y : Nat × Ext) => y.2.state == 3) < s1.extCores) ∧ (∃ (e : Env) (p : Nat) (s : State)
    (s1 : State), s1 = s.enter e ∧ (s1.ext p).state ≠ 0) ∧ (∃ (e : Env) (p : Nat) (qi : Nat) (n : Nat) (rest : List (Nat × Nat)) (c : Chunk) (s :
    State) (s1 : State) (s2 : State), s1 = s.enter e ∧ s1.extHook p 1 = true ∧ s1.serves = true ∧ s1.extCores ≠ 0 ∧ (s1.ext p).notes = (qi, n) :: rest
    ∧ s2 = s1.setExt p { s1.ext p with notes := rest } ∧ (s2.seq qi).chunks.find? (fun c => c.number == n) = some c) := ⟨⟨e0, 127,
    { holding store [] with exts := [(127, { addr := 0x1000, len := 256 })] }, _, _, rfl, by decide +kernel, by decide +kernel, by decide +kernel,
    rfl, by decide +kernel⟩, ⟨e0, 127, { store.put F.PART_SEC_CFG_CHM_ALLOW 1 127 with exts := [(127, { state := 2 })] }, _, rfl, by decide +kernel,
    by decide +kernel⟩, ⟨e0, 127, { store.put F.SAPL_EXT_CFG_CORES 0 with exts := [(127, { state := 2 })] }, _, rfl, by decide +kernel,
    by decide +kernel, by decide +kernel⟩, ⟨e0, 127, { store.put F.SAPL_EXT_CFG_CORES 1 with exts := [(127, { state := 2 })] }, _, rfl,
    by decide +kernel, by decide +kernel, by decide +kernel⟩, ⟨e0, 127, { store with exts := [(127, { state := 1 })] }, _, rfl, by decide +kernel⟩,
    ⟨e0, 127, 1, 0, [], _, { has pubSeq pubLeaf with exts := [(127, { state := 3, hooks := 2, notes := [(1, 0)] })] }, _, _, rfl, by decide +kernel,
    by decide +kernel, by decide +kernel, by decide +kernel, rfl, rfl⟩⟩
theorem witness_ExtensionsLoadAndRun_2 : ∃ (e : Env) (p : Nat) (s : State) (s1 : State), s1 = s.enter e ∧ s1.extHook p 2 = true ∧ s1.serves = true ∧
    s1.extCores ≠ 0 ∧ (s1.ext p).lastTimer + (s1.ext p).timerMs * 1000000 ≤ s1.time := ⟨e0, 127,
    { store with exts := [(127, { state := 3, hooks := 4, timerMs := 1 })], time := 1000000 }, _, rfl, by decide +kernel, by decide +kernel,
    by decide +kernel, by decide +kernel⟩
theorem witness_ExtensionsLoadAndRun_3 : (Config.sigOk 7 (extImage.take (xSigOff extImage + 104)) = true → ∃ (e : Env) (p : Nat) (s : State) (s1 :
    State) (b : Bytes) (k : Nat), s1 = s.enter e ∧ p < 128 ∧ (s1.ext p).state = 0 ∧ s1.serves = true ∧ s1.busRead (memKey 0 ((s1.ext p).addr / 64 *
    64)) (s1.ext p).len = .ok b ∧ 64 ≤ (s1.ext p).len ∧ extHeaderOk b (s1.ext p).len = true ∧ s1.sec.extKey = some k ∧ Config.sigOk k (b.take (xSigOff
    b + 104)) = true) := fun h => ⟨e0, 127, extStore, _, extImage, 7, rfl, by decide +kernel, by decide +kernel, by decide +kernel, by decide +kernel,
    by decide +kernel, by decide +kernel, by decide +kernel, h⟩
theorem witness_KeysRotateAndRetire : (∃ (e : Env) (p : Nat) (s : State) (s1 : State), s1 = s.enter e ∧ p < 128 ∧ s1.serves = true ∧ s1.partActive p =
    false) ∧ (∃ (e : Env) (p : Nat) (s : State) (s1 : State), s1 = s.enter e ∧ p < 128 ∧ s1.serves = true ∧ s1.partActive p = true ∧ s1.otherKeyUsers
    p ≠ 0) ∧ (∃ (e : Env) (p : Nat) (s : State) (s1 : State), s1 = s.enter e ∧ p < 128 ∧ s1.serves = true ∧ s1.partActive p = true ∧ s1.otherKeyUsers
    p = 0 ∧ s1.flashState = 3) ∧ (∃ (e : Env) (p : Nat) (s : State) (s1 : State) (s2 : _) (x : _), s1 = s.enter e ∧ p < 128 ∧ s1.serves = true ∧
    s1.partActive p = true ∧ s1.otherKeyUsers p = 0 ∧ s1.flashState ≠ 3 ∧ x = s1.parts.getD p {} ∧ s2 =
    ({ s1 with parts := s1.parts.set p { x with keys := x.keys.filter (fun (k : Nat × Nat) => k.1 == (s1.keyEpoch p).toNat), sweep := true } } :
    State).drawKey p (s1.keyEpoch p + 1)) ∧ (∃ (e : Env) (p : Nat) (s : State) (s1 : State) (s2 : State) (x : Part), s1 = s.enter e ∧ s1.on
    F.PART_KEY_STATUS_OTHER_LOADED p = true ∧ s1.otherKeyUsers p = 0 ∧ x = s1.parts.getD p {} ∧ s2 =
    { s1 with parts := s1.parts.set p { x with keys := x.keys.filter (fun (k : Nat × Nat) => k.1 == (s1.keyEpoch p).toNat), sweep := false } }) :=
    ⟨⟨e0, 127, store, _, rfl, by decide +kernel, by decide +kernel, by decide +kernel⟩, ⟨e0, 0, (((has pubSeq oldKeyLeaf).put
    F.PART_KEY_STATUS_OTHER_LOADED 1 0).put F.PART_KEY_STATUS_OTHER_EPOCH 9 0), _, rfl, by decide +kernel, by decide +kernel, by decide +kernel,
    by decide +kernel⟩, ⟨e0, 0, (store.put F.FLASH_STATUS_STATE 3), _, rfl, by decide +kernel, by decide +kernel, by decide +kernel,
    by decide +kernel, by decide +kernel⟩, ⟨e0, 0, store, _, _, _, rfl, by decide +kernel, by decide +kernel, by decide +kernel, by decide +kernel,
    by decide +kernel, rfl, rfl⟩, ⟨e0, 127, (store.put F.PART_KEY_STATUS_OTHER_LOADED 1 127), _, _, _, rfl, by decide +kernel, by decide +kernel, rfl,
    rfl⟩⟩
theorem witness_SessionsStreamsAndInterfaces_1 : (∃ (e : Env) (fn : Nat) (s : State) (s1 : State), s1 = s.enter e ∧ s1.boot.keep = true ∧ s1.hasDoe fn
    = true) ∧ (∃ (e : Env) (fn : Nat) (s : State) (s1 : State), s1 = s.enter e ∧ s1.boot.keep = true ∧ s1.hasDoe fn = false) ∧ (∃ (e : Env) (fn : Nat)
    (s : State) (s1 : State), s1 = s.enter e ∧ s1.sec.sessions.contains fn = false) ∧ (∃ (e : Env) (fn : Nat) (k : Nat) (s : State) (s1 : State), s1 =
    s.enter e ∧ s1.sec.sessions.contains fn = true ∧ fn ≠ mgmtPort ∧ k < 64 ∧ s1.sec.streams.get? k = none) ∧ (∃ (e : Env) (fn : Nat) (s : State) (s1
    : State), s1 = s.enter e ∧ s1.sec.sessions.contains fn = true ∧ fn ≠ mgmtPort) ∧ (∃ (e : Env) (fn : Nat) (k : Nat) (op : Nat) (s : State) (s1 :
    State) (s2 : _), s1 = s.enter e ∧ s1.sec.sessions.contains fn = true ∧ fn ≠ mgmtPort ∧ s1.sec.streams.get? k = some fn ∧ s2 =
    { s1 with sec := { s1.sec with streams := s1.sec.streams.erase k } } ∧ 2 ≤ op ∧ s2.tdi fn ≠ 0 ∧ (s2.chms.getD fn {}).stream = k) := ⟨⟨e0, 3,
    (tenant3 0), _, rfl, by decide +kernel, by decide +kernel⟩, ⟨e0, 4, (tenant3 0), _, rfl, by decide +kernel, by decide +kernel⟩, ⟨e0, 2, (tenant3
    0), _, rfl, by decide +kernel⟩, ⟨e0, 3, 63, (tenant3 0), _, rfl, by decide +kernel, by decide +kernel, by decide +kernel, by decide +kernel⟩, ⟨e0,
    3, (tenant3 0), _, rfl, by decide +kernel, by decide +kernel⟩, ⟨e0, 3, 5, 2, { tenant3 3 with chms := [(3, { stream := 5 })] }, _, _, rfl,
    by decide +kernel, by decide +kernel, by decide +kernel, rfl, by decide +kernel, by decide +kernel, by decide +kernel⟩⟩
theorem witness_SessionsStreamsAndInterfaces_2 : (∃ (e : Env) (fn : Nat) (k : Nat) (op : Nat) (s : State) (s1 : State) (s2 : _), s1 = s.enter e ∧
    s1.sec.sessions.contains fn = true ∧ fn ≠ mgmtPort ∧ s1.sec.streams.get? k = some fn ∧ s2 =
    { s1 with sec := { s1.sec with streams := s1.sec.streams.erase k } } ∧ 2 ≤ op ∧ s2.tdi fn = 0) ∧ (∃ (e : Env) (p : Nat) (stream : Nat) (s : State)
    (s1 : State), s1 = s.enter e ∧ p ≠ 0 ∧ p < 128 ∧ s1.vfEnabled p = true ∧ s1.on F.PART_SEC_CFG_CHM_ALLOW p = true ∧ s1.sec.sessions.contains p =
    true ∧ s1.sec.streams.get? stream = some p ∧ s1.tdi p = 0) ∧ (∃ (e : Env) (p : Nat) (s : State) (s1 : State), s1 = s.enter e ∧
    s1.sec.sessions.contains p = true ∧ (s1.tdi p = 1 ∨ s1.tdi p = 2)) ∧ (∃ (e : Env) (p : Nat) (s : State) (s1 : State), s1 = s.enter e ∧ s1.tdi p =
    1 ∧ (s1.chms.getD p {}).bound = true) ∧ (∃ (e : Env) (p : Nat) (s : State) (s1 : State), s1 = s.enter e ∧ s1.tdi p ≠ 1) ∧ (∃ (e : Env) (p : Nat)
    (s : State) (s1 : State), s1 = s.enter e ∧ p < 128 ∧ s1.tdi p ≠ 0) := ⟨⟨e0, 3, 5, 2, (tenant3 0), _, _, rfl, by decide +kernel, by decide +kernel,
    by decide +kernel, rfl, by decide +kernel, by decide +kernel⟩, ⟨e0, 3, 5, (tenant3 0), _, rfl, by decide +kernel, by decide +kernel,
    by decide +kernel, by decide +kernel, by decide +kernel, by decide +kernel, by decide +kernel⟩, ⟨e0, 3, (tenant3 2), _, rfl, by decide +kernel,
    by decide +kernel⟩, ⟨e0, 3, { tenant3 1 with chms := [(3, { bound := true })] }, _, rfl, by decide +kernel, by decide +kernel⟩, ⟨e0, 3, (tenant3
    0), _, rfl, by decide +kernel⟩, ⟨e0, 3, (tenant3 1), _, rfl, by decide +kernel, by decide +kernel⟩⟩
theorem witness_SessionsStreamsAndInterfaces_3 : ∃ (e : Env) (p : Nat) (s : State) (s1 : State), s1 = s.enter e ∧ p < 128 ∧ s1.tdi p = 0 := ⟨e0, 127,
    (tenant3 0), _, rfl, by decide +kernel, by decide +kernel⟩
theorem witness_TheOperatorProvisionsTheDevice_1 : (∃ (e : Env) (fn : Nat) (s : State) (s1 : State), s1 = s.enter e ∧ s1.boot.keep = true ∧
    s1.sec.root = none ∧ s1.sec.sessions.contains fn = true) ∧ (∃ (e : Env) (s : State) (s1 : State), s1 = s.enter e ∧ s1.opSession true = true ∧
    s1.allFree = true ∧ s1.get F.RING_STATUS_STATE = 0) ∧ (∃ (e : Env) (s : State) (s1 : State), s1 = s.enter e ∧ s1.opSession true = true) ∧ (∃ (e :
    Env) (port : Nat) (s : State) (s1 : State), s1 = s.enter e ∧ s1.opSession true = true ∧ port < 16 ∧ s1.on F.NET_PORT_CFG_ENABLE (port / 4) =
    false) ∧ (∃ (e : Env) (s : State) (s1 : State), s1 = s.enter e ∧ s1.opSession true = true ∧ s1.allFree = true) ∧ (∃ (e : Env) (s : State) (s1 :
    State), s1 = s.enter e) := ⟨⟨e0, 3, (tenant3 0), _, rfl, by decide +kernel, by decide +kernel, by decide +kernel⟩, ⟨e0, operated, _, rfl,
    by decide +kernel, by decide +kernel, by decide +kernel⟩, ⟨e0, operated, _, rfl, by decide +kernel⟩, ⟨e0, 15, operated, _, rfl, by decide +kernel,
    by decide +kernel, by decide +kernel⟩, ⟨e0, operated, _, rfl, by decide +kernel, by decide +kernel⟩, ⟨e0, store, _, rfl⟩⟩
theorem witness_TheOperatorProvisionsTheDevice_2 : (∃ (e : Env) (fn : Nat) (i : Nat) (s : State) (s1 : State) (b : Bytes), s1 = s.enter e ∧
    s1.boot.keep = true ∧ s1.hasDoe fn = true ∧ s1.measured i = some b) ∧ (∃ (e : Env) (image : Nat) (s : State) (s1 : State) (s2 : State), s1 =
    s.enter e ∧ s1.boot.aon = true ∧ s1.cupola.tripped = false ∧ s1.phase = 5 ∧ s2 =
    { s1 with boot := { s1.boot with held := true, area := s1.boot.area || s1.flash.perCh != 0, version := image, nextVersion := image } }) := ⟨⟨e0,
    0, 0x8F, operated, _, _, rfl, by decide +kernel, by decide +kernel, rfl⟩, ⟨e0, 0, (operated.put F.GLB_BOOT_STATUS_PHASE 5), _, _, rfl,
    by decide +kernel, by decide +kernel, by decide +kernel, rfl⟩⟩
theorem witness_DomainsPowerOnAndOff_1 : (∃ (e : Env) (d : Nat) (s : State) (s1 : State), s1 = s.enter e ∧ d < 92 ∧ s1.pdUp = true ∧ (64 ≤ d ∧ d < 72
    ∨ (s1.pd d).state = 5)) ∧ (∃ (e : Env) (d : Nat) (s : State) (s1 : State), s1 = s.enter e ∧ d < 92 ∧ s1.pdUp = true ∧ (¬ (64 ≤ d ∧ d < 72)) ∧
    (s1.pd d).state = 2) ∧ (∃ (e : Env) (d : Nat) (s : State) (s1 : State), s1 = s.enter e ∧ d < 92 ∧ s1.pdUp = true ∧ (¬ (64 ≤ d ∧ d < 72)) ∧ (s1.pd
    d).state = 3 ∧ (s1.pd d).held = false) ∧ (∃ (e : Env) (d : Nat) (s : State) (s1 : State), s1 = s.enter e ∧ d < 92 ∧ s1.pdUp = true ∧ (¬ (64 ≤ d ∧
    d < 72)) ∧ (s1.pd d).state = 0 ∧ (s1.pd d).held = false ∧ s1.budgetMw < s1.reserveMw + domainMw d + s1.cupola.refreshMw) ∧ (∃ (e : Env) (d : Nat)
    (s : State) (s1 : State), s1 = s.enter e ∧ d < 92 ∧ s1.pdUp = true ∧ (¬ (64 ≤ d ∧ d < 72)) ∧ (s1.pd d).state = 0 ∧ (s1.pd d).held = false ∧
    s1.reserveMw + domainMw d + s1.cupola.refreshMw ≤ s1.budgetMw) ∧ (∃ (e : Env) (d : Nat) (s : State) (s1 : State), s1 = s.enter e ∧ d < 92 ∧ (s1.pd
    d).state = 1 ∧ s1.cupola.tripped = false) := ⟨⟨e0, 71, (domain 47 5), _, rfl, by decide +kernel, by decide +kernel, by decide +kernel⟩, ⟨e0, 91,
    (domain 91 2), _, rfl, by decide +kernel, by decide +kernel, by decide +kernel, by decide +kernel⟩, ⟨e0, 91, (domain 91 3), _, rfl,
    by decide +kernel, by decide +kernel, by decide +kernel, by decide +kernel, by decide +kernel⟩, ⟨e0, 91, ((domain 91 0).put F.CUPOLA_BUDGET_WATTS
    36), _, rfl, by decide +kernel, by decide +kernel, by decide +kernel, by decide +kernel, by decide +kernel, by decide +kernel⟩, ⟨e0, 91, (domain
    91 0), _, rfl, by decide +kernel, by decide +kernel, by decide +kernel, by decide +kernel, by decide +kernel, by decide +kernel⟩, ⟨e0, 91, (domain
    91 1), _, rfl, by decide +kernel, by decide +kernel, by decide +kernel⟩⟩
theorem witness_DomainsPowerOnAndOff_2 : (∃ (e : Env) (d : Nat) (s : State) (s1 : State), s1 = s.enter e ∧ d < 92 ∧ s1.pdUp = true ∧ 64 ≤ d ∧ d < 72)
    ∧ (∃ (e : Env) (d : Nat) (s : State) (s1 : State), s1 = s.enter e ∧ d < 92 ∧ s1.pdUp = true ∧ (¬ (64 ≤ d ∧ d < 72)) ∧ (s1.pd d).state = 0) ∧ (∃ (e
    : Env) (d : Nat) (s : State) (s1 : State), s1 = s.enter e ∧ d < 92 ∧ s1.pdUp = true ∧ (¬ (64 ≤ d ∧ d < 72)) ∧ (s1.pd d).state = 2 ∧ s1.offRefused
    d = true) ∧ (∃ (e : Env) (d : Nat) (s : State) (s1 : State), s1 = s.enter e ∧ d < 92 ∧ s1.pdUp = true ∧ (¬ (64 ≤ d ∧ d < 72)) ∧ (s1.pd d).state =
    2 ∧ s1.offRefused d = false) ∧ (∃ (e : Env) (d : Nat) (s : State) (s1 : State), s1 = s.enter e ∧ d < 92 ∧ s1.pdUp = true ∧ (¬ (64 ≤ d ∧ d < 72)) ∧
    (s1.pd d).state = 3) ∧ (∃ (e : Env) (d : Nat) (s : State) (s1 : State) (s2 : State), s1 = s.enter e ∧ d < 92 ∧ (s1.pd d).state = 3 ∧
    s1.domainDrained d = true ∧ s2 = ((s1.setPd d { s1.pd d with state := 0, held := false }).domainGone d).pdResult d .ok ∧ (s1.pd d).held = false)
    := ⟨⟨e0, 71, store, _, rfl, by decide +kernel, by decide +kernel, by decide +kernel, by decide +kernel⟩, ⟨e0, 91, (domain 91 0), _, rfl,
    by decide +kernel, by decide +kernel, by decide +kernel, by decide +kernel⟩, ⟨e0, 84, { domain 84 2 with qps := [(3, qp1)] }, _, rfl,
    by decide +kernel, by decide +kernel, by decide +kernel, by decide +kernel, by decide +kernel⟩, ⟨e0, 91, (domain 91 2), _, rfl, by decide +kernel,
    by decide +kernel, by decide +kernel, by decide +kernel, by decide +kernel⟩, ⟨e0, 91, (domain 91 3), _, rfl, by decide +kernel, by decide +kernel,
    by decide +kernel, by decide +kernel⟩, ⟨e0, 91, (domain 91 3), _, _, rfl, by decide +kernel, by decide +kernel, by decide +kernel, rfl,
    by decide +kernel⟩⟩
theorem witness_DomainsPowerOnAndOff_3 : (∃ (e : Env) (d : Nat) (s : State) (s1 : State) (s2 : State), s1 = s.enter e ∧ d < 92 ∧ (s1.pd d).state = 3 ∧
    s1.domainDrained d = true ∧ s2 = ((s1.setPd d { s1.pd d with state := 0, held := false }).domainGone d).pdResult d .ok ∧ (s1.pd d).held = true) ∧
    (∃ (e : Env) (s : State) (s1 : State), s1 = s.enter e ∧ s1.pdUp = true ∧ s1.inSr = false ∧ (∀ d ∈ srDomains, (s1.pd d).state = 0)) ∧ (∃ (e : Env)
    (s : State) (s1 : State), s1 = s.enter e ∧ s1.inSr = true ∧ s1.cupola.tripped = false) := ⟨⟨e0, 91,
    { store with pds := [(91, { state := 3, held := true })] }, _, _, rfl, by decide +kernel, by decide +kernel, by decide +kernel, rfl,
    by decide +kernel⟩, ⟨e0, { store with pds := [] }, _, rfl, by decide +kernel, by decide +kernel, by decide +kernel⟩, ⟨e0, (store.put
    F.CUPOLA_HBM_STATUS_IN_SR 1), _, rfl, by decide +kernel, by decide +kernel⟩⟩
theorem witness_DomainsPowerOnAndOff_4 : ∃ (e : Env) (s : State) (s1 : State), s1 = s.enter e ∧ s1.pdUp = true ∧ s1.inSr = false ∧ (∃ d ∈ srDomains,
    (s1.pd d).state ≠ 0) := ⟨e0, store, _, rfl, by decide +kernel, by decide +kernel, ⟨48, by decide, by decide +kernel⟩⟩
theorem witness_EveryEpochStaysWithinTheBudget : ∃ (e : Env) (s : State) (s1 : State) (s2 : State), s1 = s.enter e ∧ s1.pdUp = true ∧ s2 =
    (match s1.cupola.budget with | some w => s1.put F.CUPOLA_BUDGET_WATTS w | none => s1) := ⟨e0, store, _, _, rfl, by decide +kernel, rfl⟩
theorem witness_BudgetTemperatureAndTrip_1 : (∃ (e : Env) (w : Nat) (s : State) (s1 : State), s1 = s.enter e ∧ s1.pdUp = true ∧ (w < 300 ∨ 780 < w)) ∧
    (∃ (e : Env) (w : Nat) (s : State) (s1 : State), s1 = s.enter e ∧ s1.pdUp = true ∧ 300 ≤ w ∧ w ≤ 780 ∧ 1000 * w < s1.reserveMw +
    s1.cupola.refreshMw) ∧ (∃ (e : Env) (w : Nat) (s : State) (s1 : State), s1 = s.enter e ∧ s1.pdUp = true ∧ 300 ≤ w ∧ w ≤ 780 ∧ s1.reserveMw +
    s1.cupola.refreshMw ≤ 1000 * w) ∧ (∃ (e : Env) (n : Nat) (temp : Nat) (st : Nat) (t : Nat) (s : State) (s1 : State) (s2 : State) (s3 : State), s1
    = s.enter e ∧ n < 10 + s1.stacks ∧ s1.boot.aon = true ∧ t = min temp 255 ∧ st = (if n < 10 then stageAfter (s1.sensorStage n) t else 0) ∧ s2 =
    ((s1.put F.THERM_SENSOR_TEMP_C t n).put F.THERM_SENSOR_STAGE st n).put F.THERM_SENSOR_MAX_C (max t (s1.get F.THERM_SENSOR_MAX_C n)) n ∧ (s3 = (if
    n < 8 ∧ st ≠ s1.sensorStage n then s2.groveStage n st else s2).junction) ∧ st = s1.sensorStage n ∧ t < s1.get F.THERM_CFG_WARN_C) ∧ (∃ (e : Env)
    (n : Nat) (temp : Nat) (st : Nat) (t : Nat) (s : State) (s1 : State) (s2 : State) (s3 : State), s1 = s.enter e ∧ n < 10 + s1.stacks ∧ s1.boot.aon
    = true ∧ t = min temp 255 ∧ st = (if n < 10 then stageAfter (s1.sensorStage n) t else 0) ∧ s2 = ((s1.put F.THERM_SENSOR_TEMP_C t n).put
    F.THERM_SENSOR_STAGE st n).put F.THERM_SENSOR_MAX_C (max t (s1.get F.THERM_SENSOR_MAX_C n)) n ∧ (s3 = (if n < 8 ∧ st ≠ s1.sensorStage n then
    s2.groveStage n st else s2).junction) ∧ s1.sensorStage n < st ∧ t < s1.get F.THERM_CFG_WARN_C) ∧ (∃ (e : Env) (n : Nat) (temp : Nat) (st : Nat) (t
    : Nat) (s : State) (s1 : State) (s2 : State) (s3 : State), s1 = s.enter e ∧ n < 10 + s1.stacks ∧ s1.boot.aon = true ∧ t = min temp 255 ∧ st = (if
    n < 10 then stageAfter (s1.sensorStage n) t else 0) ∧ s2 = ((s1.put F.THERM_SENSOR_TEMP_C t n).put F.THERM_SENSOR_STAGE st n).put
    F.THERM_SENSOR_MAX_C (max t (s1.get F.THERM_SENSOR_MAX_C n)) n ∧ (s3 = (if n < 8 ∧ st ≠ s1.sensorStage n then s2.groveStage n st else
    s2).junction) ∧ st < s1.sensorStage n ∧ t < s1.get F.THERM_CFG_WARN_C) := ⟨⟨e0, 781, store, _, rfl, by decide +kernel, by decide +kernel⟩, ⟨e0,
    780, { store with cupola := { refreshMw := 800000 } }, _, rfl, by decide +kernel, by decide +kernel, by decide +kernel, by decide +kernel⟩, ⟨e0,
    300, store, _, rfl, by decide +kernel, by decide +kernel, by decide +kernel, by decide +kernel⟩, ⟨e0, 7, 40, _, _, (store.put F.THERM_CFG_WARN_C
    80), _, _, _, rfl, by decide +kernel, by decide +kernel, rfl, rfl, rfl, rfl, by decide +kernel, by decide +kernel⟩, ⟨e0, 7, 254, _, _, (store.put
    F.THERM_CFG_WARN_C 255), _, _, _, rfl, by decide +kernel, by decide +kernel, rfl, rfl, rfl, rfl, by decide +kernel, by decide +kernel⟩, ⟨e0, 7,
    40, _, _, ((store.put F.THERM_CFG_WARN_C 80).put F.THERM_SENSOR_STAGE 3 7), _, _, _, rfl, by decide +kernel, by decide +kernel, rfl, rfl, rfl,
    rfl, by decide +kernel, by decide +kernel⟩⟩
theorem witness_BudgetTemperatureAndTrip_2 : (∃ (e : Env) (n : Nat) (temp : Nat) (st : Nat) (t : Nat) (s : State) (s1 : State) (s2 : State) (s3 :
    State), s1 = s.enter e ∧ n < 10 + s1.stacks ∧ s1.boot.aon = true ∧ t = min temp 255 ∧ st = (if n < 10 then stageAfter (s1.sensorStage n) t else 0)
    ∧ s2 = ((s1.put F.THERM_SENSOR_TEMP_C t n).put F.THERM_SENSOR_STAGE st n).put F.THERM_SENSOR_MAX_C (max t (s1.get F.THERM_SENSOR_MAX_C n)) n ∧ (s3
    = (if n < 8 ∧ st ≠ s1.sensorStage n then s2.groveStage n st else s2).junction) ∧ st = s1.sensorStage n ∧ s1.sensorTemp n < s1.get
    F.THERM_CFG_WARN_C ∧ s1.get F.THERM_CFG_WARN_C ≤ t) ∧ (∃ (e : Env) (n : Nat) (s : State) (s1 : State) (s2 : State), s1 = s.enter e ∧ n < 10 +
    s1.stacks ∧ s1.boot.aon = true ∧ s1.cupola.tripped = false ∧ s1.on F.RAS_STATUS_FATAL = false ∧ s2 =
    { s1 with cupola := { s1.cupola with tripped := true } }) := ⟨⟨e0, 17, 80, _, _, (store.put F.THERM_CFG_WARN_C 80), _, _, _, rfl,
    by decide +kernel, by decide +kernel, rfl, rfl, rfl, rfl, by decide +kernel, by decide +kernel, by decide +kernel⟩, ⟨e0, 17, store, _, _, rfl,
    by decide +kernel, by decide +kernel, by decide +kernel, by decide +kernel, rfl⟩⟩
theorem witness_MailboxesCarryMessagesOnce_1 : (∃ (e : Env) (n : Nat) (sec : Bool) (s : State) (s1 : State), s1 = s.enter e ∧ n < boxCount sec ∧
    s1.boxesUp = true ∧ s1.on (fH2kFull sec) n = true) ∧ (∃ (e : Env) (n : Nat) (sec : Bool) (s : State) (s1 : State), s1 = s.enter e ∧ n < boxCount
    sec ∧ s1.boxesUp = true ∧ s1.on (fH2kFull sec) n = false) ∧ (∃ (e : Env) (n : Nat) (sec : Bool) (s : State) (s1 : State), s1 = s.enter e ∧ n <
    boxCount sec ∧ s1.boxesUp = true) ∧ (∃ (e : Env) (n : Nat) (off : Nat) (sec : Bool) (s : State) (s1 : State), s1 = s.enter e ∧ n < boxCount sec ∧
    s1.boxesUp = true ∧ off = (if sec then 0x10000008 else 0x3C00008) + 32 * n) ∧ (∃ (e : Env) (n : Nat) (sec : Bool) (s : State) (s1 : State), s1 =
    s.enter e ∧ n < boxCount sec ∧ s1.boot.keep = true ∧ s1.on (fH2kFull sec) n = true) ∧ (∃ (e : Env) (n : Nat) (q : Nat) (a : Nat) (rest : List Nat)
    (sec : Bool) (st : Status) (s : State) (s1 : State) (s2 : State), s1 = s.enter e ∧ n < boxCount sec ∧ s1.boot.keep = true ∧ s1.on (fK2hFull sec) n
    = false ∧ (s1.box sec n).taken = q :: rest ∧ s1.serve q = (st, a) ∧ s2 = ((s1.setBox sec n
    { s1.box sec n with taken := rest, k2h := mkMsg (msgService q) (msgToken q) st.code a }).put (fK2hFull sec) 1 n).boxCause sec n false ∧ msgService
    q = 0) := ⟨⟨e0, 7, false, (store.put F.MBX_NS_STATUS_H2K_FULL 1 7), _, rfl, by decide +kernel, by decide +kernel, by decide +kernel⟩, ⟨e0, 3,
    true, store, _, rfl, by decide +kernel, by decide +kernel, by decide +kernel⟩, ⟨e0, 7, false, store, _, rfl, by decide +kernel,
    by decide +kernel⟩, ⟨e0, 7, _, false, store, _, rfl, by decide +kernel, by decide +kernel, rfl⟩, ⟨e0, 3, true, (store.put
    F.MBX_SEC_STATUS_H2K_FULL 1 3), _, rfl, by decide +kernel, by decide +kernel, by decide +kernel⟩, ⟨e0, 7, 0x5A00, _, [], false, _, (mailed
    (0x5A00)), _, _, rfl, by decide +kernel, by decide +kernel, by decide +kernel, by decide +kernel, rfl, rfl, by decide +kernel⟩⟩
theorem witness_MailboxesCarryMessagesOnce_2 : (∃ (e : Env) (n : Nat) (q : Nat) (a : Nat) (rest : List Nat) (sec : Bool) (st : Status) (s : State) (s1
    : State) (s2 : State), s1 = s.enter e ∧ n < boxCount sec ∧ s1.boot.keep = true ∧ s1.on (fK2hFull sec) n = false ∧ (s1.box sec n).taken = q :: rest
    ∧ s1.serve q = (st, a) ∧ s2 = ((s1.setBox sec n { s1.box sec n with taken := rest, k2h := mkMsg (msgService q) (msgToken q) st.code a }).put
    (fK2hFull sec) 1 n).boxCause sec n false ∧ msgService q = 1) ∧ (∃ (e : Env) (n : Nat) (q : Nat) (a : Nat) (rest : List Nat) (sec : Bool) (st :
    Status) (s : State) (s1 : State) (s2 : State), s1 = s.enter e ∧ n < boxCount sec ∧ s1.boot.keep = true ∧ s1.on (fK2hFull sec) n = false ∧ (s1.box
    sec n).taken = q :: rest ∧ s1.serve q = (st, a) ∧ s2 = ((s1.setBox sec n
    { s1.box sec n with taken := rest, k2h := mkMsg (msgService q) (msgToken q) st.code a }).put (fK2hFull sec) 1 n).boxCause sec n false ∧ msgService
    q = 2) ∧ (∃ (e : Env) (n : Nat) (q : Nat) (a : Nat) (rest : List Nat) (sec : Bool) (st : Status) (s : State) (s1 : State) (s2 : State), s1 =
    s.enter e ∧ n < boxCount sec ∧ s1.boot.keep = true ∧ s1.on (fK2hFull sec) n = false ∧ (s1.box sec n).taken = q :: rest ∧ s1.serve q = (st, a) ∧ s2
    = ((s1.setBox sec n { s1.box sec n with taken := rest, k2h := mkMsg (msgService q) (msgToken q) st.code a }).put (fK2hFull sec) 1 n).boxCause sec
    n false ∧ msgStatus q = 0) ∧ (∃ (e : Env) (n : Nat) (q : Nat) (a : Nat) (rest : List Nat) (sec : Bool) (st : Status) (s : State) (s1 : State) (s2
    : State), s1 = s.enter e ∧ n < boxCount sec ∧ s1.boot.keep = true ∧ s1.on (fK2hFull sec) n = false ∧ (s1.box sec n).taken = q :: rest ∧ s1.serve q
    = (st, a) ∧ s2 = ((s1.setBox sec n { s1.box sec n with taken := rest, k2h := mkMsg (msgService q) (msgToken q) st.code a }).put (fK2hFull sec) 1
    n).boxCause sec n false ∧ msgStatus q ≠ 0) ∧ (∃ (e : Env) (s : State) (s1 : State), s1 = s.enter e ∧ s1.isPending = true) ∧ (∃ (e : Env) (s :
    State) (s1 : State), s1 = s.enter e ∧ s1.isPending = false) := ⟨⟨e0, 7, 0x5A01, _, [], false, _, (mailed (0x5A01)), _, _, rfl, by decide +kernel,
    by decide +kernel, by decide +kernel, by decide +kernel, rfl, rfl, by decide +kernel⟩, ⟨e0, 7, 0x5A02, _, [], false, _, (mailed (0x5A02)), _, _,
    rfl, by decide +kernel, by decide +kernel, by decide +kernel, by decide +kernel, rfl, rfl, by decide +kernel⟩, ⟨e0, 7, 0x5A00, _, [], false, _,
    (mailed (0x5A00)), _, _, rfl, by decide +kernel, by decide +kernel, by decide +kernel, by decide +kernel, rfl, rfl, by decide +kernel⟩, ⟨e0, 7,
    0x15A00, _, [], false, _, (mailed (0x15A00)), _, _, rfl, by decide +kernel, by decide +kernel, by decide +kernel, by decide +kernel, rfl, rfl,
    by decide +kernel⟩, ⟨e0, (((store.raise gRasUncorrected 2).put F.BELFRY_MASK_MASK 0).put F.BELFRY_GRP_MASK_MASK 0 3), _, rfl, by decide +kernel⟩,
    ⟨e0, store, _, rfl, by decide +kernel⟩⟩
theorem witness_TheDevicePowersOnAndComesUp_1 : (∃ (e : Env) (targets : List Nat) (luns : Luns) (s : State) (s1 : State), s1 = s.enter e ∧ s1.boot.aon
    = false ∧ (flashFound targets luns).1 ≠ 0) ∧ (∃ (e : Env) (s : State) (s1 : State), s1 = s.enter e ∧ s1.boot.aon = false) ∧ (∃ (n : Nat), 0 < n ∧
    n ≤ 32) ∧ (∃ (e : Env) (s : State) (s1 : State) (s2 : State), s1 = s.enter e ∧ s1.boot.aon = true ∧ s1.boot.held = true ∧ s1.boot.keep = false ∧
    s1.cupola.tripped = false ∧ s2 = ({ s1 with boot := { s1.boot with keep := true } } : State).setKeepDown 0) ∧ (∃ (e : Env) (m : Bool) (sb : Bool)
    (id : Nat) (s : State) (s1 : State) (s2 : State), s1 = s.enter e ∧ s1.resettable = true ∧ s1.boot.perst = false ∧ s2 =
    ({ s1 with boot := { s1.boot with perst := true }, ring := { s1.ring with strapMaster := m, strapStandby := sb } } : State).put
    F.RING_STATUS_RING_ID (id % 4)) ∧ (∃ (e : Env) (s : State) (s1 : State), s1 = s.enter e ∧ s1.phase = 1 ∧ s1.boot.keep = true ∧ s1.on
    F.RAS_STATUS_FATAL = false) := ⟨⟨e0, (List.replicate 32 1), (List.replicate 32 [some 7]), State.reset, _, rfl, by decide +kernel,
    by decide +kernel⟩, ⟨e0, State.reset, _, rfl, by decide +kernel⟩, ⟨32, by decide +kernel, by decide +kernel⟩, ⟨e0,
    { State.reset with boot := { aon := true, held := true } }, _, _, rfl, by decide +kernel, by decide +kernel, by decide +kernel, by decide +kernel,
    rfl⟩, ⟨e0, false, false, 3, { State.reset with boot := { aon := true, held := true, keep := true } }, _, _, rfl, by decide +kernel,
    by decide +kernel, rfl⟩, ⟨e0, (up.put F.GLB_BOOT_STATUS_PHASE 1), _, rfl, by decide +kernel, by decide +kernel, by decide +kernel⟩⟩
theorem witness_TheDevicePowersOnAndComesUp_2 : (∃ (e : Env) (s : State) (s1 : State), s1 = s.enter e ∧ s1.sealCheck = none) ∧ (∃ (e : Env) (s :
    State) (s1 : State) (code : _) (off : _), s1 = s.enter e ∧ s1.sealCheck = some (code, some off)) ∧ (∃ (e : Env) (s : State) (s1 : State), s1 =
    s.enter e ∧ s1.phase ≠ 2) ∧ (∃ (e : Env) (s : State) (s1 : State), s1 = s.enter e) := ⟨⟨e0, sealable, _, rfl, by decide +kernel⟩, ⟨e0, (up.put
    F.GLB_BOOT_STATUS_PHASE 2), _, _, _, rfl, rfl⟩, ⟨e0, store, _, rfl, by decide +kernel⟩, ⟨e0, store, _, rfl⟩⟩
theorem witness_ResetsClearAndKeep : (∃ (e : Env) (kind : Nat) (s : State) (s1 : State) (s2 : State), s1 = s.enter e ∧ s1.resettable = true ∧ s2 = (if
    s1.flashReadable && !s1.on F.FLASH_STATUS_PF then s1.flashSafe else s1) ∧ (kind = 1 ∨ kind = 2)) ∧ (∃ (e : Env) (op : Bool) (s : State) (s1 :
    State) (s2 : State), s1 = s.enter e ∧ s1.resettable = true ∧ s2 = (if s1.flashReadable && !s1.on F.FLASH_STATUS_PF then s1.flashSafe else s1) ∧
    (op = true → s1.opSession true = true)) := ⟨⟨e0, 2, store, _, _, rfl, by decide +kernel, rfl, by decide +kernel⟩, ⟨e0, true, operated, _, _, rfl,
    by decide +kernel, rfl, by decide +kernel⟩⟩
theorem witness_PartitionsComeAndGo_1 : (∃ (e : Env) (rid : Nat) (p : Nat) (s : State) (s1 : State) (r : Req), s1 = s.enter e ∧ s1.startedReq? rid
    [0x7E] = some r ∧ p = r.partArg ∧ p = 0) ∧ (∃ (e : Env) (rid : Nat) (p : Nat) (s : State) (s1 : State) (r : Req), s1 = s.enter e ∧ s1.startedReq?
    rid [0x7E] = some r ∧ p = r.partArg ∧ p ≠ 0 ∧ s1.pstate p = 0 ∧ s1.on F.PART_STATE_CONFIGURED p = false) ∧ (∃ (e : Env) (rid : Nat) (p : Nat) (s :
    State) (s1 : State) (s2 : State) (r : Req), s1 = s.enter e ∧ s1.startedReq? rid [0x7E] = some r ∧ p = r.partArg ∧ p ≠ 0 ∧ s1.pstate p = 0 ∧ s1.on
    F.PART_STATE_CONFIGURED p = true ∧ s2 = (s1.setPart p (fun x => { x with restored := false })).put F.PART_STATE_RESTORED 0 p) ∧ (∃ (e : Env) (rid
    : Nat) (p : Nat) (s : State) (s1 : State) (r : Req), s1 = s.enter e ∧ s1.startedReq? rid [0x7E] = some r ∧ p = r.partArg ∧ p ≠ 0 ∧ s1.pstate p ≠ 0
    ∧ r.fWaitFree = false) ∧ (∃ (e : Env) (rid : Nat) (p : Nat) (s : State) (s1 : State) (r : Req), s1 = s.enter e ∧ s1.startedReq? rid [0x7C] = some
    r ∧ p = r.partArg ∧ p ≠ 0 ∧ s1.pstate p ≠ 0) ∧ (∃ (e : Env) (rid : Nat) (p : Nat) (s : State) (s1 : State) (r : Req) (b : Bytes), s1 = s.enter e ∧
    s1.startedReq? rid [0x7C] = some r ∧ p = r.partArg ∧ p ≠ 0 ∧ s1.pstate p = 0 ∧ s1.busRead (memKey r.srcSpace r.addr24) 128 = .ok b ∧ configOk b =
    false) := ⟨⟨e0, 5, _, (wr store (rq [(0, 0x7E)])), _, _, rfl, rfl, rfl, by decide +kernel⟩, ⟨e0, 5, _, (wr (part127 0 0) (rq [(0, 0x7E), (16,
    127)])), _, _, rfl, rfl, rfl, by decide +kernel, by decide +kernel, by decide +kernel⟩, ⟨e0, 5, _, (wr (part127 0 1) (rq [(0, 0x7E), (16, 127)])),
    _, _, _, rfl, rfl, rfl, by decide +kernel, by decide +kernel, by decide +kernel, rfl⟩, ⟨e0, 5, _, (wr (part127 1 1) (rq [(0, 0x7E), (16, 127)])),
    _, _, rfl, rfl, rfl, by decide +kernel, by decide +kernel, by decide +kernel⟩, ⟨e0, 5, _, (wr (part127 1 1) (rq [(0, 0x7C), (16, 127), (24,
    0x1000)])), _, _, rfl, rfl, rfl, by decide +kernel, by decide +kernel⟩, ⟨e0, 5, _, (holding (wr store (rq [(0, 0x7C), (16, 127), (24, 0x1000)]))
    []), _, _, _, rfl, rfl, rfl, by decide +kernel, by decide +kernel, rfl, by decide +kernel⟩⟩
theorem witness_PartitionsComeAndGo_2 : (∃ (e : Env) (rid : Nat) (p : Nat) (s : State) (s1 : State) (r : Req) (b : Bytes), s1 = s.enter e ∧
    s1.startedReq? rid [0x7C] = some r ∧ p = r.partArg ∧ p ≠ 0 ∧ s1.pstate p = 0 ∧ s1.busRead (memKey r.srcSpace r.addr24) 128 = .ok b ∧ configOk b =
    true ∧ s1.configFits p b = false) ∧ (∃ (e : Env) (rid : Nat) (p : Nat) (s : State) (s1 : State) (r : Req) (b : Bytes), s1 = s.enter e ∧
    s1.startedReq? rid [0x7C] = some r ∧ p = r.partArg ∧ p ≠ 0 ∧ s1.pstate p = 0 ∧ s1.busRead (memKey r.srcSpace r.addr24) 128 = .ok b ∧ configOk b =
    true ∧ s1.configFits p b = true ∧ (s1.parts.getD p {}).restored = false) ∧ (∃ (e : Env) (rid : Nat) (p : Nat) (s : State) (s1 : State) (r : Req),
    s1 = s.enter e ∧ s1.startedReq? rid [0x7D] = some r ∧ p = r.partArg ∧ p ≠ 0 ∧ s1.pstate p ≠ 1) ∧ (∃ (e : Env) (rid : Nat) (p : Nat) (s : State)
    (s1 : State) (r : Req), s1 = s.enter e ∧ s1.startedReq? rid [0x7D] = some r ∧ p = r.partArg ∧ p ≠ 0 ∧ s1.pstate p = 1) ∧ (∃ (e : Env) (p : Nat) (s
    : State) (s1 : State) (s2 : State), s1 = s.enter e ∧ s1.pstate p = 2 ∧ s1.netDrained p = (true, s2) ∧ s2.purgeOpen p = false ∧ (∀ x ∈ s2.reqs,
    x.2.part ≠ p) ∧ (∀ x ∈ s2.insts, x.2.part ≠ p)) ∧ (∃ (e : Env) (p : Nat) (rid : Nat) (s : State) (s1 : State) (s2 : State) (b : Bytes), s1 =
    s.enter e ∧ s1.pstate p = 3 ∧ s1.scrubbed p = true ∧ (s1.parts.getD p {}).scrubFor = some rid ∧ (s1.req? rid = none ∨ (∃ r, s1.req? rid = some r ∧
    r.wait = .teardown p)) ∧ (s1.parts.getD p {}).block = some b ∧ s2 = (s1.setPart p (fun (y : Part) =>
    { y with restored := false, scrubFor := none, frozen := [] })).put F.PART_STATE_RESTORED 0 p) := ⟨⟨e0, 5, _, (holding (wr store (rq [(0, 0x7C),
    (16, 127), (24, 0x1000)])) (block1.set 48 1 |>.set 52 1)), _, _, _, rfl, rfl, rfl, by decide +kernel, by decide +kernel, rfl, by decide +kernel,
    by decide +kernel⟩, ⟨e0, 5, _, (holding (wr store (rq [(0, 0x7C), (16, 127), (24, 0x1000)])) block1), _, _, _, rfl, rfl, rfl, by decide +kernel,
    by decide +kernel, rfl, by decide +kernel, by decide +kernel, by decide +kernel⟩, ⟨e0, 5, _, (wr (part127 2 1) (rq [(0, 0x7D), (16, 127)])), _, _,
    rfl, rfl, rfl, by decide +kernel, by decide +kernel⟩, ⟨e0, 5, _, (wr (part127 1 1) (rq [(0, 0x7D), (16, 127)])), _, _, rfl, rfl, rfl,
    by decide +kernel, by decide +kernel⟩, ⟨e0, 127, (part127 2 1), _, _, rfl, by decide +kernel, rfl, by decide +kernel, by decide +kernel,
    by decide +kernel⟩, ⟨e0, 127, 5, { part127 3 1 with parts := [(127, { scrubFor := some 5, block := some block1 })] }, _, _, _, rfl,
    by decide +kernel, by decide +kernel, by decide +kernel, by decide +kernel, rfl, rfl⟩⟩
theorem witness_RegistersActByAccessCode_1 : (∃ (e : Env) (off : Nat) (s : State) (s1 : State), s1 = s.enter e ∧ s1.phase ≠ 0 ∧ s1.dieWorks 0 = true ∧
    off % 4 = 0 ∧ off < 0x4000000 ∧ s1.answers off = true) ∧ (∃ (e : Env) (off : Nat) (s : State) (s1 : State), s1 = s.enter e ∧ s1.phase ≠ 0 ∧
    s1.dieWorks 0 = true ∧ off % 4 = 0 ∧ off < 0x4000000 ∧ s1.answers off = false) ∧ (∃ (e : Env) (off : Nat) (s : State) (s1 : State), s1 = s.enter e
    ∧ s1.phase ≠ 0 ∧ s1.dieWorks 0 = true ∧ off % 4 = 0 ∧ off < 0x4000000 ∧ off < 0x3C00000) ∧ (∃ (e : Env) (fn : Nat) (off : Nat) (size : Nat) (s :
    State) (s1 : State), s1 = s.enter e ∧ s1.phase ≠ 0 ∧ s1.dieWorks 0 = true ∧ (fn = 0 ∨ s1.vfEnabled fn = true) ∧ fn ≠ mgmtPort ∧ off < barSize fn ∧
    ((size ≠ 4 ∧ size ≠ 8) ∨ off % size ≠ 0)) ∧ (∃ (e : Env) (fn : Nat) (off : Nat) (stream : Option Nat) (s : State) (s1 : State), s1 = s.enter e ∧
    s1.phase ≠ 0 ∧ s1.dieWorks 0 = true ∧ (fn = 0 ∨ s1.vfEnabled fn = true) ∧ off < 0x10000 ∧ s1.windowOpen fn stream = false) ∧ (∃ (e : Env) (fn :
    Nat) (off : Nat) (size : Nat) (stream : Option Nat) (s : State) (s1 : State), s1 = s.enter e ∧ s1.phase ≠ 0 ∧ s1.dieWorks 0 = true ∧ (fn = 0 ∨
    s1.vfEnabled fn = true) ∧ off < 0x10000 ∧ s1.windowOpen fn stream = true ∧ (size = 4 ∨ size = 8) ∧ off % size = 0) := ⟨⟨e0, 0x3FFFFFC, store, _,
    rfl, by decide +kernel, by decide +kernel, by decide +kernel, by decide +kernel, by decide +kernel⟩, ⟨e0, 0x3FFFFFC, (store.put
    F.GLB_BOOT_STATUS_PHASE 5), _, rfl, by decide +kernel, by decide +kernel, by decide +kernel, by decide +kernel, by decide +kernel⟩, ⟨e0,
    0x3BFFFFC, store, _, rfl, by decide +kernel, by decide +kernel, by decide +kernel, by decide +kernel, by decide +kernel⟩, ⟨e0, 0, 0x3FFFFFE, 4,
    store, _, rfl, by decide +kernel, by decide +kernel, by decide +kernel, by decide +kernel, by decide +kernel, by decide +kernel⟩, ⟨e0, 0, 0xFFFF,
    none, { tenant3 0 with sec := { linkIde := true } }, _, rfl, by decide +kernel, by decide +kernel, by decide +kernel, by decide +kernel,
    by decide +kernel⟩, ⟨e0, 0, 0xFFF8, 8, none, store, _, rfl, by decide +kernel, by decide +kernel, by decide +kernel, by decide +kernel,
    by decide +kernel, by decide +kernel, by decide +kernel⟩⟩
theorem witness_RegistersActByAccessCode_2 : ∃ (e : Env) (off : Nat) (s : State) (s1 : State), s1 = s.enter e ∧ s1.phase ≠ 0 ∧ s1.dieWorks 0 = true ∧
    isCause 0 off = true ∧ off ≠ 0x10000100 := ⟨e0, 0x100110, store, _, rfl, by decide +kernel, by decide +kernel, by decide +kernel,
    by decide +kernel⟩
theorem witness_RegistersActByAccessCode_3 : ∃ (d : _) (f : Nat × Nat × Access) (old : Nat), d ∈ regsAll ∧ f ∈ d.fields ∧ old < 2 ^ 32 := ⟨⟨0x0, 0x0,
    1, 0x0, 1, 0x57400, [(15, 0, .ro), (31, 16, .ro)]⟩, (31, 16, .ro), 0xFFFFFFFF, glbId_mem, by decide +kernel, by decide +kernel⟩
theorem witness_ForksBeyondThePublishedChunksAreNotFound : ∃ (e : Env) (rid : Nat) (s : State) (s1 : State) (r : Req), s1 = s.enter e ∧ s1.startedReq?
    rid [0x13] = some r ∧ ((s1.seq (hSeq r.handle)).state = .openS ∨ (s1.seq (hSeq r.handle)).state = .published) ∧ (s1.seq (hSeq
    r.handle)).publishedChunks < r.chunkCount16 := ⟨e0, 5, (wr (has pubSeq pubLeaf) (rq [(0, 0x13), (8, 1), (16, 2)])), _, _, rfl, rfl,
    by decide +kernel, by decide +kernel⟩
theorem witness_InsertionSetsThePriority : ∃ (e : Env) (rid : Nat) (n : Nat) (failed : Bool) (s : State) (s1 : State) (s2 : State) (r : Req) (q :
    Sequ), s1 = s.enter e ∧ s1.startedReq? rid [0x32] = some r ∧ q = s1.seq (hSeq r.handle) ∧ (q.state = .openS ∨ q.state = .published) ∧ s1.shapeBad
    q.partition q.shapeIndex q.shapeEpoch = false ∧ (s1.seqJournaled q = true → s1.journalFull = false) ∧ (∀ c0 cs, q.chunks = c0 :: cs →
    s1.otherOwner? r.snap.shards (shardBucket c0.hash) = none) ∧ s1.overQuota r.part r.chunkCount16 = false ∧ s1.insertAll ((insertChunks q
    r.chunkFirst24 r.chunkCount16).map (s1.indexEntry (hSeq r.handle) q)) = (n, failed, s2) := ⟨e0, 5, _, _, (wr ((has pubSeq pubLeaf).put
    F.PART_INDEX_QUOTA_MAX_ENTRIES 1 0) (rq [(0, 0x32), (8, 1), (16, 1)])), _, _, _, _, rfl, rfl, rfl, by decide +kernel, by decide +kernel,
    by decide +kernel, fun _ _ _ => rfl, by decide +kernel, rfl⟩
theorem witness_ThePatternEngineStaysOnForItsRules : ∃ (e : Env) (k : Nat) (x : Slots RuleSet) (s : State) (s1 : State), s1 = s.enter e ∧ s1.pdUp =
    true ∧ (s1.pd 91).state = 2 ∧ (k, x) ∈ s1.rules ∧ ((x.a.loaded = true ∧ x.a.body.rules ≠ []) ∨ (x.b.loaded = true ∧ x.b.body.rules ≠ [])) := ⟨e0,
    0, ruleSlots1, { domain 91 2 with rules := [(0, ruleSlots1)] }, _, rfl, by decide +kernel, by decide +kernel, List.mem_cons_self,
    by decide +kernel⟩

end Sys2Proof.Tests
end

section
/-! PROOF. SEQ_FORK beyond the chunks that its source has published (R42). -/

namespace Sys2Proof.Machine

open Sys2Proof

/-- The meaning of SEQ_FORK is its effect on the state that its environment has entered. -/
theorem exec_seqFork (e : Env) (rid : Nat) (s : State) :
    exec (.seqFork e rid) s = .next (effSeqFork (s.enter e) rid) := rfl

/-- R42: the count is compared after RETIRED (EVICTED) and before every other check of a fork. -/
theorem effSeqFork_of_publishedChunks_lt {s : State} {rid : Nat} {r : Req} (hr : s.startedReq? rid [0x13] = some r)
    (hlive : (s.seq (hSeq r.handle)).state ≠ .retired)
    (hcount : (s.seq (hSeq r.handle)).publishedChunks < r.chunkCount16) :
    effSeqFork s rid = s.complete rid .notFound := by
  simp only [effSeqFork, hr]
  rw [if_neg hlive, if_pos hcount]

/-- A sequence that is OPEN or PUBLISHED is not RETIRED. -/
theorem Sequ.ne_retired_of_open_or_published {q : Sequ} (h : q.state = .openS ∨ q.state = .published) :
    q.state ≠ .retired := by
  rcases h with hopen | hpublished
  · simp [hopen]
  · simp [hpublished]

/-- Settles O58: the source is not RETIRED, so the comparison of R42 is the first check that the fork meets. -/
theorem forksBeyondThePublishedChunksAreNotFound : Obligations.ForksBeyondThePublishedChunksAreNotFound := by
  rintro e rid s _ r rfl hr hstate hcount
  rw [exec_seqFork, effSeqFork_of_publishedChunks_lt hr (Sequ.ne_retired_of_open_or_published hstate) hcount]

end Sys2Proof.Machine
end

section
/-! PROOF. The priority of an index entry (R106): what the chunk and the sequence give it, its use by PREFIX_INSERT, its copy in Canopy. -/

namespace Sys2Proof.Machine

open Sys2Proof

/-- R106: the pin flag comes first. -/
theorem indexPriority_of_pin {q : Sequ} {c : Chunk} (hpin : c.acts.pin = true) : indexPriority q c = 0xC0 :=
  if_pos hpin

/-- R106: below the pin flag, short_ttl comes before the persistence of the sequence. -/
theorem indexPriority_of_shortTtl {q : Sequ} {c : Chunk} (hpin : c.acts.pin = false) (httl : c.acts.shortTtl = true) :
    indexPriority q c = 0x20 := by
  simp [indexPriority, hpin, httl]

/-- R106: with neither flag, a sequence that persists gives the higher priority. -/
theorem indexPriority_of_persist_ne_vol {q : Sequ} {c : Chunk} (hpin : c.acts.pin = false) (httl : c.acts.shortTtl = false)
    (hpersist : q.persist ≠ .vol) : indexPriority q c = 0x80 := by
  simp [indexPriority, hpin, httl, hpersist]

/-- R106: the priority that is left where nothing raises or lowers it. -/
theorem indexPriority_of_persist_eq_vol {q : Sequ} {c : Chunk} (hpin : c.acts.pin = false) (httl : c.acts.shortTtl = false)
    (hpersist : q.persist = .vol) : indexPriority q c = 0x40 := by
  simp [indexPriority, hpin, httl, hpersist]

@[simp] theorem State.indexEntry_priority (s : State) (k : Nat) (q : Sequ) (c : Chunk) :
    (s.indexEntry k q c).priority = indexPriority q c := rfl

@[simp] theorem rootCopy_priority (s : State) (w key : Nat) (x : RootEntry) : (rootCopy s w key x).priority = x.priority := rfl

/-- The meaning of PREFIX_INSERT is its effect on the state that its environment has entered. -/
theorem exec_prefixInsert (e : Env) (rid : Nat) (s : State) :
    exec (.prefixInsert e rid) s = .next (effPrefixInsert (s.enter e) rid) := rfl

/-- R115: an insertion for a live sequence that passes the checks of its shape and of the journal, and whose bucket this member owns,
is refused by the partition's quota alone; else it inserts the entries of its chunks and completes. -/
theorem effPrefixInsert_of_local {s : State} {rid : Nat} {r : Req} {q : Sequ} (hr : s.startedReq? rid [0x32] = some r)
    (hq : s.seq (hSeq r.handle) = q) (hlive : q.state = .openS ∨ q.state = .published)
    (hshape : s.shapeBad q.partition q.shapeIndex q.shapeEpoch = false)
    (hjournal : s.seqJournaled q = true → s.journalFull = false)
    (howner : ∀ c0 cs, q.chunks = c0 :: cs → s.otherOwner? r.snap.shards (shardBucket c0.hash) = none) :
    effPrefixInsert s rid =
      if s.overQuota r.part r.chunkCount16 then s.complete rid .quotaExceeded
      else
        let (n, failed, s) := s.insertAll ((insertChunks q r.chunkFirst24 r.chunkCount16).map (s.indexEntry (hSeq r.handle) q))
        s.finishInsert rid r n failed := by
  have halive : (q.state == .openS || q.state == .published) = true := by simpa using hlive
  have hroom : (s.seqJournaled q && s.journalFull) = false := by simpa using hjournal
  simp only [effPrefixInsert, hr, hq, halive, hshape, hroom, Bool.true_and, Bool.false_eq_true, if_false, if_true]
  cases hchunks : q.chunks with
  | nil => rfl
  | cons c0 cs => simp only [howner c0 cs hchunks]

/-- Settles O59: each clause of R106 is a value of `indexPriority`, which is the priority that `indexEntry` writes; a PREFIX_INSERT within
the quota inserts exactly those entries; and `rootCopy` keeps the priority. -/
theorem insertionSetsThePriority : Obligations.InsertionSetsThePriority := by
  refine ⟨fun s k q c => ⟨?pin, ?shortTtl, ?durable, ?volatile⟩, ?insert, rootCopy_priority⟩
  case pin => exact indexPriority_of_pin
  case shortTtl => exact indexPriority_of_shortTtl
  case durable =>
    intro hpin httl hdurable
    exact indexPriority_of_persist_ne_vol hpin httl (by simp [hdurable])
  case volatile => exact indexPriority_of_persist_eq_vol
  case insert =>
    rintro e rid n failed s _ s2 r _ rfl hr rfl hlive hshape hjournal howner hquota hinsert
    rw [exec_prefixInsert, effPrefixInsert_of_local hr rfl hlive hshape hjournal howner]
    simp only [hquota, hinsert, Bool.false_eq_true, if_false]

end Sys2Proof.Machine
end

section
/-! PROOF. A request to switch PD_PATTERN off while a loaded rule set holds a rule (R124). -/

namespace Sys2Proof.Machine

open Sys2Proof

/-- The meaning of PD_OFF is its effect on the state that its environment has entered. -/
theorem exec_pdOff (e : Env) (d : Nat) (s : State) : exec (.pdOff e d) s = .next (effPdOff (s.enter e) d) := rfl

/-- R450: what the Refused column names for a domain that is ON. The HBM stacks (64 to 71) are left out: they answer ACCESS_DENIED. -/
theorem effPdOff_of_offRefused {s : State} {d : Nat} (hd : d < 92) (hstack : ¬ (64 ≤ d ∧ d < 72)) (hup : s.pdUp = true)
    (hon : (s.pd d).state = 2) (hrefused : s.offRefused d = true) : effPdOff s d = s.pdResult d .busyTeardown := by
  have htakes : (decide (d ≥ 92) || !s.pdUp) = false := by simp [hd, hup]
  have hplain : (decide (64 ≤ d) && decide (d < 72)) = false := by simpa using hstack
  simp [effPdOff, htakes, hplain, hon, hrefused]

/-- R124 in the Refused column of R450: PD_PATTERN (91) waits for the rule sets, and one rule in either loaded slot is enough. -/
theorem State.offRefused_pattern_iff (s : State) :
    s.offRefused 91 = true ↔ ∃ k x, (k, x) ∈ s.rules ∧
      ((x.a.loaded = true ∧ x.a.body.rules ≠ []) ∨ (x.b.loaded = true ∧ x.b.body.rules ≠ [])) := by
  simp [State.offRefused]

/-- Settles O60: the rule in a loaded slot is what the Refused column of PD_PATTERN asks for, and a refused domain that is ON answers
BUSY_TEARDOWN. -/
theorem thePatternEngineStaysOnForItsRules : Obligations.ThePatternEngineStaysOnForItsRules := by
  rintro e k x s _ rfl hup hon hmem hrule
  have hrefused : (s.enter e).offRefused 91 = true := (State.offRefused_pattern_iff _).2 ⟨k, x, hmem, hrule⟩
  rw [exec_pdOff, effPdOff_of_offRefused (by decide) (by decide) hup hon hrefused]

end Sys2Proof.Machine
end

section
/-! PROOF. Every command answers, leaves the waiting commands alone and keeps the invariant: each command enters its environment and then
takes its effect, and both keep (Laws/Keeps*.lean). -/

namespace Sys2Proof.Machine

open Sys2Proof

/-- What goes before a command, its time and what the outside did to memory, keeps the queue and the invariant. -/
theorem keeps_enter (e : Env) (s : State) : Keeps s (s.enter e) := enter_keeps e (Keeps.refl s)

/-- Every command answers a next state that keeps the queue and the invariant: one case per row of the opcode table, closed by the lemma of
its effect. -/
theorem exec_keeps (c : Instr) (s : State) : ∃ t, exec c s = .next t ∧ Keeps s t := by
  have hk (e : Env) : Keeps s (s.enter e) := keeps_enter e s
  cases c with
  | nop e rid => exact ⟨_, rfl, effNop_keeps rid (hk e)⟩
  | fence e rid => exact ⟨_, rfl, effFence_keeps rid (hk e)⟩
  | seqOpen e rid => exact ⟨_, rfl, effSeqOpen_keeps rid (hk e)⟩
  | seqAppend e rid => exact ⟨_, rfl, effSeqAppend_keeps rid (hk e)⟩
  | seqPublish e rid => exact ⟨_, rfl, effSeqPublish_keeps rid (hk e)⟩
  | seqFork e rid => exact ⟨_, rfl, effSeqFork_keeps rid (hk e)⟩
  | seqRetire e rid => exact ⟨_, rfl, effSeqRetire_keeps rid (hk e)⟩
  | seqHeartbeat e rid => exact ⟨_, rfl, effSeqHeartbeat_keeps rid (hk e)⟩
  | leafRead e rid => exact ⟨_, rfl, effLeafRead_keeps rid (hk e)⟩
  | leafWrite e rid => exact ⟨_, rfl, effLeafWrite_keeps rid (hk e)⟩
  | leafPin e rid => exact ⟨_, rfl, effLeafPin_keeps rid (hk e)⟩
  | leafUnpin e rid => exact ⟨_, rfl, effLeafUnpin_keeps rid (hk e)⟩
  | leafEvict e rid => exact ⟨_, rfl, effLeafEvict_keeps rid (hk e)⟩
  | leafMigrate e rid => exact ⟨_, rfl, effLeafMigrate_keeps rid (hk e)⟩
  | prefixLookup e rid => exact ⟨_, rfl, effPrefixLookup_keeps rid (hk e)⟩
  | prefixStep e rid => exact ⟨_, rfl, effPrefixStep_keeps rid (hk e)⟩
  | prefixInsert e rid => exact ⟨_, rfl, effPrefixInsert_keeps rid (hk e)⟩
  | prefixRemove e rid => exact ⟨_, rfl, effPrefixRemove_keeps rid (hk e)⟩
  | attend e rid => exact ⟨_, rfl, effAttend_keeps rid (hk e)⟩
  | select e rid => exact ⟨_, rfl, effSelect_keeps rid (hk e)⟩
  | deliver e rid => exact ⟨_, rfl, effDeliver_keeps rid (hk e)⟩
  | beatMark e rid => exact ⟨_, rfl, effBeatMark_keeps rid (hk e)⟩
  | scheduleArm e rid => exact ⟨_, rfl, effScheduleArm_keeps rid (hk e)⟩
  | scheduleDisarm e rid => exact ⟨_, rfl, effScheduleDisarm_keeps rid (hk e)⟩
  | tableLoadShape e rid => exact ⟨_, rfl, effTableLoadShape_keeps rid (hk e)⟩
  | tableLoadRuleSet e rid => exact ⟨_, rfl, effTableLoadRuleSet_keeps rid (hk e)⟩
  | tableLoadScheduleImage e rid => exact ⟨_, rfl, effTableLoadScheduleImage_keeps rid (hk e)⟩
  | tableLoadMediaProfile e rid => exact ⟨_, rfl, effTableLoadMediaProfile_keeps rid (hk e)⟩
  | rulesSwitch e rid => exact ⟨_, rfl, effRulesSwitch_keeps rid (hk e)⟩
  | codecTrain e rid => exact ⟨_, rfl, effCodecTrain_keeps rid (hk e)⟩
  | poolFlush e rid => exact ⟨_, rfl, effPoolFlush_keeps rid (hk e)⟩
  | poolLeaseAcquire e rid => exact ⟨_, rfl, effPoolLeaseAcquire_keeps rid (hk e)⟩
  | poolLeaseRenew e rid => exact ⟨_, rfl, effPoolLeaseRenew_keeps rid (hk e)⟩
  | poolLeaseRelease e rid => exact ⟨_, rfl, effPoolLeaseRelease_keeps rid (hk e)⟩
  | poolStageOut e rid => exact ⟨_, rfl, effPoolStageOut_keeps rid (hk e)⟩
  | poolStageIn e rid => exact ⟨_, rfl, effPoolStageIn_keeps rid (hk e)⟩
  | mrRegister e rid => exact ⟨_, rfl, effMrRegister_keeps rid (hk e)⟩
  | mrRevoke e rid => exact ⟨_, rfl, effMrRevoke_keeps rid (hk e)⟩
  | partitionCreate e rid => exact ⟨_, rfl, effPartitionCreate_keeps rid (hk e)⟩
  | partitionTeardown e rid => exact ⟨_, rfl, effPartitionTeardown_keeps rid (hk e)⟩
  | partitionEnable e rid => exact ⟨_, rfl, effPartitionEnable_keeps rid (hk e)⟩
  | sqTail e fn page off size val => exact ⟨_, rfl, effSqTail_keeps fn page off size val (hk e)⟩
  | cqHead e fn page off size val => exact ⟨_, rfl, effCqHead_keeps fn page off size val (hk e)⟩
  | descriptorFetch e q n => exact ⟨_, rfl, effDescriptorFetch_keeps q n (hk e)⟩
  | submissionReadFail e q n poisoned => exact ⟨_, rfl, effSubmissionReadFail_keeps q n poisoned (hk e)⟩
  | descriptorStart e rid => exact ⟨_, rfl, effDescriptorStart_keeps rid (hk e)⟩
  | cqModDelayExpiry e c => exact ⟨_, rfl, effCqModDelayExpiry_keeps c (hk e)⟩
  | sqEnable e fn q val => exact ⟨_, rfl, effSqEnable_keeps fn q val (hk e)⟩
  | sqDisable e fn q val => exact ⟨_, rfl, effSqDisable_keeps fn q val (hk e)⟩
  | sqInactive e q => exact ⟨_, rfl, effSqInactive_keeps q (hk e)⟩
  | cqEnable e fn c val => exact ⟨_, rfl, effCqEnable_keeps fn c val (hk e)⟩
  | cqDisable e fn c val => exact ⟨_, rfl, effCqDisable_keeps fn c val (hk e)⟩
  | functionLevelReset e fn => exact ⟨_, rfl, effFunctionLevelReset_keeps fn (hk e)⟩
  | vfEnableChange e enable num => exact ⟨_, rfl, effVfEnableChange_keeps enable num (hk e)⟩
  | registerWrite e fn bar off size val stream => exact ⟨_, rfl, effRegisterWrite_keeps fn bar off size val stream (hk e)⟩
  | leaseExpiry e seq => exact ⟨_, rfl, effLeaseExpiry_keeps seq (hk e)⟩
  | sequenceFree e seq => exact ⟨_, rfl, effSequenceFree_keeps seq (hk e)⟩
  | holdRelease e owner leaf cid => exact ⟨_, rfl, effHoldRelease_keeps owner leaf cid (hk e)⟩
  | chunkSeal e seq chunk => exact ⟨_, rfl, effChunkSeal_keeps seq chunk (hk e)⟩
  | searchContextExpiry e ctx => exact ⟨_, rfl, effSearchContextExpiry_keeps ctx (hk e)⟩
  | canopyPromote e => exact ⟨_, rfl, effCanopyPromote_keeps  (hk e)⟩
  | canopyRespread e bank => exact ⟨_, rfl, effCanopyRespread_keeps bank (hk e)⟩
  | canopyParityScan e failing lost lapUs => exact ⟨_, rfl, effCanopyParityScan_keeps failing lost lapUs (hk e)⟩
  | canopyBankFlush e bank => exact ⟨_, rfl, effCanopyBankFlush_keeps bank (hk e)⟩
  | workUnitFinish e spire => exact ⟨_, rfl, effWorkUnitFinish_keeps spire (hk e)⟩
  | spireSlowCheck e spire keyLines valueLines => exact ⟨_, rfl, effSpireSlowCheck_keeps spire (keyLines + valueLines) (hk e)⟩
  | spireSlowExit e spire => exact ⟨_, rfl, effSpireSlowExit_keeps spire (hk e)⟩
  | lanternCalibrationDue e array temp => exact ⟨_, rfl, effLanternCalibrationDue_keeps array temp (hk e)⟩
  | lanternCalibrationDone e array => exact ⟨_, rfl, effLanternCalibrationDone_keeps array (hk e)⟩
  | lanternStale e array temp => exact ⟨_, rfl, effLanternStale_keeps array temp (hk e)⟩
  | beatPinEdge e domain sync => exact ⟨_, rfl, effBeatPinEdge_keeps domain sync (hk e)⟩
  | beatFrame e domain time layers sync => exact ⟨_, rfl, effBeatFrame_keeps domain time layers sync (hk e)⟩
  | beatLostTimeout e domain => exact ⟨_, rfl, effBeatLostTimeout_keeps domain (hk e)⟩
  | beatSynthLayer e domain => exact ⟨_, rfl, effBeatSynthLayer_keeps domain (hk e)⟩
  | scheduleSwitch e part => exact ⟨_, rfl, effScheduleSwitch_keeps part (hk e)⟩
  | eventIssue e p ev => exact ⟨_, rfl, effEventIssue_keeps p ev (hk e)⟩
  | queryStampPoll e inst k => exact ⟨_, rfl, effQueryStampPoll_keeps inst k (hk e)⟩
  | commitPoint e inst id => exact ⟨_, rfl, effCommitPoint_keeps inst id (hk e)⟩
  | eventCompletion e inst => exact ⟨_, rfl, effEventCompletion_keeps inst (hk e)⟩
  | placementSweepVisit e leaf => exact ⟨_, rfl, effPlacementSweepVisit_keeps leaf (hk e)⟩
  | backgroundRelief e tier => exact ⟨_, rfl, effBackgroundRelief_keeps tier (hk e)⟩
  | promotion e leaf => exact ⟨_, rfl, effPromotion_keeps leaf (hk e)⟩
  | writeBack e leaf => exact ⟨_, rfl, effWriteBack_keeps leaf (hk e)⟩
  | migrationSwitch e leaf fail => exact ⟨_, rfl, effMigrationSwitch_keeps leaf fail (hk e)⟩
  | reencodeSweep e leaf => exact ⟨_, rfl, effReencodeSweep_keeps leaf (hk e)⟩
  | journalCommit e group => exact ⟨_, rfl, effJournalCommit_keeps group (hk e)⟩
  | flashProgramDone e pa => exact ⟨_, rfl, effFlashProgramDone_keeps pa (hk e)⟩
  | flashProgramFail e pa => exact ⟨_, rfl, effFlashProgramFail_keeps pa (hk e)⟩
  | flashEraseDone e block fail => exact ⟨_, rfl, effFlashEraseDone_keeps block fail (hk e)⟩
  | flashReadDone e pa outcome lat words => exact ⟨_, rfl, effFlashReadDone_keeps pa outcome lat words (hk e)⟩
  | slowReadTimeout e read => exact ⟨_, rfl, effSlowReadTimeout_keeps read (hk e)⟩
  | dieSlowExit e die => exact ⟨_, rfl, effDieSlowExit_keeps die (hk e)⟩
  | dieFailed e die => exact ⟨_, rfl, effDieFailed_keeps die (hk e)⟩
  | fold e => exact ⟨_, rfl, effFold_keeps  (hk e)⟩
  | garbageCollection e => exact ⟨_, rfl, effGarbageCollection_keeps  (hk e)⟩
  | checkpoint e => exact ⟨_, rfl, effCheckpoint_keeps  (hk e)⟩
  | dieTemperatureRead e die temp => exact ⟨_, rfl, effDieTemperatureRead_keeps die temp (hk e)⟩
  | mount e readable => exact ⟨_, rfl, effMount_keeps readable (hk e)⟩
  | pwrFailFall e => exact ⟨_, rfl, effPwrFailFall_keeps  (hk e)⟩
  | pwrFailRise e => exact ⟨_, rfl, effPwrFailRise_keeps  (hk e)⟩
  | healthSnap e => exact ⟨_, rfl, effHealthSnap_keeps  (hk e)⟩
  | poolBwRefill e loads => exact ⟨_, rfl, effPoolBwRefill_keeps loads (hk e)⟩
  | dcOffer e target len => exact ⟨_, rfl, effDcOffer_keeps target len (hk e)⟩
  | dcReleaseRequest e ext => exact ⟨_, rfl, effDcReleaseRequest_keeps ext (hk e)⟩
  | poolExtAdd e ext => exact ⟨_, rfl, effPoolExtAdd_keeps ext (hk e)⟩
  | poolExtRelease e ext => exact ⟨_, rfl, effPoolExtRelease_keeps ext (hk e)⟩
  | extentReleased e ext => exact ⟨_, rfl, effExtentReleased_keeps ext (hk e)⟩
  | poolLeaseExpiry e base len => exact ⟨_, rfl, effPoolLeaseExpiry_keeps base len (hk e)⟩
  | poolLeaseAutoRenew e rid ok => exact ⟨_, rfl, effPoolLeaseAutoRenew_keeps rid ok (hk e)⟩
  | poolTargetFail e target ext => exact ⟨_, rfl, effPoolTargetFail_keeps target ext (hk e)⟩
  | poolPortDown e => exact ⟨_, rfl, effPoolPortDown_keeps  (hk e)⟩
  | poolRestart e => exact ⟨_, rfl, effPoolRestart_keeps  (hk e)⟩
  | qpLoad e qp addr => exact ⟨_, rfl, Keeps.ite (effQpLoad_keeps qp addr (hk e)) (hk e)⟩
  | qpError e qp => exact ⟨_, rfl, effQpError_keeps qp (hk e)⟩
  | qpReset e qp => exact ⟨_, rfl, effQpReset_keeps qp (hk e)⟩
  | qpDrainDone e qp => exact ⟨_, rfl, effQpDrainDone_keeps qp (hk e)⟩
  | qwpRequest e qp psn msg lens ecn => exact ⟨_, rfl, effQwpRequest_keeps qp psn msg lens ecn (hk e)⟩
  | rdmaWriteInbound e qp psn rkey addr total data first last len ecn =>
    exact ⟨_, rfl, effRdmaWriteInbound_keeps qp psn rkey addr total data first last len ecn (hk e)⟩
  | rdmaReadInbound e qp psn rkey addr n len ecn => exact ⟨_, rfl, effRdmaReadInbound_keeps qp psn rkey addr n len ecn (hk e)⟩
  | duplicatePacket e qp psn kind rkey addr n => exact ⟨_, rfl, effDuplicatePacket_keeps qp psn kind rkey addr n (hk e)⟩
  | pkeyDrop e qp pkey len ecn => exact ⟨_, rfl, effPkeyDrop_keeps qp pkey len ecn (hk e)⟩
  | meterRefill e p => exact ⟨_, rfl, Keeps.ite (effMeterRefill_keeps p (hk e)) (hk e)⟩
  | ackReceived e qp psn ecn => exact ⟨_, rfl, effAckReceived_keeps qp psn ecn (hk e)⟩
  | nakReceived e qp psn => exact ⟨_, rfl, effNakReceived_keeps qp psn (hk e)⟩
  | ackTimeout e qp => exact ⟨_, rfl, effAckTimeout_keeps qp (hk e)⟩
  | cnpReceived e qp => exact ⟨_, rfl, effCnpReceived_keeps qp (hk e)⟩
  | rateIncrease e qp => exact ⟨_, rfl, effRateIncrease_keeps qp (hk e)⟩
  | subportLinkChange e port sub up => exact ⟨_, rfl, effSubportLinkChange_keeps port sub up (hk e)⟩
  | egressFrameStart e port => exact ⟨_, rfl, effEgressFrameStart_keeps port (hk e)⟩
  | shaperRefill e port => exact ⟨_, rfl, effShaperRefill_keeps port (hk e)⟩
  | queueDepthSample e port => exact ⟨_, rfl, effQueueDepthSample_keeps port (hk e)⟩
  | trafficStatClear e port queue all => exact ⟨_, rfl, effTrafficStatClear_keeps port queue all (hk e)⟩
  | partTrafficQWrite e p val => exact ⟨_, rfl, Keeps.ite (effPartTrafficQWrite_keeps p val (hk e)) (hk e)⟩
  | ringEnable e => exact ⟨_, rfl, effRingEnable_keeps  (hk e)⟩
  | ringReceiveLock e east west => exact ⟨_, rfl, effRingReceiveLock_keeps east west (hk e)⟩
  | ringTrainTimeout e => exact ⟨_, rfl, effRingTrainTimeout_keeps  (hk e)⟩
  | joinRetry e => exact ⟨_, rfl, effJoinRetry_keeps  (hk e)⟩
  | join e h serial rank fresh leave east => exact ⟨_, rfl, effJoin_keeps h serial rank fresh leave east (hk e)⟩
  | members e h body => exact ⟨_, rfl, effMembers_keeps h body (hk e)⟩
  | heartbeat e => exact ⟨_, rfl, effHeartbeat_keeps  (hk e)⟩
  | heartbeatReceived e h => exact ⟨_, rfl, effHeartbeatReceived_keeps h (hk e)⟩
  | masterTakeover e => exact ⟨_, rfl, effMasterTakeover_keeps  (hk e)⟩
  | request e h body => exact ⟨_, rfl, numbered_keeps h 0 body (hk e)⟩
  | response e h body => exact ⟨_, rfl, numbered_keeps h 1 body (hk e)⟩
  | data e h body => exact ⟨_, rfl, numbered_keeps h 2 body (hk e)⟩
  | ack e h => exact ⟨_, rfl, effAck_keeps h (hk e)⟩
  | ringRetransmit e dst => exact ⟨_, rfl, effRingRetransmit_keeps dst (hk e)⟩
  | ringAckTimer e src => exact ⟨_, rfl, effRingAckTimer_keeps src (hk e)⟩
  | ringFrameForward e fromEast dst kind seq ack num part hops len body =>
    exact ⟨_, rfl, effRingFrameForward_keeps fromEast dst kind seq ack num part hops len body (hk e)⟩
  | shard e h body => exact ⟨_, rfl, effShard_keeps h body (hk e)⟩
  | index e h body => exact ⟨_, rfl, numbered_keeps h 8 body (hk e)⟩
  | shardTransferDone e => exact ⟨_, rfl, effShardTransferDone_keeps  (hk e)⟩
  | shardReassign e pos => exact ⟨_, rfl, effShardReassign_keeps pos (hk e)⟩
  | time e h offset delays => exact ⟨_, rfl, effTime_keeps h offset delays (hk e)⟩
  | timeSend e => exact ⟨_, rfl, effTimeSend_keeps  (hk e)⟩
  | ringLeave e => exact ⟨_, rfl, effRingLeave_keeps  (hk e)⟩
  | ringCommit e => exact ⟨_, rfl, effRingCommit_keeps  (hk e)⟩
  | ringForget e pos => exact ⟨_, rfl, effRingForget_keeps pos (hk e)⟩
  | ringRebalance e => exact ⟨_, rfl, effRingRebalance_keeps  (hk e)⟩
  | hbmScrub e source unit errs addr hit lap pct => exact ⟨_, rfl, effHbmScrub_keeps source unit errs addr hit lap pct (hk e)⟩
  | scrubStalled e => exact ⟨_, rfl, effScrubStalled_keeps  (hk e)⟩
  | rasRetireGo e kind unit die => exact ⟨_, rfl, effRasRetireGo_keeps kind unit die (hk e)⟩
  | writeRaw e => exact ⟨_, rfl, effWriteRaw_keeps  (hk e)⟩
  | readRaw e => exact ⟨_, rfl, effReadRaw_keeps  (hk e)⟩
  | rasInjectArm e target unit bits => exact ⟨_, rfl, effRasInjectArm_keeps target unit bits (hk e)⟩
  | rasBistGo e target unit => exact ⟨_, rfl, effRasBistGo_keeps target unit (hk e)⟩
  | bistDone e target unit fails failed => exact ⟨_, rfl, effBistDone_keeps target unit fails failed (hk e)⟩
  | storeRecovery e badLeaves badSeqs => exact ⟨_, rfl, effStoreRecovery_keeps badLeaves badSeqs (hk e)⟩
  | fatalFault e fault => exact ⟨_, rfl, effFatalFault_keeps fault.1 fault.2 (hk e)⟩
  | keepRestart e => exact ⟨_, rfl, effKeepRestart_keeps  (hk e)⟩
  | saplingFault e cluster core => exact ⟨_, rfl, effSaplingFault_keeps cluster core (hk e)⟩
  | codecSliceReset e slice => exact ⟨_, rfl, effCodecSliceReset_keeps slice (hk e)⟩
  | extLoad e part => exact ⟨_, rfl, effExtLoad_keeps part (hk e)⟩
  | extEnable e part => exact ⟨_, rfl, effExtEnable_keeps part (hk e)⟩
  | extDisable e part => exact ⟨_, rfl, effExtDisable_keeps part (hk e)⟩
  | sealNote e part => exact ⟨_, rfl, effSealNote_keeps part (hk e)⟩
  | timer e part => exact ⟨_, rfl, effTimer_keeps part (hk e)⟩
  | keyRotate e part => exact ⟨_, rfl, effKeyRotate_keeps part (hk e)⟩
  | keyRetired e part => exact ⟨_, rfl, effKeyRetired_keeps part (hk e)⟩
  | lockInterfaceRequest e part stream => exact ⟨_, rfl, effLockInterface_keeps part stream (hk e)⟩
  | chmBind e part start => exact ⟨_, rfl, effChmBind_keeps part start (hk e)⟩
  | startInterfaceRequest e part => exact ⟨_, rfl, effStartInterface_keeps part (hk e)⟩
  | stopInterfaceRequest e part cause => exact ⟨_, rfl, effStopInterface_keeps part cause (hk e)⟩
  | secureWindowAccess e fn off size val stream => exact ⟨_, rfl, effSecureWindowAccess_keeps fn off size val stream (hk e)⟩
  | spdmGetMeasurements e fn index => exact ⟨_, rfl, effSpdmGetMeasurements_keeps fn index (hk e)⟩
  | claim e fn root extKey authentic => exact ⟨_, rfl, effClaim_keeps fn root extKey authentic (hk e)⟩
  | setFleet e secret chained => exact ⟨_, rfl, effSetFleet_keeps secret chained (hk e)⟩
  | setExtKey e key chained => exact ⟨_, rfl, effSetExtKey_keeps key chained (hk e)⟩
  | setCak e subPort key chained => exact ⟨_, rfl, effSetCak_keeps subPort key chained (hk e)⟩
  | debugUnlock e facility signed => exact ⟨_, rfl, effDebugUnlock_keeps facility signed (hk e)⟩
  | decommission e chained => exact ⟨_, rfl, effDecommission_keeps chained (hk e)⟩
  | pldmFirmwareUpdate e image verified => exact ⟨_, rfl, effPldmFirmwareUpdate_keeps image verified (hk e)⟩
  | partitionDrainDone e part => exact ⟨_, rfl, effPartitionDrainDone_keeps part (hk e)⟩
  | scrubComplete e part => exact ⟨_, rfl, effScrubComplete_keeps part (hk e)⟩
  | pdOn e domain waitFree => exact ⟨_, rfl, effPdOn_keeps domain waitFree (hk e)⟩
  | pdOff e domain => exact ⟨_, rfl, effPdOff_keeps domain (hk e)⟩
  | pdPoweredOn e domain => exact ⟨_, rfl, effPdPoweredOn_keeps domain (hk e)⟩
  | pdDrainDone e domain => exact ⟨_, rfl, effPdDrainDone_keeps domain (hk e)⟩
  | hbmSrEnter e => exact ⟨_, rfl, effHbmSrEnter_keeps  (hk e)⟩
  | hbmSrExit e => exact ⟨_, rfl, effHbmSrExit_keeps  (hk e)⟩
  | cupolaBudgetWrite e watts => exact ⟨_, rfl, effCupolaBudgetWrite_keeps watts (hk e)⟩
  | cupolaEpoch e refresh codec lantern canopy => exact ⟨_, rfl, effCupolaEpoch_keeps refresh codec lantern canopy (hk e)⟩
  | thermalSample e sensor temp => exact ⟨_, rfl, effThermalSample_keeps sensor temp (hk e)⟩
  | thermalTrip e sensor => exact ⟨_, rfl, effThermalTrip_keeps sensor (hk e)⟩
  | belfryRearm e => exact ⟨_, rfl, effBelfryRearm_keeps  (hk e)⟩
  | causeClear e fn off val => exact ⟨_, rfl, effCauseClear_keeps fn off val (hk e)⟩
  | h2kSend e box secure half val => exact ⟨_, rfl, effH2kSend_keeps box secure half val (hk e)⟩
  | k2hRead e box secure half => exact ⟨_, rfl, effK2hRead_keeps box secure half (hk e)⟩
  | keepTakeMessage e box secure => exact ⟨_, rfl, effKeepTakeMessage_keeps box secure (hk e)⟩
  | echo e box secure => exact ⟨_, rfl, effEcho_keeps box secure (hk e)⟩
  | version e box secure => exact ⟨_, rfl, effVersion_keeps box secure (hk e)⟩
  | measure e box secure => exact ⟨_, rfl, effMeasure_keeps box secure (hk e)⟩
  | powerOn e hb6 targets luns images => exact ⟨_, rfl, effPowerOn_keeps hb6 targets luns images (hk e)⟩
  | keepFirmwareRunning e => exact ⟨_, rfl, effKeepFirmwareRunning_keeps  (hk e)⟩
  | perstNRise e masterEn standbyEn ringId => exact ⟨_, rfl, effPerstNRise_keeps masterEn standbyEn ringId (hk e)⟩
  | memoryFillDone e trainFail fatal dies units => exact ⟨_, rfl, effMemoryFillDone_keeps trainFail fatal dies units (hk e)⟩
  | glbSealSet e => exact ⟨_, rfl, effGlbSealSet_keeps  (hk e)⟩
  | mountDone e => exact ⟨_, rfl, effMountDone_keeps  (hk e)⟩
  | conventionalReset e kind => exact ⟨_, rfl, effConventionalReset_keeps kind (hk e)⟩
  | deviceReset e operator => exact ⟨_, rfl, effDeviceReset_keeps operator (hk e)⟩
  | powerLoss e => exact ⟨_, rfl, effPowerLoss_keeps  (hk e)⟩
  | ringLinkChange e east up idErr => exact ⟨_, rfl, effRingLinkChange_keeps east up idErr (hk e)⟩
  | poolLinkTrained e mode width targets => exact ⟨_, rfl, effPoolLinkTrained_keeps mode.1 mode.2 width targets (hk e)⟩
  | poolEventRecord e device addr uncorrectable => exact ⟨_, rfl, effPoolEventRecord_keeps device addr uncorrectable (hk e)⟩
  | pfcPause e port prio paused => exact ⟨_, rfl, effPfcPause_keeps port prio paused (hk e)⟩
  | beatSourceChange e domain source => exact ⟨_, rfl, effBeatSourceChange_keeps domain source (hk e)⟩
  | keyExchange e fn => exact ⟨_, rfl, effKeyExchange_keeps fn (hk e)⟩
  | ideKm e fn stream op => exact ⟨_, rfl, effIdeKm_keeps fn stream op (hk e)⟩
  | lookupPadExpiry e rid => exact ⟨_, rfl, effLookupPadExpiry_keeps rid (hk e)⟩
  | poolReleaseMsExpiry e ext => exact ⟨_, rfl, effPoolReleaseMsExpiry_keeps ext (hk e)⟩
  | ackCoalesceTimer e qp => exact ⟨_, rfl, effAckCoalesceTimer_keeps qp (hk e)⟩
  | rnrNakReceived e qp psn => exact ⟨_, rfl, effRnrNakReceived_keeps qp psn (hk e)⟩
  | heartbeatTimeout e => exact ⟨_, rfl, effHeartbeatTimeout_keeps  (hk e)⟩

/-- The invariant speaks of no waiting command. -/
theorem State.Inv.withPending {s : State} (h : s.Inv) (cs : List Instr) : ({ s with pending := cs } : State).Inv :=
  ⟨h.memory, h.registers, h.secrets⟩

/-- Settles O2: every effect keeps the queue, so the commands that wait stay as they are. -/
theorem everyCommandAnswersAndLeavesTheQueue : Obligations.EveryCommandAnswersAndLeavesTheQueue := by
  intro c s
  obtain ⟨t, ht, hkeeps⟩ := exec_keeps c s
  exact ⟨t, ht, hkeeps.pending⟩

/-- Settles O3: a step idles on an empty queue, and else runs one command, which keeps the invariant. -/
theorem everyStepKeepsTheInvariant : Obligations.EveryStepKeepsTheInvariant := by
  intro s t hinv hstep
  unfold step at hstep
  split at hstep
  case h_1 => cases hstep; exact hinv
  case h_2 c rest _ =>
    obtain ⟨t', ht', hkeeps⟩ := exec_keeps c { s with pending := rest }
    rw [ht'] at hstep
    cases hstep
    exact hkeeps.inv (hinv.withPending rest)

/-- Settles O1: both clauses are what `step` does with the head of the queue. -/
theorem stepRunsTheFrontCommand : Obligations.StepRunsTheFrontCommand := by
  refine ⟨fun c rest s => rfl, fun s hempty => ?_⟩
  unfold step
  rw [hempty]

end Sys2Proof.Machine
end

section
/-! PROOF. Fields of the register file read after another field has been put: the rules that `simp (disch := decide)` chains. -/

namespace Sys2Proof.Machine

open Sys2Proof

/-- Register arrays of one stride whose places within it differ: no register of the one is a register of the other. -/
def Fld.lanesApart (f g : Fld) : Bool := f.s1 == g.s1 && f.s2 == 0 && g.s2 == 0 && f.base % f.s1 != g.base % f.s1

theorem Fld.off_ne_of_lanesApart {f g : Fld} (h : f.lanesApart g = true) (i j i' j' : Nat) : f.off i j ≠ g.off i' j' := by
  simp only [Fld.lanesApart, Bool.and_eq_true, beq_iff_eq, bne_iff_ne] at h
  obtain ⟨⟨⟨hstride, hf⟩, hg⟩, hlane⟩ := h
  intro hoff
  apply hlane
  have hmod := congrArg (· % f.s1) hoff
  simpa [Fld.off, hf, hg, ← hstride] using hmod

theorem get_put_lane (s : State) (f g : Fld) (v i j i' j' : Nat) (h : f.lanesApart g = true) :
    (s.put f v i j).get g i' j' = s.get g i' j' := get_put_other s f g v i j i' j' (Fld.off_ne_of_lanesApart h i j i' j')

theorem on_put_other (s : State) (f g : Fld) (v i j i' j' : Nat) (h : f.off i j ≠ g.off i' j') :
    (s.put f v i j).on g i' j' = s.on g i' j' := by
  simp only [State.on, get_put_other s f g v i j i' j' h]

theorem on_put_lane (s : State) (f g : Fld) (v i j i' j' : Nat) (h : f.lanesApart g = true) :
    (s.put f v i j).on g i' j' = s.on g i' j' := on_put_other s f g v i j i' j' (Fld.off_ne_of_lanesApart h i j i' j')

theorem on_put_apart (s : State) (f g : Fld) (v i j i' j' : Nat)
    (h : f.word0 = g.word0 ∧ f.lo ≤ f.hi ∧ f.hi ≤ 31 ∧ f.word0 < 2 ^ 32 ∧ (f.hi < g.lo ∨ g.hi < f.lo)) :
    (s.put f v i j).on g i' j' = s.on g i' j' := by
  simp only [State.on, get_put_apart s f g v i j i' j' h]

/-- A flag that is not set reads 0. -/
theorem get_eq_zero_of_on {s : State} {f : Fld} {i j : Nat} (h : s.on f i j = false) : s.get f i j = 0 := by
  simpa [State.on] using h

/-- A flag of one bit that is set reads 1. -/
theorem get_eq_one_of_on {s : State} {f : Fld} {i j : Nat} (hbit : f.hi = f.lo) (h : s.on f i j = true) : s.get f i j = 1 := by
  have hlt : s.get f i j < 2 ^ (f.hi + 1 - f.lo) := bits_lt _ _ _
  rw [hbit, Nat.add_sub_cancel_left] at hlt
  have hne : s.get f i j ≠ 0 := by simpa [State.on] using h
  omega

end Sys2Proof.Machine
end

section
/-! PROOF. Doorbell writes: an accepted one moves TAIL or HEAD, a dropped one is recorded and moves neither. -/

namespace Sys2Proof.Machine

open Sys2Proof

theorem exec_sqTail (e : Env) (fn page off size val : Nat) (s : State) :
    exec (.sqTail e fn page off size val) s = .next (effSqTail (s.enter e) fn page off size val) := rfl

theorem exec_cqHead (e : Env) (fn page off size val : Nat) (s : State) :
    exec (.cqHead e fn page off size val) s = .next (effCqHead (s.enter e) fn page off size val) := rfl

/-- R66: an access of 4 or 8 bytes at its doorbell's offset, which both sizes divide, is no refused access. -/
theorem pageAccess_of_aligned (s : State) (fn page : Nat) {off size : Nat} (write : Bool) (hsize : size = 4 ∨ size = 8)
    (hoff : off % 8 = 0) : s.pageAccess fn page off size write = s := by
  unfold State.pageAccess
  have halign : off % size = 0 := by rcases hsize with rfl | rfl <;> omega
  rw [if_pos (by simp [hsize, halign])]

section
variable {s : State} {fn page size val q : Nat} (hring : s.ringOf fn page = some q) (hsize : size = 4 ∨ size = 8)
include hring hsize

/-- R67, R70: a write of SQ_TAIL that has a cause against it is dropped with that cause. -/
theorem effSqTail_of_cause {c : Nat} (hcause : s.doorbellCause fn q true (s.on F.HP_SQ_CFG_ENABLE q) = some c) :
    effSqTail s fn page 0 size val = s.dropWrite q false c (val % 65536) := by
  have hplace : ((0 : Nat) == 0 && (size == 4 || size == 8)) = true := by simpa using hsize
  simp only [effSqTail, hring, pageAccess_of_aligned s fn page true hsize (Nat.zero_mod 8), hplace, hcause]

/-- R67: with no cause against it, a write of SQ_TAIL acts whose value names an entry of the ring. -/
theorem effSqTail_of_lt (hcause : s.doorbellCause fn q true (s.on F.HP_SQ_CFG_ENABLE q) = none)
    (hlt : val < 2 ^ s.get F.HP_SQ_CFG_LOG2_SIZE q) : effSqTail s fn page 0 size val = s.put F.HP_SQ_TAIL_TAIL val q := by
  have hplace : ((0 : Nat) == 0 && (size == 4 || size == 8)) = true := by simpa using hsize
  simp only [effSqTail, hring, pageAccess_of_aligned s fn page true hsize (Nat.zero_mod 8), hplace, hcause]
  rw [if_neg (Nat.not_le.mpr hlt)]

/-- R67, R70: a value beyond the ring is dropped with cause 4. -/
theorem effSqTail_of_ge (hcause : s.doorbellCause fn q true (s.on F.HP_SQ_CFG_ENABLE q) = none)
    (hge : 2 ^ s.get F.HP_SQ_CFG_LOG2_SIZE q ≤ val) : effSqTail s fn page 0 size val = s.dropWrite q false 4 (val % 65536) := by
  have hplace : ((0 : Nat) == 0 && (size == 4 || size == 8)) = true := by simpa using hsize
  simp only [effSqTail, hring, pageAccess_of_aligned s fn page true hsize (Nat.zero_mod 8), hplace, hcause]
  rw [if_pos hge]

/-- R69, R70: a write of CQ_HEAD that has a cause against it is dropped with that cause. -/
theorem effCqHead_of_cause {c : Nat} (hcause : s.doorbellCause fn q true (s.on F.HP_CQ_CFG_ENABLE q) = some c) :
    effCqHead s fn page 8 size val = s.dropWrite q true c (val % 65536) := by
  have hplace : ((8 : Nat) == 8 && (size == 4 || size == 8)) = true := by simpa using hsize
  simp only [effCqHead, hring, pageAccess_of_aligned s fn page true hsize (by decide : (8 : Nat) % 8 = 0), hplace, hcause]

/-- R69: with no cause against it, a write of CQ_HEAD acts that returns entries which have been written. -/
theorem effCqHead_of_returned (hcause : s.doorbellCause fn q true (s.on F.HP_CQ_CFG_ENABLE q) = none)
    (hlt : val < 2 ^ s.get F.HP_CQ_CFG_LOG2_SIZE q)
    (hreturned : (val + 2 ^ s.get F.HP_CQ_CFG_LOG2_SIZE q - s.get F.HP_CQ_HEAD_HEAD q) % 2 ^ s.get F.HP_CQ_CFG_LOG2_SIZE q
      ≤ s.cqUnreturned q) :
    effCqHead s fn page 8 size val = s.put F.HP_CQ_HEAD_HEAD val q := by
  have hplace : ((8 : Nat) == 8 && (size == 4 || size == 8)) = true := by simpa using hsize
  simp only [effCqHead, hring, pageAccess_of_aligned s fn page true hsize (by decide : (8 : Nat) % 8 = 0), hplace, hcause]
  rw [if_neg (by simp [hlt, hreturned])]

end

/-- A dropped doorbell write moves no TAIL. -/
theorem dropWrite_get_tail (s : State) (q : Nat) (headReg : Bool) (c v k : Nat) :
    (s.dropWrite q headReg c v).get F.HP_SQ_TAIL_TAIL k = s.get F.HP_SQ_TAIL_TAIL k := by
  refine dropWrite_get s q headReg c v _ k 0
    (Fld.off_ne_of_lanesApart (f := F.HP_CQ_STATUS_DB_ERR) (g := F.HP_SQ_TAIL_TAIL) (by decide) _ _ _ _)
    (Fld.off_ne_of_lanesApart (f := F.HP_SQ_STATUS_DB_ERR) (g := F.HP_SQ_TAIL_TAIL) (by decide) _ _ _ _) ?_ ?_
  · simp only [Fld.off, F.HP_DB_ERR_RING, F.HP_SQ_TAIL_TAIL]; omega
  · simp only [Fld.off, F.BELFRY_GRP_CAUSE_CAUSE, F.HP_SQ_TAIL_TAIL, gHostPort]; omega

/-- A dropped doorbell write moves no HEAD. -/
theorem dropWrite_get_head (s : State) (q : Nat) (headReg : Bool) (c v k : Nat) :
    (s.dropWrite q headReg c v).get F.HP_CQ_HEAD_HEAD k = s.get F.HP_CQ_HEAD_HEAD k := by
  refine dropWrite_get s q headReg c v _ k 0
    (Fld.off_ne_of_lanesApart (f := F.HP_CQ_STATUS_DB_ERR) (g := F.HP_CQ_HEAD_HEAD) (by decide) _ _ _ _)
    (Fld.off_ne_of_lanesApart (f := F.HP_SQ_STATUS_DB_ERR) (g := F.HP_CQ_HEAD_HEAD) (by decide) _ _ _ _) ?_ ?_
  · simp only [Fld.off, F.HP_DB_ERR_RING, F.HP_CQ_HEAD_HEAD]; omega
  · simp only [Fld.off, F.BELFRY_GRP_CAUSE_CAUSE, F.HP_CQ_HEAD_HEAD, gHostPort]; omega

/-- Settles O5: the cause decides between the two branches of a doorbell write, and `dropWrite_facts` says what a drop records. -/
theorem doorbellsMoveOrAreRecorded : Obligations.DoorbellsMoveOrAreRecorded := by
  refine ⟨⟨?tailMoves, ?headMoves⟩, ?tailDropped, ?headDropped⟩
  case tailMoves =>
    intro e fn page size val q s hring hsize hcause hlt hval
    refine ⟨(s.enter e).put F.HP_SQ_TAIL_TAIL val q, ?_, ?_, rfl⟩
    · rw [exec_sqTail, effSqTail_of_lt (s := s.enter e) hring hsize hcause hlt]
    · rw [get_put _ F.HP_SQ_TAIL_TAIL _ _ _ (by decide) (by decide) (by decide)]
      exact Nat.mod_eq_of_lt hval
  case headMoves =>
    intro e fn page size val c s hring hsize hcause hlt hval hroom
    refine ⟨(s.enter e).put F.HP_CQ_HEAD_HEAD val c, ?_, ?_, rfl⟩
    · rw [exec_cqHead, effCqHead_of_returned (s := s.enter e) hring hsize hcause hlt hroom]
    · rw [get_put _ F.HP_CQ_HEAD_HEAD _ _ _ (by decide) (by decide) (by decide)]
      exact Nat.mod_eq_of_lt hval
  case tailDropped =>
    intro e fn page size val q cause s hring hsize hcause
    refine ⟨(s.enter e).dropWrite q false cause (val % 65536), ?_, ?_⟩
    · rcases hcause with hcause | ⟨hcause, rfl, hrange⟩
      · rw [exec_sqTail, effSqTail_of_cause (s := s.enter e) hring hsize hcause]
      · rw [exec_sqTail, effSqTail_of_ge (s := s.enter e) hring hsize hcause hrange]
    · obtain ⟨herr, -, hvalid, hringNo, hreg, hcode, hvalue, hover, hgroup⟩ := dropWrite_facts (s.enter e) q false cause (val % 65536)
      exact ⟨herr rfl, hvalid, hringNo, hreg, hcode, hvalue.trans (Nat.mod_mod ..), hover, hgroup,
        fun k => ⟨dropWrite_get_tail .., dropWrite_get_head ..⟩⟩
  case headDropped =>
    intro e fn page size val c cause s hring hsize hcause
    refine ⟨(s.enter e).dropWrite c true cause (val % 65536), ?_, ?_⟩
    · rw [exec_cqHead, effCqHead_of_cause (s := s.enter e) hring hsize hcause]
    · obtain ⟨-, herr, hvalid, hringNo, hreg, hcode, hvalue, -, -⟩ := dropWrite_facts (s.enter e) c true cause (val % 65536)
      exact ⟨herr rfl, hvalid, hringNo, hreg, hcode, hvalue.trans (Nat.mod_mod ..),
        fun k => ⟨dropWrite_get_tail .., dropWrite_get_head ..⟩⟩

end Sys2Proof.Machine
end

section
/-! PROOF. What reset leaves: the register file lists the words of CANOPY_BANK_CFG alone, so every other register reads its Reset value. -/

namespace Sys2Proof.Machine

open Sys2Proof

/-- The words listed at reset lie in CANOPY_BANK_CFG. -/
theorem resetWords_range : ∀ x ∈ resetWords, 0x800040 ≤ x.1 ∧ x.1 < 0x800100 := by decide

/-- Outside CANOPY_BANK_CFG a register reads its Reset value. -/
theorem reset_regWord_of_outside {off : Nat} (word0 : Nat) (h : off < 0x800040 ∨ 0x800100 ≤ off) :
    State.reset.regWord off word0 = word0 := by
  have hnone : State.reset.regs.get? off = none := Table.get?_none_of fun x hx => by
    have hrange := resetWords_range x hx
    omega
  simp only [State.regWord, hnone]

/-- A field outside CANOPY_BANK_CFG reads the bits of its Reset value. -/
theorem reset_get_of_outside (f : Fld) (i j : Nat) (h : f.off i j < 0x800040 ∨ 0x800100 ≤ f.off i j) :
    State.reset.get f i j = bits f.word0 f.hi f.lo := by
  rw [State.get, reset_regWord_of_outside _ h]

/-- R101: banks 16 to 55 of Canopy have width 2, banks 56 to 63 width 3. -/
theorem resetWords_get? : (∀ n ∈ List.range' 16 40, resetWords.get? (0x800000 + 4 * n) = some 0x10042)
    ∧ ∀ n ∈ List.range' 56 8, resetWords.get? (0x800000 + 4 * n) = some 0x10043 := by decide

/-- Reset has the invariant: memory is empty, the listed words rise, and no secret is held. -/
theorem reset_inv : State.reset.Inv := ⟨by decide, by decide, by decide⟩

/-- Settles O4: the tables of the state are empty, and the registers are those that `resetWords` leaves at their Reset values. -/
theorem resetHoldsTheResetValues : Obligations.ResetHoldsTheResetValues := by
  refine ⟨reset_inv, rfl, rfl, rfl, rfl, rfl, rfl, ?phase, ?free, fun _ => rfl, ?watts, ?slew, ?unsealed, ?causes, ?width2, ?width3,
    fun off word0 h => reset_regWord_of_outside word0 h⟩
  case phase => exact reset_get_of_outside F.GLB_BOOT_STATUS_PHASE 0 0 (by decide)
  case free =>
    intro p _
    exact reset_get_of_outside F.PART_STATE_STATE p 0 (by simp only [Fld.off, F.PART_STATE_STATE]; omega)
  case watts => exact reset_get_of_outside F.CUPOLA_BUDGET_WATTS 0 0 (by decide)
  case slew => exact reset_get_of_outside F.CUPOLA_SLEW_A_PER_US 0 0 (by decide)
  case unsealed => exact reset_get_of_outside F.GLB_SEAL_SEALED 0 0 (by decide)
  case causes =>
    intro i hi
    exact reset_get_of_outside F.BELFRY_GRP_CAUSE_CAUSE i 0 (by simp only [Fld.off, F.BELFRY_GRP_CAUSE_CAUSE]; omega)
  case width2 =>
    intro n hlo hhi
    have hget : State.reset.regs.get? (0x800000 + 4 * n) = some 0x10042 :=
      resetWords_get?.1 n (List.mem_range'.mpr ⟨n - 16, by omega, by omega⟩)
    simp only [State.regWord, hget]
    rfl
  case width3 =>
    intro n hlo hhi
    have hget : State.reset.regs.get? (0x800000 + 4 * n) = some 0x10043 :=
      resetWords_get?.2 n (List.mem_range'.mpr ⟨n - 56, by omega, by omega⟩)
    simp only [State.regWord, hget]
    rfl

end Sys2Proof.Machine
end

section
/-! PROOF. The moderation delay of a completion ring. -/

namespace Sys2Proof.Machine

open Sys2Proof

theorem exec_cqModDelayExpiry (e : Env) (c : Nat) (s : State) :
    exec (.cqModDelayExpiry e c) s = .next (effCqModDelayExpiry (s.enter e) c) := rfl

/-- R85: the delay over and entries unsignalled, the ring signals. -/
theorem effCqModDelayExpiry_of_due {s : State} {c : Nat} (hirq : s.on F.HP_CQ_CFG_IRQ_EN c = true)
    (hunsignalled : (s.cqs.getD c {}).unsignalled ≠ 0) (hdelay : s.get F.HP_CQ_MOD_DELAY_US c ≠ 0)
    (hdue : (s.cqs.getD c {}).oldest + s.get F.HP_CQ_MOD_DELAY_US c * 1000 ≤ s.time) :
    effCqModDelayExpiry s c = s.signalCq c := by
  simp [effCqModDelayExpiry, hirq, hunsignalled, hdelay, hdue]

/-- R85: a vector other than 0 is signalled by its message, and no cause is raised. -/
theorem signalCq_of_vector {s : State} {c : Nat} (hvector : s.get F.HP_CQ_CFG_VECTOR c ≠ 0) :
    s.signalCq c = (({ s with cqs := s.cqs.set c { (s.cqs.getD c {}) with unsignalled := 0 } } : State).send
      (.msix (s.ownerFn (c / 8)) (s.get F.HP_CQ_CFG_VECTOR c))).hostFrame (c / 8) 4 :=
  if_neg hvector

/-- Settles O10: the ring's state is the only part of the entered state that the signal does not put behind it as a message and a frame. -/
theorem delayedCompletionsSignalOnce : Obligations.DelayedCompletionsSignalOnce := by
  intro e c s hirq hunsignalled hdelay hdue hvector
  refine ⟨(s.enter e).signalCq c, ?_, ?_⟩
  · rw [exec_cqModDelayExpiry, effCqModDelayExpiry_of_due (s := s.enter e) hirq hunsignalled hdelay hdue]
  · rw [signalCq_of_vector (s := s.enter e) hvector]
    refine ⟨rfl, ?_, rfl, rfl, rfl⟩
    exact congrArg CqSt.unsignalled (Table.getD_set_same ..)

end Sys2Proof.Machine
end

section
/-! PROOF. Rings of a READY device are enabled, refused, disabled and become inactive (R62 to R65). -/

namespace Sys2Proof.Machine

open Sys2Proof

theorem exec_sqEnable (e : Env) (fn q val : Nat) (s : State) : exec (.sqEnable e fn q val) s = .next (effSqEnable (s.enter e) fn q val) := rfl
theorem exec_sqDisable (e : Env) (fn q val : Nat) (s : State) : exec (.sqDisable e fn q val) s = .next (effSqDisable (s.enter e) fn q val) := rfl
theorem exec_sqInactive (e : Env) (q : Nat) (s : State) : exec (.sqInactive e q) s = .next (effSqInactive (s.enter e) q) := rfl
theorem exec_cqEnable (e : Env) (fn q val : Nat) (s : State) : exec (.cqEnable e fn q val) s = .next (effCqEnable (s.enter e) fn q val) := rfl
theorem exec_cqDisable (e : Env) (fn q val : Nat) (s : State) : exec (.cqDisable e fn q val) s = .next (effCqDisable (s.enter e) fn q val) := rfl

/-! ### What the writes of the configuration fields leave -/

theorem sqFields_get_status (s : State) (q val : Nat) (f : Fld) (hlane : F.HP_SQ_CFG_LOG2_SIZE.lanesApart f = true) (i j : Nat) :
    (s.sqFields q val).get f i j = s.get f i j := by
  unfold State.sqFields
  rw [get_put_lane _ F.HP_SQ_CFG_WEIGHT _ _ _ _ _ _ hlane, get_put_lane _ F.HP_SQ_CFG_CQ _ _ _ _ _ _ hlane,
    get_put_lane _ F.HP_SQ_CFG_GEN _ _ _ _ _ _ hlane, get_put_lane _ _ _ _ _ _ _ _ hlane]

theorem sqFields_get_enable (s : State) (q val k : Nat) : (s.sqFields q val).get F.HP_SQ_CFG_ENABLE k = s.get F.HP_SQ_CFG_ENABLE k := by
  unfold State.sqFields
  simp (disch := decide) only [get_put_apart]

/-- The fields of HP_CQ_CFG are taken as written. -/
theorem cqFields_get (s : State) (c val : Nat) : (s.cqFields c val).get F.HP_CQ_CFG_LOG2_SIZE c = bits val 4 0
    ∧ (s.cqFields c val).get F.HP_CQ_CFG_VECTOR c = bits val 18 8 := by
  have hsize : bits val 4 0 < 2 ^ 5 := bits_lt ..
  have hvector : bits val 18 8 < 2 ^ 11 := bits_lt ..
  unfold State.cqFields
  constructor
  · simp (disch := decide) only [get_put_apart, get_put]
    exact Nat.mod_eq_of_lt hsize
  · simp (disch := decide) only [get_put_apart, get_put]
    exact Nat.mod_eq_of_lt hvector

/-! ### The write of a ring by the function that serves it -/

section
variable {s : State} {fn q val : Nat} (hq : q < 1024) (hready : s.ready = true) (hactive : s.partActive (q / 8) = true)
  (hserves : fn = 0 ∧ s.vfEnabled (q / 8) = false ∨ fn ≠ 0 ∧ s.vfEnabled fn = true ∧ q / 8 = fn)
include hq hready hactive hserves

/-- R63: an inactive submission ring whose conditions hold starts at entry 0. -/
theorem effSqEnable_of_ok (hidle : s.on F.HP_SQ_STATUS_ACTIVE q = false) (hok : (s.sqFields q val).sqEnableOk q = true) :
    (effSqEnable s fn q val).regs = (((((s.sqFields q val).put F.HP_SQ_CFG_ENABLE 1 q).put F.HP_SQ_STATUS_HEAD 0 q).put
      F.HP_SQ_TAIL_TAIL 0 q).put F.HP_SQ_STATUS_ACTIVE 1 q).regs := by
  unfold effSqEnable
  rw [ringWrite_go s fn q false val _ hq hready hactive hserves]
  simp only [hidle, hok, Bool.not_true, Bool.false_eq_true, if_false]

/-- R63: an inactive submission ring whose conditions fail is refused. -/
theorem effSqEnable_of_not_ok (hidle : s.on F.HP_SQ_STATUS_ACTIVE q = false) (hok : (s.sqFields q val).sqEnableOk q = false) :
    effSqEnable s fn q val = (s.sqFields q val).put F.HP_SQ_STATUS_ENABLE_ERR 1 q := by
  unfold effSqEnable
  rw [ringWrite_go s fn q false val _ hq hready hactive hserves]
  simp only [hidle, hok, Bool.not_false, Bool.false_eq_true, if_false, if_true]

/-- R64: a submission ring that is disabled and still active is refused. -/
theorem effSqEnable_of_active (hbusy : s.on F.HP_SQ_STATUS_ACTIVE q = true) (hoff : s.on F.HP_SQ_CFG_ENABLE q = false) :
    effSqEnable s fn q val = s.put F.HP_SQ_STATUS_ENABLE_ERR 1 q := by
  unfold effSqEnable
  rw [ringWrite_go s fn q false val _ hq hready hactive hserves]
  simp only [hbusy, hoff, Bool.false_eq_true, if_false, if_true]

theorem effSqDisable_of_enabled (hon : s.on F.HP_SQ_CFG_ENABLE q = true) :
    effSqDisable s fn q val = s.put F.HP_SQ_CFG_ENABLE 0 q := by
  unfold effSqDisable
  rw [ringWrite_go s fn q false val _ hq hready hactive hserves]
  simp only [hon, if_true]

/-- R65: a completion ring of a size and a vector in range starts at entry 0 with phase 1. -/
theorem effCqEnable_of_ok (hoff : s.on F.HP_CQ_CFG_ENABLE q = false) (hmin : 6 ≤ bits val 4 0) (hmax : bits val 4 0 ≤ 16)
    (hvector : bits val 18 8 < vectorsOf (s.ownerFn (q / 8))) :
    (effCqEnable s fn q val).regs = ((((((s.cqFields q val).put F.HP_CQ_CFG_ENABLE 1 q).put F.HP_CQ_STATUS_TAIL 0 q).put
      F.HP_CQ_HEAD_HEAD 0 q).put F.HP_CQ_STATUS_PHASE 1 q).put F.HP_CQ_STATUS_ACTIVE 1 q).regs := by
  obtain ⟨hsize, hvec⟩ := cqFields_get s q val
  have howner : (s.cqFields q val).ownerFn (q / 8) = s.ownerFn (q / 8) := rfl
  have htakes : ¬ ((decide (bits val 4 0 < 6) || decide (bits val 4 0 > 16)
      || decide (bits val 18 8 ≥ vectorsOf (s.ownerFn (q / 8)))) = true) := by
    simp only [Bool.or_eq_true, decide_eq_true_eq]
    omega
  unfold effCqEnable
  rw [ringWrite_go s fn q true val _ hq hready hactive hserves]
  simp only [hoff, hsize, hvec, howner, Bool.false_eq_true, if_false, if_neg htakes]

/-- R65: a completion ring that no submission ring uses and that holds no reservation is disabled. -/
theorem effCqDisable_of_unused (hon : s.on F.HP_CQ_CFG_ENABLE q = true) (hnamed : s.cqNamed q = false)
    (hreserved : (s.cqs.getD q {}).reserved = 0) :
    (effCqDisable s fn q val).regs = ((s.put F.HP_CQ_CFG_ENABLE 0 q).put F.HP_CQ_STATUS_ACTIVE 0 q).regs := by
  unfold effCqDisable
  rw [ringWrite_go s fn q true val _ hq hready hactive hserves]
  simp only [hon, hnamed, hreserved, Bool.not_true, bne_self_eq_false, Bool.or_self, Bool.false_eq_true, if_false]

/-- R65: a completion ring in use is not disabled. -/
theorem effCqDisable_of_used (hon : s.on F.HP_CQ_CFG_ENABLE q = true)
    (hused : s.cqNamed q = true ∨ (s.cqs.getD q {}).reserved ≠ 0) :
    effCqDisable s fn q val = s.put F.HP_CQ_STATUS_ENABLE_ERR 1 q := by
  have huse : (s.cqNamed q || (s.cqs.getD q {}).reserved != 0) = true := by simpa using hused
  unfold effCqDisable
  rw [ringWrite_go s fn q true val _ hq hready hactive hserves]
  simp only [hon, huse, Bool.not_true, Bool.false_eq_true, if_false, if_true]

end

/-- R64: with nothing in flight a disabled ring is no longer active. -/
theorem effSqInactive_of_drained {s : State} {q : Nat} (hbusy : s.on F.HP_SQ_STATUS_ACTIVE q = true)
    (hoff : s.on F.HP_SQ_CFG_ENABLE q = false) (hempty : s.get F.HP_SQ_INFLIGHT_COUNT q = 0) :
    effSqInactive s q = s.put F.HP_SQ_STATUS_ACTIVE 0 q := by
  unfold effSqInactive
  rw [if_pos (by simp [hbusy, hoff, hempty])]

/-- Settles O6: one case per clause, each the branch of its effect that the clause's hypotheses choose. -/
theorem ringsAreEnabledAndDisabled : Obligations.RingsAreEnabledAndDisabled := by
  intro e fn q val s hq hready hactive hserves
  refine ⟨?enabled, ?refused, ?stillActive, ?disabled, ?inactive, ?cqEnabled, ?cqDisabled, ?cqInUse⟩
  case enabled =>
    intro hidle hok
    have hregs := effSqEnable_of_ok (s := s.enter e) (val := val) hq hready hactive hserves hidle hok
    refine ⟨_, exec_sqEnable .., ?_, ?_, ?_, ?_⟩ <;> rw [get_congr hregs] <;>
      simp (disch := decide) only [get_put_lane, get_put_apart, get_put] <;> rfl
  case refused =>
    intro hidle hok
    refine ⟨_, (exec_sqEnable ..).trans (congrArg _ (effSqEnable_of_not_ok (s := s.enter e) hq hready hactive hserves hidle hok)), ?_, ?_, ?_⟩
    · exact get_put _ _ _ _ _ (by decide) (by decide) (by decide)
    · rw [get_put_lane _ _ _ _ _ _ _ _ (by decide), sqFields_get_enable, enter_get]
    · rw [get_put_apart _ _ _ _ _ _ _ _ (by decide), sqFields_get_status _ _ _ _ (by decide), enter_get, get_eq_zero_of_on hidle]
  case stillActive =>
    intro hbusy hoff
    exact ⟨_, (exec_sqEnable ..).trans (congrArg _ (effSqEnable_of_active (s := s.enter e) hq hready hactive hserves hbusy hoff)), rfl⟩
  case disabled =>
    intro hon
    rw [exec_sqDisable, effSqDisable_of_enabled (s := s.enter e) hq hready hactive hserves hon]
  case inactive =>
    intro hbusy hoff hempty
    rw [exec_sqInactive, effSqInactive_of_drained (s := s.enter e) hbusy hoff hempty]
  case cqEnabled =>
    intro hoff hmin hmax hvector
    have hregs := effCqEnable_of_ok (s := s.enter e) hq hready hactive hserves hoff hmin hmax hvector
    refine ⟨_, exec_cqEnable .., ?_, ?_, ?_, ?_, ?_⟩ <;> rw [get_congr hregs] <;>
      simp (disch := decide) only [get_put_lane, get_put_apart, get_put] <;> rfl
  case cqDisabled =>
    intro hon hnamed hreserved
    have hregs := effCqDisable_of_unused (s := s.enter e) (val := val) hq hready hactive hserves hon hnamed hreserved
    refine ⟨_, exec_cqDisable .., ?_, ?_⟩ <;> rw [get_congr hregs] <;>
      simp (disch := decide) only [get_put_lane, get_put] <;> rfl
  case cqInUse =>
    intro hon hused
    rw [exec_cqDisable, effCqDisable_of_used (s := s.enter e) hq hready hactive hserves hon hused]

end Sys2Proof.Machine
end

section
/-! PROOF. The fetch of submission entries (R71, R72) and entries whose read fails (R530): one entry admitted, then a run of them. -/

namespace Sys2Proof.Machine

open Sys2Proof

theorem Table.get?_map_snd {α β : Type} (f : α → β) (t : Table α) (k : Nat) :
    Table.get? (List.map (fun x : Nat × α => (x.1, f x.2)) t) k = (t.get? k).map f := by
  induction t with
  | nil => rfl
  | cons x t ih =>
    obtain ⟨a, b⟩ := x
    simp only [List.map_cons, Table.get?_cons]
    split
    · rfl
    · exact ih

/-- What a change of every entry leaves of an entry, it leaves of the entry of each key. -/
theorem Table.getD_map_snd_of {α β : Type} (f : α → α) (g : α → β) (hf : ∀ x, g (f x) = g x) (t : Table α) (k : Nat) (d : α) :
    g (Table.getD (List.map (fun x : Nat × α => (x.1, f x.2)) t) k d) = g (t.getD k d) := by
  rw [Table.getD, Table.getD, Table.get?_map_snd]
  cases t.get? k with
  | none => rfl
  | some x => exact hf x

theorem exec_descriptorFetch (e : Env) (q n : Nat) (s : State) :
    exec (.descriptorFetch e q n) s = .next (effDescriptorFetch (s.enter e) q n) := rfl

theorem exec_submissionReadFail (e : Env) (q n : Nat) (poisoned : Bool) (s : State) :
    exec (.submissionReadFail e q n poisoned) s = .next (effSubmissionReadFail (s.enter e) q n poisoned) := rfl

/-- A burst counted leaves the sequence number of the ring's next entry. -/
theorem countBurst_seqNo (s : State) (q : Nat) : ((s.countBurst q).sqs.getD q {}).seqNo = (s.sqs.getD q {}).seqNo := by
  unfold State.countBurst
  dsimp only
  rw [Table.getD_set_same]
  split
  · rfl
  · exact Table.getD_map_snd_of (fun x : SqSt => { x with bursts := 0 }) SqSt.seqNo (fun _ => rfl) s.sqs q {}

/-! ### One entry -/

section
variable (s : State) (q : Nat) (entry : Bytes)

/-- The ring's place behind its HEAD (R71). -/
def State.nextHead (s : State) (q : Nat) : Nat := (s.get F.HP_SQ_STATUS_HEAD q + 1) % 2 ^ s.get F.HP_SQ_CFG_LOG2_SIZE q

/-- The request that an admitted entry becomes. -/
def State.admittedReq (s : State) (q : Nat) (entry : Bytes) : Req :=
  { origin := .ring q, part := q / 8, entry := padTo 64 entry, v2 := s.on F.HP_SQ_CFG_GEN q, sqHead := s.nextHead q
    ringSeq := (s.sqs.getD q {}).seqNo }

theorem admitOne_reqs : (s.admitOne q entry).reqs = s.reqs.set s.reqSeq (s.admittedReq q entry) := rfl
theorem admitOne_reqSeq : (s.admitOne q entry).reqSeq = s.reqSeq + 1 := rfl
theorem admitOne_mem : (s.admitOne q entry).mem = s.mem := rfl
theorem admitOne_leaves : (s.admitOne q entry).leaves = s.leaves := rfl
theorem admitOne_seqs : (s.admitOne q entry).seqs = s.seqs := rfl
theorem admitOne_settled : (s.admitOne q entry).settled = { s.settled with reqSeq := s.reqSeq + 1 } := rfl
theorem admitOne_regs : (s.admitOne q entry).regs = ((s.put F.HP_SQ_STATUS_HEAD (s.nextHead q) q).put F.HP_SQ_INFLIGHT_COUNT
    (s.get F.HP_SQ_INFLIGHT_COUNT q + 1) q).regs := rfl

theorem admitOne_seqNo : ((s.admitOne q entry).sqs.getD q {}).seqNo = (s.sqs.getD q {}).seqNo + 1 := by
  have hsqs : (s.admitOne q entry).sqs = s.sqs.set q { (s.sqs.getD q {}) with seqNo := (s.sqs.getD q {}).seqNo + 1 } := rfl
  rw [hsqs, Table.getD_set_same]

theorem admitOne_get_size (k : Nat) : (s.admitOne q entry).get F.HP_SQ_CFG_LOG2_SIZE k = s.get F.HP_SQ_CFG_LOG2_SIZE k := by
  rw [get_congr (admitOne_regs s q entry)]
  simp (disch := decide) only [get_put_lane]

theorem admitOne_get_head (hsize : s.get F.HP_SQ_CFG_LOG2_SIZE q ≤ 16) :
    (s.admitOne q entry).get F.HP_SQ_STATUS_HEAD q = s.nextHead q := by
  rw [get_congr (admitOne_regs s q entry)]
  simp (disch := decide) only [get_put_lane, get_put]
  have hlt : s.nextHead q < 2 ^ s.get F.HP_SQ_CFG_LOG2_SIZE q := Nat.mod_lt _ (Nat.two_pow_pos _)
  exact Nat.mod_eq_of_lt (Nat.lt_of_lt_of_le hlt (Nat.pow_le_pow_right (by decide) hsize))

end

/-! ### Entries admitted one after the other -/

theorem admitAll_succ (s : State) (q size addr n : Nat) : s.admitAll q size addr (n + 1)
    = (s.admitOne q (Memory.readBytes s.mem (memKey 0 (addr + s.get F.HP_SQ_STATUS_HEAD q * size)) size)).admitAll q size addr n := rfl

theorem admitAll_keeps_store (s : State) (q size addr n : Nat) : (s.admitAll q size addr n).reqSeq = s.reqSeq + n
    ∧ (s.admitAll q size addr n).mem = s.mem ∧ (s.admitAll q size addr n).leaves = s.leaves ∧ (s.admitAll q size addr n).seqs = s.seqs := by
  induction n generalizing s with
  | zero => exact ⟨rfl, rfl, rfl, rfl⟩
  | succ n ih =>
    obtain ⟨hseq, hmem, hleaves, hseqs⟩ := ih (s.admitOne q _)
    refine ⟨?_, hmem.trans (admitOne_mem ..), hleaves.trans (admitOne_leaves ..), hseqs.trans (admitOne_seqs ..)⟩
    rw [admitAll_succ, hseq, admitOne_reqSeq]
    omega

/-- The requests that were there before keep their places. -/
theorem admitAll_reqs_old (s : State) (q size addr n : Nat) {k : Nat} (hk : k < s.reqSeq) :
    (s.admitAll q size addr n).reqs.get? k = s.reqs.get? k := by
  induction n generalizing s with
  | zero => rfl
  | succ n ih =>
    rw [admitAll_succ, ih (s.admitOne q _) (by rw [admitOne_reqSeq]; omega), admitOne_reqs, Table.get?_set_other _ _ (by omega)]

theorem admitAll_get_head (s : State) (q size addr n : Nat) (hhead : s.get F.HP_SQ_STATUS_HEAD q < 2 ^ s.get F.HP_SQ_CFG_LOG2_SIZE q)
    (hsize : s.get F.HP_SQ_CFG_LOG2_SIZE q ≤ 16) :
    (s.admitAll q size addr n).get F.HP_SQ_STATUS_HEAD q = (s.get F.HP_SQ_STATUS_HEAD q + n) % 2 ^ s.get F.HP_SQ_CFG_LOG2_SIZE q := by
  induction n generalizing s with
  | zero => exact (Nat.mod_eq_of_lt hhead).symm
  | succ n ih =>
    have hnext := admitOne_get_head s q (Memory.readBytes s.mem (memKey 0 (addr + s.get F.HP_SQ_STATUS_HEAD q * size)) size) hsize
    rw [admitAll_succ, ih (s.admitOne q _) (by rw [hnext, admitOne_get_size]; exact Nat.mod_lt _ (Nat.two_pow_pos _))
      (by rwa [admitOne_get_size]), hnext, admitOne_get_size, State.nextHead, Nat.mod_add_mod]
    congr 1
    omega

/-- R71, R72: the entry `k` places behind HEAD becomes the request `k` places behind the next number. -/
theorem admitAll_reqs_new (s : State) (q size addr n : Nat) (hhead : s.get F.HP_SQ_STATUS_HEAD q < 2 ^ s.get F.HP_SQ_CFG_LOG2_SIZE q)
    (hsize : s.get F.HP_SQ_CFG_LOG2_SIZE q ≤ 16) {k : Nat} (hk : k < n) :
    ∃ r, (s.admitAll q size addr n).reqs.get? (s.reqSeq + k) = some r ∧ r.origin = .ring q ∧ r.part = q / 8 ∧ r.phase = .fetched
      ∧ r.ringSeq = (s.sqs.getD q {}).seqNo + k
      ∧ r.sqHead = (s.get F.HP_SQ_STATUS_HEAD q + k + 1) % 2 ^ s.get F.HP_SQ_CFG_LOG2_SIZE q
      ∧ r.entry = padTo 64 (Memory.readBytes s.mem (memKey 0 (addr
          + (s.get F.HP_SQ_STATUS_HEAD q + k) % 2 ^ s.get F.HP_SQ_CFG_LOG2_SIZE q * size)) size) := by
  induction n generalizing s k with
  | zero => omega
  | succ n ih =>
    rw [admitAll_succ]
    cases k with
    | zero =>
      refine ⟨s.admittedReq q (Memory.readBytes s.mem (memKey 0 (addr + s.get F.HP_SQ_STATUS_HEAD q * size)) size), ?_,
        rfl, rfl, rfl, rfl, rfl, ?_⟩
      · rw [admitAll_reqs_old _ _ _ _ _ (by rw [admitOne_reqSeq]; omega), admitOne_reqs]
        exact Table.get?_set_same ..
      · rw [Nat.add_zero, Nat.mod_eq_of_lt hhead]
        rfl
    | succ k =>
      have hnext := admitOne_get_head s q (Memory.readBytes s.mem (memKey 0 (addr + s.get F.HP_SQ_STATUS_HEAD q * size)) size) hsize
      obtain ⟨r, hr, horigin, hpart, hphase, hno, hplace, hentry⟩ := ih (s.admitOne q _)
        (by rw [hnext, admitOne_get_size]; exact Nat.mod_lt _ (Nat.two_pow_pos _)) (by rwa [admitOne_get_size]) (Nat.lt_of_succ_lt_succ hk)
      rw [admitOne_reqSeq, show s.reqSeq + 1 + k = s.reqSeq + (k + 1) by omega] at hr
      rw [admitOne_seqNo] at hno
      rw [hnext, admitOne_get_size, State.nextHead, Nat.add_assoc, Nat.mod_add_mod] at hplace
      rw [hnext, admitOne_get_size, State.nextHead, Nat.mod_add_mod, admitOne_mem] at hentry
      refine ⟨r, hr, horigin, hpart, hphase, ?_, ?_, ?_⟩
      · rw [hno]; omega
      · rw [hplace]; congr 1; omega
      · rw [hentry, show s.get F.HP_SQ_STATUS_HEAD q + 1 + k = s.get F.HP_SQ_STATUS_HEAD q + (k + 1) by omega]

/-- R71, R72: a burst that may be fetched and whose read ends well admits its entries. -/
theorem effDescriptorFetch_of_ok {s : State} {q n : Nat} {bs : Bytes} (hok : s.fetchOk q n = true) (hread : s.entriesRead q n = .ok bs) :
    effDescriptorFetch s q n = (s.countBurst q).admitAll q (s.descSize q) (s.sqBase q) n := by
  have hread' : (s.countBurst q).entriesRead q n = .ok bs := hread
  unfold effDescriptorFetch
  simp only [hok, Bool.not_true, Bool.false_eq_true, if_false, hread']
  rfl

/-- Settles O7: the burst is counted, and `admitAll` admits its entries one behind the other. -/
theorem fetchAdmitsInRingOrder : Obligations.FetchAdmitsInRingOrder := by
  intro e q n s bs hok hread hhead hsize
  refine ⟨_, (exec_descriptorFetch ..).trans (congrArg _ (effDescriptorFetch_of_ok hok hread)), ?_⟩
  obtain ⟨hseq, hmem, hleaves, hseqs⟩ := admitAll_keeps_store ((s.enter e).countBurst q) q ((s.enter e).descSize q) ((s.enter e).sqBase q) n
  refine ⟨hseq, admitAll_get_head ((s.enter e).countBurst q) q _ _ n hhead hsize,
    fun k hk => admitAll_reqs_old ((s.enter e).countBurst q) q _ _ n hk, fun k hk => ?_, hmem, hleaves, hseqs⟩
  obtain ⟨r, hr, horigin, hpart, hphase, hno, hplace, hentry⟩ := admitAll_reqs_new ((s.enter e).countBurst q) q ((s.enter e).descSize q)
    ((s.enter e).sqBase q) n hhead hsize hk
  rw [countBurst_seqNo] at hno
  exact ⟨r, hr, horigin, hpart, hphase, hno, hplace, hentry⟩

/-! ### Entries whose read has failed -/

/-- R530: an entry whose read fails takes a number, and is gone when it has completed. -/
theorem admitFailed_reqs (s : State) (q : Nat) (st : Status) (hfree : s.reqs.get? s.reqSeq = none) (k : Nat) :
    (s.admitFailed q st).reqs.get? k = s.reqs.get? k := by
  unfold State.admitFailed
  rw [complete_reqs, Table.get?_erase, admitOne_reqs, Table.get?_set]
  by_cases hk : s.reqSeq = k
  · rw [if_pos hk, ← hk, hfree]
  · rw [if_neg hk, if_neg hk]

theorem admitFailed_reqSeq (s : State) (q : Nat) (st : Status) : (s.admitFailed q st).reqSeq = s.reqSeq + 1 := by
  unfold State.admitFailed
  rw [complete_reqSeq, admitOne_reqSeq]

theorem admitFailed_settled (s : State) (q : Nat) (st : Status) :
    (s.admitFailed q st).settled = { s.settled with reqSeq := s.reqSeq + 1 } := by
  unfold State.admitFailed
  rw [complete_settled, admitOne_settled]

/-- R530: a run of entries whose read fails leaves no request, and counts. -/
theorem failAll_spec (s : State) (q n : Nat) (st : Status) (hfree : ∀ k, s.reqSeq ≤ k → s.reqs.get? k = none) :
    (∀ k, (s.failAll q st n).reqs.get? k = s.reqs.get? k) ∧ (s.failAll q st n).reqSeq = s.reqSeq + n
      ∧ (s.failAll q st n).settled = { s.settled with reqSeq := s.reqSeq + n } := by
  induction n generalizing s with
  | zero => exact ⟨fun _ => rfl, rfl, rfl⟩
  | succ n ih =>
    have hreqs := admitFailed_reqs s q st (hfree s.reqSeq (Nat.le_refl _))
    obtain ⟨hr, hseq, hsettled⟩ := ih (s.admitFailed q st) (by
      intro k hk
      rw [admitFailed_reqSeq] at hk
      rw [hreqs, hfree k (by omega)])
    refine ⟨fun k => (hr k).trans (hreqs k), ?_, ?_⟩
    · rw [State.failAll, hseq, admitFailed_reqSeq]; omega
    · rw [State.failAll, hsettled, admitFailed_settled, admitFailed_reqSeq, Nat.add_right_comm, Nat.add_assoc]

/-- Settles O8: the burst is counted, and each entry is admitted and completed. -/
theorem failedEntriesCompleteWithoutEffect : Obligations.FailedEntriesCompleteWithoutEffect := by
  intro e q n poisoned s hok hfree
  refine ⟨_, exec_submissionReadFail .., ?_⟩
  have heff : effSubmissionReadFail (s.enter e) q n poisoned
      = ((s.enter e).countBurst q).failAll q (if poisoned then .poisoned else .linkFailed) n := by
    simp only [effSubmissionReadFail, hok, Bool.not_true, Bool.false_eq_true, if_false]
  rw [heff]
  exact failAll_spec ((s.enter e).countBurst q) q n _ hfree

end Sys2Proof.Machine
end

section
/-! PROOF. A descriptor that passes the checks of R77 starts (R86). -/

namespace Sys2Proof.Machine

open Sys2Proof

theorem exec_descriptorStart (e : Env) (rid : Nat) (s : State) :
    exec (.descriptorStart e rid) s = .next (effDescriptorStart (s.enter e) rid) := rfl

/-- R77, items 3 to 5: a request that passes its checks takes its deadline. -/
theorem startChecked_of_ok {s : State} {rid : Nat} {r : Req} {row : OpRow} (htag : s.descTagOk r = true)
    (hpart0 : row.part0 = false ∨ r.part = 0) (hlocal : s.isRemote r row = false)
    (hdomain : row.write = true → r.fIndependent = false → s.failed.contains (r.origin.key, r.dom) = false)
    (hhandle : s.checkHandle r row = .ok) (hintime : (s.startDeadline r row).2 = false) :
    s.startChecked rid r row = (s.setReq rid r).setReq rid (s.startDeadline r row).1 := by
  have htag' : (s.setReq rid r).descTagOk r = true := htag
  have hlocal' : (s.setReq rid r).isRemote r row = false := hlocal
  have hhandle' : (s.setReq rid r).checkHandle r row = .ok := hhandle
  have hintime' : ((s.setReq rid r).startDeadline r row).2 = false := hintime
  have hallowed : (row.part0 && r.part != 0) = false := by rcases hpart0 with h | h <;> simp [h]
  have hnotFailed : (row.write && !r.fIndependent && s.failed.contains (r.origin.key, r.dom)) = false := by
    rw [Bool.and_assoc, Bool.and_eq_false_imp]
    intro hwrite
    rw [Bool.and_eq_false_imp]
    intro hdependent
    exact hdomain hwrite (by simpa using hdependent)
  simp only [State.startChecked, htag', hallowed, setReq_failed, hnotFailed, hlocal', hhandle', hintime', Bool.not_true, Bool.false_eq_true,
    if_false]
  rfl

/-- R86: a fetched descriptor whose encoding is sound goes on to its checks, with the next number of work. -/
theorem effDescriptorStart_of_go {s : State} {rid : Nat} {r r0 : Req} {row : OpRow} {en : Bytes} (hr : s.reqs.get? rid = some r)
    (hphase : r.phase = .fetched) (hsr : s.inSr = false) (hmay : s.mayStart rid r = true) (hstays : s.leaving r.part = false)
    (hr0 : r0 = { r with phase := .started, startTime := s.time, jobNo := s.jobSeq }) (hrow : r.row? = some row)
    (hgo : s.startEncoding r0 (s.boundDomain r.part).isSome = .go en) :
    effDescriptorStart s rid = ({ s with jobSeq := s.jobSeq + 1 } : State).startChecked rid
      { r0 with entry := en, snap := s.snapOf { r0 with entry := en }, dom := s.domOf { r0 with entry := en } } row := by
  subst hr0
  have hreq : s.req? rid = some r := hr
  have hgo' : ({ s with jobSeq := s.jobSeq + 1 } : State).startEncoding { r with phase := .started, startTime := s.time, jobNo := s.jobSeq }
      (({ s with jobSeq := s.jobSeq + 1 } : State).boundDomain r.part).isSome = .go en := hgo
  have hrow' : ({ r with phase := .started, startTime := s.time, jobNo := s.jobSeq } : Req).row? = some row := hrow
  unfold effDescriptorStart
  simp only [hreq, hphase, hsr, hmay, hstays, hgo', hrow', bne_self_eq_false, Bool.not_true, Bool.or_self, Bool.false_eq_true, if_false]
  rfl

/-- Settles O9: the descriptor goes on to its checks and passes them; the two writes of its request leave everything else. -/
theorem descriptorsStartInOrder : Obligations.DescriptorsStartInOrder := by
  intro e rid s r r0 r1 en row hr hphase hsr hmay hstays hr0 hrow hgo hr1 htag hpart0 hlocal hdomain hhandle hintime
  have hpart : r1.part = r.part ∧ r1.origin = r.origin := by subst hr1 hr0; exact ⟨rfl, rfl⟩
  have hstart := effDescriptorStart_of_go (s := s.enter e) hr hphase hsr hmay hstays hr0 hrow hgo
  rw [show ({ r0 with entry := en, snap := (s.enter e).snapOf { r0 with entry := en }, dom := (s.enter e).domOf { r0 with entry := en } } : Req)
    = r1 from hr1.symm] at hstart
  have hchecked := startChecked_of_ok (s := { s.enter e with jobSeq := (s.enter e).jobSeq + 1 }) (rid := rid) (r := r1) (row := row) htag
    (by rwa [hpart.1]) hlocal (by rw [hpart.2]; exact hdomain) hhandle hintime
  refine ⟨_, (exec_descriptorStart ..).trans (congrArg _ (hstart.trans hchecked)), ?_, ?_, rfl⟩
  · exact Table.get?_set_same ..
  · intro k hk
    rw [setReq_reqs, Table.get?_set_other _ _ (Ne.symm hk), setReq_reqs, Table.get?_set_other _ _ (Ne.symm hk)]
    rfl

end Sys2Proof.Machine
end

section
/-! PROOF. Completions: what every one leaves, and the entry that the completion of a ring's request writes (R75, R79, R82, R83, R88). -/

namespace Sys2Proof.Machine

open Sys2Proof

theorem exec_nop (e : Env) (rid : Nat) (s : State) : exec (.nop e rid) s = .next (effNop (s.enter e) rid) := rfl
theorem exec_fence (e : Env) (rid : Nat) (s : State) : exec (.fence e rid) s = .next (effFence (s.enter e) rid) := rfl

@[simp] theorem enter_startedReq? (s : State) (e : Env) (rid : Nat) (codes : List Nat) :
    (s.enter e).startedReq? rid codes = s.startedReq? rid codes := rfl

/-- R79: a NOP that has started completes. -/
theorem effNop_of_started {s : State} {rid : Nat} {r : Req} (hr : s.startedReq? rid [0x00] = some r) : effNop s rid = s.complete rid .ok := by
  simp only [effNop, hr]

/-- R79: a FENCE that has started completes. -/
theorem effFence_of_started {s : State} {rid : Nat} {r : Req} (hr : s.startedReq? rid [0x01] = some r) :
    effFence s rid = s.complete rid .ok := by
  simp only [effFence, hr]

/-- Settles O12: `complete_reqs` and `complete_settled` are the frame of a completion, and NOP and FENCE do nothing else. -/
theorem completionsLeaveTheStore : Obligations.CompletionsLeaveTheStore := by
  refine ⟨fun s rid st c => ⟨?gone, ?others, complete_settled s rid st c⟩, ?nop, ?fence⟩
  case gone => rw [complete_reqs, Table.get?_erase_same]
  case others =>
    intro k hk
    rw [complete_reqs, Table.get?_erase, if_neg (Ne.symm hk)]
  case nop =>
    intro e rid s r hr
    exact ⟨_, (exec_nop ..).trans (congrArg _ (effNop_of_started (s := s.enter e) hr)), rfl, complete_reqs ..⟩
  case fence =>
    intro e rid s r hr
    exact ⟨_, (exec_fence ..).trans (congrArg _ (effFence_of_started (s := s.enter e) hr)), rfl, complete_reqs ..⟩

/-! ### The registers that a completion leaves -/

section
variable (s : State) (f : Fld) (i j : Nat)

theorem raisePoison_get {p : Nat} (hleaf : F.BELFRY_POISON_CAUSE.off (p / 32) 0 ≠ f.off i j)
    (hown : F.PART_RAS_STATUS_POISONED.off p 0 ≠ f.off i j) : (s.raisePoison p).get f i j = s.get f i j := by
  refine (get_congr ((refreshPart_regs ..).trans (refreshDev_regs _)) f i j).trans ?_
  rw [get_put_other _ _ _ _ _ _ _ _ hown, get_put_other _ _ _ _ _ _ _ _ hleaf]

theorem raiseCq_get {c : Nat} (hown : F.PART_BELFRY_CQ_CAUSE.off (c / 8) 0 ≠ f.off i j)
    (hleaf : F.BELFRY_CQ_CAUSE.off (c / 32) 0 ≠ f.off i j) : (s.raiseCq c).get f i j = s.get f i j := by
  unfold State.raiseCq
  dsimp only
  split
  · exact (get_congr (refreshPart_regs ..) f i j).trans (get_put_other _ _ _ _ _ _ _ _ hown)
  · exact (get_congr (refreshDev_regs _) f i j).trans (get_put_other _ _ _ _ _ _ _ _ hleaf)

theorem signalCq_get {c : Nat} (hown : F.PART_BELFRY_CQ_CAUSE.off (c / 8) 0 ≠ f.off i j)
    (hleaf : F.BELFRY_CQ_CAUSE.off (c / 32) 0 ≠ f.off i j) : (s.signalCq c).get f i j = s.get f i j := by
  unfold State.signalCq
  dsimp only
  split
  · exact raiseCq_get _ f i j hown hleaf
  · rfl

theorem moderate_get {c : Nat} (notify : Bool) (hown : F.PART_BELFRY_CQ_CAUSE.off (c / 8) 0 ≠ f.off i j)
    (hleaf : F.BELFRY_CQ_CAUSE.off (c / 32) 0 ≠ f.off i j) : (s.moderate c notify).get f i j = s.get f i j := by
  unfold State.moderate
  dsimp only
  split
  · rfl
  · split
    · exact signalCq_get _ f i j hown hleaf
    · rfl

theorem countDone_get (op : Nat) (st : Status) (hattend : F.ATTEND_COUNT_COUNT.off 0 0 ≠ f.off i j)
    (hpoisoned : F.ATTEND_POISONED_COUNT.off 0 0 ≠ f.off i j) (hselect : F.SELECT_COUNT_COUNT.off 0 0 ≠ f.off i j) :
    (s.countDone op st).get f i j = s.get f i j := by
  unfold State.countDone
  dsimp only
  split
  · split
    · rw [get_bump_other _ _ _ _ _ _ _ _ hpoisoned, get_bump_other _ _ _ _ _ _ _ _ hattend]
    · exact get_bump_other _ _ _ _ _ _ _ _ hattend
  · split
    · exact get_bump_other _ _ _ _ _ _ _ _ hselect
    · rfl

end

/-! ### The entry -/

@[simp] theorem countDone_calm (s : State) (op : Nat) (st : Status) : (s.countDone op st).calm = s.calm := by
  unfold State.countDone
  split
  · split <;> rfl
  · split <;> rfl

@[simp] theorem moderate_mem (s : State) (c : Nat) (notify : Bool) : (s.moderate c notify).mem = s.mem := by
  unfold State.moderate State.signalCq
  split
  · rfl
  · dsimp only
    split
    · split
      · exact (mem_of_calm (raiseCq_calm _ c)).trans rfl
      · rfl
    · rfl

theorem length_cplBytes (tag : Nat) (st : Status) (c : Cpl) (ph sqId sqHead time : Nat) :
    (cplBytes tag st c ph sqId sqHead time).length = 32 := by
  simp [cplBytes, length_leBytes]

/-- An entry written at TAIL, and its reservation used. -/
def State.writeEntry (s : State) (c : Nat) (bs : Bytes) : State :=
  (({ s with sqs := s.sqs.set c { (s.sqs.getD c {}) with cplSeq := (s.sqs.getD c {}).cplSeq + 1 } } : State).busWrite
    (s.cqBase c + s.get F.HP_CQ_STATUS_TAIL c * 32) bs).cqUnreserve c

theorem writeEntry_regs (s : State) (c : Nat) (bs : Bytes) : (s.writeEntry c bs).regs = s.regs := busWrite_regs ..

theorem writeEntry_mem {s : State} {c : Nat} {bs : Bytes}
    (hbus : s.rangeFails (s.cqBase c + s.get F.HP_CQ_STATUS_TAIL c * 32) bs.length = false) :
    (s.writeEntry c bs).mem = Memory.writeBytes s.mem (s.cqBase c + s.get F.HP_CQ_STATUS_TAIL c * 32) bs := by
  unfold State.writeEntry State.busWrite
  rw [if_neg (by exact ne_true_of_eq_false hbus)]
  rfl

/-- R83: where TAIL goes from the last entry of the ring and from another. -/
theorem postCq_of_active {s : State} {c : Nat} (notify : Bool) (entry : Nat → Bytes) (hactive : s.on F.HP_CQ_STATUS_ACTIVE c = true)
    (hclear : s.confidential (c / 8) = false) :
    s.postCq c notify entry = ((if s.get F.HP_CQ_STATUS_TAIL c + 1 = 2 ^ s.get F.HP_CQ_CFG_LOG2_SIZE c
        then ((s.writeEntry c (entry (s.get F.HP_CQ_STATUS_PHASE c))).put F.HP_CQ_STATUS_TAIL 0 c).put F.HP_CQ_STATUS_PHASE
          (1 - s.get F.HP_CQ_STATUS_PHASE c) c
        else (s.writeEntry c (entry (s.get F.HP_CQ_STATUS_PHASE c))).put F.HP_CQ_STATUS_TAIL (s.get F.HP_CQ_STATUS_TAIL c + 1) c).hostFrame
      (c / 8) 32).moderate c notify := by
  unfold State.postCq
  simp only [hactive, hclear, Bool.not_true, Bool.false_eq_true, if_false]
  rfl

theorem moderate_hostFrame_get (s : State) (c p n : Nat) (notify : Bool) :
    ((s.hostFrame p n).moderate c notify).get F.HP_CQ_STATUS_TAIL c = s.get F.HP_CQ_STATUS_TAIL c
      ∧ ((s.hostFrame p n).moderate c notify).get F.HP_CQ_STATUS_PHASE c = s.get F.HP_CQ_STATUS_PHASE c := by
  constructor
  · exact moderate_get (s.hostFrame p n) _ _ _ notify (by simp only [Fld.off, F.PART_BELFRY_CQ_CAUSE, F.HP_CQ_STATUS_TAIL]; omega)
      (by simp only [Fld.off, F.BELFRY_CQ_CAUSE, F.HP_CQ_STATUS_TAIL]; omega)
  · exact moderate_get (s.hostFrame p n) _ _ _ notify (by simp only [Fld.off, F.PART_BELFRY_CQ_CAUSE, F.HP_CQ_STATUS_PHASE]; omega)
      (by simp only [Fld.off, F.BELFRY_CQ_CAUSE, F.HP_CQ_STATUS_PHASE]; omega)

/-- R83: one entry written at TAIL, which moves on; at the end of the ring it returns to 0 and the phase turns. -/
theorem postCq_spec {s : State} {c : Nat} (notify : Bool) (entry : Nat → Bytes) (hactive : s.on F.HP_CQ_STATUS_ACTIVE c = true)
    (hclear : s.confidential (c / 8) = false)
    (hbus : s.rangeFails (s.cqBase c + s.get F.HP_CQ_STATUS_TAIL c * 32) (entry (s.get F.HP_CQ_STATUS_PHASE c)).length = false)
    (htail : s.get F.HP_CQ_STATUS_TAIL c < 2 ^ s.get F.HP_CQ_CFG_LOG2_SIZE c) (hsize : s.get F.HP_CQ_CFG_LOG2_SIZE c ≤ 16) :
    (s.postCq c notify entry).mem
        = Memory.writeBytes s.mem (s.cqBase c + s.get F.HP_CQ_STATUS_TAIL c * 32) (entry (s.get F.HP_CQ_STATUS_PHASE c))
      ∧ (s.postCq c notify entry).get F.HP_CQ_STATUS_TAIL c = (s.get F.HP_CQ_STATUS_TAIL c + 1) % 2 ^ s.get F.HP_CQ_CFG_LOG2_SIZE c
      ∧ (s.postCq c notify entry).get F.HP_CQ_STATUS_PHASE c
        = if s.get F.HP_CQ_STATUS_TAIL c + 1 = 2 ^ s.get F.HP_CQ_CFG_LOG2_SIZE c then 1 - s.get F.HP_CQ_STATUS_PHASE c
          else s.get F.HP_CQ_STATUS_PHASE c := by
  have hpow : 2 ^ s.get F.HP_CQ_CFG_LOG2_SIZE c ≤ 2 ^ 16 := Nat.pow_le_pow_right (by decide) hsize
  have hphase : s.get F.HP_CQ_STATUS_PHASE c < 2 := bits_lt ..
  have hmem := writeEntry_mem hbus
  have hget := fun f => get_congr (writeEntry_regs s c (entry (s.get F.HP_CQ_STATUS_PHASE c))) f c 0
  rw [postCq_of_active notify entry hactive hclear]
  by_cases hend : s.get F.HP_CQ_STATUS_TAIL c + 1 = 2 ^ s.get F.HP_CQ_CFG_LOG2_SIZE c
  · rw [if_pos hend, if_pos hend, (moderate_hostFrame_get ..).1, (moderate_hostFrame_get ..).2]
    refine ⟨(moderate_mem ..).trans hmem, ?_, ?_⟩
    · simp (disch := decide) only [get_put_apart, get_put]
      rw [hend, Nat.mod_self]
      rfl
    · simp (disch := decide) only [get_put]
      exact Nat.mod_eq_of_lt (by omega : 1 - s.get F.HP_CQ_STATUS_PHASE c < 2)
  · rw [if_neg hend, if_neg hend, (moderate_hostFrame_get ..).1, (moderate_hostFrame_get ..).2]
    refine ⟨(moderate_mem ..).trans hmem, ?_, ?_⟩
    · simp (disch := decide) only [get_put]
      rw [Nat.mod_eq_of_lt (by omega : s.get F.HP_CQ_STATUS_TAIL c + 1 < 2 ^ s.get F.HP_CQ_CFG_LOG2_SIZE c)]
      exact Nat.mod_eq_of_lt (by omega : _ < 2 ^ 16)
    · simp (disch := decide) only [get_put_apart]
      exact hget F.HP_CQ_STATUS_PHASE

/-- The request gone, and its ordering domain failed where R47 says so. -/
def State.leaveDomain (s : State) (rid : Nat) (r : Req) (st : Status) : State :=
  let s := { s with reqs := s.reqs.erase rid }
  if st.isFailure && st != .abortedReset && r.writeClass && r.dom != .none && !s.failed.contains (r.origin.key, r.dom)
    then { s with failed := (r.origin.key, r.dom) :: s.failed } else s

theorem leaveDomain_keeps (s : State) (rid : Nat) (r : Req) (st : Status) : (s.leaveDomain rid r st).regs = s.regs
    ∧ (s.leaveDomain rid r st).mem = s.mem ∧ (s.leaveDomain rid r st).memFail = s.memFail ∧ (s.leaveDomain rid r st).time = s.time := by
  unfold State.leaveDomain
  dsimp only
  split <;> exact ⟨rfl, rfl, rfl, rfl⟩

/-- What a completion has done before its entry is written: POISONED is reported (R407), and the request is counted (R199). -/
def State.beforeEntry (s : State) (rid : Nat) (r : Req) (st : Status) : State :=
  let s := s.leaveDomain rid r st
  (if st = .poisoned then (s.bump F.RAS_POISON_CONSUMED_COUNT).raisePoison r.part else s).countDone r.opcode st

theorem complete_of_ring {s : State} {rid q : Nat} {r : Req} (st : Status) (c : Cpl) (hr : s.reqs.get? rid = some r)
    (horigin : r.origin = .ring q) (hsilent : r.silent = false) :
    s.complete rid st c = (s.beforeEntry rid r st).postRing q r st { c with beatLost := c.beatLost || r.beatLost } := by
  have hreq : s.req? rid = some r := hr
  unfold State.complete
  simp only [hreq, hsilent, Bool.false_eq_true, if_false]
  simp only [horigin]
  unfold State.beforeEntry State.leaveDomain
  simp only [horigin]

theorem beforeEntry_calm (s : State) (rid : Nat) (r : Req) (st : Status) :
    (s.beforeEntry rid r st).calm = (s.leaveDomain rid r st).calm := by
  unfold State.beforeEntry
  dsimp only
  rw [countDone_calm]
  split
  · rw [raisePoison_calm, bump_calm]
  · rfl

theorem beforeEntry_keeps (s : State) (rid : Nat) (r : Req) (st : Status) : (s.beforeEntry rid r st).mem = s.mem
    ∧ (s.beforeEntry rid r st).memFail = s.memFail ∧ (s.beforeEntry rid r st).time = s.time := by
  have hcalm := beforeEntry_calm s rid r st
  obtain ⟨-, hmem, hfail, htime⟩ := leaveDomain_keeps s rid r st
  exact ⟨(mem_of_calm hcalm).trans hmem, (memFail_of_calm hcalm).trans hfail, (time_of_calm hcalm).trans htime⟩

theorem beforeEntry_get (s : State) (rid : Nat) {r : Req} (st : Status) (f : Fld) (i j : Nat)
    (hleaf : F.BELFRY_POISON_CAUSE.off (r.part / 32) 0 ≠ f.off i j) (hown : F.PART_RAS_STATUS_POISONED.off r.part 0 ≠ f.off i j)
    (hpoison : F.RAS_POISON_CONSUMED_COUNT.off 0 0 ≠ f.off i j) (hattend : F.ATTEND_COUNT_COUNT.off 0 0 ≠ f.off i j)
    (hpoisoned : F.ATTEND_POISONED_COUNT.off 0 0 ≠ f.off i j) (hselect : F.SELECT_COUNT_COUNT.off 0 0 ≠ f.off i j) :
    (s.beforeEntry rid r st).get f i j = s.get f i j := by
  unfold State.beforeEntry
  dsimp only
  rw [countDone_get _ _ _ _ _ _ hattend hpoisoned hselect]
  have hregs := (leaveDomain_keeps s rid r st).1
  split
  · rw [raisePoison_get _ _ _ _ hleaf hown, get_bump_other _ _ _ _ _ _ _ _ hpoison, get_congr hregs]
  · exact get_congr hregs f i j

/-- A field of the rings' registers is not one that a completion counts or reports in. -/
theorem beforeEntry_get_ring (s : State) (rid : Nat) {r : Req} (st : Status) (hpart : r.part < 128) (f : Fld) (i : Nat)
    (hlo : 0x210000 ≤ f.off i 0) (hhi : f.off i 0 < 0x230000) : (s.beforeEntry rid r st).get f i = s.get f i := by
  refine beforeEntry_get s rid st f i 0 ?_ ?_ ?_ ?_ ?_ ?_ <;>
    simp only [Fld.off, F.BELFRY_POISON_CAUSE, F.PART_RAS_STATUS_POISONED, F.RAS_POISON_CONSUMED_COUNT, F.ATTEND_COUNT_COUNT,
      F.ATTEND_POISONED_COUNT, F.SELECT_COUNT_COUNT] at hlo hhi ⊢ <;> omega

theorem beforeEntry_confidential (s : State) (rid : Nat) {r : Req} (st : Status) (hpart : r.part < 128) (p : Nat) :
    (s.beforeEntry rid r st).confidential p = s.confidential p := by
  have hget : (s.beforeEntry rid r st).get F.PART_CHM_STATUS_ACTIVE p = s.get F.PART_CHM_STATUS_ACTIVE p := by
    refine beforeEntry_get s rid st _ p 0 ?_ ?_ ?_ ?_ ?_ ?_ <;>
      simp only [Fld.off, F.PART_CHM_STATUS_ACTIVE, F.BELFRY_POISON_CAUSE, F.PART_RAS_STATUS_POISONED, F.RAS_POISON_CONSUMED_COUNT,
        F.ATTEND_COUNT_COUNT, F.ATTEND_POISONED_COUNT, F.SELECT_COUNT_COUNT] <;> omega
  simp only [State.confidential, State.on, hget]

/-- The state whose completion ring takes the entry of a request of submission ring `q`: one descriptor less in flight. -/
def State.readyForEntry (s : State) (rid q : Nat) (r : Req) (st : Status) : State :=
  let u := s.beforeEntry rid r st
  u.put F.HP_SQ_INFLIGHT_COUNT (u.get F.HP_SQ_INFLIGHT_COUNT q - 1) q

theorem readyForEntry_keeps (s : State) (rid q : Nat) (r : Req) (st : Status) : (s.readyForEntry rid q r st).mem = s.mem
    ∧ (s.readyForEntry rid q r st).memFail = s.memFail ∧ (s.readyForEntry rid q r st).time = s.time := beforeEntry_keeps s rid r st

theorem complete_eq_postCq {s : State} {rid q : Nat} {r : Req} (st : Status) (c : Cpl) (hr : s.reqs.get? rid = some r)
    (horigin : r.origin = .ring q) (hsilent : r.silent = false) :
    s.complete rid st c = (s.readyForEntry rid q r st).postCq ((s.readyForEntry rid q r st).cqOf q) r.fNotify
      (fun ph => cplBytes r.tag st { c with beatLost := c.beatLost || r.beatLost } ph q r.sqHead (s.readyForEntry rid q r st).time) :=
  complete_of_ring st c hr horigin hsilent

section
variable {s : State} {rid q : Nat} {r : Req} {st : Status} (hq : q < 1024) (hpart : r.part < 128)
include hq hpart

theorem readyForEntry_get (f : Fld) (c : Nat) (hlo : 0x220000 ≤ f.off c 0) (hhi : f.off c 0 < 0x230000) :
    (s.readyForEntry rid q r st).get f c = s.get f c := by
  have hother : F.HP_SQ_INFLIGHT_COUNT.off q 0 ≠ f.off c 0 := by
    simp only [Fld.off, F.HP_SQ_INFLIGHT_COUNT] at hlo ⊢
    omega
  exact (get_put_other _ _ _ _ _ _ _ _ hother).trans (beforeEntry_get_ring s rid st hpart f c (by omega) hhi)

theorem readyForEntry_cqOf : (s.readyForEntry rid q r st).cqOf q = s.cqOf q := by
  have hget : (s.readyForEntry rid q r st).get F.HP_SQ_CFG_CQ q = s.get F.HP_SQ_CFG_CQ q := by
    refine (get_put_lane _ _ _ _ _ _ _ _ (by decide)).trans (beforeEntry_get_ring s rid st hpart _ _ ?_ ?_) <;>
      simp only [Fld.off, F.HP_SQ_CFG_CQ] <;> omega
  simp only [State.cqOf, hget]

omit hq in
theorem readyForEntry_confidential (p : Nat) : (s.readyForEntry rid q r st).confidential p = s.confidential p := by
  have hother : F.HP_SQ_INFLIGHT_COUNT.off q 0 ≠ F.PART_CHM_STATUS_ACTIVE.off p 0 := by
    simp only [Fld.off, F.HP_SQ_INFLIGHT_COUNT, F.PART_CHM_STATUS_ACTIVE]
    omega
  exact (on_put_other _ _ _ _ _ _ _ _ hother).trans (beforeEntry_confidential s rid st hpart p)

end

theorem cqOf_lt (s : State) {q : Nat} (hq : q < 1024) : s.cqOf q < 1024 := by
  have hcq : s.get F.HP_SQ_CFG_CQ q < 8 := bits_lt ..
  unfold State.cqOf
  omega

/-- Settles O13: before the entry the completion leaves the registers of completion rings and memory, and `postCq_spec` says what the
entry does. -/
theorem completionsWriteOneEntry : Obligations.CompletionsWriteOneEntry := by
  rintro s rid st c r q _ _ _ _ hr horigin hq hpart hsilent rfl hactive rfl rfl rfl hroom hsize hclear hbus hwf
  obtain ⟨hmem, hfail, htime⟩ := readyForEntry_keeps s rid q r st
  have hlt := cqOf_lt s hq
  have hget (f : Fld) (hstride : f.s1 = 0x40) (hlo : 0x220000 ≤ f.base) (hhi : f.base < 0x220040) :
      (s.readyForEntry rid q r st).get f (s.cqOf q) = s.get f (s.cqOf q) :=
    readyForEntry_get hq hpart f _ (by simp only [Fld.off, hstride]; omega) (by simp only [Fld.off, hstride]; omega)
  have htail := hget F.HP_CQ_STATUS_TAIL rfl (by decide) (by decide)
  have hphase := hget F.HP_CQ_STATUS_PHASE rfl (by decide) (by decide)
  have hlog := hget F.HP_CQ_CFG_LOG2_SIZE rfl (by decide) (by decide)
  have hon : (s.readyForEntry rid q r st).on F.HP_CQ_STATUS_ACTIVE (s.cqOf q) = true := by
    rw [← hactive, State.on, State.on, hget F.HP_CQ_STATUS_ACTIVE rfl (by decide) (by decide)]
  have hbase : (s.readyForEntry rid q r st).cqBase (s.cqOf q) = s.cqBase (s.cqOf q) := by
    unfold State.cqBase
    rw [hget F.HP_CQ_BASE_LO_ADDR_LO rfl (by decide) (by decide), hget F.HP_CQ_BASE_HI_ADDR_HI rfl (by decide) (by decide)]
  have hreach (n : Nat) : (s.readyForEntry rid q r st).rangeFails n 32 = s.rangeFails n 32 := by
    rw [State.rangeFails, State.rangeFails, hfail]
  have hconf : (s.readyForEntry rid q r st).confidential (s.cqOf q / 8) = false := (readyForEntry_confidential hpart _).trans hclear
  rw [complete_eq_postCq st c hr horigin hsilent, readyForEntry_cqOf hq hpart]
  generalize s.readyForEntry rid q r st = u at *
  have hlen (ph : Nat) := length_cplBytes r.tag st { c with beatLost := c.beatLost || r.beatLost } ph q r.sqHead u.time
  obtain ⟨hwritten, hnewTail, hnewPhase⟩ := postCq_spec r.fNotify
    (fun ph => cplBytes r.tag st { c with beatLost := c.beatLost || r.beatLost } ph q r.sqHead u.time) hon hconf
    (by rw [hlen, hbase, htail, hreach, hbus]) (by rwa [htail, hlog]) (by rwa [hlog])
  rw [htail, hlog] at hnewTail
  rw [htail, hlog, hphase] at hnewPhase
  rw [hmem, hbase, htail, hphase] at hwritten
  refine ⟨?_, hnewTail, hnewPhase, fun a ha => ?_⟩
  · rw [hwritten, Memory.readBytes_writeBytes hwf (Nat.le_of_eq (hlen _).symm), ← hlen, List.take_length, htime]
  · rw [hwritten, Memory.readByte_writeBytes_other _ (by rw [hlen]; exact ha)]

end Sys2Proof.Machine
end

section
/-! PROOF. A Function Level Reset (R61) and the VF Enable bit (R54, R59). -/

namespace Sys2Proof.Machine

open Sys2Proof

theorem exec_functionLevelReset (e : Env) (fn : Nat) (s : State) :
    exec (.functionLevelReset e fn) s = .next (effFunctionLevelReset (s.enter e) fn) := rfl

theorem exec_vfEnableChange (e : Env) (enable : Bool) (num : Nat) (s : State) :
    exec (.vfEnableChange e enable num) s = .next (effVfEnableChange (s.enter e) enable num) := rfl

/-! ### The rings of a function stopped -/

/-- R61: of the requests of the function's rings those are left that had started, and they are silent. -/
theorem stopRings_reqs {s : State} {p k : Nat} {r : Req} (hr : (s.stopRings p).reqs.get? k = some r) (hmine : r.ofRings p = true) :
    r.phase ≠ .fetched ∧ r.silent = true := by
  have hmem := Table.mem_of_get? hr
  have hreqs : (s.stopRings p).reqs = (s.reqs.filter (fun x => !(x.2.ofRings p && x.2.phase == .fetched))).map (fun x =>
    if x.2.ofRings p then (x.1, { x.2 with silent := true }) else x) := rfl
  rw [hreqs] at hmem
  obtain ⟨x, hx, hxr⟩ := List.mem_map.mp hmem
  have hkept := (List.mem_filter.mp hx).2
  split at hxr
  case isTrue hring =>
    cases hxr
    refine ⟨fun hfetched => ?_, rfl⟩
    have hphase : x.2.phase = .fetched := hfetched
    rw [hring, hphase] at hkept
    exact absurd hkept (by decide)
  case isFalse hring =>
    cases hxr
    exact absurd hmine hring

/-- R61: the register sets of the function's rings are no longer listed. -/
theorem stopRings_regs_none (s : State) {p off : Nat} (h : 0x210000 + p * 0x200 ≤ off ∧ off < 0x210200 + p * 0x200
    ∨ 0x220000 + p * 0x200 ≤ off ∧ off < 0x220200 + p * 0x200) : (s.stopRings p).regs.get? off = none := by
  refine Table.get?_none_of fun x hx hoff => ?_
  have hkept := (List.mem_filter.mp hx).2
  simp only [Bool.not_eq_true', Bool.or_eq_false_iff, Bool.and_eq_false_iff, decide_eq_false_iff_not] at hkept
  omega

/-! ### What the end of sessions and of confidential host mode leaves -/

/-- The store, the partitions and memory are alike. -/
structure State.SameStore (s t : State) : Prop where
  leaves : t.leaves = s.leaves
  seqs : t.seqs = s.seqs
  parts : t.parts = s.parts
  roots : t.roots = s.roots
  mem : t.mem = s.mem

namespace State.SameStore

variable {s t u : State}

theorem refl (s : State) : s.SameStore s := ⟨rfl, rfl, rfl, rfl, rfl⟩

theorem trans (h : s.SameStore t) (h' : t.SameStore u) : s.SameStore u :=
  ⟨h'.leaves.trans h.leaves, h'.seqs.trans h.seqs, h'.parts.trans h.parts, h'.roots.trans h.roots, h'.mem.trans h.mem⟩

theorem of_calm (h : t.calm = s.calm) : s.SameStore t :=
  ⟨leaves_of_calm h, seqs_of_calm h, parts_of_calm h, roots_of_calm h, mem_of_calm h⟩

theorem stopRings (s : State) (p : Nat) : s.SameStore (s.stopRings p) := ⟨rfl, rfl, rfl, rfl, rfl⟩

theorem endChm (s : State) (p tdi : Nat) : s.SameStore (s.endChm p tdi) := by
  unfold State.endChm
  extract_lets was muted stopped marked ended
  have hstopped : s.SameStore stopped := by
    dsimp only [stopped]
    split
    · exact trans (t := muted) ⟨rfl, rfl, rfl, rfl, rfl⟩ (stopRings ..)
    · exact refl s
  have hended : s.SameStore ended := hstopped.trans ⟨rfl, rfl, rfl, rfl, rfl⟩
  split
  · exact hended.trans (of_calm (security_calm ..))
  · exact hended

theorem dropSessions (s : State) (fn : Nat) : s.SameStore (s.dropSessions fn) := by
  unfold State.dropSessions
  extract_lets sec dropped
  have hdropped : s.SameStore dropped := ⟨rfl, rfl, rfl, rfl, rfl⟩
  split
  · exact hdropped
  · exact hdropped.trans (endChm ..)

end State.SameStore

/-! ### VF Enable -/

theorem foldl_refreshPart (l : List Nat) (s : State) :
    (l.foldl (fun (s : State) p => s.refreshPart (p + 1)) s).regs = s.regs
      ∧ (l.foldl (fun (s : State) p => s.refreshPart (p + 1)) s).vfEnable = s.vfEnable
      ∧ (l.foldl (fun (s : State) p => s.refreshPart (p + 1)) s).numVfs = s.numVfs := by
  induction l generalizing s with
  | nil => exact ⟨rfl, rfl, rfl⟩
  | cons p l ih =>
    obtain ⟨hregs, hen, hnum⟩ := ih (s.refreshPart (p + 1))
    have hcalm := refreshPart_calm s (p + 1)
    exact ⟨hregs.trans (refreshPart_regs ..), hen.trans (vfEnable_of_calm hcalm), hnum.trans (numVfs_of_calm hcalm)⟩

/-- R54: setting VF Enable takes NumVFs, of at most 127. -/
theorem effVfEnableChange_of_rise {s : State} (num : Nat) (hoff : s.vfEnable = false) :
    (effVfEnableChange s true num).vfEnable = true ∧ (effVfEnableChange s true num).numVfs = min num 127
      ∧ (effVfEnableChange s true num).regs = s.regs := by
  unfold effVfEnableChange
  simp only [hoff, Bool.not_true, Bool.and_false, Bool.not_false, Bool.and_true, if_true, Bool.false_eq_true, if_false, List.foldl_nil]
  obtain ⟨hregs, hen, hnum⟩ := foldl_refreshPart (List.range (min num 127))
    { s with vfEnable := true, numVfs := min num 127, partPending := s.partPending.filter (fun p => p = 0 || min num 127 < p) }
  exact ⟨hen, hnum, hregs⟩

/-- R54: NumVFs is fixed while VF Enable is set. -/
theorem effVfEnableChange_of_set {s : State} (num : Nat) (hon : s.vfEnable = true) :
    effVfEnableChange s true num = { s with vfEnable := true } := by
  simp only [effVfEnableChange, hon, Bool.not_true, Bool.and_false, if_true, Bool.false_eq_true, if_false, List.foldl_nil]

/-- Settles O11: a reset ends the function's sessions and stops its rings; VF Enable touches no register. -/
theorem functionResetsStopRings : Obligations.FunctionResetsStopRings := by
  refine ⟨?reset, ?rise, ?kept⟩
  case reset =>
    intro e fn s hfn
    have hacts : (fn != 0 && !(s.enter e).vfEnabled fn) = false := by
      rcases hfn with rfl | hvf
      · rfl
      · rw [show (s.enter e).vfEnabled fn = true from hvf]
        exact Bool.and_false _
    have heff : effFunctionLevelReset (s.enter e) fn = ((s.enter e).dropSessions fn).stopRings fn := by
      simp only [effFunctionLevelReset, hacts, Bool.false_eq_true, if_false]
    obtain ⟨hleaves, hseqs, hparts, hroots, hmem⟩ :=
      (State.SameStore.dropSessions (s.enter e) fn).trans (State.SameStore.stopRings _ fn)
    exact ⟨_, (exec_functionLevelReset ..).trans (congrArg _ heff), fun k r hr hmine => stopRings_reqs hr hmine,
      fun off hlo hhi => stopRings_regs_none _ (.inl ⟨hlo, hhi⟩), fun off hlo hhi => stopRings_regs_none _ (.inr ⟨hlo, hhi⟩),
      hleaves, hseqs, hparts, hroots, hmem⟩
  case rise =>
    intro e num s hoff
    exact ⟨_, exec_vfEnableChange .., effVfEnableChange_of_rise (s := s.enter e) num hoff⟩
  case kept =>
    intro e num s hon
    exact ⟨_, (exec_vfEnableChange ..).trans (congrArg _ (effVfEnableChange_of_set (s := s.enter e) num hon)), rfl, rfl⟩

end Sys2Proof.Machine
end

section
/-! PROOF. Sequences are opened under a lease, which a heartbeat renews and time ends (R37 to R39, R79). -/

namespace Sys2Proof.Machine

open Sys2Proof

theorem exec_seqOpen (e : Env) (rid : Nat) (s : State) : exec (.seqOpen e rid) s = .next (effSeqOpen (s.enter e) rid) := rfl

theorem exec_seqHeartbeat (e : Env) (rid : Nat) (s : State) :
    exec (.seqHeartbeat e rid) s = .next (effSeqHeartbeat (s.enter e) rid) := rfl

theorem exec_leaseExpiry (e : Env) (k : Nat) (s : State) : exec (.leaseExpiry e k) s = .next (effLeaseExpiry (s.enter e) k) := rfl

/-- The record of a new sequence (R19, R92, R122, R129), under its requester's lease. -/
def newSequ (s : State) (r : Req) (ep : Epoch) (k : Nat) : Sequ :=
  let sc : Scan := { st := s.ruleStart r.part r.snap.ruleEpoch }
  let seed := s.seedOf r.openShared r.part r.openGroup
  s.giveLease { state := .openS, persist := persistOf r.openPersist, shapeIndex := r.shapeIndex, shapeEpoch := ep
                ruleSetEpoch := r.snap.ruleEpoch, generation := (s.seq k).generation + 1, adapterId := r.openAdapter
                tierHints := r.openHints, shareGroup := r.openGroup, shared := r.openShared, lastHash := seed, partition := r.part
                scan := sc, scanPub := sc, seed := seed } r.origin r.startTime

/-- R37: a permitted SEQ_OPEN with room takes the record that the choice gives and completes when it is journaled. -/
theorem openNew_of_ok {s s2 : State} {rid k : Nat} {r : Req} {slot : Slot Bytes} (hshape : s.shapeNow? r.part r.shapeIndex = some slot)
    (hmember : r.openShared = true → r.snap.member = true) (hmedia : r.openPersist = 1 → s.journalFull = false)
    (hroom : s.recRoom 2 = true)
    (hpick : s.pick (fun k => (s.seq k).state != .free || (s.seq k).withheld) (2 ^ 28) = (some k, s2)) :
    s.openNew rid r = (s2.setSeq k (newSequ s2 r slot.epoch k)).completeJournaled rid
      ((s2.setSeq k (newSequ s2 r slot.epoch k)).seqRecs k) .ok { result0 := (s2.setSeq k (newSequ s2 r slot.epoch k)).seqHandle k } := by
  have hpermitted : ¬ (r.openShared = true ∧ (!r.snap.member) = true) := by rintro ⟨h1, h2⟩; simp [hmember h1] at h2
  have hwritable : ¬ (r.openPersist = 1 ∧ s.journalFull = true) := by rintro ⟨h1, h2⟩; simp [hmedia h1] at h2
  simp only [State.openNew, hshape, hroom, hpick, Bool.and_eq_true, decide_eq_true_eq, hpermitted, hwritable, if_false]
  rfl

/-- R37, R38: a PUBLISHED sequence that can be journaled is OPEN again under the requester's lease. -/
theorem openAgain_of_published {s : State} {rid : Nat} {r : Req} (hstate : (s.seq (hSeq r.handle)).state = .published)
    (hmedia : s.seqJournaled (s.seq (hSeq r.handle)) = true → s.journalFull = false) :
    s.openAgain rid r =
      (s.setSeq (hSeq r.handle) (s.giveLease { s.seq (hSeq r.handle) with state := .openS } r.origin r.startTime)).completeJournaled rid
        ((s.setSeq (hSeq r.handle) (s.giveLease { s.seq (hSeq r.handle) with state := .openS } r.origin r.startTime)).seqRecs (hSeq r.handle)) .ok
        { result0 := (s.setSeq (hSeq r.handle)
            (s.giveLease { s.seq (hSeq r.handle) with state := .openS } r.origin r.startTime)).seqHandle (hSeq r.handle),
          result1 := (s.seq (hSeq r.handle)).publishedChunks } := by
  have hwritable : ¬ ((s.seqJournaled (s.seq (hSeq r.handle)) && s.journalFull) = true) := by
    intro h; obtain ⟨h1, h2⟩ := Bool.and_eq_true_iff.mp h; simp [hmedia h1] at h2
  simp only [State.openAgain, hstate, bne_self_eq_false, Bool.false_eq_true, if_false, if_neg hwritable]

/-- R39: the holder's heartbeat renews its lease. -/
theorem effSeqHeartbeat_of_holder {s : State} {rid : Nat} {r : Req} (hr : s.startedReq? rid [0x15] = some r)
    (hholder : s.isHolder (s.seq (hSeq r.handle)) r.origin = true) :
    effSeqHeartbeat s rid = (s.setSeq (hSeq r.handle) (s.giveLease (s.seq (hSeq r.handle)) r.origin r.startTime)).complete rid .ok
      { result0 := s.leaseEnd (s.seq (hSeq r.handle)).partition r.startTime } := by
  simp only [effSeqHeartbeat, hr, hholder, Bool.not_true, Bool.false_eq_true, if_false, seq_setSeq]
  rfl

/-- The sequence whose lease has ended is PUBLISHED and has no holder (R37, R40). -/
theorem seq_endLease (s : State) (k : Nat) : ((s.endLease k).seq k).state = .published
    ∧ (((s.endLease k).seq k).holderKind, ((s.endLease k).seq k).holderIndex, ((s.endLease k).seq k).holderPosition) = (0, 0, 0) := by
  simp only [State.endLease, seq_setSeq, and_self]

/-- An expired lease with no write of its holder in progress ends; the record of the end changes no sequence. -/
theorem effLeaseExpiry_seqs {s : State} {k : Nat} (hopen : (s.seq k).state = .openS) (hexpired : (s.seq k).leaseExpiry ≤ s.time)
    (hidle : s.holderBusy k = false) : (effLeaseExpiry s k).seqs = (s.endLease k).seqs := by
  simp only [effLeaseExpiry, hopen, hidle, Nat.not_lt.mpr hexpired, bne_self_eq_false, decide_false, Bool.or_self, Bool.false_eq_true,
    if_false]
  split <;> rfl

/-- Settles O14: each operation by the lemma about its passing form; the end of a lease by `effLeaseExpiry_seqs` and `seq_endLease`. -/
theorem sequencesOpenUnderALease : Obligations.SequencesOpenUnderALease := by
  refine ⟨?_, ?_, ?_, ?_⟩
  · intro e rid s s1 r slot k s2 hs1 hr hnew hshape hmember hmedia hroom hpick
    subst hs1
    have hs2 : s2 = (s.enter e).free.2 := (congrArg Prod.snd hpick).symm.trans rfl
    refine ⟨newSequ s2 r slot.epoch k, _, (exec_seqOpen ..).trans (congrArg _ ?_), rfl, ?_⟩
    · simp only [effSeqOpen, hr, hnew, if_true]
      exact openNew_of_ok hshape hmember hmedia hroom hpick
    · subst hs2
      exact ⟨rfl, rfl, rfl, rfl, rfl, rfl, rfl, rfl, rfl, rfl, rfl, rfl, rfl, rfl⟩
  · intro e rid s s1 r k q hs1 hr hold hk hstate hmedia hq
    subst hs1 hk hq
    refine (exec_seqOpen ..).trans (congrArg _ ?_)
    simp only [effSeqOpen, hr, if_neg hold]
    exact openAgain_of_published hstate hmedia
  · intro e rid s s1 r k q hs1 hr hk hholder hq
    subst hs1 hk hq
    exact ⟨rfl, (exec_seqHeartbeat ..).trans (congrArg _ (effSeqHeartbeat_of_holder (s := s.enter e) hr hholder))⟩
  · intro e k s s1 hs1 hopen hexpired hidle
    subst hs1
    have hseqs := effLeaseExpiry_seqs (s := s.enter e) hopen hexpired hidle
    refine ⟨_, exec_leaseExpiry .., hseqs, ?_⟩
    rw [show (effLeaseExpiry (s.enter e) k).seq k = ((s.enter e).endLease k).seq k from congrArg (fun t : Table Sequ => t.getD k {}) hseqs]
    exact seq_endLease ..

end Sys2Proof.Machine
end

section
/-! PROOF. Writes of a sequence's holder renew its lease (R38, R39): appends and leaf writes with their values read (R48, R80, R81), and
the seal of a full chunk. -/

namespace Sys2Proof.Machine

open Sys2Proof

theorem exec_seqAppend (e : Env) (rid : Nat) (s : State) : exec (.seqAppend e rid) s = .next (effSeqAppend (s.enter e) rid) := rfl

theorem exec_leafWrite (e : Env) (rid : Nat) (s : State) : exec (.leafWrite e rid) s = .next (effLeafWrite (s.enter e) rid) := rfl

theorem exec_chunkSeal (e : Env) (k n : Nat) (s : State) : exec (.chunkSeal e k n) s = .next (effChunkSeal (s.enter e) k n) := rfl

/-- The shape of a sequence depends on nothing that its lease changes. -/
theorem seqShape_renewed (s : State) (k : Nat) (o : Origin) (t : Nat) :
    (s.setSeq k (s.giveLease (s.seq k) o t)).seqShape (s.seq k)
      = (s.setSeq k (s.giveLease (s.seq k) o t)).seqShape ((s.setSeq k (s.giveLease (s.seq k) o t)).seq k) := by
  rw [seq_setSeq]; rfl

/-- R38, R39: a write of the holder goes on in the state with the lease renewed, on the sequence's shape. -/
theorem heldWrite_of_holder {s s2 : State} {rid k : Nat} {r : Req} (go : State → Nat → Bytes → State) (hk : k = hSeq r.handle)
    (hholder : s.isHolder (s.seq k) r.origin = true) (hs2 : s2 = s.setSeq k (s.giveLease (s.seq k) r.origin r.startTime))
    (hshape : s2.shapeBad (s.seq k).partition (s.seq k).shapeIndex (s.seq k).shapeEpoch = false) :
    s.heldWrite rid r go = go s2 k (s2.seqShape (s2.seq k)) := by
  subst hk hs2
  simp only [State.heldWrite, hholder, hshape, Bool.not_true, Bool.false_eq_true, if_false, seqShape_renewed]

/-- R80: an append of tokens only goes on with the tokens read. -/
theorem appendStart_of_tokens {s : State} {rid k : Nat} {r : Req} {sh bs : Bytes} (haddr : r.addr16 = 0)
    (htokens : s.tokenRead r r.addr24 (4 * r.appendCount) = .ok bs)
    (hrange : (tokensOf r.appendCount bs).any (fun t => t ≥ 2 ^ 20) = false) :
    s.appendStart rid r k sh = s.appendRead rid r k sh (tokensOf r.appendCount bs) [] := by
  simp only [State.appendStart, haddr, htokens, hrange, Bool.false_eq_true, if_false]

/-- R80, R140: an append of tokens with their keys and values goes on with both read. -/
theorem appendStart_of_blocks {s : State} {rid k size : Nat} {r : Req} {f : FpFmt} {sh bs : Bytes} {bl : List Bytes} (haddr : r.addr16 ≠ 0)
    (hplain : r.appendFormat ≠ 0) (hformat : plainFmt? r.appendFormat = some f)
    (hsize : size = 2 * shHeads sh * r.appendCount * shDim sh * f.bytes) (hstride : r.appendStride = 0 ∨ size ≤ r.appendStride)
    (htokens : s.tokenRead r r.addr24 (4 * r.appendCount) = .ok bs)
    (hrange : (tokensOf r.appendCount bs).any (fun t => t ≥ 2 ^ 20) = false)
    (hblocks : s.readBlocks r r.addr16 (if r.appendStride = 0 then size else r.appendStride) size (shLayers sh) = .inl bl)
    (hfinite : (bl.map (layerBlock f (shHeads sh) (shDim sh) r.appendCount)).any blockBad = false) :
    s.appendStart rid r k sh = s.appendRead rid r k sh (tokensOf r.appendCount bs)
      (bl.map (layerBlock f (shHeads sh) (shDim sh) r.appendCount)) := by
  subst hsize
  have hfits : ¬ ((r.appendStride != 0 && decide (r.appendStride < 2 * shHeads sh * r.appendCount * shDim sh * f.bytes)) = true) := by
    rcases hstride with h | h
    · simp [h]
    · simp [Nat.not_lt.mpr h]
  obtain ⟨a, ha⟩ : ∃ a, r.addr16 = a + 1 := Nat.exists_eq_add_one_of_ne_zero haddr
  rw [ha] at hblocks
  simp only [State.appendStart, ha, hformat, if_neg hplain, if_neg hfits, htokens, hrange, hblocks, hfinite, Bool.false_eq_true, if_false]

/-- R81: a leaf write of whole spots of the unsealed chunks goes on with its values read. -/
theorem leafWriteStart_of_ok {s : State} {rid k : Nat} {r : Req} {f : FpFmt} {sh bs : Bytes} (hlayer : r.writeLayer < shLayers sh)
    (hcount : r.writeCount ≤ shTpl sh) (hplain : r.writeFormat ≠ 0) (hformat : plainFmt? r.writeFormat = some f)
    (hspots : ∀ x ∈ writeSpots (s.seq k).firstUnsealed (shTpl sh) r.writeFirst r.writeCount,
      ∃ c, (s.seq k).chunks[x.1]? = some c ∧ c.isSealed = false ∧ x.2 < c.tokenCount)
    (hread : s.bufRead r 2 r.addr16 (2 * shHeads sh * r.writeCount * shDim sh * f.bytes) = .ok bs)
    (hfinite : blockBad (layerBlock f (shHeads sh) (shDim sh) r.writeCount bs) = false) :
    s.leafWriteStart rid r k sh = s.leafWriteRead rid r k sh (layerBlock f (shHeads sh) (shDim sh) r.writeCount bs) := by
  unfold State.leafWriteStart
  extract_lets q t u outside
  have hinside : outside = false := by
    refine List.any_eq_false.mpr fun x hx => ?_
    obtain ⟨c, hchunk, hopen, hroom⟩ := hspots x hx
    simp only [hchunk, hopen, q, Bool.false_or, decide_eq_true_eq]
    exact Nat.not_le.mpr hroom
  rw [if_neg (Nat.not_le.mpr hlayer), if_neg (by simp [hinside]), if_neg (Nat.not_lt.mpr hcount)]
  simp only [hformat, if_neg hplain, hread, hfinite, Bool.false_eq_true, if_false]

/-- R33, R165: the seal of a chunk, where a cluster and a slice are on, adds the sealed leaves to its descriptor's plan. -/
theorem effChunkSeal_of_ok {s s2 : State} {k n rid : Nat} {r : Req} {pl pl' : Plan} {c : Chunk} {ls : Table Leaf}
    (hsealer : s.sealer? k n = some (rid, r, pl)) (hcluster : s.anyCluster = true) (hslice : s.anySlice = true)
    (hchunk : pl.chunks.find? (fun c => c.number == n) = some c)
    (hlayers : s.sealLayers (s.seq k) c pl.staged (pl.durables.contains n) c.leaves 0 = (ls, s2))
    (hpl' : pl' = { pl with done := n :: pl.done, sealedLeaves := ls.foldl (fun t x => Table.set x.1 x.2 t) pl.sealedLeaves }) :
    effChunkSeal s k n = if pl'.done.length < pl.ready.length then s2.wait rid (.append pl')
      else if pl.durables = [] then s2.finishPlan rid r pl' else s2.programPlan rid pl' := by
  subst hpl'
  simp only [effChunkSeal, hsealer, hcluster, hslice, hchunk, hlayers, Bool.not_true, Bool.or_self, Bool.false_eq_true, if_false]

/-- Settles O15: the lease is renewed by `heldWrite_of_holder`, and the write goes on by the lemma about its passing form. -/
theorem writesOfTheHolderRenewTheLease : Obligations.WritesOfTheHolderRenewTheLease := by
  refine ⟨?_, ?_, ?_, ?_⟩
  · intro e rid s s1 s2 r k toks bs hs1 hr hk hholder hs2 hshape haddr htokens htoks hrange
    subst hs1 htoks
    refine (exec_seqAppend ..).trans (congrArg _ ?_)
    simp only [effSeqAppend, hr, heldWrite_of_holder _ hk hholder hs2 hshape, appendStart_of_tokens haddr htokens hrange]
  · intro e rid s s1 s2 r k size f sh bs bl hs1 hr hk hholder hs2 hshape haddr hplain hformat hsh hsize hstride htokens hrange hblocks hfinite
    subst hs1 hsh
    refine (exec_seqAppend ..).trans (congrArg _ ?_)
    simp only [effSeqAppend, hr, heldWrite_of_holder _ hk hholder hs2 hshape,
      appendStart_of_blocks haddr hplain hformat hsize hstride htokens hrange hblocks hfinite]
  · intro e rid s s1 s2 r k u f sh bs q hs1 hr hk hholder hs2 hshape hq hsh hu hlayer hcount hplain hformat hspots hread hfinite
    subst hs1 hq hsh hu
    refine (exec_leafWrite ..).trans (congrArg _ ?_)
    simp only [effLeafWrite, hr, heldWrite_of_holder _ hk hholder hs2 hshape,
      leafWriteStart_of_ok hlayer hcount hplain hformat hspots hread hfinite]
  · intro e k n rid s s1 s2 r pl pl' c ls hs1 hsealer hcluster hslice hchunk hlayers hpl'
    subst hs1
    exact (exec_chunkSeal ..).trans (congrArg _ (effChunkSeal_of_ok hsealer hcluster hslice hchunk hlayers hpl'))

end Sys2Proof.Machine
end

section
/-! PROOF. Sequences are published, forked, retired and freed, and holds are released (R23, R37, R41, R42). -/

namespace Sys2Proof.Machine

open Sys2Proof

theorem exec_seqPublish (e : Env) (rid : Nat) (s : State) : exec (.seqPublish e rid) s = .next (effSeqPublish (s.enter e) rid) := rfl

theorem exec_seqRetire (e : Env) (rid : Nat) (s : State) : exec (.seqRetire e rid) s = .next (effSeqRetire (s.enter e) rid) := rfl

theorem exec_sequenceFree (e : Env) (k : Nat) (s : State) : exec (.sequenceFree e k) s = .next (effSequenceFree (s.enter e) k) := rfl

theorem exec_holdRelease (e : Env) (owner leaf cid : Nat) (s : State) :
    exec (.holdRelease e owner leaf cid) s = .next (effHoldRelease (s.enter e) owner leaf cid) := rfl

/-- The record of a sequence as its publication up to chunk `n` leaves it (R41). -/
def Sequ.publishedTo (q : Sequ) (n : Nat) : Sequ :=
  let new := max q.publishedChunks n
  let chunks := q.chunks.mapIdx (fun i c => if i < new then { c with published := true } else c)
  { q with
    publishedChunks := new, chunks := chunks
    scanPub := match (if n > q.publishedChunks then chunks[n - 1]? else none) with
      | some c => c.scanAfter
      | none => q.scanPub }

/-- R41: a publication that keeps the lease writes the sequence's record and completes when it is journaled. -/
theorem publish_of_keep (s : State) (rid : Nat) {r : Req} (k n : Nat) (hkeep : r.release = false) :
    ∃ recs, s.publish rid r k n = (s.setSeq k ((s.seq k).publishedTo n)).completeJournaled rid recs .ok
      { result0 := max (s.seq k).publishedChunks n } := by
  unfold State.publish
  simp only [hkeep, Bool.false_eq_true, if_false]
  exact ⟨_, rfl⟩

/-- R41, R301: the holder publishes chunks that have sealed, wherever the journal can take their records. -/
theorem effSeqPublish_of_ok {s : State} {rid k : Nat} {r : Req} (hr : s.startedReq? rid [0x12] = some r) (hk : k = hSeq r.handle)
    (hholder : s.isHolder (s.seq k) r.origin = true) (hcount : r.chunkCount16 ≤ (s.seq k).firstUnsealed)
    (hmedia : s.seqJournaled (s.seq k) = true → s.journalFull = false) :
    effSeqPublish s rid = s.publish rid r k r.chunkCount16 := by
  subst hk
  have hwritable : ¬ (s.seqJournaled (s.seq (hSeq r.handle)) = true ∧ s.journalFull = true) := by
    rintro ⟨h1, h2⟩; simp [hmedia h1] at h2
  simp only [effSeqPublish, hr, hholder, Nat.not_lt.mpr hcount, hwritable, Bool.and_eq_true, Bool.not_true, Bool.false_eq_true, if_false]

/-- A fork of a RETIRED sequence answers EVICTED (R42). -/
theorem effSeqFork_of_retired {s : State} {rid : Nat} {r : Req} (hr : s.startedReq? rid [0x13] = some r)
    (hretired : (s.seq (hSeq r.handle)).state = .retired) : effSeqFork s rid = s.complete rid .evicted := by
  simp only [effSeqFork, hr, if_pos hretired]

/-- R42: a fork that passes its checks goes on in the record that the choice gives. -/
theorem effSeqFork_of_ok {s s2 : State} {rid k : Nat} {r : Req} {q : Sequ} {ep : Epoch} (hr : s.startedReq? rid [0x13] = some r)
    (hq : q = s.seq (hSeq r.handle)) (hlive : q.state ≠ .retired) (hcount : r.chunkCount16 ≤ q.publishedChunks)
    (hshare : (q.chunks.take r.chunkCount16).any (fun c => c.acts.noStore || (q.partition != r.part && c.acts.noShare)) = false)
    (hepoch : s.forkEpoch r.part q = some ep) (hmedia : s.journalFull = false)
    (hroom : s.recRoom (2 + chunkGranules (shLayers (s.seqShape q)) 0 r.chunkCount16) = true)
    (hpick : s.pick (fun k => (s.seq k).state != .free || (s.seq k).withheld) (2 ^ 28) = (some k, s2)) :
    effSeqFork s rid = s2.fork rid r q ep r.chunkCount16 k := by
  subst hq
  simp only [effSeqFork, hr, if_neg hlive, gt_iff_lt, Nat.not_lt.mpr hcount, hshare, hepoch, hmedia, hroom, hpick, Bool.and_false,
    Bool.false_eq_true, if_false]

/-- The record of a fork, under the forker's lease (R25, R42, R529). -/
def forkSequ (s : State) (r : Req) (q : Sequ) (ep : Epoch) (n k : Nat) : Sequ :=
  let sc : Scan := { (if q.partition = r.part then r.snap.scan else {}) with st := s.ruleStart r.part r.snap.ruleEpoch }
  s.giveLease { state := .openS, persist := persistOf r.forkPersist, shapeIndex := q.shapeIndex, shapeEpoch := ep
                ruleSetEpoch := r.snap.ruleEpoch, generation := (s.seq k).generation + 1, publishedChunks := n, totalChunks := n
                adapterId := q.adapterId, tierHints := r.forkHints, shareGroup := q.shareGroup, shared := q.shared
                lastHash := (match (q.chunks.take n).getLast? with | some c => c.hash | none => q.seed), partition := r.part
                chunks := q.chunks.take n, scan := sc, scanPub := sc, seed := q.seed } r.origin r.startTime

/-- The chunks that a fork takes over name their leaves once more (R25). -/
def State.addRefs (s : State) (leaves : List Nat) : State :=
  leaves.foldl (fun s i => s.setLeaf i { s.leaf i with refCount := (s.leaf i).refCount + 1 }) s

/-- R42: a fork writes its record, takes its references and completes when it is journaled. -/
theorem fork_eq (s : State) (rid : Nat) (r : Req) (q : Sequ) (ep : Epoch) (n k : Nat) :
    ∃ recs, s.fork rid r q ep n k
      = ((s.setSeq k (forkSequ s r q ep n k)).addRefs ((q.chunks.take n).flatMap (·.leaves))).completeJournaled rid recs .ok
          { result0 := ((s.setSeq k (forkSequ s r q ep n k)).addRefs ((q.chunks.take n).flatMap (·.leaves))).seqHandle k, result1 := n } :=
  ⟨_, rfl⟩

/-- R37: the holder, or anyone for a PUBLISHED sequence, retires it wherever the journal can take its record. -/
theorem effSeqRetire_of_ok {s : State} {rid k : Nat} {r : Req} (hr : s.startedReq? rid [0x14] = some r) (hk : k = hSeq r.handle)
    (hlive : (s.seq k).state ≠ .retired) (hholder : (s.seq k).state = .openS → s.isHolder (s.seq k) r.origin = true)
    (hmedia : s.seqJournaled (s.seq k) = true → s.journalFull = false) :
    ∃ recs, effSeqRetire s rid = (s.retire k).completeJournaled rid recs .ok := by
  subst hk
  have hmay : ¬ ((s.seq (hSeq r.handle)).state = .openS ∧ (!s.isHolder (s.seq (hSeq r.handle)) r.origin) = true) := by
    rintro ⟨h1, h2⟩; simp [hholder h1] at h2
  have hwritable : ¬ (s.seqJournaled (s.seq (hSeq r.handle)) = true ∧ s.journalFull = true) := by
    rintro ⟨h1, h2⟩; simp [hmedia h1] at h2
  simp only [effSeqRetire, hr, hlive, hmay, hwritable, Bool.and_eq_true, decide_eq_true_eq, if_false]
  exact ⟨_, rfl⟩

/-- The chunk records of a sequence that is retired name no leaf and hold no token (R37). -/
theorem chunks_retire (s : State) (k : Nat) : ∀ c ∈ ((s.retire k).seq k).chunks, c.leaves = [] ∧ c.tokens = [] := by
  intro c hc
  simp only [State.retire, seq_setSeq, List.mem_map] at hc
  obtain ⟨c0, -, rfl⟩ := hc
  exact ⟨rfl, rfl⟩

/-- A hold is released once nothing of its owner reads the leaf any more (R23). -/
theorem effHoldRelease_of_finished {s : State} {owner leaf cid : Nat} (hfinished : s.stillReads owner leaf = false) :
    effHoldRelease s owner leaf cid = s.unhold owner leaf cid := if_neg (by simp [hfinished])

/-- A RETIRED sequence that nothing names gives its record back (R37). -/
theorem effSequenceFree_of_unnamed {s : State} {k : Nat} (hretired : (s.seq k).state = .retired) (hunnamed : s.seqNamed k = false) :
    effSequenceFree s k
      = (s.setSeq k { generation := (s.seq k).generation, withheld := (s.seq k).withheld }).releaseRules (s.seq k).partition :=
  if_neg (by simp [hretired, hunnamed])

/-- Settles O16: each operation by the lemma about its passing form. -/
theorem sequencesPublishForkAndRetire : Obligations.SequencesPublishForkAndRetire := by
  refine ⟨?_, ?_, ?_, ?_, ?_, ?_⟩
  · intro e rid s s1 r k hs1 hr hk hholder hcount hmedia hkeep
    subst hs1
    obtain ⟨recs, hpublish⟩ := publish_of_keep (s.enter e) rid k r.chunkCount16 hkeep
    exact ⟨_, ((s.enter e).seq k).publishedTo r.chunkCount16, recs, exec_seqPublish .., rfl,
      (effSeqPublish_of_ok hr hk hholder hcount hmedia).trans hpublish, rfl, rfl⟩
  · intro e rid s s1 r hs1 hr
    subst hs1
    exact ⟨fun hretired => (exec_seqFork ..).trans (congrArg _ (effSeqFork_of_retired (s := s.enter e) hr hretired)),
      fun hlive hcount => (exec_seqFork ..).trans (congrArg _ (effSeqFork_of_publishedChunks_lt (s := s.enter e) hr hlive hcount))⟩
  · intro e rid s s1 s2 r q ep k hs1 hr hq hlive hcount hshare hepoch hmedia hroom hpick
    subst hs1
    have hs2 : s2 = (s.enter e).free.2 := (congrArg Prod.snd hpick).symm.trans rfl
    obtain ⟨recs, hfork⟩ := fork_eq s2 rid r q ep r.chunkCount16 k
    refine ⟨forkSequ s2 r q ep r.chunkCount16 k, _, recs,
      (exec_seqFork ..).trans (congrArg _ ((effSeqFork_of_ok hr hq hlive hcount hshare hepoch hmedia hroom hpick).trans hfork)), rfl, ?_⟩
    subst hs2
    exact ⟨rfl, rfl, rfl, rfl, rfl, rfl⟩
  · intro e rid s s1 r k hs1 hr hk hlive hholder hmedia
    subst hs1
    obtain ⟨recs, hretire⟩ := effSeqRetire_of_ok (s := s.enter e) hr hk hlive hholder hmedia
    exact ⟨_, recs, (exec_seqRetire ..).trans (congrArg _ hretire), rfl, chunks_retire _ _⟩
  · intro e k s s1 hs1 hretired hunnamed
    subst hs1
    exact (exec_sequenceFree ..).trans (congrArg _ (effSequenceFree_of_unnamed (s := s.enter e) hretired hunnamed))
  · intro e owner leaf cid s s1 hs1 hfinished
    subst hs1
    exact (exec_holdRelease ..).trans (congrArg _ (effHoldRelease_of_finished (s := s.enter e) hfinished))

end Sys2Proof.Machine
end

section
/-! PROOF. A LEAF_READ that passes its checks (R23, R245), and pins and evictions of a leaf (R30 to R32, R35). -/

namespace Sys2Proof.Machine

open Sys2Proof

theorem exec_leafRead (e : Env) (rid : Nat) (s : State) : exec (.leafRead e rid) s = .next (effLeafRead (s.enter e) rid) := rfl

theorem exec_leafPin (e : Env) (rid : Nat) (s : State) : exec (.leafPin e rid) s = .next (effLeafPin (s.enter e) rid) := rfl

theorem exec_leafUnpin (e : Env) (rid : Nat) (s : State) : exec (.leafUnpin e rid) s = .next (effLeafUnpin (s.enter e) rid) := rfl

theorem exec_leafEvict (e : Env) (rid : Nat) (s : State) : exec (.leafEvict e rid) s = .next (effLeafEvict (s.enter e) rid) := rfl

/-! ### LEAF_READ -/

/-- R32, R241, R411: a read of a leaf that it may read, and whose records are sound, starts. -/
theorem effLeafRead_of_ok {s : State} {rid i : Nat} {r : Req} (hr : s.startedReq? rid [0x20] = some r) (hi : i = hLeaf r.handle)
    (hformat : r.readConvert = true → (plainFmt? r.readFormat).isSome = true) (hnamed : s.leafGone r.handle = false)
    (hshare : (s.leaf i).partition = r.part ∨ (s.leaf i).noStore = false ∧ (s.leaf i).noShare = false)
    (hfilling : (s.leaf i).state = .filling → r.readConvert = true) (hstays : (s.leaf i).state ≠ .evicting)
    (hshape : s.viewShapeBad i = false) (hcan : s.canHold i = true) (hslice : s.anySlice = true) :
    effLeafRead s rid = s.startRead rid r i (s.chunkOfLeaf? i) := by
  subst hi
  have hknown : ¬ (r.readConvert = true ∧ (plainFmt? r.readFormat).isNone = true) := by
    rintro ⟨h1, h2⟩; have := hformat h1; cases h : plainFmt? r.readFormat <;> simp_all
  have hreader : ((s.leaf (hLeaf r.handle)).partition != r.part
      && ((s.leaf (hLeaf r.handle)).noStore || (s.leaf (hLeaf r.handle)).noShare)) = false := by
    rcases hshare with h | ⟨h1, h2⟩
    · simp [h]
    · simp [h1, h2]
  have hconverts : ¬ ((s.leaf (hLeaf r.handle)).state = .filling ∧ (!r.readConvert) = true) := by
    rintro ⟨h1, h2⟩; simp [hfilling h1] at h2
  simp only [effLeafRead, hr, Bool.and_eq_true (_ : Bool) (Option.isNone _), Bool.and_eq_true (decide _), decide_eq_true_eq, hknown, hnamed,
    hreader, hconverts, hstays, hshape, hcan, hslice, Bool.not_true, Bool.or_self, Bool.false_eq_true, if_false]

/-- R245, R248: a read without a commit point, whose leaf can be read and whose destination takes it, writes the leaf and completes. -/
theorem startRead_of_ok {s s2 s3 s4 : State} {rid i : Nat} {r : Req} {c : Option Chunk} {bad : Bool} {v : View} {bs : Bytes}
    (hbad : bad = c.elim false s.chunkBad) (htake : s.takeView rid i ((c.map (·.number)).getD 0) bad = (v, s2))
    (hs3 : s3 = (s2.access i).decodeAny v) (huntimed : s3.commitTime? r = none) (hreads : s3.readFails v = false)
    (hout : s3.readOutput r v none = (bs, [], s4)) (hdst : s4.dstOk r r.addr16 bs.length = true)
    (hflush : r.dstSpace = 0 → (s4.writeLines r 4 r.addr16 bs []).flushOk 0 (r.addr16 + bs.length - 1) = true) :
    s.startRead rid r i c
      = (s4.writeLines r 4 r.addr16 bs []).complete rid .ok { result0 := bs.length + v.count * 2 ^ 32 } := by
  have hflushed : ¬ (r.dstSpace = 0 ∧ (!(s4.writeLines r 4 r.addr16 bs []).flushOk 0 (r.addr16 + bs.length - 1)) = true) := by
    rintro ⟨h1, h2⟩; simp [hflush h1] at h2
  have hfinish : s3.finishRead rid r v none
      = (s4.writeLines r 4 r.addr16 bs []).complete rid .ok { result0 := bs.length + v.count * 2 ^ 32 } := by
    simp only [State.finishRead, hout, hdst, Bool.and_eq_true, decide_eq_true_eq, hflushed, bne_self_eq_false, Option.isSome_none,
      Bool.not_true, Bool.false_eq_true, if_false]
  subst hbad hs3
  cases c with
  | none =>
    simp only [Option.elim_none] at htake
    simp only [State.startRead, htake, huntimed, hreads, hfinish, Bool.not_false, Bool.false_eq_true, if_true, if_false]
  | some c =>
    simp only [Option.elim_some] at htake
    simp only [State.startRead, htake, huntimed, hreads, hfinish, Bool.not_false, Bool.false_eq_true, if_true, if_false]

/-- Settles O17: the checks by `effLeafRead_of_ok`, the read itself by `startRead_of_ok`. -/
theorem leafReadsHoldAndWrite : Obligations.LeafReadsHoldAndWrite := by
  intro e rid s s1 s2 s3 s4 r i n v bs hs1 hr hi hformat hnamed hshare hfilling hstays hshape hcan hslice hn htake hs3 huntimed hreads hout
    hdst hflush
  subst hs1 hn
  refine (exec_leafRead ..).trans (congrArg _ ?_)
  rw [effLeafRead_of_ok hr hi hformat hnamed hshare hfilling hstays hshape hcan hslice]
  refine startRead_of_ok ?_ htake hs3 huntimed hreads hout hdst hflush
  cases (s.enter e).chunkOfLeaf? i <;> rfl

/-! ### LEAF_PIN, LEAF_UNPIN, LEAF_EVICT -/

/-- A leaf with a pin is PINNED (R30). -/
theorem repin_of_ne_zero (l : Leaf) {n : Nat} (hn : n ≠ 0) : l.repin n = { l with pinCount := n, persist := .pinned } := by
  simp [Leaf.repin, hn]

section
variable {s : State} {rid : Nat} {r : Req}

/-- R31: a DURABLE leaf is pinned at once. -/
theorem effLeafPin_of_durable (hr : s.startedReq? rid [0x22] = some r) (hcheck : s.pinCheck r.handle = none)
    (hstore : (s.leaf (hLeaf r.handle)).noStore = false) (hcount : (s.leaf (hLeaf r.handle)).pinCount < 255)
    (hdurable : (s.leaf (hLeaf r.handle)).durable.isSome = true) (hmedia : s.journalFull = false) :
    effLeafPin s rid = ((s.setLeaf (hLeaf r.handle) { s.leaf (hLeaf r.handle) with
        pinCount := (s.leaf (hLeaf r.handle)).pinCount + 1, persist := .pinned }).journalLeaf (hLeaf r.handle)).complete rid .ok
      { result0 := (s.leaf (hLeaf r.handle)).pinCount + 1 } := by
  simp only [effLeafPin, hr, hcheck, hstore, Nat.not_le.mpr hcount, hdurable, hmedia, repin_of_ne_zero _ (Nat.succ_ne_zero _),
    Bool.false_eq_true, if_true, if_false]

/-- R31: a VOLATILE leaf is first programmed; the pin comes with the commit of its group. -/
theorem effLeafPin_of_volatile {c : Copy} (hr : s.startedReq? rid [0x22] = some r) (hcheck : s.pinCheck r.handle = none)
    (hstore : (s.leaf (hLeaf r.handle)).noStore = false) (hcount : (s.leaf (hLeaf r.handle)).pinCount < 255)
    (hvolatile : (s.leaf (hLeaf r.handle)).durable = none) (hmedia : s.flashWritable = true)
    (hroom : s.flashRoom (s.leaf (hLeaf r.handle)).partition 1 = true) (hidle : s.pinBusy (hLeaf r.handle) = false)
    (hcopy : (s.leaf (hLeaf r.handle)).goodCopy = some c) :
    effLeafPin s rid = ((s.openGroup { rid := some rid }).2.programLeaf s.flash.nextGroup (hLeaf r.handle) { s.leaf (hLeaf r.handle) with
        pinCount := (s.leaf (hLeaf r.handle)).pinCount + 1, persist := .pinned } c).wait rid
      (.journal s.flash.nextGroup .ok { result0 := (s.leaf (hLeaf r.handle)).pinCount + 1 }) := by
  simp only [effLeafPin, hr, hcheck, hstore, Nat.not_le.mpr hcount, hvolatile, hmedia, hroom, hidle, hcopy,
    repin_of_ne_zero _ (Nat.succ_ne_zero _), Option.isSome_none, Bool.not_true, Bool.false_eq_true, if_false]
  rfl

/-- R32: LEAF_UNPIN of a leaf without pins changes nothing. -/
theorem effLeafUnpin_of_zero (hr : s.startedReq? rid [0x23] = some r) (hcheck : s.pinCheck r.handle = none)
    (hcount : (s.leaf (hLeaf r.handle)).pinCount = 0) : effLeafUnpin s rid = s.complete rid .ok := by
  simp only [effLeafUnpin, hr, hcheck, if_pos hcount]

/-- R32: LEAF_UNPIN takes one pin away. -/
theorem effLeafUnpin_of_pinned (hr : s.startedReq? rid [0x23] = some r) (hcheck : s.pinCheck r.handle = none)
    (hcount : (s.leaf (hLeaf r.handle)).pinCount ≠ 0) (hmedia : s.journalFull = false) :
    effLeafUnpin s rid = ((s.setLeaf (hLeaf r.handle) ((s.leaf (hLeaf r.handle)).repin ((s.leaf (hLeaf r.handle)).pinCount - 1))).journalLeaf
      (hLeaf r.handle)).complete rid .ok { result0 := (s.leaf (hLeaf r.handle)).pinCount - 1 } := by
  simp only [effLeafUnpin, hr, hcheck, if_neg hcount, hmedia, Bool.false_eq_true, if_false]

/-- R35: a leaf that fills or is pinned is not evicted. -/
theorem effLeafEvict_of_kept (hr : s.startedReq? rid [0x24] = some r) (hnamed : s.leafGone r.handle = false)
    (hkept : (s.leaf (hLeaf r.handle)).state = .filling ∨ (s.leaf (hLeaf r.handle)).pinCount ≠ 0
      ∨ (s.leaf (hLeaf r.handle)).rulePin = true) : effLeafEvict s rid = s.complete rid .accessDenied := by
  have hkept' : (decide ((s.leaf (hLeaf r.handle)).state = .filling) || (s.leaf (hLeaf r.handle)).pinCount != 0
      || (s.leaf (hLeaf r.handle)).rulePin) = true := by rcases hkept with h | h | h <;> simp [h]
  simp only [effLeafEvict, hr, hnamed, hkept', Bool.false_eq_true, if_true, if_false]

/-- R35: a leaf that leaves already is evicted. -/
theorem effLeafEvict_of_leaving (hr : s.startedReq? rid [0x24] = some r) (hnamed : s.leafGone r.handle = false)
    (hleaving : (s.leaf (hLeaf r.handle)).state = .evicting ∨ (s.leaf (hLeaf r.handle)).state = .poisoned)
    (hcount : (s.leaf (hLeaf r.handle)).pinCount = 0) (hrule : (s.leaf (hLeaf r.handle)).rulePin = false) :
    effLeafEvict s rid = s.complete rid .ok := by
  rcases hleaving with h | h <;>
    simp only [effLeafEvict, hr, hnamed, h, hcount, hrule, reduceCtorEq, decide_false, decide_true, bne_self_eq_false, Bool.or_self,
      Bool.true_or, Bool.or_true, Bool.false_eq_true, if_true, if_false]

/-- R35, R301: a leaf that nothing keeps is evicted; the request waits where the release opens a journal group. -/
theorem effLeafEvict_of_ok (hr : s.startedReq? rid [0x24] = some r) (hnamed : s.leafGone r.handle = false)
    (hstate : (s.leaf (hLeaf r.handle)).state = .sealed ∨ (s.leaf (hLeaf r.handle)).state = .migrating)
    (hcount : (s.leaf (hLeaf r.handle)).pinCount = 0) (hrule : (s.leaf (hLeaf r.handle)).rulePin = false)
    (hmedia : (s.leaf (hLeaf r.handle)).journaled = true → s.journalFull = false) :
    effLeafEvict s rid = if (s.evict (hLeaf r.handle)).flash.nextGroup = s.flash.nextGroup then (s.evict (hLeaf r.handle)).complete rid .ok
      else ((s.evict (hLeaf r.handle)).setGroup s.flash.nextGroup (fun x => { x with rid := some rid })).wait rid
        (.journal s.flash.nextGroup .ok {}) := by
  have hwritable : ((s.leaf (hLeaf r.handle)).journaled && s.journalFull) = false := by
    rw [Bool.and_eq_false_imp]; exact hmedia
  rcases hstate with h | h <;>
    simp only [effLeafEvict, hr, hnamed, h, hcount, hrule, hwritable, reduceCtorEq, decide_false, bne_self_eq_false, Bool.or_self,
      Bool.false_eq_true, if_false]

end

/-- Settles O18: each clause is one of the cases of LEAF_PIN, LEAF_UNPIN or LEAF_EVICT. -/
theorem leafPinsAndEvictions : Obligations.LeafPinsAndEvictions := by
  intro e rid s s1 r i l hs1 hi hl hnamed
  subst hs1 hi hl
  refine ⟨?_, ?_, ?_, ?_, ?_, ?_, ?_⟩
  · intro hr hcheck hstore hcount hdurable hmedia
    exact (exec_leafPin ..).trans (congrArg _ (effLeafPin_of_durable hr hcheck hstore hcount hdurable hmedia))
  · intro c hr hcheck hstore hcount hvolatile hmedia hroom hidle hcopy
    exact (exec_leafPin ..).trans (congrArg _ (effLeafPin_of_volatile hr hcheck hstore hcount hvolatile hmedia hroom hidle hcopy))
  · intro hr hcheck hcount
    exact (exec_leafUnpin ..).trans (congrArg _ (effLeafUnpin_of_zero hr hcheck hcount))
  · intro hr hcheck hcount hmedia
    exact (exec_leafUnpin ..).trans (congrArg _ (effLeafUnpin_of_pinned hr hcheck hcount hmedia))
  · intro hr hkept
    exact (exec_leafEvict ..).trans (congrArg _ (effLeafEvict_of_kept hr hnamed hkept))
  · intro hr hleaving hcount hrule
    exact (exec_leafEvict ..).trans (congrArg _ (effLeafEvict_of_leaving hr hnamed hleaving hcount hrule))
  · intro hr hstate hcount hrule hmedia
    exact (exec_leafEvict ..).trans (congrArg _ (effLeafEvict_of_ok hr hnamed hstate hcount hrule hmedia))

end Sys2Proof.Machine
end

section
/-! PROOF. LEAF_MIGRATE, its switch and promotion (R281 to R283), and the tier manager's background work (R267, R274, R278, R169). -/

namespace Sys2Proof.Machine

open Sys2Proof

theorem exec_leafMigrate (e : Env) (rid : Nat) (s : State) : exec (.leafMigrate e rid) s = .next (effLeafMigrate (s.enter e) rid) := rfl

theorem exec_migrationSwitch (e : Env) (i : Nat) (fail : Bool) (s : State) :
    exec (.migrationSwitch e i fail) s = .next (effMigrationSwitch (s.enter e) i fail) := rfl

theorem exec_promotion (e : Env) (i : Nat) (s : State) : exec (.promotion e i) s = .next (effPromotion (s.enter e) i) := rfl

theorem exec_placementSweepVisit (e : Env) (i : Nat) (s : State) :
    exec (.placementSweepVisit e i) s = .next (effPlacementSweepVisit (s.enter e) i) := rfl

theorem exec_backgroundRelief (e : Env) (t : Nat) (s : State) :
    exec (.backgroundRelief e t) s = .next (effBackgroundRelief (s.enter e) t) := rfl

theorem exec_writeBack (e : Env) (i : Nat) (s : State) : exec (.writeBack e i) s = .next (effWriteBack (s.enter e) i) := rfl

theorem exec_reencodeSweep (e : Env) (i : Nat) (s : State) :
    exec (.reencodeSweep e i) s = .next (effReencodeSweep (s.enter e) i) := rfl

/-! ### LEAF_MIGRATE -/

section
variable {s : State} {rid : Nat} {r : Req} (hr : s.startedReq? rid [0x25] = some r)
  (hcheck : s.migrateCheck r.handle (tierOf r.destTier) = none) (hstill : (s.leaf (hLeaf r.handle)).state ≠ .migrating)
include hr hcheck hstill

/-- R282: a leaf that is in the tier already completes. -/
theorem effLeafMigrate_of_there (hthere : tierOf r.destTier = (s.leaf (hLeaf r.handle)).tier) :
    effLeafMigrate s rid = s.complete rid .ok { result0 := (tierOf r.destTier).code } := by
  simp only [effLeafMigrate, hr, hcheck, if_neg hstill, if_pos hthere]

/-- R282: a migration to flash needs no place, the durable copy has one. -/
theorem effLeafMigrate_of_flash (hother : tierOf r.destTier ≠ (s.leaf (hLeaf r.handle)).tier) (hflash : tierOf r.destTier = .flash) :
    effLeafMigrate s rid = (s.startMove (hLeaf r.handle) .flash (hLeaf r.handle)).wait rid (.migrate (hLeaf r.handle) .flash) := by
  rw [hflash] at hcheck hother
  simp only [effLeafMigrate, hr, hflash, hcheck, if_neg hstill, if_neg hother, if_true]

/-- R282, R283: a migration to HBM or the pool starts at the place that it is given. -/
theorem effLeafMigrate_of_slot {s2 : State} {loc : Nat} (hother : tierOf r.destTier ≠ (s.leaf (hLeaf r.handle)).tier)
    (hmemory : tierOf r.destTier ≠ .flash)
    (halloc : s.allocSlot (s.leaf (hLeaf r.handle)).partition (tierOf r.destTier) = (.slot loc, s2)) :
    effLeafMigrate s rid
      = (s2.startMove (hLeaf r.handle) (tierOf r.destTier) loc).wait rid (.migrate (hLeaf r.handle) (tierOf r.destTier)) := by
  simp only [effLeafMigrate, hr, hcheck, if_neg hstill, if_neg hother, if_neg hmemory, halloc]

end

/-! ### The switch -/

section
variable {s : State} {i : Nat} (hcluster : s.anyCluster = true) (hmoving : (s.leaf i).state = .migrating)
  (hnoRewrite : (s.leaf i).rewriting = false) (hgood : (s.leaf i).goodCopy ≠ none)
include hcluster hmoving hnoRewrite hgood

/-- R283: the copy of a move to HBM or the pool becomes the primary. -/
theorem effMigrationSwitch_of_memory (hmemory : (s.leaf i).destTier ≠ .flash) :
    effMigrationSwitch s i false = (s.moveTo i (s.leaf i).destTier (s.leaf i).destLocation).endMove i (s.leaf i).tier := by
  simp only [effMigrationSwitch, hcluster, hmoving, hnoRewrite, if_neg hgood, if_neg hmemory, Bool.not_true, Bool.false_eq_true, if_true,
    if_false]

/-- R283: a drop to flash that writes back what is dirty ends its move. -/
theorem effMigrationSwitch_of_drop {s2 : State} (hflash : (s.leaf i).destTier = .flash) (hdrop : s.dropToDurable i = some s2) :
    effMigrationSwitch s i false = s2.endMove i (s.leaf i).tier := by
  simp only [effMigrationSwitch, hcluster, hmoving, hnoRewrite, if_neg hgood, if_pos hflash, hdrop, Bool.not_true, Bool.false_eq_true,
    if_true, if_false]

/-- R283: a drop to flash that cannot write back fails. -/
theorem effMigrationSwitch_of_noDrop (hflash : (s.leaf i).destTier = .flash) (hdrop : s.dropToDurable i = none) :
    effMigrationSwitch s i false = s.failMove i := by
  simp only [effMigrationSwitch, hcluster, hmoving, hnoRewrite, if_neg hgood, if_pos hflash, hdrop, Bool.not_true, Bool.false_eq_true,
    if_true, if_false]

/-- R283: a failed write of the destination leaves the leaf at its source. -/
theorem effMigrationSwitch_of_fail : effMigrationSwitch s i true = s.failMove i := by
  simp only [effMigrationSwitch, hcluster, hmoving, hnoRewrite, if_neg hgood, Bool.not_true, Bool.false_eq_true, if_true, if_false]

end

/-- R283: the request of a move that fails ends in MEDIA_ERROR, its leaf SEALED in its tier. -/
theorem failMove_of_mover {s : State} {i k : Nat} (hmover : s.mover? i = some k) :
    s.failMove i = (s.setLeaf i { s.leaf i with state := .sealed, destTier := .hbm, destLocation := 0 }).complete k .mediaError
      { result0 := (s.leaf i).tier.code } := by
  have hmover' : (s.setLeaf i { s.leaf i with state := .sealed, destTier := .hbm, destLocation := 0 }).mover? i = some k := hmover
  simp only [State.failMove, hmover']

/-- R281: the promotion of a queued leaf that may go up and has room in HBM starts there, and is counted. -/
theorem effPromotion_of_hbm {s s2 : State} {i k : Nat} (hqueued : s.promos.contains i = true) (hcluster : s.anyCluster = true)
    (hrate : s.get F.TIER_MIG_CFG_PROMOTE_MBS ≠ 0) (hstate : (s.leaf i).state = .sealed) (hbelow : (s.leaf i).tier ≠ .hbm)
    (hhint : hintNoPromote (s.leaf i).place.hints = false) (hstays : s.leaving (s.leaf i).partition = false)
    (hlimit : s.withinLimit (s.leaf i).partition 0 2 = true) (hroom : 0 < s.hbmFree)
    (hpick : ({ s with promos := s.promos.filter (· != i) } : State).pick s.hbmTaken s.hbmSlots = (some k, s2)) :
    effPromotion s i = (s2.startMove i .hbm k).bump F.TIER_PROMOTIONS_COUNT := by
  have hgo : ¬ ((!s.promos.contains i || !s.anyCluster || decide (s.get F.TIER_MIG_CFG_PROMOTE_MBS = 0)) = true) := by
    simp [List.contains_iff_mem.mp hqueued, hcluster, hrate]
  unfold effPromotion
  rw [if_neg hgo]
  extract_lets s' l
  have hmay : ¬ ((l.state != .sealed || decide (l.tier = .hbm) || hintNoPromote l.place.hints || s'.leaving l.partition) = true) := by
    have h1 : l.state = .sealed := hstate
    have h2 : l.tier ≠ .hbm := hbelow
    have h3 : hintNoPromote l.place.hints = false := hhint
    have h4 : s'.leaving l.partition = false := hstays
    simp [h1, h2, h3, h4]
  have hfits : (s'.withinLimit l.partition 0 2 && decide (s'.hbmFree > 0)) = true := by
    have h1 : s'.withinLimit l.partition 0 2 = true := hlimit
    have h2 : 0 < s'.hbmFree := hroom
    simp [h1, h2]
  have hpick' : s'.pick s'.hbmTaken s'.hbmSlots = (some k, s2) := hpick
  rw [if_neg hmay, if_pos hfits]
  simp only [hpick']

/-- Settles O19: each form of LEAF_MIGRATE, of the switch and of a promotion by its lemma. -/
theorem migrationsMoveALeaf : Obligations.MigrationsMoveALeaf := by
  refine ⟨?_, ?_, ?_⟩
  · intro e rid s s1 s2 r i loc l dest hs1 hr hi hl hdest hcheck hstill
    subst hs1 hi hl hdest
    refine ⟨?_, ?_, ?_⟩
    · intro hthere
      exact (exec_leafMigrate ..).trans (congrArg _ (effLeafMigrate_of_there hr hcheck hstill hthere))
    · intro hother hflash
      exact (exec_leafMigrate ..).trans (congrArg _ (effLeafMigrate_of_flash hr hcheck hstill hother hflash))
    · intro hother hmemory halloc
      exact (exec_leafMigrate ..).trans (congrArg _ (effLeafMigrate_of_slot hr hcheck hstill hother hmemory halloc))
  · intro e i s s1 l hs1 hl hcluster hmoving hnoRewrite hgood
    subst hs1 hl
    refine ⟨?_, ?_, ?_, ?_⟩
    · intro hmemory
      exact (exec_migrationSwitch ..).trans (congrArg _ (effMigrationSwitch_of_memory hcluster hmoving hnoRewrite hgood hmemory))
    · intro s2 hflash hdrop
      exact (exec_migrationSwitch ..).trans (congrArg _ (effMigrationSwitch_of_drop hcluster hmoving hnoRewrite hgood hflash hdrop))
    · intro hflash hdrop
      exact (exec_migrationSwitch ..).trans (congrArg _ (effMigrationSwitch_of_noDrop hcluster hmoving hnoRewrite hgood hflash hdrop))
    · intro k hmover
      exact (exec_migrationSwitch ..).trans (congrArg _
        ((effMigrationSwitch_of_fail hcluster hmoving hnoRewrite hgood).trans (failMove_of_mover hmover)))
  · intro e i k s s1 s2 l hs1 hqueued hcluster hrate hl hstate hbelow hhint hstays hlimit hroom hpick
    subst hs1 hl
    exact (exec_promotion ..).trans (congrArg _
      (effPromotion_of_hbm (s := s.enter e) hqueued hcluster hrate hstate hbelow hhint hstays hlimit hroom hpick))

/-! ### Background work -/

/-- R274, R284: the sweep halves a leaf's heat and brings an old tick up; a shadow that the setting covers stays. -/
theorem effPlacementSweepVisit_of_covered {s : State} {i : Nat} {l l' : Leaf} (hl : s.leaves.get? i = some l)
    (hcluster : s.anyCluster = true) (hstays : s.leaving l.partition = false)
    (hcovers : l.shadowPresent = true → s.shadowCovers l.partition l.tier = true)
    (hl' : l' = { l with place := { l.place with
      heat := l.place.heat / 2, lastTick := if s.age l ≥ 2 ^ 23 then (s.tick + 2 ^ 24 - 2 ^ 23) % 2 ^ 24 else l.place.lastTick } }) :
    effPlacementSweepVisit s i = ((s.setLeaf i l').settle i).leaveRetired i := by
  have hleaf : s.leaf i = l := Table.getD_of_some hl _
  have hkeeps : (l.shadowPresent && !s.shadowCovers l.partition l.tier) = false := by
    rw [Bool.and_eq_false_imp]; intro h; simp [hcovers h]
  subst hl'
  simp only [effPlacementSweepVisit, hl, hleaf, hcluster, hstays, Bool.not_false, Bool.and_self, hkeeps, Bool.false_eq_true, if_false]

/-- R278: a tier below LOW is relieved until HIGH, among the partitions over their reservation. -/
theorem effBackgroundRelief_of_low {s : State} {t : Nat} (ht : t ≤ 1) (hcluster : s.anyCluster = true)
    (hlow : s.tierFree t * 1024 < s.get F.TIER_WATER_LOW t * s.tierCap t) :
    effBackgroundRelief s t = s.relieveAll (tierOf t) (fun s => s.tierFree t * 1024 ≥ s.get F.TIER_WATER_HIGH t * s.tierCap t)
      (fun s p => s.overResv p t 0 && !s.leaving p) :=
  if_neg (by simp [ht, hcluster, hlow])

/-- R267: the dirty quarters of a leaf are programmed for a group of the device's own, unless one is about it already. -/
theorem effWriteBack_of_dirty {s : State} {i : Nat} {c d : Copy} (hcur : (s.leaf i).cur = some c) (hdurable : (s.leaf i).durable = some d)
    (hstate : (s.leaf i).state = .sealed) (hcluster : s.anyCluster = true) (hdirty : (s.leaf i).dirtyMask ≠ 0)
    (hmedia : s.flashWritable = true) (hsound : c.spoilt = false) (hprimary : (s.leaf i).failedPrimary = false)
    (hstays : s.leaving (s.leaf i).partition = false)
    (hidle : ∀ g ∈ s.flash.groups, g.2.rid = none → ∀ x ∈ g.2.recs, ∀ j q pa k gen b, x = .map j q pa k gen b → j ≠ i) :
    effWriteBack s i = (((s.readPass (s.leaf i).partition c).openGroup {}).2.programQuarters
        ((s.readPass (s.leaf i).partition c).openGroup {}).1 i c.hdr.compressedLength
          ((List.range 4).filter (fun q => bit (s.leaf i).dirtyMask q))).setGroup ((s.readPass (s.leaf i).partition c).openGroup {}).1
        (fun g => { g with recs := g.recs ++ [.leaf i (some { s.leaf i with durable := some { c with tier := .flash, loc := i } })] }) := by
  have hgo : ((s.leaf i).state != .sealed || !s.anyCluster || decide ((s.leaf i).dirtyMask = 0) || !s.flashWritable || c.spoilt
      || (s.leaf i).failedPrimary || s.leaving (s.leaf i).partition) = false := by
    simp [hstate, hcluster, hdirty, hmedia, hsound, hprimary, hstays]
  unfold effWriteBack
  simp only [hcur, hdurable, hgo, Bool.false_eq_true, if_false]
  rw [if_neg]
  intro hbusy
  obtain ⟨g, hg, hmaps⟩ := List.any_eq_true.mp hbusy
  obtain ⟨hown, hrecs⟩ := Bool.and_eq_true_iff.mp hmaps
  obtain ⟨x, hx, hmap⟩ := List.any_eq_true.mp hrecs
  cases x with
  | map j q pa k gen b => exact hidle g hg (Option.isNone_iff_eq_none.mp hown) _ hx j q pa k gen b rfl (by simpa using hmap)
  | _ => cases hmap

/-- The next journal group does not depend on what the pool's buckets hold. -/
theorem readPass_flash (s : State) (p : Nat) (c : Copy) : (s.readPass p c).flash = s.flash := by
  unfold State.readPass State.poolPass
  split
  · split <;> rfl
  · rfl

/-- R169: the sweep moves a SEALED leaf of HBM whose copy is not current into free space of its own tier. -/
theorem sweepLeaf_of_stale {s s2 : State} {i slot : Nat} {c : Copy} (hprimary : (s.leaf i).primary = some c)
    (hstate : (s.leaf i).state = .sealed) (hstale : s.copyCurrent (s.leaf i) c = false) (hsound : (s.leaf i).failedPrimary = false)
    (hstays : s.leaving (s.leaf i).partition = false) (hsweep : s.on F.CODEC_CFG_SWEEP_EN = true) (hcluster : s.anyCluster = true)
    (hslice : s.anySlice = true) (htier : (s.leaf i).tier = .hbm) (hroom : s.hbmFree ≠ 0)
    (hpick : s.pick s.hbmTaken s.hbmSlots = (some slot, s2)) : s.sweepLeaf i = s2.startMove i .hbm slot := by
  simp only [State.sweepLeaf, hprimary, hstate, hstale, hsound, hstays, hsweep, hcluster, hslice, htier, hroom, hpick, bne_self_eq_false,
    Bool.not_true, Bool.or_self, Bool.false_eq_true, if_false]

/-- Settles O20: the sweep, the relief, the write-back and the re-encode sweep by their lemmas. -/
theorem backgroundWorkOfTheTiers : Obligations.BackgroundWorkOfTheTiers := by
  refine ⟨?_, ?_, ?_, ?_⟩
  · intro e i s s1 l l' hs1 hl hcluster hstays hcovers hl'
    subst hs1
    exact (exec_placementSweepVisit ..).trans (congrArg _
      (effPlacementSweepVisit_of_covered (s := s.enter e) hl hcluster hstays hcovers hl'))
  · intro e t s s1 hs1 ht hcluster hlow
    subst hs1
    exact (exec_backgroundRelief ..).trans (congrArg _ (effBackgroundRelief_of_low ht hcluster hlow))
  · intro e i s s1 l c d hs1 hl hcur hdurable hstate hcluster hdirty hmedia hsound hprimary hstays hidle
    subst hs1 hl
    have hwrite := effWriteBack_of_dirty (s := s.enter e) hcur hdurable hstate hcluster hdirty hmedia hsound hprimary hstays hidle
    have hgroup : (((s.enter e).readPass (s.leaf i).partition c).openGroup {}).1 = (s.enter e).flash.nextGroup :=
      congrArg Flash.nextGroup (readPass_flash ..)
    rw [exec_writeBack, hwrite]
    exact congrArg Host.Outcome.next (by rw [← hgroup]; rfl)
  · intro e i s s1 s2 l c slot hs1 hl hprimary hstate hstale hsound hstays hsweep hcluster hslice htier hroom hpick
    subst hs1 hl
    refine (exec_reencodeSweep ..).trans (congrArg _ ?_)
    unfold effReencodeSweep
    rw [sweepLeaf_of_stale (s := s.enter e) hprimary hstate hstale hsound hstays hsweep hcluster hslice htier hroom hpick]
    rfl

end Sys2Proof.Machine
end

section
/-! PROOF. Prefix lookups and steps, and the ends of their padding and of their contexts (R90, R109, R112 to R114, R132, R441). -/

namespace Sys2Proof.Machine

open Sys2Proof

theorem exec_prefixLookup (e : Env) (rid : Nat) (s : State) :
    exec (.prefixLookup e rid) s = .next (effPrefixLookup (s.enter e) rid) := rfl

theorem exec_prefixStep (e : Env) (rid : Nat) (s : State) : exec (.prefixStep e rid) s = .next (effPrefixStep (s.enter e) rid) := rfl

theorem exec_lookupPadExpiry (e : Env) (rid : Nat) (s : State) :
    exec (.lookupPadExpiry e rid) s = .next (effLookupPadExpiry (s.enter e) rid) := rfl

theorem exec_searchContextExpiry (e : Env) (k : Nat) (s : State) :
    exec (.searchContextExpiry e k) s = .next (effSearchContextExpiry (s.enter e) k) := rfl

/-- R109: a lookup of tokens that passes its checks goes on with the tokens read. -/
theorem effPrefixLookup_of_tokens {s : State} {rid : Nat} {r : Req} {slot : Slot Bytes} {bs : Bytes}
    (hr : s.startedReq? rid [0x30] = some r) (htag : r.hashTag = none) (hslot : s.shapeNow? r.part r.lookShape = some slot)
    (hmember : r.lookShared = true → r.snap.member = true) (hslice : s.anySlice = true)
    (hshape : s.shapeBad r.part r.lookShape slot.epoch = false) (hread : s.tokenRead r r.addr16 (4 * r.lookCount) = .ok bs)
    (hrange : (tokensOf r.lookCount bs).any (fun t => t ≥ 2 ^ 20) = false) :
    effPrefixLookup s rid = s.lookupTokens rid r slot.body (tokensOf r.lookCount bs) := by
  have hpermitted : (r.lookShared && !r.snap.member) = false := by rw [Bool.and_eq_false_imp]; intro h; simp [hmember h]
  simp only [effPrefixLookup, hr, htag, hslot, hpermitted, hshape, hread, hrange, hslice, Bool.not_true, Bool.false_eq_true, if_false]

/-- R112: tokens that fill no chunk match nothing. -/
theorem lookupTokens_of_nil {s : State} {rid : Nat} {r : Req} {sh : Bytes} {toks : List Nat}
    (hnone : chainOf (shId sh) r.lookAdapter (shTpl sh) toks.length (s.seedOf r.lookShared r.part r.lookGroup) toks = []) :
    s.lookupTokens rid r sh toks = s.completeLookup rid .notFound { detail := 0xFFFF } := by
  simp only [State.lookupTokens, hnone]
  rfl

/-- R109, R112: hashes whose bucket this device owns are searched and confirmed here. -/
theorem lookupTokens_of_cons {s s2 : State} {rid : Nat} {r : Req} {sh : Bytes} {toks found hs : List Nat} {h0 : Nat}
    (hhashes : chainOf (shId sh) r.lookAdapter (shTpl sh) toks.length (s.seedOf r.lookShared r.part r.lookGroup) toks = h0 :: hs)
    (howner : s.otherOwner? r.snap.shards (shardBucket h0) = none)
    (hpass : s.forwardPass (r.lookKey (ctxTag (shId sh) r.lookAdapter)) (r.snap.permitted.filter (fun q => !s.hidden q)) (h0 :: hs)
      = (found, s2)) :
    s.lookupTokens rid r sh toks = s2.confirmFrom rid r (r.lookKey (ctxTag (shId sh) r.lookAdapter)) found
      (r.snap.permitted.filter (fun q => !s.hidden q)) found.length := by
  simp only [State.lookupTokens, hhashes, howner, State.lookupHashes, hpass]

section
variable {s : State} {rid : Nat} {r : Req} {c : Ctx} (hr : s.startedReq? rid [0x31] = some r) (hctx : s.ctxs.get? r.context = some c)
include hr hctx

/-- R114: a context that is foreign or has not been used for 1 s is freed. -/
theorem effPrefixStep_of_lost (hlost : c.part ≠ r.part ∨ c.lastUse + 1000000000 ≤ s.time) :
    effPrefixStep s rid = (s.freeCtx r.context).completeLookup rid .notFound { detail := 0xFFFF } := by
  have hlost' : (c.part != r.part || decide (s.time ≥ c.lastUse + 1000000000)) = true := by rcases hlost with h | h <;> simp [h]
  simp only [effPrefixStep, hr, hctx, hlost', if_true]
  rfl

variable (hpart : c.part = r.part) (hused : s.time < c.lastUse + 1000000000)
include hpart hused

theorem effPrefixStep_of_rule (hrule : c.isRule = true) : effPrefixStep s rid = s.stepRule rid r.context c := by
  simp only [effPrefixStep, hr, hctx, hpart, Nat.not_le.mpr hused, hrule, bne_self_eq_false, decide_false, Bool.or_self, Bool.false_eq_true,
    if_true, if_false]

theorem effPrefixStep_of_search (hrule : c.isRule = false) (hhere : c.far = none) :
    effPrefixStep s rid = s.stepFind rid r.context r.part c c.found := by
  simp only [effPrefixStep, hr, hctx, hpart, Nat.not_le.mpr hused, hrule, hhere, bne_self_eq_false, decide_false, Bool.or_self,
    Bool.false_eq_true, if_false]

end

/-- R132: a rule-match context with more matches returns its next and keeps the others. -/
theorem stepRule_of_more {s : State} {rid k : Nat} {c : Ctx} {m m' : RuleMatch} {rest : List RuleMatch} (hrules : c.rules = m :: m' :: rest) :
    ∃ cpl, s.stepRule rid k c = ({ s with ctxs := s.ctxs.set k { c with rules := m' :: rest, lastUse := s.time } } : State).completeLookup
        rid .ok cpl
      ∧ cpl.result0 = m.rule % 2 ^ 10 + m.priority % 256 * 2 ^ 16 + m.action % 8 * 2 ^ 24 + m.token % 2 ^ 32 * 2 ^ 32 := by
  simp only [State.stepRule, hrules, if_neg (List.cons_ne_nil m' rest)]
  exact ⟨_, rfl, rfl⟩

/-- R114: the next match of this device that is permitted and confirms is returned. -/
theorem stepFind_of_confirmed {s : State} {rid k part : Nat} {c : Ctx} {x : RootEntry} {rest : List RootEntry}
    (hshown : s.hidden x.partition = false) (hhere : x.ringPos = s.pos) (hconfirm : s.confirm x = true) :
    s.stepFind rid k part c (x :: rest) = s.stepEmit rid k c x rest := by
  simp only [State.stepFind, hshown, hhere, hconfirm, Bool.false_eq_true, if_true, if_false]

/-- R441: a padded answer goes out at its time. -/
theorem effLookupPadExpiry_of_due {s : State} {rid t : Nat} {r : Req} {st : Status} {c : Cpl} (hr : s.reqs.get? rid = some r)
    (hwait : r.wait = .pad t st c) (hdue : t ≤ s.time) : effLookupPadExpiry s rid = s.complete rid st c := by
  have hr' : s.req? rid = some r := hr
  simp only [effLookupPadExpiry, hr', hwait, ge_iff_le, if_pos hdue]

/-- R113: a context that has not been used for 1 s is freed. -/
theorem effSearchContextExpiry_of_due {s : State} {k : Nat} {c : Ctx} (hctx : s.ctxs.get? k = some c)
    (hdue : c.lastUse + 1000000000 ≤ s.time) : effSearchContextExpiry s k = s.freeCtx k := by
  simp only [effSearchContextExpiry, hctx, ge_iff_le, if_pos hdue]

/-- Settles O21: each form of a lookup, of a step and of an expiry by its lemma. -/
theorem prefixLookupsSearchByContent : Obligations.PrefixLookupsSearchByContent := by
  refine ⟨?_, ?_, ?_, ?_, ?_⟩
  · intro e rid s s1 s2 r slot bs toks hashes found perm h0 hs hs1 hr htag hslot hmember hslice hshape hread htoks hrange hhashes hperm
    subst hs1 htoks hperm
    have hlookup := effPrefixLookup_of_tokens hr htag hslot hmember hslice hshape hread hrange
    refine ⟨?_, ?_⟩
    · intro hnone
      exact (exec_prefixLookup ..).trans (congrArg _ (hlookup.trans (lookupTokens_of_nil (hhashes.symm.trans hnone))))
    · intro hcons howner hpass
      exact (exec_prefixLookup ..).trans (congrArg _
        (hlookup.trans (lookupTokens_of_cons (hhashes.symm.trans hcons) howner (hcons ▸ hpass))))
  · intro e rid s s1 r c hs1 hr hctx hpart hused
    subst hs1
    have hctx' : (s.enter e).ctxs.get? r.context = some c := hctx
    refine ⟨?_, ?_, ?_⟩
    · intro m m' rest hrule hrules
      obtain ⟨cpl, hstep, hresult⟩ := stepRule_of_more (s := s.enter e) (rid := rid) (k := r.context) hrules
      exact ⟨cpl, (exec_prefixStep ..).trans (congrArg _ ((effPrefixStep_of_rule hr hctx' hpart hused hrule).trans hstep)), hresult⟩
    · intro x rest hrule hhere hfound hshown hown hconfirm
      refine (exec_prefixStep ..).trans (congrArg _ ((effPrefixStep_of_search hr hctx' hpart hused hrule hhere).trans ?_))
      rw [hfound]
      exact stepFind_of_confirmed (s := s.enter e) hshown hown hconfirm
    · intro hrule hhere hfound
      refine (exec_prefixStep ..).trans (congrArg _ ((effPrefixStep_of_search hr hctx' hpart hused hrule hhere).trans ?_))
      rw [hfound]
      rfl
  · intro e rid s s1 r c hs1 hr hctx hlost
    subst hs1
    exact (exec_prefixStep ..).trans (congrArg _ (effPrefixStep_of_lost (s := s.enter e) hr hctx hlost))
  · intro e rid t s s1 r st c hs1 hr hwait hdue
    subst hs1
    exact (exec_lookupPadExpiry ..).trans (congrArg _ (effLookupPadExpiry_of_due (s := s.enter e) hr hwait hdue))
  · intro e k s s1 c hs1 hctx hdue
    subst hs1
    exact ⟨_, (exec_searchContextExpiry ..).trans (congrArg _ (effSearchContextExpiry_of_due (s := s.enter e) hctx hdue)),
      Table.get?_erase_same .., rfl⟩

end Sys2Proof.Machine
end

section
/-! PROOF. PREFIX_INSERT and PREFIX_REMOVE on the owner of the bucket (R105, R106, R115, R116). -/

namespace Sys2Proof.Machine

open Sys2Proof

theorem exec_prefixRemove (e : Env) (rid : Nat) (s : State) :
    exec (.prefixRemove e rid) s = .next (effPrefixRemove (s.enter e) rid) := rfl

/-- R115, item 1: an insertion on the owner of the bucket beyond the partition's quota is refused, whatever its sequence's state. -/
theorem effPrefixInsert_of_overQuota {s : State} {rid : Nat} {r : Req} {q : Sequ} (hr : s.startedReq? rid [0x32] = some r)
    (hq : s.seq (hSeq r.handle) = q)
    (hlive : (q.state = .openS ∨ q.state = .published) →
      s.shapeBad q.partition q.shapeIndex q.shapeEpoch = false ∧ (s.seqJournaled q = true → s.journalFull = false))
    (howner : ∀ c0, q.chunks.head? = some c0 → s.otherOwner? r.snap.shards (shardBucket c0.hash) = none)
    (hquota : s.overQuota r.part r.chunkCount16 = true) : effPrefixInsert s rid = s.complete rid .quotaExceeded := by
  have hsound : ((q.state == .openS || q.state == .published) && s.shapeBad q.partition q.shapeIndex q.shapeEpoch) = false := by
    rw [Bool.and_eq_false_imp]
    intro h
    exact (hlive (by simpa using h)).1
  have hroom : ((q.state == .openS || q.state == .published) && s.seqJournaled q && s.journalFull) = false := by
    rw [Bool.and_assoc, Bool.and_eq_false_imp]
    intro h
    rw [Bool.and_eq_false_imp]
    exact (hlive (by simpa using h)).2
  simp only [effPrefixInsert, hr, hq, hsound, hroom, Bool.false_eq_true, if_false]
  cases hchunks : q.chunks with
  | nil => simp only [hquota, if_true]
  | cons c0 cs =>
    have howner' := howner c0 (by rw [hchunks]; rfl)
    simp only [howner', hquota, if_true]

/-- R116: a removal on the owner of the bucket takes the range away and completes when it is journaled. -/
theorem effPrefixRemove_of_local {s s2 : State} {rid m : Nat} {r : Req} {q : Sequ} (hr : s.startedReq? rid [0x33] = some r)
    (hq : s.seq (hSeq r.handle) = q) (hmedia : s.seqJournaled q = true → s.journalFull = false)
    (howner : ∀ c0, q.chunks.head? = some c0 → s.otherOwner? r.snap.shards (shardBucket c0.hash) = none)
    (hremove : s.removeRange s.pos (hSeq r.handle) q.generation q.partition r.chunkFirst24
      (min r.chunkCount16 (q.chunks.length - r.chunkFirst24)) = (m, s2)) :
    ∃ recs, effPrefixRemove s rid = s2.completeJournaled rid recs .ok { result0 := m } := by
  have hroom : (s.seqJournaled q && s.journalFull) = false := by rw [Bool.and_eq_false_imp]; exact hmedia
  simp only [effPrefixRemove, hr, hq, hroom, hremove, Bool.false_eq_true, if_false]
  cases hchunks : q.chunks with
  | nil => exact ⟨_, rfl⟩
  | cons c0 cs =>
    have howner' := howner c0 (by rw [hchunks]; rfl)
    simp only [howner']
    exact ⟨_, rfl⟩

/-- R106: the priority of an index entry. -/
theorem indexPriority_eq (q : Sequ) (c : Chunk) :
    indexPriority q c = if c.acts.pin then 0xC0 else if c.acts.shortTtl then 0x20 else if q.persist ≠ .vol then 0x80 else 0x40 := by
  simp only [indexPriority, bne_iff_ne]

/-- Settles O22: the refusal by quota, the insertion and the removal by their lemmas, the priority by `indexPriority_eq`. -/
theorem indexChangesOnTheOwner : Obligations.IndexChangesOnTheOwner := by
  refine ⟨?_, ?_, ?_⟩
  · intro e rid s s1 r k q hs1 hr hk hq hlive howner
    subst hs1 hk hq
    refine ⟨?_, ?_⟩
    · intro hquota
      exact (exec_prefixInsert ..).trans (congrArg _ (effPrefixInsert_of_overQuota (s := s.enter e) hr rfl hlive howner hquota))
    · intro n failed s2 hquota halive hinsert
      refine (exec_prefixInsert ..).trans (congrArg _ ((effPrefixInsert_of_local (s := s.enter e) hr rfl halive (hlive halive).1
        (hlive halive).2 ?_).trans ?_))
      · intro c0 cs hchunks
        exact howner c0 (congrArg List.head? hchunks)
      · have hinsert' : (s.enter e).insertAll ((insertChunks ((s.enter e).seq (hSeq r.handle)) r.chunkFirst24 r.chunkCount16).map
            ((s.enter e).indexEntry (hSeq r.handle) ((s.enter e).seq (hSeq r.handle)))) = (n, failed, s2) := hinsert
        simp only [hquota, hinsert', Bool.false_eq_true, if_false]
  · intro e rid s s1 s2 r k n m q hs1 hr hk hq hn hmedia howner hremove
    subst hs1 hk hq hn
    obtain ⟨recs, hdone⟩ := effPrefixRemove_of_local (s := s.enter e) hr rfl hmedia howner hremove
    exact ⟨recs, (exec_prefixRemove ..).trans (congrArg _ hdone)⟩
  · intro s k q c w key
    exact ⟨indexPriority_eq q c, rfl⟩

end Sys2Proof.Machine
end

section
/-! PROOF. The upkeep of Canopy (R100 to R102, R119): promotion, respreading, the parity scan and the flush of a bank. -/

namespace Sys2Proof.Machine

open Sys2Proof

theorem exec_canopyPromote (e : Env) (s : State) : exec (.canopyPromote e) s = .next (effCanopyPromote (s.enter e)) := rfl

theorem exec_canopyRespread (e : Env) (b : Nat) (s : State) :
    exec (.canopyRespread e b) s = .next (effCanopyRespread (s.enter e) b) := rfl

theorem exec_canopyParityScan (e : Env) (failing lost : List (Nat × Nat)) (lap : Option Nat) (s : State) :
    exec (.canopyParityScan e failing lost lap) s = .next (effCanopyParityScan (s.enter e) failing lost lap) := rfl

theorem exec_canopyBankFlush (e : Env) (b : Nat) (s : State) :
    exec (.canopyBankFlush e b) s = .next (effCanopyBankFlush (s.enter e) b) := rfl

/-! ### Banks after a write of one -/

theorem bank_setBank_same (s : State) (b : Nat) (k : CanopyBank) : (s.setBank b k).bank b = k := Table.getD_set_same ..

theorem bank_setBank_other (s : State) {b c : Nat} (k : CanopyBank) (h : b ≠ c) : (s.setBank b k).bank c = s.bank c := by
  show (Table.set b k s.banks).getD c {} = _
  rw [Table.getD_set, if_neg h]
  rfl

/-- A write of a bank keeps EMPTY and no other register in step. -/
theorem get_setBank (s : State) (b : Nat) (k : CanopyBank) (f : Fld) (i j : Nat) (h : F.CANOPY_BANK_CFG_EMPTY.off b 0 ≠ f.off i j) :
    (s.setBank b k).get f i j = s.get f i j := get_put_other _ _ _ _ _ _ _ _ h

/-! ### What the changes of Canopy leave alone -/

/-- A state in which nothing but Canopy's banks and registers differs. -/
def State.CanopyChange (s t : State) : Prop := ∃ banks regs, t = { s with banks := banks, regs := regs }

theorem State.CanopyChange.refl (s : State) : s.CanopyChange s := ⟨_, _, rfl⟩

theorem State.CanopyChange.trans {s t u : State} (hst : s.CanopyChange t) (htu : t.CanopyChange u) : s.CanopyChange u := by
  obtain ⟨_, _, rfl⟩ := hst
  obtain ⟨banks, regs, rfl⟩ := htu
  exact ⟨banks, regs, rfl⟩

theorem State.CanopyChange.time {s t : State} (h : s.CanopyChange t) : t.time = s.time := by obtain ⟨_, _, rfl⟩ := h; rfl

theorem State.CanopyChange.ite {s t u : State} {c : Prop} [Decidable c] (ht : s.CanopyChange t) (hu : s.CanopyChange u) :
    s.CanopyChange (if c then t else u) := by split <;> assumption

theorem State.CanopyChange.foldl {α : Type} {f : State → α → State} (hf : ∀ (s : State) x, s.CanopyChange (f s x)) (l : List α) (s : State) :
    s.CanopyChange (l.foldl f s) := by
  induction l generalizing s with
  | nil => exact .refl s
  | cons x xs ih => exact (hf s x).trans (ih _)

theorem setBank_canopyChange (s : State) (b : Nat) (k : CanopyBank) : s.CanopyChange (s.setBank b k) := ⟨_, _, rfl⟩

theorem canopyDrop_canopyChange (s : State) (h : Nat) : s.CanopyChange (s.canopyDrop h) := by
  refine State.CanopyChange.foldl (fun s b => ?_) _ s
  dsimp only
  split
  · exact setBank_canopyChange ..
  · exact .refl s

theorem canopyPut_canopyChange (s : State) (bs : List Nat) (x : CanopyEntry) : s.CanopyChange (s.canopyPut bs x).2 := by
  unfold State.canopyPut
  split
  · exact .refl s
  · extract_lets b w hole
    split
    · exact setBank_canopyChange ..
    · exact ⟨_, _, rfl⟩

theorem makeRoom_canopyChange (s : State) (bs : List Nat) (h : Nat) : s.CanopyChange (s.makeRoom bs h) := by
  unfold State.makeRoom
  split
  · exact .refl s
  · split
    · exact canopyDrop_canopyChange ..
    · exact .refl s

theorem fillOne_canopyChange (s : State) (w h : Nat) (x : Nat × RootEntry) : s.CanopyChange (s.fillOne w h x).2 := by
  have hput := (makeRoom_canopyChange s (s.halfBanks w h) h).trans
    (canopyPut_canopyChange _ (s.halfBanks w h) (rootCopy s w x.1 x.2))
  exact .ite hput (hput.trans (canopyDrop_canopyChange ..))

theorem fillInto_canopyChange (s : State) (w h : Nat) : s.CanopyChange (s.fillInto w h) := by
  have hfold : ∀ (l : List (Nat × RootEntry)) (a : Bool × State),
      a.2.CanopyChange (l.foldl (fun (a : Bool × State) x => if a.1 then a.2.fillOne w h x else a) a).2 := by
    intro l
    induction l with
    | nil => exact fun a => .refl _
    | cons x xs ih =>
      intro a
      refine State.CanopyChange.trans ?_ (ih _)
      dsimp only
      split
      · exact fillOne_canopyChange ..
      · exact .refl _
  exact hfold _ _

theorem promoteHot_canopyChange (s : State) : s.CanopyChange s.promoteHot := by
  unfold State.promoteHot
  extract_lets n
  split
  · exact .refl s
  · refine State.CanopyChange.foldl (fun s h => ?_) _ s
    split
    · exact .refl s
    · exact (canopyDrop_canopyChange ..).trans (fillInto_canopyChange ..)

/-! ### Promotion -/

/-- R97, R119: after a promotion period no entry has hits. -/
theorem hits_clearHits (s : State) {b : Nat} {x : CanopyBank} {y : Nat × CanopyEntry} (hx : (b, x) ∈ s.clearHits.banks)
    (hy : y ∈ x.entries) : y.2.hits = 0 := by
  obtain ⟨x0, -, h0⟩ := List.mem_map.mp hx
  cases h0
  obtain ⟨y0, -, rfl⟩ := List.mem_map.mp hy
  rfl

theorem effCanopyPromote_of_due {s : State} (hdue : s.promoteDue ≤ s.time) :
    effCanopyPromote s = { s.promoteHot.clearHits with promoAt := s.time } := by
  have htime : s.promoteHot.clearHits.time = s.time := (promoteHot_canopyChange s).time
  exact (if_neg (Nat.not_lt.mpr hdue)).trans (congrArg (fun n => { s.promoteHot.clearHits with promoAt := n }) htime)

/-! ### The respread of a bank -/

theorem bank_put (s : State) (f : Fld) (v i j b : Nat) : (s.put f v i j).bank b = s.bank b := rfl

theorem get_respreadBank (s : State) (b : Nat) : (s.respreadBank b).get F.CANOPY_BANK_CFG_RESPREAD b = 0 :=
  get_put _ _ _ _ _ (by decide) (by decide) (by decide)

theorem entries_respreadBank (s : State) (b : Nat) : ((s.respreadBank b).bank b).entries
    = respread (bankSlots (s.bankWidth b)) (2 ^ s.get F.CANOPY_BANK_CFG_HOLE_LOG2 b) ((s.bank b).entries.map (·.2)) := by
  unfold State.respreadBank State.rebuildBank
  rw [bank_put, bank_setBank_same]

theorem bank_respreadBank_other (s : State) {b k : Nat} (h : b ≠ k) : (s.respreadBank b).bank k = s.bank k := by
  unfold State.respreadBank State.rebuildBank
  rw [bank_put, bank_setBank_other _ _ h]

/-! ### The parity scan -/

/-- R102: one unit that fails parity is counted and raises CANOPY. -/
def State.parityFail (s : State) : State := (s.bump F.CANOPY_PAR_COUNT_COUNT).raise gCanopy 0

/-- R411: the entry of one unit is lost. -/
def State.loseEntry (s : State) (x : Nat × Nat) : State :=
  s.setBank x.1 { s.bank x.1 with entries := (s.bank x.1).entries.modify x.2 (fun e => { e with cleared := true }) }

theorem parityFail_get {f : Fld} {i j : Nat} (s : State) (hcount : F.CANOPY_PAR_COUNT_COUNT.off 0 0 ≠ f.off i j)
    (hcause : F.BELFRY_GRP_CAUSE_CAUSE.off gCanopy 0 ≠ f.off i j) : s.parityFail.get f i j = s.get f i j :=
  (raise_get _ _ _ _ _ _ hcause).trans (get_bump_other _ _ _ _ _ _ _ _ hcount)

theorem parityFail_count (s : State) :
    s.parityFail.get F.CANOPY_PAR_COUNT_COUNT = min (s.get F.CANOPY_PAR_COUNT_COUNT + 1) (2 ^ 32 - 1) :=
  (raise_get _ _ _ _ _ _ (by decide)).trans (get_bump _ _ _ _ _ (by decide) (by decide) (by decide))

@[simp] theorem parityFail_banks (s : State) : s.parityFail.banks = s.banks := (raise_banks ..).trans (bump_banks ..)

theorem parityFail_cause (s : State) : s.parityFail.get F.BELFRY_GRP_CAUSE_CAUSE gCanopy % 2 = 1 := by
  unfold State.parityFail
  rw [raise_get_cause, Nat.mod_mod_of_dvd _ (by decide), Nat.or_mod_two_eq_one]
  exact Or.inr rfl

/-- What the failing units of a scan leave: their count, saturated, the cause, and everything else as it was. -/
theorem parityFails_count (s : State) (failing : List (Nat × Nat)) :
    (failing.foldl (fun s _ => s.parityFail) s).get F.CANOPY_PAR_COUNT_COUNT
      = min (s.get F.CANOPY_PAR_COUNT_COUNT + failing.length) (2 ^ 32 - 1) := by
  induction failing generalizing s with
  | nil =>
    have hlt : s.get F.CANOPY_PAR_COUNT_COUNT < 2 ^ 32 := bits_lt _ _ _
    simp only [List.foldl_nil, List.length_nil]
    omega
  | cons x xs ih =>
    rw [List.foldl_cons, ih, parityFail_count, List.length_cons]
    omega

theorem parityFails_cause (s : State) {failing : List (Nat × Nat)} (h : failing ≠ []) :
    (failing.foldl (fun s _ => s.parityFail) s).get F.BELFRY_GRP_CAUSE_CAUSE gCanopy % 2 = 1 := by
  rw [← List.dropLast_concat_getLast h, List.foldl_append, List.foldl_cons, List.foldl_nil]
  exact parityFail_cause _

theorem parityFails_get {f : Fld} {i j : Nat} (s : State) (failing : List (Nat × Nat))
    (hcount : F.CANOPY_PAR_COUNT_COUNT.off 0 0 ≠ f.off i j) (hcause : F.BELFRY_GRP_CAUSE_CAUSE.off gCanopy 0 ≠ f.off i j) :
    (failing.foldl (fun s _ => s.parityFail) s).get f i j = s.get f i j := by
  induction failing generalizing s with
  | nil => rfl
  | cons x xs ih => exact (ih _).trans (parityFail_get s hcount hcause)

theorem parityFails_banks (s : State) (failing : List (Nat × Nat)) :
    (failing.foldl (fun s _ => s.parityFail) s).banks = s.banks := by
  induction failing generalizing s with
  | nil => rfl
  | cons x xs ih => rw [List.foldl_cons, ih, parityFail_banks]

theorem loseEntries_get {f : Fld} {i j : Nat} (s : State) (lost : List (Nat × Nat)) (hlost : ∀ x ∈ lost, x.1 < 64)
    (h : ∀ b < 64, F.CANOPY_BANK_CFG_EMPTY.off b 0 ≠ f.off i j) : (lost.foldl State.loseEntry s).get f i j = s.get f i j := by
  induction lost generalizing s with
  | nil => rfl
  | cons x xs ih =>
    exact (ih _ (fun y hy => hlost y (List.mem_cons_of_mem x hy))).trans
      (get_setBank _ _ _ _ _ _ (h x.1 (hlost x List.mem_cons_self)))

theorem entries_loseEntry (s : State) (x : Nat × Nat) (b i : Nat) :
    ((s.loseEntry x).bank b).entries.get? i = if x = (b, i) then ((s.bank b).entries.get? i).map (fun e => { e with cleared := true })
      else (s.bank b).entries.get? i := by
  unfold State.loseEntry
  by_cases hb : x.1 = b
  · subst hb
    rw [bank_setBank_same, Table.get?_modify]
    by_cases hi : x.2 = i
    · rw [if_pos hi, if_pos (show x = (x.1, i) from Prod.ext rfl hi)]
    · rw [if_neg hi, if_neg (fun h => hi (congrArg Prod.snd h))]
  · rw [bank_setBank_other _ _ hb, if_neg (fun h => hb (congrArg Prod.fst h))]

/-- R411: the entries that are lost are cleared, however often they are named, and no other. -/
theorem entries_loseEntries (s : State) (lost : List (Nat × Nat)) (b i : Nat) :
    ((lost.foldl State.loseEntry s).bank b).entries.get? i = if (b, i) ∈ lost
      then ((s.bank b).entries.get? i).map (fun e => { e with cleared := true }) else (s.bank b).entries.get? i := by
  induction lost generalizing s with
  | nil => rfl
  | cons x xs ih =>
    rw [List.foldl_cons, ih, entries_loseEntry]
    by_cases hx : x = (b, i)
    · subst hx
      by_cases hmem : (b, i) ∈ xs
      · simp [hmem, Option.map_map, Function.comp_def]
      · simp [hmem]
    · have hx' : (b, i) ≠ x := Ne.symm hx
      simp [hx, hx']

/-- The state after the units of a scan, before the end of its lap is noted. -/
def State.scanned (s : State) (failing lost : List (Nat × Nat)) : State :=
  lost.foldl State.loseEntry (failing.foldl (fun s _ => s.parityFail) s)

/-- The end of a lap, noted with its duration (R102). -/
def State.lapDone (s : State) (us : Nat) : State :=
  (s.put F.CANOPY_SCAN_LAP_LAST_US (min us (2 ^ 24 - 1))).put F.CANOPY_SCAN_LAP_LAPS (s.get F.CANOPY_SCAN_LAP_LAPS + 1)

theorem effCanopyParityScan_none (s : State) (failing lost : List (Nat × Nat)) :
    effCanopyParityScan s failing lost none = s.scanned failing lost := rfl

theorem effCanopyParityScan_some (s : State) (failing lost : List (Nat × Nat)) (us : Nat) :
    effCanopyParityScan s failing lost (some us) = (s.scanned failing lost).lapDone us := rfl

section
variable (s : State) (failing : List (Nat × Nat)) {lost : List (Nat × Nat)} (hlost : ∀ x ∈ lost, x.1 < 64)
include hlost

theorem scanned_count : (s.scanned failing lost).get F.CANOPY_PAR_COUNT_COUNT
    = min (s.get F.CANOPY_PAR_COUNT_COUNT + failing.length) (2 ^ 32 - 1) :=
  (loseEntries_get _ lost hlost (by decide)).trans (parityFails_count s failing)

theorem scanned_cause {failing : List (Nat × Nat)} (h : failing ≠ []) :
    (s.scanned failing lost).get F.BELFRY_GRP_CAUSE_CAUSE gCanopy % 2 = 1 := by
  unfold State.scanned
  rw [loseEntries_get _ lost hlost (by decide)]
  exact parityFails_cause s h

theorem scanned_laps : (s.scanned failing lost).get F.CANOPY_SCAN_LAP_LAPS = s.get F.CANOPY_SCAN_LAP_LAPS :=
  (loseEntries_get _ lost hlost (by decide)).trans (parityFails_get s failing (by decide) (by decide))

end

theorem scanned_entries (s : State) (failing lost : List (Nat × Nat)) (b i : Nat) :
    ((s.scanned failing lost).bank b).entries.get? i = if (b, i) ∈ lost
      then ((s.bank b).entries.get? i).map (fun e => { e with cleared := true }) else (s.bank b).entries.get? i := by
  have hbank : (failing.foldl (fun s _ => s.parityFail) s).bank b = s.bank b :=
    congrArg (fun t : Table CanopyBank => t.getD b {}) (parityFails_banks s failing)
  unfold State.scanned
  rw [entries_loseEntries, hbank]

theorem lapDone_get {f : Fld} {i j : Nat} (s : State) (us : Nat) (h : F.CANOPY_SCAN_LAP_LAPS.off 0 0 ≠ f.off i j) :
    (s.lapDone us).get f i j = s.get f i j :=
  (get_put_other _ _ _ _ _ _ _ _ h).trans (get_put_other _ _ _ _ _ _ _ _ h)

theorem lapDone_last (s : State) (us : Nat) : (s.lapDone us).get F.CANOPY_SCAN_LAP_LAST_US = min us (2 ^ 24 - 1) := by
  unfold State.lapDone
  rw [get_put_apart _ _ _ _ _ _ _ _ (by decide), get_put _ _ _ _ _ (by decide) (by decide) (by decide)]
  exact Nat.mod_eq_of_lt (Nat.lt_of_le_of_lt (Nat.min_le_right ..) (by decide))

theorem lapDone_laps (s : State) (us : Nat) :
    (s.lapDone us).get F.CANOPY_SCAN_LAP_LAPS = (s.get F.CANOPY_SCAN_LAP_LAPS + 1) % 2 ^ 8 :=
  get_put _ _ _ _ _ (by decide) (by decide) (by decide)

/-! ### The flush of a bank -/

/-- The entries that a drop leaves in a bank are those that it does not name. -/
theorem entries_dropEntries (s : State) (gone : CanopyEntry → Bool) {k : Nat} (hk : k < 64) :
    ((s.dropEntries gone).bank k).entries = (s.bank k).entries.filter (fun x => !gone x.2) := by
  have hfold : ∀ (l : List Nat) (s : State), ((l.foldl (fun s b =>
      if ((s.bank b).entries ++ (s.bank b).away).any (fun x => gone x.2) then
        s.setBank b { s.bank b with
          entries := (s.bank b).entries.filter (fun x => !gone x.2), away := (s.bank b).away.filter (fun x => !gone x.2) }
      else s) s).bank k).entries = if k ∈ l then (s.bank k).entries.filter (fun x => !gone x.2) else (s.bank k).entries := by
    intro l
    induction l with
    | nil => intro s; rfl
    | cons b bs ih =>
      intro s
      rw [List.foldl_cons, ih]
      by_cases hb : b = k
      · subst hb
        rw [if_pos (List.mem_cons_self (a := b) (l := bs))]
        by_cases hany : ((s.bank b).entries ++ (s.bank b).away).any (fun x => gone x.2) = true
        · simp only [if_pos hany, bank_setBank_same, List.filter_filter, Bool.and_self, ite_self]
        · have hnone : (s.bank b).entries.filter (fun x => !gone x.2) = (s.bank b).entries := by
            refine List.filter_eq_self.mpr fun x hx => ?_
            rw [Bool.not_eq_true, List.any_eq_false] at hany
            simpa using hany x (List.mem_append_left _ hx)
          simp only [if_neg hany, hnone, ite_self]
      · have hmem : k ∈ b :: bs ↔ k ∈ bs := by simp [Ne.symm hb]
        have hsame : (if ((s.bank b).entries ++ (s.bank b).away).any (fun x => gone x.2) then s.setBank b { s.bank b with
            entries := (s.bank b).entries.filter (fun x => !gone x.2), away := (s.bank b).away.filter (fun x => !gone x.2) }
            else s).bank k = s.bank k := by
          split
          · exact bank_setBank_other _ _ hb
          · rfl
        simp only [hmem, hsame]
  exact (hfold (List.range 64) s).trans (if_pos (List.mem_range.mpr hk))

/-- R100: the entries of the keys that are dropped leave every bank. -/
theorem entries_canopyDrops (s : State) (hs : List Nat) {k : Nat} (hk : k < 64) :
    ((hs.foldl State.canopyDrop s).bank k).entries
      = (s.bank k).entries.filter (fun x => !(x.2.kind == .index && x.2.root.any (fun r => hs.contains r.hash))) := by
  induction hs generalizing s with
  | nil =>
    refine (List.filter_eq_self.mpr fun x _ => ?_).symm
    cases x.2.root <;> simp
  | cons h hs ih =>
    rw [List.foldl_cons, ih, State.canopyDrop, entries_dropEntries _ _ hk, List.filter_filter]
    refine congrArg (fun p => List.filter p (s.bank k).entries) (funext fun x => ?_)
    cases hroot : x.2.root with
    | none => simp
    | some r => by_cases hkind : x.2.kind = .index <;> by_cases hhash : r.hash = h <;> simp [hkind, hhash]

/-- R119: a flushed bank is empty; the others lose the entries of the keys that it held. -/
theorem entries_effCanopyBankFlush (s : State) {b : Nat} (hb : b < 64) : ((effCanopyBankFlush s b).bank b).entries = []
    ∧ ∀ k, k < 64 → k ≠ b → ((effCanopyBankFlush s b).bank k).entries = (s.bank k).entries.filter (fun x =>
      !(x.2.kind == .index && x.2.root.any (fun r => ((s.bank b).entries.filterMap (fun x => x.2.root.map (·.hash))).contains r.hash))) := by
  unfold effCanopyBankFlush
  rw [if_neg (Nat.not_le.mpr hb)]
  refine ⟨?_, fun k hk hne => ?_⟩
  · rw [bank_setBank_same]
  · rw [bank_setBank_other _ _ hne.symm, entries_canopyDrops _ _ hk]

/-- Settles O23: promotion, respreading, the parity scan and the flush by the lemmas about them. -/
theorem canopyUpkeep : Obligations.CanopyUpkeep := by
  refine ⟨?_, ?_, ?_, ?_, ?_⟩
  · intro e s s1 hs1 hdue
    subst hs1
    have hdone := effCanopyPromote_of_due (s := s.enter e) hdue
    refine ⟨_, (exec_canopyPromote ..).trans (congrArg _ hdone), fun b x y => hits_clearHits _, rfl, rfl, fun hzero => ?_⟩
    have hnone : (s.enter e).promoteHot = s.enter e := if_pos hzero
    rw [hnone]
  · intro e s s1 hs1 hearly
    subst hs1
    exact (exec_canopyPromote ..).trans (congrArg _ (if_pos hearly))
  · intro e b s s1 hs1 hb hrespread
    subst hs1
    have hgo : effCanopyRespread (s.enter e) b = (s.enter e).respreadBank b :=
      if_neg (by simp only [enter_on, hrespread, Bool.not_true, Bool.or_false, decide_eq_true_eq]; omega)
    exact ⟨_, (exec_canopyRespread ..).trans (congrArg _ hgo), get_respreadBank .., entries_respreadBank ..,
      fun k hk => bank_respreadBank_other _ hk.symm, rfl⟩
  · intro e failing lost lap s s1 hs1 hlost
    subst hs1
    cases lap with
    | none =>
      exact ⟨_, (exec_canopyParityScan ..).trans (congrArg _ (effCanopyParityScan_none ..)), scanned_count (s.enter e) failing hlost,
        scanned_cause (s.enter e) hlost, fun us h => (by cases h), scanned_entries (s.enter e) failing lost⟩
    | some us =>
      refine ⟨_, (exec_canopyParityScan ..).trans (congrArg _ (effCanopyParityScan_some ..)), ?_, fun h => ?_, fun us' h => ?_,
        scanned_entries (s.enter e) failing lost⟩
      · exact (lapDone_get _ us (by decide)).trans (scanned_count (s.enter e) failing hlost)
      · rw [lapDone_get _ us (by decide)]
        exact scanned_cause (s.enter e) hlost h
      · cases h
        exact ⟨lapDone_last _ us, (lapDone_laps _ us).trans (congrArg (fun n => (n + 1) % 2 ^ 8) (scanned_laps (s.enter e) failing hlost))⟩
  · intro e b s hs hb hhs
    subst hhs
    obtain ⟨hempty, hothers⟩ := entries_effCanopyBankFlush (s.enter e) hb
    refine ⟨_, exec_canopyBankFlush .., hempty, fun k hk hne => (hothers k hk hne).trans ?_⟩
    refine congrArg (fun p => List.filter p (s.bank k).entries) (funext fun x => ?_)
    cases x.2.root <;> rfl

end Sys2Proof.Machine
end

section
/-! PROOF. ATTEND, SELECT and DELIVER with their operands in range and their data valid (R180, R190 to R194, R203 to R206). -/

namespace Sys2Proof.Machine

open Sys2Proof

theorem exec_attend (e : Env) (rid : Nat) (s : State) : exec (.attend e rid) s = .next (effAttend (s.enter e) rid) := rfl

theorem exec_select (e : Env) (rid : Nat) (s : State) : exec (.select e rid) s = .next (effSelect (s.enter e) rid) := rfl

theorem exec_deliver (e : Env) (rid : Nat) (s : State) : exec (.deliver e rid) s = .next (effDeliver (s.enter e) rid) := rfl

/-- R180: a set whose chunks pass their checks is held, and the computation goes on with what it holds. -/
theorem attendSet_of_held {s s2 : State} {rid : Nat} {r : Req} {q : Sequ} {sh qb : Bytes} {cs : List Nat} {vs : List View}
    (hchunks : chunkChecks q (q.partition != r.part) cs = none) (hcan : s.canHoldAll q r.attLayer cs = true)
    (hheld : s.holdSet rid q r.attLayer (s.attendJob rid r q sh qb (s.peekSet q r.attLayer cs)).leafMasked cs = (.inl vs, s2)) :
    s.attendSet rid r q sh qb cs = s2.attendHeld rid r q sh qb vs := by
  simp only [State.attendSet, hchunks, hcan, hheld, Bool.not_true, Bool.false_eq_true, if_false]

/-- R180, R190: an ATTEND in range, with its query and its set read and valid, goes on to its set. -/
theorem effAttend_of_ok {s : State} {rid : Nat} {r : Req} {q : Sequ} {sh qb : Bytes} {cs : List Nat}
    (hr : s.startedReq? rid [0x40] = some r) (hq : q = s.seq (hSeq r.handle)) (hsh : sh = s.seqShape q)
    (hshape : s.shapeBad q.partition q.shapeIndex q.shapeEpoch = false) (hrange : attendRange r sh = none) (hplan : shPlanKind sh ≠ 0)
    (hread : s.bufRead r 3 r.addr16 (queryBytes sh r.attQueries r.attQueryBf16) = .ok qb)
    (hquery : queryOk sh r.attQueries r.attQueryBf16 qb = true)
    (hset : (if r.addr32 = 0 then .inl ((List.range r.attCount).map (· + r.attFirst)) else s.readList r r.addr32) = .inl cs) :
    effAttend s rid = s.attendSet rid r q sh qb cs := by
  subst hq hsh
  simp only [effAttend, hr, hshape, hrange, if_neg hplan, hread, hquery, hset, Bool.not_true, Bool.false_eq_true, if_false]

section
variable {s s2 : State} {rid : Nat} {r : Req} {q : Sequ} {j j' : Job} {cs : List Nat} {fell : Bool}
  (hj : { j with forced := forcedOf j.sh q cs } = j)
include hj

/-- R206: a SELECT that Lantern scores, or that holds arrays already, goes on with its arrays. -/
theorem selectSet_of_lantern (hwhy : s.exactWhy r.part j.sh = (false, fell) ∨ s.onArrays (rid, 0) = true) :
    s.selectSet rid r q j cs = s.selectLantern rid r q j (candsOf j.sh q cs) := by
  have hnotExact : ¬ (((s.exactWhy r.part j.sh).1 && !s.onArrays (rid, 0)) = true) := by
    rcases hwhy with h | h <;> simp [h]
  simp only [State.selectSet, hj, if_neg hnotExact]

/-- R203: a SELECT that is scored exactly holds its candidates and queues a job for the Spires. -/
theorem selectSet_of_exact (hwhy : s.exactWhy r.part j.sh = (true, fell)) (hfree : s.onArrays (rid, 0) = false)
    (hcan : s.canHoldAll q j.layer (candsOf j.sh q cs) = true) (hrun : s.runExact rid j q (candsOf j.sh q cs) fell = (j', s2))
    (hviews : j'.views ≠ []) :
    s.selectSet rid r q j cs = (s2.wait rid (.job r.jobNo)).queueJob r.jobNo j' := by
  simp only [State.selectSet, hj, hwhy, hfree, hcan, hrun, if_neg hviews, Bool.not_true, Bool.not_false, Bool.and_self, Bool.false_eq_true,
    if_true, if_false]

end

/-- R205, R206: on granted arrays the candidates are scored, in one step. -/
theorem selectLantern_of_granted {s s2 : State} {rid : Nat} {r : Req} {q : Sequ} {j j' : Job} {cands as : List Nat}
    (harrays : s.arraysOf (rid, 0) j.sh cands.length = some as) (hgrant : (s.takeArrays (rid, 0) as).lanternGranted as = true)
    (hrun : (s.takeArrays (rid, 0) as).runLantern j ((s.takeArrays (rid, 0) as).commitTime? r) q as cands = (j', s2)) :
    s.selectLantern rid r q j cands = s2.finishSelect rid r j' := by
  simp only [State.selectLantern, harrays, hgrant, hrun, Bool.not_true, Bool.false_eq_true, if_false]

/-- R206: without the grant of their group the arrays are held and SELECT waits. -/
theorem selectLantern_of_waiting {s : State} {rid : Nat} {r : Req} {q : Sequ} {j : Job} {cands as : List Nat}
    (harrays : s.arraysOf (rid, 0) j.sh cands.length = some as) (hgrant : (s.takeArrays (rid, 0) as).lanternGranted as = false) :
    s.selectLantern rid r q j cands = s.takeArrays (rid, 0) as := by
  simp only [State.selectLantern, harrays, hgrant, Bool.not_false, if_true]

/-- R191, R194: a SELECT in range, with its query read and valid and its chunks checked, is scored. -/
theorem effSelect_of_ok {s : State} {rid : Nat} {r : Req} {q : Sequ} {sh qb : Bytes} {cs : List Nat}
    (hr : s.startedReq? rid [0x41] = some r) (hq : q = (s.seq (hSeq r.handle)).asOf r.snap) (hsh : sh = s.seqShape q)
    (hshape : s.shapeBad q.partition q.shapeIndex q.shapeEpoch = false) (hlayer : r.selLayer < shLayers sh) (hpolicy : shPolicy sh ≠ 0)
    (hread : s.bufRead r 3 r.addr16 (queryBytes sh 1 r.selQueryBf16) = .ok qb) (hquery : queryOk sh 1 r.selQueryBf16 qb = true)
    (hcs : cs = (List.range r.selCount).map (· + r.selFirst)) (hchunks : chunkChecks q (q.partition != r.part) cs = none) :
    effSelect s rid = s.selectSet rid r q
      { owner := .req rid, kind := 3, part := r.part, handle := r.handle, sh := sh, qblock := qb, qbf16 := r.selQueryBf16
        layer := r.selLayer, k := r.selK, proxy := r.selProxy, pband := if r.selProxy then shProxyBand sh else 0
        maxSpires := s.spireLimit r.part sh } cs := by
  subst hq hsh hcs
  simp only [effSelect, hr, hshape, ge_iff_le, Nat.not_le.mpr hlayer, if_neg hpolicy, hread, hquery, hchunks, Bool.not_true,
    Bool.false_eq_true, if_false]

/-- What SELECT forces into its result is fixed before it is scored: giving the job its forced chunks first changes nothing. -/
theorem selectSet_forced (s : State) (rid : Nat) (r : Req) (q : Sequ) (j : Job) (cs : List Nat) :
    s.selectSet rid r q { j with forced := forcedOf j.sh q cs } cs = s.selectSet rid r q j cs := rfl

/-- R180, R242: a DELIVER to a target that it may write, in range, with its set read, holds it and goes on with what it holds. -/
theorem effDeliver_of_ok {s s2 : State} {rid : Nat} {r : Req} {q : Sequ} {sh : Bytes} {f : FpFmt} {cs : List Nat} {vs : List View}
    (hr : s.startedReq? rid [0x42] = some r) (hq : q = s.seq (hSeq r.handle)) (hsh : sh = s.seqShape q)
    (hshape : s.shapeBad q.partition q.shapeIndex q.shapeEpoch = false) (htarget : s.targetDenied r = false)
    (hrange : deliverRange r sh = none) (hformat : r.delFormat ≤ 4) (hplain : plainFmt? r.delFormat = some f) (hslice : s.anySlice = true)
    (hset : (if r.addr24 = 0 then .inl ((List.range r.delCount).map (· + r.delFirst)) else s.readList r r.addr24) = .inl cs)
    (hup : s.targetDown r = false) (hchunks : chunkChecks q (q.partition != r.part) cs = none)
    (hcan : s.canHoldAll q r.delLayer cs = true) (hheld : s.holdSet rid q r.delLayer (fun _ => false) cs = (.inl vs, s2)) :
    effDeliver s rid = s2.deliverHeld rid r sh f vs := by
  subst hq hsh
  simp only [effDeliver, hr, hshape, htarget, hrange, if_pos hformat, hplain, hslice, hset, hup, State.deliverSet, hchunks, hcan, hheld,
    Bool.not_true, Bool.false_eq_true, if_false]

/-- Settles O24: each of the three by the lemmas about its checks and about the way it goes on. -/
theorem attendSelectAndDeliver : Obligations.AttendSelectAndDeliver := by
  refine ⟨?_, ?_, ?_⟩
  · intro e rid s s1 s2 r q sh qb cs vs hs1 hr hq hsh hshape hrange hplan hread hquery hset hchunks hcan hheld
    subst hs1
    exact (exec_attend ..).trans (congrArg _ ((effAttend_of_ok hr hq hsh hshape hrange hplan hread hquery hset).trans
      (attendSet_of_held hchunks hcan hheld)))
  · intro e rid s s1 s2 r q sh qb cs j j' fell hs1 hr hq hsh hshape hlayer hpolicy hread hquery hcs hchunks hj
    subst hs1
    have hselect : effSelect (s.enter e) rid = (s.enter e).selectSet rid r q j cs := by
      rw [hj]
      exact (effSelect_of_ok hr hq hsh hshape hlayer hpolicy hread hquery hcs hchunks).trans (selectSet_forced ..).symm
    have hforced : { j with forced := forcedOf j.sh q cs } = j := by rw [hj]
    have hjsh : j.sh = sh := by rw [hj]
    have hjlayer : j.layer = r.selLayer := by rw [hj]
    refine ⟨?_, ?_⟩
    · intro as s3 hwhy harrays hs3
      subst hs3
      rw [← hjsh] at hwhy harrays
      have hlantern := selectSet_of_lantern hforced hwhy
      refine ⟨fun hgrant hrun => ?_, fun hgrant => ?_⟩
      · rw [← hjsh] at hrun
        exact (exec_select ..).trans (congrArg _ (hselect.trans (hlantern.trans (selectLantern_of_granted harrays hgrant hrun))))
      · exact (exec_select ..).trans (congrArg _ (hselect.trans (hlantern.trans (selectLantern_of_waiting harrays hgrant))))
    · intro hwhy hfree hcan hrun hviews
      rw [← hjsh] at hwhy hcan hrun
      rw [← hjlayer] at hcan
      exact (exec_select ..).trans (congrArg _ (hselect.trans (selectSet_of_exact hforced hwhy hfree hcan hrun hviews)))
  · intro e rid s s1 s2 r q sh f cs vs hs1 hr hq hsh hshape htarget hrange hformat hplain hslice hset hup hchunks hcan hheld
    subst hs1
    exact (exec_deliver ..).trans (congrArg _
      (effDeliver_of_ok hr hq hsh hshape htarget hrange hformat hplain hslice hset hup hchunks hcan hheld))

end Sys2Proof.Machine
end

section
/-! PROOF. TABLE_LOAD of shapes, rule sets and schedule images, RULES_SWITCH and CODEC_TRAIN (R29, R51, R122, R168, R230). -/

namespace Sys2Proof.Machine

open Sys2Proof

theorem exec_tableLoadShape (e : Env) (rid : Nat) (s : State) :
    exec (.tableLoadShape e rid) s = .next (effTableLoadShape (s.enter e) rid) := rfl

theorem exec_tableLoadRuleSet (e : Env) (rid : Nat) (s : State) :
    exec (.tableLoadRuleSet e rid) s = .next (effTableLoadRuleSet (s.enter e) rid) := rfl

theorem exec_rulesSwitch (e : Env) (rid : Nat) (s : State) : exec (.rulesSwitch e rid) s = .next (effRulesSwitch (s.enter e) rid) := rfl

theorem exec_tableLoadScheduleImage (e : Env) (rid : Nat) (s : State) :
    exec (.tableLoadScheduleImage e rid) s = .next (effTableLoadScheduleImage (s.enter e) rid) := rfl

theorem exec_codecTrain (e : Env) (rid : Nat) (s : State) : exec (.codecTrain e rid) s = .next (effCodecTrain (s.enter e) rid) := rfl

/-- R51: what is loaded becomes current by a switch, one epoch on; the load itself leaves the current epoch. -/
theorem Slots.load_switch {α : Type} (t : Slots α) (b : α) : ((t.load b).switch).epoch = t.epoch + 1
    ∧ ((t.load b).switch).current?.map (·.body) = some b ∧ (t.load b).epoch = t.epoch := by
  obtain ⟨cur, x, y⟩ := t
  rcases cur with _ | _ | _ <;> exact ⟨rfl, rfl, rfl⟩

/-- R29: a sound shape goes into a slot without users and is current. -/
theorem effTableLoadShape_of_ok {s : State} {rid : Nat} {r : Req} {b : Bytes} {t t' : Slots Bytes} (hr : s.startedLoad? rid 0 = some r)
    (ht : t = s.shapeSlots r.part r.loadTarget) (hunused : t.other.loaded = true → s.shapeUsers r.part r.loadTarget t.other.epoch = 0)
    (hread : s.bundleRead r = .ok b) (hshape : shapeOk b (s.get F.LANTERN_SUM_CFG_STRIDE) = true) (ht' : t' = (t.load b).switch) :
    effTableLoadShape s rid = (({ s with shapes := s.shapes.set (r.part * 16 + r.loadTarget) t' } : State).clearBad 2
      ((r.part * 16 + r.loadTarget) * 256 + t'.epoch.toNat)).complete rid .ok { result0 := t'.epoch.toNat } := by
  subst ht ht'
  have hfree : ((s.shapeSlots r.part r.loadTarget).other.loaded
      && s.shapeUsers r.part r.loadTarget (s.shapeSlots r.part r.loadTarget).other.epoch != 0) = false := by
    rw [Bool.and_eq_false_imp]; intro h; simp [hunused h]
  simp only [effTableLoadShape, hr, hfree, hread, hshape, Bool.not_true, Bool.false_eq_true, if_false]

/-- R122, R133: a sound rule set goes into a slot that nothing uses, where it waits for its switch. -/
theorem effTableLoadRuleSet_of_ok {s : State} {rid : Nat} {r : Req} {b : Bytes} {rs : RuleSet} (hr : s.startedLoad? rid 1 = some r)
    (hunused : ((s.releaseRules r.part).ruleSlots r.part).other.loaded = true →
      (s.releaseRules r.part).ruleTaken r.part ((s.releaseRules r.part).ruleSlots r.part).other.epoch = false)
    (hread : (s.releaseRules r.part).bundleRead r = .ok b) (hrules : parseRuleSet r.part b = some rs) :
    effTableLoadRuleSet s rid = (s.releaseRules r.part).loadRules rid r rs := by
  have hfree : (((s.releaseRules r.part).ruleSlots r.part).other.loaded
      && (s.releaseRules r.part).ruleTaken r.part ((s.releaseRules r.part).ruleSlots r.part).other.epoch) = false := by
    rw [Bool.and_eq_false_imp]; exact hunused
  simp only [effTableLoadRuleSet, hr, hfree, hread, hrules, Bool.false_eq_true, if_false]

section
variable {s : State} {rid : Nat} {r : Req} (hr : s.startedReq? rid [0x61] = some r)
include hr

/-- R122: a switch to the epoch that is current changes nothing. -/
theorem effRulesSwitch_of_current (hcurrent : BitVec.ofNat 8 r.switchEpoch = (s.ruleSlots r.part).epoch) :
    effRulesSwitch s rid = s.complete rid .ok { result0 := (s.ruleSlots r.part).epoch.toNat } := by
  simp only [effRulesSwitch, hr, hcurrent, if_true]

/-- R122: a switch to the epoch of the loaded slot makes it current. -/
theorem effRulesSwitch_of_loaded (hother : BitVec.ofNat 8 r.switchEpoch ≠ (s.ruleSlots r.part).epoch)
    (hloaded : (s.ruleSlots r.part).other.loaded = true) (hepoch : (s.ruleSlots r.part).other.epoch = BitVec.ofNat 8 r.switchEpoch) :
    effRulesSwitch s rid = (({ s with rules := s.rules.set r.part (s.ruleSlots r.part).switchRules } : State).releaseRules r.part).complete
      rid .ok { result0 := (BitVec.ofNat 8 r.switchEpoch : Epoch).toNat } := by
  simp only [effRulesSwitch, hr, if_neg hother, hloaded, hepoch, beq_self_eq_true, Bool.and_self, if_true]

/-- R122: a switch to an epoch that no slot has is NOT_FOUND. -/
theorem effRulesSwitch_of_unloaded (hother : BitVec.ofNat 8 r.switchEpoch ≠ (s.ruleSlots r.part).epoch)
    (hloaded : (s.ruleSlots r.part).other.loaded = false) : effRulesSwitch s rid = s.complete rid .notFound := by
  simp only [effRulesSwitch, hr, if_neg hother, hloaded, Bool.false_and, Bool.false_eq_true, if_false]

end

section
variable {s : State} {rid : Nat} {r : Req} (hr : s.startedLoad? rid 2 = some r) (hidle : s.slotBusy r.part (r.loadTarget == 1) = false)
include hr hidle

/-- R230: an image of length 0 empties its slot. -/
theorem effTableLoadScheduleImage_of_empty (hempty : r.loadLength = 0) :
    effTableLoadScheduleImage s rid
      = (s.setSched r.part ((s.sched r.part).setImg (r.loadTarget == 1) none)).complete rid .ok := by
  have hsize : ¬ r.loadLength > 2 ^ 20 := by omega
  simp only [effTableLoadScheduleImage, hr, if_neg hsize, hidle, if_pos hempty, Bool.false_eq_true, if_false]

/-- R230: a sound image goes into its slot under the next epoch of its partition. -/
theorem effTableLoadScheduleImage_of_ok {b : Bytes} (hsome : 0 < r.loadLength) (hsize : r.loadLength ≤ 2 ^ 20)
    (hroom : (s.sched r.part).img (r.loadTarget == 1) = none → s.imagesLoaded < 4) (hread : s.bundleRead r = .ok b)
    (himage : imageOk b = true) :
    effTableLoadScheduleImage s rid = ((s.setSched r.part
        ({ s.sched r.part with lastEpoch := (s.sched r.part).lastEpoch + 1 }.setImg (r.loadTarget == 1)
          (some { bytes := b, epoch := (s.sched r.part).lastEpoch + 1 }))).clearBad 3 (r.part * 2 + r.loadTarget)).complete
      rid .ok { result0 := ((s.sched r.part).lastEpoch + 1).toNat } := by
  have hfits : (((s.sched r.part).img (r.loadTarget == 1)).isNone && decide (s.imagesLoaded ≥ 4)) = false := by
    rw [Bool.and_eq_false_imp]
    intro h
    simpa using hroom (Option.isNone_iff_eq_none.mp h)
  simp only [effTableLoadScheduleImage, hr, gt_iff_lt, Nat.not_lt.mpr hsize, if_neg (Nat.ne_of_gt hsome), hidle, hfits, hread, himage,
    Bool.not_true, Bool.false_eq_true, if_false]

end

/-- Folds of steps that agree on the list agree. -/
theorem foldl_congr_of_mem {σ α : Type} {f g : σ → α → σ} {l : List α} (h : ∀ s, ∀ a ∈ l, f s a = g s a) (s : σ) : l.foldl f s = l.foldl g s := by
  induction l generalizing s with
  | nil => rfl
  | cons a l ih =>
    rw [List.foldl_cons, List.foldl_cons, h s a List.mem_cons_self]
    exact ih (fun t b hb => h t b (List.mem_cons_of_mem _ hb)) _

/-- R168: a training over enough leaves, each with a good copy, checks their tags and installs a table of their planes. -/
theorem effCodecTrain_of_ok {s : State} {rid : Nat} {r : Req} {xs : List (Nat × Leaf)} (hr : s.startedReq? rid [0x62] = some r)
    (hshape : (s.shapeNow? r.part r.shapeIndex).isSome = true) (hsome : 0 < r.trainFormat) (hformat : r.trainFormat ≤ 11)
    (hunused : (s.scope (scopeKey r.part r.shapeIndex r.trainFormat)).slots.other.loaded = true →
      s.codecUsers (scopeKey r.part r.shapeIndex r.trainFormat)
        (s.scope (scopeKey r.part r.shapeIndex r.trainFormat)).slots.other.epoch = 0)
    (hslice : s.anySlice = true)
    (hxs : xs = s.sampleLeaves r.part r.shapeIndex r.trainFormat (if r.trainSamples = 0 then 4096 else r.trainSamples))
    (hgood : ∀ x ∈ xs, x.2.goodCopy.isSome = true) (henough : 16 ≤ xs.length) :
    ∃ planes, planes.length = xs.length ∧ effCodecTrain s rid
      = (xs.foldl (fun s x => s.checkTags x.1) s).installTable rid (scopeKey r.part r.shapeIndex r.trainFormat) planes := by
  have hknown : (s.shapeNow? r.part r.shapeIndex).isNone = false := by
    cases h : s.shapeNow? r.part r.shapeIndex <;> simp_all
  have hrange : (decide (r.trainFormat = 0) || decide (r.trainFormat > 11)) = false := by
    simp only [Bool.or_eq_false_iff, decide_eq_false_iff_not]; omega
  have hfree : ((s.scope (scopeKey r.part r.shapeIndex r.trainFormat)).slots.other.loaded
      && s.codecUsers (scopeKey r.part r.shapeIndex r.trainFormat)
        (s.scope (scopeKey r.part r.shapeIndex r.trainFormat)).slots.other.epoch != 0) = false := by
    rw [Bool.and_eq_false_imp]; intro h; simp [hunused h]
  have hlength : ∀ f : Leaf → Copy → List (Nat × Nat), (xs.filterMap (fun x => x.2.goodCopy.map (f x.2))).length = xs.length := by
    intro f
    rw [List.length_filterMap_eq_countP, List.countP_eq_length]
    intro x hx
    rw [Option.isSome_map]
    exact hgood x hx
  have htags : xs.foldl (fun s x => if x.2.goodCopy.isNone then (s.checkTags x.1).poisonLeaf x.1 else s.checkTags x.1) s
      = xs.foldl (fun s x => s.checkTags x.1) s := by
    refine foldl_congr_of_mem (fun t x hx => if_neg ?_) s
    have hsome := hgood x hx
    cases h : x.2.goodCopy <;> simp_all
  refine ⟨_, hlength (xs.foldl (fun s x => s.checkTags x.1) s).samplePlanes, ?_⟩
  simp only [effCodecTrain, hr, hknown, hrange, hfree, hslice, ← hxs, Bool.not_true, Bool.false_eq_true, if_false]
  rw [htags, if_neg (Nat.not_lt.mpr (Nat.le_trans henough
    (Nat.le_of_eq (hlength (xs.foldl (fun s x => s.checkTags x.1) s).samplePlanes).symm)))]

/-- Settles O25: each kind of load, the switch and the training by the lemma about its passing form. -/
theorem tablesAreLoaded : Obligations.TablesAreLoaded := by
  refine ⟨?_, Slots.load_switch, ?_, ?_, ?_, ?_⟩
  · intro e rid s s1 r b t t' hs1 hr ht hunused hread hshape ht'
    subst hs1
    exact (exec_tableLoadShape ..).trans (congrArg _ (effTableLoadShape_of_ok hr ht hunused hread hshape ht'))
  · intro e rid s s1 r b rs hs1 hr hunused hread hrules
    subst hs1
    exact (exec_tableLoadRuleSet ..).trans (congrArg _ (effTableLoadRuleSet_of_ok hr hunused hread hrules))
  · intro e rid s s1 r t hs1 hr ht
    subst hs1 ht
    refine ⟨?_, ?_, ?_⟩
    · intro hcurrent
      exact (exec_rulesSwitch ..).trans (congrArg _ (effRulesSwitch_of_current hr hcurrent))
    · intro hother hloaded hepoch
      exact (exec_rulesSwitch ..).trans (congrArg _ (effRulesSwitch_of_loaded hr hother hloaded hepoch))
    · intro hother hloaded
      exact (exec_rulesSwitch ..).trans (congrArg _ (effRulesSwitch_of_unloaded hr hother hloaded))
  · intro e rid s s1 r b slot x hs1 hr hslot hx hidle
    subst hs1 hslot hx
    refine ⟨?_, ?_⟩
    · intro hempty
      exact (exec_tableLoadScheduleImage ..).trans (congrArg _ (effTableLoadScheduleImage_of_empty hr hidle hempty))
    · intro hsome hsize hroom hread himage
      exact (exec_tableLoadScheduleImage ..).trans (congrArg _ (effTableLoadScheduleImage_of_ok hr hidle hsome hsize hroom hread himage))
  · intro e rid s s1 r f k xs hs1 hr hf hk hshape hsome hformat hunused hslice hxs hgood henough
    subst hs1 hf hk
    obtain ⟨planes, hlength, htrain⟩ := effCodecTrain_of_ok hr hshape hsome hformat hunused hslice hxs hgood henough
    exact ⟨planes, hlength, (exec_codecTrain ..).trans (congrArg _ htrain)⟩

end Sys2Proof.Machine
end

section
/-! PROOF. The trackers of the beat domains: layer starts, the loss of a beat and a change of source (R217 to R224). -/

namespace Sys2Proof.Machine

open Sys2Proof

theorem exec_beatPinEdge (e : Env) (n : Nat) (sync : Bool) (s : State) :
    exec (.beatPinEdge e n sync) s = .next (effBeatPinEdge (s.enter e) n sync) := rfl

theorem exec_beatFrame (e : Env) (n t layers : Nat) (sync : Bool) (s : State) :
    exec (.beatFrame e n t layers sync) s = .next (effBeatFrame (s.enter e) n t layers sync) := rfl

theorem exec_beatMark (e : Env) (rid : Nat) (s : State) : exec (.beatMark e rid) s = .next (effBeatMark (s.enter e) rid) := rfl

theorem exec_beatLostTimeout (e : Env) (n : Nat) (s : State) :
    exec (.beatLostTimeout e n) s = .next (effBeatLostTimeout (s.enter e) n) := rfl

theorem exec_beatSynthLayer (e : Env) (n : Nat) (s : State) :
    exec (.beatSynthLayer e n) s = .next (effBeatSynthLayer (s.enter e) n) := rfl

theorem exec_beatSourceChange (e : Env) (n src : Nat) (s : State) :
    exec (.beatSourceChange e n src) s = .next (effBeatSourceChange (s.enter e) n src) := rfl

theorem beat_setBeat_same (s : State) (n : Nat) (b : Beat) : (s.setBeat n b).beat n = b := Table.getD_set_same ..

theorem beat_setBeat_other (s : State) {n m : Nat} (b : Beat) (h : n ≠ m) : (s.setBeat n b).beat m = s.beat m := by
  show (Table.set n b s.beats).getD m {} = _
  rw [Table.getD_set, if_neg h]
  rfl

/-- The tracker after its first layer start (R222). -/
def Beat.acquired (b : Beat) (t : Nat) : Beat := { b with step := 0, layer := 0, state := bAcquiring, last := t, accepted := some t }

/-- R222: the first layer start puts the tracker into ACQUIRING at step 0, layer 0, and changes nothing else. -/
theorem layerStart_of_off (s : State) (n t : Nat) (sync : Bool) (hoff : (s.beat n).state = bOff) :
    s.layerStart n t sync = s.setBeat n { s.beat n with step := 0, layer := 0, state := bAcquiring, last := t } := by
  have hlost : ¬ (bOff = bLost) := by decide
  simp only [State.layerStart, hoff, hlost, beq_self_eq_true, Bool.true_or, Bool.not_true, Bool.false_and, Bool.and_false, decide_false,
    Bool.false_eq_true, if_true, if_false]

theorem beat_takeStart_of_off (s : State) (n t : Nat) (sync : Bool) (hoff : (s.beat n).state = bOff) :
    (s.takeStart n t sync).beat n = (s.beat n).acquired t := by
  unfold State.takeStart
  rw [layerStart_of_off s n t sync hoff, beat_setBeat_same, beat_setBeat_same]
  rfl

theorem beat_takeStart_other_of_off (s : State) {n m : Nat} (t : Nat) (sync : Bool) (hoff : (s.beat n).state = bOff) (h : n ≠ m) :
    (s.takeStart n t sync).beat m = s.beat m := by
  unfold State.takeStart
  rw [layerStart_of_off s n t sync hoff, beat_setBeat_other _ _ h, beat_setBeat_other _ _ h]

theorem regs_takeStart_of_off (s : State) (n t : Nat) (sync : Bool) (hoff : (s.beat n).state = bOff) :
    (s.takeStart n t sync).regs = s.regs := by
  unfold State.takeStart
  rw [layerStart_of_off s n t sync hoff]
  rfl

/-- R217, R218: an edge of a domain's own pin starts a layer. -/
theorem effBeatPinEdge_of_source {s : State} {n : Nat} {sync : Bool} (hn : n < 4) (hlayers : s.layersOf n ≠ 0)
    (hsource : s.beatSource n = 1) (hdie : s.dieWorks 0 = true) : effBeatPinEdge s n sync = s.sourceStart n s.time sync :=
  if_neg (by simp [Nat.not_le.mpr hn, hlayers, hsource, hdie])

section
variable {s : State} {n layers : Nat} (hn : n < 4) (hlayers : s.layersOf n ≠ 0) (hsource : s.beatSource n = 3)
  (hjoined : s.get F.RING_STATUS_STATE = 3) (hmember : s.get F.RING_STATUS_ROLE ≠ 1)
include hn hlayers hsource hjoined hmember

/-- R220: a frame of the ring's master is taken without a glitch rule. -/
theorem effBeatFrame_of_member (t : Nat) (sync : Bool) : effBeatFrame s n t layers sync
    = if ((s.beat n).state == bOff && layers != (s.takeStart n t sync).layersOf n) = true then (s.takeStart n t sync).enterLost n
      else s.takeStart n t sync := by
  have hmaster : s.isMaster = false := by simp [State.isMaster, hmember]
  refine if_neg ?_
  simp [Nat.not_le.mpr hn, hlayers, hsource, hjoined, hmaster]

theorem effBeatFrame_of_follow {t : Nat} {sync : Bool} (hagree : (s.beat n).state ≠ bOff ∨ layers = s.layersOf n) :
    effBeatFrame s n t layers sync = s.takeStart n t sync := by
  rw [effBeatFrame_of_member hn hlayers hsource hjoined hmember]
  refine if_neg ?_
  by_cases hoff : (s.beat n).state = bOff
  · have hsame : layers = s.layersOf n := hagree.resolve_left (not_not_intro hoff)
    have hkeeps : (s.takeStart n t sync).layersOf n = s.layersOf n := get_congr (regs_takeStart_of_off s n t sync hoff) ..
    simp [hkeeps, hsame]
  · simp [hoff]

/-- R220: a member whose LAYERS differs enters LOST at its first layer start. -/
theorem effBeatFrame_of_differ {t : Nat} {sync : Bool} (hoff : (s.beat n).state = bOff) (hdiffer : layers ≠ s.layersOf n) :
    effBeatFrame s n t layers sync = (s.takeStart n t sync).enterLost n := by
  have hkeeps : (s.takeStart n t sync).layersOf n = s.layersOf n := get_congr (regs_takeStart_of_off s n t sync hoff) ..
  rw [effBeatFrame_of_member hn hlayers hsource hjoined hmember]
  exact if_pos (by simp [hoff, hkeeps, hdiffer])

end

/-- R219: a mark of the domain's own partition starts a layer and answers its position. -/
theorem effBeatMark_of_ok {s : State} {rid : Nat} {r : Req} (hr : s.startedReq? rid [0x50] = some r) (hsource : s.beatSource r.markDomain = 2)
    (hown : r.part ≠ 0 → r.snap.bound = some r.markDomain ∧ r.snap.markEn = true) (hlayers : s.layersOf r.markDomain ≠ 0)
    (hglitch : s.isGlitch r.markDomain r.startTime = false) :
    effBeatMark s rid = (s.sourceStart r.markDomain r.startTime r.markSync).complete rid .ok
      { result0 := mkPos ((s.sourceStart r.markDomain r.startTime r.markSync).beat r.markDomain).step
          ((s.sourceStart r.markDomain r.startTime r.markSync).beat r.markDomain).layer 0 } := by
  have hmay : (s.beatSource r.markDomain != 2 || (r.part != 0 && !(r.snap.bound == some r.markDomain && r.snap.markEn))) = false := by
    by_cases hpart : r.part = 0
    · simp [hsource, hpart]
    · obtain ⟨hbound, hmark⟩ := hown hpart
      simp [hsource, hbound, hmark]
  simp only [effBeatMark, hr, hmay, if_neg hlayers, hglitch, Bool.false_eq_true, if_false]

/-- R398: only the ring's master passes a layer start on. -/
theorem sourceStart_of_off {s : State} {n t : Nat} {sync : Bool} (hglitch : s.isGlitch n t = false) (hmaster : s.isMaster = false)
    (hoff : (s.beat n).state = bOff) : s.sourceStart n t sync = s.takeStart n t sync := by
  have hregs := regs_takeStart_of_off s n t sync hoff
  have hmaster' : (s.takeStart n t sync).isMaster = false := by
    simpa only [State.isMaster, get_congr hregs] using hmaster
  simp only [State.sourceStart, hglitch, hmaster', Bool.false_and, Bool.false_eq_true, if_false]

/-- Settles O26: layer starts by the lemmas about `takeStart` in OFF, the losses and the change of source by their conditions. -/
theorem beatTracksLayerStarts : Obligations.BeatTracksLayerStarts := by
  refine ⟨?_, ?_, ?_, ?_, ?_, ?_⟩
  · intro e n t layers sync s s1 hs1 hn hlayers
    subst hs1
    refine ⟨?_, ?_, ?_⟩
    · intro hsource hdie
      exact (exec_beatPinEdge ..).trans (congrArg _ (effBeatPinEdge_of_source hn hlayers hsource hdie))
    · intro hsource hjoined hmember hagree
      exact (exec_beatFrame ..).trans (congrArg _ (effBeatFrame_of_follow hn hlayers hsource hjoined hmember hagree))
    · intro hsource hjoined hmember hoff hdiffer
      exact (exec_beatFrame ..).trans (congrArg _ (effBeatFrame_of_differ hn hlayers hsource hjoined hmember hoff hdiffer))
  · intro e rid s s1 r hs1 hr hsource hown hlayers hglitch
    subst hs1
    exact ⟨_, rfl, (exec_beatMark ..).trans (congrArg _ (effBeatMark_of_ok hr hsource hown hlayers hglitch))⟩
  · intro n t sync s hglitch hmaster hoff
    rw [sourceStart_of_off hglitch hmaster hoff, beat_takeStart_of_off s n t sync hoff]
    exact ⟨rfl, rfl, rfl, rfl, rfl, fun m hm => beat_takeStart_other_of_off s t sync hoff hm.symm⟩
  · intro n t sync s hglitch
    exact if_pos hglitch
  · intro e n s s1 b hs1 hb
    subst hs1 hb
    refine ⟨?_, ?_⟩
    · intro hstate hlayer hlate
      refine (exec_beatLostTimeout ..).trans (congrArg _ (if_pos ?_))
      have hlate' : 4 * ((s.enter e).time - (s.beat n).last) ≥ 9 * (s.beat n).period := hlate
      simp only [Bool.and_eq_true, decide_eq_true_eq, bne_iff_ne]
      exact ⟨⟨hstate, hlayer⟩, hlate'⟩
    · intro hstate hlayer hperiod hlate
      refine (exec_beatSynthLayer ..).trans (congrArg _ (if_pos ?_))
      simp only [Bool.and_eq_true, decide_eq_true_eq, bne_iff_ne]
      exact ⟨⟨⟨hstate, hlayer⟩, hperiod⟩, hlate⟩
  · intro e n src s s1 hs1 hn hsrc hchange hidle
    subst hs1
    refine (exec_beatSourceChange ..).trans (congrArg _ (if_neg ?_))
    have hchange' : src ≠ (s.enter e).beatSource n := hchange
    simp only [hidle, Nat.not_le.mpr hn, Nat.not_le.mpr hsrc, hchange', decide_false, Bool.or_self, Bool.false_eq_true,
      not_false_eq_true]

end Sys2Proof.Machine
end

section
/-! PROOF. SCHEDULE_ARM, SCHEDULE_DISARM and the switch of a slot at its reference (R234 to R237). -/

namespace Sys2Proof.Machine

open Sys2Proof

theorem exec_scheduleArm (e : Env) (rid : Nat) (s : State) : exec (.scheduleArm e rid) s = .next (effScheduleArm (s.enter e) rid) := rfl

theorem exec_scheduleDisarm (e : Env) (rid : Nat) (s : State) :
    exec (.scheduleDisarm e rid) s = .next (effScheduleDisarm (s.enter e) rid) := rfl

theorem exec_scheduleSwitch (e : Env) (p : Nat) (s : State) : exec (.scheduleSwitch e p) s = .next (effScheduleSwitch (s.enter e) p) := rfl

/-- R234: an arm with a loaded image that fits its domain, ring and range goes on to its entries. -/
theorem effScheduleArm_of_ok {s : State} {rid n : Nat} {r : Req} {im : SchedImg} (hr : s.startedReq? rid [0x51] = some r)
    (hbound : r.snap.bound = some n) (hfield : bits r.deadlineField 31 10 = 0) (himage : (s.sched r.part).img r.schedSlot = some im)
    (hfirst : r.armFirst < imSlots im.bytes ∨ r.armCount = 0) (hcount : r.armFirst + r.armCount ≤ imSlots im.bytes)
    (hlayers : imLayers im.bytes = s.layersOf n) (hring : s.on F.HP_CQ_STATUS_ACTIVE (schedCq r.part im.bytes) = true)
    (hpend : (s.sched r.part).pend = none) (hahead : s.posPassed n (mkPos (s.refStep n r) 0 0) = false) :
    effScheduleArm s rid = s.armRead rid r n (s.refStep n r) := by
  have hrange : (decide (r.armFirst ≥ imSlots im.bytes) && r.armCount != 0) = false := by
    rcases hfirst with h | h
    · simp [Nat.not_le.mpr h]
    · simp [h]
  simp only [effScheduleArm, hr, hbound, hfield, himage, hrange, Nat.not_lt.mpr hcount, hlayers, hring, hpend, hahead,
    bne_self_eq_false, Option.isSome_none, Bool.not_true, Bool.false_eq_true, if_false]

/-- R233, R234: sound entries pend with their arm. -/
theorem armRead_of_ok {s : State} {rid n step : Nat} {r : Req} {b : Bytes} {es : List Bytes}
    (hread : r.addr24 ≠ 0 → s.bufRead r 2 r.addr24 (16 * r.armCount) = .ok b)
    (hes : es = if r.addr24 = 0 then [] else chunksOf 16 r.armCount b) (hsound : es.all slotEntryOk = true) :
    s.armRead rid r n step = (s.setSched r.part { s.sched r.part with pend := some {
      slot := r.schedSlot, step := step, dom := n, rid := rid, first := r.armFirst, entries := es,
      sqId := r.sqPair.1, sqHead := r.sqPair.2 } }).wait rid (.arm r.schedSlot) := by
  by_cases hnone : r.addr24 = 0
  · rw [if_pos hnone] at hes
    subst hes
    simp only [State.armRead, if_pos hnone, hsound, Bool.not_true, Bool.false_eq_true, if_false]
  · rw [if_neg hnone] at hes
    subst hes
    simp only [State.armRead, if_neg hnone, hread hnone, hsound, Bool.not_true, Bool.false_eq_true, if_false]

/-- R235: a disarm of the armed slot pends. -/
theorem effScheduleDisarm_of_armed {s : State} {rid n since : Nat} {r : Req} (hr : s.startedReq? rid [0x52] = some r)
    (hbound : r.snap.bound = some n) (hfield : bits r.deadlineField 31 10 = 0)
    (harmed : (s.sched r.part).armed = some (r.schedSlot, since)) (hpend : (s.sched r.part).pend = none)
    (hahead : s.posPassed n (mkPos (s.refStep n r) 0 0) = false) :
    effScheduleDisarm s rid = (s.setSched r.part { s.sched r.part with pend := some {
      disarm := true, slot := r.schedSlot, step := s.refStep n r, dom := n, rid := rid } }).wait rid (.disarm r.schedSlot) := by
  simp only [effScheduleDisarm, hr, hbound, hfield, harmed, hpend, hahead, bne_self_eq_false, beq_self_eq_true, Option.isSome_none,
    Bool.not_true, Bool.false_eq_true, if_false]

/-- R236: at its reference a pending arm or disarm changes the schedule over and completes with the position. -/
theorem effScheduleSwitch_of_reached {s : State} {p : Nat} {q : SchedPend} (hpend : (s.sched p).pend = some q)
    (hreached : s.posPassed q.dom (mkPos q.step 0 0) = true) :
    effScheduleSwitch s p = (s.setSched p ((s.sched p).switched q)).complete q.rid .ok { result0 := mkPos q.step 0 0 } := by
  simp only [effScheduleSwitch, hpend, hreached, Bool.not_true, Bool.false_eq_true, if_false]

theorem pend_switched (x : Sched) (q : SchedPend) : (x.switched q).pend = none := by
  unfold Sched.switched
  split
  · rfl
  · extract_lets x' same
    split <;> rfl

theorem armed_switched_of_disarm (x : Sched) {q : SchedPend} (h : q.disarm = true) : (x.switched q).armed = none :=
  congrArg Sched.armed (if_pos h)

/-- Settles O27: the arm, the disarm and the switch by their lemmas. -/
theorem schedulesArmAtTheirStep : Obligations.SchedulesArmAtTheirStep := by
  refine ⟨?_, ?_, ?_⟩
  · intro e rid n s s1 r im b es x pd hs1 hr hbound hfield hx himage hfirst hcount hlayers hring hpend hahead hread hes hsound hpd
    subst hs1 hx hpd
    exact (exec_scheduleArm ..).trans (congrArg _ ((effScheduleArm_of_ok hr hbound hfield himage hfirst hcount hlayers hring hpend
      hahead).trans (armRead_of_ok hread hes hsound)))
  · intro e rid n since s s1 r x pd hs1 hr hbound hfield hx harmed hpend hahead hpd
    subst hs1 hx hpd
    exact (exec_scheduleDisarm ..).trans (congrArg _ (effScheduleDisarm_of_armed hr hbound hfield harmed hpend hahead))
  · intro e p s s1 q hs1 hpend hreached
    subst hs1
    exact ⟨(exec_scheduleSwitch ..).trans (congrArg _ (effScheduleSwitch_of_reached hpend hreached)), pend_switched ..,
      armed_switched_of_disarm _⟩

end Sys2Proof.Machine
end

section
/-! PROOF. Event instances are issued, polled, committed and completed (R236 to R249). -/

namespace Sys2Proof.Machine

open Sys2Proof

theorem exec_eventIssue (e : Env) (p ev : Nat) (s : State) : exec (.eventIssue e p ev) s = .next (effEventIssue (s.enter e) p ev) := rfl

theorem exec_queryStampPoll (e : Env) (id k : Nat) (s : State) :
    exec (.queryStampPoll e id k) s = .next (effQueryStampPoll (s.enter e) id k) := rfl

theorem exec_commitPoint (e : Env) (inst : Bool) (id : Nat) (s : State) :
    exec (.commitPoint e inst id) s = .next (effCommitPoint (s.enter e) inst id) := rfl

theorem exec_eventCompletion (e : Env) (id : Nat) (s : State) :
    exec (.eventCompletion e id) s = .next (effEventCompletion (s.enter e) id) := rfl

/-- R236: a due event of the armed slot is issued for its step. -/
theorem effEventIssue_of_due {s : State} {p ev since step : Nat} {slot : Bool} {im : SchedImg} (hserves : s.serves = true)
    (harmed : (s.sched p).armed = some (slot, since)) (himage : (s.sched p).img slot = some im) (hev : ev < imEvents im.bytes)
    (hdue : s.dueStep p ev (s.sched p) im since = some step) : effEventIssue s p ev = s.issue p ev step slot im := by
  simp only [effEventIssue, hserves, harmed, himage, ge_iff_le, if_neg (Nat.not_le.mpr hev), hdue, Bool.not_true, Bool.false_eq_true, if_false]

/-- R238: an event whose completion ring has no room is dropped and counted. -/
theorem issue_of_full {s : State} {p ev step : Nat} {slot : Bool} {im : SchedImg} (hfull : s.cqHasRoom (schedCq p im.bytes) = false) :
    s.issue p ev step slot im = ((s.setSched p { s.sched p with issued := (s.sched p).issued.set ev (step + 1) }).bump
      F.SCHED_DROPPED_COUNT).raise gDeadline 0 := by
  simp only [State.issue, hfull, Bool.not_false, if_true]

/-- R236, R237: an issued event takes the next numbers of its domain and of its sequence, with its slots formed. -/
theorem issue_of_room {s s2 : State} {p ev step : Nat} {slot : Bool} {im : SchedImg} {x : Inst} {sls : List InstSlot}
    (hroom : s.cqHasRoom (schedCq p im.bytes) = true) (hsound : s.recBad 3 (p * 2 + b2n slot) = false)
    (hx : x = { part := p, slot := slot, image := im.bytes, epoch := im.epoch, event := ev, step := step, cq := schedCq p im.bytes
                seqNo := (s.cqs.getD (schedCq p im.bytes) {}).instSeq, dom := (s.sched p).dom, sqId := im.sqId, sqHead := im.sqHead
                beatLost := (s.beat (s.sched p).dom).state == bLost })
    (hslots : s.formSlots s.instSeq x (s.sched p) im
      ((List.range (evSlotCount (imEvent im.bytes ev))).map (· + evSlotFirst (imEvent im.bytes ev))) = some (sls, s2)) :
    (s.issue p ev step slot im).insts = s2.insts.set s.instSeq { x with slots := sls } ∧ (s.issue p ev step slot im).instSeq = s.instSeq + 1
      ∧ (s.issue p ev step slot im).scheds = s2.scheds.set p { s2.sched p with issued := (s2.sched p).issued.set ev (step + 1) } := by
  subst hx
  simp only [State.issue, hroom, hsound, hslots, Bool.not_true, Bool.false_eq_true, if_false]
  exact ⟨rfl, rfl, rfl⟩

/-- R239: a query that has come, and that is read and valid, starts the work of its slot. -/
theorem effQueryStampPoll_of_ready {s : State} {id k nq : Nat} {x : Inst} {sl : InstSlot} {qb : Bytes} (hx : s.insts.get? id = some x)
    (hsl : x.slots[k]? = some sl) (hwants : x.wantsQuery sl = true) (hopen : x.result = none) (hready : s.stampReady x sl = true)
    (hnq : nq = if evOp x.ev = 2 then 1 else evQueries x.ev)
    (hread : s.bufRead (x.req sl.handle) 3 (x.queryAt sl + 64) (queryBytes sl.sh nq (evQueryBf16 x.ev)) = .ok qb)
    (hquery : queryOk sl.sh nq (evQueryBf16 x.ev) qb = true) :
    effQueryStampPoll s id k = if evOp x.ev = 2 then s.slotSelect id k x sl (x.job id k sl qb) else s.slotAttend id k sl (x.job id k sl qb) := by
  subst hnq
  simp only [effQueryStampPoll, hx, hsl, hwants, hopen, hready, hread, hquery, Option.isSome_none, Bool.not_true, Bool.or_self,
    Bool.false_eq_true, if_false]

/-- R245: at its commit point an issued event commits, slot by slot. -/
theorem commitInst_of_due {s : State} {id : Nat} {x : Inst} (hx : s.insts.get? id = some x) (hopen : x.result = none)
    (hcommit : x.commit = false) (hdue : s.instCommit x ≤ s.time) :
    s.commitInst id
      = (x.slots.mapIdx (fun k sl => (k, sl))).foldl (fun s y => s.commitSlot id y.1 x y.2) (s.setInst id { x with commit := true }) := by
  simp only [State.commitInst, hx, hopen, hcommit, Nat.not_lt.mpr hdue, Option.isSome_none, decide_false, Bool.or_self, Bool.false_eq_true,
    if_false]

/-- An issued event that has committed does so once (R245). -/
theorem commitInst_of_committed {s : State} {id : Nat} {x : Inst} (hx : s.insts.get? id = some x) (hcommit : x.commit = true) :
    s.commitInst id = s := by
  simp only [State.commitInst, hx, hcommit, Bool.true_or, if_true]

/-- R240: an event with no slot that runs writes what it has and completes. -/
theorem effEventCompletion_of_idle {s s2 : State} {id : Nat} {x x' : Inst} {st : Status} {c : Cpl} (hx : s.insts.get? id = some x)
    (hopen : x.result = none) (hcommit : x.commit = true) (hidle : x.busy = false) (hwrite : s.instWrite id x = s2)
    (hx' : s2.insts.get? id = some x') (hresult : x'.result = some (st, c)) (htarget : tgKind x'.tgt ≠ 2) :
    effEventCompletion s id = s2.instComplete id x' st c := by
  simp only [effEventCompletion, commitInst_of_committed hx hcommit, hx, hidle, hopen, hwrite, hx', hresult, htarget, Option.isNone_none,
    decide_false, Bool.false_and, Bool.false_eq_true, if_true, if_false]

section
variable {s : State} {rid id t : Nat} {r : Req} {j : Job} (hr : s.reqs.get? rid = some r) (hwait : r.wait = .job id)
  (hcommit : s.commitTime? r = some t) (hdue : t ≤ s.time) (hj : s.jobs.get? id = some j)
include hr hwait hcommit hdue hj

/-- R247: work that is not done at its commit point is dropped where the request takes no degraded result. -/
theorem commitReq_of_strict (hstrict : r.fDegradeOk = false) : s.commitReq rid = (s.dropJob id).complete rid .deadlineMissed := by
  have hr' : s.req? rid = some r := hr
  simp only [State.commitReq, hr', hwait, hcommit, hj, if_neg (Nat.not_lt.mpr hdue), hstrict, Bool.not_false, if_true]

/-- R247: where it takes one, the work ends with what it has. -/
theorem commitReq_of_degrade {s2 : State} {j' : Job} (hdegrade : r.fDegradeOk = true) (hmiss : s.missJob id j View.miss = (j', s2)) :
    s.commitReq rid = s2.finishJob id j' := by
  have hr' : s.req? rid = some r := hr
  simp only [State.commitReq, hr', hwait, hcommit, hj, if_neg (Nat.not_lt.mpr hdue), hdegrade, hmiss, Bool.not_true, Bool.false_eq_true,
    if_false]

end

/-- Settles O28: issue, poll, commit point and completion by their lemmas. -/
theorem instancesRunTheirEvents : Obligations.InstancesRunTheirEvents := by
  refine ⟨?_, ?_, ?_, ?_⟩
  · intro e p ev since step slot s s1 im x hs1 hserves harmed himage hev hdue
    subst hs1
    have hissue := effEventIssue_of_due hserves harmed himage hev hdue
    refine ⟨?_, ?_⟩
    · intro hfull
      exact (exec_eventIssue ..).trans (congrArg _ (hissue.trans (issue_of_full hfull)))
    · intro sls s2 hroom hsound hx hslots
      exact ⟨_, (exec_eventIssue ..).trans (congrArg _ hissue), issue_of_room hroom hsound hx hslots⟩
  · intro e id k s s1 x sl qb nq hs1 hx hsl hwants hopen hready hnq hread hquery
    subst hs1
    exact (exec_queryStampPoll ..).trans (congrArg _ (effQueryStampPoll_of_ready hx hsl hwants hopen hready hnq hread hquery))
  · intro e id s s1 x hs1 hx hopen
    subst hs1
    refine ⟨?_, ?_⟩
    · intro hcommit hdue
      exact (exec_commitPoint ..).trans (congrArg _ (commitInst_of_due hx hopen hcommit hdue))
    · intro s2 x' st c hcommit hidle hwrite hx' hresult htarget
      exact (exec_eventCompletion ..).trans (congrArg _ (effEventCompletion_of_idle hx hopen hcommit hidle hwrite hx' hresult htarget))
  · intro e rid id t s s1 s2 r j j' hs1 hr hwait hcommit hdue hj
    subst hs1
    refine ⟨?_, ?_⟩
    · intro hstrict
      exact (exec_commitPoint ..).trans (congrArg _ (commitReq_of_strict hr hwait hcommit hdue hj hstrict))
    · intro hdegrade hmiss
      exact (exec_commitPoint ..).trans (congrArg _ (commitReq_of_degrade hr hwait hcommit hdue hj hdegrade hmiss))

end Sys2Proof.Machine
end

section
/-! PROOF. Work units and slow Spires (R203, R256, R258, R259), and the calibration of the Lantern arrays (R207 to R209). -/

namespace Sys2Proof.Machine

open Sys2Proof

theorem exec_workUnitFinish (e : Env) (n : Nat) (s : State) : exec (.workUnitFinish e n) s = .next (effWorkUnitFinish (s.enter e) n) := rfl

theorem exec_spireSlowCheck (e : Env) (n keyLines valueLines : Nat) (s : State) :
    exec (.spireSlowCheck e n keyLines valueLines) s = .next (effSpireSlowCheck (s.enter e) n (keyLines + valueLines)) := rfl

theorem exec_spireSlowExit (e : Env) (n : Nat) (s : State) : exec (.spireSlowExit e n) s = .next (effSpireSlowExit (s.enter e) n) := rfl

theorem exec_lanternCalibrationDue (e : Env) (a temp : Nat) (s : State) :
    exec (.lanternCalibrationDue e a temp) s = .next (effLanternCalibrationDue (s.enter e) a temp) := rfl

theorem exec_lanternCalibrationDone (e : Env) (a : Nat) (s : State) :
    exec (.lanternCalibrationDone e a) s = .next (effLanternCalibrationDone (s.enter e) a) := rfl

theorem exec_lanternStale (e : Env) (a temp : Nat) (s : State) :
    exec (.lanternStale e a temp) s = .next (effLanternStale (s.enter e) a temp) := rfl

/-! ### Spires -/

/-- R256: a finished unit counts, its Spire takes the unit assigned to it, and the dispatcher places others; then its job loses it. -/
theorem effWorkUnitFinish_of_running {s s2 s3 : State} {n : Nat} {u : WUnit} {j : Job} (hrunning : (s.spire n).running = some u)
    (hcluster : s.anyCluster = true)
    (hs2 : s2 = (s.bump F.SPIRE_UNITS_COUNT 1 n).setSpire n { s.spire n with
      running := none, assigned := none, busyNs := (s.spire n).busyNs + (s.time - (s.spire n).started) })
    (hs3 : s3 = ((s.spire n).assigned.elim s2 (s2.startUnit n)).dispatch) (hj : s3.jobs.get? u.job = some j) :
    effWorkUnitFinish s n = if j.left.erase u.idx = []
      then ({ s3 with jobs := s3.jobs.set u.job { j with left := j.left.erase u.idx } } : State).finishJob u.job
        { j with left := j.left.erase u.idx }
      else { s3 with jobs := s3.jobs.set u.job { j with left := j.left.erase u.idx } } := by
  subst hs3 hs2
  cases hassigned : (s.spire n).assigned with
  | none =>
    rw [hassigned, Option.elim_none] at hj
    simp only [effWorkUnitFinish, hrunning, hcluster, hassigned, hj, Option.elim_none, Bool.not_true, Bool.false_eq_true, if_false]
  | some v =>
    rw [hassigned, Option.elim_some] at hj
    simp only [effWorkUnitFinish, hrunning, hcluster, hassigned, hj, Option.elim_some, Bool.not_true, Bool.false_eq_true, if_false]

/-- R258: a Spire at a thermal stage, or below its rate, becomes slow, is counted, and gives its next unit back. -/
theorem effSpireSlowCheck_of_slow {s : State} {n lines : Nat} (hn : n < 48)
    (hslow : s.get F.SPIRE_STATUS_THERMAL_STAGE n ≠ 0
      ∨ ((s.spire n).running.isSome = true ∧ lines * 100 < s.linesAllowed n * s.get F.SAPL_DISPATCH_CFG_SLOW_PCT))
    (hfirst : (s.spire n).slow = false) :
    effSpireSlowCheck s n lines = (((s.setSpire n { s.spire n with slow := true, slowAt := s.time }).bump F.SAPL_SLOW_EVENTS_COUNT).returnUnit
      n).dispatch := by
  have hfound : (s.get F.SPIRE_STATUS_THERMAL_STAGE n != 0 || ((s.spire n).running.isSome
      && decide (lines * 100 < s.linesAllowed n * s.get F.SAPL_DISPATCH_CFG_SLOW_PCT))) = true := by
    rcases hslow with h | ⟨h1, h2⟩
    · simp [h]
    · simp [h1, h2]
  simp only [effSpireSlowCheck, ge_iff_le, if_neg (Nat.not_le.mpr hn), hfound, hfirst, Bool.not_true, Bool.false_eq_true, if_false]

/-- R259: 100 µs at stage 0 end the slow state. -/
theorem effSpireSlowExit_of_due {s : State} {n : Nat} (hslow : (s.spire n).slow = true) (hstage : s.get F.SPIRE_STATUS_THERMAL_STAGE n = 0)
    (hdue : (s.spire n).slowAt + 100000 ≤ s.time) : effSpireSlowExit s n = (s.setSpire n { s.spire n with slow := false }).dispatch :=
  if_pos (by simp [hslow, hstage, hdue])

/-! ### Lantern arrays -/

/-- The report of a group without usable arrays changes no array. -/
theorem noUsable_arrays (s : State) (g : Nat) : (s.noUsable g).arrays = s.arrays := by
  unfold State.noUsable
  split
  · exact raise_arrays ..
  · rfl

/-- R207, R208: an array that is due calibrates where no other of its group does and none before it is due. -/
theorem effLanternCalibrationDue_arrays {s : State} {a temp : Nat} (ha : a < 64) (hon : s.pdOn (76 + a / 16) = true)
    (hgroup : ∀ i, i < 16 → ((s.lanternTemp (a / 16) temp).larray (i + 16 * (a / 16))).state ≠ 2
      ∧ (i + 16 * (a / 16) < a → (s.lanternTemp (a / 16) temp).calDue (i + 16 * (a / 16)) = false))
    (hdue : (s.lanternTemp (a / 16) temp).calDue a = true) :
    (effLanternCalibrationDue s a temp).arrays = (s.lanternTemp (a / 16) temp).arrays.set a
      { (s.lanternTemp (a / 16) temp).larray a with state := 2, lastCal := some (s.lanternTemp (a / 16) temp).time } := by
  have hpowered : ¬ ((decide (a ≥ 64) || !s.pdOn (76 + a / 16)) = true) := by simp [Nat.not_le.mpr ha, hon]
  unfold effLanternCalibrationDue
  extract_lets g s1 group s2
  have hidle : group.any (fun b => (s1.larray b).state == 2) = false := by
    refine List.any_eq_false.mpr fun b hb => ?_
    obtain ⟨i, hi, rfl⟩ := List.mem_map.mp hb
    simpa using (hgroup i (List.mem_range.mp hi)).1
  have hnext : group.any (fun b => decide (b < a) && s1.calDue b) = false := by
    refine List.any_eq_false.mpr fun b hb => ?_
    obtain ⟨i, hi, rfl⟩ := List.mem_map.mp hb
    rw [Bool.not_eq_true, Bool.and_eq_false_imp]
    exact fun hlt => (hgroup i (List.mem_range.mp hi)).2 (of_decide_eq_true hlt)
  have hdue' : s1.calDue a = true := hdue
  have hgo : ¬ ((group.any (fun b => (s1.larray b).state == 2) || !s1.calDue a || group.any (fun b => decide (b < a) && s1.calDue b)) = true) := by
    rw [hidle, hnext, hdue']
    simp
  rw [if_neg hpowered, if_neg hgo]
  split
  · exact noUsable_arrays ..
  · rfl

section
variable {s : State} {a t0 : Nat} (hstate : (s.larray a).state = 2) (hstart : (s.larray a).lastCal = some t0) (hdone : t0 + 2000 ≤ s.time)
include hstate hstart hdone

/-- R209: a calibration with a residual over the limit fails, is counted and reported. -/
theorem effLanternCalibrationDone_of_over (hover : s.get F.LANTERN_CAL_LIMIT_LIMIT < Config.calError a s.freeCtr) :
    effLanternCalibrationDone s a = (({ s.free.2 with arrays := s.arrays.set a { s.larray a with state := 3, failed := true } } : State).bump
      F.LANTERN_CAL_FAIL_COUNT).raise gLantern 0 := by
  have hgo : ((s.larray a).state != 2 || !decide (s.time ≥ t0 + 2000)) = false := by simp [hstate, hdone]
  have hover' : Config.calError a s.freeCtr > s.free.2.get F.LANTERN_CAL_LIMIT_LIMIT := hover
  simp only [effLanternCalibrationDone, hstart, hgo, Bool.false_eq_true, if_false]
  exact if_pos hover'

/-- R209: within the limit the array is usable, with the band of its residual. -/
theorem effLanternCalibrationDone_of_within (hwithin : Config.calError a s.freeCtr ≤ s.get F.LANTERN_CAL_LIMIT_LIMIT) :
    effLanternCalibrationDone s a = { s.free.2 with arrays := s.arrays.set a { s.larray a with
      state := 1, failed := false, lastOk := some s.time, temp := s.get F.LANTERN_GROUP_STATUS_TEMP_C (a / 16)
      band := s.get F.LANTERN_CAL_LIMIT_GUARD + 2 * Config.calError a s.freeCtr
      trims := (List.range 8).map (fun g => (Config.calFit a g s.freeCtr % 65536, Config.calFit a (g + 8) s.freeCtr % 65536)) } } := by
  have hgo : ((s.larray a).state != 2 || !decide (s.time ≥ t0 + 2000)) = false := by simp [hstate, hdone]
  have hwithin' : ¬ Config.calError a s.freeCtr > s.free.2.get F.LANTERN_CAL_LIMIT_LIMIT := Nat.not_lt.mpr hwithin
  simp only [effLanternCalibrationDone, hstart, hgo, Bool.false_eq_true, if_false]
  exact if_neg hwithin'

end

/-- R209: an array whose time or temperature has run off goes out of calibration. -/
theorem effLanternStale_of_stale {s : State} {a temp t0 : Nat} (ha : a < 64) (hon : s.pdOn (76 + a / 16) = true)
    (hstate : ((s.lanternTemp (a / 16) temp).larray a).state = 1) (hlast : ((s.lanternTemp (a / 16) temp).larray a).lastOk = some t0)
    (hstale : t0 + (s.lanternTemp (a / 16) temp).get F.LANTERN_CFG_STALE_MS * 1000000 ≤ (s.lanternTemp (a / 16) temp).time
      ∨ 2 * (s.lanternTemp (a / 16) temp).calDelta ≤ natDiff ((s.lanternTemp (a / 16) temp).get F.LANTERN_GROUP_STATUS_TEMP_C (a / 16))
          ((s.lanternTemp (a / 16) temp).larray a).temp) :
    effLanternStale s a temp = ({ s.lanternTemp (a / 16) temp with
      arrays := (s.lanternTemp (a / 16) temp).arrays.set a { (s.lanternTemp (a / 16) temp).larray a with state := 3 } } : State).noUsable
        (a / 16) := by
  have hpowered : ¬ ((decide (a ≥ 64) || !s.pdOn (76 + a / 16)) = true) := by simp [Nat.not_le.mpr ha, hon]
  have hnotFresh : (s.lanternTemp (a / 16) temp).calFresh a = false := by
    rcases hstale with h | h
    · simp [State.calFresh, hlast, Nat.not_lt.mpr h]
    · simp [State.calFresh, Nat.not_lt.mpr h]
  unfold effLanternStale
  rw [if_neg hpowered]
  exact if_pos (by simp [hstate, hnotFresh])

/-- Settles O29: the units and the slow Spires, then the arrays, each by its lemma. -/
theorem spiresAndLanternArrays : Obligations.SpiresAndLanternArrays := by
  refine ⟨?_, ?_, ?_, ?_, ?_, ?_⟩
  · intro e n s s1 s2 s3 u x j hs1 hx hrunning hcluster hs2 hs3 hj
    subst hs1 hx
    have hfinish := effWorkUnitFinish_of_running (s := s.enter e) hrunning hcluster hs2
      (hs3.trans (by cases ((s.enter e).spire n).assigned <;> rfl)) hj
    refine ⟨?_, ?_⟩
    · intro hleft
      exact (exec_workUnitFinish ..).trans (congrArg _ (hfinish.trans (if_neg hleft)))
    · intro hleft
      rw [if_pos hleft, hleft] at hfinish
      exact (exec_workUnitFinish ..).trans (congrArg _ hfinish)
  · intro e n keyLines valueLines s s1 hs1 hn hslow hfirst
    subst hs1
    exact (exec_spireSlowCheck ..).trans (congrArg _ (effSpireSlowCheck_of_slow hn hslow hfirst))
  · intro e n s s1 hs1 hslow hstage hdue
    subst hs1
    exact (exec_spireSlowExit ..).trans (congrArg _ (effSpireSlowExit_of_due hslow hstage hdue))
  · intro e a temp s s1 hs1 ha hon hgroup hdue
    subst hs1
    exact ⟨_, exec_lanternCalibrationDue .., effLanternCalibrationDue_arrays ha hon hgroup hdue⟩
  · intro e a t0 rho s s1 x hs1 hx hstate hstart hdone hrho
    subst hs1 hx hrho
    refine ⟨?_, ?_⟩
    · intro hover
      exact (exec_lanternCalibrationDone ..).trans (congrArg _ (effLanternCalibrationDone_of_over hstate hstart hdone hover))
    · intro hwithin
      refine ⟨_, (exec_lanternCalibrationDone ..).trans (congrArg _ (effLanternCalibrationDone_of_within hstate hstart hdone hwithin)), ?_⟩
      simp only [State.larray, Table.getD_set_same, true_and]
      rfl
  · intro e a temp t0 s s1 hs1 ha hon hstate hlast hstale
    subst hs1
    exact (exec_lanternStale ..).trans (congrArg _ (effLanternStale_of_stale ha hon hstate hlast hstale))

end Sys2Proof.Machine
end

section
/-! PROOF. POOL_FLUSH and the leases of shared windows (R329 to R334). -/

namespace Sys2Proof.Machine

open Sys2Proof

theorem exec_poolFlush (e : Env) (rid : Nat) (s : State) : exec (.poolFlush e rid) s = .next (effPoolFlush (s.enter e) rid) := rfl

theorem exec_poolLeaseAcquire (e : Env) (rid : Nat) (s : State) :
    exec (.poolLeaseAcquire e rid) s = .next (effPoolLeaseAcquire (s.enter e) rid) := rfl

theorem exec_poolLeaseRenew (e : Env) (rid : Nat) (s : State) :
    exec (.poolLeaseRenew e rid) s = .next (effPoolLeaseRenew (s.enter e) rid) := rfl

theorem exec_poolLeaseRelease (e : Env) (rid : Nat) (s : State) :
    exec (.poolLeaseRelease e rid) s = .next (effPoolLeaseRelease (s.enter e) rid) := rfl

theorem exec_poolLeaseExpiry (e : Env) (base len : Nat) (s : State) :
    exec (.poolLeaseExpiry e base len) s = .next (effPoolLeaseExpiry (s.enter e) base len) := rfl

theorem exec_poolLeaseAutoRenew (e : Env) (rid : Nat) (ok : Bool) (s : State) :
    exec (.poolLeaseAutoRenew e rid ok) s = .next (effPoolLeaseAutoRenew (s.enter e) rid ok) := rfl

/-- R329, R330: a flush of a window of its own discards the lines of the read buffers. -/
theorem effPoolFlush_of_ok {s : State} {rid : Nat} {r : Req} (hr : s.startedReq? rid [0x70] = some r) (hrange : poolRangeFault r = none)
    (hown : (s.sharedExt? r.part r.addr16 r.addr24).isSome = true) (hup : s.poolUp = true) :
    effPoolFlush s rid = (s.dropReads r.addr16 r.addr24).complete rid .ok := by
  have hown' : (s.sharedExt? r.part r.addr16 r.addr24).isNone = false := by
    cases h : s.sharedExt? r.part r.addr16 r.addr24 <;> simp_all
  simp only [effPoolFlush, hr, hrange, hown', hup, Bool.not_true, Bool.false_eq_true, if_false]

/-- R331: an acquire or a renew whose home is this device is done here. -/
theorem leaseOp_of_home {s : State} {rid op : Nat} {r : Req} (at_ : State → Req → State) (hr : s.startedReq? rid [0x71] = some r)
    (hop : r.leaseOp = op) (hkeep : op ≠ 2) (hhome : s.leaseWhere r = .inr none) : s.leaseOp rid op at_ = at_ s r := by
  simp only [State.leaseOp, hr, hop, hhome, hkeep, bne_self_eq_false, decide_false, Bool.false_and, Bool.false_eq_true, if_false]

/-- R332: a release of a ring of this device flushes before it is done here. -/
theorem leaseOp_of_release {s : State} {rid q : Nat} {r : Req} (at_ : State → Req → State) (hr : s.startedReq? rid [0x71] = some r)
    (hop : r.leaseOp = 2) (horigin : r.origin = .ring q) (hup : s.poolUp = true) (hhome : s.leaseWhere r = .inr none) :
    s.leaseOp rid 2 at_ = at_ (s.dropReads r.addr16 r.addr24) r := by
  simp only [State.leaseOp, hr, hop, hhome, horigin, hup, bne_self_eq_false, decide_true, Bool.true_and, Bool.not_true, Bool.false_eq_true,
    if_true, if_false]

/-- R332: a range that no other holder's lease overlaps is granted as a new lease, within the limits. -/
theorem acquireAt_of_free {s s1 : State} {rid : Nat} {r : Req} {h : Bool × Nat × Nat} (hs1 : s1 = s.expireDue r.addr16 r.addr24)
    (hh : h = s1.leaseHolder r) (halone : ∀ l ∈ s1.pool.leases, l.overlaps r.addr16 r.addr24 = true → l.heldBy h = true)
    (hnew : s1.leaseOn? h r.addr16 r.addr24 = none) (hroom : s1.pool.leases.length < 4096)
    (hshare : s1.pool.leases.countP (·.heldBy h) < 64) :
    s.acquireAt rid r = ({ s1 with pool := { s1.pool with leases := s1.pool.leases ++ [
      { isQp := h.1, holder := h.2.1, pos := h.2.2, base := r.addr16, len := r.addr24, ms := r.leaseMs
        expiry := s1.time + r.leaseMs * 1000000 }] } } : State).complete rid .ok { result0 := s1.time + r.leaseMs * 1000000 } := by
  subst hs1 hh
  have hnone : (s.expireDue r.addr16 r.addr24).pool.leases.filter (fun l => l.overlaps r.addr16 r.addr24
      && !l.heldBy ((s.expireDue r.addr16 r.addr24).leaseHolder r)) = [] := by
    refine List.filter_eq_nil_iff.mpr fun l hl hother => ?_
    obtain ⟨hover, hheld⟩ := Bool.and_eq_true_iff.mp hother
    simp [halone l hl hover] at hheld
  have hfits : ¬ ((decide ((s.expireDue r.addr16 r.addr24).pool.leases.length ≥ 4096)
      || decide ((s.expireDue r.addr16 r.addr24).pool.leases.countP
          (·.heldBy ((s.expireDue r.addr16 r.addr24).leaseHolder r)) ≥ 64)) = true) := by
    simp only [Bool.or_eq_true, decide_eq_true_eq]
    omega
  simp only [State.acquireAt, hnone, hnew, bne_self_eq_false, Bool.false_eq_true, if_false, if_neg hfits]

/-- R332: a renew of a lease that its holder has renews it. -/
theorem renewAt_of_held {s s1 : State} {rid : Nat} {r : Req} {l : Lease} (hs1 : s1 = s.expireDue r.addr16 r.addr24)
    (hheld : s1.leaseOn? (s1.leaseHolder r) r.addr16 r.addr24 = some l) :
    s.renewAt rid r = (s1.renewLease l r.leaseMs).complete rid .ok { result0 := s1.time + r.leaseMs * 1000000 } := by
  subst hs1
  simp only [State.renewAt, hheld]

/-- R332: a release of a lease that its holder has ends it. -/
theorem releaseAt_of_held {s s1 : State} {rid : Nat} {r : Req} {l : Lease} (hs1 : s1 = s.expireDue r.addr16 r.addr24)
    (hheld : s1.leaseOn? (s1.leaseHolder r) r.addr16 r.addr24 = some l) :
    s.releaseAt rid r = ({ s1 with pool := { s1.pool with leases := s1.pool.leases.erase l } } : State).complete rid .ok := by
  subst hs1
  simp only [State.releaseAt, hheld]

/-- R334: a lease that expires while its extent stays poisons its range and is reported. -/
theorem expireLease_of_stays {s : State} (l : Lease) (hup : s.poolUp = true) (hstays : ∀ x ∈ s.pool.exts, x.2.state ≠ 2) :
    s.expireLease l = (((({ s with pool := { s.pool with leases := s.pool.leases.erase l } } : State).dropReads l.base l.len).poisonRange
      (memKey poolSpace l.base) l.len).bump F.POOL_LEASE_LOST_COUNT).raise gPool 1 := by
  have hleaving : s.pool.exts.any (fun x => x.2.state == 2 && x.2.holds l.base l.len) = false :=
    List.any_eq_false.mpr fun x hx => by simp [hstays x hx]
  have hup' : ({ s with pool := { s.pool with leases := s.pool.leases.erase l } } : State).poolUp = true := hup
  simp only [State.expireLease, hleaving, hup', Bool.not_true, Bool.or_self, Bool.false_eq_true, if_false]

theorem effPoolLeaseExpiry_of_due {s : State} {base len : Nat} {l : Lease}
    (hl : s.pool.leases.find? (fun l => l.base == base && l.len == len) = some l) (hdue : l.expiry ≤ s.time) :
    effPoolLeaseExpiry s base len = s.expireLease l := by
  simp only [effPoolLeaseExpiry, hl, if_neg (Nat.not_lt.mpr hdue)]

section
variable {s : State} {rid : Nat} {ok : Bool} {r : Req} {pl : Plan} {l : Lease} (hr : s.reqs.get? rid = some r) (hop : r.opcode = 0x72)
  (hwait : r.wait = .append pl) (hlease : s.leaseCovering? r.part r.addr16 1 = some l)
include hr hop hwait hlease

/-- R333: a stage that runs renews its lease of this home. -/
theorem effPoolLeaseAutoRenew_of_home (hhome : s.pool.leases.contains l = true) : effPoolLeaseAutoRenew s rid ok = s.renewLease l l.ms := by
  have hr' : s.req? rid = some r := hr
  simp only [effPoolLeaseAutoRenew, hr', hop, hwait, hlease, hhome, bne_self_eq_false, Bool.false_eq_true, if_true, if_false]

/-- R333: a renewal that another home refuses ends the stage. -/
theorem effPoolLeaseAutoRenew_of_refused (hfar : s.pool.leases.contains l = false) (hrefused : ok = false) :
    effPoolLeaseAutoRenew s rid ok = s.abandonPlan rid pl .linkFailed := by
  have hr' : s.req? rid = some r := hr
  simp only [effPoolLeaseAutoRenew, hr', hop, hwait, hlease, hfar, hrefused, bne_self_eq_false, Bool.false_and, Bool.false_eq_true, if_false]

end

/-- Settles O30: the flush, the lease operations at their home, the expiry and the renewal by a stage, each by its lemma. -/
theorem poolLeasesAreGrantedAndLost : Obligations.PoolLeasesAreGrantedAndLost := by
  refine ⟨?_, ?_, ?_, ?_, ?_⟩
  · intro e rid s s1 r hs1 hr hrange hown hup
    subst hs1
    exact (exec_poolFlush ..).trans (congrArg _ (effPoolFlush_of_ok hr hrange hown hup))
  · intro e rid s s0 s1 r h hs0 hr hhome hs1 hh
    subst hs0
    refine ⟨?_, ?_⟩
    · intro l0 hl0 hop halone hnew hroom hshare
      subst hl0
      exact (exec_poolLeaseAcquire ..).trans (congrArg _ ((leaseOp_of_home _ hr hop (by decide) hhome).trans
        (acquireAt_of_free hs1 hh halone hnew hroom hshare)))
    · intro l hop hheld
      exact (exec_poolLeaseRenew ..).trans (congrArg _ ((leaseOp_of_home _ hr hop (by decide) hhome).trans
        (renewAt_of_held hs1 (hh ▸ hheld))))
  · intro e rid s s0 s1 r q l hs0 hr hhome hop horigin hup hs1 hheld
    subst hs0
    exact (exec_poolLeaseRelease ..).trans (congrArg _ ((leaseOp_of_release _ hr hop horigin hup hhome).trans
      (releaseAt_of_held hs1 hheld)))
  · intro e base len s s1 l hs1 hl hdue hup hstays
    subst hs1
    exact (exec_poolLeaseExpiry ..).trans (congrArg _ ((effPoolLeaseExpiry_of_due hl hdue).trans (expireLease_of_stays l hup hstays)))
  · intro e rid ok s s1 r pl l hs1 hr hop hwait hlease
    subst hs1
    exact ⟨fun hhome => (exec_poolLeaseAutoRenew ..).trans (congrArg _ (effPoolLeaseAutoRenew_of_home hr hop hwait hlease hhome)),
      fun hfar hrefused => (exec_poolLeaseAutoRenew ..).trans (congrArg _ (effPoolLeaseAutoRenew_of_refused hr hop hwait hlease hfar hrefused))⟩

end Sys2Proof.Machine
end

section
/-! PROOF. Extents of the pool are added, offered and released (R324, R325, R335, R344). -/

namespace Sys2Proof.Machine

open Sys2Proof

theorem exec_poolExtAdd (e : Env) (k : Nat) (s : State) : exec (.poolExtAdd e k) s = .next (effPoolExtAdd (s.enter e) k) := rfl

theorem exec_dcOffer (e : Env) (target len : Nat) (s : State) :
    exec (.dcOffer e target len) s = .next (effDcOffer (s.enter e) target len) := rfl

theorem exec_poolExtRelease (e : Env) (k : Nat) (s : State) :
    exec (.poolExtRelease e k) s = .next ((s.enter e).startRelease k) := rfl

theorem exec_dcReleaseRequest (e : Env) (k : Nat) (s : State) :
    exec (.dcReleaseRequest e k) s = .next (effDcReleaseRequest (s.enter e) k) := rfl

theorem exec_poolReleaseMsExpiry (e : Env) (k : Nat) (s : State) :
    exec (.poolReleaseMsExpiry e k) s = .next (effPoolReleaseMsExpiry (s.enter e) k) := rfl

theorem exec_extentReleased (e : Env) (k : Nat) (s : State) :
    exec (.extentReleased e k) s = .next (effExtentReleased (s.enter e) k) := rfl

/-- R324: a configured extent that a target maps and that meets no other is added. -/
theorem effPoolExtAdd_of_ok {s : State} {k : Nat} {x : Extent} (hk : k < 256) (hx : s.extent? k = some x) (hfree : x.state = 0)
    (hlen : 0 < x.len) (hkind0 : x.kind ≠ 0) (hkind3 : x.kind ≠ 3) (htop : x.base + x.len ≤ 2 ^ 24)
    (halone : s.unitsTaken x.base x.len = false)
    (hmapped : s.pool.targets.any (fun t => t.1 == x.target && t.2.1 ≤ x.base && x.base + x.len ≤ t.2.1 + t.2.2) = true) :
    effPoolExtAdd s k = s.setExtent k { x with state := 1, dynamic := false, blocked := false } := by
  simp only [effPoolExtAdd, hx, hfree, Nat.ne_of_gt hlen, hkind0, hkind3, Nat.not_le.mpr hk, Nat.not_lt.mpr htop, halone, hmapped,
    bne_self_eq_false, decide_false, Bool.not_true, Bool.or_self, Bool.false_eq_true, if_false]

section
variable {s s2 : State} {target len : Nat} {slot : Option Nat} (hup : s.poolUp = true) (htarget : target < 64) (hlen : 0 < len)
  (hpick : s.pickExtent = (slot, s2))
include hup htarget hlen hpick

/-- R325: an offer that fits is accepted at the lowest base. -/
theorem effDcOffer_of_accept {k b : Nat} (haccept : s2.on F.POOL_CFG_DC_ACCEPT = true) (hslot : slot = some k)
    (hbase : s2.lowestBase len = some b) :
    effDcOffer s target len = ((s2.setExtent k {
        base := b, len := len, target := target, kind := s2.get F.POOL_CFG_DC_KIND, owner := some (s2.get F.POOL_CFG_DC_OWNER)
        dynamic := true, state := 1 }).send (.pool 1 k)).raise gPool 0 := by
  subst hslot
  simp only [effDcOffer, hup, Nat.not_le.mpr htarget, Nat.ne_of_gt hlen, hpick, haccept, hbase, decide_false, Bool.not_true,
    Bool.or_self, Bool.false_eq_true, if_false]

/-- R325: an offer is refused where none are accepted. -/
theorem effDcOffer_of_refuse (hrefuse : s2.on F.POOL_CFG_DC_ACCEPT = false) :
    effDcOffer s target len = (s2.send (.pool 0 target)).raise gPool 0 := by
  simp only [effDcOffer, hup, Nat.not_le.mpr htarget, Nat.ne_of_gt hlen, hpick, hrefuse, decide_false, Bool.not_true,
    Bool.or_self, Bool.false_eq_true, if_false]

end

/-- R335: an extent in use enters DRAIN with the time by which its leases end. -/
theorem startRelease_of_used {s : State} {k : Nat} {x : Extent} (hx : s.extent? k = some x) (hstate : x.state = 1) :
    s.startRelease k = (s.setExtent k { x with state := 2, releaseAt := s.time + max 1 (s.get F.POOL_CFG_RELEASE_MS) * 1000000 }).drainExtent
      k := by
  simp only [State.startRelease, hx, hstate, bne_self_eq_false, Bool.false_eq_true, if_false]

theorem effDcReleaseRequest_of_dynamic {s : State} {k : Nat} {x : Extent} (hx : s.extent? k = some x) (hdynamic : x.dynamic = true)
    (hup : s.poolUp = true) : effDcReleaseRequest s k = s.startRelease k := by
  simp only [effDcReleaseRequest, hx, hdynamic, hup, Bool.and_self, if_true]

section
variable {s : State} {k : Nat} {x : Extent} (hx : s.extent? k = some x) (hstate : x.state = 2)
include hx hstate

/-- R335, step 4: at its time the leases in the extent end. -/
theorem effPoolReleaseMsExpiry_of_due (hdue : x.releaseAt ≤ s.time) : effPoolReleaseMsExpiry s k
    = { s with pool := { s.pool with leases := s.pool.leases.filter (fun l => !x.holds l.base l.len) } } := by
  simp only [effPoolReleaseMsExpiry, hx, hstate, Nat.not_lt.mpr hdue, bne_self_eq_false, decide_false, Bool.or_self, Bool.false_eq_true,
    if_false]

/-- R335, step 5: an extent that nothing is left in is freed, and the Dynamic Capacity Device gets it back. -/
theorem effExtentReleased_of_empty
    (hdead : ((s.drainExtent k).extPrimaries x).filter
      (fun i => ((s.drainExtent k).leaf i).state == .poisoned && (s.drainExtent k).holdCount i == 0) = [])
    (hidle : (s.drainExtent k).extBusy x = false) :
    effExtentReleased s k
      = ((if x.dynamic = true then (s.drainExtent k).send (.pool 2 k) else s.drainExtent k).dropExtent k).raise gPool 2 := by
  simp only [effExtentReleased, hx, hstate, hdead, List.foldl_nil, hidle, bne_self_eq_false, Bool.false_eq_true, if_false]

end

/-- Settles O31: each step of an extent's life by its lemma. -/
theorem poolExtentsComeAndGo : Obligations.PoolExtentsComeAndGo := by
  refine ⟨?_, ?_, ?_, ?_⟩
  · intro e k s s1 x hs1 hk hx hfree hlen hkind0 hkind3 htop halone hmapped
    subst hs1
    exact (exec_poolExtAdd ..).trans (congrArg _ (effPoolExtAdd_of_ok hk hx hfree hlen hkind0 hkind3 htop halone hmapped))
  · intro e target len s s1 s2 slot hs1 hup htarget hlen hpick
    subst hs1
    refine ⟨?_, ?_⟩
    · intro k b x haccept hslot hbase hx
      subst hx
      exact (exec_dcOffer ..).trans (congrArg _ (effDcOffer_of_accept hup htarget hlen hpick haccept hslot hbase))
    · intro hrefuse
      exact (exec_dcOffer ..).trans (congrArg _ (effDcOffer_of_refuse hup htarget hlen hpick hrefuse))
  · intro e k s s1 x hs1 hx hstate
    subst hs1
    refine ⟨(exec_poolExtRelease ..).trans (congrArg _ (startRelease_of_used hx hstate)), fun hdynamic hup => ?_⟩
    rw [exec_dcReleaseRequest, exec_poolExtRelease, effDcReleaseRequest_of_dynamic hx hdynamic hup]
  · intro e k s s1 x hs1 hx hstate
    subst hs1
    refine ⟨?_, ?_⟩
    · intro hdue
      exact (exec_poolReleaseMsExpiry ..).trans (congrArg _ (effPoolReleaseMsExpiry_of_due hx hstate hdue))
    · intro s2 hs2 hdead hidle
      subst hs2
      exact (exec_extentReleased ..).trans (congrArg _ (effExtentReleased_of_empty hx hstate hdead hidle))

end Sys2Proof.Machine
end

section
/-! PROOF. The pool's port, targets, bandwidth buckets and stages (R322, R327, R337 to R342). -/

namespace Sys2Proof.Machine

open Sys2Proof

theorem exec_poolLinkTrained (e : Env) (cxl31 common : Bool) (width : Nat) (targets : List (Nat × Nat × Nat)) (s : State) :
    exec (.poolLinkTrained e (cxl31, common) width targets) s = .next (effPoolLinkTrained (s.enter e) cxl31 common width targets) := rfl

theorem exec_poolRestart (e : Env) (s : State) : exec (.poolRestart e) s = .next (effPoolRestart (s.enter e)) := rfl

theorem exec_poolPortDown (e : Env) (s : State) : exec (.poolPortDown e) s = .next (effPoolPortDown (s.enter e)) := rfl

theorem exec_poolTargetFail (e : Env) (target : Nat) (ext : Option Nat) (s : State) :
    exec (.poolTargetFail e target ext) s = .next (effPoolTargetFail (s.enter e) target ext) := rfl

theorem exec_poolEventRecord (e : Env) (device addr : Nat) (ue : Bool) (s : State) :
    exec (.poolEventRecord e device addr ue) s = .next (effPoolEventRecord (s.enter e) device addr ue) := rfl

theorem exec_poolBwRefill (e : Env) (loads : List (Nat × Nat × Nat × Nat)) (s : State) :
    exec (.poolBwRefill e loads) s = .next (effPoolBwRefill (s.enter e) loads) := rfl

theorem exec_poolStageOut (e : Env) (rid : Nat) (s : State) : exec (.poolStageOut e rid) s = .next (effPoolStageOut (s.enter e) rid) := rfl

theorem exec_poolStageIn (e : Env) (rid : Nat) (s : State) : exec (.poolStageIn e rid) s = .next (effPoolStageIn (s.enter e) rid) := rfl

/-! ### The link and the port (R322, R341, R342) -/

/-- What a trained link leaves of the registers: STATE, mode, WIDTH and the number of targets. -/
def State.poolLinked (s : State) (cxl31 : Bool) (width n : Nat) : State :=
  (((s.put F.POOL_STATUS_STATE 2).put F.POOL_STATUS_CXL31 (b2n cxl31)).put F.POOL_STATUS_WIDTH width).put F.POOL_STATUS_TARGETS n

theorem get_poolLinked_state (s : State) (cxl31 : Bool) (width n : Nat) : (s.poolLinked cxl31 width n).get F.POOL_STATUS_STATE = 2 := by
  unfold State.poolLinked
  rw [get_put_apart _ _ _ _ _ _ _ _ (by decide), get_put_apart _ _ _ _ _ _ _ _ (by decide), get_put_apart _ _ _ _ _ _ _ _ (by decide),
    get_put _ _ _ _ _ (by decide) (by decide) (by decide)]
  rfl

theorem get_poolLinked_width (s : State) (cxl31 : Bool) {width : Nat} (n : Nat) (hwidth : width < 32) :
    (s.poolLinked cxl31 width n).get F.POOL_STATUS_WIDTH = width := by
  unfold State.poolLinked
  rw [get_put_apart _ _ _ _ _ _ _ _ (by decide), get_put _ _ _ _ _ (by decide) (by decide) (by decide)]
  exact Nat.mod_eq_of_lt hwidth

/-- The pool as a trained link leaves it: no lease, empty read buffers, and the extents that are still mapped as new ones. -/
def Pool.trained (p : Pool) (common : Bool) (ts : List (Nat × Nat × Nat)) : Pool :=
  { p with
    down := false, targets := ts, leases := [], readBuf := [], refclk := common
    exts := (p.exts.filter (fun x => x.2.state = 0 || x.2.dynamic || ts.any (fun t => t.1 == x.2.target))).map
      (fun x => (x.1, { x.2 with state := min 1 x.2.state, blocked := false })) }

theorem get_poolTrained (s : State) (p : Pool) (f : Fld) (i j : Nat) : ({ s with pool := p }).get f i j = s.get f i j := rfl

theorem effPoolLinkTrained_of_ok {s : State} {width : Nat} (cxl31 common : Bool) (targets : List (Nat × Nat × Nat))
    (hstate : s.get F.POOL_STATUS_STATE = 1) (hdie : s.dieWorks 1 = true) (hwidth : width = 4 ∨ width = 8 ∨ width = 16) :
    effPoolLinkTrained s cxl31 common width targets
      = { s.poolLinked cxl31 width ((targets.filter (fun t => t.1 < 64)).map (·.1)).eraseDups.length with
          pool := s.pool.trained common (targets.filter (fun t => t.1 < 64)) } := by
  have hwidths : (decide (width = 4) || decide (width = 8) || decide (width = 16)) = true := by
    rcases hwidth with rfl | rfl | rfl <;> rfl
  simp only [effPoolLinkTrained, hstate, hdie, hwidths, bne_self_eq_false, Bool.not_true, Bool.or_self, Bool.false_eq_true, if_false]
  rfl

theorem effPoolRestart_of_down {s : State} (hdown : s.get F.POOL_STATUS_STATE = 3) :
    effPoolRestart s = (List.range 128).foldl (fun s p => s.put F.PART_POOL_STATUS_DOWN 0 p) (s.put F.POOL_STATUS_STATE 1) := by
  simp only [effPoolRestart, hdown, bne_self_eq_false, Bool.false_eq_true, if_false]

/-- A cause of a group below 32 that is raised is set. -/
theorem raise_get_cause_bit (s : State) (g : Nat) {b : Nat} (hb : b < 32) :
    (s.raise g b).get F.BELFRY_GRP_CAUSE_CAUSE g / 2 ^ b % 2 = 1 := by
  have hbit : ((s.get F.BELFRY_GRP_CAUSE_CAUSE g ||| 2 ^ b) % 2 ^ 32).testBit b = true := by
    rw [Nat.testBit_mod_two_pow, Nat.testBit_or, Nat.testBit_two_pow_self, Bool.or_true, Bool.and_true, decide_eq_true hb]
  rw [raise_get_cause, ← Nat.shiftRight_eq_div_pow]
  simpa [Nat.testBit, Nat.and_comm, Nat.and_one_is_mod] using hbit

/-- R341: a port that falls fails the moves into the pool and what it held, and tells the partitions that used it. -/
theorem effPoolPortDown_of_up {s s2 : State} {used inPool into : List Nat} (hup : s.poolUp = true)
    (hused : used = (List.range 128).filter (fun p => s.tierUsed p 1 > 0 || s.partLeases p != []))
    (hinPool : inPool = s.leaves.filterMap (fun l => match l.2.cur with | some c => if c.tier = .pool then some l.1 else none | none => none))
    (hinto : into = s.leaves.filterMap (fun l => if l.2.state = .migrating && l.2.destTier = .pool then some l.1 else none))
    (hs2 : s2 = (({ s with pool := { s.pool with down := true } } : State).put F.POOL_STATUS_STATE 3).spoilViews (fun c => c.tier == .pool)) :
    effPoolPortDown s = (used.foldl (fun s p => s.put F.PART_POOL_STATUS_DOWN 1 p)
      (inPool.foldl (fun s i => s.losePrimary State.evict i) (into.foldl State.failMove s2))).raise gPool 4 := by
  subst hused hinPool hinto hs2
  simp only [effPoolPortDown, hup, Bool.not_true, Bool.false_eq_true, if_false]
  rfl

theorem effPoolTargetFail_of_hit {s : State} {target : Nat} {ext : Option Nat} {hit : List Nat} (hup : s.poolUp = true)
    (hhit : hit = s.pool.exts.filterMap (fun x => if (x.2.state = 1 || x.2.state = 2) && x.2.target = target
        && (ext.isNone || (ext = some x.1 && x.2.dynamic)) then some x.1 else none)) (hne : hit ≠ []) :
    effPoolTargetFail s target ext = (hit.foldl State.failExtent s).raise gPool 3 := by
  unfold effPoolTargetFail
  rw [← hhit]
  exact if_neg (by simp [hne, hup])

theorem effPoolEventRecord_ue {s : State} (device addr : Nat) (hserves : s.serves = true) (hup : s.poolUp = true) :
    effPoolEventRecord s device addr true
      = (s.logError { unit := device % 16, source := 7, ue := true, addr := addr } false).raise gRasUncorrected 0 := by
  simp only [effPoolEventRecord, hserves, hup, Bool.not_true, Bool.or_self, Bool.false_eq_true, if_false, if_true]

theorem effPoolEventRecord_ce {s : State} (device addr : Nat) (hserves : s.serves = true) (hup : s.poolUp = true) :
    effPoolEventRecord s device addr false
      = (s.logError { unit := device % 16, source := 7, ue := false, addr := addr } false).raiseCe := by
  simp only [effPoolEventRecord, hserves, hup, Bool.not_true, Bool.or_self, Bool.false_eq_true, if_false]

/-! ### Bandwidth (R327) -/

/-- In a fold over a range whose steps keep what is read of every lane but their own, a lane reads what its own step gives. -/
theorem foldl_range_lane {σ α : Type} {step : σ → Nat → σ} {read : σ → α} {i n : Nat} {own : α → α}
    (hother : ∀ s t, t ≠ i → read (step s t) = read s) (hown : ∀ s, read (step s i) = own (read s)) (hi : i < n) (s : σ) :
    read ((List.range n).foldl step s) = own (read s) := by
  have hkept : ∀ m, m ≤ i → read ((List.range m).foldl step s) = read s := by
    intro m
    induction m with
    | zero => intro _; rfl
    | succ m ih =>
      intro hm
      rw [List.range_succ, List.foldl_append, List.foldl_cons, List.foldl_nil, hother _ _ (Nat.ne_of_lt hm)]
      exact ih (Nat.le_of_succ_le hm)
  induction n with
  | zero => exact absurd hi (Nat.not_lt_zero i)
  | succ m ih =>
    rw [List.range_succ, List.foldl_append, List.foldl_cons, List.foldl_nil]
    by_cases hlast : i = m
    · subst hlast
      rw [hown, hkept i (Nat.le_refl i)]
    · rw [hother _ _ (Ne.symm hlast)]
      exact ih (by omega)

/-- The worst DevLoad of a target in an interval. -/
def worstLoad (loads : List (Nat × Nat × Nat × Nat)) (t : Nat) : Nat :=
  match loads.find? (fun l => l.1 == t) with | some l => l.2.1 % 4 | none => 0

/-- The refill of one target: its factor, and its bucket by the factor. -/
def State.refillTarget (w : Nat → Nat) (burst us : Nat) (s : State) (t : Nat) : State :=
  let f := nextFactor (s.get F.POOL_TARGET_LOAD_FACTOR t) (w t)
  let s := s.put F.POOL_TARGET_LOAD_FACTOR f t
  { s with pool := { s.pool with tgtCredit := s.pool.tgtCredit.set t (min burst (s.pool.tgtCredit.getD t 0 + 500 * f * us)) } }

/-- The refill of one partition's bucket. -/
def State.refillPart (burst us : Nat) (s : State) (p : Nat) : State :=
  let c := s.pool.partCredit.getD p 0 + s.get F.PART_POOL_BW_GBPS p * 1000 * us
  { s with pool := { s.pool with partCredit := s.pool.partCredit.set p (min burst c) } }

/-- What one target last answered of its load. -/
def State.noteLoad (s : State) (l : Nat × Nat × Nat × Nat) : State :=
  if l.1 ≥ 64 then s
  else (s.put F.POOL_TARGET_LOAD_DEVLOAD (l.2.2.1 % 4) l.1).put F.POOL_TARGET_LOAD_LAT_NS (min 65535 l.2.2.2) l.1

/-- The refill of both kinds of buckets, before the count of throttled intervals. -/
def State.refilled (s : State) (loads : List (Nat × Nat × Nat × Nat)) : State :=
  let us := max 1 (s.get F.POOL_BW_CFG_INTERVAL_US)
  loads.foldl State.noteLoad ((List.range 128).foldl (State.refillPart s.poolBurst us)
    ((List.range 64).foldl (State.refillTarget (worstLoad loads) s.poolBurst us) s))

theorem effPoolBwRefill_eq (s : State) (loads : List (Nat × Nat × Nat × Nat)) :
    effPoolBwRefill s loads = s.refilled loads ∨ effPoolBwRefill s loads = (s.refilled loads).bump F.POOL_THROTTLED_COUNT := by
  unfold effPoolBwRefill
  dsimp only
  split
  · exact Or.inr rfl
  · exact Or.inl rfl

/-- A target's factor and bucket, which a refill reads together. -/
def State.targetLane (i : Nat) (s : State) : Nat × Nat := (s.get F.POOL_TARGET_LOAD_FACTOR i, s.pool.tgtCredit.getD i 0)

/-- A partition's bandwidth and bucket. -/
def State.partLane (p : Nat) (s : State) : Nat × Nat := (s.get F.PART_POOL_BW_GBPS p, s.pool.partCredit.getD p 0)

theorem loadFactor_off_ne {t i : Nat} (h : t ≠ i) : F.POOL_TARGET_LOAD_FACTOR.off t 0 ≠ F.POOL_TARGET_LOAD_FACTOR.off i 0 := by
  simp only [Fld.off, F.POOL_TARGET_LOAD_FACTOR]
  omega

theorem nextFactor_lt (f w : Nat) : nextFactor f w < 2 ^ 9 := Nat.lt_of_le_of_lt (Nat.min_le_left _ _) (by decide)

theorem targetLane_refillTarget_other (w : Nat → Nat) (burst us i : Nat) (s : State) (t : Nat) (h : t ≠ i) :
    (s.refillTarget w burst us t).targetLane i = s.targetLane i :=
  Prod.ext (get_put_other s _ _ _ _ _ _ _ (loadFactor_off_ne h)) ((Table.getD_set _ _ _ _ _).trans (if_neg h))

theorem targetLane_refillTarget_same (w : Nat → Nat) (burst us i : Nat) (s : State) :
    (s.refillTarget w burst us i).targetLane i = (nextFactor (s.targetLane i).1 (w i),
      min burst ((s.targetLane i).2 + 500 * nextFactor (s.targetLane i).1 (w i) * us)) :=
  Prod.ext ((get_put s _ _ _ _ (by decide) (by decide) (by decide)).trans (Nat.mod_eq_of_lt (nextFactor_lt _ _)))
    (Table.getD_set_same _ _ _ _)

theorem partLane_refillTarget (w : Nat → Nat) (burst us : Nat) {p : Nat} (hp : p < 128) (s : State) (t : Nat) :
    (s.refillTarget w burst us t).partLane p = s.partLane p :=
  Prod.ext (get_put_other s _ _ _ _ _ _ _ (by simp only [Fld.off, F.POOL_TARGET_LOAD_FACTOR, F.PART_POOL_BW_GBPS]; omega)) rfl

theorem partLane_refillPart_other (burst us p : Nat) (s : State) (t : Nat) (h : t ≠ p) :
    (s.refillPart burst us t).partLane p = s.partLane p := Prod.ext rfl ((Table.getD_set _ _ _ _ _).trans (if_neg h))

theorem partLane_refillPart_same (burst us p : Nat) (s : State) :
    (s.refillPart burst us p).partLane p
      = ((s.partLane p).1, min burst ((s.partLane p).2 + (s.partLane p).1 * 1000 * us)) := Prod.ext rfl (Table.getD_set_same _ _ _ _)

theorem targetLane_refillPart (burst us i : Nat) (s : State) (p : Nat) : (s.refillPart burst us p).targetLane i = s.targetLane i := rfl

theorem targetLane_noteLoad (i : Nat) (s : State) (l : Nat × Nat × Nat × Nat) : (s.noteLoad l).targetLane i = s.targetLane i := by
  unfold State.noteLoad
  split
  · rfl
  · refine Prod.ext ?_ rfl
    exact (get_put_apart _ _ _ _ _ _ _ _ (by decide)).trans (get_put_apart _ _ _ _ _ _ _ _ (by decide))

theorem pool_noteLoad (s : State) (l : Nat × Nat × Nat × Nat) : (s.noteLoad l).pool = s.pool := by
  unfold State.noteLoad
  split <;> rfl

/-- What every step of a fold keeps, the fold keeps. -/
theorem foldl_keeps {σ α β : Type} {step : σ → β → σ} {read : σ → α} (h : ∀ s b, read (step s b) = read s) (l : List β) (s : σ) :
    read (l.foldl step s) = read s := by
  induction l generalizing s with
  | nil => rfl
  | cons b l ih => rw [List.foldl_cons, ih, h]

theorem targetLane_refilled (s : State) (loads : List (Nat × Nat × Nat × Nat)) {i : Nat} (hi : i < 64) :
    (s.refilled loads).targetLane i = (nextFactor (s.targetLane i).1 (worstLoad loads i),
      min s.poolBurst ((s.targetLane i).2
        + 500 * nextFactor (s.targetLane i).1 (worstLoad loads i) * max 1 (s.get F.POOL_BW_CFG_INTERVAL_US))) := by
  unfold State.refilled
  rw [foldl_keeps (targetLane_noteLoad i), foldl_keeps (targetLane_refillPart _ _ i)]
  exact foldl_range_lane (own := fun (x : Nat × Nat) => (nextFactor x.1 (worstLoad loads i),
      min s.poolBurst (x.2 + 500 * nextFactor x.1 (worstLoad loads i) * max 1 (s.get F.POOL_BW_CFG_INTERVAL_US))))
    (targetLane_refillTarget_other _ _ _ i) (targetLane_refillTarget_same _ _ _ i) hi s

theorem partCredit_refilled (s : State) (loads : List (Nat × Nat × Nat × Nat)) {p : Nat} (hp : p < 128) :
    (s.refilled loads).pool.partCredit.getD p 0
      = min s.poolBurst ((s.partLane p).2 + (s.partLane p).1 * 1000 * max 1 (s.get F.POOL_BW_CFG_INTERVAL_US)) := by
  have hpart := foldl_range_lane (own := fun (x : Nat × Nat) =>
      (x.1, min s.poolBurst (x.2 + x.1 * 1000 * max 1 (s.get F.POOL_BW_CFG_INTERVAL_US))))
    (partLane_refillPart_other _ _ p) (partLane_refillPart_same _ _ p) hp
    ((List.range 64).foldl (State.refillTarget (worstLoad loads) s.poolBurst (max 1 (s.get F.POOL_BW_CFG_INTERVAL_US))) s)
  rw [foldl_keeps (partLane_refillTarget _ _ _ hp)] at hpart
  unfold State.refilled
  rw [foldl_keeps (read := State.pool) pool_noteLoad]
  simpa only [State.partLane] using congrArg Prod.snd hpart

theorem effPoolBwRefill_target (s : State) (loads : List (Nat × Nat × Nat × Nat)) {i : Nat} (hi : i < 64) :
    (effPoolBwRefill s loads).targetLane i = (s.refilled loads).targetLane i := by
  rcases effPoolBwRefill_eq s loads with h | h
  · rw [h]
  · rw [h]
    have hoff : F.POOL_THROTTLED_COUNT.off 0 0 ≠ F.POOL_TARGET_LOAD_FACTOR.off i 0 := by
      simp only [Fld.off, F.POOL_TARGET_LOAD_FACTOR, F.POOL_THROTTLED_COUNT]
      omega
    simp only [State.targetLane, get_bump_other _ _ _ _ _ _ _ _ hoff, bump_pool]

theorem effPoolBwRefill_pool (s : State) (loads : List (Nat × Nat × Nat × Nat)) :
    (effPoolBwRefill s loads).pool = (s.refilled loads).pool := by
  rcases effPoolBwRefill_eq s loads with h | h
  · rw [h]
  · rw [h, bump_pool]

/-- R327: the four answers of DevLoad move the factor as the table says. -/
theorem nextFactor_eq (f w : Nat) :
    nextFactor f w = min 256 (max 16 (if w = 3 then f - f / 4 else if w = 2 then f - f / 16 else if w = 0 then f + 8 else f)) := by
  match w with
  | 0 | 1 | 2 | 3 => rfl
  | w + 4 => simp [nextFactor]

/-! ### Stages (R337 to R340) -/

/-- The holds on a view, and on its shadow, given back. -/
def State.unholdView (rid : Nat) (s : State) (v : View) : State :=
  match v.shadow with
  | some sh => (s.unhold rid v.leaf v.copy.cid).unhold rid v.leaf sh.cid
  | none => s.unhold rid v.leaf v.copy.cid

/-- R339: a stage out writes the published chunks as one image where the lease covers it. -/
theorem effPoolStageOut_of_ok {s s2 : State} {rid : Nat} {r : Req} {q : Sequ} {chunks : List Chunk} {leaves : List (Nat × Chunk)}
    {vs : List View} (hr : s.startedReq? rid [0x72] = some r) (hout : r.stageIn = false) (hq : q = s.seq (hSeq r.handle))
    (hlive : q.state = .openS ∨ q.state = .published)
    (hchunks : chunks = (q.chunks.take q.publishedChunks).takeWhile (fun c => !c.acts.noStore)) (hsome : chunks ≠ [])
    (hleaves : leaves = chunks.flatMap (fun c => c.leaves.map (fun i => (i, c))))
    (hshare : q.partition = r.part ∨ ∀ c ∈ chunks, c.acts.noShare = false)
    (hhold : ∀ x ∈ leaves, (s.leaf x.1).state ≠ .evicting ∧ s.canHold x.1 = true)
    (htake : leaves.foldl (fun (a : List View × State) x =>
      let b := a.2.takeView rid x.1 x.2.number (a.2.chunkBad x.2)
      (a.1 ++ [b.1], b.2)) ([], s) = (vs, s2)) (hsound : s2.stageFault vs = none) :
    effPoolStageOut s rid = vs.foldl (State.unholdView rid) (s2.stageWrite rid r q chunks.length vs) := by
  have hstate : (q.state != .openS && q.state != .published) = false := by
    rcases hlive with h | h <;> rw [h] <;> rfl
  have hshared : (q.partition != r.part && chunks.any (fun c => c.acts.noShare)) = false := by
    rcases hshare with h | h
    · simp [h]
    · simpa using fun _ => h
  have hevict : leaves.any (fun x => (s.leaf x.1).state == .evicting) = false := by
    simpa using fun a b hx => (hhold (a, b) hx).1
  have hheld : leaves.any (fun x => !s.canHold x.1) = false := by
    simpa using fun a b hx => (hhold (a, b) hx).2
  subst hq
  simp only [effPoolStageOut, hr, hout, hstate, ← hchunks, ← hleaves, hsome, hshared, hevict, hheld, htake, hsound, Bool.false_eq_true,
    if_false]
  rfl

/-- R339: the snapshot written under a lease that covers it. -/
theorem stageWrite_of_lease {s : State} {rid k : Nat} {r : Req} {q : Sequ} {n : Nat} {vs : List View} {ls : List (Leaf × Copy)}
    {images : List Bytes} {img : Bytes} {l : Lease} {x : Extent} (hls : ls = vs.map (fun v => (s.leaf v.leaf, v.copy)))
    (himages : images = ls.mapIdx (fun e x => s.leafImage (s.stageKey q (s.get F.SEC_STAGE_EPOCH_CURRENT)) e x.1 x.2))
    (himg : img = s.snapMeta q n (s.stageTables ls) (images.map List.length) ++ images.flatten)
    (hlease : s.leaseCovering? r.part r.addr16 img.length = some l) (hext : s.sharedExt? r.part r.addr16 img.length = some (k, x))
    (hup : s.poolUp = true) :
    s.stageWrite rid r q n vs = (s.poolWrite r.part x.target r.addr16 img).complete rid .ok { result0 := img.length } := by
  simp only [State.stageWrite, ← hls, ← himages, ← himg, hlease, hext, hup, Bool.not_true, Bool.false_eq_true, if_false]

/-- R340: a stage in under a lease, into an empty sequence, checks what it has read. -/
theorem effPoolStageIn_of_read {s s2 : State} {rid k : Nat} {r : Req} {q : Sequ} {n : Nat} {l : Lease} {x : Extent} {bs : Bytes}
    (hr : s.startedReq? rid [0x72] = some r) (hin : r.stageIn = true) (hq : q = s.seq (hSeq r.handle)) (hholder : s.isHolder q r.origin = true)
    (hn : n = max 256 (parseSnap (Memory.readBytes s.mem (memKey poolSpace r.addr16) 256)).total)
    (hlease : s.leaseCovering? r.part r.addr16 n = some l) (hext : s.sharedExt? r.part r.addr16 n = some (k, x)) (hempty : q.totalChunks = 0)
    (hopen : q.openTokens = 0) (hup : s.poolUp = true) (hcluster : s.anyCluster = true) (hslice : s.anySlice = true)
    (hshape : s.shapeBad q.partition q.shapeIndex q.shapeEpoch = false) (hread : s.poolRead r.part x.target r.addr16 n = (.ok bs, s2)) :
    effPoolStageIn s rid = s2.stageCheck rid r q (hSeq r.handle) (parseSnap bs) false := by
  subst hq hn
  simp only [effPoolStageIn, hr, hin, hholder, hlease, hext, hempty, hopen, hup, hcluster, hslice, hshape, hread, bne_self_eq_false,
    Bool.not_true, Bool.or_self, Bool.false_eq_true, if_false]

/-- R340: a snapshot that passes every check is taken. -/
theorem stageCheck_of_ok {s : State} {rid qi : Nat} {r : Req} {q : Sequ} {p : Snap} {sh : Bytes} {key epoch : Nat} {payloads : List Bytes}
    (hsh : sh = s.seqShape q) (hepoch : epoch = fieldAt p.bytes 34 1) (hkey : key = s.stageKey q epoch)
    (hshape : (p.bytes.drop 48).take 44 = sh.take 44) (hadapter : fieldAt p.bytes 32 2 = q.adapterId)
    (hknown : epoch = s.get F.SEC_STAGE_EPOCH_CURRENT ∨ epoch = s.get F.SEC_STAGE_EPOCH_PREVIOUS) (hfields : p.fieldsOk sh = true)
    (htag : p.tagOk key = true) (hscope : fieldAt p.bytes 24 8 = s.scopeIdOf q)
    (hpayloads : (List.range (p.chunks * p.layers)).mapM (p.payload key sh) = some payloads)
    (hleaves : ∀ i, i < p.chunks * p.layers → p.leafOk key i = true) :
    s.stageCheck rid r q qi p false = s.stageTake rid r q qi p payloads := by
  have hepochs : (decide (epoch = s.get F.SEC_STAGE_EPOCH_CURRENT) || decide (epoch = s.get F.SEC_STAGE_EPOCH_PREVIOUS)) = true := by
    simpa using hknown
  have hall : (List.range (p.chunks * p.layers)).all (p.leafOk key) = true := by simpa using hleaves
  subst hsh hkey
  simp only [State.stageCheck, ← hepoch, hshape, hadapter, hepochs, hfields, htag, hscope, hpayloads, hall, bne_self_eq_false,
    Bool.not_true, Bool.or_self, Bool.false_eq_true, if_false]

/-- Settles O32: the link and the port by their conditions, the refill lane by lane, the stages by their checks. -/
theorem poolLinksBucketsAndStages : Obligations.PoolLinksBucketsAndStages := by
  refine ⟨?_, ?_, ?_, ?_, ?_, ?_, ?_, ?_⟩
  · intro e cxl31 common width targets s hstate hdie hwidth
    refine ⟨_, (exec_poolLinkTrained ..).trans
      (congrArg _ (effPoolLinkTrained_of_ok (s := s.enter e) cxl31 common targets hstate hdie hwidth)), ?_, ?_,
      rfl, rfl, rfl, rfl, rfl, rfl, rfl⟩
    · rw [get_poolTrained, get_poolLinked_state]
    · rw [get_poolTrained, get_poolLinked_width _ _ _ (by omega)]
  · intro e s s1 hs1 hdown
    subst hs1
    exact (exec_poolRestart ..).trans (congrArg _ (effPoolRestart_of_down (s := s.enter e) hdown))
  · intro e s s1 s2 used inPool into hs1 hup hused hinPool hinto hs2
    subst hs1
    exact ⟨_, (exec_poolPortDown ..).trans (congrArg _ (effPoolPortDown_of_up (beq_of_eq hup) hused hinPool hinto hs2)),
      raise_get_cause_bit _ _ (by decide), rfl⟩
  · intro e target ext s s1 hit hs1 hup hhit hne
    subst hs1
    exact (exec_poolTargetFail ..).trans (congrArg _ (effPoolTargetFail_of_hit hup hhit hne))
  · intro e device addr s s1 hs1 hserves hup
    subst hs1
    exact ⟨(exec_poolEventRecord ..).trans (congrArg _ (effPoolEventRecord_ue device addr hserves hup)),
      (exec_poolEventRecord ..).trans (congrArg _ (effPoolEventRecord_ce device addr hserves hup))⟩
  · intro e loads s
    refine ⟨_, exec_poolBwRefill .., ?_, ?_⟩
    · intro p hp
      rw [effPoolBwRefill_pool]
      exact partCredit_refilled (s.enter e) loads hp
    · intro i f w hi hf hw
      have hlane := (effPoolBwRefill_target (s.enter e) loads hi).trans (targetLane_refilled (s.enter e) loads hi)
      have hfactor : (effPoolBwRefill (s.enter e) loads).get F.POOL_TARGET_LOAD_FACTOR i = nextFactor f w := by
        subst hf hw
        exact congrArg Prod.fst hlane
      refine ⟨hfactor.trans (nextFactor_eq f w), ?_⟩
      rw [hfactor]
      subst hf hw
      exact congrArg Prod.snd hlane
  · intro e rid s s1 s2 r q chunks leaves vs ls images img l k x hs1 hr hout hq hlive hchunks hsome hleaves hshare hhold htake hsound hls
      himages himg hlease hext hup
    subst hs1
    rw [exec_poolStageOut, effPoolStageOut_of_ok hr hout hq hlive hchunks hsome hleaves hshare hhold htake hsound,
      stageWrite_of_lease hls himages himg hlease hext hup]
    rfl
  · intro e rid k s s1 s2 r q n l x bs sh p key epoch payloads hs1 hr hin hq hholder hn hlease hext hempty hopen hup hcluster hslice hshape
      hread hp hsh hepoch hkey hsame hadapter hknown hfields htag hscope hpayloads hall
    subst hs1 hp
    rw [exec_poolStageIn, effPoolStageIn_of_read hr hin hq hholder hn hlease hext hempty hopen hup hcluster hslice hshape hread,
      stageCheck_of_ok hsh hepoch hkey hsame hadapter hknown hfields htag hscope hpayloads hall]

end Sys2Proof.Machine
end

section
/-! PROOF. Queue pairs change their state, and the links of sub-ports change (R345 to R351). -/

namespace Sys2Proof.Machine

open Sys2Proof

theorem exec_qpLoad (e : Env) (k addr : Nat) (s : State) :
    exec (.qpLoad e k addr) s = .next (if k < 32768 then effQpLoad (s.enter e) k addr else s.enter e) := rfl

theorem exec_qpError (e : Env) (k : Nat) (s : State) : exec (.qpError e k) s = .next (effQpError (s.enter e) k) := rfl

theorem exec_qpReset (e : Env) (k : Nat) (s : State) : exec (.qpReset e k) s = .next (effQpReset (s.enter e) k) := rfl

theorem exec_qpDrainDone (e : Env) (k : Nat) (s : State) : exec (.qpDrainDone e k) s = .next (effQpDrainDone (s.enter e) k) := rfl

theorem exec_subportLinkChange (e : Env) (port sub : Nat) (up : Bool) (s : State) :
    exec (.subportLinkChange e port sub up) s = .next (effSubportLinkChange (s.enter e) port sub up) := rfl

section
variable {s : State} {k : Nat}

section
variable {addr : Nat} {b : Bytes} {q : Qp} (hread : s.busRead (memKey 0 (addr / 64 * 64)) 64 = .ok b)
  (hq : q = parseQp b (modeRate (s.get F.NET_PORT_CFG_MODE (sfield b 1 1 0))))
include hread hq

/-- R350: LOAD of a valid context takes a pair from RESET to RTS. -/
theorem effQpLoad_of_ok (hstate : (s.qp k).state = .reset) (hpart : s.partActive q.partition = true)
    (hcount : s.qpCount q.partition < s.get F.PART_NET_CFG_MAX_QP q.partition) (hctx : s.qpCtxOk b = true)
    (hversion : q.qwpV1 = true ∨ q.qwpV2 = true) :
    effQpLoad s k addr = s.setQp k { q with cmdErr := (s.qp k).cmdErr, raisedAt := s.time } := by
  have hversions : (!q.qwpV1 && !q.qwpV2) = false := by rcases hversion with h | h <;> simp [h]
  simp only [effQpLoad, hread, ← hq, hstate, hpart, Nat.not_le.mpr hcount, hctx, hversions, bne_self_eq_false, decide_false, Bool.not_true,
    Bool.or_self, Bool.false_eq_true, if_false]

end

/-- R350: LOAD of a pair that is not in RESET is refused. -/
theorem effQpLoad_of_busy {addr : Nat} {b : Bytes} (hread : s.busRead (memKey 0 (addr / 64 * 64)) 64 = .ok b)
    (hstate : (s.qp k).state ≠ .reset) :
    effQpLoad s k addr = s.setQp k { s.qp k with cmdErr := true } := by
  have hbusy : ((s.qp k).state != .reset) = true := by simpa using hstate
  simp only [effQpLoad, hread, hbusy, Bool.true_or, if_true]

theorem effQpError_of_rts (hstate : (s.qp k).state = .rts) : effQpError s k = s.qpStop k 7 := if_pos hstate

theorem effQpReset_of_rts (hstate : (s.qp k).state = .rts) :
    effQpReset s k = (s.qpStop k 7).setQp k { (s.qpStop k 7).qp k with state := .draining } := by
  simp only [effQpReset, hstate]

theorem effQpReset_of_error (hstate : (s.qp k).state = .error) : effQpReset s k = s.setQp k { s.qp k with state := .draining } := by
  simp only [effQpReset, hstate]

/-- R350: a pair whose requests have ended is RESET again. -/
theorem effQpDrainDone_of_idle (hstate : (s.qp k).state = .draining) (hidle : ∀ x ∈ s.reqs, x.2.ofQp k = false) :
    effQpDrainDone s k = s.setQp k { cmdErr := (s.qp k).cmdErr } := by
  have hnone : s.reqs.any (fun x => x.2.ofQp k) = false := by simpa using fun a b hx => hidle (a, b) hx
  simp only [effQpDrainDone, hstate, hnone, decide_true, Bool.not_false, Bool.and_self, if_true]

end

section
variable {s : State} {port sub : Nat} (hport : port < 4) (hsub : sub < modeSubs (s.get F.NET_PORT_CFG_MODE port))
include hport hsub

/-- R345: a sub-port loses its link. -/
theorem effSubportLinkChange_down (hup : bit (s.get F.NET_PORT_STATUS_LINK_UP port) sub = true) :
    effSubportLinkChange s port sub false
      = (s.put F.NET_PORT_STATUS_LINK_UP (setBits (s.get F.NET_PORT_STATUS_LINK_UP port) sub sub 0) port).raise gNetwork port := by
  simp only [effSubportLinkChange, Nat.not_le.mpr hport, Nat.not_le.mpr hsub, hup, decide_false, Bool.true_eq_false,
    Bool.false_and, Bool.or_self, Bool.false_eq_true, if_false]
  rfl

/-- R345: a sub-port of an enabled port gains its link, with the port's mode. -/
theorem effSubportLinkChange_up (hdown : bit (s.get F.NET_PORT_STATUS_LINK_UP port) sub = false) (hon : s.on F.NET_PORT_CFG_ENABLE port = true)
    (hdie : s.dieWorks (port / 2) = true) (hpd : s.pdOn (84 + port) = true) :
    effSubportLinkChange s port sub true
      = ((s.put F.NET_PORT_STATUS_LINK_UP (setBits (s.get F.NET_PORT_STATUS_LINK_UP port) sub sub 1) port).put F.NET_PORT_STATUS_MODE
          ((s.put F.NET_PORT_STATUS_LINK_UP (setBits (s.get F.NET_PORT_STATUS_LINK_UP port) sub sub 1) port).get F.NET_PORT_CFG_MODE port)
          port).raise gNetwork port := by
  simp only [effSubportLinkChange, Nat.not_le.mpr hport, Nat.not_le.mpr hsub, hdown, hon, hdie, hpd, decide_false,
    Bool.false_eq_true, Bool.not_true, Bool.true_and, Bool.or_self, if_false, if_true]
  rfl

end

/-- Settles O33: each command of a queue pair by its state, and a link's change by its direction. -/
theorem queuePairsChangeState : Obligations.QueuePairsChangeState := by
  refine ⟨?_, ?_, ?_⟩
  · intro e k addr s s1 b q hs1 hk hread hq
    subst hs1
    rw [exec_qpLoad, if_pos hk]
    refine ⟨fun hstate hpart hcount hctx hversion => ⟨congrArg _ (effQpLoad_of_ok hread hq hstate hpart hcount hctx hversion), ?_⟩,
      fun hstate => congrArg _ (effQpLoad_of_busy hread hstate)⟩
    rw [hq]
    rfl
  · intro e k s s1 hs1
    subst hs1
    rw [exec_qpError, exec_qpReset, exec_qpDrainDone]
    exact ⟨fun hstate => ⟨congrArg _ (effQpError_of_rts hstate), congrArg _ (effQpReset_of_rts hstate)⟩,
      fun hstate => congrArg _ (effQpReset_of_error hstate), fun hstate hidle => congrArg _ (effQpDrainDone_of_idle hstate hidle)⟩
  · intro e port sub s s1 hs1 hport hsub
    subst hs1
    rw [exec_subportLinkChange, exec_subportLinkChange]
    exact ⟨fun hup => congrArg _ (effSubportLinkChange_down hport hsub hup),
      fun hdown hon hdie hpd => ⟨_, rfl, congrArg _ (effSubportLinkChange_up hport hsub hdown hon hdie hpd)⟩⟩

end Sys2Proof.Machine
end

section
/-! PROOF. Memory regions, and inbound RDMA and QWP packets (R348, R352 to R361). -/

namespace Sys2Proof.Machine

open Sys2Proof

theorem exec_mrRegister (e : Env) (rid : Nat) (s : State) : exec (.mrRegister e rid) s = .next (effMrRegister (s.enter e) rid) := rfl

theorem exec_mrRevoke (e : Env) (rid : Nat) (s : State) : exec (.mrRevoke e rid) s = .next (effMrRevoke (s.enter e) rid) := rfl

theorem exec_rdmaWriteInbound (e : Env) (k psn rkey addr n : Nat) (data : Bytes) (first last : Bool) (len ecn : Nat) (s : State) :
    exec (.rdmaWriteInbound e k psn rkey addr n data first last len ecn) s
      = .next (effRdmaWriteInbound (s.enter e) k psn rkey addr n data first last len ecn) := rfl

theorem exec_rdmaReadInbound (e : Env) (k psn rkey addr n len ecn : Nat) (s : State) :
    exec (.rdmaReadInbound e k psn rkey addr n len ecn) s = .next (effRdmaReadInbound (s.enter e) k psn rkey addr n len ecn) := rfl

theorem exec_duplicatePacket (e : Env) (k psn kind rkey addr n : Nat) (s : State) :
    exec (.duplicatePacket e k psn kind rkey addr n) s = .next (effDuplicatePacket (s.enter e) k psn kind rkey addr n) := rfl

theorem exec_pkeyDrop (e : Env) (k pkey len ecn : Nat) (s : State) :
    exec (.pkeyDrop e k pkey len ecn) s = .next (effPkeyDrop (s.enter e) k pkey len ecn) := rfl

theorem exec_qwpRequest (e : Env) (k psn : Nat) (m : Bytes) (lens : List Nat) (ecn : Nat) (s : State) :
    exec (.qwpRequest e k psn m lens ecn) s = .next (effQwpRequest (s.enter e) k psn m lens ecn) := rfl

/-- A started request is in the table of requests. -/
theorem req?_of_startedReq? {s : State} {rid : Nat} {codes : List Nat} {r : Req} (h : s.startedReq? rid codes = some r) :
    s.req? rid = some r := by
  unfold State.startedReq? at h
  cases hreq : s.req? rid with
  | none => simp [hreq] at h
  | some x =>
    rw [hreq] at h
    exact (Option.ite_none_right_eq_some.mp h).2

/-! ### Memory regions -/

/-- R352: a region takes a free index and the next key. -/
theorem effMrRegister_of_ok {s s2 : State} {rid k : Nat} {r : Req} {m : Mr} (hr : s.startedReq? rid [0x78] = some r) (hlen : 0 < r.addr24)
    (hmax : r.addr24 ≤ 2 ^ 40) (htop : r.addr16 + r.addr24 ≤ 2 ^ 64) (haccess : r.mrAccess ≠ 0)
    (hheld : s.mrs.countP (fun x => x.2.state != .free && x.2.partition == r.part) < s.get F.PART_NET_MR_MAX_MR r.part)
    (hall : s.mrs.countP (fun x => x.2.state != .free) < 2 ^ 20)
    (hpick : s.pick (fun k => (s.mrs.getD k {}).state != .free) (2 ^ 20) = (some k, s2))
    (hm : m = { state := .admits, key := (s2.mrs.getD k {}).key + 1, partition := r.part, base := r.addr16, length := r.addr24,
                access := r.mrAccess }) :
    effMrRegister s rid = ({ s2 with mrs := s2.mrs.set k m }).complete rid .ok { result0 := m.key.toNat + k * 256 } := by
  subst hm
  simp only [effMrRegister, hr, Nat.ne_of_gt hlen, Nat.not_lt.mpr hmax, Nat.not_lt.mpr htop, haccess, Nat.not_le.mpr hheld,
    Nat.not_le.mpr hall, hpick, decide_false, Bool.or_self, Bool.false_eq_true, if_false]

/-- R352: a region that is revoked drains, and is freed once no admitted work names it. -/
theorem effMrRevoke_of_named {s s2 : State} {rid : Nat} {r : Req} {m : Mr} (hr : s.startedReq? rid [0x79] = some r)
    (hfirst : ∀ k, r.wait ≠ .revoke k) (hget : s.mrs.get? (r.rkey / 256) = some m) (hlive : m.state ≠ .free)
    (hkey : m.key = BitVec.ofNat 8 r.rkey) (hpart : m.partition = r.part)
    (hs2 : s2 = ({ s with mrs := s.mrs.set (r.rkey / 256) { m with state := .drain } }).wait rid (.revoke (r.rkey / 256))) :
    effMrRevoke s rid = if s2.mrBusy (r.rkey / 256) = true then s2 else s2.freeMr (r.rkey / 256) := by
  subst hs2
  unfold effMrRevoke
  rw [req?_of_startedReq? hr]
  dsimp only
  split
  next k hwait => exact absurd hwait (hfirst k)
  next =>
    simp only [hr, hget, hlive, hkey, hpart, bne_self_eq_false, decide_false, Bool.or_self, Bool.false_eq_true, if_false]

/-! ### Inbound RDMA -/

section
variable {s s2 s3 : State} {k psn rkey addr n len ecn ecn' : Nat} {q : Qp} (hq : q = s.qp k) (hrts : q.state = .rts)
  (hmeasure : s.measure q.partition len ecn = (true, ecn', s2)) (hs3 : s3 = s2.congested k (ecn' == 3))
include hq hrts hmeasure hs3

/-- R355: a WRITE packet in sequence is executed. -/
theorem effRdmaWriteInbound_of_next (data : Bytes) (first last : Bool) (hpsn : psn = q.expectPsn) :
    effRdmaWriteInbound s k psn rkey addr n data first last len ecn = s3.writePacket k psn rkey addr n data first last := by
  subst hq hs3
  simp only [effRdmaWriteInbound, hrts, hmeasure, if_pos hpsn, bne_self_eq_false, Bool.false_eq_true, if_false]

/-- R357: a WRITE packet ahead of its turn meets a NAK of sequence error. -/
theorem effRdmaWriteInbound_of_ahead (data : Bytes) (first last : Bool) (hpsn : psn ≠ q.expectPsn) (hahead : q.behind psn = false) :
    effRdmaWriteInbound s k psn rkey addr n data first last len ecn = s3.qpControl k 1 q.expectPsn 0 := by
  subst hq hs3
  simp only [effRdmaWriteInbound, hrts, hmeasure, if_neg hpsn, hahead, bne_self_eq_false, Bool.false_eq_true, if_false]

/-- R353: a READ in sequence is answered where its region admits it, and meets a NAK of access where it does not. -/
theorem effRdmaReadInbound_of_next (hpsn : psn = q.expectPsn) (hwrite : q.inWrite = none) (hn : n ≤ 2 ^ 31) :
    effRdmaReadInbound s k psn rkey addr n len ecn
      = if !s3.mrAdmits k rkey addr n 0 then s3.accessNak k psn (q.packets n) else s3.answerRead k psn addr n true := by
  subst hq hs3
  simp only [effRdmaReadInbound, hrts, hmeasure, if_pos hpsn, hwrite, Nat.not_lt.mpr hn, Option.isSome_none, decide_false, Bool.or_self,
    bne_self_eq_false, Bool.false_eq_true, if_false]

theorem effRdmaReadInbound_of_ahead (hpsn : psn ≠ q.expectPsn) (hahead : q.behind psn = false) :
    effRdmaReadInbound s k psn rkey addr n len ecn = s3.qpControl k 1 q.expectPsn 0 := by
  subst hq hs3
  simp only [effRdmaReadInbound, hrts, hmeasure, if_neg hpsn, hahead, bne_self_eq_false, Bool.false_eq_true, if_false]

end

/-- R357: a packet in the duplicate region is not executed as a new one. -/
theorem effDuplicatePacket_of_behind {s : State} {k psn : Nat} (kind rkey addr n : Nat) (hrts : (s.qp k).state = .rts)
    (hbehind : (s.qp k).behind psn = true) :
    effDuplicatePacket s k psn kind rkey addr n = s.duplicate k psn kind rkey addr n := by
  simp only [effDuplicatePacket, hrts, hbehind, bne_self_eq_false, Bool.not_true, Bool.or_self, Bool.false_eq_true, if_false]

theorem duplicate_of_read {s : State} {k psn kind rkey addr n : Nat} (hkind : 2 ≤ kind) (hadmits : s.mrAdmits k rkey addr n 0 = true) :
    s.duplicate k psn kind rkey addr n = s.answerRead k psn addr n false := by
  match kind, hkind with
  | _ + 2, _ => exact if_pos hadmits

/-- R348: a request packet of another P_Key that passes the meter is dropped, counted and reported. -/
theorem effPkeyDrop_of_other {s s2 : State} {k pkey len ecn ecn' : Nat} (hrts : (s.qp k).state = .rts)
    (hpkey : pkey ≠ s.pkeyOf (s.qp k).partition) (hmeasure : s.measure (s.qp k).partition len ecn = (true, ecn', s2)) :
    effPkeyDrop s k pkey len ecn = (s2.bump F.NET_PKEY_DROPS_COUNT).rdmaAsync k 2 := by
  simp only [effPkeyDrop, hrts, hpkey, hmeasure, bne_self_eq_false, decide_false, Bool.or_self, Bool.false_eq_true, if_false]

/-! ### QWP requests -/

section
variable {s s2 s3 : State} {k psn ecn : Nat} {m : Bytes} {lens : List Nat} {ce : Bool} {q : Qp} (hq : q = s.qp k) (hrts : q.state = .rts)
  (hmeasure : s.measureAll q.partition ecn lens = (true, ce, s2)) (hs3 : s3 = s2.congested k ce) (hpsn : psn = q.expectPsn)
  (hwrite : q.inWrite = none) (hlen : m.length ≤ 4176)
include hq hrts hmeasure hs3 hpsn hwrite hlen

/-- R358: a QWP request in sequence takes a slot where one is free, and meets an RNR NAK where none is. -/
theorem effQwpRequest_of_next : effQwpRequest s k psn m lens ecn
    = if !s3.serves || q.admitted ≥ q.rqDepth || s3.qwpAdmitted ≥ 65536 then
        (s3.bump F.NET_RNR_NAKS_COUNT).qpControl k 2 psn q.minRnrTimer
      else s3.qwpAdmit k psn m := by
  subst hq hs3 hpsn
  simp only [effQwpRequest, hrts, hmeasure, hwrite, Nat.not_lt.mpr hlen, Option.isSome_none, decide_false, Bool.or_self,
    bne_self_eq_false, Bool.false_eq_true, if_false]

theorem effQwpRequest_of_slot (hserves : s3.serves = true) (hslot : q.admitted < q.rqDepth) (hdevice : s3.qwpAdmitted < 65536) :
    effQwpRequest s k psn m lens ecn = s3.qwpAdmit k psn m := by
  rw [effQwpRequest_of_next hq hrts hmeasure hs3 hpsn hwrite hlen]
  exact if_neg (by simp [hserves, hslot, hdevice])

theorem effQwpRequest_of_full (hfull : q.rqDepth ≤ q.admitted) :
    effQwpRequest s k psn m lens ecn = (s3.bump F.NET_RNR_NAKS_COUNT).qpControl k 2 psn q.minRnrTimer := by
  rw [effQwpRequest_of_next hq hrts hmeasure hs3 hpsn hwrite hlen]
  exact if_pos (by simp [hfull])

end

/-- Settles O34: regions by their conditions, packets by their place in the sequence. -/
theorem regionsAndInboundPackets : Obligations.RegionsAndInboundPackets := by
  refine ⟨?_, ?_, ?_, ?_, ?_, ?_⟩
  · intro e rid k s s1 s2 r m hs1 hr hlen hmax htop haccess hheld hall hpick hm
    subst hs1
    exact (exec_mrRegister ..).trans (congrArg _ (effMrRegister_of_ok hr hlen hmax htop haccess hheld hall hpick hm))
  · intro e rid s s1 s2 r m hs1 hr hfirst hget hlive hkey hpart hs2
    subst hs1
    exact (exec_mrRevoke ..).trans (congrArg _ (effMrRevoke_of_named hr hfirst hget hlive hkey hpart hs2))
  · intro e k psn rkey addr n len ecn ecn' data first last s s1 s2 s3 q hs1 hq hrts hmeasure hs3
    subst hs1
    rw [exec_rdmaWriteInbound, exec_rdmaReadInbound]
    refine ⟨?_, ?_, ?_, ?_⟩
    · exact fun hpsn => congrArg _ (effRdmaWriteInbound_of_next hq hrts hmeasure hs3 data first last hpsn)
    · intro hpsn hwrite hn hadmits
      rw [effRdmaReadInbound_of_next hq hrts hmeasure hs3 hpsn hwrite hn, if_neg (by simp [hadmits])]
    · intro hpsn hwrite hn hadmits
      rw [effRdmaReadInbound_of_next hq hrts hmeasure hs3 hpsn hwrite hn, if_pos (by simp [hadmits])]
    · exact fun hpsn hahead => ⟨congrArg _ (effRdmaWriteInbound_of_ahead hq hrts hmeasure hs3 data first last hpsn hahead),
        congrArg _ (effRdmaReadInbound_of_ahead hq hrts hmeasure hs3 hpsn hahead)⟩
  · intro e k psn kind rkey addr n s s1 hs1 hrts hbehind
    subst hs1
    rw [exec_duplicatePacket, effDuplicatePacket_of_behind kind rkey addr n hrts hbehind]
    refine ⟨?_, ?_, ?_⟩
    · rintro rfl
      rfl
    · rintro rfl
      rfl
    · exact fun hkind hadmits => congrArg _ (duplicate_of_read hkind hadmits)
  · intro e k pkey len ecn ecn' s s1 s2 hs1 hrts hpkey hmeasure
    subst hs1
    exact (exec_pkeyDrop ..).trans (congrArg _ (effPkeyDrop_of_other hrts hpkey hmeasure))
  · intro e k psn ecn m lens ce s s1 s2 s3 q hs1 hq hrts hmeasure hs3 hpsn hwrite hlen
    subst hs1
    rw [exec_qwpRequest]
    exact ⟨fun hserves hslot hdevice =>
        congrArg _ (effQwpRequest_of_slot hq hrts hmeasure hs3 hpsn hwrite hlen hserves hslot hdevice),
      fun hfull => congrArg _ (effQwpRequest_of_full hq hrts hmeasure hs3 hpsn hwrite hlen hfull)⟩

end Sys2Proof.Machine
end

section
/-! PROOF. Acknowledgements, retries and rates of queue pairs (R347, R348, R354, R356). -/

namespace Sys2Proof.Machine

open Sys2Proof

theorem exec_ackReceived (e : Env) (k psn ecn : Nat) (s : State) :
    exec (.ackReceived e k psn ecn) s = .next (effAckReceived (s.enter e) k psn ecn) := rfl

theorem exec_nakReceived (e : Env) (k psn : Nat) (s : State) : exec (.nakReceived e k psn) s = .next (effNakReceived (s.enter e) k psn) := rfl

theorem exec_ackTimeout (e : Env) (k : Nat) (s : State) : exec (.ackTimeout e k) s = .next (effAckTimeout (s.enter e) k) := rfl

theorem exec_rnrNakReceived (e : Env) (k psn : Nat) (s : State) :
    exec (.rnrNakReceived e k psn) s = .next (effRnrNakReceived (s.enter e) k psn) := rfl

theorem exec_cnpReceived (e : Env) (k : Nat) (s : State) : exec (.cnpReceived e k) s = .next (effCnpReceived (s.enter e) k) := rfl

theorem exec_rateIncrease (e : Env) (k : Nat) (s : State) : exec (.rateIncrease e k) s = .next (effRateIncrease (s.enter e) k) := rfl

theorem exec_ackCoalesceTimer (e : Env) (k : Nat) (s : State) :
    exec (.ackCoalesceTimer e k) s = .next (effAckCoalesceTimer (s.enter e) k) := rfl

theorem effAckReceived_of_rts {s : State} {k : Nat} (psn ecn : Nat) (hrts : (s.qp k).state = .rts) :
    effAckReceived s k psn ecn = (s.congested k (ecn == 3)).acked k psn := if_neg (by simp [hrts])

theorem effNakReceived_of_rts {s : State} {k : Nat} (psn : Nat) (hrts : (s.qp k).state = .rts) :
    effNakReceived s k psn = (s.acked k ((psn + 2 ^ 24 - 1) % 2 ^ 24)).qpStop k 5 := if_neg (by simp [hrts])

/-- R354: a local ACK timeout sends again while retries are left, and stops the pair after. -/
theorem effAckTimeout_of_due {s : State} {k : Nat} {q : Qp} (hq : q = s.qp k) (hrts : q.state = .rts) (hout : q.outstanding ≠ [])
    (htimeout : q.timeout ≠ 0) (hdue : q.sentAt + 4096 * 2 ^ q.timeout ≤ s.time) :
    effAckTimeout s k
      = if q.retriesLeft = 0 then s.qpStop k 4 else (s.setQp k { q with retriesLeft := q.retriesLeft - 1 }).resend k := by
  subst hq
  simp only [effAckTimeout, hrts, hout, htimeout, Qp.ackTimeout, Nat.not_lt.mpr hdue, bne_self_eq_false, decide_false, Bool.or_self,
    Bool.false_eq_true, if_false]

/-- R354: an RNR NAK sends again under rnr_retry, and stops the pair when it is used up. -/
theorem effRnrNakReceived_of_rts {s s2 : State} {k psn : Nat} {q : Qp} (hrts : (s.qp k).state = .rts)
    (hs2 : s2 = s.acked k ((psn + 2 ^ 24 - 1) % 2 ^ 24)) (hq : q = s2.qp k) (hout : q.outstanding ≠ []) :
    effRnrNakReceived s k psn
      = if q.rnrRetry = 7 then s2.resend k else if q.rnrLeft = 0 then s2.qpStop k 4
        else (s2.setQp k { q with rnrLeft := q.rnrLeft - 1 }).resend k := by
  subst hs2 hq
  simp only [effRnrNakReceived, hrts, hout, bne_self_eq_false, Bool.false_eq_true, if_false]

section
variable {s : State} {k : Nat} {q : Qp} (hq : q = s.qp k) (hrts : q.state = .rts)
include hq hrts

/-- R356: a CNP cuts the rate where 50 µs have passed since the last cut. -/
theorem effCnpReceived_of_due (hdue : ∀ t, q.cutAt = some t → t + 50000 ≤ s.time) :
    effCnpReceived s k = s.setQp k { q with
      cnpSeen := some s.time, rate := q.rate - q.rate / 2 ^ s.get F.NET_CC_CFG_DEC_LOG2, cutAt := some s.time } := by
  subst hq
  cases hcut : (s.qp k).cutAt with
  | none => simp only [effCnpReceived, hrts, hcut, bne_self_eq_false, Bool.false_eq_true, if_false, if_true]
  | some t =>
    simp only [effCnpReceived, hrts, hcut, ge_iff_le, hdue t hcut, decide_true, bne_self_eq_false, Bool.false_eq_true, if_false, if_true]

/-- R356: a CNP within 50 µs of a cut is only noted. -/
theorem effCnpReceived_of_early {t : Nat} (hcut : q.cutAt = some t) (hearly : s.time < t + 50000) :
    effCnpReceived s k = s.setQp k { q with cnpSeen := some s.time } := by
  subst hq
  simp only [effCnpReceived, hrts, hcut, Nat.not_le.mpr hearly, decide_false, bne_self_eq_false, Bool.false_eq_true, if_false]

/-- R356: 55 µs without a CNP raise the rate, up to the line rate. -/
theorem effRateIncrease_of_due (hdue : max q.raisedAt (q.cnpSeen.getD 0) + 55000 ≤ s.time) :
    effRateIncrease s k = s.setQp k { q with
      rate := min (modeRate (s.get F.NET_PORT_CFG_MODE q.port)) (q.rate + max 1 (s.get F.NET_CC_CFG_AI_MBS)), raisedAt := s.time } := by
  subst hq
  simp only [effRateIncrease, hrts, Nat.not_lt.mpr hdue, bne_self_eq_false, decide_false, Bool.or_self, Bool.false_eq_true, if_false]

/-- R347: packets are acknowledged 2 µs after the oldest of them. -/
theorem effAckCoalesceTimer_of_due (hsome : q.unacked ≠ 0) (hdue : q.oldestUnacked + 2000 ≤ s.time) :
    effAckCoalesceTimer s k = (s.setQp k { q with unacked := 0 }).qpControl k 0 q.lastPsn 0 := by
  subst hq
  simp only [effAckCoalesceTimer, hrts, hsome, Nat.not_lt.mpr hdue, bne_self_eq_false, decide_false, Bool.or_self, Bool.false_eq_true,
    if_false]

end

/-- Settles O35: each packet and timer of a running pair by its condition. -/
theorem acknowledgesRetriesAndRates : Obligations.AcknowledgesRetriesAndRates := by
  refine ⟨?_, ?_, ?_, ?_, ?_, ?_⟩
  · intro e k psn ecn s s1 hs1 hrts
    subst hs1
    exact ⟨(exec_ackReceived ..).trans (congrArg _ (effAckReceived_of_rts psn ecn hrts)),
      (exec_nakReceived ..).trans (congrArg _ (effNakReceived_of_rts psn hrts))⟩
  · intro e k s s1 q hs1 hq hrts hout htimeout hdue
    subst hs1
    rw [exec_ackTimeout, effAckTimeout_of_due hq hrts hout htimeout hdue]
    exact ⟨fun hnone => congrArg _ (if_pos hnone), fun hsome => congrArg _ (if_neg hsome)⟩
  · intro e k psn s s1 s2 q hs1 hrts hs2 hq hout
    subst hs1
    rw [exec_rnrNakReceived, effRnrNakReceived_of_rts hrts hs2 hq hout]
    exact ⟨fun hfree => congrArg _ (if_pos hfree), fun hcounted hnone => congrArg _ ((if_neg hcounted).trans (if_pos hnone)),
      fun hcounted hsome => congrArg _ ((if_neg hcounted).trans (if_neg hsome))⟩
  · intro e k s s1 q hs1 hq hrts
    subst hs1
    rw [exec_cnpReceived]
    refine ⟨?_, fun t hcut hearly => congrArg _ (effCnpReceived_of_early hq hrts hcut hearly)⟩
    intro q' hdue hq'
    subst hq'
    exact congrArg _ (effCnpReceived_of_due hq hrts hdue)
  · intro e k s s1 q q' hs1 hq hrts hdue hq'
    subst hs1 hq'
    exact (exec_rateIncrease ..).trans (congrArg _ (effRateIncrease_of_due hq hrts hdue))
  · intro e k s s1 q hs1 hq hrts hsome hdue
    subst hs1
    exact (exec_ackCoalesceTimer ..).trans (congrArg _ (effAckCoalesceTimer_of_due hq hrts hsome hdue))

end Sys2Proof.Machine
end

section
/-! PROOF. Egress queues, shapers, samples, pauses and meters (R366 to R376). -/

namespace Sys2Proof.Machine

open Sys2Proof

theorem exec_egressFrameStart (e : Env) (port : Nat) (s : State) :
    exec (.egressFrameStart e port) s = .next (effEgressFrameStart (s.enter e) port) := rfl

theorem exec_shaperRefill (e : Env) (port : Nat) (s : State) : exec (.shaperRefill e port) s = .next (effShaperRefill (s.enter e) port) := rfl

theorem exec_queueDepthSample (e : Env) (port : Nat) (s : State) :
    exec (.queueDepthSample e port) s = .next (effQueueDepthSample (s.enter e) port) := rfl

theorem exec_trafficStatClear (e : Env) (port queue : Nat) (all : Bool) (s : State) :
    exec (.trafficStatClear e port queue all) s = .next (effTrafficStatClear (s.enter e) port queue all) := rfl

theorem exec_partTrafficQWrite (e : Env) (p val : Nat) (s : State) :
    exec (.partTrafficQWrite e p val) s = .next (if p < 128 then effPartTrafficQWrite (s.enter e) p val else s.enter e) := rfl

theorem exec_pfcPause (e : Env) (port prio : Nat) (paused : Bool) (s : State) :
    exec (.pfcPause e port prio paused) s = .next (effPfcPause (s.enter e) port prio paused) := rfl

theorem exec_meterRefill (e : Env) (p : Nat) (s : State) :
    exec (.meterRefill e p) s = .next (if p < 128 then effMeterRefill (s.enter e) p else s.enter e) := rfl

/-! ### Frames (R369) -/

theorem txq_setTxq_same (s : State) (e k : Nat) (q : TxQ) : (s.setTxq e k q).txq e k = q := Table.getD_set_same _ _ _ _

/-- A queue after its first frame has started: the frame paid for, and timed where it is the one in 2^DELAY_LOG2 (R370, R376). -/
def State.queueStarted (s : State) (e : Nat) (q : TxQ) (f : Frame) (rest : List Frame) : TxQ :=
  let timed := (q.timed + 1) % 2 ^ s.get F.TRAFFIC_PORT_CFG_DELAY_LOG2 e == 0
  let d := min 65535 ((s.time - f.entered) / 64)
  { q with
    frames := rest, timed := q.timed + 1
    credit := if q.rate = 0 then q.credit else q.credit - 256 * (countedLen (s.txport e) f.len : Int)
    delayLast := if timed then d else q.delayLast
    delayMax := if timed then max d q.delayMax else q.delayMax }

section
variable {s : State} {e k : Nat} {f : Frame} {rest : List Frame} (hframes : (s.txq e k).frames = f :: rest)
include hframes

/-- R358: a frame that is the response of a QWP request frees its slot. -/
theorem startFrame_of_slot {qp : Nat} (hslot : f.slot = true) (hqp : f.qp = some qp) :
    s.startFrame e k = ((s.setTxq e k (s.queueStarted e (s.txq e k) f rest)).send f.what).freeSlots qp 1 := by
  simp only [State.startFrame, hframes, hslot, hqp]
  rfl

/-- R369: any other frame leaves its queue and is sent. -/
theorem startFrame_of_noSlot (hkeep : f.slot = false ∨ f.qp = none) :
    s.startFrame e k = (s.setTxq e k (s.queueStarted e (s.txq e k) f rest)).send f.what := by
  simp only [State.startFrame, hframes]
  rcases hkeep with h | h
  · rw [h]
    rfl
  · rw [h]
    cases f.slot <;> rfl

end

theorem effEgressFrameStart_of_pick {s s2 : State} {port k : Nat} (hup : s.portUp port = true) (hpick : s.pickQueue port = (some k, s2)) :
    effEgressFrameStart s port = s2.startFrame port k := by
  simp only [effEgressFrameStart, hup, hpick, Bool.not_true, Bool.false_eq_true, if_false]

/-- Everything that the start of a frame may change: what was sent, the queue, and the slots of queue pairs. -/
theorem startFrame_of_head {s : State} {e k : Nat} {f : Frame} {rest : List Frame} (hframes : (s.txq e k).frames = f :: rest) :
    ((s.startFrame e k).txq e k).frames = rest ∧ (s.startFrame e k).out = (s.send f.what).out
      ∧ { s.startFrame e k with out := s.out, txqs := s.txqs, qps := s.qps, qwpAdmitted := s.qwpAdmitted } = s
      ∧ (f.slot = false → (s.startFrame e k).qps = s.qps ∧ (s.startFrame e k).qwpAdmitted = s.qwpAdmitted)
      ∧ ∀ qp, f.slot = true → f.qp = some qp →
        (s.startFrame e k).qps = (s.freeSlots qp 1).qps ∧ (s.startFrame e k).qwpAdmitted = s.qwpAdmitted - 1 := by
  by_cases hkeep : f.slot = false ∨ f.qp = none
  · rw [startFrame_of_noSlot hframes hkeep]
    refine ⟨congrArg TxQ.frames (txq_setTxq_same s e k _), rfl, rfl, fun _ => ⟨rfl, rfl⟩, fun qp hslot hqp => ?_⟩
    rcases hkeep with h | h
    · exact Bool.noConfusion (hslot.symm.trans h)
    · exact absurd (hqp.symm.trans h) (Option.some_ne_none qp)
  · obtain ⟨hslot, hqp⟩ := not_or.mp hkeep
    obtain ⟨qp, hqp⟩ := Option.ne_none_iff_exists'.mp hqp
    rw [startFrame_of_slot hframes (Bool.of_not_eq_false hslot) hqp]
    refine ⟨congrArg TxQ.frames (txq_setTxq_same s e k _), rfl, rfl, fun h => absurd h hslot, fun qp' _ hqp' => ?_⟩
    obtain rfl := Option.some.inj (hqp.symm.trans hqp')
    exact ⟨rfl, rfl⟩

/-! ### Shapers, samples and meters (R371, R374, R376) -/

theorem effShaperRefill_of_port {s : State} {port : Nat} (hport : port ≤ 18) :
    effShaperRefill s port = { s.setTxport port { s.txport port with
        interval := max 1 (s.get F.TRAFFIC_PORT_CFG_INTERVAL port), overhead := s.get F.TRAFFIC_PORT_CFG_OVERHEAD port } with
      txqs := s.txqs.map (fun (x : Nat × TxQ) => if x.1 / 64 = port then (x.1, x.2.refill { s.txport port with
        interval := max 1 (s.get F.TRAFFIC_PORT_CFG_INTERVAL port), overhead := s.get F.TRAFFIC_PORT_CFG_OVERHEAD port }) else x) } :=
  if_neg (Nat.not_lt.mpr hport)

/-- R376: a sample takes the depth of every queue of its port, and no queue holds other frames after it. -/
theorem mem_txqs_effQueueDepthSample {s : State} {port k : Nat} {q : TxQ} (h : (k, q) ∈ (effQueueDepthSample s port).txqs) :
    ∃ q0, (k, q0) ∈ s.txqs ∧ (k / 64 ≠ port → q = q0) ∧ q.frames = q0.frames
      ∧ (k / 64 = port → q.depthLast = min 65535 (q0.bytes / 64) ∧ q.depthMax = max (min 65535 (q0.bytes / 64)) q0.depthMax) := by
  obtain ⟨⟨k0, q0⟩, hmem, heq⟩ := List.mem_map.mp h
  by_cases hport : k0 / 64 = port
  · rw [if_pos hport] at heq
    obtain ⟨rfl, rfl⟩ := Prod.mk.inj heq
    exact ⟨q0, hmem, fun hne => absurd hport hne, rfl, fun _ => ⟨rfl, rfl⟩⟩
  · rw [if_neg hport] at heq
    obtain ⟨rfl, rfl⟩ := Prod.mk.inj heq
    exact ⟨q0, hmem, fun _ => rfl, rfl, fun heq => absurd heq hport⟩

/-! ### A partition's queues (R372) and pauses (R369) -/

theorem effPartTrafficQWrite_host (s : State) (p val : Nat) :
    (effPartTrafficQWrite s p val).get F.PART_TRAFFIC_Q_HOST_Q p = bits val 5 0 := by
  have hput : (s.put F.PART_TRAFFIC_Q_HOST_Q (bits val 5 0) p).get F.PART_TRAFFIC_Q_HOST_Q p = bits val 5 0 :=
    (get_put _ _ _ _ _ (by decide) (by decide) (by decide)).trans (Nat.mod_eq_of_lt (bits_lt val 5 0))
  unfold effPartTrafficQWrite
  split
  · exact hput
  · exact (get_put_apart _ _ _ _ _ _ _ _ (by decide)).trans hput

theorem effPartTrafficQWrite_ring (s : State) (p val : Nat) :
    (effPartTrafficQWrite s p val).get F.PART_TRAFFIC_Q_RING_Q p
      = if bits val 13 8 = 0 then s.get F.PART_TRAFFIC_Q_RING_Q p else bits val 13 8 := by
  unfold effPartTrafficQWrite
  split
  next h => exact get_put_apart _ _ _ _ _ _ _ _ (by decide)
  next h =>
    exact (get_put _ _ _ _ _ (by decide) (by decide) (by decide)).trans (Nat.mod_eq_of_lt (bits_lt val 13 8))

theorem effPartTrafficQWrite_rest (s : State) (p val : Nat) : { effPartTrafficQWrite s p val with regs := s.regs } = s := by
  unfold effPartTrafficQWrite
  split <;> rfl

/-- The priorities that are paused after a PFC frame. -/
def pausedAfter (l : List Nat) (prio : Nat) (paused : Bool) : List Nat :=
  if paused then prio :: l.filter (· != prio) else l.filter (· != prio)

theorem mem_pausedAfter (l : List Nat) (prio : Nat) (paused : Bool) : prio ∈ pausedAfter l prio paused ↔ paused = true := by
  cases paused <;> simp [pausedAfter]

theorem effPfcPause_of_ok {s : State} {port prio : Nat} {paused : Bool} (hport : port < 16) (hprio : prio < 8)
    (hpfc : paused = true → bit (s.get F.NET_PORT_CFG_PFC_EN (port / 4)) prio = true) :
    effPfcPause s port prio paused
      = s.setTxport port { s.txport port with paused := pausedAfter (s.txport port).paused prio paused } := by
  have hon : (paused && !bit (s.get F.NET_PORT_CFG_PFC_EN (port / 4)) prio) = false := by
    rw [Bool.and_eq_false_imp]
    intro h
    simp [hpfc h]
  simp only [effPfcPause, Nat.not_le.mpr hport, Nat.not_le.mpr hprio, hon, decide_false, Bool.or_self, Bool.false_eq_true, if_false]
  rfl

theorem txport_setTxport_same (s : State) (e : Nat) (p : TxPort) : (s.setTxport e p).txport e = p := Table.getD_set_same _ _ _ _

/-- Settles O36: each clause by the lemma about what its command may change. -/
theorem egressQueuesShapersAndMeters : Obligations.EgressQueuesShapersAndMeters := by
  refine ⟨?_, ?_, ?_, ?_, ?_, ?_⟩
  · intro e port k s s1 s2 f rest hs1 hup hpick hframes
    subst hs1
    exact ⟨_, (exec_egressFrameStart ..).trans (congrArg _ (effEgressFrameStart_of_pick hup hpick)), startFrame_of_head hframes⟩
  · intro e port s s1 p hs1 hport hp
    subst hs1 hp
    exact ⟨_, (exec_shaperRefill ..).trans (congrArg _ (effShaperRefill_of_port hport)), rfl, rfl⟩
  · intro e port queue all s s1 hs1
    subst hs1
    exact ⟨⟨_, exec_queueDepthSample .., rfl, fun k q h => mem_txqs_effQueueDepthSample h⟩, _, exec_trafficStatClear .., rfl, rfl⟩
  · intro e p val s s1 hs1 hp
    subst hs1
    refine ⟨_, (exec_partTrafficQWrite ..).trans (congrArg _ (if_pos hp)), effPartTrafficQWrite_host .., ?_,
      effPartTrafficQWrite_rest ..⟩
    exact effPartTrafficQWrite_ring (s.enter e) p val
  · intro e port prio paused s s1 hs1 hport hprio hpfc
    subst hs1
    refine ⟨_, (exec_pfcPause ..).trans (congrArg _ (effPfcPause_of_ok hport hprio hpfc)), ?_, rfl⟩
    rw [txport_setTxport_same]
    exact mem_pausedAfter ..
  · intro e p s s1 hs1 hp
    subst hs1
    exact (exec_meterRefill ..).trans (congrArg _ (if_pos hp))

end Sys2Proof.Machine
end

section
/-! PROOF. Programs, erases and reads of flash units end (R295, R301, R309 to R312). -/

namespace Sys2Proof.Machine

open Sys2Proof

theorem exec_flashProgramDone (e : Env) (pa : Nat) (s : State) :
    exec (.flashProgramDone e pa) s = .next (effFlashProgramDone (s.enter e) pa) := rfl

theorem exec_flashProgramFail (e : Env) (pa : Nat) (s : State) :
    exec (.flashProgramFail e pa) s = .next (effFlashProgramFail (s.enter e) pa) := rfl

theorem exec_flashEraseDone (e : Env) (key : Nat) (fail : Bool) (s : State) :
    exec (.flashEraseDone e key fail) s = .next (effFlashEraseDone (s.enter e) key fail) := rfl

theorem exec_flashReadDone (e : Env) (pa outcome lat words : Nat) (s : State) :
    exec (.flashReadDone e pa outcome lat words) s = .next (effFlashReadDone (s.enter e) pa outcome lat words) := rfl

theorem exec_slowReadTimeout (e : Env) (pa age : Nat) (s : State) :
    exec (.slowReadTimeout e (pa, age)) s = .next (effSlowReadTimeout (s.enter e) (pa, age)) := rfl

/-! ### Programs (R295, R301, R309) -/

/-- The data units placed in the row of an address. -/
def State.rowUnits (s : State) (pa : Nat) : Table Mu :=
  s.flash.mus.filter (fun x => paRow x.1 == paRow pa && s.muBand x.1 == s.muBand pa && x.2.kind != 3)

/-- A band that takes no more programs. -/
def State.endBand (s : State) (k : Nat) : State :=
  match s.flash.bands.get? k with
  | some b => s.setBand k { b with isOpen := false }
  | none => s

/-- The units of a row that had not closed when a program of it failed. -/
def State.rowLost (s : State) (k pa : Nat) : List Nat :=
  (s.flash.mus.filter (fun x => paRow x.1 == paRow pa && s.muBand x.1 == k && x.2.kind == 0 && !x.2.closed)).map (·.1)

section
variable {s : State} {pa : Nat} {m : Mu} (hget : s.flash.mus.get? pa = some m) (hissued : m.issued = true) (hdone : m.done = false)
include hget hissued hdone

/-- R295: the end of a program closes its row when all 31 of its data positions are programmed. -/
theorem effFlashProgramDone_of_issued {s2 : State}
    (hs2 : s2 = ({ s with flash := { s.flash with mus := s.flash.mus.set pa { m with done := true } } }).issueNand) :
    effFlashProgramDone s pa = if (s2.rowUnits pa).length = 31 && (s2.rowUnits pa).all (fun x => x.2.done)
      then s2.closeRow (s2.muBand pa) (paRow pa) else s2 := by
  subst hs2
  simp only [effFlashProgramDone, hget, hissued, hdone, Bool.not_true, Bool.or_self, Bool.false_eq_true, if_false]
  rfl

/-- R309: a failed program is counted, retires the block, and its row is programmed again elsewhere. -/
theorem effFlashProgramFail_of_issued {s3 : State}
    (hs3 : s3 = (s.health (fun h => { h with progFail := h.progFail + 1 })).endBand (s.muBand pa)) :
    effFlashProgramFail s pa = (s3.rowLost (s.muBand pa) pa).foldl State.replaceMu (s3.retireBlock (paKey pa)) := by
  subst hs3
  simp only [effFlashProgramFail, hget, hissued, hdone, Bool.not_true, Bool.or_self, Bool.false_eq_true, if_false]
  rfl

end

/-! ### Erases (R310) -/

section
variable {s s2 : State} {key : Nat} (herasing : s.flash.erasing.contains (key, true) = true)
  (hs2 : s2 = { s with flash := { s.flash with erasing := s.flash.erasing.filter (fun x => x.1 != key) } })
include herasing hs2

theorem effFlashEraseDone_fail :
    effFlashEraseDone s key true = ((s2.health (fun h => { h with eraseFail := h.eraseFail + 1 })).retireBlock key).issueNand := by
  subst hs2
  simp only [effFlashEraseDone, herasing, Bool.not_true, Bool.false_eq_true, if_false, if_true]

theorem effFlashEraseDone_ok :
    effFlashEraseDone s key false = (((s2.setBlock key { eraseCount := min 65535 ((s.block key).eraseCount + 1) }).noteBlocks
      [key]).issueNand).retryPending := by
  subst hs2
  simp only [effFlashEraseDone, herasing, Bool.not_true, Bool.false_eq_true, if_false]

end

/-! ### Reads (R311, R312) -/

/-- The state after a read, by its outcome: decoded, with corrections, after the retry ladder, or rebuilt. -/
theorem effFlashReadDone_of_done {s s2 : State} {pa lat : Nat} {m : Mu} (words : Nat) (hget : s.flash.mus.get? pa = some m)
    (hdone : m.done = true)
    (hs2 : s2 = s.setDie (paDie pa) { s.die (paDie pa) with lats := (lat :: (s.die (paDie pa)).lats).take 256 }) :
    effFlashReadDone s pa 0 lat words = s2
      ∧ effFlashReadDone s pa 1 lat words = s2.health (fun h => { h with corrected := h.corrected + 1 })
      ∧ effFlashReadDone s pa 2 lat words = s2.health (fun h => { h with retried := h.retried + 1 })
      ∧ effFlashReadDone s pa 3 lat 0 = s2.rebuilt pa := by
  have hnone : (maskBits 16 0).length = 0 := by decide
  subst hs2
  refine ⟨?_, ?_, ?_, ?_⟩ <;>
    simp only [effFlashReadDone, hget, hdone, hnone, Bool.not_true, Bool.false_eq_true, if_false, if_true]

/-- R312: a read past its time is counted on its die, which may become SLOW. -/
theorem effSlowReadTimeout_of_late {s s2 : State} {pa age : Nat} {d : Die} {times : List Nat} (hmu : (s.flash.mus.get? pa).isSome = true)
    (hreadable : s.flashReadable = true) (hd : d = s.die (paDie pa)) (hage : s.get F.FLASH_READ_CFG_SLOW_MULT * d.median ≤ age)
    (htimes : times = s.time :: d.slowTimes.filter (fun t => decide (t + 1000000000 > s.time)))
    (hs2 : s2 = (s.setDie (paDie pa) { d with slowTimes := times, slowAt := s.time, slowCount := min 65535 (d.slowCount + 1) }).health
      (fun h => { h with slowReads := h.slowReads + 1 })) :
    effSlowReadTimeout s (pa, age)
      = if s2.dieState (paDie pa) = 1 && times.length ≥ max 1 (s2.get F.FLASH_READ_CFG_SLOW_ENTER) then s2.dieTo (paDie pa) 2 else s2 := by
  have hsome : (s.flash.mus.get? pa).isNone = false := by simpa [Option.isSome_iff_ne_none] using hmu
  subst hs2 htimes hd
  simp only [effSlowReadTimeout, hsome, hreadable, Nat.not_lt.mpr hage, decide_false, Bool.not_true, Bool.or_self, Bool.false_eq_true,
    if_false]

/-- Settles O37: each end of a flash operation by the lemma about it. -/
theorem flashUnitsProgramEraseAndRead : Obligations.FlashUnitsProgramEraseAndRead := by
  refine ⟨?_, ?_, ?_, ?_, ?_⟩
  · intro e pa s s1 s2 m hs1 hget hissued hdone hs2
    subst hs1
    exact (exec_flashProgramDone ..).trans (congrArg _ (effFlashProgramDone_of_issued hget hissued hdone hs2))
  · intro e pa s s1 m hs1 hget hissued hdone
    subst hs1
    exact ⟨_, _, _, rfl, rfl, rfl, (exec_flashProgramFail ..).trans (congrArg _ (effFlashProgramFail_of_issued hget hissued hdone rfl))⟩
  · intro e key s s1 s2 hs1 herasing hs2
    subst hs1
    refine ⟨(exec_flashEraseDone ..).trans (congrArg _ (effFlashEraseDone_fail herasing hs2)), fun s3 hs3 => ?_⟩
    subst hs3
    exact (exec_flashEraseDone ..).trans (congrArg _ (effFlashEraseDone_ok herasing hs2))
  · intro e pa lat words s s1 s2 m hs1 hget hdone hs2
    subst hs1
    obtain ⟨hdecoded, hcorrected, hretried, hrebuilt⟩ := effFlashReadDone_of_done words hget hdone hs2
    simp only [exec_flashReadDone, hdecoded, hcorrected, hretried, hrebuilt, and_self]
  · intro e pa age s s1 s2 d times hs1 hmu hreadable hd hage htimes hs2
    subst hs1
    exact (exec_slowReadTimeout ..).trans (congrArg _ (effSlowReadTimeout_of_late hmu hreadable hd hage htimes hs2))

end Sys2Proof.Machine
end

section
/-! PROOF. Journal commits, folding, collection, checkpoints and the media profile (R296, R300 to R307, R315, R318). -/

namespace Sys2Proof.Machine

open Sys2Proof

theorem exec_journalCommit (e : Env) (gid : Nat) (s : State) : exec (.journalCommit e gid) s = .next (effJournalCommit (s.enter e) gid) := rfl

theorem exec_fold (e : Env) (s : State) : exec (.fold e) s = .next (effFold (s.enter e)) := rfl

theorem exec_garbageCollection (e : Env) (s : State) : exec (.garbageCollection e) s = .next (effGarbageCollection (s.enter e)) := rfl

theorem exec_checkpoint (e : Env) (s : State) : exec (.checkpoint e) s = .next (effCheckpoint (s.enter e)) := rfl

theorem exec_healthSnap (e : Env) (s : State) : exec (.healthSnap e) s = .next (effHealthSnap (s.enter e)) := rfl

theorem exec_tableLoadMediaProfile (e : Env) (rid : Nat) (s : State) :
    exec (.tableLoadMediaProfile e rid) s = .next (effTableLoadMediaProfile (s.enter e) rid) := rfl

/-- R300: a group whose units are programmed, and whose rows can close, commits with its journal units. -/
theorem effJournalCommit_of_ready {s s2 : State} {gid : Nat} {g : Group} (hget : s.flash.groups.get? gid = some g)
    (hreadable : s.flashReadable = true) (hpower : s.on F.FLASH_STATUS_PF = false) (hcluster : s.anyCluster = true) (hpend : g.pend = [])
    (hdone : ∀ pa ∈ g.mus, (s.flash.mus.getD pa {}).done = true ∧ s.rowReady pa = true)
    (hroom : s.flashState = 3 → s.journalFull = false) (hjournal : s.writeJournal (journalMus gid g.recs) = some s2) :
    effJournalCommit s gid = s2.commitGroup gid g := by
  have hunits : g.mus.any (fun pa => !(s.flash.mus.getD pa {}).done || !s.rowReady pa) = false := by
    rw [List.any_eq_false]
    intro pa hpa
    obtain ⟨hprogrammed, hrow⟩ := hdone pa hpa
    rw [hprogrammed, hrow]
    decide
  have hfull : (decide (s.flashState = 3) && s.journalFull) = false := by
    rw [Bool.and_eq_false_imp]
    exact fun h => hroom (of_decide_eq_true h)
  simp only [effJournalCommit, hget, hreadable, hpower, hcluster, hpend, hunits, hfull, hjournal, bne_self_eq_false, Bool.not_true,
    Bool.or_self, Bool.false_eq_true, if_false]

/-! ### Folding and collection (R305 to R307) -/

/-- The state with folding as the free SLC bands ask for it (R305). -/
def State.foldRun (s : State) : State :=
  { s with flash := { s.flash with folding := decide ((s.flash.slcTotal - s.bandsInUse true) * 64
      < (if s.flash.folding = true then 2 * s.get F.FLASH_GC_CFG_FOLD else s.get F.FLASH_GC_CFG_FOLD) * s.flash.slcTotal) && s.flashBusyOk } }

theorem effFold_eq (s : State) : effFold s = if !s.foldRun.flash.folding then s.foldRun else
    match ((s.foldRun.flash.bands.filter (fun x => x.2.slc && x.2.kind == 0 && !x.2.isOpen && s.foldRun.validIn x.2 != [])).mergeSort
      (fun x y => x.2.born ≤ y.2.born)).head? with
    | some (_, b) => s.foldRun.relocateBand b
    | none => s.foldRun.reapBands := by
  unfold State.foldRun effFold
  cases s.flash.folding <;> rfl

section
variable {s s2 : State} {closed : Table Band} (hs2 : s2 = s.foldRun)
  (hclosed : closed = s2.flash.bands.filter (fun x => x.2.slc && x.2.kind == 0 && !x.2.isOpen && s2.validIn x.2 != []))
include hs2

theorem effFold_of_stop (hstop : s2.flash.folding = false) : effFold s = s2 := by
  subst hs2
  rw [effFold_eq, hstop]
  rfl

include hclosed

/-- R306: folding moves the oldest closed SLC band. -/
theorem effFold_of_band {k : Nat} {b : Band} (hrun : s2.flash.folding = true)
    (hhead : (closed.mergeSort (fun x y => x.2.born ≤ y.2.born)).head? = some (k, b)) : effFold s = s2.relocateBand b := by
  subst hs2 hclosed
  rw [effFold_eq, hrun, hhead]
  rfl

theorem effFold_of_none (hrun : s2.flash.folding = true) (hnone : closed = []) : effFold s = s2.reapBands := by
  have hhead : (closed.mergeSort (fun x y => x.2.born ≤ y.2.born)).head? = none := by
    rw [hnone, List.mergeSort_nil]
    rfl
  subst hs2 hclosed
  rw [effFold_eq, hrun, hhead]
  rfl

end

/-- The state with collection as the free native bands ask for it (R307). -/
def State.collectRun (s : State) : State :=
  { s with flash := { s.flash with collecting := decide ((s.flash.natTotal - s.bandsInUse false) * 1024
      < (if s.flash.collecting = true then s.get F.FLASH_GC_CFG_HIGH else s.get F.FLASH_GC_CFG_LOW) * s.flash.natTotal) && s.flashBusyOk } }

/-- The closed native band that is collected: an urgent one first, then the one with the fewest valid units. -/
def State.collected (s : State) : Option (Nat × Band) :=
  match (s.flash.bands.filter (fun x => !x.2.slc && x.2.kind == 0 && !x.2.isOpen)).find? (fun x => s.urgent x.2) with
  | some x => some x
  | none => if s.flash.collecting then
      ((s.flash.bands.filter (fun x => !x.2.slc && x.2.kind == 0 && !x.2.isOpen)).mergeSort
        (fun x y => (s.validIn x.2).length ≤ (s.validIn y.2).length)).head?
    else none

theorem effGarbageCollection_of_band {s : State} {k : Nat} {b : Band} (hpick : s.collectRun.collected = some (k, b))
    (hbusy : s.collectRun.flashBusyOk = true) : effGarbageCollection s = (s.collectRun.relocateBand b).reapBands := by
  change (match s.collectRun.collected with
    | some (_, b) => if s.collectRun.flashBusyOk then (s.collectRun.relocateBand b).reapBands else s.collectRun
    | none => s.collectRun) = _
  rw [hpick]
  exact if_pos hbusy

theorem effGarbageCollection_of_none {s : State} (hpick : s.collectRun.collected = none) : effGarbageCollection s = s.collectRun := by
  change (match s.collectRun.collected with
    | some (_, b) => if s.collectRun.flashBusyOk then (s.collectRun.relocateBand b).reapBands else s.collectRun
    | none => s.collectRun) = _
  rw [hpick]

section
variable {s : State} {closed : Table Band} (hclosed : closed = s.flash.bands.filter (fun x => !x.2.slc && x.2.kind == 0 && !x.2.isOpen))
include hclosed

theorem collected_of_urgent {x : Nat × Band} (hurgent : closed.find? (fun x => s.urgent x.2) = some x) : s.collected = some x := by
  subst hclosed
  unfold State.collected
  rw [hurgent]

theorem collected_of_emptiest (hurgent : closed.find? (fun x => s.urgent x.2) = none) (hrun : s.flash.collecting = true) :
    s.collected = (closed.mergeSort (fun x y => (s.validIn x.2).length ≤ (s.validIn y.2).length)).head? := by
  subst hclosed
  unfold State.collected
  rw [hurgent]
  exact if_pos hrun

theorem collected_of_stop (hurgent : closed.find? (fun x => s.urgent x.2) = none) (hstop : s.flash.collecting = false) :
    s.collected = none := by
  subst hclosed
  unfold State.collected
  rw [hurgent]
  exact if_neg (by simp [hstop])

end

/-! ### Checkpoints and the profile (R303, R315) -/

theorem effCheckpoint_of_due {s : State} (hbusy : s.flashBusyOk = true)
    (hdue : s.flash.ckptSeq + 16 * max 1 (s.get F.FLASH_CKPT_CFG_MUS) ≤ s.flash.journalSeq) : effCheckpoint s = s.checkpoint :=
  if_neg (by simp [hbusy, Nat.not_lt.mpr hdue])

/-- Media for a profile: blank media is formatted, and its key records are written (R296); formatted media stays as it is. -/
def State.profileMedia (s : State) (b : Bytes) : State :=
  if s.flashState = 1 then (s.format b).parts.keys.foldl (fun (s : State) p => s.writeAnchor p) (s.format b) else s

/-- R315: a profile that fits the media becomes current, and its record is journaled. -/
theorem effTableLoadMediaProfile_of_ok {s s2 s3 : State} {rid : Nat} {r : Req} {b : Bytes} {t : Slots Bytes}
    (hr : s.startedLoad? rid 3 = some r) (hpart : r.part = 0)
    (husers : s.flash.profiles.other.loaded = true → s.profileUsers s.flash.profiles.other.epoch = 0) (hread : s.bundleRead r = .ok b)
    (hok : s.profileOk b = true) (ht : t = (s.flash.profiles.load b).switch)
    (hmedia : s.flashState = 1 ∨ s.flashState = 2 ∨ s.flashState = 3) (hs2 : s2 = s.profileMedia b)
    (hs3 : s3 = ({ s2 with flash := { s2.flash with profiles := t } }).put F.FLASH_STATUS_PROFILE_EPOCH t.epoch.toNat) :
    effTableLoadMediaProfile s rid
      = ((s3.openGroup { recs := [.profile t.epoch] }).2).complete rid .ok { result0 := t.epoch.toNat } := by
  have hused : (s.flash.profiles.other.loaded && s.profileUsers s.flash.profiles.other.epoch != 0) = false := by
    rw [Bool.and_eq_false_imp]
    intro h
    simp [husers h]
  have hthere : (decide (s.flashState = 0) || decide (s.flashState = 4) || !s.profileOk b) = false := by
    rcases hmedia with h | h | h <;> simp [h, hok]
  subst hs3 hs2 ht
  simp only [effTableLoadMediaProfile, hr, hpart, hused, hread, hthere, bne_self_eq_false, Bool.false_eq_true, if_false]
  rfl

/-- Settles O38: the commit, folding and collection by what they find, the checkpoint by its count, the profile by its checks. -/
theorem flashCommitsFoldsAndCollects : Obligations.FlashCommitsFoldsAndCollects := by
  refine ⟨?_, ?_, ?_, ?_, ?_, ?_⟩
  · intro e gid s s1 s2 g hs1 hget hreadable hpower hcluster hpend hdone hroom hjournal
    subst hs1
    exact (exec_journalCommit ..).trans
      (congrArg _ (effJournalCommit_of_ready hget hreadable hpower hcluster hpend hdone hroom hjournal))
  · intro e s s1 s2 free closed hs1 hfree hs2 hclosed
    subst hs1 hfree
    rw [exec_fold]
    exact ⟨fun hstop => congrArg _ (effFold_of_stop hs2 hstop),
      fun k b hrun hhead => congrArg _ (effFold_of_band hs2 hclosed hrun hhead),
      fun hrun hnone => congrArg _ (effFold_of_none hs2 hclosed hrun hnone)⟩
  · intro e s s1 s2 free closed hs1 hfree hs2 hclosed
    subst hs1 hfree
    replace hs2 : s2 = (s.enter e).collectRun := hs2
    subst hs2
    rw [exec_garbageCollection]
    exact ⟨fun k b hurgent hbusy => congrArg _ (effGarbageCollection_of_band (collected_of_urgent hclosed hurgent) hbusy),
      fun k b hurgent hrun hbusy hhead =>
        congrArg _ (effGarbageCollection_of_band ((collected_of_emptiest hclosed hurgent hrun).trans hhead) hbusy),
      fun hurgent hstop => congrArg _ (effGarbageCollection_of_none (collected_of_stop hclosed hurgent hstop))⟩
  · intro e s s1 hs1 hbusy hdue
    subst hs1
    exact (exec_checkpoint ..).trans (congrArg _ (effCheckpoint_of_due hbusy hdue))
  · intro e s s1 hs1
    subst hs1
    exact exec_healthSnap ..
  · intro e rid s s1 s2 s3 r b t hs1 hr hpart husers hread hok ht hmedia hs3
    subst hs1
    rcases hmedia with ⟨hblank, hs2⟩ | ⟨hformatted, hs2⟩
    · exact (exec_tableLoadMediaProfile ..).trans (congrArg _ (effTableLoadMediaProfile_of_ok hr hpart husers hread hok ht (Or.inl hblank)
        (hs2.trans (if_pos hblank).symm) hs3))
    · have hnot : ¬ (s.enter e).flashState = 1 := by rcases hformatted with h | h <;> simp [h]
      exact (exec_tableLoadMediaProfile ..).trans (congrArg _ (effTableLoadMediaProfile_of_ok hr hpart husers hread hok ht (Or.inr hformatted)
        (hs2.trans (if_neg hnot).symm) hs3))

end Sys2Proof.Machine
end

section
/-! PROOF. Dies that are slow or fail, power failure, and the mount (R302, R312, R314, R319, R466). -/

namespace Sys2Proof.Machine

open Sys2Proof

theorem exec_dieSlowExit (e : Env) (n : Nat) (s : State) : exec (.dieSlowExit e n) s = .next (effDieSlowExit (s.enter e) n) := rfl

theorem exec_dieFailed (e : Env) (n : Nat) (s : State) : exec (.dieFailed e n) s = .next (effDieFailed (s.enter e) n) := rfl

theorem exec_dieTemperatureRead (e : Env) (n temp : Nat) (s : State) :
    exec (.dieTemperatureRead e n temp) s = .next (effDieTemperatureRead (s.enter e) n temp) := rfl

theorem exec_pwrFailFall (e : Env) (s : State) : exec (.pwrFailFall e) s = .next (effPwrFailFall (s.enter e)) := rfl

theorem exec_pwrFailRise (e : Env) (s : State) : exec (.pwrFailRise e) s = .next (effPwrFailRise (s.enter e)) := rfl

theorem exec_mount (e : Env) (readable : Bool) (s : State) : exec (.mount e readable) s = .next (effMount (s.enter e) readable) := rfl

theorem exec_mountDone (e : Env) (s : State) : exec (.mountDone e) s = .next (effMountDone (s.enter e)) := rfl

/-! ### Dies (R312, R314) -/

theorem effDieSlowExit_of_due {s : State} {n : Nat} (hslow : s.dieState n = 2) (hdue : (s.die n).slowAt + 60000000000 ≤ s.time) :
    effDieSlowExit s n = s.put F.FLASH_DIE_STATUS_STATE 1 n := if_pos (by simp [hslow, hdue])

theorem regs_withFlash (s : State) (f : Flash) : ({ s with flash := f }).regs = s.regs := rfl

/-- The blocks of a failed die marked for relocation. -/
def relocateDie (n : Nat) (t : Table Block) : Table Block :=
  t.map (fun x => if paDie x.1 = n && (x.2.state = 1 || x.2.state = 2) then (x.1, { x.2 with relocate := true }) else x)

theorem effDieFailed_of_working {s : State} {n : Nat} (hworks : s.dieState n = 1 ∨ s.dieState n = 2) :
    effDieFailed s n = { s.dieTo n 3 with flash := { (s.dieTo n 3).flash with blocks := relocateDie n (s.dieTo n 3).flash.blocks } } :=
  if_neg (by rcases hworks with h | h <;> simp [h])

theorem relocate_of_mem_relocateDie {n : Nat} {t : Table Block} {x : Nat × Block} (hx : x ∈ relocateDie n t) (hdie : paDie x.1 = n)
    (hstate : x.2.state = 1 ∨ x.2.state = 2) : x.2.relocate = true := by
  obtain ⟨y, -, hy⟩ := List.mem_map.mp hx
  split at hy
  next =>
    subst hy
    rfl
  next hout =>
    subst hy
    exact absurd (by simpa using ⟨hdie, hstate⟩) hout

/-- R312: a die that stops answering is FAILED, and its blocks are to be relocated. -/
theorem effDieFailed_effect {s : State} {n : Nat} (hworks : s.dieState n = 1 ∨ s.dieState n = 2) :
    (effDieFailed s n).regs = (s.dieTo n 3).regs
      ∧ ∀ x ∈ (effDieFailed s n).flash.blocks, paDie x.1 = n → (x.2.state = 1 ∨ x.2.state = 2) → x.2.relocate = true := by
  rw [effDieFailed_of_working hworks]
  exact ⟨regs_withFlash _ _, fun x hx hdie hstate => relocate_of_mem_relocateDie hx hdie hstate⟩

/-- A minute of the histogram is counted at most once in a minute. -/
theorem effDieTemperatureRead_of_counted {s : State} {n : Nat} (temp : Nat) (hthere : s.dieState n ≠ 0)
    (hearly : s.time < s.flash.tempAt + 60000000000) : effDieTemperatureRead s n temp = s.put F.FLASH_DIE_STATUS_TEMP_C temp n :=
  (if_neg hthere).trans (if_pos hearly)

/-- R314: the hottest die counts a minute of the histogram, and no other register changes. -/
theorem effDieTemperatureRead_of_due {s : State} {n : Nat} (temp : Nat) (hthere : s.dieState n ≠ 0)
    (hdue : s.flash.tempAt + 60000000000 ≤ s.time) :
    (effDieTemperatureRead s n temp).regs = (s.put F.FLASH_DIE_STATUS_TEMP_C temp n).regs
      ∧ (effDieTemperatureRead s n temp).flash.tempAt = s.time / 60000000000 * 60000000000
      ∧ (effDieTemperatureRead s n temp).flash.health.tempHist.length = 16 := by
  have hcount := (if_neg hthere).trans (if_neg (Nat.not_lt.mpr hdue)) (a := effDieTemperatureRead s n temp)
  rw [hcount]
  exact ⟨rfl, rfl, by simp [State.health]⟩

/-! ### Power failure (R319) -/

theorem effPwrFailFall_of_good {s s2 : State} (hgood : s.on F.FLASH_STATUS_PF = false)
    (hs2 : s2 = (s.put F.FLASH_STATUS_PF 1).health (fun h => { h with powerFails := h.powerFails + 1 })) :
    effPwrFailFall s = ((if s2.flashReadable = true then s2.flashSafe else s2).put F.FLASH_STATUS_SAFE 1).raise gFlash 3 := by
  subst hs2
  simp only [effPwrFailFall, hgood, Bool.false_eq_true, if_false]

theorem effPwrFailRise_of_failing {s s2 : State} (hfailing : s.on F.FLASH_STATUS_PF = true)
    (hs2 : s2 = (s.put F.FLASH_STATUS_PF 0).put F.FLASH_STATUS_SAFE 0) :
    effPwrFailRise s = ({ s2 with flash := { s2.flash with shutdownRec := !s2.flashReadable } }).issueNand := by
  subst hs2
  simp only [effPwrFailRise, hfailing, Bool.not_true, Bool.false_eq_true, if_false]

/-! ### The mount (R302, R466) -/

section
variable {s : State} (hphase : s.phase = 3) (hformatted : s.flash.formatted = true) (hdies : s.diesPerCh ≠ 0)
include hphase hformatted hdies

theorem effMount_of_unreadable (hstate : s.flashState = 0) :
    effMount s false = (s.put F.GLB_BOOT_STATUS_PHASE 6).put F.GLB_BOOT_STATUS_FAIL_CODE 4 := by
  simp only [effMount, hphase, hformatted, hdies, hstate, bne_self_eq_false, decide_false, Bool.not_true, Bool.or_self,
    Bool.false_eq_true, if_false, Bool.not_false, if_true]

/-- R466, step 5: a mount that can be read takes the media, the key sets and the store. -/
theorem effMount_of_readable {s2 s3 : State} {h : Health} {f : Flash} (hstate : s.flashState = 0)
    (hh : h = if s.flash.shutdownRec = true then s.flash.saved else { s.flash.saved with uncleanMounts := s.flash.saved.uncleanMounts + 1 })
    (hf : f = { s.flash with saved := h, mountAt := s.time, mediaHours := s.flash.mediaHours + s.get F.FLASH_MOUNT_CFG_OFF_HOURS })
    (hs2 : s2 = { s with flash := f.remounted })
    (hs3 : s3 = ((((s2.put F.FLASH_STATUS_STATE 4).put F.FLASH_STATUS_SAFE (s2.get F.FLASH_STATUS_PF)).put
        F.FLASH_STATUS_UNCLEAN (b2n (!s.flash.shutdownRec))).put F.GLB_MOUNT_TIME_UNCLEAN (b2n (!s.flash.shutdownRec))).put
        F.FLASH_STATUS_PROFILE_EPOCH f.profiles.epoch.toNat) :
    effMount s true = (((f.spares.mapIdx (fun c n => (c, n))).foldl (fun (s : State) x => s.put F.FLASH_SPARE_LEFT x.2 x.1)
      (s3.sec.anchor.foldl (fun (s : State) x => s.takeKeys x.1 x.2) s3)).put F.FLASH_USABLE_LEAVES f.usable).restoreStore := by
  subst hs3 hs2 hf hh
  cases hclean : s.flash.shutdownRec with
  | false =>
    simp only [effMount, hphase, hformatted, hdies, hstate, hclean, bne_self_eq_false, decide_false, Bool.not_true, Bool.not_false,
      Bool.or_self, Bool.false_eq_true, if_false, if_true]
  | true =>
    simp only [effMount, hphase, hformatted, hdies, hstate, hclean, bne_self_eq_false, decide_false, Bool.not_true,
      Bool.or_self, Bool.false_eq_true, if_false, if_true]

/-- R466, step 6: MOUNT_DONE of mounted media makes the device READY, with the partitions of the anchor as RESTORED. -/
theorem effMountDone_of_mounted {s2 s4 : State} (hstate : s.flashState = 4)
    (hs4 : s4 = (((s.put F.FLASH_STATUS_STATE (if s.flash.readOnly = true then 3 else 2)).put F.GLB_MOUNT_TIME_MS
      (min (2 ^ 24 - 1) ((s.time - s.flash.mountAt) / 1000000))).put F.GLB_BOOT_STATUS_PHASE 4).put F.PART_STATE_STATE 1)
    (hs2 : s2 = s4.sec.anchor.keys.foldl (fun (s : State) p => s.markRestored p) s4) :
    effMountDone s = (if (s2.parts.getD 0 {}).keys = [] then s2.freshKeys 0 else s2).raise gFirmware 0 := by
  have hmounts : (s.flash.formatted && s.diesPerCh != 0) = true := by simp [hformatted, hdies]
  simp only [effMountDone, hmounts, hphase, hstate, bne_self_eq_false, Bool.and_false, Bool.or_self, Bool.false_eq_true, if_false, if_true,
    ← hs4, ← hs2]

end

theorem effMountDone_of_blank {s s2 : State} (hphase : s.phase = 3) (hblank : s.flash.formatted = false ∨ s.diesPerCh = 0)
    (hs2 : s2 = (s.put F.GLB_BOOT_STATUS_PHASE 4).put F.PART_STATE_STATE 1) :
    effMountDone s = (if (s2.parts.getD 0 {}).keys = [] then s2.freshKeys 0 else s2).raise gFirmware 0 := by
  have hmounts : (s.flash.formatted && s.diesPerCh != 0) = false := by rcases hblank with h | h <;> simp [h]
  simp only [effMountDone, hmounts, hphase, bne_self_eq_false, Bool.false_and, Bool.or_self, Bool.false_eq_true, if_false, ← hs2]

/-- Settles O39: dies, power and the mount by their conditions. -/
theorem flashDiesPowerFailAndMount : Obligations.FlashDiesPowerFailAndMount := by
  refine ⟨?_, ?_, ?_, ?_, ?_⟩
  · intro e n s s1 hs1
    subst hs1
    refine ⟨fun hslow hdue => (exec_dieSlowExit ..).trans (congrArg _ (effDieSlowExit_of_due hslow hdue)), ?_, ?_⟩
    · intro hworks
      exact ⟨_, exec_dieFailed .., effDieFailed_effect hworks⟩
    · intro temp hthere
      exact ⟨fun hearly => (exec_dieTemperatureRead ..).trans (congrArg _ (effDieTemperatureRead_of_counted temp hthere hearly)),
        fun hdue => ⟨_, exec_dieTemperatureRead .., effDieTemperatureRead_of_due temp hthere hdue⟩⟩
  · intro e s s1 s2 hs1 hgood hs2
    subst hs1
    exact (exec_pwrFailFall ..).trans (congrArg _ (effPwrFailFall_of_good hgood hs2))
  · intro e s s1 s2 hs1 hfailing hs2
    subst hs1
    exact (exec_pwrFailRise ..).trans (congrArg _ (effPwrFailRise_of_failing hfailing hs2))
  · intro e s s1 s2 s3 h f hs1 hphase hformatted hdies hstate
    subst hs1
    exact ⟨(exec_mount ..).trans (congrArg _ (effMount_of_unreadable hphase hformatted hdies hstate)), fun hh hf hs2 hs3 =>
      ⟨_, rfl, (exec_mount ..).trans (congrArg _ (effMount_of_readable hphase hformatted hdies hstate hh hf hs2 hs3))⟩⟩
  · intro e s s1 s2 hs1 hphase hmedia
    subst hs1
    rcases hmedia with ⟨hblank, hs2⟩ | ⟨hformatted, hdies, hstate, s4, hs4, hs2⟩
    · exact (exec_mountDone ..).trans (congrArg _ (effMountDone_of_blank hphase hblank hs2))
    · exact (exec_mountDone ..).trans (congrArg _ (effMountDone_of_mounted hphase hformatted hdies hstate hs4 hs2))

end Sys2Proof.Machine
end

section
/-! PROOF. Ring frames are taken in order, acknowledged, sent again and forwarded (R388 to R391). -/

namespace Sys2Proof.Machine

open Sys2Proof

theorem exec_request (e : Env) (h : RingHdr) (body : List Nat) (s : State) :
    exec (.request e h body) s = .next ((s.enter e).numbered h 0 body) := rfl

theorem exec_response (e : Env) (h : RingHdr) (body : List Nat) (s : State) :
    exec (.response e h body) s = .next ((s.enter e).numbered h 1 body) := rfl

theorem exec_data (e : Env) (h : RingHdr) (body : List Nat) (s : State) :
    exec (.data e h body) s = .next ((s.enter e).numbered h 2 body) := rfl

theorem exec_index (e : Env) (h : RingHdr) (body : List Nat) (s : State) :
    exec (.index e h body) s = .next ((s.enter e).numbered h 8 body) := rfl

theorem exec_ack (e : Env) (h : RingHdr) (s : State) : exec (.ack e h) s = .next (effAck (s.enter e) h) := rfl

theorem exec_ringAckTimer (e : Env) (src : Nat) (s : State) : exec (.ringAckTimer e src) s = .next (effRingAckTimer (s.enter e) src) := rfl

theorem exec_ringRetransmit (e : Env) (dst : Nat) (s : State) :
    exec (.ringRetransmit e dst) s = .next (effRingRetransmit (s.enter e) dst) := rfl

theorem exec_ringFrameForward (e : Env) (fromEast : Bool) (dst kind seq ack num part hops len : Nat) (body : List Nat) (s : State) :
    exec (.ringFrameForward e fromEast dst kind seq ack num part hops len body) s
      = .next (effRingFrameForward (s.enter e) fromEast dst kind seq ack num part hops len body) := rfl

/-- The four kinds of numbered frames are taken alike. -/
theorem exec_numbered {e : Env} {h : RingHdr} {body : List Nat} {kind : Nat} {c : Instr}
    (hc : (kind, c) ∈ [(0, Instr.request e h body), (1, .response e h body), (2, .data e h body), (8, .index e h body)]) (s : State) :
    exec c s = .next ((s.enter e).numbered h kind body) := by
  simp only [List.mem_cons, List.not_mem_nil, Prod.mk.injEq, or_false] at hc
  rcases hc with ⟨rfl, rfl⟩ | ⟨rfl, rfl⟩ | ⟨rfl, rfl⟩ | ⟨rfl, rfl⟩
  · exact exec_request ..
  · exact exec_response ..
  · exact exec_data ..
  · exact exec_index ..

/-! ### Numbered frames (R390) -/

theorem frameIn_of_bad {s : State} {h : RingHdr} (hbad : h.bad = true) : s.frameIn h = none := if_pos hbad

/-- The peer's frames that a frame does not acknowledge. -/
def Peer.unacked (p : Peer) (ack : Nat) : Peer := { p with kept := p.kept.filter (fun k => !seqLe k.seq ack) }

theorem frameIn_of_good {s : State} {h : RingHdr} (hgood : h.bad = false) : s.frameIn h
    = some { s with ring := { s.ring with peers := s.ring.peers.set h.src ((s.ring.peers.getD h.src {}).unacked h.ack) } } :=
  if_neg (by simp [hgood])

section
variable {s : State} {h : RingHdr} {kind : Nat} {body : List Nat} (hstate : 2 ≤ s.get F.RING_STATUS_STATE)
  (hmember : s.ring.gotMembers = true) (hsrc : h.src < 16) (hfatal : kind = 0 → s.on F.RAS_STATUS_FATAL = false)
include hstate hmember hsrc hfatal

/-- A device with a position takes numbered frames, and one that a fatal fault has stopped no requests (R422). -/
theorem numbered_guard : (decide (s.get F.RING_STATUS_STATE < 2) || !s.ring.gotMembers || decide (h.src ≥ 16)
    || decide (kind = 0) && s.on F.RAS_STATUS_FATAL) = false := by
  have hrequest : (decide (kind = 0) && s.on F.RAS_STATUS_FATAL) = false := by
    rw [Bool.and_eq_false_imp]
    exact fun h => hfatal (of_decide_eq_true h)
  rw [hrequest, hmember, decide_eq_false (Nat.not_lt.mpr hstate), decide_eq_false (Nat.not_le.mpr hsrc)]
  rfl

theorem numbered_of_bad (hbad : h.bad = true) : s.numbered h kind body = s.bump F.RING_TAG_FAIL_COUNT := by
  simp only [State.numbered, numbered_guard hstate hmember hsrc hfatal, frameIn_of_bad hbad, Bool.false_eq_true, if_false]
  rfl

variable {s2 : State} {p : Peer} (hin : s.frameIn h = some s2) (hp : p = { (s2.ring.peers.getD h.src {}) with ackDue := true })
include hin hp

/-- R390: the next frame of its sender takes its effect, and those held after it follow. -/
theorem numbered_of_next (hseq : h.seq = (p.rxSeq + 1) % 2 ^ 32) : s.numbered h kind body
    = (({ s2 with ring := { s2.ring with peers := s2.ring.peers.set h.src { p with rxSeq := h.seq } } }).takeFrame h.src kind h.num h.part
        body).takeEarly h.src p.early.length := by
  rw [hseq]
  subst hp
  simp only [State.numbered, numbered_guard hstate hmember hsrc hfatal, hin, if_pos hseq, Bool.false_eq_true, if_false]

/-- R390: a duplicate has no effect but its acknowledgement. -/
theorem numbered_of_duplicate (hseq : h.seq ≠ (p.rxSeq + 1) % 2 ^ 32) (hold : seqLe h.seq p.rxSeq = true) :
    s.numbered h kind body = { s2 with ring := { s2.ring with peers := s2.ring.peers.set h.src p } } := by
  subst hp
  simp only [State.numbered, numbered_guard hstate hmember hsrc hfatal, hin, if_neg hseq, hold, Bool.not_true, Bool.false_and,
    Bool.false_eq_true, if_false]

/-- R390: an early frame is held. -/
theorem numbered_of_early (hseq : h.seq ≠ (p.rxSeq + 1) % 2 ^ 32) (hnew : seqLe h.seq p.rxSeq = false)
    (hfirst : ∀ k ∈ p.early, k.seq ≠ h.seq) :
    s.numbered h kind body = { s2 with ring := { s2.ring with peers := s2.ring.peers.set h.src { p with
      early := p.early ++ [{ seq := h.seq, kind := kind, num := h.num, part := h.part, body := body }] } } } := by
  have hunheld : p.early.any (fun x => x.seq == h.seq) = false := by simpa using hfirst
  subst hp
  simp only [State.numbered, numbered_guard hstate hmember hsrc hfatal, hin, if_neg hseq, hnew, hunheld, Bool.not_false, Bool.and_self,
    Bool.false_eq_true, if_false, if_true]

end

/-! ### Acknowledgements, retransmission and forwarding (R389, R390) -/

theorem effAck_of_bad {s : State} {h : RingHdr} (hbad : h.bad = true) : effAck s h = s.bump F.RING_TAG_FAIL_COUNT := by
  unfold effAck
  rw [frameIn_of_bad hbad]
  rfl

theorem effAck_of_good {s : State} {h : RingHdr} (hgood : h.bad = false) : effAck s h
    = { s with ring := { s.ring with peers := s.ring.peers.set h.src ((s.ring.peers.getD h.src {}).unacked h.ack) } } := by
  unfold effAck
  rw [frameIn_of_good hgood]
  rfl

theorem effRingAckTimer_of_due {s s2 : State} {src : Nat} {p : Peer} (hp : p = s.ring.peers.getD src {}) (hdue : p.ackDue = true)
    (hs2 : s2 = { s with ring := { s.ring with peers := s.ring.peers.set src { p with ackDue := false } } }) :
    effRingAckTimer s src
      = s2.enqueue (s.ringPort src) 0 { len := ringLen 0, entered := s.time, what := .ringFrame src 3 0 p.rxSeq 0 [] } := by
  subst hs2 hp
  simp only [effRingAckTimer, hdue, Bool.not_true, Bool.false_eq_true, if_false]

section
variable {s : State} {dst : Nat} {p : Peer} {k : Kept} (hstate : 2 ≤ s.get F.RING_STATUS_STATE) (hp : p = s.ring.peers.getD dst {})
  (hkept : p.kept = [k]) (hlate : k.sentAt + max 1 (s.get F.RING_CFG_RETX_US) * 1000 ≤ s.time)
include hstate hp hkept hlate

/-- R390: after 16 attempts a member is unreachable. -/
theorem effRingRetransmit_of_last (htries : 16 ≤ k.tries) : effRingRetransmit s dst = s.memberGone dst := by
  subst hp
  simp only [effRingRetransmit, hkept, ge_iff_le, hlate, decide_true, List.filter_cons_of_pos, List.filter_nil, Nat.not_lt.mpr hstate,
    List.cons_ne_nil, decide_false, Bool.or_self, Bool.false_eq_true, if_false, List.any_cons, htries, Bool.true_or, if_true]

/-- R390: a frame that is not acknowledged is sent again. -/
theorem effRingRetransmit_of_late (htries : k.tries < 16) :
    ((effRingRetransmit s dst).ring.peers.getD dst {}).kept = [{ k with tries := k.tries + 1, sentAt := s.time }] := by
  subst hp
  simp only [effRingRetransmit, hkept, ge_iff_le, hlate, decide_true, List.filter_cons_of_pos, List.filter_nil, Nat.not_lt.mpr hstate,
    List.cons_ne_nil, decide_false, Bool.or_self, Bool.false_eq_true, if_false, List.any_cons, List.any_nil, Nat.not_le.mpr htries,
    List.foldl_cons, List.foldl_nil, enqueue_ring, bump_ring, Table.getD_set_same, List.map_cons, List.map_nil, if_true]

end

section
variable {s : State} {dst hops : Nat} (fromEast : Bool) (kind seq ack num part len : Nat) (body : List Nat)
  (hstate : 2 ≤ s.get F.RING_STATUS_STATE) (hdst : dst ≠ s.myPos)
include hstate hdst

theorem effRingFrameForward_of_far (hhops : 15 ≤ hops + 1) :
    effRingFrameForward s fromEast dst kind seq ack num part hops len body = s.bump F.RING_HOP_DROPS_COUNT := by
  simp only [effRingFrameForward, Nat.not_lt.mpr hstate, hdst, decide_false, Bool.or_self, Bool.false_eq_true, if_false, ge_iff_le, hhops,
    if_true]

/-- R388: a frame for another member is passed on to the other port. -/
theorem effRingFrameForward_of_up {port : Nat} (hhops : hops + 1 < 15)
    (hup : s.on (if fromEast = true then F.RING_STATUS_WEST_UP else F.RING_STATUS_EAST_UP) = true)
    (hport : port = if fromEast = true then 17 else 16) :
    effRingFrameForward s fromEast dst kind seq ack num part hops len body
      = (s.bump F.RING_FWD_FRAMES_COUNT).enqueue port (if kind ≥ 3 then 0 else s.ringQueue part port)
          { len := ringLen len, part := part, entered := s.time, what := .ringFrame dst kind seq ack num body } := by
  subst hport
  simp only [effRingFrameForward, Nat.not_lt.mpr hstate, hdst, decide_false, Bool.or_self, Bool.false_eq_true, if_false, ge_iff_le,
    Nat.not_le.mpr hhops, hup, Bool.not_true]

end

/-- Settles O40: a numbered frame by its place in its sender's sequence, the rest by their conditions. -/
theorem numberedFramesTakeEffectInOrder : Obligations.NumberedFramesTakeEffectInOrder := by
  refine ⟨?_, ?_, ?_, ?_, ?_⟩
  · intro e h body kind s s1 s2 p c hc hs1 hstate hmember hsrc hfatal
    subst hs1
    rw [exec_numbered hc]
    refine ⟨fun hbad => congrArg _ (numbered_of_bad hstate hmember hsrc hfatal hbad), fun _ hin hp => ⟨?_, ?_, ?_⟩⟩
    · exact fun hseq => congrArg _ (numbered_of_next hstate hmember hsrc hfatal hin hp hseq)
    · exact fun hseq hold => congrArg _ (numbered_of_duplicate hstate hmember hsrc hfatal hin hp hseq hold)
    · intro hseq hnew hfirst k hk
      subst hk
      exact congrArg _ (numbered_of_early hstate hmember hsrc hfatal hin hp hseq hnew hfirst)
  · intro e h s s1 hs1
    subst hs1
    exact ⟨fun hbad => (exec_ack ..).trans (congrArg _ (effAck_of_bad hbad)), fun hgood =>
      ⟨_, (exec_ack ..).trans (congrArg _ (effAck_of_good hgood)), rfl, congrArg Peer.kept (Table.getD_set_same _ _ _ _)⟩⟩
  · intro e src s s1 s2 p hs1 hp hdue hs2
    subst hs1
    exact (exec_ringAckTimer ..).trans (congrArg _ (effRingAckTimer_of_due hp hdue hs2))
  · intro e dst s s1 p k hs1 hstate hp hkept hlate
    subst hs1
    exact ⟨fun htries => (exec_ringRetransmit ..).trans (congrArg _ (effRingRetransmit_of_last hstate hp hkept hlate htries)),
      fun htries => ⟨_, exec_ringRetransmit .., effRingRetransmit_of_late hstate hp hkept hlate htries⟩⟩
  · intro e fromEast dst kind seq ack num part hops len body s s1 s2 port hs1 hstate hdst
    subst hs1
    refine ⟨fun hhops => (exec_ringFrameForward ..).trans
      (congrArg _ (effRingFrameForward_of_far fromEast kind seq ack num part len body hstate hdst hhops)), ?_⟩
    intro hhops hup hport hs2
    subst hs2
    exact (exec_ringFrameForward ..).trans
      (congrArg _ (effRingFrameForward_of_up fromEast kind seq ack num part len body hstate hdst hhops hup hport))

end Sys2Proof.Machine
end

section
/-! PROOF. A device joins the ring and leaves it (R380 to R386, R399). -/

namespace Sys2Proof.Machine

open Sys2Proof

theorem exec_ringEnable (e : Env) (s : State) : exec (.ringEnable e) s = .next (effRingEnable (s.enter e)) := rfl

theorem exec_ringReceiveLock (e : Env) (east west : Bool) (s : State) :
    exec (.ringReceiveLock e east west) s = .next (effRingReceiveLock (s.enter e) east west) := rfl

theorem exec_ringLinkChange (e : Env) (east up idErr : Bool) (s : State) :
    exec (.ringLinkChange e east up idErr) s = .next (effRingLinkChange (s.enter e) east up idErr) := rfl

theorem exec_ringTrainTimeout (e : Env) (s : State) : exec (.ringTrainTimeout e) s = .next (effRingTrainTimeout (s.enter e)) := rfl

theorem exec_joinRetry (e : Env) (s : State) : exec (.joinRetry e) s = .next (effJoinRetry (s.enter e)) := rfl

theorem exec_join (e : Env) (h : RingHdr) (serial rank : Nat) (fresh leave : Bool) (east : Nat) (s : State) :
    exec (.join e h serial rank fresh leave east) s = .next (effJoin (s.enter e) h serial rank fresh leave east) := rfl

theorem exec_members (e : Env) (h : RingHdr) (body : List Nat) (s : State) :
    exec (.members e h body) s = .next (effMembers (s.enter e) h body) := rfl

theorem exec_ringLeave (e : Env) (s : State) : exec (.ringLeave e) s = .next (effRingLeave (s.enter e)) := rfl

theorem exec_ringForget (e : Env) (pos : Nat) (s : State) : exec (.ringForget e pos) s = .next (effRingForget (s.enter e) pos) := rfl

/-! ### Links (R380, R384) -/

theorem effRingEnable_of_off {s : State} (hoff : (s.put F.RING_CFG_ENABLE 1).get F.RING_STATUS_STATE = 0) :
    effRingEnable s = (s.put F.RING_CFG_ENABLE 1).put F.RING_STATUS_STATE 1 := if_pos hoff

theorem effRingEnable_of_on {s : State} (hon : (s.put F.RING_CFG_ENABLE 1).get F.RING_STATUS_STATE ≠ 0) :
    effRingEnable s = s.put F.RING_CFG_ENABLE 1 := if_neg hon

/-- The receivers that have locked, with those of the named ports whose domains are on. -/
def State.locked (s : State) (east west : Bool) : State :=
  { s with ring := { s.ring with lockE := s.ring.lockE || (east && s.pdOn 88), lockW := s.ring.lockW || (west && s.pdOn 89) } }

/-- R380: the first receiver that locks drives RING_JOIN. -/
theorem effRingReceiveLock_of_lock {s : State} {east west : Bool} (hstate : s.get F.RING_STATUS_STATE = 1) (hpin : s.ring.joinPin = false)
    (henable : s.on F.RING_CFG_ENABLE = true) (hlock : (east = true ∧ s.pdOn 88 = true) ∨ (west = true ∧ s.pdOn 89 = true)) :
    effRingReceiveLock s east west
      = { s.locked east west with ring := { (s.locked east west).ring with joinPin := true, joinAt := some s.time } } := by
  have hlocked : ((s.ring.lockE || (east && s.pdOn 88)) || (s.ring.lockW || (west && s.pdOn 89))) = true := by
    rcases hlock with ⟨h1, h2⟩ | ⟨h1, h2⟩ <;> simp [h1, h2]
  simp only [effRingReceiveLock, hstate, hpin, henable, bne_self_eq_false, Bool.not_true, Bool.or_self, Bool.false_eq_true, if_false]
  exact if_pos hlocked

theorem effRingLinkChange_of_idErr (s : State) (east up : Bool) :
    effRingLinkChange s east up true = (s.put F.RING_STATUS_ID_ERR 1).raise gRing 4 := by
  simp only [effRingLinkChange, if_true]

/-- R384: a link that trains at a device in training sends the join frame. -/
theorem effRingLinkChange_of_train {s s2 : State} {east : Bool} (hpin : s.ring.joinPin = true) (hdie : s.dieWorks (b2n east) = true)
    (hpd : s.pdOn (if east = true then 88 else 89) = true)
    (hs2 : s2 = s.put (if east = true then F.RING_STATUS_EAST_UP else F.RING_STATUS_WEST_UP) 1) (hstate : s2.get F.RING_STATUS_STATE = 1) :
    effRingLinkChange s east true false = (s2.put F.RING_STATUS_STATE 2).sendJoin := by
  subst hs2
  simp only [effRingLinkChange, hpin, hdie, hpd, hstate, Bool.not_true, Bool.or_self, Bool.false_eq_true, if_false, if_true]

/-- R380: a device that has lost both its links is out of the ring. -/
theorem effRingLinkChange_of_lost {s s2 : State} {east : Bool}
    (hs2 : s2 = s.put (if east = true then F.RING_STATUS_EAST_UP else F.RING_STATUS_WEST_UP) 0) (hpin : s2.ring.joinPin = true)
    (hstate : 2 ≤ s2.get F.RING_STATUS_STATE) (heast : s2.on F.RING_STATUS_EAST_UP = false) (hwest : s2.on F.RING_STATUS_WEST_UP = false) :
    effRingLinkChange s east false false = s2.leaveNow false := by
  subst hs2
  simp only [effRingLinkChange, hpin, ge_iff_le, hstate, heast, hwest, decide_true, Bool.not_false, Bool.and_self, Bool.false_eq_true,
    if_false, if_true]

section
variable {s : State} {t : Nat} (hjoin : s.ring.joinAt = some t) (hstate : s.get F.RING_STATUS_STATE = 1)
include hjoin hstate

theorem effRingTrainTimeout_of_due (hpin : s.ring.joinPin = true) (hdue : t + 20000000 ≤ s.time) :
    effRingTrainTimeout s = { s with ring := { s.ring with joinPin := false } } := by
  simp only [effRingTrainTimeout, hjoin, hpin, hstate, ge_iff_le, hdue, decide_true, Bool.and_self, if_true]

theorem effJoinRetry_of_due (hpin : s.ring.joinPin = false) (hdue : t + 1000000000 ≤ s.time) : effJoinRetry s = s.driveJoin := by
  simp only [effJoinRetry, hjoin, hpin, hstate, ge_iff_le, hdue, decide_true, Bool.not_false, Bool.and_self, if_true]

end

/-! ### The master gives positions (R385, R386) -/

/-- R385: a device that joins gets its position, and the tables are distributed. -/
theorem effJoin_of_position {s s2 s3 s4 s5 : State} {h : RingHdr} {serial rank east p inc : Nat} {fresh : Bool} (hgood : h.bad = false)
    (hmaster : s.isMaster = true) (hposition : s.positionFor serial east = some p) (hother : p ≠ s.myPos)
    (hs2 : s2 = if s.posPresent p = true then s.memberLost p else s)
    (hinc : inc = s2.get F.RING_MEMBER_INCARNATION p + (if (s.on F.RING_MEMBER_ASSIGNED p && fresh) = true then 1 else 0))
    (hs3 : s3 = (s2.setMember p serial rank true (inc % 2 ^ 16)).countMembers)
    (hs4 : s4 = (if (s.on F.RING_MEMBER_ASSIGNED p && fresh) = true
      then ({ s3 with ring := { s3.ring with peers := s3.ring.peers.set p {} } }.castMembers 0 (p + 1)).raise gRing 0
      else { s3 with ring := { s3.ring with peers := s3.ring.peers.set p {} } }.castMembers 0 (p + 1)).raise gRing 1)
    (hs5 : s5 = s4.ringCast 7 0 (shardBody 0 (s4.get F.RING_SHARD_EPOCH_CURRENT) [] s4.mapNow) 4096) :
    effJoin s h serial rank fresh false east = if (s5.on F.RING_CFG_AUTO_SHARD && s5.mapNow.all (fun o => s5.posPresent o)) = true
      then s5.changeTo (shareMap s5.presentMembers) else s5 := by
  subst hs5 hs4 hs3 hinc hs2
  simp only [effJoin, hgood, hmaster, hposition, hother, Bool.not_true, Bool.false_eq_true, if_false]

/-- What a MEMBERS frame without a new position leaves of the ring's state: the master, and the members that are present. -/
def State.hearMembers (s : State) (master : Nat) (rows : List (List Nat)) : State :=
  { s with ring := { s.ring with
    master := some master, timed := s.ring.timed && s.ring.master == some master, gotMembers := true
    lastPresent := (rows.filter (fun (w : List Nat) => w.getD 3 0 != 0)).map (fun (w : List Nat) => w.getD 0 0) } }

theorem hearMembers_beside (s : State) (master : Nat) (rows : List (List Nat)) :
    { s.hearMembers master rows with ring := s.ring } = s := rfl

/-- R386: a member takes its master, the rows and its own position. -/
theorem effMembers_of_listed {s : State} {h : RingHdr} {master : Nat} {rest mine : List Nat} (hgood : h.bad = false)
    (hstate : 2 ≤ s.get F.RING_STATUS_STATE) (hmaster : s.isMaster = false)
    (hmine : (runsOf 5 rest.length rest).find? (fun w => w.getD 1 0 == Config.serial) = some mine) :
    effMembers s h (0 :: master :: 0 :: rest) = (((((s.takeRows (runsOf 5 rest.length rest)).hearMembers master
      (runsOf 5 rest.length rest)).put F.RING_STATUS_POSITION (mine.getD 0 0)).countMembers).raise gRing 1).tryJoined := by
  have hrefused : ¬ 0 = Config.serial + 1 := (Nat.succ_ne_zero _).symm
  simp only [effMembers, hgood, Nat.not_lt.mpr hstate, hmaster, if_neg hrefused, hmine, bne_self_eq_false, Bool.false_and, decide_false,
    Bool.or_self, Bool.false_eq_true, if_false, if_true]
  rfl

/-! ### Leaving (R399) -/

theorem effRingLeave_of_joining {s : State} (hstate : s.get F.RING_STATUS_STATE = 1 ∨ s.get F.RING_STATUS_STATE = 2) :
    effRingLeave s = s.leaveNow true := by
  have hone : s.get F.RING_STATUS_STATE ≠ 0 := by rcases hstate with h | h <;> simp [h]
  have hlt : s.get F.RING_STATUS_STATE < 3 := by rcases hstate with h | h <;> simp [h]
  simp only [effRingLeave, if_neg hone, if_pos hlt]

/-- R399: the buckets of a member that leaves are given up first. -/
theorem effRingLeave_of_joined {s s2 : State} (hstate : s.get F.RING_STATUS_STATE = 3) (hleaving : s.ring.leaving = false)
    (halone : s.presentMembers.all (· == s.myPos) = false) (hs2 : s2 = { s with ring := { s.ring with leaving := true } }) :
    effRingLeave s = if s.isMaster = true then s2.changeTo (s2.mapWithout s.myPos) else s2.ringCast 5 0 (s2.joinWords true) 32 := by
  subst hs2
  simp only [effRingLeave, hstate, hleaving, halone, Bool.not_false, Bool.false_eq_true, if_false, if_true]
  rfl

theorem effRingForget_of_absent {s s2 : State} {pos : Nat} (hmaster : s.isMaster = true) (hpos : pos < 16) (hother : pos ≠ s.myPos)
    (hassigned : s.on F.RING_MEMBER_ASSIGNED pos = true) (habsent : s.posPresent pos = false)
    (hs2 : s2 = (s.putWord (F.RING_MEMBER_ASSIGNED.off pos 0) 0).putWord (F.RING_MEMBER_SERIAL_SERIAL.off pos 0) 0) :
    effRingForget s pos = { s2 with ring := { s2.ring with serials := s2.ring.serials.erase pos } }.castMembers 0 0 := by
  subst hs2
  simp only [effRingForget, hmaster, Nat.not_le.mpr hpos, hother, hassigned, habsent, decide_false, Bool.not_true, Bool.or_self,
    Bool.false_eq_true, if_false]

/-- Settles O41: each step of joining and of leaving by its conditions. -/
theorem ringMembersJoinAndLeave : Obligations.RingMembersJoinAndLeave := by
  refine ⟨?_, ?_, ?_, ?_, ?_, ?_, ?_, ?_⟩
  · intro e s s1 hs1
    subst hs1
    exact ⟨fun hoff => (exec_ringEnable ..).trans (congrArg _ (effRingEnable_of_off hoff)),
      fun hon => (exec_ringEnable ..).trans (congrArg _ (effRingEnable_of_on hon))⟩
  · intro e east west s s1 hs1 hstate hpin henable hlock
    subst hs1
    exact ⟨_, (exec_ringReceiveLock ..).trans (congrArg _ (effRingReceiveLock_of_lock hstate hpin henable hlock)), rfl, rfl, rfl⟩
  · intro e east s s1 s2 hs1
    subst hs1
    refine ⟨(exec_ringLinkChange ..).trans (congrArg _ (effRingLinkChange_of_idErr ..)), ?_, ?_⟩
    · intro hpin hdie hpd hs2 hstate
      exact (exec_ringLinkChange ..).trans (congrArg _ (effRingLinkChange_of_train hpin hdie hpd hs2 hstate))
    · intro hs2 hpin hstate heast hwest
      exact (exec_ringLinkChange ..).trans (congrArg _ (effRingLinkChange_of_lost hs2 hpin hstate heast hwest))
  · intro e t s s1 hs1 hjoin hstate
    subst hs1
    exact ⟨fun hpin hdue => (exec_ringTrainTimeout ..).trans (congrArg _ (effRingTrainTimeout_of_due hjoin hstate hpin hdue)),
      fun hpin hdue => (exec_joinRetry ..).trans (congrArg _ (effJoinRetry_of_due hjoin hstate hpin hdue))⟩
  · intro e h serial rank east p inc fresh s s1 s2 s3 s4 hs1 hgood hmaster hposition hother hs2 hinc hs3 hs4
    subst hs1
    exact ⟨_, rfl, (exec_join ..).trans
      (congrArg _ (effJoin_of_position hgood hmaster hposition hother hs2 hinc hs3 hs4 rfl))⟩
  · intro e h master rest mine s s1 s2 hs1 hgood hstate hmaster hmine hs2
    subst hs1 hs2
    exact ⟨((s.enter e).takeRows (runsOf 5 rest.length rest)).hearMembers master (runsOf 5 rest.length rest), rfl, rfl,
      hearMembers_beside _ _ _, (exec_members ..).trans (congrArg _ (effMembers_of_listed hgood hstate hmaster hmine))⟩
  · intro e s s1 hs1
    subst hs1
    exact ⟨fun hstate => (exec_ringLeave ..).trans (congrArg _ (effRingLeave_of_joining hstate)),
      fun hstate hleaving halone => (exec_ringLeave ..).trans (congrArg _ (effRingLeave_of_joined hstate hleaving halone rfl))⟩
  · intro e pos s s1 s2 hs1 hmaster hpos hother hassigned habsent hs2
    subst hs1
    exact (exec_ringForget ..).trans (congrArg _ (effRingForget_of_absent hmaster hpos hother hassigned habsent hs2))

end Sys2Proof.Machine
end

section
/-! PROOF. The ring master: heartbeats, takeover and time frames (R387, R397). -/

namespace Sys2Proof.Machine

open Sys2Proof

theorem exec_heartbeat (e : Env) (s : State) : exec (.heartbeat e) s = .next (effHeartbeat (s.enter e)) := rfl

theorem exec_heartbeatTimeout (e : Env) (s : State) : exec (.heartbeatTimeout e) s = .next (effHeartbeatTimeout (s.enter e)) := rfl

theorem exec_masterTakeover (e : Env) (s : State) : exec (.masterTakeover e) s = .next (effMasterTakeover (s.enter e)) := rfl

theorem exec_heartbeatReceived (e : Env) (h : RingHdr) (s : State) :
    exec (.heartbeatReceived e h) s = .next (effHeartbeatReceived (s.enter e) h) := rfl

theorem exec_time (e : Env) (h : RingHdr) (offset : Option Int) (delays : Option (Nat × Nat)) (s : State) :
    exec (.time e h offset delays) s = .next (effTime (s.enter e) h offset delays) := rfl

theorem exec_timeSend (e : Env) (s : State) : exec (.timeSend e) s = .next (effTimeSend (s.enter e)) := rfl

/-! ### Heartbeats (R386, R387) -/

section
variable {s : State} (hmaster : s.isMaster = true) (hdue : s.ring.heartbeatSent + 1000000 ≤ s.time)
include hmaster hdue

theorem effHeartbeat_of_majority (hmajority : s.majority = true) :
    effHeartbeat s = { s with ring := { s.ring with heartbeatSent := s.time } }.ringCast 4 0 [s.myPos] 8 := by
  simp only [effHeartbeat, hmaster, Nat.not_lt.mpr hdue, hmajority, Bool.not_true, decide_false, Bool.or_self, Bool.false_eq_true, if_false,
    if_true]

/-- R387: a master without a majority steps down. -/
theorem effHeartbeat_of_minority {s2 : State} (hminority : s.majority = false)
    (hs2 : s2 = (s.put F.RING_STATUS_ROLE 2).put F.RING_STATUS_NO_MASTER 1) :
    effHeartbeat s = { s2 with ring := { s2.ring with master := none, lastHeartbeat := s2.time } }.raise gRing 2 := by
  subst hs2
  simp only [effHeartbeat, hmaster, Nat.not_lt.mpr hdue, hminority, Bool.not_true, decide_false, Bool.or_self, Bool.false_eq_true, if_false]

end

/-! ### Takeover (R387) -/

section
variable {s : State} (hstate : s.get F.RING_STATUS_STATE = 3) (hrole : s.get F.RING_STATUS_ROLE ≠ 1)
  (hdue : s.ring.lastHeartbeat + 50000000 ≤ s.time)
include hstate hrole hdue

theorem effHeartbeatTimeout_of_due (hthere : s.on F.RING_STATUS_NO_MASTER = false) :
    effHeartbeatTimeout s
      = ((s.put F.RING_STATUS_NO_MASTER 1).put F.RING_STATUS_ROLE (if s.ring.rank = 0 then 0 else 2)).raise gRing 2 := by
  simp only [effHeartbeatTimeout, hstate, hrole, hthere, Nat.not_lt.mpr hdue, bne_self_eq_false, decide_false, Bool.or_self,
    Bool.false_eq_true, if_false]

/-- R387: the candidate of the highest rank takes over from a master that has fallen silent. -/
theorem effMasterTakeover_of_silent {q : Nat} (hrank : s.ring.rank ≠ 0) (hfirst : s.outranked = false) (hmaster : s.ring.master = some q)
    (hother : q ≠ s.myPos) (hmajority : (s.memberLost q).majority = true) : effMasterTakeover s = (s.memberLost q).becomeMaster := by
  have hjoined : s.mayForm = false := by simp [State.mayForm, hstate]
  simp only [effMasterTakeover, hjoined, hstate, hrole, hrank, hfirst, Nat.not_lt.mpr hdue, hmaster, if_neg hother, hmajority,
    bne_self_eq_false, decide_false, Bool.or_self, Bool.false_eq_true, if_false, if_true]

end

theorem effMasterTakeover_of_form {s : State} (hform : s.mayForm = true) : effMasterTakeover s = s.formRing := if_pos hform

/-! ### A member hears its master (R387, R397) -/

theorem effHeartbeatReceived_of_bad {s : State} {h : RingHdr} (hbad : h.bad = true) :
    effHeartbeatReceived s h = s.bump F.RING_TAG_FAIL_COUNT := if_pos hbad

/-- What a heartbeat leaves at a member. -/
def State.heardMaster (s : State) (src : Nat) : State :=
  { (s.put F.RING_STATUS_NO_MASTER 0).put F.RING_STATUS_ROLE 0 with
    ring := { s.ring with lastHeartbeat := s.time, master := some src, timed := s.ring.timed && s.ring.master == some src } }

theorem get_heardMaster (s : State) (src : Nat) :
    (s.heardMaster src).get F.RING_STATUS_NO_MASTER = 0 ∧ (s.heardMaster src).get F.RING_STATUS_ROLE = 0 := by
  have hregs : (s.heardMaster src).regs = ((s.put F.RING_STATUS_NO_MASTER 0).put F.RING_STATUS_ROLE 0).regs := rfl
  rw [get_congr hregs, get_congr hregs, get_put_apart _ _ _ _ _ _ _ _ (by decide), get_put _ _ _ _ _ (by decide) (by decide) (by decide),
    get_put _ _ _ _ _ (by decide) (by decide) (by decide)]
  exact ⟨rfl, rfl⟩

theorem effHeartbeatReceived_of_member {s : State} {h : RingHdr} (hgood : h.bad = false) (hstate : s.get F.RING_STATUS_STATE = 3)
    (hsrc : h.src ≠ s.myPos) (hmaster : s.isMaster = false) : effHeartbeatReceived s h = s.heardMaster h.src := by
  simp only [effHeartbeatReceived, hgood, hstate, hsrc, hmaster, bne_self_eq_false, decide_false, Bool.or_self, Bool.false_and,
    Bool.false_eq_true, if_false]
  rfl

/-- R397: the master's time sets a member's offset, and within 100 ns it is in step. -/
theorem effTime_of_timed {s s2 : State} {h : RingHdr} {o : Int} (hgood : h.bad = false) (hstate : 2 ≤ s.get F.RING_STATUS_STATE)
    (hmaster : s.isMaster = false) (hmember : s.ring.gotMembers = true) (hsrc : s.ring.master = some h.src) (htimed : s.ring.timed = true)
    (hs2 : s2 = (s.put F.RING_TIME_OFFSET_NS (o % 2 ^ 32).toNat).put F.RING_STATUS_SYNCED
      (b2n (decide (-100 ≤ o) && decide (o ≤ 100)))) :
    effTime s h (some o) none = { s2 with ring := { s2.ring with timed := true } }.tryJoined := by
  subst hs2
  simp only [effTime, hgood, Nat.not_lt.mpr hstate, hmaster, hmember, hsrc, put_ring, htimed, bne_self_eq_false, Bool.not_true, Bool.or_self,
    Bool.false_and, Bool.false_or, Bool.false_eq_true, if_false]

/-- Settles O42: the master's part and the members' part by their conditions. -/
theorem ringMasterBeatsAndTakesOver : Obligations.RingMasterBeatsAndTakesOver := by
  refine ⟨?_, ?_, ?_, ?_, ?_, ?_⟩
  · intro e s s1 s2 hs1 hmaster hdue
    subst hs1
    exact ⟨fun hmajority => (exec_heartbeat ..).trans (congrArg _ (effHeartbeat_of_majority hmaster hdue hmajority)),
      fun hminority hs2 => (exec_heartbeat ..).trans (congrArg _ (effHeartbeat_of_minority hmaster hdue hminority hs2))⟩
  · intro e s s1 hs1 hstate hrole hdue
    subst hs1
    refine ⟨fun hthere => (exec_heartbeatTimeout ..).trans (congrArg _ (effHeartbeatTimeout_of_due hstate hrole hdue hthere)), ?_⟩
    intro q hrank hfirst hmaster hother hmajority
    exact (exec_masterTakeover ..).trans
      (congrArg _ (effMasterTakeover_of_silent hstate hrole hdue hrank hfirst hmaster hother hmajority))
  · intro e s s1 hs1 hform
    subst hs1
    exact (exec_masterTakeover ..).trans (congrArg _ (effMasterTakeover_of_form hform))
  · intro e h s s1 hs1
    subst hs1
    refine ⟨fun hbad => (exec_heartbeatReceived ..).trans (congrArg _ (effHeartbeatReceived_of_bad hbad)), ?_⟩
    intro hgood hstate hsrc hmaster
    obtain ⟨hnoMaster, hrole⟩ := get_heardMaster (s.enter e) h.src
    exact ⟨_, (exec_heartbeatReceived ..).trans (congrArg _ (effHeartbeatReceived_of_member hgood hstate hsrc hmaster)), hnoMaster, hrole,
      rfl, rfl, rfl⟩
  · intro e h o s s1 hs1 hgood hstate hmaster hmember hsrc htimed
    subst hs1
    exact ⟨_, rfl, (exec_time ..).trans (congrArg _ (effTime_of_timed hgood hstate hmaster hmember hsrc htimed rfl))⟩
  · intro e s s1 hs1
    subst hs1
    rw [exec_timeSend]
    exact ⟨fun hmaster => congrArg _ (if_pos hmaster),
      fun hmaster hstate => congrArg _ ((if_neg (by simp [hmaster])).trans (if_pos hstate))⟩

end Sys2Proof.Machine
end

section
/-! PROOF. The shard map changes under the master (R393 to R396). -/

namespace Sys2Proof.Machine

open Sys2Proof

theorem exec_ringCommit (e : Env) (s : State) : exec (.ringCommit e) s = .next (effRingCommit (s.enter e)) := rfl

theorem exec_ringRebalance (e : Env) (s : State) : exec (.ringRebalance e) s = .next (effRingRebalance (s.enter e)) := rfl

theorem exec_shardReassign (e : Env) (pos : Nat) (s : State) : exec (.shardReassign e pos) s = .next (effShardReassign (s.enter e) pos) := rfl

theorem exec_shardTransferDone (e : Env) (s : State) : exec (.shardTransferDone e) s = .next (effShardTransferDone (s.enter e)) := rfl

theorem exec_shard (e : Env) (h : RingHdr) (body : List Nat) (s : State) :
    exec (.shard e h body) s = .next (effShard (s.enter e) h body) := rfl

section
variable {s : State} (hmaster : s.isMaster = true)
include hmaster

/-- R393: the staged entries of a master that does not share the buckets itself become the map. -/
theorem effRingCommit_of_master (hmanual : s.on F.RING_CFG_AUTO_SHARD = false) :
    effRingCommit s = ({ s with ring := { s.ring with staged := [] } }).changeTo (s.mapNow.mapIdx (fun b o => s.ring.staged.getD b o)) := by
  simp only [effRingCommit, hmaster, hmanual, Bool.not_true, Bool.or_self, Bool.false_eq_true, if_false]

theorem effRingRebalance_of_master (hauto : s.on F.RING_CFG_AUTO_SHARD = true) :
    effRingRebalance s = s.changeTo (shareMap s.presentMembers) := if_pos (by simp [hmaster, hauto])

/-- R395: the buckets of a member absent for REASSIGN_MS are given to others. -/
theorem effShardReassign_of_absent {pos t : Nat} (hauto : s.on F.RING_CFG_AUTO_SHARD = true)
    (habsentAt : (s.ring.peers.getD pos {}).absentAt = some t) (hpos : pos < 16) (habsent : s.posPresent pos = false)
    (howns : s.mapNow.contains pos = true) (hdue : t + s.get F.RING_CFG_REASSIGN_MS * 1000000 ≤ s.time) :
    effShardReassign s pos = s.changeTo (s.mapWithout pos) := by
  simp only [effShardReassign, habsentAt, hmaster, hauto, hpos, habsent, howns, ge_iff_le, hdue, decide_true, Bool.not_false, Bool.and_self,
    if_true]

/-- R394: a change commits when every new owner has answered. -/
theorem effShardTransferDone_of_answered {m : List Nat} (hnext : s.ring.next = some m) (hpurges : s.ring.purges = [])
    (htransfers : s.ring.transfers = []) :
    effShardTransferDone s = ((s.ringCast 7 0 (shardBody 2 ((s.get F.RING_SHARD_EPOCH_CURRENT + 1) % 256) [] m) 4096).setMap
      ((s.get F.RING_SHARD_EPOCH_CURRENT + 1) % 256) m).changeWanted := by
  simp only [effShardTransferDone, hnext, hmaster, hpurges, htransfers, List.filter_nil, bne_self_eq_false, Bool.not_true, Bool.or_self,
    Bool.false_eq_true, if_false]

end

section
variable {s : State} {h : RingHdr} (hgood : h.bad = false) (hstate : 2 ≤ s.get F.RING_STATUS_STATE) (hmember : s.isMaster = false)
  (hgot : s.ring.gotMembers = true) (hsrc : s.ring.master = some h.src)
include hgood hstate hmember hgot hsrc

/-- R394: a member moves its entries when the change opens. -/
theorem effShard_prepare (epoch : Nat) (ws : List Nat) : effShard s h (1 :: epoch :: ws)
    = (({ s with ring := { s.ring with next := some (ws.map (· % 16)) } }).put F.RING_SHARD_EPOCH_CHANGING 1).sendMoving
        (ws.map (· % 16)) := by
  simp only [effShard, hgood, Nat.not_lt.mpr hstate, hmember, hgot, hsrc, bne_self_eq_false, decide_false, Bool.not_true, Bool.or_self,
    Bool.false_eq_true, if_false, if_true]

/-- R394: a member takes the map when the change closes. -/
theorem effShard_commit {phase : Nat} (epoch : Nat) (ws : List Nat) (hphase : phase ≠ 1) : effShard s h (phase :: epoch :: ws)
    = { s.setMap (epoch % 256) (ws.map (· % 16)) with
        ring := { (s.setMap (epoch % 256) (ws.map (· % 16))).ring with gotMap := true } }.tryJoined := by
  simp only [effShard, hgood, Nat.not_lt.mpr hstate, hmember, hgot, hsrc, hphase, bne_self_eq_false, decide_false, Bool.not_true,
    Bool.or_self, Bool.false_eq_true, if_false]

end

/-- Settles O43: the master's commands and the members' frames by their conditions. -/
theorem shardMapsChangeUnderTheMaster : Obligations.ShardMapsChangeUnderTheMaster := by
  refine ⟨?_, ?_, fun _ _ _ => rfl⟩
  · intro e s s1 hs1 hmaster
    subst hs1
    refine ⟨fun hmanual => (exec_ringCommit ..).trans (congrArg _ (effRingCommit_of_master hmaster hmanual)),
      fun hauto => (exec_ringRebalance ..).trans (congrArg _ (effRingRebalance_of_master hmaster hauto)), ?_, ?_⟩
    · intro pos t hauto habsentAt hpos habsent howns hdue
      exact (exec_shardReassign ..).trans
        (congrArg _ (effShardReassign_of_absent hmaster hauto habsentAt hpos habsent howns hdue))
    · intro m hnext hpurges htransfers
      exact (exec_shardTransferDone ..).trans (congrArg _ (effShardTransferDone_of_answered hmaster hnext hpurges htransfers))
  · intro e h epoch ws m s s1 hs1 hgood hstate hmember hgot hsrc hm
    subst hs1 hm
    exact ⟨(exec_shard ..).trans (congrArg _ (effShard_prepare hgood hstate hmember hgot hsrc epoch ws)), fun phase hphase =>
      ⟨_, rfl, (exec_shard ..).trans (congrArg _ (effShard_commit hgood hstate hmember hgot hsrc epoch ws hphase))⟩⟩

end Sys2Proof.Machine
end

section
/-! PROOF. Errors that readers find, retirement, store recovery, fatal faults and faulted units (R403 to R422). -/

namespace Sys2Proof.Machine

open Sys2Proof

theorem exec_hbmScrub (e : Env) (source unit : Nat) (errs : List (Nat × Nat)) (addr : Nat) (hit : ScrubHit) (lap : Option (Bool × Nat))
    (pct : Option Nat) (s : State) :
    exec (.hbmScrub e source unit errs addr hit lap pct) s = .next (effHbmScrub (s.enter e) source unit errs addr hit lap pct) := rfl

theorem exec_scrubStalled (e : Env) (s : State) : exec (.scrubStalled e) s = .next (effScrubStalled (s.enter e)) := rfl

theorem exec_rasRetireGo (e : Env) (kind unit die : Nat) (s : State) :
    exec (.rasRetireGo e kind unit die) s = .next (effRasRetireGo (s.enter e) kind unit die) := rfl

theorem exec_storeRecovery (e : Env) (badLeaves badSeqs : List Nat) (s : State) :
    exec (.storeRecovery e badLeaves badSeqs) s = .next (effStoreRecovery (s.enter e) badLeaves badSeqs) := rfl

theorem exec_fatalFault (e : Env) (works : Bool) (die : Option Nat) (s : State) :
    exec (.fatalFault e (works, die)) s = .next (effFatalFault (s.enter e) works die) := rfl

theorem exec_keepRestart (e : Env) (s : State) : exec (.keepRestart e) s = .next (effKeepRestart (s.enter e)) := rfl

theorem exec_saplingFault (e : Env) (cluster core : Nat) (s : State) :
    exec (.saplingFault e cluster core) s = .next (effSaplingFault (s.enter e) cluster core) := rfl

theorem exec_codecSliceReset (e : Env) (g : Nat) (s : State) : exec (.codecSliceReset e g) s = .next (effCodecSliceReset (s.enter e) g) := rfl

/-! ### What a reader finds (R403, R405, R417) -/

/-- The end of a lap that a reader reports; of HBM, while the stacks are not in self-refresh. -/
def State.noteLap (s : State) (lap : Option (Bool × Nat)) : State :=
  match lap with
  | some (hbm, v) => if hbm && s.inSr then s else s.endLap hbm v
  | none => s

/-- The progress of a lap. -/
def State.noteProgress (s : State) (pct : Option Nat) : State :=
  match pct with
  | some v => s.put F.RAS_SCRUB_POS_PCT (min 100 v)
  | none => s

section
variable {s : State} (hphase : 1 ≤ s.phase) (hfatal : s.on F.RAS_STATUS_FATAL = false)
include hphase hfatal

/-- What the errors of a word bring about comes first, then what is said of the lap. -/
theorem effHbmScrub_progress (source unit : Nat) (errs : List (Nat × Nat)) (addr : Nat) (hit : ScrubHit) (lap : Option (Bool × Nat))
    (pct : Option Nat) : effHbmScrub s source unit errs addr hit lap pct
      = ((effHbmScrub s source unit errs addr hit none none).noteLap lap).noteProgress pct := by
  simp only [effHbmScrub, hfatal, Nat.not_lt.mpr hphase, decide_false, Bool.or_self, Bool.false_eq_true, if_false]
  rfl

theorem effHbmScrub_poisonRead (source unit : Nat) (errs : List (Nat × Nat)) (addr : Nat) :
    effHbmScrub s source unit errs addr .poisonRead none none = s.bump F.RAS_HBM_POISON_READS_COUNT := by
  simp only [effHbmScrub, hfatal, Nat.not_lt.mpr hphase, decide_false, Bool.or_self, Bool.false_eq_true, if_false]

/-- A word in error is one of HBM (source 0) or one on the die (sources 1 to 6). -/
theorem effHbmScrub_word (source unit : Nat) (errs : List (Nat × Nat)) (addr : Nat) {hit : ScrubHit}
    (hdirectory : ∀ ls qs, hit ≠ .directory ls qs) (hpoison : hit ≠ .poisonRead) :
    effHbmScrub s source unit errs addr hit none none =
      if source = 0 then (if unit ≥ (s.injectDone source unit).stacks || (s.injectDone source unit).inSr then s.injectDone source unit
        else (s.injectDone source unit).hbmError unit errs addr hit)
      else if source ≤ 6 then (s.injectDone source unit).sramError source unit errs addr hit else s.injectDone source unit := by
  cases hit with
  | poisonRead => exact absurd rfl hpoison
  | directory ls qs => exact absurd rfl (hdirectory ls qs)
  | _ => simp only [effHbmScrub, hfatal, Nat.not_lt.mpr hphase, decide_false, Bool.or_self, Bool.false_eq_true, if_false]

end

theorem effScrubStalled_of_late {s : State} (hphase : 2 ≤ s.phase) (honce : s.on F.RAS_SCRUB_POS_STALLED = false)
    (hlate : s.ras.lapStart + max 1 (s.get F.RAS_SCRUB_CFG_WARN_H) * 3600000000000 ≤ s.time) :
    effScrubStalled s = (s.put F.RAS_SCRUB_POS_STALLED 1).raise gRasCorrected 2 := by
  simp only [effScrubStalled, Nat.not_lt.mpr hphase, honce, Nat.not_lt.mpr hlate, decide_false, Bool.or_self, Bool.false_eq_true, if_false]

/-! ### Retirement (R413) -/

section
variable {s s2 : State} {kind unit err : Nat} (die : Nat) (hkind : kind < 6) (hphase : 2 ≤ s.phase)
  (herr : err = s.retireErr kind unit (s.slotOf? (s.pair F.RAS_RETIRE_ADDR_LO_ADDR F.RAS_RETIRE_ADDR_HI_ADDR)))
  (hs2 : s2 = s.put F.RAS_RETIRE_STATUS_ERR err)
include hkind hphase herr hs2

theorem effRasRetireGo_of_refused (hrefused : err ≠ 0) : effRasRetireGo s kind unit die = s2 := by
  subst hs2
  simp only [effRasRetireGo, Nat.not_le.mpr hkind, Nat.not_lt.mpr hphase, ← herr, bne_iff_ne, ne_eq, hrefused, not_false_eq_true, if_true,
    decide_false, Bool.or_self, Bool.false_eq_true, if_false]

theorem effRasRetireGo_of_slot {k : Nat} (hok : err = 0) (hzero : kind = 0)
    (hslot : s.slotOf? (s.pair F.RAS_RETIRE_ADDR_LO_ADDR F.RAS_RETIRE_ADDR_HI_ADDR) = some k) :
    effRasRetireGo s kind unit die = ({ s2 with ras := { s2.ras with retiring := some (0, k) } }).retireSlot k := by
  have hguard : (decide (kind ≥ 6) || decide (s.phase < 2)) = false := by
    rw [decide_eq_false (Nat.not_le.mpr hkind), decide_eq_false (Nat.not_lt.mpr hphase)]
    rfl
  subst hs2
  rw [hslot] at herr
  simp only [effRasRetireGo, hguard, ← herr, hok, if_pos hzero, hslot, bne_self_eq_false, Bool.false_eq_true, if_false]

theorem effRasRetireGo_of_unit (hok : err = 0) (hunit : kind ≠ 0) :
    effRasRetireGo s kind unit die = ({ s2 with ras := { s2.ras with retiring := some (kind, unit) } }).retireUnit kind unit (die % 16) := by
  subst hs2
  simp only [effRasRetireGo, Nat.not_le.mpr hkind, Nat.not_lt.mpr hphase, ← herr, hok, bne_self_eq_false, hunit,
    decide_false, Bool.or_self, Bool.false_eq_true, if_false]

end

/-! ### Store recovery, fatal faults and faulted units (R418 to R422) -/

theorem effStoreRecovery_of_serves {s s2 s3 : State} (badLeaves badSeqs : List Nat) (hserves : s.serves = true)
    (hs2 : s2 = (s.put F.RAS_STATUS_RECOVERING 1).raise gRasUncorrected 2)
    (hs3 : s3 = ((List.range 128).filter s2.partActive).foldl (fun (s : State) p => (s.put F.PART_RAS_STATUS_RECOVERED 1 p).refreshPart p) s2) :
    effStoreRecovery s badLeaves badSeqs = (((((s3.commitFormed).endRequests true).stopSpires).rebuildTier badLeaves badSeqs).put
      F.RAS_STATUS_RECOVERING 0).bump F.RAS_STATUS_RECOVERIES := by
  subst hs3 hs2
  simp only [effStoreRecovery, hserves, Bool.not_true, Bool.false_eq_true, if_false]

/-- R422: the Spires stop; requests end where the host port still works, and go where it does not. -/
theorem effFatalFault_of_first {s : State} (hphase : s.phase ≠ 0) (hfirst : s.on F.RAS_STATUS_FATAL = false) (works : Bool) :
    effFatalFault s true none = ((s.setFatal).endRequests false).stopSpires
      ∧ effFatalFault s false none = ({ s.setFatal with reqs := [], insts := [] } : State).stopSpires
      ∧ effFatalFault s true (some 1) = (((s.setFatal).endRequests false).stopSpires).stopDie 1
      ∧ effFatalFault s works (some 0) = (({ s.setFatal with reqs := [], insts := [] } : State).stopSpires).stopDie 0 := by
  have hother : ((some 1 : Option Nat) != some 0) = true := rfl
  have hnone : ((none : Option Nat) != some 0) = true := rfl
  simp only [effFatalFault, hphase, hfirst, hother, hnone, bne_self_eq_false, decide_false, Bool.or_self, Bool.and_false, Bool.and_true,
    Bool.false_eq_true, if_false, if_true, Nat.one_lt_two, Nat.zero_lt_two, and_self]

theorem effKeepRestart_of_running {s : State} (hkeep : s.boot.keep = true) : effKeepRestart s
    = ((({ s with boot := { s.boot with keep := false } }).setKeepDown 1).bump F.RAS_KEEP_RESTARTS_COUNT).raise gFirmware 1 :=
  if_neg (by simp [hkeep])

theorem effSaplingFault_of_working {s : State} {cluster core : Nat} (hcluster : cluster < 8) (hcore : core < 32)
    (hpd : s.pdOn (48 + cluster) = true) (hworks : s.ras.faulted.contains (cluster * 32 + core) = false) : effSaplingFault s cluster core
    = (({ s with ras := { s.ras with faulted := (cluster * 32 + core) :: s.ras.faulted } }).bump F.SAPL_FAULTS_COUNT).raise gSapling 0 := by
  simp only [effSaplingFault, Nat.not_le.mpr hcluster, Nat.not_le.mpr hcore, hpd, hworks, decide_false, Bool.not_true, Bool.or_self,
    Bool.false_eq_true, if_false]

/-- Settles O44: what a reader finds by its source, and each of the others by its conditions. -/
theorem errorsAreFoundAndRepaired : Obligations.ErrorsAreFoundAndRepaired := by
  refine ⟨?_, ?_, ?_, ?_, ?_, ?_, ?_, ?_⟩
  · intro e unit addr errs hit s s1 hs1 hphase hfatal
    subst hs1
    refine ⟨(exec_hbmScrub ..).trans (congrArg _ (effHbmScrub_poisonRead hphase hfatal 0 unit errs addr)), ?_, ?_⟩
    · intro hdirectory hpoison hunit hawake
      rw [exec_hbmScrub, effHbmScrub_word hphase hfatal 0 unit errs addr hdirectory hpoison, if_pos rfl]
      exact congrArg _ (if_neg (by simp [hunit, hawake]))
    · intro source hdirectory hpoison hsource hlast
      refine ⟨?_, ?_⟩
      · rw [exec_hbmScrub, effHbmScrub_word hphase hfatal source unit errs addr hdirectory hpoison, if_neg (Nat.ne_of_gt hsource)]
        exact congrArg _ (if_pos hlast)
      · intro lap pct s2 s3 hs2 hs3
        obtain rfl := Host.Outcome.next.inj ((exec_hbmScrub ..).symm.trans hs2)
        subst hs3
        exact (exec_hbmScrub ..).trans (congrArg _ (effHbmScrub_progress hphase hfatal source unit errs addr hit lap pct))
  · intro e s s1 hs1 hphase honce hlate
    subst hs1
    exact (exec_scrubStalled ..).trans (congrArg _ (effScrubStalled_of_late hphase honce hlate))
  · intro e kind unit die err s s1 s2 hs1 hkind hphase herr hs2
    subst hs1
    rw [exec_rasRetireGo]
    exact ⟨fun hrefused => congrArg _ (effRasRetireGo_of_refused die hkind hphase herr hs2 hrefused),
      fun k hok hzero hslot => congrArg _ (effRasRetireGo_of_slot die hkind hphase herr hs2 hok hzero hslot),
      fun hok hunit => congrArg _ (effRasRetireGo_of_unit die hkind hphase herr hs2 hok hunit)⟩
  · intro e badLeaves badSeqs s s1 s2 s3 hs1 hserves hs2 hs3
    subst hs1
    exact (exec_storeRecovery ..).trans (congrArg _ (effStoreRecovery_of_serves badLeaves badSeqs hserves hs2 hs3))
  · intro e s s1 hs1 hphase hfirst
    subst hs1
    have hfatal := effFatalFault_of_first hphase hfirst
    obtain ⟨hserved, hunserved, hdie1, -⟩ := hfatal true
    refine ⟨?_, ?_, ?_, fun w => ?_⟩
    · rw [exec_fatalFault, hserved]
    · rw [exec_fatalFault, hunserved]
    · rw [exec_fatalFault, hdie1]
    · obtain ⟨-, -, -, hdie0⟩ := hfatal w
      rw [exec_fatalFault, hdie0]
  · intro e s s1 hs1 hkeep
    subst hs1
    exact (exec_keepRestart ..).trans (congrArg _ (effKeepRestart_of_running hkeep))
  · intro e cluster core s s1 hs1 hcluster hcore hpd hworks
    subst hs1
    exact (exec_saplingFault ..).trans (congrArg _ (effSaplingFault_of_working hcluster hcore hpd hworks))
  · intro e g s s1 hs1
    subst hs1
    exact ⟨_, exec_codecSliceReset .., Table.get?_erase_same _ _, rfl⟩

end Sys2Proof.Machine
end

section
/-! PROOF. The check-bit test mode, error injection and self-tests (R414 to R416). -/

namespace Sys2Proof.Machine

open Sys2Proof

theorem exec_readRaw (e : Env) (s : State) : exec (.readRaw e) s = .next (effReadRaw (s.enter e)) := rfl

theorem exec_writeRaw (e : Env) (s : State) : exec (.writeRaw e) s = .next (effWriteRaw (s.enter e)) := rfl

theorem exec_rasInjectArm (e : Env) (target unit bits : Nat) (s : State) :
    exec (.rasInjectArm e target unit bits) s = .next (effRasInjectArm (s.enter e) target unit bits) := rfl

theorem exec_rasBistGo (e : Env) (target unit : Nat) (s : State) :
    exec (.rasBistGo e target unit) s = .next (effRasBistGo (s.enter e) target unit) := rfl

theorem exec_bistDone (e : Env) (target unit fails : Nat) (failed : List Nat) (s : State) :
    exec (.bistDone e target unit fails failed) s = .next (effBistDone (s.enter e) target unit fails failed) := rfl

/-! ### The check-bit test mode (R414) -/

section
variable {s : State} (henable : s.on F.RAS_CBT_CTL_ENABLE = true) (hphase : 2 ≤ s.phase)
include henable hphase

theorem effReadRaw_of_outside (hout : s.hbmBytes ≤ s.cbtWord * 224) : effReadRaw s = s.put F.RAS_CBT_STATUS_ERR 1 := by
  simp only [effReadRaw, henable, Nat.not_lt.mpr hphase, ge_iff_le, hout, decide_true, Bool.true_or, Bool.not_true, decide_false,
    Bool.or_self, Bool.false_eq_true, if_false, if_true]

/-- R414: a raw read brings the codeword into the host's buffer. -/
theorem effReadRaw_of_inside {s2 : State} {bs : Bytes} (hin : s.cbtWord * 224 < s.hbmBytes)
    (hbuffer : s.rangeFails (memKey 0 s.cbtBuf) 256 = false) (hread : s.cwBytes s.cbtWord = (bs, s2)) :
    effReadRaw s = (s2.busWrite (memKey 0 s2.cbtBuf) bs).deviceFrame 256 := by
  simp only [effReadRaw, henable, Nat.not_lt.mpr hphase, Nat.not_le.mpr hin, hbuffer, hread, Bool.not_true, decide_false,
    Bool.or_self, Bool.false_eq_true, if_false]

variable {bs : Bytes} (hbuffer : s.busRead (memKey 0 s.cbtBuf) 256 = .ok bs)
include hbuffer

theorem effWriteRaw_of_outside (hout : s.hbmBytes ≤ s.cbtWord * 224) : effWriteRaw s = s.put F.RAS_CBT_STATUS_ERR 1 := by
  simp only [effWriteRaw, henable, Nat.not_lt.mpr hphase, hbuffer, ge_iff_le, hout, Bool.not_true, decide_false, Bool.or_self,
    Bool.false_eq_true, if_false, if_true]

/-- R414: a raw write does to what lies in the codeword what its bytes read as, and the bytes stay as they were written. -/
theorem effWriteRaw_of_inside {s2 s3 : State} {old : Bytes} {r : RawRead} (hin : s.cbtWord * 224 < s.hbmBytes)
    (hread : s.cwBytes s.cbtWord = (old, s2)) (hraw : s2.rawRead old bs = (r, s3)) :
    ∃ n, effWriteRaw s = { s3.applyRaw s.cbtWord r with
      ras := { (s3.applyRaw s.cbtWord r).ras with raw := (s3.applyRaw s.cbtWord r).ras.raw.set s.cbtWord (n, bs) } } := by
  simp only [effWriteRaw, henable, Nat.not_lt.mpr hphase, hbuffer, Nat.not_le.mpr hin, hread, hraw, Bool.not_true, decide_false,
    Bool.or_self, Bool.false_eq_true, if_false]
  exact ⟨_, rfl⟩

end

/-- The registers of RAS_INJECT as written. -/
def State.injectWritten (s : State) (target unit bits : Nat) : State :=
  ((s.put F.RAS_INJECT_TARGET (target % 16)).put F.RAS_INJECT_UNIT (unit % 256)).put F.RAS_INJECT_BITS (bits % 4)

theorem effRasInjectArm_of_open {s : State} {target unit bits : Nat}
    (henable : (s.injectWritten target unit bits).on F.RAS_CBT_CTL_ENABLE = true) :
    effRasInjectArm s target unit bits = ((s.injectWritten target unit bits).put F.RAS_INJECT_ARM 1).setDebug 2 :=
  if_neg (c := (!(s.injectWritten target unit bits).on F.RAS_CBT_CTL_ENABLE) = true) (by simp [henable])

theorem effRasInjectArm_of_closed {s : State} {target unit bits : Nat}
    (henable : (s.injectWritten target unit bits).on F.RAS_CBT_CTL_ENABLE = false) :
    effRasInjectArm s target unit bits = s.injectWritten target unit bits :=
  if_pos (c := (!(s.injectWritten target unit bits).on F.RAS_CBT_CTL_ENABLE) = true) (by simp [henable])

/-! ### Self-tests (R415, R416) -/

section
variable {s : State} {target unit : Nat} (hphase : 2 ≤ s.phase) (hfatal : s.on F.RAS_STATUS_FATAL = false)
include hphase hfatal

theorem effRasBistGo_of_busy (hbusy : s.ras.bist.isSome = true) : effRasBistGo s target unit = s.put F.RAS_BIST_STATUS_REFUSED 1 := by
  simp only [effRasBistGo, Nat.not_lt.mpr hphase, hfatal, hbusy, decide_false, Bool.or_self, Bool.true_or, Bool.false_eq_true, if_false,
    if_true]

/-- R415: a self-test of an idle unit begins; that of HBM shows on the debug pin. -/
theorem effRasBistGo_of_idle {s2 : State} (hidle : s.ras.bist = none) (hok : s.bistOk target unit = true)
    (hs2 : s2 = { s.put F.RAS_BIST_STATUS_BUSY 1 with ras := { s.ras with bist := some (target, unit) } }) :
    effRasBistGo s target unit = if target = 5 then s2.setDebug 4 else s2 := by
  subst hs2
  simp only [effRasBistGo, Nat.not_lt.mpr hphase, hfatal, hidle, Option.isSome_none, hok, Bool.not_true, decide_false, Bool.or_self,
    Bool.false_eq_true, if_false]

end

/-- What the end of a self-test that was asked for reports. -/
def State.bistReport (s : State) (fails : Nat) : State :=
  (((({ s with ras := { s.ras with bist := none } } : State).put F.RAS_BIST_STATUS_BUSY 0).put F.RAS_BIST_STATUS_PASS (b2n (fails = 0))).put
    F.RAS_BIST_STATUS_FAILS (min fails (2 ^ 16 - 1)))

theorem bistReport_bist (s : State) (fails : Nat) : (s.bistReport fails).ras.bist = none := rfl

theorem bistReport_beside (s : State) (fails : Nat) : { s.bistReport fails with ras := s.ras, regs := s.regs } = s := rfl

theorem get_bistReport_busy (s : State) (fails : Nat) : (s.bistReport fails).get F.RAS_BIST_STATUS_BUSY = 0 := by
  unfold State.bistReport
  rw [get_put_apart _ _ _ _ _ _ _ _ (by decide), get_put_apart _ _ _ _ _ _ _ _ (by decide),
    get_put _ _ _ _ _ (by decide) (by decide) (by decide)]
  rfl

theorem get_bistReport_pass (s : State) (fails : Nat) : (s.bistReport fails).get F.RAS_BIST_STATUS_PASS = b2n (fails = 0) := by
  unfold State.bistReport
  rw [get_put_apart _ _ _ _ _ _ _ _ (by decide), get_put _ _ _ _ _ (by decide) (by decide) (by decide)]
  cases decide (fails = 0) <;> rfl

theorem get_bistReport_fails (s : State) (fails : Nat) : (s.bistReport fails).get F.RAS_BIST_STATUS_FAILS = min fails (2 ^ 16 - 1) := by
  unfold State.bistReport
  rw [get_put _ _ _ _ _ (by decide) (by decide) (by decide)]
  exact Nat.mod_eq_of_lt (Nat.lt_of_le_of_lt (Nat.min_le_right _ _) (by decide))

/-- R416: a self-test of HBM has lost tier 0; what has failed is retired, and the outcome is reported. -/
theorem effBistDone_of_asked {s s2 : State} {target unit : Nat} (fails : Nat) {failed : List Nat} (hasked : s.ras.bist = some (target, unit))
    (hs2 : s2 = (if target = 5 then s.loseTier else s).bistFail target unit failed) :
    effBistDone s target unit fails failed = s2.bistReport fails := by
  subst hs2
  simp only [effBistDone, hasked, beq_self_eq_true, Bool.not_true, Bool.false_and, Bool.false_eq_true, if_false, if_true]
  rfl

/-- Settles O45: raw accesses, injection and self-tests by their conditions; a report by the fields that it writes. -/
theorem checkBitTestsAndSelfTests : Obligations.CheckBitTestsAndSelfTests := by
  refine ⟨?_, ?_, ?_, ?_, ?_⟩
  · intro e s s1 s2 bs hs1 henable hphase
    subst hs1
    exact ⟨fun hout => (exec_readRaw ..).trans (congrArg _ (effReadRaw_of_outside henable hphase hout)),
      fun hin hbuffer hread => (exec_readRaw ..).trans (congrArg _ (effReadRaw_of_inside henable hphase hin hbuffer hread))⟩
  · intro e s s1 s2 s3 bs old r hs1 henable hphase hbuffer
    subst hs1
    refine ⟨fun hout => (exec_writeRaw ..).trans (congrArg _ (effWriteRaw_of_outside henable hphase hbuffer hout)), ?_⟩
    intro hin hread hraw
    obtain ⟨n, hn⟩ := effWriteRaw_of_inside henable hphase hbuffer hin hread hraw
    exact ⟨_, n, rfl, (exec_writeRaw ..).trans (congrArg _ hn)⟩
  · intro e target unit bits s s1 s2 hs1 hs2
    subst hs1 hs2
    exact ⟨fun henable => (exec_rasInjectArm ..).trans (congrArg _ (effRasInjectArm_of_open henable)),
      fun henable => (exec_rasInjectArm ..).trans (congrArg _ (effRasInjectArm_of_closed henable))⟩
  · intro e target unit s s1 s2 hs1 hphase hfatal
    subst hs1
    exact ⟨fun hbusy => (exec_rasBistGo ..).trans (congrArg _ (effRasBistGo_of_busy hphase hfatal hbusy)),
      fun hidle hok hs2 => (exec_rasBistGo ..).trans (congrArg _ (effRasBistGo_of_idle hphase hfatal hidle hok hs2))⟩
  · intro e target unit fails failed s s1 s2 hs1 hasked hs2
    subst hs1
    exact ⟨_, (exec_bistDone ..).trans (congrArg _ (effBistDone_of_asked fails hasked hs2)), bistReport_bist .., get_bistReport_busy ..,
      get_bistReport_pass .., get_bistReport_fails .., bistReport_beside ..⟩

end Sys2Proof.Machine
end

section
/-! PROOF. Extension programs are loaded, enabled, disabled and run (R261 to R265). -/

namespace Sys2Proof.Machine

open Sys2Proof

theorem exec_extLoad (e : Env) (p : Nat) (s : State) : exec (.extLoad e p) s = .next (effExtLoad (s.enter e) p) := rfl

theorem exec_extEnable (e : Env) (p : Nat) (s : State) : exec (.extEnable e p) s = .next (effExtEnable (s.enter e) p) := rfl

theorem exec_extDisable (e : Env) (p : Nat) (s : State) : exec (.extDisable e p) s = .next (effExtDisable (s.enter e) p) := rfl

theorem exec_sealNote (e : Env) (p : Nat) (s : State) : exec (.sealNote e p) s = .next (effSealNote (s.enter e) p) := rfl

theorem exec_timer (e : Env) (p : Nat) (s : State) : exec (.timer e p) s = .next (effTimer (s.enter e) p) := rfl

theorem ext_setExt_same (s : State) (p : Nat) (x : Ext) : (s.setExt p x).ext p = x := Table.getD_set_same _ _ _ _

section
variable {s : State} {p : Nat} {b : Bytes} (hp : p < 128) (hstate : (s.ext p).state = 0) (hserves : s.serves = true)
  (hread : s.busRead (memKey 0 ((s.ext p).addr / 64 * 64)) (s.ext p).len = .ok b)
include hp hstate hserves hread

/-- R262: an image whose header and signature hold is loaded. -/
theorem effExtLoad_of_signed {k : Nat} (hlen : 64 ≤ (s.ext p).len) (hheader : extHeaderOk b (s.ext p).len = true)
    (hkey : s.sec.extKey = some k) (hsigned : Config.sigOk k (b.take (xSigOff b + 104)) = true) :
    effExtLoad s p = s.setExt p { s.ext p with
      state := 2, err := 0, faults := 0, hooks := xHooks b, timerMs := xTimer b, budget := xBudget b
      image := b.take (xSigOff b + 104), notes := [] } := by
  simp only [effExtLoad, Nat.not_le.mpr hp, hstate, hserves, hread, Nat.not_lt.mpr hlen, hheader, hkey, hsigned, bne_self_eq_false,
    decide_false, Bool.not_true, Bool.or_self, Bool.false_eq_true, if_false]

theorem effExtLoad_of_badHeader (hheader : extHeaderOk b (s.ext p).len = false) :
    effExtLoad s p = s.setExt p { s.ext p with err := 1 } := by
  simp only [effExtLoad, Nat.not_le.mpr hp, hstate, hserves, hread, hheader, bne_self_eq_false, decide_false, Bool.not_true, Bool.not_false,
    Bool.or_self, Bool.or_true, Bool.false_eq_true, if_false, if_true]

end

section
variable {s : State} {p : Nat} (hstate : (s.ext p).state = 2)
include hstate

theorem effExtEnable_of_confidential (hchm : s.on F.PART_SEC_CFG_CHM_ALLOW p = true) :
    effExtEnable s p = s.setExt p { s.ext p with err := 5 } := by
  simp only [effExtEnable, hstate, hchm, bne_self_eq_false, Bool.false_eq_true, if_false, if_true]

theorem effExtEnable_of_full (hchm : s.on F.PART_SEC_CFG_CHM_ALLOW p = false)
    (hfull : s.extCores ≤ s.exts.countP (fun (y : Nat × Ext) => y.2.state == 3)) :
    effExtEnable s p = s.setExt p { s.ext p with err := 3 } := by
  simp only [effExtEnable, hstate, hchm, ge_iff_le, hfull, bne_self_eq_false, Bool.false_eq_true, if_false, if_true]

/-- R262: an extension is enabled on a core that is free. -/
theorem effExtEnable_of_free (hchm : s.on F.PART_SEC_CFG_CHM_ALLOW p = false)
    (hfree : s.exts.countP (fun (y : Nat × Ext) => y.2.state == 3) < s.extCores) :
    effExtEnable s p = s.setExt p { s.ext p with state := 3, err := 0, lastTimer := s.time } := by
  simp only [effExtEnable, hstate, hchm, Nat.not_le.mpr hfree, bne_self_eq_false, Bool.false_eq_true, if_false]

end

/-- R263: SEAL_NOTE runs on the oldest note, with the chunk's record. -/
theorem effSealNote_of_note {s s2 : State} {p qi n : Nat} {rest : List (Nat × Nat)} {c : Chunk} (hhook : s.extHook p 1 = true)
    (hserves : s.serves = true) (hcores : s.extCores ≠ 0) (hnotes : (s.ext p).notes = (qi, n) :: rest)
    (hs2 : s2 = s.setExt p { s.ext p with notes := rest }) (hchunk : (s2.seq qi).chunks.find? (fun c => c.number == n) = some c) :
    effSealNote s p = (s2.extInvoke p ((chunkRecord c).map (fun b => b.toNat))).2 := by
  subst hs2
  simp only [effSealNote, hhook, hserves, hcores, hnotes, hchunk, decide_false, Bool.not_true, Bool.or_self, Bool.false_eq_true, if_false]

theorem effTimer_of_due {s : State} {p : Nat} (hhook : s.extHook p 2 = true) (hserves : s.serves = true) (hcores : s.extCores ≠ 0)
    (hdue : (s.ext p).lastTimer + (s.ext p).timerMs * 1000000 ≤ s.time) :
    effTimer s p = ((s.setExt p { s.ext p with lastTimer := (s.ext p).lastTimer + (s.ext p).timerMs * 1000000 }).extInvoke p []).2 := by
  simp only [effTimer, hhook, hserves, hcores, Nat.not_lt.mpr hdue, decide_false, Bool.not_true, Bool.or_self, Bool.false_eq_true, if_false]

/-- Settles O46: each command of an extension by its state, each hook by its conditions. -/
theorem extensionsLoadAndRun : Obligations.ExtensionsLoadAndRun := by
  refine ⟨?_, ?_, ?_, ?_⟩
  · intro e p s s1 b k hs1 hp hstate hserves hread
    subst hs1
    refine ⟨?_, fun hheader => (exec_extLoad ..).trans (congrArg _ (effExtLoad_of_badHeader hp hstate hserves hread hheader))⟩
    intro hlen hheader hkey hsigned
    refine ⟨_, (exec_extLoad ..).trans (congrArg _ (effExtLoad_of_signed hp hstate hserves hread hlen hheader hkey hsigned)), ?_⟩
    rw [ext_setExt_same]
    exact ⟨rfl, rfl, rfl, rfl, rfl, rfl, rfl⟩
  · intro e p s s1 hs1
    subst hs1
    exact ⟨fun hstate hchm => (exec_extEnable ..).trans (congrArg _ (effExtEnable_of_confidential hstate hchm)),
      fun hstate hchm hfull => (exec_extEnable ..).trans (congrArg _ (effExtEnable_of_full hstate hchm hfull)),
      fun hstate hchm hfree => (exec_extEnable ..).trans (congrArg _ (effExtEnable_of_free hstate hchm hfree)),
      fun hstate => (exec_extDisable ..).trans (congrArg _ (if_neg hstate))⟩
  · intro e p qi n rest c s s1 s2 hs1 hhook hserves hcores hnotes hs2 hchunk
    subst hs1
    exact (exec_sealNote ..).trans (congrArg _ (effSealNote_of_note hhook hserves hcores hnotes hs2 hchunk))
  · intro e p s s1 hs1 hhook hserves hcores hdue
    subst hs1
    exact (exec_timer ..).trans (congrArg _ (effTimer_of_due hhook hserves hcores hdue))

end Sys2Proof.Machine
end

section
/-! PROOF. Key rotation and retirement (R431). -/

namespace Sys2Proof.Machine

open Sys2Proof

theorem exec_keyRotate (e : Env) (p : Nat) (s : State) : exec (.keyRotate e p) s = .next (effKeyRotate (s.enter e) p) := rfl

theorem exec_keyRetired (e : Env) (p : Nat) (s : State) : exec (.keyRetired e p) s = .next (effKeyRetired (s.enter e) p) := rfl

section
variable {s : State} {p : Nat} (hp : p < 128) (hserves : s.serves = true)
include hp hserves

/-- R431, item 1: a partition that is not active is refused with code 1. -/
theorem effKeyRotate_of_inactive (hpart : s.partActive p = false) : effKeyRotate s p = s.put F.SEC_KEY_STATUS_ERR 1 := by
  simp only [effKeyRotate, Nat.not_le.mpr hp, hserves, hpart, decide_false, Bool.not_true, Bool.not_false, Bool.or_self, Bool.false_eq_true,
    if_false, if_true]

variable (hpart : s.partActive p = true)
include hpart

/-- R431, item 1: users of the other slot refuse the rotation with code 2. -/
theorem effKeyRotate_of_used (hused : s.otherKeyUsers p ≠ 0) : effKeyRotate s p = s.put F.SEC_KEY_STATUS_ERR 2 := by
  simp only [effKeyRotate, Nat.not_le.mpr hp, hserves, hpart, bne_iff_ne, ne_eq, hused, not_false_eq_true, decide_false, Bool.not_true,
    Bool.or_self, Bool.false_eq_true, if_false, if_true]

variable (hunused : s.otherKeyUsers p = 0)
include hunused

/-- R431, item 1: a read-only flash tier refuses the rotation with code 3. -/
theorem effKeyRotate_of_readOnly (hflash : s.flashState = 3) : effKeyRotate s p = s.put F.SEC_KEY_STATUS_ERR 3 := by
  simp only [effKeyRotate, Nat.not_le.mpr hp, hserves, hpart, hunused, hflash, bne_self_eq_false, decide_false, Bool.not_true, Bool.or_self,
    Bool.false_eq_true, if_false, if_true]

/-- R431: the fresh key set is current under the next epoch, and the old one waits in the other slot. -/
theorem effKeyRotate_of_ok {s2 : State} {x : Part} (hflash : s.flashState ≠ 3) (hx : x = s.parts.getD p {})
    (hs2 : s2 = ({ s with parts := s.parts.set p { x with
      keys := x.keys.filter (fun (k : Nat × Nat) => k.1 == (s.keyEpoch p).toNat), sweep := true } } : State).drawKey p (s.keyEpoch p + 1)) :
    effKeyRotate s p = (((s2.put F.PART_KEY_STATUS_OTHER_EPOCH (s.keyEpoch p).toNat p).put F.PART_KEY_STATUS_OTHER_LOADED 1 p).put
      F.PART_KEY_STATUS_CURRENT_EPOCH (s.keyEpoch p + 1).toNat p).writeAnchor p := by
  subst hs2 hx
  simp only [effKeyRotate, Nat.not_le.mpr hp, hserves, hpart, hunused, hflash, bne_self_eq_false, decide_false, Bool.not_true, Bool.or_self,
    Bool.false_eq_true, if_false]

end

/-- R431: a slot whose users are gone is retired. -/
theorem effKeyRetired_of_unused {s s2 : State} {p : Nat} {x : Part} (hloaded : s.on F.PART_KEY_STATUS_OTHER_LOADED p = true)
    (hunused : s.otherKeyUsers p = 0) (hx : x = s.parts.getD p {})
    (hs2 : s2 = { s with parts := s.parts.set p { x with
      keys := x.keys.filter (fun (k : Nat × Nat) => k.1 == (s.keyEpoch p).toNat), sweep := false } }) :
    effKeyRetired s p = ((s2.put F.PART_KEY_STATUS_OTHER_LOADED 0 p).writeAnchor p).security 8 p := by
  subst hs2 hx
  simp only [effKeyRetired, hloaded, hunused, bne_self_eq_false, Bool.not_true, Bool.or_self, Bool.false_eq_true, if_false]

/-- Settles O47: the refusals of a rotation in their order, then the rotation and the retirement. -/
theorem keysRotateAndRetire : Obligations.KeysRotateAndRetire := by
  refine ⟨?_, ?_⟩
  · intro e p s s1 hs1 hp hserves
    subst hs1
    rw [exec_keyRotate]
    exact ⟨fun hpart => congrArg _ (effKeyRotate_of_inactive hp hserves hpart),
      fun hpart hused => congrArg _ (effKeyRotate_of_used hp hserves hpart hused),
      fun hpart hunused hflash => congrArg _ (effKeyRotate_of_readOnly hp hserves hpart hunused hflash),
      fun s2 x hpart hunused hflash hx hs2 => congrArg _ (effKeyRotate_of_ok hp hserves hpart hunused hflash hx hs2)⟩
  · intro e p s s1 s2 x hs1 hloaded hunused hx hs2
    subst hs1
    exact (exec_keyRetired ..).trans (congrArg _ (effKeyRetired_of_unused hloaded hunused hx hs2))

end Sys2Proof.Machine
end

section
/-! PROOF. Sessions, IDE streams and confidential interfaces (R432 to R435). -/

namespace Sys2Proof.Machine

open Sys2Proof

theorem exec_keyExchange (e : Env) (fn : Nat) (s : State) : exec (.keyExchange e fn) s = .next (effKeyExchange (s.enter e) fn) := rfl

theorem exec_ideKm (e : Env) (fn : Nat) (stream : Option Nat) (op : Nat) (s : State) :
    exec (.ideKm e fn stream op) s = .next (effIdeKm (s.enter e) fn stream op) := rfl

theorem exec_lockInterfaceRequest (e : Env) (p stream : Nat) (s : State) :
    exec (.lockInterfaceRequest e p stream) s = .next (effLockInterface (s.enter e) p stream) := rfl

theorem exec_chmBind (e : Env) (p start : Nat) (s : State) : exec (.chmBind e p start) s = .next (effChmBind (s.enter e) p start) := rfl

theorem exec_startInterfaceRequest (e : Env) (p : Nat) (s : State) :
    exec (.startInterfaceRequest e p) s = .next (effStartInterface (s.enter e) p) := rfl

theorem exec_stopInterfaceRequest (e : Env) (p cause : Nat) (s : State) :
    exec (.stopInterfaceRequest e p cause) s = .next (effStopInterface (s.enter e) p cause) := rfl

/-! ### Sessions and streams (R432, R433) -/

theorem effKeyExchange_of_doe {s : State} {fn : Nat} (hkeep : s.boot.keep = true) (hdoe : s.hasDoe fn = true) :
    effKeyExchange s fn = ({ s with sec := { s.sec with sessions := fn :: s.sec.sessions.filter (· != fn) } }).reply 2 .ok :=
  if_neg (by simp [hkeep, hdoe])

theorem effKeyExchange_of_noDoe {s : State} {fn : Nat} (hdoe : s.hasDoe fn = false) : effKeyExchange s fn = s.reply 2 .accessDenied :=
  if_pos (by simp [hdoe])

theorem effIdeKm_of_noSession {s : State} {fn : Nat} (stream : Option Nat) (op : Nat) (hsession : s.sec.sessions.contains fn = false) :
    effIdeKm s fn stream op = s.reply 3 .accessDenied := by
  simp only [effIdeKm, hsession, Bool.not_false, Bool.true_or, if_true]

section
variable {s : State} {fn : Nat} (hsession : s.sec.sessions.contains fn = true) (hfn : fn ≠ mgmtPort)
include hsession hfn

theorem effIdeKm_link : effIdeKm s fn none 0 = ({ s with sec := { s.sec with linkIde := true } }).reply 3 .ok := by
  simp only [effIdeKm, hsession, hfn, decide_false, Bool.not_true, Bool.or_self, Bool.false_eq_true, if_false]

/-- R433: a selective stream starts in the session of its function. -/
theorem effIdeKm_start {k : Nat} (hk : k < 64) (hfree : s.sec.streams.get? k = none) :
    effIdeKm s fn (some k) 0 = ({ s with sec := { s.sec with streams := s.sec.streams.set k fn } }).reply 3 .ok := by
  simp only [effIdeKm, hsession, hfn, Nat.not_le.mpr hk, hfree, Option.isSome_none, Bool.false_and, decide_false, Bool.not_true,
    Bool.or_self, Bool.false_eq_true, if_false]

variable {k op : Nat} {s2 : State} (hown : s.sec.streams.get? k = some fn)
  (hs2 : s2 = { s with sec := { s.sec with streams := s.sec.streams.erase k } }) (hop : 2 ≤ op)
include hown hs2 hop

/-- R434: a selective stream that stops takes confidential host mode with it where the interface is bound to it. -/
theorem effIdeKm_stop : effIdeKm s fn (some k) op
    = (if s2.tdi fn != 0 && (s2.chms.getD fn {}).stream = k then s2.endChm fn 3 else s2).reply 3 .ok := by
  obtain ⟨n, rfl⟩ := Nat.exists_eq_add_of_le' hop
  subst hs2
  simp only [effIdeKm, hsession, hfn, hown, bne_self_eq_false, decide_false, Bool.not_true, Bool.or_self, Bool.false_eq_true, if_false]
  rfl

theorem effIdeKm_stop_bound (htdi : s2.tdi fn ≠ 0) (hstream : (s2.chms.getD fn {}).stream = k) :
    effIdeKm s fn (some k) op = (s2.endChm fn 3).reply 3 .ok := by
  rw [effIdeKm_stop hsession hfn hown hs2 hop, if_pos]
  simp [htdi, hstream]

theorem effIdeKm_stop_unbound (htdi : s2.tdi fn = 0) : effIdeKm s fn (some k) op = s2.reply 3 .ok := by
  rw [effIdeKm_stop hsession hfn hown hs2 hop, if_neg]
  simp [htdi]

end

/-! ### Interfaces (R433 to R435) -/

/-- An interface locked on a stream, before the answer. -/
def State.lockChm (s : State) (p stream : Nat) : State :=
  ({ s with chms := s.chms.set p { (s.chms.getD p {}) with stream := stream, locked := true, bound := false } }).put
    F.PART_CHM_STATUS_TDI_STATE 1 p

theorem effLockInterface_of_ok {s : State} {p stream : Nat} (hzero : p ≠ 0) (hp : p < 128) (hvf : s.vfEnabled p = true)
    (hallow : s.on F.PART_SEC_CFG_CHM_ALLOW p = true) (hsession : s.sec.sessions.contains p = true)
    (hstream : s.sec.streams.get? stream = some p) (htdi : s.tdi p = 0) :
    effLockInterface s p stream = (s.lockChm p stream).reply 4 .ok := by
  have hok : (p != 0 && decide (p < 128) && s.vfEnabled p && s.on F.PART_SEC_CFG_CHM_ALLOW p && s.sec.sessions.contains p
      && s.sec.streams.get? stream == some p && s.tdi p == 0) = true := by
    rw [hvf, hallow, hsession, hstream, htdi]
    simp [hzero, hp]
  simp only [effLockInterface, hok, Bool.not_true, Bool.false_eq_true, if_false]
  rfl

theorem tdi_lockChm (s : State) (p stream : Nat) : (s.lockChm p stream).tdi p = 1 :=
  get_put _ _ _ _ _ (by decide) (by decide) (by decide)

theorem chm_lockChm (s : State) (p stream : Nat) :
    (s.lockChm p stream).chms.getD p {} = { (s.chms.getD p {}) with stream := stream, locked := true, bound := false } :=
  Table.getD_set_same _ _ _ _

theorem lockChm_beside (s : State) (p stream kind : Nat) (st : Status) (body : List Nat) :
    { (s.lockChm p stream).reply kind st body with chms := s.chms, regs := s.regs, out := s.out } = s := rfl

theorem tdi_reply (s : State) (p kind : Nat) (st : Status) (body : List Nat) : (s.reply kind st body).tdi p = s.tdi p := rfl

/-- R435: a new pair of keys from a start sequence on, one previous pair kept. -/
def Chm.rebound (c : Chm) (start : Nat) : Chm :=
  { c with bound := true, epoch := c.epoch + 1, start := start % 2 ^ 64, prevEpoch := if c.bound then some c.epoch else none }

/-- An interface bound to new keys, before the answer. -/
def State.bindChm (s : State) (p start : Nat) : State :=
  ({ s with chms := s.chms.set p ((s.chms.getD p {}).rebound start) }).put F.PART_CHM_STATUS_CHM_EPOCH
    (((s.chms.getD p {}).rebound start).epoch % 256) p

theorem effChmBind_of_locked {s : State} {p : Nat} (start : Nat) (hsession : s.sec.sessions.contains p = true)
    (htdi : s.tdi p = 1 ∨ s.tdi p = 2) :
    effChmBind s p start = (s.bindChm p start).reply 5 .ok [((s.chms.getD p {}).rebound start).epoch % 256] := by
  have hstate : (s.tdi p == 1 || s.tdi p == 2) = true := by rcases htdi with h | h <;> rw [h] <;> rfl
  simp only [effChmBind, hsession, hstate, Bool.not_true, Bool.or_self, Bool.false_eq_true, if_false]
  rfl

theorem chm_bindChm (s : State) (p start : Nat) : (s.bindChm p start).chms.getD p {} = (s.chms.getD p {}).rebound start :=
  Table.getD_set_same _ _ _ _

theorem tdi_bindChm (s : State) (p start : Nat) : (s.bindChm p start).tdi p = s.tdi p := get_put_apart _ _ _ _ _ _ _ _ (by decide)

theorem bindChm_beside (s : State) (p start kind : Nat) (st : Status) (body : List Nat) :
    { (s.bindChm p start).reply kind st body with chms := s.chms, regs := s.regs, out := s.out } = s := rfl

theorem effStartInterface_of_bound {s : State} {p : Nat} (htdi : s.tdi p = 1) (hbound : (s.chms.getD p {}).bound = true) :
    effStartInterface s p = ((s.put F.PART_CHM_STATUS_TDI_STATE 2 p).put F.PART_CHM_STATUS_ACTIVE 1 p).reply 6 .ok := by
  simp only [effStartInterface, htdi, hbound, bne_self_eq_false, Bool.not_true, Bool.or_self, Bool.false_eq_true, if_false]

theorem effStartInterface_of_other {s : State} {p : Nat} (htdi : s.tdi p ≠ 1) : effStartInterface s p = s.reply 6 .accessDenied :=
  if_pos (by simp [htdi])

/-- R434: the request ends confidential host mode, and every other cause leaves the interface in ERROR. -/
theorem effStopInterface_of_locked {s : State} {p : Nat} (hp : p < 128) (htdi : s.tdi p ≠ 0) :
    effStopInterface s p 0 = (s.endChm p 0).reply 7 .ok ∧ effStopInterface s p 1 = s.endChm p 3
      ∧ effStopInterface s p 2 = ({ s with sec := { s.sec with sessions := s.sec.sessions.filter (· != p) } }).endChm p 3
      ∧ effStopInterface s p 3 = ({ s with sec := { s.sec with streams := s.sec.streams.erase (s.chms.getD p {}).stream } }).endChm p 3 := by
  simp only [effStopInterface, htdi, Nat.not_le.mpr hp, decide_false, Bool.or_self, Bool.false_eq_true, if_false, and_self]

theorem effStopInterface_of_unlocked {s : State} {p : Nat} (cause : Nat) (htdi : s.tdi p = 0) : effStopInterface s p cause = s := by
  simp only [effStopInterface, htdi, decide_true, Bool.true_or, if_true]

/-- Settles O48: sessions and streams by their conditions, an interface by what each request leaves of its record and its state. -/
theorem sessionsStreamsAndInterfaces : Obligations.SessionsStreamsAndInterfaces := by
  refine ⟨?_, ?_, ?_, ?_, ?_, ?_⟩
  · intro e fn s s1 hs1 hkeep
    subst hs1
    exact ⟨fun hdoe => (exec_keyExchange ..).trans (congrArg _ (effKeyExchange_of_doe hkeep hdoe)),
      fun hdoe => (exec_keyExchange ..).trans (congrArg _ (effKeyExchange_of_noDoe hdoe))⟩
  · intro e fn k op stream s s1 hs1
    subst hs1
    refine ⟨fun hsession => (exec_ideKm ..).trans (congrArg _ (effIdeKm_of_noSession stream op hsession)),
      fun hsession hfn hk hfree => (exec_ideKm ..).trans (congrArg _ (effIdeKm_start hsession hfn hk hfree)),
      fun hsession hfn => (exec_ideKm ..).trans (congrArg _ (effIdeKm_link hsession hfn)), ?_⟩
    intro s2 hsession hfn hown hs2 hop
    exact ⟨fun htdi hstream => (exec_ideKm ..).trans (congrArg _ (effIdeKm_stop_bound hsession hfn hown hs2 hop htdi hstream)),
      fun htdi => (exec_ideKm ..).trans (congrArg _ (effIdeKm_stop_unbound hsession hfn hown hs2 hop htdi))⟩
  · intro e p stream s s1 hs1 hzero hp hvf hallow hsession hstream htdi
    subst hs1
    have hchm := chm_lockChm (s.enter e) p stream
    exact ⟨_, (exec_lockInterfaceRequest ..).trans (congrArg _ (effLockInterface_of_ok hzero hp hvf hallow hsession hstream htdi)),
      (tdi_reply ..).trans (tdi_lockChm ..), congrArg Chm.stream hchm, congrArg Chm.locked hchm, congrArg Chm.bound hchm, rfl,
      lockChm_beside ..⟩
  · intro e p start s s1 hs1 hsession htdi
    subst hs1
    have hchm := chm_bindChm (s.enter e) p start
    exact ⟨_, (exec_chmBind ..).trans (congrArg _ (effChmBind_of_locked start hsession htdi)), congrArg Chm.bound hchm,
      congrArg Chm.start hchm, congrArg Chm.epoch hchm, congrArg Chm.prevEpoch hchm, (tdi_reply ..).trans (tdi_bindChm ..),
      bindChm_beside ..⟩
  · intro e p s s1 hs1
    subst hs1
    exact ⟨fun htdi hbound => (exec_startInterfaceRequest ..).trans (congrArg _ (effStartInterface_of_bound htdi hbound)),
      fun htdi => (exec_startInterfaceRequest ..).trans (congrArg _ (effStartInterface_of_other htdi))⟩
  · intro e p s s1 hs1 hp
    subst hs1
    refine ⟨fun htdi => ?_, fun htdi => (exec_stopInterfaceRequest ..).trans (congrArg _ (effStopInterface_of_unlocked 0 htdi))⟩
    obtain ⟨hrequest, herror, hsession, hstream⟩ := effStopInterface_of_locked hp htdi
    exact ⟨(exec_stopInterfaceRequest ..).trans (congrArg _ hrequest), (exec_stopInterfaceRequest ..).trans (congrArg _ herror),
      (exec_stopInterfaceRequest ..).trans (congrArg _ hsession), (exec_stopInterfaceRequest ..).trans (congrArg _ hstream)⟩

end Sys2Proof.Machine
end

section
/-! PROOF. Provisioning messages, measurements and firmware updates (R442 to R444, R464). -/

namespace Sys2Proof.Machine

open Sys2Proof

theorem exec_claim (e : Env) (fn root extKey : Nat) (authentic : Bool) (s : State) :
    exec (.claim e fn root extKey authentic) s = .next (effClaim (s.enter e) fn root extKey authentic) := rfl

theorem exec_setFleet (e : Env) (secret : Nat) (chained : Bool) (s : State) :
    exec (.setFleet e secret chained) s = .next (effSetFleet (s.enter e) secret chained) := rfl

theorem exec_setExtKey (e : Env) (key : Nat) (chained : Bool) (s : State) :
    exec (.setExtKey e key chained) s = .next (effSetExtKey (s.enter e) key chained) := rfl

theorem exec_setCak (e : Env) (subPort key : Nat) (chained : Bool) (s : State) :
    exec (.setCak e subPort key chained) s = .next (effSetCak (s.enter e) subPort key chained) := rfl

theorem exec_debugUnlock (e : Env) (facility : Nat) (signed : Bool) (s : State) :
    exec (.debugUnlock e facility signed) s = .next (effDebugUnlock (s.enter e) facility signed) := rfl

theorem exec_decommission (e : Env) (chained : Bool) (s : State) :
    exec (.decommission e chained) s = .next (effDecommission (s.enter e) chained) := rfl

theorem exec_spdmGetMeasurements (e : Env) (fn i : Nat) (s : State) :
    exec (.spdmGetMeasurements e fn i) s = .next (effSpdmGetMeasurements (s.enter e) fn i) := rfl

theorem exec_pldmFirmwareUpdate (e : Env) (image : Nat) (verified : Bool) (s : State) :
    exec (.pldmFirmwareUpdate e image verified) s = .next (effPldmFirmwareUpdate (s.enter e) image verified) := rfl

/-- R444: CLAIM of an unprovisioned device needs a mutually authenticated session, and no more. -/
theorem effClaim_of_authentic {s : State} {fn : Nat} (root extKey : Nat) (hkeep : s.boot.keep = true) (hroot : s.sec.root = none)
    (hsession : s.sec.sessions.contains fn = true) :
    effClaim s fn root extKey true = ({ s with sec := { s.sec with root := some root, extKey := some extKey } }).reply 8 .ok := by
  simp only [effClaim, State.provisioned, hkeep, hroot, hsession, Option.isSome_none, Bool.not_true, Bool.or_self, Bool.false_eq_true,
    if_false]

theorem effClaim_of_unauthentic (s : State) (fn root extKey : Nat) : effClaim s fn root extKey false = s.reply 8 .accessDenied :=
  if_pos (by simp)

/-! ### Messages in a session that chains to the operator root -/

section
variable {s : State} (hsession : s.opSession true = true)
include hsession

theorem effSetFleet_of_session (secret : Nat) (hfree : s.allFree = true) (hring : s.get F.RING_STATUS_STATE = 0) :
    effSetFleet s secret true = ({ s with fleet := some secret }).reply 9 .ok := if_neg (by simp [hsession, hfree, hring])

theorem effSetExtKey_of_session (key : Nat) :
    effSetExtKey s key true = ({ s with sec := { s.sec with extKey := some key } }).reply 10 .ok := if_neg (by simp [hsession])

theorem effSetCak_of_session {port : Nat} (key : Nat) (hport : port < 16) (hoff : s.on F.NET_PORT_CFG_ENABLE (port / 4) = false) :
    effSetCak s port key true = ({ s with sec := { s.sec with caks := s.sec.caks.set port key } }).reply 11 .ok :=
  if_neg (by simp [hsession, hport, hoff])

theorem effDebugUnlock_of_session {facility : Nat} (hfacility : facility ≤ 1) :
    effDebugUnlock s facility true = ((s.setDebug (if facility = 0 then 0 else 3)).security 6 0).reply 12 .ok :=
  if_neg (by simp [hsession, hfacility])

theorem effDecommission_of_session (hfree : s.allFree = true) : effDecommission s true
    = ({ s with fleet := none, sec := { s.sec with root := none, caks := [], anchor := [] } }).reply 13 .ok :=
  if_neg (by simp [hsession, hfree])

end

/-! ### No message has an effect without such a session -/

theorem opSession_unchained (s : State) : s.opSession false = false := by simp [State.opSession]

theorem effSetFleet_unchained (s : State) (secret : Nat) : effSetFleet s secret false = s.reply 9 .accessDenied :=
  if_pos (by simp [opSession_unchained])

theorem effSetExtKey_unchained (s : State) (key : Nat) : effSetExtKey s key false = s.reply 10 .accessDenied :=
  if_pos (by simp [opSession_unchained])

theorem effSetCak_unchained (s : State) (port key : Nat) : effSetCak s port key false = s.reply 11 .accessDenied :=
  if_pos (by simp [opSession_unchained])

theorem effDebugUnlock_unchained (s : State) (facility : Nat) : effDebugUnlock s facility false = s.reply 12 .accessDenied :=
  if_pos (by simp [opSession_unchained])

theorem effDecommission_unchained (s : State) : effDecommission s false = s.reply 13 .accessDenied :=
  if_pos (by simp [opSession_unchained])

/-! ### Measurements and updates (R442, R464) -/

theorem effSpdmGetMeasurements_of_block {s : State} {fn i : Nat} {b : Bytes} (hkeep : s.boot.keep = true) (hdoe : s.hasDoe fn = true)
    (hblock : s.measured i = some b) : effSpdmGetMeasurements s fn i = s.reply 1 .ok (i :: (sha384 b).map (fun b => b.toNat)) := by
  have hdigest : s.digest i = some (sha384 b) := by rw [State.digest, hblock, Option.map_some]
  simp only [effSpdmGetMeasurements, hkeep, hdoe, hdigest, Bool.not_true, Bool.or_self, Bool.false_eq_true, if_false]

/-- R464: verified images are taken in recovery. -/
theorem effPldmFirmwareUpdate_of_recovery {s s2 : State} {image : Nat} (haon : s.boot.aon = true) (htrip : s.cupola.tripped = false)
    (hphase : s.phase = 5) (hs2 : s2 = { s with boot := { s.boot with
      held := true, area := s.boot.area || s.flash.perCh != 0, version := image, nextVersion := image } }) :
    effPldmFirmwareUpdate s image true = (s2.put F.GLB_BOOT_STATUS_PHASE 0).put F.GLB_BOOT_STATUS_FAIL_CODE 0 := by
  subst hs2
  simp only [effPldmFirmwareUpdate, haon, htrip, hphase, Bool.not_true, Bool.or_self, Bool.false_eq_true, if_false, if_true]

theorem effPldmFirmwareUpdate_unverified (s : State) (image : Nat) : effPldmFirmwareUpdate s image false = s := by
  simp only [effPldmFirmwareUpdate, Bool.not_false, Bool.or_true, Bool.true_or, if_true]

/-- Settles O49: each message with the session that it needs, and without it. -/
theorem theOperatorProvisionsTheDevice : Obligations.TheOperatorProvisionsTheDevice := by
  refine ⟨?_, ?_, ?_, ?_, ?_⟩
  · intro e fn root key s s1 hs1 hkeep hroot hsession
    subst hs1
    exact ⟨(exec_claim ..).trans (congrArg _ (effClaim_of_authentic root key hkeep hroot hsession)),
      (exec_claim ..).trans (congrArg _ (effClaim_of_unauthentic ..))⟩
  · intro e key port s s1 hs1 hsession
    subst hs1
    exact ⟨fun hfree hring => (exec_setFleet ..).trans (congrArg _ (effSetFleet_of_session hsession key hfree hring)),
      (exec_setExtKey ..).trans (congrArg _ (effSetExtKey_of_session hsession key)),
      fun hport hoff => (exec_setCak ..).trans (congrArg _ (effSetCak_of_session hsession key hport hoff)),
      (exec_debugUnlock ..).trans (congrArg _ (effDebugUnlock_of_session hsession (Nat.zero_le 1))),
      (exec_debugUnlock ..).trans (congrArg _ (effDebugUnlock_of_session hsession (Nat.le_refl 1))),
      fun hfree => (exec_decommission ..).trans (congrArg _ (effDecommission_of_session hsession hfree))⟩
  · intro e key port s s1 hs1
    subst hs1
    exact ⟨(exec_setFleet ..).trans (congrArg _ (effSetFleet_unchained ..)), (exec_setExtKey ..).trans (congrArg _ (effSetExtKey_unchained ..)),
      (exec_setCak ..).trans (congrArg _ (effSetCak_unchained ..)), (exec_debugUnlock ..).trans (congrArg _ (effDebugUnlock_unchained ..)),
      (exec_decommission ..).trans (congrArg _ (effDecommission_unchained ..))⟩
  · intro e fn i s s1 b hs1 hkeep hdoe hblock
    subst hs1
    exact (exec_spdmGetMeasurements ..).trans (congrArg _ (effSpdmGetMeasurements_of_block hkeep hdoe hblock))
  · intro e image s s1 s2 hs1 haon htrip hphase hs2
    subst hs1
    exact ⟨(exec_pldmFirmwareUpdate ..).trans (congrArg _ (effPldmFirmwareUpdate_of_recovery haon htrip hphase hs2)),
      (exec_pldmFirmwareUpdate ..).trans (congrArg _ (effPldmFirmwareUpdate_unverified ..))⟩

end Sys2Proof.Machine
end

section
/-! PROOF. Power domains go on and off, and the stacks into and out of self-refresh (R449 to R452). -/

namespace Sys2Proof.Machine

open Sys2Proof

theorem exec_pdOn (e : Env) (d : Nat) (w : Bool) (s : State) : exec (.pdOn e d w) s = .next (effPdOn (s.enter e) d w) := rfl

theorem exec_pdPoweredOn (e : Env) (d : Nat) (s : State) : exec (.pdPoweredOn e d) s = .next (effPdPoweredOn (s.enter e) d) := rfl

theorem exec_pdDrainDone (e : Env) (d : Nat) (s : State) : exec (.pdDrainDone e d) s = .next (effPdDrainDone (s.enter e) d) := rfl

theorem exec_hbmSrEnter (e : Env) (s : State) : exec (.hbmSrEnter e) s = .next (effHbmSrEnter (s.enter e)) := rfl

theorem exec_hbmSrExit (e : Env) (s : State) : exec (.hbmSrExit e) s = .next (effHbmSrExit (s.enter e)) := rfl

/-- A domain that is not one of the stacks'. -/
theorem stackDomain_false {d : Nat} (h : ¬ (64 ≤ d ∧ d < 72)) : (decide (64 ≤ d) && decide (d < 72)) = false := by
  simpa using h

section
variable {s : State} {d : Nat} (hd : d < 92) (hup : s.pdUp = true)
include hd hup

/-! ### Switching on (R449, R451) -/

theorem effPdOn_of_denied (w : Bool) (hdenied : 64 ≤ d ∧ d < 72 ∨ (s.pd d).state = 5) : effPdOn s d w = s.pdResult d .accessDenied := by
  have hrefused : (decide (64 ≤ d) && decide (d < 72) || decide ((s.pd d).state = 5)) = true := by simpa using hdenied
  simp only [effPdOn, Nat.not_le.mpr hd, hup, hrefused, decide_false, Bool.not_true, Bool.or_self, Bool.false_eq_true, if_false, if_true]

variable (hstack : ¬ (64 ≤ d ∧ d < 72))
include hstack

theorem effPdOn_of_on (w : Bool) (hstate : (s.pd d).state = 2) : effPdOn s d w = s.pdResult d .ok := by
  simp [effPdOn, Nat.not_le.mpr hd, hup, stackDomain_false hstack, hstate]

/-- R451: a domain that drains is busy, and WAIT_FREE holds the request. -/
theorem effPdOn_of_draining (w : Bool) (hstate : (s.pd d).state = 3) (hheld : (s.pd d).held = false) :
    effPdOn s d w = if w then s.setPd d { s.pd d with held := true } else s.pdResult d .busyTeardown := by
  simp [effPdOn, Nat.not_le.mpr hd, hup, stackDomain_false hstack, hstate, hheld]

/-- R454: a domain that is OFF comes on where its reserve fits the budget. -/
theorem effPdOn_of_off (w : Bool) (hstate : (s.pd d).state = 0) (hheld : (s.pd d).held = false) :
    effPdOn s d w = if s.reserveMw + domainMw d + s.cupola.refreshMw > s.budgetMw then s.pdResult d .quotaExceeded
      else s.setPd d { s.pd d with state := 1 } := by
  simp [effPdOn, Nat.not_le.mpr hd, hup, stackDomain_false hstack, hstate, hheld]

/-! ### Switching off (R450) -/

theorem effPdOff_of_off (hstate : (s.pd d).state = 0) : effPdOff s d = s.pdResult d .ok := by
  simp [effPdOff, Nat.not_le.mpr hd, hup, stackDomain_false hstack, hstate]

theorem effPdOff_of_on (hstate : (s.pd d).state = 2) :
    effPdOff s d = if s.offRefused d then s.pdResult d .busyTeardown else (s.setPd d { s.pd d with state := 3 }).domainDrain d := by
  simp [effPdOff, Nat.not_le.mpr hd, hup, stackDomain_false hstack, hstate]

theorem effPdOff_of_draining (hstate : (s.pd d).state = 3) : effPdOff s d = s.setPd d { s.pd d with held := false } := by
  simp [effPdOff, Nat.not_le.mpr hd, hup, stackDomain_false hstack, hstate]

end

theorem effPdOff_of_stack {s : State} {d : Nat} (hd : d < 92) (hup : s.pdUp = true) (hlow : 64 ≤ d) (hhigh : d < 72) :
    effPdOff s d = s.pdResult d .accessDenied := by
  simp only [effPdOff, Nat.not_le.mpr hd, hup, hlow, hhigh, decide_true, decide_false, Bool.not_true, Bool.or_self, Bool.and_self,
    Bool.false_eq_true, if_false, if_true]

theorem effPdPoweredOn_of_switching {s : State} {d : Nat} (hd : d < 92) (hstate : (s.pd d).state = 1) (htrip : s.cupola.tripped = false) :
    effPdPoweredOn s d = ((s.setPd d { s.pd d with state := 2 }).domainStart d).pdResult d .ok := by
  simp only [effPdPoweredOn, Nat.not_le.mpr hd, hstate, htrip, bne_self_eq_false, decide_false, Bool.or_self, Bool.false_eq_true, if_false]

/-- R450: a domain that has drained goes OFF, and a held request to switch it on follows. -/
theorem effPdDrainDone_of_drained {s s2 : State} {d : Nat} (hd : d < 92) (hstate : (s.pd d).state = 3) (hdrained : s.domainDrained d = true)
    (hs2 : s2 = ((s.setPd d { s.pd d with state := 0, held := false }).domainGone d).pdResult d .ok) :
    effPdDrainDone s d = if (s.pd d).held then effPdOn s2 d false else s2 := by
  subst hs2
  simp only [effPdDrainDone, Nat.not_le.mpr hd, hstate, hdrained, bne_self_eq_false, decide_false, Bool.not_true, Bool.or_self,
    Bool.false_eq_true, if_false]

/-! ### Self-refresh (R452) -/

section
variable {s : State} (hup : s.pdUp = true) (hawake : s.inSr = false)
include hup hawake

theorem effHbmSrEnter_of_used (hused : ∃ d ∈ srDomains, (s.pd d).state ≠ 0) : effHbmSrEnter s = s.put F.CUPOLA_HBM_STATUS_ERR 1 := by
  have hany : srDomains.any (fun d => (s.pd d).state != 0) = true := by
    obtain ⟨d, hd, hon⟩ := hused
    exact List.any_eq_true.mpr ⟨d, hd, by simpa using hon⟩
  simp only [effHbmSrEnter, hup, hawake, hany, Bool.not_true, Bool.or_self, Bool.false_eq_true, if_false, if_true]

theorem effHbmSrEnter_of_off (hoff : ∀ d ∈ srDomains, (s.pd d).state = 0) :
    effHbmSrEnter s = ((s.put F.CUPOLA_HBM_CTL_SR 1).put F.CUPOLA_HBM_STATUS_IN_SR 1).stacksTo 0 := by
  have hany : srDomains.any (fun d => (s.pd d).state != 0) = false := by
    rw [List.any_eq_false]
    intro d hd
    simp [hoff d hd]
  simp only [effHbmSrEnter, hup, hawake, hany, Bool.not_true, Bool.or_self, Bool.false_eq_true, if_false]

end

theorem effHbmSrExit_of_asleep {s : State} (hasleep : s.inSr = true) (htrip : s.cupola.tripped = false) :
    effHbmSrExit s = ((s.put F.CUPOLA_HBM_CTL_SR 0).put F.CUPOLA_HBM_STATUS_IN_SR 0).stacksTo 2 := by
  simp only [effHbmSrExit, hasleep, htrip, Bool.not_true, Bool.or_self, Bool.false_eq_true, if_false]

/-- Settles O50: each request by the state of its domain. -/
theorem domainsPowerOnAndOff : Obligations.DomainsPowerOnAndOff := by
  refine ⟨?_, ?_, ?_, ?_, ?_, ?_⟩
  · intro e d w s s1 hs1 hd hup
    subst hs1
    refine ⟨fun hdenied => (exec_pdOn ..).trans (congrArg _ (effPdOn_of_denied hd hup w hdenied)), fun hstack => ⟨?_, ?_, ?_, ?_⟩⟩
    · exact fun hstate => (exec_pdOn ..).trans (congrArg _ (effPdOn_of_on hd hup hstack w hstate))
    · intro hstate hheld
      rw [exec_pdOn, effPdOn_of_draining hd hup hstack false hstate hheld, if_neg Bool.false_ne_true, exec_pdOn,
        effPdOn_of_draining hd hup hstack true hstate hheld, if_pos rfl]
      exact ⟨rfl, rfl⟩
    · intro hstate hheld hover
      rw [exec_pdOn, effPdOn_of_off hd hup hstack w hstate hheld, if_pos hover]
    · intro hstate hheld hfits
      rw [exec_pdOn, effPdOn_of_off hd hup hstack w hstate hheld, if_neg (Nat.not_lt.mpr hfits)]
  · intro e d s s1 hs1 hd hstate htrip
    subst hs1
    exact (exec_pdPoweredOn ..).trans (congrArg _ (effPdPoweredOn_of_switching hd hstate htrip))
  · intro e d s s1 hs1 hd hup
    subst hs1
    refine ⟨fun hlow hhigh => (exec_pdOff ..).trans (congrArg _ (effPdOff_of_stack hd hup hlow hhigh)), fun hstack => ⟨?_, ?_, ?_, ?_⟩⟩
    · exact fun hstate => (exec_pdOff ..).trans (congrArg _ (effPdOff_of_off hd hup hstack hstate))
    · intro hstate hrefused
      rw [exec_pdOff, effPdOff_of_on hd hup hstack hstate, if_pos hrefused]
    · intro hstate hfree
      rw [exec_pdOff, effPdOff_of_on hd hup hstack hstate, if_neg (by simp [hfree])]
    · exact fun hstate => (exec_pdOff ..).trans (congrArg _ (effPdOff_of_draining hd hup hstack hstate))
  · intro e d s s1 s2 hs1 hd hstate hdrained hs2
    subst hs1
    rw [exec_pdDrainDone, effPdDrainDone_of_drained hd hstate hdrained hs2]
    exact ⟨fun hheld => congrArg _ (if_neg (by simp [hheld])), fun hheld => congrArg _ (if_pos hheld)⟩
  · intro e s s1 hs1 hup hawake
    subst hs1
    exact ⟨fun hused => (exec_hbmSrEnter ..).trans (congrArg _ (effHbmSrEnter_of_used hup hawake hused)),
      fun hoff => (exec_hbmSrEnter ..).trans (congrArg _ (effHbmSrEnter_of_off hup hawake hoff))⟩
  · intro e s s1 hs1 hasleep htrip
    subst hs1
    exact (exec_hbmSrExit ..).trans (congrArg _ (effHbmSrExit_of_asleep hasleep htrip))

end Sys2Proof.Machine
end

section
/-! PROOF. The epoch of the Cupola arbiter stays within its budget (R453, R456, R457). -/

namespace Sys2Proof.Machine

open Sys2Proof

theorem exec_cupolaEpoch (e : Env) (refresh : List Nat) (codec lantern : List (Nat × Nat)) (canopy : List Nat) (s : State) :
    exec (.cupolaEpoch e refresh codec lantern canopy) s = .next (effCupolaEpoch (s.enter e) refresh codec lantern canopy) := rfl

/-- The state with the waiting budget in its register, and the budget still waiting. -/
def State.budgetPut (s : State) : State :=
  match s.cupola.budget with
  | some w => s.put F.CUPOLA_BUDGET_WATTS w
  | none => s

theorem takeBudget_eq (s : State) : s.takeBudget = { s.budgetPut with cupola := { s.cupola with budget := none } } := by
  unfold State.takeBudget State.budgetPut
  cases h : s.cupola.budget with
  | some w => rfl
  | none => simp only [← h]

/-! ### What an epoch reads does not depend on the arbiter's own state -/

theorem reserveMw_withCupola (s : State) (c : Cupola) : ({ s with cupola := c } : State).reserveMw = s.reserveMw := rfl

theorem refreshDue_withCupola (s : State) (c : Cupola) (due : List Nat) : ({ s with cupola := c } : State).refreshDue due = s.refreshDue due := rfl

theorem powerRequests_withCupola (s : State) (c : Cupola) (codec lantern : List (Nat × Nat)) (canopy : List Nat) :
    ({ s with cupola := c } : State).powerRequests codec lantern canopy = s.powerRequests codec lantern canopy := rfl

theorem get_withCupola (s : State) (c : Cupola) (f : Fld) (i : Nat) : ({ s with cupola := c } : State).get f i = s.get f i := rfl

/-- Settles O51: the waiting budget comes into force, what the grants may take is what the reserve and the refresh leave of it, and the
grants made fit that (`epochGrants_fits`); the registers and Spires noted afterwards leave the arbiter alone (`starveNote_cup`). -/
theorem everyEpochStaysWithinTheBudget : Obligations.EveryEpochStaysWithinTheBudget := by
  intro e refresh canopy codec lantern s s1 s2 hs1 hup hs2
  subst hs1
  replace hs2 : s2 = (s.enter e).budgetPut := hs2
  have hcore : ({ s2 with cupola := { (s.enter e).cupola with budget := none } } : State).cupola.coreMa = (s.enter e).cupola.coreMa := rfl
  refine ⟨_, exec_cupolaEpoch .., ?_⟩
  rw [effCupolaEpoch, hup, Bool.not_true, if_neg Bool.false_ne_true, takeBudget_eq, ← hs2]
  generalize hs3 : ({ s2 with cupola := { (s.enter e).cupola with budget := none } } : State) = s3 at *
  have hreserve : s3.reserveMw = s2.reserveMw := hs3 ▸ reserveMw_withCupola ..
  have hrefresh : s3.refreshDue refresh = s2.refreshDue refresh := hs3 ▸ refreshDue_withCupola ..
  have hreqs : s3.powerRequests codec lantern canopy = s2.powerRequests codec lantern canopy := hs3 ▸ powerRequests_withCupola ..
  have hwatts : s3.get F.CUPOLA_BUDGET_WATTS = s2.get F.CUPOLA_BUDGET_WATTS := hs3 ▸ get_withCupola ..
  have hslew : s3.get F.CUPOLA_SLEW_A_PER_US = s2.get F.CUPOLA_SLEW_A_PER_US := hs3 ▸ get_withCupola ..
  have hnone : s3.cupola.budget = none := hs3 ▸ rfl
  obtain ⟨hmw, hma, hmem⟩ := epochGrants_fits s3 (s3.refreshDue refresh) (s3.powerRequests codec lantern canopy)
  dsimp only
  generalize s3.epochGrants _ _ = g at *
  obtain ⟨hbudget, hgrants, hcurrent⟩ := starveNote_cup s3 (s3.refreshDue refresh) (s3.powerRequests codec lantern canopy) g.1 g.2.1 g.2.2
  rw [hgrants, hcurrent, hbudget]
  rw [State.epochMw, hreserve, hrefresh, hwatts] at hmw
  rw [State.epochMa, hcore, hslew] at hma
  refine ⟨hnone, fun h => ?_, fun h => ?_, rfl, ?_, ?_⟩
  · omega
  · omega
  · omega
  · rw [hreqs] at hmem
    exact hmem

end Sys2Proof.Machine
end

section
/-! PROOF. Budget writes, thermal stages and the trip (R457, R459 to R461). -/

namespace Sys2Proof.Machine

open Sys2Proof

theorem exec_cupolaBudgetWrite (e : Env) (w : Nat) (s : State) :
    exec (.cupolaBudgetWrite e w) s = .next (effCupolaBudgetWrite (s.enter e) w) := rfl

theorem exec_thermalSample (e : Env) (n temp : Nat) (s : State) :
    exec (.thermalSample e n temp) s = .next (effThermalSample (s.enter e) n temp) := rfl

theorem exec_thermalTrip (e : Env) (n : Nat) (s : State) : exec (.thermalTrip e n) s = .next (effThermalTrip (s.enter e) n) := rfl

/-! ### The budget (R457) -/

section
variable {s : State} {w : Nat}

theorem effCupolaBudgetWrite_of_range (hw : w < 300 ∨ 780 < w) : effCupolaBudgetWrite s w = s := by
  refine if_pos ?_
  simp only [Bool.or_eq_true, decide_eq_true_eq, gt_iff_lt, or_assoc]
  exact .inr hw

theorem effCupolaBudgetWrite_of_inRange (hup : s.pdUp = true) (hlow : 300 ≤ w) (hhigh : w ≤ 780) :
    effCupolaBudgetWrite s w = if 1000 * w < s.reserveMw + s.cupola.refreshMw then (s.put F.CUPOLA_STATUS_BUDGET_ERR 1).raise gPower 1
      else { s with cupola := { s.cupola with budget := some w } } := by
  refine if_neg ?_
  simp only [hup, Nat.not_lt.mpr hlow, Nat.not_lt.mpr hhigh, Bool.not_true, decide_false, Bool.or_self, Bool.false_eq_true, not_false_eq_true]

end

/-! ### The stage at a temperature (R459) -/

theorem stageAfter_of_hot {old temp : Nat} (h : temp ≥ 104) : stageAfter old temp = 3 := by
  simp [stageAfter, stageTemp, h]

theorem stageAfter_of_cool {old temp : Nat} (h : temp ≤ 96) : stageAfter old temp = 0 := by
  have h3 : ¬ 104 ≤ temp := by omega
  have h2 : ¬ 101 ≤ temp := by omega
  have h1 : ¬ 98 ≤ temp := by omega
  have k3 : ¬ 104 < temp + 2 := by omega
  have k2 : ¬ 101 < temp + 2 := by omega
  have k1 : ¬ 98 < temp + 2 := by omega
  simp [stageAfter, stageTemp, h1, h2, h3, k1, k2, k3]

/-- From stage 0 the thresholds alone count. -/
theorem stageAfter_zero (temp : Nat) : stageAfter 0 temp = if 104 ≤ temp then 3 else if 101 ≤ temp then 2 else if 98 ≤ temp then 1 else 0 := by
  simp only [stageAfter, stageTemp, List.find?, Nat.le_zero_eq, Nat.succ_ne_zero, decide_false, Bool.false_and, Bool.or_false, ge_iff_le]
  split <;> rename_i h3
  · simp [of_decide_eq_true h3]
  · rw [if_neg (of_decide_eq_false h3)]
    split <;> rename_i h2
    · simp [of_decide_eq_true h2]
    · rw [if_neg (of_decide_eq_false h2)]
      split <;> rename_i h1
      · simp [of_decide_eq_true h1]
      · simp [of_decide_eq_false h1]

/-! ### A sample (R459 to R461) -/

/-- The stage that a sample of `t` degrees gives the sensor `n`. -/
def State.sampleStage (s : State) (n t : Nat) : Nat := if n < 10 then stageAfter (s.sensorStage n) t else 0

/-- A sample noted: the sensor's registers, its Grove's Spires where the stage changed, and the junction. -/
def State.sampled (s : State) (n t st : Nat) : State :=
  let s2 := ((s.put F.THERM_SENSOR_TEMP_C t n).put F.THERM_SENSOR_STAGE st n).put F.THERM_SENSOR_MAX_C (max t (s.get F.THERM_SENSOR_MAX_C n)) n
  (if n < 8 && st != s.sensorStage n then s2.groveStage n st else s2).junction

theorem sampled_eq {s s2 : State} {n t st : Nat} (hs2 : s2 = ((s.put F.THERM_SENSOR_TEMP_C t n).put F.THERM_SENSOR_STAGE st n).put
    F.THERM_SENSOR_MAX_C (max t (s.get F.THERM_SENSOR_MAX_C n)) n) :
    s.sampled n t st = (if n < 8 ∧ st ≠ s.sensorStage n then s2.groveStage n st else s2).junction := by
  simp only [State.sampled, ← hs2, Bool.and_eq_true, decide_eq_true_eq, bne_iff_ne]

/-- The cause of a stage that rises or falls. -/
def State.stageCause (s : State) (old st : Nat) : State :=
  if st > old then s.raise gThermal 1 else if st < old then s.raise gThermal 2 else s

theorem stageCause_same (s : State) (st : Nat) : s.stageCause st st = s := by
  rw [State.stageCause, if_neg (Nat.lt_irrefl _), if_neg (Nat.lt_irrefl _)]

theorem stageCause_rise (s : State) {old st : Nat} (h : old < st) : s.stageCause old st = s.raise gThermal 1 := if_pos h

theorem stageCause_fall (s : State) {old st : Nat} (h : st < old) : s.stageCause old st = s.raise gThermal 2 := by
  rw [State.stageCause, if_neg (by omega), if_pos h]

section
variable {s : State} {n temp t st : Nat} (hn : n < 10 + s.stacks) (hup : s.boot.aon = true) (ht : t = min temp 255)
  (hst : st = s.sampleStage n t)
include hn hup ht hst

/-- A sample is noted, and what it crosses is raised. -/
theorem effThermalSample_eq : effThermalSample s n temp =
    (if decide (s.sensorTemp n < s.get F.THERM_CFG_WARN_C) && decide (t ≥ s.get F.THERM_CFG_WARN_C) then (s.sampled n t st).raise gThermal 0
      else s.sampled n t st).stageCause (s.sensorStage n) st := by
  subst hst ht
  exact if_neg (by simp [Nat.not_le.mpr hn, hup])

/-- A temperature below the warning raises nothing of it. -/
theorem effThermalSample_of_below (hbelow : t < s.get F.THERM_CFG_WARN_C) :
    effThermalSample s n temp = (s.sampled n t st).stageCause (s.sensorStage n) st := by
  rw [effThermalSample_eq hn hup ht hst, if_neg (by simp [hbelow])]

theorem effThermalSample_of_reached (hbefore : s.sensorTemp n < s.get F.THERM_CFG_WARN_C) (hnow : s.get F.THERM_CFG_WARN_C ≤ t) :
    effThermalSample s n temp = ((s.sampled n t st).raise gThermal 0).stageCause (s.sensorStage n) st := by
  rw [effThermalSample_eq hn hup ht hst, if_pos (by simp [hbefore, hnow])]

end

/-- R461: a trip is fatal, stops the Spires and leaves the ring. -/
theorem effThermalTrip_of_first {s s2 : State} {n : Nat} (hn : n < 10 + s.stacks) (hup : s.boot.aon = true)
    (htripped : s.cupola.tripped = false) (hfatal : s.on F.RAS_STATUS_FATAL = false)
    (hs2 : s2 = { s with cupola := { s.cupola with tripped := true } }) :
    effThermalTrip s n = ((((s2.setFatal).endRequests false).stopSpires).leaveNow true).raise gFatal 1 := by
  have hfatal2 : s2.on F.RAS_STATUS_FATAL = false := by subst hs2; exact hfatal
  unfold effThermalTrip
  rw [if_neg (by simp [Nat.not_le.mpr hn, hup, htripped]), ← hs2]
  dsimp only
  rw [if_neg (by simp [hfatal2])]

/-- Settles O52: a case for each outcome of a budget write, of a sample and of the first trip. -/
theorem budgetTemperatureAndTrip : Obligations.BudgetTemperatureAndTrip := by
  refine ⟨?_, ?_, ?_, ?_⟩
  · intro e w s s1 hs1 hup
    subst hs1
    refine ⟨fun h => ?_, fun hlow hhigh hmw => ?_, fun hlow hhigh hmw => ?_⟩
    · exact (exec_cupolaBudgetWrite ..).trans (congrArg _ (effCupolaBudgetWrite_of_range h))
    · exact (exec_cupolaBudgetWrite ..).trans (congrArg _ ((effCupolaBudgetWrite_of_inRange hup hlow hhigh).trans (if_pos hmw)))
    · exact (exec_cupolaBudgetWrite ..).trans
        (congrArg _ ((effCupolaBudgetWrite_of_inRange hup hlow hhigh).trans (if_neg (Nat.not_lt.mpr hmw))))
  · intro old temp
    refine ⟨stageAfter_of_hot, fun hlow hhigh => ?_, fun hlow hhigh => ?_, stageAfter_of_cool, fun h => ?_, fun h => ?_⟩
    · rw [stageAfter_zero, if_neg (by omega), if_pos hlow]
    · rw [stageAfter_zero, if_neg (by omega), if_neg (by omega), if_pos hlow]
    · subst h
      decide
    · subst h
      decide
  · intro e n temp st t s s1 s2 s3 hs1 hn hup ht hst hs2 hs3
    subst hs1
    rw [← sampled_eq hs2] at hs3
    subst hs3
    refine ⟨fun hsame hbelow => ?_, fun hrises hbelow => ?_, fun hfalls hbelow => ?_, fun hsame hbefore hnow => ?_⟩
    · rw [exec_thermalSample, effThermalSample_of_below hn hup ht hst hbelow, ← hsame, stageCause_same]
    · rw [exec_thermalSample, effThermalSample_of_below hn hup ht hst hbelow, stageCause_rise _ hrises]
    · rw [exec_thermalSample, effThermalSample_of_below hn hup ht hst hbelow, stageCause_fall _ hfalls]
    · rw [exec_thermalSample, effThermalSample_of_reached hn hup ht hst hbefore hnow, ← hsame, stageCause_same]
  · intro e n s s1 s2 hs1 hn hup htripped hfatal hs2
    subst hs1
    exact (exec_thermalTrip ..).trans (congrArg _ (effThermalTrip_of_first hn hup htripped hfatal hs2))

end Sys2Proof.Machine
end

section
/-! PROOF. The mailboxes between host software and Keep (R485, R489 to R491). -/

namespace Sys2Proof.Machine

open Sys2Proof

theorem exec_h2kSend (e : Env) (n : Nat) (sec : Bool) (half v : Nat) (s : State) :
    exec (.h2kSend e n sec half v) s = .next (effH2kSend (s.enter e) n sec half v) := rfl

theorem exec_k2hRead (e : Env) (n : Nat) (sec : Bool) (half : Nat) (s : State) :
    exec (.k2hRead e n sec half) s = .next (effK2hRead (s.enter e) n sec half) := rfl

theorem exec_keepTakeMessage (e : Env) (n : Nat) (sec : Bool) (s : State) :
    exec (.keepTakeMessage e n sec) s = .next (effKeepTakeMessage (s.enter e) n sec) := rfl

theorem exec_echo (e : Env) (n : Nat) (sec : Bool) (s : State) : exec (.echo e n sec) s = .next ((s.enter e).answer n sec 0) := rfl

theorem exec_version (e : Env) (n : Nat) (sec : Bool) (s : State) : exec (.version e n sec) s = .next ((s.enter e).answer n sec 1) := rfl

theorem exec_measure (e : Env) (n : Nat) (sec : Bool) (s : State) : exec (.measure e n sec) s = .next ((s.enter e).answer n sec 2) := rfl

theorem exec_belfryRearm (e : Env) (s : State) : exec (.belfryRearm e) s = .next (effBelfryRearm (s.enter e)) := rfl

/-! ### The host sends and reads (R489, R490) -/

theorem sendBox_of_full {s : State} {sec : Bool} {n : Nat} (v : Nat) (hfull : s.on (fH2kFull sec) n = true) :
    s.sendBox sec n v = s.put (fOverrun sec) 1 n := if_pos hfull

theorem sendBox_of_empty {s : State} {sec : Bool} {n : Nat} (v : Nat) (hempty : s.on (fH2kFull sec) n = false) :
    s.sendBox sec n v = (s.setBox sec n { s.box sec n with h2k := v }).put (fH2kFull sec) 1 n := if_neg (by simp [hempty])

section
variable {s : State} {sec : Bool} {n : Nat} (hn : n < boxCount sec) (hup : s.boxesUp = true)
include hn hup

theorem boxOpen : ¬ (decide (n ≥ boxCount sec) || !s.boxesUp) = true := by
  simp [Nat.not_le.mpr hn, hup]

/-- The first half is staged, the second sends with it, and the whole sends alone. -/
theorem effH2kSend_of_up (v : Nat) :
    effH2kSend s n sec 0 v = s.sendBox sec n (v % 2 ^ 64)
    ∧ effH2kSend s n sec 1 v = s.setBox sec n { s.box sec n with staged := v % 2 ^ 32 }
    ∧ effH2kSend s n sec 2 v = s.sendBox sec n ((s.box sec n).staged + v % 2 ^ 32 * 2 ^ 32) := by
  have hopen := boxOpen hn hup
  exact ⟨if_neg hopen, if_neg hopen, if_neg hopen⟩

/-- The first half latches the second, which empties the mailbox, as does the whole. -/
theorem effK2hRead_of_up {off : Nat} (hoff : off = (if sec then 0x10000008 else 0x3C00008) + 32 * n) :
    effK2hRead s n sec 0 = (s.emptyBox sec n).send (.readData 0 off (s.box sec n).k2h)
    ∧ effK2hRead s n sec 1 = (s.setBox sec n { s.box sec n with latched := (s.box sec n).k2h / 2 ^ 32 }).send
      (.readData 0 off ((s.box sec n).k2h % 2 ^ 32))
    ∧ effK2hRead s n sec 2 = (s.emptyBox sec n).send (.readData 0 (off + 4) (s.box sec n).latched) := by
  have hopen := boxOpen hn hup
  subst hoff
  exact ⟨if_neg hopen, if_neg hopen, if_neg hopen⟩

end

/-! ### Keep takes and answers (R490, R491) -/

theorem effKeepTakeMessage_of_full {s : State} {sec : Bool} {n : Nat} (hn : n < boxCount sec) (hkeep : s.boot.keep = true)
    (hfull : s.on (fH2kFull sec) n = true) : effKeepTakeMessage s n sec = (((s.setBox sec n { s.box sec n with
      taken := (s.box sec n).taken ++ [(s.box sec n).h2k] }).put (fH2kFull sec) 0 n).boxCause sec n true) :=
  if_neg (by simp [Nat.not_le.mpr hn, hkeep, hfull])

/-- The service that a request asks for answers it. -/
theorem answer_of_service {s : State} {sec : Bool} {n q a : Nat} {rest : List Nat} {st : Status} (hn : n < boxCount sec)
    (hkeep : s.boot.keep = true) (hempty : s.on (fK2hFull sec) n = false) (htaken : (s.box sec n).taken = q :: rest)
    (hserve : s.serve q = (st, a)) {service : Nat} (hservice : msgService q = service) :
    s.answer n sec service = ((s.setBox sec n { s.box sec n with
      taken := rest, k2h := mkMsg (msgService q) (msgToken q) st.code a }).put (fK2hFull sec) 1 n).boxCause sec n false := by
  subst hservice
  simp only [State.answer, htaken, hserve, Nat.not_le.mpr hn, hkeep, hempty, bne_self_eq_false, decide_false, Bool.not_true,
    Bool.or_self, Bool.false_and, Bool.false_eq_true, if_false]

/-! ### What the services answer (R491) -/

theorem serve_of_status {s : State} {q : Nat} (h : msgStatus q ≠ 0) : s.serve q = (.badDescriptor, 0) := if_pos (by simpa using h)

section
variable {s : State} {q : Nat} (hstatus : msgStatus q = 0)
include hstatus

theorem serve_echo (h : msgService q = 0) : s.serve q = (.ok, msgArg q) := by
  simp [State.serve, hstatus, h]

theorem serve_version (h : msgService q = 1) : s.serve q = (.ok, Config.keepVersion s.boot.version % 2 ^ 24) := by
  simp [State.serve, hstatus, h]

theorem serve_unknown (h : 2 < msgService q) : s.serve q = (.badDescriptor, 0) := by
  obtain ⟨k, hk⟩ : ∃ k, msgService q = k + 3 := ⟨msgService q - 3, by omega⟩
  simp [State.serve, hstatus, hk]

end

/-- R485: vector 0 is sent again while the device is pending. -/
theorem effBelfryRearm_of_pending {s : State} (h : s.isPending = true) : effBelfryRearm s = s.send (.msix 0 0) := if_pos h

theorem effBelfryRearm_of_quiet {s : State} (h : s.isPending = false) : effBelfryRearm s = s := if_neg (by simp [h])

/-- Settles O53: each access of the host, each step of Keep and each service, by the state of the mailbox. -/
theorem mailboxesCarryMessagesOnce : Obligations.MailboxesCarryMessagesOnce := by
  refine ⟨?_, ?_, ?_, ?_, ?_⟩
  · intro e n v sec s s1 hs1 hn hup
    subst hs1
    obtain ⟨hwhole, hlow, hhigh⟩ := effH2kSend_of_up hn hup v
    refine ⟨fun hfull => ?_, fun hempty => ⟨?_, ?_⟩, ?_⟩
    · exact (exec_h2kSend ..).trans (congrArg _ (hwhole.trans (sendBox_of_full _ hfull)))
    · exact (exec_h2kSend ..).trans (congrArg _ (hwhole.trans (sendBox_of_empty _ hempty)))
    · exact (exec_h2kSend ..).trans (congrArg _ (hhigh.trans (sendBox_of_empty _ hempty)))
    · exact (exec_h2kSend ..).trans (congrArg _ hlow)
  · intro e n off sec s s1 hs1 hn hup hoff
    subst hs1
    obtain ⟨hwhole, hlow, hhigh⟩ := effK2hRead_of_up hn hup hoff
    refine ⟨?_, ?_, ?_⟩
    · exact (exec_k2hRead ..).trans (congrArg _ hwhole)
    · exact (exec_k2hRead ..).trans (congrArg _ hlow)
    · exact (exec_k2hRead ..).trans (congrArg _ hhigh)
  · intro e n sec s s1 hs1 hn hkeep hfull
    subst hs1
    exact (exec_keepTakeMessage ..).trans (congrArg _ (effKeepTakeMessage_of_full hn hkeep hfull))
  · intro e n q a rest sec st s s1 s2 hs1 hn hkeep hempty htaken hserve hs2
    subst hs1 hs2
    refine ⟨fun h => ?_, fun h => ?_, fun h => ?_, fun hstatus => ⟨fun h => ?_, fun h => ?_, fun h => ?_⟩, fun hstatus => ?_⟩
    · exact (exec_echo ..).trans (congrArg _ (answer_of_service hn hkeep hempty htaken hserve h))
    · exact (exec_version ..).trans (congrArg _ (answer_of_service hn hkeep hempty htaken hserve h))
    · exact (exec_measure ..).trans (congrArg _ (answer_of_service hn hkeep hempty htaken hserve h))
    · exact hserve.symm.trans (serve_echo hstatus h)
    · exact hserve.symm.trans (serve_version hstatus h)
    · exact hserve.symm.trans (serve_unknown hstatus h)
    · exact hserve.symm.trans (serve_of_status hstatus)
  · intro e s s1 hs1
    subst hs1
    refine ⟨fun h => ?_, fun h => ?_⟩
    · exact (exec_belfryRearm ..).trans (congrArg _ (effBelfryRearm_of_pending h))
    · exact (exec_belfryRearm ..).trans (congrArg _ (effBelfryRearm_of_quiet h))

end Sys2Proof.Machine
end

section
/-! PROOF. Power-on, bring-up, the seal and the loss of power (R464, R466, R471, R505). -/

namespace Sys2Proof.Machine

open Sys2Proof

theorem exec_powerOn (e : Env) (hb6 : Bool) (targets : List Nat) (luns : Luns) (images : Bool) (s : State) :
    exec (.powerOn e hb6 targets luns images) s = .next (effPowerOn (s.enter e) hb6 targets luns images) := rfl

theorem exec_keepFirmwareRunning (e : Env) (s : State) :
    exec (.keepFirmwareRunning e) s = .next (effKeepFirmwareRunning (s.enter e)) := rfl

theorem exec_perstNRise (e : Env) (m sb : Bool) (id : Nat) (s : State) :
    exec (.perstNRise e m sb id) s = .next (effPerstNRise (s.enter e) m sb id) := rfl

theorem exec_memoryFillDone (e : Env) (fail : Option Nat) (fatal : Bool) (dies units : List (Nat × Nat)) (s : State) :
    exec (.memoryFillDone e fail fatal dies units) s = .next (effMemoryFillDone (s.enter e) fail fatal dies units) := rfl

theorem exec_glbSealSet (e : Env) (s : State) : exec (.glbSealSet e) s = .next (effGlbSealSet (s.enter e)) := rfl

theorem exec_powerLoss (e : Env) (s : State) : exec (.powerLoss e) s = .next (s.enter e).unpowered := rfl

/-! ### States that differ in registers and domains alone -/

/-- `t` is `s` but for its registers and its power domains. -/
def State.SameButRegsPds (s t : State) : Prop := t = { s with regs := t.regs, pds := t.pds }

namespace State.SameButRegsPds

theorem refl (s : State) : s.SameButRegsPds s := rfl

theorem trans {s t u : State} (h : s.SameButRegsPds t) (h' : t.SameButRegsPds u) : s.SameButRegsPds u := by
  unfold State.SameButRegsPds at *
  rw [h', h]

theorem put (s : State) (f : Fld) (v i j : Nat) : s.SameButRegsPds (s.put f v i j) := rfl

theorem setPd (s : State) (d : Nat) (x : Pd) : s.SameButRegsPds (s.setPd d x) := rfl

theorem foldl {α : Type} {step : State → α → State} (hstep : ∀ (s : State) (a : α), s.SameButRegsPds (step s a)) (l : List α) (s : State) :
    s.SameButRegsPds (l.foldl step s) := by
  induction l generalizing s with
  | nil => exact refl s
  | cons a l ih => exact (hstep s a).trans (ih _)

theorem setKeepDown (s : State) (v : Nat) : s.SameButRegsPds (s.setKeepDown v) :=
  (foldl (fun s n => put s F.MBX_NS_STATUS_KEEP_DOWN v n 0) _ s).trans (foldl (fun s n => put s F.MBX_SEC_STATUS_KEEP_DOWN v n 0) _ _)

theorem startMemory (s : State) : s.SameButRegsPds s.startMemory :=
  (foldl (fun s k => setPd s (64 + k) { state := 2 }) _ s).trans (put ..)

theorem bringUp (s : State) : s.SameButRegsPds s.bringUp := by
  unfold State.bringUp
  split
  · exact (put ..).trans (put ..)
  · split
    · exact startMemory s
    · exact refl s

theorem boot {s t : State} (h : s.SameButRegsPds t) : t.boot = s.boot := by rw [h]

theorem ring {s t : State} (h : s.SameButRegsPds t) : t.ring = s.ring := by rw [h]

end State.SameButRegsPds

/-! ### Bring-up (R466) -/

/-- R464: without images the device stays in recovery. -/
theorem bringUp_of_recovery {s : State} (haon : s.boot.aon = true) (hheld : s.boot.held = false) (hkeep : s.boot.keep = false) :
    s.bringUp = (s.put F.GLB_BOOT_STATUS_PHASE 5).put F.GLB_BOOT_STATUS_FAIL_CODE 1 := if_pos (by rw [haon, hheld, hkeep]; rfl)

theorem bringUp_of_start {s : State} (hkeep : s.boot.keep = true) (hperst : s.boot.perst = true) (hphase : s.phase = 0) :
    s.bringUp = s.startMemory := by
  rw [State.bringUp, if_neg (by simp [hkeep]), if_pos (by simp [hkeep, hperst, hphase])]

/-- Images held and no Keep, or memory begun: nothing follows. -/
theorem bringUp_of_waiting {s : State} (hheld : s.boot.held = true) (h : s.boot.keep = false ∨ s.phase ≠ 0) : s.bringUp = s := by
  rw [State.bringUp, if_neg (by simp [hheld]), if_neg]
  rcases h with h | h <;> simp [h]

theorem startMemory_phase (s : State) : s.startMemory.phase = 1 := get_put _ _ _ _ _ (by decide) (by decide) (by decide)

theorem reset_phase : State.reset.phase = 0 := reset_get_of_outside F.GLB_BOOT_STATUS_PHASE 0 0 (by decide)

/-! ### Power (R464, R319) -/

theorem flashKept_perCh (s : State) : s.flashKept.perCh = s.flash.perCh := by
  unfold State.flashKept
  split <;> rfl

theorem flashKept_blocks (s : State) : s.flashKept.blocks = s.flash.blocks := by
  unfold State.flashKept
  split <;> rfl

/-- R290: alike channels of LUNs that answer alike give the tier. -/
theorem flashFound_of_alike (k n id : Nat) (hn : n ≤ 32) (hpos : 0 < n) :
    flashFound (List.replicate 32 k) (List.replicate 32 (List.replicate n (some id))) = (n, id) := by
  obtain ⟨m, rfl⟩ : ∃ m, n = m + 1 := ⟨n - 1, by omega⟩
  have hhead : (List.replicate 32 (List.replicate (m + 1) (some id))).headD [] = List.replicate (m + 1) (some id) := rfl
  have hfirst : (List.replicate (m + 1) (some id)).headD none = some id := rfl
  have htarget : (List.replicate 32 k).headD 0 = k := rfl
  have hall : (decide ((List.replicate 32 k).length = 32) && (List.replicate 32 k).all (· == k)
      && decide ((List.replicate 32 (List.replicate (m + 1) (some id))).length = 32)
      && (List.replicate 32 (List.replicate (m + 1) (some id))).all (fun ch => ch.length == m + 1)
      && (List.replicate 32 (List.replicate (m + 1) (some id))).all (fun ch => ch.all (· == some id))) = true := by
    simp
  simp only [flashFound, hhead, hfirst, htarget, List.length_replicate (n := m + 1), hall, if_true, Nat.min_eq_left hn]

/-! ### Keep and PERST_N (R466) -/

theorem effKeepFirmwareRunning_of_held {s s2 : State} (haon : s.boot.aon = true) (hheld : s.boot.held = true) (hkeep : s.boot.keep = false)
    (htripped : s.cupola.tripped = false) (hs2 : s2 = ({ s with boot := { s.boot with keep := true } } : State).setKeepDown 0) :
    effKeepFirmwareRunning s = s2.bringUp := by
  subst hs2
  exact if_neg (by rw [haon, hheld, hkeep, htripped]; decide)

theorem effPerstNRise_of_low {s s2 : State} {m sb : Bool} {id : Nat} (hreset : s.resettable = true) (hperst : s.boot.perst = false)
    (hs2 : s2 = ({ s with boot := { s.boot with perst := true }, ring := { s.ring with strapMaster := m, strapStandby := sb } } : State).put
      F.RING_STATUS_RING_ID (id % 4)) : effPerstNRise s m sb id = s2.bringUp := by
  subst hs2
  exact if_neg (by rw [hreset, hperst]; decide)

/-! ### Memory (R415, R471) -/

/-- The clusters and the flash groups. -/
def fillDomains : List Nat := [48, 49, 50, 51, 52, 53, 54, 55, 80, 81, 82, 83]

/-- What filled memory leaves where no part has failed. -/
def State.memoryFilled (s : State) : State :=
  let s := fillDomains.foldl (fun (s : State) d => s.setPd d { state := 2 }) s
  ({ s with boot := { s.boot with filled := true } } : State).initFlash.put F.GLB_BOOT_STATUS_PHASE 2

section
variable {s : State} (hphase : s.phase = 1) (hkeep : s.boot.keep = true) (hfatal : s.on F.RAS_STATUS_FATAL = false)
include hphase hkeep hfatal

theorem fillAdmitted : ¬ (s.phase != 1 || !s.boot.keep || s.on F.RAS_STATUS_FATAL) = true := by
  rw [hphase, hkeep, hfatal]
  decide

theorem effMemoryFillDone_of_training (k : Nat) (fatal : Bool) (dies units : List (Nat × Nat)) :
    effMemoryFillDone s (some k) fatal dies units = (s.halt 2 k).setFatal := if_neg (fillAdmitted hphase hkeep hfatal)

theorem effMemoryFillDone_of_fatal (dies units : List (Nat × Nat)) :
    effMemoryFillDone s none true dies units = (s.halt 3 0).setFatal := by
  rw [effMemoryFillDone, if_neg (fillAdmitted hphase hkeep hfatal)]
  exact if_pos rfl

theorem effMemoryFillDone_of_filled : effMemoryFillDone s none false [] [] = s.memoryFilled := by
  rw [effMemoryFillDone, if_neg (fillAdmitted hphase hkeep hfatal)]
  dsimp only
  rw [if_neg Bool.false_ne_true, List.foldl_nil, List.foldl_nil]
  rfl

end

theorem initFlash_same (s : State) : s.SameButRegsPds s.initFlash := by
  unfold State.initFlash
  dsimp only
  exact (State.SameButRegsPds.put ..).trans ((State.SameButRegsPds.foldl (fun s ch =>
    State.SameButRegsPds.foldl (fun s d => State.SameButRegsPds.put s F.FLASH_DIE_STATUS_STATE 1 _ 0) _ s) _ _).trans
      (State.SameButRegsPds.put ..))

theorem initFlash_pds (s : State) : s.initFlash.pds = s.pds := by
  unfold State.initFlash
  dsimp only
  rw [put_pds, foldl_keeps (read := State.pds) (fun s ch => foldl_keeps (read := State.pds) (fun s d => put_pds ..) _ _), put_pds]

/-- A domain that is ON, or of a list that is switched on, is ON. -/
theorem pd_of_switchedOn {d : Nat} (l : List Nat) (s : State) (h : (s.pd d).state = 2 ∨ d ∈ l) :
    ((l.foldl (fun (s : State) d => s.setPd d { state := 2 }) s).pd d).state = 2 := by
  induction l generalizing s with
  | nil => exact h.resolve_right List.not_mem_nil
  | cons a l ih =>
    refine ih _ ?_
    by_cases hmem : d ∈ l
    · exact .inr hmem
    · refine .inl ?_
      simp only [State.pd, State.setPd, Table.getD_set]
      split
      · rfl
      · rename_i hne
        exact h.resolve_right fun hcons => (List.mem_cons.mp hcons).elim (fun heq => hne heq.symm) hmem

theorem memoryFilled_pd {d : Nat} (h : d ∈ fillDomains) (s : State) : (s.memoryFilled.pd d).state = 2 := by
  unfold State.memoryFilled
  dsimp only
  rw [State.pd, put_pds, initFlash_pds]
  exact pd_of_switchedOn fillDomains s (.inr h)

theorem memoryFilled_boot (s : State) : s.memoryFilled.boot.filled = true := by
  unfold State.memoryFilled
  dsimp only
  rw [put_boot, (initFlash_same _).boot]

theorem memoryFilled_phase (s : State) : s.memoryFilled.phase = 2 := get_put _ _ _ _ _ (by decide) (by decide) (by decide)

/-! ### The seal (R505, R506) -/

theorem effGlbSealSet_of_passed {s : State} (h : s.sealCheck = none) : effGlbSealSet s =
    ((({ s with sec := { s.sec with sealWords := s.sealPairs } } : State).put F.GLB_SEAL_SEALED 1).put F.GLB_SEAL_ERR 0).put
      F.GLB_BOOT_STATUS_PHASE 3 := by
  rw [effGlbSealSet, h]

theorem effGlbSealSet_of_failed {s : State} {code off : Nat} (h : s.sealCheck = some (code, some off)) :
    effGlbSealSet s = (s.put F.GLB_SEAL_ERR code).put F.GLB_SEAL_ERR_OFFSET off := by
  rw [effGlbSealSet, h]

theorem effGlbSealSet_of_phase {s : State} (h : s.phase ≠ 2) : effGlbSealSet s = s.put F.GLB_SEAL_ERR 1 := by
  have hcheck : s.sealCheck = some (1, none) := if_pos (by simp [h])
  rw [effGlbSealSet, hcheck]

/-! ### Power-on (R464) -/

/-- Images and flash that answers: the device waits for Keep, with what outlasts the loss of power. -/
theorem effPowerOn_of_images {s : State} {hb6 : Bool} {targets : List Nat} {luns : Luns} (hoff : s.boot.aon = false)
    (hflash : (flashFound targets luns).1 ≠ 0) :
    effPowerOn s hb6 targets luns true = { s.unpowered with
      hb6 := hb6
      boot := { aon := true, area := true, held := true, nextVersion := s.boot.nextVersion, version := s.boot.nextVersion }
      pds := resetPds hb6
      flash := { s.unpowered.flash with perCh := (flashFound targets luns).1, dieId := (flashFound targets luns).2 } } := by
  have hheld : (true && (flashFound targets luns).1 != 0) = true := by simpa using hflash
  rw [effPowerOn, hoff, if_neg Bool.false_ne_true]
  dsimp only
  rw [hheld]
  exact bringUp_of_waiting rfl (.inl rfl)

theorem effPowerOn_of_noImages {s : State} (hb6 : Bool) (targets : List Nat) (luns : Luns) (hoff : s.boot.aon = false) :
    (effPowerOn s hb6 targets luns false).boot.held = false ∧ (effPowerOn s hb6 targets luns false).phase = 5
    ∧ (effPowerOn s hb6 targets luns false).get F.GLB_BOOT_STATUS_FAIL_CODE = 1 := by
  rw [effPowerOn, hoff, if_neg Bool.false_ne_true]
  dsimp only
  rw [bringUp_of_recovery rfl rfl rfl]
  refine ⟨rfl, ?_, ?_⟩
  · exact (get_put_apart _ _ _ _ _ _ _ _ (by decide)).trans (get_put _ _ _ _ _ (by decide) (by decide) (by decide))
  · exact get_put _ _ _ _ _ (by decide) (by decide) (by decide)

/-- Settles O54: each step of power-on and bring-up by the state it begins in, and what lies outside the device outlasts its power. -/
theorem theDevicePowersOnAndComesUp : Obligations.TheDevicePowersOnAndComesUp := by
  refine ⟨?_, fun k n id hpos hn => flashFound_of_alike k n id hn hpos, ?_, ?_, ?_, ?_, ?_⟩
  · intro e hb6 targets luns s s1 hs1 hoff
    subst hs1
    refine ⟨fun hflash => ⟨_, (exec_powerOn ..).trans (congrArg _ (effPowerOn_of_images hoff hflash)), rfl, rfl, rfl, ?_, rfl, rfl, rfl, rfl,
      rfl, rfl, rfl, rfl, rfl, rfl⟩, _, exec_powerOn .., effPowerOn_of_noImages hb6 targets luns hoff⟩
    exact (get_congr rfl _ _ _).trans reset_phase
  · intro e s s1 s2 hs1 haon hheld hkeep htripped hs2
    subst hs1
    have hboot : s2.boot = { (s.enter e).boot with keep := true } := by
      subst hs2
      exact (State.SameButRegsPds.setKeepDown ..).boot
    have hkeep2 : s2.boot.keep = true := by rw [hboot]
    have hheld2 : s2.boot.held = true := by rw [hboot]; exact hheld
    refine ⟨s2.bringUp, (exec_keepFirmwareRunning ..).trans (congrArg _ (effKeepFirmwareRunning_of_held haon hheld hkeep htripped hs2)), ?_,
      fun hperst hphase => ?_, fun hphase => bringUp_of_waiting hheld2 (.inr hphase)⟩
    · rw [(State.SameButRegsPds.bringUp s2).boot, hkeep2]
    · rw [bringUp_of_start hkeep2 hperst hphase]
      exact ⟨rfl, startMemory_phase s2⟩
  · intro e m sb id s s1 s2 hs1 hreset hperst hs2
    subst hs1
    have hboot : s2.boot = { (s.enter e).boot with perst := true } := by subst hs2; rfl
    have hring : s2.ring = { (s.enter e).ring with strapMaster := m, strapStandby := sb } := by subst hs2; rfl
    have hsame := State.SameButRegsPds.bringUp s2
    refine ⟨s2.bringUp, (exec_perstNRise ..).trans (congrArg _ (effPerstNRise_of_low hreset hperst hs2)), ?_, ?_, ?_, fun hkeep hphase => ?_⟩
    · rw [hsame.boot, hboot]
    · rw [hsame.ring, hring]
    · rw [hsame.ring, hring]
    · rw [bringUp_of_start (by rw [hboot]; exact hkeep) (by rw [hboot]) hphase]
      exact ⟨rfl, startMemory_phase s2⟩
  · intro e k dies units s s1 hs1 hphase hkeep hfatal
    subst hs1
    refine ⟨?_, ?_, _, (exec_memoryFillDone ..).trans (congrArg _ (effMemoryFillDone_of_filled hphase hkeep hfatal)), memoryFilled_phase _,
      memoryFilled_boot _, fun d hlow hhigh => memoryFilled_pd ?_ _, fun d hlow hhigh => memoryFilled_pd ?_ _⟩
    · exact (exec_memoryFillDone ..).trans (congrArg _ (effMemoryFillDone_of_training hphase hkeep hfatal k false dies units))
    · exact (exec_memoryFillDone ..).trans (congrArg _ (effMemoryFillDone_of_fatal hphase hkeep hfatal dies units))
    · simp only [fillDomains, List.mem_cons, List.not_mem_nil, or_false]
      omega
    · simp only [fillDomains, List.mem_cons, List.not_mem_nil, or_false]
      omega
  · intro e s s1 hs1
    subst hs1
    refine ⟨fun h => ⟨_, (exec_glbSealSet ..).trans (congrArg _ (effGlbSealSet_of_passed h)), ?_, ?_, ?_, rfl⟩,
      fun code off h => ?_, fun h => ?_⟩
    · rw [get_put_other _ _ _ _ _ _ _ _ (by decide), get_put_apart _ _ _ _ _ _ _ _ (by decide),
        get_put _ _ _ _ _ (by decide) (by decide) (by decide)]
      rfl
    · rw [get_put_other _ _ _ _ _ _ _ _ (by decide), get_put _ _ _ _ _ (by decide) (by decide) (by decide)]
      rfl
    · exact get_put _ _ _ _ _ (by decide) (by decide) (by decide)
    · exact (exec_glbSealSet ..).trans (congrArg _ (effGlbSealSet_of_failed h))
    · exact (exec_glbSealSet ..).trans (congrArg _ (effGlbSealSet_of_phase h))
  · intro e s s1 hs1
    subst hs1
    exact ⟨_, exec_powerLoss .., rfl, (get_congr rfl _ _ _).trans reset_phase, rfl, rfl, flashKept_perCh _, flashKept_blocks _, rfl, rfl, rfl,
      rfl, rfl⟩

end Sys2Proof.Machine
end

section
/-! PROOF. What conventional and device resets clear and keep (R472 to R475). -/

namespace Sys2Proof.Machine

open Sys2Proof

theorem exec_conventionalReset (e : Env) (kind : Nat) (s : State) :
    exec (.conventionalReset e kind) s = .next (effConventionalReset (s.enter e) kind) := rfl

theorem exec_deviceReset (e : Env) (operator : Bool) (s : State) :
    exec (.deviceReset e operator) s = .next (effDeviceReset (s.enter e) operator) := rfl

/-- The registers and domains written after a reset has cleared the rest. -/
def State.afterReset (t : State) (straps cause fatal : Nat) : State :=
  let t := t.put F.RING_STATUS_RING_ID straps
  let t := (t.put F.GLB_RESET_CAUSE_LAST cause).put F.GLB_RESET_CAUSE_WAS_FATAL fatal
  let t := t.bump F.GLB_RESET_CAUSE_COUNT
  let t := t.ras.spires.foldl (fun (t : State) n => t.put F.SPIRE_CTL_OFFLINE 1 n) t
  (if t.boot.keep then t.setKeepDown 0 else t).bringUp

theorem afterReset_same (t : State) (straps cause fatal : Nat) : t.SameButRegsPds (t.afterReset straps cause fatal) := by
  have hbring : ∀ t : State, t.SameButRegsPds (if t.boot.keep then t.setKeepDown 0 else t).bringUp := fun t => by
    split
    · exact (State.SameButRegsPds.setKeepDown t 0).trans (State.SameButRegsPds.bringUp _)
    · exact State.SameButRegsPds.bringUp t
  have hhead : t.SameButRegsPds ((((t.put F.RING_STATUS_RING_ID straps).put F.GLB_RESET_CAUSE_LAST cause).put
    F.GLB_RESET_CAUSE_WAS_FATAL fatal).bump F.GLB_RESET_CAUSE_COUNT) := rfl
  exact hhead.trans ((State.SameButRegsPds.foldl (fun t n => State.SameButRegsPds.put t F.SPIRE_CTL_OFFLINE 1 n 0) _ _).trans (hbring _))

/-- Whether a reset of a cause is one of the device, which keeps the host's side. -/
def deviceCause (cause : Nat) : Bool := cause = 3 || cause = 4

/-- R473 to R475: what a reset clears, and what it keeps of the state in which flash is safe. -/
theorem resetDevice_fields {s s2 : State} (cause : Nat) (hs2 : s2 = if s.flashReadable && !s.on F.FLASH_STATUS_PF then s.flashSafe else s) :
    ∃ t0 : State, s.resetDevice cause = { t0 with regs := (s.resetDevice cause).regs, pds := (s.resetDevice cause).pds }
      ∧ t0.reqs = [] ∧ t0.insts = [] ∧ t0.leaves = [] ∧ t0.seqs = [] ∧ t0.holds = []
      ∧ t0.ctxs = [] ∧ t0.roots = [] ∧ t0.mbxNs = [] ∧ t0.time = s2.time ∧ t0.mem = s2.mem ∧ t0.fleet = s2.fleet
      ∧ t0.sec.root = s2.sec.root
      ∧ t0.sec.sessions = (if deviceCause cause then s2.sec.sessions else s2.sec.sessions.filter (· == mgmtPort))
      ∧ t0.sec.streams = (if deviceCause cause then s2.sec.streams else []) ∧ t0.sec.linkIde = (deviceCause cause && s2.sec.linkIde)
      ∧ t0.vfEnable = (deviceCause cause && s2.vfEnable) ∧ t0.numVfs = (if deviceCause cause then s2.numVfs else 0)
      ∧ t0.ras.log = s2.ras.log ∧ t0.retiredSlots = s2.retiredSlots ∧ t0.boot.keep = s2.boot.keep ∧ t0.boot.bases = []
      ∧ t0.boot.perst = (s2.boot.perst && cause != 1) ∧ t0.ring.joinPin = false ∧ t0.ring.strapMaster = s2.ring.strapMaster := by
  unfold State.resetDevice
  rw [← hs2]
  exact ⟨_, afterReset_same _ _ _ _, rfl, rfl, rfl, rfl, rfl, rfl, rfl, rfl, rfl, rfl, rfl, rfl, rfl, rfl, rfl, rfl,
    rfl, rfl, rfl, rfl, rfl, rfl, rfl, rfl⟩

/-- R472: PERST_N low, a Hot Reset and Link Disable act on a device that is powered. -/
theorem effConventionalReset_of_acting {s : State} {kind : Nat} (hreset : s.resettable = true) (hkind : kind = 1 ∨ kind = 2) :
    effConventionalReset s kind = s.resetDevice kind := by
  refine if_neg ?_
  rcases hkind with rfl | rfl <;> simp [hreset]

theorem effDeviceReset_of_acting {s : State} {op : Bool} (hreset : s.resettable = true) (hop : op = true → s.opSession true = true) :
    effDeviceReset s op = s.resetDevice (if op then 4 else 3) := by
  refine if_neg ?_
  cases op with
  | false => simp [hreset]
  | true => simp [hreset, hop rfl]

/-- Settles O55: a reset that acts is `State.resetDevice` of its cause, and a conventional one also clears the host's side. -/
theorem resetsClearAndKeep : Obligations.ResetsClearAndKeep := by
  refine ⟨?_, ?_⟩
  · intro e kind s s1 s2 hs1 hreset hs2 hkind
    subst hs1
    obtain ⟨t0, hsame, hfields⟩ := resetDevice_fields kind hs2
    have hhost : deviceCause kind = false := by rcases hkind with rfl | rfl <;> rfl
    simp only [hhost, Bool.false_and, Bool.false_eq_true, if_false] at hfields
    exact ⟨_, (exec_conventionalReset ..).trans (congrArg _ ((effConventionalReset_of_acting hreset hkind).trans hsame)), hfields⟩
  · intro e op s s1 s2 hs1 hreset hs2 hop
    subst hs1
    obtain ⟨t0, hsame, hfields⟩ := resetDevice_fields (if op then 4 else 3) hs2
    have hdevice : deviceCause (if op then 4 else 3) = true := by cases op <;> rfl
    have hpin : ((if op then 4 else 3) != 1) = true := by cases op <;> rfl
    simp only [hdevice, hpin, Bool.true_and, Bool.and_true, if_true] at hfields
    exact ⟨_, (exec_deviceReset ..).trans (congrArg _ ((effDeviceReset_of_acting hreset hop).trans hsame)), hfields⟩

end Sys2Proof.Machine
end

section
/-! PROOF. Partitions are created, enabled, torn down, drained and scrubbed (R439, R477 to R480). -/

namespace Sys2Proof.Machine

open Sys2Proof

theorem exec_partitionEnable (e : Env) (rid : Nat) (s : State) :
    exec (.partitionEnable e rid) s = .next (effPartitionEnable (s.enter e) rid) := rfl

theorem exec_partitionCreate (e : Env) (rid : Nat) (s : State) :
    exec (.partitionCreate e rid) s = .next (effPartitionCreate (s.enter e) rid) := rfl

theorem exec_partitionTeardown (e : Env) (rid : Nat) (s : State) :
    exec (.partitionTeardown e rid) s = .next (effPartitionTeardown (s.enter e) rid) := rfl

theorem exec_partitionDrainDone (e : Env) (p : Nat) (s : State) :
    exec (.partitionDrainDone e p) s = .next (effPartitionDrainDone (s.enter e) p) := rfl

theorem exec_scrubComplete (e : Env) (p : Nat) (s : State) :
    exec (.scrubComplete e p) s = .next (effScrubComplete (s.enter e) p) := rfl

/-! ### PARTITION_ENABLE (R479) -/

theorem enableNow_of_unconfigured {s : State} {p : Nat} (rid : Nat) (h : s.on F.PART_STATE_CONFIGURED p = false) :
    s.enableNow rid p = s.complete rid .notFound := if_pos (by rw [h]; rfl)

theorem enableNow_of_configured {s s2 : State} {p : Nat} (rid : Nat) (h : s.on F.PART_STATE_CONFIGURED p = true)
    (hs2 : s2 = (s.setPart p (fun x => { x with restored := false })).put F.PART_STATE_RESTORED 0 p) :
    s.enableNow rid p = (s2.setPState p 1).complete rid .ok := by
  rw [State.enableNow, h, Bool.not_true, if_neg Bool.false_ne_true, hs2]

section
variable {s : State} {rid p : Nat} {r : Req} (hr : s.startedReq? rid [0x7E] = some r) (hp : p = r.partArg)
include hr hp

theorem effPartitionEnable_of_zero (hzero : p = 0) : effPartitionEnable s rid = s.complete rid .accessDenied := by
  rw [effPartitionEnable, hr]
  exact if_pos (hp.symm.trans hzero)

theorem effPartitionEnable_of_free (hpos : p ≠ 0) (hfree : s.pstate p = 0) : effPartitionEnable s rid = s.enableNow rid p := by
  subst hp
  rw [effPartitionEnable, hr]
  dsimp only
  rw [if_neg hpos, if_pos hfree]

theorem effPartitionEnable_of_busy (hpos : p ≠ 0) (hbusy : s.pstate p ≠ 0) (hwait : r.fWaitFree = false) :
    effPartitionEnable s rid = s.complete rid .busyTeardown := by
  subst hp
  rw [effPartitionEnable, hr]
  dsimp only
  rw [if_neg hpos, if_neg hbusy, if_pos (by rw [hwait]; rfl)]

end

/-! ### PARTITION_CREATE (R477) -/

section
variable {s : State} {rid p : Nat} {r : Req} (hr : s.startedReq? rid [0x7C] = some r) (hp : p = r.partArg) (hpos : p ≠ 0)
include hr hp hpos

theorem effPartitionCreate_of_busy (hbusy : s.pstate p ≠ 0) : effPartitionCreate s rid = s.complete rid .busyTeardown := by
  subst hp
  rw [effPartitionCreate, hr]
  dsimp only
  rw [if_neg hpos, if_pos (by simpa using hbusy)]

/-- The block is read, and the rest follows from its bytes. -/
theorem effPartitionCreate_of_read {b : Bytes} (hfree : s.pstate p = 0) (hread : s.busRead (memKey r.srcSpace r.addr24) 128 = .ok b) :
    effPartitionCreate s rid = s.createFrom rid p b := by
  subst hp
  rw [effPartitionCreate, hr]
  dsimp only
  rw [if_neg hpos, if_neg (by simp [hfree]), hread]

end

section
variable {s : State} (rid : Nat) {p : Nat} {b : Bytes}

theorem createFrom_of_badFormat (hok : configOk b = false) : s.createFrom rid p b = s.complete rid .badFormat := if_pos (by rw [hok]; rfl)

theorem createFrom_of_tooLarge (hok : configOk b = true) (hfits : s.configFits p b = false) :
    s.createFrom rid p b = s.complete rid .quotaExceeded := by
  rw [State.createFrom, hok, hfits, Bool.not_true, if_neg Bool.false_ne_true]
  exact if_pos rfl

theorem createFrom_of_fresh (hok : configOk b = true) (hfits : s.configFits p b = true) (hnew : (s.parts.getD p {}).restored = false) :
    s.createFrom rid p b = ((s.createFresh p b).raisePState p).complete rid .ok := by
  rw [State.createFrom, hok, hfits, Bool.not_true, if_neg Bool.false_ne_true, if_neg Bool.false_ne_true]
  exact if_pos (by rw [hnew]; rfl)

end

/-! ### PARTITION_TEARDOWN and the drain (R480) -/

section
variable {s : State} {rid p : Nat} {r : Req} (hr : s.startedReq? rid [0x7D] = some r) (hp : p = r.partArg) (hpos : p ≠ 0)
include hr hp hpos

theorem effPartitionTeardown_of_inactive (hstate : s.pstate p ≠ 1) : effPartitionTeardown s rid = s.complete rid .busyTeardown := by
  subst hp
  rw [effPartitionTeardown, hr]
  dsimp only
  rw [if_neg hpos, if_pos (by simpa using hstate)]

theorem effPartitionTeardown_of_active (hstate : s.pstate p = 1) : effPartitionTeardown s rid =
    ((s.setPart p (fun x => { x with scrubFor := some rid })).wait rid (.teardown p)).beginDrain p := by
  subst hp
  rw [effPartitionTeardown, hr]
  dsimp only
  rw [if_neg hpos, if_neg (by simp [hstate])]

end

theorem effPartitionDrainDone_of_drained {s s2 : State} {p : Nat} (hstate : s.pstate p = 2) (hnet : s.netDrained p = (true, s2))
    (hpurge : s2.purgeOpen p = false) (hreqs : ∀ x ∈ s2.reqs, x.2.part ≠ p) (hinsts : ∀ x ∈ s2.insts, x.2.part ≠ p) :
    effPartitionDrainDone s p = (s2.dropLeases p).beginScrub p := by
  have hnoReq : s2.reqs.any (fun (x : Nat × Req) => x.2.part == p) = false := by
    rw [List.any_eq_false]
    intro x hx
    simp [hreqs x hx]
  have hnoInst : s2.insts.any (fun (x : Nat × Inst) => x.2.part == p) = false := by
    rw [List.any_eq_false]
    intro x hx
    simp [hinsts x hx]
  rw [effPartitionDrainDone, if_neg (by simp [hstate]), hnet]
  exact if_neg (by rw [hpurge, hnoReq, hnoInst]; decide)

/-! ### The scrub (R439) -/

/-- A scrubbed partition whose teardown waits, with its kept block. -/
theorem effScrubComplete_of_teardown {s s2 : State} {p rid : Nat} {b : Bytes} (hstate : s.pstate p = 3) (hdone : s.scrubbed p = true)
    (hfor : (s.parts.getD p {}).scrubFor = some rid)
    (hwaits : s.req? rid = none ∨ ∃ r, s.req? rid = some r ∧ r.wait = .teardown p) (hblock : (s.parts.getD p {}).block = some b)
    (hs2 : s2 = (s.setPart p (fun (y : Part) => { y with restored := false, scrubFor := none, frozen := [] })).put F.PART_STATE_RESTORED 0 p) :
    effScrubComplete s p = ((((({ s2.configure p b with
      classHints := (s2.configure p b).classHints.filter (fun (x : Nat × (Nat × Bool)) => x.1 / 256 != p)
    } : State).freshKeys p).setPState p 0).complete rid .ok).resumeEnable p) := by
  rw [effScrubComplete, if_neg (by simp [hstate, hdone])]
  dsimp only
  rw [← hs2, hfor, hblock, Option.bind_some]
  rcases hwaits with hgone | ⟨r, hreq, hwait⟩
  · rw [hgone]
    rfl
  · have hother : (r.wait == Wait.createScrub p) = false := by rw [hwait]; rfl
    rw [hreq]
    simp only [hother, Bool.not_false, Bool.true_or, if_true]

/-- Settles O56: each step in the life of a partition by the state it finds and, for a block, by the checks of R477. -/
theorem partitionsComeAndGo : Obligations.PartitionsComeAndGo := by
  refine ⟨?_, ?_, ?_, ?_, ?_⟩
  · intro e rid p s s1 s2 r hs1 hr hp
    subst hs1
    refine ⟨fun hzero => ?_, fun hpos hfree hconf => ?_, fun hpos hfree hconf hs2 => ?_, fun hpos hbusy hwait => ?_⟩
    · exact (exec_partitionEnable ..).trans (congrArg _ (effPartitionEnable_of_zero hr hp hzero))
    · exact (exec_partitionEnable ..).trans
        (congrArg _ ((effPartitionEnable_of_free hr hp hpos hfree).trans (enableNow_of_unconfigured rid hconf)))
    · exact (exec_partitionEnable ..).trans
        (congrArg _ ((effPartitionEnable_of_free hr hp hpos hfree).trans (enableNow_of_configured rid hconf hs2)))
    · exact (exec_partitionEnable ..).trans (congrArg _ (effPartitionEnable_of_busy hr hp hpos hbusy hwait))
  · intro e rid p s s1 r b hs1 hr hp hpos
    subst hs1
    refine ⟨fun hbusy => ?_, fun hfree hread => ?_⟩
    · exact (exec_partitionCreate ..).trans (congrArg _ (effPartitionCreate_of_busy hr hp hpos hbusy))
    · rw [exec_partitionCreate, effPartitionCreate_of_read hr hp hpos hfree hread]
      refine ⟨fun hok => ?_, fun hok hfits => ?_, fun hok hfits hnew => ?_⟩
      · rw [createFrom_of_badFormat rid hok]
      · rw [createFrom_of_tooLarge rid hok hfits]
      · rw [createFrom_of_fresh rid hok hfits hnew]
  · intro e rid p s s1 r hs1 hr hp hpos
    subst hs1
    refine ⟨fun hstate => ?_, fun hstate => ?_⟩
    · exact (exec_partitionTeardown ..).trans (congrArg _ (effPartitionTeardown_of_inactive hr hp hpos hstate))
    · exact (exec_partitionTeardown ..).trans (congrArg _ (effPartitionTeardown_of_active hr hp hpos hstate))
  · intro e p s s1 s2 hs1 hstate hnet hpurge hreqs hinsts
    subst hs1
    exact (exec_partitionDrainDone ..).trans (congrArg _ (effPartitionDrainDone_of_drained hstate hnet hpurge hreqs hinsts))
  · intro e p rid s s1 s2 b hs1 hstate hdone hfor hwaits hblock hs2
    subst hs1
    exact (exec_scrubComplete ..).trans (congrArg _ (effScrubComplete_of_teardown hstate hdone hfor hwaits hblock hs2))

end Sys2Proof.Machine
end

section
/-! PROOF. Register accesses: the access codes, the accesses that act, and the secure windows (R6, R7, R438, R484, R495). -/

namespace Sys2Proof.Machine

open Sys2Proof

theorem exec_registerWrite (e : Env) (fn bar off size : Nat) (val stream : Option Nat) (s : State) :
    exec (.registerWrite e fn bar off size val stream) s = .next (effRegisterWrite (s.enter e) fn bar off size val stream) := rfl

theorem exec_secureWindowAccess (e : Env) (fn off size : Nat) (val stream : Option Nat) (s : State) :
    exec (.secureWindowAccess e fn off size val stream) s = .next (effSecureWindowAccess (s.enter e) fn off size val stream) := rfl

theorem exec_causeClear (e : Env) (fn off val : Nat) (s : State) :
    exec (.causeClear e fn off val) s = .next (effCauseClear (s.enter e) fn off val) := rfl

/-! ### The word that a write leaves (R6) -/

/-- What a write does to one field of a word. -/
def fieldWrite (d : RegDesc) (isSealed : Bool) (keep : List Nat) (old val w : Nat) (f : Nat × Nat × Access) : Nat :=
  let was := bits old f.1 f.2.1
  let v := bits val f.1 f.2.1
  let takes := !keep.contains f.2.1 && fieldTakes d.base f.2.1 v
  match f.2.2 with
  | .rw => if takes then setBits w f.1 f.2.1 v else w
  | .lk => if takes && !isSealed then setBits w f.1 f.2.1 v else w
  | .w1c => setBits w f.1 f.2.1 (was &&& (2 ^ 32 - 1 - v))
  | .w1s => setBits w f.1 f.2.1 (was ||| v)
  | _ => w

theorem writtenWord_eq (d : RegDesc) (isSealed : Bool) (keep : List Nat) (old val : Nat) :
    writtenWord d isSealed keep old val = d.fields.foldl (fieldWrite d isSealed keep old val) old := rfl

/-- A field write sets the bits of its field or leaves the word. -/
theorem fieldWrite_cases (d : RegDesc) (isSealed : Bool) (keep : List Nat) (old val w : Nat) (f : Nat × Nat × Access) :
    fieldWrite d isSealed keep old val w f = w ∨ ∃ x, fieldWrite d isSealed keep old val w f = setBits w f.1 f.2.1 x := by
  obtain ⟨hi, lo, a⟩ := f
  cases a with
  | ro => exact .inl rfl
  | wo => exact .inl rfl
  | w1c => exact .inr ⟨_, rfl⟩
  | w1s => exact .inr ⟨_, rfl⟩
  | rw =>
    simp only [fieldWrite]
    split
    · exact .inr ⟨_, rfl⟩
    · exact .inl rfl
  | lk =>
    simp only [fieldWrite]
    split
    · exact .inr ⟨_, rfl⟩
    · exact .inl rfl

section
variable (d : RegDesc) (isSealed : Bool) (keep : List Nat) (old val : Nat)

theorem bits_fieldWrite_apart (w : Nat) {f g : Nat × Nat × Access} (hf : f.2.1 ≤ f.1) (hapart : f.1 < g.2.1 ∨ g.1 < f.2.1) :
    bits (fieldWrite d isSealed keep old val w f) g.1 g.2.1 = bits w g.1 g.2.1 := by
  rcases fieldWrite_cases d isSealed keep old val w f with h | ⟨x, h⟩
  · rw [h]
  · rw [h]
    rcases hapart with habove | hbelow
    · exact bits_setBits_above hf habove
    · exact bits_setBits_below hf hbelow

theorem bits_foldl_fieldWrite_apart {l : List (Nat × Nat × Access)} {g : Nat × Nat × Access} (w : Nat)
    (h : ∀ f ∈ l, f.2.1 ≤ f.1 ∧ (f.1 < g.2.1 ∨ g.1 < f.2.1)) :
    bits (l.foldl (fieldWrite d isSealed keep old val) w) g.1 g.2.1 = bits w g.1 g.2.1 := by
  induction l generalizing w with
  | nil => rfl
  | cons f fs ih =>
    obtain ⟨hf, hapart⟩ := h f List.mem_cons_self
    rw [List.foldl_cons, ih _ fun x hx => h x (List.mem_cons_of_mem _ hx), bits_fieldWrite_apart d isSealed keep old val w hf hapart]

end

/-- Fields that lie apart: the first in order, apart from each other one, and the rest. -/
theorem fieldsApart_cons {f : Nat × Nat × Access} {fs : List (Nat × Nat × Access)} (h : fieldsApart (f :: fs) = true) :
    f.2.1 ≤ f.1 ∧ (∀ g ∈ fs, f.1 < g.2.1 ∨ g.1 < f.2.1) ∧ fieldsApart fs = true := by
  simp only [fieldsApart, Bool.and_eq_true, List.all_eq_true, decide_eq_true_eq, Bool.or_eq_true] at h
  obtain ⟨⟨⟨hle, -⟩, hothers⟩, hrest⟩ := h
  exact ⟨hle, hothers, hrest⟩

theorem le_of_fieldsApart {l : List (Nat × Nat × Access)} (h : fieldsApart l = true) {f : Nat × Nat × Access} (hf : f ∈ l) : f.2.1 ≤ f.1 := by
  induction l with
  | nil => exact absurd hf List.not_mem_nil
  | cons g gs ih =>
    obtain ⟨hle, -, hrest⟩ := fieldsApart_cons h
    rcases List.mem_cons.mp hf with rfl | hmem
    · exact hle
    · exact ih hrest hmem

/-- Of fields that lie apart, each reads after the write as its own write leaves it. -/
theorem bits_foldl_fieldWrite (d : RegDesc) (isSealed : Bool) (keep : List Nat) (old val : Nat) {l : List (Nat × Nat × Access)}
    (hl : fieldsApart l = true) {f : Nat × Nat × Access} (hf : f ∈ l) (w : Nat) :
    ∃ w', bits w' f.1 f.2.1 = bits w f.1 f.2.1
      ∧ bits (l.foldl (fieldWrite d isSealed keep old val) w) f.1 f.2.1 = bits (fieldWrite d isSealed keep old val w' f) f.1 f.2.1 := by
  induction l generalizing w with
  | nil => exact absurd hf List.not_mem_nil
  | cons g gs ih =>
    obtain ⟨hle, hothers, hrest⟩ := fieldsApart_cons hl
    rw [List.foldl_cons]
    rcases List.mem_cons.mp hf with rfl | hmem
    · exact ⟨w, rfl, bits_foldl_fieldWrite_apart d isSealed keep old val _ fun x hx =>
        ⟨le_of_fieldsApart hrest hx, (hothers x hx).symm⟩⟩
    · obtain ⟨w', hw', heq⟩ := ih hrest hmem (fieldWrite d isSealed keep old val w g)
      exact ⟨w', hw'.trans (bits_fieldWrite_apart d isSealed keep old val w hle (hothers f hmem)), heq⟩

theorem bits_setBits_same {v hi lo x : Nat} (h : lo ≤ hi) : bits (setBits v hi lo x) hi lo = x % 2 ^ (hi + 1 - lo) :=
  (setBits_parts v h).2.1

theorem bits_setBits_bits {v u hi lo : Nat} (h : lo ≤ hi) : bits (setBits v hi lo (bits u hi lo)) hi lo = bits u hi lo := by
  rw [bits_setBits_same h, Nat.mod_eq_of_lt (bits_lt ..)]

/-! ### Accesses (R495) -/

section
variable {s : State} (hphase : s.phase ≠ 0) (hdie : s.dieWorks 0 = true)
include hphase hdie

/-- A function's access to BAR0. -/
theorem effRegisterWrite_of_bar0 {fn : Nat} (off size : Nat) (val stream : Option Nat) (hfn : fn = 0 ∨ s.vfEnabled fn = true)
    (hport : fn ≠ mgmtPort) : effRegisterWrite s fn 0 off size val stream = s.bar0 fn off size val stream := by
  have hgate : ¬ (decide (s.phase = 0) || !s.dieWorks 0) = true := by simp [hphase, hdie]
  have hvf : ¬ (fn != 0 && !s.vfEnabled fn) = true := by rcases hfn with h | h <;> simp [h]
  rw [effRegisterWrite, if_neg hgate, if_neg hport, if_neg hvf]

/-- R484: a cause register of the trees is written as any other. -/
theorem effCauseClear_of_cause {off : Nat} (val : Nat) (hcause : isCause 0 off = true) (hwindow : off ≠ 0x10000100) :
    effCauseClear s 0 off val = s.write4 0 off val none := by
  rw [effCauseClear, if_neg (by simp [hphase, hdie]), if_neg (by simp [hwindow]), if_pos hcause]

end

section
variable {s : State} {off : Nat}

/-- An access of 4 bytes at a multiple of 4. -/
theorem bar0_of_word (stream : Option Nat) (halign : off % 4 = 0) (hoff : off < 0x4000000) :
    s.bar0 0 off 4 none stream = s.readBar0 0 off 4 ∧ ∀ v, s.bar0 0 off 4 (some v) stream = s.writeBar0 0 off 4 v stream := by
  have hin : ¬ off ≥ barSize 0 := Nat.not_le.mpr hoff
  have hgood : ¬ ((4 != 4 && 4 != 8) || off % 4 != 0) = true := by simp [halign]
  exact ⟨(if_neg hin).trans (if_neg hgood), fun v => (if_neg hin).trans (if_neg hgood)⟩

theorem writeBar0_of_word (val : Nat) (stream : Option Nat) : s.writeBar0 0 off 4 val stream = s.write4 0 off val stream := by
  rw [State.writeBar0, if_neg (by simp), if_neg (by decide)]

theorem write4_of_answers (val : Nat) (stream : Option Nat) (h : s.answers off = true) :
    s.write4 0 off val stream = s.writeWord 0 off (val % 2 ^ 32) := by
  rw [State.write4, if_pos (by decide), if_pos h]

theorem write4_of_silent (val : Nat) (stream : Option Nat) (h : s.answers off = false) : s.write4 0 off val stream = s := by
  rw [State.write4, if_pos (by decide), if_neg (by simp [h])]

theorem readBar0_of_word (hoff : off < 0x3C00000) :
    s.readBar0 0 off 4 = (s.read4 0 off).2.send (.readData 0 off (s.read4 0 off).1) := by
  rw [State.readBar0, if_neg (by simp [Nat.not_le.mpr hoff])]
  rfl

end

/-- R495: an access of another size, or not at a multiple of its size, is recorded and does nothing else. -/
theorem bar0_of_bad {s : State} {fn off size : Nat} (val stream : Option Nat) (hport : fn ≠ mgmtPort) (hoff : off < barSize fn)
    (hbad : (size ≠ 4 ∧ size ≠ 8) ∨ off % size ≠ 0) : s.bar0 fn off size val stream =
      if val.isSome then s.badAccess fn 0 off val.isSome else (s.badAccess fn 0 off val.isSome).send (.readData fn off 0) := by
  have hrefused : (size != 4 && size != 8 || off % size != 0) = true := by simpa using hbad
  unfold State.bar0
  rw [if_neg (Nat.not_le.mpr hoff), if_pos hrefused, if_neg hport]

/-! ### Secure windows (R438) -/

section
variable {s : State} {fn off : Nat} (hphase : s.phase ≠ 0) (hdie : s.dieWorks 0 = true) (hfn : fn = 0 ∨ s.vfEnabled fn = true)
  (hoff : off < 0x10000)
include hphase hdie hfn hoff

theorem windowAdmitted : ¬ (decide (s.phase = 0) || !s.dieWorks 0 || fn != 0 && !s.vfEnabled fn
    || decide (off ≥ if fn = 0 then 0x100000 else 0x10000)) = true := by
  have hin : ¬ off ≥ if fn = 0 then 0x100000 else 0x10000 := by
    split <;> omega
  rw [decide_eq_false hin]
  rcases hfn with h | h <;> simp [hphase, hdie, h]

theorem effSecureWindowAccess_of_closed {stream : Option Nat} (size : Nat) (val : Option Nat) (hclosed : s.windowOpen fn stream = false) :
    effSecureWindowAccess s fn off size val stream = if val.isSome then (s.bump F.SEC_WINDOW_REFUSED_COUNT).security 4 fn
      else ((s.bump F.SEC_WINDOW_REFUSED_COUNT).security 4 fn).send (.unsupported fn off) := by
  unfold effSecureWindowAccess
  rw [if_neg (windowAdmitted hphase hdie hfn hoff), if_pos (by rw [hclosed]; rfl)]

theorem effSecureWindowAccess_of_open {stream : Option Nat} {size : Nat} (hopen : s.windowOpen fn stream = true) (hsize : size = 4 ∨ size = 8)
    (halign : off % size = 0) :
    effSecureWindowAccess s fn off size none stream = s.windowRead fn off size
    ∧ ∀ val, effSecureWindowAccess s fn off size (some val) stream = s.windowWrite fn off size val := by
  have hgood : ¬ (size != 4 && size != 8 || off % size != 0) = true := by rcases hsize with h | h <;> simp [h ▸ halign, h]
  refine ⟨?_, fun val => ?_⟩
  · rw [effSecureWindowAccess, if_neg (windowAdmitted hphase hdie hfn hoff), hopen, Bool.not_true, if_neg Bool.false_ne_true, if_neg hgood]
  · rw [effSecureWindowAccess, if_neg (windowAdmitted hphase hdie hfn hoff), hopen, Bool.not_true, if_neg Bool.false_ne_true, if_neg hgood]

end

/-- Settles O57: fields that lie apart (`regsAll_apart`) are each written by their own code, and each access by its gates. -/
theorem registersActByAccessCode : Obligations.RegistersActByAccessCode := by
  refine ⟨?_, ?_, ?_, ?_, ?_⟩
  · intro d hd f isSealed old val hf _
    have hapart := regsAll_apart d hd
    have hle := le_of_fieldsApart hapart hf
    obtain ⟨w, hw, heq⟩ := bits_foldl_fieldWrite d isSealed [] old val hapart hf old
    rw [writtenWord_eq, heq]
    obtain ⟨hi, lo, a⟩ := f
    cases a with
    | ro => exact hw
    | wo => exact hw
    | w1c => exact bits_setBits_same hle
    | w1s => exact bits_setBits_same hle
    | rw =>
      simp only [fieldWrite, List.contains_nil, Bool.not_false, Bool.true_and]
      split
      · exact bits_setBits_bits hle
      · exact hw
    | lk =>
      simp only [fieldWrite, List.contains_nil, Bool.not_false, Bool.true_and, Bool.and_eq_true, Bool.not_eq_true',
        and_comm (b := isSealed = false)]
      split
      · exact bits_setBits_bits hle
      · exact hw
  · intro e off val stream s s1 hs1 hphase hdie halign hoff
    subst hs1
    have haccess := effRegisterWrite_of_bar0 hphase hdie (fn := 0) off 4 (hfn := .inl rfl) (hport := by decide)
    obtain ⟨hread, hwrite⟩ := bar0_of_word (s := s.enter e) stream halign hoff
    refine ⟨fun h => ?_, fun h => ?_, fun h => ?_⟩
    · rw [exec_registerWrite, haccess, hwrite, writeBar0_of_word, write4_of_answers _ _ h]
    · rw [exec_registerWrite, haccess, hwrite, writeBar0_of_word, write4_of_silent _ _ h]
    · rw [exec_registerWrite, haccess, hread, readBar0_of_word h]
  · intro e fn off size val stream s s1 hs1 hphase hdie hfn hport hoff hbad
    subst hs1
    refine ⟨?_, ?_⟩
    · rw [exec_registerWrite, effRegisterWrite_of_bar0 hphase hdie _ _ _ _ hfn hport, bar0_of_bad _ _ hport hoff hbad, if_pos Option.isSome_some]
      rfl
    · rw [exec_registerWrite, effRegisterWrite_of_bar0 hphase hdie _ _ _ _ hfn hport, bar0_of_bad _ _ hport hoff hbad,
        if_neg (by decide)]
      rfl
  · intro e fn off size val stream s s1 hs1 hphase hdie hfn hoff
    subst hs1
    refine ⟨fun hclosed => ⟨?_, ?_⟩, fun hopen hsize halign => ?_⟩
    · rw [exec_secureWindowAccess, effSecureWindowAccess_of_closed hphase hdie hfn hoff _ _ hclosed, if_pos Option.isSome_some]
    · rw [exec_secureWindowAccess, effSecureWindowAccess_of_closed hphase hdie hfn hoff _ _ hclosed, if_neg (by decide)]
    · obtain ⟨hread, hwrite⟩ := effSecureWindowAccess_of_open hphase hdie hfn hoff hopen hsize halign
      exact ⟨(exec_secureWindowAccess ..).trans (congrArg _ hread), (exec_secureWindowAccess ..).trans (congrArg _ (hwrite val))⟩
  · intro e off val s s1 hs1 hphase hdie hcause hwindow
    subst hs1
    exact (exec_causeClear ..).trans (congrArg _ (effCauseClear_of_cause hphase hdie val hcause hwindow))

end Sys2Proof.Machine
end
